-- ==== Sys2Proof/Word.lean ====
section
/-! DEFINITION. Word types of the Aelzan A12 (spec 00 R5, 04 R64, 05 R83). -/

namespace Sys2Proof

/-- One byte of memory (R5). -/
abbrev Byte := BitVec 8

/-- One instruction word, one vector lane, one mask register (R64, R83). -/
abbrev Word := BitVec 32

/-- One scalar register, one system register, one address (R83, R89). -/
abbrev DWord := BitVec 64

/-- The lanes of a group (R26: level 0 is always 32 lanes). -/
abbrev Lane := Fin 32

/-- One vector register: 32 lanes of 32 bits (R83). -/
abbrev VReg := Vector Word 32

end Sys2Proof
end

