-- ==== Sys2Proof/Machine/Bits.lean ====
section
/-! DEFINITION. Bit-field, extension, byte-order and lane-mask helpers (spec 00 R5, R7). -/

namespace Sys2Proof.Machine

/-- The lane numbers in ascending order, the order of `for lane l in exec` (R7). -/
def allLanes : List Lane := List.finRange 32

/-- Bit `l` of a mask, as `exec` and the mask registers number lanes (R103). -/
def laneBit (m : Word) (l : Lane) : Bool := m.getLsbD l.val

/-- A mask with bit `l` set exactly where `f l` holds. -/
def maskOf (f : Lane → Bool) : Word :=
  allLanes.foldl (fun m l => if f l then m ||| BitVec.ofNat 32 (2 ^ l.val) else m) 0

/-- The lanes of a mask in ascending order. -/
def lanesOf (m : Word) : List Lane := allLanes.filter (laneBit m)

/-- Bits [31:0] of a scalar register. -/
def lo32 (d : DWord) : Word := d.setWidth 32

/-- Bits [63:32] of a scalar register. -/
def hi32 (d : DWord) : Word := (d >>> 32).setWidth 32

/-- Field [hi:lo] of a number, both ends included (R5). -/
def bitsOf (x hi lo : Nat) : Nat := (x >>> lo) % 2 ^ (hi + 1 - lo)

/-- A number with field [hi:lo] replaced by `v` (R5). -/
def setBits (x hi lo v : Nat) : Nat :=
  x - (bitsOf x hi lo <<< lo) + ((v % 2 ^ (hi + 1 - lo)) <<< lo)

/-- The number of one bits of a word (R98 `pop`, R143 `kpop`). -/
def popCount {w : Nat} (x : BitVec w) : Nat :=
  (List.range w).foldl (fun n i => if x.getLsbD i then n + 1 else n) 0

/-- The index of the lowest one bit, or the width where there is none (R143 `kfirst`). -/
def lowestOne {w : Nat} (x : BitVec w) : Nat :=
  ((List.range w).find? (fun i => x.getLsbD i)).getD w

/-- The number of leading zero bits, the width for 0 (R98 `clz`). -/
def leadingZeros {w : Nat} (x : BitVec w) : Nat :=
  ((List.range w).find? (fun i => x.getLsbD (w - 1 - i))).getD w

/-- Bit `i` of the result is bit `w - 1 - i` of the operand (R98 `brev`). -/
def bitReverse {w : Nat} (x : BitVec w) : BitVec w :=
  BitVec.ofNat w ((List.range w).foldl (fun n i => 2 * n + (x.getLsbD i).toNat) 0)

/-- The `n` bytes of a value, lowest address first (R5: little-endian). -/
def leBytes : Nat → Nat → List Byte
  | 0, _ => []
  | n + 1, x => BitVec.ofNat 8 x :: leBytes n (x / 256)

/-- The value whose bytes are listed lowest address first (R5). -/
def ofLeBytes : List Byte → Nat
  | [] => 0
  | b :: bs => b.toNat + 256 * ofLeBytes bs

/-- Sign extension of the low `n` bits of a number, as an integer (R7 `sext`). -/
def sextInt (n x : Nat) : Int :=
  let y := x % 2 ^ n
  if 2 * y < 2 ^ n then (y : Int) else (y : Int) - 2 ^ n

/-- An integer reduced modulo 2^w (R94). -/
def wrapInt (w : Nat) (x : Int) : BitVec w := BitVec.ofInt w x

end Sys2Proof.Machine
end

