-- ==== Sys2Proof/Machine/Flags.lean ====
section
/-! DEFINITION. The sticky flags of `fpflags` [9:0] (spec 03 R60) and the settings of the RND hint (R55, R57, R58). -/

namespace Sys2Proof.Machine

/-- A set of sticky flags, laid out as `fpflags` [9:0] (R60). -/
abbrev FpFlags := BitVec 10

def flInvalid : FpFlags := 1
def flDivzero : FpFlags := 2
def flOverflow : FpFlags := 4
def flUnderflow : FpFlags := 8
def flInexact : FpFlags := 16
def flSat : FpFlags := 32
def flNanSeen : FpFlags := 64
def flIo4Badesc : FpFlags := 128
def flScaleFloor : FpFlags := 256
def flMerr : FpFlags := 512

/-- The flag `f` where `b` holds, none otherwise. -/
def flagIf (b : Bool) (f : FpFlags) : FpFlags := if b then f else 0

/-- Rounding modes of R55, coded 0 to 4 in the RND hint (R76). -/
inductive RMode | rne | rtz | rdn | rup | sr
  deriving DecidableEq, Repr

/-- Saturation of the RND hint: default of the destination, on, off (R76, R58). -/
inductive SatSel | dflt | on | off
  deriving DecidableEq, Repr

/-- The settings of R55, R57 and R58 that a bundle carries. -/
structure Rnd where
  mode  : RMode
  flush : Bool
  sat   : SatSel
  deriving DecidableEq, Repr

/-- No RND hint: round to nearest even, no flush, the destination's own saturation (R55). -/
def Rnd.default : Rnd := ⟨.rne, false, .dflt⟩

/-- SR acts as RNE where the destination takes no stochastic rounding (R55). -/
def Rnd.noSr (c : Rnd) : Rnd := if c.mode = .sr then { c with mode := .rne } else c

/-- The mode coded by bits [2:0] of the RND payload, none where the code is illegal (R76). -/
def RMode.ofCode : Nat → Option RMode
  | 0 => some .rne
  | 1 => some .rtz
  | 2 => some .rdn
  | 3 => some .rup
  | 4 => some .sr
  | _ => none

/-- The saturation coded by bits [5:4] of the RND payload, none where the code is illegal (R76). -/
def SatSel.ofCode : Nat → Option SatSel
  | 0 => some .dflt
  | 1 => some .on
  | 2 => some .off
  | _ => none

end Sys2Proof.Machine
end

