-- ==== Sys2Proof/Machine/IntFun.lean ====
section
/-! DEFINITION. The integer functions F of spec 06 R98-R106 on words of any width. -/

namespace Sys2Proof.Machine

variable {w : Nat}

/-- `smulhi.s`: bits [2W-1:W] of the signed product (R98). -/
def mulHiS (x y : BitVec w) : BitVec w := BitVec.ofInt w (x.toInt * y.toInt / 2 ^ w)

/-- `smulhi.u`: bits [2W-1:W] of the unsigned product (R98). -/
def mulHiU (x y : BitVec w) : BitVec w := BitVec.ofNat w (x.toNat * y.toNat / 2 ^ w)

/-- Lesser under two's complement (R98). -/
def minS (x y : BitVec w) : BitVec w := if x.toInt ≤ y.toInt then x else y

/-- Lesser, unsigned (R98). -/
def minU (x y : BitVec w) : BitVec w := if x.toNat ≤ y.toNat then x else y

/-- Greater under two's complement (R98). -/
def maxS (x y : BitVec w) : BitVec w := if x.toInt ≤ y.toInt then y else x

/-- Greater, unsigned (R98). -/
def maxU (x y : BitVec w) : BitVec w := if x.toNat ≤ y.toNat then y else x

/-- Saturating signed sum and whether it clamped (R99). -/
def addsS (x y : BitVec w) : BitVec w × Bool :=
  let t := x.toInt + y.toInt
  let hi : Int := 2 ^ (w - 1) - 1
  let lo : Int := -2 ^ (w - 1)
  if hi < t then (BitVec.ofInt w hi, true)
  else if t < lo then (BitVec.ofInt w lo, true)
  else (BitVec.ofInt w t, false)

/-- Saturating unsigned sum and whether it clamped (R99). -/
def addsU (x y : BitVec w) : BitVec w × Bool :=
  let t := x.toNat + y.toNat
  if 2 ^ w ≤ t then (BitVec.ofNat w (2 ^ w - 1), true) else (BitVec.ofNat w t, false)

/-- |sgn(op)|, the most negative value giving itself (R98). -/
def absS (x : BitVec w) : BitVec w := if x.msb then -x else x

/-- Shift left by an unsigned count, 0 for a count of W or more (R101). -/
def shl (x : BitVec w) (n : Nat) : BitVec w := if n < w then x <<< n else 0

/-- Logical shift right (R101). -/
def shr (x : BitVec w) (n : Nat) : BitVec w := if n < w then x >>> n else 0

/-- Arithmetic shift right; all copies of bit W-1 for a count of W or more (R101). -/
def sar (x : BitVec w) (n : Nat) : BitVec w :=
  if n < w then x.sshiftRight n else if x.msb then BitVec.allOnes w else 0

/-- Rotate left by the count modulo W (R101). -/
def rot (x : BitVec w) (n : Nat) : BitVec w := x.rotateLeft (n % w)

/-- Position and used length of a bit field (R102). -/
def bfField (y : BitVec w) : Nat × Nat :=
  let p := y.toNat % 256
  let n := y.toNat / 256 % 256
  (p, min n (w - p))

/-- `bfe.u` (R102). -/
def bfeU (x y : BitVec w) : BitVec w :=
  let f := bfField y
  BitVec.ofNat w ((x.toNat >>> f.1) % 2 ^ f.2)

/-- `bfe.s` (R102). -/
def bfeS (x y : BitVec w) : BitVec w :=
  let f := bfField y
  if f.2 = 0 then 0 else BitVec.ofInt w (sextInt f.2 (x.toNat >>> f.1))

/-- `bfi`: z with the field replaced by the low bits of x (R102). -/
def bfi (x y z : BitVec w) : BitVec w :=
  let f := bfField y
  let m := BitVec.ofNat w ((2 ^ f.2 - 1) <<< f.1)
  (z &&& ~~~m) ||| (BitVec.ofNat w ((x.toNat % 2 ^ f.2) <<< f.1))

/-- `sunpack`, `vunpack`: the upper half, sign-extended (R98). -/
def unpackHi (x : BitVec w) : BitVec w := x.sshiftRight (w / 2)

/-- `spack`, `vpack`: lower half of y above lower half of x (R98). -/
def packLo (x y : BitVec w) : BitVec w :=
  BitVec.ofNat w (x.toNat % 2 ^ (w / 2) + (y.toNat % 2 ^ (w / 2)) * 2 ^ (w / 2))

/-- Sign extension of the low n bits (R98). -/
def extS (n : Nat) (x : BitVec w) : BitVec w := BitVec.ofInt w (sextInt n x.toNat)

/-- Zero extension of the low n bits (R98). -/
def extU (n : Nat) (x : BitVec w) : BitVec w := BitVec.ofNat w (x.toNat % 2 ^ n)

/-- The eight conditions of R103. -/
def cmpInt (cc : BitVec 3) (x y : BitVec w) : Bool :=
  match cc.toNat with
  | 0 => decide (x = y)
  | 1 => decide (x ≠ y)
  | 2 => decide (x.toInt < y.toInt)
  | 3 => decide (x.toInt ≤ y.toInt)
  | 4 => decide (y.toInt < x.toInt)
  | 5 => decide (y.toInt ≤ x.toInt)
  | 6 => decide (x.toNat < y.toNat)
  | _ => decide (y.toNat ≤ x.toNat)

/-- Signed quotient towards zero, with the two cases of R106. -/
def divS (a b : BitVec w) : BitVec w :=
  if b = 0 then BitVec.allOnes w else BitVec.ofInt w (a.toInt.tdiv b.toInt)

/-- Unsigned quotient (R106). -/
def divU (a b : BitVec w) : BitVec w :=
  if b = 0 then BitVec.allOnes w else BitVec.ofNat w (a.toNat / b.toNat)

/-- Signed remainder: a − quotient × b (R106). -/
def remS (a b : BitVec w) : BitVec w :=
  if b = 0 then a else BitVec.ofInt w (a.toInt.tmod b.toInt)

/-- Unsigned remainder (R106). -/
def remU (a b : BitVec w) : BitVec w :=
  if b = 0 then a else BitVec.ofNat w (a.toNat % b.toNat)

/-- Sum with carry in, and the carry out (R100). -/
def addCarry (x y : BitVec w) (cin : Bool) : BitVec w × Bool :=
  let t := x.toNat + y.toNat + cin.toNat
  (BitVec.ofNat w t, decide (2 ^ w ≤ t))

/-- Difference with borrow in, and the borrow out (R100). -/
def subBorrow (x y : BitVec w) (bin : Bool) : BitVec w × Bool :=
  let t : Int := x.toNat - y.toNat - bin.toNat
  (BitVec.ofInt w t, decide (t < 0))

end Sys2Proof.Machine
end

