-- ==== Sys2Proof/Machine/Number.lean ====
section
/-! DEFINITION. Number formats, the one rounding of R55-R59, and exact products and sums
(spec 03 R48-R63). Values are exact dyadic numbers. -/

namespace Sys2Proof.Machine

/-- A floating-point format of R48. -/
structure Fmt where
  expBits  : Nat
  fracBits : Nat
  bias     : Nat
  /-- E4M3: only F = 111 under E all ones is special, and it is a NaN. -/
  e4m3     : Bool
  /-- R57: the flush bit applies to FP32, FP16 and BF16 only. -/
  canFlush : Bool
  /-- R58: FP8 destinations saturate by default. -/
  satDefault : Bool
  /-- R55: stochastic rounding is for BF16, FP16 and FP8 destinations only. -/
  canSr    : Bool
  deriving DecidableEq, Repr

def fmtF32  : Fmt := ⟨8, 23, 127, false, true, false, false⟩
def fmtF16  : Fmt := ⟨5, 10, 15, false, true, false, true⟩
def fmtBf16 : Fmt := ⟨8, 7, 127, false, true, false, true⟩
def fmtE4m3 : Fmt := ⟨4, 3, 7, true, false, true, true⟩
def fmtE5m2 : Fmt := ⟨5, 2, 15, false, false, true, true⟩

/-- What a bit pattern means (R48): a NaN with its top fraction bit, an infinity, or an exact
value `(-1)^neg * m * 2^e`, with the sign of zero kept. -/
inductive FVal
  | nan (quiet : Bool)
  | inf (neg : Bool)
  | fin (neg : Bool) (m : Nat) (e : Int)
  deriving DecidableEq, Repr

/-- A result and the sticky flags it sets. -/
abbrev Flagged (α : Type) := α × FpFlags

/-- The total width of a format. -/
def fmtWidth (f : Fmt) : Nat := 1 + f.expBits + f.fracBits

/-- The value of a bit pattern (R48). -/
def fmtDecode (f : Fmt) (w : Nat) : FVal :=
  let neg := w.testBit (f.expBits + f.fracBits)
  let ee := bitsOf w (f.expBits + f.fracBits - 1) f.fracBits
  let ff := w % 2 ^ f.fracBits
  let top := 2 ^ f.expBits - 1
  if ee = 0 then .fin neg ff (1 - (f.bias : Int) - f.fracBits)
  else if ee = top ∧ f.e4m3 = false then
    if ff = 0 then .inf neg else .nan (ff.testBit (f.fracBits - 1))
  else if ee = top ∧ ff = 2 ^ f.fracBits - 1 then .nan true
  else .fin neg (2 ^ f.fracBits + ff) ((ee : Int) - f.bias - f.fracBits)

/-- A subnormal operand under the flush bit reads as zero of the same sign (R57). -/
def fmtDecodeFlush (f : Fmt) (flush : Bool) (w : Nat) : FVal :=
  match fmtDecode f w with
  | .fin neg m e =>
    if flush && f.canFlush && decide (m < 2 ^ f.fracBits) then .fin neg 0 e else .fin neg m e
  | v => v

/-- The flags of reading one operand (R49). -/
def nanFlags : FVal → FpFlags
  | .nan q => flNanSeen ||| flagIf (!q) flInvalid
  | _ => 0

/-- The canonical quiet NaN of a format (R49). -/
def canonNan (f : Fmt) : Nat :=
  if f.e4m3 then 0x7F else (2 ^ f.expBits - 1) * 2 ^ f.fracBits + 2 ^ (f.fracBits - 1)

/-- `m1 * 2^e1 < m2 * 2^e2`, compared by leading bit first so that no shift is long. -/
def dyadLt (m1 : Nat) (e1 : Int) (m2 : Nat) (e2 : Int) : Bool :=
  if m2 = 0 then false
  else if m1 = 0 then true
  else
    let l1 := (m1.log2 : Int) + e1
    let l2 := (m2.log2 : Int) + e2
    if l1 ≠ l2 then decide (l1 < l2)
    else
      let e := min e1 e2
      decide (m1 <<< (e1 - e).toNat < m2 <<< (e2 - e).toNat)

/-- `m * 2^e` rounded to a multiple of `2^q` in the given mode (R55, R59): the multiple and whether
it is inexact. `r` is st[15:0] of R59. -/
def roundAt (mode : RMode) (neg : Bool) (m : Nat) (e q : Int) (r : Nat) : Nat × Bool :=
  if q ≤ e then (m <<< (e - q).toNat, false)
  else
    let sh := (q - e).toNat
    if m.log2 + 20 < sh then
      -- the value lies below 2^-19 of the unit: no bit of it reaches the rounding position
      match mode with
      | .rne | .rtz | .sr => (0, m ≠ 0)
      | .rdn => (if neg ∧ m ≠ 0 then 1 else 0, m ≠ 0)
      | .rup => (if !neg ∧ m ≠ 0 then 1 else 0, m ≠ 0)
    else
      let n := m >>> sh
      let rem := m % 2 ^ sh
      let up : Bool := match mode with
        | .rne => decide (2 ^ sh < 2 * rem) || (decide (2 * rem = 2 ^ sh) && n % 2 == 1)
        | .rtz => false
        | .rdn => neg && rem != 0
        | .rup => !neg && rem != 0
        | .sr => decide (2 ^ 16 ≤ ((m <<< 16) >>> sh) % 2 ^ 16 + r)
      (if up then n + 1 else n, rem != 0)

/-- The magnitude bits of `n * 2^q`, which the format can represent (R48). -/
def fmtPack (f : Fmt) (n : Nat) (q : Int) : Nat :=
  let emin : Int := 1 - f.bias
  if n = 0 then 0
  else
    let k := (n.log2 : Int) + q
    if k < emin then n <<< (q - (emin - f.fracBits)).toNat
    else
      let sh := q - (k - f.fracBits)
      let sig := if 0 ≤ sh then n <<< sh.toNat else n >>> (-sh).toNat
      (k + f.bias).toNat * 2 ^ f.fracBits + (sig - 2 ^ f.fracBits)

/-- The largest finite value as `m * 2^e` (R48). -/
def fmtMax (f : Fmt) : Nat × Int :=
  if f.e4m3 then (14, 5) else (2 ^ (f.fracBits + 1) - 1, (f.bias : Int) - f.fracBits)

/-- Whether a destination saturates under the bundle's settings (R58). -/
def satOn (f : Fmt) (c : Rnd) : Bool :=
  match c.sat with
  | .on => true
  | .off => false
  | .dflt => f.satDefault

/-- The one rounding of an exact value to a format (R55-R59), with the sign bit in place.
The flags of the operands are the caller's. `r` is st[15:0] of R59. What the result flush of R57 tests is the rounded value on the
destination's own grid: the model's choice (log entry 50). -/
def fmtEncode (f : Fmt) (c : Rnd) (r : Nat) (v : FVal) : Flagged Nat :=
  match v with
  | .nan _ => (canonNan f, 0)
  | .inf neg =>
    let s := if neg then 2 ^ (f.expBits + f.fracBits) else 0
    if f.e4m3 then
      if satOn f c then (s + 0x7E, flSat) else (0x7F, 0)
    else (s + (2 ^ f.expBits - 1) * 2 ^ f.fracBits, 0)
  | .fin neg m e =>
    let s := if neg then 2 ^ (f.expBits + f.fracBits) else 0
    if m = 0 then (s, 0)
    else
      let mode := if f.canSr then c.mode else (c.noSr).mode
      let emin : Int := 1 - f.bias
      let k := (m.log2 : Int) + e
      let qu := k - f.fracBits
      let q := max k emin - f.fracBits
      let (n, inex) := roundAt mode neg m e q r
      let nu := if qu = q then n else (roundAt mode neg m e qu r).1
      let (mx, ex) := fmtMax f
      if dyadLt mx ex nu qu then
        let big := fmtPack f mx ex
        if satOn f c then (s + big, flSat ||| flInexact)
        else if f.e4m3 then (0x7F, flOverflow ||| flInexact)
        else
          let toMax : Bool := match mode with
            | .rne | .sr => false
            | .rtz => true
            | .rdn => !neg
            | .rup => neg
          (s + (if toMax then big else (2 ^ f.expBits - 1) * 2 ^ f.fracBits),
            flOverflow ||| flInexact)
      else if c.flush && f.canFlush && dyadLt n q 1 emin then (s, flUnderflow ||| flInexact)
      else
        (s + fmtPack f n q,
          flagIf inex flInexact ||| flagIf (inex && dyadLt nu qu 1 emin) flUnderflow)

/-- Rounding to nearest even, subnormals kept, saturation off: the rule of R62 and R122. -/
def rndPlain : Rnd := ⟨.rne, false, .off⟩

/-- The negation of a value. -/
def fNeg : FVal → FVal
  | .nan q => .nan q
  | .inf n => .inf (!n)
  | .fin n m e => .fin (!n) m e

/-- The absolute value. -/
def fAbs : FVal → FVal
  | .nan q => .nan q
  | .inf _ => .inf false
  | .fin _ m e => .fin false m e

/-- A value times `2^k`, exactly (R52, R112 `vfscale`). -/
def fScale (v : FVal) (k : Int) : FVal :=
  match v with
  | .fin n m e => .fin n m (e + k)
  | w => w

/-- The exact product (R49, R56): its flags are those of 0 × ∞ only, which is recognised from the
operands alone. -/
def fMul (x y : FVal) : Flagged FVal :=
  match x, y with
  | .nan q, _ => (.nan q, 0)
  | _, .nan q => (.nan q, 0)
  | .inf a, .inf b => (.inf (a != b), 0)
  | .inf a, .fin b m _ => if m = 0 then (.nan true, flInvalid) else (.inf (a != b), 0)
  | .fin a m _, .inf b => if m = 0 then (.nan true, flInvalid) else (.inf (a != b), 0)
  | .fin a m e, .fin b m' e' => (.fin (a != b) (m * m') (e + e'), 0)

/-- `m1 * 2^e1 + m2 * 2^e2` as a signed mantissa and exponent. -/
def dyadAdd (a : Int × Int) (b : Int × Int) : Int × Int :=
  if a.1 = 0 then b
  else if b.1 = 0 then a
  else
    let e := min a.2 b.2
    (a.1 * 2 ^ (a.2 - e).toNat + b.1 * 2 ^ (b.2 - e).toNat, e)

/-- Whether a term is a zero, with its sign. -/
def zeroSign : FVal → Option Bool
  | .fin n 0 _ => some n
  | _ => none

/-- The exact sum of terms (R61) with the zero sign of R56; `rdn` says the mode is RDN.
Flags: invalid where infinities of both signs are among the terms. -/
def fSum (rdn : Bool) (ts : List FVal) : Flagged FVal :=
  let isInf (n : Bool) : Bool := ts.any (fun t => decide (t = FVal.inf n))
  let bothInf := isInf true && isInf false
  let anyNan := ts.any (fun t => match t with | .nan _ => true | _ => false)
  let fl := flagIf bothInf flInvalid
  if anyNan || bothInf then (.nan true, fl)
  else if isInf false then (.inf false, fl)
  else if isInf true then (.inf true, fl)
  else
    let s := ts.foldl (fun acc t => match t with
      | .fin n m e => dyadAdd acc (if n then -(m : Int) else (m : Int), e)
      | _ => acc) ((0 : Int), (0 : Int))
    if s.1 = 0 then
      let zs := ts.map zeroSign
      if zs.all (fun z => z == some true) && !ts.isEmpty then (.fin true 0 0, fl)
      else if zs.all (fun z => z == some false) then (.fin false 0 0, fl)
      else (.fin rdn 0 0, fl)
    else (.fin (decide (s.1 < 0)) s.1.natAbs s.2, fl)

/-- Conversion of a value to an integer type of `w` bits (R58, R119): clamped with invalid and SAT,
a NaN gives 0 with invalid. -/
def fToInt (c : Rnd) (signed : Bool) (w : Nat) (v : FVal) : Flagged (BitVec w) :=
  let lo : Int := if signed then -(2 ^ (w - 1) : Int) else 0
  let hi : Int := if signed then (2 ^ (w - 1) : Int) - 1 else (2 ^ w : Int) - 1
  match v with
  | .nan _ => (0, flInvalid)
  | .inf n => (BitVec.ofInt w (if n then lo else hi), flInvalid ||| flSat)
  | .fin neg m e =>
    if m ≠ 0 ∧ (70 : Int) < (m.log2 : Int) + e then
      (BitVec.ofInt w (if neg then lo else hi), flInvalid ||| flSat)
    else
      let (n, inex) := roundAt (c.noSr).mode neg m e 0 0
      let i : Int := if neg then -(n : Int) else (n : Int)
      if i < lo then (BitVec.ofInt w lo, flInvalid ||| flSat)
      else if hi < i then (BitVec.ofInt w hi, flInvalid ||| flSat)
      else (BitVec.ofInt w i, flagIf inex flInexact)

/-- The exact value of an integer. -/
def fOfInt (i : Int) : FVal := .fin (decide (i < 0)) i.natAbs 0

/-- Order of two values that are not NaN, with −0 below +0 (R113). -/
def fLtZero (x y : FVal) : Bool :=
  match x, y with
  | .nan _, _ => false
  | _, .nan _ => false
  | .inf a, .inf b => a && !b
  | .inf a, .fin _ _ _ => a
  | .fin _ _ _, .inf b => !b
  | .fin a m e, .fin b m' e' =>
    if a && !b then true
    else if !a && b then false
    else if a then dyadLt m' e' m e
    else dyadLt m e m' e'

/-- Order of two values that are not NaN, with −0 equal to +0 (R114). -/
def fLt (x y : FVal) : Bool :=
  match zeroSign x, zeroSign y with
  | some _, some _ => false
  | _, _ => fLtZero x y

/-- Whether a value is a NaN. -/
def fIsNan : FVal → Bool
  | .nan _ => true
  | _ => false

/-- One step of the stochastic generator (R59), with its zero replacement. -/
def srStep (st : Word) : Word :=
  let st := if st = 0 then 0x2545F491#32 else st
  let st := st ^^^ (st <<< 13)
  let st := st ^^^ (st >>> 17)
  st ^^^ (st <<< 5)

/-- st[15:0] of R59. -/
def srBits (st : Word) : Nat := st.toNat % 2 ^ 16

/-- Whether an instruction with this destination rounds stochastically (R55). -/
def usesSr (f : Fmt) (c : Rnd) : Bool := f.canSr && decide (c.mode = .sr)

/-- Round one element with the lane's generator: under SR the state advances once whatever the
value, then the element is rounded with the new state (R59). -/
def roundElem (f : Fmt) (c : Rnd) (st : Word) (v : FVal) : Flagged Nat × Word :=
  if usesSr f c then
    let st' := srStep st
    (fmtEncode f c (srBits st') v, st')
  else (fmtEncode f c 0 v, st)

/-! ## IO4 (R53, R54) -/

/-- `int4` of R53: the value and whether the code was a misplaced escape. -/
def int4 (x : Nat) : FVal × FpFlags :=
  if x = 8 then (.fin false 0 0, flIo4Badesc)
  else if 8 < x then (.fin true (16 - x) 0, 0)
  else (.fin false x 0, 0)

/-- The four elements of a quad without its scale, and the escape flags (R53). -/
def io4Raw (q : Nat) : List FVal × FpFlags :=
  let n (j : Nat) : Nat := bitsOf q (4 * j + 3) (4 * j)
  let z : FVal := .fin false 0 0
  if n 0 = 8 then
    let r := int4 (n 3)
    ([fmtDecode fmtE4m3 (n 2 * 16 + n 1), z, z, r.1], r.2)
  else if n 1 = 8 then
    let r := int4 (n 0)
    ([r.1, fmtDecode fmtE4m3 (n 3 * 16 + n 2), z, z], r.2)
  else
    let r0 := int4 (n 0)
    let r1 := int4 (n 1)
    let r2 := int4 (n 2)
    let r3 := int4 (n 3)
    ([r0.1, r1.1, r2.1, r3.1], r0.2 ||| r1.2 ||| r2.2 ||| r3.2)

/-- A value under an E8M0 scale code (R52): code 255 reads as NaN. -/
def scaled (c : Nat) (v : FVal) : FVal :=
  if c = 255 then .nan true else fScale v ((c : Int) - 127)

/-- A quad under a scale code (R53), with NAN_SEEN for a NaN element or a NaN scale. -/
def io4Decode (q c : Nat) : List FVal × FpFlags :=
  let r := io4Raw q
  let vs := r.1.map (scaled c)
  (vs, r.2 ||| flagIf (vs.any fIsNan) flNanSeen)

/-- The nibble of an integer from −7 to 7 (R54 `int4_code`). -/
def int4Code (i : Int) : Nat := (i % 16).toNat

/-- `round_rne(y, integer)`; a NaN or an infinity counts as |q| > 7 (R54). -/
def io4Int (y : FVal) : Option Int :=
  match y with
  | .fin neg m e =>
    if m ≠ 0 ∧ (8 : Int) < (m.log2 : Int) + e then none
    else
      let n := (roundAt .rne neg m e 0 0).1
      if 7 < n then none else some (if neg then -(n : Int) else (n : Int))
  | _ => none

/-- `clamp7` of R54. -/
def clamp7 (y : FVal) : Flagged Nat :=
  match io4Int y with
  | some i => (int4Code i, 0)
  | none => match y with
    | .nan _ => (0, flInvalid)
    | .inf neg => (int4Code (if neg then -7 else 7), flSat)
    | .fin neg _ _ => (int4Code (if neg then -7 else 7), flSat)

/-- The code of an element whose rounded value lies within ±7. -/
def io4Code (y : FVal) : Nat := int4Code ((io4Int y).getD 0)

/-- Whether an element forced to zero loses information (R54). -/
def io4Loses (y : FVal) : Bool :=
  match io4Int y with
  | some 0 => false
  | _ => true

/-- Equality of values, with the two zeros equal and a NaN different from every number. -/
def fEq (x y : FVal) : Bool := !fIsNan x && !fIsNan y && !fLt x y && !fLt y x

/-- The decoded element is the value it came from (R54); a NaN that decodes to a NaN does not differ. -/
def fSame (x y : FVal) : Bool := (fIsNan x && fIsNan y) || fEq x y

/-- `io4_quantise` of R54: the quad and its flags. -/
def io4Quantise (x0 x1 x2 x3 : FVal) (c : Nat) : Flagged Nat :=
  if c = 255 then (0, flInvalid)
  else
    let sc (x : FVal) : FVal := fScale x (127 - (c : Int))
    let y0 := sc x0
    let y1 := sc x1
    let y2 := sc x2
    let y3 := sc x3
    let big (y : FVal) : Bool := (io4Int y).isNone
    let outlier (y : FVal) : Flagged Nat :=
      match y with
      | .nan _ => (0x7F, 0)
      | v => fmtEncode fmtE4m3 ⟨.rne, false, .on⟩ 0 v
    let r : Nat × FpFlags :=
      if !(big y0 || big y1 || big y2 || big y3) then
        (io4Code y0 + 16 * io4Code y1 + 256 * io4Code y2 + 4096 * io4Code y3, 0)
      else if big y0 then
        let b := outlier y0
        let k := clamp7 y3
        (8 + 16 * b.1 + 4096 * k.1,
          (b.2 &&& flSat) ||| flagIf (io4Loses y1 || io4Loses y2) flSat ||| k.2)
      else if big y1 then
        let b := outlier y1
        (io4Code y0 + 16 * 8 + 256 * b.1,
          (b.2 &&& flSat) ||| flagIf (io4Loses y2 || io4Loses y3) flSat)
      else
        let k0 := clamp7 y0
        let k1 := clamp7 y1
        let k2 := clamp7 y2
        let k3 := clamp7 y3
        (k0.1 + 16 * k1.1 + 256 * k2.1 + 4096 * k3.1, k0.2 ||| k1.2 ||| k2.2 ||| k3.2)
    let back := (io4Raw r.1).1
    let differs := (List.zip back [y0, y1, y2, y3]).any (fun p => !fSame p.1 p.2)
    (r.1, r.2 ||| flagIf differs flInexact)

/-! ## Scales (R63) -/

/-- `scale_code` of R63 for `qmax = qm * 2^qe`. -/
def scaleCode (amax : Word) (qm : Nat) (qe : Int) : Flagged Nat :=
  match fmtDecode fmtF32 amax.toNat with
  | .nan _ => (255, 0)
  | .inf _ => (255, 0)
  | .fin _ m e =>
    if m = 0 then (0, 0)
    else
      -- least k with m * 2^(e-k) ≤ qm * 2^qe: start one below the leading-bit estimate
      let k0 : Int := (m.log2 : Int) + e - ((qm.log2 : Int) + qe)
      let k := if dyadLt qm (qe + k0) m e then k0 + 1 else k0
      if k < -127 then (0, flScaleFloor) else ((k + 127).toNat, 0)

end Sys2Proof.Machine
end

