-- ==== Sys2Proof/Machine/FloatFun.lean ====
section
/-! DEFINITION. The lane functions of spec 07: FP32 and packed 16-bit arithmetic, compares, conversions,
packing, dot products, scans and reductions (R112-R126). Each gives a result and the flags it sets. -/

namespace Sys2Proof.Machine

/-- A word read as FP32 with the flush bit applied (R57). -/
def rd32 (c : Rnd) (w : Word) : FVal := fmtDecodeFlush fmtF32 c.flush w.toNat

/-- An exact value rounded to an FP32 lane (R55-R58). -/
def wr32 (c : Rnd) (fl : FpFlags) (v : Flagged FVal) : Word × FpFlags :=
  let r := fmtEncode fmtF32 c 0 v.1
  (BitVec.ofNat 32 r.1, fl ||| v.2 ||| r.2)

/-- Whether a mode makes an exact zero sum negative (R56). -/
def isRdn (c : Rnd) : Bool := decide (c.mode = .rdn)

/-- The sum of two values, one of them possibly the result of a product. -/
def sum2 (c : Rnd) (a b : Flagged FVal) : Flagged FVal :=
  let s := fSum (isRdn c) [a.1, b.1]
  (s.1, a.2 ||| b.2 ||| s.2)

/-- x + y (R112). -/
def fAdd32 (c : Rnd) (x y : Word) : Word × FpFlags :=
  let a := rd32 c x
  let b := rd32 c y
  wr32 c (nanFlags a ||| nanFlags b) (sum2 c (a, 0) (b, 0))

/-- x − y: −y is the term of the sum (R56, R112). -/
def fSub32 (c : Rnd) (x y : Word) : Word × FpFlags :=
  let a := rd32 c x
  let b := rd32 c y
  wr32 c (nanFlags a ||| nanFlags b) (sum2 c (a, 0) (fNeg b, 0))

/-- x × y (R112). -/
def fMul32 (c : Rnd) (x y : Word) : Word × FpFlags :=
  let a := rd32 c x
  let b := rd32 c y
  wr32 c (nanFlags a ||| nanFlags b) (fMul a b)

/-- ±(x × y) ± z with one rounding (R112). -/
def fFused32 (negProd negZ : Bool) (c : Rnd) (x y z : Word) : Word × FpFlags :=
  let a := rd32 c x
  let b := rd32 c y
  let d := rd32 c z
  let p := fMul a b
  let p' := if negProd then (fNeg p.1, p.2) else p
  let d' := if negZ then fNeg d else d
  wr32 c (nanFlags a ||| nanFlags b ||| nanFlags d) (sum2 c p' (d', 0))

/-- x × 2^sgn(y) (R112). -/
def fScale32 (c : Rnd) (x y : Word) : Word × FpFlags :=
  let a := rd32 c x
  wr32 c (nanFlags a) (fScale a y.toInt, 0)

/-- y rounded to an integral value, SR acting as RNE, a zero keeping the sign of y (R112). -/
def fRound32 (c : Rnd) (y : Word) : Word × FpFlags :=
  match rd32 c y with
  | .fin neg m e =>
    let (n, inex) := roundAt (c.noSr).mode neg m e 0 0
    let v : FVal := if 0 ≤ e then .fin neg m e else .fin neg n 0
    let r := fmtEncode fmtF32 Rnd.default 0 v
    (BitVec.ofNat 32 r.1, flagIf inex flInexact)
  | v => wr32 Rnd.default (nanFlags v) (v, 0)

/-- The FP32 canonical NaN (R49). -/
def nan32 : Word := 0x7FC00000#32

/-- The minimum or maximum of R113: `num` returns the other operand for one NaN, `prop` the NaN. -/
def fMinMax32 (isMax prop : Bool) (x y : Word) : Word × FpFlags :=
  let a := fmtDecode fmtF32 x.toNat
  let b := fmtDecode fmtF32 y.toNat
  let fl := nanFlags a ||| nanFlags b
  if fIsNan a || fIsNan b then
    if prop || (fIsNan a && fIsNan b) then (nan32, fl)
    else (if fIsNan a then y else x, fl)
  else if isMax then (if fLtZero a b then y else x, fl)
  else (if fLtZero b a then y else x, fl)

/-- `vfabs` (R113). -/
def fAbs32 (y : Word) : Word × FpFlags :=
  let b := fmtDecode fmtF32 y.toNat
  if fIsNan b then (nan32, nanFlags b) else (y &&& 0x7FFFFFFF, 0)

/-- `vfneg` (R113). -/
def fNeg32 (y : Word) : Word × FpFlags :=
  let b := fmtDecode fmtF32 y.toNat
  if fIsNan b then (nan32, nanFlags b) else (y ^^^ 0x80000000, 0)

/-- `vfclass`: one bit of the result (R115). -/
def fClass32 (y : Word) : Word :=
  let n := y.getLsbD 31
  let ee := bitsOf y.toNat 30 23
  let ff := y.toNat % 2 ^ 23
  let k : Nat :=
    if ee = 255 then (if ff = 0 then (if n then 0 else 7) else if ff.testBit 22 then 9 else 8)
    else if ee = 0 then (if ff = 0 then (if n then 3 else 4) else (if n then 2 else 5))
    else if n then 1 else 6
  BitVec.ofNat 32 (2 ^ k)

/-- `vfcmp.cc` (R114). -/
def fCmp32 (cc : BitVec 3) (x y : Word) : Bool × FpFlags :=
  let a := fmtDecode fmtF32 x.toNat
  let b := fmtDecode fmtF32 y.toNat
  let nan := fIsNan a || fIsNan b
  let fl := nanFlags a ||| nanFlags b
  match cc.toNat with
  | 0 => (!nan && fEq a b, fl)
  | 1 => (nan || !fEq a b, fl)
  | 2 => (!nan && fLt a b, fl ||| flagIf nan flInvalid)
  | 3 => (!nan && !fLt b a, fl ||| flagIf nan flInvalid)
  | 4 => (!nan && fLt b a, fl ||| flagIf nan flInvalid)
  | 5 => (!nan && !fLt a b, fl ||| flagIf nan flInvalid)
  | 6 => (nan, fl)
  | _ => (!nan, fl)

/-! ## Packed 16-bit arithmetic (R116) -/

/-- The operations of major 0x14. -/
inductive HalfOp | add | mul | fma
  deriving DecidableEq, Repr

/-- One 16-bit element, rounded with the lane's generator state. -/
def halfElem (op : HalfOp) (f : Fmt) (c : Rnd) (st : Word) (x y z : Nat) : Flagged Nat × Word :=
  let a := fmtDecodeFlush f c.flush x
  let b := fmtDecodeFlush f c.flush y
  let d := fmtDecodeFlush f c.flush z
  let v : Flagged FVal := match op with
    | .add => sum2 c (a, 0) (b, 0)
    | .mul => fMul a b
    | .fma => sum2 c (fMul a b) (d, 0)
  let fl := nanFlags a ||| nanFlags b ||| (match op with | .fma => nanFlags d | _ => 0)
  let r := roundElem f c st v.1
  ((r.1.1, fl ||| v.2 ||| r.1.2), r.2)

/-- One lane of two elements, element 0 first (R116, R59). -/
def halfLane (op : HalfOp) (f : Fmt) (c : Rnd) (st x y z : Word) : Word × FpFlags × Word :=
  let e0 := halfElem op f c st (x.toNat % 65536) (y.toNat % 65536) (z.toNat % 65536)
  let e1 := halfElem op f c e0.2 (x.toNat / 65536) (y.toNat / 65536) (z.toNat / 65536)
  (BitVec.ofNat 32 (e0.1.1 + 65536 * e1.1.1), e0.1.2 ||| e1.1.2, e1.2)

/-! ## Conversions (R118, R119) -/

/-- The kinds of R72: a float format, or an integer of a width. -/
inductive CvtFmt
  | flt (f : Fmt)
  | int (signed : Bool) (w : Nat)
  deriving DecidableEq, Repr

/-- The format codes of R72. -/
def cvtFmt : Nat → Option CvtFmt
  | 0 => some (.flt fmtF32)
  | 1 => some (.flt fmtF16)
  | 2 => some (.flt fmtBf16)
  | 3 => some (.flt fmtE4m3)
  | 4 => some (.flt fmtE5m2)
  | 5 => some (.int true 8)
  | 6 => some (.int false 8)
  | 7 => some (.int true 32)
  | 8 => some (.int false 32)
  | 9 => some (.int true 64)
  | 10 => some (.int false 64)
  | _ => none

/-- Whether a format is 64-bit and therefore names a register pair (R72, R105). -/
def cvtWide : CvtFmt → Bool
  | .int _ 64 => true
  | _ => false

/-- A 64-bit source lane (the upper word is 0 for a narrow source) converted to the bits of the destination,
with the lane's generator state (R119). Under SR the generator advances by the destination alone, where the conversion is exact
too: the model's choice (log entry 50). -/
def cvtLane (src dst : CvtFmt) (c : Rnd) (st : Word) (x : Nat) : Flagged Nat × Word :=
  match src, dst with
  | .flt f, .flt g =>
    let v := fmtDecodeFlush f c.flush (x % 2 ^ fmtWidth f)
    let r := roundElem g c st v
    ((r.1.1, nanFlags v ||| r.1.2), r.2)
  | .flt f, .int s w =>
    let v := fmtDecodeFlush f c.flush (x % 2 ^ fmtWidth f)
    let r := fToInt c s w v
    ((r.1.toNat, nanFlags v ||| r.2), st)
  | .int s w, .flt g =>
    let i : Int := if s then sextInt w x else ((x % 2 ^ w : Nat) : Int)
    let r := roundElem g c st (fOfInt i)
    ((r.1.1, r.1.2), r.2)
  | .int s w, .int s' w' =>
    let i : Int := if s then sextInt w x else ((x % 2 ^ w : Nat) : Int)
    let lo : Int := if s' then -2 ^ (w' - 1) else 0
    let hi : Int := if s' then 2 ^ (w' - 1) - 1 else 2 ^ w' - 1
    let j := if i < lo then lo else if hi < i then hi else i
    (((j % 2 ^ w').toNat, flagIf (decide (j ≠ i)) flSat), st)

/-- The 64 bits a converted value fills: i8 sign-extended to the lane, every other narrow format zero above (R118). -/
def cvtFill (dst : CvtFmt) (x : Nat) : Nat :=
  match dst with
  | .int true 8 => (extS 8 (BitVec.ofNat 32 x)).toNat
  | _ => x

/-! ## Packing (R120-R122) -/

/-- One FP8 element of `vpk` under scale code c (R120). -/
def packElem (f : Fmt) (c : Rnd) (code : Nat) (st : Word) (x : Word) : Flagged Nat × Word :=
  let v := rd32 c x
  let fl := nanFlags v
  if code = 255 then
    let r := roundElem f c st (.nan true)
    ((canonNan f, fl ||| flInvalid), r.2)
  else
    let r := roundElem f c st (fScale v (127 - (code : Int)))
    ((r.1.1, fl ||| r.1.2), r.2)

/-- `vpk.e4m3`, `vpk.e5m2` on one lane: elements 0 to 3 in order (R120). -/
def packLane (f : Fmt) (c : Rnd) (code : Nat) (st : Word) (x0 x1 x2 x3 : Word) :
    Word × FpFlags × Word :=
  let e0 := packElem f c code st x0
  let e1 := packElem f c code e0.2 x1
  let e2 := packElem f c code e1.2 x2
  let e3 := packElem f c code e2.2 x3
  (BitVec.ofNat 32 (e0.1.1 + 2 ^ 8 * e1.1.1 + 2 ^ 16 * e2.1.1 + 2 ^ 24 * e3.1.1),
    e0.1.2 ||| e1.1.2 ||| e2.1.2 ||| e3.1.2, e3.2)

/-- `vpk.io4` on one lane of eight FP32 words (R121, R54). -/
def packIo4Lane (code : Nat) (x : Fin 8 → Word) : Word × FpFlags :=
  let v (j : Fin 8) : FVal := fmtDecode fmtF32 (x j).toNat
  let q0 := io4Quantise (v 0) (v 1) (v 2) (v 3) code
  let q1 := io4Quantise (v 4) (v 5) (v 6) (v 7) code
  let fl := (List.finRange 8).foldl (fun a j => a ||| nanFlags (v j)) 0
  (BitVec.ofNat 32 (q0.1 + 65536 * q1.1), q0.2 ||| q1.2 ||| fl)

/-- A decoded element written as FP32, ignoring every hint (R122). -/
def unpackElem (v : FVal) : Word × FpFlags :=
  let r := fmtEncode fmtF32 rndPlain 0 v
  (BitVec.ofNat 32 r.1, r.2)

/-- `vunpk` of one FP8 element (R122). -/
def unpackFp8 (f : Fmt) (code : Nat) (e : Nat) : Word × FpFlags :=
  let v := fmtDecode f e
  let r := unpackElem (scaled code v)
  (r.1, nanFlags v ||| flagIf (decide (code = 255)) flNanSeen ||| r.2)

/-- `vunpk` of the IO4 elements of one lane (R122, R53). -/
def unpackIo4 (code : Nat) (x : Word) : List Word × FpFlags :=
  let a := io4Decode (x.toNat % 65536) code
  let b := io4Decode (x.toNat / 65536) code
  let rs := (a.1 ++ b.1).map unpackElem
  (rs.map Prod.fst, a.2 ||| b.2 ||| rs.foldl (fun fl r => fl ||| r.2) 0)

/-! ## Dot products (R61, R123) -/

/-- The exact sum of products and an FP32 addend, rounded once (R61). -/
def dotLane (f : Fmt) (n : Nat) (c : Rnd) (z x y : Word) : Word × FpFlags :=
  let wd := fmtWidth f
  let el (u : Word) (j : Nat) : FVal := fmtDecode f (bitsOf u.toNat (wd * j + wd - 1) (wd * j))
  let d := rd32 c z
  let js := List.range n
  let ps := js.map (fun j => fMul (el x j) (el y j))
  let fl := js.foldl (fun a j => a ||| nanFlags (el x j) ||| nanFlags (el y j)) (nanFlags d)
  let flp := ps.foldl (fun a p => a ||| p.2) 0
  let s := fSum (isRdn c) (ps.map Prod.fst ++ [d])
  wr32 c (fl ||| flp) s

/-! ## Scans and reductions (R125, R126) -/

/-- The operations of R73. -/
inductive RedOp | addI | addF | maxI | minI | maxF | minF | amaxF | and | or
  deriving DecidableEq, Repr

/-- The operation codes of R73; codes 9 and above are illegal. -/
def redOp : Nat → Option RedOp
  | 0 => some .addI | 1 => some .addF | 2 => some .maxI | 3 => some .minI | 4 => some .maxF
  | 5 => some .minF | 6 => some .amaxF | 7 => some .and | 8 => some .or
  | _ => none

/-- The identities of R125. -/
def redIdent : RedOp → Word
  | .addI => 0 | .addF => 0 | .maxI => 0x80000000 | .minI => 0x7FFFFFFF
  | .maxF => 0xFF800000 | .minF => 0x7F800000 | .amaxF => 0 | .and => 0xFFFFFFFF | .or => 0

/-- `lone(op, x)` of R125. -/
def redLone (op : RedOp) (x : Word) : Word × FpFlags :=
  let v := fmtDecode fmtF32 x.toNat
  match op with
  | .addF | .maxF | .minF => if fIsNan v then (nan32, nanFlags v) else (x, 0)
  | .amaxF => if fIsNan v then (nan32, nanFlags v) else (x &&& 0x7FFFFFFF, 0)
  | _ => (x, 0)

/-- `op(x, y)` of R125; `add.f32` rounds, SR acting as RNE (R110). -/
def redApply (op : RedOp) (c : Rnd) (x y : Word) : Word × FpFlags :=
  match op with
  | .addI => (x + y, 0)
  | .addF => fAdd32 c.noSr x y
  | .maxI => (maxS x y, 0)
  | .minI => (minS x y, 0)
  | .maxF => fMinMax32 true true x y
  | .minF => fMinMax32 false true x y
  | .amaxF => fMinMax32 true true x y
  | .and => (x &&& y, 0)
  | .or => (x ||| y, 0)

/-- The prefix over the listed lanes in order: for each lane its value, and the flags (R125). -/
def scanGo (op : RedOp) (c : Rnd) (excl : Bool) :
    List (Lane × Word) → Option Word → List (Lane × Word) × FpFlags
  | [], _ => ([], 0)
  | (l, x) :: rest, p =>
    let lx := redLone op x
    let q : Word × FpFlags := match p with
      | none => (lx.1, 0)
      | some pv => redApply op c pv lx.1
    let out := if excl then p.getD (redIdent op) else q.1
    let r := scanGo op c excl rest (some q.1)
    ((l, out) :: r.1, lx.2 ||| q.2 ||| r.2)

/-- One node of the fixed tree of R126. -/
def redNode (op : RedOp) (c : Rnd) (a b : Option Word) : Option Word × FpFlags :=
  match a, b with
  | some x, some y => let r := redApply op c x y; (some r.1, r.2)
  | none, some y => (some y, 0)
  | x, none => (x, 0)

/-- One level of the tree: neighbours are combined pairwise. -/
def redLevel (op : RedOp) (c : Rnd) : List (Option Word) → List (Option Word) × FpFlags
  | a :: b :: rest =>
    let r := redNode op c a b
    let t := redLevel op c rest
    (r.1 :: t.1, r.2 ||| t.2)
  | l => (l, 0)

/-- The tree of R126 over 32 lane positions, none where the lane is absent. -/
def redTree (op : RedOp) (c : Rnd) (vs : List (Option Word)) : Word × FpFlags :=
  let l1 := redLevel op c vs
  let l2 := redLevel op c l1.1
  let l3 := redLevel op c l2.1
  let l4 := redLevel op c l3.1
  let l5 := redLevel op c l4.1
  (((l5.1.head?).getD none).getD (redIdent op), l1.2 ||| l2.2 ||| l3.2 ||| l4.2 ||| l5.2)

/-- `vred`: lone values of the lanes of exec, combined by the tree (R126). -/
def redLanes (op : RedOp) (c : Rnd) (vs : List (Option Word)) : Word × FpFlags :=
  let ls := vs.map (fun o => o.map (redLone op))
  let fl := ls.foldl (fun a o => a ||| (match o with | some p => p.2 | none => 0)) (0 : FpFlags)
  let r := redTree op c (ls.map (fun o => o.map Prod.fst))
  (r.1, fl ||| r.2)

/-- The 64-bit scalar a reduction writes: sign-extended for the integer sums and extremes (R126). -/
def redScalar (op : RedOp) (r : Word) : DWord :=
  match op with
  | .addI | .maxI | .minI => r.signExtend 64
  | _ => r.setWidth 64

end Sys2Proof.Machine
end

