-- ==== Sys2Proof/Config.lean ====
section
/-! DEFINITION. Values the specification leaves open, as constants without a body (log entries 5, 10). -/

namespace Sys2Proof

/-- The result that the unpublished algorithm of R117 would give for function `op` (0 to 6) on an FP32
operand. The model uses it only where it lies within the bound of R117. Log entry 5. -/
opaque Config.funcBits : Nat → Word → Word

/-- A free value for the `n`-th open choice of a run, `w` bits wide. Log entry 5. -/
opaque Config.freeBits : (w : Nat) → Nat → BitVec w

/-- SHA3-512 and the other hashes of R382 and R386, over bytes. Log entry 10. -/
opaque Config.hash512 : List Byte → BitVec 512

/-- The keyed hash of one line under an integrity key: key, holder and line, stamp, ciphertext (R227). Log entry 10. -/
opaque Config.lineHash : List Byte → Nat → Nat → List Byte → BitVec 256

/-- Byte `i` of the `n`-th pair of keys of a run that the Psison controller makes for a world: 64 bytes of the XTS key (R225), and
32 of the integrity key (R227). Log entry 10. -/
opaque Config.worldKey : (n i : Nat) → Byte

/-- Byte `i` of the signature of a report by the attestation key, the `n`-th of a run (R386). Log entry 10. -/
opaque Config.sign : List Byte → (n i : Nat) → Byte

/-- Byte `i` of the package's attestation public key (R386). Log entry 10. -/
opaque Config.attestByte : Nat → Byte

/-- Byte `i` of the root's signature over a digest (R386). Log entry 10. -/
opaque Config.rootSign : BitVec 512 → Nat → Byte

/-- Byte `i` of the ciphertext of the `n`-th encapsulation to a key (R385). Log entry 10. -/
opaque Config.kemCipher : List Byte → (n i : Nat) → Byte

/-- Byte `i` of the secret of the `n`-th encapsulation to a key (R385). Log entry 10. -/
opaque Config.kemSecret : List Byte → (n i : Nat) → Byte

end Sys2Proof
end

