-- ==== Sys2Proof/Machine/Func.lean ====
section
/-! DEFINITION. The functions of major 0x15 (spec 07 R117). Exact cases, specials and bounds are the rule's;
the choice within a bound is the free constant `Config.funcBits` (log entry 5). Exact values are
fixed-point numbers whose error lies far below every bound. -/

namespace Sys2Proof.Machine

/-- The functions of R117, in the order of their codes. -/
inductive Func | rcp | rsq | sqrt | exp2 | log2 | sin | cos
  deriving DecidableEq, Repr

/-- The code of a function in the b field (R71). -/
def funcCode : Func → Nat
  | .rcp => 0 | .rsq => 1 | .sqrt => 2 | .exp2 => 3 | .log2 => 4 | .sin => 5 | .cos => 6

/-- `floor(2π * 2^320)`. -/
def twoPi320 : Nat :=
  0x6487ed5110b4611a62633145c06e0e68948127044533e63a0105df531d89cd9128a5043cc71a026ef

/-- `floor(ln 2 * 2^160)`. -/
def ln2At160 : Nat := 0xb17217f7d1cf79abc9e3b39803f2f6af40f34326

/-- A real number approximated by `m * 2^e`. -/
abbrev Approx := Int × Int

/-- Sum of the series `1 + t + t^2/2! + ...` in units of 2^-160, from term `k` on. -/
def expSeries (t : Nat) : Nat → Nat → Nat → Nat
  | 0, _, _ => 0
  | fuel + 1, k, term => term + expSeries t fuel (k + 1) (term * t / 2 ^ 160 / (k + 1))

/-- `2^x` for the value `(-1)^neg * m * 2^e` with |x| below 200. -/
def exp2Approx (neg : Bool) (m : Nat) (e : Int) : Approx :=
  let x : Int := (if neg then -(m : Int) else (m : Int)) * 2 ^ (e + 160).toNat
  let n := x / 2 ^ 160
  let f := (x % 2 ^ 160).toNat
  (expSeries (f * ln2At160 / 2 ^ 160) 48 0 (2 ^ 160), n - 160)

/-- The next `fuel` bits of the logarithm of `y / 2^160` in [1, 2), by repeated squaring. -/
def log2Bits : Nat → Nat → Nat → Nat
  | 0, _, acc => acc
  | fuel + 1, y, acc =>
    let z := y * y / 2 ^ 160
    if 2 ^ 161 ≤ z then log2Bits fuel (z / 2) (2 * acc + 1) else log2Bits fuel z (2 * acc)

/-- `log2 (m * 2^e)` for m > 0, in units of 2^-100. -/
def log2Approx (m : Nat) (e : Int) : Approx :=
  let l := m.log2
  (((l : Int) + e) * 2 ^ 100 + log2Bits 100 (m * 2 ^ (160 - l)) 0, -100)

/-- Alternating series of `s^k/k!` in steps of two, from `term`, in units of 2^-128. -/
def trigSeries (s2 : Nat) : Nat → Nat → Int → Int
  | 0, _, _ => 0
  | fuel + 1, k, term =>
    term + trigSeries s2 fuel (k + 2) (-(term * s2 / 2 ^ 128 / ((k + 1) * (k + 2) : Nat)))

/-- The argument reduced modulo 2π and moved to [−π, π], in units of 2^-128, for |x| = m * 2^e;
sine and cosine of it are minus those of x. -/
def trigArg (m : Nat) (e : Int) : Int :=
  let r := (m * 2 ^ (e + 320).toNat) % twoPi320
  ((r / 2 ^ 192 : Nat) : Int) - (twoPi320 / 2 ^ 193 : Nat)

/-- `sin` of `(-1)^neg * m * 2^e`, in units of 2^-128. -/
def sinApprox (neg : Bool) (m : Nat) (e : Int) : Approx :=
  let s := trigArg m e
  let v := trigSeries (s.natAbs * s.natAbs / 2 ^ 128) 48 1 s
  (if neg then v else -v, -128)

/-- `cos` of a value of magnitude `m * 2^e`, in units of 2^-128. -/
def cosApprox (m : Nat) (e : Int) : Approx :=
  let s := trigArg m e
  (-(trigSeries (s.natAbs * s.natAbs / 2 ^ 128) 48 0 (2 ^ 128)), -128)

/-- The signed mantissa and exponent of a finite value. -/
def valApprox : FVal → Approx
  | .fin neg m e => (if neg then -(m : Int) else (m : Int), e)
  | _ => (0, 0)

/-- Whether `|a - b| ≤ 2^t`. -/
def approxWithin (a b : Approx) (t : Int) : Bool :=
  let d := dyadAdd a (-b.1, b.2)
  !dyadLt 1 t d.1.natAbs d.2

/-- Whether a bit pattern is a finite FP32 value within `2^t` of an approximation. -/
def candWithin (cand : Word) (b : Approx) (t : Int) : Bool :=
  match fmtDecode fmtF32 cand.toNat with
  | .fin neg m e => approxWithin (valApprox (.fin neg m e)) b t
  | _ => false

/-- The exponent of one FP32 unit in the last place of an approximated value. -/
def ulpExp (b : Approx) : Int := max ((b.1.natAbs.log2 : Int) + b.2) (-126) - 23

/-- An approximation as a value to round. -/
def approxVal (b : Approx) : FVal := .fin (decide (b.1 < 0)) b.1.natAbs b.2

/-- The FP32 result within a bound of `2^t` of the exact value: the free choice where it is within
the bound (and not above 1 in magnitude where `unit` holds), else the nearest value. -/
def pickWithin (op : Func) (x : Word) (b : Approx) (t : Int) (unit : Bool) : Nat :=
  let c := Config.funcBits (funcCode op) x
  let fits := candWithin c b t && (!unit || decide (c.toNat % 2 ^ 31 ≤ 0x3F800000))
  if fits then c.toNat
  else
    let d := (fmtEncode fmtF32 rndPlain 0 (approxVal b)).1
    if unit && decide (0x3F800000 < d % 2 ^ 31) then d / 2 ^ 31 * 2 ^ 31 + 0x3F800000 else d

/-- One of the two FP32 neighbours of an exact value (R117 "faithful"). -/
def pickFaithful (op : Func) (x : Word) (v : FVal) : Nat :=
  let lo := (fmtEncode fmtF32 ⟨.rdn, false, .off⟩ 0 v).1
  let hi := (fmtEncode fmtF32 ⟨.rup, false, .off⟩ 0 v).1
  let c := (Config.funcBits (funcCode op) x).toNat
  if c = lo then lo else if c = hi then hi else (fmtEncode fmtF32 rndPlain 0 v).1

/-- Integer square root by `fuel` Newton bits: the greatest r with r * r ≤ n. -/
def isqrtGo (n : Nat) : Nat → Nat → Nat
  | 0, r => r
  | b + 1, r =>
    let r' := r + 2 ^ b
    isqrtGo n b (if r' * r' ≤ n then r' else r)

/-- The greatest `r` with `r * r ≤ n`, for n below 2^(2 * 128). -/
def isqrt (n : Nat) : Nat := isqrtGo n 128 0

/-- `sqrt (m * 2^e)` with a sticky last bit. -/
def sqrtApprox (m : Nat) (e : Int) : FVal :=
  let odd := e % 2 = 1
  let m' := if odd then 2 * m else m
  let e' := if odd then e - 1 else e
  let n := m' * 2 ^ 128
  let r := isqrt n
  .fin false (2 * r + (if r * r = n then 0 else 1)) (e' / 2 - 65)

/-- `1 / (m * 2^e)` with a sticky last bit, for m > 0. -/
def rcpApprox (neg : Bool) (m : Nat) (e : Int) : FVal :=
  let n := 2 ^ 96
  .fin neg (2 * (n / m) + (if n % m = 0 then 0 else 1)) (-e - 97)

/-- `1 / sqrt (m * 2^e)` with a sticky last bit, for m > 0. -/
def rsqApprox (m : Nat) (e : Int) : FVal :=
  let odd := e % 2 = 1
  let m' := if odd then 2 * m else m
  let e' := if odd then e - 1 else e
  -- sqrt (2^240 / m') = 2^120 / sqrt m'
  let n := 2 ^ 240 / m'
  let r := isqrt n
  .fin false (2 * r + (if r * r * m' = 2 ^ 240 then 0 else 1)) (-(e' / 2) - 121)

/-- The flags of an inexact FP32 result: inexact, and underflow where it is below the smallest normal. -/
def inexFlags (bits : Nat) : FpFlags :=
  flInexact ||| flagIf (decide (bits % 2 ^ 31 < 2 ^ 23)) flUnderflow

/-- A faithful or bounded result with its flags, the exact value being representable or not. -/
def funcResult (bits : Nat) (exact : Bool) : Flagged Nat :=
  (bits, if exact then 0 else inexFlags bits)

/-- Whether a value is a power of two. -/
def isPow2 (m : Nat) : Bool := m == 2 ^ m.log2

/-- One function on one lane, before the flush of the result (R117). By its words every finite result but the table's exact cases sets
`inexact`: of `vfsqrt` only that of −0 does not (log entry 5). -/
def funcLane (op : Func) (flush : Bool) (x : Word) : Flagged Nat :=
  let nanW := canonNan fmtF32
  let infP := 0x7F800000
  let infN := 0xFF800000
  match fmtDecodeFlush fmtF32 flush x.toNat, op with
  | .nan q, _ => (nanW, nanFlags (.nan q))
  | .inf neg, .rcp => (if neg then 0x80000000 else 0, 0)
  | .inf neg, .rsq => if neg then (nanW, flInvalid) else (0, 0)
  | .inf neg, .sqrt => if neg then (nanW, flInvalid) else (infP, 0)
  | .inf neg, .exp2 => if neg then (0, 0) else (infP, 0)
  | .inf neg, .log2 => if neg then (nanW, flInvalid) else (infP, 0)
  | .inf _, .sin => (nanW, flInvalid)
  | .inf _, .cos => (nanW, flInvalid)
  | .fin neg m e, .rcp =>
    if m = 0 then (if neg then infN else infP, flDivzero)
    else
      let v := rcpApprox neg m e
      let r := fmtEncode fmtF32 rndPlain 0 v
      if r.1 % 2 ^ 31 = infP then r
      else if isPow2 m then (r.1, r.2)
      else funcResult (pickFaithful op x v) false
  | .fin neg m e, .rsq =>
    if m = 0 then (if neg then infN else infP, flDivzero)
    else if neg then (nanW, flInvalid)
    else
      let v := rsqApprox m e
      if isPow2 m && ((m.log2 : Int) + e) % 2 == 0 then
        ((fmtEncode fmtF32 rndPlain 0 v).1, 0)
      else funcResult (pickFaithful op x v) false
  | .fin neg m e, .sqrt =>
    if m = 0 then (if neg then (0x80000000, 0) else (0, flInexact))
    else if neg then (nanW, flInvalid)
    else
      let r := fmtEncode fmtF32 rndPlain 0 (sqrtApprox m e)
      (r.1, r.2 ||| flInexact)
  | .fin neg m e, .exp2 =>
    if m = 0 then (0x3F800000, 0)
    else if !dyadLt m e 128 0 then
      if neg then
        if dyadLt 150 0 m e then (0, flUnderflow ||| flInexact)
        else if (roundAt .rtz false m e 0 0).2 || !dyadLt m e 150 0 then
          let b := exp2Approx true m e
          funcResult (pickWithin op x b (ulpExp b + 1) false) false
        else ((fmtEncode fmtF32 rndPlain 0 (.fin false 1 (-((roundAt .rtz false m e 0 0).1 : Int)))).1, 0)
      else (infP, flOverflow ||| flInexact)
    else if (roundAt .rtz false m e 0 0).2 then
      let b := exp2Approx neg m e
      funcResult (pickWithin op x b (ulpExp b + 1) false) false
    else
      let i : Int := (roundAt .rtz false m e 0 0).1
      ((fmtEncode fmtF32 rndPlain 0 (.fin false 1 (if neg then -i else i))).1, 0)
  | .fin neg m e, .log2 =>
    if m = 0 then (infN, flDivzero)
    else if neg then (nanW, flInvalid)
    else if isPow2 m then ((fmtEncode fmtF32 rndPlain 0 (fOfInt ((m.log2 : Int) + e))).1, 0)
    else
      let b := log2Approx m e
      let near := !dyadLt m e 1 (-1) && !dyadLt 2 0 m e
      funcResult (pickWithin op x b (if near then -22 else ulpExp b + 1) false) false
  | .fin neg m e, .sin =>
    if m = 0 then (if neg then 0x80000000 else 0, 0)
    else funcResult (pickWithin op x (sinApprox neg m e) (-22) true) false
  | .fin _ m e, .cos =>
    if m = 0 then (0x3F800000, 0)
    else funcResult (pickWithin op x (cosApprox m e) (-22) true) false

/-- One function on one lane with the flush bit applied to the operand and to the result (R57, R117). -/
def funcExec (op : Func) (flush : Bool) (x : Word) : Word × FpFlags :=
  let r := funcLane op flush x
  let m := r.1 % 2 ^ 31
  if flush && decide (0 < m) && decide (m < 2 ^ 23) then
    (BitVec.ofNat 32 (r.1 / 2 ^ 31 * 2 ^ 31), r.2 ||| flUnderflow ||| flInexact)
  else (BitVec.ofNat 32 r.1, r.2)

end Sys2Proof.Machine
end

