-- ==== Sys2Proof/Machine/Aes.lean ====
section
/-! DEFINITION. AES-256 and the two modes in which the part uses it: XTS over a 64-byte line (spec 13 R225) and the GCM tag of a
packet with empty plaintext (17 R306). -/

namespace Sys2Proof.Machine

/-! ## The block cipher -/

/-- The substitution table, 32 entries a row, entry 0 of a row in its low byte. -/
def aesRow : Nat → Nat
  | 0 => 0xc072a49cafa2d4adf04759fa7dc982ca76abd7fe2b670130c56f6bf27b777c63
  | 1 => 0x75b227ebe28012079a059618c323c7041531d871f1e5a534ccf73f362693fdb7
  | 2 => 0xcf584c4a39becb6a5bb1fc20ed00d153842fe329b3d63b52a05a6e1b1a2c8309
  | 3 => 0xd2f3ff1021dab6bcf5389d928f40a351a89f3c507f02f94585334d43fbaaefd0
  | 4 => 0xdb0b5ede14b8ee4688902a22dc4f816073195d643d7ea7c41744975fec130ccd
  | 5 => 0x08ae7a65eaf4566ca94ed58d6d37c8e779e4959162acd3c25c2406490a3a32e0
  | 6 => 0x9e1dc186b95735610ef6034866b53e708a8bbd4b1f74dde8c6b4a61c2e2578ba
  | _ => 0x16bb54b00f2d99416842e6bf0d89a18cdf2855cee9871e9b948ed9691198f8e1

/-- The substitution of a byte. -/
def aesSub (x : Nat) : Nat := aesRow (x / 32) / 256 ^ (x % 32) % 256

/-- A byte times x in the field of 2^8 elements. -/
def aesDouble (x : Nat) : Nat := if 128 ≤ x then (2 * x) ^^^ 0x11B else 2 * x

/-- The substitution of the four bytes of a word. -/
def aesSubWord (w : Nat) : Nat :=
  aesSub (w / 2 ^ 24 % 256) * 2 ^ 24 + aesSub (w / 2 ^ 16 % 256) * 2 ^ 16 + aesSub (w / 2 ^ 8 % 256) * 2 ^ 8 + aesSub (w % 256)

/-- The next word of the key schedule, number `i`, from the words before it, the latest first. -/
def aesNextWord (i : Nat) (ws : List Nat) : Nat :=
  let t := ws.headD 0
  let t := if i % 8 = 0 then aesSubWord (t * 2 ^ 8 % 2 ^ 32 + t / 2 ^ 24) ^^^ (2 ^ (i / 8 - 1) * 2 ^ 24)
    else if i % 8 = 4 then aesSubWord t else t
  ws.getD 7 0 ^^^ t

/-- `n` more words of the key schedule. -/
def aesExpand : Nat → Nat → List Nat → List Nat
  | 0, _, ws => ws
  | n + 1, i, ws => aesExpand n (i + 1) (aesNextWord i ws :: ws)

/-- A big-endian number of bytes. -/
def beNat (bs : List Nat) : Nat := bs.foldl (fun n b => 256 * n + b) 0

/-- The `n` bytes of a number, the highest first. -/
def beBytes (n x : Nat) : List Nat := (List.range n).map (fun i => x / 256 ^ (n - 1 - i) % 256)

/-- The 15 round keys of a 32-byte key, 16 bytes each. -/
def aesKeys (key : List Nat) : List (List Nat) :=
  let first := (List.range 8).map (fun i => beNat ((List.range 4).map (fun j => key.getD (4 * i + j) 0)))
  let ws := (aesExpand 52 8 first.reverse).reverse
  (List.range 15).map (fun r => (List.range 4).flatMap (fun i => beBytes 4 (ws.getD (4 * r + i) 0)))

/-- Substitution and shift of the rows of a block, whose bytes stand column by column. -/
def aesShift (b : List Nat) : List Nat :=
  (List.range 16).map (fun i => aesSub (b.getD ((i + 4 * (i % 4)) % 16) 0))

/-- The mixed columns of a block. -/
def aesMix (b : List Nat) : List Nat :=
  (List.range 16).map (fun i =>
    let at' := fun (k : Nat) => b.getD (i / 4 * 4 + (i + k) % 4) 0
    aesDouble (at' 0) ^^^ (aesDouble (at' 1) ^^^ at' 1) ^^^ at' 2 ^^^ at' 3)

/-- Two lists of bytes, one exclusive-or the other. -/
def xorBytes (a b : List Nat) : List Nat := (a.zip b).map (fun p => p.1 ^^^ p.2)

/-- The rounds after the first key addition. -/
def aesRounds : List (List Nat) → List Nat → List Nat
  | [], b => b
  | [k], b => xorBytes (aesShift b) k
  | k :: ks, b => aesRounds ks (xorBytes (aesMix (aesShift b)) k)

/-- AES-256 of a 16-byte block under a 32-byte key. -/
def aes256 (key block : List Nat) : List Nat :=
  match aesKeys key with
  | [] => block
  | k :: ks => aesRounds ks (xorBytes block k)

/-! ## Its inverse -/

/-- The byte whose substitution is `x`. -/
def aesUnsub (x : Nat) : Nat := ((List.range 256).find? (fun y => aesSub y == x)).getD 0

/-- Inverse substitution and shift of the rows of a block. -/
def aesUnshift (b : List Nat) : List Nat :=
  (List.range 16).map (fun i => aesUnsub (b.getD ((i + 16 - 4 * (i % 4)) % 16) 0))

/-- The inverse of the mixed columns: mixing has order four. -/
def aesUnmix (b : List Nat) : List Nat := aesMix (aesMix (aesMix b))

/-- The rounds undone, the last key first, before the first key addition. -/
def aesUnrounds : List (List Nat) → List Nat → List Nat
  | [], b => b
  | k :: ks, b => aesUnrounds ks (aesUnshift (aesUnmix (xorBytes b k)))

/-- The inverse of AES-256 of a 16-byte block under a 32-byte key. -/
def aes256Inv (key block : List Nat) : List Nat :=
  match aesKeys key with
  | [] => block
  | k :: ks => match ks.reverse with
    | [] => xorBytes block k
    | l :: rest => xorBytes (aesUnrounds rest (aesUnshift (xorBytes block l))) k

/-! ## XTS over a line (13 R225) -/

/-- A tweak times x: 128 bits, byte 0 least. -/
def xtsDouble (t : Nat) : Nat := if 2 ^ 127 ≤ t then (2 * t) % 2 ^ 128 ^^^ 0x87 else 2 * t

/-- The `n` bytes of a number, the lowest first. -/
def leNats (n x : Nat) : List Nat := (List.range n).map (fun i => x / 256 ^ i % 256)

/-- The blocks of a data unit through a block cipher or its inverse, from a tweak on. -/
def xtsBlocks (f : List Nat → List Nat) : Nat → Nat → List Nat → List Nat
  | 0, _, _ => []
  | n + 1, t, bs =>
    let m := leNats 16 t
    xorBytes (f (xorBytes (bs.take 16) m)) m ++ xtsBlocks f n (xtsDouble t) (bs.drop 16)

/-- The blocks of a 64-byte line under a 64-byte key, with a data unit number as tweak, through a block cipher. -/
def xtsWith (f : List Nat → List Nat → List Nat) (key : List Byte) (unit : Nat) (bs : List Byte) : List Byte :=
  let k := key.map BitVec.toNat
  let t := aes256 (k.drop 32) (leNats 16 unit)
  (xtsBlocks (f (k.take 32)) 4 ((t.reverse).foldl (fun n b => 256 * n + b) 0) (bs.map BitVec.toNat)).map (BitVec.ofNat 8)

/-- AES-256-XTS of a 64-byte line. -/
def xtsLine (key : List Byte) (unit : Nat) (bs : List Byte) : List Byte := xtsWith aes256 key unit bs

/-- Its inverse. -/
def xtsUnline (key : List Byte) (unit : Nat) (bs : List Byte) : List Byte := xtsWith aes256Inv key unit bs

/-! ## The tag of GCM with empty plaintext (17 R306) -/

/-- The product of two blocks in the field of GHASH, bit by bit from the highest of `x`. -/
def ghashMul (x : Nat) : Nat → Nat → Nat → Nat
  | 0, _, z => z
  | n + 1, v, z =>
    ghashMul x n (if v % 2 = 1 then (v / 2) ^^^ 0xE1000000000000000000000000000000 else v / 2)
      (if x / 2 ^ n % 2 = 1 then z ^^^ v else z)

/-- GHASH over `n` blocks of bytes, the last filled with zeros. -/
def ghash (h : Nat) : Nat → List Nat → Nat → Nat
  | 0, _, y => y
  | n + 1, bs, y =>
    let b := (bs.take 16 ++ List.replicate 16 0).take 16
    ghash h n (bs.drop 16) (ghashMul (y ^^^ beNat b) 128 h 0)

/-- The 16-byte tag over authenticated data alone, under a 32-byte key and a 12-byte initialisation vector. -/
def gcmTag (key iv aad : List Byte) : List Byte :=
  let k := key.map BitVec.toNat
  let h := beNat (aes256 k (List.replicate 16 0))
  let y := ghash h ((aad.length + 15) / 16) (aad.map BitVec.toNat) 0
  let y := ghashMul (y ^^^ (8 * aad.length * 2 ^ 64)) 128 h 0
  let e := aes256 k (iv.map BitVec.toNat ++ [0, 0, 0, 1])
  (xorBytes e (beBytes 16 y)).map (BitVec.ofNat 8)

end Sys2Proof.Machine
end

