-- ==== Sys2Proof/Syntax.lean ====
section
/-! DEFINITION. The steps of the part: one constructor of `Instr` per row of spec/opcode_table.json.
Rows with an encoding carry their operand fields raw, at the width the encoding gives them (spec 04 R66);
rows without an encoding are events of the hardware, the host and the fabric, whose operands name what they act on.
HINT_MSK, HINT_RET and FENCE_ACQ, whose whole operand is two or four bits, have one constructor per operand value:
Lean's compiler can build at most 244 constructors that carry data, and the other 244 encoded rows that do come first
(log entry 16). -/

namespace Sys2Proof

/-- The kinds of access a translation serves (R150, R330). -/
inductive Access | read | write | exec | atomic
  deriving DecidableEq, Repr

/-- A route prefix: address bits [63:64-len] and a length of 8 to 52 (R158). -/
structure Prefix where
  base : Nat
  len  : Nat
  deriving DecidableEq, Repr

/-- Roles of a relay: 0 PRIMARY, 1 REPLICA-FILLING, 2 REPLICA (R158). -/
inductive Role | primary | filling | replica
  deriving DecidableEq, Repr

/-- A relay as it arrives at a router (R158): `via` is the neighbour that sent it. -/
structure RelayMsg where
  pre    : Prefix
  holder : Nat
  role   : Role
  lease  : Nat
  cap    : BitVec 8
  cost   : Nat
  path   : List Nat
  wd     : Bool
  via    : Nat
  deriving DecidableEq, Repr

/-- The place chosen for one group: its flat number, core and slot (R44). -/
structure Seat where
  flat : Nat
  core : Nat
  slot : Nat
  deriving DecidableEq, Repr

/-- A request of another agent at the directory of an object's home (R185): a die of this package or
another package, named as R183 names agents. -/
inductive ObjReq
  | read (agent : Nat)
  | write (agent : Nat)
  | red (agent : Nat) (tag : Nat)
  | soleAccess (core : Nat)
  deriving DecidableEq, Repr

/-- A request of another agent as it arrives at the directory, with the pace time at which it was sent (26 R398). -/
structure ObjMsg where
  req  : ObjReq
  sent : Nat
  deriving DecidableEq, Repr

/-- A child's result at a merge node (R189): level and index of the node, the child's position, and the
values per element address, with the flags of the combines below. -/
structure ChildMsg where
  level : Nat
  index : Nat
  child : Nat
  vals  : List (Nat × BitVec 64)
  flags : BitVec 10
  deriving DecidableEq, Repr

/-- What reaches the nodes of an object: a child's result, or at a package that is not the home the news that a round has
ended, with the home's round record (R195, 27 R400). -/
inductive NodeMsg
  | child (c : ChildMsg)
  | ended (record : BitVec 64)
  deriving DecidableEq, Repr

/-- A multicast packet at a port (R210, R378): an echo with its tree number and hop budget. -/
structure McPacket where
  tree   : Nat
  vdid   : Nat
  hops   : Nat
  prim   : Nat
  addr   : Nat
  data   : List (BitVec 8)
  time   : Nat
  seq    : Nat
  deriving DecidableEq, Repr

/-- An echo that arrives at a holder (R164): one on its way in this package, or one of another package's primary, with its
apply time. `hold` is the hold of a line of an object of another package's home at a replica here (R184). -/
inductive EchoMsg
  | flight (n : Nat)
  | hold (dst addr : Nat)
  | outside (pre : Prefix) (src dst addr : Nat) (data : List (BitVec 8)) (time : Nat)
  deriving DecidableEq, Repr

/-- A renewal that arrives at a replica (R166), likewise. -/
inductive RenewMsg
  | flight (n : Nat)
  | outside (pre : Prefix) (src dst time : Nat)
  deriving DecidableEq, Repr

/-- A read that arrives at a holder (R170): of a load in flight, or of a core of another package (R223), with the time at which
it was sent. `poisoned` is the poisoned response of another package's home to a load in flight (26 R399). -/
inductive ReadMsg
  | load (n : Nat)
  | outside (pkg core world holder line floor sent : Nat)
  | poisoned (n line : Nat)
  deriving DecidableEq, Repr

/-- What another package writes: bytes, or an atomic by operation, size, operand and comparison value (R164). -/
inductive FarWrite
  | bytes (data : List (BitVec 8))
  | atomic (op size x cmp : Nat)
  deriving DecidableEq, Repr

/-- A write that arrives at a primary (R164): one in flight here, or one of a core of another package with the time at which it was
sent. Of a write in flight to another package's home, `grant` says that it has made this package the owner of an object, whose
lines come with it (26 R397), and `poisoned` that the object is OWNER_LOST (26 R399). -/
inductive WriteMsg
  | flight (n : Nat)
  | outside (pkg core world holder addr : Nat) (w : FarWrite) (sent : Nat)
  | grant (n : Nat) (lines : List (Nat × List (BitVec 8)))
  | poisoned (n : Nat)
  deriving DecidableEq, Repr

/-- A fill write that arrives at a FILLING holder (R172): one in flight here, or one of another package with the stamp of the line that it
was read from. -/
inductive FillMsg
  | flight (n : Nat)
  | outside (pre : Prefix) (dst addr : Nat) (data : List (BitVec 8)) (stamp : Nat)
  deriving DecidableEq, Repr

/-- A snoop or collection that arrives at an agent (R196): of an object whose home is here, or of another package's home for the
object of a line that this package owns or holds partials of (26 R397). -/
inductive SnoopMsg
  | home (obj : Nat)
  | away (line : Nat)
  deriving DecidableEq, Repr

/-- A refusal that arrives at its relay's origin (R160): the number of the relay, and whether it was refused as a
second PRIMARY. -/
structure RefusalMsg where
  relay  : Nat
  second : Bool
  deriving DecidableEq, Repr

/-- An answer to the snoop or collection of an object (R185, R190, R196). Another package's carries the lines it owned and
the partials it held, each with its address; an answer names its agent and the time at which it was sent (26 R398). -/
structure AnswerMsg where
  obj   : Nat
  agent : Nat
  sent  : Nat
  lines : List (Nat × List (BitVec 8))
  parts : List (Nat × BitVec 64)
  deriving DecidableEq, Repr

/-- The three route instructions as another package's tier engine requests them (R379); `baton` is the handover that the origin router
of another package's holder asks of the old primary's origin router (R173). -/
inductive RteOp | ann | wd | role | baton
  deriving DecidableEq, Repr

/-- A packet carried by a flit: its virtual channel, port sequence and payload (R372). -/
structure Packet where
  chan : Nat
  seq  : Nat
  body : List (BitVec 8)
  deriving DecidableEq, Repr

/-- A flit as received: its sequence and acknowledgement, virtual channel and pace sample, the sequence number from which its sender
asks for a replay, whether CRC and tag hold, its packets (R372, R373). -/
structure Flit where
  seq     : Nat
  ack     : Nat
  chan    : Nat
  pace    : Nat
  nak     : Option Nat
  crcOk   : Bool
  tagOk   : Bool
  packets : List Packet
  deriving DecidableEq, Repr

/-- A CXL.mem request of the host (R371). -/
inductive HostReq
  | read (addr : Nat) (len : Nat)
  | write (addr : Nat) (data : List (BitVec 8))
  deriving DecidableEq, Repr

/-- One firmware image offered at boot: its bytes and whether its signature verifies (R381). -/
structure FwImage where
  bytes : List (BitVec 8)
  sigOk : Bool
  deriving DecidableEq, Repr

/-- A write of the mailbox `cmd` field with the request payload (R384). -/
structure MboxCmd where
  cmd : BitVec 64
  req : List (BitVec 8)
  deriving DecidableEq, Repr

/-- What a soft error hits (R92, R229, R290). -/
inductive ErrSite
  | vreg (uid reg lane : Nat)
  | sreg (uid reg : Nat)
  | kreg (uid reg : Nat)
  | scratch (core rec off : Nat)
  | l1 (core line : Nat)
  | storeBuf (core n : Nat)
  | tile (core idx elem : Nat)
  | slot (core idx elem : Nat)
  | msc (ctl line : Nat)
  | l2 (slice line : Nat)
  deriving DecidableEq, Repr

/-- One constructor per row of the opcode table: the encoded rows, then the events, in the table's order. -/
inductive Instr where
  /-- SADD: Scalar add of two registers, modulo 2^W. (R98) -/
  | sadd (d : BitVec 7) (a : BitVec 7) (b : BitVec 7) (w : BitVec 1)
  /-- SSUB: Scalar subtract, modulo 2^W. (R98) -/
  | ssub (d : BitVec 7) (a : BitVec 7) (b : BitVec 7) (w : BitVec 1)
  /-- SMULLO: Scalar multiply, keeping the low W bits. (R98) -/
  | smullo (d : BitVec 7) (a : BitVec 7) (b : BitVec 7) (w : BitVec 1)
  /-- SMULHI_S: Scalar signed multiply, keeping the high W bits. (R98) -/
  | smulhiS (d : BitVec 7) (a : BitVec 7) (b : BitVec 7) (w : BitVec 1)
  /-- SMULHI_U: Scalar unsigned multiply, keeping the high W bits. (R98) -/
  | smulhiU (d : BitVec 7) (a : BitVec 7) (b : BitVec 7) (w : BitVec 1)
  /-- SMAD: Scalar multiply-add into the destination, which is also read. (R98) -/
  | smad (d : BitVec 7) (a : BitVec 7) (b : BitVec 7) (w : BitVec 1)
  /-- SMIN_S: Scalar signed minimum. (R98) -/
  | sminS (d : BitVec 7) (a : BitVec 7) (b : BitVec 7) (w : BitVec 1)
  /-- SMIN_U: Scalar unsigned minimum. (R98) -/
  | sminU (d : BitVec 7) (a : BitVec 7) (b : BitVec 7) (w : BitVec 1)
  /-- SMAX_S: Scalar signed maximum. (R98) -/
  | smaxS (d : BitVec 7) (a : BitVec 7) (b : BitVec 7) (w : BitVec 1)
  /-- SMAX_U: Scalar unsigned maximum. (R98) -/
  | smaxU (d : BitVec 7) (a : BitVec 7) (b : BitVec 7) (w : BitVec 1)
  /-- SADDS_S: Scalar signed saturating add; sets sat when it clamps. (R99) -/
  | saddsS (d : BitVec 7) (a : BitVec 7) (b : BitVec 7) (w : BitVec 1)
  /-- SADDS_U: Scalar unsigned saturating add; sets sat when it clamps. (R99) -/
  | saddsU (d : BitVec 7) (a : BitVec 7) (b : BitVec 7) (w : BitVec 1)
  /-- SADDC: Add with carry through the register pair sd, sd+1. (R100) -/
  | saddc (d : BitVec 7) (a : BitVec 7) (b : BitVec 7) (w : BitVec 1)
  /-- SSUBB: Subtract with borrow through the register pair sd, sd+1. (R100) -/
  | ssubb (d : BitVec 7) (a : BitVec 7) (b : BitVec 7) (w : BitVec 1)
  /-- SABS: Scalar absolute value. (R98) -/
  | sabs (d : BitVec 7) (a : BitVec 7) (w : BitVec 1)
  /-- SNEG: Scalar negation. (R98) -/
  | sneg (d : BitVec 7) (a : BitVec 7) (w : BitVec 1)
  /-- SAND: Scalar bitwise AND. (R98) -/
  | sand (d : BitVec 7) (a : BitVec 7) (b : BitVec 7) (w : BitVec 1)
  /-- SOR: Scalar bitwise OR. (R98) -/
  | sor (d : BitVec 7) (a : BitVec 7) (b : BitVec 7) (w : BitVec 1)
  /-- SXOR: Scalar bitwise XOR. (R98) -/
  | sxor (d : BitVec 7) (a : BitVec 7) (b : BitVec 7) (w : BitVec 1)
  /-- SANDN: Scalar x AND NOT y. (R98) -/
  | sandn (d : BitVec 7) (a : BitVec 7) (b : BitVec 7) (w : BitVec 1)
  /-- SNOT: Scalar bitwise NOT. (R98) -/
  | snot (d : BitVec 7) (a : BitVec 7) (w : BitVec 1)
  /-- SSHL: Scalar shift left by a register count. (R101) -/
  | sshl (d : BitVec 7) (a : BitVec 7) (b : BitVec 7) (w : BitVec 1)
  /-- SSHR: Scalar logical shift right by a register count. (R101) -/
  | sshr (d : BitVec 7) (a : BitVec 7) (b : BitVec 7) (w : BitVec 1)
  /-- SSAR: Scalar arithmetic shift right by a register count. (R101) -/
  | ssar (d : BitVec 7) (a : BitVec 7) (b : BitVec 7) (w : BitVec 1)
  /-- SROT: Scalar rotate left. (R101) -/
  | srot (d : BitVec 7) (a : BitVec 7) (b : BitVec 7) (w : BitVec 1)
  /-- SCLZ: Scalar count of leading zero bits. (R98) -/
  | sclz (d : BitVec 7) (a : BitVec 7) (w : BitVec 1)
  /-- SPOP: Scalar population count. (R98) -/
  | spop (d : BitVec 7) (a : BitVec 7) (w : BitVec 1)
  /-- SBREV: Scalar bit reversal. (R98) -/
  | sbrev (d : BitVec 7) (a : BitVec 7) (w : BitVec 1)
  /-- SBFE_U: Scalar bitfield extract, zero-extended. (R102) -/
  | sbfeU (d : BitVec 7) (a : BitVec 7) (b : BitVec 7) (w : BitVec 1)
  /-- SBFE_S: Scalar bitfield extract, sign-extended. (R102) -/
  | sbfeS (d : BitVec 7) (a : BitVec 7) (b : BitVec 7) (w : BitVec 1)
  /-- SBFI: Scalar bitfield insert into the destination. (R102) -/
  | sbfi (d : BitVec 7) (a : BitVec 7) (b : BitVec 7) (w : BitVec 1)
  /-- SUNPACK: Scalar sign extension of the upper half. (R98) -/
  | sunpack (d : BitVec 7) (a : BitVec 7) (w : BitVec 1)
  /-- SCMP: Scalar compare under a condition code; writes 1 or 0. (R103) -/
  | scmp (c : BitVec 3) (d : BitVec 7) (a : BitVec 7) (b : BitVec 7) (w : BitVec 1)
  /-- SMOV: Scalar move; the .i32 form sign-extends. (R98) -/
  | smov (d : BitVec 7) (a : BitVec 7) (w : BitVec 1)
  /-- SEXT8_S: Sign-extends bits [7:0]. (R98) -/
  | sext8S (d : BitVec 7) (a : BitVec 7) (w : BitVec 1)
  /-- SEXT8_U: Zero-extends bits [7:0]. (R98) -/
  | sext8U (d : BitVec 7) (a : BitVec 7) (w : BitVec 1)
  /-- SEXT16_S: Sign-extends bits [15:0]. (R98) -/
  | sext16S (d : BitVec 7) (a : BitVec 7) (w : BitVec 1)
  /-- SEXT16_U: Zero-extends bits [15:0]. (R98) -/
  | sext16U (d : BitVec 7) (a : BitVec 7) (w : BitVec 1)
  /-- SLEA: Adds a sign-extended 32-bit index to a 64-bit base. (R98) -/
  | slea (d : BitVec 7) (a : BitVec 7) (b : BitVec 7)
  /-- SSEL: Scalar select on whether the destination is non-zero. (R98) -/
  | ssel (d : BitVec 7) (a : BitVec 7) (b : BitVec 7) (w : BitVec 1)
  /-- SPACK: Packs the low halves of two scalars. (R98) -/
  | spack (d : BitVec 7) (a : BitVec 7) (b : BitVec 7) (w : BitVec 1)
  /-- SADD_IMM: Scalar add of an immediate. (R104) -/
  | saddImm (d : BitVec 7) (a : BitVec 7) (i : BitVec 9)
  /-- SAND_IMM: Scalar AND with an immediate. (R104) -/
  | sandImm (d : BitVec 7) (a : BitVec 7) (i : BitVec 9)
  /-- SOR_IMM: Scalar OR with an immediate. (R104) -/
  | sorImm (d : BitVec 7) (a : BitVec 7) (i : BitVec 9)
  /-- SXOR_IMM: Scalar XOR with an immediate. (R104) -/
  | sxorImm (d : BitVec 7) (a : BitVec 7) (i : BitVec 9)
  /-- SSHL_IMM: Scalar shift left by an immediate. (R104) -/
  | sshlImm (d : BitVec 7) (a : BitVec 7) (i : BitVec 9)
  /-- SSHR_IMM: Scalar logical shift right by an immediate. (R104) -/
  | sshrImm (d : BitVec 7) (a : BitVec 7) (i : BitVec 9)
  /-- SSAR_IMM: Scalar arithmetic shift right by an immediate. (R104) -/
  | ssarImm (d : BitVec 7) (a : BitVec 7) (i : BitVec 9)
  /-- SMOVI: Moves an immediate into a scalar. (R104) -/
  | smovi (d : BitVec 7) (i : BitVec 9)
  /-- SDIV_S: Multi-turn signed scalar division that sets a completion flag. (R106) -/
  | sdivS (f : BitVec 4) (d : BitVec 7) (a : BitVec 7) (b : BitVec 7)
  /-- SDIV_U: Multi-turn unsigned scalar division. (R106) -/
  | sdivU (f : BitVec 4) (d : BitVec 7) (a : BitVec 7) (b : BitVec 7)
  /-- SREM_S: Multi-turn signed scalar remainder. (R106) -/
  | sremS (f : BitVec 4) (d : BitVec 7) (a : BitVec 7) (b : BitVec 7)
  /-- SREM_U: Multi-turn unsigned scalar remainder. (R106) -/
  | sremU (f : BitVec 4) (d : BitVec 7) (a : BitVec 7) (b : BitVec 7)
  /-- VADD: Vector add per lane. (R98) -/
  | vadd (d : BitVec 7) (a : BitVec 7) (b : BitVec 7) (s : BitVec 1)
  /-- VSUB: Vector subtract per lane. (R98) -/
  | vsub (d : BitVec 7) (a : BitVec 7) (b : BitVec 7) (s : BitVec 1)
  /-- VMULLO: Vector multiply, keeping the low bits. (R98) -/
  | vmullo (d : BitVec 7) (a : BitVec 7) (b : BitVec 7) (s : BitVec 1)
  /-- VMULHI_S: Vector signed multiply, keeping the high bits. (R98) -/
  | vmulhiS (d : BitVec 7) (a : BitVec 7) (b : BitVec 7) (s : BitVec 1)
  /-- VMULHI_U: Vector unsigned multiply, keeping the high bits. (R98) -/
  | vmulhiU (d : BitVec 7) (a : BitVec 7) (b : BitVec 7) (s : BitVec 1)
  /-- VMAD: Vector multiply-add into the destination. (R98) -/
  | vmad (d : BitVec 7) (a : BitVec 7) (b : BitVec 7) (s : BitVec 1)
  /-- VMIN_S: Vector signed minimum. (R98) -/
  | vminS (d : BitVec 7) (a : BitVec 7) (b : BitVec 7) (s : BitVec 1)
  /-- VMIN_U: Vector unsigned minimum. (R98) -/
  | vminU (d : BitVec 7) (a : BitVec 7) (b : BitVec 7) (s : BitVec 1)
  /-- VMAX_S: Vector signed maximum. (R98) -/
  | vmaxS (d : BitVec 7) (a : BitVec 7) (b : BitVec 7) (s : BitVec 1)
  /-- VMAX_U: Vector unsigned maximum. (R98) -/
  | vmaxU (d : BitVec 7) (a : BitVec 7) (b : BitVec 7) (s : BitVec 1)
  /-- VADDS_S: Vector signed saturating add. (R99) -/
  | vaddsS (d : BitVec 7) (a : BitVec 7) (b : BitVec 7) (s : BitVec 1)
  /-- VADDS_U: Vector unsigned saturating add. (R99) -/
  | vaddsU (d : BitVec 7) (a : BitVec 7) (b : BitVec 7) (s : BitVec 1)
  /-- VABS: Vector absolute value. (R98) -/
  | vabs (d : BitVec 7) (b : BitVec 7) (s : BitVec 1)
  /-- VNEG: Vector negation. (R98) -/
  | vneg (d : BitVec 7) (b : BitVec 7) (s : BitVec 1)
  /-- VSEL: Vector select per lane. (R98) -/
  | vsel (d : BitVec 7) (a : BitVec 7) (b : BitVec 7) (s : BitVec 1)
  /-- VMOV: Vector move. (R98) -/
  | vmov (d : BitVec 7) (b : BitVec 7) (s : BitVec 1)
  /-- VAND: Vector bitwise AND. (R98) -/
  | vand (d : BitVec 7) (a : BitVec 7) (b : BitVec 7) (s : BitVec 1)
  /-- VOR: Vector bitwise OR. (R98) -/
  | vor (d : BitVec 7) (a : BitVec 7) (b : BitVec 7) (s : BitVec 1)
  /-- VXOR: Vector bitwise XOR. (R98) -/
  | vxor (d : BitVec 7) (a : BitVec 7) (b : BitVec 7) (s : BitVec 1)
  /-- VANDN: Vector x AND NOT y. (R98) -/
  | vandn (d : BitVec 7) (a : BitVec 7) (b : BitVec 7) (s : BitVec 1)
  /-- VNOT: Vector bitwise NOT. (R98) -/
  | vnot (d : BitVec 7) (b : BitVec 7) (s : BitVec 1)
  /-- VSHL: Vector shift left. (R101) -/
  | vshl (d : BitVec 7) (a : BitVec 7) (b : BitVec 7) (s : BitVec 1)
  /-- VSHR: Vector logical shift right. (R101) -/
  | vshr (d : BitVec 7) (a : BitVec 7) (b : BitVec 7) (s : BitVec 1)
  /-- VSAR: Vector arithmetic shift right. (R101) -/
  | vsar (d : BitVec 7) (a : BitVec 7) (b : BitVec 7) (s : BitVec 1)
  /-- VROT: Vector rotate left. (R101) -/
  | vrot (d : BitVec 7) (a : BitVec 7) (b : BitVec 7) (s : BitVec 1)
  /-- VCLZ: Vector count of leading zero bits. (R98) -/
  | vclz (d : BitVec 7) (b : BitVec 7) (s : BitVec 1)
  /-- VPOP: Vector population count. (R98) -/
  | vpop (d : BitVec 7) (b : BitVec 7) (s : BitVec 1)
  /-- VBREV: Vector bit reversal. (R98) -/
  | vbrev (d : BitVec 7) (b : BitVec 7) (s : BitVec 1)
  /-- VBFE_U: Vector bitfield extract, zero-extended. (R102) -/
  | vbfeU (d : BitVec 7) (a : BitVec 7) (b : BitVec 7) (s : BitVec 1)
  /-- VBFE_S: Vector bitfield extract, sign-extended. (R102) -/
  | vbfeS (d : BitVec 7) (a : BitVec 7) (b : BitVec 7) (s : BitVec 1)
  /-- VBFI: Vector bitfield insert. (R102) -/
  | vbfi (d : BitVec 7) (a : BitVec 7) (b : BitVec 7) (s : BitVec 1)
  /-- VLEA: Forms a 64-bit address per lane into a register pair. (R105) -/
  | vlea (d : BitVec 7) (a : BitVec 7) (b : BitVec 7) (s : BitVec 1)
  /-- VCMP: Vector integer compare into a mask register. (R103) -/
  | vcmp (c : BitVec 3) (d : BitVec 7) (a : BitVec 7) (b : BitVec 7) (s : BitVec 1)
  /-- VEXT8_S: Vector sign extension of bits [7:0]. (R98) -/
  | vext8S (d : BitVec 7) (b : BitVec 7) (s : BitVec 1)
  /-- VEXT8_U: Vector zero extension of bits [7:0]. (R98) -/
  | vext8U (d : BitVec 7) (b : BitVec 7) (s : BitVec 1)
  /-- VEXT16_S: Vector sign extension of bits [15:0]. (R98) -/
  | vext16S (d : BitVec 7) (b : BitVec 7) (s : BitVec 1)
  /-- VEXT16_U: Vector zero extension of bits [15:0]. (R98) -/
  | vext16U (d : BitVec 7) (b : BitVec 7) (s : BitVec 1)
  /-- VPACK: Vector pack of two 16-bit halves. (R98) -/
  | vpack (d : BitVec 7) (a : BitVec 7) (b : BitVec 7) (s : BitVec 1)
  /-- VUNPACK: Vector sign extension of the upper half. (R98) -/
  | vunpack (d : BitVec 7) (b : BitVec 7) (s : BitVec 1)
  /-- VADD_IMM: Vector add of an immediate. (R104) -/
  | vaddImm (d : BitVec 7) (a : BitVec 7) (i : BitVec 9)
  /-- VAND_IMM: Vector AND with an immediate. (R104) -/
  | vandImm (d : BitVec 7) (a : BitVec 7) (i : BitVec 9)
  /-- VOR_IMM: Vector OR with an immediate. (R104) -/
  | vorImm (d : BitVec 7) (a : BitVec 7) (i : BitVec 9)
  /-- VXOR_IMM: Vector XOR with an immediate. (R104) -/
  | vxorImm (d : BitVec 7) (a : BitVec 7) (i : BitVec 9)
  /-- VSHL_IMM: Vector shift left by an immediate. (R104) -/
  | vshlImm (d : BitVec 7) (a : BitVec 7) (i : BitVec 9)
  /-- VSHR_IMM: Vector logical shift right by an immediate. (R104) -/
  | vshrImm (d : BitVec 7) (a : BitVec 7) (i : BitVec 9)
  /-- VSAR_IMM: Vector arithmetic shift right by an immediate. (R104) -/
  | vsarImm (d : BitVec 7) (a : BitVec 7) (i : BitVec 9)
  /-- VMOVI: Moves an immediate into every lane. (R104) -/
  | vmovi (d : BitVec 7) (i : BitVec 9)
  /-- VDIV_S: Multi-turn signed vector division. (R106) -/
  | vdivS (f : BitVec 4) (d : BitVec 7) (a : BitVec 7) (b : BitVec 7)
  /-- VDIV_U: Multi-turn unsigned vector division. (R106) -/
  | vdivU (f : BitVec 4) (d : BitVec 7) (a : BitVec 7) (b : BitVec 7)
  /-- VREM_S: Multi-turn signed vector remainder. (R106) -/
  | vremS (f : BitVec 4) (d : BitVec 7) (a : BitVec 7) (b : BitVec 7)
  /-- VREM_U: Multi-turn unsigned vector remainder. (R106) -/
  | vremU (f : BitVec 4) (d : BitVec 7) (a : BitVec 7) (b : BitVec 7)
  /-- VFADD: FP32 add, rounded once. (R112) -/
  | vfadd (d : BitVec 7) (a : BitVec 7) (b : BitVec 7) (s : BitVec 1)
  /-- VFSUB: FP32 subtract. (R112) -/
  | vfsub (d : BitVec 7) (a : BitVec 7) (b : BitVec 7) (s : BitVec 1)
  /-- VFMUL: FP32 multiply. (R112) -/
  | vfmul (d : BitVec 7) (a : BitVec 7) (b : BitVec 7) (s : BitVec 1)
  /-- VFMA: FP32 fused multiply-add. (R112) -/
  | vfma (d : BitVec 7) (a : BitVec 7) (b : BitVec 7) (s : BitVec 1)
  /-- VFMS: FP32 fused multiply-subtract. (R112) -/
  | vfms (d : BitVec 7) (a : BitVec 7) (b : BitVec 7) (s : BitVec 1)
  /-- VFNMA: FP32 negated fused multiply-add. (R112) -/
  | vfnma (d : BitVec 7) (a : BitVec 7) (b : BitVec 7) (s : BitVec 1)
  /-- VFMIN_NUM: FP32 minimum that ignores a NaN. (R113) -/
  | vfminNum (d : BitVec 7) (a : BitVec 7) (b : BitVec 7) (s : BitVec 1)
  /-- VFMIN_PROP: FP32 minimum that propagates a NaN. (R113) -/
  | vfminProp (d : BitVec 7) (a : BitVec 7) (b : BitVec 7) (s : BitVec 1)
  /-- VFMAX_NUM: FP32 maximum that ignores a NaN. (R113) -/
  | vfmaxNum (d : BitVec 7) (a : BitVec 7) (b : BitVec 7) (s : BitVec 1)
  /-- VFMAX_PROP: FP32 maximum that propagates a NaN. (R113) -/
  | vfmaxProp (d : BitVec 7) (a : BitVec 7) (b : BitVec 7) (s : BitVec 1)
  /-- VFABS: FP32 absolute value. (R113) -/
  | vfabs (d : BitVec 7) (b : BitVec 7) (s : BitVec 1)
  /-- VFNEG: FP32 negation. (R113) -/
  | vfneg (d : BitVec 7) (b : BitVec 7) (s : BitVec 1)
  /-- VFSCALE: Multiplies by a power of two given as INT32. (R112) -/
  | vfscale (d : BitVec 7) (a : BitVec 7) (b : BitVec 7) (s : BitVec 1)
  /-- VFROUND: Rounds to an integral FP32 value. (R112) -/
  | vfround (d : BitVec 7) (b : BitVec 7) (s : BitVec 1)
  /-- VFCLASS: Writes a one-hot word giving the FP32 class. (R115) -/
  | vfclass (d : BitVec 7) (b : BitVec 7) (s : BitVec 1)
  /-- VFCMP: FP32 compare into a mask register. (R114) -/
  | vfcmp (c : BitVec 3) (d : BitVec 7) (a : BitVec 7) (b : BitVec 7) (s : BitVec 1)
  /-- VCVT: Converts between the formats coded in fn and b. (R118) -/
  | vcvt (t : BitVec 4) (d : BitVec 7) (a : BitVec 7) (s : BitVec 7)
  /-- VPK_E4M3: Packs four FP32 registers into E4M3 under a scale code. (R120) -/
  | vpkE4m3 (d : BitVec 7) (a : BitVec 7) (b : BitVec 7) (s : BitVec 1)
  /-- VPK_E5M2: Packs four FP32 registers into E5M2 under a scale code. (R120) -/
  | vpkE5m2 (d : BitVec 7) (a : BitVec 7) (b : BitVec 7) (s : BitVec 1)
  /-- VPK_IO4: Quantises eight FP32 registers into IO4 quads. (R121) -/
  | vpkIo4 (d : BitVec 7) (a : BitVec 7) (b : BitVec 7) (s : BitVec 1)
  /-- VUNPK_E4M3: Decodes E4M3 elements to FP32 under a scale code. (R122) -/
  | vunpkE4m3 (d : BitVec 7) (a : BitVec 7) (b : BitVec 7) (s : BitVec 1)
  /-- VUNPK_E5M2: Decodes E5M2 elements to FP32. (R122) -/
  | vunpkE5m2 (d : BitVec 7) (a : BitVec 7) (b : BitVec 7) (s : BitVec 1)
  /-- VUNPK_IO4: Decodes IO4 quads to FP32. (R122) -/
  | vunpkIo4 (d : BitVec 7) (a : BitVec 7) (b : BitVec 7) (s : BitVec 1)
  /-- VHADD_F16: Packed FP16 add. (R116) -/
  | vhaddF16 (d : BitVec 7) (a : BitVec 7) (b : BitVec 7) (s : BitVec 1)
  /-- VHADD_BF16: Packed BF16 add. (R116) -/
  | vhaddBf16 (d : BitVec 7) (a : BitVec 7) (b : BitVec 7) (s : BitVec 1)
  /-- VHMUL_F16: Packed FP16 multiply. (R116) -/
  | vhmulF16 (d : BitVec 7) (a : BitVec 7) (b : BitVec 7) (s : BitVec 1)
  /-- VHMUL_BF16: Packed BF16 multiply. (R116) -/
  | vhmulBf16 (d : BitVec 7) (a : BitVec 7) (b : BitVec 7) (s : BitVec 1)
  /-- VHFMA_F16: Packed FP16 fused multiply-add. (R116) -/
  | vhfmaF16 (d : BitVec 7) (a : BitVec 7) (b : BitVec 7) (s : BitVec 1)
  /-- VHFMA_BF16: Packed BF16 fused multiply-add. (R116) -/
  | vhfmaBf16 (d : BitVec 7) (a : BitVec 7) (b : BitVec 7) (s : BitVec 1)
  /-- VFRCP: Multi-turn faithful reciprocal. (R117) -/
  | vfrcp (f : BitVec 4) (d : BitVec 7) (a : BitVec 7)
  /-- VFRSQ: Multi-turn reciprocal square root. (R117) -/
  | vfrsq (f : BitVec 4) (d : BitVec 7) (a : BitVec 7)
  /-- VFSQRT: Multi-turn correctly rounded square root. (R117) -/
  | vfsqrt (f : BitVec 4) (d : BitVec 7) (a : BitVec 7)
  /-- VFEXP2: Multi-turn base-2 exponential. (R117) -/
  | vfexp2 (f : BitVec 4) (d : BitVec 7) (a : BitVec 7)
  /-- VFLOG2: Multi-turn base-2 logarithm. (R117) -/
  | vflog2 (f : BitVec 4) (d : BitVec 7) (a : BitVec 7)
  /-- VFSIN: Multi-turn sine. (R117) -/
  | vfsin (f : BitVec 4) (d : BitVec 7) (a : BitVec 7)
  /-- VFCOS: Multi-turn cosine. (R117) -/
  | vfcos (f : BitVec 4) (d : BitVec 7) (a : BitVec 7)
  /-- VFDOT2_BF16: Multi-turn fused BF16 pair dot product into FP32. (R123) -/
  | vfdot2Bf16 (f : BitVec 4) (d : BitVec 7) (a : BitVec 7) (b : BitVec 7)
  /-- VFDOT4_FP8: Multi-turn fused E4M3 quad dot product into FP32. (R123) -/
  | vfdot4Fp8 (f : BitVec 4) (d : BitVec 7) (a : BitVec 7) (b : BitVec 7)
  /-- VSHUF: Multi-turn lane permutation by a vector index. (R124) -/
  | vshuf (f : BitVec 4) (d : BitVec 7) (a : BitVec 7) (b : BitVec 7)
  /-- VLROT: Multi-turn lane rotation by a scalar. (R124) -/
  | vlrot (f : BitVec 4) (d : BitVec 7) (a : BitVec 7) (b : BitVec 7)
  /-- VSCAN: Multi-turn inclusive prefix over the lanes of exec. (R125) -/
  | vscan (f : BitVec 4) (d : BitVec 7) (a : BitVec 7) (o : BitVec 7)
  /-- VSCAN_EXCL: Multi-turn exclusive prefix over the lanes of exec. (R125) -/
  | vscanExcl (f : BitVec 4) (d : BitVec 7) (a : BitVec 7) (o : BitVec 7)
  /-- VRED: Multi-turn reduction of the lanes of exec to a scalar by a fixed tree. (R126) -/
  | vred (f : BitVec 4) (d : BitVec 7) (a : BitVec 7) (o : BitVec 7)
  /-- VBCAST: Multi-turn broadcast of one lane. (R124) -/
  | vbcast (f : BitVec 4) (d : BitVec 7) (a : BitVec 7) (b : BitVec 7)
  /-- KAND: Mask AND. (R143) -/
  | kand (d : BitVec 7) (a : BitVec 7) (b : BitVec 7)
  /-- KOR: Mask OR. (R143) -/
  | kor (d : BitVec 7) (a : BitVec 7) (b : BitVec 7)
  /-- KXOR: Mask XOR. (R143) -/
  | kxor (d : BitVec 7) (a : BitVec 7) (b : BitVec 7)
  /-- KNOT: Mask NOT. (R143) -/
  | knot (d : BitVec 7) (a : BitVec 7)
  /-- KMOV: Mask move. (R143) -/
  | kmov (d : BitVec 7) (a : BitVec 7)
  /-- KPOP: Counts the one bits of a mask into a scalar. (R143) -/
  | kpop (d : BitVec 7) (a : BitVec 7)
  /-- KFIRST: Index of the lowest set bit of a mask, or 32. (R143) -/
  | kfirst (d : BitVec 7) (a : BitVec 7)
  /-- VBALLOT: Writes a scalar with the non-zero lanes of exec. (R128) -/
  | vballot (d : BitVec 7) (b : BitVec 7)
  /-- VRNG_RD: Reads each lane's stochastic generator state. (R129) -/
  | vrngRd (d : BitVec 7)
  /-- VRNG_SEED: Seeds each lane's generator and returns the old state. (R129) -/
  | vrngSeed (d : BitVec 7) (b : BitVec 7) (s : BitVec 1)
  /-- VRNG_STEP: Advances each lane's generator one step. (R129) -/
  | vrngStep (d : BitVec 7)
  /-- BR_Z: Uniform branch if the scalar is zero. (R132) -/
  | brZ (s : BitVec 6) (d : BitVec 17)
  /-- BR_NZ: Uniform branch if the scalar is non-zero. (R132) -/
  | brNz (s : BitVec 6) (d : BitVec 17)
  /-- BR_LT: Uniform branch if the scalar is negative. (R132) -/
  | brLt (s : BitVec 6) (d : BitVec 17)
  /-- BR_GE: Uniform branch if the scalar is non-negative. (R132) -/
  | brGe (s : BitVec 6) (d : BitVec 17)
  /-- CALL: Direct call that writes the link to a scalar. (R132) -/
  | call (s : BitVec 6) (d : BitVec 17)
  /-- JMP: Direct unconditional jump. (R132) -/
  | jmp (d : BitVec 17)
  /-- BRK_ANY: Moves the whole split if any lane of the mask is set. (R134) -/
  | brkAny (k : BitVec 4) (d : BitVec 19)
  /-- BRK_NONE: Moves the whole split if no lane of the mask is set. (R134) -/
  | brkNone (k : BitVec 4) (d : BitVec 19)
  /-- BRD: Divergent branch that may create a split or a serialised record. (R137) -/
  | brd (k : BitVec 4) (d : BitVec 19)
  /-- MARK: Pushes a rejoin entry when the group has one split. (R136) -/
  | mark (d : BitVec 19)
  /-- RET: Returns to the address held in a scalar. (R133) -/
  | ret (a : BitVec 6)
  /-- JMP_REG: Jumps to the address held in a scalar. (R133) -/
  | jmpReg (a : BitVec 6)
  /-- CALL_REG: Calls the address held in a scalar and writes a link. (R133) -/
  | callReg (a : BitVec 6) (l : BitVec 6)
  /-- SLD: Scalar load from a GVA. (R233) -/
  | sld (z : BitVec 3) (d : BitVec 7) (b : BitVec 6) (o : BitVec 8) (r : BitVec 2)
  /-- SST: Scalar store entering the store buffer. (R233) -/
  | sst (z : BitVec 2) (d : BitVec 7) (b : BitVec 6) (o : BitVec 8) (r : BitVec 2)
  /-- VLD: Vector load of consecutive elements. (R233) -/
  | vld (z : BitVec 3) (d : BitVec 7) (b : BitVec 6) (o : BitVec 8) (r : BitVec 2)
  /-- VST: Vector store of consecutive elements. (R233) -/
  | vst (z : BitVec 2) (d : BitVec 7) (b : BitVec 6) (o : BitVec 8) (r : BitVec 2)
  /-- VLDG: Gather load by per-lane index. (R233) -/
  | vldg (z : BitVec 3) (d : BitVec 7) (b : BitVec 6) (i : BitVec 7) (c : BitVec 2)
  /-- VSTS: Scatter store by per-lane index. (R233) -/
  | vsts (z : BitVec 2) (d : BitVec 7) (b : BitVec 6) (i : BitVec 7) (c : BitVec 2)
  /-- SPLD: Scratchpad load that sets a completion flag. (R235) -/
  | spld (z : BitVec 3) (d : BitVec 7) (b : BitVec 6) (o : BitVec 6) (f : BitVec 4)
  /-- SPST: Scratchpad store performed in its issue cycle. (R235) -/
  | spst (z : BitVec 2) (d : BitVec 7) (b : BitVec 6) (o : BitVec 8)
  /-- CLD: Scalar constant load through L1. (R236) -/
  | cld (z : BitVec 1) (d : BitVec 7) (b : BitVec 6) (o : BitVec 8) (r : BitVec 2)
  /-- ATOM_SCALAR: Atomic with a scalar operand, executed at the line's serialisation point. (R242) -/
  | atomScalar (p : BitVec 6) (d : BitVec 6) (a : BitVec 6) (b : BitVec 6) (z : BitVec 2)
  /-- ATOM_VECTOR: One atomic per lane of exec, optionally returning old values. (R242) -/
  | atomVector (p : BitVec 6) (a : BitVec 7) (b : BitVec 7) (z : BitVec 2) (r : BitVec 1)
  /-- RED: Contributes lane values to an update-only object under an operator tag. (R188) -/
  | red (a : BitVec 7) (b : BitVec 7) (t : BitVec 4)
  /-- RED_CLOSE: Ends the issuing leaf's part of an ordered round. (R192) -/
  | redClose (d : BitVec 6) (a : BitVec 6)
  /-- FENCE_REL: Waits for earlier writes and then for the WCT pace condition. (R239) -/
  | fenceRel (s : BitVec 4)
  /-- FENCE_AR: Combines the acquire and release fence conditions. (R239) -/
  | fenceAr (s : BitVec 4)
  /-- CP: Hands a byte copy to a copy engine of the partition. (R244) -/
  | cp (a : BitVec 6) (b : BitVec 6) (c : BitVec 6) (p : BitVec 1) (q : BitVec 1)
  /-- CP_FILL: Privileged copy whose writes are fill writes. (R243) -/
  | cpFill (a : BitVec 6) (b : BitVec 6) (c : BitVec 6)
  /-- CP_T: Copies one tile between two tensor descriptors. (R245) -/
  | cpT (t : BitVec 7) (s : BitVec 7) (c : BitVec 6)
  /-- ST_MC: 64-bit store whose echoes travel as one multicast packet. (R247) -/
  | stMc (a : BitVec 6) (b : BitVec 6) (n : BitVec 8)
  /-- PF: Prefetch into L1, L2 or the memory-side cache. (R248) -/
  | pf (a : BitVec 6) (l : BitVec 2) (r : BitVec 2)
  /-- ZCLAIM: Claims accumulator tiles all or none. (R269) -/
  | zclaim (d : BitVec 6) (m : BitVec 12)
  /-- ZREL: Releases and clears tiles after their commands finish. (R270) -/
  | zrel (m : BitVec 12)
  /-- ZZERO: Matrix command that clears tiles. (R279) -/
  | zzero (m : BitVec 12)
  /-- OCLAIM: Claims operand slots all or none. (R269) -/
  | oclaim (d : BitVec 6) (m : BitVec 8)
  /-- OREL: Releases and clears operand slots. (R270) -/
  | orel (m : BitVec 8)
  /-- OLOAD: Matrix command that fills a slot from a descriptor. (R280) -/
  | oload (s : BitVec 3) (t : BitVec 7) (c : BitVec 6)
  /-- MMUL: Matrix command performing one step on a tile. (R279) -/
  | mmul (z : BitVec 4) (a : BitVec 3) (b : BitVec 3)
  /-- MLOOP: Matrix command streaming K steps from two descriptors. (R281) -/
  | mloop (z : BitVec 4) (a : BitVec 7) (b : BitVec 7) (k : BitVec 2)
  /-- MDRAIN: Matrix command converting a tile and writing it through a descriptor. (R282) -/
  | mdrain (z : BitVec 4) (t : BitVec 7) (c : BitVec 6) (m : BitVec 1)
  /-- MFENCE: Closes the open matrix batch and returns its number. (R277) -/
  | mfence (d : BitVec 6)
  /-- MWAIT: Waits for a matrix batch, or raises MATRIX_FAULT. (R278) -/
  | mwait (a : BitVec 6)
  /-- MSTAT: Reports matrix fault and queue state. (R289) -/
  | mstat (d : BitVec 6)
  /-- TINV: Invalidates translations for a range and stage. (R154) -/
  | tinv (a : BitVec 6) (b : BitVec 6) (c : BitVec 6) (t : BitVec 2)
  /-- TPROBE: Translates without faulting and reports the result. (R155) -/
  | tprobe (d : BitVec 6) (a : BitVec 6) (s : BitVec 1)
  /-- RTE_ANN: Announces a holder of a prefix at its origin router. (R174) -/
  | rteAnn (d : BitVec 6) (a : BitVec 6) (b : BitVec 6)
  /-- RTE_WD: Withdraws a holder of a prefix. (R174) -/
  | rteWd (d : BitVec 6) (a : BitVec 6) (b : BitVec 6)
  /-- RTE_ROLE: Changes a holder's role, including baton handover. (R174) -/
  | rteRole (d : BitVec 6) (a : BitVec 6) (b : BitVec 6)
  /-- RTE_Q: Queries the die router's entry for an address. (R175) -/
  | rteQ (d : BitVec 6) (a : BitVec 6) (m : BitVec 2)
  /-- RTE_SYNC: Waits until this package's relays have reached every router in scope. (R176) -/
  | rteSync (s : BitVec 4) (d : BitVec 6)
  /-- COBJ_DECL: Declares a coherence object from a record pair. (R200) -/
  | cobjDecl (d : BitVec 6) (a : BitVec 6) (o : BitVec 8)
  /-- COBJ_DROP: Completes any merge and frees an object entry. (R200) -/
  | cobjDrop (d : BitVec 6) (o : BitVec 8)
  /-- COBJ_SYNC: Completes the merge and returns the round record. (R200) -/
  | cobjSync (d : BitVec 6) (o : BitVec 8)
  /-- COBJ_SYNC_SHARED: Completes the merge and returns the object to SHARED. (R200) -/
  | cobjSyncShared (d : BitVec 6) (o : BitVec 8)
  /-- COBJ_RECLAIM: Returns an OWNER_LOST object to SHARED if the lost agent is fenced. (R198) -/
  | cobjReclaim (d : BitVec 6) (o : BitVec 8)
  /-- TDT_SET: Loads a tensor descriptor entry, deriving its scale if asked. (R205) -/
  | tdtSet (d : BitVec 6) (a : BitVec 6) (n : BitVec 7)
  /-- TDT_GET: Reads one 64-bit word of a descriptor entry. (R205) -/
  | tdtGet (d : BitVec 6) (w : BitVec 3) (n : BitVec 7)
  /-- TDT_DROP: Invalidates a descriptor entry. (R205) -/
  | tdtDrop (n : BitVec 7)
  /-- TREE_SET: Writes a carillon tree entry of a port. (R211) -/
  | treeSet (d : BitVec 6) (a : BitVec 6) (n : BitVec 8)
  /-- LAUNCH: Reads a launch record, fences and submits it for admission. (R301) -/
  | launch (d : BitVec 6) (a : BitVec 6)
  /-- WL_PUSH: Pushes one item per lane to a work list. (R303) -/
  | wlPush (d : BitVec 6) (b : BitVec 7) (n : BitVec 6)
  /-- WL_POP: Pops items from a work list, or reports DONE when quiescent. (R303) -/
  | wlPop (d : BitVec 7) (s : BitVec 6) (n : BitVec 6) (p : BitVec 1)
  /-- WL_DONE: Lowers the work list's producer count. (R303) -/
  | wlDone (n : BitVec 6)
  /-- TIER_REC: Records blocks of a range in the footprint. (R320) -/
  | tierRec (d : BitVec 6) (a : BitVec 6) (b : BitVec 6)
  /-- TIER_HINT_UP: Adds blocks to the footprint set and enqueues UP moves. (R320) -/
  | tierHintUp (d : BitVec 6) (a : BitVec 6) (b : BitVec 6)
  /-- TIER_HINT_DOWN: Removes blocks from the footprint set and enqueues DOWN moves. (R320) -/
  | tierHintDown (d : BitVec 6) (a : BitVec 6) (b : BitVec 6)
  /-- TIER_Q: Reports the tier state of the block holding an address. (R321) -/
  | tierQ (d : BitVec 6) (a : BitVec 6)
  /-- WAITC: Waits until the outstanding counts are within limits. (R356) -/
  | waitc (l : BitVec 6) (s : BitVec 6) (c : BitVec 6)
  /-- WAIT_F: Waits on completion flags and consumes them. (R354) -/
  | waitF (f : BitVec 12)
  /-- BAR: Barrier at a level, with optional fences. (R360) -/
  | bar (l : BitVec 3) (n : BitVec 1)
  /-- PCRD: Reads a performance counter of the context. (R364) -/
  | pcrd (d : BitVec 6) (e : BitVec 12)
  /-- TRAP: Raises SOFTWARE with a code. (R346) -/
  | trap (c : BitVec 16)
  /-- RCP: Takes a flashback checkpoint. (R336) -/
  | rcp (i : BitVec 12)
  /-- SYSRD: Reads a system register. (R350) -/
  | sysrd (d : BitVec 6) (n : BitVec 12)
  /-- SYSWR: Writes a system register. (R350) -/
  | syswr (b : BitVec 7) (n : BitVec 12)
  /-- HALT: Resets a context with HALT. (R351) -/
  | halt (d : BitVec 6) (a : BitVec 6)
  /-- HINT_LIT: Hint that widens an immediate or offset. (R77) -/
  | hintLit (p : BitVec 22)
  /-- HINT_LITH: Hint that supplies immediate bits [52:31]. (R77) -/
  | hintLith (p : BitVec 22)
  /-- HINT_DLY: Hint that delays its instruction by n turns. (R77) -/
  | hintDly (n : BitVec 6)
  /-- HINT_FLG: Hint that makes its instruction wait on flags. (R354) -/
  | hintFlg (f : BitVec 12)
  /-- HINT_RND: Hint that sets the rounding mode, flush and saturation. (R77) -/
  | hintRnd (s : BitVec 2) (f : BitVec 1) (m : BitVec 3)
  /-- HINT_SCP: Hint that sets the order and scope. (R77) -/
  | hintScp (s : BitVec 4) (o : BitVec 2)
  /-- HINT_NOP: Reserved hint with no effect. (R76) -/
  | hintNop (k : BitVec 2) (p : BitVec 22)
  /-- NOP: Does nothing but advance the PC; with DLY or FLG it is the plain way to wait. (R141) -/
  | nop
  /-- JOIN: Rejoins, swaps or waits according to the top of the rejoin stack. (R139) -/
  | join
  /-- EXIT: Exits the split's lanes, or takes or waits for its serialised record. (R142) -/
  | exit
  /-- MRESUME: Returns held matrix commands to the queue. (R288) -/
  | mresume
  /-- MRESUME_ABANDON: Discards held matrix commands. (R288) -/
  | mresumeAbandon
  /-- TRET: Ends a trap handler and resumes, or delivers the next queued trap. (R326) -/
  | tret
  /-- YIELD: Begins pre-emption of the context if another context waits. (R349) -/
  | yield
  /-- FENCE_ACQ with `s` = 0: Waits until earlier loads and atomics complete. (R239) -/
  | fenceAcq0
  /-- FENCE_ACQ with `s` = 1: Waits until earlier loads and atomics complete. (R239) -/
  | fenceAcq1
  /-- FENCE_ACQ with `s` = 2: Waits until earlier loads and atomics complete. (R239) -/
  | fenceAcq2
  /-- FENCE_ACQ with `s` = 3: Waits until earlier loads and atomics complete. (R239) -/
  | fenceAcq3
  /-- FENCE_ACQ with `s` = 4: Waits until earlier loads and atomics complete. (R239) -/
  | fenceAcq4
  /-- FENCE_ACQ with `s` = 5: Waits until earlier loads and atomics complete. (R239) -/
  | fenceAcq5
  /-- FENCE_ACQ with `s` = 6: Waits until earlier loads and atomics complete. (R239) -/
  | fenceAcq6
  /-- FENCE_ACQ with `s` = 7: Waits until earlier loads and atomics complete. (R239) -/
  | fenceAcq7
  /-- FENCE_ACQ with `s` = 8: Waits until earlier loads and atomics complete. (R239) -/
  | fenceAcq8
  /-- FENCE_ACQ with `s` = 9: Waits until earlier loads and atomics complete. (R239) -/
  | fenceAcq9
  /-- FENCE_ACQ with `s` = 10: Waits until earlier loads and atomics complete. (R239) -/
  | fenceAcq10
  /-- FENCE_ACQ with `s` = 11: Waits until earlier loads and atomics complete. (R239) -/
  | fenceAcq11
  /-- FENCE_ACQ with `s` = 12: Waits until earlier loads and atomics complete. (R239) -/
  | fenceAcq12
  /-- FENCE_ACQ with `s` = 13: Waits until earlier loads and atomics complete. (R239) -/
  | fenceAcq13
  /-- FENCE_ACQ with `s` = 14: Waits until earlier loads and atomics complete. (R239) -/
  | fenceAcq14
  /-- FENCE_ACQ with `s` = 15: Waits until earlier loads and atomics complete. (R239) -/
  | fenceAcq15
  /-- HINT_MSK with `k` = 0: Hint that intersects exec with a mask. (R77) -/
  | hintMsk0
  /-- HINT_MSK with `k` = 1: Hint that intersects exec with a mask. (R77) -/
  | hintMsk1
  /-- HINT_MSK with `k` = 2: Hint that intersects exec with a mask. (R77) -/
  | hintMsk2
  /-- HINT_MSK with `k` = 3: Hint that intersects exec with a mask. (R77) -/
  | hintMsk3
  /-- HINT_MSK with `k` = 4: Hint that intersects exec with a mask. (R77) -/
  | hintMsk4
  /-- HINT_MSK with `k` = 5: Hint that intersects exec with a mask. (R77) -/
  | hintMsk5
  /-- HINT_MSK with `k` = 6: Hint that intersects exec with a mask. (R77) -/
  | hintMsk6
  /-- HINT_MSK with `k` = 7: Hint that intersects exec with a mask. (R77) -/
  | hintMsk7
  /-- HINT_MSK with `k` = 8: Hint that intersects exec with a mask. (R77) -/
  | hintMsk8
  /-- HINT_MSK with `k` = 9: Hint that intersects exec with a mask. (R77) -/
  | hintMsk9
  /-- HINT_MSK with `k` = 10: Hint that intersects exec with a mask. (R77) -/
  | hintMsk10
  /-- HINT_MSK with `k` = 11: Hint that intersects exec with a mask. (R77) -/
  | hintMsk11
  /-- HINT_MSK with `k` = 12: Hint that intersects exec with a mask. (R77) -/
  | hintMsk12
  /-- HINT_MSK with `k` = 13: Hint that intersects exec with a mask. (R77) -/
  | hintMsk13
  /-- HINT_MSK with `k` = 14: Hint that intersects exec with a mask. (R77) -/
  | hintMsk14
  /-- HINT_MSK with `k` = 15: Hint that intersects exec with a mask. (R77) -/
  | hintMsk15
  /-- HINT_RET with `c` = 0: Hint that sets the retention class. (R77) -/
  | hintRet0
  /-- HINT_RET with `c` = 1: Hint that sets the retention class. (R77) -/
  | hintRet1
  /-- HINT_RET with `c` = 2: Hint that sets the retention class. (R77) -/
  | hintRet2
  /-- HINT_RET with `c` = 3: Hint that sets the retention class. (R77) -/
  | hintRet3
  /-- GROUP_TURN: A group's turn in which it issues nothing; DLY counts fall. (R37) -/
  | groupTurn
  /-- MULTI_TURN_COMPLETE: A multi-turn result is written and its flag's pending count falls. (R41) -/
  | multiTurnComplete (uid : Nat) (n : Nat)
  /-- BLOCK_CLEAR_COMPLETE: A released register block finishes clearing and becomes assignable. (R85) -/
  | blockClearComplete (n : Nat)
  /-- GROUP_RELEASE: An exited group's storage is released once all its operations complete. (R142) -/
  | groupRelease (uid : Nat)
  /-- STALL_TIMEOUT: A split's stall watchdog reaches its limit and traps. (R357) -/
  | stallTimeout (uid : Nat) (split : Fin 4)
  /-- HURDLE_PASS: A record in WAIT_HURDLE passes its hurdle and enters RESERVING. (R313) -/
  | hurdlePass (rec : Nat)
  /-- GROUP_PLACEMENT: A fully reserved unit's groups are placed and initialised. (R31) -/
  | groupPlacement (rec : Nat) (seats : List Seat)
  /-- GANG_AGE_EXPIRE: A record exceeds the gang age limit and blocks younger placement. (R43) -/
  | gangAgeExpire (rec : Nat)
  /-- RECORD_DONE: A record reaches DONE or REFUSED; its node is cleared and successors decremented. (R299) -/
  | recordDone (rec : Nat)
  /-- COMPLETION_STORE: The status and pace are stored to the completion word after the WCT wait. (R299) -/
  | completionStore (rec : Nat)
  /-- TRANSLATION_WALK: A free walker walks both stages for a translation miss. (R147) -/
  | translationWalk (ctx : Nat) (gva : BitVec 64) (acc : Access) (slice : Nat)
  /-- TINV_COMPLETE: An invalidation completes once entries are gone and bound stores have drained. (R153) -/
  | tinvComplete (n : Nat)
  /-- STORE_BUFFER_DRAIN: A store buffer entry drains towards its serialisation point once its holds are released. (R219) -/
  | storeBufferDrain (core : Nat)
  /-- WRITE_APPLY: A primary applies an arriving write and echoes it to replicas. (R164) -/
  | writeApply (m : WriteMsg)
  /-- WRITE_READABLE: A write becomes readable once every copy has acknowledged invalidation. (R258) -/
  | writeReadable (n : Nat)
  /-- APPLY_NOTICE: An apply notice arrives at the issuing core and releases drain holds. (R255) -/
  | applyNotice (n : Nat)
  /-- ECHO_RECEIVE: A holder applies an echo in sequence and acknowledges it. (R164) -/
  | echoReceive (m : EchoMsg)
  /-- FILL_WRITE: A filling holder writes the bytes not already marked echoed. (R172) -/
  | fillWrite (m : FillMsg)
  /-- ECHO_ACK_RECEIVE: A primary receives an acknowledgement and sends the WCT response once it is known. (R167) -/
  | echoAckReceive (n : Nat)
  /-- ECHO_DEADLINE: A holder's acknowledgement misses the 5 µs deadline and the holder is revoked. (R165) -/
  | echoDeadline (n : Nat)
  /-- LEASE_RENEWAL: A primary issues renewals to its replicas at each whole microsecond. (R166) -/
  | leaseRenewal (pre : Prefix)
  /-- RENEWAL_RECEIVE: A replica applies a renewal and its lease and applied-through time advance. (R166) -/
  | renewalReceive (m : RenewMsg)
  /-- LEASE_END: A replica's lease runs out and it refuses reads. (R166) -/
  | leaseEnd (pre : Prefix) (holder : Nat)
  /-- READ_REQUEST: A holder serves or refuses an arriving read. (R170) -/
  | readRequest (m : ReadMsg)
  /-- REFUSAL_REROUTE: A refused request is routed again by the die router. (R170) -/
  | refusalReroute (n : Nat)
  /-- LOAD_COMPLETE: A load's data arrives in class order; registers and the read floor are updated. (R232) -/
  | loadComplete (n : Nat)
  /-- STORE_RESPONSE: A write's response arrives with its WCT; the count falls and rfloor and wctmax rise. (R232) -/
  | storeResponse (n : Nat)
  /-- INVALIDATE: An invalidation reaches a copy, which is removed and acknowledged. (R222) -/
  | invalidate (n : Nat)
  /-- RELAY_RECEIVE: A router installs or rejects a relay and forwards it. (R160) -/
  | relayReceive (router : Nat) (relay : RelayMsg)
  /-- RELAY_REFUSAL: A refusal reaches the origin, which records it for rte.sync. (R160) -/
  | relayRefusal (pre : Prefix) (holder : Nat) (relay : RefusalMsg)
  /-- ROUTER_ANSWER: The origin router answers an rte instruction with a status. (R174) -/
  | routerAnswer (uid : Nat) (split : Fin 4)
  /-- RTE_SYNC_DONE: All earlier relays have reached or been refused in scope; rte.sync writes its status. (R176) -/
  | rteSyncDone (uid : Nat) (split : Fin 4)
  /-- HOLDER_ABSENT: A DRAINING holder becomes ABSENT once its withdrawal has settled. (R172) -/
  | holderAbsent (pre : Prefix) (holder : Nat)
  /-- COBJ_DIRECTORY_REQUEST: The home directory takes an object transition for an arriving request. (R185) -/
  | cobjDirectoryRequest (obj : Nat) (req : ObjMsg)
  /-- PARTIAL_FOLD: An evicted or collected free-mode partial is folded at the serialisation point. (R190) -/
  | partialFold (obj : Nat) (die : Nat) (elem : Nat)
  /-- MERGE_CHILD_ARRIVE: A child's result reaches a merge node; a complete node combines and forwards. (R189) -/
  | mergeChildArrive (obj : Nat) (child : NodeMsg)
  /-- MERGE_NODE_TIMEOUT: A switch or fabric node completes its round by timeout as INCOMPLETE. (R189) -/
  | mergeNodeTimeout (obj : Nat) (level : Nat) (index : Nat)
  /-- SNOOP_RETRY: An unanswered snoop or collection is sent again at 7 and 14 µs. (R196) -/
  | snoopRetry (obj : Nat)
  /-- SNOOP_TIMEOUT: No answer by 20 µs; the object becomes OWNER_LOST and its lines are poisoned. (R196) -/
  | snoopTimeout (obj : Nat)
  /-- MULTICAST_FORWARD: A port forwards or delivers a multicast packet under its carillon entry. (R210) -/
  | multicastForward (port : Nat) (pkt : McPacket)
  /-- AUDIT_INTERVAL_END: A controller sweeps a world's lines and compares its integrity sums. (R227) -/
  | auditIntervalEnd (ctl : Nat) (world : Nat)
  /-- COPY_START: A copy engine starts a command once the group's earlier accesses complete. (R244) -/
  | copyStart (n : Nat)
  /-- COPY_COMPLETE: A copy command's last write returns its WCT. (R244) -/
  | copyComplete (n : Nat)
  /-- COPY_FAULT: A copy access fails and the command ends, leaving a deferred COPY_FAULT. (R246) -/
  | copyFault (n : Nat)
  /-- MATRIX_COMMAND_COMPLETE: A matrix command's last effect takes place and its flags are ORed in. (R276) -/
  | matrixCommandComplete (core : Nat)
  /-- MATRIX_COMMAND_FAULT: A matrix command faults, records its progress and moves to the held list. (R284) -/
  | matrixCommandFault (core : Nat)
  /-- RING_KICK: A host kick wakes a ring in WAIT_KICK. (R305) -/
  | ringKick (ring : Fin 16)
  /-- RING_READ_SLOT: A ring reads and checks the slot of its expected sequence. (R305) -/
  | ringReadSlot (ring : Fin 16)
  /-- RING_RETRY: A ring reads again every 250 ns, and after eight tries enters WAIT_KICK. (R305) -/
  | ringRetry (ring : Fin 16)
  /-- CONTEXT_SWITCH_OUT: A context leaves residency and the tier engine enqueues DOWN moves. (R312) -/
  | contextSwitchOut (ctx : Nat)
  /-- TIER_MOVE_START: The tier engine starts a queued move and announces the new holder. (R316) -/
  | tierMoveStart
  /-- TIER_ANNOUNCE_ANSWER: The announcement result arrives and the move copies, retries or aborts. (R316) -/
  | tierAnnounceAnswer (n : Nat) (status : Nat)
  /-- TIER_FILL_DONE: The last fill is acknowledged and the baton handover is requested. (R316) -/
  | tierFillDone (n : Nat)
  /-- TIER_HANDOVER_ANSWER: The handover result arrives and the old holder is withdrawn, or the move aborts. (R316) -/
  | tierHandoverAnswer (n : Nat) (status : Nat)
  /-- TIER_MOVE_END: A move ends; far, tier and busy are written and waiting groups are released. (R317) -/
  | tierMoveEnd (n : Nat)
  /-- TIER_FAULT_OFFER: A fault that found the fault queue full is offered again every 1 µs. (R319) -/
  | tierFaultOffer (n : Nat)
  /-- ANNOUNCEMENT_REQUEST: Another package's tier engine asks this package to announce or withdraw a holder. (R379) -/
  | announcementRequest (vdid : Nat) (op : RteOp) (pre : Prefix) (desc : BitVec 64)
  /-- ANNOUNCEMENT_TIMEOUT: No answer within 20 µs; the holder counts as unreachable. (R379) -/
  | announcementTimeout (n : Nat)
  /-- FAULT_RECORD_OFFER: A fault record that found its slot valid is offered again every 1 µs. (R330) -/
  | faultRecordOffer (n : Nat)
  /-- LONG_PARK_SWITCHOUT: A team parked for 20 µs is switched out with full images. (R333) -/
  | longParkSwitchout (rec : Nat) (core : Nat)
  /-- SLICE_END: A context's slice ends with another context waiting, and pre-emption begins. (R335) -/
  | sliceEnd (ctx : Nat)
  /-- GRACE_END: At the end of grace each group is saved, flashed back or run forward. (R335) -/
  | graceEnd (ctx : Nat)
  /-- DEADLINE_EXPIRE: Unsaved groups remain at the deadline; the context is reset with DEADLINE. (R335) -/
  | deadlineExpire (ctx : Nat)
  /-- RESET_COMPLETE: A reset completes when the last issued operation has completed or ended. (R337) -/
  | resetComplete (ctx : Nat)
  /-- CONTEXT_RESIDENT: A WAITING context becomes resident and its slice begins. (R341) -/
  | contextResident (ctx : Nat)
  /-- FLIT_RECEIVE: A link receives a flit, checks CRC and tag and delivers packets in order. (R372) -/
  | flitReceive (port : Nat) (link : Nat) (flit : Flit)
  /-- LANE_SPARE: A failing lane's traffic moves to the spare lane. (R373) -/
  | laneSpare (port : Nat) (link : Nat)
  /-- LINK_FAIL: A link fails and its retry buffer moves to the surviving links. (R374) -/
  | linkFail (port : Nat) (link : Nat)
  /-- LINK_UP: A link comes up and its session keys are established. (R377) -/
  | linkUp (port : Nat) (link : Nat) (auth : Bool)
  /-- SESSION_REKEY: A new in-band session is set up every 2^40 flits. (R377) -/
  | sessionRekey (port : Nat) (link : Nat)
  /-- HOST_SNOOP: The host snoops a line; A12 copies are invalidated first. (R370) -/
  | hostSnoop (line : Nat) (data : Option (List (BitVec 8)))
  /-- HOST_MEM_REQUEST: A CXL.mem request from the host is served at the serialisation point. (R371) -/
  | hostMemRequest (req : HostReq)
  /-- POWER_ON: Measured boot loads and verifies firmware images and releases the dies. (R381) -/
  | powerOn (images : List FwImage) (pkg : BitVec 16)
  /-- ATTEST: Mailbox command that returns a signed attestation report. (R386) -/
  | attest (cmd : MboxCmd)
  /-- WORLD_CREATE: Mailbox command that creates a world and loads its keys. (R385) -/
  | worldCreate (cmd : MboxCmd)
  /-- WORLD_GRANT: Mailbox command that zeroes a range and tags it with a world. (R383) -/
  | worldGrant (cmd : MboxCmd)
  /-- WORLD_REVOKE: Mailbox command that zeroes a range and tags it 0. (R383) -/
  | worldRevoke (cmd : MboxCmd)
  /-- WORLD_DESTROY: Mailbox command that removes a world and erases its keys. (R385) -/
  | worldDestroy (cmd : MboxCmd)
  /-- PART_SET: Mailbox command that writes a partition descriptor. (R385) -/
  | partSet (cmd : MboxCmd)
  /-- CTX_CREATE: Mailbox command that creates and binds a context. (R340) -/
  | ctxCreate (cmd : MboxCmd)
  /-- CTX_DESTROY: Mailbox command that frees a context, resetting it first if needed. (R340) -/
  | ctxDestroy (cmd : MboxCmd)
  /-- CTX_PREEMPT: Mailbox command that begins pre-emption of a resident context. (R385) -/
  | ctxPreempt (cmd : MboxCmd)
  /-- RING_SET: Mailbox command that writes a ring's base and control registers. (R385) -/
  | ringSet (cmd : MboxCmd)
  /-- RING_KEY: Mailbox command that establishes a ring key by ML-KEM. (R385) -/
  | ringKey (cmd : MboxCmd)
  /-- POWER_COMPARE: Every 100 µs average power is compared with the cap and the clock adjusted. (R390) -/
  | powerCompare (avg : BitVec 16) (temp : Int) (flowLow : Bool) (wholeWindow : Bool)
  /-- TRAY_REMOVE_REQUEST: A tray write of req 1 begins DRAINING. (R392) -/
  | trayRemoveRequest
  /-- TRAY_CANCEL: A tray write of req 2 returns DRAINING to ONLINE. (R392) -/
  | trayCancel
  /-- TRAY_QUIESCE: A drained package becomes QUIESCED and its ports go down. (R392) -/
  | trayQuiesce
  /-- TRAY_POWER_OFF: Psison power-off makes the tray REMOVABLE. (R392) -/
  | trayPowerOff
  /-- TRAY_INSERT: Insertion and power start BOOTING. (R392) -/
  | trayInsert
  /-- WEAR_UPDATE: The Psison controller updates the wear registers every hour. (R394) -/
  | wearUpdate (index : Fin 32) (eol : BitVec 16) (used : BitVec 8) (spare : BitVec 8)
  /-- PART_DESC_WRITE: A partition descriptor write is checked in order and sets part_status. (R23) -/
  | partDescWrite (index : Fin 12) (value : BitVec 64)
  /-- TQ_WRITE: A translation quota write is checked against the slice sum. (R151) -/
  | tqWrite (vdid : Fin 64) (value : BitVec 64)
  /-- RTE_COST_WRITE: A link cost write in which zero fields keep their old values. (R159) -/
  | rteCostWrite (value : BitVec 64)
  /-- COBJ_Q_WRITE: An object table range write that has no effect if it is illegal. (R178) -/
  | cobjQWrite (vdid : Fin 64) (value : BitVec 64)
  /-- WL_CFG_WRITE: Configures a work list. (R302) -/
  | wlCfgWrite (part : Nat) (list : Nat) (value : BitVec 64)
  /-- WL_RESET: The reset bit clears head and tail and reloads the producer count. (R302) -/
  | wlReset (part : Nat) (list : Nat)
  /-- RING_BASE_WRITE: Sets a ring's base and size while it is disabled. (R304) -/
  | ringBaseWrite (ring : Fin 16) (value : BitVec 64)
  /-- RING_CTL_WRITE: Sets a ring's control fields while it is disabled. (R304) -/
  | ringCtlWrite (ring : Fin 16) (value : BitVec 64)
  /-- RING_ENABLE: Writing en 1 over 0 resets seq and starts the ring reading. (R304) -/
  | ringEnable (ring : Fin 16) (value : BitVec 64)
  /-- RING_DISABLE: Writing en 0 sets the ring DISABLED. (R304) -/
  | ringDisable (ring : Fin 16)
  /-- TIER_CFG_WRITE: Configures the tier engine's moves, background share and enable. (R315) -/
  | tierCfgWrite (value : BitVec 64)
  /-- FQ_DONE: Resolves a fault record, lowering the missing-page count or raising a trap. (R331) -/
  | fqDone (ctx : Nat) (vdid : Nat) (level : Nat) (value : BitVec 64)
  /-- ERQ_LOST_CLEAR: A write clears the count of dropped error records. (R343) -/
  | erqLostClear
  /-- WDOG_WRITE: Sets the stall watchdog limit, with its special values. (R358) -/
  | wdogWrite (ctx : Nat) (value : BitVec 64)
  /-- PCCLR: Clears the selected performance counters. (R365) -/
  | pcclr (ctx : Nat) (value : BitVec 64)
  /-- PWR_CAP_WRITE: Sets the power cap and window and clears over. (R389) -/
  | pwrCapWrite (value : BitVec 64)
  /-- SYSREG_WRITE: A write to a system register that has no behaviour of its own. (R350) -/
  | sysregWrite (num : BitVec 12) (value : BitVec 64)
  /-- ILLEGAL_OPCODE: An issued word that is not an instruction (major 0x00, 0x3F or unassigned, an unassigned function, or hint kind 8-11) traps with ILLEGAL_OPCODE. (R81) -/
  | illegalOpcode (w : BitVec 32)
  /-- SOFT_ERROR: A bit of a register, SRAM word, operand slot or tile is corrupted, to be corrected or reported when next read. (R92) -/
  | softError (site : ErrSite) (single : Bool)
  /-- DRAM_LINE_ALTERED: A DRAM line's ciphertext or stamp changes other than through its controller, which the world's audit sweep then detects. (R227) -/
  | dramLineAltered (ctl : Nat) (line : Nat) (bytes : List (BitVec 8)) (stamp : Nat)
  /-- SNOOP_RECEIVE: An owner or an agent holding free-mode partials receives a snoop or collection, writes back or sends its lines and partials, and answers. (R185) -/
  | snoopReceive (obj : SnoopMsg)
  /-- SNOOP_ANSWER: A snoop or collection answer reaches the serialisation point, which completes the object transition and serves the held requests in order. (R196) -/
  | snoopAnswer (m : AnswerMsg)
  /-- ITEM_CLEAR_COMPLETE: A released tile or operand slot finishes clearing to zero and becomes free to claim. (R270) -/
  | itemClearComplete (core : Nat) (isTile : Bool) (index : Nat)
  /-- TIER_FILL_READ: A tier-engine fill read returns from the old holder and is written on, or, if poisoned or without a route, aborts the move. (R316) -/
  | tierFillRead (n : Nat)
  /-- MAILBOX_BAD_CMD: A write to the mailbox cmd field with an unknown command code or a bad length completes with status BAD_CMD. (R384) -/
  | mailboxBadCmd (cmd : MboxCmd)
  deriving DecidableEq, Repr

end Sys2Proof
end

