-- ==== Sys2Proof/Machine/State.lean ====
section
/-! DEFINITION. The state of one IB-A12-768 package as plain data: groups, cores, package memories, tables,
queues, counters and management state (spec 01-22), and the state after reset. -/

namespace Sys2Proof.Machine

/-! ## Reasons a step can stop -/

/-- Faults of the model. The specification gives every instruction an effect, so no meaning of an encoded
word ends in one. -/
inductive Fault
  /-- Raised by no meaning: the specification names no stop of the whole part. Safe. -/
  | stuck
  deriving DecidableEq, Repr

/-- Refusals of the model. -/
inductive Refusal
  /-- The instruction of this mnemonic has no meaning yet. Safe. -/
  | notModelled (mnemonic : String)
  deriving DecidableEq, Repr

/-- What a step or a meaning answers. -/
abbrev Out (σ : Type) := Host.Outcome σ Fault Refusal

/-- Memory: (key, byte) pairs, keys strictly rising, no byte equal to what an unlisted key reads as. -/
abbrev Memory := List Host.Cell

/-! ## Group state (05 R83) -/

/-- A completion flag: its set bit and its pending count 0 to 8 (20 R353). -/
structure Flag where
  set  : Bool
  pend : Nat
  deriving DecidableEq, Repr

/-- The hints a split has issued for the bundle in progress (04 R76-R80). -/
structure Bundle where
  /-- A hint of the bundle has issued and its instruction has not. -/
  active : Bool
  /-- The address of the bundle's first word (R78). -/
  start  : BitVec 48
  /-- Hint words issued so far. -/
  count  : Nat
  lit    : Option (BitVec 22)
  lith   : Option (BitVec 22)
  /-- Turns of DLY still to run (R77). -/
  dly    : Nat
  flg    : BitVec 12
  msk    : Option (BitVec 4)
  rnd    : Option (BitVec 6)
  ret    : Option (BitVec 2)
  scp    : Option (BitVec 6)
  /-- The cycle in which the bundle began, which orders bundles in progress (R80). -/
  since  : Nat
  /-- The flags that the held instruction of the bundle consumed as it issued: a stop at the bundle leaves them set (20 R354). -/
  used   : BitVec 12
  /-- The instruction that has issued and waits for its answer: it goes on without being fetched again (02 R39). -/
  held   : Option Instr
  /-- Translations that it has passed: GVA and fabric address (02 R36). -/
  trans  : List (Nat × Nat)
  /-- Bytes of records that it has read (14 R411). -/
  got    : List Byte
  deriving DecidableEq, Repr

/-- One entry of the rejoin stack: 2-bit kind and 46-bit payload (08 R135). -/
structure RjEntry where
  kind    : BitVec 2
  payload : BitVec 46
  deriving DecidableEq, Repr

/-- The instructions whose split waits for an answer (02 R39). -/
inductive AnsKind
  | tinv | rte | sync | cobj | close | read | halt | launch | push
  deriving DecidableEq, Repr

/-- Kinds of operation for fences and deferred causes (14 R232, R239, 10 R171). -/
inductive OpKind | load | store | atomic | red | mc | copy
  deriving DecidableEq, Repr

/-- How a loaded element is placed (14 R233). -/
inductive Dest
  | scalar (d : Nat) (signed : Bool)
  | vector (d : Nat) (signed : Bool) (wide : Bool)
  | drop
  deriving DecidableEq, Repr

/-- One lane of an access: addresses and, for an atomic that returns, its old value. -/
structure LaneAcc where
  lane : Lane
  gva  : Nat
  fa   : Nat
  size : Nat
  old  : Option Nat
  /-- A `tinv` has discarded its translation since: what it brings fills no L1 (09 R153). -/
  stale : Bool
  deriving DecidableEq, Repr

/-- What an entry or a write request does to its line. -/
inductive WKind
  /-- Store of bytes at an address. -/
  | bytes (data : List Byte)
  /-- Atomic: operation, size in bytes, operand, compare value. -/
  | atomic (op size x cmp : Nat)
  /-- Fill write of 10 R173: only bytes not marked echoed. -/
  | fill (data : List Byte)
  /-- Fold of a contribution: object, ordered, leaf or die, tag, value (11 R188). -/
  | fold (obj : Nat) (ordered : Bool) (who tag : Nat) (gva : Nat) (val : BitVec 64)
  deriving DecidableEq, Repr

/-- An access whose checks have passed and that is performed once its condition holds: it issues once, and takes its registers and
translations as it issues (02 R36, R39). -/
inductive HeldOp
  | load (dest : Dest) (const : Bool) (ret : Nat) (acq : Option Nat) (lanes : List LaneAcc)
  | store (kind : OpKind) (dest : Dest) (ret : Nat) (acq : Option Nat) (tree : Option (Nat × Nat))
      (ws : List (LaneAcc × Nat × WKind)) (fl : BitVec 10)
  deriving DecidableEq, Repr

/-- What a split waits for after its instruction has issued (02 R39, 20 R357). -/
inductive Wait
  | none
  | flag
  /-- The classes that the `waitc` limits (20 R356). -/
  | waitc (ld st cp : Bool)
  /-- A memory access behind an acquire of its split that has not completed (14 R238). -/
  | acq
  /-- Held by a full store buffer, a full queue or a count at 62 (02 R39, 20 R355). -/
  | room
  /-- A fence: the operations named below `before` (14 R239). -/
  | fence (acq rel : Bool) (scope before : Nat)
  /-- A release whose conditions do not hold yet: the access is performed when they do (14 R238). -/
  | release (scope before : Nat) (op : HeldOp)
  | bar (level : Nat) (nf : Bool) (issued : Bool)
  /-- A `bar` that has been released, with its acquire where it is not `nf`, and the cycle of the release (20 R360). -/
  | passed (acq : Bool) (before cycle : Nat)
  | mwait (batch : Nat)
  /-- A `join` or an `exit` that issued and must wait: the top of the stack, its depth, and whether the split was the group's
  only one (08 R139, R142). -/
  | join (top : Option RjEntry) (depth : Nat) (alone : Bool)
  | exit (top : Option RjEntry) (depth : Nat) (alone : Bool)
  /-- An access to an update-only object under merge (11 R189). -/
  | merge (obj : Nat) (op : HeldOp)
  /-- An operator switch (11 R191): the object, the new tag, the `red`, and the point before which the group's `red`s fold first. -/
  | switch (obj tag before : Nat) (op : HeldOp)
  /-- A `wl.push` whose items are reserved and not written (17 R303): register, list, first position, the operations named below
  `before` that its release waits for, and the items with their fabric addresses and values. -/
  | push (d list first before : Nat) (items : List (Lane × Nat × Nat))
  | zrel (mask : Nat)
  | orel (mask : Nat)
  | answer (kind : AnsKind) (d x y : Nat)
  deriving DecidableEq, Repr

/-- One split of a group (02 R34). -/
structure Split where
  live   : Bool
  /-- The address of the next word to issue. -/
  pc     : BitVec 48
  mask   : Word
  age    : Nat
  bundle : Bundle
  wait   : Wait
  /-- Cycles the stall watchdog has counted (20 R357). -/
  wdog   : Nat
  /-- Acquires of this split that have not completed (14 R238). -/
  acq    : List Nat
  /-- The split is ready from this cycle on at the earliest: the one after that in which what it waited for came to hold (02 R39). -/
  readyAt : Nat
  deriving DecidableEq, Repr

/-- A register of a group. -/
inductive RegRef
  | v (n : Nat)
  | s (n : Nat)
  | k (n : Nat)
  deriving DecidableEq, Repr

/-- Vector, scalar, mask and flag registers of a group (05 R83). -/
structure Regs where
  v       : Vector VReg 128
  s       : Vector DWord 64
  k       : Vector Word 16
  f       : Vector Flag 12
  /-- The stochastic generator state of each lane (03 R59). -/
  sr      : VReg
  fpflags : Word
  /-- Registers with an uncorrectable error, and the lane of a vector register, until they are written (05 R92). -/
  bad     : List (RegRef × Nat)
  deriving DecidableEq, Repr

/-- Where a group stands (02 R30, R44, 05 R88). -/
structure Place where
  /-- The model's own name of the group; 0 for an empty slot. -/
  uid   : Nat
  /-- The slot holds a group. -/
  used  : Bool
  core  : Nat
  slot  : Nat
  ctx   : Nat
  /-- The launch record the group belongs to. -/
  launch   : Nat
  /-- The flat number `%lvl0` (R30). -/
  flat  : Nat
  /-- `.regs` of the launch (05 R84). -/
  nregs : Nat
  deriving DecidableEq, Repr

/-- The control array of a slot (05 R83). -/
structure Ctl where
  splits : Vector Split 4
  /-- The split whose word issues in this turn. -/
  iss    : Fin 4
  /-- The rejoin stack, top first (08 R135). -/
  stack  : List RjEntry
  /-- The group is parked on faults (19 R330). -/
  parked : Bool
  /-- Bundles at which the group parked and that have not issued since: split, address, and the lanes still to perform
  (14 R237); the latest first. -/
  unfinished : List (Fin 4 × BitVec 48 × Word)
  /-- The group has exited and awaits release (08 R142). -/
  exited : Bool
  /-- A trap handler runs in this split (19 R325). -/
  handler : Option (Fin 4)
  /-- When the group last parked, its last missing page came, or, while it stood parked, a group of its team exited, in nanoseconds of
  pace time (19 R333, 02 R46). -/
  parkedAt : Nat
  deriving DecidableEq, Repr

/-- A trap record: `trec0` to `trec4` (19 R329). -/
structure TrapEntry where
  t0 : DWord
  t1 : DWord
  t2 : DWord
  t3 : DWord
  t4 : DWord
  deriving DecidableEq, Repr

/-- A cause recorded for a later bundle (10 R171, 14 R246). -/
structure Deferred where
  kind  : OpKind
  op    : Nat
  entry : TrapEntry
  deriving DecidableEq, Repr

/-- The trap registers of a group (19 R325-R329, R334). -/
structure TrapSt where
  queue    : List TrapEntry
  cur      : TrapEntry
  scr0     : DWord
  scr1     : DWord
  inh      : Bool
  ppl      : Nat
  pl       : Nat
  csel     : DWord
  missing  : Nat
  deferred : List Deferred
  /-- A cause that a resolution with `act` = 1 makes the group take on resuming (R331). -/
  pendAct  : Option TrapEntry
  deriving DecidableEq, Repr

/-- Scope and order of an engine command's SCP hint (14 R238, 15 R263). -/
structure Scp where
  acq   : Bool
  rel   : Bool
  scope : Nat
  deriving DecidableEq, Repr

/-- The kinds of matrix command, coded as `mstat` codes them (16 R289). -/
inductive MKind
  | zzero (mask : Nat)
  | oload (slot : Nat) (desc : BitVec 512) (o0 o1 : Nat)
  /-- The tags are the slots' as they stood at its issue (16 R274). -/
  | mmul (z a b ta tb : Nat)
  | mloop (z pair steps : Nat) (da db : BitVec 512) (a0 a1 b0 b1 : Nat)
  | mdrain (z : Nat) (desc : BitVec 512) (o0 o1 : Nat) (amax : Bool) (rnd : BitVec 6) (sr : List Word)
  deriving DecidableEq, Repr

/-- A matrix command with its batch, its owner and its progress (16 R275, R284). -/
structure MCmd where
  id       : Nat
  core     : Nat
  uid      : Nat
  ctx      : Nat
  batch    : Nat
  pc       : BitVec 48
  kind     : MKind
  scp      : Scp
  /-- Retention class of its accesses (16 R293). -/
  cls      : Nat
  /-- The floor of its reads: the group's at issue and, once its accesses have begun, as it then stood (10 R168, 16 R283). -/
  floor    : Nat
  begun    : Bool
  progress : Nat
  /-- Earlier operations of the group still to complete before the command's accesses (16 R283). -/
  after    : List Nat
  /-- The writes of an `mdrain` that have been sent (16 R276). -/
  sent     : Bool
  flags    : BitVec 10
  wct      : Nat
  /-- The write of lowest row that ended without effect: row, cause and address. -/
  err      : Option (Nat × Nat × Nat)
  /-- Elements of an `mdrain` that have been sent, in ascending (m, n) order: 16384 when all have, one more with the amax atomic. -/
  pos      : Nat
  deriving DecidableEq, Repr

/-- The fault record of a group's matrix commands (16 R267, R284, R287). -/
structure MFault where
  cause    : Nat
  progress : Nat
  addr     : Nat
  deriving DecidableEq, Repr

/-- The matrix state of a group (16 R267). -/
structure MatSt where
  tiles    : BitVec 12
  slots    : BitVec 8
  held     : List MCmd
  fault    : Option MFault
  /-- Commands released by `mresume` that have not entered the queue (16 R288). -/
  released : List MCmd
  mopen    : DWord
  deriving DecidableEq, Repr

/-- A value a multi-turn instruction will write (02 R41, 06 R107). -/
structure MultiTurn where
  due   : Nat
  flag  : Nat
  /-- Scalar writes: register and value. -/
  swr   : List (Nat × DWord)
  /-- Vector writes: register, lane and value. -/
  vwr   : List (Nat × Lane × Word)
  flags : BitVec 10
  deriving DecidableEq, Repr

/-- The outstanding classes of 14 R232. -/
inductive Cls | ld | st | cp | none
  deriving DecidableEq, Repr

/-- One request for a 64-byte line (25 R396). -/
structure LineReq where
  line   : Nat
  floor  : Nat
  /-- Times routed (10 R170: at most 16). -/
  routed : Nat
  gone   : List Nat
  /-- It has left the core: its floor is fixed (10 R168, 25 R396). -/
  left   : Bool
  /-- The read goes to the primary: a refusal by LEASE or FLOOR, or an acquire (10 R170, 14 R238). -/
  toPrim : Bool
  served : Bool
  data   : List Byte
  stamp  : Nat
  /-- The copy that served it, for the watch of 15 R256. -/
  source : Nat
  /-- Cause 13 or 15 where the request ended without data. -/
  err    : Option Nat
  deriving DecidableEq, Repr

/-- An outstanding memory operation of a group (14 R232). -/
structure MemOp where
  id     : Nat
  cls    : Cls
  kind   : OpKind
  pc     : BitVec 48
  dest   : Dest
  lanes  : List LaneAcc
  reqs   : List LineReq
  /-- Writes of a store, atomic or `red` not answered yet. -/
  writes : Nat
  ret    : Nat
  acq    : Option Nat
  const  : Bool
  wct    : Nat
  flags  : BitVec 10
  err    : Option (Nat × Nat)
  /-- The split that issued it, for acquires. -/
  split  : Fin 4
  /-- The privilege level it issued at (09 R150). -/
  pl     : Nat
  deriving DecidableEq, Repr

/-- Outstanding accesses of a group (14 R232, 10 R168). -/
structure AccSt where
  rfloor   : DWord
  wctmax   : DWord
  ld       : Nat
  st       : Nat
  cp       : Nat
  ops      : List MemOp
  inflight : List MultiTurn
  deriving DecidableEq, Repr

/-- A checkpoint taken by `rcp` (19 R336). -/
structure Ckpt where
  pc    : BitVec 48
  index : Nat
  mask  : Word
  s     : Vector DWord 64
  k     : Vector Word 16
  sr    : VReg
  deriving DecidableEq, Repr

/-- Flashback state of a group (19 R336, R337); no checkpoint means the implicit one. -/
structure CkptSt where
  vdirty : BitVec 128
  closed : Bool
  saved  : Option Ckpt
  deriving DecidableEq, Repr

/-- A group with everything it holds (05 R83). -/
structure Group where
  place : Place
  regs  : Regs
  ctl   : Ctl
  trap  : TrapSt
  mat   : MatSt
  acc   : AccSt
  ckpt  : CkptSt
  deriving DecidableEq, Repr

/-- The image of a switched-out group (19 R339): full, or flashback to a launch start or to redo code. -/
structure OutGroup where
  group : Group
  flash : Bool
  /-- It was saved for a long park: it is placed again once no page of its team is missing (19 R333). -/
  longPark : Bool
  /-- Matrix commands, tiles and slots saved with it (16 R291): commands, then (index, elements). -/
  cmds  : List MCmd
  tiles : List (Nat × List (Nat × Word))
  slots : List (Nat × Nat × List (Nat × Nat) × List (Nat × Nat))
  /-- Its slot, blocks and region are not released yet: an operation has still to complete before the image is written (20 R355). -/
  kept  : Bool
  deriving DecidableEq, Repr

/-! ## Core state -/

/-- An accumulator tile (16 R267): owner 0 for none; elements that are not +0, keyed 128 m + n. -/
structure TileSt where
  core     : Nat
  idx      : Nat
  owner    : Nat
  world    : Nat
  clearing : Bool
  elems    : List (Nat × Word)
  /-- Elements hit by an uncorrectable error (16 R290). -/
  bad      : List Nat
  deriving DecidableEq, Repr

/-- An operand slot (16 R267): format tag 255 for none; elements keyed 128 r + k; scale codes keyed 4 r + block
where they are not 127. -/
structure SlotSt where
  core     : Nat
  idx      : Nat
  owner    : Nat
  world    : Nat
  clearing : Bool
  tag      : Nat
  elems    : List (Nat × Nat)
  scales   : List (Nat × Nat)
  bad      : List Nat
  deriving DecidableEq, Repr

/-- A team's scratchpad region on a core (02 R33, 13 R215). -/
structure Region where
  core  : Nat
  launch   : Nat
  world : Nat
  size  : Nat
  mem   : Memory
  /-- Offsets whose word holds an uncorrectable error (13 R229). -/
  bad   : List Nat
  /-- Of those, the ones a read has met: later readers find poison (13 R229). -/
  poisoned : List Nat
  /-- Bytes as they stood before the writes of cycle `prevAt`: what a read of that cycle returns (13 R215). -/
  prev  : Memory
  prevAt : Nat
  deriving DecidableEq, Repr

/-- Who issued a write, and where its response goes. -/
inductive Origin
  | group (uid op : Nat) (lane : Lane)
  /-- A copy's write, with its offset in the command. -/
  | copy (cmd off : Nat)
  /-- A drain's element of a row, or its amax atomic as row 128. -/
  | matrix (core cmd row : Nat)
  | launch (rec : Nat)
  /-- The store of a completion word, with the context and the partition of its record (17 R299). -/
  | completion (ctx part : Nat)
  | host
  | engine
  /-- A core of another package. -/
  | outside (pkg core : Nat)
  deriving DecidableEq, Repr

/-- An entry of a core's store buffer (13 R219). -/
structure SbEntry where
  id     : Nat
  core   : Nat
  origin : Origin
  world  : Nat
  vdid   : Nat
  ctx    : Nat
  gva    : Nat
  addr   : Nat
  size   : Nat
  kind   : WKind
  /-- The primary bound at issue (10 R163). -/
  prim   : Nat
  ret    : Nat
  /-- The carillon tree and port of `st.mc` (14 R247). -/
  tree   : Option (Nat × Nat)
  bad    : Bool
  /-- Further stores of the group that have merged into it: operation and lane (13 R219). -/
  also   : List (Nat × Lane)
  deriving DecidableEq, Repr

/-- An L1 line (13 R217, R233). -/
structure L1Line where
  core   : Nat
  gline  : Nat
  fline  : Nat
  vdid   : Nat
  ctx    : Nat
  world  : Nat
  tag    : Nat
  perm   : BitVec 4
  /-- The size, as a power of two, of the page under whose translation it was filled (09 R153). -/
  bits   : Nat
  cls    : Nat
  const  : Bool
  data   : List Byte
  stamp  : Nat
  /-- Lease end and applied-through time of the copy that filled it; none for a fill from the primary. -/
  lease  : Option (Nat × Nat)
  lru    : Nat
  deriving DecidableEq, Repr

/-- A copy of another package's line under its primary's lease (13 R223): data, stamp, end of the lease, applied-through time. -/
structure LeaseCopy where
  data    : List Byte
  stamp   : Nat
  till    : Nat
  through : Nat
  deriving DecidableEq, Repr

/-- A line of an L2 (place 0 to 11 by slice) or of a memory-side cache (place 16 to 27). Its data are those of its holder in
`mem`, but for a leased copy (13 R220, R223, R224). -/
structure TagLine where
  place  : Nat
  line   : Nat
  /-- The holder whose line it is. -/
  holder : Nat
  world  : Nat
  ctx    : Nat
  cls    : Nat
  lru    : Nat
  /-- The line has been written here and not been written back: what DRAM still holds. -/
  below  : Option (List Byte)
  copy   : Option LeaseCopy
  /-- It holds an uncorrectable error and is the only current copy (13 R229). -/
  bad    : Bool
  deriving DecidableEq, Repr

/-- A barrier counter (20 R361). -/
structure Barrier where
  launch     : Nat
  level   : Nat
  unit    : Nat
  /-- The core, or 144 plus the die, that holds it. -/
  home    : Nat
  target  : Nat
  arrived : Nat
  exited  : Nat
  gen     : Bool
  deriving DecidableEq, Repr

/-- Register blocks being cleared after a release (05 R85). -/
structure BlockClear where
  core   : Nat
  slot   : Nat
  blocks : Nat
  due    : Nat
  deriving DecidableEq, Repr

/-- A partial result (11 R188): ordered partials by leaf, free ones by die. -/
structure Partial where
  /-- The core whose partial store holds it; 65535 while it is in the image of a switched-out group (01 R14, 11 R188). -/
  core    : Nat
  obj     : Nat
  ordered : Bool
  who     : Nat
  uid     : Nat
  gva     : Nat
  fa      : Nat
  val     : BitVec 64
  deriving DecidableEq, Repr

/-! ## Memory side -/

/-- Metadata of a line at a holder (13 R213): world tag, pace stamp, WCT stamp, poison. -/
structure LineMeta where
  key    : Nat
  world  : Nat
  stamp  : Nat
  wct    : Nat
  poison : Bool
  /-- Its bytes and stamp are in the sums of its controller (13 R227). -/
  summed : Bool
  /-- The write request applied last, 0 for any other write: its WCT becomes the stamp (10 R167). -/
  last   : Nat
  deriving DecidableEq, Repr

/-- Class of a 4 KiB page without an object (13 R221); a core is named by package and number. -/
inductive PClass | untouched | priv (pkg core : Nat) | shared
  deriving DecidableEq, Repr

/-- The class record of a page that is not UNTOUCHED. -/
structure PageRec where
  page : Nat
  cls  : PClass
  deriving DecidableEq, Repr

/-- Integrity sums of a world at a controller: 0 to 11 a stack, 12 the host link (13 R227). -/
structure Integ where
  ctl   : Nat
  world : Nat
  hw    : BitVec 256
  hr    : BitVec 256
  /-- Audit intervals of the world that have ended here. -/
  audits : Nat
  deriving DecidableEq, Repr

/-- Progress of a write at its primary (10 R164, 13 R222, 15 R258). -/
inductive WPhase | travel | invalidating | applied | answered
  deriving DecidableEq, Repr

/-- A write on its way to or at its primary. -/
structure WriteReq where
  id     : Nat
  origin : Origin
  core   : Nat
  world  : Nat
  vdid   : Nat
  ctx    : Nat
  gva    : Nat
  addr   : Nat
  ret    : Nat
  kind   : WKind
  prim   : Nat
  routed : Nat
  gone   : List Nat
  tree   : Option (Nat × Nat)
  phase  : WPhase
  /-- Copies that have still to acknowledge the invalidation: a core for its L1, 1000 and a place for an L2. -/
  invs   : List Nat
  /-- Apply time and old value. -/
  time   : Nat
  old    : Nat
  flags  : BitVec 10
  /-- Members of the echo set: holder, acknowledgement time if any, WCT contribution. -/
  echo   : List (Nat × Option Nat)
  wct    : Nat
  notice : Bool
  /-- Its bytes came from a store buffer entry with an uncorrectable error (13 R229). -/
  bad    : Bool
  /-- Cause where the request ended without effect. -/
  err    : Option Nat
  /-- Further stores of the group that its entry held (13 R219). -/
  also   : List (Nat × Lane)
  /-- The L2 slice at which its line is serialised while an agent here owns it (11 R184). -/
  place  : Option Nat
  deriving DecidableEq, Repr

/-- An echo on its way to a holder (10 R164, 21 R376). -/
structure Echo where
  id     : Nat
  write  : Nat
  src    : Nat
  dst    : Nat
  pre    : Prefix
  addr   : Nat
  data   : List Byte
  time   : Nat
  /-- The bytes travel with a multicast packet that has not been delivered yet (14 R247). -/
  carried : Bool
  /-- An invalidation of a leased copy of another package stands in its place (13 R223). -/
  inval  : Bool
  deriving DecidableEq, Repr

/-- Another package that holds lines of a primary here under lease (13 R223): the primary, the line, the package, and the pace
time at which the line was sent. -/
structure Sharer where
  prim : Nat
  line : Nat
  pkg  : Nat
  sent : Nat
  deriving DecidableEq, Repr

/-- The last renewal that a primary here has issued to a replica (10 R166, R167). -/
structure Renewed where
  pre    : Prefix
  prim   : Nat
  holder : Nat
  time   : Nat
  /-- It has been issued; before the first one `time` is the microsecond in which its role became REPLICA at the primary. -/
  issued : Bool
  /-- The replica's lease in nanoseconds, and whether the primary still renews it: its last lease counts afterwards (R165, R167). -/
  lease  : Nat
  live   : Bool
  deriving DecidableEq, Repr

/-- A multicast packet at a port of the package (12 R210): the write, its primary and the packet. -/
structure McFlight where
  port  : Nat
  write : Nat
  pkt   : McPacket
  deriving DecidableEq, Repr

/-- An acknowledgement of an echo on its way to the primary. -/
structure EchoAck where
  id    : Nat
  write : Nat
  dst   : Nat
  time  : Nat
  deriving DecidableEq, Repr

/-- A lease renewal on its way to a replica (10 R166). -/
structure Renewal where
  id   : Nat
  pre  : Prefix
  src  : Nat
  dst  : Nat
  time : Nat
  seq  : Nat
  deriving DecidableEq, Repr

/-- A fill write of a move or `cp.fill` on its way to a holder (10 R173). -/
structure FillWrite where
  id   : Nat
  pre  : Prefix
  dst  : Nat
  addr : Nat
  data : List Byte
  move : Nat
  /-- The stamp of the line that it was read from (15 R254). -/
  time : Nat
  deriving DecidableEq, Repr

/-! ## Tables -/

/-- A cached translation (09 R151). -/
structure TrEntry where
  slice    : Nat
  vdid     : Nat
  ctx      : Nat
  gpage    : Nat
  ipage    : Nat
  fpage    : Nat
  /-- Page size as a power of two. -/
  bits     : Nat
  /-- Combined permissions u, x, w, r in bits 3 to 0. -/
  perm     : BitVec 4
  /-- Stage whose bit is clear, per permission, is found again by the walk (09 R150). -/
  s1perm   : BitVec 4
  fpi      : Option Nat
  s1on     : Bool
  recorded : Bool
  lru      : Nat
  deriving DecidableEq, Repr

/-- One holder in a route entry (10 R160). -/
structure RtHolder where
  holder : Nat
  role   : Role
  lease  : Nat
  cap    : BitVec 8
  cost   : Nat
  path   : List Nat
  deriving DecidableEq, Repr

/-- One entry of a router's table (10 R160). -/
structure RtEntry where
  router  : Nat
  pre     : Prefix
  holders : List RtHolder
  /-- Pace time of the last change (10 R161). -/
  changed : Nat
  deriving DecidableEq, Repr

/-- A relay on its way to a router. -/
structure RelayFlight where
  id  : Nat
  dst : Nat
  msg : RelayMsg
  deriving DecidableEq, Repr

/-- States of a holder at its origin router (10 R172); ABSENT is having no record. -/
inductive HState | primary | filling | replica | draining
  deriving DecidableEq, Repr

/-- A holder of a prefix as its origin router and the holder itself record it (10 R166, R172). -/
structure HolderSt where
  pre      : Prefix
  holder   : Nat
  st       : HState
  lease    : Nat
  cap      : BitVec 8
  /-- Bytes marked echoed while FILLING. -/
  echoed   : List Nat
  through  : Nat
  leaseEnd : Nat
  /-- The holder that took the baton, for forwarding (10 R173). -/
  next     : Option Nat
  /-- While DRAINING: pace time at which its withdrawal last changed a router (10 R161). -/
  settle   : Nat
  /-- Members of a primary's echo set that it has taken over with the baton and that its own router does not list (10 R173). -/
  extra    : List Nat
  /-- Lines that a replica holds for an object of another package's home, until their next echo (11 R184). -/
  kept     : List Nat
  deriving DecidableEq, Repr

/-- States of an object (11 R183). -/
inductive ObjSt
  | priv (core : Nat)
  | shared
  | owned (agent : Nat)
  | update
  | ownerLost
  deriving DecidableEq, Repr

/-- A request held at the home of an object (26 R398): of another agent, of a load's line, or a write. -/
inductive HeldReq
  | agent (r : ObjReq)
  | load (op line : Nat)
  | write (n : Nat)
  deriving DecidableEq, Repr

/-- An outstanding snoop or collection (11 R196, 26 R398). -/
structure Snoop where
  agent    : Nat
  sent     : Nat
  tries    : Nat
  received : Bool
  answered : Bool
  /-- The request that caused it, and requests held behind it in arrival order. -/
  held     : List HeldReq
  deriving DecidableEq, Repr

/-- An entry of the coherence object table (11 R178). -/
structure ObjEntry where
  idx        : Nat
  vdid       : Nat
  /-- The world of the context that declared it: its values go home under this world (00 R8, 13 R226). -/
  world      : Nat
  shape      : BitVec 512
  tree       : BitVec 256
  st         : ObjSt
  tag        : Nat
  round      : Nat
  incomplete : Bool
  ilevel     : Nat
  missing    : BitVec 32
  /-- `mflags`: nan_seen, invalid, overflow, inexact in bits 3 to 0 (11 R195). -/
  mflags     : BitVec 4
  isOpen     : Bool
  closed     : List Nat
  /-- The fabric address of the first line, by which the home is known (26 R397). -/
  home       : Nat
  isMember   : Bool
  /-- The stage-1 root under which it was declared: with VDID and world, the address space of its lines. -/
  root       : DWord
  snoop      : Option Snoop
  /-- The agent that was lost (11 R196). -/
  lost       : Option Nat
  /-- The cycle in which the last round ended: who waited for it is ready in the next one (02 R39). -/
  ended      : Nat
  /-- Other packages that may hold free-mode partials (11 R190). -/
  away       : List Nat
  /-- Lines that its owner, a die here, has written and the home has not echoed (26 R397). -/
  wrote      : List Nat
  /-- Agents that were lost, with the time of the reclaim: what they sent before is discarded (26 R398). -/
  barred     : List (Nat × Nat)
  /-- Leaves that a timed-out round has gone on without and that have not closed (11 R192). -/
  late       : List Nat
  deriving DecidableEq, Repr

/-- An object of another package's home that this package owns (26 R397): the primary of its lines, the lines, the die that serves
them, and those written here. -/
structure FarOwned where
  prim  : Nat
  lines : List Nat
  die   : Nat
  wrote : List Nat
  deriving DecidableEq, Repr

/-- A merge node of an open round (11 R189). -/
structure MNode where
  obj    : Nat
  level  : Nat
  index  : Nat
  got    : List (Nat × List (Nat × BitVec 64))
  first  : Nat
  fired  : Bool
  deriving DecidableEq, Repr

/-- A carillon entry that is not zero (12 R210). -/
structure TreeEntry where
  port : Nat
  n    : Nat
  val  : DWord
  deriving DecidableEq, Repr

/-! ## Contexts, records and queues -/

/-- States of a context (19 R340). -/
inductive CtxSt | idle | waiting | resident
  deriving DecidableEq, Repr

/-- Phase of a pre-emption (19 R335), with its start in pace time. -/
inductive Preempt
  | none
  | grace (since : Nat)
  | forward (since : Nat)
  deriving DecidableEq, Repr

/-- A context with its per-context registers (09 R146, 19 R340). -/
structure Ctx where
  num       : Nat
  part      : Nat
  vdid      : Nat
  world     : Nat
  conf      : Bool
  st        : CtxSt
  preempt   : Preempt
  /-- Start of the slice, and place in the residency order. -/
  sliceFrom : Nat
  waitFrom  : Nat
  s1root    : DWord
  fpBase    : DWord
  nodeBase  : DWord
  tvec1     : DWord
  ctxCfg    : DWord
  /-- The value a write has set for the next slice (19 R334). -/
  ctxCfgNext : DWord
  cimg      : DWord
  fq1       : DWord
  fq1Pos    : Nat
  wdog      : DWord
  perf      : Vector DWord 16
  tdt       : List (Nat × BitVec 512)
  /-- A forced reset in progress: its cause (19 R337). -/
  reset     : Option Nat
  /-- The context is to be freed when its reset completes (19 R340). -/
  destroy   : Bool
  deriving DecidableEq, Repr

/-- States of a launch record (02 R42); DONE frees the entry. -/
inductive RecSt
  | waitPred | waitHurdle | reserving | placing | running | finishing | refused
  deriving DecidableEq, Repr

/-- Items that a record in RESERVING holds (02 R43): slots, register blocks of a quarter, bytes of scratchpad of a core, and
barrier counters of a core or die (20 R361). -/
structure Held where
  slots  : List (Nat × Nat)
  blocks : List (Nat × Nat × Nat)
  scr    : List (Nat × Nat)
  bars   : List (Nat × Nat)
  deriving DecidableEq, Repr

/-- A launch record from admission to DONE (17 R295-R299). -/
structure LRec where
  id       : Nat
  part     : Nat
  ctx      : Nat
  /-- The 256 bytes as one number (R295). -/
  raw      : Nat
  st       : RecSt
  status   : Nat
  /-- When it reached the launch queue and RESERVING. -/
  queued   : Nat
  resvFrom : Nat
  /-- It blocks younger placement (02 R43). -/
  aged     : Bool
  /-- The items it holds for the unit whose turn has come (02 R43). -/
  hold     : Held
  /-- The latest seat of each group placed so far, in ascending flat number, and the flat numbers of those released. -/
  placed   : List Seat
  released : List Nat
  wct      : Nat
  /-- Successors decremented so far, their WCT, and the copy command of a copy node. -/
  succDone : Nat
  succWct  : Nat
  /-- Its node word has been cleared at its end (17 R296). -/
  cleared  : Bool
  nodeDone : Bool
  copy     : Option Nat
  deriving DecidableEq, Repr

/-- A copy of the copy engines (14 R243-R246). -/
inductive CKind
  | bytes (dst src len : Nat) (dsp ssp : Bool) (fill : Bool)
  | tensor (dd ds : BitVec 512) (d0 d1 s0 s1 : Nat)
  deriving DecidableEq, Repr

/-- A copy command (14 R244). -/
structure CopyCmd where
  id      : Nat
  engine  : Nat
  uid     : Nat
  /-- The launch record of a copy node. -/
  node    : Option Nat
  ctx     : Nat
  core    : Nat
  team    : Nat
  op      : Nat
  pc      : BitVec 48
  kind    : CKind
  scp     : Scp
  /-- Retention class of its accesses (13 R224, 14 R249). -/
  cls     : Nat
  /-- The floor of its reads, and how many of its pieces have been moved since its accesses began. -/
  floor   : Nat
  moved   : Option Nat
  /-- Every piece has been moved, or one has failed. -/
  started : Bool
  after   : List Nat
  wct     : Nat
  /-- Cause, offset and address of the failing access (14 R246). -/
  err     : Option (Nat × Nat × Nat)
  deriving DecidableEq, Repr

/-- A live or waiting fault record (19 R330, R331). -/
structure FaultRec where
  id      : Nat
  /-- Queue 1 of a context or queue 2 of a VDID. -/
  queue   : Nat
  ctx     : Nat
  vdid    : Nat
  tag     : Nat
  uid     : Nat
  /-- The group's count rises with this record; a copy engine's does not. -/
  counted : Bool
  w0      : DWord
  w1      : DWord
  w2      : DWord
  w3      : DWord
  written : Bool
  /-- The lanes that failed on its page (19 R329), and the pace time at which it was last offered to its queue (R330). -/
  lanes   : Nat
  offered : Nat
  deriving DecidableEq, Repr

/-- A work list (17 R302). -/
structure WorkList where
  part : Nat
  n    : Nat
  cfg  : DWord
  head : Nat
  tail : Nat
  prod : Nat
  /-- Reservations in flight: first position and number of items. -/
  resv : List (Nat × Nat)
  /-- Positions whose reservation ended without items (19 R322): no item stands there. -/
  void : List (Nat × Nat)
  deriving DecidableEq, Repr

/-- States of a ring (17 R304). -/
inductive RingSt | disabled | running | waitKick | faulted | sealed
  deriving DecidableEq, Repr

/-- A host submission ring (17 R304). -/
structure Ring where
  base    : DWord
  ctl     : DWord
  seq     : DWord
  st      : RingSt
  rejects : Nat
  tries   : Nat
  sawLow  : Bool
  /-- The pace time of the next read. -/
  due     : Nat
  /-- FAULTED or SEALED, which lasts until a new key is loaded (17 R305). -/
  stuck   : Option RingSt
  key     : List Byte
  deriving DecidableEq, Repr

/-- Where a walk met a leaf with `far` = 1: the footprint index of the block, the IPA, the stage-1 level (09 R152), and the fabric
address that the leaf gave. -/
structure FarLeaf where
  fpi : Nat
  ipa : Nat
  l1  : Nat
  fa  : Nat
  deriving DecidableEq, Repr

/-- A far leaf met by a group or an engine command: who waits for it, its GVA and the access (18 R319). -/
structure TierWait where
  id   : Nat
  uid  : Nat
  vdid : Nat
  ctx  : Nat
  far  : FarLeaf
  gva  : Nat
  acc  : Access
  deriving DecidableEq, Repr

/-- Directions of a move (18 R314). -/
inductive Dir | up | down
  deriving DecidableEq, Repr

/-- A queued command of the tier engine (18 R314). -/
structure TierCmd where
  blk     : Nat
  vdid    : Nat
  ctx     : Nat
  recAddr : Nat
  dir     : Dir
  prio    : Nat
  waiters : List TierWait
  deriving DecidableEq, Repr

/-- States of a move (18 R316). -/
inductive MoveSt | announcing | copying | handing | withdrawing | aborted
  deriving DecidableEq, Repr

/-- A move in progress (18 R316). -/
structure Move where
  id      : Nat
  cmd     : TierCmd
  src     : Nat
  dst     : Nat
  st      : MoveSt
  /-- The next line offset to fill. -/
  pos     : Nat
  triedHost : Bool
  announced : Bool
  asked   : Nat
  /-- The status of the announcement or handover, once the origin router has given it. -/
  answer  : Option Nat
  deriving DecidableEq, Repr

/-- The tier engine (18 R308). -/
structure Tier where
  cmds    : List TierCmd
  moves   : List Move
  offered : List TierWait
  deriving DecidableEq, Repr

/-! ## Host, links and management -/

/-- The mailbox (22 R384). -/
structure Mailbox where
  cmd  : DWord
  stat : DWord
  req  : List Byte
  rsp  : List Byte
  deriving DecidableEq, Repr

/-- A world that exists (22 R385). -/
structure World where
  id    : Nat
  /-- Its encryption key, 64 bytes (13 R225). -/
  key   : List Byte
  audit : Nat
  fails : Nat
  /-- Pace time of its creation, from which its audit intervals run. -/
  since : Nat
  /-- Its integrity key (13 R227). -/
  ikey  : List Byte
  deriving DecidableEq, Repr

/-- A flit that was sent and is not acknowledged, with the nonce of its tag: session number and flit count (21 R373, R377). -/
structure SentFlit where
  flit  : Flit
  nonce : Nat
  deriving DecidableEq, Repr

/-- A link of an Ovber port (21 R372-R377). -/
structure Link where
  port    : Nat
  n       : Nat
  up      : Bool
  spare   : Bool
  rxSeq   : Nat
  txSeq   : Nat
  acked   : Nat
  retry   : List SentFlit
  /-- Pace time at which the acknowledgement last advanced. -/
  ackAt   : Nat
  replays : Nat
  tagBad  : Nat
  /-- Session and flit count of the receiving direction, then of the sending one. -/
  session : Nat
  flits   : Nat
  txSession : Nat
  txFlits : Nat
  /-- The flit that `replays` counts, and the one from which a replay is asked here. -/
  again   : Nat
  nak     : Option Nat
  /-- Its peer failed authentication (R377). -/
  failed  : Bool
  deriving DecidableEq, Repr

/-- A port's send side per channel: the next sequence, and packets that no link has had room for (21 R372). -/
structure PortTx where
  port  : Nat
  chan  : Nat
  next  : Nat
  queue : List Packet
  deriving DecidableEq, Repr

/-- A port's receive side per channel: next sequence and packets held back (21 R372). -/
structure PortRx where
  port  : Nat
  chan  : Nat
  next  : Nat
  held  : List Packet
  deriving DecidableEq, Repr

/-- The host's side of CXL.mem (21 R371): requests waiting at their serialisation point, and the last answer with its
poison. -/
structure HostPort where
  waiting : List HostReq
  answer  : List Byte
  poison  : Bool
  /-- Snoops that wait for their line, with the bytes of a writing one, and what the last snoop was answered (21 R370). -/
  snoops  : List (Nat × Option (List Byte))
  seen    : List Byte
  deriving DecidableEq, Repr

/-- The package's own registers and clocks. -/
structure Pkg where
  pkgId    : DWord
  rteCost  : DWord
  tierCfg  : DWord
  tvec2    : DWord
  erq      : DWord
  erqPos   : Nat
  erqLost  : DWord
  pwrCap   : DWord
  pwrStat  : DWord
  tray     : Nat
  dieOff   : DWord
  wear     : Vector DWord 32
  meas     : BitVec 512
  partDesc : Vector DWord 12
  partStatus : DWord
  gangAge  : Vector DWord 12
  boot     : Nat
  bootFail : Nat
  /-- The number of the images that have loaded. -/
  images   : Nat
  /-- The ring that was served last (17 R307). -/
  ringLast : Nat
  /-- The partitions, as bits, whose last record came by `launch` (17 R307). -/
  byLaunch : Nat
  /-- The pace time of the last power comparison, and since when power has stayed above the cap at 1.0 GHz (22 R390). -/
  pwrAt    : Nat
  pwrHot   : Option Nat
  /-- The hours after power-on in which the wear registers were last updated (22 R394). -/
  wearHour : Vector Nat 32
  deriving DecidableEq, Repr

/-- The per-VDID registers, indexed by VDID (09 R146, R151, 11 R178, 18 R310, 19 R330). -/
structure VdidRegs where
  s2root  : Vector DWord 64
  tq      : Vector DWord 64
  cobjQ   : Vector DWord 64
  tierTab : Vector DWord 64
  fq2     : Vector DWord 64
  fq2Pos  : Vector Nat 64
  /-- The partition a VDID is bound to, 255 for none (19 R340). -/
  part    : Vector Nat 64
  deriving DecidableEq, Repr

/-- Whose move it is when the agenda is empty (log entry 1). -/
inductive Phase
  /-- The group `cur` has its turn. -/
  | issue
  /-- Events of the hardware happen, at most `left` more before the next turn. -/
  | event (left : Nat)
  deriving DecidableEq, Repr

/-- The state of one package. -/
structure State where
  /-- The group whose turn it is, and the other resident groups. -/
  cur      : Group
  others   : List Group
  /-- Switched-out groups with their images. -/
  out      : List OutGroup
  mqueue   : List MCmd
  tiles    : List TileSt
  oslots   : List SlotSt
  scratch  : List Region
  sb       : List SbEntry
  l1       : List L1Line
  tags     : List TagLine
  bars     : List Barrier
  clearing : List BlockClear
  partials : List Partial
  mem      : Memory
  lines    : List LineMeta
  /-- Blocks of 2 MiB granted to worlds other than 0: block number and world (22 R383). -/
  granted  : List (Nat × Nat)
  pages    : List PageRec
  integ    : List Integ
  writes   : List WriteReq
  echoes   : List Echo
  mcast    : List McFlight
  acks     : List EchoAck
  renewals : List Renewal
  fills    : List FillWrite
  sharers  : List Sharer
  renewed  : List Renewed
  tlb      : List TrEntry
  /-- Translations made, by which a `tinv` finds the pages that it matches: entries without slice, age or use (09 R153, 13 R221). -/
  mapped   : List TrEntry
  routes   : List RtEntry
  holders  : List HolderSt
  relays   : List RelayFlight
  /-- Refused relays: prefix, holder and the relay's number (10 R176). -/
  refused  : List (Prefix × Nat × Nat)
  objs     : List ObjEntry
  nodes    : List MNode
  /-- Objects homed elsewhere that this package owns (26 R397). -/
  owned    : List FarOwned
  trees    : List TreeEntry
  ctxs     : List Ctx
  recs     : List LRec
  copies   : List CopyCmd
  faults   : List FaultRec
  wls      : List WorkList
  rings    : Vector Ring 16
  tier     : Tier
  vregs    : VdidRegs
  pkg      : Pkg
  mbox     : Mailbox
  worlds   : List World
  host     : HostPort
  links    : List Link
  ports    : List PortRx
  txq      : List PortTx
  /-- Packets delivered to the package and not consumed. -/
  inbox    : List Packet
  /-- Core cycles since power-on, and pace time in picoseconds (00 R6, 10 R157). -/
  cycle    : Nat
  ps       : Nat
  /-- Events still to happen, the first of them next (log entry 1). -/
  agenda   : List Instr
  phase    : Phase
  /-- The next name of an operation in flight, and the next free value (log entries 1, 5). -/
  nextId   : Nat
  freeCount : Nat
  deriving DecidableEq, Repr

/-! ## Reset -/

/-- No item held. -/
def Held.none : Held := ⟨[], [], [], []⟩

/-- No bundle in progress. -/
def Bundle.none : Bundle := ⟨false, 0, 0, Option.none, Option.none, 0, 0, Option.none, Option.none, Option.none, Option.none, 0, 0, Option.none, [], []⟩

/-- A free split (05 R85). -/
def Split.free : Split := ⟨false, 0, 0, 0, Bundle.none, .none, 0, [], 0⟩

/-- Registers of an empty slot: every bit 0 (05 R85). -/
def Regs.zero : Regs :=
  ⟨Vector.replicate 128 (Vector.replicate 32 0), Vector.replicate 64 0, Vector.replicate 16 0,
    Vector.replicate 12 ⟨false, 0⟩, Vector.replicate 32 0, 0, []⟩

/-- A trap record of zeros. -/
def TrapEntry.zero : TrapEntry := ⟨0, 0, 0, 0, 0⟩

/-- An empty group slot: every bit 0 (05 R85). -/
def Group.empty : Group :=
  ⟨⟨0, false, 0, 0, 0, 0, 0, 0⟩, Regs.zero,
    ⟨Vector.replicate 4 Split.free, 0, [], false, [], false, Option.none, 0⟩,
    ⟨[], TrapEntry.zero, 0, 0, false, 0, 0, 0, 0, [], Option.none⟩,
    ⟨0, 0, [], Option.none, [], 0⟩, ⟨0, 0, 0, 0, 0, [], []⟩, ⟨0, false, Option.none⟩⟩

/-- The package registers at power-on: the reset values of the field maps; where a map gives none, log entry 13. -/
def Pkg.reset : Pkg :=
  { pkgId := 0, rteCost := 0x08020101#64, tierCfg := 0x00080400#64, tvec2 := 0, erq := 0, erqPos := 0, erqLost := 0,
    pwrCap := 0x000A0B54#64, pwrStat := 0x1900#64, tray := 4, dieOff := 0,
    wear := Vector.replicate 32 0x0000FFFF00000000#64, meas := 0,
    partDesc := Vector.replicate 12 0, partStatus := 0, gangAge := Vector.replicate 12 50,
    boot := 0, bootFail := 0, images := 0, ringLast := 0,
    byLaunch := 0, pwrAt := 0, pwrHot := none, wearHour := Vector.replicate 32 0 }

/-- The per-VDID registers at reset (09 R146, R151, 11 R178, 18 R310; fq2 by log entry 13). -/
def VdidRegs.reset : VdidRegs :=
  ⟨Vector.replicate 64 0, Vector.replicate 64 0, Vector.replicate 64 0, Vector.replicate 64 0,
    Vector.replicate 64 0, Vector.replicate 64 0, Vector.replicate 64 255⟩

/-- A ring at reset (17 R304): `lsize` 4, everything else 0. -/
def Ring.reset : Ring := ⟨0x80#64, 0, 0, .disabled, 0, 0, false, 0, none, []⟩

/-- The package at power-on, before its boot (22 R381; log entry 3). -/
def State.reset : State :=
  { cur := Group.empty, others := [], out := [], mqueue := [], tiles := [], oslots := [], scratch := [],
    sb := [], l1 := [], tags := [], bars := [], clearing := [], partials := [], mem := [], lines := [], granted := [],
    pages := [], integ := [], writes := [], echoes := [], mcast := [], acks := [], renewals := [], fills := [],
    sharers := [], renewed := [], tlb := [], mapped := [],
    routes := [], holders := [], relays := [], refused := [], objs := [], nodes := [], owned := [], trees := [], ctxs := [],
    recs := [], copies := [], faults := [], wls := [], rings := Vector.replicate 16 Ring.reset,
    tier := ⟨[], [], []⟩, vregs := VdidRegs.reset, pkg := Pkg.reset, mbox := ⟨0, 0, [], []⟩, worlds := [],
    host := ⟨[], [], false, [], []⟩,
    links := [], ports := [], txq := [], inbox := [], cycle := 0, ps := 0, agenda := [], phase := .issue,
    nextId := 1, freeCount := 0 }

end Sys2Proof.Machine
end

