-- ==== Sys2Proof/Machine/Memory.lean ====
section
/-! DEFINITION. Memory as bytes in canonical form, keyed by holder and fabric address (spec 13 R213, R214; log
entry 7), the caches of dies and base dies (R220, R224), and the reading and writing of the 64-byte lines of a holder with
their metadata (R225-R227). -/

namespace Sys2Proof.Machine

/-- What a byte that nothing has written reads as: the boot zeroes every line (22 R381; log entry 3). -/
def Memory.unlisted : Byte := 0

/-- The byte at a key. -/
def Memory.get : Memory → Nat → Byte
  | [], _ => Memory.unlisted
  | (k, b) :: m, a => if k = a then b else Memory.get m a

/-- Memory without a key. -/
def Memory.erase : Memory → Nat → Memory
  | [], _ => []
  | (k, b) :: m, a => if k = a then m else (k, b) :: Memory.erase m a

/-- Memory with a listed byte at a key, in its place. -/
def Memory.insert : Memory → Nat → Byte → Memory
  | [], a, x => [(a, x)]
  | (k, b) :: m, a, x =>
    if a < k then (a, x) :: (k, b) :: m
    else if a = k then (a, x) :: m
    else (k, b) :: Memory.insert m a x

/-- Memory after a byte is written; the canonical form is kept. -/
def Memory.put (m : Memory) (a : Nat) (x : Byte) : Memory :=
  if x = Memory.unlisted then Memory.erase m a else Memory.insert m a x

/-- `n` bytes from a key up. -/
def Memory.getN (m : Memory) : Nat → Nat → List Byte
  | _, 0 => []
  | a, n + 1 => Memory.get m a :: Memory.getN m (a + 1) n

/-- Bytes written from a key up, lowest address first (R5). -/
def Memory.putN (m : Memory) (a : Nat) : List Byte → Memory
  | [] => m
  | x :: xs => Memory.putN (Memory.put m a x) (a + 1) xs

/-- Every key above `a`, strictly rising, no byte equal to what an unlisted key reads as. -/
def Memory.wfFrom : Option Nat → Memory → Bool
  | _, [] => true
  | lo, (k, b) :: m =>
    (match lo with
      | none => true
      | some a => decide (a < k)) && decide (b ≠ Memory.unlisted) && Memory.wfFrom (some k) m

/-- The canonical form of memory. -/
def Memory.wf (m : Memory) : Bool := Memory.wfFrom none m

/-- The key of a fabric address at a holder. -/
def memKey (holder fa : Nat) : Nat := holder * 2 ^ 64 + fa % 2 ^ 64

/-- The 64-byte line of an address. -/
def lineBase (a : Nat) : Nat := a / 64 * 64

/-- The world whose lines an address names: 0 but for granted blocks (R226, 22 R383). -/
def State.tagOf (s : State) (fa : Nat) : Nat := ((s.granted.find? (fun g => g.1 == fa / 2 ^ 21)).map Prod.snd).getD 0

/-- The metadata of the line of an address at a holder (R213); a line nothing has touched has stamps 0. -/
def State.lineAt (s : State) (holder fa : Nat) : LineMeta :=
  let k := memKey holder (lineBase fa)
  { (s.lines.find? (fun l => l.key == k)).getD ⟨k, 0, 0, 0, false, false, 0⟩ with world := s.tagOf fa }

/-- Replaces the metadata of a line. -/
def State.setLine (s : State) (l : LineMeta) : State :=
  { s with lines := l :: s.lines.filter (fun x => x.key != l.key) }

/-- The bytes of a holder. -/
def State.bytesAt (s : State) (holder fa n : Nat) : List Byte := Memory.getN s.mem (memKey holder fa) n

/-- The pace clock: pace time in whole nanoseconds (10 R157). -/
def State.pace (s : State) : Nat := s.ps / 1000 % 2 ^ 64

/-- The number of this package in its fabric (05 R90). -/
def State.pkgNum (s : State) : Nat := s.pkg.pkgId.toNat % 65536

/-- The controller of a holder: 0 to 11 a stack of this package, 12 the host link, none for another package. -/
def State.ctlOf (s : State) (holder : Nat) : Option Nat :=
  if holder / 256 = s.pkgNum then
    let i := holder % 256
    if i = 0 then some 12 else if 16 ≤ i ∧ i < 28 then some (i - 16) else none
  else none

/-- Adds to the sums of a world at a controller (13 R227). -/
def State.fold (s : State) (ctl world : Nat) (hw hr : BitVec 256) : State :=
  let e := (s.integ.find? (fun e => e.ctl == ctl && e.world == world)).getD ⟨ctl, world, 0, 0, 0⟩
  { s with integ := ⟨ctl, world, e.hw + hw, e.hr + hr, e.audits⟩ ::
      s.integ.filter (fun e => !(e.ctl == ctl && e.world == world)) }

/-! ## The boundary of plaintext and ciphertext (R225, R227) -/

/-- What DRAM holds of a line's plaintext: AES-256-XTS under its world's key, tweaked by address bits [63:6] (R225); world 0 has the
identity in place of a key (21 R370). -/
def State.cipherOf (s : State) (world fa : Nat) (bs : List Byte) : List Byte :=
  match s.worlds.find? (fun w => w.id == world) with
  | some w => xtsLine w.key (fa % 2 ^ 64 / 64) bs
  | none => bs

/-- The plaintext of what DRAM or the host stores of a line (R225). -/
def State.plainOf (s : State) (world fa : Nat) (bs : List Byte) : List Byte :=
  match s.worlds.find? (fun w => w.id == world) with
  | some w => xtsUnline w.key (fa % 2 ^ 64 / 64) bs
  | none => bs

/-- `h` of R227 on a line with a stamp and plaintext. -/
def State.tuple (s : State) (l : LineMeta) (stamp : Nat) (bs : List Byte) : BitVec 256 :=
  Config.lineHash (((s.worlds.find? (fun w => w.id == l.world)).map World.ikey).getD []) l.key stamp (s.cipherOf l.world l.key bs)

/-- The tuple of a line that is not in the sums yet: it counts as written with the bytes and stamp it has (log entry 9). -/
def State.base (s : State) (l : LineMeta) (bs : List Byte) : BitVec 256 := if l.summed then 0 else s.tuple l l.stamp bs

/-- The plaintext of what DRAM holds of a line at a holder: a line that an L2 has written and not written back is older there
(R220). -/
def State.dramBytes (s : State) (holder fa : Nat) : List Byte :=
  match (s.tags.find? (fun t => t.holder == holder && t.line == lineBase fa && t.below.isSome)).bind TagLine.below with
  | some bs => bs
  | none => s.bytesAt holder (lineBase fa) 64

/-- `dram_read` of R227: the old tuple goes into the read sum, the line is re-stamped, the new tuple goes into
the write sum. -/
def State.dramRead (s : State) (holder fa : Nat) : State :=
  match s.ctlOf holder with
  | none => s
  | some c =>
    let l := s.lineAt holder fa
    let bs := s.dramBytes holder fa
    let s := s.fold c l.world (s.base l bs + s.tuple l s.pace bs) (s.tuple l l.stamp bs)
    s.setLine { l with stamp := s.pace, summed := true }

/-- `dram_write` of R227: DRAM, which held `old`, takes the line as it is now. -/
def State.putDram (s : State) (holder fa : Nat) (old : List Byte) : State :=
  match s.ctlOf holder with
  | none => s
  | some c =>
    let l := s.lineAt holder fa
    let new := s.bytesAt holder (lineBase fa) 64
    let s := s.fold c l.world (s.base l old + s.tuple l s.pace new) (s.tuple l l.stamp old)
    { s.setLine { l with stamp := s.pace, summed := true } with
      tags := s.tags.map (fun (t : TagLine) => if t.holder == holder && t.line == lineBase fa then { t with below := none } else t) }

/-- A write of bytes through to DRAM. -/
def State.dramWrite (s : State) (holder fa : Nat) (bs : List Byte) : State :=
  { s with mem := Memory.putN s.mem (memKey holder fa) bs }.putDram holder fa (s.dramBytes holder fa)

/-- The world check of R226 on the line of an address. -/
def State.worldOk (s : State) (holder fa world : Nat) : Bool :=
  let l := s.lineAt holder fa
  l.world == world || l.world == 0

/-! ## Replacement (R224) -/

/-- The element of least age, of equal ones the last. -/
def oldest {α : Type} (age : α → Nat) : List α → Option α
  | [] => none
  | x :: xs => match oldest age xs with
    | none => some x
    | some y => if age x < age y then some x else some y

/-- The victim of a full set: streaming lines first, then default ones, then sticky ones, the least recently used of each. -/
def victim {α : Type} (cls age : α → Nat) (ws : List α) : Option α :=
  match oldest age (ws.filter (fun x => cls x == 0)) with
  | some x => some x
  | none => match oldest age (ws.filter (fun x => cls x == 1)) with
    | some x => some x
    | none => oldest age ws

/-- The age of a line that enters a set: a streaming line takes the least recently used position. -/
def entryAge (cls now : Nat) : Nat := if cls = 0 then 0 else now

/-! ## Performance counters (20 R362) -/

/-- Changes a context. -/
def State.modCtx (s : State) (n : Nat) (f : Ctx → Ctx) : State :=
  { s with ctxs := s.ctxs.map (fun c => if c.num == n then f c else c) }

/-- Adds to a counter of a context, modulo 2^64. -/
def State.count (s : State) (ctx ev n : Nat) : State :=
  s.modCtx ctx (fun c => { c with perf := c.perf.setIfInBounds ev ((c.perf[ev]?).getD 0 + BitVec.ofNat 64 n) })

/-! ## The caches of dies and base dies (01 R11, R15, R16, 13 R220) -/

/-- The 16-way set of a line in a cache: a slice has 16 banks of 3 MiB, a base die 192 MiB (01 R11, R15; log entry 8). -/
def tagSet (place line : Nat) : Nat := line / 64 % (if place < 16 then 49152 else 196608)

/-- A cache holds a line. -/
def State.hasTag (s : State) (place line : Nat) : Bool := s.tags.any (fun t => t.place == place && t.line == line)

/-- The lines of the set of a line in a cache. -/
def State.tagSetOf (s : State) (place line : Nat) : List TagLine :=
  s.tags.filter (fun t => t.place == place && tagSet place t.line == tagSet place line)

/-- A line that an L2 has written is written back to its holder (R220), poisoned where it holds an uncorrectable error (R229). -/
def State.writeBack (s : State) (t : TagLine) : State :=
  match t.below with
  | none => s
  | some old =>
    let s := s.putDram t.holder t.line old
    if t.bad then s.setLine { s.lineAt t.holder t.line with poison := true } else s

/-- A line leaves a cache. -/
def State.evictTag (s : State) (t : TagLine) : State :=
  let s := s.writeBack t
  { s with tags := s.tags.filter (fun (x : TagLine) => !(x.place == t.place && x.line == t.line)) }

/-- A line leaves a cache for a request that carries a context's tag: the bytes that go back to DRAM count for it (20 R362, R363). -/
def State.evictFor (s : State) (ctx : Nat) (t : TagLine) : State :=
  (if t.below.isSome then s.count ctx 8 64 else s).evictTag t

/-- A thirteenth sticky line of an L2 set makes the oldest one default (R224). -/
def State.limitTags (s : State) (place line : Nat) : State :=
  let st := (s.tagSetOf place line).filter (fun t => t.cls == 2)
  if 16 ≤ place ∨ st.length ≤ 12 then s
  else match oldest TagLine.lru (st.filter (fun t => t.line != line)) with
    | none => s
    | some v => { s with tags := s.tags.map (fun (t : TagLine) => if t.place == place && t.line == v.line then { t with cls := 1 } else t) }

/-- Two places are one cache: the L2 of a die, whose slices are places below 12, or one memory-side cache (R220). -/
def sameCache (p q : Nat) : Bool := p == q || (decide (p < 12) && decide (q < 12) && p / 3 == q / 3)

/-- A line is used in a cache: a hit records the class, which bypass leaves; a miss allocates, which bypass does not, in the
place of a victim where its set is full (R224). A die's L2 holds one copy of a line: another holder's, or one in another slice, leaves
it (R220). -/
def State.touchTag (s : State) (place holder fa world ctx cls : Nat) : State :=
  let ln := lineBase fa
  let s := (s.tags.filter (fun t => sameCache t.place place && t.line == ln && (t.place != place || t.holder != holder))).foldl
    (fun (s : State) t => s.evictFor ctx t) s
  if s.hasTag place ln then
    { s with tags := s.tags.map (fun (t : TagLine) =>
        if t.place == place && t.line == ln then
          (if cls = 3 then { t with lru := s.cycle } else { t with cls := cls, ctx := ctx, lru := s.cycle })
        else t) }.limitTags place ln
  else if cls = 3 then s
  else
    let ws := s.tagSetOf place ln
    let s := if ws.length < 16 then s else match victim TagLine.cls TagLine.lru ws with
      | some v => s.evictFor ctx v
      | none => s
    { s with tags := ⟨place, ln, holder, world, ctx, cls, entryAge cls s.cycle, none, none, false⟩ :: s.tags }.limitTags place ln

/-- A line is held in the memory-side cache of its stack (R16, R224). -/
def State.mscHit (s : State) (holder fa : Nat) : Bool :=
  match s.ctlOf holder with
  | some c => s.hasTag (16 + c) (lineBase fa)
  | none => false

/-- What a read that an L2 did not serve counts for its context (20 R362). -/
def State.countRead (s : State) (ctx holder fa : Nat) : State :=
  let s' := s.count ctx 6 1
  if s.mscHit holder fa then s' else (s'.count ctx 7 1).count ctx 8 64

/-- A line read by its controller: a hit in the memory-side cache folds nothing (R227). -/
def State.ctlRead (s : State) (holder fa ctx cls : Nat) : State :=
  let hit := s.mscHit holder fa
  let s := if hit then s else s.dramRead holder fa
  match s.ctlOf holder with
  | some c => if c < 12 then s.touchTag (16 + c) holder fa (s.lineAt holder fa).world ctx cls else s
  | none => s

/-- The slice of this package at which a primary's lines are serialised: SL`n` for MS`n`, SL0 for host memory
(11 R184, 01 R11). For a slice of an offline die the base die serialises the lines itself, without a copy (11 R199). -/
def State.serSlice (s : State) (holder : Nat) : Option Nat :=
  let n := match s.ctlOf holder with
    | some 12 => some 0
    | r => r
  match n with
  | some n => if s.pkg.dieOff.toNat / 2 ^ (n / 3) % 2 = 0 then some n else none
  | none => none

/-- A write that goes through to DRAM: nothing is allocated for it at the place where its line is serialised, or there is none (R220,
R224). -/
def State.through (s : State) (place : Option Nat) (fa cls : Nat) : Bool :=
  match place with
  | none => true
  | some n => decide (cls = 3) && !s.hasTag n (lineBase fa)

/-- What a write at its serialisation point counts for its context: a line that the L2 does not hold, and the bytes of a write that
goes through (20 R362). -/
def State.countWrite (s : State) (place : Option Nat) (ctx fa cls : Nat) : State :=
  let s' := match place with
    | some n => if s.hasTag n (lineBase fa) then s else s.count ctx 6 1
    | none => s
  if s.through place fa cls then s'.count ctx 8 64 else s'

/-- A write where its line is serialised: the L2 of the slice takes the bytes and DRAM keeps what it holds until the line is
written back (R220); where nothing is allocated there, and without a slice, the write goes through. -/
def State.storeAt (s : State) (place : Option Nat) (holder fa ctx cls : Nat) (bs : List Byte) : State :=
  let ln := lineBase fa
  match place with
  | none => s.dramWrite holder fa bs
  | some n =>
    if cls = 3 ∧ s.hasTag n ln = false then s.dramWrite holder fa bs
    else
      let old := s.dramBytes holder fa
      let s := s.touchTag n holder fa (s.lineAt holder fa).world ctx cls
      { s with
        mem := Memory.putN s.mem (memKey holder fa) bs
        tags := s.tags.map (fun (t : TagLine) => if t.place == n && t.line == ln then
            { t with below := some (t.below.getD old), bad := t.bad && decide (bs.length < 64) } else t) }

/-- A write at a primary, where its slice serialises it; one of another package has no slice here. -/
def State.storeLine (s : State) (holder fa ctx cls : Nat) (bs : List Byte) : State :=
  s.storeAt (s.serSlice holder) holder fa ctx cls bs

/-- The lines that an L2 has written of a range, at one holder, are written back (R173, R220). -/
def State.writeBackAll (s : State) (p : TagLine → Bool) : State :=
  (s.tags.filter p).foldl (fun (s : State) (t : TagLine) => s.writeBack t) s

/-- A read at the line's holder by a unit of the package for a context, with its class: it is served by the L2 of the
serialisation slice where that holds the line, else by the controller (R220, R224, R227). -/
def State.unitReadAs (s : State) (holder fa ctx cls : Nat) : State :=
  match s.serSlice holder with
  | none => s.ctlRead holder fa ctx cls
  | some n => if s.hasTag n (lineBase fa) then s.touchTag n holder fa (s.lineAt holder fa).world ctx cls else s.ctlRead holder fa ctx cls

/-- The same for the package itself. -/
def State.unitRead (s : State) (holder fa : Nat) : State := s.unitReadAs holder fa 65535 1

end Sys2Proof.Machine
end

