-- ==== Sys2Proof/Machine/Route.lean ====
section
/-! DEFINITION. Looking up holders in the routers' tables (spec 10 R156, R158, R162) and what an access waits for at a
primary (10 R173, 15 R258). -/

namespace Sys2Proof.Machine

/-- Whether a prefix covers a fabric address (R158). -/
def prefixCovers (p : Prefix) (a : Nat) : Bool :=
  a / 2 ^ (64 - p.len) == p.base / 2 ^ (64 - p.len)

/-- The identifier of a router or holder of this package by its local index (R156). -/
def State.localId (s : State) (i : Nat) : Nat := s.pkgNum * 256 + i

/-- The entry of the longest prefix of a router's table that covers an address (R162). -/
def State.routeEntry (s : State) (router a : Nat) : Option RtEntry :=
  (s.routes.filter (fun e => e.router == router && prefixCovers e.pre a)).foldl
    (fun b e => match b with
      | none => some e
      | some x => if x.pre.len < e.pre.len then some e else some x) none

/-- The holder of lowest cost, then lowest identifier (R162). -/
def cheapest (hs : List RtHolder) : Option RtHolder :=
  hs.foldl (fun b h => match b with
    | none => some h
    | some x => if h.cost < x.cost ∨ (h.cost = x.cost ∧ h.holder < x.holder) then some h else some x) none

/-- The holder a read goes to from a router, leaving some out (R162, R170). -/
def State.routeRead (s : State) (router a : Nat) (gone : List Nat) : Option RtHolder :=
  match s.routeEntry router a with
  | none => none
  | some e => cheapest (e.holders.filter (fun h => h.role != .filling && !gone.contains h.holder))

/-- The holder a write goes to from a router: the PRIMARY (R162). -/
def State.routeWrite (s : State) (router a : Nat) (gone : List Nat) : Option RtHolder :=
  match s.routeEntry router a with
  | none => none
  | some e => e.holders.find? (fun h => h.role == .primary && !gone.contains h.holder)

/-- The die of a core (01 R10). -/
def dieOf (core : Nat) : Nat := core / 36

/-- The slice of a core (01 R10). -/
def sliceOf (core : Nat) : Nat := core / 12

/-- The die router of a core's die (R156). -/
def State.dieRouter (s : State) (core : Nat) : Nat := s.localId (dieOf core)

/-- The state a holder has for the prefix that covers an address at its origin router (R172): the longest one. -/
def State.holderState (s : State) (holder a : Nat) : Option HolderSt :=
  (s.holders.filter (fun h => h.holder == holder && prefixCovers h.pre a)).foldl
    (fun b h => match b with
      | none => some h
      | some x => if x.pre.len < h.pre.len then some h else some x) none

/-- An access waits at the primary of its line: while a write there invalidates copies (15 R258), and while an echo of the
primary that handed it the baton is still on its way to it (10 R173, 15 R253). -/
def State.lineWaits (s : State) (holder fa : Nat) : Bool :=
  s.writes.any (fun w => w.phase == .invalidating && lineBase w.addr == lineBase fa) ||
    s.echoes.any (fun e => e.dst == holder && lineBase e.addr == lineBase fa)

end Sys2Proof.Machine
end

