-- ==== Sys2Proof/Machine/Access.lean ====
section
/-! DEFINITION. Reading and writing the registers of the group whose turn it is, and finding groups, contexts and
records (spec 05 R83, R87, R88; 04 R67, R68). -/

namespace Sys2Proof.Machine

/-! ## Parts of the group whose turn it is -/

def State.modCur (s : State) (f : Group → Group) : State := { s with cur := f s.cur }
def State.modRegs (s : State) (f : Regs → Regs) : State := { s with cur := { s.cur with regs := f s.cur.regs } }
def State.modCtl (s : State) (f : Ctl → Ctl) : State := { s with cur := { s.cur with ctl := f s.cur.ctl } }
def State.modTrap (s : State) (f : TrapSt → TrapSt) : State := { s with cur := { s.cur with trap := f s.cur.trap } }
def State.modMat (s : State) (f : MatSt → MatSt) : State := { s with cur := { s.cur with mat := f s.cur.mat } }
def State.modAcc (s : State) (f : AccSt → AccSt) : State := { s with cur := { s.cur with acc := f s.cur.acc } }
def State.modCkpt (s : State) (f : CkptSt → CkptSt) : State := { s with cur := { s.cur with ckpt := f s.cur.ckpt } }

/-- A split of a group by number. -/
def Ctl.split (c : Ctl) (i : Fin 4) : Split := c.splits[i]

/-- A group's control with one split replaced. -/
def Ctl.setSplit (c : Ctl) (i : Fin 4) (sp : Split) : Ctl := { c with splits := c.splits.set i sp }

/-- The split whose word issues. -/
def State.split (s : State) : Split := s.cur.ctl.split s.cur.ctl.iss

/-- Changes the split whose word issues. -/
def State.modSplit (s : State) (f : Split → Split) : State :=
  s.modCtl (fun c => c.setSplit c.iss (f (c.split c.iss)))

/-- The split numbers. -/
def splitNums : List (Fin 4) := List.finRange 4

/-- The live splits of a group. -/
def Ctl.live (c : Ctl) : List (Fin 4) := splitNums.filter (fun i => (c.split i).live)

/-- A split that may run: it is live, its group neither parked nor exited, and no other split runs a handler (R39). -/
def Ctl.runs (c : Ctl) (i : Fin 4) : Bool :=
  (c.split i).live && !c.parked && !c.exited && (match c.handler with | none => true | some h => h == i)

/-- The PC of the issuing split. -/
def State.pc (s : State) : BitVec 48 := s.split.pc

/-- Control goes to an address: a code address is 48 bits (08 R133; log entry 4). -/
def State.setPc (s : State) (a : BitVec 48) : State := s.modSplit (fun sp => { sp with pc := a })

/-- The hints of the bundle whose instruction issues. -/
def State.hints (s : State) : Bundle := s.split.bundle

/-! ## Registers (05 R83, 04 R67) -/

/-- `s`n. -/
def State.sreg (s : State) (n : Nat) : DWord := (s.cur.regs.s[n]?).getD 0

/-- A register that is written is good again (R92); of a vector register, the lanes of a mask. -/
def healed (bad : List (RegRef × Nat)) (r : RegRef) (m : Word) : List (RegRef × Nat) :=
  bad.filter (fun b => !(b.1 == r && m.getLsbD b.2))

/-- Writes `s`n. -/
def State.setSreg (s : State) (n : Nat) (x : DWord) : State :=
  s.modRegs (fun r => { r with s := r.s.setIfInBounds n x, bad := healed r.bad (.s n) 1 })

/-- `k`n; `k0` reads as all ones (R67). -/
def State.kreg (s : State) (n : Nat) : Word := if n = 0 then BitVec.allOnes 32 else (s.cur.regs.k[n]?).getD 0

/-- Writes `k`n; `k0` is no destination (R67). -/
def State.setKreg (s : State) (n : Nat) (x : Word) : State :=
  if n = 0 then s else s.modRegs (fun r => { r with k := r.k.setIfInBounds n x, bad := healed r.bad (.k n) 1 })

/-- `v`n. -/
def State.vreg (s : State) (n : Nat) : VReg := (s.cur.regs.v[n]?).getD (Vector.replicate 32 0)

/-- Lane `l` of `v`n. -/
def State.vlane (s : State) (n : Nat) (l : Lane) : Word := (s.vreg n)[l]

/-- Writes the lanes of a mask of `v`n and marks the register dirty (19 R336). Lanes outside keep their values (R7). -/
def State.setV (s : State) (n : Nat) (m : Word) (f : Lane → Word) : State :=
  let old := s.vreg n
  let new : VReg := Vector.ofFn (fun l => if laneBit m l then f l else old[l])
  let s := s.modRegs (fun r => { r with v := r.v.setIfInBounds n new, bad := healed r.bad (.v n) m })
  s.modCkpt (fun c => { c with vdirty := c.vdirty ||| BitVec.ofNat 128 (2 ^ n) })

/-- Completion flag `f`n. -/
def State.flag (s : State) (n : Nat) : Flag := (s.cur.regs.f[n]?).getD ⟨false, 0⟩

/-- Changes completion flag `f`n. -/
def State.modFlag (s : State) (n : Nat) (f : Flag → Flag) : State :=
  s.modRegs (fun r => { r with f := r.f.setIfInBounds n (f ((r.f[n]?).getD ⟨false, 0⟩)) })

/-- ORs a set of sticky flags into the group's `fpflags` (03 R60). -/
def State.raise (s : State) (fl : FpFlags) : State :=
  s.modRegs (fun r => { r with fpflags := r.fpflags ||| fl.setWidth 32 })

/-- Stochastic state of a lane, and its replacement (03 R59). -/
def State.srState (s : State) (l : Lane) : Word := s.cur.regs.sr[l]

def State.setSr (s : State) (m : Word) (f : Lane → Word) : State :=
  s.modRegs (fun r => { r with sr := Vector.ofFn (fun l => if laneBit m l then f l else r.sr[l]) })

/-! ## Contexts and records -/

/-- The context of a number. -/
def State.ctx? (s : State) (n : Nat) : Option Ctx := s.ctxs.find? (fun c => c.num == n)

/-- The context of the group whose turn it is. -/
def State.myCtx (s : State) : Option Ctx := s.ctx? s.cur.place.ctx

/-- World, VDID and partition of the group's context (05 R88). -/
def State.myWorld (s : State) : Nat := (s.myCtx.map Ctx.world).getD 0
def State.myVdid (s : State) : Nat := (s.myCtx.map Ctx.vdid).getD 0
def State.myPart (s : State) : Nat := (s.myCtx.map Ctx.part).getD 0

/-- A launch record by the model's name for it. -/
def State.rec? (s : State) (n : Nat) : Option LRec := s.recs.find? (fun r => r.id == n)

/-- Changes a launch record. -/
def State.modRec (s : State) (n : Nat) (f : LRec → LRec) : State :=
  { s with recs := s.recs.map (fun r => if r.id == n then f r else r) }

/-- The resident groups. -/
def State.groups (s : State) : List Group :=
  (if s.cur.place.used then [s.cur] else []) ++ s.others

/-- The places that groups occupy: those of the resident groups and of switched-out groups whose storage is not released yet
(20 R355). -/
def State.seated (s : State) : List Place :=
  s.groups.map Group.place ++ (s.out.filter OutGroup.kept).map (fun o => o.group.place)

/-- A resident group by name. -/
def State.group? (s : State) (uid : Nat) : Option Group := s.groups.find? (fun g => g.place.uid == uid)

/-- Changes the resident group of a name. -/
def State.modGroup (s : State) (uid : Nat) (f : Group → Group) : State :=
  if s.cur.place.used && s.cur.place.uid == uid then { s with cur := f s.cur }
  else { s with others := s.others.map (fun g => if g.place.uid == uid then f g else g) }

/-- Changes every resident group. -/
def State.mapGroups (s : State) (f : Group → Group) : State :=
  { s with cur := if s.cur.place.used then f s.cur else s.cur, others := s.others.map f }

/-- The next name of an operation in flight. -/
def State.fresh (s : State) : Nat × State := (s.nextId, { s with nextId := s.nextId + 1 })

/-- Bits [hi:lo] of a launch record (17 R295). -/
def LRec.bits (r : LRec) (hi lo : Nat) : Nat := bitsOf r.raw hi lo

/-- Bytes `off` to `off + n - 1` of a launch record as a number. -/
def LRec.num (r : LRec) (off n : Nat) : Nat := r.raw / 256 ^ off % 256 ^ n

/-! ## Performance counters (20 R362) -/

/-- Adds to a counter of the issuing context. -/
def State.tally (s : State) (ev n : Nat) : State := s.count s.cur.place.ctx ev n

end Sys2Proof.Machine
end

