-- ==== Sys2Proof/Machine/Operands.lean ====
section
/-! DEFINITION. Operand forms: what each field of an encoding may hold (spec 04 R67, R68, R72-R74 and the instruction
chapters), which hints an instruction accepts (R76), its privilege (R3), and the reading of source operands (R97, R112). -/

namespace Sys2Proof.Machine

/-! ## Legal field values (R67) -/

/-- A scalar destination field: 0 to 63. -/
def sd {k : Nat} (x : BitVec k) : Bool := decide (x.toNat < 64)

/-- A scalar source field: a scalar register or a special value, other than `%lane` (R67, R68). -/
def ss {k : Nat} (x : BitVec k) : Bool := decide (x.toNat < 84) && decide (x.toNat ≠ 65)

/-- A broadcast scalar field: `%lane` is allowed (R68). -/
def sb {k : Nat} (x : BitVec k) : Bool := decide (x.toNat < 84)

/-- A vector field below the declared count. -/
def vr {k : Nat} (n : Nat) (x : BitVec k) : Bool := decide (x.toNat < n)

/-- An even field. -/
def even {k : Nat} (x : BitVec k) : Bool := decide (x.toNat % 2 = 0)

/-- A vector register pair. -/
def vp {k : Nat} (n : Nat) (x : BitVec k) : Bool := even x && decide (x.toNat + 1 < n)

/-- A run of `m` vector registers from a multiple of `m` (R111). -/
def vrun {k : Nat} (n m : Nat) (x : BitVec k) : Bool := decide (x.toNat % m = 0) && decide (x.toNat + m ≤ n)

/-- The b operand of a vector function: a scalar field where bs = 1, else a vector field (R74). -/
def vb {k : Nat} (n : Nat) (bs : BitVec 1) (x : BitVec k) : Bool := if bs = 1 then sb x else vr n x

/-- A mask destination: `k1` to `k15`. -/
def kd {k : Nat} (x : BitVec k) : Bool := decide (1 ≤ x.toNat) && decide (x.toNat ≤ 15)

/-- A mask source: `k0` to `k15`. -/
def ks {k : Nat} (x : BitVec k) : Bool := decide (x.toNat ≤ 15)

/-- A completion flag: `f0` to `f11`. -/
def ff {k : Nat} (x : BitVec k) : Bool := decide (x.toNat ≤ 11)

/-- A code up to a largest value. -/
def upTo {k : Nat} (x : BitVec k) (m : Nat) : Bool := decide (x.toNat ≤ m)

/-- The register operand of a vector access: a pair at the 64-bit size code `w`. -/
def vsz {j k : Nat} (n : Nat) (z : BitVec j) (w : Nat) (d : BitVec k) : Bool :=
  if z.toNat = w then vp n d else vr n d

/-- The destination of a gather does not name the index register (R250). -/
def apart {j k m : Nat} (z : BitVec j) (w : Nat) (d : BitVec k) (i : BitVec m) : Bool :=
  decide (i.toNat ≠ d.toNat) && (decide (z.toNat ≠ w) || decide (i.toNat ≠ d.toNat + 1))

/-- The formats of `vcvt` (R72, R111): codes up to 10, different, pairs for the 64-bit ones. -/
def cvtOk {k : Nat} (n : Nat) (t : BitVec 4) (s : BitVec 7) (d a : BitVec k) : Bool :=
  upTo t 10 && upTo s 10 && decide (t.toNat ≠ s.toNat) &&
    (if 9 ≤ t.toNat then vp n d else vr n d) && (if 9 ≤ s.toNat then vp n a else vr n a)

/-- Whether an atomic operation has a size (R241). -/
def atomSize (p z : Nat) : Bool :=
  decide (p ≤ 16) && decide (z ≠ 3) && (decide (z ≠ 2) || decide (p = 9)) && (decide (p < 10) || decide (z = 0))

/-- A scalar atomic (R240, R250). -/
def atomSOk (p : BitVec 6) (z : BitVec 2) (d b : BitVec 6) : Bool :=
  atomSize p.toNat z.toNat &&
    (if p.toNat = 9 then (if z.toNat = 2 then decide (b.toNat % 4 = 0) else even b) else true) &&
    (if z.toNat = 2 then even d else true)

/-- A vector atomic: operand registers in range, 64-bit ones in pairs, and with `ret` none of them an address
register (R240, R250). -/
def atomVOk (n : Nat) (p : BitVec 6) (z : BitVec 2) (r : BitVec 1) (a b : BitVec 7) : Bool :=
  let c := decide (p.toNat = 9)
  let w := decide (z.toNat = 1)
  let len := (if c then 2 else 1) * (if w then 2 else 1)
  atomSize p.toNat z.toNat && decide (z.toNat < 2) && decide (b.toNat + len ≤ n) &&
    (if w then (if c then decide (b.toNat % 4 = 0) else even b) else true) &&
    (if r = 1 then decide (a.toNat + 1 < b.toNat ∨ b.toNat + len ≤ a.toNat) else true)

/-- The operand of `red`: two registers for the 64-bit tag 1; an odd one is no illegal field but OBJ_MISMATCH (R187). -/
def redBOk (n : Nat) (t : BitVec 4) (b : BitVec 7) : Bool := vr n b && (t.toNat != 1 || decide (b.toNat + 1 < n))

/-! ## Hints (R76) -/

/-- LIT and LITH; LIT alone (R77, R249). -/
def hLit : Nat := 257
def hLit1 : Nat := 1
def hMsk : Nat := 2
def hRnd : Nat := 4
def hRet : Nat := 8
/-- SCP with the orders relaxed and acquire; relaxed and release; relaxed alone; all four (14 R238). -/
def hAcq : Nat := 16
def hRel : Nat := 32
def hRlx : Nat := 64
def hAll : Nat := 128

/-- The order codes of an SCP hint that a set of hints allows: none where it does not accept the hint. -/
def ordersOf (h : Nat) : Option (List Nat) :=
  match h / 16 % 16 with
  | 1 => some [0, 1]
  | 2 => some [0, 2]
  | 4 => some [0]
  | 8 => some [0, 1, 2, 3]
  | _ => none

/-- Whether a bundle's hints are all accepted (check 4 of R81): the kinds, and LITH only with a LIT. -/
def hintsOk (h : Nat) (b : Bundle) : Bool :=
  (b.lit.isNone || decide (h % 2 = 1)) && (b.lith.isNone || (decide (h / 256 % 2 = 1) && b.lit.isSome)) &&
    (b.msk.isNone || decide (h / 2 % 2 = 1)) && (b.rnd.isNone || decide (h / 4 % 2 = 1)) &&
    (b.ret.isNone || decide (h / 8 % 2 = 1)) &&
    (match b.scp with
      | none => true
      | some c => match ordersOf h with
        | none => false
        | some os => os.contains (c.toNat % 4))

/-! ## Source operands -/

/-- Extent of a level of a group's launch (R26). -/
def levelExtent (r : LRec) (i : Nat) : Nat := r.bits (64 * i + 575) (64 * i + 544)

/-- `valid` of a level. -/
def levelValid (r : LRec) (i : Nat) : Bool := decide (r.bits (64 * i + 512) (64 * i + 512) = 1)

/-- The number of levels of a launch. -/
def levelCount (r : LRec) : Nat := ((List.range 8).filter (levelValid r)).length

/-- Units of level 0 in one unit of level `i`: the product of the extents of levels 1 to `i`. -/
def levelSpan (r : LRec) (i : Nat) : Nat :=
  (List.range i).foldl (fun p j => p * levelExtent r (j + 1)) 1

/-- `%lvlN` (R30). -/
def State.lvl (s : State) (i : Nat) : Nat :=
  if i = 0 then s.cur.place.flat
  else match s.rec? s.cur.place.launch with
    | none => 0
    | some r => if i < levelCount r then s.cur.place.flat / levelSpan r (i - 1) % levelExtent r i else 0

/-- A special value by its code 64 to 83 (R68, R88); `%lane` is read per lane. -/
def State.special (s : State) (n : Nat) : DWord :=
  BitVec.ofNat 64 (match n with
    | 66 => 32 * s.cur.place.core + s.cur.place.slot
    | 67 => s.cur.ctl.iss.val
    | 68 => s.lvl 0
    | 69 => s.lvl 1
    | 70 => s.lvl 2
    | 71 => s.lvl 3
    | 72 => s.lvl 4
    | 73 => s.lvl 5
    | 74 => s.lvl 6
    | 75 => s.lvl 7
    | 76 => s.cur.place.core
    | 77 => sliceOf s.cur.place.core
    | 78 => dieOf s.cur.place.core
    | 79 => s.pkgNum
    | 80 => s.pace
    | 81 => s.myWorld
    | 82 => s.myVdid
    | 83 => s.cur.trap.pl
    | _ => 0)

/-- `S(n)`: a scalar source field (R97). -/
def State.src (s : State) (n : Nat) : DWord := if n < 64 then s.sreg n else s.special n

/-- `S(n)` in a lane, where `%lane` gives the lane number (R68). -/
def State.srcLane (s : State) (n : Nat) (l : Lane) : DWord :=
  if n = 65 then BitVec.ofNat 64 l.val else s.src n

/-- The b operand of a vector function in a lane (R97, R112). -/
def State.vecB (s : State) (b : BitVec 7) (bs : BitVec 1) (l : Lane) : Word :=
  if bs = 1 then lo32 (s.srcLane b.toNat l) else s.vlane b.toNat l

/-- `exec`: the split's mask and the mask of an MSK hint (R7, R77); for a bundle issued again after a park, its
unfinished lanes only (14 R237). -/
def State.exec (s : State) : Word :=
  let m := match s.hints.msk with
    | none => s.split.mask
    | some k => s.split.mask &&& s.kreg k.toNat
  let at' := if s.hints.active then s.hints.start else s.pc
  match s.cur.ctl.unfinished.find? (fun u => u.1 == s.cur.ctl.iss && u.2.1 == at') with
  | none => m
  | some u => m &&& u.2.2

/-- An immediate widened by LIT and LITH (R77). -/
def widen (b : Bundle) (n : Nat) (field : Nat) : DWord :=
  match b.lit, b.lith with
  | some l, some h => BitVec.ofInt 64 (sextInt (n + 44) (h.toNat * 2 ^ (n + 22) + l.toNat * 2 ^ n + field))
  | some l, none => BitVec.ofInt 64 (sextInt (n + 22) (l.toNat * 2 ^ n + field))
  | _, _ => BitVec.ofInt 64 (sextInt n field)

/-- The immediate of an RI form (R69, R104). -/
def State.imm9 (s : State) (i : BitVec 9) : DWord := widen s.hints 9 i.toNat

/-- The RND settings of the bundle (R55, R57, R58, R77). -/
def State.rnd (s : State) : Rnd :=
  match s.hints.rnd with
  | none => Rnd.default
  | some p =>
    ⟨(RMode.ofCode (p.toNat % 8)).getD .rne, decide (p.toNat / 8 % 2 = 1), (SatSel.ofCode (p.toNat / 16 % 4)).getD .dflt⟩

/-- The retention class: the ret field, or a RET hint (R77, 14 R234). -/
def State.retOf (s : State) (r : BitVec 2) : Nat := (s.hints.ret.getD r).toNat

/-- Order and scope of an SCP hint (R77); relaxed without one. -/
def State.scp (s : State) : Scp :=
  match s.hints.scp with
  | none => ⟨false, false, 0⟩
  | some c => ⟨decide (c.toNat % 2 = 1), decide (c.toNat / 2 % 2 = 1), c.toNat / 4⟩

/-! ## Levels of the system registers (R4, R89 and the registers' own field maps) -/

/-- The numbers 0x200 to 0x23F name ring registers but for every fourth, which is unassigned (17 R304). -/
def ringNum (n : Nat) : Bool := decide (0x200 ≤ n) && decide (n ≤ 0x23F) && decide (n % 4 ≠ 3)

/-- The level at which a system register is read; none where no chapter assigns its number. -/
def regRead? (n : Nat) : Option Nat :=
  if n = 0x000 ∨ n = 0x010 ∨ n = 0x300 then some 0
  else if 0x080 ≤ n ∧ n ≤ 0x08C then some 2
  else if n = 0x100 then some 1
  else if n = 0x101 ∨ n = 0x110 ∨ (0x140 ≤ n ∧ n ≤ 0x17F) then some 2
  else if n = 0x180 ∨ (0x1C0 ≤ n ∧ n ≤ 0x1FF) then some 1
  else if ringNum n then some 2
  else if (0x240 ≤ n ∧ n ≤ 0x27F) ∨ (0x280 ≤ n ∧ n ≤ 0x28B) then some 2
  else if n = 0x290 ∨ n = 0x2A0 ∨ n = 0x2A8 ∨ n = 0x2AA then some 1
  else if n = 0x2A9 ∨ n = 0x2AB ∨ n = 0x2AF then some 2
  else if (0x2B0 ≤ n ∧ n ≤ 0x2B4) ∨ n = 0x2B6 ∨ n = 0x2B7 ∨ n = 0x2B8 ∨ n = 0x2BA then some 1
  else if n = 0x2B9 ∨ n = 0x2BC ∨ n = 0x2BD ∨ (0x2C0 ≤ n ∧ n ≤ 0x2FF) then some 2
  else if n = 0x301 ∨ n = 0x302 ∨ n = 0x400 ∨ n = 0x401 ∨ n = 0x403 then some 1
  else if n = 0x402 then some 2
  else if (0x410 ≤ n ∧ n ≤ 0x42F) ∨ (0x440 ≤ n ∧ n ≤ 0x447) then some 1
  else none

/-- The level at which a system register is written; 3, above every level, where it has no write level. -/
def regWrite? (n : Nat) : Option Nat :=
  match regRead? n with
  | none => none
  | some r =>
    if n = 0x08C ∨ n = 0x302 ∨ n = 0x401 ∨ n = 0x403 ∨ 0x410 ≤ n then some 3
    else if n = 0x2B0 ∨ n = 0x2B2 ∨ n = 0x2B3 ∨ n = 0x2B4 then some 3
    else if n = 0x180 ∨ (0x1C0 ≤ n ∧ n ≤ 0x1FF) ∨ n = 0x2A0 ∨ n = 0x2AA ∨ n = 0x400 then some 2
    else if n = 0x300 then some 1
    else some r

/-- The level of `sysrd` and of `syswr` (R4); an unassigned number is no matter of privilege (R89). -/
def regReadLevel (n : BitVec 12) : Nat := (regRead? n.toNat).getD 0
def regWriteLevel (n : BitVec 12) : Nat := (regWrite? n.toNat).getD 0

/-- `tinv` at PL1 names its own VDID and stage 1 only (09 R154). -/
def tinvLevel (c : BitVec 6) (t : BitVec 2) : Nat := if c = 0 ∧ t = 0 then 1 else 2

/-! ## The tables -/

/-! ## Registers read (05 R92) -/

/-- `n` scalars from a source field; a special value is no register. -/
def rdS {k : Nat} (x : BitVec k) (n : Nat) : List (RegRef × Bool) :=
  if x.toNat < 64 then (List.range n).map (fun i => (RegRef.s (x.toNat + i), false)) else []

/-- `n` vector registers. -/
def rdV {k : Nat} (x : BitVec k) (n : Nat) : List (RegRef × Bool) := (List.range n).map (fun i => (RegRef.v (x.toNat + i), false))

/-- A vector register read across lanes. -/
def rdAll {k : Nat} (x : BitVec k) : List (RegRef × Bool) := [(RegRef.v x.toNat, true)]

/-- The b operand of a vector function. -/
def rdB {k : Nat} (bs : BitVec 1) (x : BitVec k) : List (RegRef × Bool) := if bs = 1 then rdS x 1 else rdV x 1

/-- A mask. -/
def rdK {k : Nat} (x : BitVec k) : List (RegRef × Bool) := [(RegRef.k x.toNat, false)]


set_option maxHeartbeats 4000000 in
/-- Whether every operand field of an instruction holds a value that is legal for it, in a group of `nv` vector registers
(check 4 of R81 for the fields: R67, R72-R74, R96, R111, R131, R250 and the instruction's own chapter). -/
def fieldsOk (nv : Nat) : Instr → Bool
  | .sadd d a b _ => sd d && ss a && ss b
  | .ssub d a b _ => sd d && ss a && ss b
  | .smullo d a b _ => sd d && ss a && ss b
  | .smulhiS d a b _ => sd d && ss a && ss b
  | .smulhiU d a b _ => sd d && ss a && ss b
  | .smad d a b _ => sd d && ss a && ss b
  | .sminS d a b _ => sd d && ss a && ss b
  | .sminU d a b _ => sd d && ss a && ss b
  | .smaxS d a b _ => sd d && ss a && ss b
  | .smaxU d a b _ => sd d && ss a && ss b
  | .saddsS d a b _ => sd d && ss a && ss b
  | .saddsU d a b _ => sd d && ss a && ss b
  | .saddc d a b _ => sd d && even d && ss a && ss b
  | .ssubb d a b _ => sd d && even d && ss a && ss b
  | .sabs d a _ => sd d && ss a
  | .sneg d a _ => sd d && ss a
  | .sand d a b _ => sd d && ss a && ss b
  | .sor d a b _ => sd d && ss a && ss b
  | .sxor d a b _ => sd d && ss a && ss b
  | .sandn d a b _ => sd d && ss a && ss b
  | .snot d a _ => sd d && ss a
  | .sshl d a b _ => sd d && ss a && ss b
  | .sshr d a b _ => sd d && ss a && ss b
  | .ssar d a b _ => sd d && ss a && ss b
  | .srot d a b _ => sd d && ss a && ss b
  | .sclz d a _ => sd d && ss a
  | .spop d a _ => sd d && ss a
  | .sbrev d a _ => sd d && ss a
  | .sbfeU d a b _ => sd d && ss a && ss b
  | .sbfeS d a b _ => sd d && ss a && ss b
  | .sbfi d a b _ => sd d && ss a && ss b
  | .sunpack d a _ => sd d && ss a
  | .scmp _ d a b _ => sd d && ss a && ss b
  | .smov d a _ => sd d && ss a
  | .sext8S d a _ => sd d && ss a
  | .sext8U d a _ => sd d && ss a
  | .sext16S d a _ => sd d && ss a
  | .sext16U d a _ => sd d && ss a
  | .slea d a b => sd d && ss a && ss b
  | .ssel d a b _ => sd d && ss a && ss b
  | .spack d a b _ => sd d && ss a && ss b
  | .saddImm d a _ => sd d && ss a
  | .sandImm d a _ => sd d && ss a
  | .sorImm d a _ => sd d && ss a
  | .sxorImm d a _ => sd d && ss a
  | .sshlImm d a _ => sd d && ss a
  | .sshrImm d a _ => sd d && ss a
  | .ssarImm d a _ => sd d && ss a
  | .smovi d _ => sd d
  | .sdivS f d a b => ff f && sd d && ss a && ss b
  | .sdivU f d a b => ff f && sd d && ss a && ss b
  | .sremS f d a b => ff f && sd d && ss a && ss b
  | .sremU f d a b => ff f && sd d && ss a && ss b
  | .vadd d a b s => vr nv d && vr nv a && vb nv s b
  | .vsub d a b s => vr nv d && vr nv a && vb nv s b
  | .vmullo d a b s => vr nv d && vr nv a && vb nv s b
  | .vmulhiS d a b s => vr nv d && vr nv a && vb nv s b
  | .vmulhiU d a b s => vr nv d && vr nv a && vb nv s b
  | .vmad d a b s => vr nv d && vr nv a && vb nv s b
  | .vminS d a b s => vr nv d && vr nv a && vb nv s b
  | .vminU d a b s => vr nv d && vr nv a && vb nv s b
  | .vmaxS d a b s => vr nv d && vr nv a && vb nv s b
  | .vmaxU d a b s => vr nv d && vr nv a && vb nv s b
  | .vaddsS d a b s => vr nv d && vr nv a && vb nv s b
  | .vaddsU d a b s => vr nv d && vr nv a && vb nv s b
  | .vabs d b s => vr nv d && vb nv s b
  | .vneg d b s => vr nv d && vb nv s b
  | .vsel d a b s => vr nv d && vr nv a && vb nv s b
  | .vmov d b s => vr nv d && vb nv s b
  | .vand d a b s => vr nv d && vr nv a && vb nv s b
  | .vor d a b s => vr nv d && vr nv a && vb nv s b
  | .vxor d a b s => vr nv d && vr nv a && vb nv s b
  | .vandn d a b s => vr nv d && vr nv a && vb nv s b
  | .vnot d b s => vr nv d && vb nv s b
  | .vshl d a b s => vr nv d && vr nv a && vb nv s b
  | .vshr d a b s => vr nv d && vr nv a && vb nv s b
  | .vsar d a b s => vr nv d && vr nv a && vb nv s b
  | .vrot d a b s => vr nv d && vr nv a && vb nv s b
  | .vclz d b s => vr nv d && vb nv s b
  | .vpop d b s => vr nv d && vb nv s b
  | .vbrev d b s => vr nv d && vb nv s b
  | .vbfeU d a b s => vr nv d && vr nv a && vb nv s b
  | .vbfeS d a b s => vr nv d && vr nv a && vb nv s b
  | .vbfi d a b s => vr nv d && vr nv a && vb nv s b
  | .vlea d a b s => vp nv d && sb a && vb nv s b
  | .vcmp _ d a b s => kd d && vr nv a && vb nv s b
  | .vext8S d b s => vr nv d && vb nv s b
  | .vext8U d b s => vr nv d && vb nv s b
  | .vext16S d b s => vr nv d && vb nv s b
  | .vext16U d b s => vr nv d && vb nv s b
  | .vpack d a b s => vr nv d && vr nv a && vb nv s b
  | .vunpack d b s => vr nv d && vb nv s b
  | .vaddImm d a _ => vr nv d && vr nv a
  | .vandImm d a _ => vr nv d && vr nv a
  | .vorImm d a _ => vr nv d && vr nv a
  | .vxorImm d a _ => vr nv d && vr nv a
  | .vshlImm d a _ => vr nv d && vr nv a
  | .vshrImm d a _ => vr nv d && vr nv a
  | .vsarImm d a _ => vr nv d && vr nv a
  | .vmovi d _ => vr nv d
  | .vdivS f d a b => ff f && vr nv d && vr nv a && vr nv b
  | .vdivU f d a b => ff f && vr nv d && vr nv a && vr nv b
  | .vremS f d a b => ff f && vr nv d && vr nv a && vr nv b
  | .vremU f d a b => ff f && vr nv d && vr nv a && vr nv b
  | .vfadd d a b s => vr nv d && vr nv a && vb nv s b
  | .vfsub d a b s => vr nv d && vr nv a && vb nv s b
  | .vfmul d a b s => vr nv d && vr nv a && vb nv s b
  | .vfma d a b s => vr nv d && vr nv a && vb nv s b
  | .vfms d a b s => vr nv d && vr nv a && vb nv s b
  | .vfnma d a b s => vr nv d && vr nv a && vb nv s b
  | .vfminNum d a b s => vr nv d && vr nv a && vb nv s b
  | .vfminProp d a b s => vr nv d && vr nv a && vb nv s b
  | .vfmaxNum d a b s => vr nv d && vr nv a && vb nv s b
  | .vfmaxProp d a b s => vr nv d && vr nv a && vb nv s b
  | .vfabs d b s => vr nv d && vb nv s b
  | .vfneg d b s => vr nv d && vb nv s b
  | .vfscale d a b s => vr nv d && vr nv a && vb nv s b
  | .vfround d b s => vr nv d && vb nv s b
  | .vfclass d b s => vr nv d && vb nv s b
  | .vfcmp _ d a b s => kd d && vr nv a && vb nv s b
  | .vcvt t d a s => cvtOk nv t s d a
  | .vpkE4m3 d a b s => vr nv d && vrun nv 4 a && vb nv s b
  | .vpkE5m2 d a b s => vr nv d && vrun nv 4 a && vb nv s b
  | .vpkIo4 d a b s => vr nv d && vrun nv 8 a && vb nv s b
  | .vunpkE4m3 d a b s => vrun nv 4 d && vr nv a && vb nv s b
  | .vunpkE5m2 d a b s => vrun nv 4 d && vr nv a && vb nv s b
  | .vunpkIo4 d a b s => vrun nv 8 d && vr nv a && vb nv s b
  | .vhaddF16 d a b s => vr nv d && vr nv a && vb nv s b
  | .vhaddBf16 d a b s => vr nv d && vr nv a && vb nv s b
  | .vhmulF16 d a b s => vr nv d && vr nv a && vb nv s b
  | .vhmulBf16 d a b s => vr nv d && vr nv a && vb nv s b
  | .vhfmaF16 d a b s => vr nv d && vr nv a && vb nv s b
  | .vhfmaBf16 d a b s => vr nv d && vr nv a && vb nv s b
  | .vfrcp f d a => ff f && vr nv d && vr nv a
  | .vfrsq f d a => ff f && vr nv d && vr nv a
  | .vfsqrt f d a => ff f && vr nv d && vr nv a
  | .vfexp2 f d a => ff f && vr nv d && vr nv a
  | .vflog2 f d a => ff f && vr nv d && vr nv a
  | .vfsin f d a => ff f && vr nv d && vr nv a
  | .vfcos f d a => ff f && vr nv d && vr nv a
  | .vfdot2Bf16 f d a b => ff f && vr nv d && vr nv a && vr nv b
  | .vfdot4Fp8 f d a b => ff f && vr nv d && vr nv a && vr nv b
  | .vshuf f d a b => ff f && vr nv d && vr nv a && vr nv b
  | .vlrot f d a b => ff f && vr nv d && vr nv a && ss b
  | .vscan f d a o => ff f && vr nv d && vr nv a && upTo o 8
  | .vscanExcl f d a o => ff f && vr nv d && vr nv a && upTo o 8
  | .vred f d a o => ff f && sd d && vr nv a && upTo o 8
  | .vbcast f d a b => ff f && vr nv d && vr nv a && ss b
  | .kand d a b => kd d && ks a && ks b
  | .kor d a b => kd d && ks a && ks b
  | .kxor d a b => kd d && ks a && ks b
  | .knot d a => kd d && ks a
  | .kmov d a => kd d && ks a
  | .kpop d a => sd d && ks a
  | .kfirst d a => sd d && ks a
  | .vballot d b => sd d && vr nv b
  | .vrngRd d => vr nv d
  | .vrngSeed d b s => vr nv d && vb nv s b
  | .vrngStep d => vr nv d
  | .brZ _ _ => true
  | .brNz _ _ => true
  | .brLt _ _ => true
  | .brGe _ _ => true
  | .call _ _ => true
  | .jmp _ => true
  | .brkAny _ _ => true
  | .brkNone _ _ => true
  | .brd _ _ => true
  | .mark _ => true
  | .ret _ => true
  | .jmpReg _ => true
  | .callReg _ _ => true
  | .sld z d _ _ _ => upTo z 6 && sd d
  | .sst _ d _ _ _ => ss d
  | .vld z d _ _ _ => upTo z 5 && vsz nv z 5 d
  | .vst z d _ _ _ => vsz nv z 3 d
  | .vldg z d _ i _ => upTo z 5 && vsz nv z 5 d && vr nv i && apart z 5 d i
  | .vsts z d _ i _ => vsz nv z 3 d && vr nv i
  | .spld z d _ _ f => upTo z 5 && vsz nv z 5 d && ff f
  | .spst z d _ _ => vsz nv z 3 d
  | .cld _ d _ _ _ => sd d
  | .atomScalar p d _ b z => atomSOk p z d b
  | .atomVector p a b z r => vp nv a && atomVOk nv p z r a b
  | .red a b t => vp nv a && upTo t 12 && redBOk nv t b
  | .redClose _ _ => true
  | .fenceRel s => upTo s 5
  | .fenceAr s => upTo s 5
  | .cp _ _ _ _ _ => true
  | .cpFill _ _ _ => true
  | .cpT _ _ c => even c
  | .stMc a _ _ => even a
  | .pf _ l _ => upTo l 2
  | .zclaim _ _ => true
  | .zrel _ => true
  | .zzero _ => true
  | .oclaim _ _ => true
  | .orel _ => true
  | .oload _ _ _ => true
  | .mmul z _ _ => upTo z 11
  | .mloop z _ _ _ => upTo z 11
  | .mdrain z _ _ _ => upTo z 11
  | .mfence _ => true
  | .mwait _ => true
  | .mstat _ => true
  | .tinv _ _ _ t => upTo t 2
  | .tprobe _ _ _ => true
  | .rteAnn _ _ _ => true
  | .rteWd _ _ _ => true
  | .rteRole _ _ _ => true
  | .rteQ _ _ m => upTo m 2
  | .rteSync s _ => decide (3 ≤ s.toNat) && upTo s 5
  | .cobjDecl _ _ _ => true
  | .cobjDrop _ _ => true
  | .cobjSync d _ => upTo d 62
  | .cobjSyncShared d _ => upTo d 62
  | .cobjReclaim _ _ => true
  | .tdtSet _ _ _ => true
  | .tdtGet _ _ _ => true
  | .tdtDrop _ => true
  | .treeSet _ a _ => even a
  | .launch _ _ => true
  | .wlPush _ b _ => vp nv b
  | .wlPop d _ _ _ => vp nv d
  | .wlDone _ => true
  | .tierRec _ _ _ => true
  | .tierHintUp _ _ _ => true
  | .tierHintDown _ _ _ => true
  | .tierQ _ _ => true
  | .waitc _ _ _ => true
  | .waitF _ => true
  | .bar l _ => decide (l.toNat ≠ 0)
  | .pcrd _ e => upTo e 15
  | .trap _ => true
  | .rcp _ => true
  | .sysrd _ _ => true
  | .syswr b _ => ss b
  | .halt _ _ => true
  | .hintLit _ => true
  | .hintLith _ => true
  | .hintDly _ => true
  | .hintFlg _ => true
  | .hintRnd _ _ _ => true
  | .hintScp _ _ => true
  | .hintNop _ _ => true
  | .nop => true
  | .join => true
  | .exit => true
  | .mresume => true
  | .mresumeAbandon => true
  | .tret => true
  | .yield => true
  | .fenceAcq0 => true
  | .fenceAcq1 => true
  | .fenceAcq2 => true
  | .fenceAcq3 => true
  | .fenceAcq4 => true
  | .fenceAcq5 => true
  | .fenceAcq6 => false
  | .fenceAcq7 => false
  | .fenceAcq8 => false
  | .fenceAcq9 => false
  | .fenceAcq10 => false
  | .fenceAcq11 => false
  | .fenceAcq12 => false
  | .fenceAcq13 => false
  | .fenceAcq14 => false
  | .fenceAcq15 => false
  | .hintMsk0 => true
  | .hintMsk1 => true
  | .hintMsk2 => true
  | .hintMsk3 => true
  | .hintMsk4 => true
  | .hintMsk5 => true
  | .hintMsk6 => true
  | .hintMsk7 => true
  | .hintMsk8 => true
  | .hintMsk9 => true
  | .hintMsk10 => true
  | .hintMsk11 => true
  | .hintMsk12 => true
  | .hintMsk13 => true
  | .hintMsk14 => true
  | .hintMsk15 => true
  | .hintRet0 => true
  | .hintRet1 => true
  | .hintRet2 => true
  | .hintRet3 => true
  | .groupTurn => true
  | .multiTurnComplete _ _ => true
  | .blockClearComplete _ => true
  | .groupRelease _ => true
  | .stallTimeout _ _ => true
  | .hurdlePass _ => true
  | .groupPlacement _ _ => true
  | .gangAgeExpire _ => true
  | .recordDone _ => true
  | .completionStore _ => true
  | .translationWalk _ _ _ _ => true
  | .tinvComplete _ => true
  | .storeBufferDrain _ => true
  | .writeApply _ => true
  | .writeReadable _ => true
  | .applyNotice _ => true
  | .echoReceive _ => true
  | .fillWrite _ => true
  | .echoAckReceive _ => true
  | .echoDeadline _ => true
  | .leaseRenewal _ => true
  | .renewalReceive _ => true
  | .leaseEnd _ _ => true
  | .readRequest _ => true
  | .refusalReroute _ => true
  | .loadComplete _ => true
  | .storeResponse _ => true
  | .invalidate _ => true
  | .relayReceive _ _ => true
  | .relayRefusal _ _ _ => true
  | .routerAnswer _ _ => true
  | .rteSyncDone _ _ => true
  | .holderAbsent _ _ => true
  | .cobjDirectoryRequest _ _ => true
  | .partialFold _ _ _ => true
  | .mergeChildArrive _ _ => true
  | .mergeNodeTimeout _ _ _ => true
  | .snoopRetry _ => true
  | .snoopTimeout _ => true
  | .multicastForward _ _ => true
  | .auditIntervalEnd _ _ => true
  | .copyStart _ => true
  | .copyComplete _ => true
  | .copyFault _ => true
  | .matrixCommandComplete _ => true
  | .matrixCommandFault _ => true
  | .ringKick _ => true
  | .ringReadSlot _ => true
  | .ringRetry _ => true
  | .contextSwitchOut _ => true
  | .tierMoveStart => true
  | .tierAnnounceAnswer _ _ => true
  | .tierFillDone _ => true
  | .tierHandoverAnswer _ _ => true
  | .tierMoveEnd _ => true
  | .tierFaultOffer _ => true
  | .announcementRequest _ _ _ _ => true
  | .announcementTimeout _ => true
  | .faultRecordOffer _ => true
  | .longParkSwitchout _ _ => true
  | .sliceEnd _ => true
  | .graceEnd _ => true
  | .deadlineExpire _ => true
  | .resetComplete _ => true
  | .contextResident _ => true
  | .flitReceive _ _ _ => true
  | .laneSpare _ _ => true
  | .linkFail _ _ => true
  | .linkUp _ _ _ => true
  | .sessionRekey _ _ => true
  | .hostSnoop _ _ => true
  | .hostMemRequest _ => true
  | .powerOn _ _ => true
  | .attest _ => true
  | .worldCreate _ => true
  | .worldGrant _ => true
  | .worldRevoke _ => true
  | .worldDestroy _ => true
  | .partSet _ => true
  | .ctxCreate _ => true
  | .ctxDestroy _ => true
  | .ctxPreempt _ => true
  | .ringSet _ => true
  | .ringKey _ => true
  | .powerCompare _ _ _ _ => true
  | .trayRemoveRequest => true
  | .trayCancel => true
  | .trayQuiesce => true
  | .trayPowerOff => true
  | .trayInsert => true
  | .wearUpdate _ _ _ _ => true
  | .partDescWrite _ _ => true
  | .tqWrite _ _ => true
  | .rteCostWrite _ => true
  | .cobjQWrite _ _ => true
  | .wlCfgWrite _ _ _ => true
  | .wlReset _ _ => true
  | .ringBaseWrite _ _ => true
  | .ringCtlWrite _ _ => true
  | .ringEnable _ _ => true
  | .ringDisable _ => true
  | .tierCfgWrite _ => true
  | .fqDone _ _ _ _ => true
  | .erqLostClear => true
  | .wdogWrite _ _ => true
  | .pcclr _ _ => true
  | .pwrCapWrite _ => true
  | .sysregWrite _ _ => true
  | .illegalOpcode _ => true
  | .softError _ _ => true
  | .dramLineAltered _ _ _ _ => true
  | .snoopReceive _ => true
  | .snoopAnswer _ => true
  | .itemClearComplete _ _ _ => true
  | .tierFillRead _ => true
  | .mailboxBadCmd _ => true

set_option maxHeartbeats 4000000 in
/-- The hint kinds an instruction accepts beside DLY and FLG (R76 and the instruction's own chapter). LITH is none of them where the
chapter lists LIT alone, as for the `cobj` instructions: the model's choice (log entry 51). -/
def hintsOf : Instr → Nat
  | .sadd _ _ _ _ => 0
  | .ssub _ _ _ _ => 0
  | .smullo _ _ _ _ => 0
  | .smulhiS _ _ _ _ => 0
  | .smulhiU _ _ _ _ => 0
  | .smad _ _ _ _ => 0
  | .sminS _ _ _ _ => 0
  | .sminU _ _ _ _ => 0
  | .smaxS _ _ _ _ => 0
  | .smaxU _ _ _ _ => 0
  | .saddsS _ _ _ _ => 0
  | .saddsU _ _ _ _ => 0
  | .saddc _ _ _ _ => 0
  | .ssubb _ _ _ _ => 0
  | .sabs _ _ _ => 0
  | .sneg _ _ _ => 0
  | .sand _ _ _ _ => 0
  | .sor _ _ _ _ => 0
  | .sxor _ _ _ _ => 0
  | .sandn _ _ _ _ => 0
  | .snot _ _ _ => 0
  | .sshl _ _ _ _ => 0
  | .sshr _ _ _ _ => 0
  | .ssar _ _ _ _ => 0
  | .srot _ _ _ _ => 0
  | .sclz _ _ _ => 0
  | .spop _ _ _ => 0
  | .sbrev _ _ _ => 0
  | .sbfeU _ _ _ _ => 0
  | .sbfeS _ _ _ _ => 0
  | .sbfi _ _ _ _ => 0
  | .sunpack _ _ _ => 0
  | .scmp _ _ _ _ _ => 0
  | .smov _ _ _ => 0
  | .sext8S _ _ _ => 0
  | .sext8U _ _ _ => 0
  | .sext16S _ _ _ => 0
  | .sext16U _ _ _ => 0
  | .slea _ _ _ => 0
  | .ssel _ _ _ _ => 0
  | .spack _ _ _ _ => 0
  | .saddImm _ _ _ => hLit
  | .sandImm _ _ _ => hLit
  | .sorImm _ _ _ => hLit
  | .sxorImm _ _ _ => hLit
  | .sshlImm _ _ _ => hLit
  | .sshrImm _ _ _ => hLit
  | .ssarImm _ _ _ => hLit
  | .smovi _ _ => hLit
  | .sdivS _ _ _ _ => 0
  | .sdivU _ _ _ _ => 0
  | .sremS _ _ _ _ => 0
  | .sremU _ _ _ _ => 0
  | .vadd _ _ _ _ => hMsk
  | .vsub _ _ _ _ => hMsk
  | .vmullo _ _ _ _ => hMsk
  | .vmulhiS _ _ _ _ => hMsk
  | .vmulhiU _ _ _ _ => hMsk
  | .vmad _ _ _ _ => hMsk
  | .vminS _ _ _ _ => hMsk
  | .vminU _ _ _ _ => hMsk
  | .vmaxS _ _ _ _ => hMsk
  | .vmaxU _ _ _ _ => hMsk
  | .vaddsS _ _ _ _ => hMsk
  | .vaddsU _ _ _ _ => hMsk
  | .vabs _ _ _ => hMsk
  | .vneg _ _ _ => hMsk
  | .vsel _ _ _ _ => hMsk
  | .vmov _ _ _ => hMsk
  | .vand _ _ _ _ => hMsk
  | .vor _ _ _ _ => hMsk
  | .vxor _ _ _ _ => hMsk
  | .vandn _ _ _ _ => hMsk
  | .vnot _ _ _ => hMsk
  | .vshl _ _ _ _ => hMsk
  | .vshr _ _ _ _ => hMsk
  | .vsar _ _ _ _ => hMsk
  | .vrot _ _ _ _ => hMsk
  | .vclz _ _ _ => hMsk
  | .vpop _ _ _ => hMsk
  | .vbrev _ _ _ => hMsk
  | .vbfeU _ _ _ _ => hMsk
  | .vbfeS _ _ _ _ => hMsk
  | .vbfi _ _ _ _ => hMsk
  | .vlea _ _ _ _ => hMsk
  | .vcmp _ _ _ _ _ => hMsk
  | .vext8S _ _ _ => hMsk
  | .vext8U _ _ _ => hMsk
  | .vext16S _ _ _ => hMsk
  | .vext16U _ _ _ => hMsk
  | .vpack _ _ _ _ => hMsk
  | .vunpack _ _ _ => hMsk
  | .vaddImm _ _ _ => hMsk + hLit
  | .vandImm _ _ _ => hMsk + hLit
  | .vorImm _ _ _ => hMsk + hLit
  | .vxorImm _ _ _ => hMsk + hLit
  | .vshlImm _ _ _ => hMsk + hLit
  | .vshrImm _ _ _ => hMsk + hLit
  | .vsarImm _ _ _ => hMsk + hLit
  | .vmovi _ _ => hMsk + hLit
  | .vdivS _ _ _ _ => hMsk
  | .vdivU _ _ _ _ => hMsk
  | .vremS _ _ _ _ => hMsk
  | .vremU _ _ _ _ => hMsk
  | .vfadd _ _ _ _ => hMsk + hRnd
  | .vfsub _ _ _ _ => hMsk + hRnd
  | .vfmul _ _ _ _ => hMsk + hRnd
  | .vfma _ _ _ _ => hMsk + hRnd
  | .vfms _ _ _ _ => hMsk + hRnd
  | .vfnma _ _ _ _ => hMsk + hRnd
  | .vfminNum _ _ _ _ => hMsk
  | .vfminProp _ _ _ _ => hMsk
  | .vfmaxNum _ _ _ _ => hMsk
  | .vfmaxProp _ _ _ _ => hMsk
  | .vfabs _ _ _ => hMsk
  | .vfneg _ _ _ => hMsk
  | .vfscale _ _ _ _ => hMsk + hRnd
  | .vfround _ _ _ => hMsk + hRnd
  | .vfclass _ _ _ => hMsk
  | .vfcmp _ _ _ _ _ => hMsk
  | .vcvt _ _ _ _ => hMsk + hRnd
  | .vpkE4m3 _ _ _ _ => hMsk + hRnd
  | .vpkE5m2 _ _ _ _ => hMsk + hRnd
  | .vpkIo4 _ _ _ _ => hMsk + hRnd
  | .vunpkE4m3 _ _ _ _ => hMsk
  | .vunpkE5m2 _ _ _ _ => hMsk
  | .vunpkIo4 _ _ _ _ => hMsk
  | .vhaddF16 _ _ _ _ => hMsk + hRnd
  | .vhaddBf16 _ _ _ _ => hMsk + hRnd
  | .vhmulF16 _ _ _ _ => hMsk + hRnd
  | .vhmulBf16 _ _ _ _ => hMsk + hRnd
  | .vhfmaF16 _ _ _ _ => hMsk + hRnd
  | .vhfmaBf16 _ _ _ _ => hMsk + hRnd
  | .vfrcp _ _ _ => hMsk + hRnd
  | .vfrsq _ _ _ => hMsk + hRnd
  | .vfsqrt _ _ _ => hMsk + hRnd
  | .vfexp2 _ _ _ => hMsk + hRnd
  | .vflog2 _ _ _ => hMsk + hRnd
  | .vfsin _ _ _ => hMsk + hRnd
  | .vfcos _ _ _ => hMsk + hRnd
  | .vfdot2Bf16 _ _ _ _ => hMsk + hRnd
  | .vfdot4Fp8 _ _ _ _ => hMsk + hRnd
  | .vshuf _ _ _ _ => hMsk
  | .vlrot _ _ _ _ => hMsk
  | .vscan _ _ _ _ => hMsk + hRnd
  | .vscanExcl _ _ _ _ => hMsk + hRnd
  | .vred _ _ _ _ => hMsk + hRnd
  | .vbcast _ _ _ _ => hMsk
  | .kand _ _ _ => 0
  | .kor _ _ _ => 0
  | .kxor _ _ _ => 0
  | .knot _ _ => 0
  | .kmov _ _ => 0
  | .kpop _ _ => 0
  | .kfirst _ _ => 0
  | .vballot _ _ => hMsk
  | .vrngRd _ => hMsk
  | .vrngSeed _ _ _ => hMsk
  | .vrngStep _ => hMsk
  | .brZ _ _ => 0
  | .brNz _ _ => 0
  | .brLt _ _ => 0
  | .brGe _ _ => 0
  | .call _ _ => 0
  | .jmp _ => 0
  | .brkAny _ _ => 0
  | .brkNone _ _ => 0
  | .brd _ _ => 0
  | .mark _ => 0
  | .ret _ => 0
  | .jmpReg _ => 0
  | .callReg _ _ => 0
  | .sld _ _ _ _ _ => hLit1 + hRet + hAcq
  | .sst _ _ _ _ _ => hLit1 + hRet + hRel
  | .vld _ _ _ _ _ => hMsk + hLit1 + hRet + hAcq
  | .vst _ _ _ _ _ => hMsk + hLit1 + hRet + hRel
  | .vldg _ _ _ _ _ => hMsk + hRet + hAcq
  | .vsts _ _ _ _ _ => hMsk + hRet + hRel
  | .spld _ _ _ _ _ => hMsk
  | .spst _ _ _ _ => hMsk + hLit1
  | .cld _ _ _ _ _ => hLit1 + hRet + hRlx
  | .atomScalar _ _ _ _ _ => hRet + hAll
  | .atomVector _ _ _ _ _ => hMsk + hRet + hAll
  | .red _ _ _ => hMsk
  | .redClose _ _ => 0
  | .fenceRel _ => 0
  | .fenceAr _ => 0
  | .cp _ _ _ _ _ => hRet + hAll
  | .cpFill _ _ _ => hRet + hAll
  | .cpT _ _ _ => hRet + hAll
  | .stMc _ _ _ => hRet + hRel
  | .pf _ _ _ => 0
  | .zclaim _ _ => 0
  | .zrel _ => 0
  | .zzero _ => 0
  | .oclaim _ _ => 0
  | .orel _ => 0
  | .oload _ _ _ => hRet + hAcq
  | .mmul _ _ _ => 0
  | .mloop _ _ _ _ => hRet + hAcq
  | .mdrain _ _ _ _ => hRet + hRnd + hRel
  | .mfence _ => 0
  | .mwait _ => 0
  | .mstat _ => 0
  | .tinv _ _ _ _ => 0
  | .tprobe _ _ _ => 0
  | .rteAnn _ _ _ => 0
  | .rteWd _ _ _ => 0
  | .rteRole _ _ _ => 0
  | .rteQ _ _ _ => 0
  | .rteSync _ _ => 0
  | .cobjDecl _ _ _ => hLit1
  | .cobjDrop _ _ => hLit1
  | .cobjSync _ _ => hLit1
  | .cobjSyncShared _ _ => hLit1
  | .cobjReclaim _ _ => hLit1
  | .tdtSet _ _ _ => 0
  | .tdtGet _ _ _ => 0
  | .tdtDrop _ => 0
  | .treeSet _ _ _ => 0
  | .launch _ _ => 0
  | .wlPush _ _ _ => hMsk
  | .wlPop _ _ _ _ => hMsk
  | .wlDone _ => hMsk
  | .tierRec _ _ _ => 0
  | .tierHintUp _ _ _ => 0
  | .tierHintDown _ _ _ => 0
  | .tierQ _ _ => 0
  | .waitc _ _ _ => 0
  | .waitF _ => 0
  | .bar _ _ => 0
  | .pcrd _ _ => 0
  | .trap _ => 0
  | .rcp _ => 0
  | .sysrd _ _ => 0
  | .syswr _ _ => 0
  | .halt _ _ => 0
  | .hintLit _ => 0
  | .hintLith _ => 0
  | .hintDly _ => 0
  | .hintFlg _ => 0
  | .hintRnd _ _ _ => 0
  | .hintScp _ _ => 0
  | .hintNop _ _ => 0
  | .nop => 0
  | .join => 0
  | .exit => 0
  | .mresume => 0
  | .mresumeAbandon => 0
  | .tret => 0
  | .yield => 0
  | .fenceAcq0 => 0
  | .fenceAcq1 => 0
  | .fenceAcq2 => 0
  | .fenceAcq3 => 0
  | .fenceAcq4 => 0
  | .fenceAcq5 => 0
  | .fenceAcq6 => 0
  | .fenceAcq7 => 0
  | .fenceAcq8 => 0
  | .fenceAcq9 => 0
  | .fenceAcq10 => 0
  | .fenceAcq11 => 0
  | .fenceAcq12 => 0
  | .fenceAcq13 => 0
  | .fenceAcq14 => 0
  | .fenceAcq15 => 0
  | .hintMsk0 => 0
  | .hintMsk1 => 0
  | .hintMsk2 => 0
  | .hintMsk3 => 0
  | .hintMsk4 => 0
  | .hintMsk5 => 0
  | .hintMsk6 => 0
  | .hintMsk7 => 0
  | .hintMsk8 => 0
  | .hintMsk9 => 0
  | .hintMsk10 => 0
  | .hintMsk11 => 0
  | .hintMsk12 => 0
  | .hintMsk13 => 0
  | .hintMsk14 => 0
  | .hintMsk15 => 0
  | .hintRet0 => 0
  | .hintRet1 => 0
  | .hintRet2 => 0
  | .hintRet3 => 0
  | .groupTurn => 0
  | .multiTurnComplete _ _ => 0
  | .blockClearComplete _ => 0
  | .groupRelease _ => 0
  | .stallTimeout _ _ => 0
  | .hurdlePass _ => 0
  | .groupPlacement _ _ => 0
  | .gangAgeExpire _ => 0
  | .recordDone _ => 0
  | .completionStore _ => 0
  | .translationWalk _ _ _ _ => 0
  | .tinvComplete _ => 0
  | .storeBufferDrain _ => 0
  | .writeApply _ => 0
  | .writeReadable _ => 0
  | .applyNotice _ => 0
  | .echoReceive _ => 0
  | .fillWrite _ => 0
  | .echoAckReceive _ => 0
  | .echoDeadline _ => 0
  | .leaseRenewal _ => 0
  | .renewalReceive _ => 0
  | .leaseEnd _ _ => 0
  | .readRequest _ => 0
  | .refusalReroute _ => 0
  | .loadComplete _ => 0
  | .storeResponse _ => 0
  | .invalidate _ => 0
  | .relayReceive _ _ => 0
  | .relayRefusal _ _ _ => 0
  | .routerAnswer _ _ => 0
  | .rteSyncDone _ _ => 0
  | .holderAbsent _ _ => 0
  | .cobjDirectoryRequest _ _ => 0
  | .partialFold _ _ _ => 0
  | .mergeChildArrive _ _ => 0
  | .mergeNodeTimeout _ _ _ => 0
  | .snoopRetry _ => 0
  | .snoopTimeout _ => 0
  | .multicastForward _ _ => 0
  | .auditIntervalEnd _ _ => 0
  | .copyStart _ => 0
  | .copyComplete _ => 0
  | .copyFault _ => 0
  | .matrixCommandComplete _ => 0
  | .matrixCommandFault _ => 0
  | .ringKick _ => 0
  | .ringReadSlot _ => 0
  | .ringRetry _ => 0
  | .contextSwitchOut _ => 0
  | .tierMoveStart => 0
  | .tierAnnounceAnswer _ _ => 0
  | .tierFillDone _ => 0
  | .tierHandoverAnswer _ _ => 0
  | .tierMoveEnd _ => 0
  | .tierFaultOffer _ => 0
  | .announcementRequest _ _ _ _ => 0
  | .announcementTimeout _ => 0
  | .faultRecordOffer _ => 0
  | .longParkSwitchout _ _ => 0
  | .sliceEnd _ => 0
  | .graceEnd _ => 0
  | .deadlineExpire _ => 0
  | .resetComplete _ => 0
  | .contextResident _ => 0
  | .flitReceive _ _ _ => 0
  | .laneSpare _ _ => 0
  | .linkFail _ _ => 0
  | .linkUp _ _ _ => 0
  | .sessionRekey _ _ => 0
  | .hostSnoop _ _ => 0
  | .hostMemRequest _ => 0
  | .powerOn _ _ => 0
  | .attest _ => 0
  | .worldCreate _ => 0
  | .worldGrant _ => 0
  | .worldRevoke _ => 0
  | .worldDestroy _ => 0
  | .partSet _ => 0
  | .ctxCreate _ => 0
  | .ctxDestroy _ => 0
  | .ctxPreempt _ => 0
  | .ringSet _ => 0
  | .ringKey _ => 0
  | .powerCompare _ _ _ _ => 0
  | .trayRemoveRequest => 0
  | .trayCancel => 0
  | .trayQuiesce => 0
  | .trayPowerOff => 0
  | .trayInsert => 0
  | .wearUpdate _ _ _ _ => 0
  | .partDescWrite _ _ => 0
  | .tqWrite _ _ => 0
  | .rteCostWrite _ => 0
  | .cobjQWrite _ _ => 0
  | .wlCfgWrite _ _ _ => 0
  | .wlReset _ _ => 0
  | .ringBaseWrite _ _ => 0
  | .ringCtlWrite _ _ => 0
  | .ringEnable _ _ => 0
  | .ringDisable _ => 0
  | .tierCfgWrite _ => 0
  | .fqDone _ _ _ _ => 0
  | .erqLostClear => 0
  | .wdogWrite _ _ => 0
  | .pcclr _ _ => 0
  | .pwrCapWrite _ => 0
  | .sysregWrite _ _ => 0
  | .illegalOpcode _ => 0
  | .softError _ _ => 0
  | .dramLineAltered _ _ _ _ => 0
  | .snoopReceive _ => 0
  | .snoopAnswer _ => 0
  | .itemClearComplete _ _ _ => 0
  | .tierFillRead _ => 0
  | .mailboxBadCmd _ => 0

set_option maxHeartbeats 4000000 in
/-- The level at which an instruction is privileged (R3); a system register's level is the register's own (R4). -/
def privOf : Instr → Nat
  | .sadd _ _ _ _ => 0
  | .ssub _ _ _ _ => 0
  | .smullo _ _ _ _ => 0
  | .smulhiS _ _ _ _ => 0
  | .smulhiU _ _ _ _ => 0
  | .smad _ _ _ _ => 0
  | .sminS _ _ _ _ => 0
  | .sminU _ _ _ _ => 0
  | .smaxS _ _ _ _ => 0
  | .smaxU _ _ _ _ => 0
  | .saddsS _ _ _ _ => 0
  | .saddsU _ _ _ _ => 0
  | .saddc _ _ _ _ => 0
  | .ssubb _ _ _ _ => 0
  | .sabs _ _ _ => 0
  | .sneg _ _ _ => 0
  | .sand _ _ _ _ => 0
  | .sor _ _ _ _ => 0
  | .sxor _ _ _ _ => 0
  | .sandn _ _ _ _ => 0
  | .snot _ _ _ => 0
  | .sshl _ _ _ _ => 0
  | .sshr _ _ _ _ => 0
  | .ssar _ _ _ _ => 0
  | .srot _ _ _ _ => 0
  | .sclz _ _ _ => 0
  | .spop _ _ _ => 0
  | .sbrev _ _ _ => 0
  | .sbfeU _ _ _ _ => 0
  | .sbfeS _ _ _ _ => 0
  | .sbfi _ _ _ _ => 0
  | .sunpack _ _ _ => 0
  | .scmp _ _ _ _ _ => 0
  | .smov _ _ _ => 0
  | .sext8S _ _ _ => 0
  | .sext8U _ _ _ => 0
  | .sext16S _ _ _ => 0
  | .sext16U _ _ _ => 0
  | .slea _ _ _ => 0
  | .ssel _ _ _ _ => 0
  | .spack _ _ _ _ => 0
  | .saddImm _ _ _ => 0
  | .sandImm _ _ _ => 0
  | .sorImm _ _ _ => 0
  | .sxorImm _ _ _ => 0
  | .sshlImm _ _ _ => 0
  | .sshrImm _ _ _ => 0
  | .ssarImm _ _ _ => 0
  | .smovi _ _ => 0
  | .sdivS _ _ _ _ => 0
  | .sdivU _ _ _ _ => 0
  | .sremS _ _ _ _ => 0
  | .sremU _ _ _ _ => 0
  | .vadd _ _ _ _ => 0
  | .vsub _ _ _ _ => 0
  | .vmullo _ _ _ _ => 0
  | .vmulhiS _ _ _ _ => 0
  | .vmulhiU _ _ _ _ => 0
  | .vmad _ _ _ _ => 0
  | .vminS _ _ _ _ => 0
  | .vminU _ _ _ _ => 0
  | .vmaxS _ _ _ _ => 0
  | .vmaxU _ _ _ _ => 0
  | .vaddsS _ _ _ _ => 0
  | .vaddsU _ _ _ _ => 0
  | .vabs _ _ _ => 0
  | .vneg _ _ _ => 0
  | .vsel _ _ _ _ => 0
  | .vmov _ _ _ => 0
  | .vand _ _ _ _ => 0
  | .vor _ _ _ _ => 0
  | .vxor _ _ _ _ => 0
  | .vandn _ _ _ _ => 0
  | .vnot _ _ _ => 0
  | .vshl _ _ _ _ => 0
  | .vshr _ _ _ _ => 0
  | .vsar _ _ _ _ => 0
  | .vrot _ _ _ _ => 0
  | .vclz _ _ _ => 0
  | .vpop _ _ _ => 0
  | .vbrev _ _ _ => 0
  | .vbfeU _ _ _ _ => 0
  | .vbfeS _ _ _ _ => 0
  | .vbfi _ _ _ _ => 0
  | .vlea _ _ _ _ => 0
  | .vcmp _ _ _ _ _ => 0
  | .vext8S _ _ _ => 0
  | .vext8U _ _ _ => 0
  | .vext16S _ _ _ => 0
  | .vext16U _ _ _ => 0
  | .vpack _ _ _ _ => 0
  | .vunpack _ _ _ => 0
  | .vaddImm _ _ _ => 0
  | .vandImm _ _ _ => 0
  | .vorImm _ _ _ => 0
  | .vxorImm _ _ _ => 0
  | .vshlImm _ _ _ => 0
  | .vshrImm _ _ _ => 0
  | .vsarImm _ _ _ => 0
  | .vmovi _ _ => 0
  | .vdivS _ _ _ _ => 0
  | .vdivU _ _ _ _ => 0
  | .vremS _ _ _ _ => 0
  | .vremU _ _ _ _ => 0
  | .vfadd _ _ _ _ => 0
  | .vfsub _ _ _ _ => 0
  | .vfmul _ _ _ _ => 0
  | .vfma _ _ _ _ => 0
  | .vfms _ _ _ _ => 0
  | .vfnma _ _ _ _ => 0
  | .vfminNum _ _ _ _ => 0
  | .vfminProp _ _ _ _ => 0
  | .vfmaxNum _ _ _ _ => 0
  | .vfmaxProp _ _ _ _ => 0
  | .vfabs _ _ _ => 0
  | .vfneg _ _ _ => 0
  | .vfscale _ _ _ _ => 0
  | .vfround _ _ _ => 0
  | .vfclass _ _ _ => 0
  | .vfcmp _ _ _ _ _ => 0
  | .vcvt _ _ _ _ => 0
  | .vpkE4m3 _ _ _ _ => 0
  | .vpkE5m2 _ _ _ _ => 0
  | .vpkIo4 _ _ _ _ => 0
  | .vunpkE4m3 _ _ _ _ => 0
  | .vunpkE5m2 _ _ _ _ => 0
  | .vunpkIo4 _ _ _ _ => 0
  | .vhaddF16 _ _ _ _ => 0
  | .vhaddBf16 _ _ _ _ => 0
  | .vhmulF16 _ _ _ _ => 0
  | .vhmulBf16 _ _ _ _ => 0
  | .vhfmaF16 _ _ _ _ => 0
  | .vhfmaBf16 _ _ _ _ => 0
  | .vfrcp _ _ _ => 0
  | .vfrsq _ _ _ => 0
  | .vfsqrt _ _ _ => 0
  | .vfexp2 _ _ _ => 0
  | .vflog2 _ _ _ => 0
  | .vfsin _ _ _ => 0
  | .vfcos _ _ _ => 0
  | .vfdot2Bf16 _ _ _ _ => 0
  | .vfdot4Fp8 _ _ _ _ => 0
  | .vshuf _ _ _ _ => 0
  | .vlrot _ _ _ _ => 0
  | .vscan _ _ _ _ => 0
  | .vscanExcl _ _ _ _ => 0
  | .vred _ _ _ _ => 0
  | .vbcast _ _ _ _ => 0
  | .kand _ _ _ => 0
  | .kor _ _ _ => 0
  | .kxor _ _ _ => 0
  | .knot _ _ => 0
  | .kmov _ _ => 0
  | .kpop _ _ => 0
  | .kfirst _ _ => 0
  | .vballot _ _ => 0
  | .vrngRd _ => 0
  | .vrngSeed _ _ _ => 0
  | .vrngStep _ => 0
  | .brZ _ _ => 0
  | .brNz _ _ => 0
  | .brLt _ _ => 0
  | .brGe _ _ => 0
  | .call _ _ => 0
  | .jmp _ => 0
  | .brkAny _ _ => 0
  | .brkNone _ _ => 0
  | .brd _ _ => 0
  | .mark _ => 0
  | .ret _ => 0
  | .jmpReg _ => 0
  | .callReg _ _ => 0
  | .sld _ _ _ _ _ => 0
  | .sst _ _ _ _ _ => 0
  | .vld _ _ _ _ _ => 0
  | .vst _ _ _ _ _ => 0
  | .vldg _ _ _ _ _ => 0
  | .vsts _ _ _ _ _ => 0
  | .spld _ _ _ _ _ => 0
  | .spst _ _ _ _ => 0
  | .cld _ _ _ _ _ => 0
  | .atomScalar _ _ _ _ _ => 0
  | .atomVector _ _ _ _ _ => 0
  | .red _ _ _ => 0
  | .redClose _ _ => 0
  | .fenceRel _ => 0
  | .fenceAr _ => 0
  | .cp _ _ _ _ _ => 0
  | .cpFill _ _ _ => 2
  | .cpT _ _ _ => 0
  | .stMc _ _ _ => 0
  | .pf _ _ _ => 0
  | .zclaim _ _ => 0
  | .zrel _ => 0
  | .zzero _ => 0
  | .oclaim _ _ => 0
  | .orel _ => 0
  | .oload _ _ _ => 0
  | .mmul _ _ _ => 0
  | .mloop _ _ _ _ => 0
  | .mdrain _ _ _ _ => 0
  | .mfence _ => 0
  | .mwait _ => 0
  | .mstat _ => 0
  | .tinv _ _ c t => tinvLevel c t
  | .tprobe _ _ s => if s = 1 then 2 else 1
  | .rteAnn _ _ _ => 2
  | .rteWd _ _ _ => 2
  | .rteRole _ _ _ => 2
  | .rteQ _ _ _ => 2
  | .rteSync _ _ => 1
  | .cobjDecl _ _ _ => 0
  | .cobjDrop _ _ => 0
  | .cobjSync _ _ => 0
  | .cobjSyncShared _ _ => 0
  | .cobjReclaim _ _ => 1
  | .tdtSet _ _ _ => 0
  | .tdtGet _ _ _ => 0
  | .tdtDrop _ => 0
  | .treeSet _ _ _ => 2
  | .launch _ _ => 0
  | .wlPush _ _ _ => 0
  | .wlPop _ _ _ _ => 0
  | .wlDone _ => 0
  | .tierRec _ _ _ => 0
  | .tierHintUp _ _ _ => 0
  | .tierHintDown _ _ _ => 0
  | .tierQ _ _ => 0
  | .waitc _ _ _ => 0
  | .waitF _ => 0
  | .bar _ _ => 0
  | .pcrd _ _ => 0
  | .trap _ => 0
  | .rcp _ => 0
  | .sysrd _ n => regReadLevel n
  | .syswr _ n => regWriteLevel n
  | .halt _ _ => 2
  | .hintLit _ => 0
  | .hintLith _ => 0
  | .hintDly _ => 0
  | .hintFlg _ => 0
  | .hintRnd _ _ _ => 0
  | .hintScp _ _ => 0
  | .hintNop _ _ => 0
  | .nop => 0
  | .join => 0
  | .exit => 0
  | .mresume => 0
  | .mresumeAbandon => 0
  | .tret => 1
  | .yield => 0
  | .fenceAcq0 => 0
  | .fenceAcq1 => 0
  | .fenceAcq2 => 0
  | .fenceAcq3 => 0
  | .fenceAcq4 => 0
  | .fenceAcq5 => 0
  | .fenceAcq6 => 0
  | .fenceAcq7 => 0
  | .fenceAcq8 => 0
  | .fenceAcq9 => 0
  | .fenceAcq10 => 0
  | .fenceAcq11 => 0
  | .fenceAcq12 => 0
  | .fenceAcq13 => 0
  | .fenceAcq14 => 0
  | .fenceAcq15 => 0
  | .hintMsk0 => 0
  | .hintMsk1 => 0
  | .hintMsk2 => 0
  | .hintMsk3 => 0
  | .hintMsk4 => 0
  | .hintMsk5 => 0
  | .hintMsk6 => 0
  | .hintMsk7 => 0
  | .hintMsk8 => 0
  | .hintMsk9 => 0
  | .hintMsk10 => 0
  | .hintMsk11 => 0
  | .hintMsk12 => 0
  | .hintMsk13 => 0
  | .hintMsk14 => 0
  | .hintMsk15 => 0
  | .hintRet0 => 0
  | .hintRet1 => 0
  | .hintRet2 => 0
  | .hintRet3 => 0
  | .groupTurn => 0
  | .multiTurnComplete _ _ => 0
  | .blockClearComplete _ => 0
  | .groupRelease _ => 0
  | .stallTimeout _ _ => 0
  | .hurdlePass _ => 0
  | .groupPlacement _ _ => 0
  | .gangAgeExpire _ => 0
  | .recordDone _ => 0
  | .completionStore _ => 0
  | .translationWalk _ _ _ _ => 0
  | .tinvComplete _ => 0
  | .storeBufferDrain _ => 0
  | .writeApply _ => 0
  | .writeReadable _ => 0
  | .applyNotice _ => 0
  | .echoReceive _ => 0
  | .fillWrite _ => 0
  | .echoAckReceive _ => 0
  | .echoDeadline _ => 0
  | .leaseRenewal _ => 0
  | .renewalReceive _ => 0
  | .leaseEnd _ _ => 0
  | .readRequest _ => 0
  | .refusalReroute _ => 0
  | .loadComplete _ => 0
  | .storeResponse _ => 0
  | .invalidate _ => 0
  | .relayReceive _ _ => 0
  | .relayRefusal _ _ _ => 0
  | .routerAnswer _ _ => 0
  | .rteSyncDone _ _ => 0
  | .holderAbsent _ _ => 0
  | .cobjDirectoryRequest _ _ => 0
  | .partialFold _ _ _ => 0
  | .mergeChildArrive _ _ => 0
  | .mergeNodeTimeout _ _ _ => 0
  | .snoopRetry _ => 0
  | .snoopTimeout _ => 0
  | .multicastForward _ _ => 0
  | .auditIntervalEnd _ _ => 0
  | .copyStart _ => 0
  | .copyComplete _ => 0
  | .copyFault _ => 0
  | .matrixCommandComplete _ => 0
  | .matrixCommandFault _ => 0
  | .ringKick _ => 0
  | .ringReadSlot _ => 0
  | .ringRetry _ => 0
  | .contextSwitchOut _ => 0
  | .tierMoveStart => 0
  | .tierAnnounceAnswer _ _ => 0
  | .tierFillDone _ => 0
  | .tierHandoverAnswer _ _ => 0
  | .tierMoveEnd _ => 0
  | .tierFaultOffer _ => 0
  | .announcementRequest _ _ _ _ => 0
  | .announcementTimeout _ => 0
  | .faultRecordOffer _ => 0
  | .longParkSwitchout _ _ => 0
  | .sliceEnd _ => 0
  | .graceEnd _ => 0
  | .deadlineExpire _ => 0
  | .resetComplete _ => 0
  | .contextResident _ => 0
  | .flitReceive _ _ _ => 0
  | .laneSpare _ _ => 0
  | .linkFail _ _ => 0
  | .linkUp _ _ _ => 0
  | .sessionRekey _ _ => 0
  | .hostSnoop _ _ => 0
  | .hostMemRequest _ => 0
  | .powerOn _ _ => 0
  | .attest _ => 0
  | .worldCreate _ => 0
  | .worldGrant _ => 0
  | .worldRevoke _ => 0
  | .worldDestroy _ => 0
  | .partSet _ => 0
  | .ctxCreate _ => 0
  | .ctxDestroy _ => 0
  | .ctxPreempt _ => 0
  | .ringSet _ => 0
  | .ringKey _ => 0
  | .powerCompare _ _ _ _ => 0
  | .trayRemoveRequest => 0
  | .trayCancel => 0
  | .trayQuiesce => 0
  | .trayPowerOff => 0
  | .trayInsert => 0
  | .wearUpdate _ _ _ _ => 0
  | .partDescWrite _ _ => 0
  | .tqWrite _ _ => 0
  | .rteCostWrite _ => 0
  | .cobjQWrite _ _ => 0
  | .wlCfgWrite _ _ _ => 0
  | .wlReset _ _ => 0
  | .ringBaseWrite _ _ => 0
  | .ringCtlWrite _ _ => 0
  | .ringEnable _ _ => 0
  | .ringDisable _ => 0
  | .tierCfgWrite _ => 0
  | .fqDone _ _ _ _ => 0
  | .erqLostClear => 0
  | .wdogWrite _ _ => 0
  | .pcclr _ _ => 0
  | .pwrCapWrite _ => 0
  | .sysregWrite _ _ => 0
  | .illegalOpcode _ => 0
  | .softError _ _ => 0
  | .dramLineAltered _ _ _ _ => 0
  | .snoopReceive _ => 0
  | .snoopAnswer _ => 0
  | .itemClearComplete _ _ _ => 0
  | .tierFillRead _ => 0
  | .mailboxBadCmd _ => 0

set_option maxHeartbeats 4000000 in
/-- Whether an instruction is marked region-closing for flashback (19 R336). -/
def closesRegion : Instr → Bool
  | .sadd _ _ _ _ => false
  | .ssub _ _ _ _ => false
  | .smullo _ _ _ _ => false
  | .smulhiS _ _ _ _ => false
  | .smulhiU _ _ _ _ => false
  | .smad _ _ _ _ => false
  | .sminS _ _ _ _ => false
  | .sminU _ _ _ _ => false
  | .smaxS _ _ _ _ => false
  | .smaxU _ _ _ _ => false
  | .saddsS _ _ _ _ => false
  | .saddsU _ _ _ _ => false
  | .saddc _ _ _ _ => false
  | .ssubb _ _ _ _ => false
  | .sabs _ _ _ => false
  | .sneg _ _ _ => false
  | .sand _ _ _ _ => false
  | .sor _ _ _ _ => false
  | .sxor _ _ _ _ => false
  | .sandn _ _ _ _ => false
  | .snot _ _ _ => false
  | .sshl _ _ _ _ => false
  | .sshr _ _ _ _ => false
  | .ssar _ _ _ _ => false
  | .srot _ _ _ _ => false
  | .sclz _ _ _ => false
  | .spop _ _ _ => false
  | .sbrev _ _ _ => false
  | .sbfeU _ _ _ _ => false
  | .sbfeS _ _ _ _ => false
  | .sbfi _ _ _ _ => false
  | .sunpack _ _ _ => false
  | .scmp _ _ _ _ _ => false
  | .smov _ _ _ => false
  | .sext8S _ _ _ => false
  | .sext8U _ _ _ => false
  | .sext16S _ _ _ => false
  | .sext16U _ _ _ => false
  | .slea _ _ _ => false
  | .ssel _ _ _ _ => false
  | .spack _ _ _ _ => false
  | .saddImm _ _ _ => false
  | .sandImm _ _ _ => false
  | .sorImm _ _ _ => false
  | .sxorImm _ _ _ => false
  | .sshlImm _ _ _ => false
  | .sshrImm _ _ _ => false
  | .ssarImm _ _ _ => false
  | .smovi _ _ => false
  | .sdivS _ _ _ _ => false
  | .sdivU _ _ _ _ => false
  | .sremS _ _ _ _ => false
  | .sremU _ _ _ _ => false
  | .vadd _ _ _ _ => false
  | .vsub _ _ _ _ => false
  | .vmullo _ _ _ _ => false
  | .vmulhiS _ _ _ _ => false
  | .vmulhiU _ _ _ _ => false
  | .vmad _ _ _ _ => false
  | .vminS _ _ _ _ => false
  | .vminU _ _ _ _ => false
  | .vmaxS _ _ _ _ => false
  | .vmaxU _ _ _ _ => false
  | .vaddsS _ _ _ _ => false
  | .vaddsU _ _ _ _ => false
  | .vabs _ _ _ => false
  | .vneg _ _ _ => false
  | .vsel _ _ _ _ => false
  | .vmov _ _ _ => false
  | .vand _ _ _ _ => false
  | .vor _ _ _ _ => false
  | .vxor _ _ _ _ => false
  | .vandn _ _ _ _ => false
  | .vnot _ _ _ => false
  | .vshl _ _ _ _ => false
  | .vshr _ _ _ _ => false
  | .vsar _ _ _ _ => false
  | .vrot _ _ _ _ => false
  | .vclz _ _ _ => false
  | .vpop _ _ _ => false
  | .vbrev _ _ _ => false
  | .vbfeU _ _ _ _ => false
  | .vbfeS _ _ _ _ => false
  | .vbfi _ _ _ _ => false
  | .vlea _ _ _ _ => false
  | .vcmp _ _ _ _ _ => false
  | .vext8S _ _ _ => false
  | .vext8U _ _ _ => false
  | .vext16S _ _ _ => false
  | .vext16U _ _ _ => false
  | .vpack _ _ _ _ => false
  | .vunpack _ _ _ => false
  | .vaddImm _ _ _ => false
  | .vandImm _ _ _ => false
  | .vorImm _ _ _ => false
  | .vxorImm _ _ _ => false
  | .vshlImm _ _ _ => false
  | .vshrImm _ _ _ => false
  | .vsarImm _ _ _ => false
  | .vmovi _ _ => false
  | .vdivS _ _ _ _ => false
  | .vdivU _ _ _ _ => false
  | .vremS _ _ _ _ => false
  | .vremU _ _ _ _ => false
  | .vfadd _ _ _ _ => false
  | .vfsub _ _ _ _ => false
  | .vfmul _ _ _ _ => false
  | .vfma _ _ _ _ => false
  | .vfms _ _ _ _ => false
  | .vfnma _ _ _ _ => false
  | .vfminNum _ _ _ _ => false
  | .vfminProp _ _ _ _ => false
  | .vfmaxNum _ _ _ _ => false
  | .vfmaxProp _ _ _ _ => false
  | .vfabs _ _ _ => false
  | .vfneg _ _ _ => false
  | .vfscale _ _ _ _ => false
  | .vfround _ _ _ => false
  | .vfclass _ _ _ => false
  | .vfcmp _ _ _ _ _ => false
  | .vcvt _ _ _ _ => false
  | .vpkE4m3 _ _ _ _ => false
  | .vpkE5m2 _ _ _ _ => false
  | .vpkIo4 _ _ _ _ => false
  | .vunpkE4m3 _ _ _ _ => false
  | .vunpkE5m2 _ _ _ _ => false
  | .vunpkIo4 _ _ _ _ => false
  | .vhaddF16 _ _ _ _ => false
  | .vhaddBf16 _ _ _ _ => false
  | .vhmulF16 _ _ _ _ => false
  | .vhmulBf16 _ _ _ _ => false
  | .vhfmaF16 _ _ _ _ => false
  | .vhfmaBf16 _ _ _ _ => false
  | .vfrcp _ _ _ => false
  | .vfrsq _ _ _ => false
  | .vfsqrt _ _ _ => false
  | .vfexp2 _ _ _ => false
  | .vflog2 _ _ _ => false
  | .vfsin _ _ _ => false
  | .vfcos _ _ _ => false
  | .vfdot2Bf16 _ _ _ _ => false
  | .vfdot4Fp8 _ _ _ _ => false
  | .vshuf _ _ _ _ => false
  | .vlrot _ _ _ _ => false
  | .vscan _ _ _ _ => false
  | .vscanExcl _ _ _ _ => false
  | .vred _ _ _ _ => false
  | .vbcast _ _ _ _ => false
  | .kand _ _ _ => false
  | .kor _ _ _ => false
  | .kxor _ _ _ => false
  | .knot _ _ => false
  | .kmov _ _ => false
  | .kpop _ _ => false
  | .kfirst _ _ => false
  | .vballot _ _ => false
  | .vrngRd _ => false
  | .vrngSeed _ _ _ => false
  | .vrngStep _ => false
  | .brZ _ _ => false
  | .brNz _ _ => false
  | .brLt _ _ => false
  | .brGe _ _ => false
  | .call _ _ => false
  | .jmp _ => false
  | .brkAny _ _ => false
  | .brkNone _ _ => false
  | .brd _ _ => false
  | .mark _ => false
  | .ret _ => false
  | .jmpReg _ => false
  | .callReg _ _ => false
  | .sld _ _ _ _ _ => false
  | .sst _ _ _ _ _ => false
  | .vld _ _ _ _ _ => false
  | .vst _ _ _ _ _ => false
  | .vldg _ _ _ _ _ => false
  | .vsts _ _ _ _ _ => false
  | .spld _ _ _ _ _ => false
  | .spst _ _ _ _ => false
  | .cld _ _ _ _ _ => false
  | .atomScalar _ _ _ _ _ => true
  | .atomVector _ _ _ _ _ => true
  | .red _ _ _ => true
  | .redClose _ _ => true
  | .fenceRel _ => false
  | .fenceAr _ => false
  | .cp _ _ _ _ _ => true
  | .cpFill _ _ _ => true
  | .cpT _ _ _ => true
  | .stMc _ _ _ => false
  | .pf _ _ _ => false
  | .zclaim _ _ => false
  | .zrel _ => true
  | .zzero _ => true
  | .oclaim _ _ => false
  | .orel _ => true
  | .oload _ _ _ => true
  | .mmul _ _ _ => true
  | .mloop _ _ _ _ => true
  | .mdrain _ _ _ _ => true
  | .mfence _ => true
  | .mwait _ => false
  | .mstat _ => false
  | .tinv _ _ _ _ => true
  | .tprobe _ _ _ => false
  | .rteAnn _ _ _ => true
  | .rteWd _ _ _ => true
  | .rteRole _ _ _ => true
  | .rteQ _ _ _ => false
  | .rteSync _ _ => true
  | .cobjDecl _ _ _ => true
  | .cobjDrop _ _ => true
  | .cobjSync _ _ => true
  | .cobjSyncShared _ _ => true
  | .cobjReclaim _ _ => true
  | .tdtSet _ _ _ => false
  | .tdtGet _ _ _ => false
  | .tdtDrop _ => false
  | .treeSet _ _ _ => true
  | .launch _ _ => true
  | .wlPush _ _ _ => true
  | .wlPop _ _ _ _ => true
  | .wlDone _ => true
  | .tierRec _ _ _ => false
  | .tierHintUp _ _ _ => false
  | .tierHintDown _ _ _ => false
  | .tierQ _ _ => false
  | .waitc _ _ _ => false
  | .waitF _ => false
  | .bar _ _ => true
  | .pcrd _ _ => false
  | .trap _ => true
  | .rcp _ => false
  | .sysrd _ _ => false
  | .syswr _ _ => true
  | .halt _ _ => true
  | .hintLit _ => false
  | .hintLith _ => false
  | .hintDly _ => false
  | .hintFlg _ => false
  | .hintRnd _ _ _ => false
  | .hintScp _ _ => false
  | .hintNop _ _ => false
  | .nop => false
  | .join => false
  | .exit => false
  | .mresume => true
  | .mresumeAbandon => true
  | .tret => false
  | .yield => false
  | .fenceAcq0 => false
  | .fenceAcq1 => false
  | .fenceAcq2 => false
  | .fenceAcq3 => false
  | .fenceAcq4 => false
  | .fenceAcq5 => false
  | .fenceAcq6 => false
  | .fenceAcq7 => false
  | .fenceAcq8 => false
  | .fenceAcq9 => false
  | .fenceAcq10 => false
  | .fenceAcq11 => false
  | .fenceAcq12 => false
  | .fenceAcq13 => false
  | .fenceAcq14 => false
  | .fenceAcq15 => false
  | .hintMsk0 => false
  | .hintMsk1 => false
  | .hintMsk2 => false
  | .hintMsk3 => false
  | .hintMsk4 => false
  | .hintMsk5 => false
  | .hintMsk6 => false
  | .hintMsk7 => false
  | .hintMsk8 => false
  | .hintMsk9 => false
  | .hintMsk10 => false
  | .hintMsk11 => false
  | .hintMsk12 => false
  | .hintMsk13 => false
  | .hintMsk14 => false
  | .hintMsk15 => false
  | .hintRet0 => false
  | .hintRet1 => false
  | .hintRet2 => false
  | .hintRet3 => false
  | .groupTurn => false
  | .multiTurnComplete _ _ => false
  | .blockClearComplete _ => false
  | .groupRelease _ => false
  | .stallTimeout _ _ => false
  | .hurdlePass _ => false
  | .groupPlacement _ _ => false
  | .gangAgeExpire _ => false
  | .recordDone _ => false
  | .completionStore _ => false
  | .translationWalk _ _ _ _ => false
  | .tinvComplete _ => false
  | .storeBufferDrain _ => false
  | .writeApply _ => false
  | .writeReadable _ => false
  | .applyNotice _ => false
  | .echoReceive _ => false
  | .fillWrite _ => false
  | .echoAckReceive _ => false
  | .echoDeadline _ => false
  | .leaseRenewal _ => false
  | .renewalReceive _ => false
  | .leaseEnd _ _ => false
  | .readRequest _ => false
  | .refusalReroute _ => false
  | .loadComplete _ => false
  | .storeResponse _ => false
  | .invalidate _ => false
  | .relayReceive _ _ => false
  | .relayRefusal _ _ _ => false
  | .routerAnswer _ _ => false
  | .rteSyncDone _ _ => false
  | .holderAbsent _ _ => false
  | .cobjDirectoryRequest _ _ => false
  | .partialFold _ _ _ => false
  | .mergeChildArrive _ _ => false
  | .mergeNodeTimeout _ _ _ => false
  | .snoopRetry _ => false
  | .snoopTimeout _ => false
  | .multicastForward _ _ => false
  | .auditIntervalEnd _ _ => false
  | .copyStart _ => false
  | .copyComplete _ => false
  | .copyFault _ => false
  | .matrixCommandComplete _ => false
  | .matrixCommandFault _ => false
  | .ringKick _ => false
  | .ringReadSlot _ => false
  | .ringRetry _ => false
  | .contextSwitchOut _ => false
  | .tierMoveStart => false
  | .tierAnnounceAnswer _ _ => false
  | .tierFillDone _ => false
  | .tierHandoverAnswer _ _ => false
  | .tierMoveEnd _ => false
  | .tierFaultOffer _ => false
  | .announcementRequest _ _ _ _ => false
  | .announcementTimeout _ => false
  | .faultRecordOffer _ => false
  | .longParkSwitchout _ _ => false
  | .sliceEnd _ => false
  | .graceEnd _ => false
  | .deadlineExpire _ => false
  | .resetComplete _ => false
  | .contextResident _ => false
  | .flitReceive _ _ _ => false
  | .laneSpare _ _ => false
  | .linkFail _ _ => false
  | .linkUp _ _ _ => false
  | .sessionRekey _ _ => false
  | .hostSnoop _ _ => false
  | .hostMemRequest _ => false
  | .powerOn _ _ => false
  | .attest _ => false
  | .worldCreate _ => false
  | .worldGrant _ => false
  | .worldRevoke _ => false
  | .worldDestroy _ => false
  | .partSet _ => false
  | .ctxCreate _ => false
  | .ctxDestroy _ => false
  | .ctxPreempt _ => false
  | .ringSet _ => false
  | .ringKey _ => false
  | .powerCompare _ _ _ _ => false
  | .trayRemoveRequest => false
  | .trayCancel => false
  | .trayQuiesce => false
  | .trayPowerOff => false
  | .trayInsert => false
  | .wearUpdate _ _ _ _ => false
  | .partDescWrite _ _ => false
  | .tqWrite _ _ => false
  | .rteCostWrite _ => false
  | .cobjQWrite _ _ => false
  | .wlCfgWrite _ _ _ => false
  | .wlReset _ _ => false
  | .ringBaseWrite _ _ => false
  | .ringCtlWrite _ _ => false
  | .ringEnable _ _ => false
  | .ringDisable _ => false
  | .tierCfgWrite _ => false
  | .fqDone _ _ _ _ => false
  | .erqLostClear => false
  | .wdogWrite _ _ => false
  | .pcclr _ _ => false
  | .pwrCapWrite _ => false
  | .sysregWrite _ _ => false
  | .illegalOpcode _ => false
  | .softError _ _ => false
  | .dramLineAltered _ _ _ _ => false
  | .snoopReceive _ => false
  | .snoopAnswer _ => false
  | .itemClearComplete _ _ _ => false
  | .tierFillRead _ => false
  | .mailboxBadCmd _ => false

set_option maxHeartbeats 4000000 in
/-- The registers an instruction reads, a vector register with whether lanes outside `exec` count (05 R92). -/
def readsOf : Instr → List (RegRef × Bool)
  | .sadd _ a b _ => rdS a 1 ++ rdS b 1
  | .ssub _ a b _ => rdS a 1 ++ rdS b 1
  | .smullo _ a b _ => rdS a 1 ++ rdS b 1
  | .smulhiS _ a b _ => rdS a 1 ++ rdS b 1
  | .smulhiU _ a b _ => rdS a 1 ++ rdS b 1
  | .smad d a b _ => rdS a 1 ++ rdS b 1 ++ rdS d 1
  | .sminS _ a b _ => rdS a 1 ++ rdS b 1
  | .sminU _ a b _ => rdS a 1 ++ rdS b 1
  | .smaxS _ a b _ => rdS a 1 ++ rdS b 1
  | .smaxU _ a b _ => rdS a 1 ++ rdS b 1
  | .saddsS _ a b _ => rdS a 1 ++ rdS b 1
  | .saddsU _ a b _ => rdS a 1 ++ rdS b 1
  | .saddc d a b _ => rdS a 1 ++ rdS b 1 ++ [(.s (d.toNat + 1), false)]
  | .ssubb d a b _ => rdS a 1 ++ rdS b 1 ++ [(.s (d.toNat + 1), false)]
  | .sabs _ a _ => rdS a 1
  | .sneg _ a _ => rdS a 1
  | .sand _ a b _ => rdS a 1 ++ rdS b 1
  | .sor _ a b _ => rdS a 1 ++ rdS b 1
  | .sxor _ a b _ => rdS a 1 ++ rdS b 1
  | .sandn _ a b _ => rdS a 1 ++ rdS b 1
  | .snot _ a _ => rdS a 1
  | .sshl _ a b _ => rdS a 1 ++ rdS b 1
  | .sshr _ a b _ => rdS a 1 ++ rdS b 1
  | .ssar _ a b _ => rdS a 1 ++ rdS b 1
  | .srot _ a b _ => rdS a 1 ++ rdS b 1
  | .sclz _ a _ => rdS a 1
  | .spop _ a _ => rdS a 1
  | .sbrev _ a _ => rdS a 1
  | .sbfeU _ a b _ => rdS a 1 ++ rdS b 1
  | .sbfeS _ a b _ => rdS a 1 ++ rdS b 1
  | .sbfi d a b _ => rdS a 1 ++ rdS b 1 ++ rdS d 1
  | .sunpack _ a _ => rdS a 1
  | .scmp _ _ a b _ => rdS a 1 ++ rdS b 1
  | .smov _ a _ => rdS a 1
  | .sext8S _ a _ => rdS a 1
  | .sext8U _ a _ => rdS a 1
  | .sext16S _ a _ => rdS a 1
  | .sext16U _ a _ => rdS a 1
  | .slea _ a b => rdS a 1 ++ rdS b 1
  | .ssel d a b _ => rdS a 1 ++ rdS b 1 ++ rdS d 1
  | .spack _ a b _ => rdS a 1 ++ rdS b 1
  | .saddImm _ a _ => rdS a 1
  | .sandImm _ a _ => rdS a 1
  | .sorImm _ a _ => rdS a 1
  | .sxorImm _ a _ => rdS a 1
  | .sshlImm _ a _ => rdS a 1
  | .sshrImm _ a _ => rdS a 1
  | .ssarImm _ a _ => rdS a 1
  | .smovi _ _ => []
  | .sdivS _ _ a b => rdS a 1 ++ rdS b 1
  | .sdivU _ _ a b => rdS a 1 ++ rdS b 1
  | .sremS _ _ a b => rdS a 1 ++ rdS b 1
  | .sremU _ _ a b => rdS a 1 ++ rdS b 1
  | .vadd _ a b s => rdV a 1 ++ rdB s b
  | .vsub _ a b s => rdV a 1 ++ rdB s b
  | .vmullo _ a b s => rdV a 1 ++ rdB s b
  | .vmulhiS _ a b s => rdV a 1 ++ rdB s b
  | .vmulhiU _ a b s => rdV a 1 ++ rdB s b
  | .vmad d a b s => rdV a 1 ++ rdB s b ++ rdV d 1
  | .vminS _ a b s => rdV a 1 ++ rdB s b
  | .vminU _ a b s => rdV a 1 ++ rdB s b
  | .vmaxS _ a b s => rdV a 1 ++ rdB s b
  | .vmaxU _ a b s => rdV a 1 ++ rdB s b
  | .vaddsS _ a b s => rdV a 1 ++ rdB s b
  | .vaddsU _ a b s => rdV a 1 ++ rdB s b
  | .vabs _ b s => rdB s b
  | .vneg _ b s => rdB s b
  | .vsel d a b s => rdV a 1 ++ rdB s b ++ rdV d 1
  | .vmov _ b s => rdB s b
  | .vand _ a b s => rdV a 1 ++ rdB s b
  | .vor _ a b s => rdV a 1 ++ rdB s b
  | .vxor _ a b s => rdV a 1 ++ rdB s b
  | .vandn _ a b s => rdV a 1 ++ rdB s b
  | .vnot _ b s => rdB s b
  | .vshl _ a b s => rdV a 1 ++ rdB s b
  | .vshr _ a b s => rdV a 1 ++ rdB s b
  | .vsar _ a b s => rdV a 1 ++ rdB s b
  | .vrot _ a b s => rdV a 1 ++ rdB s b
  | .vclz _ b s => rdB s b
  | .vpop _ b s => rdB s b
  | .vbrev _ b s => rdB s b
  | .vbfeU _ a b s => rdV a 1 ++ rdB s b
  | .vbfeS _ a b s => rdV a 1 ++ rdB s b
  | .vbfi d a b s => rdV a 1 ++ rdB s b ++ rdV d 1
  | .vlea _ a b s => rdS a 1 ++ rdB s b
  | .vcmp _ _ a b s => rdV a 1 ++ rdB s b
  | .vext8S _ b s => rdB s b
  | .vext8U _ b s => rdB s b
  | .vext16S _ b s => rdB s b
  | .vext16U _ b s => rdB s b
  | .vpack _ a b s => rdV a 1 ++ rdB s b
  | .vunpack _ b s => rdB s b
  | .vaddImm _ a _ => rdV a 1
  | .vandImm _ a _ => rdV a 1
  | .vorImm _ a _ => rdV a 1
  | .vxorImm _ a _ => rdV a 1
  | .vshlImm _ a _ => rdV a 1
  | .vshrImm _ a _ => rdV a 1
  | .vsarImm _ a _ => rdV a 1
  | .vmovi _ _ => []
  | .vdivS _ _ a b => rdV a 1 ++ rdV b 1
  | .vdivU _ _ a b => rdV a 1 ++ rdV b 1
  | .vremS _ _ a b => rdV a 1 ++ rdV b 1
  | .vremU _ _ a b => rdV a 1 ++ rdV b 1
  | .vfadd _ a b s => rdV a 1 ++ rdB s b
  | .vfsub _ a b s => rdV a 1 ++ rdB s b
  | .vfmul _ a b s => rdV a 1 ++ rdB s b
  | .vfma d a b s => rdV a 1 ++ rdB s b ++ rdV d 1
  | .vfms d a b s => rdV a 1 ++ rdB s b ++ rdV d 1
  | .vfnma d a b s => rdV a 1 ++ rdB s b ++ rdV d 1
  | .vfminNum _ a b s => rdV a 1 ++ rdB s b
  | .vfminProp _ a b s => rdV a 1 ++ rdB s b
  | .vfmaxNum _ a b s => rdV a 1 ++ rdB s b
  | .vfmaxProp _ a b s => rdV a 1 ++ rdB s b
  | .vfabs _ b s => rdB s b
  | .vfneg _ b s => rdB s b
  | .vfscale _ a b s => rdV a 1 ++ rdB s b
  | .vfround _ b s => rdB s b
  | .vfclass _ b s => rdB s b
  | .vfcmp _ _ a b s => rdV a 1 ++ rdB s b
  | .vcvt _ _ a s => rdV a (if 9 ≤ s.toNat then 2 else 1)
  | .vpkE4m3 _ a b s => rdV a 4 ++ rdB s b
  | .vpkE5m2 _ a b s => rdV a 4 ++ rdB s b
  | .vpkIo4 _ a b s => rdV a 8 ++ rdB s b
  | .vunpkE4m3 _ a b s => rdV a 1 ++ rdB s b
  | .vunpkE5m2 _ a b s => rdV a 1 ++ rdB s b
  | .vunpkIo4 _ a b s => rdV a 1 ++ rdB s b
  | .vhaddF16 _ a b s => rdV a 1 ++ rdB s b
  | .vhaddBf16 _ a b s => rdV a 1 ++ rdB s b
  | .vhmulF16 _ a b s => rdV a 1 ++ rdB s b
  | .vhmulBf16 _ a b s => rdV a 1 ++ rdB s b
  | .vhfmaF16 d a b s => rdV a 1 ++ rdB s b ++ rdV d 1
  | .vhfmaBf16 d a b s => rdV a 1 ++ rdB s b ++ rdV d 1
  | .vfrcp _ _ a => rdV a 1
  | .vfrsq _ _ a => rdV a 1
  | .vfsqrt _ _ a => rdV a 1
  | .vfexp2 _ _ a => rdV a 1
  | .vflog2 _ _ a => rdV a 1
  | .vfsin _ _ a => rdV a 1
  | .vfcos _ _ a => rdV a 1
  | .vfdot2Bf16 _ d a b => rdV a 1 ++ rdV b 1 ++ rdV d 1
  | .vfdot4Fp8 _ d a b => rdV a 1 ++ rdV b 1 ++ rdV d 1
  | .vshuf _ _ a b => rdAll a ++ rdV b 1
  | .vlrot _ _ a b => rdAll a ++ rdS b 1
  | .vscan _ _ a _ => rdV a 1
  | .vscanExcl _ _ a _ => rdV a 1
  | .vred _ _ a _ => rdV a 1
  | .vbcast _ _ a b => rdAll a ++ rdS b 1
  | .kand _ a b => rdK a ++ rdK b
  | .kor _ a b => rdK a ++ rdK b
  | .kxor _ a b => rdK a ++ rdK b
  | .knot _ a => rdK a
  | .kmov _ a => rdK a
  | .kpop _ a => rdK a
  | .kfirst _ a => rdK a
  | .vballot _ b => rdV b 1
  | .vrngRd _ => []
  | .vrngSeed _ b s => rdB s b
  | .vrngStep _ => []
  | .brZ s _ => rdS s 1
  | .brNz s _ => rdS s 1
  | .brLt s _ => rdS s 1
  | .brGe s _ => rdS s 1
  | .call _ _ => []
  | .jmp _ => []
  | .brkAny k _ => rdK k
  | .brkNone k _ => rdK k
  | .brd k _ => rdK k
  | .mark _ => []
  | .ret a => rdS a 1
  | .jmpReg a => rdS a 1
  | .callReg a _ => rdS a 1
  | .sld _ _ b _ _ => rdS b 1
  | .sst _ d b _ _ => rdS b 1 ++ rdS d 1
  | .vld _ _ b _ _ => rdS b 1
  | .vst z d b _ _ => rdS b 1 ++ rdV d (if z.toNat = 3 then 2 else 1)
  | .vldg _ _ b i _ => rdS b 1 ++ rdV i 1
  | .vsts z d b i _ => rdS b 1 ++ rdV i 1 ++ rdV d (if z.toNat = 3 then 2 else 1)
  | .spld _ _ b _ _ => rdS b 1
  | .spst z d b _ => rdS b 1 ++ rdV d (if z.toNat = 3 then 2 else 1)
  | .cld _ _ b _ _ => rdS b 1
  | .atomScalar p _ a b z => rdS a 1 ++ rdS b ((if p.toNat = 9 then 2 else 1) * (if z.toNat = 2 then 2 else 1))
  | .atomVector p a b z _ => rdV a 2 ++ rdV b ((if p.toNat = 9 then 2 else 1) * (if z.toNat = 1 then 2 else 1))
  | .red a b t => rdV a 2 ++ rdV b (if t.toNat = 1 then 2 else 1)
  | .redClose _ a => rdS a 1
  | .fenceRel _ => []
  | .fenceAr _ => []
  | .cp a b c _ _ => rdS a 1 ++ rdS b 1 ++ rdS c 1
  | .cpFill a b c => rdS a 1 ++ rdS b 1 ++ rdS c 1
  | .cpT _ _ c => rdS c 2
  | .stMc a b _ => rdS a 2 ++ rdS b 1
  | .pf a _ _ => rdS a 1
  | .zclaim _ _ => []
  | .zrel _ => []
  | .zzero _ => []
  | .oclaim _ _ => []
  | .orel _ => []
  | .oload _ _ c => rdS c 1
  | .mmul _ _ _ => []
  | .mloop _ _ _ k => [(.s (48 + 4 * k.toNat), false), (.s (49 + 4 * k.toNat), false), (.s (50 + 4 * k.toNat), false)]
  | .mdrain _ _ c _ => rdS c 1
  | .mfence _ => []
  | .mwait a => rdS a 1
  | .mstat _ => []
  | .tinv a b c _ => rdS a 1 ++ rdS b 1 ++ (if c = 0 then [] else rdS c 1)
  | .tprobe _ a _ => rdS a 1
  | .rteAnn _ a b => rdS a 1 ++ rdS b 1
  | .rteWd _ a b => rdS a 1 ++ rdS b 1
  | .rteRole _ a b => rdS a 1 ++ rdS b 1
  | .rteQ _ a _ => rdS a 1
  | .rteSync _ _ => []
  | .cobjDecl _ a _ => rdS a 1
  | .cobjDrop _ _ => []
  | .cobjSync _ _ => []
  | .cobjSyncShared _ _ => []
  | .cobjReclaim _ _ => []
  | .tdtSet _ a _ => rdS a 1
  | .tdtGet _ _ _ => []
  | .tdtDrop _ => []
  | .treeSet _ a _ => rdS a 2
  | .launch _ a => rdS a 1
  | .wlPush _ b _ => rdV b 2
  | .wlPop _ _ _ _ => []
  | .wlDone _ => []
  | .tierRec _ a b => rdS a 1 ++ rdS b 1
  | .tierHintUp _ a b => rdS a 1 ++ rdS b 1
  | .tierHintDown _ a b => rdS a 1 ++ rdS b 1
  | .tierQ _ a => rdS a 1
  | .waitc _ _ _ => []
  | .waitF _ => []
  | .bar _ _ => []
  | .pcrd _ _ => []
  | .trap _ => []
  | .rcp _ => []
  | .sysrd _ _ => []
  | .syswr b _ => rdS b 1
  | .halt _ a => rdS a 1
  | .hintLit _ => []
  | .hintLith _ => []
  | .hintDly _ => []
  | .hintFlg _ => []
  | .hintRnd _ _ _ => []
  | .hintScp _ _ => []
  | .hintNop _ _ => []
  | .nop => []
  | .join => []
  | .exit => []
  | .mresume => []
  | .mresumeAbandon => []
  | .tret => []
  | .yield => []
  | .fenceAcq0 => []
  | .fenceAcq1 => []
  | .fenceAcq2 => []
  | .fenceAcq3 => []
  | .fenceAcq4 => []
  | .fenceAcq5 => []
  | .fenceAcq6 => []
  | .fenceAcq7 => []
  | .fenceAcq8 => []
  | .fenceAcq9 => []
  | .fenceAcq10 => []
  | .fenceAcq11 => []
  | .fenceAcq12 => []
  | .fenceAcq13 => []
  | .fenceAcq14 => []
  | .fenceAcq15 => []
  | .hintMsk0 => []
  | .hintMsk1 => []
  | .hintMsk2 => []
  | .hintMsk3 => []
  | .hintMsk4 => []
  | .hintMsk5 => []
  | .hintMsk6 => []
  | .hintMsk7 => []
  | .hintMsk8 => []
  | .hintMsk9 => []
  | .hintMsk10 => []
  | .hintMsk11 => []
  | .hintMsk12 => []
  | .hintMsk13 => []
  | .hintMsk14 => []
  | .hintMsk15 => []
  | .hintRet0 => []
  | .hintRet1 => []
  | .hintRet2 => []
  | .hintRet3 => []
  | .groupTurn => []
  | .multiTurnComplete _ _ => []
  | .blockClearComplete _ => []
  | .groupRelease _ => []
  | .stallTimeout _ _ => []
  | .hurdlePass _ => []
  | .groupPlacement _ _ => []
  | .gangAgeExpire _ => []
  | .recordDone _ => []
  | .completionStore _ => []
  | .translationWalk _ _ _ _ => []
  | .tinvComplete _ => []
  | .storeBufferDrain _ => []
  | .writeApply _ => []
  | .writeReadable _ => []
  | .applyNotice _ => []
  | .echoReceive _ => []
  | .fillWrite _ => []
  | .echoAckReceive _ => []
  | .echoDeadline _ => []
  | .leaseRenewal _ => []
  | .renewalReceive _ => []
  | .leaseEnd _ _ => []
  | .readRequest _ => []
  | .refusalReroute _ => []
  | .loadComplete _ => []
  | .storeResponse _ => []
  | .invalidate _ => []
  | .relayReceive _ _ => []
  | .relayRefusal _ _ _ => []
  | .routerAnswer _ _ => []
  | .rteSyncDone _ _ => []
  | .holderAbsent _ _ => []
  | .cobjDirectoryRequest _ _ => []
  | .partialFold _ _ _ => []
  | .mergeChildArrive _ _ => []
  | .mergeNodeTimeout _ _ _ => []
  | .snoopRetry _ => []
  | .snoopTimeout _ => []
  | .multicastForward _ _ => []
  | .auditIntervalEnd _ _ => []
  | .copyStart _ => []
  | .copyComplete _ => []
  | .copyFault _ => []
  | .matrixCommandComplete _ => []
  | .matrixCommandFault _ => []
  | .ringKick _ => []
  | .ringReadSlot _ => []
  | .ringRetry _ => []
  | .contextSwitchOut _ => []
  | .tierMoveStart => []
  | .tierAnnounceAnswer _ _ => []
  | .tierFillDone _ => []
  | .tierHandoverAnswer _ _ => []
  | .tierMoveEnd _ => []
  | .tierFaultOffer _ => []
  | .announcementRequest _ _ _ _ => []
  | .announcementTimeout _ => []
  | .faultRecordOffer _ => []
  | .longParkSwitchout _ _ => []
  | .sliceEnd _ => []
  | .graceEnd _ => []
  | .deadlineExpire _ => []
  | .resetComplete _ => []
  | .contextResident _ => []
  | .flitReceive _ _ _ => []
  | .laneSpare _ _ => []
  | .linkFail _ _ => []
  | .linkUp _ _ _ => []
  | .sessionRekey _ _ => []
  | .hostSnoop _ _ => []
  | .hostMemRequest _ => []
  | .powerOn _ _ => []
  | .attest _ => []
  | .worldCreate _ => []
  | .worldGrant _ => []
  | .worldRevoke _ => []
  | .worldDestroy _ => []
  | .partSet _ => []
  | .ctxCreate _ => []
  | .ctxDestroy _ => []
  | .ctxPreempt _ => []
  | .ringSet _ => []
  | .ringKey _ => []
  | .powerCompare _ _ _ _ => []
  | .trayRemoveRequest => []
  | .trayCancel => []
  | .trayQuiesce => []
  | .trayPowerOff => []
  | .trayInsert => []
  | .wearUpdate _ _ _ _ => []
  | .partDescWrite _ _ => []
  | .tqWrite _ _ => []
  | .rteCostWrite _ => []
  | .cobjQWrite _ _ => []
  | .wlCfgWrite _ _ _ => []
  | .wlReset _ _ => []
  | .ringBaseWrite _ _ => []
  | .ringCtlWrite _ _ => []
  | .ringEnable _ _ => []
  | .ringDisable _ => []
  | .tierCfgWrite _ => []
  | .fqDone _ _ _ _ => []
  | .erqLostClear => []
  | .wdogWrite _ _ => []
  | .pcclr _ _ => []
  | .pwrCapWrite _ => []
  | .sysregWrite _ _ => []
  | .illegalOpcode _ => []
  | .softError _ _ => []
  | .dramLineAltered _ _ _ _ => []
  | .snoopReceive _ => []
  | .snoopAnswer _ => []
  | .itemClearComplete _ _ _ => []
  | .tierFillRead _ => []
  | .mailboxBadCmd _ => []

end Sys2Proof.Machine
end

