-- ==== Sys2Proof/Machine/Link.lean ====
section
/-! DEFINITION. The sending side of the Ovber ports: packets with their port sequence, flits in retry buffers, replays
(spec 21 R372-R374, R377; log entry 36). -/

namespace Sys2Proof.Machine

def State.link? (s : State) (port n : Nat) : Option Link := s.links.find? (fun l => l.port == port && l.n == n)

def State.setLink (s : State) (l : Link) : State :=
  { s with links := l :: s.links.filter (fun (x : Link) => !(x.port == l.port && x.n == l.n)) }

/-- The links of a port that are up, in order of their numbers. -/
def State.upLinks (s : State) (port : Nat) : List Link :=
  (List.range 4).filterMap (fun n => (s.link? port n).bind (fun l => if l.up then some l else none))

/-- The flits of a retry buffer (R373). -/
def retryMax : Nat := 512

/-- A link sends a packet in a new flit, which its retry buffer keeps: the flit carries the link's own acknowledgement and replay
request, and its nonce is the session of the direction followed by its flit count (R372, R373, R377). -/
def Link.send (l : Link) (pace : Nat) (p : Packet) : Link :=
  { l with
    retry := l.retry ++ [⟨⟨l.txSeq, l.rxSeq, p.chan, pace % 2 ^ 40, l.nak, true, true, [p]⟩, l.txSession * 2 ^ 64 + l.txFlits⟩]
    txSeq := (l.txSeq + 1) % 1024
    txFlits := l.txFlits + 1
    nak := none
    ackAt := if l.retry.isEmpty then pace else l.ackAt }

/-- A link replays the flits of its retry buffer from a sequence number onwards, in order, each under a new nonce; replays of one
flit are counted (R373, R374, R377). -/
def Link.replay (l : Link) (seq : Nat) : Link :=
  match l.retry.findIdx? (fun f => f.flit.seq == seq) with
  | none => l
  | some k =>
    let again := (l.retry.drop k).zipIdx.map (fun x => { x.1 with nonce := l.txSession * 2 ^ 64 + l.txFlits + x.2 })
    { l with
      retry := l.retry.take k ++ again
      txFlits := l.txFlits + again.length
      again := seq
      replays := if l.again = seq then l.replays + 1 else 1 }

/-- A port's send side of a channel. -/
def State.portTx (s : State) (port chan : Nat) : PortTx :=
  (s.txq.find? (fun t => t.port == port && t.chan == chan)).getD ⟨port, chan, 0, []⟩

def State.setPortTx (s : State) (t : PortTx) : State :=
  { s with txq := t :: s.txq.filter (fun (x : PortTx) => !(x.port == t.port && x.chan == t.chan)) }

/-- The link that takes a packet of a port: the surviving links take them in turn, in equal shares, and one whose retry buffer is
full is passed over (R373, R374). -/
def State.linkFor (s : State) (port seq : Nat) : Option Link :=
  let ls := s.upLinks port
  let k := if ls.isEmpty then 0 else seq % ls.length
  (ls.drop k ++ ls.take k).find? (fun l => decide (l.retry.length < retryMax))

/-- Packets of a channel that wait for room leave, the oldest first. -/
def State.drainTx (s : State) (port chan : Nat) : Nat → State
  | 0 => s
  | n + 1 =>
    let t := s.portTx port chan
    match t.queue with
    | [] => s
    | p :: ps =>
      match s.linkFor port p.seq with
      | none => s
      | some l => ((s.setPortTx { t with queue := ps }).setLink (l.send s.pace p)).drainTx port chan n

/-- The packets of a port that wait leave as far as there is room. -/
def State.drainPort (s : State) (port : Nat) : State :=
  (List.range 4).foldl (fun (s : State) c => s.drainTx port c (s.portTx port c).queue.length) s

/-- A packet is formed at a port with the next port sequence of its channel, and leaves by one of the links. What bytes a message
makes is not given: they are a free value (log entry 36). A port without links sends nothing (R374). -/
def State.sendPacket (s : State) (port chan : Nat) : State :=
  if (s.upLinks port).isEmpty then s
  else
    let body := (List.range 224).map (fun i => (Config.freeBits 1792 s.freeCount).extractLsb' (8 * i) 8)
    let t := s.portTx port chan
    let p : Packet := ⟨chan, t.next, body⟩
    let s : State := { s with freeCount := s.freeCount + 1 }
    let s := s.setPortTx { t with next := (t.next + 1) % 65536, queue := t.queue ++ [p] }
    s.drainTx port chan (t.queue.length + 1)

/-- The virtual channels: requests, answers, echoes and fills with their like, relays (log entry 36). -/
def chanReq : Nat := 0
def chanAnswer : Nat := 1
def chanData : Nat := 2
def chanRelay : Nat := 3

/-- The port by which a router reaches a holder of another package: the last port router of this package on the path that its table
gives for the holder, or for another holder of its package (10 R158, R159). -/
def State.portTo (s : State) (router fa holder : Nat) : Option Nat :=
  let own := ((s.routeEntry router fa).map RtEntry.holders).getD []
  let all := (s.routes.filter (fun e => e.router == router)).flatMap RtEntry.holders
  match (own.find? (fun h => h.holder == holder)).or (all.find? (fun h => h.holder / 256 == holder / 256)) with
  | none => none
  | some h => ((h.path.filter (fun p => decide (p / 256 = s.pkgNum ∧ 32 ≤ p % 256 ∧ p % 256 < 48))).getLast?).map (fun p => p % 256 - 32)

/-- A message for a holder or a package elsewhere leaves as a packet by the port on its way (R372); one within the package needs
none. -/
def State.sendTo (s : State) (router fa holder chan : Nat) : State :=
  if holder / 256 = s.pkgNum ∨ 2 ^ 24 ≤ holder then s
  else match s.portTo router fa holder with
    | none => s
    | some p => s.sendPacket p chan

end Sys2Proof.Machine
end

