-- ==== Sys2Proof/Machine/Line.lean ====
section
/-! DEFINITION. A line at its primary: atomics, the copies a write invalidates, the bytes a write leaves with their echoes, and the
reads and writes of the package's own units (spec 10 R164-R173, 13 R222-R227, 14 R241, R242, R247, 15 R253-R258). -/

namespace Sys2Proof.Machine

/-! ## Atomics (14 R241) -/

/-- The capability bit an atomic needs (R241, R169). -/
def atomCap (op size : Nat) : Nat :=
  if op < 9 then (if size = 8 then 1 else 0)
  else if op = 9 then (if size = 16 then 6 else if size = 8 then 5 else 0)
  else if op = 10 then 2
  else if op < 15 then 3
  else 4

/-- The new value of an atomic on `w`-bit values, and its flags (R241). -/
def atomOp (op : Nat) (w : Nat) (old x : Nat) : Nat × FpFlags :=
  let a := BitVec.ofNat w old
  let b := BitVec.ofNat w x
  let o32 := BitVec.ofNat 32 old
  let x32 := BitVec.ofNat 32 x
  let fp := fun (r : Word × FpFlags) => (r.1.toNat, r.2)
  match op with
  | 0 => ((a + b).toNat, 0)
  | 1 => ((a &&& b).toNat, 0)
  | 2 => ((a ||| b).toNat, 0)
  | 3 => ((a ^^^ b).toNat, 0)
  | 4 => ((if a.toInt ≤ b.toInt then a else b).toNat, 0)
  | 5 => ((if a.toInt ≤ b.toInt then b else a).toNat, 0)
  | 6 => (min a.toNat b.toNat, 0)
  | 7 => (max a.toNat b.toNat, 0)
  | 8 | 9 => (b.toNat, 0)
  | 10 => fp (fAdd32 rndPlain o32 x32)
  | 11 => fp (fMinMax32 true false o32 x32)
  | 12 => fp (fMinMax32 false false o32 x32)
  | 13 => fp (fMinMax32 true true o32 x32)
  | 14 => fp (fMinMax32 true true (o32 &&& 0x7FFFFFFF) (x32 &&& 0x7FFFFFFF))
  | 15 => let r := halfLane .add fmtBf16 rndPlain 0 o32 x32 0; (r.1.toNat, r.2.1)
  | _ => let r := halfLane .add fmtF16 rndPlain 0 o32 x32 0; (r.1.toNat, r.2.1)

/-! ## Copies of a line (13 R222, R223, 15 R256) -/

/-- A load goes to the primary from the start: an acquire at package scope or wider (14 R238). -/
def MemOp.atPrimary (o : MemOp) : Bool := match o.acq with | some x => decide (3 ≤ x) | none => false

/-- Values of a line that a group has read and not completed are taken again, with its floor as it then stands; a value of the
group's own stores stays (15 R256). Constant loads are watched for `tinv` only (13 R216). -/
def Group.retake (g : Group) (line : Nat) (const : Bool) : Group :=
  { g with acc := { g.acc with ops := g.acc.ops.map (fun (o : MemOp) =>
      if o.kind == OpKind.load && (const || !o.const) then
        { o with reqs := o.reqs.map (fun (r : LineReq) =>
            if r.line == line && r.served && r.source != 0 then
              { r with served := false, routed := 0, gone := [], toPrim := o.atPrimary }
            else r) }
      else o) } }

/-- A group watches a value of a line (15 R256). -/
def Group.watches (g : Group) (line : Nat) : Bool :=
  g.acc.ops.any (fun o => o.kind == OpKind.load && !o.const &&
    o.reqs.any (fun r => r.line == line && r.served && r.source != 0))

/-- Every group, resident or switched out. -/
def State.everyGroup (s : State) : List Group := s.groups ++ s.out.map OutGroup.group

/-- Changes every group, resident or switched out. -/
def State.mapEvery (s : State) (f : Group → Group) : State :=
  let s := s.mapGroups f
  { s with out := s.out.map (fun (o : OutGroup) => { o with group := f o.group }) }

/-- L1 lines of a core and a fabric line leave it; values read and not yet completed are taken again (15 R256). `const` takes
constant lines too, which stores do not invalidate (13 R216). -/
def State.dropFrom (s : State) (const : Bool) (core line : Nat) : State :=
  let s := { s with l1 := s.l1.filter (fun (l : L1Line) => !(l.core == core && l.fline == line && (const || !l.const))) }
  s.mapEvery (fun g => if g.place.core = core then g.retake line const else g)

/-- An invalidation of a line reaches a core (13 R222). -/
def State.dropL1 (s : State) (core line : Nat) : State := s.dropFrom false core line

/-- The cores that hold a line in L1 or a value of it that is watched. -/
def State.coresOf (s : State) (line : Nat) : List Nat :=
  ((s.l1.filter (fun l => l.fline == line && !l.const)).map L1Line.core ++
    (s.everyGroup.filter (fun g => g.watches line)).map (fun g => g.place.core)).eraseDups

/-- A line leaves an L2; a line that has been written there goes back to its holder first (13 R220). -/
def State.dropL2 (s : State) (place line : Nat) : State :=
  match s.tags.find? (fun t => t.place == place && t.line == line) with
  | some t => s.evictTag t
  | none => s

/-- The slice directory: the cores of a slice that hold a line. It tracks exactly the copies there are, so it is read off them
(13 R222, log entry 8). -/
def State.sliceDir (s : State) (slice line : Nat) : List Nat := (s.coresOf line).filter (fun c => decide (sliceOf c = slice))

/-- The die directory: the slices of a die whose directories hold sharers of a line (13 R222). -/
def State.dieDir (s : State) (die line : Nat) : List Nat :=
  ((List.range 3).map (fun i => 3 * die + i)).filter (fun n => !(s.sliceDir n line).isEmpty)

/-- The package directory: the dies that hold a line in their L2, each with the place of its copy (13 R222). -/
def State.pkgDir (s : State) (line : Nat) : List (Nat × Nat) :=
  (s.tags.filter (fun t => t.line == line && decide (t.place < 12))).map (fun t => (t.place / 3, t.place))

/-- The copies of a line that a write invalidates, in the order in which the directories forward it, below each die its
cores and then its L2: cores by number, an L2 as 1000 and its place. The copy at the serialisation point `here` is written, not
invalidated (13 R220, R222). -/
def State.copiesAt (s : State) (here : Option Nat) (line : Nat) : List Nat :=
  let l2s := s.pkgDir line
  (List.range 4).flatMap (fun d => (s.dieDir d line).flatMap (fun n => s.sliceDir n line) ++
    (l2s.filter (fun x => decide (x.1 = d) && here != some x.2)).map (fun x => 1000 + x.2))

/-- The copies that a write at a primary invalidates. -/
def State.copiesOf (s : State) (prim line : Nat) : List Nat := s.copiesAt (s.serSlice prim) line

/-- A copy acknowledges its invalidation. -/
def State.dropOne (s : State) (line c : Nat) : State := if 1000 ≤ c then s.dropL2 (c - 1000) line else s.dropL1 c line

/-- Every copy of a line that a primary does not write is gone (13 R222). -/
def State.voidLine (s : State) (prim line : Nat) : State := (s.copiesOf prim line).foldl (fun s c => s.dropOne line c) s

/-- A slice directory evicts its entry of a line: every copy that it tracks is invalidated first (13 R222). -/
def State.evictDir (s : State) (slice line : Nat) : State := (s.sliceDir slice line).foldl (fun s c => s.dropL1 c line) s

/-- The package directory evicts its entry of a line for a die: the copies of the die are invalidated, slice by slice, and then its
L2's, which is written back where it has been written (13 R220, R222). -/
def State.evictDie (s : State) (die line : Nat) : State :=
  let s := (s.dieDir die line).foldl (fun s n => s.evictDir n line) s
  ((s.pkgDir line).filter (fun x => decide (x.1 = die))).foldl (fun (s : State) (x : Nat × Nat) => s.dropL2 x.2 line) s

/-! ## Holders -/

/-- The router whose table lists the other holders of a primary: its own; for a primary of another package, CD0's
(log entry 45). -/
def State.primRouter (s : State) (prim : Nat) : Nat := if prim / 256 = s.pkgNum then prim else s.localId 0

/-- The echo set of a primary for an address, with the prefix: the other holders its router lists, and those it has taken over with
the baton (10 R164, R173). -/
def State.echoSet (s : State) (prim addr : Nat) : List Nat × Prefix :=
  match s.routeEntry (s.primRouter prim) addr with
  | none => ([], ⟨0, 52⟩)
  | some e =>
    let own := (e.holders.filter (fun h => h.holder != prim)).map RtHolder.holder
    let more := ((s.holderState prim addr).map HolderSt.extra).getD []
    (own ++ more.filter (fun h => !own.contains h), e.pre)

/-- The lease that a holder has announced, in nanoseconds. -/
def State.leaseOf (s : State) (holder addr : Nat) : Nat := 1000 * ((s.holderState holder addr).map HolderSt.lease).getD 0

/-- The name under which a package that holds leased copies of lines stands in an echo set (13 R223). -/
def sharerId (pkg : Nat) : Nat := pkg * 256 + 255

/-- The packages that hold a line of a primary here under a lease that still runs (13 R223). -/
def State.sharersOf (s : State) (prim line : Nat) : List Nat :=
  ((s.sharers.filter (fun x => x.prim == prim && x.line == line && decide (s.pace < x.sent + s.leaseOf prim line))).map
    (fun x => sharerId x.pkg)).eraseDups

/-! ## Writing at a primary (10 R164, 13 R220, R222) -/

/-- The tree entry by which a multicast store's packet leaves its port, 0 where it drops it (12 R210). -/
def State.treeOf (s : State) (port n vdid : Nat) : Nat :=
  let v := (((s.trees.find? (fun e => e.port == port && e.n == n)).map TreeEntry.val).getD 0).toNat
  if bitsOf v 63 63 = 1 ∧ bitsOf v 61 56 = vdid then v else 0

/-- A tree entry delivers to a holder of this package. -/
def State.delivers (s : State) (entry holder : Nat) : Bool :=
  decide (holder / 256 = s.pkgNum) &&
    (if holder % 256 = 0 then decide (bitsOf entry 28 28 = 1)
     else decide (16 ≤ holder % 256) && decide (holder % 256 < 28) && decide (bitsOf entry 27 16 / 2 ^ (holder % 256 - 16) % 2 = 1))

/-- Echoes of applied bytes leave for the echo set, and invalidations for the holders of leased copies; `tree` is the entry of a
multicast packet, which reaches the members it delivers to (10 R164, 13 R223, 14 R247). An owner's write is not echoed before it is
written back: `own` leaves the invalidations only (26 R397). -/
def State.sendEchoes (s : State) (id prim addr : Nat) (bs : List Byte) (tree : Nat) (own : Bool) : State × List Nat :=
  let (dsts, pre) := s.echoSet prim addr
  let dsts := if own then [] else dsts
  let far := s.sharersOf prim (lineBase addr)
  let send := fun (inval : Bool) (s : State) (d : Nat) =>
    let (n, s) := s.fresh
    let e : Echo := ⟨n, id, prim, d, pre, addr, bs, s.pace, !inval && s.delivers tree d, inval⟩
    { s with echoes := s.echoes ++ [e] }.sendTo (s.primRouter prim) addr d chanData
  (far.foldl (send true) (dsts.foldl (send false) s), dsts ++ far)

/-- Bytes are applied at a primary: the line at its serialisation point, its stamp, and the echoes to the echo set and the
invalidations of leased copies. `mc` gives the carillon tree and port of `st.mc`: the members its entry delivers to are reached by
the packet, the others by an ordinary echo (14 R247). `place` is the slice of an owner (11 R184). -/
def State.applyBytes (s : State) (id prim addr : Nat) (bs : List Byte) (mc : Option (Nat × Nat)) (vdid ctx cls : Nat) (place : Option Nat) :
    State × List (Nat × Option Nat) :=
  let s := s.storeAt (place.or (s.serSlice prim)) prim addr ctx cls bs
  let s := s.setLine { s.lineAt prim addr with wct := s.pace, last := id }
  let mc := if prim / 256 = s.pkgNum ∧ place.isNone then mc else none
  let tree := match mc with | some (t, p) => s.treeOf p t vdid | none => 0
  let s : State := match mc with
    | none => s
    | some (t, p) => { s with mcast := s.mcast ++ [⟨p, id, ⟨t, vdid, 16, prim, addr, bs, s.pace, id⟩⟩] }
  let (s, dsts) := s.sendEchoes id prim addr bs tree place.isSome
  (s, dsts.map (fun d => (d, none)))

/-- The effect of a write on its line: the old value, and the bytes and flags where it writes (14 R242, 10 R173). -/
def State.effect (s : State) (w : WriteReq) : Nat × Option (List Byte) × FpFlags :=
  match w.kind with
  | .bytes d | .fill d => (0, some d, 0)
  | .atomic op size x cmp =>
    let old := ofLeBytes (s.bytesAt w.prim w.addr size)
    if op = 9 ∧ old ≠ cmp % 2 ^ (8 * size) then (old, none, 0)
    else
      let r := atomOp op (8 * size) old x
      (old, some (leBytes size r.1), r.2)
  | .fold _ _ _ _ _ _ => (0, none, 0)

def State.modWrite (s : State) (id : Nat) (f : WriteReq → WriteReq) : State :=
  { s with writes := s.writes.map (fun (w : WriteReq) => if w.id == id then f w else w) }

def State.write? (s : State) (id : Nat) : Option WriteReq := s.writes.find? (fun w => w.id == id)

/-- The bytes of a write's packet. -/
def WriteReq.bytes (w : WriteReq) : Nat :=
  match w.kind with
  | .bytes d | .fill d => d.length
  | .atomic _ size _ _ => size
  | .fold _ _ _ _ _ _ => 4

/-- A write is on its way to its primary; to one of another package its request leaves by a link (21 R372). -/
def State.routeTo (s : State) (w : WriteReq) : State := s.sendTo (s.dieRouter w.core) w.addr w.prim chanReq

/-- A write leaves for the primary of its line; over a link its bytes count for its context (20 R362). -/
def State.sendWrite (s : State) (w : WriteReq) : State :=
  let s : State := { s with writes := s.writes ++ [w] }
  (if w.prim / 256 = s.pkgNum ∨ 2 ^ 24 ≤ w.prim then s else s.count w.ctx 9 w.bytes).routeTo w

/-- A write whose request ends without effect (10 R171, 11 R197). -/
def State.failWrite (s : State) (n cause : Nat) : State :=
  s.modWrite n (fun w => { w with phase := .answered, notice := true, err := some cause })

/-- The line's only current copy, in the L2 that has written it, holds an uncorrectable error (13 R229). -/
def State.badCopy (s : State) (holder fa : Nat) : Bool :=
  s.tags.any (fun t => t.holder == holder && t.line == lineBase fa && t.bad)

/-- The reader of such a line has met the error: the line is poisoned (13 R229). -/
def State.poisonBad (s : State) (fa : Nat) : State :=
  (s.tags.filter (fun t => t.line == lineBase fa && t.bad)).foldl (fun (s : State) (t : TagLine) =>
    let s := s.setLine { s.lineAt t.holder fa with poison := true }
    { s with tags := s.tags.map (fun (x : TagLine) => if x = t then { x with bad := false } else x) }) s

/-- An atomic reads its line where it is serialised (13 R227); every other write reads nothing. -/
def State.readOld (s : State) (w : WriteReq) : State :=
  match w.kind with
  | .atomic _ _ _ _ =>
    if ((w.place.or (s.serSlice w.prim)).map (fun p => s.hasTag p (lineBase w.addr))).getD false then
      (if w.place.isSome then s else s.unitReadAs w.prim w.addr w.ctx w.ret)
    else (s.countRead w.ctx w.prim w.addr).unitReadAs w.prim w.addr w.ctx w.ret
  | _ => s

/-- A write whose copies have all acknowledged becomes readable: that is its apply time (15 R258). The line may have been granted
to another world meanwhile (13 R226), and an atomic may meet an error in it (13 R229). -/
def State.makeReadable (s : State) (w : WriteReq) : State :=
  let reads := match w.kind with | .atomic _ _ _ _ => true | _ => false
  if !s.worldOk w.prim w.addr w.world then s.failWrite w.id 15
  else if reads && s.badCopy w.prim w.addr then (s.poisonBad w.addr).failWrite w.id 16
  else
    let s := s.readOld w
    let (old, bs, fl) := s.effect w
    match bs with
    | none =>
      let t := (s.lineAt w.prim w.addr).wct
      s.modWrite w.id (fun w => { w with phase := .applied, invs := [], time := t, old := old, flags := fl, echo := [], wct := t })
    | some d =>
      let s := if w.prim / 256 = s.pkgNum ∨ w.place.isSome then s.countWrite (w.place.or (s.serSlice w.prim)) w.ctx w.addr w.ret else s
      let (s, e) := s.applyBytes w.id w.prim w.addr d w.tree w.vdid w.ctx w.ret w.place
      let s := if w.bad then s.setLine { s.lineAt w.prim w.addr with poison := true } else s
      s.modWrite w.id (fun w => { w with phase := .applied, invs := [], time := s.pace, old := old, flags := fl, echo := e, wct := s.pace })

/-! ## Echoes at their holders (10 R164, R172) -/

/-- Changes the record of a holder for a prefix. -/
def State.modHolder (s : State) (pre : Prefix) (holder : Nat) (f : HolderSt → HolderSt) : State :=
  { s with holders := s.holders.map (fun (h : HolderSt) => if h.pre == pre && h.holder == holder then f h else h) }

/-- Changes the records of a holder that cover an address. -/
def State.mapHeld (s : State) (holder : Nat) (f : HolderSt → HolderSt) (addr : Nat) : State :=
  { s with holders := s.holders.map (fun (h : HolderSt) => if h.holder == holder && prefixCovers h.pre addr then f h else h) }

/-- Bytes written at a holder that is not the primary: no echo follows. -/
def State.copyBytes (s : State) (holder addr : Nat) (bs : List Byte) (stamp : Nat) : State :=
  let s := s.dramWrite holder addr bs
  s.setLine { s.lineAt holder addr with wct := stamp, last := 0 }

/-- The leased copies of a line leave this package (13 R223). -/
def State.dropLeased (s : State) (line : Nat) : State := s.voidLine (2 ^ 24) line

/-- A holder takes an echo: it applies the bytes, which a FILLING holder marks as echoed and a DRAINING one ignores, and
acknowledges with the time (R164, R172); a leased copy is invalidated (13 R223). -/
def State.takeEcho (s : State) (e : Echo) : State :=
  let s := { s with echoes := s.echoes.erase e }.mapHeld e.dst (fun h => { h with
    kept := h.kept.filter (fun l => l != lineBase e.addr) }) e.addr
  let st := (s.holderState e.dst e.addr).map HolderSt.st
  let s :=
    if e.inval then (if e.dst / 256 = s.pkgNum then s.dropLeased (lineBase e.addr) else s)
    else if st = some .draining then s
    else
      let s := s.copyBytes e.dst e.addr e.data e.time
      if st = some .filling then
        s.modHolder e.pre e.dst (fun h => { h with
          echoed := h.echoed ++ ((List.range e.data.length).map (fun i => e.addr + i)).filter (fun a => !h.echoed.contains a) })
      else s
  if e.write = 0 then s.sendTo e.dst e.addr e.src chanAnswer
  else
    let (i, s) := s.fresh
    { s with acks := s.acks ++ [⟨i, e.write, e.dst, s.pace⟩] }

/-! ## The package's own units at a line -/

/-- Where a request that has to reach the primary comes to from a holder: an old primary forwards to the one that has the baton, which may
have passed it on. Whether it is a primary there, and the holder (10 R170, R173). -/
def State.heir (s : State) (fa : Nat) : Nat → Nat → Bool × Nat
  | 0, h => (false, h)
  | n + 1, h =>
    match s.holderState h fa with
    | none => (decide (h / 256 ≠ s.pkgNum), h)
    | some x =>
      match x.st, x.next with
      | .primary, _ => (true, h)
      | .filling, some y | .replica, some y => s.heir fa n y
      | _, _ => (false, h)

/-- The primary that serves a unit of the package whose requests start at a router: one that is DRAINING or gone refuses, and an
old primary forwards to the one that has the baton (10 R170, R173). -/
def State.homeFrom (s : State) (router fa : Nat) : Nat → List Nat → Option RtHolder
  | 0, _ => none
  | n + 1, gone =>
    match s.routeWrite router fa gone with
    | none => none
    | some h =>
      match s.heir fa 16 h.holder with
      | (true, y) => some { h with holder := y }
      | (false, y) => s.homeFrom router fa n (h.holder :: y :: gone)

/-- The primary of an address for the package's units behind CD0's router. -/
def State.home (s : State) (fa : Nat) : Option RtHolder := s.homeFrom (s.localId 0) fa 16 []

/-- A write that is invalidating copies becomes readable at once. -/
def State.landWrite (s : State) (w : WriteReq) : State :=
  (w.invs.foldl (fun s c => s.dropOne (lineBase w.addr) c) s).makeReadable w

/-- An access of a unit queues at the primary behind what its line waits for: echoes on their way to the holder arrive, and a
write that is invalidating copies becomes readable (15 R258, 10 R173). -/
def State.settleLine (s : State) (holder fa : Nat) : State :=
  if !s.lineWaits holder fa then s
  else
    let s := if s.echoes.any (fun e => e.dst == holder && lineBase e.addr == lineBase fa) then
        (s.echoes.filter (fun e => e.dst == holder)).foldl State.takeEcho s
      else s
    (s.writes.filter (fun w => w.phase == .invalidating && lineBase w.addr == lineBase fa)).foldl State.landWrite s

/-- A unit's access arrives at the lines of `n` bytes: they settle, and each is read where it lies (R227). -/
def State.arrive (s : State) (world a n : Nat) : State :=
  (List.range ((a % 64 + n + 63) / 64)).foldl (fun (s : State) (i : Nat) =>
    let fa := lineBase a + 64 * i
    match s.home fa with
    | none => s
    | some h =>
      let s := s.settleLine h.holder fa
      if s.worldOk h.holder fa world && !(s.lineAt h.holder fa).poison then s.unitRead h.holder fa else s) s

/-- A read by a unit of the package: the bytes, and none where there is no route, the line is another world's or it is poisoned
(R226). It never crosses a line. -/
def State.engineRead (s : State) (world a n : Nat) : Option (List Byte) :=
  match s.home a with
  | none => none
  | some h =>
    if s.worldOk h.holder a world && !(s.lineAt h.holder a).poison then some (s.bytesAt h.holder a n) else none

/-- A read of bytes that may cross lines. -/
def State.engineReadN (s : State) (world a : Nat) : Nat → Option (List Byte)
  | 0 => some []
  | n + 1 =>
    match s.engineRead world a 1, State.engineReadN s world (a + 1) n with
    | some b, some bs => some (b ++ bs)
    | _, _ => none

/-- A little-endian number read by a unit. -/
def State.engineNum (s : State) (world a n : Nat) : Option Nat := (s.engineReadN world a n).map ofLeBytes

/-- A write of a unit of the package is applied by `act` at a primary that its line lets it reach: copies in this package's caches are
invalidated (R222), and the other holders are sent echoes (R164). Where any is, the write stays until they have answered, and its
WCT becomes the line's stamp (R165, R167). -/
def State.unitApply (s : State) (origin : Origin) (world vdid prim addr : Nat) (bs : List Byte)
    (act : Nat → State → State × List (Nat × Option Nat)) : State :=
  let s := s.voidLine prim (lineBase addr)
  if (s.echoSet prim addr).1.isEmpty && (s.sharersOf prim (lineBase addr)).isEmpty then (act 0 s).1
  else
    let (id, s) := s.fresh
    let (s, e) := act id s
    { s with writes := s.writes ++ [⟨id, origin, 65535, world, vdid, 65535, addr, addr, 1, .bytes bs, prim, 0, [], none, .applied, [],
      s.pace, 0, 0, e, s.pace, true, false, none, [], none⟩] }

/-- A unit's write where its line is serialised. -/
def State.unitWrite (s : State) (origin : Origin) (world vdid prim addr : Nat) (bs : List Byte) : State :=
  s.unitApply origin world vdid prim addr bs (fun id s => s.applyBytes id prim addr bs none vdid 65535 1 none)

/-- A write by a unit of the package at the primary of its line, through CD0's router; no effect where there is no route or the
line is another world's. -/
def State.engineWrite (s : State) (world a : Nat) (bs : List Byte) : State :=
  match s.home a with
  | none => s
  | some h =>
    let s := s.settleLine h.holder a
    if s.worldOk h.holder a world then s.unitWrite .engine world 0 h.holder a bs else s

end Sys2Proof.Machine
end

