-- ==== Sys2Proof/Machine/Reset.lean ====
section
/-! DEFINITION. Error records (spec 19 R343, R344) and forced context reset (19 R337). -/

namespace Sys2Proof.Machine

/-- What an error record says beside its time (R343). -/
structure ErrInfo where
  cause  : Nat
  world  : Nat
  vdid   : Nat
  core   : Nat
  cls    : Nat
  page   : Nat
  detail : List DWord
  /-- The context that raised it is confidential: words 3 to 7 are zero (R344). -/
  conf   : Bool

/-- A record for the error record queue: written where its slot is free, else dropped and counted (R343). -/
def State.errorRecord (s : State) (e : ErrInfo) : State :=
  let base := bitsOf s.pkg.erq.toNat 63 12 * 4096
  let n := 2 ^ (s.pkg.erq.toNat % 16 + 6)
  let slot := base + 64 * (s.pkg.erqPos % n)
  let lost := fun (s : State) => { s with pkg := { s.pkg with
    erqLost := if s.pkg.erqLost.toNat + 1 < 2 ^ 32 then s.pkg.erqLost + 1 else 0xFFFFFFFF#64 } }
  if base = 0 then lost s
  else
    let s := s.arrive 0 slot 8
    match s.engineNum 0 slot 8 with
    | none => lost s
    | some w =>
      if w / 2 ^ 63 = 1 then lost s
      else
        let w0 := 2 ^ 63 + e.cause * 2 ^ 48 + e.world * 2 ^ 40 + e.vdid * 2 ^ 34 + sliceOf e.core * 2 ^ 30 +
          e.core % 12 * 2 ^ 26 + e.cls * 2 ^ 22
        let ds := if e.conf then [] else e.detail
        let bs := leBytes 8 w0 ++ leBytes 8 s.pace ++ leBytes 8 (e.page / 2 ^ 21 * 2 ^ 21) ++
          ((List.range 5).map (fun i => leBytes 8 ((ds[i]?).getD 0).toNat)).flatten
        let s := s.engineWrite 0 slot bs
        { s with pkg := { s.pkg with erqPos := (s.pkg.erqPos + 1) % n } }

/-- An error record of a context, without address: its core and its detail (R343). -/
def State.ctxError (s : State) (ctx cause cls core : Nat) (detail : List DWord) : State :=
  match s.ctx? ctx with
  | none => s
  | some c => s.errorRecord ⟨cause, c.world, c.vdid, core, cls, 0, detail, c.conf⟩

/-- The words of a trap record as the detail of an error record (R343). -/
def TrapEntry.words (e : TrapEntry) : List DWord := [e.t0, e.t1, e.t2, e.t3, e.t4]

/-- A group that never issues again: every split is free, nothing is queued for it (R337 steps 1 to 3). -/
def Group.ended (g : Group) : Group :=
  { g with
    ctl := { g.ctl with splits := Vector.replicate 4 Split.free, stack := [], parked := false,
                        unfinished := [], exited := true, handler := none }
    trap := { g.trap with queue := [], inh := false, missing := 0, deferred := [], pendAct := none }
    mat := { g.mat with held := [], fault := none, released := [] } }

/-- A reset context's commands that have not started leave the tier engine, but one that others wait for (18 R314). -/
def Tier.forget (t : Tier) (ctx : Nat) (uids : List Nat) : Tier :=
  let cut := fun (c : TierCmd) => { c with waiters := c.waiters.filter (fun w => !uids.contains w.uid) }
  { cmds := (t.cmds.map cut).filter (fun c => c.ctx != ctx || !c.waiters.isEmpty)
    moves := t.moves.map (fun (m : Move) => { m with cmd := cut m.cmd })
    offered := t.offered.filter (fun w => w.ctx != ctx || !uids.contains w.uid) }

/-- The scratchpad region of a team without a group on its core is cleared and released, once no copy names it (02 R33,
14 R244). -/
def State.freeRegion (s : State) (core launch : Nat) : State :=
  if s.seated.any (fun x => x.core == core && x.launch == launch) ||
      s.copies.any (fun c => c.core == core && c.team == launch && c.node.isNone) then s
  else { s with scratch := s.scratch.filter (fun (r : Region) => !(r.core == core && r.launch == launch)) }

/-- The blocks of a place are being cleared, and with the last of its team its scratchpad region is released (05 R85). -/
def State.leaveSeat (s : State) (p : Place) : State :=
  let s : State := { s with clearing := s.clearing ++ [⟨p.core, p.slot, p.nregs / 8, s.cycle + 16⟩] }
  s.freeRegion p.core p.launch

/-- Positions without items at either end are passed: at the tail they are free again, at the head there is nothing to pop. -/
def WorkList.trim (w : WorkList) : Nat → WorkList
  | 0 => w
  | n + 1 =>
    match w.void.find? (fun v => (v.1 + v.2) % 2 ^ 40 == w.tail || v.1 == w.head) with
    | none => w
    | some v =>
      let x := { w with void := w.void.erase v }
      (if (v.1 + v.2) % 2 ^ 40 = w.tail then { x with tail := v.1 } else { x with head := (v.1 + v.2) % 2 ^ 40 }).trim n

/-- A reservation whose bundle stops ends without items (19 R322). -/
def WorkList.cancel (w : WorkList) (first : Nat) : WorkList :=
  let mine := fun (r : Nat × Nat) => r.1 == first
  let w := { w with resv := w.resv.filter (fun r => !mine r), void := w.void ++ w.resv.filter mine }
  w.trim w.void.length

/-- The reservations of a group whose `wl.push` waits: list and first position. -/
def Group.pushes (g : Group) : List (Nat × Nat) :=
  g.ctl.splits.toList.filterMap (fun sp => match sp.wait with
    | .push _ n first _ _ => some (n, first)
    | .answer .push _ _ y => some (y % 64, y / 64)
    | _ => none)

/-- Forced context reset (R337): ends every group, discards its commands and fault records, records its leaves as
closed and ends its records with RESET. A group with operations in flight keeps its storage until they have completed or ended. It
completes with the event RESET_COMPLETE. -/
def State.resetAs (s : State) (ctx cause core : Nat) (detail : List DWord) : State :=
  let s := s.ctxError ctx cause 11 core detail
  let vdid := ((s.ctx? ctx).map Ctx.vdid).getD 64
  let gone := (s.groups.filter (fun g => g.place.ctx == ctx)) ++ ((s.out.map OutGroup.group).filter (fun g => g.place.ctx == ctx))
  let leaves := gone.map (fun g => g.place.flat)
  let uids := gone.map (fun g => g.place.uid)
  let part := ((s.ctx? ctx).map Ctx.part).getD 64
  let pushes := gone.flatMap Group.pushes
  let s := s.mapGroups (fun g => if g.place.ctx == ctx then g.ended else g)
  let s := { s with
    out := (s.out.filter (fun (o : OutGroup) => o.group.place.ctx != ctx || o.kept)).map (fun (o : OutGroup) =>
      if o.group.place.ctx == ctx then { o with group := o.group.ended } else o)
    mqueue := s.mqueue.filter (fun c => c.ctx != ctx)
    tlb := s.tlb.filter (fun e => e.ctx != ctx)
    wls := s.wls.map (fun (w : WorkList) => if w.part = part then
      (pushes.filter (fun (p : Nat × Nat) => p.1 == w.n)).foldl (fun (w : WorkList) (p : Nat × Nat) => w.cancel p.2) w else w)
    partials := s.partials.filter (fun p => !(p.ordered && uids.contains p.uid))
    objs := s.objs.map (fun (o : ObjEntry) =>
      if o.vdid == vdid && o.st == ObjSt.update && o.isOpen then
        { o with closed := o.closed ++ leaves.filter (fun l => !o.closed.contains l) }
      else o)
    faults := s.faults.filter (fun f => f.ctx != ctx)
    tier := s.tier.forget ctx uids
    recs := s.recs.map (fun (r : LRec) =>
      if r.ctx == ctx && r.st != RecSt.finishing && r.st != RecSt.refused then { r with st := .refused, status := 10 }
      else r) }
  s.modCtx ctx (fun c => { c with reset := some cause, preempt := .none, tdt := [] })

/-- A reset that no group's own trap has caused: its record names the core of a group of the context, where one is resident. -/
def State.resetContext (s : State) (ctx cause : Nat) : State :=
  s.resetAs ctx cause (((s.groups.find? (fun g => g.place.ctx == ctx)).map (fun g => g.place.core)).getD 0) []

/-- DOUBLE_TRAP of the group whose turn it is, with the record that could not be taken (R325, R328). -/
def State.doubleTrap (s : State) (e : TrapEntry) : State := s.resetAs s.cur.place.ctx 33 s.cur.place.core e.words

end Sys2Proof.Machine
end

