-- ==== Sys2Proof/Machine/Ops.lean ====
section
/-! DEFINITION. The shared operations of every instruction: its issue with the checks of spec 04 R81, taking a trap
(19 R322-R329) and returning from one (R326), holding a split (02 R39), parking (19 R330), and the results of
multi-turn instructions (02 R41, 06 R107). -/

namespace Sys2Proof.Machine

/-! ## Trap records (19 R329) -/

/-- `trec0` from its fields. -/
def trec0 (cause split ppl : Nat) (deferred : Bool) (inner stage level count : Nat) : DWord :=
  BitVec.ofNat 64 (cause % 256 + split % 4 * 2 ^ 30 + ppl % 4 * 2 ^ 32 + deferred.toNat * 2 ^ 29 +
    inner % 256 * 2 ^ 40 + stage % 4 * 2 ^ 27 + level % 4 * 2 ^ 25 + count % 65536 * 2 ^ 48)

/-- The address of the first word of the bundle at the issuing split (04 R78). -/
def State.bundlePc (s : State) : BitVec 48 := if s.hints.active then s.hints.start else s.pc

/-- An entry of the issuing split: cause, resume address, `trec2`, `trec3`, `trec4`. -/
def State.entry (s : State) (cause : Nat) (resume : BitVec 48) (addr opc info : Nat) : TrapEntry :=
  ⟨trec0 cause s.cur.ctl.iss.val s.cur.trap.pl false 0 0 0 0, resume.setWidth 64, BitVec.ofNat 64 addr,
    BitVec.ofNat 64 opc, BitVec.ofNat 64 info⟩

/-- Whether an entry is of a deferred cause. -/
def TrapEntry.isDeferred (e : TrapEntry) : Bool := decide (bitsOf e.t0.toNat 29 29 = 1)

/-- An entry joins the trap queue; a fifth makes the fourth a TRAP_OVERFLOW entry (R327). -/
def enqueueTrap (q : List TrapEntry) (e : TrapEntry) : List TrapEntry :=
  if q.length < 4 then q ++ [e]
  else match q with
    | [a, b, c, d] =>
      let n := if bitsOf d.t0.toNat 7 0 = 26 then min 65535 (bitsOf d.t0.toNat 63 48 + 1) else 2
      [a, b, c, { d with t0 := BitVec.ofNat 64 (setBits (setBits d.t0.toNat 7 0 26) 63 48 n) }]
    | _ => q

/-- The vector of a trap at a level: `tvec2` for PL2, else the context's `tvec1` (R324, R325). -/
def State.vector (s : State) (ppl : Nat) : BitVec 46 :=
  let v := if ppl = 2 then s.pkg.tvec2 else (s.myCtx.map Ctx.tvec1).getD 0
  (v >>> 2).setWidth 46

/-- A split at the start of a bundle, waiting for nothing. -/
def Split.goto (sp : Split) (a : BitVec 48) : Split :=
  { sp with pc := a, bundle := Bundle.none, wait := .none, wdog := 0 }

/-- The wait of a split is of an instruction that has issued already. -/
def Wait.issued : Wait → Bool
  | .none | .flag | .waitc _ _ _ | .acq | .room | .mwait _ | .join _ _ _ | .exit _ _ _ => false
  | .bar _ _ i => i
  | _ => true

/-- A split of a group that stops: a bundle of which only hints have issued is issued again in whole (04 R80). -/
def Split.restart (sp : Split) : Split :=
  if sp.bundle.active && !sp.wait.issued then { sp with pc := sp.bundle.start, bundle := Bundle.none, wait := .none } else sp

/-- The splits of a group that stops. -/
def Ctl.restart (c : Ctl) : Ctl := { c with splits := c.splits.map Split.restart }

/-- A group's control with the split that runs a trap handler, if any. -/
def Ctl.withHandler (c : Ctl) (h : Option (Fin 4)) : Ctl := { c with handler := h }

/-- Delivery of the entry at the head of the trap queue (R325); no split keeps hints without their instruction (04 R80). -/
def State.deliver (s : State) : State :=
  match s.cur.trap.queue with
  | [] => s
  | e :: q =>
    let ppl := s.cur.trap.pl
    let v := s.vector ppl
    if v = 0 then s.doubleTrap e
    else
      let i : Fin 4 := Fin.ofNat 4 (bitsOf e.t0.toNat 31 30)
      let t0 := BitVec.ofNat 64 (setBits (setBits e.t0.toNat 18 16 q.length) 33 32 ppl)
      let s := s.modTrap (fun t => { t with queue := q, cur := { e with t0 := t0 }, inh := true, ppl := ppl,
                                            pl := if ppl = 2 then 2 else 1 })
      let s := s.modCtl (fun c => (c.restart.setSplit i ((c.split i).goto (v.setWidth 48 <<< 2))).withHandler (some i))
      let s := s.modCkpt (fun c => { c with closed := true })
      s.tally 12 1

/-- A split that stops at a bundle whose instruction had issued leaves the flags that it consumed set (20 R354). -/
def State.refund (s : State) (i : Fin 4) : State :=
  let m := (s.cur.ctl.split i).bundle.used
  if m = 0 then s
  else s.modRegs (fun r => { r with f := Vector.ofFn (fun k : Fin 12 =>
    if m.getLsbD k.val then { r.f[k] with set := true } else r.f[k]) })

/-- The issuing split stands at the first word of its bundle again, with no hint issued (R80, R322). -/
def State.rewind (s : State) : State :=
  let p := s.bundlePc
  (s.refund s.cur.ctl.iss).modSplit (fun sp => { sp with pc := p, bundle := Bundle.none, wait := .none })

/-- The group stops and takes traps (R322, R327, R328): an exact cause inside a handler resets the context, a
deferred one waits in the queue; otherwise the first entry is delivered. -/
def State.takeTraps (s : State) (es : List TrapEntry) : State :=
  match if s.cur.trap.inh then es.find? (fun e => !e.isDeferred) else none with
  | some e => s.doubleTrap e
  | none =>
    let s' := s.modTrap (fun t => { t with queue := es.foldl enqueueTrap t.queue })
    if s.cur.trap.inh then s' else s'.rewind.deliver

/-- An exact trap of the bundle that issues: it names the bundle as its place and its return (R322, R326). -/
def State.trapExact (s : State) (cause addr info : Nat) : State :=
  let p := s.bundlePc
  s.takeTraps [s.entry cause p addr p.toNat info]

/-- `tret` (R326): the level, the PC and the other splits are as before; the next entry is delivered at once. -/
def State.trapReturn (s : State) : State :=
  let t := s.cur.trap.cur
  let i := s.cur.ctl.handler.getD s.cur.ctl.iss
  let pc : BitVec 48 := ((t.t1 >>> 2).setWidth 48) <<< 2
  let s := s.modTrap (fun r => { r with pl := bitsOf t.t0.toNat 33 32, inh := false })
  let s := s.modCtl (fun c => (c.setSplit i ((c.split i).goto pc)).withHandler none)
  let s := s.modCtl (fun c => { c with unfinished := c.unfinished.filter (fun u => u.1 != i || u.2.1 == pc) })
  s.deliver

/-! ## Deferred causes (10 R171, 11 R197, 14 R246) -/

/-- A cause that a later bundle raises, for an operation of a kind. -/
def State.deferCause (s : State) (uid : Nat) (d : Deferred) : State :=
  s.modGroup uid (fun g => { g with trap := { g.trap with deferred := g.trap.deferred ++ [d] } })

/-- The point before which operations count for the wait of the issuing split: where it has issued already, that of its
issue (02 R39); else now. -/
def State.since (s : State) : Nat :=
  match s.split.wait with
  | .answer .read _ b _ => b
  | _ => s.nextId

/-- Deferred causes in the order in which their operations issued (19 R327). -/
def byOp (ds : List Deferred) : List Deferred :=
  let ins := fun (l : List Deferred) (d : Deferred) => l.filter (fun x => decide (x.op ≤ d.op)) ++ [d] ++ l.filter (fun x => decide (d.op < x.op))
  ds.foldl ins []

/-- The deferred causes of the operations of some kinds named below `before`, for which the bundle waits, as entries of that
bundle in issue order, and the state without them. The entry returns to that bundle (R326). -/
def State.takeDeferred (s : State) (p : OpKind → Bool) (before : Nat) : List TrapEntry × State :=
  let waits := fun (d : Deferred) => p d.kind && decide (d.op < before)
  let mine := s.cur.trap.deferred.filter waits
  let pc := s.bundlePc
  let es := (byOp mine).map (fun d => { d.entry with
    t0 := BitVec.ofNat 64 (setBits (setBits d.entry.t0.toNat 31 30 s.cur.ctl.iss.val) 33 32 s.cur.trap.pl)
    t1 := pc.setWidth 64 })
  (es, s.modTrap (fun t => { t with deferred := t.deferred.filter (fun d => !waits d) }))

/-! ## Issue (04 R77-R81) -/

/-- What an instruction's own meaning answers once its bundle has passed the checks of R81. -/
inductive Act
  /-- The instruction has taken effect and the bundle is complete. -/
  | ok (s : State)
  /-- It has issued and holds its split (02 R39). -/
  | hold (s : State) (w : Wait)
  /-- It has issued and will issue again once its condition changes (08 R139). -/
  | again (s : State) (w : Wait)
  /-- It cannot issue in this turn (02 R39, R355). -/
  | notReady
  /-- It waits before its issue, as the watchdog counts (20 R356, R357, R360). -/
  | waiting (w : Wait)
  /-- An exact trap: cause, `trec2`, `trec4`. -/
  | trap (cause addr info : Nat)
  /-- MEM_ECC: an exact trap that leaves its mark on what holds the error (13 R229): `trec2`, `trec4`. -/
  | ecc (mark : State → State) (addr info : Nat)
  /-- The bundle is performed for some lanes and the group parks with the others (14 R237, 19 R330). -/
  | park (s : State) (left : Word)
  /-- Deferred causes are raised at this bundle (19 R322), after it has left a state. -/
  | raise (s : State) (es : List TrapEntry)
  /-- The state is complete as it is: a return from a trap, a context that ends. -/
  | done (s : State)

/-- The checks of a flag wait (20 R354). -/
inductive FlagWait | satisfied | never | pending
  deriving DecidableEq, Repr

/-- Whether every named flag is set, or one can never be, or the wait goes on (20 R354). -/
def State.flagWait (s : State) (m : BitVec 12) : FlagWait :=
  let fs := (List.range 12).filter (fun i => m.getLsbD i)
  if fs.all (fun i => (s.flag i).set) then .satisfied
  else if fs.any (fun i => !(s.flag i).set && (s.flag i).pend == 0) then .never
  else .pending

/-- A satisfied flag wait consumes its flags (20 R353). -/
def State.useFlags (s : State) (m : BitVec 12) : State :=
  if m = 0 then s
  else s.modRegs (fun r => { r with f := Vector.ofFn (fun i : Fin 12 =>
    if m.getLsbD i.val then { r.f[i] with set := false } else r.f[i]) })

/-- The flags named by `wait.f` itself. -/
def waitMask : Instr → BitVec 12
  | .waitF f => f
  | _ => 0

/-- An issued instruction holds its split: it stands at its word with its hints, the flags that it has consumed, and what it has
translated and read so far (02 R36, R39). -/
def State.heldAt (s : State) (orig : State) (i : Instr) (w : Wait) (used : BitVec 12) : State :=
  let b := orig.hints
  s.modSplit (fun sp => { sp with pc := orig.pc, wait := w, wdog := 0,
                                  bundle := { b with active := true, start := orig.bundlePc, flg := 0, dly := 0, used := b.used ||| used,
                                                     held := some i, trans := sp.bundle.trans, got := sp.bundle.got } })

/-- An instruction counts once as it issues, with its lanes where it is a vector instruction (20 R362). -/
def State.countIssue (s : State) (i : Instr) (orig : State) : State :=
  if orig.split.wait.issued then s
  else
    let s := s.tally 0 1
    if hintsOf i / 2 % 2 = 1 then s.tally 1 (popCount orig.exec) else s

/-- The bundle records the address of its first word while its instruction issues (R78). -/
def State.anchor (s : State) : State :=
  let p := s.bundlePc
  s.modSplit (fun sp => { sp with bundle := { sp.bundle with active := true, start := p } })

/-- The split at an address is past the bundle at which it had lanes left to perform (14 R237). -/
def Ctl.performed (c : Ctl) (i : Fin 4) (at' : BitVec 48) : Ctl :=
  { c with unfinished := c.unfinished.filter (fun u => !(u.1 == i && u.2.1 == at')) }

/-- The bundle's instruction has issued: it counts once, its hints are used up (R78, 20 R362, 19 R336). -/
def State.finish (s : State) (i : Instr) (orig : State) : State :=
  let me := s.cur.ctl.iss
  let s := s.modSplit (fun sp => { sp with bundle := Bundle.none, wait := .none, wdog := 0 })
  let at' := orig.bundlePc
  let s := s.modCtl (fun c => c.performed me at')
  let s := if closesRegion i then s.modCkpt (fun c => { c with closed := true }) else s
  s.countIssue i orig

/-- The field code of a register that a bundle reads and that holds an uncorrectable error (05 R92). -/
def State.badRead (s : State) (i : Instr) : Option Nat :=
  let msk := match s.hints.msk with | some k => [(RegRef.k k.toNat, false)] | none => []
  let hit := fun (r : RegRef × Bool) => s.cur.regs.bad.any (fun b => b.1 == r.1 &&
    (match r.1 with | .v _ => r.2 || s.exec.getLsbD b.2 | _ => true))
  ((readsOf i ++ msk).find? hit).map (fun r => match r.1 with | .v n | .s n | .k n => n)

/-- The group parks at a bundle of the issuing split with the lanes still to perform; its missing pages are the faults that
parked it (14 R237, 19 R330, 20 R362). -/
def State.parkAt (s : State) (p : BitVec 48) (left : Word) : State :=
  let now := s.pace
  let s := s.modCtl (fun c =>
    let rest := c.unfinished.filter (fun u => !(u.1 == c.iss && u.2.1 == p))
    { c.restart with parked := true, unfinished := (c.iss, p, left) :: rest, parkedAt := now })
  s.tally 11 s.cur.trap.missing

/-- A bundle that stops leaves every flag as it was (20 R354). -/
def State.keepFlags (s orig : State) : State :=
  s.modRegs (fun r => { r with f := (orig.refund orig.cur.ctl.iss).cur.regs.f })

/-- Issue of an instruction: flag wait, privilege, fields and hints, REG_ECC, then its own meaning on the state in which the PC
has advanced and the flags are consumed (R77, R81). The wait of `wait.f` itself is tested with the FLG hint's, before privilege and
fields: the model's choice (log entry 51). -/
def issueState (i : Instr) (s : State) (body : State → Act) : State :=
  let fm := s.hints.flg ||| waitMask i
  match s.flagWait fm with
  | .never => s.trapExact 4 0 0
  | .pending => s.modSplit (fun sp => { sp with wait := .flag })
  | .satisfied =>
    if s.cur.trap.pl < privOf i then s.trapExact 2 0 0
    else if !(fieldsOk s.cur.place.nregs i && hintsOk (hintsOf i) s.hints) then s.trapExact 1 0 0
    else match s.badRead i with
    | some r => s.trapExact 7 0 r
    | none =>
      match body (((s.useFlags fm).anchor).setPc (s.pc + 4)) with
      | .ok t => t.finish i s
      | .again t w => (t.finish i s).modSplit (fun sp => { sp with wait := w })
      | .hold t w =>
        let t := t.heldAt s i w fm
        let t := if closesRegion i then t.modCkpt (fun c => { c with closed := true }) else t
        t.countIssue i s
      | .notReady => s.modSplit (fun sp => { sp with wait := .room })
      | .waiting w => s.modSplit (fun sp => { sp with wait := w })
      | .trap c a n => s.trapExact c a n
      | .ecc f a n => (f s).trapExact 16 a n
      | .park t left =>
        let p := s.bundlePc
        let t := (t.keepFlags s).modSplit (fun sp => { sp with pc := p, bundle := Bundle.none, wait := .none })
        t.parkAt p left
      | .raise t es => ((t.keepFlags s).modSplit (fun _ => s.split)).takeTraps es
      | .done t => t

/-- Deferred entries, if any, are raised at this bundle, and after them its own exact cause where it has one (R327); inside a
handler they wait in the trap queue and the bundle goes on (R328). -/
def raiseEntries (es : List TrapEntry) (s : State) (k : State → Act) : Act :=
  match es with
  | [] => k s
  | e :: es =>
    if s.cur.trap.inh then k (s.takeTraps (e :: es))
    else match k s with
      | .trap c a n => .raise s (e :: es ++ [s.entry c s.bundlePc a s.bundlePc.toNat n])
      | .ecc mark a n => .raise (mark s) (e :: es ++ [s.entry 16 s.bundlePc a s.bundlePc.toNat n])
      | _ => .raise s (e :: es)

/-- The deferred causes of some kinds that the bundle waits for are raised at this bundle (10 R171). -/
def withDeferred (p : OpKind → Bool) (s : State) (k : State → Act) : Act :=
  match s.takeDeferred p s.since with
  | ([], _) => k s
  | (es, t) => raiseEntries es t k

/-- Issue as an outcome: every encoded instruction has an effect. -/
def issue (i : Instr) (s : State) (body : State → Act) : Out State := .next (issueState i s body)

/-! ## Multi-turn instructions (02 R41, 06 R107) -/

/-- Issues a multi-turn operation: flag `f` is cleared and one more is pending on it (20 R353); the result is written
`lat` cycles later. -/
def State.later (s : State) (lat f : Nat) (swr : List (Nat × DWord)) (vwr : List (Nat × Lane × Word)) (fl : FpFlags) :
    State :=
  let s := s.modFlag f (fun x => ⟨false, x.pend + 1⟩)
  s.modAcc (fun a => { a with inflight := a.inflight ++ [⟨s.cycle + lat, f, swr, vwr, fl⟩] })

/-- Writes the registers of a multi-turn result in the current group. -/
def State.writeResult (s : State) (m : MultiTurn) : State :=
  let s := m.swr.foldl (fun s x => s.setSreg x.1 x.2) s
  m.vwr.foldl (fun s x => s.setV x.1 (BitVec.ofNat 32 (2 ^ x.2.1.val)) (fun _ => x.2.2)) s

/-- A multi-turn completion: the result is written and its flag's count falls (20 R353). -/
def State.completeResult (s : State) (m : MultiTurn) : State :=
  let s := (s.writeResult m).raise m.flags
  s.modFlag m.flag (fun x => ⟨x.set || x.pend == 1, x.pend - 1⟩)

end Sys2Proof.Machine
end

