-- ==== Sys2Proof/Machine/Float.lean ====
section
/-! DEFINITION. Floating-point, conversion and lane instructions (spec 07 R108-R129). -/

namespace Sys2Proof.Machine

/-- Values and flags of the lanes of `exec`; the flags are ORed (R60). -/
def laneFlags (s : State) (r : Lane → FpFlags) : FpFlags := (lanesOf s.exec).foldl (fun a l => a ||| r l) 0

/-- A function of the lanes x, y and z that gives a lane and flags (R112, R113). -/
def vecF (F : Rnd → Word → Word → Word → Word × FpFlags) (d a b : BitVec 7) (bs : BitVec 1) (s : State) : Act :=
  let r := fun l => F s.rnd (s.vlane a.toNat l) (s.vecB b bs l) (s.vlane d.toNat l)
  .ok ((s.setV d.toNat s.exec (fun l => (r l).1)).raise (laneFlags s (fun l => (r l).2)))

/-- A function that also gives the lane's next generator state, kept where the mode is SR (R59). -/
def vecSr (F : Rnd → Word → Word → Word → Word → Word × FpFlags × Word) (d a b : BitVec 7) (bs : BitVec 1) (s : State) :
    Act :=
  let r := fun l => F s.rnd (s.srState l) (s.vlane a.toNat l) (s.vecB b bs l) (s.vlane d.toNat l)
  .ok (((s.setV d.toNat s.exec (fun l => (r l).1)).raise (laneFlags s (fun l => (r l).2.1))).setSr s.exec
    (fun l => (r l).2.2))

/-- The value of a lane of a register or register pair (06 R105). -/
def State.laneVal (s : State) (wide : Bool) (n : Nat) (l : Lane) : Nat :=
  if wide then (s.vlane n l).toNat + 2 ^ 32 * (s.vlane (n + 1) l).toNat else (s.vlane n l).toNat

/-- Writes a register or register pair in the lanes of a mask (06 R105). -/
def State.setLanes (s : State) (wide : Bool) (n : Nat) (m : Word) (f : Lane → Nat) : State :=
  let s1 := s.setV n m (fun l => BitVec.ofNat 32 (f l))
  if wide then s1.setV (n + 1) m (fun l => BitVec.ofNat 32 (f l / 2 ^ 32)) else s1

/-- `vcvt` (R118, R119). -/
def vecCvt (t : BitVec 4) (d a b : BitVec 7) (s : State) : Act :=
  match cvtFmt b.toNat, cvtFmt t.toNat with
  | some src, some dst =>
    let r := fun l => cvtLane src dst s.rnd (s.srState l) (s.laneVal (cvtWide src) a.toNat l)
    .ok (((s.setLanes (cvtWide dst) d.toNat s.exec (fun l => cvtFill dst (r l).1.1)).raise
      (laneFlags s (fun l => (r l).1.2))).setSr s.exec (fun l => (r l).2))
  | _, _ => .trap 1 0 0

/-- The scale code of a lane (R120). -/
def State.scaleOf (s : State) (b : BitVec 7) (bs : BitVec 1) (l : Lane) : Nat := (s.vecB b bs l).toNat % 256

/-- `vpk.e4m3`, `vpk.e5m2` (R120). -/
def vecPack (f : Fmt) (d a b : BitVec 7) (bs : BitVec 1) (s : State) : Act :=
  let n := a.toNat
  let r := fun l => packLane f s.rnd (s.scaleOf b bs l) (s.srState l) (s.vlane n l) (s.vlane (n + 1) l)
    (s.vlane (n + 2) l) (s.vlane (n + 3) l)
  .ok (((s.setV d.toNat s.exec (fun l => (r l).1)).raise (laneFlags s (fun l => (r l).2.1))).setSr s.exec
    (fun l => (r l).2.2))

/-- `vpk.io4` (R121). -/
def vecPackIo4 (d a b : BitVec 7) (bs : BitVec 1) (s : State) : Act :=
  let r := fun l => packIo4Lane (s.scaleOf b bs l) (fun j => s.vlane (a.toNat + j.val) l)
  .ok ((s.setV d.toNat s.exec (fun l => (r l).1)).raise (laneFlags s (fun l => (r l).2)))

/-- `vunpk` of FP8 quads (R122): every source is read before any destination is written. -/
def vecUnpack (f : Fmt) (d a b : BitVec 7) (bs : BitVec 1) (s : State) : Act :=
  let r := fun (j : Nat) l => unpackFp8 f (s.scaleOf b bs l) (bitsOf (s.vlane a.toNat l).toNat (8 * j + 7) (8 * j))
  let t := (List.range 4).foldl (fun t j => t.setV (d.toNat + j) s.exec (fun l => (r j l).1)) s
  .ok (t.raise (laneFlags s (fun l => (List.range 4).foldl (fun a j => a ||| (r j l).2) 0)))

/-- `vunpk.io4` (R122). -/
def vecUnpackIo4 (d a b : BitVec 7) (bs : BitVec 1) (s : State) : Act :=
  let r := fun l => unpackIo4 (s.scaleOf b bs l) (s.vlane a.toNat l)
  let t := (List.range 8).foldl (fun t j => t.setV (d.toNat + j) s.exec (fun l => ((r l).1[j]?).getD 0)) s
  .ok (t.raise (laneFlags s (fun l => (r l).2)))

/-- A multi-turn vector result: lanes and flags captured at issue (R109). -/
def vecLater (lat : Nat) (F : Lane → Word × FpFlags) (f : BitVec 4) (d : BitVec 7) (s : State) : Act :=
  .ok (s.later lat f.toNat [] ((lanesOf s.exec).map (fun l => (d.toNat, l, (F l).1))) (laneFlags s (fun l => (F l).2)))

/-- A function of major 0x15 (R117). -/
def vecFunc (op : Func) (f : BitVec 4) (d a : BitVec 7) (s : State) : Act :=
  vecLater 24 (fun l => funcExec op s.rnd.flush (s.vlane a.toNat l)) f d s

/-- The fused dot products (R123). -/
def vecDot (fm : Fmt) (n : Nat) (f : BitVec 4) (d a b : BitVec 7) (s : State) : Act :=
  vecLater 16 (fun l => dotLane fm n s.rnd (s.vlane d.toNat l) (s.vlane a.toNat l) (s.vlane b.toNat l)) f d s

/-- A lane of a register by index modulo 32. -/
def State.laneAt (s : State) (n i : Nat) : Word := s.vlane n (Fin.ofNat 32 i)

/-- `vscan` (R125). -/
def vecScan (excl : Bool) (f : BitVec 4) (d a o : BitVec 7) (s : State) : Act :=
  match redOp o.toNat with
  | none => .trap 1 0 0
  | some op =>
    let r := scanGo op s.rnd excl ((lanesOf s.exec).map (fun l => (l, s.vlane a.toNat l))) none
    .ok (s.later 24 f.toNat [] (r.1.map (fun p => (d.toNat, p.1, p.2))) r.2)

/-- `vred` (R126). -/
def vecRed (f : BitVec 4) (d a o : BitVec 7) (s : State) : Act :=
  match redOp o.toNat with
  | none => .trap 1 0 0
  | some op =>
    let r := redLanes op s.rnd (allLanes.map (fun l => if laneBit s.exec l then some (s.vlane a.toNat l) else none))
    .ok (s.later 24 f.toNat [(d.toNat, redScalar op r.1)] [] r.2)

/-- VFADD: FP32 add, rounded once. (R112) -/
def execVfadd (d : BitVec 7) (a : BitVec 7) (b : BitVec 7) (bs : BitVec 1) (s : State) : Out State :=
  issue (.vfadd d a b bs) s (vecF (fun c x y _ => fAdd32 c x y) d a b bs)

/-- VFSUB: FP32 subtract. (R112) -/
def execVfsub (d : BitVec 7) (a : BitVec 7) (b : BitVec 7) (bs : BitVec 1) (s : State) : Out State :=
  issue (.vfsub d a b bs) s (vecF (fun c x y _ => fSub32 c x y) d a b bs)

/-- VFMUL: FP32 multiply. (R112) -/
def execVfmul (d : BitVec 7) (a : BitVec 7) (b : BitVec 7) (bs : BitVec 1) (s : State) : Out State :=
  issue (.vfmul d a b bs) s (vecF (fun c x y _ => fMul32 c x y) d a b bs)

/-- VFMA: FP32 fused multiply-add. (R112) -/
def execVfma (d : BitVec 7) (a : BitVec 7) (b : BitVec 7) (bs : BitVec 1) (s : State) : Out State :=
  issue (.vfma d a b bs) s (vecF (fFused32 false false) d a b bs)

/-- VFMS: FP32 fused multiply-subtract. (R112) -/
def execVfms (d : BitVec 7) (a : BitVec 7) (b : BitVec 7) (bs : BitVec 1) (s : State) : Out State :=
  issue (.vfms d a b bs) s (vecF (fFused32 false true) d a b bs)

/-- VFNMA: FP32 negated fused multiply-add. (R112) -/
def execVfnma (d : BitVec 7) (a : BitVec 7) (b : BitVec 7) (bs : BitVec 1) (s : State) : Out State :=
  issue (.vfnma d a b bs) s (vecF (fFused32 true false) d a b bs)

/-- VFMIN_NUM: FP32 minimum that ignores a NaN. (R113) -/
def execVfminNum (d : BitVec 7) (a : BitVec 7) (b : BitVec 7) (bs : BitVec 1) (s : State) : Out State :=
  issue (.vfminNum d a b bs) s (vecF (fun _ x y _ => fMinMax32 false false x y) d a b bs)

/-- VFMIN_PROP: FP32 minimum that propagates a NaN. (R113) -/
def execVfminProp (d : BitVec 7) (a : BitVec 7) (b : BitVec 7) (bs : BitVec 1) (s : State) : Out State :=
  issue (.vfminProp d a b bs) s (vecF (fun _ x y _ => fMinMax32 false true x y) d a b bs)

/-- VFMAX_NUM: FP32 maximum that ignores a NaN. (R113) -/
def execVfmaxNum (d : BitVec 7) (a : BitVec 7) (b : BitVec 7) (bs : BitVec 1) (s : State) : Out State :=
  issue (.vfmaxNum d a b bs) s (vecF (fun _ x y _ => fMinMax32 true false x y) d a b bs)

/-- VFMAX_PROP: FP32 maximum that propagates a NaN. (R113) -/
def execVfmaxProp (d : BitVec 7) (a : BitVec 7) (b : BitVec 7) (bs : BitVec 1) (s : State) : Out State :=
  issue (.vfmaxProp d a b bs) s (vecF (fun _ x y _ => fMinMax32 true true x y) d a b bs)

/-- VFABS: FP32 absolute value. (R113) -/
def execVfabs (d : BitVec 7) (b : BitVec 7) (bs : BitVec 1) (s : State) : Out State :=
  issue (.vfabs d b bs) s (vecF (fun _ _ y _ => fAbs32 y) d 0 b bs)

/-- VFNEG: FP32 negation. (R113) -/
def execVfneg (d : BitVec 7) (b : BitVec 7) (bs : BitVec 1) (s : State) : Out State :=
  issue (.vfneg d b bs) s (vecF (fun _ _ y _ => fNeg32 y) d 0 b bs)

/-- VFSCALE: Multiplies by a power of two given as INT32. (R112) -/
def execVfscale (d : BitVec 7) (a : BitVec 7) (b : BitVec 7) (bs : BitVec 1) (s : State) : Out State :=
  issue (.vfscale d a b bs) s (vecF (fun c x y _ => fScale32 c x y) d a b bs)

/-- VFROUND: Rounds to an integral FP32 value. (R112) -/
def execVfround (d : BitVec 7) (b : BitVec 7) (bs : BitVec 1) (s : State) : Out State :=
  issue (.vfround d b bs) s (vecF (fun c _ y _ => fRound32 c y) d 0 b bs)

/-- VFCLASS: Writes a one-hot word giving the FP32 class. (R115) -/
def execVfclass (d : BitVec 7) (b : BitVec 7) (bs : BitVec 1) (s : State) : Out State :=
  issue (.vfclass d b bs) s (vecF (fun _ _ y _ => (fClass32 y, 0)) d 0 b bs)

/-- VFCMP: FP32 compare into a mask register. (R114) -/
def execVfcmp (c : BitVec 3) (d : BitVec 7) (a : BitVec 7) (b : BitVec 7) (bs : BitVec 1) (s : State) : Out State :=
  issue (.vfcmp c d a b bs) s (fun s =>
    let r := fun l => fCmp32 c (s.vlane a.toNat l) (s.vecB b bs l)
    .ok ((s.setKreg d.toNat (maskOf (fun l => if laneBit s.exec l then (r l).1 else laneBit (s.kreg d.toNat) l))).raise
      (laneFlags s (fun l => (r l).2))))

/-- VCVT: Converts between the formats coded in fn and b. (R118) -/
def execVcvt (t : BitVec 4) (d : BitVec 7) (a : BitVec 7) (bs : BitVec 7) (s : State) : Out State :=
  issue (.vcvt t d a bs) s (vecCvt t d a bs)

/-- VPK_E4M3: Packs four FP32 registers into E4M3 under a scale code. (R120) -/
def execVpkE4m3 (d : BitVec 7) (a : BitVec 7) (b : BitVec 7) (bs : BitVec 1) (s : State) : Out State :=
  issue (.vpkE4m3 d a b bs) s (vecPack fmtE4m3 d a b bs)

/-- VPK_E5M2: Packs four FP32 registers into E5M2 under a scale code. (R120) -/
def execVpkE5m2 (d : BitVec 7) (a : BitVec 7) (b : BitVec 7) (bs : BitVec 1) (s : State) : Out State :=
  issue (.vpkE5m2 d a b bs) s (vecPack fmtE5m2 d a b bs)

/-- VPK_IO4: Quantises eight FP32 registers into IO4 quads. (R121) -/
def execVpkIo4 (d : BitVec 7) (a : BitVec 7) (b : BitVec 7) (bs : BitVec 1) (s : State) : Out State :=
  issue (.vpkIo4 d a b bs) s (vecPackIo4 d a b bs)

/-- VUNPK_E4M3: Decodes E4M3 elements to FP32 under a scale code. (R122) -/
def execVunpkE4m3 (d : BitVec 7) (a : BitVec 7) (b : BitVec 7) (bs : BitVec 1) (s : State) : Out State :=
  issue (.vunpkE4m3 d a b bs) s (vecUnpack fmtE4m3 d a b bs)

/-- VUNPK_E5M2: Decodes E5M2 elements to FP32. (R122) -/
def execVunpkE5m2 (d : BitVec 7) (a : BitVec 7) (b : BitVec 7) (bs : BitVec 1) (s : State) : Out State :=
  issue (.vunpkE5m2 d a b bs) s (vecUnpack fmtE5m2 d a b bs)

/-- VUNPK_IO4: Decodes IO4 quads to FP32. (R122) -/
def execVunpkIo4 (d : BitVec 7) (a : BitVec 7) (b : BitVec 7) (bs : BitVec 1) (s : State) : Out State :=
  issue (.vunpkIo4 d a b bs) s (vecUnpackIo4 d a b bs)

/-- VHADD_F16: Packed FP16 add. (R116) -/
def execVhaddF16 (d : BitVec 7) (a : BitVec 7) (b : BitVec 7) (bs : BitVec 1) (s : State) : Out State :=
  issue (.vhaddF16 d a b bs) s (vecSr (halfLane .add fmtF16) d a b bs)

/-- VHADD_BF16: Packed BF16 add. (R116) -/
def execVhaddBf16 (d : BitVec 7) (a : BitVec 7) (b : BitVec 7) (bs : BitVec 1) (s : State) : Out State :=
  issue (.vhaddBf16 d a b bs) s (vecSr (halfLane .add fmtBf16) d a b bs)

/-- VHMUL_F16: Packed FP16 multiply. (R116) -/
def execVhmulF16 (d : BitVec 7) (a : BitVec 7) (b : BitVec 7) (bs : BitVec 1) (s : State) : Out State :=
  issue (.vhmulF16 d a b bs) s (vecSr (halfLane .mul fmtF16) d a b bs)

/-- VHMUL_BF16: Packed BF16 multiply. (R116) -/
def execVhmulBf16 (d : BitVec 7) (a : BitVec 7) (b : BitVec 7) (bs : BitVec 1) (s : State) : Out State :=
  issue (.vhmulBf16 d a b bs) s (vecSr (halfLane .mul fmtBf16) d a b bs)

/-- VHFMA_F16: Packed FP16 fused multiply-add. (R116) -/
def execVhfmaF16 (d : BitVec 7) (a : BitVec 7) (b : BitVec 7) (bs : BitVec 1) (s : State) : Out State :=
  issue (.vhfmaF16 d a b bs) s (vecSr (halfLane .fma fmtF16) d a b bs)

/-- VHFMA_BF16: Packed BF16 fused multiply-add. (R116) -/
def execVhfmaBf16 (d : BitVec 7) (a : BitVec 7) (b : BitVec 7) (bs : BitVec 1) (s : State) : Out State :=
  issue (.vhfmaBf16 d a b bs) s (vecSr (halfLane .fma fmtBf16) d a b bs)

/-- VFRCP: Multi-turn faithful reciprocal. (R117) -/
def execVfrcp (f : BitVec 4) (d : BitVec 7) (a : BitVec 7) (s : State) : Out State :=
  issue (.vfrcp f d a) s (vecFunc .rcp f d a)

/-- VFRSQ: Multi-turn reciprocal square root. (R117) -/
def execVfrsq (f : BitVec 4) (d : BitVec 7) (a : BitVec 7) (s : State) : Out State :=
  issue (.vfrsq f d a) s (vecFunc .rsq f d a)

/-- VFSQRT: Multi-turn correctly rounded square root. (R117) -/
def execVfsqrt (f : BitVec 4) (d : BitVec 7) (a : BitVec 7) (s : State) : Out State :=
  issue (.vfsqrt f d a) s (vecFunc .sqrt f d a)

/-- VFEXP2: Multi-turn base-2 exponential. (R117) -/
def execVfexp2 (f : BitVec 4) (d : BitVec 7) (a : BitVec 7) (s : State) : Out State :=
  issue (.vfexp2 f d a) s (vecFunc .exp2 f d a)

/-- VFLOG2: Multi-turn base-2 logarithm. (R117) -/
def execVflog2 (f : BitVec 4) (d : BitVec 7) (a : BitVec 7) (s : State) : Out State :=
  issue (.vflog2 f d a) s (vecFunc .log2 f d a)

/-- VFSIN: Multi-turn sine. (R117) -/
def execVfsin (f : BitVec 4) (d : BitVec 7) (a : BitVec 7) (s : State) : Out State :=
  issue (.vfsin f d a) s (vecFunc .sin f d a)

/-- VFCOS: Multi-turn cosine. (R117) -/
def execVfcos (f : BitVec 4) (d : BitVec 7) (a : BitVec 7) (s : State) : Out State :=
  issue (.vfcos f d a) s (vecFunc .cos f d a)

/-- VFDOT2_BF16: Multi-turn fused BF16 pair dot product into FP32. (R123) -/
def execVfdot2Bf16 (f : BitVec 4) (d : BitVec 7) (a : BitVec 7) (b : BitVec 7) (s : State) : Out State :=
  issue (.vfdot2Bf16 f d a b) s (vecDot fmtBf16 2 f d a b)

/-- VFDOT4_FP8: Multi-turn fused E4M3 quad dot product into FP32. (R123) -/
def execVfdot4Fp8 (f : BitVec 4) (d : BitVec 7) (a : BitVec 7) (b : BitVec 7) (s : State) : Out State :=
  issue (.vfdot4Fp8 f d a b) s (vecDot fmtE4m3 4 f d a b)

/-- VSHUF: Multi-turn lane permutation by a vector index. (R124) -/
def execVshuf (f : BitVec 4) (d : BitVec 7) (a : BitVec 7) (b : BitVec 7) (s : State) : Out State :=
  issue (.vshuf f d a b) s (fun s => vecLater 16 (fun l => (s.laneAt a.toNat ((s.vlane b.toNat l).toNat % 32), 0)) f d s)

/-- VLROT: Multi-turn lane rotation by a scalar. (R124) -/
def execVlrot (f : BitVec 4) (d : BitVec 7) (a : BitVec 7) (b : BitVec 7) (s : State) : Out State :=
  issue (.vlrot f d a b) s (fun s => vecLater 16 (fun l => (s.laneAt a.toNat ((l.val + (s.src b.toNat).toNat % 32) % 32), 0)) f d s)

/-- VSCAN: Multi-turn inclusive prefix over the lanes of exec. (R125) -/
def execVscan (f : BitVec 4) (d : BitVec 7) (a : BitVec 7) (o : BitVec 7) (s : State) : Out State :=
  issue (.vscan f d a o) s (vecScan false f d a o)

/-- VSCAN_EXCL: Multi-turn exclusive prefix over the lanes of exec. (R125) -/
def execVscanExcl (f : BitVec 4) (d : BitVec 7) (a : BitVec 7) (o : BitVec 7) (s : State) : Out State :=
  issue (.vscanExcl f d a o) s (vecScan true f d a o)

/-- VRED: Multi-turn reduction of the lanes of exec to a scalar by a fixed tree. (R126) -/
def execVred (f : BitVec 4) (d : BitVec 7) (a : BitVec 7) (o : BitVec 7) (s : State) : Out State :=
  issue (.vred f d a o) s (vecRed f d a o)

/-- VBCAST: Multi-turn broadcast of one lane. (R124) -/
def execVbcast (f : BitVec 4) (d : BitVec 7) (a : BitVec 7) (b : BitVec 7) (s : State) : Out State :=
  issue (.vbcast f d a b) s (fun s => vecLater 16 (fun _ => (s.laneAt a.toNat ((s.src b.toNat).toNat % 32), 0)) f d s)

/-- VBALLOT: Writes a scalar with the non-zero lanes of exec. (R128) -/
def execVballot (d : BitVec 7) (b : BitVec 7) (s : State) : Out State :=
  issue (.vballot d b) s (fun s =>
    .ok (s.setSreg d.toNat ((maskOf (fun l => laneBit s.exec l && s.vlane b.toNat l != 0)).setWidth 64)))

/-- VRNG_RD: Reads each lane's stochastic generator state. (R129) -/
def execVrngRd (d : BitVec 7) (s : State) : Out State :=
  issue (.vrngRd d) s (fun s => .ok (s.setV d.toNat s.exec (fun l => s.srState l)))

/-- VRNG_SEED: Seeds each lane's generator and returns the old state. (R129) -/
def execVrngSeed (d : BitVec 7) (b : BitVec 7) (bs : BitVec 1) (s : State) : Out State :=
  issue (.vrngSeed d b bs) s (fun s =>
    .ok ((s.setV d.toNat s.exec (fun l => s.srState l)).setSr s.exec (fun l => s.vecB b bs l)))

/-- VRNG_STEP: Advances each lane's generator one step. (R129) -/
def execVrngStep (d : BitVec 7) (s : State) : Out State :=
  issue (.vrngStep d) s (fun s =>
    .ok ((s.setV d.toNat s.exec (fun l => srStep (s.srState l))).setSr s.exec (fun l => srStep (s.srState l))))

end Sys2Proof.Machine
end

