-- ==== Sys2Proof/Machine/Hint.lean ====
section
/-! DEFINITION. Hint words (spec 04 R76-R81, 08 R144). A hint changes no state but the bundle in progress (R80). -/

namespace Sys2Proof.Machine

/-- Issue of a hint word: a ninth hint or an illegal payload code raises ILLEGAL_OPCODE (R81 check 1); otherwise the
hint joins the bundle, replacing an earlier one of its kind (R78). -/
def hintWord (legal : Bool) (set : Bundle → Bundle) (s : State) : Out State :=
  let b := s.hints
  if 8 ≤ b.count || !legal then .next (s.trapExact 1 0 0)
  else
    let since := if b.active then b.since else s.cycle
    .next (s.modSplit (fun sp => { sp with
      pc := sp.pc + 4
      wait := .none
      wdog := 0
      bundle := { set b with active := true, start := s.bundlePc, count := b.count + 1, since := since } }))

/-- HINT_LIT: Hint that widens an immediate or offset. (R77) -/
def execHintLit (p : BitVec 22) (s : State) : Out State :=
  hintWord true (fun b => { b with lit := some p }) s

/-- HINT_LITH: Hint that supplies immediate bits [52:31]. (R77) -/
def execHintLith (p : BitVec 22) (s : State) : Out State :=
  hintWord true (fun b => { b with lith := some p }) s

/-- HINT_DLY: Hint that delays its instruction by n turns. (R77) -/
def execHintDly (n : BitVec 6) (s : State) : Out State :=
  hintWord true (fun b => { b with dly := n.toNat }) s

/-- HINT_FLG: Hint that makes its instruction wait on flags. (R354) -/
def execHintFlg (f : BitVec 12) (s : State) : Out State :=
  hintWord true (fun b => { b with flg := f }) s

/-- HINT_RND: Hint that sets the rounding mode, flush and saturation. (R77) -/
def execHintRnd (t : BitVec 2) (f : BitVec 1) (m : BitVec 3) (s : State) : Out State :=
  hintWord (decide (m.toNat ≤ 4) && decide (t.toNat ≤ 2)) (fun b =>
    { b with rnd := some (BitVec.ofNat 6 (16 * t.toNat + 8 * f.toNat + m.toNat)) }) s

/-- HINT_SCP: Hint that sets the order and scope. (R77) -/
def execHintScp (c : BitVec 4) (o : BitVec 2) (s : State) : Out State :=
  hintWord (decide (c.toNat ≤ 5)) (fun b =>
    { b with scp := some (BitVec.ofNat 6 (4 * c.toNat + o.toNat)) }) s

/-- HINT_NOP: Reserved hint with no effect. (R76) -/
def execHintNop (_k : BitVec 2) (_p : BitVec 22) (s : State) : Out State :=
  hintWord true (fun b => b) s

/-- HINT_MSK naming `k0`: Hint that intersects exec with a mask. (R77) -/
def execHintMsk0 (s : State) : Out State :=
  hintWord true (fun b => { b with msk := some 0 }) s

/-- HINT_MSK naming `k1`: Hint that intersects exec with a mask. (R77) -/
def execHintMsk1 (s : State) : Out State :=
  hintWord true (fun b => { b with msk := some 1 }) s

/-- HINT_MSK naming `k2`: Hint that intersects exec with a mask. (R77) -/
def execHintMsk2 (s : State) : Out State :=
  hintWord true (fun b => { b with msk := some 2 }) s

/-- HINT_MSK naming `k3`: Hint that intersects exec with a mask. (R77) -/
def execHintMsk3 (s : State) : Out State :=
  hintWord true (fun b => { b with msk := some 3 }) s

/-- HINT_MSK naming `k4`: Hint that intersects exec with a mask. (R77) -/
def execHintMsk4 (s : State) : Out State :=
  hintWord true (fun b => { b with msk := some 4 }) s

/-- HINT_MSK naming `k5`: Hint that intersects exec with a mask. (R77) -/
def execHintMsk5 (s : State) : Out State :=
  hintWord true (fun b => { b with msk := some 5 }) s

/-- HINT_MSK naming `k6`: Hint that intersects exec with a mask. (R77) -/
def execHintMsk6 (s : State) : Out State :=
  hintWord true (fun b => { b with msk := some 6 }) s

/-- HINT_MSK naming `k7`: Hint that intersects exec with a mask. (R77) -/
def execHintMsk7 (s : State) : Out State :=
  hintWord true (fun b => { b with msk := some 7 }) s

/-- HINT_MSK naming `k8`: Hint that intersects exec with a mask. (R77) -/
def execHintMsk8 (s : State) : Out State :=
  hintWord true (fun b => { b with msk := some 8 }) s

/-- HINT_MSK naming `k9`: Hint that intersects exec with a mask. (R77) -/
def execHintMsk9 (s : State) : Out State :=
  hintWord true (fun b => { b with msk := some 9 }) s

/-- HINT_MSK naming `k10`: Hint that intersects exec with a mask. (R77) -/
def execHintMsk10 (s : State) : Out State :=
  hintWord true (fun b => { b with msk := some 10 }) s

/-- HINT_MSK naming `k11`: Hint that intersects exec with a mask. (R77) -/
def execHintMsk11 (s : State) : Out State :=
  hintWord true (fun b => { b with msk := some 11 }) s

/-- HINT_MSK naming `k12`: Hint that intersects exec with a mask. (R77) -/
def execHintMsk12 (s : State) : Out State :=
  hintWord true (fun b => { b with msk := some 12 }) s

/-- HINT_MSK naming `k13`: Hint that intersects exec with a mask. (R77) -/
def execHintMsk13 (s : State) : Out State :=
  hintWord true (fun b => { b with msk := some 13 }) s

/-- HINT_MSK naming `k14`: Hint that intersects exec with a mask. (R77) -/
def execHintMsk14 (s : State) : Out State :=
  hintWord true (fun b => { b with msk := some 14 }) s

/-- HINT_MSK naming `k15`: Hint that intersects exec with a mask. (R77) -/
def execHintMsk15 (s : State) : Out State :=
  hintWord true (fun b => { b with msk := some 15 }) s

/-- HINT_RET with class 0: Hint that sets the retention class. (R77) -/
def execHintRet0 (s : State) : Out State :=
  hintWord true (fun b => { b with ret := some 0 }) s

/-- HINT_RET with class 1: Hint that sets the retention class. (R77) -/
def execHintRet1 (s : State) : Out State :=
  hintWord true (fun b => { b with ret := some 1 }) s

/-- HINT_RET with class 2: Hint that sets the retention class. (R77) -/
def execHintRet2 (s : State) : Out State :=
  hintWord true (fun b => { b with ret := some 2 }) s

/-- HINT_RET with class 3: Hint that sets the retention class. (R77) -/
def execHintRet3 (s : State) : Out State :=
  hintWord true (fun b => { b with ret := some 3 }) s

end Sys2Proof.Machine
end

