-- ==== Sys2Proof/Machine/Integer.lean ====
section
/-! DEFINITION. Integer, address and compare instructions (spec 06 R93-R107). -/

namespace Sys2Proof.Machine

/-- A function of x, y and z at any width (R98). -/
abbrev IntF := (w : Nat) → BitVec w → BitVec w → BitVec w → BitVec w

/-- `scalar_rr` of R97: `zx` for the functions whose `.i32` form zero-extends. -/
def scalarRR (F : IntF) (zx : Bool) (d a b : BitVec 7) (w : BitVec 1) (s : State) : Act :=
  let x := s.src a.toNat
  let y := s.src b.toNat
  let z := s.sreg d.toNat
  if w = 1 then
    let r := F 32 (lo32 x) (lo32 y) (lo32 z)
    .ok (s.setSreg d.toNat (if zx then r.setWidth 64 else r.signExtend 64))
  else .ok (s.setSreg d.toNat (F 64 x y z))

/-- `vector_rr` of R97: it writes the lanes of `exec` only (R95). -/
def vectorRR (F : IntF) (d a b : BitVec 7) (bs : BitVec 1) (s : State) : Act :=
  .ok (s.setV d.toNat s.exec (fun l => F 32 (s.vlane a.toNat l) (s.vecB b bs l) (s.vlane d.toNat l)))

/-- A saturating sum (R99): `sat` is set where it clamps. -/
def scalarSat (F : (w : Nat) → BitVec w → BitVec w → BitVec w × Bool) (zx : Bool) (d a b : BitVec 7) (w : BitVec 1)
    (s : State) : Act :=
  let x := s.src a.toNat
  let y := s.src b.toNat
  if w = 1 then
    let r := F 32 (lo32 x) (lo32 y)
    .ok ((s.setSreg d.toNat (if zx then r.1.setWidth 64 else r.1.signExtend 64)).raise (flagIf r.2 flSat))
  else
    let r := F 64 x y
    .ok ((s.setSreg d.toNat r.1).raise (flagIf r.2 flSat))

/-- A saturating sum in every lane of `exec` (R99). -/
def vectorSat (F : (w : Nat) → BitVec w → BitVec w → BitVec w × Bool) (d a b : BitVec 7) (bs : BitVec 1) (s : State) :
    Act :=
  let r := fun l => F 32 (s.vlane a.toNat l) (s.vecB b bs l)
  let any := (lanesOf s.exec).any (fun l => (r l).2)
  .ok ((s.setV d.toNat s.exec (fun l => (r l).1)).raise (flagIf any flSat))

/-- The pair forms of R100. -/
def scalarPair (F : (w : Nat) → BitVec w → BitVec w → Bool → BitVec w × Bool) (d a b : BitVec 7) (w : BitVec 1)
    (s : State) : Act :=
  let x := s.src a.toNat
  let y := s.src b.toNat
  let cin := (s.sreg (d.toNat + 1)).getLsbD 0
  if w = 1 then
    let r := F 32 (lo32 x) (lo32 y) cin
    .ok ((s.setSreg d.toNat (r.1.setWidth 64)).setSreg (d.toNat + 1) (if r.2 then 1 else 0))
  else
    let r := F 64 x y cin
    .ok ((s.setSreg d.toNat r.1).setSreg (d.toNat + 1) (if r.2 then 1 else 0))

/-- Register and literal, scalar: 64-bit (R104). -/
def scalarRI (F : DWord → DWord → DWord) (d a : BitVec 7) (i : BitVec 9) (s : State) : Act :=
  .ok (s.setSreg d.toNat (F (s.src a.toNat) (s.imm9 i)))

/-- Register and literal, vector: bits [31:0] of the immediate in every lane (R104). -/
def vectorRI (F : Word → Word → Word) (d a : BitVec 7) (i : BitVec 9) (s : State) : Act :=
  .ok (s.setV d.toNat s.exec (fun l => F (s.vlane a.toNat l) (lo32 (s.imm9 i))))

/-- A scalar division: sources read at issue, the result written 64 cycles later (R106, R107). -/
def scalarDiv (F : DWord → DWord → DWord) (f : BitVec 4) (d a b : BitVec 7) (s : State) : Act :=
  .ok (s.later 64 f.toNat [(d.toNat, F (s.src a.toNat) (s.src b.toNat))] [] 0)

/-- A vector division: sources and `exec` captured at issue, the result written 32 cycles later (R106, R107). -/
def vectorDiv (F : Word → Word → Word) (f : BitVec 4) (d a b : BitVec 7) (s : State) : Act :=
  .ok (s.later 32 f.toNat [] ((lanesOf s.exec).map (fun l =>
    (d.toNat, l, F (s.vlane a.toNat l) (s.vlane b.toNat l)))) 0)

/-- SADD: Scalar add of two registers, modulo 2^W. (R98) -/
def execSadd (d : BitVec 7) (a : BitVec 7) (b : BitVec 7) (w : BitVec 1) (s : State) : Out State :=
  issue (.sadd d a b w) s (scalarRR (fun _ x y _ => x + y) false d a b w)

/-- SSUB: Scalar subtract, modulo 2^W. (R98) -/
def execSsub (d : BitVec 7) (a : BitVec 7) (b : BitVec 7) (w : BitVec 1) (s : State) : Out State :=
  issue (.ssub d a b w) s (scalarRR (fun _ x y _ => x - y) false d a b w)

/-- SMULLO: Scalar multiply, keeping the low W bits. (R98) -/
def execSmullo (d : BitVec 7) (a : BitVec 7) (b : BitVec 7) (w : BitVec 1) (s : State) : Out State :=
  issue (.smullo d a b w) s (scalarRR (fun _ x y _ => x * y) false d a b w)

/-- SMULHI_S: Scalar signed multiply, keeping the high W bits. (R98) -/
def execSmulhiS (d : BitVec 7) (a : BitVec 7) (b : BitVec 7) (w : BitVec 1) (s : State) : Out State :=
  issue (.smulhiS d a b w) s (scalarRR (fun _ x y _ => mulHiS x y) false d a b w)

/-- SMULHI_U: Scalar unsigned multiply, keeping the high W bits. (R98) -/
def execSmulhiU (d : BitVec 7) (a : BitVec 7) (b : BitVec 7) (w : BitVec 1) (s : State) : Out State :=
  issue (.smulhiU d a b w) s (scalarRR (fun _ x y _ => mulHiU x y) true d a b w)

/-- SMAD: Scalar multiply-add into the destination, which is also read. (R98) -/
def execSmad (d : BitVec 7) (a : BitVec 7) (b : BitVec 7) (w : BitVec 1) (s : State) : Out State :=
  issue (.smad d a b w) s (scalarRR (fun _ x y z => z + x * y) false d a b w)

/-- SMIN_S: Scalar signed minimum. (R98) -/
def execSminS (d : BitVec 7) (a : BitVec 7) (b : BitVec 7) (w : BitVec 1) (s : State) : Out State :=
  issue (.sminS d a b w) s (scalarRR (fun _ x y _ => minS x y) false d a b w)

/-- SMIN_U: Scalar unsigned minimum. (R98) -/
def execSminU (d : BitVec 7) (a : BitVec 7) (b : BitVec 7) (w : BitVec 1) (s : State) : Out State :=
  issue (.sminU d a b w) s (scalarRR (fun _ x y _ => minU x y) true d a b w)

/-- SMAX_S: Scalar signed maximum. (R98) -/
def execSmaxS (d : BitVec 7) (a : BitVec 7) (b : BitVec 7) (w : BitVec 1) (s : State) : Out State :=
  issue (.smaxS d a b w) s (scalarRR (fun _ x y _ => maxS x y) false d a b w)

/-- SMAX_U: Scalar unsigned maximum. (R98) -/
def execSmaxU (d : BitVec 7) (a : BitVec 7) (b : BitVec 7) (w : BitVec 1) (s : State) : Out State :=
  issue (.smaxU d a b w) s (scalarRR (fun _ x y _ => maxU x y) true d a b w)

/-- SADDS_S: Scalar signed saturating add; sets sat when it clamps. (R99) -/
def execSaddsS (d : BitVec 7) (a : BitVec 7) (b : BitVec 7) (w : BitVec 1) (s : State) : Out State :=
  issue (.saddsS d a b w) s (scalarSat (fun _ x y => addsS x y) false d a b w)

/-- SADDS_U: Scalar unsigned saturating add; sets sat when it clamps. (R99) -/
def execSaddsU (d : BitVec 7) (a : BitVec 7) (b : BitVec 7) (w : BitVec 1) (s : State) : Out State :=
  issue (.saddsU d a b w) s (scalarSat (fun _ x y => addsU x y) true d a b w)

/-- SADDC: Add with carry through the register pair sd, sd+1. (R100) -/
def execSaddc (d : BitVec 7) (a : BitVec 7) (b : BitVec 7) (w : BitVec 1) (s : State) : Out State :=
  issue (.saddc d a b w) s (scalarPair (fun _ x y c => addCarry x y c) d a b w)

/-- SSUBB: Subtract with borrow through the register pair sd, sd+1. (R100) -/
def execSsubb (d : BitVec 7) (a : BitVec 7) (b : BitVec 7) (w : BitVec 1) (s : State) : Out State :=
  issue (.ssubb d a b w) s (scalarPair (fun _ x y c => subBorrow x y c) d a b w)

/-- SABS: Scalar absolute value. (R98) -/
def execSabs (d : BitVec 7) (a : BitVec 7) (w : BitVec 1) (s : State) : Out State :=
  issue (.sabs d a w) s (scalarRR (fun _ x _ _ => absS x) false d a 0 w)

/-- SNEG: Scalar negation. (R98) -/
def execSneg (d : BitVec 7) (a : BitVec 7) (w : BitVec 1) (s : State) : Out State :=
  issue (.sneg d a w) s (scalarRR (fun _ x _ _ => -x) false d a 0 w)

/-- SAND: Scalar bitwise AND. (R98) -/
def execSand (d : BitVec 7) (a : BitVec 7) (b : BitVec 7) (w : BitVec 1) (s : State) : Out State :=
  issue (.sand d a b w) s (scalarRR (fun _ x y _ => x &&& y) false d a b w)

/-- SOR: Scalar bitwise OR. (R98) -/
def execSor (d : BitVec 7) (a : BitVec 7) (b : BitVec 7) (w : BitVec 1) (s : State) : Out State :=
  issue (.sor d a b w) s (scalarRR (fun _ x y _ => x ||| y) false d a b w)

/-- SXOR: Scalar bitwise XOR. (R98) -/
def execSxor (d : BitVec 7) (a : BitVec 7) (b : BitVec 7) (w : BitVec 1) (s : State) : Out State :=
  issue (.sxor d a b w) s (scalarRR (fun _ x y _ => x ^^^ y) false d a b w)

/-- SANDN: Scalar x AND NOT y. (R98) -/
def execSandn (d : BitVec 7) (a : BitVec 7) (b : BitVec 7) (w : BitVec 1) (s : State) : Out State :=
  issue (.sandn d a b w) s (scalarRR (fun _ x y _ => x &&& ~~~y) false d a b w)

/-- SNOT: Scalar bitwise NOT. (R98) -/
def execSnot (d : BitVec 7) (a : BitVec 7) (w : BitVec 1) (s : State) : Out State :=
  issue (.snot d a w) s (scalarRR (fun _ x _ _ => ~~~x) false d a 0 w)

/-- SSHL: Scalar shift left by a register count. (R101) -/
def execSshl (d : BitVec 7) (a : BitVec 7) (b : BitVec 7) (w : BitVec 1) (s : State) : Out State :=
  issue (.sshl d a b w) s (scalarRR (fun _ x y _ => shl x y.toNat) false d a b w)

/-- SSHR: Scalar logical shift right by a register count. (R101) -/
def execSshr (d : BitVec 7) (a : BitVec 7) (b : BitVec 7) (w : BitVec 1) (s : State) : Out State :=
  issue (.sshr d a b w) s (scalarRR (fun _ x y _ => shr x y.toNat) true d a b w)

/-- SSAR: Scalar arithmetic shift right by a register count. (R101) -/
def execSsar (d : BitVec 7) (a : BitVec 7) (b : BitVec 7) (w : BitVec 1) (s : State) : Out State :=
  issue (.ssar d a b w) s (scalarRR (fun _ x y _ => sar x y.toNat) false d a b w)

/-- SROT: Scalar rotate left. (R101) -/
def execSrot (d : BitVec 7) (a : BitVec 7) (b : BitVec 7) (w : BitVec 1) (s : State) : Out State :=
  issue (.srot d a b w) s (scalarRR (fun _ x y _ => rot x y.toNat) false d a b w)

/-- SCLZ: Scalar count of leading zero bits. (R98) -/
def execSclz (d : BitVec 7) (a : BitVec 7) (w : BitVec 1) (s : State) : Out State :=
  issue (.sclz d a w) s (scalarRR (fun _ x _ _ => BitVec.ofNat _ (leadingZeros x)) false d a 0 w)

/-- SPOP: Scalar population count. (R98) -/
def execSpop (d : BitVec 7) (a : BitVec 7) (w : BitVec 1) (s : State) : Out State :=
  issue (.spop d a w) s (scalarRR (fun _ x _ _ => BitVec.ofNat _ (popCount x)) false d a 0 w)

/-- SBREV: Scalar bit reversal. (R98) -/
def execSbrev (d : BitVec 7) (a : BitVec 7) (w : BitVec 1) (s : State) : Out State :=
  issue (.sbrev d a w) s (scalarRR (fun _ x _ _ => bitReverse x) false d a 0 w)

/-- SBFE_U: Scalar bitfield extract, zero-extended. (R102) -/
def execSbfeU (d : BitVec 7) (a : BitVec 7) (b : BitVec 7) (w : BitVec 1) (s : State) : Out State :=
  issue (.sbfeU d a b w) s (scalarRR (fun _ x y _ => bfeU x y) false d a b w)

/-- SBFE_S: Scalar bitfield extract, sign-extended. (R102) -/
def execSbfeS (d : BitVec 7) (a : BitVec 7) (b : BitVec 7) (w : BitVec 1) (s : State) : Out State :=
  issue (.sbfeS d a b w) s (scalarRR (fun _ x y _ => bfeS x y) false d a b w)

/-- SBFI: Scalar bitfield insert into the destination. (R102) -/
def execSbfi (d : BitVec 7) (a : BitVec 7) (b : BitVec 7) (w : BitVec 1) (s : State) : Out State :=
  issue (.sbfi d a b w) s (scalarRR (fun _ x y z => bfi x y z) false d a b w)

/-- SUNPACK: Scalar sign extension of the upper half. (R98) -/
def execSunpack (d : BitVec 7) (a : BitVec 7) (w : BitVec 1) (s : State) : Out State :=
  issue (.sunpack d a w) s (scalarRR (fun _ x _ _ => unpackHi x) false d a 0 w)

/-- SCMP: Scalar compare under a condition code; writes 1 or 0. (R103) -/
def execScmp (c : BitVec 3) (d : BitVec 7) (a : BitVec 7) (b : BitVec 7) (w : BitVec 1) (s : State) : Out State :=
  issue (.scmp c d a b w) s (scalarRR (fun n x y _ => if cmpInt c x y then BitVec.ofNat n 1 else 0) true d a b w)

/-- SMOV: Scalar move; the .i32 form sign-extends. (R98) -/
def execSmov (d : BitVec 7) (a : BitVec 7) (w : BitVec 1) (s : State) : Out State :=
  issue (.smov d a w) s (scalarRR (fun _ x _ _ => x) false d a 0 w)

/-- SEXT8_S: Sign-extends bits [7:0]. (R98) -/
def execSext8S (d : BitVec 7) (a : BitVec 7) (w : BitVec 1) (s : State) : Out State :=
  issue (.sext8S d a w) s (scalarRR (fun _ x _ _ => extS 8 x) false d a 0 w)

/-- SEXT8_U: Zero-extends bits [7:0]. (R98) -/
def execSext8U (d : BitVec 7) (a : BitVec 7) (w : BitVec 1) (s : State) : Out State :=
  issue (.sext8U d a w) s (scalarRR (fun _ x _ _ => extU 8 x) true d a 0 w)

/-- SEXT16_S: Sign-extends bits [15:0]. (R98) -/
def execSext16S (d : BitVec 7) (a : BitVec 7) (w : BitVec 1) (s : State) : Out State :=
  issue (.sext16S d a w) s (scalarRR (fun _ x _ _ => extS 16 x) false d a 0 w)

/-- SEXT16_U: Zero-extends bits [15:0]. (R98) -/
def execSext16U (d : BitVec 7) (a : BitVec 7) (w : BitVec 1) (s : State) : Out State :=
  issue (.sext16U d a w) s (scalarRR (fun _ x _ _ => extU 16 x) true d a 0 w)

/-- SLEA: Adds a sign-extended 32-bit index to a 64-bit base. (R98) -/
def execSlea (d : BitVec 7) (a : BitVec 7) (b : BitVec 7) (s : State) : Out State :=
  issue (.slea d a b) s (fun s => .ok (s.setSreg d.toNat (s.src a.toNat + (lo32 (s.src b.toNat)).signExtend 64)))

/-- SSEL: Scalar select on whether the destination is non-zero. (R98) -/
def execSsel (d : BitVec 7) (a : BitVec 7) (b : BitVec 7) (w : BitVec 1) (s : State) : Out State :=
  issue (.ssel d a b w) s (scalarRR (fun _ x y z => if z ≠ 0 then x else y) false d a b w)

/-- SPACK: Packs the low halves of two scalars. (R98) -/
def execSpack (d : BitVec 7) (a : BitVec 7) (b : BitVec 7) (w : BitVec 1) (s : State) : Out State :=
  issue (.spack d a b w) s (scalarRR (fun _ x y _ => packLo x y) true d a b w)

/-- SADD_IMM: Scalar add of an immediate. (R104) -/
def execSaddImm (d : BitVec 7) (a : BitVec 7) (i : BitVec 9) (s : State) : Out State :=
  issue (.saddImm d a i) s (scalarRI (fun x y => x + y) d a i)

/-- SAND_IMM: Scalar AND with an immediate. (R104) -/
def execSandImm (d : BitVec 7) (a : BitVec 7) (i : BitVec 9) (s : State) : Out State :=
  issue (.sandImm d a i) s (scalarRI (fun x y => x &&& y) d a i)

/-- SOR_IMM: Scalar OR with an immediate. (R104) -/
def execSorImm (d : BitVec 7) (a : BitVec 7) (i : BitVec 9) (s : State) : Out State :=
  issue (.sorImm d a i) s (scalarRI (fun x y => x ||| y) d a i)

/-- SXOR_IMM: Scalar XOR with an immediate. (R104) -/
def execSxorImm (d : BitVec 7) (a : BitVec 7) (i : BitVec 9) (s : State) : Out State :=
  issue (.sxorImm d a i) s (scalarRI (fun x y => x ^^^ y) d a i)

/-- SSHL_IMM: Scalar shift left by an immediate. (R104) -/
def execSshlImm (d : BitVec 7) (a : BitVec 7) (i : BitVec 9) (s : State) : Out State :=
  issue (.sshlImm d a i) s (scalarRI (fun x y => shl x y.toNat) d a i)

/-- SSHR_IMM: Scalar logical shift right by an immediate. (R104) -/
def execSshrImm (d : BitVec 7) (a : BitVec 7) (i : BitVec 9) (s : State) : Out State :=
  issue (.sshrImm d a i) s (scalarRI (fun x y => shr x y.toNat) d a i)

/-- SSAR_IMM: Scalar arithmetic shift right by an immediate. (R104) -/
def execSsarImm (d : BitVec 7) (a : BitVec 7) (i : BitVec 9) (s : State) : Out State :=
  issue (.ssarImm d a i) s (scalarRI (fun x y => sar x y.toNat) d a i)

/-- SMOVI: Moves an immediate into a scalar. (R104) -/
def execSmovi (d : BitVec 7) (i : BitVec 9) (s : State) : Out State :=
  issue (.smovi d i) s (scalarRI (fun _ y => y) d 0 i)

/-- SDIV_S: Multi-turn signed scalar division that sets a completion flag. (R106) -/
def execSdivS (f : BitVec 4) (d : BitVec 7) (a : BitVec 7) (b : BitVec 7) (s : State) : Out State :=
  issue (.sdivS f d a b) s (scalarDiv divS f d a b)

/-- SDIV_U: Multi-turn unsigned scalar division. (R106) -/
def execSdivU (f : BitVec 4) (d : BitVec 7) (a : BitVec 7) (b : BitVec 7) (s : State) : Out State :=
  issue (.sdivU f d a b) s (scalarDiv divU f d a b)

/-- SREM_S: Multi-turn signed scalar remainder. (R106) -/
def execSremS (f : BitVec 4) (d : BitVec 7) (a : BitVec 7) (b : BitVec 7) (s : State) : Out State :=
  issue (.sremS f d a b) s (scalarDiv remS f d a b)

/-- SREM_U: Multi-turn unsigned scalar remainder. (R106) -/
def execSremU (f : BitVec 4) (d : BitVec 7) (a : BitVec 7) (b : BitVec 7) (s : State) : Out State :=
  issue (.sremU f d a b) s (scalarDiv remU f d a b)

/-- VADD: Vector add per lane. (R98) -/
def execVadd (d : BitVec 7) (a : BitVec 7) (b : BitVec 7) (bs : BitVec 1) (s : State) : Out State :=
  issue (.vadd d a b bs) s (vectorRR (fun _ x y _ => x + y) d a b bs)

/-- VSUB: Vector subtract per lane. (R98) -/
def execVsub (d : BitVec 7) (a : BitVec 7) (b : BitVec 7) (bs : BitVec 1) (s : State) : Out State :=
  issue (.vsub d a b bs) s (vectorRR (fun _ x y _ => x - y) d a b bs)

/-- VMULLO: Vector multiply, keeping the low bits. (R98) -/
def execVmullo (d : BitVec 7) (a : BitVec 7) (b : BitVec 7) (bs : BitVec 1) (s : State) : Out State :=
  issue (.vmullo d a b bs) s (vectorRR (fun _ x y _ => x * y) d a b bs)

/-- VMULHI_S: Vector signed multiply, keeping the high bits. (R98) -/
def execVmulhiS (d : BitVec 7) (a : BitVec 7) (b : BitVec 7) (bs : BitVec 1) (s : State) : Out State :=
  issue (.vmulhiS d a b bs) s (vectorRR (fun _ x y _ => mulHiS x y) d a b bs)

/-- VMULHI_U: Vector unsigned multiply, keeping the high bits. (R98) -/
def execVmulhiU (d : BitVec 7) (a : BitVec 7) (b : BitVec 7) (bs : BitVec 1) (s : State) : Out State :=
  issue (.vmulhiU d a b bs) s (vectorRR (fun _ x y _ => mulHiU x y) d a b bs)

/-- VMAD: Vector multiply-add into the destination. (R98) -/
def execVmad (d : BitVec 7) (a : BitVec 7) (b : BitVec 7) (bs : BitVec 1) (s : State) : Out State :=
  issue (.vmad d a b bs) s (vectorRR (fun _ x y z => z + x * y) d a b bs)

/-- VMIN_S: Vector signed minimum. (R98) -/
def execVminS (d : BitVec 7) (a : BitVec 7) (b : BitVec 7) (bs : BitVec 1) (s : State) : Out State :=
  issue (.vminS d a b bs) s (vectorRR (fun _ x y _ => minS x y) d a b bs)

/-- VMIN_U: Vector unsigned minimum. (R98) -/
def execVminU (d : BitVec 7) (a : BitVec 7) (b : BitVec 7) (bs : BitVec 1) (s : State) : Out State :=
  issue (.vminU d a b bs) s (vectorRR (fun _ x y _ => minU x y) d a b bs)

/-- VMAX_S: Vector signed maximum. (R98) -/
def execVmaxS (d : BitVec 7) (a : BitVec 7) (b : BitVec 7) (bs : BitVec 1) (s : State) : Out State :=
  issue (.vmaxS d a b bs) s (vectorRR (fun _ x y _ => maxS x y) d a b bs)

/-- VMAX_U: Vector unsigned maximum. (R98) -/
def execVmaxU (d : BitVec 7) (a : BitVec 7) (b : BitVec 7) (bs : BitVec 1) (s : State) : Out State :=
  issue (.vmaxU d a b bs) s (vectorRR (fun _ x y _ => maxU x y) d a b bs)

/-- VADDS_S: Vector signed saturating add. (R99) -/
def execVaddsS (d : BitVec 7) (a : BitVec 7) (b : BitVec 7) (bs : BitVec 1) (s : State) : Out State :=
  issue (.vaddsS d a b bs) s (vectorSat (fun _ x y => addsS x y) d a b bs)

/-- VADDS_U: Vector unsigned saturating add. (R99) -/
def execVaddsU (d : BitVec 7) (a : BitVec 7) (b : BitVec 7) (bs : BitVec 1) (s : State) : Out State :=
  issue (.vaddsU d a b bs) s (vectorSat (fun _ x y => addsU x y) d a b bs)

/-- VABS: Vector absolute value. (R98) -/
def execVabs (d : BitVec 7) (b : BitVec 7) (bs : BitVec 1) (s : State) : Out State :=
  issue (.vabs d b bs) s (vectorRR (fun _ _ y _ => absS y) d 0 b bs)

/-- VNEG: Vector negation. (R98) -/
def execVneg (d : BitVec 7) (b : BitVec 7) (bs : BitVec 1) (s : State) : Out State :=
  issue (.vneg d b bs) s (vectorRR (fun _ _ y _ => -y) d 0 b bs)

/-- VSEL: Vector select per lane. (R98) -/
def execVsel (d : BitVec 7) (a : BitVec 7) (b : BitVec 7) (bs : BitVec 1) (s : State) : Out State :=
  issue (.vsel d a b bs) s (vectorRR (fun _ x y z => if z ≠ 0 then x else y) d a b bs)

/-- VMOV: Vector move. (R98) -/
def execVmov (d : BitVec 7) (b : BitVec 7) (bs : BitVec 1) (s : State) : Out State :=
  issue (.vmov d b bs) s (vectorRR (fun _ _ y _ => y) d 0 b bs)

/-- VAND: Vector bitwise AND. (R98) -/
def execVand (d : BitVec 7) (a : BitVec 7) (b : BitVec 7) (bs : BitVec 1) (s : State) : Out State :=
  issue (.vand d a b bs) s (vectorRR (fun _ x y _ => x &&& y) d a b bs)

/-- VOR: Vector bitwise OR. (R98) -/
def execVor (d : BitVec 7) (a : BitVec 7) (b : BitVec 7) (bs : BitVec 1) (s : State) : Out State :=
  issue (.vor d a b bs) s (vectorRR (fun _ x y _ => x ||| y) d a b bs)

/-- VXOR: Vector bitwise XOR. (R98) -/
def execVxor (d : BitVec 7) (a : BitVec 7) (b : BitVec 7) (bs : BitVec 1) (s : State) : Out State :=
  issue (.vxor d a b bs) s (vectorRR (fun _ x y _ => x ^^^ y) d a b bs)

/-- VANDN: Vector x AND NOT y. (R98) -/
def execVandn (d : BitVec 7) (a : BitVec 7) (b : BitVec 7) (bs : BitVec 1) (s : State) : Out State :=
  issue (.vandn d a b bs) s (vectorRR (fun _ x y _ => x &&& ~~~y) d a b bs)

/-- VNOT: Vector bitwise NOT. (R98) -/
def execVnot (d : BitVec 7) (b : BitVec 7) (bs : BitVec 1) (s : State) : Out State :=
  issue (.vnot d b bs) s (vectorRR (fun _ _ y _ => ~~~y) d 0 b bs)

/-- VSHL: Vector shift left. (R101) -/
def execVshl (d : BitVec 7) (a : BitVec 7) (b : BitVec 7) (bs : BitVec 1) (s : State) : Out State :=
  issue (.vshl d a b bs) s (vectorRR (fun _ x y _ => shl x y.toNat) d a b bs)

/-- VSHR: Vector logical shift right. (R101) -/
def execVshr (d : BitVec 7) (a : BitVec 7) (b : BitVec 7) (bs : BitVec 1) (s : State) : Out State :=
  issue (.vshr d a b bs) s (vectorRR (fun _ x y _ => shr x y.toNat) d a b bs)

/-- VSAR: Vector arithmetic shift right. (R101) -/
def execVsar (d : BitVec 7) (a : BitVec 7) (b : BitVec 7) (bs : BitVec 1) (s : State) : Out State :=
  issue (.vsar d a b bs) s (vectorRR (fun _ x y _ => sar x y.toNat) d a b bs)

/-- VROT: Vector rotate left. (R101) -/
def execVrot (d : BitVec 7) (a : BitVec 7) (b : BitVec 7) (bs : BitVec 1) (s : State) : Out State :=
  issue (.vrot d a b bs) s (vectorRR (fun _ x y _ => rot x y.toNat) d a b bs)

/-- VCLZ: Vector count of leading zero bits. (R98) -/
def execVclz (d : BitVec 7) (b : BitVec 7) (bs : BitVec 1) (s : State) : Out State :=
  issue (.vclz d b bs) s (vectorRR (fun _ _ y _ => BitVec.ofNat _ (leadingZeros y)) d 0 b bs)

/-- VPOP: Vector population count. (R98) -/
def execVpop (d : BitVec 7) (b : BitVec 7) (bs : BitVec 1) (s : State) : Out State :=
  issue (.vpop d b bs) s (vectorRR (fun _ _ y _ => BitVec.ofNat _ (popCount y)) d 0 b bs)

/-- VBREV: Vector bit reversal. (R98) -/
def execVbrev (d : BitVec 7) (b : BitVec 7) (bs : BitVec 1) (s : State) : Out State :=
  issue (.vbrev d b bs) s (vectorRR (fun _ _ y _ => bitReverse y) d 0 b bs)

/-- VBFE_U: Vector bitfield extract, zero-extended. (R102) -/
def execVbfeU (d : BitVec 7) (a : BitVec 7) (b : BitVec 7) (bs : BitVec 1) (s : State) : Out State :=
  issue (.vbfeU d a b bs) s (vectorRR (fun _ x y _ => bfeU x y) d a b bs)

/-- VBFE_S: Vector bitfield extract, sign-extended. (R102) -/
def execVbfeS (d : BitVec 7) (a : BitVec 7) (b : BitVec 7) (bs : BitVec 1) (s : State) : Out State :=
  issue (.vbfeS d a b bs) s (vectorRR (fun _ x y _ => bfeS x y) d a b bs)

/-- VBFI: Vector bitfield insert. (R102) -/
def execVbfi (d : BitVec 7) (a : BitVec 7) (b : BitVec 7) (bs : BitVec 1) (s : State) : Out State :=
  issue (.vbfi d a b bs) s (vectorRR (fun _ x y z => bfi x y z) d a b bs)

/-- VLEA: Forms a 64-bit address per lane into a register pair. (R105) -/
def execVlea (d : BitVec 7) (a : BitVec 7) (b : BitVec 7) (bs : BitVec 1) (s : State) : Out State :=
  issue (.vlea d a b bs) s (fun s =>
    let t := fun l => s.srcLane a.toNat l + (s.vecB b bs l).signExtend 64
    .ok ((s.setV d.toNat s.exec (fun l => lo32 (t l))).setV (d.toNat + 1) s.exec (fun l => hi32 (t l))))

/-- VCMP: Vector integer compare into a mask register. (R103) -/
def execVcmp (c : BitVec 3) (d : BitVec 7) (a : BitVec 7) (b : BitVec 7) (bs : BitVec 1) (s : State) : Out State :=
  issue (.vcmp c d a b bs) s (fun s =>
    let r := maskOf (fun l => if laneBit s.exec l then cmpInt c (s.vlane a.toNat l) (s.vecB b bs l)
      else laneBit (s.kreg d.toNat) l)
    .ok (s.setKreg d.toNat r))

/-- VEXT8_S: Vector sign extension of bits [7:0]. (R98) -/
def execVext8S (d : BitVec 7) (b : BitVec 7) (bs : BitVec 1) (s : State) : Out State :=
  issue (.vext8S d b bs) s (vectorRR (fun _ _ y _ => extS 8 y) d 0 b bs)

/-- VEXT8_U: Vector zero extension of bits [7:0]. (R98) -/
def execVext8U (d : BitVec 7) (b : BitVec 7) (bs : BitVec 1) (s : State) : Out State :=
  issue (.vext8U d b bs) s (vectorRR (fun _ _ y _ => extU 8 y) d 0 b bs)

/-- VEXT16_S: Vector sign extension of bits [15:0]. (R98) -/
def execVext16S (d : BitVec 7) (b : BitVec 7) (bs : BitVec 1) (s : State) : Out State :=
  issue (.vext16S d b bs) s (vectorRR (fun _ _ y _ => extS 16 y) d 0 b bs)

/-- VEXT16_U: Vector zero extension of bits [15:0]. (R98) -/
def execVext16U (d : BitVec 7) (b : BitVec 7) (bs : BitVec 1) (s : State) : Out State :=
  issue (.vext16U d b bs) s (vectorRR (fun _ _ y _ => extU 16 y) d 0 b bs)

/-- VPACK: Vector pack of two 16-bit halves. (R98) -/
def execVpack (d : BitVec 7) (a : BitVec 7) (b : BitVec 7) (bs : BitVec 1) (s : State) : Out State :=
  issue (.vpack d a b bs) s (vectorRR (fun _ x y _ => packLo x y) d a b bs)

/-- VUNPACK: Vector sign extension of the upper half. (R98) -/
def execVunpack (d : BitVec 7) (b : BitVec 7) (bs : BitVec 1) (s : State) : Out State :=
  issue (.vunpack d b bs) s (vectorRR (fun _ _ y _ => unpackHi y) d 0 b bs)

/-- VADD_IMM: Vector add of an immediate. (R104) -/
def execVaddImm (d : BitVec 7) (a : BitVec 7) (i : BitVec 9) (s : State) : Out State :=
  issue (.vaddImm d a i) s (vectorRI (fun x y => x + y) d a i)

/-- VAND_IMM: Vector AND with an immediate. (R104) -/
def execVandImm (d : BitVec 7) (a : BitVec 7) (i : BitVec 9) (s : State) : Out State :=
  issue (.vandImm d a i) s (vectorRI (fun x y => x &&& y) d a i)

/-- VOR_IMM: Vector OR with an immediate. (R104) -/
def execVorImm (d : BitVec 7) (a : BitVec 7) (i : BitVec 9) (s : State) : Out State :=
  issue (.vorImm d a i) s (vectorRI (fun x y => x ||| y) d a i)

/-- VXOR_IMM: Vector XOR with an immediate. (R104) -/
def execVxorImm (d : BitVec 7) (a : BitVec 7) (i : BitVec 9) (s : State) : Out State :=
  issue (.vxorImm d a i) s (vectorRI (fun x y => x ^^^ y) d a i)

/-- VSHL_IMM: Vector shift left by an immediate. (R104) -/
def execVshlImm (d : BitVec 7) (a : BitVec 7) (i : BitVec 9) (s : State) : Out State :=
  issue (.vshlImm d a i) s (vectorRI (fun x y => shl x y.toNat) d a i)

/-- VSHR_IMM: Vector logical shift right by an immediate. (R104) -/
def execVshrImm (d : BitVec 7) (a : BitVec 7) (i : BitVec 9) (s : State) : Out State :=
  issue (.vshrImm d a i) s (vectorRI (fun x y => shr x y.toNat) d a i)

/-- VSAR_IMM: Vector arithmetic shift right by an immediate. (R104) -/
def execVsarImm (d : BitVec 7) (a : BitVec 7) (i : BitVec 9) (s : State) : Out State :=
  issue (.vsarImm d a i) s (vectorRI (fun x y => sar x y.toNat) d a i)

/-- VMOVI: Moves an immediate into every lane. (R104) -/
def execVmovi (d : BitVec 7) (i : BitVec 9) (s : State) : Out State :=
  issue (.vmovi d i) s (vectorRI (fun _ y => y) d 0 i)

/-- VDIV_S: Multi-turn signed vector division. (R106) -/
def execVdivS (f : BitVec 4) (d : BitVec 7) (a : BitVec 7) (b : BitVec 7) (s : State) : Out State :=
  issue (.vdivS f d a b) s (vectorDiv divS f d a b)

/-- VDIV_U: Multi-turn unsigned vector division. (R106) -/
def execVdivU (f : BitVec 4) (d : BitVec 7) (a : BitVec 7) (b : BitVec 7) (s : State) : Out State :=
  issue (.vdivU f d a b) s (vectorDiv divU f d a b)

/-- VREM_S: Multi-turn signed vector remainder. (R106) -/
def execVremS (f : BitVec 4) (d : BitVec 7) (a : BitVec 7) (b : BitVec 7) (s : State) : Out State :=
  issue (.vremS f d a b) s (vectorDiv remS f d a b)

/-- VREM_U: Multi-turn unsigned vector remainder. (R106) -/
def execVremU (f : BitVec 4) (d : BitVec 7) (a : BitVec 7) (b : BitVec 7) (s : State) : Out State :=
  issue (.vremU f d a b) s (vectorDiv remU f d a b)

end Sys2Proof.Machine
end

