-- ==== Sys2Proof/Machine/Fence.lean ====
section
/-! DEFINITION. The conditions of fences (spec 14 R239) and the completion of held splits (02 R39). -/

namespace Sys2Proof.Machine

/-- ε of a scope: 2 ns for die and package, 20 ns for fabric and system (R239, 10 R157). -/
def epsilon (scope : Nat) : Nat := if 4 ≤ scope then 20 else 2

/-- The conditions of `fence.acq` on the operations named below `before`: earlier loads and atomics have completed. -/
def State.acqOk (s : State) (before : Nat) : Bool :=
  s.cur.acc.ops.all (fun o => !(decide (o.id < before) && (o.kind == .load || o.kind == .atomic)))

/-- Earlier stores, atomics, `red`, `st.mc` and copies have completed. -/
def State.drained (s : State) (before : Nat) : Bool :=
  s.cur.acc.ops.all (fun o => !(decide (o.id < before) && o.kind != .load)) &&
    s.copies.all (fun c => !(decide (c.id < before) && c.uid == s.cur.place.uid && c.node.isNone))

/-- The conditions of `fence.rel` at a scope (R239). -/
def State.relOk (s : State) (scope before : Nat) : Bool :=
  s.drained before && (decide (scope < 2) || decide (s.cur.acc.wctmax.toNat + epsilon scope < s.pace))

/-- The operations whose deferred causes a fence raises (10 R171). -/
def acqKinds : OpKind → Bool
  | .load | .atomic => true
  | _ => false
def relKinds : OpKind → Bool
  | .load => false
  | _ => true

/-- The kinds of the store class, whose deferred causes a `waitc` that limits it raises (20 R356). -/
def stKinds : OpKind → Bool
  | .load | .copy => false
  | _ => true

/-- A fence (R239): it completes in its issue turn where its conditions hold, else it holds its split. -/
def doFence (acq rel : Bool) (scope : Nat) (s : State) : Act :=
  let ok := (!acq || s.acqOk s.nextId) && (!rel || s.relOk scope s.nextId)
  if ok then withDeferred (fun k => (acq && acqKinds k) || (rel && relKinds k)) s .ok
  else .hold s (.fence acq rel scope s.nextId)

/-- The split passes the word at which it was held: its bundle is complete (02 R39, 14 R237). -/
def Ctl.pass (c : Ctl) (i : Fin 4) : Ctl :=
  let sp := c.split i
  (c.setSplit i { sp with pc := sp.pc + 4, bundle := Bundle.none, wait := .none, wdog := 0 }).performed i sp.bundle.start

/-- A held instruction completes: the split passes its word (02 R39). -/
def State.release (s : State) (i : Fin 4) : State :=
  s.modCtl (fun c => c.pass i)

/-- A held instruction of a named group completes with a status in `s`d, where it has one (below 64). -/
def State.answer (s : State) (uid : Nat) (i : Fin 4) (d : Nat) (v : DWord) : State :=
  s.modGroup uid (fun g =>
    { g with
      ctl := g.ctl.pass i
      regs := if d < 64 then { g.regs with s := g.regs.s.setIfInBounds d v, bad := healed g.regs.bad (.s d) 1 } else g.regs })

end Sys2Proof.Machine
end

