-- ==== Sys2Proof/Machine/Translate.lean ====
section
/-! DEFINITION. Translation (spec 09 R146-R152) and the records of translation faults (19 R330, 18 R319). -/

namespace Sys2Proof.Machine

/-! ## Table entries (09 R148, R149) -/

/-- A leaf found by a walk of one stage: the output address, u, x, w, r in bits 3 to 0, page size, level. -/
structure Leaf where
  out  : Nat
  perm : BitVec 4
  bits : Nat
  lvl  : Nat
  far  : Bool
  fpi  : Option Nat
  deriving DecidableEq, Repr

/-- A fault of a walk (R152): cause 8 PAGE_FAULT, 9 PROTECTION, 10 TABLE_FORMAT; stage; stage-1 and stage-2 level; the
IPA that stage 2 was walking. -/
structure XFault where
  cause : Nat
  stage : Nat
  l1    : Nat
  l2    : Nat
  ipa   : Nat
  deriving DecidableEq, Repr

/-- What a walk ends in: a leaf, a fault, or a `far` leaf. -/
inductive WalkRes
  | ok (l : Leaf)
  | fault (f : XFault)
  | far (f : FarLeaf)
  deriving DecidableEq, Repr

/-- The page size of a leaf as a power of two (R149). -/
def leafBits (e lvl : Nat) : Nat :=
  match lvl with
  | 1 => 30
  | 2 => 21
  | _ => if bitsOf e 7 7 = 1 then 16 else 12

/-- The malformed cases of R149 but the group of a `c64` leaf. -/
def malformed (e lvl st : Nat) : Bool :=
  let leaf := decide (bitsOf e 1 1 = 1)
  let oa := bitsOf e 115 64
  let bit := fun i => decide (bitsOf e i i = 1)
  bitsOf e 127 116 != 0 || bitsOf e 43 9 != 0 || bit 2 ||
    (leaf && decide (lvl = 0)) || (!leaf && decide (lvl = 3)) ||
    (!leaf && decide (oa % 2 = 1)) ||
    (leaf && !bit 7 && decide (oa * 4096 % 2 ^ leafBits e lvl ≠ 0)) ||
    (decide (st = 1) && decide (oa / 2 ^ 36 ≠ 0)) ||
    (bitsOf e 63 44 != 0 && !(decide (st = 2) && leaf)) ||
    (bit 8 && !(decide (st = 2) && leaf)) ||
    (bit 7 && !(leaf && decide (lvl = 3))) ||
    (bit 6 && !(decide (st = 1) && leaf)) ||
    (bitsOf e 5 3 != 0 && !leaf)

/-- The 16 entries of a `c64` group: all `c64`, identical low halves, outputs rising from a 64 KiB-aligned first. -/
def groupOk (es : List Nat) : Bool :=
  match es with
  | [] => false
  | e0 :: _ =>
    decide (es.length = 16) && decide (bitsOf e0 115 64 % 16 = 0) &&
      (es.zipIdx.all (fun p => bitsOf p.1 7 7 == 1 && p.1 % 2 ^ 64 == e0 % 2 ^ 64 &&
        bitsOf p.1 115 64 == bitsOf e0 115 64 + p.2))

/-- The primary that a walker of a die reads at (R147). -/
def State.walkHome (s : State) (die fa : Nat) : Option RtHolder := s.homeFrom (s.localId die) fa 16 []

/-- Reads 16 bytes for a walker at package scope, at the primary that its die routes to (R147). -/
def State.walkRead (s : State) (die world fa : Nat) : Option Nat :=
  match s.walkHome die fa with
  | none => none
  | some h =>
    if s.worldOk h.holder fa world && !(s.lineAt h.holder fa).poison then
      some (ofLeBytes (s.bytesAt h.holder fa 16))
    else none

/-- What reading an entry gives: the entry, or what ends the walk; and the fabric lines read for it. -/
abbrev EntryRead := Except WalkRes Nat × List Nat

/-- The other entries of a `c64` group, and the first failure of a read among them. -/
def readGroup (read : Nat → EntryRead) : List Nat → Except WalkRes (List Nat) × List Nat
  | [] => (.ok [], [])
  | a :: as =>
    match read a with
    | (.error r, l) => (.error r, l)
    | (.ok e, l) =>
      let r := readGroup read as
      (match r.1 with | .ok es => .ok (e :: es) | .error x => .error x, l ++ r.2)

/-- The walk of one stage from a table at level `lvl`; `read` gives an entry or what met its reading. The answer, and the
fabric lines read. -/
def walkStage (st : Nat) (read : Nat → Nat → EntryRead) (mk : Nat → Nat → XFault) (x : Nat) :
    List Nat → Nat → WalkRes × List Nat
  | [], _ => (.fault (mk 8 3), [])
  | lvl :: rest, t =>
    let i := bitsOf x (47 - 9 * lvl) (39 - 9 * lvl)
    match read lvl (t + 16 * i) with
    | (.error r, l) => (r, l)
    | (.ok e, l) =>
      if e % 2 = 0 then (.fault (mk 8 lvl), l)
      else if malformed e lvl st then (.fault (mk 10 lvl), l)
      else if bitsOf e 1 1 = 1 then
        let b := leafBits e lvl
        let oa := bitsOf e 115 64
        let base := (if bitsOf e 7 7 = 1 then oa / 16 * 16 else oa) * 4096
        let perm := BitVec.ofNat 4 (bitsOf e 6 3)
        let grp := if bitsOf e 7 7 = 1 then
            readGroup (read lvl) ((List.range 16).map (fun j => t + 16 * (i / 16 * 16 + j)))
          else (.ok [], [])
        (match grp.1 with
          | .error r => r
          | .ok es =>
            if bitsOf e 7 7 = 1 && !groupOk es then .fault (mk 10 lvl)
            else .ok ⟨base + x % 2 ^ b, perm, b, lvl, bitsOf e 8 8 = 1, if st = 2 then some (bitsOf e 63 44) else none⟩,
          l ++ grp.2)
      else
        let r := walkStage st read mk x rest (bitsOf e 115 64 * 4096)
        (r.1, l ++ r.2)

/-- The identity of a disabled stage: all permissions (R147). -/
def Leaf.identity (x : Nat) : Leaf := ⟨x, 15, 64, 3, false, none⟩

/-- The stage-2 walk of an IPA; `l1` is the stage-1 level whose entry is being read, 3 for a data access (R152). A table
read that fails is TABLE_FORMAT (R147). -/
def State.walk2 (s : State) (die world root ipa l1 : Nat) : WalkRes × List Nat :=
  if root % 2 = 0 then (.ok (Leaf.identity ipa), [])
  else
    let mk := fun cause lvl => (⟨cause, 2, l1, lvl, ipa⟩ : XFault)
    let read := fun lvl ea => (match s.walkRead die world ea with
      | none => Except.error (.fault (mk 10 lvl))
      | some e => Except.ok e, [lineBase ea])
    walkStage 2 read mk ipa [0, 1, 2, 3] (root / 8192 * 8192)

/-- The footprint index of the block of an address under a leaf (R151). -/
def Leaf.block (l : Leaf) (x : Nat) : Nat := l.fpi.getD 0 + x % 2 ^ l.bits / 2 ^ 21

/-- The stage-1 walk of a GVA: every entry is read through stage 2 (R147). -/
def State.walk1 (s : State) (die world root1 root2 gva : Nat) : WalkRes × List Nat :=
  if root1 % 2 = 0 then (.ok (Leaf.identity gva), [])
  else
    let mk := fun cause lvl => (⟨cause, 1, lvl, 0, 0⟩ : XFault)
    let read := fun lvl ea => match s.walk2 die world root2 ea lvl with
      | (.ok l, ls) => if l.far then (Except.error (.far ⟨l.block ea, ea, lvl, l.out⟩), ls) else (match s.walkRead die world l.out with
        | some e => Except.ok e
        | none => Except.error (.fault (if root2 % 2 = 1 then ⟨10, 2, lvl, l.lvl, ea⟩ else mk 10 lvl)), ls ++ [lineBase l.out])
      | (r, ls) => (Except.error r, ls)
    walkStage 1 read mk gva [0, 1, 2, 3] (root1 / 8192 * 8192)

/-! ## Translating (09 R147, R150, R151) -/

/-- The permission bits an access needs: r 1, w 2, x 4 (R150). -/
def accessNeeds : Access → BitVec 4
  | .read => 1
  | .write => 2
  | .exec => 4
  | .atomic => 3

/-- A translation: the fabric address and what the cache entry records. -/
structure Xlate where
  fa     : Nat
  ipa    : Nat
  bits   : Nat
  perm   : BitVec 4
  s1perm : BitVec 4
  fpi    : Option Nat
  s1on   : Bool
  /-- The stage-2 leaf is `far` (R149); only a probe sees such a translation. -/
  far    : Bool
  deriving DecidableEq, Repr

inductive XRes
  | ok (x : Xlate)
  | fault (f : XFault)
  | far (f : FarLeaf)
  deriving DecidableEq, Repr

/-- Whether permissions allow an access at a level (R150). -/
def permOk (perm : BitVec 4) (acc : Access) (pl : Nat) : Bool :=
  (perm &&& accessNeeds acc) == accessNeeds acc && (decide (0 < pl) || perm.getLsbD 3)

/-- The walk of both stages in an address space: a world, a VDID and a stage-1 root; with the check of R150 at the end. `fpi` is
the block index of the start of the combined page (R151). With the answer, the fabric lines read. -/
def State.walkFrom (s : State) (world vdid r1 die gva : Nat) (acc : Option Access) (pl : Nat) : XRes × List Nat :=
  let r2 := ((s.vregs.s2root[vdid]?).getD 0).toNat
  if gva / 2 ^ 48 ≠ 0 then (.fault ⟨8, 1, 0, 0, 0⟩, [])
  else match s.walk1 die world r1 r2 gva with
    | (.fault f, l) => (.fault f, l)
    | (.far i, l) => (.far i, l)
    | (.ok a, l) =>
      match s.walk2 die world r2 a.out 3 with
      | (.fault f, k) => (.fault f, l ++ k)
      | (.far i, k) => (.far i, l ++ k)
      | (.ok b, k) =>
        let p2 := b.perm ||| 8
        let perm := a.perm &&& p2
        let m := min a.bits b.bits
        let fpi := b.fpi.map (fun f => f + a.out % 2 ^ b.bits / 2 ^ m * 2 ^ m / 2 ^ 21)
        (match acc with
          | none => .ok ⟨b.out, a.out, m, perm, a.perm, fpi, r1 % 2 = 1, b.far⟩
          | some acc =>
            if b.far then .far ⟨b.block a.out, a.out, 3, b.out⟩
            else if permOk perm acc pl then .ok ⟨b.out, a.out, m, perm, a.perm, fpi, r1 % 2 = 1, false⟩
            else if permOk a.perm acc pl then .fault ⟨9, 2, 3, b.lvl, a.out⟩
            else .fault ⟨9, 1, a.lvl, 0, 0⟩, l ++ k)

/-- The walk of both stages for a context. -/
def State.walkLines (s : State) (c : Ctx) (die gva : Nat) (acc : Option Access) (pl : Nat) : XRes × List Nat :=
  s.walkFrom c.world c.vdid c.s1root.toNat die gva acc pl

/-- What a walk of both stages answers. -/
def State.walkBoth (s : State) (c : Ctx) (die gva : Nat) (acc : Option Access) (pl : Nat) : XRes :=
  (s.walkLines c die gva acc pl).1

/-- A walker's reads arrive at their lines, which settle and are read where they lie (R147, 13 R227, 15 R258). -/
def State.walkArrive (s : State) (die world : Nat) (ls : List Nat) : State :=
  ls.foldl (fun (s : State) (fa : Nat) => match s.walkHome die fa with
    | none => s
    | some h =>
      let s := s.settleLine h.holder fa
      if s.worldOk h.holder fa world && !(s.lineAt h.holder fa).poison then s.unitRead h.holder fa else s) s

/-- A line that the walk has read waits at its primary. -/
def State.walkWaits (s : State) (die : Nat) (ls : List Nat) : Bool :=
  ls.any (fun fa => match s.walkHome die fa with | some h => s.lineWaits h.holder fa | none => false)

/-- A walk, done again where a line that it has read had to settle; its answer and the state after its reads (R147). -/
def walkedBy (look : State → XRes × List Nat) (die world : Nat) : Nat → State → XRes × State
  | 0, s => ((look s).1, s)
  | n + 1, s =>
    let r := look s
    let t := s.walkArrive die world r.2
    if s.walkWaits die r.2 then walkedBy look die world n t else (r.1, t)

/-- The walk of both stages with its reads (R147). -/
def State.walked (s : State) (c : Ctx) (die gva : Nat) (acc : Option Access) (pl : Nat) : XRes × State :=
  walkedBy (fun s => s.walkLines c die gva acc pl) die c.world 8 s

/-- A cached entry that serves an access (R151). -/
def State.cached (s : State) (slice : Nat) (c : Ctx) (gva : Nat) (acc : Access) (pl : Nat) : Option TrEntry :=
  s.tlb.find? (fun e => e.slice == slice && e.vdid == c.vdid && e.ctx == c.num &&
    e.gpage == gva / 2 ^ e.bits && permOk e.perm acc pl)

/-- The entry that records a walked translation (R151). -/
def TrEntry.of (slice : Nat) (c : Ctx) (gva : Nat) (x : Xlate) (now : Nat) : TrEntry :=
  let b := min x.bits 48
  ⟨slice, c.vdid, c.num, gva / 2 ^ b, x.ipa / 2 ^ b, x.fa / 2 ^ b, b, x.perm, x.s1perm, x.fpi, x.s1on, false, now⟩

/-- A translation is known to `tinv` from now on (13 R221). -/
def State.noteMapped (s : State) (e : TrEntry) : State :=
  let e := { e with slice := 0, recorded := false, lru := 0 }
  if s.mapped.contains e then s else { s with mapped := e :: s.mapped }

/-- A walked translation enters the slice's cache, the VDID's least recently used entry leaving where its quota is full;
with no quota nothing is kept (R151). -/
def State.cacheFill (s : State) (slice : Nat) (c : Ctx) (gva : Nat) (x : Xlate) : State :=
  let cap := 32 * bitsOf ((s.vregs.tq[c.vdid]?).getD 0).toNat 15 8
  let e := TrEntry.of slice c gva x s.cycle
  let s := s.noteMapped e
  if cap = 0 then s
  else
    let b := e.bits
    let same := s.tlb.filter (fun t => t.slice == slice && t.vdid == c.vdid)
    let tlb := s.tlb.filter (fun t => !(t.slice == slice && t.ctx == c.num && t.gpage == e.gpage && t.bits == b))
    if same.length < cap then { s with tlb := e :: tlb }
    else
      let oldest := same.foldl (fun m t => min m t.lru) s.cycle
      match same.find? (fun t => t.lru == oldest) with
      | some v => { s with tlb := e :: tlb.erase v }
      | none => { s with tlb := e :: tlb }

/-- The first use of an entry in a slice of its context sets its footprint bit (R151). -/
def State.footprint (s : State) (c : Ctx) (fpi : Option Nat) (off : Nat) (fresh : Bool) : State :=
  match fpi with
  | none => s
  | some i =>
    let b := c.fpBase.toNat
    if b % 2 = 1 ∧ fresh then
      let n := i + off / 2 ^ 21
      let a := b / 2 ^ 17 * 2 ^ 17 + n / 8
      let s := s.arrive c.world a 1
      match s.engineNum c.world a 1 with
      | none => s
      | some v => s.engineWrite c.world a [BitVec.ofNat 8 (v ||| 2 ^ (n % 8))]
    else s

/-- Translates an address for an access of the issuing group's core: a cached entry, or a walk that fills the cache;
the answer, and the state with the cache, footprint and WALKS counter (R147, R151, 20 R362). -/
def State.translate (s : State) (c : Ctx) (core gva : Nat) (acc : Access) (pl : Nat) : XRes × State :=
  let slice := sliceOf core
  match s.cached slice c gva acc pl with
  | some e =>
    let fa := e.fpage * 2 ^ e.bits + gva % 2 ^ e.bits
    let on := c.fpBase.getLsbD 0
    let s := { s with tlb := s.tlb.map (fun (t : TrEntry) =>
      if t = e then { t with lru := s.cycle, recorded := t.recorded || on } else t) }
    (.ok ⟨fa, e.ipage * 2 ^ e.bits + gva % 2 ^ e.bits, e.bits, e.perm, e.s1perm, e.fpi, e.s1on, false⟩, s.footprint c e.fpi (gva % 2 ^ e.bits) (!e.recorded))
  | none =>
    let (r, s) := s.walked c (dieOf core) gva (some acc) pl
    let s := s.count c.num 10 1
    match r with
    | .ok x =>
      let on := c.fpBase.getLsbD 0
      let s := s.cacheFill slice c gva x
      let s := { s with tlb := s.tlb.map (fun (t : TrEntry) =>
        if t.slice == slice && t.ctx == c.num && t.gpage == gva / 2 ^ t.bits then { t with recorded := t.recorded || on } else t) }
      (r, s.footprint c x.fpi (gva % 2 ^ min x.bits 48) true)
    | _ => (r, s)

/-! ## Fault records (19 R330) -/

/-- The code of an access in a fault record. -/
def accessCode : Access → Nat
  | .read => 0 | .write => 1 | .exec => 2 | .atomic => 3

/-- A live record of a fault, not yet written to its queue. -/
def State.newFault (s : State) (c : Ctx) (uid : Nat) (counted : Bool) (f : XFault) (gva : Nat) (acc : Access) (lanes : Nat) : State :=
  let (id, s) := s.fresh
  let tag := id % 2 ^ 32
  let w0 := 2 ^ 63 + f.cause * 2 ^ 48 + f.stage * 2 ^ 46 + f.l1 % 4 * 2 ^ 44 + f.l2 % 4 * 2 ^ 42 + accessCode acc * 2 ^ 40 +
    c.vdid * 2 ^ 34 + tag
  let r : FaultRec := ⟨id, f.stage, c.num, c.vdid, tag, uid, counted, BitVec.ofNat 64 w0, BitVec.ofNat 64 gva,
    BitVec.ofNat 64 (if f.stage = 2 then f.ipa else 0), BitVec.ofNat 64 s.pace, false, lanes, s.pace⟩
  { s with faults := s.faults ++ [r] }

/-- A record is written where its queue has a base and its slot is free; otherwise it is offered again 1 µs later (R330). -/
def State.offerFault (s : State) (id : Nat) : State :=
  match s.faults.find? (fun r => r.id == id && !r.written) with
  | none => s
  | some r =>
    let s := { s with faults := s.faults.map (fun (x : FaultRec) => if x.id == id then { x with offered := s.pace } else x) }
    let q := if r.queue = 1 then ((s.ctx? r.ctx).map Ctx.fq1).getD 0 else (s.vregs.fq2[r.vdid]?).getD 0
    let pos := if r.queue = 1 then ((s.ctx? r.ctx).map Ctx.fq1Pos).getD 0 else (s.vregs.fq2Pos[r.vdid]?).getD 0
    let world := if r.queue = 1 then ((s.ctx? r.ctx).map Ctx.world).getD 0 else 0
    let base := q.toNat / 4096 * 4096
    let n := 2 ^ (q.toNat % 16 + 4)
    let a := base + 32 * (pos % n)
    if base = 0 then s
    else
    let s := s.arrive world a 8
    match s.engineNum world a 8 with
      | none => s
      | some w =>
        if w / 2 ^ 63 = 1 then s
        else
          let s := s.engineWrite world a (leBytes 8 r.w0.toNat ++ leBytes 8 r.w1.toNat ++ leBytes 8 r.w2.toNat ++
            leBytes 8 r.w3.toNat)
          let s := { s with faults := s.faults.map (fun (x : FaultRec) => if x.id == id then { x with written := true } else x) }
          if r.queue = 1 then s.modCtx r.ctx (fun c => { c with fq1Pos := (pos + 1) % n })
          else { s with vregs := { s.vregs with fq2Pos := s.vregs.fq2Pos.setIfInBounds r.vdid ((pos + 1) % n) } }

/-- What made an access wait for a page. -/
inductive Miss
  | fault (f : XFault)
  | far (f : FarLeaf)
  deriving DecidableEq, Repr

/-- A fault of the issuing group: its record goes to its queue, or its block to the tier engine, and the missing-page
count rises by one (09 R152, 18 R319). -/
def State.parkFault (s : State) (c : Ctx) (m : Miss) (gva : Nat) (acc : Access) (lanes : Nat) : State :=
  let uid := s.cur.place.uid
  let s := s.modTrap (fun t => { t with missing := t.missing + 1 })
  match m with
  | .fault f =>
    let id := s.nextId
    (s.newFault c uid true f gva acc lanes).offerFault id
  | .far i =>
    let (id, s) := s.fresh
    { s with tier := { s.tier with offered := s.tier.offered ++ [⟨id, uid, c.vdid, c.num, i, gva, acc⟩] } }

/-- One record for each failing page of a bundle, with the lanes that fail on it (14 R237): of each miss the GVA, what it met and
its lanes as a mask. -/
def State.parkFaults (s : State) (c : Ctx) (acc : Access) (ms : List (Nat × Miss × Nat)) : State :=
  let once := ms.foldl (fun l m => if l.any (fun x => x.1 / 4096 == m.1 / 4096) then l else l ++ [m]) []
  let lanes := fun (gva : Nat) => (ms.filter (fun m => m.1 / 4096 == gva / 4096)).foldl (fun n m => n ||| m.2.2) 0
  once.foldl (fun s m => s.parkFault c m.2.1 m.1 acc (lanes m.1)) s

/-- TRANSLATION_WALK: a free walker walks both stages for a translation miss and fills the slice's cache. (R147) -/
def execTranslationWalk (ctx : Nat) (gva : BitVec 64) (acc : Access) (slice : Nat) (s : State) : Out State :=
  match s.ctx? ctx with
  | none => .next s
  | some c =>
    let (r, s) := s.walked c (slice / 3) gva.toNat (some acc) 2
    let s := s.count ctx 10 1
    .next (match r with
      | .ok x => s.cacheFill slice c gva.toNat x
      | _ => s)

/-- FAULT_RECORD_OFFER: a fault record that found its slot valid is offered again every 1 µs. (R330) -/
def execFaultRecordOffer (n : Nat) (s : State) : Out State :=
  .next (if s.faults.any (fun r => r.id == n && decide (r.offered + 1000 ≤ s.pace)) then s.offerFault n else s)

end Sys2Proof.Machine
end

