-- ==== Sys2Proof/Machine/MemSys.lean ====
section
/-! DEFINITION. The path of a write from the store buffer to its primary, page classes, and the
completion of a group's operations in class order (spec 13 R219-R221, 14 R232, 15 R255-R257). -/

namespace Sys2Proof.Machine

/-! ## Serialisation points and classes -/

/-- The slice whose L2 holds a line for the cores of a die: the serialisation point on its own die, else one chosen by
the address (13 R220; the choice is of timing only). -/
def State.l2Place (s : State) (core holder fa : Nat) : Nat :=
  match s.serSlice holder with
  | some n => if n / 3 = dieOf core then n else 3 * dieOf core + fa / 64 % 3
  | none => 3 * dieOf core + fa / 64 % 3

/-- The class record of a page (13 R221). -/
def State.pageClass (s : State) (fa : Nat) : PClass :=
  ((s.pages.find? (fun p => p.page == fa / 4096)).map PageRec.cls).getD .untouched

/-- Replaces the class of a page. -/
def State.setPage (s : State) (fa : Nat) (c : PClass) : State :=
  let rest := s.pages.filter (fun (p : PageRec) => p.page != fa / 4096)
  match c with
  | .untouched => { s with pages := rest }
  | _ => { s with pages := ⟨fa / 4096, c⟩ :: rest }

/-! ## Completion of a group's operations (14 R232) -/

/-- Writes a lane of a vector register of a group, marking the register dirty (19 R336). -/
def Group.setVL (g : Group) (n : Nat) (l : Lane) (x : Word) : Group :=
  { g with
    regs := { g.regs with
      v := g.regs.v.setIfInBounds n (((g.regs.v[n]?).getD (Vector.replicate 32 0)).set l x)
      bad := healed g.regs.bad (.v n) (BitVec.ofNat 32 (2 ^ l.val)) }
    ckpt := { g.ckpt with vdirty := g.ckpt.vdirty ||| BitVec.ofNat 128 (2 ^ n) } }

/-- Writes a scalar register of a group. -/
def Group.setS (g : Group) (n : Nat) (x : DWord) : Group :=
  { g with regs := { g.regs with s := g.regs.s.setIfInBounds n x, bad := healed g.regs.bad (.s n) 1 } }

/-- The value of a loaded element in its register form (14 R233, R236). -/
def loadExt (signed : Bool) (bits size v : Nat) : Nat :=
  if signed then (BitVec.ofInt bits (sextInt (8 * size) v)).toNat else v

/-- Writes one lane of a completed operation. -/
def Group.place1 (g : Group) (d : Dest) (a : LaneAcc) (v : Nat) : Group :=
  match d with
  | .drop => g
  | .scalar n signed =>
    let g := g.setS n (BitVec.ofNat 64 (loadExt signed 64 a.size v))
    if a.size = 16 then g.setS (n + 1) (BitVec.ofNat 64 (v / 2 ^ 64)) else g
  | .vector n signed wide =>
    let g := g.setVL n a.lane (BitVec.ofNat 32 (loadExt signed 32 a.size v))
    if wide then g.setVL (n + 1) a.lane (BitVec.ofNat 32 (v / 2 ^ 32)) else g

/-- The value a lane takes from the requests that served its line (25 R396). -/
def MemOp.laneVal (o : MemOp) (a : LaneAcc) : Nat :=
  match a.old with
  | some v => v
  | none =>
    match o.reqs.find? (fun r => r.line == lineBase a.fa) with
    | some r => ofLeBytes ((r.data.drop (a.fa % 64)).take a.size)
    | none => 0

/-- A lane has its value: its write has answered, or its line has been served (10 R171, 25 R396). -/
def MemOp.laneDone (o : MemOp) (a : LaneAcc) : Bool :=
  a.old.isSome || o.reqs.any (fun r => r.line == lineBase a.fa && r.served)

/-- Whether an operation has all its answers. -/
def MemOp.finished (o : MemOp) : Bool := o.writes == 0 && o.reqs.all (fun r => r.served || r.err.isSome)

/-- The fault that ended a request of an operation, if any: cause and fabric address. -/
def MemOp.fault (o : MemOp) : Option (Nat × Nat) :=
  match o.err with
  | some e => some e
  | none => (o.reqs.find? (fun r => r.err.isSome)).map (fun r => (r.err.getD 13, r.line))

/-- A deferred cause of an operation: it names the operation's PC, the fabric address and the deferred flag (10 R171,
19 R329); split, level and resume address are filled in where it is raised. -/
def deferredOf (kind : OpKind) (op cause inner addr : Nat) (pc : BitVec 48) (info : Nat) : Deferred :=
  ⟨kind, op, ⟨trec0 cause 0 0 true inner 0 0 0, 0, BitVec.ofNat 64 addr, pc.setWidth 64, BitVec.ofNat 64 info⟩⟩

/-- The completion of an operation in its group: destination lanes, floor, counts, flags, acquires and, for one that
ended without effect, its deferred cause (14 R232, 10 R168, R171). A request that ends without effect writes no lane; each other lane takes
its value from its own (25 R396). -/
def Group.complete (g : Group) (o : MemOp) : Group :=
  let stamps := o.reqs.foldl (fun m r => if r.served then max m r.stamp else m) o.wct
  let up := fun (x : DWord) => BitVec.ofNat 64 (max x.toNat stamps)
  let done := if o.fault.isNone then o.lanes else o.lanes.filter o.laneDone
  let g := done.foldl (fun (g : Group) (a : LaneAcc) => g.place1 o.dest a (o.laneVal a)) g
  let g := match o.fault with
    | none => g
    | some f =>
      let lanes := o.lanes.foldl (fun (m : Nat) (a : LaneAcc) => if lineBase a.fa = lineBase f.2 then m + 2 ^ a.lane.val else m) 0
      { g with trap := { g.trap with deferred := g.trap.deferred ++
          [deferredOf o.kind o.id f.1 0 f.2 o.pc lanes] } }
  let acc := g.acc
  let acc := { acc with ops := acc.ops.filter (fun (p : MemOp) => p.id != o.id), rfloor := up acc.rfloor }
  let acc := match o.cls with
    | .ld => { acc with ld := acc.ld - 1 }
    | .st => { acc with st := acc.st - 1, wctmax := BitVec.ofNat 64 (max acc.wctmax.toNat o.wct) }
    | .cp => { acc with cp := acc.cp - 1 }
    | .none => { acc with wctmax := BitVec.ofNat 64 (max acc.wctmax.toNat o.wct) }
  { g with
    acc := acc
    regs := { g.regs with fpflags := g.regs.fpflags ||| o.flags.setWidth 32 }
    ctl := { g.ctl with splits := g.ctl.splits.map (fun (sp : Split) => { sp with acq := sp.acq.filter (fun i => i != o.id) }) } }

/-- Every operation of a class that is finished and has no earlier one of its class before it completes, in issue order;
the number completed. -/
def Group.settle (cls : Cls) : Nat → Group → Nat × Group
  | 0, g => (0, g)
  | fuel + 1, g =>
    match g.acc.ops.find? (fun o => o.cls == cls) with
    | none => (0, g)
    | some o =>
      if o.finished then
        let r := Group.settle cls fuel (g.complete o)
        (r.1 + 1, r.2)
      else (0, g)

/-- Changes a group wherever it is kept: resident or switched out. -/
def State.onGroup (s : State) (uid : Nat) (f : Group → Group) : State :=
  let s := s.modGroup uid f
  { s with out := s.out.map (fun (o : OutGroup) => if o.group.place.uid == uid then { o with group := f o.group } else o) }

/-- Changes a matrix command, in the queue or in the image of a switched-out group. -/
def State.modCmd (s : State) (id : Nat) (f : MCmd → MCmd) : State :=
  let one := fun (c : MCmd) => if c.id == id then f c else c
  { s with
    mqueue := s.mqueue.map one
    out := s.out.map (fun (o : OutGroup) => { o with cmds := o.cmds.map one }) }

/-- A group wherever it is kept. -/
def State.anyGroup (s : State) (uid : Nat) : Option Group :=
  match s.group? uid with
  | some g => some g
  | none => (s.out.find? (fun o => o.group.place.uid == uid)).map OutGroup.group

/-- Deferred causes beyond the first `n`, of operations that ended while the group was switched out, go into its saved trap
queue, for its stopping bundle (20 R355). -/
def Group.sink (g : Group) (n : Nat) : Group :=
  let i := (g.ctl.unfinished.head?.map Prod.fst).getD g.ctl.iss
  let es := (g.trap.deferred.drop n).map (fun d => { d.entry with
    t0 := BitVec.ofNat 64 (setBits (setBits d.entry.t0.toNat 31 30 i.val) 33 32 g.trap.pl)
    t1 := (g.ctl.split i).pc.setWidth 64 })
  { g with trap := { g.trap with deferred := g.trap.deferred.take n, queue := es.foldl enqueueTrap g.trap.queue } }

/-- `Group.sink` for a group that is switched out. -/
def State.sink (s : State) (uid n : Nat) : State :=
  { s with out := s.out.map (fun (o : OutGroup) => if o.group.place.uid == uid then { o with group := o.group.sink n } else o) }

/-- Completes what is complete of a class in a group and counts it (R362). -/
def State.settle (s : State) (uid : Nat) (cls : Cls) : State :=
  match s.anyGroup uid with
  | none => s
  | some g =>
    let (n, g') := Group.settle cls g.acc.ops.length g
    let s := (s.onGroup uid (fun _ => g')).sink uid g.trap.deferred.length
    match cls with
    | .ld => s.count g.place.ctx 3 n
    | .st => s.count g.place.ctx 4 n
    | _ => s

end Sys2Proof.Machine
end

