-- ==== Sys2Proof/Machine/Object.lean ====
section
/-! DEFINITION. Coherence objects: shape and tree records, operator tags, partials, rounds and the transitions that an
access makes (spec 11 R178-R197, 26 R397-R399). -/

namespace Sys2Proof.Machine

/-! ## Records (R179-R182) -/

def ObjEntry.field (o : ObjEntry) (hi lo : Nat) : Nat := bitsOf o.shape.toNat hi lo
def ObjEntry.base (o : ObjEntry) : Nat := o.field 63 0
def ObjEntry.ext (o : ObjEntry) (i : Nat) : Nat := o.field (95 + 32 * i) (64 + 32 * i)
def ObjEntry.stride (o : ObjEntry) (i : Nat) : Nat := o.field (191 + 64 * i) (128 + 64 * i)
def ObjEntry.fmt (o : ObjEntry) : Nat := o.field 391 384
def ObjEntry.ordered (o : ObjEntry) : Bool := decide (o.field 400 400 = 1)
def ObjEntry.scope (o : ObjEntry) : Nat := o.field 403 401
/-- Element size of a format (R180). -/
def fmtSize (f : Nat) : Nat := if f = 1 ∨ f = 4 then 8 else 4
def ObjEntry.esize (o : ObjEntry) : Nat := fmtSize o.fmt

def ObjEntry.nlev (o : ObjEntry) : Nat := bitsOf o.tree.toNat 7 0
def ObjEntry.dom (o : ObjEntry) (k : Nat) : Nat := bitsOf o.tree.toNat (8 * k + 7) (8 * k)
def ObjEntry.fan (o : ObjEntry) (k : Nat) : Nat := bitsOf o.tree.toNat (56 + 8 * k + 7) (56 + 8 * k)
/-- The close timeout in nanoseconds: 0 means 100 µs (R181). -/
def ObjEntry.tmo (o : ObjEntry) : Nat :=
  let t := bitsOf o.tree.toNat 175 160
  if t = 0 then 100000 else 1000 * t
/-- `N`, the number of leaves (R181). -/
def ObjEntry.leaves (o : ObjEntry) : Nat := (List.range o.nlev).foldl (fun p k => p * o.fan (k + 1)) 1
/-- Leaves below one node of level `k`. -/
def ObjEntry.span (o : ObjEntry) (k : Nat) : Nat := (List.range k).foldl (fun p j => p * o.fan (j + 1)) 1

/-- The indices of the element that holds an address, and the byte within it, where the object has one (R180). -/
def ObjEntry.element (o : ObjEntry) (a : Nat) : Option Nat :=
  if a < o.base then none
  else
    let r := a - o.base
    let digit := fun (i r : Nat) => if 1 < o.ext i ∧ 0 < o.stride i then r / o.stride i else 0
    let i3 := digit 3 r
    let r := r - i3 * o.stride 3
    let i2 := digit 2 r
    let r := r - i2 * o.stride 2
    let i1 := digit 1 r
    let r := r - i1 * o.stride 1
    if i3 < o.ext 3 ∧ i2 < o.ext 2 ∧ i1 < o.ext 1 ∧ r < o.ext 0 * o.esize then some (r % o.esize) else none

/-- The object of a VDID that holds an address (R187). -/
def State.objAt (s : State) (vdid gva : Nat) : Option ObjEntry :=
  s.objs.find? (fun o => o.vdid == vdid && (o.element gva).isSome)

/-- The fabric address of an address of an object, in the address space in which it was declared (R183, 26 R397). -/
def State.objFa (s : State) (o : ObjEntry) (gva : Nat) : Option Nat :=
  match (s.walkFrom o.world o.vdid o.root.toNat 0 gva none 2).1 with
  | .ok x => some x.fa
  | _ => none

/-- The bytes from the first to the last of an object. -/
def ObjEntry.extent (o : ObjEntry) : Nat :=
  (o.ext 3 - 1) * o.stride 3 + (o.ext 2 - 1) * o.stride 2 + (o.ext 1 - 1) * o.stride 1 + o.ext 0 * o.esize

/-- The GVA of an object's element at a fabric address, found page by page. -/
def State.objGva (s : State) (o : ObjEntry) (fa : Nat) : Option Nat :=
  (List.range (o.extent / 4096 + 2)).findSome? (fun i =>
    let page := o.base / 4096 * 4096 + 4096 * i
    match s.objFa o page with
    | some x => if x / 4096 = fa / 4096 ∧ (o.element (page + fa % 4096)).isSome then some (page + fa % 4096) else none
    | none => none)

/-- The object whose lines an address belongs to, whichever agent names it and by whatever GVA: the entry of the home package
(R184, 26 R397). An entry of a package that is not the home governs no line (27 R400). -/
def State.objOfFa (s : State) (fa : Nat) : Option ObjEntry := s.objs.find? (fun o => !o.isMember && (s.objGva o fa).isSome)

/-- An address lies in a line of an object. -/
def State.isLine (s : State) (o : ObjEntry) (fa : Nat) : Bool := (s.objGva o (lineBase fa)).isSome

/-- The object of another package's home that this package owns and that has a line (26 R397). -/
def State.farOwner (s : State) (fa : Nat) : Option FarOwned := s.owned.find? (fun f => f.lines.contains (lineBase fa))

/-- A line of such an object is written here. -/
def State.markFar (s : State) (f : FarOwned) (fa : Nat) : State :=
  { s with owned := s.owned.map (fun (x : FarOwned) => if x = f ∧ x.wrote.contains (lineBase fa) = false then
      { x with wrote := x.wrote ++ [lineBase fa] } else x) }

/-- Replaces the entry of an object. -/
def State.modObj (s : State) (idx : Nat) (f : ObjEntry → ObjEntry) : State :=
  { s with objs := s.objs.map (fun (o : ObjEntry) => if o.idx == idx then f o else o) }

def State.obj? (s : State) (idx : Nat) : Option ObjEntry := s.objs.find? (fun o => o.idx == idx)

/-- A line of an object is written at its owner, a die here (26 R397). -/
def State.markWrote (s : State) (idx fa : Nat) : State :=
  s.modObj idx (fun o => if o.wrote.contains (lineBase fa) then o else { o with wrote := o.wrote ++ [lineBase fa] })

/-- The shape record is well formed (R180). -/
def shapeOk (o : ObjEntry) : Bool :=
  let e := o.ext
  let st := o.stride
  let rows := max 1 (e 1) * max 1 (e 2) * max 1 (e 3)
  let t0 := o.field 431 416
  let t1 := o.field 447 432
  decide (o.base % 64 = 0) && decide (o.base / 2 ^ 48 = 0) &&
    decide (1 ≤ e 0) && decide (1 ≤ e 1) && decide (1 ≤ e 2) && decide (1 ≤ e 3) &&
    decide (e 0 * o.esize % 64 = 0) &&
    decide (st 1 % 64 = 0) && decide (st 2 % 64 = 0) && decide (st 3 % 64 = 0) &&
    (decide (e 1 = 1) || decide (e 0 * o.esize ≤ st 1)) && (decide (e 2 = 1) || decide (e 1 * st 1 ≤ st 2)) &&
    (decide (e 3 = 1) || decide (e 2 * st 2 ≤ st 3)) &&
    decide (e 0 * o.esize / 64 * rows ≤ 2 ^ 26) &&
    (decide (t0 = 0) || decide (e 0 % t0 = 0)) && (decide (t1 = 0) || decide (e 1 % t1 = 0)) &&
    decide (o.fmt ≤ 5) && decide (o.field 399 392 ≤ 12 ∨ o.field 399 392 = 15) &&
    (decide (o.scope = 3) || decide (o.scope = 4)) &&
    decide (o.field 511 448 = 0) && decide (o.field 415 408 = 0) && decide (o.field 407 404 = 0)

/-- The tree record is well formed, or all its fields are zero for a free-mode object (R181). -/
def treeOk (o : ObjEntry) : Bool :=
  let t := o.tree.toNat
  let ks := (List.range 7).map (fun k => k + 1)
  let doms := ks.map o.dom
  let used := ks.filter (fun k => decide (k ≤ o.nlev))
  let full := decide (1 ≤ o.nlev) && decide (o.nlev ≤ 7) &&
    used.all (fun k => decide (2 ≤ o.dom k) && decide (o.dom k ≤ 7) && decide (1 ≤ o.fan k)) &&
    used.all (fun k => decide (k = 1) || decide (o.dom (k - 1) ≤ o.dom k)) &&
    decide ((doms.filter (fun d => d == 6)).length ≤ 1) &&
    (decide (o.scope ≠ 3) || used.all (fun k => decide (o.dom k ≤ 5))) && decide (o.leaves ≤ 65536) &&
    ks.all (fun k => decide (k ≤ o.nlev) || (decide (o.dom k = 0) && decide (o.fan k = 0)))
  decide (bitsOf t 255 176 = 0) && decide (bitsOf t 159 152 = 0) && decide (bitsOf t 127 120 = 0) &&
    (full || (!o.ordered && decide (bitsOf t 127 0 = 0)))

/-! ## Operator tags (R186) -/

/-- The formats a tag fits. -/
def tagFits (t f : Nat) : Bool :=
  match t with
  | 0 | 3 | 4 => decide (f = 0)
  | 1 => decide (f = 1)
  | 2 | 5 | 6 | 7 | 8 => decide (f = 2)
  | 9 | 10 | 11 => decide (f = 3) || decide (f = 4)
  | 12 => decide (f = 5)
  | _ => false

/-- The capability bit of a tag on a format. -/
def tagCap (t f : Nat) : Nat :=
  match t with
  | 1 => 1
  | 2 => 2
  | 5 | 6 | 7 | 8 => 3
  | 9 | 10 | 11 => if f = 4 then 1 else 0
  | 12 => 4
  | _ => 0

/-- `op(p, q)` of a tag. -/
def tagOp (t : Nat) (p q : BitVec 64) : BitVec 64 × FpFlags :=
  let a := lo32 p
  let b := lo32 q
  let up := fun (r : Word × FpFlags) => (r.1.setWidth 64, r.2)
  match t with
  | 0 => ((a + b).setWidth 64, 0)
  | 1 => (p + q, 0)
  | 2 => up (fAdd32 rndPlain a b)
  | 3 => ((if a.toInt ≤ b.toInt then b else a).setWidth 64, 0)
  | 4 => ((if a.toInt ≤ b.toInt then a else b).setWidth 64, 0)
  | 5 => up (fMinMax32 true false a b)
  | 6 => up (fMinMax32 false false a b)
  | 7 => up (fMinMax32 true true a b)
  | 8 => up (fMinMax32 true false (a &&& 0x7FFFFFFF) (b &&& 0x7FFFFFFF))
  | 9 => (p &&& q, 0)
  | 10 => (p ||| q, 0)
  | 11 => (p ^^^ q, 0)
  | _ => let r := halfLane .add fmtBf16 rndPlain 0 a b 0; (r.1.setWidth 64, r.2.1)

/-- Two values that may be absent. -/
def tagOpt (t : Nat) (a b : Option (BitVec 64)) : Option (BitVec 64) × FpFlags :=
  match a, b with
  | some x, some y => let r := tagOp t x y; (some r.1, r.2)
  | none, y => (y, 0)
  | x, none => (x, 0)

/-- One level of the tree of R126 over positions: neighbours combine, a last odd one goes on. -/
def tagLevel (t : Nat) : List (Option (BitVec 64)) → List (Option (BitVec 64)) × FpFlags
  | a :: b :: rest =>
    let r := tagOpt t a b
    let u := tagLevel t rest
    (r.1 :: u.1, r.2 ||| u.2)
  | l => (l, 0)

/-- The tree of R126 over child or lane positions. -/
def tagTree (t : Nat) : Nat → List (Option (BitVec 64)) → Option (BitVec 64) × FpFlags
  | 0, l => ((l.head?).getD none, 0)
  | n + 1, l =>
    if l.length ≤ 1 then ((l.head?).getD none, 0)
    else
      let r := tagLevel t l
      let u := tagTree t n r.1
      (u.1, r.2 ||| u.2)

/-- `mflags`: nan_seen, invalid, overflow, inexact of a set of flags (R195). -/
def mflagsOf (f : FpFlags) : BitVec 4 :=
  BitVec.ofNat 4 ((f.getLsbD 6).toNat * 8 + (f.getLsbD 0).toNat * 4 + (f.getLsbD 2).toNat * 2 + (f.getLsbD 4).toNat)

/-! ## Home values and rounds (R188-R190, R193) -/

/-- The element at home becomes `op(home, val)`, the home value taken last on the left (R189, R190); a line that
is another world's by now is left as it is (13 R226). The flags are kept by the home's entry (27 R400). -/
def State.homeFold (s : State) (o : ObjEntry) (fa : Nat) (val : BitVec 64) : State :=
  match s.home fa with
  | none => s
  | some h =>
    let s := s.settleLine h.holder fa
    if !s.worldOk h.holder fa o.world then s
    else
      let s := s.unitRead h.holder fa
      let old := BitVec.ofNat 64 (ofLeBytes (s.bytesAt h.holder fa o.esize))
      let (v, fl) := tagOp o.tag old val
      (s.modObj o.idx (fun o => if o.isMember then o else { o with mflags := o.mflags ||| mflagsOf fl })).unitWrite .engine o.world o.vdid h.holder fa
        (leBytes o.esize v.toNat)

/-- Folds the free-mode partials of an object that a test selects, in arrival order (R190). -/
def State.collect (s : State) (o : ObjEntry) (p : Partial → Bool) : State :=
  let ps := s.partials.filter (fun x => x.obj == o.idx && !x.ordered && p x)
  let s := { s with partials := s.partials.filter (fun x => !(x.obj == o.idx && !x.ordered && p x)) }
  ps.foldl (fun (s : State) (x : Partial) => s.homeFold o x.fa x.val) s

/-- The round of an ordered object completes with its root values: the record is written, the partials emptied (R189,
R195). Where a node has timed out, the leaves that have not closed are late (R192). -/
def State.endRound (s : State) (o : ObjEntry) (vals : List (Nat × BitVec 64)) : State :=
  let s := vals.foldl (fun (s : State) (v : Nat × BitVec 64) => s.homeFold o v.1 v.2) s
  let late := (s.nodes.filter (fun n => n.obj == o.idx && n.fired && decide (n.got.length < o.fan n.level)))
  let first := late.foldl (fun (b : Option MNode) (n : MNode) => match b with
    | none => some n
    | some x => if n.level < x.level ∨ (n.level = x.level ∧ n.index < x.index) then some n else some x) none
  let missing := fun (n : MNode) => (List.range (min 32 (o.fan n.level))).foldl
    (fun m c => if n.got.any (fun g => g.1 == c) then m else m + 2 ^ c) 0
  let s := { s with
    partials := s.partials.filter (fun (x : Partial) => !(x.obj == o.idx && x.ordered)),
    nodes := s.nodes.filter (fun (n : MNode) => n.obj != o.idx) }
  s.modObj o.idx (fun o => { o with
    round := (o.round + 1) % 2 ^ 24
    isOpen := false
    ended := s.cycle
    closed := []
    late := if first.isSome then (List.range o.leaves).filter (fun l => !o.closed.contains l) else []
    incomplete := first.isSome
    ilevel := (first.map MNode.level).getD 0
    missing := BitVec.ofNat 32 ((first.map missing).getD 0) })

/-- The values a node sends on: per element the tree over child positions, absent where every child is (R189). -/
def nodeVals (o : ObjEntry) (n : MNode) : List (Nat × BitVec 64) × FpFlags :=
  let keys := (n.got.map (fun g => g.2.map Prod.fst)).flatten.eraseDups
  let one := fun (k : Nat) =>
    let vs := (List.range (o.fan n.level)).map (fun c =>
      match n.got.find? (fun g => g.1 == c) with
      | none => none
      | some g => (g.2.find? (fun v => v.1 == k)).map Prod.snd)
    tagTree o.tag 8 vs
  let rs := keys.map (fun k => (k, one k))
  (rs.filterMap (fun r => r.2.1.map (fun v => (r.1, v))), rs.foldl (fun f r => f ||| r.2.2) 0)

/-- A child's result reaches a node; a node whose children have all completed combines them and sends its result to its
parent, and the root ends the round (R189). A node that has completed by timeout rejects it (R194). From a package that is not the
home, results for switch and fabric nodes and the root's go out (27 R400). -/
def State.childArrive (s : State) (obj : Nat) : Nat → ChildMsg → State
  | 0, _ => s
  | fuel + 1, m =>
    match s.obj? obj with
    | none => s
    | some o =>
      let n := (s.nodes.find? (fun n => n.obj == obj && n.level == m.level && n.index == m.index)).getD
        ⟨obj, m.level, m.index, [], s.pace, false⟩
      if o.isMember && decide (6 ≤ o.dom m.level) then s
      else if n.fired || n.got.any (fun g => g.1 == m.child) then s
      else
        let n := { n with got := n.got ++ [(m.child, m.vals)] }
        let full := decide (n.got.length = o.fan m.level)
        let n := { n with fired := full }
        let rest := s.nodes.filter (fun (x : MNode) => !(x.obj == obj && x.level == m.level && x.index == m.index))
        let s := { s with nodes := n :: rest }
        let s := s.modObj obj (fun o => { o with mflags := o.mflags ||| mflagsOf m.flags })
        if !full then s
        else
          let (vals, fl) := nodeVals o n
          let s := s.modObj obj (fun o => { o with mflags := o.mflags ||| mflagsOf fl })
          if o.nlev ≤ m.level then (if o.isMember then s else s.endRound ((s.obj? obj).getD o) vals)
          else
            let f := max 1 (o.fan (m.level + 1))
            s.childArrive obj fuel ⟨m.level + 1, m.index / f, m.index % f, vals, 0⟩

/-- A node completes without its missing children, which count as absent (R189, R193). -/
def State.fireNode (s : State) (obj level index : Nat) : State :=
  match s.obj? obj, s.nodes.find? (fun n => n.obj == obj && n.level == level && n.index == index && !n.fired) with
  | some o, some n =>
    let s := { s with nodes := s.nodes.map (fun (x : MNode) =>
      if x.obj == obj && x.level == level && x.index == index then { x with fired := true } else x) }
    let (vals, fl) := nodeVals o n
    let s := s.modObj obj (fun o => { o with mflags := o.mflags ||| mflagsOf fl })
    if o.nlev ≤ level then s.endRound ((s.obj? obj).getD o) vals
    else
      let f := max 1 (o.fan (level + 1))
      s.childArrive obj 8 ⟨level + 1, index / f, index % f, vals, 0⟩
  | _, _ => s

/-- A switch or fabric node on a leaf's path has completed its round (R192). -/
def State.leafLate (s : State) (o : ObjEntry) (leaf : Nat) : Bool :=
  s.nodes.any (fun n => n.obj == o.idx && n.fired && decide (6 ≤ o.dom n.level) && n.index == leaf / o.span n.level)

/-- A leaf ends its part of the open round: its values go to its first node (R189, R192). The status of `red.close`; a group
that is no leaf of the tree has no part to end, and one without which the last round has ended by timeout is LATE. -/
def State.closeLeaf (s : State) (o : ObjEntry) (leaf : Nat) : Nat × State :=
  let mine := fun (x : Partial) => x.obj == o.idx && x.ordered && x.who == leaf
  let vals := (s.partials.filter mine).map (fun x => (x.fa, x.val))
  let s' := { s with partials := s.partials.filter (fun x => !mine x) }
  let s' := s'.modObj o.idx (fun o => { o with closed := o.closed ++ [leaf] })
  if o.late.contains leaf then (10, s.modObj o.idx (fun o => { o with late := o.late.filter (fun l => l != leaf) }))
  else if !o.isOpen || o.closed.contains leaf || decide (o.leaves ≤ leaf) then (0, s)
  else if s.leafLate o leaf then (10, s')
  else
    let f := max 1 (o.fan 1)
    (0, s'.childArrive o.idx 8 ⟨1, leaf / f, leaf % f, vals, 0⟩)

/-- Whether a group is a leaf of an ordered object that has not closed its open round (R189, R191). -/
def ObjEntry.owes (o : ObjEntry) (flat : Nat) : Bool :=
  o.ordered && o.isOpen && decide (flat < o.leaves) && !o.closed.contains flat

/-- The first node of an open round with a child that has not completed, in ascending level and index order: its level and
the mask of its missing children 0 to 31 (R195). -/
def State.firstMissing (s : State) (o : ObjEntry) : Option (Nat × Nat) :=
  ((List.range o.nlev).flatMap (fun k => (List.range (o.leaves / o.span (k + 1))).map (fun i => (k + 1, i)))).findSome? (fun p =>
    let got := ((s.nodes.find? (fun n => n.obj == o.idx && n.level == p.1 && n.index == p.2)).map MNode.got).getD []
    if got.length < o.fan p.1 then
      some (p.1, (List.range (min 32 (o.fan p.1))).foldl (fun m c => if got.any (fun g => g.1 == c) then m else m + 2 ^ c) 0)
    else none)

/-- The open round of a dropped object completes at once: every node with a child missing fires, level by level, and an
open round without any node ends with no value; the record names the first node with a child missing (R193). -/
def State.forceRound (s : State) (obj : Nat) : State :=
  let first := (s.obj? obj).bind s.firstMissing
  let go := fun (s : State) (k : Nat) =>
    let ns := s.nodes.filter (fun n => n.obj == obj && n.level == k && !n.fired)
    ns.foldl (fun (s : State) (n : MNode) => s.fireNode obj k n.index) s
  let s := (List.range 7).foldl (fun s k => go s (k + 1)) s
  let s := match s.obj? obj with
    | some o => if o.isOpen then s.endRound o [] else s
    | none => s
  s.modObj obj (fun o => match first with
    | some p => { o with incomplete := true, ilevel := p.1, missing := BitVec.ofNat 32 p.2 }
    | none => o)

/-! ## Agents and accesses (R183-R185, R196) -/

/-- The agent of a core: its die (R183). -/
def State.agentOf (s : State) (core : Nat) : Nat := s.pkgNum * 256 + dieOf core

/-- Whether an agent answers snoops at once: a die of this package that is not offline (R196, R199). -/
def State.answers (s : State) (agent : Nat) : Bool :=
  decide (agent / 256 = s.pkgNum) && decide (s.pkg.dieOff.toNat / 2 ^ (agent % 256) % 2 = 0)

/-- The slice at which a line that an agent of this package owns is serialised, an owner of its lines here or elsewhere; none where its
primary's slice does (R184, 26 R397). -/
def State.ownPlace (s : State) (prim fa : Nat) : Option Nat :=
  match s.farOwner fa, (s.objOfFa fa).map ObjEntry.st with
  | some f, _ => some (s.l2Place (36 * f.die) f.prim fa)
  | none, some (.owned a) => if a / 256 = s.pkgNum then some (s.l2Place (36 * (a % 256)) prim fa) else none
  | none, _ => none

/-- Its owner has written such a line. -/
def State.markOwn (s : State) (fa : Nat) : State :=
  match s.farOwner fa, s.objOfFa fa with
  | some f, _ => s.markFar f fa
  | none, some o => (match o.st with | .owned _ => s.markWrote o.idx fa | _ => s)
  | none, none => s

/-- A snoop of an agent leaves the home (R196); while one is outstanding the home holds what arrives, in arrival order (26 R398). -/
def State.sendSnoop (s : State) (o : ObjEntry) (agent : Nat) (held : List HeldReq) : State :=
  match o.snoop with
  | some _ => s.modObj o.idx (fun o => { o with snoop := o.snoop.map (fun n =>
      { n with held := n.held ++ held.filter (fun h => match h with | .agent _ => true | _ => !n.held.contains h) }) })
  | none => (s.modObj o.idx (fun o => { o with snoop := some ⟨agent, s.pace, 1, false, false, held⟩ })).sendTo (s.localId 0) o.home agent chanReq

/-- The leased copies that other packages hold of an object's lines: primary and line (13 R223). -/
def State.leasedOut (s : State) (o : ObjEntry) : List (Nat × Nat) :=
  ((s.sharers.filter (fun x => decide (s.pace < x.sent + s.leaseOf x.prim x.line) && s.isLine o x.line)).map
    (fun x => (x.prim, x.line))).eraseDups

/-- A line of the object is cached by a core other than `c`, or in another package. -/
def State.cachedOutside (s : State) (o : ObjEntry) (c : Nat) : Bool :=
  s.l1.any (fun l => l.core != c && !l.const && s.isLine o l.fline) || !(s.leasedOut o).isEmpty

/-- Every L1 line of the object in a core leaves it. -/
def State.dropObj (s : State) (o : ObjEntry) (core : Nat) : State :=
  let ls := (s.l1.filter (fun l => l.core == core && !l.const && s.isLine o l.fline)).map L1Line.fline
  ls.foldl (fun s l => s.dropL1 core l) s

/-- Every L1 line of the object leaves the cores that a test selects. -/
def State.uncache (s : State) (o : ObjEntry) (p : Nat → Bool) : State :=
  ((s.l1.filter (fun l => p l.core && !l.const && s.isLine o l.fline)).map L1Line.core).eraseDups.foldl
    (fun (s : State) c => s.dropObj o c) s

/-- Other packages are told to give up their leased copies of a line; the invalidations count as a write's do (R185, 13 R223). -/
def State.recallLine (s : State) (prim line : Nat) : State :=
  let (id, s) := s.fresh
  let (s, dsts) := s.sendEchoes id prim line [] 0 true
  { s with writes := s.writes ++ [⟨id, .engine, 65535, 0, 0, 65535, line, line, 1, .bytes [], prim, 0, [], none, .applied, [],
    s.pace, 0, 0, dsts.map (fun d => (d, none)), s.pace, true, false, none, [], none⟩] }

/-- Every leased copy of the object's lines is called back. -/
def State.recall (s : State) (o : ObjEntry) : State := (s.leasedOut o).foldl (fun (s : State) x => s.recallLine x.1 x.2) s

/-- What a die here has written of an object as its owner goes home: the writes under way end, the lines leave its L2 for their primaries,
and the primaries echo them (R184, R185, 26 R397). -/
def State.writtenHome (s : State) (o : ObjEntry) : State :=
  let s := (s.writes.filter (fun w => w.phase == .invalidating && w.place.isSome && s.isLine o w.addr)).foldl State.landWrite s
  let lines := ((s.obj? o.idx).map ObjEntry.wrote).getD []
  let s := lines.foldl (fun (s : State) (line : Nat) =>
    match s.home line with
    | none => s
    | some h =>
      let s := s.settleLine h.holder line
      let s := (s.tags.filter (fun t => t.holder == h.holder && t.line == line && t.below.isSome)).foldl State.evictTag s
      s.unitWrite .engine o.world o.vdid h.holder line (s.bytesAt h.holder line 64)) s
  s.modObj o.idx (fun o => { o with wrote := [] })

/-- Another package that may hold free-mode partials of the object is asked for them, for a request that the home holds (R190, R196). -/
def State.askAway (s : State) (o : ObjEntry) (held : List HeldReq) : State :=
  match o.away with
  | a :: _ => s.sendSnoop o a held
  | [] => s

/-- The object is OWNED by an agent whose lines have to come home before it can enter UPDATE (R185). -/
def State.ownedAway (s : State) (o : ObjEntry) : Bool :=
  match o.st with | .owned a => !s.answers a | _ => false

/-- An object enters UPDATE under a tag: its lines leave every L1; where it stands in UPDATE under another tag, after a complete
merge. In ordered mode a round is then open (R185, R189, R191). The entry of a package that is not the home governs no line: its partials
leave under the tag they were made with (27 R400). An owner that does not answer at once is snooped first, as are
packages that hold partials; the object then stays as it is until they have answered. -/
def State.enterUpdate (s : State) (obj tag : Nat) : State :=
  match s.obj? obj with
  | none => s
  | some o =>
    if o.st = .ownerLost then s
    else if s.ownedAway o then (match o.st with
      | .owned a => s.sendSnoop o a []
      | _ => s)
    else if o.st = .update ∧ o.tag ≠ tag ∧ o.away ≠ [] then s.askAway o []
    else
      let s := if o.isMember then (if o.st = .update ∧ o.tag ≠ tag then s.collect o (fun _ => true) else s)
        else if o.st ≠ .update then ((s.writtenHome o).uncache o (fun _ => true)).recall o
        else if o.tag ≠ tag then s.collect o (fun _ => true) else s
      s.modObj obj (fun o => { o with st := .update, tag := tag, isOpen := o.isOpen || o.ordered })

/-- What an access to an object meets. -/
inductive ObjGate
  | go (s : State)
  /-- It waits at the serialisation point: an open round (R189) or an outstanding snoop (26 R398). -/
  | wait (s : State)
  | poisoned

/-- The transition of R185 for a load, store or atomic of an agent at the serialisation point of a line; a store or atomic in SHARED
makes its agent the owner (26, "Reclaim and restore"). `core` is the core of an agent here; `who` names the request to the home, which
holds it while a snoop is outstanding (26 R398). -/
def State.objAccess (s : State) (o : ObjEntry) (who : Option HeldReq) (agent core fa : Nat) (write : Bool) : ObjGate :=
  let here := decide (agent / 256 = s.pkgNum)
  let take := fun (s : State) => s.modObj o.idx (fun o => { o with st := if write then .owned agent else .shared })
  match o.st with
  | .ownerLost => .poisoned
  | .update =>
    if o.snoop.isSome then .wait (s.sendSnoop o 0 who.toList)
    else if o.isOpen then .wait s
    else if o.away ≠ [] then .wait (s.askAway o who.toList)
    else .go (s.collect o (fun x => lineBase x.fa == lineBase fa))
  | .shared =>
    if write then .go (take ((s.uncache o (fun c => s.agentOf c != agent)).recall o))
    else if here && !s.cachedOutside o core then .go (s.modObj o.idx (fun o => { o with st := .priv core }))
    else .go s
  | .priv c => if here && c == core then .go s else .go (take (s.dropObj o c))
  | .owned x =>
    if x = agent then .go s
    else if o.snoop.isSome then .wait (s.sendSnoop o 0 who.toList)
    else if s.answers x then
      let t := s.writtenHome o
      .go (take (if write then t.uncache o (fun c => t.agentOf c != agent) else t))
    else .wait (s.sendSnoop o x who.toList)

/-- One value joins a partial: the leaf's in ordered mode, the die's in free mode; the object enters UPDATE under the tag
where it was not in it, after a complete merge where the tag differs (R185, R188, R191). -/
def State.foldPartial (s : State) (obj core who uid tag gva fa : Nat) (val : BitVec 64) : State × FpFlags :=
  match s.obj? obj with
  | none => (s, 0)
  | some o =>
    if o.st = .ownerLost ∨ s.ownedAway o = true then (s, 0)
    else
      let s := (s.enterUpdate obj tag).modObj obj (fun o => { o with late := o.late.filter (fun l => l != who) })
      let key := if o.ordered then who else dieOf core
      let same := fun (x : Partial) => x.obj == obj && x.ordered == o.ordered && x.who == key && x.fa == fa
      match s.partials.find? same with
      | none => ({ s with partials := s.partials ++ [⟨core, obj, o.ordered, key, uid, gva, fa, val⟩] }, 0)
      | some p =>
        let r := tagOp tag p.val val
        ({ s with partials := s.partials.map (fun x => if same x then { x with val := r.1 } else x) }, r.2)

/-! ## Store buffers (13 R219) -/

/-- The die at whose slices an entry of a core is serialised: that of the object's owner where one owns it (11 R184), else that of
the primary's slice. -/
def State.serDie (s : State) (fa prim : Nat) : Option Nat :=
  match s.objOfFa fa with
  | some o => (match o.st with
    | .owned a => if a / 256 = s.pkgNum then some (a % 256) else none
    | _ => (s.serSlice prim).map (fun n => n / 3))
  | none => (match s.farOwner fa with
    | some f => some f.die
    | none => (s.serSlice prim).map (fun n => n / 3))

/-- An entry's group has an earlier load to its line in flight (15 R255 hold 3) or, for an entry that is serialised on its own die,
any earlier load (R257). -/
def State.loadHeld (s : State) (e : SbEntry) : Bool :=
  let op := match e.origin with | .group _ o _ => o | _ => 0
  let g := match e.origin with | .group u _ _ => s.anyGroup u | _ => none
  let loads := match g with
    | some g => g.acc.ops.filter (fun (o : MemOp) => o.kind == OpKind.load && decide (o.id < op))
    | none => []
  let own := decide (s.serDie e.addr e.prim = some (dieOf e.core))
  if own then !loads.isEmpty else loads.any (fun o => o.reqs.any (fun r => r.line == lineBase e.addr))

/-- Line and group holds of R255 holds 3 and 4, and of R257, on the head entry of a core's store buffer. A write that was refused counts
where it was last routed to until it is routed again. -/
def State.drainable (s : State) (e : SbEntry) : Bool :=
  let mine := s.writes.filter (fun w => w.core == e.core && !w.notice && w.phase != .answered)
  let ownDie := fun (d : Option Nat) => decide (d = some (dieOf e.core))
  let last := fun (w : WriteReq) => if w.prim = 2 ^ 24 then (w.gone.head?).getD w.prim else w.prim
  !s.loadHeld e && mine.all (fun w => lineBase w.addr != lineBase e.addr) &&
    (!ownDie (s.serDie e.addr e.prim) || mine.all (fun w => !ownDie (s.serDie w.addr (last w))))

/-- A contribution of `red`, which folds where it drains (11 R188). -/
def WKind.isFold : WKind → Bool
  | .fold _ _ _ _ _ _ => true
  | _ => false

/-- An entry as a write on its way to its primary. -/
def SbEntry.req (e : SbEntry) : WriteReq :=
  ⟨e.id, e.origin, e.core, e.world, e.vdid, e.ctx, e.gva, e.addr, e.ret, e.kind, e.prim, 0, [],
    e.tree, .travel, [], 0, 0, 0, [], 0, false, e.bad, none, e.also, none⟩

/-- The first entry of a core's buffer leaves it as a write on its way to its primary. -/
def State.drainHead (s : State) (core : Nat) : State :=
  match s.sb.find? (fun e => e.core == core) with
  | none => s
  | some e =>
    if s.drainable e && !e.kind.isFold then
      { s with sb := s.sb.erase e }.sendWrite e.req
    else s

/-- The head entries of a core's buffer drain, as far as their holds allow, until none is left for a page (R221). -/
def State.drainPage (s : State) (core page : Nat) : Nat → State
  | 0 => s
  | n + 1 =>
    if s.sb.any (fun e => e.core == core && e.addr / 4096 == page) then (s.drainHead core).drainPage core page n else s

/-- Writes of a core to a page have left its buffer and are not applied yet. -/
def State.pageFlight (s : State) (core page : Nat) : Bool :=
  s.writes.any (fun w => w.core == core && w.addr / 4096 == page && (w.phase == .travel || w.phase == .invalidating))

/-- The core whose page a load is kept from waits, through others or at once, for a page of `target`: the head entry of its buffer
waits for a load of its own group, and that load for a page that another core has (log entry 53). -/
def State.waitsOn (s : State) (target : Nat) : Nat → Nat → Bool
  | 0, _ => false
  | n + 1, c =>
    match s.sb.find? (fun e => e.core == c) with
    | none => false
    | some e =>
      s.loadHeld e &&
        (match e.origin with
          | .group u o _ => (s.anyGroup u).any (fun g => g.acc.ops.any (fun x => x.kind == OpKind.load && decide (x.id < o) &&
              x.reqs.any (fun r => !r.served && (match s.pageClass r.line with
                | .priv p d => decide (p = s.pkgNum) && decide (d ≠ c) && (if d = target then (s.sb.find? (fun y => y.core == d)).any s.loadHeld else s.waitsOn target n d)
                | _ => false))))
          | _ => false)

/-- The leased copies that a package holds of a page's lines are called back (13 R221, R223). -/
def State.recallPage (s : State) (pkg page : Nat) : State :=
  (s.sharers.filter (fun x => x.pkg == pkg && x.line / 4096 == page && decide (s.pace < x.sent + s.leaseOf x.prim x.line))).foldl
    (fun (s : State) x => s.recallLine x.prim x.line) s

/-- The page class after a miss or a write from a core of some package, or none where the access waits until the core that has the page has
drained its entries for it (13 R221). Two cores that wait for each other's pages do not wait (log entry 53). -/
def State.touchPageAs (s : State) (pkg core fa : Nat) : Option State :=
  let page := fa / 4096
  match s.pageClass fa with
  | .untouched => some (s.setPage fa (.priv pkg core))
  | .priv p c =>
    if p = pkg ∧ c = core then some s
    else if p = s.pkgNum then
      let s := s.drainPage c page 64
      let left := s.sb.any (fun e => e.core == c && e.addr / 4096 == page) && !s.waitsOn core 144 c
      if s.pageFlight c page || left then none
      else
        let lines := (s.l1.filter (fun l => l.core == c && l.fline / 4096 == page)).map L1Line.fline
        some ((lines.foldl (fun s l => s.dropL1 c l) s).setPage fa .shared)
    else some ((s.recallPage p page).setPage fa .shared)
  | .shared => some s

/-- The same for a core of this package. -/
def State.touchPage (s : State) (fa core : Nat) : Option State := s.touchPageAs s.pkgNum core fa

end Sys2Proof.Machine
end

