-- ==== Sys2Proof/Machine/SysReg.lean ====
section
/-! DEFINITION. System registers: what a `sysrd` reads and what a write does (spec 05 R89-R91, 01 R22, R23, 09 R146,
R151, 10 R159, 11 R178, 17 R296-R304, 18 R310, R315, 19 R324-R343, 20 R358-R366, 22 R382-R394). -/

namespace Sys2Proof.Machine

/-- Bits of a register that hold fields: the others read 0 and ignore writes. -/
def keep (mask : DWord) (x : DWord) : DWord := x &&& mask

/-! ## The context and VDID a register names (19 R334) -/

/-- The context whose per-context registers the group reaches; none where `csel` selects one that does not exist. -/
def State.selCtx (s : State) : Option Nat :=
  let c := s.cur.trap.csel.toNat
  if s.cur.trap.pl = 2 ∧ bitsOf c 16 16 = 1 then (s.ctx? (c % 65536)).map Ctx.num
  else some s.cur.place.ctx

/-- Registers that `csel` moves: the per-context ones, `s2_root` and `fq2`. -/
def selected (n : Nat) : Bool :=
  [0x100, 0x101, 0x110, 0x290, 0x2A8, 0x2AA, 0x2AB, 0x2B8, 0x2B9, 0x2BA, 0x300, 0x301].contains n

/-- The selected context, with an empty one where the group has none. -/
def State.selected? (s : State) : Option Ctx :=
  match s.selCtx with
  | none => none
  | some n => s.ctx? n

/-! ## Partition descriptors (01 R22, R23) -/

/-- The number of slices of a size code. -/
def partSize : Nat → Nat
  | 0 => 1 | 1 => 2 | 2 => 3 | 3 => 4 | 4 => 6 | 5 => 12 | _ => 0

/-- The slices of a descriptor, none where it is not valid. -/
def partSlices (d : DWord) : List Nat :=
  if d.getLsbD 0 then (List.range (partSize (bitsOf d.toNat 3 1))).map (· + bitsOf d.toNat 7 4) else []

/-- The copy engines of a descriptor. -/
def partEngines (d : DWord) : List Nat :=
  if d.getLsbD 0 then (List.range 16).filter (fun e => d.getLsbD (48 + e)) else []

/-- Whether a slice has a resident group or a command of one (R23). -/
def State.sliceBusy (s : State) (sl : Nat) : Bool :=
  s.seated.any (fun p => sliceOf p.core == sl) || s.mqueue.any (fun c => sliceOf c.core == sl)

/-- Whether a slice has a team region or a partial-store slot. -/
def State.sliceHolds (s : State) (sl : Nat) : Bool :=
  s.scratch.any (fun r => sliceOf r.core == sl) || s.partials.any (fun p => p.ordered && sliceOf p.core == sl)

/-- The first failing check of a descriptor write, 0 where all hold (R23). A write that changes `scratch` or `pstore` and also drops slices is
tested for regions and partial-store slots on the slices that the partition has after it: the model's choice (log entry 57). -/
def State.partCheck (s : State) (i : Nat) (v : DWord) : Nat :=
  let n := v.toNat
  let scr := bitsOf n 23 20
  let ps := bitsOf n 19 16
  let size := partSize (bitsOf n 3 1)
  let first := bitsOf n 7 4
  let old := (s.pkg.partDesc[i]?).getD 0
  let others := ((List.range 12).filter (· ≠ i)).map (fun j => (s.pkg.partDesc[j]?).getD 0)
  let sl := partSlices v
  let ce := partEngines v
  let osl := partSlices old
  let oce := partEngines old
  let moved := (sl ++ osl).filter (fun x => !(sl.contains x && osl.contains x))
  let movedE := (ce ++ oce).filter (fun x => !(ce.contains x && oce.contains x))
  let resized := v.getLsbD 0 && old.getLsbD 0 && (bitsOf n 23 16 != bitsOf old.toNat 23 16)
  if bitsOf n 47 24 ≠ 0 ∨ bitsOf n 15 8 ≠ 0 ∨ 7 < scr ∨ 4 < ps ∨ 11 < first ∨ size = 0 ∨ 448 < scr * 64 + ps * 16 then 1
  else if first % size ≠ 0 then 2
  else if sl.any (fun x => others.any (fun o => (partSlices o).contains x)) then 3
  else if ce.any (fun x => others.any (fun o => (partEngines o).contains x)) then 4
  else if moved.any s.sliceBusy || movedE.any (fun e => s.copies.any (fun c => c.engine == e)) ||
      (resized && sl.any (fun x => s.sliceBusy x || s.sliceHolds x)) then 5
  else 0

/-- A write of a partition descriptor: it takes effect only if every check holds, and sets `part_status` (R23). The L1s of its cores,
whose size may change, start empty (R14). -/
def State.writePart (s : State) (i : Nat) (v : DWord) : State :=
  let c := s.partCheck i v
  let hit := partSlices v ++ partSlices ((s.pkg.partDesc[i]?).getD 0)
  { s with
    pkg := { s.pkg with
      partStatus := BitVec.ofNat 64 c
      partDesc := if c = 0 then s.pkg.partDesc.setIfInBounds i v else s.pkg.partDesc }
    l1 := if c = 0 then s.l1.filter (fun (l : L1Line) => !hit.contains (sliceOf l.core)) else s.l1 }

/-! ## Registers with rules of their own -/

/-- The entries that the VDIDs of a partition reserve in each of its slices, but for one VDID (09 R151). -/
def State.tqSum (s : State) (part vdid : Nat) : Nat :=
  ((List.range 64).filter (fun u => u ≠ vdid && part ≠ 255 && (s.vregs.part[u]?).getD 255 == part)).foldl
    (fun n u => n + bitsOf ((s.vregs.tq[u]?).getD 0).toNat 15 8) 0

/-- `tq` (09 R151): illegal codes and sums above 128 in a slice have no effect; a write evicts the VDID's entries. -/
def State.writeTq (s : State) (vdid : Nat) (v : DWord) : State :=
  let tc := bitsOf v.toNat 15 8
  let part := (s.vregs.part[vdid]?).getD 255
  if 128 < tc ∨ 128 < tc + s.tqSum part vdid then s
  else { s with vregs := { s.vregs with tq := s.vregs.tq.setIfInBounds vdid (keep 0xFF1F v) },
                tlb := s.tlb.filter (fun e => e.vdid != vdid) }

/-- A byte field written as 0 keeps its old value (10 R159). -/
def costField (old new : DWord) (lo : Nat) : Nat :=
  let x := bitsOf new.toNat (lo + 7) lo
  if x = 0 then bitsOf old.toNat (lo + 7) lo else x

/-- `rte_cost` (10 R159). -/
def State.writeRteCost (s : State) (v : DWord) : State :=
  let o := s.pkg.rteCost
  let n := costField o v 0 + costField o v 8 * 2 ^ 8 + costField o v 16 * 2 ^ 16 + costField o v 24 * 2 ^ 24
  { s with pkg := { s.pkg with rteCost := BitVec.ofNat 64 n } }

/-- The table range of a VDID (11 R178): first entry and count. -/
def State.objRange (s : State) (vdid : Nat) : Nat × Nat :=
  let q := ((s.vregs.cobjQ[vdid]?).getD 0).toNat
  (bitsOf q 11 0, bitsOf q 28 16)

/-- `cobj_q` (11 R178): no effect past the table, over another VDID's range, or where it removes an entry in use. -/
def State.writeCobjQ (s : State) (vdid : Nat) (v : DWord) : State :=
  let b := bitsOf v.toNat 11 0
  let n := bitsOf v.toNat 28 16
  let clash := (List.range 64).any (fun u => u ≠ vdid &&
    (let r := s.objRange u; decide (0 < n) && decide (0 < r.2) && decide (b < r.1 + r.2) && decide (r.1 < b + n)))
  let cut := s.objs.any (fun o => o.vdid == vdid && !(decide (b ≤ o.idx) && decide (o.idx < b + n)))
  if 4096 < b + n ∨ clash ∨ cut then s
  else { s with vregs := { s.vregs with cobjQ := s.vregs.cobjQ.setIfInBounds vdid (keep 0x1FFF0FFF v) } }

/-- Work list `n` of a partition; one that nothing has configured is disabled (17 R302). -/
def State.wl (s : State) (part n : Nat) : WorkList :=
  (s.wls.find? (fun w => w.part == part && w.n == n)).getD ⟨part, n, 0, 0, 0, 0, [], []⟩

/-- Replaces a work list. -/
def State.setWl (s : State) (w : WorkList) : State :=
  { s with wls := w :: s.wls.filter (fun x => !(x.part == w.part && x.n == w.n)) }

/-- The `reset` bit of `wl_cfg`: head and tail are cleared and the producer count is reloaded (17 R302). -/
def WorkList.restart (w : WorkList) : WorkList :=
  { w with head := 0, tail := 0, resv := [], void := [], prod := bitsOf w.cfg.toNat 63 54 }

/-- `wl_cfg` (17 R302): an illegal `lcap` makes the write have no effect. -/
def State.writeWl (s : State) (part n : Nat) (v : DWord) : State :=
  let lcap := bitsOf v.toNat 5 1
  if lcap = 0 ∨ (4 ≤ lcap ∧ lcap ≤ 24) then
    let w := { s.wl part n with cfg := keep 0xFFFFFFFFFFFFFFFE v }
    s.setWl (if v.getLsbD 0 then w.restart else w)
  else s

def State.ring (s : State) (n : Nat) : Ring := (s.rings[n]?).getD Ring.reset

def State.setRing (s : State) (n : Nat) (r : Ring) : State := { s with rings := s.rings.setIfInBounds n r }

/-- `ring_base` takes effect only while the ring is disabled (17 R304). -/
def State.writeRingBase (s : State) (n : Nat) (v : DWord) : State :=
  let r := s.ring n
  if r.ctl.getLsbD 63 then s else s.setRing n { r with base := keep 0xFFFFFFFFFFFFFFE0 v }

/-- The software fields of `ring_ctl`. -/
def ringFields (v : DWord) : DWord := keep 0xC00000FFFFFF0000 v

/-- `ring_ctl` (17 R304): 1 over 0 in `en` starts the ring at sequence 0, but one that is FAULTED or SEALED stays so until a new key
has been loaded (R305); a write of 0 in `en` takes effect whole and disables it; other writes take effect only while `en` = 0. -/
def State.writeRingCtl (s : State) (n : Nat) (v : DWord) : State :=
  let r := s.ring n
  if !v.getLsbD 63 then s.setRing n { r with ctl := ringFields v, st := .disabled, tries := 0, sawLow := false }
  else if r.ctl.getLsbD 63 then s
  else s.setRing n { r with
    ctl := ringFields v, seq := 0, st := r.stuck.getD .running, tries := 0, sawLow := false, due := s.pace }

/-- The `state` code of a ring. -/
def RingSt.code : RingSt → Nat
  | .disabled => 0 | .running => 1 | .waitKick => 2 | .faulted => 3 | .sealed => 4

/-- `tier_cfg` (18 R315). -/
def State.writeTierCfg (s : State) (v : DWord) : State :=
  let m := bitsOf v.toNat 20 16
  let moves := if 1 ≤ m ∧ m ≤ 16 then m else bitsOf s.pkg.tierCfg.toNat 20 16
  { s with pkg := { s.pkg with tierCfg := BitVec.ofNat 64 (moves * 2 ^ 16 + bitsOf v.toNat 11 8 * 2 ^ 8 + v.toNat % 2) } }

/-- `wdog` (20 R358). -/
def State.writeWdog (s : State) (ctx : Nat) (v : DWord) : State :=
  let lg := v.toNat % 64
  if lg = 0 then s.modCtx ctx (fun c => { c with wdog := 26 })
  else if 16 ≤ lg ∧ lg ≤ 40 then s.modCtx ctx (fun c => { c with wdog := BitVec.ofNat 64 lg })
  else s

/-- `pcclr` (20 R365). -/
def State.writePcclr (s : State) (ctx : Nat) (v : DWord) : State :=
  s.modCtx ctx (fun c => { c with perf := Vector.ofFn (fun i : Fin 16 => if v.getLsbD i.val then 0 else c.perf[i]) })

/-- `pwr_cap` (22 R389, R391): out of range changes nothing; a write clears `over`. -/
def State.writePwrCap (s : State) (v : DWord) : State :=
  let cap := bitsOf v.toNat 11 0
  let win := bitsOf v.toNat 25 16
  if 1500 ≤ cap ∧ cap ≤ 2900 ∧ 1 ≤ win ∧ win ≤ 1000 then
    { s with pkg := { s.pkg with pwrCap := keep 0x83FF0FFF v, pwrStat := keep 0xFFFFFFFFFFFFFFFE s.pkg.pwrStat } }
  else s

/-- A context's pre-emption begins (19 R335). -/
def State.beginPreempt (s : State) (ctx : Nat) : State :=
  s.modCtx ctx (fun c => if c.preempt = .none then { c with preempt := .grace s.pace } else c)

/-- `tray` request 1 in ONLINE: DRAINING, and every context is pre-empted (22 R392). -/
def State.trayRemove (s : State) : State :=
  if s.pkg.tray = 0 then
    let s := { s with pkg := { s.pkg with tray := 1 } }
    (s.ctxs.filter (fun c => c.st == CtxSt.resident)).foldl (fun s c => s.beginPreempt c.num) s
  else s

/-- `tray` request 2 in DRAINING: ONLINE (22 R392). -/
def State.trayCancel (s : State) : State :=
  if s.pkg.tray = 1 then { s with pkg := { s.pkg with tray := 0 } } else s

/-- `tray` (22 R392). -/
def State.writeTray (s : State) (v : DWord) : State :=
  match bitsOf v.toNat 7 4 with
  | 1 => s.trayRemove
  | 2 => s.trayCancel
  | _ => s

/-- `ctx_cfg` (19 R334): a write takes effect at the context's next time slice; `conf` is not software's. -/
def State.writeCtxCfg (s : State) (ctx : Nat) (v : DWord) : State :=
  s.modCtx ctx (fun c => { c with ctxCfgNext := keep 0xFFFFFFFFFFFFFF00 v ||| keep 2 c.ctxCfg })

/-! ## Fault records (19 R331) -/

/-- The splits of a group are ready from a cycle on (02 R39). -/
def Ctl.readyFrom (c : Ctl) (cycle : Nat) : Ctl := { c with splits := c.splits.map (fun sp => { sp with readyAt := cycle }) }

/-- Takes one from the missing-page count of a group; at zero it is no longer parked, and ready from the next cycle on (02 R39,
R46). -/
def Group.pageCame (now cycle : Nat) (g : Group) : Group :=
  let n := g.trap.missing - 1
  let c := { g.ctl with parked := g.ctl.parked && decide (0 < n), parkedAt := if n = 0 then now else g.ctl.parkedAt }
  { g with
    trap := { g.trap with missing := n }
    ctl := if g.ctl.parked && n = 0 then c.readyFrom (cycle + 1) else c }

/-- Changes a group wherever it stands: resident or switched out. -/
def State.modAnyGroup (s : State) (uid : Nat) (f : Group → Group) : State :=
  if (s.group? uid).isSome then s.modGroup uid f
  else { s with out := s.out.map (fun o => if o.group.place.uid == uid then { o with group := f o.group } else o) }

/-- The cause of a resolved stage-1 record as an exact trap at the stopping bundle, `trec2` the GVA, `trec4` the lanes that failed
there (R329, R331). -/
def FaultRec.trapEntry (r : FaultRec) (g : Group) : TrapEntry :=
  let i := (g.ctl.unfinished.head?.map Prod.fst).getD g.ctl.iss
  let pc := (g.ctl.split i).pc
  ⟨trec0 (bitsOf r.w0.toNat 55 48) i.val g.trap.pl false 0 1 (bitsOf r.w0.toNat 45 44) 0, pc.setWidth 64, r.w1,
    pc.setWidth 64, BitVec.ofNat 64 r.lanes⟩

/-- `fq_done` (R331): resolves a live record of queue 1 of a context or queue 2 of a VDID. -/
def State.fqDone (s : State) (queue2 : Bool) (ctx vdid : Nat) (v : DWord) : State :=
  let tag := v.toNat % 2 ^ 32
  match s.faults.find? (fun r => r.written && r.tag == tag &&
      (if queue2 then r.queue == 2 && r.vdid == vdid else r.queue == 1 && r.ctx == ctx)) with
  | none => s
  | some r =>
    let s := { s with faults := s.faults.filter (fun x => x.id != r.id) }
    if !r.counted then s
    else
      s.modAnyGroup r.uid (fun g =>
        let g' := g.pageCame s.pace s.cycle
        if v.getLsbD 32 && r.queue == 1 then
          { g' with trap := { g'.trap with pendAct := some ((g.trap.pendAct).getD (r.trapEntry g)) } }
        else g')

/-! ## Reading (19 R350) -/

/-- Flags of a group with a property, as a bit mask. -/
def State.flagBits (s : State) (p : Flag → Bool) : Nat :=
  (List.range 12).foldl (fun n i => if p (s.flag i) then n + 2 ^ i else n) 0

/-- `gctr` (20 R366). -/
def State.gctr (s : State) : Nat :=
  s.flagBits (fun f => decide (0 < f.pend)) * 2 ^ 48 + s.flagBits Flag.set * 2 ^ 32 + s.cur.acc.cp * 2 ^ 16 +
    s.cur.acc.st * 2 ^ 8 + s.cur.acc.ld

/-- A `wear` register; an offline die reads `used` = 255 (22 R393, R394). -/
def State.wearReg (s : State) (i : Nat) : DWord :=
  let w := (s.pkg.wear[i]?).getD 0
  if 28 ≤ i ∧ s.pkg.dieOff.getLsbD (i - 28) then BitVec.ofNat 64 (setBits w.toNat 31 24 255) else w

/-- A ring register. -/
def State.ringReg (s : State) (n : Nat) : DWord :=
  let r := s.ring ((n - 0x200) / 4)
  match n % 4 with
  | 0 => r.base
  | 1 => r.ctl ||| BitVec.ofNat 64 (r.st.code * 2 ^ 56 + min r.rejects 65535 * 2 ^ 40)
  | _ => r.seq

/-- The value of a system register for the issuing group (05 R89 and each register's own map). -/
def State.readReg (s : State) (n : Nat) : DWord :=
  let c := s.selected?
  let of := fun (f : Ctx → DWord) => (c.map f).getD 0
  let vd := (c.map Ctx.vdid).getD 0
  if n = 0x000 then s.pkg.pkgId
  else if n = 0x010 then s.cur.regs.fpflags.setWidth 64
  else if 0x080 ≤ n ∧ n ≤ 0x08B then (s.pkg.partDesc[n - 0x080]?).getD 0
  else if n = 0x08C then s.pkg.partStatus
  else if n = 0x100 then of Ctx.s1root
  else if n = 0x101 then (s.vregs.s2root[vd]?).getD 0
  else if n = 0x110 then of Ctx.fpBase
  else if 0x140 ≤ n ∧ n ≤ 0x17F then (s.vregs.tq[n - 0x140]?).getD 0
  else if n = 0x180 then s.pkg.rteCost
  else if 0x1C0 ≤ n ∧ n ≤ 0x1FF then (s.vregs.cobjQ[n - 0x1C0]?).getD 0
  else if 0x200 ≤ n ∧ n ≤ 0x23F then s.ringReg n
  else if 0x240 ≤ n ∧ n ≤ 0x27F then (s.wl s.myPart (n - 0x240)).cfg
  else if 0x280 ≤ n ∧ n ≤ 0x28B then (s.pkg.gangAge[n - 0x280]?).getD 0
  else if n = 0x290 then of Ctx.nodeBase
  else if n = 0x2A0 then s.pkg.tierCfg
  else if n = 0x2A8 then of Ctx.tvec1
  else if n = 0x2A9 then s.pkg.tvec2
  else if n = 0x2AA then of Ctx.ctxCfg
  else if n = 0x2AB then of Ctx.cimg
  else if n = 0x2AF then s.cur.trap.csel
  else if n = 0x2B0 then s.cur.trap.cur.t0
  else if n = 0x2B1 then s.cur.trap.cur.t1
  else if n = 0x2B2 then s.cur.trap.cur.t2
  else if n = 0x2B3 then s.cur.trap.cur.t3
  else if n = 0x2B4 then s.cur.trap.cur.t4
  else if n = 0x2B6 then s.cur.trap.scr0
  else if n = 0x2B7 then s.cur.trap.scr1
  else if n = 0x2B8 then of Ctx.fq1
  else if n = 0x2B9 then (s.vregs.fq2[vd]?).getD 0
  else if n = 0x2BC then s.pkg.erq
  else if n = 0x2BD then s.pkg.erqLost
  else if 0x2C0 ≤ n ∧ n ≤ 0x2FF then (s.vregs.tierTab[n - 0x2C0]?).getD 0
  else if n = 0x300 then of Ctx.wdog
  else if n = 0x302 then BitVec.ofNat 64 s.gctr
  else if n = 0x400 then s.pkg.pwrCap
  else if n = 0x401 then s.pkg.pwrStat
  else if n = 0x402 then BitVec.ofNat 64 s.pkg.tray
  else if n = 0x403 then s.pkg.dieOff
  else if 0x410 ≤ n ∧ n ≤ 0x42F then s.wearReg (n - 0x410)
  else if 0x440 ≤ n ∧ n ≤ 0x447 then BitVec.ofNat 64 (s.pkg.meas.toNat >>> (64 * (n - 0x440)))
  else 0

/-! ## Writing (19 R350) -/

/-- Address bits [63:12] and `lsize` of a queue register (19 R330, R343). -/
def queueFields (v : DWord) : DWord := keep 0xFFFFFFFFFFFFF00F v

/-- A write of a system register by the issuing group. -/
def State.writeReg (s : State) (n : Nat) (v : DWord) : State :=
  let cx := (s.selCtx).getD s.cur.place.ctx
  let vd := ((s.ctx? cx).map Ctx.vdid).getD 0
  if n = 0x010 then s.modRegs (fun r => { r with fpflags := (v.setWidth 10).setWidth 32 })
  else if 0x080 ≤ n ∧ n ≤ 0x08B then s.writePart (n - 0x080) v
  else if n = 0x100 then s.modCtx cx (fun c => { c with s1root := keep 0x0000FFFFFFFFE001 v })
  else if n = 0x101 then { s with vregs := { s.vregs with s2root := s.vregs.s2root.setIfInBounds vd (keep 0xFFFFFFFFFFFFE001 v) } }
  else if n = 0x110 then s.modCtx cx (fun c => { c with fpBase := keep 0xFFFFFFFFFFFE0001 v })
  else if 0x140 ≤ n ∧ n ≤ 0x17F then s.writeTq (n - 0x140) v
  else if n = 0x180 then s.writeRteCost v
  else if 0x1C0 ≤ n ∧ n ≤ 0x1FF then s.writeCobjQ (n - 0x1C0) v
  else if 0x200 ≤ n ∧ n ≤ 0x23F then
    (if n % 4 = 0 then s.writeRingBase ((n - 0x200) / 4) v
     else if n % 4 = 1 then s.writeRingCtl ((n - 0x200) / 4) v else s)
  else if 0x240 ≤ n ∧ n ≤ 0x27F then s.writeWl s.myPart (n - 0x240) v
  else if 0x280 ≤ n ∧ n ≤ 0x28B then
    { s with pkg := { s.pkg with gangAge := s.pkg.gangAge.setIfInBounds (n - 0x280) (keep 0xFFFF v) } }
  else if n = 0x290 then s.modCtx cx (fun c => { c with nodeBase := keep 0x0000FFFFFFFFFFFC v })
  else if n = 0x2A0 then s.writeTierCfg v
  else if n = 0x2A8 then s.modCtx cx (fun c => { c with tvec1 := keep 0x0000FFFFFFFFFFFC v })
  else if n = 0x2A9 then { s with pkg := { s.pkg with tvec2 := keep 0x0000FFFFFFFFFFFC v } }
  else if n = 0x2AA then s.writeCtxCfg cx v
  else if n = 0x2AB then s.modCtx cx (fun c => { c with cimg := keep 0xFFFFFFFFFFFFF000 v })
  else if n = 0x2AF then s.modTrap (fun t => { t with csel := keep 0x1FFFF v })
  else if n = 0x2B1 then s.modTrap (fun t => { t with cur := { t.cur with t1 := keep 0x0000FFFFFFFFFFFC v } })
  else if n = 0x2B6 then s.modTrap (fun t => { t with scr0 := v })
  else if n = 0x2B7 then s.modTrap (fun t => { t with scr1 := v })
  else if n = 0x2B8 then s.modCtx cx (fun c => { c with fq1 := queueFields v, fq1Pos := 0 })
  else if n = 0x2B9 then { s with vregs := { s.vregs with fq2 := s.vregs.fq2.setIfInBounds vd (queueFields v),
                                                          fq2Pos := s.vregs.fq2Pos.setIfInBounds vd 0 } }
  else if n = 0x2BA then s.fqDone (v.getLsbD 33) cx vd v
  else if n = 0x2BC then { s with pkg := { s.pkg with erq := queueFields v, erqPos := 0 } }
  else if n = 0x2BD then { s with pkg := { s.pkg with erqLost := 0 } }
  else if 0x2C0 ≤ n ∧ n ≤ 0x2FF then
    { s with vregs := { s.vregs with tierTab := s.vregs.tierTab.setIfInBounds (n - 0x2C0) v } }
  else if n = 0x300 then s.writeWdog cx v
  else if n = 0x301 then s.writePcclr cx v
  else if n = 0x400 then s.writePwrCap v
  else if n = 0x402 then s.writeTray v
  else s

end Sys2Proof.Machine
end

