-- ==== Sys2Proof/Machine/Load.lean ====
section
/-! DEFINITION. Checks of an access at issue, and the service of read requests by store buffer, L1 and holders
(spec 10 R162-R171, 13 R217-R226, 14 R231-R238, 15 R255-R258). -/

namespace Sys2Proof.Machine

/-! ## Elements and their checks (R237) -/

/-- One element of an access. -/
structure Elem where
  lane : Lane
  gva  : Nat
  size : Nat
  deriving DecidableEq, Repr

/-- The outcome of the checks of one element. -/
inductive Chk
  | ok (fa : Nat)
  | trap (cause addr : Nat)
  | miss (m : Miss)
  deriving DecidableEq, Repr

/-- What an access needs of the primary: capability bits that must all be set (10 R163). -/
abbrev Needs := List Nat

/-- An entry in the buffer that covers a byte. -/
def SbEntry.covers (e : SbEntry) (a : Nat) : Bool := decide (e.addr ≤ a) && decide (a < e.addr + e.size)

/-- A group's own undrained stores and atomics older than an operation, oldest first (13 R219, 15 R255). -/
def State.ownWrites (s : State) (uid op : Nat) : List SbEntry :=
  s.sb.filter (fun e => (match e.origin with | .group u o _ => u == uid && decide (o < op) | _ => false) &&
    (match e.kind with | .fold _ _ _ _ _ _ => false | _ => true))

/-- The youngest of some entries that covers a byte. -/
def youngest (es : List SbEntry) (a : Nat) : Option SbEntry := (es.filter (fun e => e.covers a)).getLast?

/-- The checks of one element in the order of R237: translation and permission, alignment, route, capability, world and
poison, and an object that is OWNER_LOST (R197) or a bad store buffer entry (R229). What a holder of another package finds in its
line is known from its response only (26 R399). `prim` sends a read to the primary. A translation that the bundle has passed before
it was held is passed (02 R36). -/
def State.checkElem (s : State) (c : Ctx) (acc : Access) (needs : Needs) (prim : Bool) (e : Elem) : Chk × State :=
  let core := s.cur.place.core
  match s.hints.trans.find? (fun p => p.1 == e.gva) with
  | some p => (.ok p.2, s)
  | none =>
  match s.translate c core e.gva acc s.cur.trap.pl with
  | (.fault f, t) => (.miss (.fault f), t)
  | (.far i, t) => (.miss (.far i), t)
  | (.ok x, t) =>
    if e.gva % e.size ≠ 0 then (.trap 11 e.gva, t)
    else
      let h := if acc == .read && !prim then t.routeRead (t.dieRouter core) x.fa []
        else t.routeWrite (t.dieRouter core) x.fa []
      match h with
      | none => (.trap 13 x.fa, t)
      | some h =>
        if needs.any (fun n => !h.cap.getLsbD n) then (.trap 14 x.fa, t)
        else if !t.worldOk h.holder x.fa c.world ||
            (acc != .write && decide (h.holder / 256 = t.pkgNum) && (t.lineAt h.holder x.fa).poison) then (.trap 15 x.fa, t)
        else if (match t.objOfFa x.fa with | some o => o.st == ObjSt.ownerLost | none => false) then (.trap 15 x.fa, t)
        else if acc != .write && t.badCopy h.holder x.fa then (.trap 16 x.fa, t)
        else
          let own := t.ownWrites t.cur.place.uid t.nextId
          if acc == .read && (List.range e.size).any (fun i => (youngest own (x.fa + i)).any SbEntry.bad) then (.trap 16 x.fa, t)
          else (.ok x.fa, t)

/-- The checks of all elements, lanes in ascending order. -/
def State.checkAll (s : State) (c : Ctx) (acc : Access) (needs : Needs) (prim : Bool) :
    List Elem → List (Elem × Chk) × State
  | [] => ([], s)
  | e :: es =>
    let r := s.checkElem c acc needs prim e
    let t := r.2.checkAll c acc needs prim es
    ((e, r.1) :: t.1, t.2)

/-- Lanes of some elements as a mask. -/
def maskOfElems (es : List Elem) : Word := es.foldl (fun (m : Word) e => m ||| BitVec.ofNat 32 (2 ^ e.lane.val)) 0

/-- The lowest lane's trap of a list of checks: cause, address and the mask of the lanes that trap (R237, 19 R329). -/
def firstTrap (rs : List (Elem × Chk)) : Option (Nat × Nat × Nat) :=
  let bad := rs.filterMap (fun r => match r.2 with | .trap c a => some (r.1, c, a) | _ => none)
  match bad with
  | [] => none
  | (_, c, a) :: _ => some (c, a, (maskOfElems (bad.map (fun b => b.1))).toNat)

/-- A round of the object is open for the issuing group: it is open at home, or an earlier `red` of the group is on its way to open
it (11 R189). -/
def State.underMerge (s : State) (o : ObjEntry) : Bool :=
  (o.st == ObjSt.update && o.isOpen) ||
    (o.ordered && s.sb.any (fun e => (match e.origin, e.kind with
      | .group u _ _, .fold n _ _ _ _ _ => u == s.cur.place.uid && n == o.idx
      | _, _ => false)))

/-- The group is a leaf whose part of that round is not closed: it would wait for itself (11 R189). -/
def State.owesRound (s : State) (o : ObjEntry) : Bool :=
  o.ordered && decide (s.cur.place.flat < o.leaves) && !(o.isOpen && o.closed.contains s.cur.place.flat)

/-- The lanes of an operation that is performed. -/
def laneAccs (oks : List (Elem × Nat)) : List LaneAcc := oks.map (fun e => ⟨e.1.lane, e.1.gva, e.2, e.1.size, none, false⟩)

/-- An access whose lanes are checked before any is performed: a trapping cause of any lane stops the bundle. Where a lane has missed,
the lanes that passed are performed and the group parks with the rest, a lane under merge among them; an access that has to wait for
its release first performs none (log entry 19). Otherwise an object under merge holds the access or can never be read, a release
holds it until its conditions hold, and a `red` may wait for its round (`stall`); else it is performed (R237, R238, 02 R36, 11 R189).
`gate` is false for `red`, which no merge keeps out. -/
def access (s : State) (acc : Access) (needs : Needs) (prim gate : Bool) (es : List Elem) (stall : State → Option (HeldOp → Wait))
    (k : List (Elem × Nat) → HeldOp) (go : State → HeldOp → State) : Act :=
  match s.myCtx with
  | none => .notReady
  | some c =>
    let (rs, t) := s.checkAll c acc needs prim es
    match firstTrap rs with
    | some (cause, addr, m) => if cause = 16 then .ecc (fun s => s.poisonBad addr) addr m else .trap cause addr m
    | none =>
      let oks := rs.filterMap (fun r => match r.2 with | .ok fa => some (r.1, fa) | _ => none)
      let misses := rs.filterMap (fun r => match r.2 with | .miss m => some (r.1, m) | _ => none)
      let merging := fun (fa : Nat) => (t.objOfFa fa).filter (fun o => gate && t.underMerge o)
      let busy := oks.filterMap (fun e => merging e.2)
      let o := s.scp
      let waits := o.rel && !s.relOk o.scope s.nextId
      if busy.any s.owesRound then .trap 4 0 0
      else if !misses.isEmpty then
        let free := if waits || (stall t).isSome then [] else oks.filter (fun e => (merging e.2).isNone)
        let left := misses.map Prod.fst ++ (oks.filter (fun e => !free.contains e)).map Prod.fst
        let u := if free.isEmpty then t else go t (k free)
        .park (u.parkFaults c acc (misses.map (fun m => (m.1.gva, m.2, 2 ^ m.1.lane.val)))) (maskOfElems left)
      else if waits then .hold t (.release o.scope s.nextId (k oks))
      else match stall t, busy with
        | some w, _ => .hold t (w (k oks))
        | none, o :: _ => .hold t (.merge o.idx (k oks))
        | none, [] => .ok (go t (k oks))

/-- The waits before a memory access: an acquire of its split (R238), a count at 62 (20 R355); otherwise the access. -/
def ordered (s : State) (count : Nat) (k : State → Act) : Act :=
  if !s.split.acq.isEmpty then .waiting .acq
  else if 62 ≤ count then .notReady
  else k s

/-! ## Reading a line (R170, R217-R223) -/

/-- A read of a line on behalf of a group or of one of the package's units. -/
structure Want where
  core  : Nat
  ctx   : Nat
  vdid  : Nat
  world : Nat
  gva   : Nat
  fa    : Nat
  floor : Nat
  /-- Retention class in L2 and memory-side cache (13 R224). -/
  cls   : Nat
  /-- A refusal has sent it to the primary (10 R170). -/
  prim  : Bool
  /-- Only a serialisation point serves it: an acquire at package scope or wider (14 R238). -/
  acq   : Bool
  /-- Misses count; a prefetch is never counted (14 R248). -/
  counts : Bool
  /-- The request as an object's home holds it (26 R398); none for a unit of the package. -/
  who    : Option HeldReq
  deriving DecidableEq, Repr

/-- What became of a read request at the holder it was routed to. -/
inductive Fetch
  | data (s : State) (bs : List Byte) (stamp : Nat) (lease : Option (Nat × Nat))
  /-- Refused: GONE names the holder; LEASE and FLOOR send it to the primary. -/
  | refused (gone : Option Nat)
  /-- It queues at the serialisation point (R258, 11 R189, 26 R398). -/
  | wait (s : State)
  | err (s : State) (cause : Nat)

/-- A replica holds a line of an object from the transition until the echo of the merged value has arrived (11 R184). -/
def State.heldLine (s : State) (holder fa : Nat) : Bool :=
  (s.farOwner fa).isSome || (s.holderState holder fa).any (fun h => h.kept.contains (lineBase fa)) || match s.objOfFa fa with
  | some o => (match o.st with | .owned _ | .update | .ownerLost => true | _ => false) ||
      s.echoes.any (fun e => e.dst == holder && lineBase e.addr == lineBase fa)
  | none => false

/-- Where a read stands at a holder (10 R170). -/
inductive AtHolder
  /-- At the primary of the line: it is served at the serialisation point. -/
  | primary (holder : Nat)
  /-- At a replica that serves it: end of its lease, applied-through time. -/
  | replica (till through : Nat)
  /-- LEASE or FLOOR. -/
  | toPrimary
  /-- GONE, by that holder. -/
  | gone (holder : Nat)
  deriving DecidableEq, Repr

/-- What a read meets at the holder of a route entry (R166, R168, R170). Of a replica of another package it is not known here
whether it serves or refuses (log entry 54): it serves no line whose echo is still on its way. -/
def State.meets (s : State) (w : Want) (h : RtHolder) : AtHolder :=
  let handed := fun (x : HolderSt) => if w.acq && x.next.isSome then
    (match s.heir w.fa 16 h.holder with | (true, y) => AtHolder.primary y | (false, y) => .gone y) else .toPrimary
  match (s.holderState h.holder w.fa).filter (fun x => decide (h.holder / 256 = s.pkgNum) || x.next.isSome && w.acq) with
  | none =>
    if h.holder / 256 = s.pkgNum then .gone h.holder
    else if h.role = .primary then .primary h.holder
    else if h.role = .filling ∨ w.acq = true ∨ s.heldLine h.holder w.fa = true ∨
        s.echoes.any (fun e => e.dst == h.holder && lineBase e.addr == lineBase w.fa) = true ∨
        (Config.freeBits 1 s.freeCount).getLsbD 0 = true then .toPrimary
    else .replica s.pace w.floor
  | some x =>
    match x.st with
    | .primary => .primary h.holder
    | .filling => .toPrimary
    | .draining => .gone h.holder
    | .replica =>
      if w.acq then handed x
      else if s.pace < x.leaseEnd ∧ w.floor ≤ x.through ∧ s.heldLine h.holder w.fa = false then
        .replica x.leaseEnd x.through
      else .toPrimary

/-- The holder that a read is routed to (R162, R170). -/
def State.routed (s : State) (w : Want) (gone : List Nat) : Option RtHolder :=
  let r := s.dieRouter w.core
  if w.prim || w.acq then s.routeWrite r w.fa gone else s.routeRead r w.fa gone

/-- Where a read is served in the end: the holder, and whether that is the primary; a refusal sends it to the primary, or past a
holder that is gone, at most 16 times (10 R162, R170). -/
def State.server (s : State) (w : Want) : Nat → List Nat → Option (Nat × Bool)
  | 0, _ => none
  | n + 1, gone =>
    match s.routed w gone with
    | none => none
    | some h =>
      match s.meets w h with
      | .primary p => some (p, true)
      | .replica _ _ => some (h.holder, false)
      | .toPrimary => if w.prim then s.server w n (h.holder :: gone) else s.server { w with prim := true } n gone
      | .gone x => s.server w n (h.holder :: x :: gone)

/-- What the serialisation point makes of a read: it queues behind writes and echoes of the line (R258, 10 R173); an object's
transition (11 R185) or the class of the page (13 R221) comes first. -/
def State.passPoint (s : State) (w : Want) (holder : Nat) : ObjGate :=
  if s.lineWaits holder w.fa then .wait s
  else if (s.farOwner w.fa).isSome then .go s
  else match s.objOfFa w.fa with
    | some o => s.objAccess o w.who (s.agentOf w.core) w.core w.fa false
    | none => (match s.touchPage w.fa w.core with
      | some t => .go t
      | none => .wait s)

/-- A holder gives a line: the L2 of the reader's die, then the memory-side cache or the memory of the holder; the counters of
20 R362. The line stays in the L2 where it may: under its lease, where its primary is in another package (R220, R223). -/
def State.giveLine (s : State) (w : Want) (holder : Nat) (prim : Bool) (lease : Option (Nat × Nat)) : Fetch :=
  let l := s.lineAt holder w.fa
  let ln := lineBase w.fa
  let bs := s.bytesAt holder ln 64
  let place := s.l2Place w.core holder w.fa
  let here := decide (holder / 256 = s.pkgNum) || (s.farOwner w.fa).isSome
  let hit2 := prim && here && s.tags.any (fun t => t.place == place && t.line == ln && t.holder == holder)
  let cnt := fun (s : State) (e n : Nat) => if w.counts then s.count w.ctx e n else s
  let s := cnt s 5 1
  let s := if hit2 then s
    else if here then (if w.counts then s.countRead w.ctx holder w.fa else s).ctlRead holder w.fa w.ctx w.cls
    else (cnt (cnt s 6 1) 9 64).sendTo (s.dieRouter w.core) w.fa holder chanReq
  let s := if prim then s.touchTag place holder w.fa l.world w.ctx w.cls else s
  let s := match lease with
    | some (e, t) => if prim && !here then
        { s with tags := s.tags.map (fun (x : TagLine) =>
          if x.place == place && x.line == ln then { x with copy := some ⟨bs, l.wct, e, t⟩ } else x) }
      else s
    | none => s
  .data s bs l.wct lease

/-- A leased copy in the L2 of the reader's die that serves it (R223, R226). -/
def State.leasedCopy (s : State) (w : Want) : Option LeaseCopy :=
  if w.prim || w.acq then none
  else
    ((s.tags.find? (fun t => t.place == 3 * dieOf w.core + w.fa / 64 % 3 && t.line == lineBase w.fa && t.copy.isSome &&
      (t.world == w.world || t.world == 0))).bind TagLine.copy).filter
        (fun x => decide (s.pace < x.till) && decide (w.floor ≤ x.through))

/-- A hit on a leased copy records its class and use (R224). -/
def State.useLeased (s : State) (w : Want) : State :=
  let place := 3 * dieOf w.core + w.fa / 64 % 3
  match s.tags.find? (fun t => t.place == place && t.line == lineBase w.fa) with
  | some t => s.touchTag place t.holder w.fa t.world w.ctx w.cls
  | none => s

/-- The lease under which a line leaves a primary of another package: it runs from the time at which the primary sent it
(R223); ε is 20 ns (10 R157). -/
def State.leaseFrom (s : State) (h : RtHolder) (fa : Nat) : Option (Nat × Nat) :=
  if h.holder / 256 = s.pkgNum ∨ (s.farOwner fa).isSome = true then none else some (s.pace + 1000 * h.lease - 20, s.pace)

/-- A read of a line reaches the holder that the die router gives (10 R162, R170), or finds a leased copy on the way. -/
def State.fetchLine (s : State) (w : Want) (gone : List Nat) : Fetch :=
  match s.leasedCopy w with
  | some x => .data (s.useLeased w) x.data x.stamp (some (x.till, x.through))
  | none =>
    match s.routed w gone with
    | none => .err s 13
    | some h =>
      let check := fun (holder : Nat) (k : Fetch) =>
        if !s.worldOk holder w.fa w.world || (s.lineAt holder w.fa).poison then Fetch.err s 15 else k
      match s.meets w h with
      | .gone x => .refused (some x)
      | .toPrimary => .refused none
      | .replica e t => check h.holder (s.giveLine w h.holder false (some (e, t)))
      | .primary p => check p (match s.passPoint w p with
        | .poisoned => .err s 15
        | .wait s => .wait s
        | .go s => if s.badCopy p w.fa then .err (s.poisonBad w.fa) 16 else s.giveLine w p true (s.leaseFrom h w.fa))

/-! ## Reads of the package's own units (R411) -/

/-- What a unit's read of a line ends in: its bytes and its stamp, a wait at the line, or a cause with the address. -/
inductive LineRead
  | got (s : State) (bs : List Byte) (stamp : Nat)
  | wait (s : State)
  | bad (cause fa : Nat)

/-- What a unit's read of a line counts for the context whose tag it carries (20 R362, R363). -/
def State.countUnit (s : State) (w : Want) (h : Nat) : State :=
  if h / 256 ≠ s.pkgNum then ((s.count w.ctx 6 1).count w.ctx 9 64).sendTo (s.dieRouter w.core) w.fa h chanReq
  else if ((s.serSlice h).map (fun n => s.hasTag n (lineBase w.fa))).getD false then s
  else s.countRead w.ctx h w.fa

/-- A unit's read of one line at the holder that serves it: a serialisation point waits as it does for a load, a replica serves
from its memory (10 R168, R170, 13 R226, 14 R411). -/
def State.readLine (s : State) (w : Want) : LineRead :=
  match s.server w 16 [] with
  | none => .bad 13 w.fa
  | some (h, prim) =>
    if !s.worldOk h w.fa w.world || (s.lineAt h w.fa).poison then .bad 15 w.fa
    else
      let give := fun (s : State) =>
        let s := s.countUnit w h
        let s := s.unitReadAs h w.fa w.ctx w.cls
        LineRead.got s (s.bytesAt h (lineBase w.fa) 64) (s.lineAt h w.fa).wct
      if !prim then give s
      else match s.passPoint w h with
        | .poisoned => .bad 15 w.fa
        | .wait s => .wait s
        | .go s => if s.badCopy h w.fa then .bad 16 w.fa else give s

/-- The bytes of several reads within lines, each with its size, one after the other, with the latest of their stamps. -/
def State.readEach (s : State) : List (Want × Nat) → LineRead
  | [] => .got s [] 0
  | (w, z) :: ws => match s.readLine w with
    | .got t bs n => (match t.readEach ws with
      | .got u cs m => .got u ((bs.drop (w.fa % 64)).take z ++ cs) (max n m)
      | r => r)
    | r => r

/-! ## The L1 (R217, R218, R224) -/

/-- The 16-way sets of a core's L1: one for each KiB of its array that scratchpad and partial store leave (01 R14). -/
def State.l1Sets (s : State) (core : Nat) : Nat :=
  match s.pkg.partDesc.toList.find? (fun d => (partSlices d).contains (sliceOf core)) with
  | some d => 512 - 64 * bitsOf d.toNat 23 20 - 16 * bitsOf d.toNat 19 16
  | none => 512

/-- The set of a line in a core's L1. -/
def State.l1Set (s : State) (core gline : Nat) : Nat := gline / 64 % max 1 (s.l1Sets core)

/-- The lines of a set of a core's L1. -/
def State.l1Ways (s : State) (core set : Nat) : List L1Line :=
  s.l1.filter (fun l => l.core == core && s.l1Set core l.gline == set)

/-- A thirteenth sticky line of an L1 set makes the oldest one default (R224). -/
def State.limitL1 (s : State) (core gline : Nat) : State :=
  let st := (s.l1Ways core (s.l1Set core gline)).filter (fun l => l.cls == 2)
  if st.length ≤ 12 then s
  else match oldest L1Line.lru (st.filter (fun l => l.gline != gline)) with
    | none => s
    | some v => { s with l1 := s.l1.map (fun (l : L1Line) => if l = v then { l with cls := 1 } else l) }

/-- The combined permissions of the translation of an address as it stands (R217). -/
def State.pageOf (s : State) (core : Nat) (c : Ctx) (gva : Nat) : BitVec 4 × Nat :=
  match s.tlb.find? (fun e => e.slice == sliceOf core && e.vdid == c.vdid && e.ctx == c.num && e.gpage == gva / 2 ^ e.bits) with
  | some e => (e.perm, e.bits)
  | none => (match s.walkBoth c (dieOf core) gva none 2 with | .ok x => (x.perm, min x.bits 48) | _ => (0, 12))

/-- A line enters a core's L1, in place of a victim where its set is full (R217, R218, R224); bypass fills nothing, and no line of an
object in UPDATE is kept (11 R185). -/
def State.fillL1 (s : State) (core : Nat) (c : Ctx) (gva fa cls : Nat) (const : Bool) (bs : List Byte) (stamp : Nat)
    (lease : Option (Nat × Nat)) (tag : Nat) : State :=
  if cls = 3 ∨ (s.objOfFa fa).any (fun o => o.st == ObjSt.update) = true then s
  else
    let s := { s with l1 := s.l1.filter (fun (l : L1Line) => !(l.core == core && l.fline == lineBase fa)) }
    let ways := s.l1Ways core (s.l1Set core (lineBase gva))
    let rest := if ways.length < 16 then s.l1 else match victim L1Line.cls L1Line.lru ways with
      | some v => s.l1.erase v
      | none => s.l1
    let page := s.pageOf core c gva
    let l : L1Line := ⟨core, lineBase gva, lineBase fa, c.vdid, c.num, c.world, tag, page.1, page.2, cls, const, bs,
      stamp, lease, entryAge cls s.cycle⟩
    { s with l1 := l :: rest }.limitL1 core (lineBase gva)

/-- A line of a core's L1 that serves a load at a privilege level (R217, R233, 09 R150). -/
def State.l1Find (s : State) (core : Nat) (c : Ctx) (gva floor pl : Nat) (const : Bool) : Option L1Line :=
  s.l1.find? (fun l => l.core == core && l.gline == lineBase gva && l.vdid == c.vdid && l.ctx == c.num &&
    l.world == c.world && permOk l.perm .read pl && (const || !l.const) &&
    (match l.lease with
      | none => true
      | some (e, t) => decide (s.pace < e) && decide (floor ≤ t)))

/-- A hit records the class of the access; bypass leaves it (R224). -/
def State.hitL1 (s : State) (l : L1Line) (cls : Nat) : State :=
  { s with l1 := s.l1.map (fun (x : L1Line) => if x = l then { x with cls := if cls = 3 then x.cls else cls, lru := s.cycle } else x) }.limitL1
    l.core l.gline

/-! ## Requests of a load -/

/-- Replaces one request of an operation. -/
def State.setReq (s : State) (uid op : Nat) (r : LineReq) : State :=
  s.onGroup uid (fun g => { g with acc := { g.acc with ops := g.acc.ops.map (fun (o : MemOp) =>
    if o.id == op then { o with reqs := o.reqs.map (fun (x : LineReq) => if x.line == r.line then r else x) } else o) } })

/-- Whether a request may leave the core (15 R255 holds 1 and 2): a `red` of the group to the same object has folded before
(R264). -/
def State.leaves (s : State) (g : Group) (o : MemOp) (line : Nat) : Bool :=
  let objs := fun (as : List LaneAcc) => as.filterMap (fun a => (s.objOfFa a.fa).map ObjEntry.idx)
  let mine := objs (o.lanes.filter (fun a => lineBase a.fa == line))
  g.acc.ops.all (fun p => !decide (p.id < o.id) ||
    (if p.kind == .load then p.reqs.all (fun x => x.line != line)
     else p.lanes.all (fun a => lineBase a.fa != line) &&
       (p.kind != .red || (objs p.lanes).all (fun i => !mine.contains i))))

/-- Requests of a group's loads that no hold of 15 R255 keeps any longer leave its core, with its floor as it now stands (10 R168,
25 R396). -/
def State.sendOff (s : State) (g : Group) : Group :=
  { g with acc := { g.acc with ops := g.acc.ops.map (fun (o : MemOp) =>
    if o.kind == .load then
      { o with reqs := o.reqs.map (fun (r : LineReq) =>
        if !r.left && s.leaves g o r.line then { r with left := true, floor := g.acc.rfloor.toNat } else r) }
    else o) } }

/-- What is complete of a class in a group completes, and what it held leaves its core (14 R232, 15 R255). -/
def State.settleSend (s : State) (uid : Nat) (cls : Cls) : State :=
  let s := s.settle uid cls
  s.onGroup uid s.sendOff

/-- The bytes a line's lanes need, and their values where the group's own older stores cover them all (R219): an atomic of the group
that is younger than such a store hides it, and so does an entry with an error (15 R255, 13 R229). -/
def State.forwarded (s : State) (uid : Nat) (o : MemOp) (line : Nat) : Option (List Byte) :=
  let own := s.ownWrites uid o.id
  let need := fun (a : Nat) => o.lanes.any (fun l => decide (l.fa ≤ a) && decide (a < l.fa + l.size))
  let byteAt := fun (a : Nat) => match youngest own a with
    | some e => (match e.kind with | .bytes d => if e.bad then none else d[a - e.addr]? | _ => none)
    | none => none
  let bs := (List.range 64).map (fun i => (need (line + i), byteAt (line + i)))
  if bs.all (fun x => !x.1 || x.2.isSome) then some (bs.map (fun x => x.2.getD 0)) else none

/-- A byte of a line that an operation needs comes from an own entry with an error (13 R229). -/
def State.badOwn (s : State) (uid : Nat) (o : MemOp) (line : Nat) : Bool :=
  let own := s.ownWrites uid o.id
  (List.range 64).any (fun i => (youngest own (line + i)).any SbEntry.bad &&
    o.lanes.any (fun l => decide (l.fa ≤ line + i) && decide (line + i < l.fa + l.size)))

/-- A request is served from the buffer or the L1, or goes to a holder and is served or refused there. -/
def State.tryReq (s : State) (g : Group) (c : Ctx) (o : MemOp) (r : LineReq) : State :=
  let uid := g.place.uid
  let core := g.place.core
  let gva := ((o.lanes.find? (fun a => lineBase a.fa == r.line)).map LaneAcc.gva).getD 0
  if s.badOwn uid o r.line then s.setReq uid o.id { r with err := some 16 }
  else match (if r.toPrim then none else s.forwarded uid o r.line) with
  | some bs => s.setReq uid o.id { r with served := true, left := true, data := bs, source := 0, stamp := 0 }
  | none =>
    if !(r.left || s.leaves g o r.line) then s
    else
      let r := if r.left then r else { r with left := true, floor := g.acc.rfloor.toNat }
      let hit := if r.toPrim then none else s.l1Find core c gva r.floor o.pl o.const
      match hit with
      | some l =>
        (s.hitL1 l o.ret).setReq uid o.id { r with served := true, data := l.data, source := 1, stamp := l.stamp }
      | none =>
        if 16 ≤ r.routed then s.setReq uid o.id { r with err := some 13 }
        else
          let r := { r with routed := r.routed + 1 }
          let w : Want := ⟨core, c.num, c.vdid, c.world, gva, r.line, r.floor, if o.const then 1 else o.ret, r.toPrim, o.atPrimary, true, some (.load o.id r.line)⟩
          match s.fetchLine w r.gone with
          | .data s bs stamp lease =>
            let stale := o.lanes.any (fun a => lineBase a.fa == r.line && a.stale)
            let s := if stale then s else s.fillL1 core c gva r.line o.ret o.const bs stamp lease (s.tagOf r.line)
            s.setReq uid o.id { r with served := true, data := bs, stamp := stamp, source := 2 }
          | .refused (some h) => s.setReq uid o.id { r with gone := h :: r.gone }
          | .refused none => s.setReq uid o.id { r with toPrim := true }
          | .wait s => s
          | .err s cause => s.setReq uid o.id { r with err := some cause }

/-- The operation of a name, with its group. -/
def State.opOf (s : State) (n : Nat) : Option (Group × MemOp) :=
  let gs := s.groups ++ s.out.map OutGroup.group
  gs.findSome? (fun g => (g.acc.ops.find? (fun o => o.id == n)).map (fun o => (g, o)))

/-- Of some requests the first that can go on goes on: one that is held or waits keeps no other from it (25 R396). -/
def State.serveFirst (s : State) (g : Group) (c : Ctx) (o : MemOp) : List LineReq → State
  | [] => s
  | r :: rs =>
    let t := s.tryReq g c o r
    if t = s then s.serveFirst g c o rs else t

/-- A request of a load that has no answer goes on, of those that were (`again`) or were not refused before. -/
def State.serveOp (s : State) (n : Nat) (again : Bool) : State :=
  match s.opOf n with
  | none => s
  | some (g, o) =>
    match s.ctx? g.place.ctx with
    | some c => s.serveFirst g c o (o.reqs.filter (fun r => !r.served && r.err.isNone && (decide (0 < r.routed) == again)))
    | none => s

/-- A read of a core of another package arrives at a holder here: a primary serves it, and that package holds the line under a
lease from now, but for a line of an object in UPDATE or OWNED; a replica serves it where its lease and its applied-through time allow
(R170, 13 R223). A line of a declared object makes its transition first (11 R185). -/
def State.readOutside (s : State) (pkg core world holder line floor sent : Nat) : State :=
  let fa := lineBase line
  let agent := sharerId pkg
  let answer := fun (t : State) => t.sendTo (t.primRouter holder) fa agent chanAnswer
  let lend := fun (t : State) =>
    let t := answer (t.unitRead holder fa)
    let rest := t.sharers.filter (fun x => !(x.prim == holder && x.line == fa && x.pkg == pkg))
    { t with sharers := ⟨holder, fa, pkg, t.pace⟩ :: rest }
  match s.holderState holder fa with
  | none => s
  | some h =>
    if pkg = s.pkgNum ∨ s.worldOk holder fa world = false ∨ (s.lineAt holder fa).poison = true then answer s
    else match h.st with
      | .primary =>
        if s.lineWaits holder fa then s
        else (match s.objOfFa fa with
          | some o =>
            if o.barred.any (fun b => b.1 == agent && decide (sent < b.2)) then s
            else (match s.objAccess o (some (.agent (.read agent))) agent 0 fa false with
              | .poisoned => answer s
              | .wait t => t
              | .go t => (match (t.obj? o.idx).map ObjEntry.st with
                | some .shared | some (.priv _) => lend t
                | _ => answer (t.unitRead holder fa)))
          | none => (match s.touchPageAs pkg core fa with
            | none => s
            | some t => lend t))
      | .replica => answer (if s.pace < h.leaseEnd ∧ floor ≤ h.through then s.unitRead holder fa else s)
      | _ => answer s

/-- A load in flight to another package's home receives a poisoned response for a line (26 R399). -/
def State.farPoison (s : State) (n line : Nat) : State :=
  match s.opOf n with
  | none => s
  | some (g, o) => (match o.reqs.find? (fun r => r.line == lineBase line && r.left && !r.served && r.err.isNone) with
    | none => s
    | some r => if ((s.routeWrite (s.dieRouter g.place.core) r.line r.gone).any (fun h => h.holder / 256 != s.pkgNum)) then
        s.setReq g.place.uid n { r with err := some 15 } else s)

/-- READ_REQUEST: a holder serves or refuses an arriving read, or another package's home has answered it as poisoned. (R170, 26 R399) -/
def execReadRequest (m : ReadMsg) (s : State) : Out State :=
  .next (match m with
    | .load n => s.serveOp n false
    | .outside pkg core world holder line floor sent => s.readOutside pkg core world holder line floor sent
    | .poisoned n line => s.farPoison n line)

/-- LOAD_COMPLETE: a load's data arrives in class order; registers and the read floor are updated. (R232) -/
def execLoadComplete (n : Nat) (s : State) : Out State :=
  .next (match s.opOf n with
    | some (g, o) => if o.finished then s.settleSend g.place.uid o.cls else s
    | none => s)

/-! ## Issue of loads and stores -/

/-- A load of the lanes that passed becomes outstanding; its requests leave the core with the group's floor where no hold keeps them
(R232, 10 R168). -/
def State.startLoad (s : State) (dest : Dest) (const : Bool) (ret : Nat) (acq : Option Nat) (lanes : List LaneAcc) : State :=
  let (id, s) := s.fresh
  let prim := match acq with | some x => decide (3 ≤ x) | none => false
  let reqs : List LineReq := ((lanes.map (fun a => lineBase a.fa)).eraseDups).map
    (fun l => ⟨l, 0, 0, [], false, prim, false, [], 0, 0, none⟩)
  let o : MemOp := ⟨id, .ld, .load, s.bundlePc, dest, lanes, reqs, 0, ret, acq, const, 0, 0, none, s.cur.ctl.iss, s.cur.trap.pl⟩
  let s := s.modAcc (fun a => { a with ops := a.ops ++ [o], ld := a.ld + 1 })
  let s := s.modCur s.sendOff
  if acq.isSome then s.modSplit (fun sp => { sp with acq := sp.acq ++ [id] }) else s

/-- A write joins the one before it in its instruction where its bytes follow in the same line. -/
def mergeStep (l : List (LaneAcc × List Byte)) (w : LaneAcc × List Byte) : List (LaneAcc × List Byte) :=
  match l with
  | (a, x) :: rest =>
    if w.1.fa = a.fa + x.length ∧ lineBase w.1.fa = lineBase a.fa then (a, x ++ w.2) :: rest else w :: l
  | [] => [w]

/-- The writes of an operation: ascending neighbours in one line form one (R219). -/
def mergeWrites (l : List (LaneAcc × List Byte)) : List (LaneAcc × List Byte) := (l.foldl mergeStep []).reverse

/-- Bytes at `[a, a + n)` touch those at `[b, b + m)` in one line. -/
def touches (b m a n : Nat) : Bool := lineBase a == lineBase b && decide (a ≤ b + m) && decide (b ≤ a + n)

/-- The latest operation whose store an entry holds. -/
def SbEntry.lastOp (e : SbEntry) : Nat := match e.origin with
  | .group _ o _ => (e.also.map Prod.fst).foldl max o
  | _ => 0

/-- The youngest entry of the issuing core, where a store of the group may merge into it: no other entry, and no load of the
group in flight, lies between (R219). -/
def State.joinable (s : State) : Option SbEntry :=
  match (s.sb.filter (fun e => e.core == s.cur.place.core)).getLast? with
  | none => none
  | some e =>
    let mine := match e.origin, e.kind with
      | .group u _ _, .bytes _ => u == s.cur.place.uid && e.tree.isNone && !e.bad && e.ctx == s.cur.place.ctx
      | _, _ => false
    if mine && s.cur.acc.ops.all (fun o => o.kind != .load || decide (o.id < e.lastOp)) then some e else none

/-- The entry with later bytes over its own. -/
def SbEntry.overlay (e : SbEntry) (op : Nat) (a : LaneAcc) (d : List Byte) : SbEntry :=
  let old := match e.kind with | .bytes x => x | _ => []
  let lo := min e.addr a.fa
  let hi := max (e.addr + old.length) (a.fa + d.length)
  let bs := (List.range (hi - lo)).map (fun i =>
    if a.fa ≤ lo + i ∧ lo + i < a.fa + d.length then (d[lo + i - a.fa]?).getD 0 else (old[lo + i - e.addr]?).getD 0)
  { e with addr := lo, gva := min e.gva a.gva, size := bs.length, kind := .bytes bs, also := e.also ++ [(op, a.lane)] }

/-- The entries that writes take beyond those there are: neighbours merge (R219). -/
def State.newEntries (s : State) (ws : List (LaneAcc × List Byte)) : Nat :=
  (ws.foldl (fun (x : Option (Nat × Nat) × Nat) (w : LaneAcc × List Byte) =>
    let n := w.2.length
    match x.1 with
    | some (b, m) =>
      if touches b m w.1.gva n then
        let lo := min b w.1.gva
        (some (lo, max (b + m) (w.1.gva + n) - lo), x.2)
      else (some (w.1.gva, n), x.2 + 1)
    | none => (some (w.1.gva, n), x.2 + 1)) (s.joinable.map (fun e => (e.gva, e.size)), 0)).2

/-- A write of the group's operation enters the store buffer: it merges into the youngest entry where it touches it, else it takes an
entry of its own (R219). -/
def State.pushEntry (s : State) (op ret : Nat) (tree : Option (Nat × Nat)) (a : LaneAcc) (size : Nat) (k : WKind) :
    State :=
  let p := s.cur.place
  let prim := ((s.routeWrite (s.dieRouter p.core) a.fa []).map RtHolder.holder).getD 0
  let into := match k, s.joinable with
    | .bytes d, some e => if tree.isNone && e.prim == prim && touches e.addr e.size a.fa d.length then some (e, e.overlay op a d) else none
    | _, _ => none
  match into with
  | some (e, e') => ({ s with sb := s.sb.map (fun (x : SbEntry) => if x.id = e.id then e' else x) }).dropL1 p.core (lineBase a.fa)
  | none =>
    let (id, s) := s.fresh
    let e : SbEntry := ⟨id, p.core, .group p.uid op a.lane, s.myWorld, s.myVdid, p.ctx, a.gva, a.fa, size, k, prim, ret,
      tree, false, []⟩
    ({ s with sb := s.sb ++ [e] }).dropL1 p.core (lineBase a.fa)

/-- A store, atomic or `red` becomes outstanding with its entries (R219, R232). -/
def State.startStore (s : State) (kind : OpKind) (dest : Dest) (ret : Nat) (acq : Option Nat) (tree : Option (Nat × Nat))
    (ws : List (LaneAcc × Nat × WKind)) : State :=
  let (id, s) := s.fresh
  let o : MemOp := ⟨id, .st, kind, s.bundlePc, dest, ws.map Prod.fst, [], ws.length, ret, acq, false, 0, 0, none,
    s.cur.ctl.iss, s.cur.trap.pl⟩
  let s := s.modAcc (fun a => { a with ops := a.ops ++ [o], st := a.st + 1 })
  let s := if acq.isSome then s.modSplit (fun sp => { sp with acq := sp.acq ++ [id] }) else s
  ws.foldl (fun s w => s.pushEntry id ret tree w.1 w.2.1 w.2.2) s

/-- The access is performed: its operation becomes outstanding. -/
def State.perform (s : State) : HeldOp → State
  | .load dest const ret acq lanes => s.startLoad dest const ret acq lanes
  | .store kind dest ret acq tree ws fl => (s.raise fl).startStore kind dest ret acq tree ws

/-- The buffer of the issuing core has room for `n` more entries (R213, R219). -/
def State.sbRoom (s : State) (n : Nat) : Bool :=
  decide ((s.sb.filter (fun e => e.core == s.cur.place.core)).length + n ≤ 64)

/-- The entries that an operation takes in the store buffer (R219). -/
def State.entriesFor (s : State) : HeldOp → Nat
  | .load _ _ _ _ _ => 0
  | .store _ _ _ _ _ ws _ => s.newEntries (ws.filterMap (fun w => match w.2.2 with | .bytes d => some (w.1, d) | _ => none)) +
      (ws.filter (fun w => match w.2.2 with | .bytes _ => false | _ => true)).length

/-- The fabric addresses of an operation's lanes. -/
def HeldOp.addrs : HeldOp → List Nat
  | .load _ _ _ _ ls => ls.map LaneAcc.fa
  | .store _ _ _ _ _ ws _ => ws.map (fun w => w.1.fa)

/-- The lanes of an access changed. -/
def HeldOp.mapLanes (f : LaneAcc → LaneAcc) : HeldOp → HeldOp
  | .load d c r a ls => .load d c r a (ls.map f)
  | .store k d r a t ws fl => .store k d r a t (ws.map (fun w => (f w.1, w.2))) fl

/-- Some lane of an access satisfies a test. -/
def HeldOp.anyLane (p : LaneAcc → Bool) : HeldOp → Bool
  | .load _ _ _ _ ls => ls.any p
  | .store _ _ _ _ _ ws _ => ws.any (fun w => p w.1)

/-- The access that a split holds until its condition comes to hold. -/
def Wait.op : Wait → Option HeldOp
  | .release _ _ o | .merge _ o | .switch _ _ _ o => some o
  | _ => Option.none

/-- A split's held access changed. -/
def Wait.mapOp (f : HeldOp → HeldOp) : Wait → Wait
  | .release s b o => .release s b (f o)
  | .merge i o => .merge i (f o)
  | .switch i t b o => .switch i t b (f o)
  | w => w

/-- The operation is a contribution, which no merge keeps out. -/
def HeldOp.isRed : HeldOp → Bool
  | .store .red _ _ _ _ _ _ => true
  | _ => false

end Sys2Proof.Machine
end

