-- ==== Sys2Proof/Machine/Write.lean ====
section
/-! DEFINITION. Writes at their primary, echoes, leases and responses as the events of the hardware (spec 10 R164-R173,
13 R219-R222, 14 R232, R242, 15 R253-R258). -/

namespace Sys2Proof.Machine

/-! ## Draining and arrival -/

/-- A `red` entry folds at its leaf or die as it drains, and counts as done in its group (11 R188); the partial of a leaf that a forced
reset has ended is discarded (19 R337). -/
def State.foldEntry (s : State) (e : SbEntry) : State :=
  match e.kind, e.origin with
  | .fold obj _ who tag gva val, .group uid op _ =>
    let s := { s with sb := s.sb.erase e }
    let lost := (s.obj? obj).any (fun o => o.st == ObjSt.ownerLost)
    let ended := (s.obj? obj).any ObjEntry.ordered && (s.ctx? e.ctx).any (fun c => c.reset.isSome)
    let (s, fl) : State × FpFlags := if ended then (s, 0) else s.foldPartial obj e.core who uid tag gva e.addr val
    let s := s.onGroup uid (fun g => { g with acc := { g.acc with ops := g.acc.ops.map (fun (o : MemOp) =>
      if o.id == op then { o with
        writes := o.writes - 1
        flags := o.flags ||| fl
        err := if lost && o.err.isNone then some (15, lineBase e.addr) else o.err } else o) } })
    s.settleSend uid .st
  | _, _ => s

/-- An ordered round of the object is open under another tag: a `red` waits until it completes (11 R191). -/
def State.otherRound (s : State) (obj tag : Nat) : Bool :=
  match s.obj? obj with
  | some o => o.st == ObjSt.update && o.isOpen && o.tag != tag
  | none => false

/-- Lines or partials of the object that another package holds have to come home before a `red` can fold (11 R185, R191). -/
def State.comesHome (s : State) (obj tag : Nat) : Bool :=
  match s.obj? obj with
  | some o => s.ownedAway o || (o.st == ObjSt.update && o.tag != tag && !o.away.isEmpty)
  | none => false

/-- A load of the entry's group to the object was issued before the `red` and is in flight: it never sees the value (15 R264). -/
def State.objRead (s : State) (obj : Nat) (e : SbEntry) : Bool :=
  match e.origin, s.obj? obj with
  | .group uid op _, some o => (match s.anyGroup uid with
    | some g => g.acc.ops.any (fun p => p.kind == .load && decide (p.id < op) &&
        p.lanes.any (fun a => (s.objOfFa a.fa).any (fun x => x.idx == o.idx)))
    | none => false)
  | _, _ => false

/-- STORE_BUFFER_DRAIN: a store buffer entry drains towards its serialisation point once its holds are released. (R219) -/
def execStoreBufferDrain (core : Nat) (s : State) : Out State :=
  .next (match s.sb.find? (fun e => e.core == core) with
    | none => s
    | some e => (match e.kind with
      | .fold obj _ _ tag _ _ =>
        if s.otherRound obj tag || !s.drainable e || s.objRead obj e then s
        else if s.comesHome obj tag then s.enterUpdate obj tag
        else s.foldEntry e
      | _ => s.drainHead core))

/-- Where an arriving write stands at its holder (R170, R172, R173). -/
inductive Arrival | primary | forward (dst : Nat) | gone
  deriving DecidableEq, Repr

def State.arrival (s : State) (w : WriteReq) : Arrival :=
  match s.holderState w.prim w.addr with
  | none =>
    if w.prim / 256 = s.pkgNum then .gone
    else if w.gone.contains w.prim then .gone else .primary
  | some h =>
    match h.st, h.next with
    | .primary, _ => .primary
    | .replica, some n | .filling, some n => .forward n
    | _, _ => .gone

/-- Capability bits that a write needs of its primary (R169, R241). -/
def WriteReq.needs (w : WriteReq) : Needs :=
  match w.kind with
  | .atomic op size _ _ => [atomCap op size]
  | _ => []

/-- The holder's capability: as it announced; a holder without a record here has what the router lists. -/
def State.capOf (s : State) (holder addr : Nat) : BitVec 8 :=
  match s.holderState holder addr with
  | some h => h.cap
  | none => ((s.routeEntry (s.localId 0) addr).bind (fun e => (e.holders.find? (fun h => h.holder == holder)).map RtHolder.cap)).getD 0

/-- The agent that a write comes from (11 R183). -/
def State.writer (s : State) (w : WriteReq) : Nat :=
  match w.origin with
  | .outside p _ => sharerId p
  | _ => s.agentOf w.core

/-- The class of a write's page after it (13 R221). -/
def State.writePage (s : State) (w : WriteReq) : Option State :=
  match w.origin with
  | .outside p c => s.touchPageAs p c w.addr
  | _ => s.touchPage w.addr w.core

/-- A write goes on at the serialisation point `place`, or that of its primary: the copies of its line are invalidated (13 R222). -/
def State.beginWrite (s : State) (n : Nat) (place : Option Nat) : State :=
  s.modWrite n (fun w => { w with
    phase := .invalidating, place := place, invs := s.copiesAt (place.or (s.serSlice w.prim)) (lineBase w.addr) })

/-- A write at the primary of its line: an object's transition comes first (11 R185), and one that an agent here then owns takes the
write in its own L2 (R184); that of another package takes the request with the line (26 R397). -/
def State.atPoint (s : State) (w : WriteReq) : State :=
  match s.objOfFa w.addr with
  | none => (match s.writePage w with
    | some t => t.beginWrite w.id none
    | none => s)
  | some o => (match s.objAccess o (some (.write w.id)) (s.writer w) w.core w.addr true with
    | .poisoned => s.failWrite w.id 15
    | .wait t => t
    | .go t => (match (t.obj? o.idx).map ObjEntry.st with
      | some (.owned a) =>
        if a / 256 = t.pkgNum then (t.markWrote o.idx w.addr).beginWrite w.id (some (t.l2Place (36 * (a % 256)) w.prim w.addr))
        else { t with writes := t.writes.filter (fun (x : WriteReq) => x.id != w.id) }
      | _ => t.beginWrite w.id none))

/-- A write arrives where it is on its way to. It waits behind another that is invalidating its line (R258) and behind an echo on its
way to the holder (R173); one that meets the wrong holder is forwarded or refused (R170). A line that this package owns is written
here (26 R397). -/
def State.arriveWrite (s : State) (n : Nat) : State :=
  match s.write? n with
  | none => s
  | some w =>
    if w.phase != .travel || w.prim = 2 ^ 24 then s
    else if s.lineWaits w.prim w.addr then s
    else
      let far := s.farOwner w.addr
      match (if far.isSome then Arrival.primary else s.arrival w) with
      | .gone => (match w.origin with
        | .outside p _ => { s with writes := s.writes.erase w }.sendTo (s.primRouter w.prim) w.addr (sharerId p) chanAnswer
        | _ => s.modWrite n (fun w => { w with gone := w.prim :: w.gone, prim := 2 ^ 24, routed := w.routed + 1 }))
      | .forward h => (s.modWrite n (fun w => { w with prim := h })).routeTo { w with prim := h }
      | .primary =>
        let stop := s.failWrite n
        let reads := match w.kind with | .atomic _ _ _ _ => true | _ => false
        if !s.worldOk w.prim w.addr w.world || (reads && (s.lineAt w.prim w.addr).poison) then stop 15
        else if reads && s.badCopy w.prim w.addr then (s.poisonBad w.addr).failWrite n 16
        else if w.needs.any (fun b => !(s.capOf w.prim w.addr).getLsbD b) then stop 14
        else match far with
          | some f => (s.markFar f w.addr).beginWrite n (some (s.l2Place (36 * f.die) f.prim w.addr))
          | none => s.atPoint w

/-- A write of another package's core on its way to a holder here (R164). -/
def State.outsideWrite (s : State) (pkg core world holder addr : Nat) (k : FarWrite) : State :=
  let (id, s) := s.fresh
  let kind : WKind := match k with
    | .bytes d => .bytes (d.take (64 - addr % 64))
    | .atomic op size x cmp => .atomic op size x cmp
  let w : WriteReq := ⟨id, .outside pkg core, 65535, world, 0, 65535, addr, addr, 1, kind, holder, 0, [], none, .travel, [],
    0, 0, 0, [], 0, true, false, none, [], none⟩
  { s with writes := s.writes ++ [w] }.arriveWrite id

/-- A request of another package that its agent sent before the object of the line was reclaimed from it (26 R398). -/
def State.barredAt (s : State) (agent fa sent : Nat) : Bool :=
  (s.objOfFa fa).any (fun o => o.barred.any (fun b => b.1 == agent && decide (sent < b.2)))

/-- A write in flight to another package's home (26 R397). -/
def State.toFar (s : State) (n : Nat) : Option WriteReq :=
  (s.write? n).filter (fun w => w.phase == WPhase.travel && w.prim != 2 ^ 24 && w.prim / 256 != s.pkgNum)

/-- The home of a write's object makes this package its owner: the lines come here, and copies of them under other claims go
(26 R397). -/
def State.grant (s : State) (w : WriteReq) (lines : List (Nat × List Byte)) : State :=
  let s := lines.foldl (fun (s : State) (l : Nat × List Byte) =>
    let s := s.dropLeased (lineBase l.1)
    { s with mem := Memory.putN s.mem (memKey w.prim (lineBase l.1)) (l.2.take 64) }) s
  { s with owned := ⟨w.prim, lines.map (fun l => lineBase l.1), dieOf w.core, []⟩ :: s.owned }

/-- WRITE_APPLY: a primary applies an arriving write and echoes it to replicas. One to another package's home may come back with the
ownership of its object, or poisoned. (R164, 26 R397, R399) -/
def execWriteApply (m : WriteMsg) (s : State) : Out State :=
  .next (match m with
    | .flight n => s.arriveWrite n
    | .outside pkg core world holder addr k sent =>
      if pkg = s.pkgNum ∨ s.barredAt (sharerId pkg) addr sent = true then s else s.outsideWrite pkg core world holder addr k
    | .grant n lines => (match s.toFar n with
      | some w => if lines.any (fun l => lineBase l.1 == lineBase w.addr) && (s.farOwner w.addr).isNone then (s.grant w lines).arriveWrite n
          else s
      | none => s)
    | .poisoned n => (match s.toFar n with
      | some _ => s.failWrite n 15
      | none => s))

/-- INVALIDATE: an invalidation reaches a copy, which is removed and acknowledged. (R222) -/
def execInvalidate (n : Nat) (s : State) : Out State :=
  .next (match s.write? n with
    | none => s
    | some w => (match w.invs with
      | [] => s
      | c :: rest => (s.dropOne (lineBase w.addr) c).modWrite n (fun w => { w with invs := rest })))

/-- WRITE_READABLE: a write becomes readable once every copy has acknowledged invalidation; that is its apply time. (R258) -/
def execWriteReadable (n : Nat) (s : State) : Out State :=
  .next (match s.write? n with
    | none => s
    | some w => if w.phase != .invalidating || !w.invs.isEmpty then s else s.makeReadable w)

/-- APPLY_NOTICE: an apply notice arrives at the issuing core and releases drain holds. (R255) -/
def execApplyNotice (n : Nat) (s : State) : Out State :=
  .next (s.modWrite n (fun w => if w.phase == .applied then { w with notice := true } else w))

/-! ## Echoes and fills -/

/-- An echo is the next for its holder: echoes and renewals of one primary arrive in the order sent, and those of one line in the
order of its writes, whichever primary sent them (10 R164, R166, 15 R253). -/
def State.echoFirst (s : State) (e : Echo) : Bool :=
  s.echoes.all (fun x => decide (e.id ≤ x.id) || x.dst != e.dst || (x.src != e.src && lineBase x.addr != lineBase e.addr)) &&
    s.renewals.all (fun r => r.dst != e.dst || decide (e.id ≤ r.seq))

/-- ECHO_RECEIVE: a holder applies an echo in sequence and acknowledges it; one that is DRAINING only acknowledges. A
filling holder marks the bytes as echoed. An echo of another package's primary, its invalidation of lines leased to this
package, or its hold of an object's line comes from outside. (R164, R184, 13 R223) -/
def execEchoReceive (m : EchoMsg) (s : State) : Out State :=
  .next (match m with
    | .flight n => (match s.echoes.find? (fun e => e.id == n) with
      | none => s
      | some e => if e.carried || !s.echoFirst e then s else s.takeEcho e)
    | .hold dst addr => if dst / 256 = s.pkgNum then s.mapHeld dst (fun h => { h with kept := lineBase addr :: h.kept }) addr else s
    | .outside pre src dst addr data time =>
      if src / 256 = s.pkgNum ∨ dst / 256 ≠ s.pkgNum ∨ s.echoes.any (fun x => x.src == src && x.dst == dst) = true then s
      else s.takeEcho ⟨0, 0, src, dst, pre, addr, data.take (64 - addr % 64), time, false, decide (dst = sharerId s.pkgNum)⟩)

/-- The WCT of a write once every member of its echo set has answered or been revoked (R167). -/
def WriteReq.known (w : WriteReq) : Option Nat :=
  if w.echo.all (fun e => e.2.isSome) then some (w.echo.foldl (fun m e => max m (e.2.getD 0)) w.wct) else none

/-- The primary knows a WCT: it becomes the stamp of the line where no later write was applied (R254). -/
def State.stampWct (s : State) (n : Nat) : State :=
  match s.write? n with
  | none => s
  | some w =>
    match w.known with
    | none => s
    | some t =>
      let l := s.lineAt w.prim w.addr
      let s := if l.last = n then s.setLine { l with wct := t } else s
      s.modWrite n (fun w => { w with wct := t, echo := [] })

/-- ECHO_ACK_RECEIVE: a primary receives an acknowledgement and sends the WCT response once it is known. One that comes later
than 5 µs after the apply time is out of time (R165). (R167) -/
def execEchoAckReceive (n : Nat) (s : State) : Out State :=
  .next (match s.acks.find? (fun a => a.id == n) with
    | none => s
    | some a =>
      let s := { s with acks := s.acks.erase a }
      match s.write? a.write with
      | none => s
      | some w =>
        if w.time + 5000 < s.pace then s
        else
          let s := s.modWrite a.write (fun w => { w with echo := w.echo.map (fun e =>
            if e.1 = a.dst ∧ e.2.isNone then (e.1, some a.time) else e) })
          ({ s with sharers := s.sharers.filter (fun x => !(sharerId x.pkg == a.dst && x.prim == w.prim && x.line == lineBase w.addr &&
            decide (x.sent ≤ w.time))) }).stampWct a.write)

/-- A holder stops serving and acknowledges echoes without applying them (R172). -/
def State.drainHolder (s : State) (pre : Prefix) (holder : Nat) : State :=
  s.modHolder pre holder (fun h => { h with st := .draining, leaseEnd := 0, settle := s.pace })

/-- A filling holder writes the bytes of a fill that are not marked echoed; its line takes the stamp of the line read, where that is the
later (R172, 15 R254). -/
def State.fillAt (s : State) (dst addr : Nat) (data : List Byte) (stamp : Nat) : State :=
  match s.holderState dst addr with
  | some h =>
    if h.st == .filling then
      let keep := (data.zipIdx.map (fun p => (addr + p.2, p.1))).filter (fun p => !h.echoed.contains p.1)
      keep.foldl (fun (s : State) (p : Nat × Byte) => s.copyBytes dst p.1 [p.2] (max (s.lineAt dst p.1).wct stamp)) s
    else s
  | none => s

/-- FILL_WRITE: a filling holder writes the bytes not already marked echoed. A fill of another package comes from outside. (R172) -/
def execFillWrite (m : FillMsg) (s : State) : Out State :=
  .next (match m with
    | .flight n => (match s.fills.find? (fun f => f.id == n) with
      | none => s
      | some f => { s with fills := s.fills.erase f }.fillAt f.dst f.addr f.data f.time)
    | .outside _ dst addr data stamp => if dst / 256 = s.pkgNum then s.fillAt dst addr (data.take (64 - addr % 64)) stamp else s)

/-- LEASE_END: a replica's lease runs out and it refuses reads. (R166) -/
def execLeaseEnd (pre : Prefix) (holder : Nat) (s : State) : Out State :=
  .next (s.modHolder pre holder (fun h => if h.leaseEnd ≤ s.pace then { h with leaseEnd := 0 } else h))

/-- LEASE_RENEWAL: a primary issues renewals to its replicas, as its router lists them, at each whole microsecond; a renewal
issued at `n` follows every echo of a write applied at or before `n` (15 R254). (R166) -/
def execLeaseRenewal (pre : Prefix) (s : State) : Out State :=
  let n := (s.pace - 1) / 1000 * 1000
  .next (match s.holders.find? (fun h => h.pre == pre && h.st == HState.primary && h.holder / 256 == s.pkgNum) with
    | none => s
    | some p =>
      (s.renewed.filter (fun r => r.live && r.pre == pre && r.prim == p.holder && decide (r.time < n))).foldl (fun (s : State) (r : Renewed) =>
        let (i, s) := s.fresh
        { s with
          renewed := s.renewed.map (fun (x : Renewed) => if x = r then { x with time := n, issued := true } else x)
          renewals := s.renewals ++ [(⟨i, pre, p.holder, r.holder, n, i⟩ : Renewal)] }.sendTo (s.primRouter p.holder) pre.base r.holder chanData) s)

/-- A replica applies a renewal: its lease ends ε before the renewal's time and the lease, ε as the distance of its primary
(R157, R166). -/
def State.takeRenewal (s : State) (pre : Prefix) (src dst time : Nat) : State :=
  s.modHolder pre dst (fun h => if h.st == .replica then
    { h with through := time, leaseEnd := time + 1000 * h.lease - (if src / 256 = s.pkgNum then 2 else 20) } else h)

/-- RENEWAL_RECEIVE: a replica applies a renewal, after every earlier echo, and its lease and applied-through time
advance. (R166) -/
def execRenewalReceive (m : RenewMsg) (s : State) : Out State :=
  .next (match m with
    | .flight n => (match s.renewals.find? (fun r => r.id == n) with
      | none => s
      | some r =>
        let before := s.echoes.any (fun e => e.dst == r.dst && decide (e.id < r.seq)) ||
          s.renewals.any (fun x => x.dst == r.dst && decide (x.seq < r.seq))
        if before then s
        else { s with renewals := s.renewals.erase r }.takeRenewal r.pre r.src r.dst r.time)
    | .outside pre src dst time =>
      if src / 256 = s.pkgNum ∨ dst / 256 ≠ s.pkgNum ∨ s.pace < time ∨ s.echoes.any (fun x => x.dst == dst) = true then s
      else s.takeRenewal pre src dst time)

/-! ## Rerouting and responses -/

/-- REFUSAL_REROUTE: a refused request is routed again by the die router; after 16 routings, or with no route left, it
ends with ROUTE_NONE. (R170) -/
def execRefusalReroute (n : Nat) (s : State) : Out State :=
  .next (match s.write? n with
    | some w =>
      if w.phase == .travel && w.prim = 2 ^ 24 then
        let h := if 16 ≤ w.routed then none else (s.routeWrite (s.dieRouter w.core) w.addr w.gone).map RtHolder.holder
        let s := s.modWrite n (fun w => match h with
          | some h => { w with prim := h }
          | none => { w with phase := .answered, notice := true, err := some 13 })
        s.routeTo { w with prim := h.getD (2 ^ 24) }
      else s
    | none => s.serveOp n true)

/-- The cores of a partition that are in service. -/
def State.partCores (s : State) (part : Nat) : List Nat :=
  ((partSlices ((s.pkg.partDesc[part]?).getD 0)).flatMap (fun sl => (List.range 12).map (fun j => 12 * sl + j))).filter
    (fun c => s.pkg.dieOff.toNat / 2 ^ dieOf c % 2 == 0)

/-- A write's response at its issuer (R232, R167, 14 R244, 16 R276). -/
def State.respond (s : State) (w : WriteReq) : State :=
  let wct := if w.err.isSome then 0 else w.wct
  match w.origin with
  | .group uid op lane =>
    let answer := fun (s : State) (x : Nat × Lane) =>
      s.onGroup uid (fun g => { g with acc := { g.acc with ops := g.acc.ops.map (fun (o : MemOp) =>
        if o.id == x.1 then
          { o with
            writes := o.writes - 1
            wct := max o.wct wct
            flags := o.flags ||| w.flags
            err := if o.err.isNone && w.err.isSome then some (w.err.getD 13, w.addr) else o.err
            lanes := o.lanes.map (fun (a : LaneAcc) => if a.lane = x.2 ∧ w.err.isNone then { a with old := some w.old } else a) }
        else o) } })
    ((((op, lane) :: w.also).foldl answer s).settleSend uid .st).settleSend uid .none
  | .copy cmd off =>
    let first := fun (c : CopyCmd) => match c.err with | none => true | some x => decide (off < x.2.1)
    { s with copies := s.copies.map (fun (c : CopyCmd) => if c.id == cmd then
        { c with
          wct := max c.wct wct
          err := if first c && w.err.isSome then some (w.err.getD 13, off, lineBase w.addr) else c.err }
      else c) }
  | .matrix _ cmd row =>
    let first := fun (c : MCmd) => match c.err with | none => true | some x => decide (row < x.1)
    s.modCmd cmd (fun c => { c with
      wct := max c.wct wct
      flags := c.flags ||| w.flags
      err := if first c && w.err.isSome then some (row, w.err.getD 13, lineBase w.addr) else c.err })
  | .launch id => s.modRec id (fun r => { r with wct := max r.wct wct })
  | .completion ctx part => (match w.err, s.ctx? ctx with
    | some k, some c => s.errorRecord ⟨k, c.world, c.vdid, ((s.partCores part).head?).getD 0, 10, lineBase w.addr, [], c.conf⟩
    | _, _ => s)
  | .outside p _ => s.sendTo (s.primRouter w.prim) w.addr (sharerId p) chanAnswer
  | .host | .engine => s

/-- STORE_RESPONSE: a write's response arrives with its WCT; the count falls and rfloor and wctmax rise. (R232) -/
def execStoreResponse (n : Nat) (s : State) : Out State :=
  .next (match s.write? n with
    | none => s
    | some w =>
      let ready := (w.phase == .applied && w.notice && w.known.isSome) || (w.phase == .answered && w.err.isSome)
      if ready then ({ s with writes := s.writes.erase w }).respond { w with wct := (w.known).getD w.wct } else s)

/-- The last time until which a holder of an echo set may serve what it had before a write: its last renewal and its lease; for a
leased copy the time at which it was sent and its lease. Where the primary is in another package, its last whole microsecond
before the deadline (R165, R167, 13 R223). -/
def State.lastLease (s : State) (w : WriteReq) (holder : Nat) : Nat :=
  if holder % 256 = 255 then
    (s.sharers.filter (fun x => sharerId x.pkg == holder && x.prim == w.prim && x.line == lineBase w.addr)).foldl
      (fun m x => max m (x.sent + s.leaseOf w.prim w.addr)) w.time
  else
    let lease := match s.holderState holder w.addr with
      | some h => 1000 * h.lease
      | none => 1000 * (((s.routeEntry (s.primRouter w.prim) w.addr).bind
          (fun e => (e.holders.find? (fun x => x.holder == holder)).map RtHolder.lease)).getD 0)
    if w.prim / 256 ≠ s.pkgNum then (w.time + 5000) / 1000 * 1000 + lease
    else (s.renewed.filter (fun r => r.prim == w.prim && r.holder == holder && prefixCovers r.pre w.addr && r.issued)).foldl
      (fun m r => max m (r.time + r.lease)) w.time

/-- A member of the echo set has missed its deadline or is cut off: the writes that wait for it count its last lease; a holder
stops serving, and echoes on their way to it are gone (R165, R167). -/
def State.revoke (s : State) (w : WriteReq) (holder : Nat) : State :=
  let last := s.lastLease w holder
  let s := s.modWrite w.id (fun w => { w with echo := w.echo.map (fun e =>
    if e.1 = holder ∧ e.2.isNone then (e.1, some last) else e) })
  if holder % 256 = 255 then
    { s with sharers := s.sharers.filter (fun x => !(sharerId x.pkg == holder && x.prim == w.prim && x.line == lineBase w.addr)) }
  else match s.holderState holder w.addr with
    | some h => s.drainHolder h.pre holder
    | none => s

end Sys2Proof.Machine
end

