-- ==== Sys2Proof/Machine/Mem.lean ====
section
/-! DEFINITION. The memory instructions: loads, stores, scratchpad, constants, atomics, fences, multicast store and
prefetch (spec 14 R230-R242, R247-R250, 13 R215, R216). -/

namespace Sys2Proof.Machine

/-! ## Addresses (R231) -/

/-- `s`base + sext(off) × z, off widened by LIT. -/
def State.addrM (s : State) (b : BitVec 6) (o : BitVec 8) (z : Nat) : DWord :=
  s.sreg b.toNat + widen s.hints 8 o.toNat * BitVec.ofNat 64 z

/-- The element of a scalar access. -/
def State.elemS (s : State) (b : BitVec 6) (o : BitVec 8) (z : Nat) : List Elem := [⟨0, (s.addrM b o z).toNat, z⟩]

/-- The elements of a vector access: A + l × z in lane l. -/
def State.elemsV (s : State) (b : BitVec 6) (o : BitVec 8) (z : Nat) : List Elem :=
  (lanesOf s.exec).map (fun l => ⟨l, (s.addrM b o z + BitVec.ofNat 64 (l.val * z)).toNat, z⟩)

/-- The elements of a gather or scatter: `s`base + sext(`v`idx[l]) × 2^sc. -/
def State.elemsI (s : State) (b : BitVec 6) (i : BitVec 7) (c : BitVec 2) (z : Nat) : List Elem :=
  (lanesOf s.exec).map (fun l =>
    ⟨l, (s.sreg b.toNat + ((s.vlane i.toNat l).signExtend 64 <<< c.toNat)).toNat, z⟩)

/-- The elements of a register pair of addresses (R240, 06 R105). -/
def State.elemsP (s : State) (a : BitVec 7) (z : Nat) : List Elem :=
  (lanesOf s.exec).map (fun l => ⟨l, (s.vlane a.toNat l).toNat + (s.vlane (a.toNat + 1) l).toNat * 2 ^ 32, z⟩)

/-- Bytes of a load size code (R233): 0, 1 one; 2, 3 two; 4 four; 5 four in `sld`, eight in the vector forms; 6 eight. -/
def loadSize (scalar : Bool) (z : Nat) : Nat :=
  if z < 2 then 1 else if z < 4 then 2 else if z = 4 then 4 else if z = 5 ∧ scalar then 4 else 8

/-- Sign extension of a load size code: the `.i` sizes (R233). -/
def loadSigned (z : Nat) : Bool := decide (z % 2 = 0) && decide (z < 5)

/-! ## Loads and stores -/

/-- A load of class `ld` (R233, R236, R238). -/
def doLoad (dest : Dest) (const : Bool) (ret : Nat) (es : List Elem) (s : State) : Act :=
  ordered s s.cur.acc.ld (fun s =>
    let o := s.scp
    let acq := if o.acq then some o.scope else none
    access s .read [] (o.acq && decide (3 ≤ o.scope)) true es (fun _ => none)
      (fun oks => .load dest const ret acq (laneAccs oks)) State.perform)

/-- A store of class `st`: `val` gives an element's bytes as a number (R233, R238). -/
def doStore (kind : OpKind) (ret : Nat) (tree : Option (Nat × Nat)) (es : List Elem) (val : Elem → Nat) (s : State) : Act :=
  ordered s s.cur.acc.st (fun s =>
    let bytes := fun (e : Elem) => leBytes e.size (val e)
    if !s.sbRoom (s.newEntries (mergeWrites (es.map (fun e => (⟨e.lane, e.gva, e.gva, e.size, none, false⟩, bytes e))))) then .notReady
    else access s .write [] false true es (fun _ => none) (fun oks =>
      let ws := mergeWrites (oks.map (fun e => (⟨e.1.lane, e.1.gva, e.2, e.1.size, none, false⟩, bytes e.1)))
      .store kind .drop ret none tree (ws.map (fun w => (w.1, w.2.length, WKind.bytes w.2))) 0) State.perform)

/-- A lane of a vector store's source: the pair for eight bytes (R233). -/
def State.vsrc (s : State) (d : Nat) (z : Nat) (l : Lane) : Nat :=
  (s.vlane d l).toNat + (if z = 8 then (s.vlane (d + 1) l).toNat * 2 ^ 32 else 0)

/-! ## Scratchpad (13 R215, R235) -/

/-- The team's region on the group's core (02 R33). -/
def State.region (s : State) : Option Region :=
  s.scratch.find? (fun r => r.core == s.cur.place.core && r.launch == s.cur.place.launch)

def State.setRegion (s : State) (r : Region) : State :=
  { s with scratch := s.scratch.map (fun (x : Region) => if x.core == r.core && x.launch == r.launch then r else x) }

/-- The bytes a read takes in its issue cycle: as they stood before the writes of that cycle (R215). -/
def Region.read (r : Region) (cycle off n : Nat) : List Byte :=
  (List.range n).map (fun i =>
    if r.prevAt = cycle then ((r.prev.find? (fun c => c.1 == off + i)).map Prod.snd).getD (Memory.get r.mem (off + i))
    else Memory.get r.mem (off + i))

/-- Bytes written in a cycle. -/
def Region.write (r : Region) (cycle off : Nat) (bs : List Byte) : Region :=
  let prev := if r.prevAt = cycle then r.prev else []
  let prev := (List.range bs.length).foldl (fun (p : Memory) i =>
    if p.any (fun c => c.1 == off + i) then p else (off + i, Memory.get r.mem (off + i)) :: p) prev
  { r with mem := Memory.putN r.mem off bs, prev := prev, prevAt := cycle }

/-- The checks of all lanes before any byte moves: range and alignment of every lane, and then, for a read, an uncorrectable error:
MEM_ECC for its first reader, DATA_POISON for later ones (R235, R229). A lane both out of range and misaligned is out of range: the
model's choice (log entry 51). -/
def scratchTrap (r : Option Region) (read : Bool) (es : List Elem) : Option (Nat × Nat × Nat) :=
  let size := (r.map Region.size).getD 0
  let bad := fun (e : Elem) => match r with
    | some x => read && x.bad.any (fun b => decide (e.gva / 4 ≤ b / 4) && decide (b / 4 ≤ (e.gva + e.size - 1) / 4))
    | none => false
  let met := fun (e : Elem) => match r with
    | some x => x.poisoned.any (fun b => decide (e.gva / 4 ≤ b / 4) && decide (b / 4 ≤ (e.gva + e.size - 1) / 4))
    | none => false
  let form := fun (e : Elem) => if size < e.gva + e.size then 12 else if e.gva % e.size ≠ 0 then 11 else 0
  let word := fun (e : Elem) => if bad e then (if met e then 15 else 16) else 0
  let first := fun (cause : Elem → Nat) => match es.filter (fun e => cause e != 0) with
    | [] => none
    | e :: rest => some (cause e, e.gva, (maskOfElems (e :: rest)).toNat)
  (first form).or (first word)

/-- The bad words that a read has met are poisoned (R229). -/
def State.meetBad (s : State) (es : List Elem) : State :=
  match s.region with
  | none => s
  | some r =>
    let hit := fun (b : Nat) => es.any (fun e => decide (e.gva / 4 ≤ b / 4) && decide (b / 4 ≤ (e.gva + e.size - 1) / 4))
    s.setRegion { r with poisoned := r.poisoned ++ (r.bad.filter hit).filter (fun b => !r.poisoned.contains b) }

/-- `spld`: the values of the issue cycle are written, with the flag, 16 cycles later (R235). -/
def doSpld (z : Nat) (d f : Nat) (es : List Elem) (s : State) : Act :=
  let r := s.region
  match scratchTrap r true es with
  | some (c, a, m) => if c = 16 then .ecc (fun s => s.meetBad es) a m else .trap c a m
  | none =>
    let val := fun (e : Elem) => match r with
      | some x => loadExt (loadSigned z) 32 e.size (ofLeBytes (x.read s.cycle e.gva e.size))
      | none => 0
    let wr := (es.map (fun e => (d, e.lane, BitVec.ofNat 32 (val e)) ::
      (if e.size = 8 then [(d + 1, e.lane, BitVec.ofNat 32 (val e / 2 ^ 32))] else []))).flatten
    .ok (s.later 16 f [] wr 0)

/-- `spst`: performed in its issue cycle, lanes in ascending order (R215, R235). -/
def doSpst (es : List Elem) (val : Elem → Nat) (s : State) : Act :=
  match scratchTrap s.region false es with
  | some (c, a, m) => .trap c a m
  | none =>
    .ok (es.foldl (fun (s : State) e => match s.region with
      | some r =>
        let r := r.write s.cycle e.gva (leBytes e.size (val e))
        let keep := fun (b : Nat) => !(decide (e.gva / 4 ≤ b / 4) && decide (b / 4 < (e.gva + e.size + 3) / 4))
        s.setRegion { r with bad := r.bad.filter keep, poisoned := r.poisoned.filter keep }
      | none => s) s)

/-! ## Atomics (R240-R242) -/

/-- Bytes of an atomic size code. -/
def atomBytes (z : Nat) : Nat := 4 * 2 ^ z

/-- An atomic of each element: compare value and operand per element (R242). -/
def doAtom (op z : Nat) (ret : Nat) (dest : Dest) (es : List Elem) (x cmp : Elem → Nat) (s : State) : Act :=
  ordered s s.cur.acc.st (fun s =>
    if !s.sbRoom es.length then .notReady
    else
      let o := s.scp
      let acq := if o.acq then some o.scope else none
      access s .atomic [atomCap op (atomBytes z)] false true es (fun _ => none) (fun oks =>
        .store .atomic dest ret acq none (oks.map (fun e =>
          (⟨e.1.lane, e.1.gva, e.2, e.1.size, none, false⟩, e.1.size, .atomic op e.1.size (x e.1) (cmp e.1)))) 0) State.perform)

/-- `s`n and its followers as one number of `k` registers, the low one first. -/
def State.sregs (s : State) (n k : Nat) : Nat := (List.range k).foldl (fun v i => v + (s.sreg (n + i)).toNat * 2 ^ (64 * i)) 0

/-- A scalar atomic: for `cas` the compare value first, the new value next (R240). -/
def doAtomS (op z d a b : Nat) (ret : Nat) (s : State) : Act :=
  let k := if z = 2 then 2 else 1
  let w := 2 ^ (8 * atomBytes z)
  let cmp := s.sregs b k % w
  let x := (if op = 9 then s.sregs (b + k) k else s.sregs b k) % w
  doAtom op z ret (.scalar d false) [⟨0, (s.sreg a).toNat, atomBytes z⟩] (fun _ => x) (fun _ => cmp) s

/-- A vector atomic (R240). -/
def doAtomV (op z b : Nat) (back : Bool) (ret : Nat) (es : List Elem) (s : State) : Act :=
  let k := z + 1
  let val := fun (n : Nat) (l : Lane) => (s.vlane n l).toNat + (if z = 1 then (s.vlane (n + 1) l).toNat * 2 ^ 32 else 0)
  doAtom op z ret (if back then .vector b false (z == 1) else .drop) es
    (fun e => if op = 9 then val (b + k) e.lane else val b e.lane) (fun e => val b e.lane) s

/-! ## Multicast store and prefetch (R247, R248) -/

/-- `st.mc`: a store whose echoes go out under a carillon tree. -/
def doStMc (a b n : Nat) (ret : Nat) (s : State) : Act :=
  let p := (s.sreg (a + 1)).toNat
  if 16 ≤ p then .trap 1 0 0
  else doStore .mc ret (some (n, p)) [⟨0, (s.sreg a).toNat, 8⟩] (fun _ => (s.sreg b).toNat) s

/-- A prefetch goes where a load would go, past refusals to the holder that serves it; one that would have to wait there is
dropped, as one without a route is (R170, R248; log entry 55). -/
def State.fetchServed (s : State) (w : Want) : Nat → List Nat → Option (State × List Byte × Nat × Option (Nat × Nat))
  | 0, _ => none
  | n + 1, gone =>
    match s.fetchLine w gone with
    | .data u bs stamp lease => some (u, bs, stamp, lease)
    | .refused (some h) => s.fetchServed w n (h :: gone)
    | .refused none => s.fetchServed { w with prim := true } n gone
    | _ => none

/-- A prefetch into the memory-side cache of the stack that a load would choose (R248, 01 R16); host memory and another
package's home have none here. -/
def State.fillMsc (s : State) (w : Want) : State :=
  match s.server w 16 [] with
  | none => s
  | some (h, prim) =>
    if s.worldOk h w.fa w.world && (s.ctlOf h).any (fun n => decide (n < 12)) && !(prim && s.lineWaits h w.fa) then
      s.ctlRead h w.fa w.ctx w.cls
    else s

/-- `pf`: fills the line at a level as a load would, counted nowhere; any fault, protection failure or missing route drops it
silently (R248). -/
def doPf (a lvl cls : Nat) (s : State) : Act :=
  if !s.split.acq.isEmpty then .waiting .acq
  else match s.myCtx with
    | none => .ok s
    | some c =>
      let gva := (s.sreg a).toNat
      let core := s.cur.place.core
      match s.translate c core gva .read s.cur.trap.pl with
      | (.ok x, t) =>
        let w : Want := ⟨core, c.num, c.vdid, c.world, gva, x.fa, t.cur.acc.rfloor.toNat, cls, false, false, false, none⟩
        .ok (if lvl = 2 then t.fillMsc w else match t.fetchServed w 16 [] with
          | some (u, bs, stamp, lease) =>
            if lvl = 0 then u.fillL1 core c gva x.fa cls false bs stamp lease (u.tagOf x.fa) else u
          | none => t)
      | (_, t) => .ok t


/-- SLD: Scalar load from a GVA. (R233) -/
def execSld (z : BitVec 3) (d : BitVec 7) (b : BitVec 6) (o : BitVec 8) (r : BitVec 2) (s : State) : Out State :=
  issue (.sld z d b o r) s (fun t =>
    doLoad (.scalar d.toNat (loadSigned z.toNat)) false (t.retOf r) (t.elemS b o (loadSize true z.toNat)) t)

/-- SST: Scalar store entering the store buffer. (R233) -/
def execSst (z : BitVec 2) (d : BitVec 7) (b : BitVec 6) (o : BitVec 8) (r : BitVec 2) (s : State) : Out State :=
  issue (.sst z d b o r) s (fun t =>
    doStore .store (t.retOf r) none (t.elemS b o (2 ^ z.toNat)) (fun _ => (t.src d.toNat).toNat) t)

/-- VLD: Vector load of consecutive elements. (R233) -/
def execVld (z : BitVec 3) (d : BitVec 7) (b : BitVec 6) (o : BitVec 8) (r : BitVec 2) (s : State) : Out State :=
  issue (.vld z d b o r) s (fun t =>
    doLoad (.vector d.toNat (loadSigned z.toNat) (z == 5)) false (t.retOf r) (t.elemsV b o (loadSize false z.toNat)) t)

/-- VST: Vector store of consecutive elements. (R233) -/
def execVst (z : BitVec 2) (d : BitVec 7) (b : BitVec 6) (o : BitVec 8) (r : BitVec 2) (s : State) : Out State :=
  issue (.vst z d b o r) s (fun t =>
    doStore .store (t.retOf r) none (t.elemsV b o (2 ^ z.toNat)) (fun e => t.vsrc d.toNat e.size e.lane) t)

/-- VLDG: Gather load by per-lane index. (R233) -/
def execVldg (z : BitVec 3) (d : BitVec 7) (b : BitVec 6) (i : BitVec 7) (c : BitVec 2) (s : State) : Out State :=
  issue (.vldg z d b i c) s (fun t =>
    doLoad (.vector d.toNat (loadSigned z.toNat) (z == 5)) false (t.retOf 1)
      (t.elemsI b i c (loadSize false z.toNat)) t)

/-- VSTS: Scatter store by per-lane index. (R233) -/
def execVsts (z : BitVec 2) (d : BitVec 7) (b : BitVec 6) (i : BitVec 7) (c : BitVec 2) (s : State) : Out State :=
  issue (.vsts z d b i c) s (fun t =>
    doStore .store (t.retOf 1) none (t.elemsI b i c (2 ^ z.toNat)) (fun e => t.vsrc d.toNat e.size e.lane) t)

/-- SPLD: Scratchpad load that sets a completion flag. (R235) -/
def execSpld (z : BitVec 3) (d : BitVec 7) (b : BitVec 6) (o : BitVec 6) (f : BitVec 4) (s : State) : Out State :=
  issue (.spld z d b o f) s (fun t =>
    doSpld z.toNat d.toNat f.toNat ((lanesOf t.exec).map (fun l =>
      ⟨l, ((t.sreg b.toNat + (o.signExtend 64) * BitVec.ofNat 64 (loadSize false z.toNat)) +
        BitVec.ofNat 64 (l.val * loadSize false z.toNat)).toNat, loadSize false z.toNat⟩)) t)

/-- SPST: Scratchpad store performed in its issue cycle. (R235) -/
def execSpst (z : BitVec 2) (d : BitVec 7) (b : BitVec 6) (o : BitVec 8) (s : State) : Out State :=
  issue (.spst z d b o) s (fun t =>
    doSpst (t.elemsV b o (2 ^ z.toNat)) (fun e => t.vsrc d.toNat e.size e.lane) t)

/-- CLD: Scalar constant load through L1. (R236) -/
def execCld (z : BitVec 1) (d : BitVec 7) (b : BitVec 6) (o : BitVec 8) (r : BitVec 2) (s : State) : Out State :=
  issue (.cld z d b o r) s (fun t =>
    doLoad (.scalar d.toNat false) true (t.retOf r) (t.elemS b o (4 * 2 ^ z.toNat)) t)

/-- ATOM_SCALAR: Atomic with a scalar operand, executed at the line's serialisation point. (R242) -/
def execAtomScalar (p : BitVec 6) (d : BitVec 6) (a : BitVec 6) (b : BitVec 6) (z : BitVec 2)
    (s : State) : Out State :=
  issue (.atomScalar p d a b z) s (fun t => doAtomS p.toNat z.toNat d.toNat a.toNat b.toNat (t.retOf 1) t)

/-- ATOM_VECTOR: One atomic per lane of exec, optionally returning old values. (R242) -/
def execAtomVector (p : BitVec 6) (a : BitVec 7) (b : BitVec 7) (z : BitVec 2) (r : BitVec 1)
    (s : State) : Out State :=
  issue (.atomVector p a b z r) s (fun t =>
    doAtomV p.toNat z.toNat b.toNat (r == 1) (t.retOf 1) (t.elemsP a (atomBytes z.toNat)) t)

/-- FENCE_REL: Waits for earlier writes and then for the WCT pace condition. (R239) -/
def execFenceRel (bs : BitVec 4) (s : State) : Out State :=
  issue (.fenceRel bs) s (doFence false true bs.toNat)

/-- FENCE_AR: Combines the acquire and release fence conditions. (R239) -/
def execFenceAr (bs : BitVec 4) (s : State) : Out State :=
  issue (.fenceAr bs) s (doFence true true bs.toNat)

/-- FENCE_ACQ at scope 0: Waits until earlier loads and atomics complete. (R239) -/
def execFenceAcq0 (s : State) : Out State :=
  issue .fenceAcq0 s (doFence true false 0)

/-- FENCE_ACQ at scope 1: Waits until earlier loads and atomics complete. (R239) -/
def execFenceAcq1 (s : State) : Out State :=
  issue .fenceAcq1 s (doFence true false 1)

/-- FENCE_ACQ at scope 2: Waits until earlier loads and atomics complete. (R239) -/
def execFenceAcq2 (s : State) : Out State :=
  issue .fenceAcq2 s (doFence true false 2)

/-- FENCE_ACQ at scope 3: Waits until earlier loads and atomics complete. (R239) -/
def execFenceAcq3 (s : State) : Out State :=
  issue .fenceAcq3 s (doFence true false 3)

/-- FENCE_ACQ at scope 4: Waits until earlier loads and atomics complete. (R239) -/
def execFenceAcq4 (s : State) : Out State :=
  issue .fenceAcq4 s (doFence true false 4)

/-- FENCE_ACQ at scope 5: Waits until earlier loads and atomics complete. (R239) -/
def execFenceAcq5 (s : State) : Out State :=
  issue .fenceAcq5 s (doFence true false 5)

/-- FENCE_ACQ at scope 6: Waits until earlier loads and atomics complete. (R239) -/
def execFenceAcq6 (s : State) : Out State :=
  issue .fenceAcq6 s (doFence true false 6)

/-- FENCE_ACQ at scope 7: Waits until earlier loads and atomics complete. (R239) -/
def execFenceAcq7 (s : State) : Out State :=
  issue .fenceAcq7 s (doFence true false 7)

/-- FENCE_ACQ at scope 8: Waits until earlier loads and atomics complete. (R239) -/
def execFenceAcq8 (s : State) : Out State :=
  issue .fenceAcq8 s (doFence true false 8)

/-- FENCE_ACQ at scope 9: Waits until earlier loads and atomics complete. (R239) -/
def execFenceAcq9 (s : State) : Out State :=
  issue .fenceAcq9 s (doFence true false 9)

/-- FENCE_ACQ at scope 10: Waits until earlier loads and atomics complete. (R239) -/
def execFenceAcq10 (s : State) : Out State :=
  issue .fenceAcq10 s (doFence true false 10)

/-- FENCE_ACQ at scope 11: Waits until earlier loads and atomics complete. (R239) -/
def execFenceAcq11 (s : State) : Out State :=
  issue .fenceAcq11 s (doFence true false 11)

/-- FENCE_ACQ at scope 12: Waits until earlier loads and atomics complete. (R239) -/
def execFenceAcq12 (s : State) : Out State :=
  issue .fenceAcq12 s (doFence true false 12)

/-- FENCE_ACQ at scope 13: Waits until earlier loads and atomics complete. (R239) -/
def execFenceAcq13 (s : State) : Out State :=
  issue .fenceAcq13 s (doFence true false 13)

/-- FENCE_ACQ at scope 14: Waits until earlier loads and atomics complete. (R239) -/
def execFenceAcq14 (s : State) : Out State :=
  issue .fenceAcq14 s (doFence true false 14)

/-- FENCE_ACQ at scope 15: Waits until earlier loads and atomics complete. (R239) -/
def execFenceAcq15 (s : State) : Out State :=
  issue .fenceAcq15 s (doFence true false 15)

/-- ST_MC: 64-bit store whose echoes travel as one multicast packet. (R247) -/
def execStMc (a : BitVec 6) (b : BitVec 6) (n : BitVec 8) (s : State) : Out State :=
  issue (.stMc a b n) s (fun t => doStMc a.toNat b.toNat n.toNat (t.retOf 1) t)

/-- PF: Prefetch into L1, L2 or the memory-side cache. (R248) -/
def execPf (a : BitVec 6) (l : BitVec 2) (r : BitVec 2) (s : State) : Out State :=
  issue (.pf a l r) s (fun t => doPf a.toNat l.toNat r.toNat t)

end Sys2Proof.Machine
end

