-- ==== Sys2Proof/Machine/Routes.lean ====
section
/-! DEFINITION. Routers, relays and holder states, and the route instructions (spec 10 R156-R177). -/

namespace Sys2Proof.Machine

/-! ## Topology and costs (R156, R159, 01 R11, R17) -/

/-- The name of what lies beyond a port: its peer, and by it the rest of the fabric (R159, 21 R372). -/
def beyond (port : Nat) : Nat := 2 ^ 24 + port

/-- The local indices of the routers that neighbour a router of this package; a port router also has its peer beyond the port. -/
def neighbours (i : Nat) : List Nat :=
  if i < 4 then
    (List.range 3).map (fun k => 16 + 3 * i + k) ++ (List.range 4).filter (fun d => d != i) ++
      (List.range 4).map (fun k => 32 + 4 * i + k)
  else if 16 ≤ i ∧ i < 28 then [(i - 16) / 3]
  else if 32 ≤ i ∧ i < 48 then [(i - 32) / 4]
  else []

/-- The cost of the link between two routers of this package (R159). -/
def State.linkCost (s : State) (i j : Nat) : Nat :=
  let c := s.pkg.rteCost.toNat
  if 2 ^ 24 ≤ j then bitsOf c 31 24
  else if 16 ≤ i ∧ i < 28 ∨ 16 ≤ j ∧ j < 28 then bitsOf c 7 0
  else if 32 ≤ i ∨ 32 ≤ j then bitsOf c 15 8
  else bitsOf c 23 16

/-- The neighbours to which a router of this package sends a relay on: all but the one it came from; a port router's peer
where the port has a link that is up (R159). -/
def State.onward (s : State) (i via : Nat) : List Nat :=
  (neighbours i).filter (fun j => s.localId j != via) ++
    (if 32 ≤ i ∧ i < 48 ∧ via / 256 = s.pkgNum ∧ s.links.any (fun l => l.port == i - 32 && l.up) = true then [beyond (i - 32)] else [])

/-- A relay leaves a router of this package for its neighbours but the one it came from (R159); its flights keep the number
`n` that it has had from its origin. -/
def State.passRelay (s : State) (router : Nat) (m : RelayMsg) (n : Nat) : State :=
  let i := router % 256
  (s.onward i m.via).foldl (fun (s : State) (j : Nat) =>
    let cost := m.cost + s.linkCost i j
    if 65535 ≤ cost then s
    else
      let dst := if 2 ^ 24 ≤ j then j else s.localId j
      let s := { s with relays := s.relays ++ [⟨n, dst, { m with path := m.path ++ [router], cost := cost, via := router }⟩] }
      if 2 ^ 24 ≤ j then s.sendPacket (j - 2 ^ 24) chanRelay else s) s

/-- A relay whose cost is too high to be forwarded anywhere: the router rejects it (R159; log entry 45). -/
def State.tooFar (s : State) (router : Nat) (m : RelayMsg) : Bool :=
  let out := s.onward (router % 256) m.via
  decide (65535 ≤ m.cost) || (!out.isEmpty && out.all (fun j => decide (65535 ≤ m.cost + s.linkCost (router % 256) j)))

/-- A relay starts at a router. -/
def State.sendRelay (s : State) (router : Nat) (m : RelayMsg) : State :=
  let (n, s) := s.fresh
  s.passRelay router m n

/-- The entry of exactly a prefix at a router. -/
def State.exactEntry (s : State) (router : Nat) (p : Prefix) : Option RtEntry :=
  s.routes.find? (fun e => e.router == router && e.pre == p)

/-- A primary keeps the last renewal of each replica that its router lists, or that it has taken over with the baton; a new replica's
first renewal is the first one issued after its role has become REPLICA there (R166). One that is no longer listed is renewed no more,
and its last lease still counts (R165, R167). -/
def State.trackReplicas (s : State) (router : Nat) (pre : Prefix) : State :=
  match s.holders.find? (fun h => h.pre == pre && h.holder == router && h.st == HState.primary) with
  | none => s
  | some p =>
    let reps := (((s.exactEntry router pre).map RtEntry.holders).getD []).filter
      (fun h => h.role == Role.replica && h.holder != router)
    let mine := fun (r : Renewed) => r.live && r.pre == pre && r.prim == router
    let old := s.renewed.map (fun (r : Renewed) => if mine r then
        { r with live := reps.any (fun h => h.holder == r.holder) || p.extra.contains r.holder }
      else r)
    let fresh := reps.filter (fun h => !old.any (fun r => mine r && r.holder == h.holder))
    { s with renewed := old ++ fresh.map (fun h => ⟨pre, router, h.holder, s.pace / 1000 * 1000, false, 1000 * h.lease, true⟩) }

/-- Replaces the entry of a prefix at a router; an entry with no holder is freed (R160). -/
def State.setEntry (s : State) (e : RtEntry) : State :=
  let rest := s.routes.filter (fun (x : RtEntry) => !(x.router == e.router && x.pre == e.pre))
  State.trackReplicas
    (if e.holders.isEmpty then { s with routes := rest } else { s with routes := ⟨e.router, e.pre, e.holders, s.pace⟩ :: rest })
    e.router e.pre

/-- Places of a router's entry that a DRAINING holder keeps until it is ABSENT (R172). -/
def State.drainPlaces (s : State) (router : Nat) (pre : Prefix) : Nat :=
  if s.holders.any (fun h => h.pre == pre && h.holder == router && h.st == HState.draining) &&
    !(((s.exactEntry router pre).map RtEntry.holders).getD []).any (fun h => h.holder == router) then 1 else 0

/-- A router has room for an entry of a new prefix (R160); the entry of a DRAINING holder is still there (R172). -/
def State.entryFree (s : State) (router : Nat) : Bool :=
  let lone := s.holders.filter (fun h => h.holder == router && h.st == HState.draining && (s.exactEntry router h.pre).isNone)
  decide ((s.routes.filter (fun e => e.router == router)).length + lone.length < 16384)

/-- What a router does with a relay. -/
inductive RelayAct
  /-- Installed: the new entry, and the holder refused for it, if any. -/
  | install (e : RtEntry) (refused : Option Nat)
  /-- Refused, for want of room or as a second PRIMARY. -/
  | refuse (holder : Nat) (second : Bool)
  | nothing
  deriving DecidableEq, Repr

/-- A relay that changes roles only, as the two relays of a baton handover do: they carry no lease, and the one for the new
primary starts at another holder's origin router (R156, R173). -/
def roleOnly (m : RelayMsg) : Bool := m.path.head? != some m.holder || m.lease == 0

/-- The rules of R160 for one relay at one router. -/
def State.judgeRelay (s : State) (router : Nat) (m : RelayMsg) : RelayAct :=
  match s.exactEntry router m.pre with
  | none =>
    if m.wd then .nothing
    else if roleOnly m then .nothing
    else if s.entryFree router then .install ⟨router, m.pre, [⟨m.holder, m.role, m.lease, m.cap, m.cost, m.path⟩], 0⟩ none
    else .refuse m.holder false
  | some e =>
    if m.wd then
      if e.holders.any (fun h => h.holder == m.holder) then
        .install { e with holders := e.holders.filter (fun h => h.holder != m.holder) } none
      else .nothing
    else
      let rival := e.holders.find? (fun h => h.role == Role.primary && h.holder != m.holder && m.role == Role.primary)
      let low := match rival with | some r => decide (r.holder < m.holder) | none => false
      if low then .refuse m.holder true
      else
        let e' := match rival with
          | some r => { e with holders := e.holders.filter (fun h => h.holder != r.holder) }
          | none => e
        let out := rival.map RtHolder.holder
        match e'.holders.find? (fun h => h.holder == m.holder) with
        | some h =>
          let better := !roleOnly m && (decide (m.cost < h.cost) || h.path.getLast? == m.path.getLast?)
          let h' : RtHolder := if roleOnly m then { h with role := m.role }
            else ⟨h.holder, m.role, m.lease, m.cap, if better then m.cost else h.cost, if better then m.path else h.path⟩
          if h' = h ∧ rival.isNone then .nothing
          else .install { e' with holders := e'.holders.map (fun x => if x.holder == m.holder then h' else x) } out
        | none =>
          if roleOnly m then .nothing
          else if e'.holders.length + s.drainPlaces router m.pre < 4 then
            .install { e' with holders := e'.holders ++ [⟨m.holder, m.role, m.lease, m.cap, m.cost, m.path⟩] } out
          else .refuse m.holder false

/-- A holder is withdrawn at its origin router: DRAINING at once, and the relay; its place in the entry is free when it is
ABSENT (R172). -/
def State.withdraw (s : State) (pre : Prefix) (holder : Nat) : State :=
  let s := s.drainHolder pre holder
  let s := { s with refused := s.refused.filter (fun x => !(x.1 == pre && x.2.1 == holder)) }
  let s := match s.exactEntry holder pre with
    | some e => s.setEntry { e with holders := e.holders.filter (fun x => x.holder != holder) }
    | none => s
  s.sendRelay holder ⟨pre, holder, .primary, 0, 0, 0, [], true, holder⟩

/-- A refusal reaches the origin, which records it for `rte.sync`; the origin of a refused second PRIMARY withdraws it, and the
writes applied there are discarded with it (R160, R165, R171, 15 R253). -/
def State.relayRefused (s : State) (pre : Prefix) (holder n : Nat) (second : Bool) : State :=
  if holder / 256 ≠ s.pkgNum then s
  else match s.holders.find? (fun h => h.pre == pre && h.holder == holder) with
    | none => s
    | some h =>
      if second ∧ h.st = .primary then
        let s := { s with writes := s.writes.map (fun (w : WriteReq) =>
          if w.prim == holder && prefixCovers pre w.addr && (w.phase == WPhase.invalidating || w.phase == WPhase.applied) then
            { w with phase := .answered, notice := true, err := some 13 }
          else w) }
        s.withdraw pre holder
      else if h.st = .draining ∨ s.refused.contains (pre, holder, n) then s
      else { s with refused := s.refused ++ [(pre, holder, n)] }

/-- A die router has lost its path to a holder of another package: requests of its cores that await that holder end with
ROUTE_NONE (R171, 21 R375). -/
def State.cutOff (s : State) (router holder : Nat) (pre : Prefix) : State :=
  if router % 256 < 4 ∧ holder / 256 ≠ s.pkgNum then
    { s with writes := s.writes.map (fun (w : WriteReq) =>
      if w.prim == holder && decide (dieOf w.core = router % 256) && prefixCovers pre w.addr && w.phase != .answered then
        { w with phase := .answered, notice := true, err := some 13 }
      else w) }
  else s

/-- A withdrawal on a holder's behalf has reached its origin router: it stops serving, and its refused relays are withdrawn with it (R165,
R172, R176). Of a holder of another package, what is known here follows at any router. -/
def State.withdrawnHere (s : State) (router : Nat) (pre : Prefix) (holder : Nat) : State :=
  let s := s.modHolder pre holder (fun h => { h with settle := s.pace })
  if (router = holder ∨ holder / 256 ≠ s.pkgNum) ∧
      s.holders.any (fun h => h.pre == pre && h.holder == holder && h.st != HState.draining) = true then
    { s with refused := s.refused.filter (fun x => !(x.1 == pre && x.2.1 == holder)) }.drainHolder pre holder
  else s

/-- A primary whose router learns that a holder is withdrawn echoes to it no more; the writes that wait for one that the fabric has cut
off count its last lease at once (R165, 21 R375). -/
def State.dropMember (s : State) (router : Nat) (pre : Prefix) (holder : Nat) : State :=
  let s := s.modHolder pre router (fun h => { h with extra := h.extra.filter (fun x => x != holder) })
  if holder / 256 = s.pkgNum then s
  else
    (s.writes.filter (fun w => w.prim == router && w.phase == WPhase.applied && prefixCovers pre w.addr &&
      w.echo.any (fun e => e.1 == holder && e.2.isNone))).foldl (fun (s : State) (w : WriteReq) => (s.revoke w holder).stampWct w.id) s

/-- What this package knows of another package's holder from its relays (log entry 45): one that is FILLING marks echoed bytes, and one
that has given its baton away forwards writes (R172, R173). -/
def State.learnFar (s : State) (m : RelayMsg) : State :=
  let without := fun (h : Nat) => s.holders.filter (fun (x : HolderSt) => !(x.pre == m.pre && x.holder == h))
  let origin := (m.path.head?).getD m.holder
  if m.wd ∨ s.pkgNum = m.holder / 256 then s
  else if roleOnly m then
    (if m.role = .primary ∧ origin ≠ m.holder ∧ origin / 256 ≠ s.pkgNum then
      let s := { s with holders := without m.holder }
      { s with holders := ⟨m.pre, origin, .replica, 0, 255, [], s.pace, 0, some m.holder, 0, [], []⟩ ::
        s.holders.filter (fun (x : HolderSt) => !(x.pre == m.pre && x.holder == origin)) }
    else s)
  else if m.role = .filling then
    (if s.holders.any (fun x => x.pre == m.pre && x.holder == m.holder) then s
    else { s with holders := s.holders ++ [⟨m.pre, m.holder, .filling, m.lease, m.cap, [], 0, 0, none, 0, [], []⟩] })
  else { s with holders := without m.holder }

/-- What a router does with a relay that it does not reject, whose number is `n`. -/
def State.takeRelay (s : State) (router : Nat) (relay : RelayMsg) (n : Nat) : State :=
  match s.judgeRelay router relay with
  | .nothing => if relay.wd then s.dropMember router relay.pre relay.holder else s
  | .refuse h second => s.relayRefused relay.pre h n second
  | .install e out =>
    let s := ((s.setEntry e).passRelay router relay n).learnFar relay
    let s := if relay.wd then
        ((s.cutOff router relay.holder relay.pre).dropMember router relay.pre relay.holder).withdrawnHere router relay.pre relay.holder
      else s
    match out with
    | some h => s.relayRefused relay.pre h n true
    | none => s

/-- RELAY_RECEIVE: a router installs or rejects a relay and forwards it. The relays of one link arrive in the order sent (21 R372). One
that goes beyond a port has been taken by every router there; one that comes from outside is new here. (R160) -/
def execRelayReceive (router : Nat) (relay : RelayMsg) (s : State) : Out State :=
  .next (match s.relays.find? (fun f => f.dst == router && f.msg.via == relay.via) with
    | some f =>
      if f.msg ≠ relay then s
      else
        let s := { s with relays := s.relays.erase f }
        if 2 ^ 24 ≤ router ∨ relay.path.contains router = true ∨ 16 ≤ relay.path.length ∨ s.tooFar router relay = true then s
        else s.takeRelay router relay f.id
    | none =>
      let (n, s) := s.fresh
      if relay.path.contains router ∨ 16 ≤ relay.path.length ∨ s.tooFar router relay = true then s
      else s.takeRelay router relay n)

/-- RELAY_REFUSAL: a refusal from outside the package reaches the origin, which records it for rte.sync. (R160) -/
def execRelayRefusal (pre : Prefix) (holder : Nat) (relay : RefusalMsg) (s : State) : Out State :=
  .next (s.relayRefused pre holder relay.relay relay.second)

/-- A port that is down: its router withdraws, on their behalf, the holders whose path ran through it (R374);
relays on their way beyond it count as arrived (R176), and both its sequences begin anew when it comes up again (log entry 36). -/
def State.portDown (s : State) (port : Nat) : State :=
  let router := s.localId (32 + port)
  let s := { s with
    relays := s.relays.filter (fun f => f.dst != beyond port), mcast := s.mcast.filter (fun m => m.port != beyond port),
    txq := s.txq.filter (fun (t : PortTx) => t.port != port), ports := s.ports.filter (fun (t : PortRx) => t.port != port) }
  let mine := s.routes.filter (fun e => e.router == router)
  mine.foldl (fun (s : State) e =>
    let gone := e.holders.filter (fun h => match h.path.getLast? with | some p => p / 256 != s.pkgNum | none => false)
    gone.foldl (fun (s : State) h =>
      let s := match s.exactEntry router e.pre with
        | some x => s.setEntry { x with holders := x.holders.filter (fun y => y.holder != h.holder) }
        | none => s
      s.sendRelay router ⟨e.pre, h.holder, .primary, 0, 0, 0, [], true, router⟩) s) s

/-! ## Holder states at an origin router (R172-R174) -/

/-- The fields of a relay descriptor (R174). -/
structure RDesc where
  holder : Nat
  lease  : Nat
  role   : Nat
  cap    : BitVec 8
  len    : Nat

def rdesc (d : Nat) : RDesc := ⟨bitsOf d 47 24, bitsOf d 23 16, bitsOf d 15 14, BitVec.ofNat 8 (bitsOf d 13 6), bitsOf d 5 0⟩

def roleOf : Nat → Role
  | 0 => .primary
  | 1 => .filling
  | _ => .replica

/-- An origin router changes its own entry and sends the relay. -/
def State.announce (s : State) (pre : Prefix) (h : RtHolder) : State :=
  let e := (s.exactEntry h.holder pre).getD ⟨h.holder, pre, [], 0⟩
  let s := s.setEntry { e with holders := e.holders.filter (fun x => x.holder != h.holder) ++ [h] }
  s.sendRelay h.holder ⟨pre, h.holder, h.role, h.lease, h.cap, 0, [], false, h.holder⟩

/-- The record of a holder for exactly a prefix: any state but ABSENT (R172). -/
def State.record (s : State) (pre : Prefix) (holder : Nat) : Option HolderSt :=
  s.holders.find? (fun h => h.pre == pre && h.holder == holder)

/-- The baton handover at the old primary's origin router, in one step: both changes go out on every link, the old
primary's first; the lines that the old primary's L2 has written are written back before; page records, the records of renewals and of
leased lines, and writes follow the new primary, whose echo set is the old one with the old primary in its own place (R173, 13 R220,
R221, R223). Where the old primary is another package's, its two relays arrive at the router by which its announcement came in, and
this package remembers that it forwards. -/
def State.baton (s : State) (pre : Prefix) (old new : Nat) : State :=
  let way := ((s.exactEntry new pre).bind (fun e => (e.holders.find? (fun h => h.holder == old)).map RtHolder.path)).getD []
  let change := fun (s : State) (holder : Nat) (role : Role) =>
    let s := match s.exactEntry old pre with
      | some e => s.setEntry { e with holders := e.holders.map (fun (h : RtHolder) => if h.holder == holder then { h with role := role } else h) }
      | none => s
    if old / 256 = s.pkgNum then s.sendRelay old ⟨pre, holder, role, 0, 0, 0, [], false, old⟩
    else
      let out := way.takeWhile (fun r => r / 256 != s.pkgNum)
      match way.find? (fun r => r / 256 == s.pkgNum) with
      | none => s
      | some r =>
        let (n, s) := s.fresh
        { s with relays := s.relays ++ [⟨n, r, ⟨pre, holder, role, 0, 0, 0, out, false, (out.getLast?).getD old⟩⟩] }
  let now := s.pace
  let mine := fun (holder a : Nat) => holder == old && prefixCovers pre a
  let listed := fun (router : Nat) => (((s.exactEntry (s.primRouter router) pre).map RtEntry.holders).getD []).map RtHolder.holder
  let members := old :: listed old ++ ((s.record pre old).map HolderSt.extra).getD []
  let extra := (members.filter (fun h => h != new && !(listed new).contains h)).eraseDups
  let s := s.writeBackAll (fun t => mine t.holder t.line)
  let s := if old / 256 = s.pkgNum then
      s.modHolder pre old (fun h => { h with st := .replica, next := some new, through := now, leaseEnd := 0, extra := [] })
    else { s with holders := ⟨pre, old, .replica, 0, s.capOf old pre.base, [], now, 0, some new, 0, [], []⟩ ::
      s.holders.filter (fun (x : HolderSt) => !(x.pre == pre && x.holder == old)) }
  let s := if new / 256 = s.pkgNum then
      s.modHolder pre new (fun h => { h with st := .primary, next := none, echoed := [], extra := extra })
    else { s with holders := s.holders.filter (fun (x : HolderSt) => !(x.pre == pre && x.holder == new)) }
  let theirs := fun (r : Renewed) => r.live && r.pre == pre && r.prim == old
  let s := { s with
    renewed := s.renewed.map (fun (r : Renewed) => if theirs r then { r with live := false } else r) ++
      (if new / 256 = s.pkgNum then (s.renewed.filter (fun r => theirs r && r.holder != new)).map (fun (r : Renewed) => { r with prim := new })
      else [])
    sharers := s.sharers ++ (s.sharers.filter (fun (x : Sharer) => mine x.prim x.line)).map (fun (x : Sharer) => { x with prim := new }) }
  let s := s.trackReplicas new pre
  change (change s old .replica) new .primary

/-- The checks of R174 that the three instructions share; a status, or none. -/
def State.rteCommon (s : State) (role : Bool) (addr desc : Nat) : Option Nat :=
  let r := rdesc desc
  if desc / 2 ^ 48 ≠ 0 ∨ r.len < 8 ∨ 52 < r.len ∨ (role ∧ r.role = 3) ∨ addr % 2 ^ (64 - r.len) ≠ 0 then some 1
  else if r.holder / 256 ≠ s.pkgNum ∨ ¬(r.holder % 256 = 0 ∨ (16 ≤ r.holder % 256 ∧ r.holder % 256 ≤ 27)) then some 2
  else none

/-- `rte.ann` (R174). -/
def State.rteAnn (s : State) (addr desc : Nat) : Nat × State :=
  let r := rdesc desc
  let pre : Prefix := ⟨addr, r.len⟩
  let e := s.exactEntry r.holder pre
  let prim := match e with | some e => e.holders.any (fun h => h.role == Role.primary) | none => false
  match s.rteCommon true addr desc with
  | some x => (x, s)
  | none =>
    if r.lease < 5 then (1, s)
    else if r.role = 2 then (6, s)
    else if (s.record pre r.holder).isSome then (4, s)
    else if r.role = 0 ∧ prim = true then (7, s)
    else if r.role = 1 ∧ prim = false then (8, s)
    else if (match e with | some e => decide (4 ≤ e.holders.length + s.drainPlaces r.holder pre) | none => !s.entryFree r.holder) then (3, s)
    else
      let st := if r.role = 0 then HState.primary else HState.filling
      let h : HolderSt := ⟨pre, r.holder, st, r.lease, r.cap, [], 0, 0, none, 0, [], []⟩
      let s := { s with holders := s.holders ++ [h] }
      (0, s.announce pre ⟨r.holder, roleOf r.role, r.lease, r.cap, 0, [r.holder]⟩)

/-- `rte.wd` (R174). -/
def State.rteWd (s : State) (addr desc : Nat) : Nat × State :=
  let r := rdesc desc
  let pre : Prefix := ⟨addr, r.len⟩
  match s.rteCommon false addr desc with
  | some x => (x, s)
  | none =>
    match s.record pre r.holder with
    | none => (5, s)
    | some h => if h.st = .draining then (5, s) else (0, s.withdraw pre r.holder)

/-- `rte.role` (R174). -/
def State.rteRole (s : State) (addr desc : Nat) : Nat × State :=
  let r := rdesc desc
  let pre : Prefix := ⟨addr, r.len⟩
  match s.rteCommon true addr desc with
  | some x => (x, s)
  | none =>
    match s.record pre r.holder with
    | none => (5, s)
    | some h =>
      if h.st = .draining then (5, s)
      else if r.role = 2 ∧ h.st = .filling then
        let s := s.modHolder pre r.holder (fun h => { h with st := .replica })
        (0, s.announce pre ⟨r.holder, .replica, h.lease, h.cap, 0, [r.holder]⟩)
      else if r.role = 0 ∧ (h.st = .filling ∨ h.st = .replica) then
        match (s.exactEntry r.holder pre).bind (fun e => e.holders.find? (fun x => x.role == Role.primary)) with
        | some p => (0, s.baton pre (s.heir pre.base 16 p.holder).2 r.holder)
        | none =>
          let s := (s.modHolder pre r.holder (fun h => { h with st := .primary, next := none })).trackReplicas r.holder pre
          (0, s.announce pre ⟨r.holder, .primary, h.lease, h.cap, 0, [r.holder]⟩)
      else (6, s)

/-- The origin router of another package's holder asks for the baton of the prefix, whose primary is here and lists it (R173). -/
def State.giveBaton (s : State) (addr desc : Nat) : State :=
  let r := rdesc desc
  let pre : Prefix := ⟨addr, r.len⟩
  match s.holders.find? (fun h => h.pre == pre && h.st == HState.primary && h.holder / 256 == s.pkgNum) with
  | none => s
  | some o =>
    if r.holder / 256 ≠ s.pkgNum ∧ (s.exactEntry o.holder pre).any (fun e => e.holders.any (fun h => h.holder == r.holder)) = true then
      s.baton pre o.holder r.holder
    else s

/-- The three route operations by number: 2 `rte.ann`, 3 `rte.wd`, 4 `rte.role`. -/
def State.rteDo (s : State) (op addr desc : Nat) : Nat × State :=
  match op with
  | 2 => s.rteAnn addr desc
  | 3 => s.rteWd addr desc
  | _ => s.rteRole addr desc

/-- ROUTER_ANSWER: the origin router answers an rte instruction with a status. (R174) -/
def execRouterAnswer (uid : Nat) (split : Fin 4) (s : State) : Out State :=
  .next (match ((s.group? uid).map (fun g => (g.ctl.split split).wait) : Option Wait) with
    | some (.answer .rte d x y) =>
      let r := s.rteDo (y / 2 ^ 64) x (y % 2 ^ 64)
      r.2.answer uid split d (BitVec.ofNat 64 r.1)
    | _ => s)

/-- RTE_SYNC_DONE: all relays sent before the rte.sync have reached every router in scope, those of the package or of the fabric, or been
refused there; rte.sync writes its status. (R176) -/
def execRteSyncDone (uid : Nat) (split : Fin 4) (s : State) : Out State :=
  .next (match ((s.group? uid).map (fun g => (g.ctl.split split).wait) : Option Wait) with
    | some (.answer .sync d before scope) =>
      if s.relays.any (fun f => decide (f.id < before) && (decide (scope ≠ 3) || decide (f.dst < 2 ^ 24)) && (match f.msg.path.head? with
          | some o => decide (o / 256 = s.pkgNum) && decide (o % 256 < 32)
          | none => false)) then s
      else s.answer uid split d (if s.refused.any (fun x => decide (x.2.2 < before)) then 9 else 0)
    | _ => s)

/-- HOLDER_ABSENT: a DRAINING holder becomes ABSENT once its withdrawal has settled. (R172, R161) -/
def execHolderAbsent (pre : Prefix) (holder : Nat) (s : State) : Out State :=
  let busy := s.routes.any (fun e => e.pre == pre && (e.holders.any (fun h => h.holder == holder) ||
      decide (s.pace < e.changed + 32000))) ||
    s.relays.any (fun f => f.msg.pre == pre && f.msg.holder == holder) ||
    s.writes.any (fun w => w.prim == holder && prefixCovers pre w.addr && (w.phase == .invalidating || w.phase == .applied))
  .next (match s.record pre holder with
    | some h => if h.st == .draining && !busy && decide (h.settle + 32000 ≤ s.pace) then
        { s with holders := s.holders.filter (fun (x : HolderSt) => !(x.pre == pre && x.holder == holder)) }
      else s
    | none => s)

/-- A primary revokes a holder of its echo set: the write counts its last lease, the primary's router drops it and sends a
withdrawal on its behalf, and the holder's own origin router withdraws it (R165, R172). -/
def State.revokeFor (s : State) (w : WriteReq) (holder : Nat) : State :=
  let s := s.revoke w holder
  if holder % 256 = 255 then s
  else
  let s := match s.routeEntry w.prim w.addr with
    | some e =>
      (s.setEntry { e with holders := e.holders.filter (fun x => x.holder != holder) }).sendRelay w.prim
        ⟨e.pre, holder, .primary, 0, 0, 0, [], true, w.prim⟩
    | none => s
  match s.holderState holder w.addr with
  | some x => s.withdraw x.pre holder
  | none => s

/-- ECHO_DEADLINE: a holder's acknowledgement misses the 5 µs deadline, or the primary has lost its last path to it (21 R375),
and the holder is revoked. (R165) -/
def execEchoDeadline (n : Nat) (s : State) : Out State :=
  .next (match s.write? n with
    | none => s
    | some w =>
      let cut := fun (h : Nat) => decide (h / 256 ≠ s.pkgNum) && decide (h % 256 ≠ 255) && (match s.routeEntry w.prim w.addr with
        | some e => e.holders.all (fun x => x.holder != h)
        | none => true)
      let late := ((w.echo.filter (fun e => e.2.isNone)).map Prod.fst).filter (fun h => decide (w.time + 5000 < s.pace) || cut h)
      if w.phase == .applied && !late.isEmpty then
        (late.foldl (fun (s : State) (h : Nat) => s.revokeFor w h) s).stampWct n
      else s)

/-! ## Instructions -/

/-- `rte.ann`, `rte.wd` and `rte.role` go to the origin router, which answers within 2 µs (R174). -/
def doRte (op d a b : Nat) (s : State) : Act :=
  .hold s (.answer .rte d (s.sreg a).toNat (op * 2 ^ 64 + (s.sreg b).toNat))

/-- `rte.q` (R175). -/
def State.rteQuery (s : State) (mode addr : Nat) : Nat :=
  let r := s.dieRouter s.cur.place.core
  match s.routeEntry r addr with
  | none => 0
  | some e =>
    if mode = 2 then e.holders.length + e.pre.len * 2 ^ 16
    else
      let settled := if e.changed + 32000 ≤ s.pace then 2 else 0
      match (if mode = 0 then s.routeRead r addr [] else s.routeWrite r addr []) with
      | none => e.pre.len * 2 ^ 16 + settled
      | some h =>
        let role := match h.role with | .primary => 0 | .filling => 1 | .replica => 2
        h.holder * 2 ^ 40 + h.cost % 65536 * 2 ^ 24 + role * 2 ^ 22 + e.pre.len * 2 ^ 16 + h.cap.toNat * 256 + settled + 1


/-- RTE_ANN: Announces a holder of a prefix at its origin router. (R174) -/
def execRteAnn (d : BitVec 6) (a : BitVec 6) (b : BitVec 6) (s : State) : Out State :=
  issue (.rteAnn d a b) s (doRte 2 d.toNat a.toNat b.toNat)

/-- RTE_WD: Withdraws a holder of a prefix. (R174) -/
def execRteWd (d : BitVec 6) (a : BitVec 6) (b : BitVec 6) (s : State) : Out State :=
  issue (.rteWd d a b) s (doRte 3 d.toNat a.toNat b.toNat)

/-- RTE_ROLE: Changes a holder's role, including baton handover. (R174) -/
def execRteRole (d : BitVec 6) (a : BitVec 6) (b : BitVec 6) (s : State) : Out State :=
  issue (.rteRole d a b) s (doRte 4 d.toNat a.toNat b.toNat)

/-- RTE_Q: Queries the die router's entry for an address. (R175) -/
def execRteQ (d : BitVec 6) (a : BitVec 6) (m : BitVec 2) (s : State) : Out State :=
  issue (.rteQ d a m) s (fun s =>
    .ok (s.setSreg d.toNat (BitVec.ofNat 64 (s.rteQuery m.toNat (s.sreg a.toNat).toNat))))

/-- RTE_SYNC: Waits until this package's relays have reached every router in scope. (R176) -/
def execRteSync (bs : BitVec 4) (d : BitVec 6) (s : State) : Out State :=
  issue (.rteSync bs d) s (fun t => .hold t (.answer .sync d.toNat t.nextId bs.toNat))

end Sys2Proof.Machine
end

