-- ==== Sys2Proof/Machine/Cobj.lean ====
section
/-! DEFINITION. `red`, `red.close` and the object instructions, and the events of rounds, collections and snoops
(spec 11 R185-R201, 14 R411, 26 R397-R399). -/

namespace Sys2Proof.Machine

/-! ## Records read as loads of the issuing group (14 R411) -/

/-- The elements of a record of `n` lines from an aligned address: one a line. -/
def lineElems (gva n : Nat) : List Elem := (List.range n).map (fun i => ⟨Fin.ofNat 32 i, gva + 64 * i, 64⟩)

/-- An operation of the group issued before the read and not complete keeps it in the core: any other access to one of its lines
(15 R255 holds 1 and 2), and a `red` to one of its objects (R264). -/
def State.readHeld (s : State) (before : Nat) (oks : List (Elem × Nat)) : Bool :=
  let lines := oks.map (fun x => lineBase x.2)
  let objs := oks.filterMap (fun x => (s.objOfFa x.2).map ObjEntry.idx)
  s.cur.acc.ops.any (fun o => decide (o.id < before) &&
    (if o.kind == .load then o.reqs.any (fun r => lines.contains r.line)
     else o.lanes.any (fun a => lines.contains (lineBase a.fa) ||
       (o.kind == .red && (s.objOfFa a.fa).any (fun x => objs.contains x.idx)))))

/-- Reads some elements as loads of the issuing group: faults park it, a read without data traps at the bundle and names the access
that failed, and earlier operations that hold it complete first (R411, 15 R255); the group's floor rises by the stamps. `prim`
makes the read an acquire that only a serialisation point serves (R238); `more` says that translation checks of the instruction
follow, so that no other split issues while it waits (02 R36). -/
def readFrom (prim more : Bool) (s : State) (es : List Elem) (k : State → List Byte → Act) : Act :=
  match s.myCtx with
  | none => .notReady
  | some c =>
    if !s.split.acq.isEmpty then .waiting .acq
    else
      let (rs, t) := s.checkAll c .read [] prim es
      match firstTrap rs with
      | some (cause, addr, _) => if cause = 16 then .ecc (fun s => s.poisonBad addr) addr 0 else .trap cause addr 0
      | none =>
        let misses := rs.filterMap (fun r => match r.2 with | .miss m => some (r.1, m) | _ => none)
        let oks := rs.filterMap (fun r => match r.2 with | .ok fa => some (r.1, fa) | _ => none)
        let busy := (oks.filterMap (fun x => t.objOfFa x.2)).filter t.underMerge
        let stay := fun (u : State) => Act.hold (u.modSplit (fun sp => { sp with bundle := { sp.bundle with
          trans := oks.map (fun x => (x.1.gva, x.2)) } })) (.answer .read 64 s.since more.toNat)
        if !misses.isEmpty then .park (t.parkFaults c .read (misses.map (fun m => (m.1.gva, m.2, 0)))) s.exec
        else if s.readHeld s.since oks then stay t
        else if busy.any t.owesRound then .trap 4 0 0
        else if !busy.isEmpty then stay t
        else
            let ws := oks.map (fun x => ((⟨s.cur.place.core, c.num, c.vdid, c.world, x.1.gva, x.2, s.cur.acc.rfloor.toNat, 1,
              false, prim, true, none⟩ : Want), x.1.size))
            match t.readEach ws with
              | .bad cause fa => if cause = 16 then .ecc (fun s => s.poisonBad fa) fa 0 else .trap cause fa 0
              | .wait u => stay u
              | .got u bs stamp =>
                k (u.modAcc (fun a => { a with rfloor := BitVec.ofNat 64 (max a.rfloor.toNat stamp) })) bs

/-- A read of `n` lines of a record as plain loads; what the instruction has read before it was held, it does not read again. -/
def readLines (more : Bool) (s : State) (gva n : Nat) (k : State → List Byte → Act) : Act :=
  if 64 * n ≤ s.hints.got.length then k s s.hints.got
  else readFrom false more s (lineElems gva n) (fun s bs =>
    k (s.modSplit (fun sp => { sp with bundle := { sp.bundle with got := bs } })) bs)

/-! ## Contributions (R187, R188) -/

/-- The fabric address of the first line that an instruction stopped by OWNER_LOST names (19 R329). -/
def State.faOf (s : State) (gva : Nat) : Nat :=
  match s.myCtx with
  | none => 0
  | some c => (match s.walkBoth c (dieOf s.cur.place.core) gva none 2 with | .ok x => x.fa | _ => 0)

/-- The values of a `red`: one for each element its lanes name, combined over lane positions (R188). -/
def redElems (tag : Nat) (es : List Elem) (val : Lane → BitVec 64) : List (Elem × BitVec 64 × FpFlags) :=
  let firsts := es.filter (fun e => !(es.any (fun x => x.gva == e.gva && decide (x.lane < e.lane))))
  firsts.map (fun e =>
    let vs := allLanes.map (fun l => if es.any (fun x => x.gva == e.gva && x.lane == l) then some (val l) else none)
    let r := tagTree tag 5 vs
    (e, r.1.getD 0, r.2))

/-- A `red` under a tag makes an operator switch: the object is in UPDATE under another, or an earlier `red` of the group is on its
way to bring it there (R191). -/
def State.switches (s : State) (o : ObjEntry) (tag : Nat) : Bool :=
  (o.st == ObjSt.update && o.tag != tag) || s.sb.any (fun e => match e.origin, e.kind with
    | .group u _ _, .fold n _ _ t _ _ => u == s.cur.place.uid && n == o.idx && t != tag
    | _, _ => false)

/-- What a `red` waits for before it is performed: an operator switch (R191), or a round that its leaf has closed (R189). -/
def redStall (obj flat tag : Nat) (s : State) : Option (HeldOp → Wait) :=
  match s.obj? obj with
  | none => none
  | some o =>
    if s.switches o tag then some (.switch obj tag s.nextId)
    else if o.isOpen && o.closed.contains flat then some (.merge obj)
    else none

/-- `red` (R187-R191). -/
def doRed (a : BitVec 7) (b tag : Nat) (s : State) : Act :=
  let vdid := s.myVdid
  let es0 := s.elemsP a 4
  if !s.split.acq.isEmpty then .waiting .acq
  else
  match es0.findSome? (fun e => s.objAt vdid e.gva) with
  | none => if es0.isEmpty then .ok s else .trap 17 0 0
  | some o =>
    let es := es0.map (fun e => { e with size := o.esize })
    let flat := s.cur.place.flat
    let wide := decide (o.esize = 8)
    let bad := es.any (fun e => !(s.objAt vdid e.gva == some o && o.element e.gva == some 0)) ||
      (wide && decide (b % 2 = 1)) || !tagFits tag o.fmt || (o.ordered && decide (o.leaves ≤ flat))
    if wide && s.cur.regs.bad.any (fun x => x.1 == .v (b + 1) && s.exec.getLsbD x.2) then .trap 7 0 (b + 1)
    else if bad then .trap 18 0 0
    else if o.st = .ownerLost then .trap 15 (s.faOf ((es0.head?.map Elem.gva).getD 0)) 0
    else ordered s s.cur.acc.st (fun s =>
      if s.switches o tag && s.underMerge o && s.owesRound o then .trap 4 0 0
      else if !s.sbRoom es.length then .notReady
      else
        let val := fun (l : Lane) => BitVec.ofNat 64 ((s.vlane b l).toNat + (if wide then (s.vlane (b + 1) l).toNat * 2 ^ 32 else 0))
        access s .write [tagCap tag o.fmt, 7] false false es (redStall o.idx flat tag) (fun oks =>
          let rs := redElems tag (oks.map Prod.fst) val
          let ws := rs.filterMap (fun r => (oks.find? (fun k => k.1 == r.1)).map (fun k =>
            ((⟨k.1.lane, k.1.gva, k.2, o.esize, none, false⟩ : LaneAcc), o.esize, WKind.fold o.idx o.ordered flat tag k.1.gva r.2.1)))
          .store .red .drop 1 none none ws (rs.foldl (fun f r => f ||| r.2.2) 0)) State.perform)

/-- Every `red` of a group issued before a point has folded (R192, 15 R264). -/
def Group.redsDone (g : Group) (before : Nat) : Bool :=
  g.acc.ops.all (fun o => !(o.kind == .red && decide (o.id < before)))

/-- `red.close`: it waits for the group's earlier `red`s and for the record at the leaf's first node (R192). -/
def doRedClose (d a : Nat) (s : State) : Act :=
  let gva := (s.sreg a).toNat
  match s.objAt s.myVdid gva with
  | none => .trap 17 0 0
  | some o => if o.st = .ownerLost then .trap 15 (s.faOf gva) 0 else .hold s (.answer .close d o.idx s.nextId)

/-- The close of a waiting `red.close` and its status (R192, R201). -/
def State.finishClose (s : State) (idx flat : Nat) : Nat × State :=
  match s.obj? idx with
  | none => (11, s)
  | some o =>
    if o.st ≠ .update then (11, s)
    else if o.ordered = false then (0, s)
    else s.closeLeaf o flat

/-! ## Objects (R200) -/

/-- The object number widened by LIT. -/
def State.objNum (s : State) (o : BitVec 8) : Int := (widen s.hints 8 o.toNat).toInt

/-- The table entry of an object number, none where it is outside the VDID's range (R178). -/
def State.objIndex (s : State) (n : Int) : Option Nat :=
  let r := s.objRange s.myVdid
  if n < 0 ∨ (r.2 : Int) ≤ n then none else some (r.1 + n.toNat)

/-- Lines of an object. -/
def ObjEntry.lineCount (o : ObjEntry) : Nat := o.ext 0 * o.esize / 64 * (o.ext 1 * o.ext 2 * o.ext 3)

/-- The addresses of an object's first bytes of rows, as ranges (start, length). -/
def ObjEntry.span1 (o : ObjEntry) : Nat × Nat :=
  (o.base, (o.ext 3 - 1) * o.stride 3 + (o.ext 2 - 1) * o.stride 2 + (o.ext 1 - 1) * o.stride 1 + o.ext 0 * o.esize)

/-- The rows of an object in ascending order, at most `n` of them. -/
def ObjEntry.rows (o : ObjEntry) : List Nat :=
  (List.range (o.ext 3)).flatMap (fun k => (List.range (o.ext 2)).flatMap (fun j => (List.range (o.ext 1)).map (fun i =>
    o.base + k * o.stride 3 + j * o.stride 2 + i * o.stride 1)))

/-- A line of one object overlaps another (R200): bounding ranges meet and a row of one meets a line of the other. -/
def overlaps (a b : ObjEntry) : Bool :=
  let x := a.span1
  let y := b.span1
  decide (x.1 < y.1 + y.2) && decide (y.1 < x.1 + x.2) &&
    (a.rows.any (fun r => (List.range (a.ext 0 * a.esize / 64)).any (fun i => (b.element (r + 64 * i)).isSome)))

/-- Switch-level nodes of a tree: index range of merge nodes, with the first (R194). -/
def ObjEntry.slots (o : ObjEntry) : Nat × Nat :=
  match ((List.range o.nlev).map (fun k => k + 1)).find? (fun k => o.dom k == 6) with
  | some k => (bitsOf o.tree.toNat 151 128, o.leaves / o.span k)
  | none => (0, 0)

/-- What a declaration of a fabric-scope object is answered by the switch plane and the home (R194, 27 R400, R401). Slots are reserved by
name, 256 to a plane: those that another object of this package holds are full. What other packages hold is not known here: at the home,
whose declaration reserves them, the slots may be another object's; at another package the home may hold no entry with these records
(log entry 18). -/
def State.slotStatus (s : State) (o : ObjEntry) (away : Bool) : Nat :=
  let m := o.slots
  let fab := s.objs.filter (fun x => x.scope == 4 && decide (0 < x.slots.2) && x.slots.1 / 256 == m.1 / 256)
  let free := (Config.freeBits 2 s.freeCount).toNat
  if o.scope ≠ 4 ∨ (m.2 = 0 ∧ away = false) then 0
  else if away && decide (free = 1) then 7
  else if m.2 = 0 then 0
  else if fab.any (fun x => decide (x.slots.1 < m.1 + m.2) && decide (m.1 < x.slots.1 + x.slots.2)) then 5
  else if 256 < (fab.map (fun x => x.slots.2)).sum + m.2 then 5
  else if free = 2 then 5 else 0

/-- The answer of the plane or the home is a free value that is spent. -/
def State.spendFree (s : State) (o : ObjEntry) : State :=
  if o.scope = 4 then { s with freeCount := s.freeCount + 1 } else s

/-- `cobj.decl` (R200). A translation fault of the object's first line, or a read permission that it lacks, parks the group as a record read does,
before the tests of BUSY, OVERLAP and CAPACITY: the model's choice (log entry 57). -/
def doCobjDecl (d a : Nat) (n : Int) (s : State) : Act :=
  let say := fun (s : State) (v : Nat) => Act.ok (s.setSreg d (BitVec.ofNat 64 v))
  let gva := (s.sreg a).toNat
  match s.objIndex n with
  | none => say s 1
  | some idx =>
    if gva % 64 ≠ 0 then say s 1
    else readLines true s gva 2 (fun s bs =>
      let o : ObjEntry := ⟨idx, s.myVdid, s.myWorld, BitVec.ofNat 512 (ofLeBytes (bs.take 64)),
        BitVec.ofNat 256 (ofLeBytes ((bs.drop 64).take 32)), .shared, 15, 0, false, 0, 0, 0, false, [], 0, false,
        ((s.myCtx.map Ctx.s1root).getD 0), none, none, 0, [], [], [], []⟩
      if !(shapeOk o && treeOk o) then say s 1
      else match s.myCtx with
        | none => .notReady
        | some c =>
          let (r, t) := s.checkElem c .read [] false ⟨0, o.base, 64⟩
          match r with
          | .trap 13 fa => .trap 13 fa 0
          | .miss m => .park (t.parkFaults c .read [(o.base, m, 0)]) s.exec
          | _ =>
            let home := match r with | .ok fa | .trap _ fa => fa | _ => 0
            let away := o.scope == 4 && (t.home home).any (fun h => h.holder / 256 != t.pkgNum)
            let slots := t.slotStatus o away
            let pstore := bitsOf ((s.pkg.partDesc[c.part]?).getD 0).toNat 19 16
            let cap := if o.dom 1 = 2 then o.fan 1 else 32
            if (s.obj? idx).isSome then say t 2
            else if s.objs.any (fun x => x.vdid == o.vdid && overlaps o x) then say t 6
            else if o.ordered && decide (256 * pstore < o.lineCount * cap) then say t 4
            else if slots ≠ 0 then say (t.spendFree o) slots
            else
              let tag := o.field 399 392
              let o := { o with st := if tag = 15 then .shared else .update, tag := tag, home := home, isMember := away }
              say { t.spendFree o with objs := t.objs ++ [o] } 0)

/-- `cobj.drop` (R200, R193): partials that other packages hold come home first (R190). -/
def doCobjDrop (d : Nat) (n : Int) (s : State) : Act :=
  let say := fun (s : State) (v : Nat) => Act.ok (s.setSreg d (BitVec.ofNat 64 v))
  match s.objIndex n with
  | none => say s 1
  | some idx =>
    match s.obj? idx with
    | none => say s 3
    | some o =>
      if o.st = .ownerLost then say s 9
      else if o.isMember = false ∧ o.st = .update ∧ (o.snoop.isSome = true ∨ o.away ≠ []) then
        .hold (if o.snoop.isSome then s else s.askAway o []) (.answer .read 64 s.since 0)
      else
        let s := s.writtenHome o
        let s := if o.isMember then s.collect o (fun _ => true) else if o.st = .update then (if o.ordered then s.forceRound idx else s.collect o (fun _ => true)) else s
        say { s with
          objs := s.objs.filter (fun (x : ObjEntry) => x.idx != idx),
          partials := s.partials.filter (fun (p : Partial) => p.obj != idx),
          nodes := s.nodes.filter (fun (m : MNode) => m.obj != idx) } 0

/-- `cobj.sync`: it waits for the group's `red`s and for an open round (R200, R189, 15 R264). -/
def doCobjSync (d : Nat) (share : Bool) (n : Int) (s : State) : Act :=
  let say := fun (s : State) (v : Nat) => Act.ok (s.setSreg d (BitVec.ofNat 64 v))
  match s.objIndex n with
  | none => say s 1
  | some idx =>
    match s.obj? idx with
    | none => say s 3
    | some o =>
      if o.st = .ownerLost then say s 9
      else if o.st = .update && o.owes s.cur.place.flat then .trap 4 0 0
      else .hold s (.answer .cobj d (2 * idx + share.toNat) s.nextId)

/-- The round record (R195). -/
def ObjEntry.roundRecord (o : ObjEntry) : DWord :=
  BitVec.ofNat 64 (o.round * 2 ^ 40 + o.incomplete.toNat * 2 ^ 39 + o.ilevel % 8 * 2 ^ 36 + o.mflags.toNat * 2 ^ 32 +
    o.missing.toNat)

/-- The outcome of a waiting `cobj.sync`: status, record if any, and the state (R200). Only at the home does it clear `mflags` and change
the state (27 R400). -/
def State.finishSync (s : State) (idx : Nat) (share : Bool) : Nat × Option DWord × State :=
  match s.obj? idx with
  | none => (3, none, s)
  | some o =>
    if o.st = .ownerLost then (9, none, s)
    else
      let s := if o.st = .update then s.collect o (fun _ => true) else s
      let rr := ((s.obj? idx).getD o).roundRecord
      (0, some rr, if o.isMember then s else
        s.modObj idx (fun o => { o with mflags := 0, st := if share && o.st == ObjSt.update then ObjSt.shared else o.st }))

/-- Fabric addresses of an object's pages in its address space, and of its first line. -/
def State.objPages (s : State) (o : ObjEntry) : List Nat :=
  o.home :: (List.range (o.span1.2 / 4096 + 2)).filterMap (fun i =>
    let page := o.base / 4096 * 4096 + 4096 * i
    if (o.rows.any (fun r => decide (r < page + 4096) && decide (page < r + o.ext 0 * o.esize))) then s.objFa o page else none)

/-- The fabric addresses of an object's lines in its address space. -/
def State.objLines (s : State) (o : ObjEntry) : List Nat :=
  o.rows.flatMap (fun r => (List.range (o.ext 0 * o.esize / 64)).filterMap (fun i => s.objFa o (r + 64 * i)))

/-- Every line of the object is marked at its primary as poisoned, or no more so after a reclaim (R196, R198). -/
def State.poisonLines (s : State) (o : ObjEntry) (p : Bool) : State :=
  (s.objLines o).foldl (fun (s : State) (fa : Nat) => match s.home fa with
    | some h => s.setLine { s.lineAt h.holder fa with poison := p }
    | none => s) s

/-- The lost agent of an object is fenced: no die router lists a holder of it for a prefix that covers a line (R198). -/
def State.fenced (s : State) (o : ObjEntry) : Bool :=
  match o.lost with
  | none => true
  | some a =>
    if a / 256 = s.pkgNum then decide (s.pkg.dieOff.toNat / 2 ^ (a % 256) % 2 = 1)
    else s.routes.all (fun e => !(decide (e.router / 256 = s.pkgNum) && decide (e.router % 256 < 4) &&
      (s.objPages o).any (fun a => prefixCovers e.pre a) && e.holders.any (fun h => h.holder / 256 == a / 256)))

/-- `cobj.reclaim` (R198, R200). -/
def doCobjReclaim (d : Nat) (n : Int) (s : State) : Act :=
  let say := fun (s : State) (v : Nat) => Act.ok (s.setSreg d (BitVec.ofNat 64 v))
  match s.objIndex n with
  | none => say s 1
  | some idx =>
    match s.obj? idx with
    | none => say s 3
    | some o =>
      if o.st ≠ .ownerLost then say s 11
      else if s.fenced o then say ((s.poisonLines o false).modObj idx (fun o => { o with
          st := .shared, lost := none
          barred := match o.lost with
            | some a => (a, s.pace) :: o.barred.filter (fun b => b.1 != a)
            | none => o.barred })) 0
      else say s 8

/-! ## Events -/

/-- PARTIAL_FOLD: an evicted or collected free-mode partial is folded at the serialisation point. (R190) -/
def execPartialFold (obj die elem : Nat) (s : State) : Out State :=
  .next (match s.obj? obj with
    | some o => s.collect o (fun p => p.who == die && p.fa == elem)
    | none => s)

/-- The home tells another package that has declared the object that a round has ended, with its round record: partials are empty, and the
leaves without which it has ended by timeout are late (R189, R192, R195, 27 R400). -/
def State.memberRound (s : State) (o : ObjEntry) (rec : Nat) : State :=
  let s := { s with
    partials := s.partials.filter (fun (x : Partial) => !(x.obj == o.idx && x.ordered)),
    nodes := s.nodes.filter (fun (n : MNode) => n.obj != o.idx) }
  s.modObj o.idx (fun o => { o with
    isOpen := false, ended := s.cycle, closed := []
    round := bitsOf rec 63 40, incomplete := decide (bitsOf rec 39 39 = 1), ilevel := bitsOf rec 38 36,
    mflags := BitVec.ofNat 4 (bitsOf rec 35 32), missing := BitVec.ofNat 32 (bitsOf rec 31 0)
    late := if bitsOf rec 39 39 = 1 then (List.range o.leaves).filter (fun l => !o.closed.contains l) else [] })

/-- A node has completed by timeout without a child: what reaches it later in the round that it ended is rejected (R194). -/
def State.rejects (s : State) (o : ObjEntry) (m : ChildMsg) : Bool :=
  !o.isOpen && o.incomplete && o.late.any (fun l => decide (l / o.span (m.level - 1) = m.index * o.fan m.level + m.child)) &&
    s.nodes.all (fun n => n.obj != o.idx)

/-- MERGE_CHILD_ARRIVE: a child's result reaches a merge node; a complete node combines and forwards. Where the home is another package's,
its news of a round's end arrives in the same way. (R189, R194, 27 R400) -/
def execMergeChildArrive (obj : Nat) (child : NodeMsg) (s : State) : Out State :=
  .next (match s.obj? obj, child with
    | some o, .child m =>
      if !o.ordered || o.st != ObjSt.update || o.isMember then s
      else if s.rejects o m then s.modObj obj (fun o => { o with late := o.late.filter (fun l =>
        l / o.span (m.level - 1) != m.index * o.fan m.level + m.child) })
      else (s.modObj obj (fun o => { o with isOpen := true })).childArrive obj 8 m
    | some o, .ended rec => if o.isMember && o.ordered then s.memberRound o rec.toNat else s
    | none, _ => s)

/-- MERGE_NODE_TIMEOUT: a switch or fabric node completes its round by timeout as INCOMPLETE. (R189) -/
def execMergeNodeTimeout (obj level index : Nat) (s : State) : Out State :=
  .next (match s.obj? obj, s.nodes.find? (fun n => n.obj == obj && n.level == level && n.index == index) with
    | some o, some n => if 6 ≤ o.dom level ∧ n.first + o.tmo ≤ s.pace then s.fireNode obj level index else s
    | _, _ => s)

/-- A request that the home holds receives a poisoned response (R197, 26 R398). -/
def State.refuseHeld (s : State) (h : HeldReq) : State :=
  match h with
  | .agent _ => s
  | .write n => if (s.write? n).any (fun w => w.phase == WPhase.travel) then s.failWrite n 15 else s
  | .load op line => (match s.opOf op with
    | none => s
    | some (g, o) => (match o.reqs.find? (fun r => r.line == line && !r.served && r.err.isNone) with
      | none => s
      | some r => s.setReq g.place.uid op { r with err := some 15 }))

/-- An object's owner, or an agent with its partials, is lost: its lines are poisoned at their primaries, what is held there is refused in
arrival order, and one error record is written (R196, 26 R398). -/
def State.loseObject (s : State) (o : ObjEntry) (agent : Nat) : State :=
  let s := (s.poisonLines o true).modObj o.idx (fun o => { o with
    st := .ownerLost, lost := some agent, snoop := none, away := [], wrote := [] })
  let s := { s with partials := s.partials.filter (fun (p : Partial) => p.obj != o.idx) }
  let s := ((o.snoop.map Snoop.held).getD []).foldl State.refuseHeld s
  s.errorRecord ⟨15, o.world, o.vdid, 0, 0, o.home, [], false⟩

/-- A store buffer entry of a die that is taken offline is void: its write is lost, and its operation ends (R199). -/
def State.voidEntry (s : State) (e : SbEntry) : State := { s with sb := s.sb.erase e }.respond e.req

/-- A compute die that leaves a snoop unanswered is taken offline: what only its L2 held is lost, and those lines are poisoned; the objects
that it owned, or partials of which it held, are lost with it (R199). -/
def State.dieLost (s : State) (d : Nat) : State :=
  let on := fun (core : Nat) => dieOf core == d
  let hit := ((s.groups.filter (fun g => on g.place.core)).map (fun g => g.place.ctx)).eraseDups
  let s := hit.foldl (fun (s : State) c => s.resetContext c 36) s
  let agent := s.pkgNum * 256 + d
  let lost := s.tags.filter (fun t => decide (t.place < 12) && t.place / 3 == d && t.below.isSome)
  let s := lost.foldl (fun (s : State) (t : TagLine) =>
    let s := { s with mem := Memory.putN s.mem (memKey t.holder t.line) (t.below.getD []) }
    s.setLine { s.lineAt t.holder t.line with poison := true }) s
  let s := (s.sb.filter (fun e => on e.core)).foldl State.voidEntry s
  let s := (s.objs.filter (fun o => !o.isMember && (o.st == ObjSt.owned agent ||
    (o.st == ObjSt.update && s.partials.any (fun p => p.obj == o.idx && !p.ordered && p.who == d))))).foldl
      (fun (s : State) (o : ObjEntry) => s.loseObject o agent) s
  let s := { s with
    l1 := s.l1.filter (fun (l : L1Line) => !on l.core),
    tags := s.tags.filter (fun (t : TagLine) => !(decide (t.place < 12) && t.place / 3 == d)),
    partials := s.partials.filter (fun (p : Partial) => !(!p.ordered && p.who == d)),
    links := s.links.map (fun (l : Link) => if l.port / 4 == d then { l with up := false, retry := [] } else l),
    pkg := { s.pkg with dieOff := s.pkg.dieOff ||| BitVec.ofNat 64 (2 ^ d) } }
  let s := (List.range 4).foldl (fun (s : State) i => s.portDown (4 * d + i)) s
  s.errorRecord ⟨36, 0, 0, 36 * d, 11, 0, [], false⟩

/-- A snoop or collection of an agent stays without an answer: the object is lost, and a die here is taken offline (R196, R199). -/
def State.ownerLost (s : State) (o : ObjEntry) (agent : Nat) : State :=
  let s := s.loseObject o agent
  if agent / 256 = s.pkgNum then s.dieLost (agent % 256) else s

/-- The object enters UPDATE for an agent's `red`; another package may from now hold partials of a free-mode object (R190). -/
def State.remember (s : State) (idx agent tag : Nat) : State :=
  let s := s.enterUpdate idx tag
  if agent / 256 = s.pkgNum then s
  else s.modObj idx (fun o => if o.ordered || o.away.contains agent then o else { o with away := o.away ++ [agent] })

/-- The transition of R185 for a request of an agent at the directory: an owner, and each die that holds free-mode partials, is
snooped first and the request held (R196, 26 R398). -/
def State.directory (s : State) (o : ObjEntry) (req : ObjReq) : State :=
  let ask := fun (agent : Nat) => s.sendSnoop o agent [.agent req]
  let merge := fun (agent : Nat) =>
    if o.isOpen then s
    else match o.away.find? (fun a => a != agent) with
    | some a => ask a
    | none => match s.partials.find? (fun p => p.obj == o.idx && !p.ordered && s.pkgNum * 256 + p.who != agent) with
      | some p => ask (s.pkgNum * 256 + p.who)
      | none => s.collect o (fun _ => true)
  match o.st, req with
  | .ownerLost, _ => s
  | .update, .read a => merge a
  | .update, .write a => merge a
  | .update, .red a tag =>
    if o.isOpen then s
    else if tag ≠ o.tag ∧ o.away ≠ [] then s.askAway o [.agent req]
    else s.remember o.idx a tag
  | .shared, .soleAccess c =>
    if s.cachedOutside o c then s else s.modObj o.idx (fun o => { o with st := .priv c })
  | _, .soleAccess _ => s
  | .owned x, .read a => if x = a then s else ask x
  | .owned x, .write a => if x = a then s else ask x
  | .owned x, .red a tag => if x = a then (s.modObj o.idx (fun o => { o with st := .shared })).remember o.idx a tag else ask x
  | .priv c, .read _ => (s.dropObj o c).modObj o.idx (fun o => { o with st := .shared })
  | .shared, .read _ => s
  | _, .write a => ((s.uncache o (fun _ => true)).recall o).modObj o.idx (fun o => { o with st := .owned a })
  | _, .red a tag => s.remember o.idx a tag

/-- A request at the directory: one that arrives while a snoop is outstanding is held (26 R398). -/
def State.request (s : State) (obj : Nat) (req : ObjReq) : State :=
  match s.obj? obj with
  | none => s
  | some o => if o.isMember then s else if o.snoop.isSome then s.sendSnoop o 0 [.agent req] else s.directory o req

/-- The agent of a request. -/
def State.asker (s : State) : ObjReq → Nat
  | .read a | .write a | .red a _ => a
  | .soleAccess c => s.agentOf c

/-- COBJ_DIRECTORY_REQUEST: the home directory takes an object transition for an arriving request; one that arrives while a
snoop is outstanding is held, and one that a lost agent sent before the reclaim is discarded. The copy of a line that a read leaves in
another package is recorded as the line is read (READ_REQUEST). (R185, R398) -/
def execCobjDirectoryRequest (obj : Nat) (req : ObjMsg) (s : State) : Out State :=
  .next (if (s.obj? obj).any (fun o => o.barred.any (fun b => b.1 == s.asker req.req && decide (req.sent < b.2))) then s
    else s.request obj req.req)

/-- Another package's home snoops this package, the owner of an object: what was written here goes to it, and the lines leave (26 R397). -/
def State.giveFar (s : State) (f : FarOwned) : State :=
  let mine := fun (line : Nat) => f.lines.contains line
  let s := (s.writes.filter (fun w => w.phase == .invalidating && w.place.isSome && mine (lineBase w.addr))).foldl State.landWrite s
  let s := (s.tags.filter (fun t => t.holder == f.prim && mine t.line)).foldl State.evictTag s
  let s := ((s.l1.filter (fun l => mine l.fline)).map (fun l => (l.core, l.fline))).foldl (fun (s : State) x => s.dropL1 x.1 x.2) s
  { s with owned := s.owned.filter (fun (x : FarOwned) => x.lines != f.lines) }.sendTo (s.localId 0) ((f.lines.head?).getD 0) f.prim chanAnswer

/-- SNOOP_RECEIVE: an owner or an agent holding free-mode partials receives a snoop or collection, writes back or sends its
lines and partials, and answers; the answer to another package's home leaves this package. (R185, 26 R397) -/
def execSnoopReceive (obj : SnoopMsg) (s : State) : Out State :=
  .next (match obj with
    | .home n => s.modObj n (fun o => { o with snoop := o.snoop.map (fun n =>
        { n with received := true, answered := n.answered || s.answers n.agent }) })
    | .away line => (match s.farOwner line with
      | some f => s.giveFar f
      | none => (match s.objs.find? (fun o => o.isMember && s.isLine o line) with
        | some o => s.collect o (fun _ => true)
        | none => s)))

/-- A request that the home has held is served (26 R398). -/
def State.serveHeld (obj : Nat) (s : State) (h : HeldReq) : State :=
  match h with
  | .agent r => s.request obj r
  | .write n => s.arriveWrite n
  | .load op line => (match s.opOf op with
    | none => s
    | some (g, o) => (match s.ctx? g.place.ctx, o.reqs.find? (fun r => r.line == line && !r.served && r.err.isNone) with
      | some c, some r => s.tryReq g c o r
      | _, _ => s))

/-- SNOOP_ANSWER: a snoop or collection answer reaches the serialisation point, which completes the object transition and
serves the held requests in order; a die of this package answers what it has received, and an answer after 20 µs is
discarded. Another package's answer carries the lines it owned and the partials it held. (R196) -/
def execSnoopAnswer (m : AnswerMsg) (s : State) : Out State :=
  .next (match s.obj? m.obj with
    | none => s
    | some o => (match o.snoop with
      | none => s
      | some n =>
        let here := decide (n.agent / 256 = s.pkgNum)
        if (here && !n.answered) || decide (n.sent + 20000 < s.pace) || m.agent != n.agent || decide (m.sent < n.sent) then s
        else
          let mine := fun (fa : Nat) => !here && (s.objGva o fa).isSome
          let owned := match o.st with | .owned _ => true | _ => false
          let s := s.writtenHome o
          let s := if owned then (m.lines.filter (fun l => mine l.1)).foldl
              (fun (s : State) l => s.engineWrite o.world (lineBase l.1) (l.2.take 64)) s
            else s
          let s := if o.st = .update then
              (m.parts.filter (fun x => mine x.1)).foldl (fun (s : State) x => s.homeFold o x.1 x.2)
                (s.collect o (fun p => s.pkgNum * 256 + p.who == n.agent))
            else s
          let s := s.modObj m.obj (fun o => { o with
            snoop := none, away := o.away.filter (fun a => a != n.agent), st := match o.st with | .owned _ => .shared | x => x })
          n.held.foldl (State.serveHeld m.obj) s))

/-- SNOOP_RETRY: an unanswered snoop or collection is sent again at 7 and 14 µs. (R196) -/
def execSnoopRetry (obj : Nat) (s : State) : Out State :=
  .next (match s.obj? obj with
    | none => s
    | some o => (match o.snoop with
      | none => s
      | some n =>
        if n.tries < 3 ∧ n.sent + 7000 * n.tries ≤ s.pace then
          (s.modObj obj (fun o => { o with snoop := o.snoop.map (fun n => { n with tries := n.tries + 1 }) })).sendTo
            (s.localId 0) o.home n.agent chanReq
        else s))

/-- SNOOP_TIMEOUT: no answer by 20 µs; the object becomes OWNER_LOST and its lines are poisoned. (R196) -/
def execSnoopTimeout (obj : Nat) (s : State) : Out State :=
  .next (match s.obj? obj with
    | none => s
    | some o => (match o.snoop with
      | some n => if n.sent + 20000 ≤ s.pace then s.ownerLost o n.agent else s
      | none => s))


/-- RED: Contributes lane values to an update-only object under an operator tag. (R188) -/
def execRed (a : BitVec 7) (b : BitVec 7) (t : BitVec 4) (s : State) : Out State :=
  issue (.red a b t) s (doRed a b.toNat t.toNat)

/-- RED_CLOSE: Ends the issuing leaf's part of an ordered round. (R192) -/
def execRedClose (d : BitVec 6) (a : BitVec 6) (s : State) : Out State :=
  issue (.redClose d a) s (doRedClose d.toNat a.toNat)

/-- COBJ_DECL: Declares a coherence object from a record pair. (R200) -/
def execCobjDecl (d : BitVec 6) (a : BitVec 6) (o : BitVec 8) (s : State) : Out State :=
  issue (.cobjDecl d a o) s (fun t => doCobjDecl d.toNat a.toNat (t.objNum o) t)

/-- COBJ_DROP: Completes any merge and frees an object entry. (R200) -/
def execCobjDrop (d : BitVec 6) (o : BitVec 8) (s : State) : Out State :=
  issue (.cobjDrop d o) s (fun t => doCobjDrop d.toNat (t.objNum o) t)

/-- COBJ_SYNC: Completes the merge and returns the round record. (R200) -/
def execCobjSync (d : BitVec 6) (o : BitVec 8) (s : State) : Out State :=
  issue (.cobjSync d o) s (fun t => doCobjSync d.toNat false (t.objNum o) t)

/-- COBJ_SYNC_SHARED: Completes the merge and returns the object to SHARED. (R200) -/
def execCobjSyncShared (d : BitVec 6) (o : BitVec 8) (s : State) : Out State :=
  issue (.cobjSyncShared d o) s (fun t => doCobjSync d.toNat true (t.objNum o) t)

/-- COBJ_RECLAIM: Returns an OWNER_LOST object to SHARED if the lost agent is fenced. (R198) -/
def execCobjReclaim (d : BitVec 6) (o : BitVec 8) (s : State) : Out State :=
  issue (.cobjReclaim d o) s (fun t => doCobjReclaim d.toNat (t.objNum o) t)

end Sys2Proof.Machine
end

