-- ==== Sys2Proof/Machine/Desc.lean ====
section
/-! DEFINITION. Tensor descriptors and carillon trees (spec 12 R202-R207, R210, R211, 03 R63). -/

namespace Sys2Proof.Machine

/-! ## Descriptors (R202-R204) -/

/-- A field of a descriptor. -/
def tdf (e : BitVec 512) (hi lo : Nat) : Nat := bitsOf e.toNat hi lo

def tdFmt (e : BitVec 512) : Nat := tdf e 455 448
def tdBase (e : BitVec 512) : Nat := tdf e 63 0
def tdExt (e : BitVec 512) (i : Nat) : Nat := tdf e (95 + 32 * i) (64 + 32 * i)
def tdTile (e : BitVec 512) (i : Nat) : Nat := tdf e (431 + 16 * i) (416 + 16 * i)
def tdStride (e : BitVec 512) : Nat := tdf e 191 128
def tdKdim (e : BitVec 512) : Nat := tdf e 460 460
def tdSmode (e : BitVec 512) : Nat := tdf e 457 456

/-- Bytes of an element; 0 for io4, whose quads are 2 bytes (R203). -/
def tdSize (f : Nat) : Nat := match f with | 0 => 4 | 1 | 2 => 2 | 6 => 0 | _ => 1

/-- Byte length of a row of dimension 0. -/
def tdRow (e : BitVec 512) : Nat := if tdFmt e = 6 then tdExt e 0 / 4 * 2 else tdExt e 0 * tdSize (tdFmt e)

/-- The well-formedness of a record (R204). -/
def tdOk (e : BitVec 512) : Bool :=
  let f := tdFmt e
  let base := tdBase e
  let sbase := tdf e 319 256
  let amax := tdf e 383 320
  let derive := tdf e 463 463
  let sm := tdSmode e
  decide (tdf e 511 480 = 0) && decide (tdf e 471 468 = 0) && decide (tdf e 462 461 = 0) && decide (tdf e 459 458 = 0) &&
    decide (tdf e 255 192 = 0) && decide (f ≤ 6) && decide (sm ≤ 2) && decide (tdf e 467 464 ≤ 5) &&
    decide (base / 2 ^ 48 = 0) && decide (sbase / 2 ^ 48 = 0) && decide (amax / 2 ^ 48 = 0) &&
    decide (base % (if f = 6 then 2 else tdSize f) = 0) && decide (amax % 4 = 0) &&
    decide (1 ≤ tdExt e 0) && decide (1 ≤ tdExt e 1) && (decide (f ≠ 6) || decide (tdExt e 0 % 4 = 0)) &&
    (decide (tdExt e 1 = 1) || (decide (tdStride e % 16 = 0) && decide (tdRow e ≤ tdStride e))) &&
    decide (1 ≤ tdTile e 0) && decide (tdTile e 0 ≤ 128) && decide (1 ≤ tdTile e 1) && decide (tdTile e 1 ≤ 128) &&
    (decide (sm = 0) || decide (f = 3) || decide (f = 4) || decide (f = 6)) &&
    (decide (sm ≠ 1) || (decide (sbase ≠ 0) && decide (tdExt e (tdKdim e) % 32 = 0))) &&
    (decide (derive = 0) || (decide (sm = 2) && decide (amax ≠ 0)))

/-- A descriptor entry with a field replaced. -/
def tdSet (e : BitVec 512) (hi lo v : Nat) : BitVec 512 := BitVec.ofNat 512 (setBits e.toNat hi lo v)

/-- The valid entry of a number in the group's context (R206). -/
def State.tdt? (s : State) (n : Nat) : Option (BitVec 512) :=
  (s.myCtx.bind (fun c => c.tdt.find? (fun e => e.1 == n))).map Prod.snd

/-- Writes or drops an entry of the group's context; the slice copies change in the same step (R205). -/
def State.setTdt (s : State) (n : Nat) (e : Option (BitVec 512)) : State :=
  s.modCtx s.cur.place.ctx (fun c =>
    let rest := c.tdt.filter (fun x => x.1 != n)
    { c with tdt := match e with | some v => (n, v) :: rest | none => rest })

/-- `tdt.set` (R205). -/
def doTdtSet (d a n : Nat) (s : State) : Act :=
  let gva := (s.sreg a).toNat
  if gva % 64 ≠ 0 then .ok (s.setSreg d 1)
  else readLines true s gva 1 (fun s bs =>
    let e := BitVec.ofNat 512 (ofLeBytes bs)
    if !tdOk e then .ok (s.setSreg d 1)
    else
      let put := fun (s : State) (e : BitVec 512) => Act.ok ((s.setTdt n (some (tdSet e 504 504 1))).setSreg d 0)
      if tdf e 463 463 = 0 then put s e
      else
        let amax := tdf e 383 320
        readFrom (decide (3 ≤ tdf e 467 464)) false s [⟨0, amax, 4⟩] (fun s bs =>
          let x := BitVec.ofNat 32 (ofLeBytes (bs.take 4))
          let r := scaleCode x (if tdFmt e = 4 then 57344 else 448) 0
          put ((s.raise r.2).modCkpt (fun c => { c with closed := true })) (tdSet e 479 472 r.1)))

/-- `tdt.get`: an entry that is not valid reads 0 (R205). -/
def doTdtGet (d w n : Nat) (s : State) : Act :=
  .ok (s.setSreg d (BitVec.ofNat 64 (bitsOf ((s.tdt? n).getD 0).toNat (64 * w + 63) (64 * w))))

/-! ## Carillon trees (R210, R211) -/

/-- The entry of a tree at a port; one nothing has written is 0. -/
def State.treeAt (s : State) (port n : Nat) : DWord :=
  ((s.trees.find? (fun e => e.port == port && e.n == n)).map TreeEntry.val).getD 0

/-- `tree.set` (R211). -/
def doTreeSet (d a n : Nat) (s : State) : Act :=
  let p := (s.sreg a).toNat
  let e := (s.sreg (a + 1)).toNat
  if 16 ≤ p ∨ bitsOf e 62 62 ≠ 0 ∨ bitsOf e 55 48 ≠ 0 ∨ bitsOf e 39 29 ≠ 0 ∨ e / 2 ^ (p % 16) % 2 = 1 ∨
      (bitsOf e 28 28 = 1 ∧ 4 ≤ p) then .ok (s.setSreg d 1)
  else
    let rest := s.trees.filter (fun (t : TreeEntry) => !(t.port == p && t.n == n))
    .ok ({ s with trees := if e = 0 then rest else ⟨p, n, BitVec.ofNat 64 e⟩ :: rest }.setSreg d 0)

/-- The echoes of a write that travel with its packet arrive with it, or follow it where the packet is dropped. -/
def State.landed (s : State) (write : Nat) : State :=
  { s with echoes := s.echoes.map (fun (e : Echo) => if e.write == write && e.carried then { e with carried := false } else e) }

/-- A packet of another package's primary reaches a holder here: a holder of its echo set takes the bytes as an echo behind those
before it (21 R376), any other discards them; which holders that primary counts is not known here (log entry 45). -/
def State.fromOutside (s : State) (pkt : McPacket) (member : Bool) (d : Nat) : State :=
  match s.holderState d pkt.addr with
  | none => s
  | some h =>
    if h.st == .primary || !member then s
    else
      let (i, s) := s.fresh
      { s with echoes := s.echoes ++
          [⟨i, 0, pkt.prim, d, h.pre, pkt.addr, pkt.data.take (64 - pkt.addr % 64), pkt.time, false, false⟩] }

/-- The holders of this package that a tree entry delivers to (R210). -/
def State.treeHolders (s : State) (e : Nat) : List Nat :=
  (if bitsOf e 28 28 = 1 then [s.localId 0] else []) ++
    ((List.range 12).filter (fun n => bitsOf e 27 16 / 2 ^ n % 2 = 1)).map (fun n => s.localId (16 + n))

/-- The ports that a packet leaves by: those of its entry that have a link, but not the one on which it arrived (21 R378). -/
def State.treePorts (s : State) (e port : Nat) : List Nat :=
  (List.range 16).filter (fun p => decide (bitsOf e 15 0 / 2 ^ p % 2 = 1) && p != port && s.links.any (fun l => l.port == p && l.up))

/-- MULTICAST_FORWARD: a port delivers a multicast packet under its carillon entry to the members of the echo set that it reaches, and
sends a copy with the entry's tree number and one less in its budget out of the entry's ports; a packet with no budget, an
invalid entry or another VDID is dropped and recorded. A copy that has left by a port is its peer's. (R210, 14 R247, 21 R378) -/
def execMulticastForward (port : Nat) (pkt : McPacket) (s : State) : Out State :=
  let fl := s.mcast.find? (fun m => m.port == port && m.pkt == pkt)
  let s := { s with mcast := match fl with | some m => s.mcast.erase m | none => s.mcast }
  let e := (s.treeAt port pkt.tree).toNat
  .next (if 16 ≤ port then s
    else
      let s := match fl with | some m => s.landed m.write | none => s
      if pkt.hops = 0 ∨ bitsOf e 63 63 = 0 ∨ bitsOf e 61 56 ≠ pkt.vdid then
        s.errorRecord ⟨42, 0, pkt.vdid, 0, 0, pkt.addr, [], false⟩
      else
        let s := if pkt.prim / 256 = s.pkgNum then s
          else
            let mine := Config.freeBits 32 s.freeCount
            (s.treeHolders e).foldl (fun (s : State) d => s.fromOutside pkt (mine.getLsbD (d % 32)) d)
              { s with freeCount := s.freeCount + 1 }
        (s.treePorts e port).foldl (fun (s : State) p =>
          let m : McFlight := ⟨beyond p, 0, { pkt with tree := bitsOf e 47 40, hops := pkt.hops - 1 }⟩
          { s with mcast := s.mcast ++ [m] }.sendPacket p chanData) s)

/-- TDT_SET: Loads a tensor descriptor entry, deriving its scale if asked. (R205) -/
def execTdtSet (d : BitVec 6) (a : BitVec 6) (n : BitVec 7) (s : State) : Out State :=
  issue (.tdtSet d a n) s (doTdtSet d.toNat a.toNat n.toNat)

/-- TDT_GET: Reads one 64-bit word of a descriptor entry. (R205) -/
def execTdtGet (d : BitVec 6) (w : BitVec 3) (n : BitVec 7) (s : State) : Out State :=
  issue (.tdtGet d w n) s (doTdtGet d.toNat w.toNat n.toNat)

/-- TDT_DROP: Invalidates a descriptor entry. (R205) -/
def execTdtDrop (n : BitVec 7) (s : State) : Out State :=
  issue (.tdtDrop n) s (fun t => .ok (t.setTdt n.toNat none))

/-- TREE_SET: Writes a carillon tree entry of a port. (R211) -/
def execTreeSet (d : BitVec 6) (a : BitVec 6) (n : BitVec 8) (s : State) : Out State :=
  issue (.treeSet d a n) s (doTreeSet d.toNat a.toNat n.toNat)

end Sys2Proof.Machine
end

