-- ==== Sys2Proof/Machine/Copy.lean ====
section
/-! DEFINITION. Copies and the accesses of the package's engines on behalf of a context (spec 14 R243-R246, 15 R263). -/

namespace Sys2Proof.Machine

/-! ## Accesses of an engine (09 R147, 10 R162, R168) -/

/-- What became of an access of an engine, with the state after it. -/
inductive Eng (α : Type)
  | ok (x : α) (s : State)
  /-- A cause that ends the command, with the address of R329. -/
  | err (s : State) (cause addr : Nat)
  /-- Translation did not end in an address: the GVA, the address of R329 and the access. -/
  | miss (s : State) (m : Miss) (gva addr : Nat) (acc : Access)
  /-- It waits at the serialisation point. -/
  | wait (s : State)

/-- One access after another. -/
def Eng.bind {α β : Type} (r : Eng α) (k : α → State → Eng β) : Eng β :=
  match r with
  | .ok x s => k x s
  | .err s c a => .err s c a
  | .miss s m g a acc => .miss s m g a acc
  | .wait s => .wait s

/-- What became of an access whose failure is to be compared with others: 0 for a fabric address and 1 for a GVA, and the address;
none for one that has not failed (16 R287, 23 R395). -/
def Eng.key {α : Type} (r : Eng α) : Option (Nat × Nat) :=
  match r with
  | .err _ _ a => some (0, a)
  | .miss _ (.far _) _ a _ => some (0, a)
  | .miss _ (.fault _) _ a _ => some (1, a)
  | _ => none

/-- A failure, with the state that stands now. -/
def Eng.failAt {α β : Type} (r : Eng α) (t : State) : Eng β :=
  match r with
  | .err _ c a => .err t c a
  | .miss _ m g a acc => .miss t m g a acc
  | _ => .wait t

/-- The accesses of one step of a command, of which each is made whether or not another fails: of those that fail the one at the lowest
fabric address is reported, one that has only a GVA after those (23 R395; log entry 11). -/
def Eng.both {α β : Type} (r : Eng α) (k : State → Eng β) : Eng (α × β) :=
  match r with
  | .wait s => .wait s
  | .ok x s => (k s).bind (fun y t => .ok (x, y) t)
  | .err s _ _ | .miss s _ _ _ _ =>
    match k s with
    | .wait t => .wait t
    | .ok _ t => r.failAt t
    | .err t c a => match r.key with
      | some (n, b) => if n = 0 ∧ b ≤ a then r.failAt t else .err t c a
      | none => .err t c a
    | .miss t m g a acc => match r.key, (Eng.miss t m g a acc : Eng β).key with
      | some (n, b), some (n', a') => if n < n' ∨ n = n' ∧ b ≤ a' then r.failAt t else .miss t m g a acc
      | _, _ => .miss t m g a acc

/-- What an engine acts for: context, core, level, the name of its command, the floor of its reads, whether they are acquires
that only a serialisation point serves (10 R168, 15 R263), and the class of its accesses (13 R224). -/
structure Agent where
  c     : Ctx
  core  : Nat
  pl    : Nat
  id    : Nat
  floor : Nat
  prim  : Bool
  cls   : Nat
  deriving DecidableEq, Repr

/-- Translation for an engine's access, which goes where those of the issuing group's core go, through its slice's translation cache and
its die's router, not those of the engine's die: the model's choice (log entry 12). The address of a `far` leaf is the fabric address it gave (16 R287). -/
def State.engXlate (s : State) (g : Agent) (gva : Nat) (acc : Access) : Eng Nat :=
  match s.translate g.c g.core gva acc g.pl with
  | (.fault f, t) => .miss t (.fault f) gva (lineBase gva) acc
  | (.far i, t) => .miss t (.far i) gva (match s.walkBoth g.c (dieOf g.core) gva none g.pl with
    | .ok x => lineBase x.fa
    | _ => lineBase gva) acc
  | (.ok x, t) => .ok x.fa t

/-- Bytes of one line read at the holder that serves them (10 R162, R168, R170). Their stamp raises no floor of the group, which takes
the WCTs of a command's writes when it ends: the model's choice (log entry 12). -/
def State.engLoad (s : State) (g : Agent) (gva n : Nat) : Eng (List Byte) :=
  (s.engXlate g gva .read).bind (fun fa t =>
    match t.readLine ⟨g.core, g.c.num, g.c.vdid, g.c.world, gva, fa, g.floor, g.cls, false, g.prim, true, none⟩ with
    | .bad cause a => .err (if cause = 16 then t.poisonBad a else t) cause (lineBase a)
    | .wait u => .wait u
    | .got u bs _ => .ok ((bs.drop (fa % 64)).take n) u)

/-- Bytes of one line leave for their primary, through the router of the issuing group's core (log entry 12). -/
def State.engStore (s : State) (g : Agent) (origin : Origin) (gva : Nat) (k : WKind) (acc : Access) (needs : Needs) : Eng Unit :=
  (s.engXlate g gva acc).bind (fun fa t =>
    match t.routeWrite (t.dieRouter g.core) fa [] with
    | none => .err t 13 (lineBase fa)
    | some h =>
      if !t.worldOk h.holder fa g.c.world then .err t 15 (lineBase fa)
      else if needs.any (fun b => !h.cap.getLsbD b) then .err t 14 (lineBase fa)
      else
        let (id, t) := t.fresh
        let w : WriteReq := ⟨id, origin, g.core, g.c.world, g.c.vdid, g.c.num, gva, fa, g.cls, k, h.holder, 0, [], none, .travel,
          [], 0, 0, 0, [], 0, true, false, none, [], none⟩
        .ok () (t.sendWrite w))

/-- A fill write for the holder that is filling the prefix, with the stamp that the line has at its primary (10 R173, 15 R254). -/
def State.engFill (s : State) (g : Agent) (gva : Nat) (bs : List Byte) : Eng Unit :=
  (s.engXlate g gva .write).bind (fun fa t =>
    match (t.routeEntry (t.dieRouter g.core) fa).bind (fun e => (e.holders.find? (fun h => h.role == Role.filling)).map
        (fun h => (h, e.pre))) with
    | none => .err t 13 (lineBase fa)
    | some (h, pre) =>
      let stamp := ((t.home fa).map (fun p => (t.lineAt p.holder fa).wct)).getD 0
      let (id, t) := t.fresh
      let f : FillWrite := ⟨id, pre, h.holder, fa, bs, g.id, stamp⟩
      .ok () ({ t with fills := t.fills ++ [f] }.sendTo (t.dieRouter g.core) fa h.holder chanData))

/-! ## The pieces of a copy -/

/-- One piece of a copy: source address or none for zeros, destination address, length, offset in the command. -/
structure Piece where
  src : Option Nat
  dst : Nat
  len : Nat
  off : Nat
  deriving DecidableEq, Repr

/-- Pieces of a byte copy: each lies in one line on both sides. -/
def bytePieces (dst src : Nat) : Nat → Nat → Nat → List Piece
  | 0, _, _ => []
  | fuel + 1, off, len =>
    if len ≤ off then []
    else
      let n := min (len - off) (min (64 - (src + off) % 64) (64 - (dst + off) % 64))
      ⟨some ((src + off) % 2 ^ 64), (dst + off) % 2 ^ 64, n, off⟩ :: bytePieces dst src fuel (off + n) len

/-- The address of an element (quad for io4) of a descriptor (12 R203). -/
def tdAddr (e : BitVec 512) (i0 i1 : Nat) : Nat :=
  let f := tdFmt e
  (tdBase e + i1 * tdStride e + (if f = 6 then i0 / 4 * 2 else i0 * tdSize f)) % 2 ^ 64

/-- Pieces of a tensor copy, elements (quads for io4) in ascending order (R245). -/
def tensorPieces (dd ds : BitVec 512) (d0 d1 s0 s1 : Nat) : List Piece :=
  let f := tdFmt ds
  let step := if f = 6 then 4 else 1
  let n := if f = 6 then 2 else tdSize f
  let w := tdTile ds 0 / step
  (List.range (tdTile ds 1)).flatMap (fun j1 => (List.range w).filterMap (fun k =>
    let j0 := k * step
    if d0 + j0 < tdExt dd 0 ∧ d1 + j1 < tdExt dd 1 then
      let src := if s0 + j0 < tdExt ds 0 ∧ s1 + j1 < tdExt ds 1 then some (tdAddr ds (s0 + j0) (s1 + j1)) else none
      some ⟨src, tdAddr dd (d0 + j0) (d1 + j1), n, (j1 * w + k) * n⟩
    else none))

def CopyCmd.pieces (c : CopyCmd) : List Piece :=
  match c.kind with
  | .bytes dst src len _ _ _ => bytePieces dst src len 0 len
  | .tensor dd ds d0 d1 s0 s1 => tensorPieces dd ds d0 d1 s0 s1

/-- The region of a copy's team. -/
def State.teamRegion (s : State) (core team : Nat) : Option Region :=
  s.scratch.find? (fun r => r.core == core && r.launch == team)

/-- Replaces a region. -/
def State.putRegion (s : State) (r : Region) : State :=
  { s with scratch := s.scratch.map (fun (x : Region) => if x.core == r.core && x.launch == r.launch then r else x) }

/-- Bytes of the region of a copy's team; a word with an uncorrectable error ends the command, and is poison to later readers
(13 R229). -/
def State.scratchLoad (s : State) (c : CopyCmd) (a n : Nat) : Eng (List Byte) :=
  match s.teamRegion c.core c.team with
  | none => .ok (List.replicate n 0) s
  | some r =>
    let hit := fun (b : Nat) => decide (a / 4 ≤ b / 4) && decide (b / 4 ≤ (a + n - 1) / 4)
    if r.poisoned.any hit then .err s 15 a
    else if r.bad.any hit then .err (s.putRegion { r with poisoned := r.poisoned ++ r.bad.filter hit }) 16 a
    else .ok (Memory.getN r.mem a n) s

/-- Bytes go to the region of a copy's team; a word written whole is good again. -/
def State.scratchStore (s : State) (c : CopyCmd) (a : Nat) (bs : List Byte) : Eng Unit :=
  match s.teamRegion c.core c.team with
  | none => .ok () s
  | some r =>
    let keep := fun (b : Nat) => !(decide (a ≤ b / 4 * 4) && decide (b / 4 * 4 + 4 ≤ a + bs.length))
    let r := r.write s.cycle a bs
    .ok () (s.putRegion { r with bad := r.bad.filter keep, poisoned := r.poisoned.filter keep })

/-- One piece is moved. -/
def State.movePiece (s : State) (g : Agent) (c : CopyCmd) (p : Piece) : Eng Unit :=
  let sp := match c.kind with | .bytes _ _ _ d r f => (d, r, f) | _ => (false, false, false)
  let got : Eng (List Byte) := match p.src with
    | none => .ok (List.replicate p.len 0) s
    | some a => if sp.2.1 then s.scratchLoad c a p.len else s.engLoad g a p.len
  got.bind (fun bs t =>
    if sp.1 then t.scratchStore c p.dst bs
    else if sp.2.2 then t.engFill g p.dst bs
    else t.engStore g (.copy c.id p.off) p.dst (.bytes bs) .write [])

/-- What an engine command acts for: its group's floor as it stands now, the acquire of its hint, and its class. Its accesses are
checked at the level its group has now, at PL1 where the group has gone: the model's choice (log entry 12). -/
def State.agentFor (s : State) (ctx core uid id : Nat) (scp : Scp) (cls : Nat) : Option Agent :=
  (s.ctx? ctx).map (fun c => ⟨c, core, ((s.anyGroup uid).map (fun g => g.trap.pl)).getD 1, id,
    ((s.anyGroup uid).map (fun g => g.acc.rfloor.toNat)).getD 0, scp.acq && decide (3 ≤ scp.scope), cls⟩)

/-- A page or block that a command waits for is reported, without a missing-page count (R246, 19 R330, 18 R319). -/
def State.engMiss (s : State) (g : Agent) (m : Miss) (gva : Nat) (acc : Access) : State :=
  match m with
  | .fault f =>
    let id := s.nextId
    (s.newFault g.c g.id false f gva acc 0).offerFault id
  | .far i =>
    let (id, s) := s.fresh
    { s with tier := { s.tier with offered := s.tier.offered ++ [⟨id, g.id, g.c.vdid, g.c.num, i, gva, acc⟩] } }

/-- A command waits for a page or block that it has reported. -/
def State.engWaits (s : State) (id : Nat) : Bool :=
  s.faults.any (fun f => f.uid == id && !f.counted) || s.tier.offered.any (fun w => w.uid == id) ||
    s.tier.cmds.any (fun c => c.waiters.any (fun w => w.uid == id)) || s.tier.moves.any (fun m => m.cmd.waiters.any (fun w => w.uid == id))

def State.modCopy (s : State) (id : Nat) (f : CopyCmd → CopyCmd) : State :=
  { s with copies := s.copies.map (fun (c : CopyCmd) => if c.id == id then f c else c) }

/-- The earlier operations that a copy or matrix command waits for have completed (R244, 16 R283). -/
def State.afterDone (s : State) (uid : Nat) (after : List Nat) : Bool :=
  match s.anyGroup uid with
  | none => true
  | some g => g.acc.ops.all (fun o => !after.contains o.id)

/-- The pieces from the `n`th on are moved in ascending order, up to one that fails, which ends the command, or one that waits: for
its line, or for a page or block that it has reported (R246). -/
def State.movePieces (s : State) (g : Agent) (c : CopyCmd) : List Piece → Nat → State
  | [], n => s.modCopy c.id (fun c => { c with moved := some n, started := true })
  | p :: ps, n =>
    let stop := fun (t : State) (cause addr : Nat) => t.modCopy c.id (fun c => { c with
      moved := some n, started := true, err := if c.err.isNone then some (cause, p.off, addr) else c.err })
    let pause := fun (t : State) => t.modCopy c.id (fun c => { c with moved := some n })
    match s.movePiece g c p with
    | .ok _ t => t.movePieces g c ps (n + 1)
    | .err t x a => stop t x a
    | .miss t (.fault f) gva a acc => if f.stage = 2 then (pause t).engMiss g (.fault f) gva acc else stop t f.cause a
    | .miss t (.far i) gva _ acc => (pause t).engMiss g (.far i) gva acc
    | .wait t => pause t

/-- An earlier command of the same engine has not moved all it has to (17 R307). -/
def State.engineBusy (s : State) (c : CopyCmd) : Bool :=
  s.copies.any (fun x => x.engine == c.engine && !x.started && decide (x.id < c.id))

/-- COPY_START: a copy engine starts its first command once the group's earlier accesses complete, with the group's floor as it then
stands, and moves its bytes; what keeps a piece waiting keeps the command waiting there. (R244, R246, 17 R307; log entry 12) -/
def execCopyStart (n : Nat) (s : State) : Out State :=
  .next (match s.copies.find? (fun c => c.id == n) with
    | none => s
    | some c =>
      if c.started || s.engineBusy c || !s.afterDone c.uid c.after || s.engWaits n then s
      else if c.err.isSome then s.modCopy n (fun c => { c with started := true })
      else match s.agentFor c.ctx c.core c.uid n c.scp c.cls with
        | none => s
        | some g =>
          let floor := if c.moved.isNone then g.floor else c.floor
          (s.modCopy n (fun c => { c with floor := floor })).movePieces { g with floor := floor } c
            (c.pieces.drop (c.moved.getD 0)) (c.moved.getD 0))

/-- A copy has nothing outstanding, no earlier copy of its group is left, and its release has passed (R232, R244). -/
def State.copyDone (s : State) (c : CopyCmd) : Bool :=
  c.started && s.writes.all (fun w => match w.origin with | .copy n _ => n != c.id | _ => true) && s.fills.all (fun f => f.move != c.id) &&
    s.copies.all (fun x => !(x.uid == c.uid && x.node.isNone && c.node.isNone && decide (x.id < c.id))) &&
    (!c.scp.rel || decide (c.wct + epsilon c.scp.scope < s.pace))

/-- A copy ends: its group's count falls and the WCTs enter `wctmax`; a copy node's record learns the time (R244). -/
def State.endCopy (s : State) (c : CopyCmd) : State :=
  let s := { s with copies := s.copies.filter (fun (x : CopyCmd) => x.id != c.id) }
  let s := if c.node.isNone then s.freeRegion c.core c.team else s
  match c.node with
  | some r => s.modRec r (fun r => { r with nodeDone := true, wct := max r.wct c.wct })
  | none => s.onGroup c.uid (fun g => { g with acc := { g.acc with
      cp := g.acc.cp - 1
      rfloor := BitVec.ofNat 64 (max g.acc.rfloor.toNat c.wct)
      wctmax := BitVec.ofNat 64 (max g.acc.wctmax.toNat c.wct) } })

/-- COPY_COMPLETE: a copy command's last write returns its WCT. (R244) -/
def execCopyComplete (n : Nat) (s : State) : Out State :=
  .next (match s.copies.find? (fun c => c.id == n) with
    | some c => if c.err.isNone && s.copyDone c then s.endCopy c else s
    | none => s)

/-- COPY_FAULT: a copy access fails and the command ends, leaving a deferred COPY_FAULT; a copy node's record ends with
status 9 (R246, 17 R301). -/
def execCopyFault (n : Nat) (s : State) : Out State :=
  .next (match s.copies.find? (fun c => c.id == n) with
    | some c => (match c.err with
      | some e =>
        if s.copyDone c then
          let s := s.endCopy c
          match c.node with
          | some r => s.modRec r (fun r => if r.st == .refused then r else { r with status := 9 })
          | none =>
            let n := ((s.anyGroup c.uid).map (fun g => g.trap.deferred.length)).getD 0
            (s.onGroup c.uid (fun g => { g with trap := { g.trap with deferred := g.trap.deferred ++
              [deferredOf .copy c.id 24 e.1 e.2.2 c.pc e.2.1] } })).sink c.uid n
        else s
      | none => s)
    | none => s)

/-! ## Issue (R243-R245) -/

/-- The copy engines of a partition that are in service (01 R24, 11 R199). -/
def State.engines (s : State) (part : Nat) : List Nat :=
  (partEngines ((s.pkg.partDesc[part]?).getD 0)).filter (fun e => s.pkg.dieOff.toNat / 2 ^ (e / 4) % 2 == 0)

/-- The engine that takes a partition's next copy: the one with the fewest commands, lowest first; none where all have 32 (17 R294,
R307). -/
def State.freeEngine (s : State) (part : Nat) : Option Nat :=
  let load := fun (e : Nat) => (s.copies.filter (fun c => c.engine == e)).length
  match s.engines part with
  | [] => none
  | e :: es =>
    let b := es.foldl (fun b x => if load x < load b then x else b) e
    if load b < 32 then some b else none

/-- The class of a copy or matrix command: its RET hint, else default (13 R224; log entry 12). -/
def State.retCls (s : State) : Nat := (s.hints.ret.getD 1).toNat

/-- A copy of length 0, which completes as it issues (R244). -/
def CKind.empty (k : CKind) : Bool := match k with | .bytes _ _ len _ _ _ => decide (len = 0) | .tensor _ _ _ _ _ _ => false

/-- A copy joins an engine of its partition; one of length 0 completes at once; where every engine is full it waits for one (R244, 17 R307). -/
def startCopy (kind : CKind) (s : State) : Act :=
  if 62 ≤ s.cur.acc.cp then .notReady
  else if s.engines s.myPart = [] then .trap 23 0 0
  else if kind.empty then .ok s
  else match s.freeEngine s.myPart with
    | none => .notReady
    | some eng =>
      let (id, s) := s.fresh
      let p := s.cur.place
      let after := (s.cur.acc.ops.map (fun o => o.id))
      let c : CopyCmd := ⟨id, eng, p.uid, none, p.ctx, p.core, p.launch, id, s.bundlePc, kind, s.scp, s.retCls, 0, none, false, after, 0, none⟩
      .ok ({ s with copies := s.copies ++ [c] }.modAcc (fun a => { a with cp := a.cp + 1 }))

/-- `cp` and `cp.fill`: scratchpad sides are range-checked (13 R215). -/
def doCp (a b c : Nat) (dsp ssp fill : Bool) (s : State) : Act :=
  let dst := (s.sreg a).toNat
  let src := (s.sreg b).toNat
  let len := (s.sreg c).toNat % 2 ^ 32
  let size := (s.region.map Region.size).getD 0
  if !s.split.acq.isEmpty then .waiting .acq
  else if dsp && decide (0 < len) && decide (size < dst + len) then .trap 12 dst 0
  else if ssp && decide (0 < len) && decide (size < src + len) then .trap 12 src 0
  else startCopy (.bytes dst src len dsp ssp fill) s

/-- `cp.t` (R245). -/
def doCpT (td ts c : Nat) (s : State) : Act :=
  if !s.split.acq.isEmpty then .waiting .acq
  else match s.tdt? td, s.tdt? ts with
  | some dd, some ds =>
    let o := (s.sreg c).toNat
    let p := (s.sreg (c + 1)).toNat
    let four := decide (tdFmt ds = 6) && (decide (o % 2 ^ 32 % 4 ≠ 0) || decide (p % 2 ^ 32 % 4 ≠ 0) ||
      decide (tdTile ds 0 % 4 ≠ 0))
    if tdFmt dd ≠ tdFmt ds ∨ four = true then .trap 19 0 0
    else startCopy (.tensor dd ds (p % 2 ^ 32) (p / 2 ^ 32) (o % 2 ^ 32) (o / 2 ^ 32)) s
  | _, _ => .trap 19 0 0


/-- CP: Hands a byte copy to a copy engine of the partition. (R244) -/
def execCp (a : BitVec 6) (b : BitVec 6) (c : BitVec 6) (p : BitVec 1) (q : BitVec 1) (s : State) : Out State :=
  issue (.cp a b c p q) s (doCp a.toNat b.toNat c.toNat (p == 1) (q == 1) false)

/-- CP_FILL: Privileged copy whose writes are fill writes. (R243) -/
def execCpFill (a : BitVec 6) (b : BitVec 6) (c : BitVec 6) (s : State) : Out State :=
  issue (.cpFill a b c) s (doCp a.toNat b.toNat c.toNat false false true)

/-- CP_T: Copies one tile between two tensor descriptors. (R245) -/
def execCpT (t : BitVec 7) (bs : BitVec 7) (c : BitVec 6) (s : State) : Out State :=
  issue (.cpT t bs c) s (fun u => doCpT t.toNat bs.toNat c.toNat u)

end Sys2Proof.Machine
end

