-- ==== Sys2Proof/Machine/Matrix.lean ====
section
/-! DEFINITION. The matrix unit: claims, the queue and its commands, steps, drains, faults and batches (spec 16 R267-R293,
03 R52, R53, R62). -/

namespace Sys2Proof.Machine

/-! ## Claims (R269-R271) -/

def State.tile? (s : State) (core i : Nat) : Option TileSt := s.tiles.find? (fun t => t.core == core && t.idx == i)
def State.slot? (s : State) (core i : Nat) : Option SlotSt := s.oslots.find? (fun t => t.core == core && t.idx == i)

def State.setTile (s : State) (t : TileSt) : State :=
  { s with tiles := t :: s.tiles.filter (fun (x : TileSt) => !(x.core == t.core && x.idx == t.idx)) }
def State.setSlot (s : State) (t : SlotSt) : State :=
  { s with oslots := t :: s.oslots.filter (fun (x : SlotSt) => !(x.core == t.core && x.idx == t.idx)) }

/-- The numbers set in a mask. -/
def maskNums {w : Nat} (m : BitVec w) : List Nat := (List.range w).filter (fun i => m.getLsbD i)

/-- `zclaim` (R269). -/
def doZclaim (d : Nat) (m : BitVec 12) (s : State) : Act :=
  let p := s.cur.place
  let busy := (maskNums m).any (fun i => match s.tile? p.core i with | some t => t.owner != p.uid | none => false)
  if busy then .ok (s.setSreg d 2)
  else
    let new := (maskNums m).filter (fun i => (s.tile? p.core i).isNone)
    let s := new.foldl (fun (s : State) i => s.setTile ⟨p.core, i, p.uid, s.myWorld, false, [], []⟩) s
    .ok ((s.modMat (fun x => { x with tiles := x.tiles ||| m })).setSreg d 0)

/-- `oclaim` (R269). -/
def doOclaim (d : Nat) (m : BitVec 8) (s : State) : Act :=
  let p := s.cur.place
  let busy := (maskNums m).any (fun i => match s.slot? p.core i with | some t => t.owner != p.uid | none => false)
  if busy then .ok (s.setSreg d 2)
  else
    let new := (maskNums m).filter (fun i => (s.slot? p.core i).isNone)
    let s := new.foldl (fun (s : State) i => s.setSlot ⟨p.core, i, p.uid, s.myWorld, false, 255, [], [], []⟩) s
    .ok ((s.modMat (fun x => { x with slots := x.slots ||| m })).setSreg d 0)

/-- The tiles and slots a command names. -/
def MKind.tiles : MKind → Nat
  | .zzero m => m
  | .oload _ _ _ _ => 0
  | .mmul z _ _ _ _ => 2 ^ z
  | .mloop z _ _ _ _ _ _ _ _ => 2 ^ z
  | .mdrain z _ _ _ _ _ _ => 2 ^ z

def MKind.slots : MKind → Nat
  | .oload o _ _ _ => 2 ^ o
  | .mmul _ a b _ _ => 2 ^ a ||| 2 ^ b
  | .mloop _ p _ _ _ _ _ _ _ => 2 ^ p + 2 ^ (p + 1)
  | _ => 0

/-- The commands of a group that have not completed: queued, released and held (R270). -/
def State.cmdsOf (s : State) (g : Group) : List MCmd :=
  s.mqueue.filter (fun c => c.uid == g.place.uid) ++ g.mat.released ++ g.mat.held

/-- No command of the group names an item of a mask. -/
def State.unnamed (s : State) (g : Group) (tiles slots : Nat) : Bool :=
  (s.cmdsOf g).all (fun c => decide (c.kind.tiles &&& tiles = 0) && decide (c.kind.slots &&& slots = 0))

/-- Tiles and slots of a group are released: cleared, untagged, and free once their clearing completes (R270). -/
def State.freeItems (s : State) (uid core tiles slots : Nat) : State :=
  let s := { s with
    tiles := s.tiles.map (fun (t : TileSt) => if t.core == core && t.owner == uid && decide (tiles / 2 ^ t.idx % 2 = 1) then
      { t with owner := 0, world := 0, clearing := true, elems := [], bad := [] } else t),
    oslots := s.oslots.map (fun (t : SlotSt) => if t.core == core && t.owner == uid && decide (slots / 2 ^ t.idx % 2 = 1) then
      { t with owner := 0, world := 0, clearing := true, tag := 255, elems := [], scales := [], bad := [] } else t) }
  s.onGroup uid (fun g => { g with mat := { g.mat with
    tiles := g.mat.tiles &&& ~~~(BitVec.ofNat 12 tiles), slots := g.mat.slots &&& ~~~(BitVec.ofNat 8 slots) } })

/-- `zrel` and `orel` (R270): `held` releases are ignored for items the group does not hold. -/
def doRel (tiles slots : Nat) (w : Wait) (s : State) : Act :=
  if s.unnamed s.cur tiles slots then .ok (s.freeItems s.cur.place.uid s.cur.place.core tiles slots) else .hold s w

/-- ITEM_CLEAR_COMPLETE: a released tile or operand slot finishes clearing to zero and becomes free to claim. (R270) -/
def execItemClearComplete (core : Nat) (isTile : Bool) (index : Nat) (s : State) : Out State :=
  .next (if isTile then
      { s with tiles := s.tiles.filter (fun (t : TileSt) => !(t.core == core && t.idx == index && t.clearing)) }
    else { s with oslots := s.oslots.filter (fun (t : SlotSt) => !(t.core == core && t.idx == index && t.clearing)) })

/-! ## Elements (R272, 03 R52, R53) -/

/-- The number format of a tag; io4 is decoded from its quad. -/
def tagFmt (t : Nat) : Fmt := match t with | 1 => fmtF16 | 2 => fmtBf16 | 3 => fmtE4m3 | _ => fmtE5m2

/-- A stored element decoded under its scale code; an io4 element is stored as its quad and its position (R52, R53). -/
def decElem (tag raw code : Nat) : FVal × FpFlags :=
  if tag = 6 then
    let r := io4Raw (raw % 65536)
    let v := scaled code ((r.1[raw / 65536]?).getD (.fin false 0 0))
    (v, (r.2 &&& flIo4Badesc) ||| flagIf (fIsNan v) flNanSeen)
  else
    let v := fmtDecode (tagFmt tag) raw
    let w := scaled code v
    (w, nanFlags v ||| flagIf (fIsNan w) flNanSeen)

/-- An element of a slot as a step that reads it under a tag has it: +0 with `merr` where its word holds an uncorrectable error
(R290). -/
def SlotSt.val (t : SlotSt) (tag r k : Nat) : FVal × FpFlags :=
  let i := 128 * r + k
  if t.bad.contains i then (.fin false 0 0, flMerr)
  else decElem tag (((t.elems.find? (fun e => e.1 == i)).map Prod.snd).getD 0)
    (((t.scales.find? (fun e => e.1 == 4 * r + k / 32)).map Prod.snd).getD 127)

/-- An element of a tile. -/
def TileSt.val (t : TileSt) (m n : Nat) : Word := ((t.elems.find? (fun e => e.1 == 128 * m + n)).map Prod.snd).getD 0

/-- One accumulator element through the four blocks of a step: the exact sum of a block's products, which the accumulator is
then added to (R62, R279). A block sum that an invalid product or sum makes NaN sets invalid and, being no operand that was read as NaN,
not nan_seen: the model's choice (log entry 11). -/
def stepElem (a : Word) (x y : Nat → FVal × FpFlags) : Word × FpFlags :=
  (List.range 4).foldl (fun (acc : Word × FpFlags) b =>
    let ks := (List.range 32).map (fun i => 32 * b + i)
    let ps := ks.map (fun k => fMul (x k).1 (y k).1)
    let fl := ks.foldl (fun f k => f ||| (x k).2 ||| (y k).2) (0 : FpFlags)
    let flp := ps.foldl (fun f p => f ||| p.2) (0 : FpFlags)
    let d := fmtDecode fmtF32 acc.1.toNat
    let sum := fSum false (ps.map Prod.fst)
    let r := wr32 rndPlain (fl ||| flp ||| sum.2 ||| nanFlags d) (fSum false [sum.1, d])
    (r.1, acc.2 ||| r.2)) (a, 0)

/-- One step of 128 × 128 × 128, its slots read under two tags (R279). -/
def matStep (t : TileSt) (a b : SlotSt) (ta tb : Nat) : TileSt × FpFlags :=
  let cells := (List.range 16384).map (fun i =>
    let m := i / 128
    let n := i % 128
    let bad := t.bad.contains i
    let r := stepElem (if bad then 0 else t.val m n) (a.val ta m) (b.val tb n)
    (i, r.1, r.2 ||| flagIf bad flMerr))
  ({ t with elems := (cells.filter (fun c => c.2.1 != 0)).map (fun c => (c.1, c.2.1)), bad := [] },
    cells.foldl (fun f c => f ||| c.2.2) 0)

/-! ## Filling a slot (R272) -/

/-- Tensor indices of a slot element (r, k) at an origin. -/
def slotIdx (e : BitVec 512) (o0 o1 r k : Nat) : Nat × Nat :=
  if tdKdim e = 0 then (o0 + k, o1 + r) else (o0 + r, o1 + k)

def inTensor (e : BitVec 512) (i : Nat × Nat) : Bool := decide (i.1 < tdExt e 0) && decide (i.2 < tdExt e 1)

/-- The scale code of a tensor element: none where it stands in memory, with its address (12 R203). -/
def scaleAt (e : BitVec 512) (i : Nat × Nat) : Nat ⊕ Nat :=
  match tdSmode e with
  | 0 => .inl 127
  | 2 => .inl (tdf e 479 472)
  | _ =>
    let k := if tdKdim e = 0 then i.1 else i.2
    let m := if tdKdim e = 0 then i.2 else i.1
    .inr ((tdf e 319 256 + m * tdf e 415 384 + k / 32) % 2 ^ 64)

/-- A run of engine reads: keys with addresses and lengths, to keys with values, the last first. -/
def State.gather (s : State) (g : Agent) : List (Nat × Nat × Nat) → List (Nat × Nat) → Eng (List (Nat × Nat))
  | [], acc => .ok acc s
  | (key, a, n) :: rest, acc => ((s.engLoad g a n).both (fun t => t.gather g rest [])).bind (fun r t =>
      .ok (r.2 ++ (key, ofLeBytes r.1) :: acc) t)

/-- Fills a slot from a descriptor at an origin (R272); its tag was set at issue (R273). -/
def State.fillSlot (s : State) (g : Agent) (t : SlotSt) (e : BitVec 512) (o0 o1 : Nat) : Eng SlotSt :=
  let rows := if tdKdim e = 0 then tdTile e 1 else tdTile e 0
  let n := if tdFmt e = 6 then 2 else tdSize (tdFmt e)
  let cells := (List.range (128 * rows)).filter (fun i => inTensor e (slotIdx e o0 o1 (i / 128) (i % 128)))
  let reads := cells.map (fun i => let x := slotIdx e o0 o1 (i / 128) (i % 128); (i, tdAddr e x.1 x.2, n))
  let blocks := (List.range (4 * rows)).filter (fun b => inTensor e (slotIdx e o0 o1 (b / 4) (32 * (b % 4))))
  let codes := blocks.map (fun b => (b, scaleAt e (slotIdx e o0 o1 (b / 4) (32 * (b % 4)))))
  let known := codes.filterMap (fun c => match c.2 with | .inl v => some (c.1, v) | .inr _ => none)
  let toRead := codes.filterMap (fun c => match c.2 with | .inl _ => none | .inr a => some (c.1, a, 1))
  ((s.gather g reads []).both (fun u => u.gather g toRead [])).bind (fun r w =>
    let raw := fun (i v : Nat) => if tdFmt e = 6 then v + 65536 * ((slotIdx e o0 o1 (i / 128) (i % 128)).1 % 4) else v
    let elems := (r.1.filter (fun v => v.2 != 0)).map (fun v => (v.1, raw v.1 v.2))
    .ok { t with elems := elems, scales := (known ++ r.2).filter (fun c => c.2 != 127), bad := [] } w)

/-! ## Running a command (R279-R284) -/

/-- What a missing page is reported with: what was met, the GVA and the access. -/
abbrev MissAt := Miss × Nat × Access

/-- What became of the command at the head of a queue. -/
inductive MRes
  | done (s : State) (flags : FpFlags)
  /-- Its writes have been sent. -/
  | sent (s : State) (flags : FpFlags)
  /-- It waits after `progress` steps. -/
  | part (s : State) (progress : Nat) (flags : FpFlags)
  | fault (s : State) (cause progress addr : Nat) (m : Option MissAt) (flags : FpFlags)

/-- The inner cause of a failing access (R284, R286): a stage-2 fault is no other cause to the guest (09 R152; log entry 11). -/
def missCause (m : Miss) : Nat := match m with | .fault f => if f.stage = 2 then 8 else f.cause | .far _ => 8

/-- What becomes of a command at step `k` whose access ended so. -/
def Eng.mres {α : Type} (r : Eng α) (k : Nat) (fl : FpFlags) (go : α → State → MRes) : MRes :=
  match r with
  | .ok x s => go x s
  | .err s c a => .fault s c k a none fl
  | .miss s m gva a acc => .fault s (missCause m) k a (some (m, gva, acc)) fl
  | .wait s => .part s k fl

/-- The steps of an `mloop` from step `k` on, `n` of them left (R281). -/
def State.runLoop (s : State) (g : Agent) (z p : Nat) (da db : BitVec 512) (a0 a1 b0 b1 : Nat) : Nat → Nat → FpFlags → MRes
  | 0, _, fl => .done s fl
  | n + 1, k, fl =>
    match s.tile? g.core z, s.slot? g.core p, s.slot? g.core (p + 1) with
    | some t, some sa, some sb =>
      let adv := fun (e : BitVec 512) (o0 o1 : Nat) => if tdKdim e = 0 then (o0 + 128 * k, o1) else (o0, o1 + 128 * k)
      let oa := adv da a0 a1
      let ob := adv db b0 b1
      ((s.fillSlot g sa da oa.1 oa.2).both (fun u => u.fillSlot g sb db ob.1 ob.2)).mres k fl
        (fun tt v =>
          let r := matStep t tt.1 tt.2 (tdFmt da) (tdFmt db)
          let v := (((v.setSlot tt.1).setSlot tt.2).setTile r.1).count g.c.num 2 1
          v.runLoop g z p da db a0 a1 b0 b1 n (k + 1) (fl ||| r.2))
    | _, _, _ => .done s fl

/-- The settings of a drain's RND hint (R282). -/
def rndOfCode (p : BitVec 6) : Rnd :=
  ⟨(RMode.ofCode (p.toNat % 8)).getD .rne, decide (p.toNat / 8 % 2 = 1), (SatSel.ofCode (p.toNat / 16 % 4)).getD .dflt⟩

/-- The destination format of a drain; none for f32. -/
def drainFmt (f : Nat) : Option Fmt :=
  match f with | 1 => some fmtF16 | 2 => some fmtBf16 | 3 => some fmtE4m3 | 4 => some fmtE5m2 | _ => none

/-- What one element of a drain writes: its bits and flags, and the generator after it (R282). The flush of the RND hint acts on a drain
to f32 too: the model's choice (log entry 11). -/
def drainElem (f : Nat) (c : Rnd) (st : Word) (code : Nat) (z : Word) : Nat × FpFlags × Word :=
  let v := rd32 c z
  let r := roundElem ((drainFmt f).getD fmtF32) c st (if code = 255 then .nan true else fScale v (127 - (code : Int)))
  (r.1.1, r.1.2 ||| nanFlags v ||| flagIf (decide (code = 255)) flInvalid, r.2)

/-- The state of a drain as its elements go by. -/
structure DrainSt where
  s     : State
  sr    : List Word
  flags : FpFlags
  /-- Elements gone by. -/
  pos   : Nat
  /-- The failure of the first access that did not go: cause, address and report, or none where it waits. -/
  stop  : Option (Option (Nat × Nat × Option MissAt))

/-- An access of a drain that did not go stops it. -/
def DrainSt.after {α : Type} (d : DrainSt) (r : Eng α) (go : α → State → DrainSt) : DrainSt :=
  match r with
  | .ok x s => go x s
  | .err s k a => { d with s := s, stop := some (some (k, a, none)) }
  | .miss s m gva a acc => { d with s := s, stop := some (some (missCause m, a, some (m, gva, acc))) }
  | .wait s => { d with s := s, stop := some none }

/-- The drained value of an element, and whether it had an uncorrectable error (R290). -/
def TileSt.drained (t : Option TileSt) (i : Nat) : Word × Bool :=
  match t with
  | none => (0, false)
  | some t => if t.bad.contains i then (0, true) else (t.val (i / 128) (i % 128), false)

/-- The index that element (m, n) of a drain is written to, none where it is not written (R282). -/
def drainIdx (e : BitVec 512) (o0 o1 i : Nat) : Option (Nat × Nat) :=
  let m := i / 128
  let n := i % 128
  let x := if tdKdim e = 0 then (o0 + n, o1 + m) else (o0 + m, o1 + n)
  let tc := if tdKdim e = 0 then (n, m) else (m, n)
  if decide (tc.1 < tdTile e 0) && decide (tc.2 < tdTile e 1) && inTensor e x then some x else none

/-- One element of a drain, in ascending (m, n) order; those before `start` have been sent earlier (R282, R284). -/
def drainOne (g : Agent) (core id z start : Nat) (e : BitVec 512) (o0 o1 : Nat) (c : Rnd) (d : DrainSt) (i : Nat) : DrainSt :=
  if d.stop.isSome then d
  else
    let f := tdFmt e
    let st := (d.sr[i % 32]?).getD 0
    let sr' := if (match drainFmt f with | some fm => usesSr fm c | none => false) then d.sr.set (i % 32) (srStep st) else d.sr
    let gone := { d with sr := sr', pos := i + 1 }
    if i < start then gone
    else match drainIdx e o0 o1 i with
      | none => gone
      | some x =>
        let (zv, bad) := TileSt.drained (d.s.tile? core z) i
        let put := fun (s : State) (code : Nat) =>
          let r := drainElem f c st code zv
          d.after (s.engStore g (.matrix core id (i / 128)) (tdAddr e x.1 x.2) (.bytes (leBytes (tdSize f) r.1)) .write [])
            (fun _ u => { gone with s := u, flags := d.flags ||| r.2.1 ||| flagIf bad flMerr })
        match scaleAt e x with
        | .inl code => put d.s code
        | .inr a => d.after (d.s.engLoad g a 1) (fun bs u => put u (ofLeBytes bs))

/-- The position of a drain goes up. -/
def State.sentTo (s : State) (id pos : Nat) : State :=
  { s with mqueue := s.mqueue.map (fun (x : MCmd) => if x.id == id then { x with pos := pos } else x) }

/-- How a drain stands after its elements have gone by: an access that fails stops it, and it faults there once what was sent
before has been answered (R284). -/
def DrainSt.result (d : DrainSt) (c : MCmd) : MRes :=
  match d.stop with
  | none => .sent (d.s.sentTo c.id 16384) d.flags
  | some r =>
    if c.pos < d.pos then .sent (d.s.sentTo c.id d.pos) d.flags
    else match r with
      | none => .part d.s c.progress 0
      | some x => .fault d.s x.1 (d.pos / 128) x.2.1 x.2.2 0

/-- A drain sends its writes from its position on (R282). -/
def State.runDrain (s : State) (g : Agent) (c : MCmd) (z : Nat) (e : BitVec 512) (o0 o1 : Nat) (rnd : BitVec 6) (sr : List Word) : MRes :=
  ((List.range 16384).foldl (drainOne g c.core c.id z c.pos e o0 o1 (rndOfCode rnd)) ⟨s, sr, 0, c.pos, none⟩).result c

/-- The largest magnitude of the elements that a drain writes and the flags of finding it, none where it writes none (R282). -/
def State.drainMax (s : State) (core z : Nat) (e : BitVec 512) (o0 o1 : Nat) : Option (Word × FpFlags) :=
  let t := s.tile? core z
  (List.range 16384).foldl (fun m i => match drainIdx e o0 o1 i with
    | none => m
    | some _ =>
      let r := fMinMax32 true true ((m.map Prod.fst).getD 0) ((TileSt.drained t i).1 &&& 0x7FFFFFFF)
      some (r.1, (m.map Prod.snd).getD 0 ||| r.2)) none

/-- The amax atomic of a drain, after its last element write (R282). -/
def State.runAmax (s : State) (g : Agent) (c : MCmd) (z : Nat) (e : BitVec 512) (o0 o1 : Nat) : MRes :=
  match s.drainMax c.core z e o0 o1 with
  | none => .sent (s.sentTo c.id 16385) 0
  | some m =>
    let r := s.engStore g (.matrix c.core c.id 128) (tdf e 383 320) (.atomic 14 4 m.1.toNat 0) .atomic [3]
    match r with
    | .wait u => .part u c.progress 0
    | r => r.mres 128 0 (fun _ u => .sent (u.sentTo c.id 16385) m.2)

/-- The head command of a core's queue. -/
def State.headCmd (s : State) (core : Nat) : Option MCmd := s.mqueue.find? (fun c => c.core == core)

/-- The floor of a command's reads: its group's when its accesses begin, never below the one at its issue (10 R168, R283). -/
def MCmd.readFloor (c : MCmd) (now : Nat) : Nat := if c.begun then c.floor else max c.floor now

/-- A command's accesses begin. -/
def State.begin (s : State) (c : MCmd) (floor : Nat) : State :=
  { s with mqueue := s.mqueue.map (fun (x : MCmd) => if x.id == c.id then { x with begun := true, floor := floor } else x) }

/-- Runs the head command of a core's queue (R276, R283). -/
def State.runCmd (s : State) (c : MCmd) : MRes :=
  match s.agentFor c.ctx c.core c.uid c.id c.scp c.cls with
  | none => .done s 0
  | some g =>
    let floor := c.readFloor g.floor
    let g := { g with floor := floor }
    let begun := s.begin c floor
    match c.kind with
    | .zzero m =>
      .done { s with tiles := s.tiles.map (fun (t : TileSt) =>
        if t.core == c.core && decide (m / 2 ^ t.idx % 2 = 1) then { t with elems := [], bad := [] } else t) } 0
    | .mmul z a b ta tb =>
      (match s.tile? c.core z, s.slot? c.core a, s.slot? c.core b with
      | some t, some x, some y =>
        let r := matStep t x y ta tb
        .done ((s.setTile r.1).count c.ctx 2 1) r.2
      | _, _, _ => .done s 0)
    | .oload o e o0 o1 =>
      if !s.afterDone c.uid c.after then .part s c.progress 0
      else (match s.slot? c.core o with
        | none => .done s 0
        | some t => (begun.fillSlot g t e o0 o1).mres 0 0 (fun t u => .done (u.setSlot t) 0))
    | .mloop z p k da db a0 a1 b0 b1 =>
      if k = 0 then .done s 0
      else if !s.afterDone c.uid c.after then .part s c.progress 0
      else begun.runLoop g z p da db a0 a1 b0 b1 (k - c.progress) c.progress 0
    | .mdrain z e o0 o1 amax rnd sr =>
      if !s.afterDone c.uid c.after then .part s c.progress 0
      else if s.writes.any (fun w => match w.origin with | .matrix _ cmd _ => cmd == c.id | _ => false) then .part s c.progress 0
      else match c.err with
        | some x => .fault s x.2.1 x.1 x.2.2 none 0
        | none =>
          if c.pos < 16384 then begun.runDrain g c z e o0 o1 rnd sr
          else if amax && decide (c.pos = 16384) then begun.runAmax g c z e o0 o1
          else if c.scp.rel && decide (s.pace ≤ c.wct + epsilon c.scp.scope) then .part s c.progress 0
          else .done s 0

/-- Released commands enter their core's queue as entries free (R288). -/
def State.feed (s : State) (core : Nat) : Nat → State
  | 0 => s
  | n + 1 =>
    if 8 ≤ (s.mqueue.filter (fun c => c.core == core)).length then s
    else match s.groups.find? (fun g => g.place.core == core && !g.mat.released.isEmpty) with
      | none => s
      | some g => (match g.mat.released with
        | [] => s
        | c :: rest =>
          let s := s.onGroup g.place.uid (fun g => { g with mat := { g.mat with released := rest } })
          ({ s with mqueue := s.mqueue ++ [c] }).feed core n)

/-- The WCTs of writes that a group's commands have made reach the group (R278, 10 R168). -/
def Group.learn (g : Group) (wct : Nat) : Group :=
  { g with acc := { g.acc with
      wctmax := BitVec.ofNat 64 (max g.acc.wctmax.toNat wct)
      rfloor := BitVec.ofNat 64 (max g.acc.rfloor.toNat wct) } }

/-- A command completes: its entry frees, its flags and WCTs reach the group (R276, R278). -/
def State.endCmd (s : State) (c : MCmd) (fl : FpFlags) : State :=
  let s := { s with mqueue := s.mqueue.filter (fun (x : MCmd) => x.id != c.id) }
  let s := s.onGroup c.uid (fun g => { g with
    regs := { g.regs with fpflags := g.regs.fpflags ||| (c.flags ||| fl).setWidth 32 } }.learn c.wct)
  s.feed c.core 8

/-- The elements with an uncorrectable error that a command reads: 0 for a tile or 1 for a slot, its number, row and column. -/
def State.badElems (s : State) (c : MCmd) : List (List Nat) :=
  let tile := fun (z start : Nat) => match s.tile? c.core z with
    | some t => (t.bad.filter (fun i => decide (start ≤ i))).map (fun i => [0, z, i / 128, i % 128])
    | none => []
  let slot := fun (o : Nat) => match s.slot? c.core o with
    | some t => t.bad.map (fun i => [1, o, i / 128, i % 128])
    | none => []
  match c.kind with
  | .mmul z a b _ _ => tile z 0 ++ slot a ++ slot b
  | .mloop z _ _ _ _ _ _ _ _ => tile z 0
  | .mdrain z e o0 o1 _ _ _ => (tile z c.pos).filter (fun l => match l with
    | [_, _, m, n] => (drainIdx e o0 o1 (128 * m + n)).isSome
    | _ => false)
  | _ => []

/-- Each element that read as +0 is recorded with its core and its place (R290). -/
def State.recordBad (s : State) (c : MCmd) (fl : FpFlags) (es : List (List Nat)) : State :=
  if fl.getLsbD 9 then
    es.foldl (fun (s : State) e => s.errorRecord ⟨41, ((s.ctx? c.ctx).map Ctx.world).getD 0, ((s.ctx? c.ctx).map Ctx.vdid).getD 0,
      c.core, 8, 0, e.map (BitVec.ofNat 64), ((s.ctx? c.ctx).map Ctx.conf).getD false⟩) s
  else s

/-- MATRIX_COMMAND_COMPLETE: a matrix command's last effect takes place and its flags are ORed in; a drain first sends its
writes. (R276; log entry 11) -/
def execMatrixCommandComplete (core : Nat) (s : State) : Out State :=
  .next (match s.headCmd core with
    | none => s
    | some c => (match s.runCmd c with
      | .done t fl => (t.recordBad c fl (s.badElems c)).endCmd c fl
      | .sent t fl =>
        let upTo := ((t.mqueue.find? (fun x => x.id == c.id)).map MCmd.pos).getD 16384
        let t := t.recordBad c fl ((s.badElems c).filter (fun l => match l with
          | [_, _, m, n] => decide (128 * m + n < upTo)
          | _ => false))
        { t with mqueue := t.mqueue.map (fun (x : MCmd) =>
          if x.id == c.id then { x with sent := true, flags := x.flags ||| fl } else x) }
      | .part t k fl =>
        let t := if c.progress < k then t.recordBad c fl (s.badElems c) else t
        { t with mqueue := t.mqueue.map (fun (x : MCmd) =>
          if x.id == c.id then { x with progress := k, flags := x.flags ||| fl } else x) }
      | .fault _ _ _ _ _ _ => s))

/-- A command that faulted and those behind it are held: the group's later commands of the queue, and then those that had been
released and those held (R285, R288). -/
def State.holdFrom (s : State) (c : MCmd) (f : MFault) : State :=
  let mine := fun (x : MCmd) => x.uid == c.uid
  let later := s.mqueue.filter (fun x => mine x && x.id != c.id)
  { s with mqueue := s.mqueue.filter (fun (x : MCmd) => !mine x) }.onGroup c.uid (fun g => { g with mat := { g.mat with
    held := c :: later ++ g.mat.released ++ g.mat.held, released := [], fault := some f } })

/-- A missing page is reported and counted (R286). -/
def State.reportMiss (s : State) (g : Agent) (uid : Nat) (x : MissAt) : State :=
  let more := fun (s : State) => s.onGroup uid (fun g => { g with trap := { g.trap with missing := g.trap.missing + 1 } })
  match x with
  | (.fault f, gva, acc) =>
    if f.cause = 8 ∨ f.stage = 2 then
      let id := s.nextId
      ((more s).newFault g.c uid true f gva acc 0).offerFault id
    else s
  | (.far i, gva, acc) =>
    let (id, s) := (more s).fresh
    { s with tier := { s.tier with offered := s.tier.offered ++ [⟨id, uid, g.c.vdid, g.c.num, i, gva, acc⟩] } }

/-- MATRIX_COMMAND_FAULT: a matrix command faults, records its progress and moves to the held list; a missing page is
reported at once and counted. (R284-R286) -/
def execMatrixCommandFault (core : Nat) (s : State) : Out State :=
  .next (match s.headCmd core with
    | none => s
    | some c => (match s.runCmd c with
      | .fault t cause progress addr m fl =>
        let c := (t.mqueue.find? (fun x => x.id == c.id)).getD c
        let t := (t.recordBad c fl (s.badElems c)).holdFrom
          { c with progress := progress, sent := false, flags := c.flags ||| fl, err := none, pos := 128 * progress }
          ⟨cause, progress, addr⟩
        let t := match m, t.agentFor c.ctx c.core c.uid c.id c.scp c.cls with
          | some x, some g => t.reportMiss g c.uid x
          | _, _ => t
        t.feed core 8
      | _ => s))

/-! ## Raising MATRIX_FAULT (R286, R287) -/

/-- The entry of MATRIX_FAULT from the group's fault record. -/
def State.matrixEntry (s : State) : TrapEntry :=
  let f := s.cur.mat.fault.getD ⟨0, 0, 0⟩
  let pc := ((s.cur.mat.held.head?).map MCmd.pc).getD 0
  let p := s.bundlePc
  ⟨trec0 22 s.cur.ctl.iss.val s.cur.trap.pl true f.cause 0 0 0, p.setWidth 64, BitVec.ofNat 64 f.addr, pc.setWidth 64,
    BitVec.ofNat 64 f.progress⟩

/-- The group raises MATRIX_FAULT at this bundle; with pages missing it parks there first (R286). Inside a handler the
entry waits in the queue and the bundle goes on (19 R328). -/
def raiseMatrix (s : State) (k : State → Act) : Act :=
  if 0 < s.cur.trap.missing then .park s s.exec
  else if s.cur.trap.inh then k (s.takeTraps [s.matrixEntry])
  else .raise s [s.matrixEntry]

/-! ## Issue of commands (R271-R275, R285) -/

/-- A command enters the core's queue, or joins a held list that is not empty (R275, R285). -/
def enqueue (kind : MKind) (scp : Scp) (memory : Bool) (s : State) (k : State → State) : Act :=
  let p := s.cur.place
  let m := s.cur.mat
  let (id, s') := s.fresh
  let after := if memory then s.cur.acc.ops.map (fun o => o.id) else []
  let c : MCmd := ⟨id, p.core, p.uid, p.ctx, m.mopen.toNat, s.bundlePc, kind, scp, s.retCls, s.cur.acc.rfloor.toNat, false, 0, after,
    false, 0, 0, none, 0⟩
  if !m.held.isEmpty then
    if 8 ≤ m.held.length then raiseMatrix s .ok
    else .ok (k (s'.modMat (fun m => { m with held := m.held ++ [c] })))
  else if !m.released.isEmpty || decide (8 ≤ (s.mqueue.filter (fun c => c.core == p.core)).length) then .notReady
  else .ok (k { s' with mqueue := s'.mqueue ++ [c] })

/-- The group holds every tile and slot of two masks (R271). -/
def State.claims (s : State) (tiles slots : Nat) : Bool :=
  decide (s.cur.mat.tiles.toNat &&& tiles = tiles) && decide (s.cur.mat.slots.toNat &&& slots = slots)

/-- The shapes that `oload` and `mloop` accept (R273). -/
def shapeFits (e : BitVec 512) (o0 o1 : Nat) : Bool :=
  let f := tdFmt e
  (decide (1 ≤ f) && decide (f ≤ 4) || decide (f = 6)) && decide ((if tdKdim e = 0 then tdTile e 0 else tdTile e 1) = 128) &&
    decide ((if tdKdim e = 0 then o0 else o1) % 32 = 0) && (decide (f ≠ 6) || decide (o0 % 4 = 0))

/-- The tag pairs of a step (R274). -/
def pairOk (a b : Nat) : Bool :=
  let fp8 := fun (x : Nat) => decide (x = 3) || decide (x = 4)
  (decide (a = 2) && decide (b = 2)) || (decide (a = 1) && decide (b = 1)) || (fp8 a && fp8 b) ||
    (decide (a = 6) && (fp8 b || decide (b = 6))) || (fp8 a && decide (b = 6))

/-- The tag of a slot of the group's core. -/
def State.slotTag (s : State) (i : Nat) : Nat := ((s.slot? s.cur.place.core i).map SlotSt.tag).getD 255

/-- Sets the tag of a slot at issue (R273). -/
def State.tagSlot (s : State) (i tag : Nat) : State :=
  match s.slot? s.cur.place.core i with
  | some t => s.setSlot { t with tag := tag }
  | none => s

/-- `zzero` (R279). -/
def doZzero (m : Nat) (s : State) : Act :=
  if !s.claims m 0 then .trap 20 0 0 else enqueue (.zzero m) ⟨false, false, 0⟩ false s id

/-- `oload` (R280). -/
def doOload (o t c : Nat) (s : State) : Act :=
  let x := (s.sreg c).toNat
  let o0 := x % 2 ^ 32
  let o1 := x / 2 ^ 32
  if !s.split.acq.isEmpty then .waiting .acq
  else match s.tdt? t with
  | none => .trap 19 0 0
  | some e =>
    if !s.claims 0 (2 ^ o) then .trap 20 0 0
    else if !shapeFits e o0 o1 then .trap 21 0 0
    else enqueue (.oload o e o0 o1) s.scp true s (fun s => s.tagSlot o (tdFmt e))

/-- `mmul` (R279). -/
def doMmul (z a b : Nat) (s : State) : Act :=
  if !s.claims (2 ^ z) (2 ^ a ||| 2 ^ b) then .trap 20 0 0
  else if !pairOk (s.slotTag a) (s.slotTag b) then .trap 21 0 0
  else enqueue (.mmul z a b (s.slotTag a) (s.slotTag b)) ⟨false, false, 0⟩ false s id

/-- `mloop` (R281): with a count of 0 it tags no slot, and completes when it is the first of the queue. -/
def doMloop (z ta tb blk : Nat) (s : State) : Act :=
  let r := 48 + 4 * blk
  let ctl := (s.sreg r).toNat
  let p := bitsOf ctl 18 16
  let xa := (s.sreg (r + 1)).toNat
  let xb := (s.sreg (r + 2)).toNat
  if !s.split.acq.isEmpty then .waiting .acq
  else match s.tdt? ta, s.tdt? tb with
  | some da, some db =>
    if p % 2 = 1 then .trap 21 0 0
    else if !s.claims (2 ^ z) (2 ^ p + 2 ^ (p + 1)) then .trap 20 0 0
    else if !(shapeFits da (xa % 2 ^ 32) (xa / 2 ^ 32) && shapeFits db (xb % 2 ^ 32) (xb / 2 ^ 32) &&
        pairOk (tdFmt da) (tdFmt db)) then .trap 21 0 0
    else enqueue (.mloop z p (ctl % 65536) da db (xa % 2 ^ 32) (xa / 2 ^ 32) (xb % 2 ^ 32) (xb / 2 ^ 32)) s.scp true s
      (fun s => if ctl % 65536 = 0 then s else (s.tagSlot p (tdFmt da)).tagSlot (p + 1) (tdFmt db))
  | _, _ => .trap 19 0 0

/-- `n` steps of the stochastic generator. -/
def srSteps : Nat → Word → Word
  | 0, st => st
  | n + 1, st => srSteps n (srStep st)

/-- `mdrain` (R282). -/
def doMdrain (z t c : Nat) (amax : Bool) (s : State) : Act :=
  let x := (s.sreg c).toNat
  if !s.split.acq.isEmpty then .waiting .acq
  else match s.tdt? t with
  | none => .trap 19 0 0
  | some e =>
    if !s.claims (2 ^ z) 0 then .trap 20 0 0
    else if 5 ≤ tdFmt e ∨ (amax = true ∧ tdf e 383 320 = 0) then .trap 21 0 0
    else
      let code : BitVec 6 := s.hints.rnd.getD 0
      let sr := match drainFmt (tdFmt e) with | some f => usesSr f (rndOfCode code) | none => false
      let states := allLanes.map (fun l => s.srState l)
      enqueue (.mdrain z e (x % 2 ^ 32) (x / 2 ^ 32) amax code (if sr then states else [])) s.scp true s
        (fun s => if sr then s.setSr (BitVec.allOnes 32) (fun l => srSteps 512 (s.srState l)) else s)

/-- `mfence` (R277). -/
def doMfence (d : Nat) (s : State) : Act :=
  .ok ((s.setSreg d s.cur.mat.mopen).modMat (fun m => { m with mopen := m.mopen + 1 }))

/-- `mwait` (R278). -/
def doMwait (a : Nat) (s : State) : Act :=
  let b := (s.sreg a).toNat
  let m := s.cur.mat
  if m.mopen.toNat ≤ b then .trap 4 0 0
  else if s.mqueue.any (fun c => c.uid == s.cur.place.uid && decide (c.batch ≤ b)) || m.released.any (fun c => decide (c.batch ≤ b)) then
    .waiting (.mwait b)
  else if m.held.any (fun c => decide (c.batch ≤ b)) then raiseMatrix s .ok
  else .ok s

/-- `mresume` and `mresume.abandon` (R288): writes that a discarded drain has made are ordered as any others (R278). -/
def doMresume (abandon : Bool) (s : State) : Act :=
  if s.cur.mat.held.isEmpty then .ok s
  else if abandon then
    let made := s.cur.mat.held.foldl (fun n c => max n c.wct) 0
    .ok ((s.modMat (fun m => { m with held := [], fault := none })).modCur (fun g => g.learn made))
  else .ok ((s.modMat (fun m => { m with released := m.released ++ m.held, held := [], fault := none })).feed s.cur.place.core 8)

/-- The cause code of `mstat` (R289). A read that met an uncorrectable memory error, which has no code, gives 0, beside the inner cause
16 of MATRIX_FAULT: the model's choice (log entry 11). -/
def mstatCause (c : Nat) : Nat :=
  match c with | 8 => 1 | 9 => 2 | 10 => 3 | 13 => 4 | 15 => 5 | 14 => 6 | _ => 0

/-- The kind code of a command (R289). -/
def MKind.code : MKind → Nat
  | .zzero _ => 0 | .oload _ _ _ _ => 1 | .mmul _ _ _ _ _ => 2 | .mloop _ _ _ _ _ _ _ _ _ => 3 | .mdrain _ _ _ _ _ _ _ => 4

/-- The tile of a command; 0 for one that names none or several. -/
def MKind.ztile : MKind → Nat
  | .mmul z _ _ _ _ => z | .mloop z _ _ _ _ _ _ _ _ => z | .mdrain z _ _ _ _ _ _ => z | _ => 0

/-- `mstat` (R289). -/
def State.mstat (s : State) : Nat :=
  let m := s.cur.mat
  let f := m.fault.getD ⟨0, 0, 0⟩
  let k := match m.fault, m.held.head? with | some _, some c => some c.kind | _, _ => none
  f.progress % 65536 * 2 ^ 48 + mstatCause f.cause * 2 ^ 44 + (k.map MKind.ztile).getD 0 * 2 ^ 40 + (k.map MKind.code).getD 0 * 2 ^ 37 +
    m.held.length % 16 * 2 ^ 32 + (s.mqueue.filter (fun c => c.core == s.cur.place.core)).length % 16 * 2 ^ 28 +
    m.tiles.toNat * 2 ^ 16 + m.slots.toNat * 2 ^ 8 + (if m.held.isEmpty then 0 else 128)


/-- ZCLAIM: Claims accumulator tiles all or none. (R269) -/
def execZclaim (d : BitVec 6) (m : BitVec 12) (s : State) : Out State :=
  issue (.zclaim d m) s (doZclaim d.toNat m)

/-- ZREL: Releases and clears tiles after their commands finish. (R270) -/
def execZrel (m : BitVec 12) (s : State) : Out State :=
  issue (.zrel m) s (doRel m.toNat 0 (.zrel m.toNat))

/-- ZZERO: Matrix command that clears tiles. (R279) -/
def execZzero (m : BitVec 12) (s : State) : Out State :=
  issue (.zzero m) s (doZzero m.toNat)

/-- OCLAIM: Claims operand slots all or none. (R269) -/
def execOclaim (d : BitVec 6) (m : BitVec 8) (s : State) : Out State :=
  issue (.oclaim d m) s (doOclaim d.toNat m)

/-- OREL: Releases and clears operand slots. (R270) -/
def execOrel (m : BitVec 8) (s : State) : Out State :=
  issue (.orel m) s (doRel 0 m.toNat (.orel m.toNat))

/-- OLOAD: Matrix command that fills a slot from a descriptor. (R280) -/
def execOload (bs : BitVec 3) (t : BitVec 7) (c : BitVec 6) (s : State) : Out State :=
  issue (.oload bs t c) s (doOload bs.toNat t.toNat c.toNat)

/-- MMUL: Matrix command performing one step on a tile. (R279) -/
def execMmul (z : BitVec 4) (a : BitVec 3) (b : BitVec 3) (s : State) : Out State :=
  issue (.mmul z a b) s (doMmul z.toNat a.toNat b.toNat)

/-- MLOOP: Matrix command streaming K steps from two descriptors. (R281) -/
def execMloop (z : BitVec 4) (a : BitVec 7) (b : BitVec 7) (k : BitVec 2) (s : State) : Out State :=
  issue (.mloop z a b k) s (doMloop z.toNat a.toNat b.toNat k.toNat)

/-- MDRAIN: Matrix command converting a tile and writing it through a descriptor. (R282) -/
def execMdrain (z : BitVec 4) (t : BitVec 7) (c : BitVec 6) (m : BitVec 1) (s : State) : Out State :=
  issue (.mdrain z t c m) s (doMdrain z.toNat t.toNat c.toNat (m == 1))

/-- MFENCE: Closes the open matrix batch and returns its number. (R277) -/
def execMfence (d : BitVec 6) (s : State) : Out State :=
  issue (.mfence d) s (doMfence d.toNat)

/-- MWAIT: Waits for a matrix batch, or raises MATRIX_FAULT. (R278) -/
def execMwait (a : BitVec 6) (s : State) : Out State :=
  issue (.mwait a) s (doMwait a.toNat)

/-- MRESUME: Returns held matrix commands to the queue. (R288) -/
def execMresume (s : State) : Out State :=
  issue .mresume s (doMresume false)

/-- MRESUME_ABANDON: Discards held matrix commands. (R288) -/
def execMresumeAbandon (s : State) : Out State :=
  issue .mresumeAbandon s (doMresume true)

/-- MSTAT: Reports matrix fault and queue state. (R289) -/
def execMstat (d : BitVec 6) (s : State) : Out State :=
  issue (.mstat d) s (fun t => .ok (t.setSreg d.toNat (BitVec.ofNat 64 t.mstat)))

end Sys2Proof.Machine
end

