-- ==== Sys2Proof/Decode.lean ====
section
/-! DEFINITION. The decoder and the encoder of instruction words, from the encodings of spec 04 R66-R76 and of the
instruction chapters. A word that fits no row is rejected by name: the step then takes ILLEGAL_OPCODE (R81). -/

namespace Sys2Proof

open Sys2Proof.Machine (leBytes ofLeBytes)

/-- The `k`-bit field of a word that starts at bit `lo` (R5). -/
def bf (k n lo : Nat) : BitVec k := BitVec.ofNat k (n / 2 ^ lo)

/-- Whether bits [lo+k-1:lo] of a word hold `v`: a fixed field of an encoding. -/
def fx (n lo k v : Nat) : Bool := decide (n / 2 ^ lo % 2 ^ k = v)

/-- An instruction where the fixed fields of its encoding hold. -/
def onlyIf (b : Bool) (i : Instr) : Option Instr := if b then some i else none

/-- HINT_RET by its operand. -/
def pickHintRet : Nat → Instr
  | 0 => .hintRet0
  | 1 => .hintRet1
  | 2 => .hintRet2
  | _ => .hintRet3

/-- HINT_MSK by its operand. -/
def pickHintMsk : Nat → Instr
  | 0 => .hintMsk0
  | 1 => .hintMsk1
  | 2 => .hintMsk2
  | 3 => .hintMsk3
  | 4 => .hintMsk4
  | 5 => .hintMsk5
  | 6 => .hintMsk6
  | 7 => .hintMsk7
  | 8 => .hintMsk8
  | 9 => .hintMsk9
  | 10 => .hintMsk10
  | 11 => .hintMsk11
  | 12 => .hintMsk12
  | 13 => .hintMsk13
  | 14 => .hintMsk14
  | _ => .hintMsk15

/-- FENCE_ACQ by its operand. -/
def pickFenceAcq : Nat → Instr
  | 0 => .fenceAcq0
  | 1 => .fenceAcq1
  | 2 => .fenceAcq2
  | 3 => .fenceAcq3
  | 4 => .fenceAcq4
  | 5 => .fenceAcq5
  | 6 => .fenceAcq6
  | 7 => .fenceAcq7
  | 8 => .fenceAcq8
  | 9 => .fenceAcq9
  | 10 => .fenceAcq10
  | 11 => .fenceAcq11
  | 12 => .fenceAcq12
  | 13 => .fenceAcq13
  | 14 => .fenceAcq14
  | _ => .fenceAcq15

/-- Major opcode 0x01 (R71). -/
def decMaj01 (n : Nat) : Option Instr :=
  onlyIf (fx n 0 26 0) (.nop)

/-- Major opcode 0x02 (R71). -/
def decMaj02 (n : Nat) : Option Instr :=
  match n / 2 ^ 22 % 2 ^ 4 with
  | 0 => some (.sadd (bf 7 n 15) (bf 7 n 8) (bf 7 n 1) (bf 1 n 0))
  | 1 => some (.ssub (bf 7 n 15) (bf 7 n 8) (bf 7 n 1) (bf 1 n 0))
  | 2 => some (.smullo (bf 7 n 15) (bf 7 n 8) (bf 7 n 1) (bf 1 n 0))
  | 3 => some (.smulhiS (bf 7 n 15) (bf 7 n 8) (bf 7 n 1) (bf 1 n 0))
  | 4 => some (.smulhiU (bf 7 n 15) (bf 7 n 8) (bf 7 n 1) (bf 1 n 0))
  | 5 => some (.smad (bf 7 n 15) (bf 7 n 8) (bf 7 n 1) (bf 1 n 0))
  | 6 => some (.sminS (bf 7 n 15) (bf 7 n 8) (bf 7 n 1) (bf 1 n 0))
  | 7 => some (.sminU (bf 7 n 15) (bf 7 n 8) (bf 7 n 1) (bf 1 n 0))
  | 8 => some (.smaxS (bf 7 n 15) (bf 7 n 8) (bf 7 n 1) (bf 1 n 0))
  | 9 => some (.smaxU (bf 7 n 15) (bf 7 n 8) (bf 7 n 1) (bf 1 n 0))
  | 10 => some (.saddsS (bf 7 n 15) (bf 7 n 8) (bf 7 n 1) (bf 1 n 0))
  | 11 => some (.saddsU (bf 7 n 15) (bf 7 n 8) (bf 7 n 1) (bf 1 n 0))
  | 12 => some (.saddc (bf 7 n 15) (bf 7 n 8) (bf 7 n 1) (bf 1 n 0))
  | 13 => some (.ssubb (bf 7 n 15) (bf 7 n 8) (bf 7 n 1) (bf 1 n 0))
  | 14 => onlyIf (fx n 1 7 0) (.sabs (bf 7 n 15) (bf 7 n 8) (bf 1 n 0))
  | 15 => onlyIf (fx n 1 7 0) (.sneg (bf 7 n 15) (bf 7 n 8) (bf 1 n 0))
  | _ => none

/-- Major opcode 0x03 (R71). -/
def decMaj03 (n : Nat) : Option Instr :=
  match n / 2 ^ 22 % 2 ^ 4 with
  | 0 => some (.sand (bf 7 n 15) (bf 7 n 8) (bf 7 n 1) (bf 1 n 0))
  | 1 => some (.sor (bf 7 n 15) (bf 7 n 8) (bf 7 n 1) (bf 1 n 0))
  | 2 => some (.sxor (bf 7 n 15) (bf 7 n 8) (bf 7 n 1) (bf 1 n 0))
  | 3 => some (.sandn (bf 7 n 15) (bf 7 n 8) (bf 7 n 1) (bf 1 n 0))
  | 4 => onlyIf (fx n 1 7 0) (.snot (bf 7 n 15) (bf 7 n 8) (bf 1 n 0))
  | 5 => some (.sshl (bf 7 n 15) (bf 7 n 8) (bf 7 n 1) (bf 1 n 0))
  | 6 => some (.sshr (bf 7 n 15) (bf 7 n 8) (bf 7 n 1) (bf 1 n 0))
  | 7 => some (.ssar (bf 7 n 15) (bf 7 n 8) (bf 7 n 1) (bf 1 n 0))
  | 8 => some (.srot (bf 7 n 15) (bf 7 n 8) (bf 7 n 1) (bf 1 n 0))
  | 9 => onlyIf (fx n 1 7 0) (.sclz (bf 7 n 15) (bf 7 n 8) (bf 1 n 0))
  | 10 => onlyIf (fx n 1 7 0) (.spop (bf 7 n 15) (bf 7 n 8) (bf 1 n 0))
  | 11 => onlyIf (fx n 1 7 0) (.sbrev (bf 7 n 15) (bf 7 n 8) (bf 1 n 0))
  | 12 => some (.sbfeU (bf 7 n 15) (bf 7 n 8) (bf 7 n 1) (bf 1 n 0))
  | 13 => some (.sbfeS (bf 7 n 15) (bf 7 n 8) (bf 7 n 1) (bf 1 n 0))
  | 14 => some (.sbfi (bf 7 n 15) (bf 7 n 8) (bf 7 n 1) (bf 1 n 0))
  | 15 => onlyIf (fx n 1 7 0) (.sunpack (bf 7 n 15) (bf 7 n 8) (bf 1 n 0))
  | _ => none

/-- Major opcode 0x04 (R71). -/
def decMaj04 (n : Nat) : Option Instr :=
  match n / 2 ^ 25 % 2 ^ 1 with
  | 0 => some (.scmp (bf 3 n 22) (bf 7 n 15) (bf 7 n 8) (bf 7 n 1) (bf 1 n 0))
  | 1 => onlyIf (fx n 1 7 0 && fx n 22 3 0) (.smov (bf 7 n 15) (bf 7 n 8) (bf 1 n 0)) <|> onlyIf (fx n 1 7 0 && fx n 22 3 1) (.sext8S (bf 7 n 15) (bf 7 n 8) (bf 1 n 0)) <|> onlyIf (fx n 1 7 0 && fx n 22 3 2) (.sext8U (bf 7 n 15) (bf 7 n 8) (bf 1 n 0)) <|> onlyIf (fx n 1 7 0 && fx n 22 3 3) (.sext16S (bf 7 n 15) (bf 7 n 8) (bf 1 n 0)) <|> onlyIf (fx n 1 7 0 && fx n 22 3 4) (.sext16U (bf 7 n 15) (bf 7 n 8) (bf 1 n 0)) <|> onlyIf (fx n 0 1 0 && fx n 22 3 5) (.slea (bf 7 n 15) (bf 7 n 8) (bf 7 n 1)) <|> onlyIf (fx n 22 3 6) (.ssel (bf 7 n 15) (bf 7 n 8) (bf 7 n 1) (bf 1 n 0)) <|> onlyIf (fx n 22 3 7) (.spack (bf 7 n 15) (bf 7 n 8) (bf 7 n 1) (bf 1 n 0))
  | _ => none

/-- Major opcode 0x05 (R71). -/
def decMaj05 (n : Nat) : Option Instr :=
  match n / 2 ^ 23 % 2 ^ 3 with
  | 0 => some (.saddImm (bf 7 n 16) (bf 7 n 9) (bf 9 n 0))
  | 1 => some (.sandImm (bf 7 n 16) (bf 7 n 9) (bf 9 n 0))
  | 2 => some (.sorImm (bf 7 n 16) (bf 7 n 9) (bf 9 n 0))
  | 3 => some (.sxorImm (bf 7 n 16) (bf 7 n 9) (bf 9 n 0))
  | 4 => some (.sshlImm (bf 7 n 16) (bf 7 n 9) (bf 9 n 0))
  | 5 => some (.sshrImm (bf 7 n 16) (bf 7 n 9) (bf 9 n 0))
  | 6 => some (.ssarImm (bf 7 n 16) (bf 7 n 9) (bf 9 n 0))
  | 7 => onlyIf (fx n 9 7 0) (.smovi (bf 7 n 16) (bf 9 n 0))
  | _ => none

/-- Major opcode 0x06 (R71). -/
def decMaj06 (n : Nat) : Option Instr :=
  match n / 2 ^ 0 % 2 ^ 1 with
  | 0 => some (.sdivS (bf 4 n 22) (bf 7 n 15) (bf 7 n 8) (bf 7 n 1))
  | 1 => some (.sdivU (bf 4 n 22) (bf 7 n 15) (bf 7 n 8) (bf 7 n 1))
  | _ => none

/-- Major opcode 0x07 (R71). -/
def decMaj07 (n : Nat) : Option Instr :=
  match n / 2 ^ 0 % 2 ^ 1 with
  | 0 => some (.sremS (bf 4 n 22) (bf 7 n 15) (bf 7 n 8) (bf 7 n 1))
  | 1 => some (.sremU (bf 4 n 22) (bf 7 n 15) (bf 7 n 8) (bf 7 n 1))
  | _ => none

/-- Major opcode 0x08 (R71). -/
def decMaj08 (n : Nat) : Option Instr :=
  match n / 2 ^ 22 % 2 ^ 4 with
  | 0 => some (.vadd (bf 7 n 15) (bf 7 n 8) (bf 7 n 1) (bf 1 n 0))
  | 1 => some (.vsub (bf 7 n 15) (bf 7 n 8) (bf 7 n 1) (bf 1 n 0))
  | 2 => some (.vmullo (bf 7 n 15) (bf 7 n 8) (bf 7 n 1) (bf 1 n 0))
  | 3 => some (.vmulhiS (bf 7 n 15) (bf 7 n 8) (bf 7 n 1) (bf 1 n 0))
  | 4 => some (.vmulhiU (bf 7 n 15) (bf 7 n 8) (bf 7 n 1) (bf 1 n 0))
  | 5 => some (.vmad (bf 7 n 15) (bf 7 n 8) (bf 7 n 1) (bf 1 n 0))
  | 6 => some (.vminS (bf 7 n 15) (bf 7 n 8) (bf 7 n 1) (bf 1 n 0))
  | 7 => some (.vminU (bf 7 n 15) (bf 7 n 8) (bf 7 n 1) (bf 1 n 0))
  | 8 => some (.vmaxS (bf 7 n 15) (bf 7 n 8) (bf 7 n 1) (bf 1 n 0))
  | 9 => some (.vmaxU (bf 7 n 15) (bf 7 n 8) (bf 7 n 1) (bf 1 n 0))
  | 10 => some (.vaddsS (bf 7 n 15) (bf 7 n 8) (bf 7 n 1) (bf 1 n 0))
  | 11 => some (.vaddsU (bf 7 n 15) (bf 7 n 8) (bf 7 n 1) (bf 1 n 0))
  | 12 => onlyIf (fx n 8 7 0) (.vabs (bf 7 n 15) (bf 7 n 1) (bf 1 n 0))
  | 13 => onlyIf (fx n 8 7 0) (.vneg (bf 7 n 15) (bf 7 n 1) (bf 1 n 0))
  | 14 => some (.vsel (bf 7 n 15) (bf 7 n 8) (bf 7 n 1) (bf 1 n 0))
  | 15 => onlyIf (fx n 8 7 0) (.vmov (bf 7 n 15) (bf 7 n 1) (bf 1 n 0))
  | _ => none

/-- Major opcode 0x09 (R71). -/
def decMaj09 (n : Nat) : Option Instr :=
  match n / 2 ^ 22 % 2 ^ 4 with
  | 0 => some (.vand (bf 7 n 15) (bf 7 n 8) (bf 7 n 1) (bf 1 n 0))
  | 1 => some (.vor (bf 7 n 15) (bf 7 n 8) (bf 7 n 1) (bf 1 n 0))
  | 2 => some (.vxor (bf 7 n 15) (bf 7 n 8) (bf 7 n 1) (bf 1 n 0))
  | 3 => some (.vandn (bf 7 n 15) (bf 7 n 8) (bf 7 n 1) (bf 1 n 0))
  | 4 => onlyIf (fx n 8 7 0) (.vnot (bf 7 n 15) (bf 7 n 1) (bf 1 n 0))
  | 5 => some (.vshl (bf 7 n 15) (bf 7 n 8) (bf 7 n 1) (bf 1 n 0))
  | 6 => some (.vshr (bf 7 n 15) (bf 7 n 8) (bf 7 n 1) (bf 1 n 0))
  | 7 => some (.vsar (bf 7 n 15) (bf 7 n 8) (bf 7 n 1) (bf 1 n 0))
  | 8 => some (.vrot (bf 7 n 15) (bf 7 n 8) (bf 7 n 1) (bf 1 n 0))
  | 9 => onlyIf (fx n 8 7 0) (.vclz (bf 7 n 15) (bf 7 n 1) (bf 1 n 0))
  | 10 => onlyIf (fx n 8 7 0) (.vpop (bf 7 n 15) (bf 7 n 1) (bf 1 n 0))
  | 11 => onlyIf (fx n 8 7 0) (.vbrev (bf 7 n 15) (bf 7 n 1) (bf 1 n 0))
  | 12 => some (.vbfeU (bf 7 n 15) (bf 7 n 8) (bf 7 n 1) (bf 1 n 0))
  | 13 => some (.vbfeS (bf 7 n 15) (bf 7 n 8) (bf 7 n 1) (bf 1 n 0))
  | 14 => some (.vbfi (bf 7 n 15) (bf 7 n 8) (bf 7 n 1) (bf 1 n 0))
  | 15 => some (.vlea (bf 7 n 15) (bf 7 n 8) (bf 7 n 1) (bf 1 n 0))
  | _ => none

/-- Major opcode 0x0A (R71). -/
def decMaj0A (n : Nat) : Option Instr :=
  match n / 2 ^ 25 % 2 ^ 1 with
  | 0 => some (.vcmp (bf 3 n 22) (bf 7 n 15) (bf 7 n 8) (bf 7 n 1) (bf 1 n 0))
  | 1 => onlyIf (fx n 8 7 0 && fx n 22 3 0) (.vext8S (bf 7 n 15) (bf 7 n 1) (bf 1 n 0)) <|> onlyIf (fx n 8 7 0 && fx n 22 3 1) (.vext8U (bf 7 n 15) (bf 7 n 1) (bf 1 n 0)) <|> onlyIf (fx n 8 7 0 && fx n 22 3 2) (.vext16S (bf 7 n 15) (bf 7 n 1) (bf 1 n 0)) <|> onlyIf (fx n 8 7 0 && fx n 22 3 3) (.vext16U (bf 7 n 15) (bf 7 n 1) (bf 1 n 0)) <|> onlyIf (fx n 22 3 4) (.vpack (bf 7 n 15) (bf 7 n 8) (bf 7 n 1) (bf 1 n 0)) <|> onlyIf (fx n 8 7 0 && fx n 22 3 5) (.vunpack (bf 7 n 15) (bf 7 n 1) (bf 1 n 0))
  | _ => none

/-- Major opcode 0x0B (R71). -/
def decMaj0B (n : Nat) : Option Instr :=
  match n / 2 ^ 23 % 2 ^ 3 with
  | 0 => some (.vaddImm (bf 7 n 16) (bf 7 n 9) (bf 9 n 0))
  | 1 => some (.vandImm (bf 7 n 16) (bf 7 n 9) (bf 9 n 0))
  | 2 => some (.vorImm (bf 7 n 16) (bf 7 n 9) (bf 9 n 0))
  | 3 => some (.vxorImm (bf 7 n 16) (bf 7 n 9) (bf 9 n 0))
  | 4 => some (.vshlImm (bf 7 n 16) (bf 7 n 9) (bf 9 n 0))
  | 5 => some (.vshrImm (bf 7 n 16) (bf 7 n 9) (bf 9 n 0))
  | 6 => some (.vsarImm (bf 7 n 16) (bf 7 n 9) (bf 9 n 0))
  | 7 => onlyIf (fx n 9 7 0) (.vmovi (bf 7 n 16) (bf 9 n 0))
  | _ => none

/-- Major opcode 0x0C (R71). -/
def decMaj0C (n : Nat) : Option Instr :=
  match n / 2 ^ 0 % 2 ^ 1 with
  | 0 => some (.vdivS (bf 4 n 22) (bf 7 n 15) (bf 7 n 8) (bf 7 n 1))
  | 1 => some (.vdivU (bf 4 n 22) (bf 7 n 15) (bf 7 n 8) (bf 7 n 1))
  | _ => none

/-- Major opcode 0x0D (R71). -/
def decMaj0D (n : Nat) : Option Instr :=
  match n / 2 ^ 0 % 2 ^ 1 with
  | 0 => some (.vremS (bf 4 n 22) (bf 7 n 15) (bf 7 n 8) (bf 7 n 1))
  | 1 => some (.vremU (bf 4 n 22) (bf 7 n 15) (bf 7 n 8) (bf 7 n 1))
  | _ => none

/-- Major opcode 0x10 (R71). -/
def decMaj10 (n : Nat) : Option Instr :=
  match n / 2 ^ 22 % 2 ^ 4 with
  | 0 => some (.vfadd (bf 7 n 15) (bf 7 n 8) (bf 7 n 1) (bf 1 n 0))
  | 1 => some (.vfsub (bf 7 n 15) (bf 7 n 8) (bf 7 n 1) (bf 1 n 0))
  | 2 => some (.vfmul (bf 7 n 15) (bf 7 n 8) (bf 7 n 1) (bf 1 n 0))
  | 3 => some (.vfma (bf 7 n 15) (bf 7 n 8) (bf 7 n 1) (bf 1 n 0))
  | 4 => some (.vfms (bf 7 n 15) (bf 7 n 8) (bf 7 n 1) (bf 1 n 0))
  | 5 => some (.vfnma (bf 7 n 15) (bf 7 n 8) (bf 7 n 1) (bf 1 n 0))
  | 6 => some (.vfminNum (bf 7 n 15) (bf 7 n 8) (bf 7 n 1) (bf 1 n 0))
  | 7 => some (.vfminProp (bf 7 n 15) (bf 7 n 8) (bf 7 n 1) (bf 1 n 0))
  | 8 => some (.vfmaxNum (bf 7 n 15) (bf 7 n 8) (bf 7 n 1) (bf 1 n 0))
  | 9 => some (.vfmaxProp (bf 7 n 15) (bf 7 n 8) (bf 7 n 1) (bf 1 n 0))
  | 10 => onlyIf (fx n 8 7 0) (.vfabs (bf 7 n 15) (bf 7 n 1) (bf 1 n 0))
  | 11 => onlyIf (fx n 8 7 0) (.vfneg (bf 7 n 15) (bf 7 n 1) (bf 1 n 0))
  | 12 => some (.vfscale (bf 7 n 15) (bf 7 n 8) (bf 7 n 1) (bf 1 n 0))
  | 13 => onlyIf (fx n 8 7 0) (.vfround (bf 7 n 15) (bf 7 n 1) (bf 1 n 0))
  | 14 => onlyIf (fx n 8 7 0) (.vfclass (bf 7 n 15) (bf 7 n 1) (bf 1 n 0))
  | _ => none

/-- Major opcode 0x11 (R71). -/
def decMaj11 (n : Nat) : Option Instr :=
  onlyIf (fx n 25 1 0) (.vfcmp (bf 3 n 22) (bf 7 n 15) (bf 7 n 8) (bf 7 n 1) (bf 1 n 0))

/-- Major opcode 0x12 (R71). -/
def decMaj12 (n : Nat) : Option Instr :=
  onlyIf (fx n 0 1 0) (.vcvt (bf 4 n 22) (bf 7 n 15) (bf 7 n 8) (bf 7 n 1))

/-- Major opcode 0x13 (R71). -/
def decMaj13 (n : Nat) : Option Instr :=
  match n / 2 ^ 22 % 2 ^ 4 with
  | 0 => some (.vpkE4m3 (bf 7 n 15) (bf 7 n 8) (bf 7 n 1) (bf 1 n 0))
  | 1 => some (.vpkE5m2 (bf 7 n 15) (bf 7 n 8) (bf 7 n 1) (bf 1 n 0))
  | 2 => some (.vpkIo4 (bf 7 n 15) (bf 7 n 8) (bf 7 n 1) (bf 1 n 0))
  | 3 => some (.vunpkE4m3 (bf 7 n 15) (bf 7 n 8) (bf 7 n 1) (bf 1 n 0))
  | 4 => some (.vunpkE5m2 (bf 7 n 15) (bf 7 n 8) (bf 7 n 1) (bf 1 n 0))
  | 5 => some (.vunpkIo4 (bf 7 n 15) (bf 7 n 8) (bf 7 n 1) (bf 1 n 0))
  | _ => none

/-- Major opcode 0x14 (R71). -/
def decMaj14 (n : Nat) : Option Instr :=
  match n / 2 ^ 22 % 2 ^ 4 with
  | 0 => some (.vhaddF16 (bf 7 n 15) (bf 7 n 8) (bf 7 n 1) (bf 1 n 0))
  | 1 => some (.vhaddBf16 (bf 7 n 15) (bf 7 n 8) (bf 7 n 1) (bf 1 n 0))
  | 2 => some (.vhmulF16 (bf 7 n 15) (bf 7 n 8) (bf 7 n 1) (bf 1 n 0))
  | 3 => some (.vhmulBf16 (bf 7 n 15) (bf 7 n 8) (bf 7 n 1) (bf 1 n 0))
  | 4 => some (.vhfmaF16 (bf 7 n 15) (bf 7 n 8) (bf 7 n 1) (bf 1 n 0))
  | 5 => some (.vhfmaBf16 (bf 7 n 15) (bf 7 n 8) (bf 7 n 1) (bf 1 n 0))
  | _ => none

/-- Major opcode 0x15 (R71). -/
def decMaj15 (n : Nat) : Option Instr :=
  match n / 2 ^ 1 % 2 ^ 7 with
  | 0 => onlyIf (fx n 0 1 0) (.vfrcp (bf 4 n 22) (bf 7 n 15) (bf 7 n 8))
  | 1 => onlyIf (fx n 0 1 0) (.vfrsq (bf 4 n 22) (bf 7 n 15) (bf 7 n 8))
  | 2 => onlyIf (fx n 0 1 0) (.vfsqrt (bf 4 n 22) (bf 7 n 15) (bf 7 n 8))
  | 3 => onlyIf (fx n 0 1 0) (.vfexp2 (bf 4 n 22) (bf 7 n 15) (bf 7 n 8))
  | 4 => onlyIf (fx n 0 1 0) (.vflog2 (bf 4 n 22) (bf 7 n 15) (bf 7 n 8))
  | 5 => onlyIf (fx n 0 1 0) (.vfsin (bf 4 n 22) (bf 7 n 15) (bf 7 n 8))
  | 6 => onlyIf (fx n 0 1 0) (.vfcos (bf 4 n 22) (bf 7 n 15) (bf 7 n 8))
  | _ => none

/-- Major opcode 0x16 (R71). -/
def decMaj16 (n : Nat) : Option Instr :=
  match n / 2 ^ 0 % 2 ^ 1 with
  | 0 => some (.vfdot2Bf16 (bf 4 n 22) (bf 7 n 15) (bf 7 n 8) (bf 7 n 1))
  | 1 => some (.vfdot4Fp8 (bf 4 n 22) (bf 7 n 15) (bf 7 n 8) (bf 7 n 1))
  | _ => none

/-- Major opcode 0x18 (R71). -/
def decMaj18 (n : Nat) : Option Instr :=
  match n / 2 ^ 0 % 2 ^ 1 with
  | 0 => some (.vshuf (bf 4 n 22) (bf 7 n 15) (bf 7 n 8) (bf 7 n 1))
  | 1 => some (.vlrot (bf 4 n 22) (bf 7 n 15) (bf 7 n 8) (bf 7 n 1))
  | _ => none

/-- Major opcode 0x19 (R71). -/
def decMaj19 (n : Nat) : Option Instr :=
  match n / 2 ^ 0 % 2 ^ 1 with
  | 0 => some (.vscan (bf 4 n 22) (bf 7 n 15) (bf 7 n 8) (bf 7 n 1))
  | 1 => some (.vscanExcl (bf 4 n 22) (bf 7 n 15) (bf 7 n 8) (bf 7 n 1))
  | _ => none

/-- Major opcode 0x1A (R71). -/
def decMaj1A (n : Nat) : Option Instr :=
  match n / 2 ^ 0 % 2 ^ 1 with
  | 0 => some (.vred (bf 4 n 22) (bf 7 n 15) (bf 7 n 8) (bf 7 n 1))
  | 1 => some (.vbcast (bf 4 n 22) (bf 7 n 15) (bf 7 n 8) (bf 7 n 1))
  | _ => none

/-- Major opcode 0x1B (R71). -/
def decMaj1B (n : Nat) : Option Instr :=
  match n / 2 ^ 22 % 2 ^ 4 with
  | 0 => onlyIf (fx n 0 1 0) (.kand (bf 7 n 15) (bf 7 n 8) (bf 7 n 1))
  | 1 => onlyIf (fx n 0 1 0) (.kor (bf 7 n 15) (bf 7 n 8) (bf 7 n 1))
  | 2 => onlyIf (fx n 0 1 0) (.kxor (bf 7 n 15) (bf 7 n 8) (bf 7 n 1))
  | 3 => onlyIf (fx n 0 8 0) (.knot (bf 7 n 15) (bf 7 n 8))
  | 4 => onlyIf (fx n 0 8 0) (.kmov (bf 7 n 15) (bf 7 n 8))
  | 5 => onlyIf (fx n 0 8 0) (.kpop (bf 7 n 15) (bf 7 n 8))
  | 6 => onlyIf (fx n 0 8 0) (.kfirst (bf 7 n 15) (bf 7 n 8))
  | 7 => onlyIf (fx n 0 1 0 && fx n 8 7 0) (.vballot (bf 7 n 15) (bf 7 n 1))
  | 8 => onlyIf (fx n 0 15 0) (.vrngRd (bf 7 n 15)) <|> onlyIf (fx n 8 7 1) (.vrngSeed (bf 7 n 15) (bf 7 n 1) (bf 1 n 0)) <|> onlyIf (fx n 0 15 512) (.vrngStep (bf 7 n 15))
  | _ => none

/-- Major opcode 0x1C (R71). -/
def decMaj1C (n : Nat) : Option Instr :=
  match n / 2 ^ 23 % 2 ^ 3 with
  | 0 => some (.brZ (bf 6 n 17) (bf 17 n 0))
  | 1 => some (.brNz (bf 6 n 17) (bf 17 n 0))
  | 2 => some (.brLt (bf 6 n 17) (bf 17 n 0))
  | 3 => some (.brGe (bf 6 n 17) (bf 17 n 0))
  | 4 => some (.call (bf 6 n 17) (bf 17 n 0))
  | 5 => onlyIf (fx n 17 6 0) (.jmp (bf 17 n 0))
  | _ => none

/-- Major opcode 0x1D (R71). -/
def decMaj1D (n : Nat) : Option Instr :=
  match n / 2 ^ 23 % 2 ^ 3 with
  | 0 => some (.brkAny (bf 4 n 19) (bf 19 n 0))
  | 1 => some (.brkNone (bf 4 n 19) (bf 19 n 0))
  | 2 => some (.brd (bf 4 n 19) (bf 19 n 0))
  | 3 => onlyIf (fx n 19 4 0) (.mark (bf 19 n 0))
  | 4 => onlyIf (fx n 0 23 0) (.join)
  | _ => none

/-- Major opcode 0x1E (R71). -/
def decMaj1E (n : Nat) : Option Instr :=
  match n / 2 ^ 20 % 2 ^ 6 with
  | 0 => onlyIf (fx n 0 14 0) (.ret (bf 6 n 14))
  | 1 => onlyIf (fx n 0 14 0) (.jmpReg (bf 6 n 14))
  | 2 => onlyIf (fx n 0 8 0) (.callReg (bf 6 n 14) (bf 6 n 8))
  | 3 => onlyIf (fx n 0 20 0) (.exit)
  | _ => none

/-- Major opcode 0x20 (R71). -/
def decMaj20 (n : Nat) : Option Instr :=
  some (.sld (bf 3 n 23) (bf 7 n 16) (bf 6 n 10) (bf 8 n 2) (bf 2 n 0))

/-- Major opcode 0x21 (R71). -/
def decMaj21 (n : Nat) : Option Instr :=
  onlyIf (fx n 25 1 0) (.sst (bf 2 n 23) (bf 7 n 16) (bf 6 n 10) (bf 8 n 2) (bf 2 n 0))

/-- Major opcode 0x22 (R71). -/
def decMaj22 (n : Nat) : Option Instr :=
  some (.vld (bf 3 n 23) (bf 7 n 16) (bf 6 n 10) (bf 8 n 2) (bf 2 n 0))

/-- Major opcode 0x23 (R71). -/
def decMaj23 (n : Nat) : Option Instr :=
  onlyIf (fx n 25 1 0) (.vst (bf 2 n 23) (bf 7 n 16) (bf 6 n 10) (bf 8 n 2) (bf 2 n 0))

/-- Major opcode 0x24 (R71). -/
def decMaj24 (n : Nat) : Option Instr :=
  onlyIf (fx n 0 1 0) (.vldg (bf 3 n 23) (bf 7 n 16) (bf 6 n 10) (bf 7 n 3) (bf 2 n 1))

/-- Major opcode 0x25 (R71). -/
def decMaj25 (n : Nat) : Option Instr :=
  onlyIf (fx n 0 1 0 && fx n 25 1 0) (.vsts (bf 2 n 23) (bf 7 n 16) (bf 6 n 10) (bf 7 n 3) (bf 2 n 1))

/-- Major opcode 0x26 (R71). -/
def decMaj26 (n : Nat) : Option Instr :=
  some (.spld (bf 3 n 23) (bf 7 n 16) (bf 6 n 10) (bf 6 n 4) (bf 4 n 0))

/-- Major opcode 0x27 (R71). -/
def decMaj27 (n : Nat) : Option Instr :=
  match n / 2 ^ 25 % 2 ^ 1 with
  | 0 => onlyIf (fx n 0 2 0) (.spst (bf 2 n 23) (bf 7 n 16) (bf 6 n 10) (bf 8 n 2))
  | 1 => onlyIf (fx n 24 1 0) (.cld (bf 1 n 23) (bf 7 n 16) (bf 6 n 10) (bf 8 n 2) (bf 2 n 0))
  | _ => none

/-- Major opcode 0x28 (R71). -/
def decMaj28 (n : Nat) : Option Instr :=
  some (.atomScalar (bf 6 n 20) (bf 6 n 14) (bf 6 n 8) (bf 6 n 2) (bf 2 n 0))

/-- Major opcode 0x29 (R71). -/
def decMaj29 (n : Nat) : Option Instr :=
  onlyIf (fx n 0 3 0) (.atomVector (bf 6 n 20) (bf 7 n 13) (bf 7 n 6) (bf 2 n 4) (bf 1 n 3))

/-- Major opcode 0x2A (R71). -/
def decMaj2A (n : Nat) : Option Instr :=
  match n / 2 ^ 20 % 2 ^ 6 with
  | 0 => onlyIf (fx n 0 2 0) (.red (bf 7 n 13) (bf 7 n 6) (bf 4 n 2))
  | 1 => onlyIf (fx n 0 8 0) (.redClose (bf 6 n 14) (bf 6 n 8))
  | _ => none

/-- Major opcode 0x2B (R71). -/
def decMaj2B (n : Nat) : Option Instr :=
  match n / 2 ^ 20 % 2 ^ 6 with
  | 0 => onlyIf (fx n 0 16 0) (pickFenceAcq (n / 2 ^ 16 % 2 ^ 4))
  | 1 => onlyIf (fx n 0 16 0) (.fenceRel (bf 4 n 16))
  | 2 => onlyIf (fx n 0 16 0) (.fenceAr (bf 4 n 16))
  | _ => none

/-- Major opcode 0x2C (R71). -/
def decMaj2C (n : Nat) : Option Instr :=
  match n / 2 ^ 20 % 2 ^ 6 with
  | 0 => some (.cp (bf 6 n 14) (bf 6 n 8) (bf 6 n 2) (bf 1 n 1) (bf 1 n 0))
  | 1 => onlyIf (fx n 0 2 0) (.cpFill (bf 6 n 14) (bf 6 n 8) (bf 6 n 2))
  | 2 => some (.cpT (bf 7 n 13) (bf 7 n 6) (bf 6 n 0))
  | _ => none

/-- Major opcode 0x2D (R71). -/
def decMaj2D (n : Nat) : Option Instr :=
  match n / 2 ^ 20 % 2 ^ 6 with
  | 0 => some (.stMc (bf 6 n 14) (bf 6 n 8) (bf 8 n 0))
  | 1 => onlyIf (fx n 0 10 0) (.pf (bf 6 n 14) (bf 2 n 12) (bf 2 n 10))
  | _ => none

/-- Major opcode 0x2E (R71). -/
def decMaj2E (n : Nat) : Option Instr :=
  match n / 2 ^ 20 % 2 ^ 6 with
  | 0 => onlyIf (fx n 12 2 0) (.zclaim (bf 6 n 14) (bf 12 n 0))
  | 1 => onlyIf (fx n 12 8 0) (.zrel (bf 12 n 0))
  | 2 => onlyIf (fx n 12 8 0) (.zzero (bf 12 n 0))
  | 3 => onlyIf (fx n 8 6 0) (.oclaim (bf 6 n 14) (bf 8 n 0))
  | 4 => onlyIf (fx n 8 12 0) (.orel (bf 8 n 0))
  | _ => none

/-- Major opcode 0x2F (R71). -/
def decMaj2F (n : Nat) : Option Instr :=
  match n / 2 ^ 20 % 2 ^ 6 with
  | 0 => onlyIf (fx n 0 4 0) (.oload (bf 3 n 17) (bf 7 n 10) (bf 6 n 4))
  | 1 => onlyIf (fx n 0 10 0) (.mmul (bf 4 n 16) (bf 3 n 13) (bf 3 n 10))
  | 2 => some (.mloop (bf 4 n 16) (bf 7 n 9) (bf 7 n 2) (bf 2 n 0))
  | 3 => onlyIf (fx n 0 2 0) (.mdrain (bf 4 n 16) (bf 7 n 9) (bf 6 n 3) (bf 1 n 2))
  | _ => none

/-- Major opcode 0x30 (R71). -/
def decMaj30 (n : Nat) : Option Instr :=
  match n / 2 ^ 20 % 2 ^ 6 with
  | 0 => onlyIf (fx n 0 14 0) (.mfence (bf 6 n 14))
  | 1 => onlyIf (fx n 0 8 0 && fx n 14 6 0) (.mwait (bf 6 n 8))
  | 2 => onlyIf (fx n 0 20 0) (.mresume) <|> onlyIf (fx n 0 20 1) (.mresumeAbandon)
  | 3 => onlyIf (fx n 0 14 0) (.mstat (bf 6 n 14))
  | _ => none

/-- Major opcode 0x32 (R71). -/
def decMaj32 (n : Nat) : Option Instr :=
  match n / 2 ^ 20 % 2 ^ 6 with
  | 0 => some (.tinv (bf 6 n 14) (bf 6 n 8) (bf 6 n 2) (bf 2 n 0))
  | 1 => onlyIf (fx n 0 7 0) (.tprobe (bf 6 n 14) (bf 6 n 8) (bf 1 n 7))
  | 2 => onlyIf (fx n 0 2 0) (.rteAnn (bf 6 n 14) (bf 6 n 8) (bf 6 n 2))
  | 3 => onlyIf (fx n 0 2 0) (.rteWd (bf 6 n 14) (bf 6 n 8) (bf 6 n 2))
  | 4 => onlyIf (fx n 0 2 0) (.rteRole (bf 6 n 14) (bf 6 n 8) (bf 6 n 2))
  | 5 => onlyIf (fx n 2 6 0) (.rteQ (bf 6 n 14) (bf 6 n 8) (bf 2 n 0))
  | 6 => onlyIf (fx n 0 10 0) (.rteSync (bf 4 n 16) (bf 6 n 10))
  | _ => none

/-- Major opcode 0x33 (R71). -/
def decMaj33 (n : Nat) : Option Instr :=
  match n / 2 ^ 20 % 2 ^ 6 with
  | 0 => some (.cobjDecl (bf 6 n 14) (bf 6 n 8) (bf 8 n 0))
  | 1 => onlyIf (fx n 8 6 0) (.cobjDrop (bf 6 n 14) (bf 8 n 0))
  | 2 => onlyIf (fx n 8 6 0) (.cobjSync (bf 6 n 14) (bf 8 n 0)) <|> onlyIf (fx n 8 6 1) (.cobjSyncShared (bf 6 n 14) (bf 8 n 0))
  | 3 => onlyIf (fx n 8 6 0) (.cobjReclaim (bf 6 n 14) (bf 8 n 0))
  | 4 => onlyIf (fx n 7 1 0) (.tdtSet (bf 6 n 14) (bf 6 n 8) (bf 7 n 0))
  | 5 => onlyIf (fx n 7 4 0) (.tdtGet (bf 6 n 14) (bf 3 n 11) (bf 7 n 0))
  | 6 => onlyIf (fx n 7 13 0) (.tdtDrop (bf 7 n 0))
  | 7 => some (.treeSet (bf 6 n 14) (bf 6 n 8) (bf 8 n 0))
  | _ => none

/-- Major opcode 0x34 (R71). -/
def decMaj34 (n : Nat) : Option Instr :=
  match n / 2 ^ 20 % 2 ^ 6 with
  | 0 => onlyIf (fx n 0 8 0) (.launch (bf 6 n 14) (bf 6 n 8))
  | 1 => onlyIf (fx n 0 1 0) (.wlPush (bf 6 n 14) (bf 7 n 7) (bf 6 n 1))
  | 2 => some (.wlPop (bf 7 n 13) (bf 6 n 7) (bf 6 n 1) (bf 1 n 0))
  | 3 => onlyIf (fx n 6 14 0) (.wlDone (bf 6 n 0))
  | 4 => onlyIf (fx n 0 2 0) (.tierRec (bf 6 n 14) (bf 6 n 8) (bf 6 n 2))
  | 5 => onlyIf (fx n 0 2 0) (.tierHintUp (bf 6 n 14) (bf 6 n 8) (bf 6 n 2)) <|> onlyIf (fx n 0 2 1) (.tierHintDown (bf 6 n 14) (bf 6 n 8) (bf 6 n 2))
  | 6 => onlyIf (fx n 0 8 0) (.tierQ (bf 6 n 14) (bf 6 n 8))
  | _ => none

/-- Major opcode 0x35 (R71). -/
def decMaj35 (n : Nat) : Option Instr :=
  match n / 2 ^ 20 % 2 ^ 6 with
  | 0 => onlyIf (fx n 0 2 0) (.waitc (bf 6 n 14) (bf 6 n 8) (bf 6 n 2))
  | 1 => onlyIf (fx n 12 8 0) (.waitF (bf 12 n 0))
  | 2 => onlyIf (fx n 0 16 0) (.bar (bf 3 n 17) (bf 1 n 16))
  | 3 => onlyIf (fx n 12 2 0) (.pcrd (bf 6 n 14) (bf 12 n 0))
  | _ => none

/-- Major opcode 0x36 (R71). -/
def decMaj36 (n : Nat) : Option Instr :=
  match n / 2 ^ 20 % 2 ^ 6 with
  | 0 => onlyIf (fx n 16 4 0) (.trap (bf 16 n 0))
  | 1 => onlyIf (fx n 0 20 0) (.tret)
  | 2 => onlyIf (fx n 12 8 0) (.rcp (bf 12 n 0))
  | 3 => onlyIf (fx n 0 20 0) (.yield)
  | 4 => onlyIf (fx n 12 2 0) (.sysrd (bf 6 n 14) (bf 12 n 0))
  | 5 => onlyIf (fx n 12 1 0) (.syswr (bf 7 n 13) (bf 12 n 0))
  | 6 => onlyIf (fx n 0 8 0) (.halt (bf 6 n 14) (bf 6 n 8))
  | _ => none

/-- Major opcode 0x3E (R71). -/
def decMaj3E (n : Nat) : Option Instr :=
  match n / 2 ^ 24 % 2 ^ 2 with
  | 0 => onlyIf (fx n 22 2 0) (.hintLit (bf 22 n 0)) <|> onlyIf (fx n 22 2 1) (.hintLith (bf 22 n 0)) <|> onlyIf (fx n 6 18 131072) (.hintDly (bf 6 n 0)) <|> onlyIf (fx n 12 12 3072) (.hintFlg (bf 12 n 0))
  | 1 => onlyIf (fx n 4 20 0) (pickHintMsk (n / 2 ^ 0 % 2 ^ 4)) <|> onlyIf (fx n 6 18 65536) (.hintRnd (bf 2 n 4) (bf 1 n 3) (bf 3 n 0)) <|> onlyIf (fx n 2 22 2097152) (pickHintRet (n / 2 ^ 0 % 2 ^ 2)) <|> onlyIf (fx n 6 18 196608) (.hintScp (bf 4 n 2) (bf 2 n 0))
  | 3 => some (.hintNop (bf 2 n 22) (bf 22 n 0))
  | _ => none

/-- The instruction of a word, none where the word fits no row of the tables (R71, R76, R81). -/
def decodeWord (w : Word) : Option Instr :=
  let n := w.toNat
  match n / 2 ^ 26 with
  | 0x01 => decMaj01 n
  | 0x02 => decMaj02 n
  | 0x03 => decMaj03 n
  | 0x04 => decMaj04 n
  | 0x05 => decMaj05 n
  | 0x06 => decMaj06 n
  | 0x07 => decMaj07 n
  | 0x08 => decMaj08 n
  | 0x09 => decMaj09 n
  | 0x0A => decMaj0A n
  | 0x0B => decMaj0B n
  | 0x0C => decMaj0C n
  | 0x0D => decMaj0D n
  | 0x10 => decMaj10 n
  | 0x11 => decMaj11 n
  | 0x12 => decMaj12 n
  | 0x13 => decMaj13 n
  | 0x14 => decMaj14 n
  | 0x15 => decMaj15 n
  | 0x16 => decMaj16 n
  | 0x18 => decMaj18 n
  | 0x19 => decMaj19 n
  | 0x1A => decMaj1A n
  | 0x1B => decMaj1B n
  | 0x1C => decMaj1C n
  | 0x1D => decMaj1D n
  | 0x1E => decMaj1E n
  | 0x20 => decMaj20 n
  | 0x21 => decMaj21 n
  | 0x22 => decMaj22 n
  | 0x23 => decMaj23 n
  | 0x24 => decMaj24 n
  | 0x25 => decMaj25 n
  | 0x26 => decMaj26 n
  | 0x27 => decMaj27 n
  | 0x28 => decMaj28 n
  | 0x29 => decMaj29 n
  | 0x2A => decMaj2A n
  | 0x2B => decMaj2B n
  | 0x2C => decMaj2C n
  | 0x2D => decMaj2D n
  | 0x2E => decMaj2E n
  | 0x2F => decMaj2F n
  | 0x30 => decMaj30 n
  | 0x32 => decMaj32 n
  | 0x33 => decMaj33 n
  | 0x34 => decMaj34 n
  | 0x35 => decMaj35 n
  | 0x36 => decMaj36 n
  | 0x3E => decMaj3E n
  | _ => none

/-- Why bytes are not an instruction. -/
inductive DecodeError
  /-- Fewer than four bytes. -/
  | truncated
  /-- The word fits no row: it traps with ILLEGAL_OPCODE when issued (R81). -/
  | illegal (w : Word)
  deriving DecidableEq, Repr

/-- The decoder on bytes: the instruction of the first word and the bytes after it (R64: little-endian). -/
def decode : List Byte → Except DecodeError (Instr × List Byte)
  | b0 :: b1 :: b2 :: b3 :: rest =>
    let w : Word := BitVec.ofNat 32 (ofLeBytes [b0, b1, b2, b3])
    match decodeWord w with
    | some i => .ok (i, rest)
    | none => .error (.illegal w)
  | _ => .error .truncated

/-- The decoder's answer on an instruction whose bits are numbered as the opcode table numbers them. -/
def decodeTableWord (_nbits w : Nat) : Option Instr :=
  match decode (leBytes 4 w) with
  | .ok r => some r.1
  | .error _ => none

/-- The level at which the function of a word is privileged, whatever its other fields (R3, R81 check 3):
the words of a privileged function with a nonzero reserved field raise PRIVILEGE below it. The level of a system
register access is the register's own (R4) and is added where system registers are defined. -/
def wordPriv (w : Word) : Nat :=
  match w.toNat / 2 ^ 26, w.toNat / 2 ^ 20 % 64 with
  | 0x2C, 1 => 2
  | 0x32, 0 => 1
  | 0x32, 1 => if w.toNat / 128 % 2 = 1 then 2 else 1
  | 0x32, 2 => 2
  | 0x32, 3 => 2
  | 0x32, 4 => 2
  | 0x32, 5 => 2
  | 0x32, 6 => 1
  | 0x33, 3 => 1
  | 0x33, 7 => 2
  | 0x36, 1 => 1
  | 0x36, 6 => 2
  | _, _ => 0

/-- The word of a number. -/
def word (n : Nat) : Option Word := some (BitVec.ofNat 32 n)

set_option maxHeartbeats 4000000 in
/-- The word of an instruction, from the same encoding tables; none for an event. -/
def encode : Instr → Option Word
  | .sadd x0 x1 x2 x3 => word (134217728 + 32768 * x0.toNat + 256 * x1.toNat + 2 * x2.toNat + x3.toNat)
  | .ssub x0 x1 x2 x3 => word (138412032 + 32768 * x0.toNat + 256 * x1.toNat + 2 * x2.toNat + x3.toNat)
  | .smullo x0 x1 x2 x3 => word (142606336 + 32768 * x0.toNat + 256 * x1.toNat + 2 * x2.toNat + x3.toNat)
  | .smulhiS x0 x1 x2 x3 => word (146800640 + 32768 * x0.toNat + 256 * x1.toNat + 2 * x2.toNat + x3.toNat)
  | .smulhiU x0 x1 x2 x3 => word (150994944 + 32768 * x0.toNat + 256 * x1.toNat + 2 * x2.toNat + x3.toNat)
  | .smad x0 x1 x2 x3 => word (155189248 + 32768 * x0.toNat + 256 * x1.toNat + 2 * x2.toNat + x3.toNat)
  | .sminS x0 x1 x2 x3 => word (159383552 + 32768 * x0.toNat + 256 * x1.toNat + 2 * x2.toNat + x3.toNat)
  | .sminU x0 x1 x2 x3 => word (163577856 + 32768 * x0.toNat + 256 * x1.toNat + 2 * x2.toNat + x3.toNat)
  | .smaxS x0 x1 x2 x3 => word (167772160 + 32768 * x0.toNat + 256 * x1.toNat + 2 * x2.toNat + x3.toNat)
  | .smaxU x0 x1 x2 x3 => word (171966464 + 32768 * x0.toNat + 256 * x1.toNat + 2 * x2.toNat + x3.toNat)
  | .saddsS x0 x1 x2 x3 => word (176160768 + 32768 * x0.toNat + 256 * x1.toNat + 2 * x2.toNat + x3.toNat)
  | .saddsU x0 x1 x2 x3 => word (180355072 + 32768 * x0.toNat + 256 * x1.toNat + 2 * x2.toNat + x3.toNat)
  | .saddc x0 x1 x2 x3 => word (184549376 + 32768 * x0.toNat + 256 * x1.toNat + 2 * x2.toNat + x3.toNat)
  | .ssubb x0 x1 x2 x3 => word (188743680 + 32768 * x0.toNat + 256 * x1.toNat + 2 * x2.toNat + x3.toNat)
  | .sabs x0 x1 x2 => word (192937984 + 32768 * x0.toNat + 256 * x1.toNat + x2.toNat)
  | .sneg x0 x1 x2 => word (197132288 + 32768 * x0.toNat + 256 * x1.toNat + x2.toNat)
  | .sand x0 x1 x2 x3 => word (201326592 + 32768 * x0.toNat + 256 * x1.toNat + 2 * x2.toNat + x3.toNat)
  | .sor x0 x1 x2 x3 => word (205520896 + 32768 * x0.toNat + 256 * x1.toNat + 2 * x2.toNat + x3.toNat)
  | .sxor x0 x1 x2 x3 => word (209715200 + 32768 * x0.toNat + 256 * x1.toNat + 2 * x2.toNat + x3.toNat)
  | .sandn x0 x1 x2 x3 => word (213909504 + 32768 * x0.toNat + 256 * x1.toNat + 2 * x2.toNat + x3.toNat)
  | .snot x0 x1 x2 => word (218103808 + 32768 * x0.toNat + 256 * x1.toNat + x2.toNat)
  | .sshl x0 x1 x2 x3 => word (222298112 + 32768 * x0.toNat + 256 * x1.toNat + 2 * x2.toNat + x3.toNat)
  | .sshr x0 x1 x2 x3 => word (226492416 + 32768 * x0.toNat + 256 * x1.toNat + 2 * x2.toNat + x3.toNat)
  | .ssar x0 x1 x2 x3 => word (230686720 + 32768 * x0.toNat + 256 * x1.toNat + 2 * x2.toNat + x3.toNat)
  | .srot x0 x1 x2 x3 => word (234881024 + 32768 * x0.toNat + 256 * x1.toNat + 2 * x2.toNat + x3.toNat)
  | .sclz x0 x1 x2 => word (239075328 + 32768 * x0.toNat + 256 * x1.toNat + x2.toNat)
  | .spop x0 x1 x2 => word (243269632 + 32768 * x0.toNat + 256 * x1.toNat + x2.toNat)
  | .sbrev x0 x1 x2 => word (247463936 + 32768 * x0.toNat + 256 * x1.toNat + x2.toNat)
  | .sbfeU x0 x1 x2 x3 => word (251658240 + 32768 * x0.toNat + 256 * x1.toNat + 2 * x2.toNat + x3.toNat)
  | .sbfeS x0 x1 x2 x3 => word (255852544 + 32768 * x0.toNat + 256 * x1.toNat + 2 * x2.toNat + x3.toNat)
  | .sbfi x0 x1 x2 x3 => word (260046848 + 32768 * x0.toNat + 256 * x1.toNat + 2 * x2.toNat + x3.toNat)
  | .sunpack x0 x1 x2 => word (264241152 + 32768 * x0.toNat + 256 * x1.toNat + x2.toNat)
  | .scmp x0 x1 x2 x3 x4 => word (268435456 + 4194304 * x0.toNat + 32768 * x1.toNat + 256 * x2.toNat + 2 * x3.toNat + x4.toNat)
  | .smov x0 x1 x2 => word (301989888 + 32768 * x0.toNat + 256 * x1.toNat + x2.toNat)
  | .sext8S x0 x1 x2 => word (306184192 + 32768 * x0.toNat + 256 * x1.toNat + x2.toNat)
  | .sext8U x0 x1 x2 => word (310378496 + 32768 * x0.toNat + 256 * x1.toNat + x2.toNat)
  | .sext16S x0 x1 x2 => word (314572800 + 32768 * x0.toNat + 256 * x1.toNat + x2.toNat)
  | .sext16U x0 x1 x2 => word (318767104 + 32768 * x0.toNat + 256 * x1.toNat + x2.toNat)
  | .slea x0 x1 x2 => word (322961408 + 32768 * x0.toNat + 256 * x1.toNat + 2 * x2.toNat)
  | .ssel x0 x1 x2 x3 => word (327155712 + 32768 * x0.toNat + 256 * x1.toNat + 2 * x2.toNat + x3.toNat)
  | .spack x0 x1 x2 x3 => word (331350016 + 32768 * x0.toNat + 256 * x1.toNat + 2 * x2.toNat + x3.toNat)
  | .saddImm x0 x1 x2 => word (335544320 + 65536 * x0.toNat + 512 * x1.toNat + x2.toNat)
  | .sandImm x0 x1 x2 => word (343932928 + 65536 * x0.toNat + 512 * x1.toNat + x2.toNat)
  | .sorImm x0 x1 x2 => word (352321536 + 65536 * x0.toNat + 512 * x1.toNat + x2.toNat)
  | .sxorImm x0 x1 x2 => word (360710144 + 65536 * x0.toNat + 512 * x1.toNat + x2.toNat)
  | .sshlImm x0 x1 x2 => word (369098752 + 65536 * x0.toNat + 512 * x1.toNat + x2.toNat)
  | .sshrImm x0 x1 x2 => word (377487360 + 65536 * x0.toNat + 512 * x1.toNat + x2.toNat)
  | .ssarImm x0 x1 x2 => word (385875968 + 65536 * x0.toNat + 512 * x1.toNat + x2.toNat)
  | .smovi x0 x1 => word (394264576 + 65536 * x0.toNat + x1.toNat)
  | .sdivS x0 x1 x2 x3 => word (402653184 + 4194304 * x0.toNat + 32768 * x1.toNat + 256 * x2.toNat + 2 * x3.toNat)
  | .sdivU x0 x1 x2 x3 => word (402653185 + 4194304 * x0.toNat + 32768 * x1.toNat + 256 * x2.toNat + 2 * x3.toNat)
  | .sremS x0 x1 x2 x3 => word (469762048 + 4194304 * x0.toNat + 32768 * x1.toNat + 256 * x2.toNat + 2 * x3.toNat)
  | .sremU x0 x1 x2 x3 => word (469762049 + 4194304 * x0.toNat + 32768 * x1.toNat + 256 * x2.toNat + 2 * x3.toNat)
  | .vadd x0 x1 x2 x3 => word (536870912 + 32768 * x0.toNat + 256 * x1.toNat + 2 * x2.toNat + x3.toNat)
  | .vsub x0 x1 x2 x3 => word (541065216 + 32768 * x0.toNat + 256 * x1.toNat + 2 * x2.toNat + x3.toNat)
  | .vmullo x0 x1 x2 x3 => word (545259520 + 32768 * x0.toNat + 256 * x1.toNat + 2 * x2.toNat + x3.toNat)
  | .vmulhiS x0 x1 x2 x3 => word (549453824 + 32768 * x0.toNat + 256 * x1.toNat + 2 * x2.toNat + x3.toNat)
  | .vmulhiU x0 x1 x2 x3 => word (553648128 + 32768 * x0.toNat + 256 * x1.toNat + 2 * x2.toNat + x3.toNat)
  | .vmad x0 x1 x2 x3 => word (557842432 + 32768 * x0.toNat + 256 * x1.toNat + 2 * x2.toNat + x3.toNat)
  | .vminS x0 x1 x2 x3 => word (562036736 + 32768 * x0.toNat + 256 * x1.toNat + 2 * x2.toNat + x3.toNat)
  | .vminU x0 x1 x2 x3 => word (566231040 + 32768 * x0.toNat + 256 * x1.toNat + 2 * x2.toNat + x3.toNat)
  | .vmaxS x0 x1 x2 x3 => word (570425344 + 32768 * x0.toNat + 256 * x1.toNat + 2 * x2.toNat + x3.toNat)
  | .vmaxU x0 x1 x2 x3 => word (574619648 + 32768 * x0.toNat + 256 * x1.toNat + 2 * x2.toNat + x3.toNat)
  | .vaddsS x0 x1 x2 x3 => word (578813952 + 32768 * x0.toNat + 256 * x1.toNat + 2 * x2.toNat + x3.toNat)
  | .vaddsU x0 x1 x2 x3 => word (583008256 + 32768 * x0.toNat + 256 * x1.toNat + 2 * x2.toNat + x3.toNat)
  | .vabs x0 x1 x2 => word (587202560 + 32768 * x0.toNat + 2 * x1.toNat + x2.toNat)
  | .vneg x0 x1 x2 => word (591396864 + 32768 * x0.toNat + 2 * x1.toNat + x2.toNat)
  | .vsel x0 x1 x2 x3 => word (595591168 + 32768 * x0.toNat + 256 * x1.toNat + 2 * x2.toNat + x3.toNat)
  | .vmov x0 x1 x2 => word (599785472 + 32768 * x0.toNat + 2 * x1.toNat + x2.toNat)
  | .vand x0 x1 x2 x3 => word (603979776 + 32768 * x0.toNat + 256 * x1.toNat + 2 * x2.toNat + x3.toNat)
  | .vor x0 x1 x2 x3 => word (608174080 + 32768 * x0.toNat + 256 * x1.toNat + 2 * x2.toNat + x3.toNat)
  | .vxor x0 x1 x2 x3 => word (612368384 + 32768 * x0.toNat + 256 * x1.toNat + 2 * x2.toNat + x3.toNat)
  | .vandn x0 x1 x2 x3 => word (616562688 + 32768 * x0.toNat + 256 * x1.toNat + 2 * x2.toNat + x3.toNat)
  | .vnot x0 x1 x2 => word (620756992 + 32768 * x0.toNat + 2 * x1.toNat + x2.toNat)
  | .vshl x0 x1 x2 x3 => word (624951296 + 32768 * x0.toNat + 256 * x1.toNat + 2 * x2.toNat + x3.toNat)
  | .vshr x0 x1 x2 x3 => word (629145600 + 32768 * x0.toNat + 256 * x1.toNat + 2 * x2.toNat + x3.toNat)
  | .vsar x0 x1 x2 x3 => word (633339904 + 32768 * x0.toNat + 256 * x1.toNat + 2 * x2.toNat + x3.toNat)
  | .vrot x0 x1 x2 x3 => word (637534208 + 32768 * x0.toNat + 256 * x1.toNat + 2 * x2.toNat + x3.toNat)
  | .vclz x0 x1 x2 => word (641728512 + 32768 * x0.toNat + 2 * x1.toNat + x2.toNat)
  | .vpop x0 x1 x2 => word (645922816 + 32768 * x0.toNat + 2 * x1.toNat + x2.toNat)
  | .vbrev x0 x1 x2 => word (650117120 + 32768 * x0.toNat + 2 * x1.toNat + x2.toNat)
  | .vbfeU x0 x1 x2 x3 => word (654311424 + 32768 * x0.toNat + 256 * x1.toNat + 2 * x2.toNat + x3.toNat)
  | .vbfeS x0 x1 x2 x3 => word (658505728 + 32768 * x0.toNat + 256 * x1.toNat + 2 * x2.toNat + x3.toNat)
  | .vbfi x0 x1 x2 x3 => word (662700032 + 32768 * x0.toNat + 256 * x1.toNat + 2 * x2.toNat + x3.toNat)
  | .vlea x0 x1 x2 x3 => word (666894336 + 32768 * x0.toNat + 256 * x1.toNat + 2 * x2.toNat + x3.toNat)
  | .vcmp x0 x1 x2 x3 x4 => word (671088640 + 4194304 * x0.toNat + 32768 * x1.toNat + 256 * x2.toNat + 2 * x3.toNat + x4.toNat)
  | .vext8S x0 x1 x2 => word (704643072 + 32768 * x0.toNat + 2 * x1.toNat + x2.toNat)
  | .vext8U x0 x1 x2 => word (708837376 + 32768 * x0.toNat + 2 * x1.toNat + x2.toNat)
  | .vext16S x0 x1 x2 => word (713031680 + 32768 * x0.toNat + 2 * x1.toNat + x2.toNat)
  | .vext16U x0 x1 x2 => word (717225984 + 32768 * x0.toNat + 2 * x1.toNat + x2.toNat)
  | .vpack x0 x1 x2 x3 => word (721420288 + 32768 * x0.toNat + 256 * x1.toNat + 2 * x2.toNat + x3.toNat)
  | .vunpack x0 x1 x2 => word (725614592 + 32768 * x0.toNat + 2 * x1.toNat + x2.toNat)
  | .vaddImm x0 x1 x2 => word (738197504 + 65536 * x0.toNat + 512 * x1.toNat + x2.toNat)
  | .vandImm x0 x1 x2 => word (746586112 + 65536 * x0.toNat + 512 * x1.toNat + x2.toNat)
  | .vorImm x0 x1 x2 => word (754974720 + 65536 * x0.toNat + 512 * x1.toNat + x2.toNat)
  | .vxorImm x0 x1 x2 => word (763363328 + 65536 * x0.toNat + 512 * x1.toNat + x2.toNat)
  | .vshlImm x0 x1 x2 => word (771751936 + 65536 * x0.toNat + 512 * x1.toNat + x2.toNat)
  | .vshrImm x0 x1 x2 => word (780140544 + 65536 * x0.toNat + 512 * x1.toNat + x2.toNat)
  | .vsarImm x0 x1 x2 => word (788529152 + 65536 * x0.toNat + 512 * x1.toNat + x2.toNat)
  | .vmovi x0 x1 => word (796917760 + 65536 * x0.toNat + x1.toNat)
  | .vdivS x0 x1 x2 x3 => word (805306368 + 4194304 * x0.toNat + 32768 * x1.toNat + 256 * x2.toNat + 2 * x3.toNat)
  | .vdivU x0 x1 x2 x3 => word (805306369 + 4194304 * x0.toNat + 32768 * x1.toNat + 256 * x2.toNat + 2 * x3.toNat)
  | .vremS x0 x1 x2 x3 => word (872415232 + 4194304 * x0.toNat + 32768 * x1.toNat + 256 * x2.toNat + 2 * x3.toNat)
  | .vremU x0 x1 x2 x3 => word (872415233 + 4194304 * x0.toNat + 32768 * x1.toNat + 256 * x2.toNat + 2 * x3.toNat)
  | .vfadd x0 x1 x2 x3 => word (1073741824 + 32768 * x0.toNat + 256 * x1.toNat + 2 * x2.toNat + x3.toNat)
  | .vfsub x0 x1 x2 x3 => word (1077936128 + 32768 * x0.toNat + 256 * x1.toNat + 2 * x2.toNat + x3.toNat)
  | .vfmul x0 x1 x2 x3 => word (1082130432 + 32768 * x0.toNat + 256 * x1.toNat + 2 * x2.toNat + x3.toNat)
  | .vfma x0 x1 x2 x3 => word (1086324736 + 32768 * x0.toNat + 256 * x1.toNat + 2 * x2.toNat + x3.toNat)
  | .vfms x0 x1 x2 x3 => word (1090519040 + 32768 * x0.toNat + 256 * x1.toNat + 2 * x2.toNat + x3.toNat)
  | .vfnma x0 x1 x2 x3 => word (1094713344 + 32768 * x0.toNat + 256 * x1.toNat + 2 * x2.toNat + x3.toNat)
  | .vfminNum x0 x1 x2 x3 => word (1098907648 + 32768 * x0.toNat + 256 * x1.toNat + 2 * x2.toNat + x3.toNat)
  | .vfminProp x0 x1 x2 x3 => word (1103101952 + 32768 * x0.toNat + 256 * x1.toNat + 2 * x2.toNat + x3.toNat)
  | .vfmaxNum x0 x1 x2 x3 => word (1107296256 + 32768 * x0.toNat + 256 * x1.toNat + 2 * x2.toNat + x3.toNat)
  | .vfmaxProp x0 x1 x2 x3 => word (1111490560 + 32768 * x0.toNat + 256 * x1.toNat + 2 * x2.toNat + x3.toNat)
  | .vfabs x0 x1 x2 => word (1115684864 + 32768 * x0.toNat + 2 * x1.toNat + x2.toNat)
  | .vfneg x0 x1 x2 => word (1119879168 + 32768 * x0.toNat + 2 * x1.toNat + x2.toNat)
  | .vfscale x0 x1 x2 x3 => word (1124073472 + 32768 * x0.toNat + 256 * x1.toNat + 2 * x2.toNat + x3.toNat)
  | .vfround x0 x1 x2 => word (1128267776 + 32768 * x0.toNat + 2 * x1.toNat + x2.toNat)
  | .vfclass x0 x1 x2 => word (1132462080 + 32768 * x0.toNat + 2 * x1.toNat + x2.toNat)
  | .vfcmp x0 x1 x2 x3 x4 => word (1140850688 + 4194304 * x0.toNat + 32768 * x1.toNat + 256 * x2.toNat + 2 * x3.toNat + x4.toNat)
  | .vcvt x0 x1 x2 x3 => word (1207959552 + 4194304 * x0.toNat + 32768 * x1.toNat + 256 * x2.toNat + 2 * x3.toNat)
  | .vpkE4m3 x0 x1 x2 x3 => word (1275068416 + 32768 * x0.toNat + 256 * x1.toNat + 2 * x2.toNat + x3.toNat)
  | .vpkE5m2 x0 x1 x2 x3 => word (1279262720 + 32768 * x0.toNat + 256 * x1.toNat + 2 * x2.toNat + x3.toNat)
  | .vpkIo4 x0 x1 x2 x3 => word (1283457024 + 32768 * x0.toNat + 256 * x1.toNat + 2 * x2.toNat + x3.toNat)
  | .vunpkE4m3 x0 x1 x2 x3 => word (1287651328 + 32768 * x0.toNat + 256 * x1.toNat + 2 * x2.toNat + x3.toNat)
  | .vunpkE5m2 x0 x1 x2 x3 => word (1291845632 + 32768 * x0.toNat + 256 * x1.toNat + 2 * x2.toNat + x3.toNat)
  | .vunpkIo4 x0 x1 x2 x3 => word (1296039936 + 32768 * x0.toNat + 256 * x1.toNat + 2 * x2.toNat + x3.toNat)
  | .vhaddF16 x0 x1 x2 x3 => word (1342177280 + 32768 * x0.toNat + 256 * x1.toNat + 2 * x2.toNat + x3.toNat)
  | .vhaddBf16 x0 x1 x2 x3 => word (1346371584 + 32768 * x0.toNat + 256 * x1.toNat + 2 * x2.toNat + x3.toNat)
  | .vhmulF16 x0 x1 x2 x3 => word (1350565888 + 32768 * x0.toNat + 256 * x1.toNat + 2 * x2.toNat + x3.toNat)
  | .vhmulBf16 x0 x1 x2 x3 => word (1354760192 + 32768 * x0.toNat + 256 * x1.toNat + 2 * x2.toNat + x3.toNat)
  | .vhfmaF16 x0 x1 x2 x3 => word (1358954496 + 32768 * x0.toNat + 256 * x1.toNat + 2 * x2.toNat + x3.toNat)
  | .vhfmaBf16 x0 x1 x2 x3 => word (1363148800 + 32768 * x0.toNat + 256 * x1.toNat + 2 * x2.toNat + x3.toNat)
  | .vfrcp x0 x1 x2 => word (1409286144 + 4194304 * x0.toNat + 32768 * x1.toNat + 256 * x2.toNat)
  | .vfrsq x0 x1 x2 => word (1409286146 + 4194304 * x0.toNat + 32768 * x1.toNat + 256 * x2.toNat)
  | .vfsqrt x0 x1 x2 => word (1409286148 + 4194304 * x0.toNat + 32768 * x1.toNat + 256 * x2.toNat)
  | .vfexp2 x0 x1 x2 => word (1409286150 + 4194304 * x0.toNat + 32768 * x1.toNat + 256 * x2.toNat)
  | .vflog2 x0 x1 x2 => word (1409286152 + 4194304 * x0.toNat + 32768 * x1.toNat + 256 * x2.toNat)
  | .vfsin x0 x1 x2 => word (1409286154 + 4194304 * x0.toNat + 32768 * x1.toNat + 256 * x2.toNat)
  | .vfcos x0 x1 x2 => word (1409286156 + 4194304 * x0.toNat + 32768 * x1.toNat + 256 * x2.toNat)
  | .vfdot2Bf16 x0 x1 x2 x3 => word (1476395008 + 4194304 * x0.toNat + 32768 * x1.toNat + 256 * x2.toNat + 2 * x3.toNat)
  | .vfdot4Fp8 x0 x1 x2 x3 => word (1476395009 + 4194304 * x0.toNat + 32768 * x1.toNat + 256 * x2.toNat + 2 * x3.toNat)
  | .vshuf x0 x1 x2 x3 => word (1610612736 + 4194304 * x0.toNat + 32768 * x1.toNat + 256 * x2.toNat + 2 * x3.toNat)
  | .vlrot x0 x1 x2 x3 => word (1610612737 + 4194304 * x0.toNat + 32768 * x1.toNat + 256 * x2.toNat + 2 * x3.toNat)
  | .vscan x0 x1 x2 x3 => word (1677721600 + 4194304 * x0.toNat + 32768 * x1.toNat + 256 * x2.toNat + 2 * x3.toNat)
  | .vscanExcl x0 x1 x2 x3 => word (1677721601 + 4194304 * x0.toNat + 32768 * x1.toNat + 256 * x2.toNat + 2 * x3.toNat)
  | .vred x0 x1 x2 x3 => word (1744830464 + 4194304 * x0.toNat + 32768 * x1.toNat + 256 * x2.toNat + 2 * x3.toNat)
  | .vbcast x0 x1 x2 x3 => word (1744830465 + 4194304 * x0.toNat + 32768 * x1.toNat + 256 * x2.toNat + 2 * x3.toNat)
  | .kand x0 x1 x2 => word (1811939328 + 32768 * x0.toNat + 256 * x1.toNat + 2 * x2.toNat)
  | .kor x0 x1 x2 => word (1816133632 + 32768 * x0.toNat + 256 * x1.toNat + 2 * x2.toNat)
  | .kxor x0 x1 x2 => word (1820327936 + 32768 * x0.toNat + 256 * x1.toNat + 2 * x2.toNat)
  | .knot x0 x1 => word (1824522240 + 32768 * x0.toNat + 256 * x1.toNat)
  | .kmov x0 x1 => word (1828716544 + 32768 * x0.toNat + 256 * x1.toNat)
  | .kpop x0 x1 => word (1832910848 + 32768 * x0.toNat + 256 * x1.toNat)
  | .kfirst x0 x1 => word (1837105152 + 32768 * x0.toNat + 256 * x1.toNat)
  | .vballot x0 x1 => word (1841299456 + 32768 * x0.toNat + 2 * x1.toNat)
  | .vrngRd x0 => word (1845493760 + 32768 * x0.toNat)
  | .vrngSeed x0 x1 x2 => word (1845494016 + 32768 * x0.toNat + 2 * x1.toNat + x2.toNat)
  | .vrngStep x0 => word (1845494272 + 32768 * x0.toNat)
  | .brZ x0 x1 => word (1879048192 + 131072 * x0.toNat + x1.toNat)
  | .brNz x0 x1 => word (1887436800 + 131072 * x0.toNat + x1.toNat)
  | .brLt x0 x1 => word (1895825408 + 131072 * x0.toNat + x1.toNat)
  | .brGe x0 x1 => word (1904214016 + 131072 * x0.toNat + x1.toNat)
  | .call x0 x1 => word (1912602624 + 131072 * x0.toNat + x1.toNat)
  | .jmp x0 => word (1920991232 + x0.toNat)
  | .brkAny x0 x1 => word (1946157056 + 524288 * x0.toNat + x1.toNat)
  | .brkNone x0 x1 => word (1954545664 + 524288 * x0.toNat + x1.toNat)
  | .brd x0 x1 => word (1962934272 + 524288 * x0.toNat + x1.toNat)
  | .mark x0 => word (1971322880 + x0.toNat)
  | .ret x0 => word (2013265920 + 16384 * x0.toNat)
  | .jmpReg x0 => word (2014314496 + 16384 * x0.toNat)
  | .callReg x0 x1 => word (2015363072 + 16384 * x0.toNat + 256 * x1.toNat)
  | .sld x0 x1 x2 x3 x4 => word (2147483648 + 8388608 * x0.toNat + 65536 * x1.toNat + 1024 * x2.toNat + 4 * x3.toNat + x4.toNat)
  | .sst x0 x1 x2 x3 x4 => word (2214592512 + 8388608 * x0.toNat + 65536 * x1.toNat + 1024 * x2.toNat + 4 * x3.toNat + x4.toNat)
  | .vld x0 x1 x2 x3 x4 => word (2281701376 + 8388608 * x0.toNat + 65536 * x1.toNat + 1024 * x2.toNat + 4 * x3.toNat + x4.toNat)
  | .vst x0 x1 x2 x3 x4 => word (2348810240 + 8388608 * x0.toNat + 65536 * x1.toNat + 1024 * x2.toNat + 4 * x3.toNat + x4.toNat)
  | .vldg x0 x1 x2 x3 x4 => word (2415919104 + 8388608 * x0.toNat + 65536 * x1.toNat + 1024 * x2.toNat + 8 * x3.toNat + 2 * x4.toNat)
  | .vsts x0 x1 x2 x3 x4 => word (2483027968 + 8388608 * x0.toNat + 65536 * x1.toNat + 1024 * x2.toNat + 8 * x3.toNat + 2 * x4.toNat)
  | .spld x0 x1 x2 x3 x4 => word (2550136832 + 8388608 * x0.toNat + 65536 * x1.toNat + 1024 * x2.toNat + 16 * x3.toNat + x4.toNat)
  | .spst x0 x1 x2 x3 => word (2617245696 + 8388608 * x0.toNat + 65536 * x1.toNat + 1024 * x2.toNat + 4 * x3.toNat)
  | .cld x0 x1 x2 x3 x4 => word (2650800128 + 8388608 * x0.toNat + 65536 * x1.toNat + 1024 * x2.toNat + 4 * x3.toNat + x4.toNat)
  | .atomScalar x0 x1 x2 x3 x4 => word (2684354560 + 1048576 * x0.toNat + 16384 * x1.toNat + 256 * x2.toNat + 4 * x3.toNat + x4.toNat)
  | .atomVector x0 x1 x2 x3 x4 => word (2751463424 + 1048576 * x0.toNat + 8192 * x1.toNat + 64 * x2.toNat + 16 * x3.toNat + 8 * x4.toNat)
  | .red x0 x1 x2 => word (2818572288 + 8192 * x0.toNat + 64 * x1.toNat + 4 * x2.toNat)
  | .redClose x0 x1 => word (2819620864 + 16384 * x0.toNat + 256 * x1.toNat)
  | .fenceRel x0 => word (2886729728 + 65536 * x0.toNat)
  | .fenceAr x0 => word (2887778304 + 65536 * x0.toNat)
  | .cp x0 x1 x2 x3 x4 => word (2952790016 + 16384 * x0.toNat + 256 * x1.toNat + 4 * x2.toNat + 2 * x3.toNat + x4.toNat)
  | .cpFill x0 x1 x2 => word (2953838592 + 16384 * x0.toNat + 256 * x1.toNat + 4 * x2.toNat)
  | .cpT x0 x1 x2 => word (2954887168 + 8192 * x0.toNat + 64 * x1.toNat + x2.toNat)
  | .stMc x0 x1 x2 => word (3019898880 + 16384 * x0.toNat + 256 * x1.toNat + x2.toNat)
  | .pf x0 x1 x2 => word (3020947456 + 16384 * x0.toNat + 4096 * x1.toNat + 1024 * x2.toNat)
  | .zclaim x0 x1 => word (3087007744 + 16384 * x0.toNat + x1.toNat)
  | .zrel x0 => word (3088056320 + x0.toNat)
  | .zzero x0 => word (3089104896 + x0.toNat)
  | .oclaim x0 x1 => word (3090153472 + 16384 * x0.toNat + x1.toNat)
  | .orel x0 => word (3091202048 + x0.toNat)
  | .oload x0 x1 x2 => word (3154116608 + 131072 * x0.toNat + 1024 * x1.toNat + 16 * x2.toNat)
  | .mmul x0 x1 x2 => word (3155165184 + 65536 * x0.toNat + 8192 * x1.toNat + 1024 * x2.toNat)
  | .mloop x0 x1 x2 x3 => word (3156213760 + 65536 * x0.toNat + 512 * x1.toNat + 4 * x2.toNat + x3.toNat)
  | .mdrain x0 x1 x2 x3 => word (3157262336 + 65536 * x0.toNat + 512 * x1.toNat + 8 * x2.toNat + 4 * x3.toNat)
  | .mfence x0 => word (3221225472 + 16384 * x0.toNat)
  | .mwait x0 => word (3222274048 + 256 * x0.toNat)
  | .mstat x0 => word (3224371200 + 16384 * x0.toNat)
  | .tinv x0 x1 x2 x3 => word (3355443200 + 16384 * x0.toNat + 256 * x1.toNat + 4 * x2.toNat + x3.toNat)
  | .tprobe x0 x1 x2 => word (3356491776 + 16384 * x0.toNat + 256 * x1.toNat + 128 * x2.toNat)
  | .rteAnn x0 x1 x2 => word (3357540352 + 16384 * x0.toNat + 256 * x1.toNat + 4 * x2.toNat)
  | .rteWd x0 x1 x2 => word (3358588928 + 16384 * x0.toNat + 256 * x1.toNat + 4 * x2.toNat)
  | .rteRole x0 x1 x2 => word (3359637504 + 16384 * x0.toNat + 256 * x1.toNat + 4 * x2.toNat)
  | .rteQ x0 x1 x2 => word (3360686080 + 16384 * x0.toNat + 256 * x1.toNat + x2.toNat)
  | .rteSync x0 x1 => word (3361734656 + 65536 * x0.toNat + 1024 * x1.toNat)
  | .cobjDecl x0 x1 x2 => word (3422552064 + 16384 * x0.toNat + 256 * x1.toNat + x2.toNat)
  | .cobjDrop x0 x1 => word (3423600640 + 16384 * x0.toNat + x1.toNat)
  | .cobjSync x0 x1 => word (3424649216 + 16384 * x0.toNat + x1.toNat)
  | .cobjSyncShared x0 x1 => word (3424649472 + 16384 * x0.toNat + x1.toNat)
  | .cobjReclaim x0 x1 => word (3425697792 + 16384 * x0.toNat + x1.toNat)
  | .tdtSet x0 x1 x2 => word (3426746368 + 16384 * x0.toNat + 256 * x1.toNat + x2.toNat)
  | .tdtGet x0 x1 x2 => word (3427794944 + 16384 * x0.toNat + 2048 * x1.toNat + x2.toNat)
  | .tdtDrop x0 => word (3428843520 + x0.toNat)
  | .treeSet x0 x1 x2 => word (3429892096 + 16384 * x0.toNat + 256 * x1.toNat + x2.toNat)
  | .launch x0 x1 => word (3489660928 + 16384 * x0.toNat + 256 * x1.toNat)
  | .wlPush x0 x1 x2 => word (3490709504 + 16384 * x0.toNat + 128 * x1.toNat + 2 * x2.toNat)
  | .wlPop x0 x1 x2 x3 => word (3491758080 + 8192 * x0.toNat + 128 * x1.toNat + 2 * x2.toNat + x3.toNat)
  | .wlDone x0 => word (3492806656 + x0.toNat)
  | .tierRec x0 x1 x2 => word (3493855232 + 16384 * x0.toNat + 256 * x1.toNat + 4 * x2.toNat)
  | .tierHintUp x0 x1 x2 => word (3494903808 + 16384 * x0.toNat + 256 * x1.toNat + 4 * x2.toNat)
  | .tierHintDown x0 x1 x2 => word (3494903809 + 16384 * x0.toNat + 256 * x1.toNat + 4 * x2.toNat)
  | .tierQ x0 x1 => word (3495952384 + 16384 * x0.toNat + 256 * x1.toNat)
  | .waitc x0 x1 x2 => word (3556769792 + 16384 * x0.toNat + 256 * x1.toNat + 4 * x2.toNat)
  | .waitF x0 => word (3557818368 + x0.toNat)
  | .bar x0 x1 => word (3558866944 + 131072 * x0.toNat + 65536 * x1.toNat)
  | .pcrd x0 x1 => word (3559915520 + 16384 * x0.toNat + x1.toNat)
  | .trap x0 => word (3623878656 + x0.toNat)
  | .rcp x0 => word (3625975808 + x0.toNat)
  | .sysrd x0 x1 => word (3628072960 + 16384 * x0.toNat + x1.toNat)
  | .syswr x0 x1 => word (3629121536 + 8192 * x0.toNat + x1.toNat)
  | .halt x0 x1 => word (3630170112 + 16384 * x0.toNat + 256 * x1.toNat)
  | .hintLit x0 => word (4160749568 + x0.toNat)
  | .hintLith x0 => word (4164943872 + x0.toNat)
  | .hintDly x0 => word (4169138176 + x0.toNat)
  | .hintFlg x0 => word (4173332480 + x0.toNat)
  | .hintRnd x0 x1 x2 => word (4181721088 + 16 * x0.toNat + 8 * x1.toNat + x2.toNat)
  | .hintScp x0 x1 => word (4190109696 + 4 * x0.toNat + x1.toNat)
  | .hintNop x0 x1 => word (4211081216 + 4194304 * x0.toNat + x1.toNat)
  | .nop => word (67108864)
  | .join => word (1979711488)
  | .exit => word (2016411648)
  | .mresume => word (3223322624)
  | .mresumeAbandon => word (3223322625)
  | .tret => word (3624927232)
  | .yield => word (3627024384)
  | .fenceAcq0 => word 2885681152
  | .fenceAcq1 => word 2885746688
  | .fenceAcq2 => word 2885812224
  | .fenceAcq3 => word 2885877760
  | .fenceAcq4 => word 2885943296
  | .fenceAcq5 => word 2886008832
  | .fenceAcq6 => word 2886074368
  | .fenceAcq7 => word 2886139904
  | .fenceAcq8 => word 2886205440
  | .fenceAcq9 => word 2886270976
  | .fenceAcq10 => word 2886336512
  | .fenceAcq11 => word 2886402048
  | .fenceAcq12 => word 2886467584
  | .fenceAcq13 => word 2886533120
  | .fenceAcq14 => word 2886598656
  | .fenceAcq15 => word 2886664192
  | .hintMsk0 => word 4177526784
  | .hintMsk1 => word 4177526785
  | .hintMsk2 => word 4177526786
  | .hintMsk3 => word 4177526787
  | .hintMsk4 => word 4177526788
  | .hintMsk5 => word 4177526789
  | .hintMsk6 => word 4177526790
  | .hintMsk7 => word 4177526791
  | .hintMsk8 => word 4177526792
  | .hintMsk9 => word 4177526793
  | .hintMsk10 => word 4177526794
  | .hintMsk11 => word 4177526795
  | .hintMsk12 => word 4177526796
  | .hintMsk13 => word 4177526797
  | .hintMsk14 => word 4177526798
  | .hintMsk15 => word 4177526799
  | .hintRet0 => word 4185915392
  | .hintRet1 => word 4185915393
  | .hintRet2 => word 4185915394
  | .hintRet3 => word 4185915395
  | .groupTurn => none
  | .multiTurnComplete _ _ => none
  | .blockClearComplete _ => none
  | .groupRelease _ => none
  | .stallTimeout _ _ => none
  | .hurdlePass _ => none
  | .groupPlacement _ _ => none
  | .gangAgeExpire _ => none
  | .recordDone _ => none
  | .completionStore _ => none
  | .translationWalk _ _ _ _ => none
  | .tinvComplete _ => none
  | .storeBufferDrain _ => none
  | .writeApply _ => none
  | .writeReadable _ => none
  | .applyNotice _ => none
  | .echoReceive _ => none
  | .fillWrite _ => none
  | .echoAckReceive _ => none
  | .echoDeadline _ => none
  | .leaseRenewal _ => none
  | .renewalReceive _ => none
  | .leaseEnd _ _ => none
  | .readRequest _ => none
  | .refusalReroute _ => none
  | .loadComplete _ => none
  | .storeResponse _ => none
  | .invalidate _ => none
  | .relayReceive _ _ => none
  | .relayRefusal _ _ _ => none
  | .routerAnswer _ _ => none
  | .rteSyncDone _ _ => none
  | .holderAbsent _ _ => none
  | .cobjDirectoryRequest _ _ => none
  | .partialFold _ _ _ => none
  | .mergeChildArrive _ _ => none
  | .mergeNodeTimeout _ _ _ => none
  | .snoopRetry _ => none
  | .snoopTimeout _ => none
  | .multicastForward _ _ => none
  | .auditIntervalEnd _ _ => none
  | .copyStart _ => none
  | .copyComplete _ => none
  | .copyFault _ => none
  | .matrixCommandComplete _ => none
  | .matrixCommandFault _ => none
  | .ringKick _ => none
  | .ringReadSlot _ => none
  | .ringRetry _ => none
  | .contextSwitchOut _ => none
  | .tierMoveStart => none
  | .tierAnnounceAnswer _ _ => none
  | .tierFillDone _ => none
  | .tierHandoverAnswer _ _ => none
  | .tierMoveEnd _ => none
  | .tierFaultOffer _ => none
  | .announcementRequest _ _ _ _ => none
  | .announcementTimeout _ => none
  | .faultRecordOffer _ => none
  | .longParkSwitchout _ _ => none
  | .sliceEnd _ => none
  | .graceEnd _ => none
  | .deadlineExpire _ => none
  | .resetComplete _ => none
  | .contextResident _ => none
  | .flitReceive _ _ _ => none
  | .laneSpare _ _ => none
  | .linkFail _ _ => none
  | .linkUp _ _ _ => none
  | .sessionRekey _ _ => none
  | .hostSnoop _ _ => none
  | .hostMemRequest _ => none
  | .powerOn _ _ => none
  | .attest _ => none
  | .worldCreate _ => none
  | .worldGrant _ => none
  | .worldRevoke _ => none
  | .worldDestroy _ => none
  | .partSet _ => none
  | .ctxCreate _ => none
  | .ctxDestroy _ => none
  | .ctxPreempt _ => none
  | .ringSet _ => none
  | .ringKey _ => none
  | .powerCompare _ _ _ _ => none
  | .trayRemoveRequest => none
  | .trayCancel => none
  | .trayQuiesce => none
  | .trayPowerOff => none
  | .trayInsert => none
  | .wearUpdate _ _ _ _ => none
  | .partDescWrite _ _ => none
  | .tqWrite _ _ => none
  | .rteCostWrite _ => none
  | .cobjQWrite _ _ => none
  | .wlCfgWrite _ _ _ => none
  | .wlReset _ _ => none
  | .ringBaseWrite _ _ => none
  | .ringCtlWrite _ _ => none
  | .ringEnable _ _ => none
  | .ringDisable _ => none
  | .tierCfgWrite _ => none
  | .fqDone _ _ _ _ => none
  | .erqLostClear => none
  | .wdogWrite _ _ => none
  | .pcclr _ _ => none
  | .pwrCapWrite _ => none
  | .sysregWrite _ _ => none
  | .illegalOpcode _ => none
  | .softError _ _ => none
  | .dramLineAltered _ _ _ _ => none
  | .snoopReceive _ => none
  | .snoopAnswer _ => none
  | .itemClearComplete _ _ _ => none
  | .tierFillRead _ => none
  | .mailboxBadCmd _ => none

end Sys2Proof
end

