-- ==== Sys2Proof/Machine/Control.lean ====
section
/-! DEFINITION. Control flow, masks and splits (spec 08 R130-R143). -/

namespace Sys2Proof.Machine

/-- The address of the word that issues: the PC has advanced past it. -/
def State.here (s : State) : BitVec 48 := s.pc - 4

/-- The target of a displacement in words (04 R69). -/
def State.target {n : Nat} (s : State) (disp : BitVec n) : BitVec 48 := s.here + ((disp.signExtend 48) <<< 2)

/-- A branch taken where a condition holds (R132). -/
def branchIf {n : Nat} (c : Bool) (disp : BitVec n) (s : State) : Act :=
  .ok (if c then s.setPc (s.target disp) else s)

/-- The code address that a scalar register names: bits [47:2] (R133). -/
def codeAddr (x : DWord) : BitVec 48 := ((x >>> 2).setWidth 46).setWidth 48 <<< 2

/-- The payload of an address entry, and its code address (R135). -/
def addrPayload (a : BitVec 48) : BitVec 46 := (a >>> 2).setWidth 46
def payloadAddr (p : BitVec 46) : BitVec 48 := p.setWidth 48 <<< 2

/-- A rejoin entry (kind 1) and a record address entry (kind 2). -/
def rejoinEntry (a : BitVec 48) : RjEntry := ⟨1, addrPayload a⟩
def recordEntry (a : BitVec 48) : RjEntry := ⟨2, addrPayload a⟩

/-- The lanes entry of a record: held, owner, lanes (R135). -/
def lanesEntry (held : Bool) (owner : Fin 4) (lanes : Word) : RjEntry :=
  ⟨3, BitVec.ofNat 46 (held.toNat * 2 ^ 34 + owner.val * 2 ^ 32 + lanes.toNat)⟩

def RjEntry.owner (e : RjEntry) : Nat := e.payload.toNat / 2 ^ 32 % 4
def RjEntry.held (e : RjEntry) : Bool := e.payload.getLsbD 34
def RjEntry.lanes (e : RjEntry) : Word := e.payload.setWidth 32

/-- Whether a split owns a record (R135). -/
def Ctl.owns (c : Ctl) (i : Fin 4) : Bool := c.stack.any (fun e => e.kind == 3 && e.owner == i.val)

/-- The lanes entry on top and the address entry beneath it, where split `i` owns them. -/
def Ctl.topRecord (c : Ctl) (i : Fin 4) : Option (RjEntry × RjEntry × List RjEntry) :=
  match c.stack with
  | l :: a :: rest => if l.kind = 3 ∧ l.owner = i.val then some (l, a, rest) else none
  | _ => none

/-- `mark` (R136). -/
def doMark {n : Nat} (disp : BitVec n) (s : State) : Act :=
  if 1 < s.cur.ctl.live.length then .ok s
  else if 8 ≤ s.cur.ctl.stack.length then .trap 6 0 0
  else .ok (s.modCtl (fun c => { c with stack := rejoinEntry (s.target disp) :: c.stack }))

/-- `brd` (R137). -/
def doBrd {n : Nat} (k : Nat) (disp : BitVec n) (s : State) : Act :=
  let m := s.split.mask
  let t := m &&& s.kreg k
  let f := m &&& ~~~t
  let tg := s.target disp
  if f = 0 then .ok (s.setPc tg)
  else if t = 0 then .ok s
  else match splitNums.find? (fun i => !(s.cur.ctl.split i).live) with
    | some i =>
      let new : Split := { Split.free with live := true, pc := tg, mask := t }
      .ok ((s.modSplit (fun sp => { sp with mask := f })).modCtl (fun c => c.setSplit i new))
    | none =>
      if 6 < s.cur.ctl.stack.length then .trap 6 0 0
      else .ok ((s.modSplit (fun sp => { sp with mask := f })).modCtl (fun c =>
        { c with stack := lanesEntry false c.iss t :: recordEntry tg :: c.stack }))

/-- What a waiting `join` and a waiting `exit` look at (R139, R142). -/
def Ctl.joinWait (c : Ctl) : Wait := .join c.stack.head? c.stack.length (decide (c.live.length ≤ 1))
def Ctl.exitWait (c : Ctl) : Wait := .exit c.stack.head? c.stack.length (decide (c.live.length ≤ 1))

/-- `join` (R139). -/
def doJoin (s : State) : Act :=
  let c := s.cur.ctl
  let p := s.here
  match c.topRecord c.iss with
  | some (l, a, rest) =>
    if l.held then
      .ok ((s.modCtl (fun c => { c with stack := rest })).modSplit (fun sp => { sp with mask := sp.mask ||| l.lanes, pc := p }))
    else
      .ok ((s.modCtl (fun c => { c with stack := lanesEntry true c.iss s.split.mask :: recordEntry p :: rest })).modSplit
        (fun sp => { sp with mask := l.lanes, pc := payloadAddr a.payload }))
  | none =>
    match c.stack with
    | [] => .ok s
    | e :: rest =>
      if e.kind = 3 then .again (s.setPc p) c.joinWait
      else if e.kind = 1 ∧ payloadAddr e.payload = p then
        if c.live.length ≤ 1 then .ok (s.modCtl (fun c => { c with stack := rest }))
        else .again (s.setPc p) c.joinWait
      else .ok s

/-! ## Barriers (20 R360, R361) -/

/-- Units of level `l` are numbered in the order of their flat numbers. -/
def unitOf (r : LRec) (l flat : Nat) : Nat := flat / levelSpan r l

/-- Changes every group, resident or switched out. -/
def State.mapAll (s : State) (f : Group → Group) : State :=
  let s := s.mapGroups f
  { s with out := s.out.map (fun (o : OutGroup) => { o with group := f o.group }) }

/-- A barrier whose arrivals and exits reach its target is released: waiting members pass, with the acquire of a
barrier that is not `nf`, and the counter starts again (R360). -/
def State.testBarrier (s : State) (launch level unit : Nat) : State :=
  match s.bars.find? (fun b => b.launch == launch && b.level == level && b.unit == unit) with
  | none => s
  | some b =>
    if b.arrived + b.exited = b.target ∧ 0 < b.arrived then
      let pass := fun (g : Group) =>
        match s.rec? g.place.launch with
        | none => g
        | some r =>
          if g.place.launch = launch ∧ unitOf r level g.place.flat = unit then
            let f := fun (sp : Split) => match sp.wait with
              | .bar l nf true => if l = level then
                  { sp with wait := .passed (!nf) s.nextId s.cycle } else sp
              | _ => sp
            { g with ctl := { g.ctl with splits := g.ctl.splits.map f } }
          else g
      let s := s.mapAll pass
      { s with bars := s.bars.map (fun (x : Barrier) =>
          if x.launch == launch && x.level == level && x.unit == unit then { x with arrived := 0, gen := !x.gen } else x) }
    else s

/-- A group that exits counts as arrived at every later barrier of its units (R360). -/
def State.barrierExit (s : State) : State :=
  match s.rec? s.cur.place.launch with
  | none => s
  | some r =>
    let mine := s.bars.filter (fun b => b.launch == s.cur.place.launch && b.unit == unitOf r b.level s.cur.place.flat)
    mine.foldl (fun s b =>
      let s := { s with bars := s.bars.map (fun (x : Barrier) =>
        if x.launch == b.launch && x.level == b.level && x.unit == b.unit then { x with exited := x.exited + 1 } else x) }
      s.testBarrier b.launch b.level b.unit) s

/-- A team is parked at the earliest from the exit of its last running group (19 R333). -/
def State.teamExit (s : State) : State :=
  let p := s.cur.place
  let now := s.pace
  { s with others := s.others.map (fun (g : Group) =>
      if g.ctl.parked && g.place.launch == p.launch && g.place.core == p.core then { g with ctl := { g.ctl with parkedAt := now } } else g) }

/-- The issuing split leaves; the group has exited when none remains (R142). -/
def State.leaveSplit (s : State) : State :=
  let s := s.modSplit (fun _ => Split.free)
  if s.cur.ctl.live = [] then ((s.modCtl (fun c => { c with exited := true })).teamExit).barrierExit else s


/-- BR_Z: Uniform branch if the scalar is zero. (R132) -/
def execBrZ (bs : BitVec 6) (d : BitVec 17) (s : State) : Out State :=
  issue (.brZ bs d) s (fun s => branchIf (decide (s.sreg bs.toNat = 0)) d s)

/-- BR_NZ: Uniform branch if the scalar is non-zero. (R132) -/
def execBrNz (bs : BitVec 6) (d : BitVec 17) (s : State) : Out State :=
  issue (.brNz bs d) s (fun s => branchIf (decide (s.sreg bs.toNat ≠ 0)) d s)

/-- BR_LT: Uniform branch if the scalar is negative. (R132) -/
def execBrLt (bs : BitVec 6) (d : BitVec 17) (s : State) : Out State :=
  issue (.brLt bs d) s (fun s => branchIf (decide ((s.sreg bs.toNat).toInt < 0)) d s)

/-- BR_GE: Uniform branch if the scalar is non-negative. (R132) -/
def execBrGe (bs : BitVec 6) (d : BitVec 17) (s : State) : Out State :=
  issue (.brGe bs d) s (fun s => branchIf (decide (0 ≤ (s.sreg bs.toNat).toInt)) d s)

/-- CALL: Direct call that writes the link to a scalar. (R132) -/
def execCall (bs : BitVec 6) (d : BitVec 17) (s : State) : Out State :=
  issue (.call bs d) s (fun s => .ok ((s.setSreg bs.toNat (s.pc.setWidth 64)).setPc (s.target d)))

/-- JMP: Direct unconditional jump. (R132) -/
def execJmp (d : BitVec 17) (s : State) : Out State :=
  issue (.jmp d) s (fun s => branchIf true d s)

/-- BRK_ANY: Moves the whole split if any lane of the mask is set. (R134) -/
def execBrkAny (k : BitVec 4) (d : BitVec 19) (s : State) : Out State :=
  issue (.brkAny k d) s (fun s => branchIf (decide (s.split.mask &&& s.kreg k.toNat ≠ 0)) d s)

/-- BRK_NONE: Moves the whole split if no lane of the mask is set. (R134) -/
def execBrkNone (k : BitVec 4) (d : BitVec 19) (s : State) : Out State :=
  issue (.brkNone k d) s (fun s => branchIf (decide (s.split.mask &&& s.kreg k.toNat = 0)) d s)

/-- BRD: Divergent branch that may create a split or a serialised record. (R137) -/
def execBrd (k : BitVec 4) (d : BitVec 19) (s : State) : Out State :=
  issue (.brd k d) s (doBrd k.toNat d)

/-- MARK: Pushes a rejoin entry when the group has one split. (R136) -/
def execMark (d : BitVec 19) (s : State) : Out State :=
  issue (.mark d) s (doMark d)

/-- JOIN: Rejoins, swaps or waits according to the top of the rejoin stack. (R139) -/
def execJoin (s : State) : Out State :=
  issue .join s (doJoin)

/-- RET: Returns to the address held in a scalar. (R133) -/
def execRet (a : BitVec 6) (s : State) : Out State :=
  issue (.ret a) s (fun s => .ok (s.setPc (codeAddr (s.sreg a.toNat))))

/-- JMP_REG: Jumps to the address held in a scalar. (R133) -/
def execJmpReg (a : BitVec 6) (s : State) : Out State :=
  issue (.jmpReg a) s (fun s => .ok (s.setPc (codeAddr (s.sreg a.toNat))))

/-- CALL_REG: Calls the address held in a scalar and writes a link. (R133) -/
def execCallReg (a : BitVec 6) (l : BitVec 6) (s : State) : Out State :=
  issue (.callReg a l) s (fun s =>
    .ok ((s.setSreg l.toNat (s.pc.setWidth 64)).setPc (codeAddr (s.sreg a.toNat))))

/-- NOP: Does nothing but advance the PC; with DLY or FLG it is the plain way to wait. (R141) -/
def execNop (s : State) : Out State :=
  issue .nop s (Act.ok)

/-- KAND: Mask AND. (R143) -/
def execKand (d : BitVec 7) (a : BitVec 7) (b : BitVec 7) (s : State) : Out State :=
  issue (.kand d a b) s (fun s => .ok (s.setKreg d.toNat (s.kreg a.toNat &&& s.kreg b.toNat)))

/-- KOR: Mask OR. (R143) -/
def execKor (d : BitVec 7) (a : BitVec 7) (b : BitVec 7) (s : State) : Out State :=
  issue (.kor d a b) s (fun s => .ok (s.setKreg d.toNat (s.kreg a.toNat ||| s.kreg b.toNat)))

/-- KXOR: Mask XOR. (R143) -/
def execKxor (d : BitVec 7) (a : BitVec 7) (b : BitVec 7) (s : State) : Out State :=
  issue (.kxor d a b) s (fun s => .ok (s.setKreg d.toNat (s.kreg a.toNat ^^^ s.kreg b.toNat)))

/-- KNOT: Mask NOT. (R143) -/
def execKnot (d : BitVec 7) (a : BitVec 7) (s : State) : Out State :=
  issue (.knot d a) s (fun s => .ok (s.setKreg d.toNat (~~~s.kreg a.toNat)))

/-- KMOV: Mask move. (R143) -/
def execKmov (d : BitVec 7) (a : BitVec 7) (s : State) : Out State :=
  issue (.kmov d a) s (fun s => .ok (s.setKreg d.toNat (s.kreg a.toNat)))

/-- KPOP: Counts the one bits of a mask into a scalar. (R143) -/
def execKpop (d : BitVec 7) (a : BitVec 7) (s : State) : Out State :=
  issue (.kpop d a) s (fun s => .ok (s.setSreg d.toNat (BitVec.ofNat 64 (popCount (s.kreg a.toNat)))))

/-- KFIRST: Index of the lowest set bit of a mask, or 32. (R143) -/
def execKfirst (d : BitVec 7) (a : BitVec 7) (s : State) : Out State :=
  issue (.kfirst d a) s (fun s => .ok (s.setSreg d.toNat (BitVec.ofNat 64 (lowestOne (s.kreg a.toNat)))))

end Sys2Proof.Machine
end

