-- ==== Sys2Proof/Machine/System.lean ====
section
/-! DEFINITION. Traps, system registers, waits, barriers and counters (spec 19 R345-R351, 20 R352-R367). -/

namespace Sys2Proof.Machine

/-- `trap` raises SOFTWARE with its code; it returns to the bundle after it, and every flag is left as it was (04 R81, 19 R326, R346). -/
def doTrap (code : Nat) (s : State) : Act :=
  let e := s.entry 3 s.pc 0 s.bundlePc.toNat code
  .raise (s.tally 0 1) [e]

/-- `tret` (19 R347). -/
def doTret (s : State) : Act :=
  if s.cur.trap.inh then .done ((s.tally 0 1).trapReturn) else .trap 1 0 0

/-- Another context waits for the partition of a context (19 R335, R341). -/
def State.contended (s : State) (ctx : Nat) : Bool :=
  match s.ctx? ctx with
  | none => false
  | some c => s.ctxs.any (fun x => x.num != ctx && x.part == c.part && x.st == CtxSt.waiting)

/-- `yield` (19 R349). -/
def doYield (s : State) : Act :=
  .ok (if s.contended s.cur.place.ctx then s.beginPreempt s.cur.place.ctx else s)

/-- `csel` selects a context that does not exist (19 R334). -/
def State.badSel (s : State) (n : Nat) : Bool := selected n && s.selCtx.isNone

/-- `sysrd` (19 R350, 05 R89). -/
def doSysrd (d n : Nat) (s : State) : Act :=
  if (regRead? n).isNone || s.badSel n then .trap 1 0 0
  else .ok (s.setSreg d (s.readReg n))

/-- `syswr` (19 R350, 05 R89); `fq_done` with `s2` = 1 at PL1 raises PRIVILEGE (R331). -/
def doSyswr (b n : Nat) (s : State) : Act :=
  let v := s.src b
  if (regWrite? n).isNone || s.badSel n then .trap 1 0 0
  else if n = 0x2BA ∧ v.getLsbD 33 ∧ s.cur.trap.pl < 2 then .trap 2 0 0
  else .ok (s.writeReg n v)

/-- `halt` (19 R351). -/
def doHalt (d a : Nat) (s : State) : Act :=
  let n := (s.sreg a).toNat % 65536
  let me := s.cur.place.ctx
  if n = 65535 ∨ n = me then .done ((s.tally 0 1).resetAs me 35 s.cur.place.core [])
  else if (s.ctx? n).isNone then .ok (s.setSreg d 3)
  else .hold (s.resetAs n 35 s.cur.place.core []) (.answer .halt d n 0)

/-- `waitc` (20 R356). -/
def doWaitc (l t c : Nat) (s : State) : Act :=
  let above := fun (n lim : Nat) => decide (lim < 63) && decide (lim < n)
  let flying := fun (k : OpKind → Bool) => s.cur.acc.ops.any (fun o => k o.kind)
  let dead := (above s.cur.acc.ld l && !flying (fun k => k == .load)) || (above s.cur.acc.st t && !flying stKinds) ||
    (above s.cur.acc.cp c && s.copies.all (fun x => x.uid != s.cur.place.uid))
  if dead then .trap 4 0 0
  else if above s.cur.acc.ld l || above s.cur.acc.st t || above s.cur.acc.cp c then .waiting (.waitc (decide (l < 63)) (decide (t < 63)) (decide (c < 63)))
  else withDeferred (fun k => (decide (l < 63) && k == .load) || (decide (t < 63) && stKinds k) ||
    (decide (c < 63) && k == .copy)) s .ok

/-- A level of a launch at which `bar` can complete (20 R360, 02 R31). -/
def barLevelOk (r : LRec) (l : Nat) : Bool :=
  decide (l < levelCount r) && (decide (r.bits (64 * l + 528) (64 * l + 528) = 1) ||
    decide (r.bits (64 * l + 518) (64 * l + 516) = 1) || decide (r.bits (64 * l + 518) (64 * l + 516) = 2))

/-- The counter of the unit of a group at a level: the one reserved at placement (20 R361), or a fresh one. -/
def State.barrierOf (s : State) (r : LRec) (l flat : Nat) : Barrier :=
  (s.bars.find? (fun b => b.launch == r.id && b.level == l && b.unit == unitOf r l flat)).getD
    ⟨r.id, l, unitOf r l flat, s.cur.place.core, levelSpan r l, 0, 0, false⟩

/-- Every live split that stands at a bar of the level has issued it (20 R360). -/
def Ctl.issueBar (c : Ctl) (l : Nat) : Ctl :=
  { c with splits := c.splits.map (fun sp => match sp.wait with
      | .bar m nf false => if sp.live && m == l then
          let a := if sp.bundle.active then sp.bundle.start else sp.pc
          { sp with wait := .bar m nf true,
                    bundle := { sp.bundle with active := true, flg := 0, dly := 0, start := a, used := sp.bundle.flg } }
        else sp
      | _ => sp) }

/-- The flags that the bars of a level name in the hints of their bundles. -/
def Ctl.barFlags (c : Ctl) (l : Nat) : BitVec 12 :=
  c.splits.toList.foldl (fun (m : BitVec 12) sp => match sp.wait with
    | .bar k _ false => if sp.live && k == l then m ||| sp.bundle.flg else m
    | _ => m) 0

/-- `bar` (20 R360): it issues once for the group, and with it the bundles of the splits that stand at a bar of the level,
whose flags it consumes; the watchdog of the split that issues starts again, those of the others count on (log entry 21). -/
def doBar (l : Nat) (nf : Bool) (s : State) : Act :=
  match s.rec? s.cur.place.launch with
  | none => .trap 4 0 0
  | some r =>
    if !barLevelOk r l then .trap 4 0 0
    else
      let scope := r.bits (64 * l + 523) (64 * l + 520)
      let others := s.cur.ctl.live.filter (· ≠ s.cur.ctl.iss)
      let all := others.all (fun i => match (s.cur.ctl.split i).wait with
        | .bar m _ false => m == l
        | _ => false)
      if !all || (!nf && !s.relOk scope s.nextId) then .waiting (.bar l nf false)
      else withDeferred (fun k => !nf && relKinds k) s (fun s =>
        let b := s.barrierOf r l s.cur.place.flat
        let s := s.modSplit (fun sp => { sp with wait := .bar l nf false, pc := s.here })
        let s := (s.useFlags (s.cur.ctl.barFlags l)).modCtl (fun c => c.issueBar l)
        let rest := s.bars.filter (fun x => !(x.launch == b.launch && x.level == b.level && x.unit == b.unit))
        let s := { s with bars := { b with arrived := b.arrived + 1 } :: rest }
        let s := s.modCkpt (fun c => { c with closed := true })
        .done (((s.tally 0 1).modSplit (fun sp => { sp with wdog := 0 })).testBarrier r.id l b.unit))

/-- TRAP: Raises SOFTWARE with a code. (R346) -/
def execTrap (c : BitVec 16) (s : State) : Out State :=
  issue (.trap c) s (doTrap c.toNat)

/-- TRET: Ends a trap handler and resumes, or delivers the next queued trap. (R326) -/
def execTret (s : State) : Out State :=
  issue .tret s (doTret)

/-- YIELD: Begins pre-emption of the context if another context waits. (R349) -/
def execYield (s : State) : Out State :=
  issue .yield s (doYield)

/-- SYSRD: Reads a system register. (R350) -/
def execSysrd (d : BitVec 6) (n : BitVec 12) (s : State) : Out State :=
  issue (.sysrd d n) s (doSysrd d.toNat n.toNat)

/-- SYSWR: Writes a system register. (R350) -/
def execSyswr (b : BitVec 7) (n : BitVec 12) (s : State) : Out State :=
  issue (.syswr b n) s (doSyswr b.toNat n.toNat)

/-- HALT: Resets a context with HALT. (R351) -/
def execHalt (d : BitVec 6) (a : BitVec 6) (s : State) : Out State :=
  issue (.halt d a) s (doHalt d.toNat a.toNat)

/-- WAITC: Waits until the outstanding counts are within limits. (R356) -/
def execWaitc (l : BitVec 6) (bs : BitVec 6) (c : BitVec 6) (s : State) : Out State :=
  issue (.waitc l bs c) s (doWaitc l.toNat bs.toNat c.toNat)

/-- WAIT_F: Waits on completion flags and consumes them. (R354) -/
def execWaitF (f : BitVec 12) (s : State) : Out State :=
  issue (.waitF f) s (Act.ok)

/-- BAR: Barrier at a level, with optional fences. (R360) -/
def execBar (l : BitVec 3) (n : BitVec 1) (s : State) : Out State :=
  issue (.bar l n) s (doBar l.toNat (n == 1))

/-- PCRD: Reads a performance counter of the context. (R364) -/
def execPcrd (d : BitVec 6) (e : BitVec 12) (s : State) : Out State :=
  issue (.pcrd d e) s (fun s =>
    .ok (s.setSreg d.toNat (((s.myCtx.map Ctx.perf).bind (fun p => p[e.toNat]?)).getD 0)))

/-- Whether the function of a word is privileged, whatever its other fields: for the system registers, by their own
level (R3, R4, 04 R81 check 3). -/
def illegalLevel (w : Word) : Nat :=
  match w.toNat / 2 ^ 20 with
  | 0xD84 => (regRead? (w.toNat % 4096)).getD 0
  | 0xD85 => (regWrite? (w.toNat % 4096)).getD 0
  | _ => wordPriv w

/-- ILLEGAL_OPCODE: an issued word that is not an instruction traps (04 R81): a hint word at once (check 1); another
after its flag wait, with PRIVILEGE where its function is privileged above the group's level and else ILLEGAL_OPCODE. -/
def execIllegalOpcode (w : Word) (s : State) : Out State :=
  if w.toNat / 2 ^ 26 = 0x3E then .next (s.trapExact 1 0 0)
  else match s.flagWait s.hints.flg with
    | .never => .next (s.trapExact 4 0 0)
    | .pending => .next (s.modSplit (fun sp => { sp with wait := .flag }))
    | .satisfied => .next (s.trapExact (if s.cur.trap.pl < illegalLevel w then 2 else 1) 0 0)

/-- SYSREG_WRITE: a write to a system register that has no behaviour of its own, by the group whose turn it is. (R350) -/
def execSysregWrite (num : BitVec 12) (value : BitVec 64) (s : State) : Out State :=
  .next (s.writeReg num.toNat value)

/-- PART_DESC_WRITE: a partition descriptor write is checked in order and sets `part_status`. (01 R23) -/
def execPartDescWrite (index : Fin 12) (value : BitVec 64) (s : State) : Out State :=
  .next (s.writePart index.val value)

/-- TQ_WRITE: a translation quota write is checked against the slice sum. (09 R151) -/
def execTqWrite (vdid : Fin 64) (value : BitVec 64) (s : State) : Out State := .next (s.writeTq vdid.val value)

/-- RTE_COST_WRITE: a link cost write in which zero fields keep their old values. (10 R159) -/
def execRteCostWrite (value : BitVec 64) (s : State) : Out State := .next (s.writeRteCost value)

/-- COBJ_Q_WRITE: an object table range write that has no effect if it is illegal. (11 R178) -/
def execCobjQWrite (vdid : Fin 64) (value : BitVec 64) (s : State) : Out State := .next (s.writeCobjQ vdid.val value)

/-- WL_CFG_WRITE: configures a work list. (17 R302) -/
def execWlCfgWrite (part list : Nat) (value : BitVec 64) (s : State) : Out State := .next (s.writeWl part list value)

/-- WL_RESET: the reset bit clears head and tail and reloads the producer count. (17 R302) -/
def execWlReset (part list : Nat) (s : State) : Out State := .next (s.setWl (s.wl part list).restart)

/-- RING_BASE_WRITE: sets a ring's base and size while it is disabled. (17 R304) -/
def execRingBaseWrite (ring : Fin 16) (value : BitVec 64) (s : State) : Out State :=
  .next (s.writeRingBase ring.val value)

/-- RING_CTL_WRITE: sets a ring's control fields while it is disabled. (17 R304) -/
def execRingCtlWrite (ring : Fin 16) (value : BitVec 64) (s : State) : Out State :=
  .next (if (s.ring ring.val).ctl.getLsbD 63 then s else s.writeRingCtl ring.val (value &&& 0x7FFFFFFFFFFFFFFF))

/-- RING_ENABLE: writing `en` 1 over 0 resets seq and starts the ring reading. (17 R304) -/
def execRingEnable (ring : Fin 16) (value : BitVec 64) (s : State) : Out State :=
  .next (s.writeRingCtl ring.val (value ||| 0x8000000000000000))

/-- RING_DISABLE: writing `en` 0 sets the ring DISABLED. (17 R304) -/
def execRingDisable (ring : Fin 16) (s : State) : Out State :=
  .next (s.writeRingCtl ring.val (ringFields (s.ring ring.val).ctl &&& 0x7FFFFFFFFFFFFFFF))

/-- TIER_CFG_WRITE: configures the tier engine's moves, background share and enable. (18 R315) -/
def execTierCfgWrite (value : BitVec 64) (s : State) : Out State := .next (s.writeTierCfg value)

/-- FQ_DONE: resolves a fault record, lowering the missing-page count or raising a trap. (19 R331) -/
def execFqDone (ctx vdid level : Nat) (value : BitVec 64) (s : State) : Out State :=
  .next (s.fqDone (decide (2 ≤ level) && value.getLsbD 33) ctx vdid value)

/-- ERQ_LOST_CLEAR: a write clears the count of dropped error records. (19 R343) -/
def execErqLostClear (s : State) : Out State := .next { s with pkg := { s.pkg with erqLost := 0 } }

/-- WDOG_WRITE: sets the stall watchdog limit, with its special values. (20 R358) -/
def execWdogWrite (ctx : Nat) (value : BitVec 64) (s : State) : Out State := .next (s.writeWdog ctx value)

/-- PCCLR: clears the selected performance counters. (20 R365) -/
def execPcclr (ctx : Nat) (value : BitVec 64) (s : State) : Out State := .next (s.writePcclr ctx value)

/-- PWR_CAP_WRITE: sets the power cap and window and clears over. (22 R389) -/
def execPwrCapWrite (value : BitVec 64) (s : State) : Out State := .next (s.writePwrCap value)

/-- TRAY_REMOVE_REQUEST: a tray write of req 1 begins DRAINING. (22 R392) -/
def execTrayRemoveRequest (s : State) : Out State := .next s.trayRemove

/-- TRAY_CANCEL: a tray write of req 2 returns DRAINING to ONLINE. (22 R392) -/
def execTrayCancel (s : State) : Out State := .next s.trayCancel

end Sys2Proof.Machine
end

