-- ==== Sys2Proof/Machine/Trans.lean ====
section
/-! DEFINITION. The translation instructions `tinv` and `tprobe` (spec 09 R153-R155). -/

namespace Sys2Proof.Machine

/-- Whether the page of a number and size meets the range of `n` 4 KiB pages from a start; 0 pages mean the whole space
(R154). -/
def pageMeets (page bits start n : Nat) : Bool :=
  decide (n = 0) || (decide (page * 2 ^ bits < start + n * 4096) && decide (start < (page + 1) * 2 ^ bits))

/-- Whether a cached entry matches an invalidation (R154). -/
def TrEntry.matched (e : TrEntry) (st vdid start n : Nat) : Bool :=
  e.vdid == vdid && (match st with
    | 0 => pageMeets e.gpage e.bits start n
    | 1 => pageMeets e.ipage e.bits start n
    | _ => pageMeets e.ipage e.bits start n || e.s1on)

/-- What a `tinv` invalidates: the stage, the VDID and the pages (R154). -/
structure TinvRange where
  st    : Nat
  vdid  : Nat
  start : Nat
  n     : Nat
  deriving DecidableEq, Repr

/-- The range as its waiting split carries it. -/
def TinvRange.code (r : TinvRange) : Nat := r.vdid + 64 * (r.st + 4 * (r.start / 4096 + 2 ^ 52 * r.n))
def TinvRange.ofCode (y : Nat) : TinvRange := ⟨y / 64 % 4, y % 64, y / 256 % 2 ^ 52 * 4096, y / 2 ^ 60⟩

def TinvRange.meets (r : TinvRange) (e : TrEntry) : Bool := e.matched r.st r.vdid r.start r.n

/-- The matching translations that the package knows. -/
def State.tinvMaps (s : State) (r : TinvRange) : List TrEntry := s.mapped.filter r.meets

/-- A fabric address lies in a page of one of some translations. -/
def inPages (es : List TrEntry) (fa : Nat) : Bool := es.any (fun e => fa / 2 ^ e.bits == e.fpage)

/-- A partial was folded under a translation that the range matches. -/
def State.tinvPartial (s : State) (r : TinvRange) (p : Partial) : Bool :=
  ((s.obj? p.obj).any (fun o => o.vdid == r.vdid)) &&
    (if r.st = 0 then pageMeets (p.gva / 4096) 12 r.start r.n else inPages (s.tinvMaps r) p.fa)

/-- A lane was translated under an entry that the range may match: with stage 0 by its address, else any of the VDID (log entry 41). -/
def State.laneMet (s : State) (r : TinvRange) (a : LaneAcc) : Bool :=
  decide (0 < r.st) || pageMeets (a.gva / 4096) 12 r.start r.n ||
    s.mapped.any (fun e => r.meets e && a.gva / 2 ^ e.bits == e.gpage)

/-- The lanes of a group's loads that were translated under a matching entry bring no line to L1 any more. -/
def State.staleOf (s : State) (r : TinvRange) (g : Group) : Group :=
  let old := fun (a : LaneAcc) => if s.laneMet r a then { a with stale := true } else a
  { g with
    acc := { g.acc with ops := g.acc.ops.map (fun (o : MemOp) => if o.kind == .load then { o with lanes := o.lanes.map old } else o) }
    ctl := { g.ctl with splits := g.ctl.splits.map (fun (sp : Split) => { sp with wait := sp.wait.mapOp (HeldOp.mapLanes old) }) } }

/-- An access that a switched-out group holds under a matching entry is issued again when the group runs. -/
def State.againOf (s : State) (r : TinvRange) (g : Group) : Group :=
  { g with ctl := { g.ctl with splits := g.ctl.splits.map (fun (sp : Split) =>
    if sp.wait.op.any (HeldOp.anyLane (s.laneMet r)) then sp.goto (if sp.bundle.active then sp.bundle.start else sp.pc) else sp) } }

/-- The groups of a VDID learn that entries have been discarded (R153). -/
def State.staleLanes (s : State) (r : TinvRange) : State :=
  let mine := fun (g : Group) => (s.ctx? g.place.ctx).any (fun c => c.vdid == r.vdid)
  let t := s.mapEvery (fun g => if mine g then s.staleOf r g else g)
  { t with out := t.out.map (fun (o : OutGroup) => if mine o.group then { o with group := s.againOf r o.group } else o) }

/-- The entries that match are discarded, the L1 lines filled under them invalidated, with the values read from them, what loads
translated under them bring later fills no L1, and free-mode partials of their pages are collected; a stage-2 change takes every L1
line of the VDID (R153; log entry 8). -/
def State.invalidate (s : State) (r : TinvRange) : State :=
  let line := fun (l : L1Line) => l.vdid == r.vdid && (decide (0 < r.st) || pageMeets (l.gline / 2 ^ l.bits) l.bits r.start r.n)
  let out := s.l1.filter line
  let s := s.staleLanes r
  let hit := s.tinvPartial r
  let s := (s.objs.filter (fun o => o.vdid == r.vdid)).foldl (fun (s : State) o => s.collect o hit) s
  let s := { s with tlb := s.tlb.filter (fun (e : TrEntry) => !r.meets e) }
  let s := out.foldl (fun (s : State) (l : L1Line) => s.dropFrom true l.core l.fline) s
  { s with l1 := s.l1.filter (fun (l : L1Line) => !line l) }

/-- `tinv`: the entries go at once; the split waits for the writes bound before it (R153, R154). -/
def doTinv (a b c st : Nat) (s : State) : Act :=
  let vdid := if c = 0 then s.myVdid else (s.sreg c).toNat % 64
  let r : TinvRange := ⟨st, vdid, (s.sreg a).toNat / 4096 * 4096, (s.sreg b).toNat % 2 ^ 40⟩
  .hold (s.invalidate r) (.answer .tinv 64 s.nextId r.code)

/-- A split holds a write that was bound before an invalidation: an access that waits for its release or a merge, or the items of a
push. -/
def Wait.boundBefore (w : Wait) (before : Nat) : Bool :=
  match w with
  | .release _ b (.store ..) | .switch _ _ b _ | .push _ _ _ b _ => decide (b < before)
  | .merge _ (.store ..) => true
  | _ => false

/-- Every store, atomic, `red` and engine write of a VDID bound before an invalidation has reached its serialisation point, and no
round is open over an element of its pages (R153, 00 R8; log entry 8). -/
def State.boundDone (s : State) (before : Nat) (r : TinvRange) : Bool :=
  s.sb.all (fun e => !(e.vdid == r.vdid && decide (e.id < before))) &&
    s.groups.all (fun g => !((s.ctx? g.place.ctx).any (fun c => c.vdid == r.vdid) &&
      splitNums.any (fun i => (g.ctl.split i).wait.boundBefore before))) &&
    s.writes.all (fun w => !(w.vdid == r.vdid && decide (w.id < before) && (w.phase == .travel || w.phase == .invalidating))) &&
    s.fills.all (fun f => !(decide (f.id < before) &&
      s.copies.any (fun c => c.id == f.move && (s.ctx? c.ctx).any (fun x => x.vdid == r.vdid)))) &&
    s.partials.all (fun p => !(p.ordered && s.tinvPartial r p))

/-- The pages that a stage-2 invalidation matches become UNTOUCHED, every copy of their lines going first (13 R221). -/
def State.tinvPages (s : State) (r : TinvRange) : State :=
  if r.st = 0 then s
  else
    let es := s.tinvMaps r
    let hit := fun (p : PageRec) => inPages es (p.page * 4096)
    let lines := (((s.l1.map L1Line.fline) ++ (s.tags.map TagLine.line)).filter (fun l =>
      s.pages.any (fun p => hit p && p.page == l / 4096))).eraseDups
    let s := lines.foldl (fun (s : State) l =>
      let s := ((s.l1.filter (fun x => x.fline == l)).map L1Line.core).eraseDups.foldl (fun s c => s.dropFrom true c l) s
      ((s.tags.filter (fun t => t.line == l && decide (t.place < 12))).map TagLine.place).foldl (fun s p => s.dropL2 p l) s) s
    { s with
      pages := s.pages.filter (fun (p : PageRec) => !hit p)
      mapped := s.mapped.filter (fun (e : TrEntry) => !r.meets e || s.tlb.any (fun t => t.vdid == e.vdid && t.gpage == e.gpage)) }

/-- TINV_COMPLETE: an invalidation completes once entries are gone and bound stores have drained; `n` names the waiting
split as four times its group's name and its number. (R153) -/
def execTinvComplete (n : Nat) (s : State) : Out State :=
  let i : Fin 4 := Fin.ofNat 4 n
  .next (match ((s.group? (n / 4)).map (fun g => (g.ctl.split i).wait) : Option Wait) with
    | some (.answer .tinv _ before y) =>
      let r := TinvRange.ofCode y
      if s.boundDone before r then (s.tinvPages r).answer (n / 4) i 64 0 else s
    | _ => s)

/-- The code of a page size (R155); a stage that is off has no page, and the larger code stands for it (log entry 17). -/
def sizeCode (bits : Nat) : Nat := if bits ≤ 12 then 0 else if bits ≤ 16 then 1 else if bits ≤ 21 then 2 else 3

/-- The word `tprobe` writes (R155). On a fault the table leaves bits 7 to 1 open: `free` gives them. A `far` leaf met while an entry
of stage 1 is read is shown by the far bit alone, neither translated nor a fault: the model's choice (log entry 17). -/
def probeWord (r : XRes) (free : BitVec 7) : Nat :=
  match r with
  | .ok x => x.fa / 4096 * 4096 + sizeCode x.bits * 32 + x.perm.toNat * 2 + x.far.toNat * 128 + 1
  | .far _ => 128
  | .fault f =>
    let level := if f.stage = 2 then f.l2 else f.l1
    level * 1024 + (if f.cause = 10 then 3 else f.stage) * 256 + free.toNat * 2

/-- The walk of `tprobe`: stage 1 only, or both stages; no cache is filled and no footprint recorded. Permissions are reported and
not checked, so that a page without `r` counts as translated: the model's choice (R155; log entry 17). -/
def State.probeLines (s : State) (c : Ctx) (die gva : Nat) (s2 : Bool) : XRes × List Nat :=
  if s2 then s.walkLines c die gva none 2
  else if gva / 2 ^ 48 ≠ 0 then (.fault ⟨8, 1, 0, 0, 0⟩, [])
  else
    let r := s.walk1 die c.world c.s1root.toNat ((s.vregs.s2root[c.vdid]?).getD 0).toNat gva
    (match r.1 with
      | .ok l => .ok ⟨l.out, l.out, l.bits, l.perm, l.perm, none, true, false⟩
      | .far i => .far i
      | .fault f => .fault f, r.2)

/-- The same with its reads. -/
def State.probe (s : State) (c : Ctx) (die gva : Nat) (s2 : Bool) : XRes × State :=
  walkedBy (fun s => s.probeLines c die gva s2) die c.world 8 s

/-- `tprobe` (R155): the walk ends in the turn (log entry 6). -/
def doTprobe (d a : Nat) (s2 : Bool) (s : State) : Act :=
  match s.myCtx with
  | none => .ok s
  | some c =>
    let r := s.probe c (dieOf s.cur.place.core) (s.sreg a).toNat s2
    .ok ({ r.2 with freeCount := r.2.freeCount + 1 }.setSreg d (BitVec.ofNat 64 (probeWord r.1 (Config.freeBits 7 r.2.freeCount))))

/-- TINV: Invalidates translations for a range and stage. (R154) -/
def execTinv (a : BitVec 6) (b : BitVec 6) (c : BitVec 6) (t : BitVec 2) (s : State) : Out State :=
  issue (.tinv a b c t) s (doTinv a.toNat b.toNat c.toNat t.toNat)

/-- TPROBE: Translates without faulting and reports the result. (R155) -/
def execTprobe (d : BitVec 6) (a : BitVec 6) (bs : BitVec 1) (s : State) : Out State :=
  issue (.tprobe d a bs) s (fun t => doTprobe d.toNat a.toNat (bs == 1) t)

end Sys2Proof.Machine
end

