-- ==== Sys2Proof/Machine/Tier.lean ====
section
/-! DEFINITION. The tier engine: block records, footprints, commands, moves and its instructions (spec 18 R308-R321,
21 R379). -/

namespace Sys2Proof.Machine

/-! ## Block records (R309-R311) -/

/-- A block with a usable record: its footprint index, the addresses of its record and leaf, and their contents. -/
structure Block where
  i    : Nat
  addr : Nat
  raw  : Nat
  leaf : Nat
  ent  : Nat
  deriving DecidableEq, Repr

def Block.blk (b : Block) : Nat := bitsOf b.raw 127 64
def Block.home (b : Block) : Nat := bitsOf b.raw 23 0
def Block.dn1 (b : Block) : Nat := bitsOf b.raw 167 144
def Block.tier (b : Block) : Nat := bitsOf b.raw 135 134
def Block.pin (b : Block) : Bool := decide (bitsOf b.raw 133 133 = 1)
def Block.busy (b : Block) : Bool := decide (bitsOf b.raw 132 132 = 1)
def Block.far (b : Block) : Bool := decide (bitsOf b.ent 8 8 = 1)

/-- The fabric address of the record of a footprint index; none at or beyond `count` (R310). -/
def State.recAddr (s : State) (vdid i : Nat) : Option Nat :=
  let t := ((s.vregs.tierTab[vdid]?).getD 0).toNat
  if i < t % 2 ^ 21 then some (t / 2 ^ 21 * 2 ^ 21 + 32 * i) else none

/-- The leaf of a record maps the block: a level-2 leaf with `oa` equal to `blk` (R309). -/
def leafFits (e blk : Nat) : Bool :=
  decide (e % 4 = 3) && decide (bitsOf e 7 7 = 0) && decide (bitsOf e 115 64 * 4096 = blk) && decide (blk % 2 ^ 21 = 0)

/-- The tables that the table at a fabric address points to, by the entries of it that memory lists. -/
def State.subTables (s : State) (t : Nat) : List Nat :=
  ((s.mem.filterMap (fun (c : Host.Cell) =>
    let a := c.1 % 2 ^ 64
    if t ≤ a ∧ a < t + 8192 ∧ a % 16 = 0 ∧ c.2.toNat % 4 = 1 then some a else none)).eraseDups).filterMap (fun a =>
      match s.engineNum 0 a 16 with
      | some e => if e % 4 = 1 then some (bitsOf e 115 64 * 4096) else none
      | none => none)

/-- An address lies in a level-2 table of a VDID's stage 2 (R309, 09 R147). -/
def State.inLevel2 (s : State) (vdid a : Nat) : Bool :=
  let r := ((s.vregs.s2root[vdid]?).getD 0).toNat
  decide (r % 2 = 1) && ((s.subTables (r / 2 ^ 13 * 2 ^ 13)).flatMap s.subTables).contains (a / 8192 * 8192)

/-- The record of a footprint index, with the leaf that it points at (R310, R311). -/
def State.recOf? (s : State) (vdid i : Nat) : Option Block :=
  match s.recAddr vdid i with
  | none => none
  | some a =>
    match s.engineNum 0 a 32 with
    | none => none
    | some raw =>
      let leaf := bitsOf raw 255 196 * 16
      some ⟨i, a, raw, leaf, (s.engineNum 0 leaf 16).getD 0⟩

/-- The block of a footprint index, where it has a record that the engine does not skip (R309). -/
def State.block? (s : State) (vdid i : Nat) : Option Block :=
  match s.recOf? vdid i with
  | none => none
  | some b => if s.inLevel2 vdid b.leaf && leafFits b.ent b.blk then some b else none

/-- The lines of a range in which memory lists bytes, or to which a write or an echo is on its way. -/
def State.linesIn (s : State) (a n : Nat) : List Nat :=
  (((s.mem.map (fun (c : Host.Cell) => c.1 % 2 ^ 64)) ++ (s.writes.filter (fun (w : WriteReq) => w.phase == WPhase.invalidating)).map WriteReq.addr ++
    s.echoes.map Echo.addr).filterMap (fun x => if a ≤ x ∧ x < a + n then some (lineBase x) else none)).eraseDups

/-- The engine's reads of a range arrive at its lines: what waits there settles, and each is read where it lies (15 R258, 13 R227). -/
def State.seeRange (s : State) (world a n : Nat) : State := (s.linesIn a n).foldl (fun s l => s.arrive world l 64) s

/-- The engine's reads of the tables of a VDID's stage 2 down to level 2 (R309). -/
def State.seeTables (s : State) (vdid : Nat) : State :=
  let root := ((s.vregs.s2root[vdid]?).getD 0).toNat / 2 ^ 13 * 2 ^ 13
  let s := s.seeRange 0 root 8192
  (s.subTables root).foldl (fun s t => s.seeRange 0 t 8192) s

/-- The engine's reads of a record, of the leaf that it points at and of the tables arrive at their lines (13 R227). -/
def State.seeBlock (s : State) (vdid i : Nat) : State :=
  match s.recAddr vdid i with
  | none => s
  | some a =>
    let s := (s.arrive 0 a 32).seeTables vdid
    match s.engineNum 0 a 32 with
    | none => s
    | some raw => s.arrive 0 (bitsOf raw 255 196 * 16) 16

/-- A byte changed in one step by the engine (R317: by atomics at package scope). -/
def State.engineByte (s : State) (world a : Nat) (f : Nat → Nat) : State :=
  let s := s.arrive world a 1
  match s.engineNum world a 1 with
  | none => s
  | some v => s.engineWrite world a [BitVec.ofNat 8 (f v)]

def State.setFar (s : State) (leaf : Nat) (v : Bool) : State := s.engineByte 0 (leaf + 1) (fun x => setBits x 0 0 v.toNat)
def State.setBusy (s : State) (rec : Nat) (v : Bool) : State := s.engineByte 0 (rec + 16) (fun x => setBits x 4 4 v.toNat)
def State.setTier (s : State) (rec t : Nat) : State := s.engineByte 0 (rec + 16) (fun x => setBits x 7 6 t)

/-! ## Footprints (R308, R312, R313) -/

/-- The bitmap of a context, and its footprint set behind it, whether or not translation records in it (log entry 30). -/
def Ctx.bitmap (c : Ctx) : Nat := c.fpBase.toNat / 2 ^ 17 * 2 ^ 17
def Ctx.fset (c : Ctx) : Nat := c.bitmap + 2 ^ 17

/-- Whether a bit of a map is set. -/
def State.bitAt (s : State) (world b i : Nat) : Bool :=
  match s.engineNum world (b + i / 8) 1 with
  | some v => decide (v / 2 ^ (i % 8) % 2 = 1)
  | none => false

/-- Sets or clears a bit of a map. -/
def State.putBit (s : State) (world b i : Nat) (v : Bool) : State :=
  s.engineByte world (b + i / 8) (fun x => setBits x (i % 8) (i % 8) v.toNat)

/-- The bytes of a map that are listed in memory: every other byte is 0. -/
def State.mapBytes (s : State) (b : Nat) : List Nat :=
  (s.mem.filterMap (fun (c : Host.Cell) => let a := c.1 % 2 ^ 64; if b ≤ a ∧ a < b + 2 ^ 17 then some a else none)).eraseDups

/-- The bits set in a map. -/
def State.mapBits (s : State) (world b : Nat) : List Nat :=
  (s.mapBytes b).flatMap (fun a => (List.range 8).filterMap (fun j =>
    if s.bitAt world b (8 * (a - b) + j) then some (8 * (a - b) + j) else none))

/-- The hurdle of a record (R313): a block whose record is skipped cannot be moved, and no launch waits on it (log entry 30). -/
def State.hurdleOk (s : State) (c : Ctx) (hurdle : Nat) : Bool :=
  let bits := (s.mapBits c.world c.fset).filter (fun i => (s.recAddr c.vdid i).isSome)
  let up := bits.filter (fun i => match s.block? c.vdid i with | some b => !b.far && !b.busy | none => true)
  decide (hurdle * bits.length ≤ 256 * up.length)

/-- The engine's reads for a hurdle: the footprint set and the records of its blocks. -/
def State.seeHurdle (s : State) (c : Ctx) : State :=
  let s := s.seeRange c.world c.fset (2 ^ 17)
  (s.mapBits c.world c.fset).foldl (fun s i => s.seeBlock c.vdid i) s

/-! ## Commands (R314) -/

def Tier.replaceMove (t : Tier) (m : Move) : Tier :=
  { t with moves := t.moves.map (fun (x : Move) => if x.id == m.id then m else x) }

/-- A new command: it changes the one that is queued for its block, or joins a move in its direction; a move of the other direction is
aborted where it may be (R314, R316). The answer is false where the queue is full. -/
def State.command (s : State) (c : TierCmd) : Bool × State :=
  let t := s.tier
  let moves := t.moves.map (fun (m : Move) =>
    if m.cmd.blk == c.blk && m.cmd.dir != c.dir && (m.st == MoveSt.announcing || m.st == MoveSt.copying) then { m with st := MoveSt.aborted }
    else m)
  if t.cmds.any (fun o => o.blk == c.blk) then
    (true, { s with tier := { t with moves := moves, cmds := t.cmds.map (fun (o : TierCmd) =>
      if o.blk == c.blk then { o with prio := min o.prio c.prio, dir := c.dir, waiters := o.waiters ++ c.waiters } else o) } })
  else match t.moves.find? (fun m => m.cmd.blk == c.blk && m.cmd.dir == c.dir && m.st != MoveSt.aborted) with
    | some m => (true, { s with tier := t.replaceMove { m with cmd := { m.cmd with waiters := m.cmd.waiters ++ c.waiters } } })
    | none =>
      if 4096 ≤ t.cmds.length then (false, s)
      else (true, { s with tier := { t with moves := moves, cmds := t.cmds ++ [c] } })

/-- Switch and hint commands are enqueued only while `en` = 1 (R315). -/
def State.tierEn (s : State) : Bool := s.pkg.tierCfg.getLsbD 0

/-- A context leaves residency: DOWN commands for the blocks it has used and no other context of its VDID needs (R312). -/
def State.tierOut (s : State) (c : Ctx) : State :=
  let others := s.ctxs.filter (fun x => x.num != c.num && x.vdid == c.vdid && x.st == CtxSt.resident)
  let s := s.seeRange c.world c.bitmap (2 ^ 17)
  (s.mapBits c.world c.bitmap).foldl (fun (s : State) i =>
    let s := others.foldl (fun (s : State) o => (s.arrive o.world (o.bitmap + i / 8) 1).arrive o.world (o.fset + i / 8) 1) (s.seeBlock c.vdid i)
    match s.recOf? c.vdid i with
    | none => s
    | some b =>
      if b.tier ≠ 0 || b.pin || !s.tierEn ||
          others.any (fun o => s.bitAt o.world o.bitmap i || s.bitAt o.world o.fset i) then s
      else (s.command ⟨b.blk, c.vdid, c.num, b.addr, .down, 3, []⟩).2) s

/-- A context is switched in: its bitmap becomes its footprint set and is cleared, and its far blocks are fetched (R312). -/
def State.tierIn (s : State) (c : Ctx) : State :=
  let s := s.seeRange c.world c.bitmap (2 ^ 18)
  let bits := s.mapBits c.world c.bitmap
  let s := (s.mapBytes c.fset).foldl (fun (s : State) a => s.engineByte c.world a (fun _ => 0)) s
  let s := bits.foldl (fun (s : State) i => s.putBit c.world c.fset i true) s
  let s := (s.mapBytes c.bitmap).foldl (fun (s : State) a => s.engineByte c.world a (fun _ => 0)) s
  bits.foldl (fun (s : State) i =>
    let s := s.seeBlock c.vdid i
    match s.recOf? c.vdid i with
    | some b => if b.far && s.tierEn then (s.command ⟨b.blk, c.vdid, c.num, b.addr, .up, 1, []⟩).2 else s
    | none => s) s

/-! ## Waiters (R319) -/

/-- An error record of the engine: a record skipped or a move failed (R309, R317). -/
def State.tierError (s : State) (vdid blk : Nat) : State := s.errorRecord ⟨43, 0, vdid, 0, 10, blk, [], false⟩

/-- A block that cannot be moved: the fault goes to the hypervisor's queue as a stage-2 PAGE_FAULT at level 2, with the IPA and the
stage-1 level at which the walk met it (09 R152, 19 R330). -/
def State.passFault (s : State) (w : TierWait) : State :=
  match s.ctx? w.ctx with
  | none => s
  | some c =>
    let id := s.nextId
    (s.newFault { c with vdid := w.vdid } w.uid (s.anyGroup w.uid).isSome ⟨8, 2, w.far.l1, 2, w.far.ipa⟩ w.gva w.acc 0).offerFault id

/-- A move has ended: one page has come for each waiter. -/
def State.wakeAll (s : State) (ws : List TierWait) : State :=
  ws.foldl (fun (s : State) w => s.modAnyGroup w.uid (Group.pageCame s.pace s.cycle)) s

/-- Faults that the fault queue holds. -/
def Tier.faults (t : Tier) : Nat :=
  (t.cmds.map (fun c => c.waiters.length)).sum + (t.moves.map (fun m => m.cmd.waiters.length)).sum

/-- TIER_FAULT_OFFER: a far leaf is offered to the tier engine's fault queue, again every 1 µs while it is full. (R319) -/
def execTierFaultOffer (n : Nat) (s : State) : Out State :=
  .next (match s.tier.offered.find? (fun w => w.id == n) with
    | none => s
    | some w =>
      if 1024 ≤ s.tier.faults then s
      else
        let s := s.seeBlock w.vdid w.far.fpi
        let s' := { s with tier := { s.tier with offered := s.tier.offered.filter (fun (x : TierWait) => x.id != n) } }
        match s.block? w.vdid w.far.fpi with
        | none => (s'.passFault w).tierError w.vdid (w.far.fa / 2 ^ 21 * 2 ^ 21)
        | some b =>
          if !b.far then s'.wakeAll [w]
          else
            let r := s'.command ⟨b.blk, w.vdid, w.ctx, b.addr, .up, 0, [w]⟩
            if r.1 then r.2 else s)

/-! ## Moves (R316, R317) -/

/-- The prefix of a block. -/
def blkPrefix (blk : Nat) : Prefix := ⟨blk, 43⟩

/-- The relay descriptor of a holder of a block with the lease and capability of another (10 R174). -/
def State.moveDesc (s : State) (blk holder src role : Nat) : Nat :=
  let p : Nat × BitVec 8 := match s.holderState src blk with
    | some h => (h.lease, h.cap)
    | none => ((s.routeWrite (s.localId 0) blk []).map (fun h => (h.lease, h.cap))).getD (20, 0)
  holder * 2 ^ 24 + p.1 * 2 ^ 16 + role * 2 ^ 14 + p.2.toNat * 2 ^ 6 + 43

/-- The new holder is announced: at once for a holder of this package; another package is asked. -/
def State.askAnnounce (s : State) (m : Move) : State :=
  let m := { m with st := MoveSt.announcing, asked := s.pace, answer := none, announced := false }
  if m.dst / 256 = s.pkgNum then
    let r := s.rteAnn m.cmd.blk (s.moveDesc m.cmd.blk m.dst m.src 1)
    { r.2 with tier := r.2.tier.replaceMove { m with answer := some r.1, announced := decide (r.1 = 0) } }
  else { s with tier := s.tier.replaceMove m }.sendTo (s.localId 0) m.cmd.blk m.dst chanReq

/-- The next command that a free place can take (R314). -/
def State.nextCmd (s : State) : Option TierCmd :=
  let max := bitsOf s.pkg.tierCfg.toNat 20 16
  let used := s.tier.moves.length
  let ok := s.tier.cmds.filter (fun c => s.tier.moves.all (fun m => m.cmd.blk != c.blk) &&
    (if c.prio = 0 || max = 1 then decide (used < max) else decide (used + 1 < max)))
  ok.foldl (fun (b : Option TierCmd) c => match b with
    | none => some c
    | some x => if c.prio < x.prio then some c else some x) none

/-- TIER_MOVE_START: the tier engine starts a queued move and announces the new holder. (R316) -/
def execTierMoveStart (s : State) : Out State :=
  .next (match s.nextCmd with
    | none => s
    | some c =>
      let base := (s.recAddr c.vdid 0).getD 0
      let s := { s with tier := { s.tier with cmds := s.tier.cmds.erase c } }
      let s := s.seeBlock c.vdid ((c.recAddr - base) / 32)
      match s.block? c.vdid ((c.recAddr - base) / 32) with
      | none => (c.waiters.foldl (fun (s : State) w => s.passFault w) s).tierError c.vdid c.blk
      | some b =>
        if (c.dir == Dir.up && !b.far) || (c.dir == Dir.down && (b.pin || decide (b.tier ≠ 0))) then s.wakeAll c.waiters
        else
          let src := ((s.routeWrite (s.localId 0) b.blk []).map RtHolder.holder).getD 0
          let host := s.localId 0
          let dst := match c.dir with
            | .up => b.home
            | .down => if b.dn1 = 0 then host else b.dn1
          let id := s.nextId
          let m : Move := ⟨id, c, src, dst, .announcing, 0, decide (dst = host), false, s.pace, none⟩
          let s := s.fresh.2
          let s := { s with tier := { s.tier with moves := s.tier.moves ++ [m] } }
          (s.setBusy b.addr true).askAnnounce m)

def State.move? (s : State) (n : Nat) : Option Move := s.tier.moves.find? (fun m => m.id == n)

def State.setMove (s : State) (m : Move) : State := { s with tier := s.tier.replaceMove m }

/-- A holder that the move has announced is withdrawn. -/
def State.dropNew (s : State) (m : Move) : State :=
  if m.announced && decide (m.dst / 256 = s.pkgNum) then (s.rteWd m.cmd.blk (s.moveDesc m.cmd.blk m.dst m.src 1)).2 else s

/-- An announcement that failed: a move down tries the host's memory next; otherwise the move aborts. -/
def State.announceFailed (s : State) (m : Move) : State :=
  if m.cmd.dir == Dir.down && !m.triedHost then (s.dropNew m).askAnnounce { m with dst := s.localId 0, triedHost := true }
  else s.setMove { m with st := .aborted }

/-- The new holder is FILLING as far as the router of the old one knows, CD0's where that is another package's: its announcement
has arrived and it has not been revoked (10 R165, R173). -/
def State.filling (s : State) (m : Move) : Bool :=
  if m.dst / 256 = s.pkgNum then ((s.record (blkPrefix m.cmd.blk) m.dst).map HolderSt.st) == some HState.filling
  else (s.exactEntry (s.primRouter m.src) (blkPrefix m.cmd.blk)).any (fun e => e.holders.any (fun h => h.holder == m.dst))

/-- Another package's answer comes more than 20 µs after the request, whose holder counts as unreachable (21 R379). -/
def State.tooLate (s : State) (m : Move) : Bool := m.answer.isNone && decide (m.asked + 20000 < s.pace)

/-- TIER_ANNOUNCE_ANSWER: the announcement result arrives, behind the relays of the block, and the move copies, retries or
aborts. (R316) -/
def execTierAnnounceAnswer (n : Nat) (status : Nat) (s : State) : Out State :=
  .next (match s.move? n with
    | none => s
    | some m =>
      if m.st != .announcing then s
      else if s.relays.any (fun r => r.msg.pre == blkPrefix m.cmd.blk) || s.tooLate m then s
      else
        let st := m.answer.getD status
        let refused := s.refused.any (fun x => x.1 == blkPrefix m.cmd.blk && x.2.1 == m.dst)
        if st = 0 ∧ refused = false then (if s.filling m then s.setMove { m with st := .copying, announced := true } else s)
        else s.announceFailed m)

/-- TIER_FILL_READ: a fill read returns from the block's primary as it then is (10 R168) and is written on, or, if poisoned or without a route, or where
the new holder has been revoked, aborts the move. (R316) -/
def execTierFillRead (n : Nat) (s : State) : Out State :=
  .next (match s.move? n with
    | none => s
    | some m =>
      if m.st != .copying || decide (2 ^ 21 ≤ m.pos) then s
      else
        let a := m.cmd.blk + m.pos
        let gone := !s.filling m
        match s.home a with
        | none => s.setMove { m with st := .aborted }
        | some h =>
          let s := s.settleLine h.holder a
          if gone || (s.lineAt h.holder a).poison then s.setMove { m with st := .aborted }
          else
            let s := s.unitRead h.holder a
            let bs := s.bytesAt h.holder a 64
            let stamp := (s.lineAt h.holder a).wct
            let (id, s) := s.fresh
            let f : FillWrite := ⟨id, blkPrefix m.cmd.blk, m.dst, a, bs, n, stamp⟩
            ({ s with fills := s.fills ++ [f] }.sendTo (s.localId 0) f.addr f.dst chanData).setMove { m with pos := m.pos + 64 })

/-- TIER_FILL_DONE: the last fill is acknowledged and the baton handover is requested. (R316) -/
def execTierFillDone (n : Nat) (s : State) : Out State :=
  .next (match s.move? n with
    | none => s
    | some m =>
      if m.st != .copying || decide (m.pos < 2 ^ 21) || s.fills.any (fun f => f.move == n) then s
      else
        let m := { m with st := MoveSt.handing, asked := s.pace, answer := none }
        if m.dst / 256 = s.pkgNum then
          let r := s.rteRole m.cmd.blk (s.moveDesc m.cmd.blk m.dst m.src 0)
          r.2.setMove { m with answer := some r.1 }
        else (s.setMove m).sendTo (s.localId 0) m.cmd.blk m.dst chanReq)

/-- The old holder has handed the baton to a holder of another package, at the latest as the answer arrives (10 R173). -/
def State.handedOver (s : State) (m : Move) : State :=
  let pre := blkPrefix m.cmd.blk
  if m.dst / 256 ≠ s.pkgNum ∧ ((s.record pre m.src).map HolderSt.st) = some .primary then s.baton pre m.src m.dst else s

/-- TIER_HANDOVER_ANSWER: the handover result arrives and the old holder is withdrawn, by its own package where that is another; or the
move aborts. (R316, 21 R379) -/
def execTierHandoverAnswer (n : Nat) (status : Nat) (s : State) : Out State :=
  .next (match s.move? n with
    | none => s
    | some m =>
      if m.st != .handing || s.tooLate m then s
      else if m.answer.getD status = 0 then
        let s := s.handedOver m
        (s.rteWd m.cmd.blk (s.moveDesc m.cmd.blk m.src m.src 0)).2.setMove { m with st := .withdrawing }
      else s.setMove { m with st := .aborted })

/-- TIER_MOVE_END: a move ends; far, tier and busy are written and waiting groups are released. (R317) -/
def execTierMoveEnd (n : Nat) (s : State) : Out State :=
  .next (match s.move? n with
    | none => s
    | some m =>
      let pre := blkPrefix m.cmd.blk
      let left := if m.src / 256 = s.pkgNum then (match s.record pre m.src with | some h => h.st == HState.draining | none => true)
        else !(s.exactEntry (s.localId 0) pre).any (fun e => e.holders.any (fun h => h.holder == m.src))
      let up := m.cmd.dir == Dir.up
      let done := m.st == .withdrawing && left
      if !done && m.st != .aborted then s
      else
        let base := (s.recAddr m.cmd.vdid 0).getD 0
        let s := s.seeBlock m.cmd.vdid ((m.cmd.recAddr - base) / 32)
        let leaf := ((s.block? m.cmd.vdid ((m.cmd.recAddr - base) / 32)).map Block.leaf)
        let s := { s with tier := { s.tier with moves := s.tier.moves.filter (fun (x : Move) => x.id != n) } }
        let s := if done then s else (s.dropNew m).tierError m.cmd.vdid m.cmd.blk
        let far := fun (s : State) (v : Bool) => match leaf with | some l => s.setFar l v | none => s
        let s := if done then
            (far s (!up)).setTier m.cmd.recAddr (if up then 0 else if m.dst % 256 = 0 then 2 else 1)
          else if up then far s false else s
        let s := if done && !up then
            { s with tlb := s.tlb.filter (fun (e : TrEntry) => !(e.vdid == m.cmd.vdid &&
              decide (e.fpage * 2 ^ e.bits < m.cmd.blk + 2 ^ 21) && decide (m.cmd.blk < (e.fpage + 1) * 2 ^ e.bits))) }
          else s
        (s.setBusy m.cmd.recAddr false).wakeAll m.cmd.waiters)

/-- ANNOUNCEMENT_REQUEST: another package's tier engine asks this package to announce, change or withdraw a holder; a VDID
that is not hosted here is refused with BAD_HOLDER. The request of another package's router for a baton comes in the same way. (21 R379,
10 R173) -/
def execAnnouncementRequest (vdid : Nat) (op : RteOp) (pre : Prefix) (desc : BitVec 64) (s : State) : Out State :=
  let d := setBits desc.toNat 5 0 pre.len
  .next (if op = .baton then s.giveBaton pre.base d
    else if (s.vregs.part[vdid]?).getD 255 = 255 then s
    else
      match op with
      | .baton => s
      | .ann => (s.rteAnn pre.base d).2
      | .wd => (s.rteWd pre.base d).2
      | .role => (s.rteRole pre.base d).2)

/-- ANNOUNCEMENT_TIMEOUT: no answer within 20 µs; the holder counts as unreachable. (21 R379) -/
def execAnnouncementTimeout (n : Nat) (s : State) : Out State :=
  .next (match s.move? n with
    | none => s
    | some m =>
      if m.answer.isSome || decide (s.pace ≤ m.asked + 20000) then s
      else match m.st with
        | .announcing => s.announceFailed m
        | .handing => s.setMove { m with st := .aborted }
        | _ => s)

/-! ## Instructions (R320, R321) -/

/-- The footprint index of the block of an address: its leaf's index and the offset (09 R151). -/
def Xlate.block (x : Xlate) : Option Nat := x.fpi.map (fun f => f + x.fa % 2 ^ min x.bits 48 / 2 ^ 21)

/-- The blocks of a range in ascending order, and whether a page of it is unmapped. -/
def blocksOf (c : Ctx) (core stop : Nat) : Nat → Nat → List Nat × Bool → State → (List Nat × Bool) × State
  | 0, _, acc, s => (acc, s)
  | fuel + 1, gva, acc, s =>
    if stop ≤ gva then (acc, s)
    else
      let r := s.probe c (dieOf core) gva true
      match r.1 with
      | .ok x =>
        let step := 2 ^ min x.bits 21
        let acc := match x.block with
          | some i => if (s.recAddr c.vdid i).isSome && !acc.1.contains i then (acc.1 ++ [i], acc.2) else acc
          | none => acc
        blocksOf c core stop fuel ((gva / step + 1) * step) acc r.2
      | _ => blocksOf c core stop fuel ((gva / 4096 + 1) * 4096) (acc.1, true) r.2

/-- The range that `s`a and `s`b[39:0] name: its blocks, and the state after the walks. -/
def State.rangeBlocks (s : State) (c : Ctx) (a b : Nat) : (List Nat × Bool) × State :=
  let start := (s.sreg a).toNat
  let len := (s.sreg b).toNat % 2 ^ 40
  blocksOf c s.cur.place.core (start + len) (len / 4096 + 2) start ([], false) s

/-- `tier.rec` (R320). -/
def doTierRec (d a b : Nat) (s : State) : Act :=
  match s.myCtx with
  | none => .ok s
  | some c =>
    let (r, s) := s.rangeBlocks c a b
    let s := r.1.foldl (fun (s : State) i => (s.putBit c.world c.bitmap i true).putBit c.world c.fset i true) s
    .ok (s.setSreg d (BitVec.ofNat 64 (r.1.length + if r.2 then 2 ^ 63 else 0)))

/-- `tier.hint` (R320): the blocks in ascending order, up to a full queue. -/
def doTierHint (up : Bool) (d a b : Nat) (s : State) : Act :=
  match s.myCtx with
  | none => .ok s
  | some c =>
    let (r, s) := s.rangeBlocks c a b
    let out := r.1.foldl (fun (x : State × Nat × Bool) i =>
      if x.2.2 then x
      else
        let s := (x.1.putBit c.world c.fset i up).seeBlock c.vdid i
        match s.recOf? c.vdid i with
        | none => (s, x.2.1, false)
        | some k =>
          let want := if up then k.far else decide (k.tier = 0) && !k.pin
          if want && s.tierEn then
            let q := s.command ⟨k.blk, c.vdid, c.num, k.addr, if up then .up else .down, if up then 2 else 4, []⟩
            if q.1 then (q.2, x.2.1 + 1, false) else (s, x.2.1, true)
          else (s, x.2.1, false)) (s, 0, false)
    .ok (out.1.setSreg d (BitVec.ofNat 64 (out.2.1 + (if r.2 then 2 ^ 63 else 0) + (if out.2.2 then 2 ^ 62 else 0))))

/-- `tier.q` (R321). -/
def doTierQ (d a : Nat) (s : State) : Act :=
  match s.myCtx with
  | none => .ok (s.setSreg d 0)
  | some c =>
    let r := s.probe c (dieOf s.cur.place.core) (s.sreg a).toNat true
    match (match r.1 with | .ok x => x.block | _ => none) with
    | none => .ok (r.2.setSreg d 0)
    | some i =>
      let s := ((r.2.seeBlock c.vdid i).arrive c.world (c.fset + i / 8) 1).arrive c.world (c.bitmap + i / 8) 1
      let word := match s.recOf? c.vdid i with
        | none => 0
        | some b =>
          let prim := ((s.routeWrite (s.dieRouter s.cur.place.core) b.blk []).map RtHolder.holder).getD 0
          prim * 2 ^ 40 + b.tier * 2 ^ 38 + b.far.toNat * 2 ^ 37 + b.busy.toNat * 2 ^ 36 +
            (s.bitAt c.world c.fset i).toNat * 2 ^ 35 + (s.bitAt c.world c.bitmap i).toNat * 2 ^ 34 + b.pin.toNat * 2 ^ 33 +
            i % 2 ^ 20 * 2 ^ 8 + 1
      .ok (s.setSreg d (BitVec.ofNat 64 word))


/-- TIER_REC: Records blocks of a range in the footprint. (R320) -/
def execTierRec (d : BitVec 6) (a : BitVec 6) (b : BitVec 6) (s : State) : Out State :=
  issue (.tierRec d a b) s (doTierRec d.toNat a.toNat b.toNat)

/-- TIER_HINT_UP: Adds blocks to the footprint set and enqueues UP moves. (R320) -/
def execTierHintUp (d : BitVec 6) (a : BitVec 6) (b : BitVec 6) (s : State) : Out State :=
  issue (.tierHintUp d a b) s (doTierHint true d.toNat a.toNat b.toNat)

/-- TIER_HINT_DOWN: Removes blocks from the footprint set and enqueues DOWN moves. (R320) -/
def execTierHintDown (d : BitVec 6) (a : BitVec 6) (b : BitVec 6) (s : State) : Out State :=
  issue (.tierHintDown d a b) s (doTierHint false d.toNat a.toNat b.toNat)

/-- TIER_Q: Reports the tier state of the block holding an address. (R321) -/
def execTierQ (d : BitVec 6) (a : BitVec 6) (s : State) : Out State :=
  issue (.tierQ d a) s (doTierQ d.toNat a.toNat)

end Sys2Proof.Machine
end

