-- ==== Sys2Proof/Machine/Launch.lean ====
section
/-! DEFINITION. Launch records, their admission, placement and end, work lists and submission rings (spec 17 R294-R307,
02 R26-R33, R42-R44, 05 R84-R86, 20 R361). -/

namespace Sys2Proof.Machine

/-! ## Records (17 R295) -/

/-- A record as it is admitted. -/
def newRec (id part ctx raw : Nat) : LRec :=
  { id := id, part := part, ctx := ctx, raw := raw, st := .waitPred, status := 0, queued := 0, resvFrom := 0, aged := false,
    hold := Held.none, placed := [], released := [], wct := 0, succDone := 0, succWct := 0, cleared := false, nodeDone := false, copy := none }

def LRec.entry (r : LRec) : Nat := r.bits 63 0
def LRec.regs (r : LRec) : Nat := r.bits 71 64
def LRec.scratch (r : LRec) : Nat := r.bits 91 72
def LRec.prio (r : LRec) : Nat := r.bits 97 96
def LRec.pl (r : LRec) : Nat := r.bits 99 98
def LRec.cscope (r : LRec) : Nat := r.bits 103 100
def LRec.hurdle (r : LRec) : Nat := r.bits 112 104
def LRec.isCopy (r : LRec) : Bool := decide (r.bits 127 124 = 1)
def LRec.npred (r : LRec) : Nat := r.bits 175 160
def LRec.node (r : LRec) : Nat := r.bits 191 176
def LRec.succ (r : LRec) : Nat := r.bits 239 192
def LRec.nsucc (r : LRec) : Nat := r.bits 255 240
def LRec.recipe (r : LRec) : Nat := r.bits 303 256
def LRec.nrecipe (r : LRec) : Nat := r.bits 316 304
def LRec.gfirst (r : LRec) : Nat := r.bits 359 320
def LRec.gcount (r : LRec) : Nat := r.bits 423 384
def LRec.cpl (r : LRec) : Nat := r.bits 495 448
def LRec.domain (r : LRec) (i : Nat) : Nat := r.bits (64 * i + 518) (64 * i + 516)
def LRec.gang (r : LRec) (i : Nat) : Bool := decide (r.bits (64 * i + 528) (64 * i + 528) = 1)
def LRec.lscope (r : LRec) (i : Nat) : Nat := r.bits (64 * i + 523) (64 * i + 520)

/-- Check 1 of R297: reserved bits, codes, alignments and the level of the submitter. -/
def badFields (r : LRec) (maxpl : Nat) : Bool :=
  decide (r.bits 511 496 ≠ 0 ∨ r.bits 447 424 ≠ 0 ∨ r.bits 383 360 ≠ 0 ∨ r.bits 319 317 ≠ 0 ∨ r.bits 123 113 ≠ 0 ∨
    r.bits 95 92 ≠ 0 ∨ 1 < r.bits 127 124 ∨ 256 < r.hurdle ∨ r.cscope < 2 ∨ 5 < r.cscope ∨ r.pl = 3 ∨ maxpl < r.pl ∨
    r.cpl % 8 ≠ 0 ∨ r.scratch % 64 ≠ 0 ∨ 458752 < r.scratch ∨ 4096 < r.nrecipe) ||
  (r.isCopy && decide (r.gcount ≠ 0 ∨ r.nrecipe ≠ 0 ∨ r.bits 159 128 ≠ 0 ∨ r.hurdle ≠ 0 ∨ r.pl ≠ 0 ∨ r.scratch ≠ 0 ∨ r.regs ≠ 0))

/-- The least scope of a domain (02 R27). -/
def leastScope (d : Nat) : Nat := match d with | 0 | 1 => 0 | 2 => 1 | 3 | 4 => 2 | 5 => 3 | 6 => 4 | _ => 5

/-- A well-formed level table (02 R27). -/
def levelsOk (r : LRec) : Bool :=
  let n := levelCount r
  let entry := fun i => r.bits (64 * i + 575) (64 * i + 512)
  let rsv := fun i => r.bits (64 * i + 543) (64 * i + 529) != 0 || r.bits (64 * i + 527) (64 * i + 524) != 0 ||
    r.bits (64 * i + 519) (64 * i + 519) != 0 || r.bits (64 * i + 515) (64 * i + 513) != 0
  decide (1 ≤ n) && (List.range 8).all (fun i => if i < n then levelValid r i else decide (entry i = 0)) &&
    decide (levelExtent r 0 = 32) && decide (r.domain 0 = 1) && decide (r.lscope 0 = 0) && !r.gang 0 &&
    (List.range n).all (fun i => !rsv i && decide (1 ≤ levelExtent r i) && decide (r.lscope i ≤ 5) &&
      decide (leastScope (r.domain i) ≤ r.lscope i) && (decide (r.domain i < 6) || !r.gang i) &&
      (decide (i = 0) || ((decide (2 ≤ r.domain i) || decide (levelExtent r i = 1)) && decide (r.domain (i - 1) ≤ r.domain i)))) &&
    decide (levelSpan r (n - 1) ≤ 2 ^ 40)

/-! ## Capacity and bounds (02 R28, R31, R32) -/

/-- The instance of a domain that holds a core. -/
def instOf (d core : Nat) : Nat := match d with | 0 | 1 | 2 => core | 3 => sliceOf core | 4 => dieOf core | _ => 0

/-- The partition's scratchpad share of a core in bytes (01 R22). -/
def State.share (s : State) (part : Nat) : Nat := bitsOf ((s.pkg.partDesc[part]?).getD 0).toNat 23 20 * 65536

/-- The highest level that is placed whole, 0 for none (02 R31). -/
def LRec.whole (r : LRec) : Nat :=
  (List.range (levelCount r)).foldl (fun w i => if 0 < i ∧ (r.domain i ≤ 2 ∨ r.gang i = true) then i else w) 0

/-- The highest level up to `l` bound to a domain of code `d` at most. -/
def LRec.upTo (r : LRec) (l d : Nat) : Nat :=
  (List.range (l + 1)).foldl (fun w i => if r.domain i ≤ d then i else w) 0

/-- Units of level `l` that one instance of its domain can hold in an empty partition (02 R32). -/
def State.unitsFit (s : State) (r : LRec) (l : Nat) : Nat :=
  let per := 4 * min 8 (96 / (r.regs / 8))
  let c := r.upTo l 2
  let k3 := r.upTo l 3
  let k4 := r.upTo l 4
  let core := per / levelSpan r c
  let ratio := fun (a b : Nat) => levelSpan r a / levelSpan r b
  let slice := 12 * core / ratio k3 c
  let slices := (s.partCores r.part).map sliceOf |>.eraseDups
  let die := fun (d : Nat) => (slices.filter (fun x => x / 3 == d)).length * slice / ratio k4 k3
  match r.domain l with
  | 0 | 1 | 2 => core
  | 3 => if slices.isEmpty then 0 else slice
  | 4 => ((List.range 4).map die).foldl max 0
  | _ => ((List.range 4).map die).sum / ratio l k4

/-- Every level placed whole fits (02 R32). -/
def State.fits (s : State) (r : LRec) : Bool :=
  (List.range (levelCount r)).all (fun i => decide (i = 0) || !(decide (r.domain i ≤ 2) || r.gang i) || decide (1 ≤ s.unitsFit r i))

/-! ## Node words (17 R296) -/

/-- What the launch unit of a partition acts for. -/
def State.launchAgent (s : State) (c : Ctx) (part id : Nat) : Agent :=
  ⟨c, ((s.partCores part).head?).getD 0, 1, id, 0, false, 1⟩

/-- A 32-bit word changes at its primary: `f` gives the new value, none to leave it. It answers with the old value; the write's
time reaches the record with its response. -/
def State.nodeChange (s : State) (g : Agent) (gva fa holder : Nat) (f : Nat → Option Nat) : Eng Nat :=
  let place := s.ownPlace holder fa
  let at' := place.or (s.serSlice holder)
  let s := if (at'.map (fun p => s.hasTag p (lineBase fa))).getD false then s
    else (s.countRead g.c.num holder fa).unitReadAs holder fa g.c.num 1
  let old := ofLeBytes (s.bytesAt holder fa 4)
  match f old with
  | none => .ok old s
  | some v =>
    let s := (s.copiesAt at' (lineBase fa)).foldl (fun (s : State) c => s.dropOne (lineBase fa) c) s
    let id := s.nextId
    let (s, e) := (s.fresh.2.markOwn fa).applyBytes id holder fa (leBytes 4 v) none g.c.vdid g.c.num 1 place
    let w : WriteReq := ⟨id, .launch g.id, g.core, g.c.world, g.c.vdid, g.c.num, gva, fa, 1, .bytes (leBytes 4 v), holder,
      0, [], none, .applied, [], s.pace, old, 0, e, s.pace, true, false, none, [], place⟩
    .ok old { s with writes := s.writes ++ [w] }

/-- An atomic of the launch unit on a 32-bit word; it queues at the word's line as any access does (R296, 10 R170). -/
def State.nodeAtomic (s : State) (g : Agent) (gva : Nat) (f : Nat → Option Nat) : Eng Nat :=
  (s.engXlate g gva .atomic).bind (fun fa t =>
    match t.homeFrom (t.dieRouter g.core) fa 16 [] with
    | none => .err t 13 (lineBase fa)
    | some h =>
      let run := fun (u : State) => u.nodeChange g gva fa h.holder f
      if !t.worldOk h.holder fa g.c.world || (t.lineAt h.holder fa).poison then .err t 15 (lineBase fa)
      else if !(t.capOf h.holder fa).getLsbD 0 then .err t 14 (lineBase fa)
      else if t.lineWaits h.holder fa then .wait t
      else match t.objOfFa fa with
        | some o => (match t.objAccess o none (t.agentOf g.core) g.core fa true with
          | .poisoned => .err t 15 (lineBase fa)
          | .wait u => .wait u
          | .go u => run u)
        | none => (match t.touchPage fa g.core with
          | some u => run u
          | none => .wait t))

/-- The node word after one more finished predecessor. -/
def nodeDec (w : Nat) : Nat := w / 2 ^ 30 * 2 ^ 30 + (w % 2 ^ 30 + (2 ^ 30 - 1)) % 2 ^ 30

/-- The address of a node word. -/
def Ctx.nodeAddr (c : Ctx) (n : Nat) : Nat := c.nodeBase.toNat + 4 * n

/-- A record enters its launch queue; an idle context then waits for residency (02 R42, 19 R340). -/
def State.enterQueue (s : State) (id : Nat) : State :=
  let (q, s) := s.fresh
  let s := s.modRec id (fun r => { r with st := .waitHurdle, queued := q })
  match s.rec? id with
  | none => s
  | some r => s.modCtx r.ctx (fun c => if c.st = .idle then { c with st := .waiting, waitFrom := q } else c)

/-! ## Admission (17 R297-R299) -/

/-- The package is being removed: it drains, is quiet, or may be taken out (22 R392). -/
def State.draining (s : State) : Bool := decide (1 ≤ s.pkg.tray) && decide (s.pkg.tray ≤ 3)

/-- A record the partition's table cannot take, or one that arrives while the package is being removed or CD0 is offline (R299, 22 R392, 11
R199). The table holds the records between admission and DONE (R294). -/
def State.tableFull (s : State) (part : Nat) : Bool :=
  decide (4096 ≤ (s.recs.filter (fun r => r.part == part && r.st != RecSt.finishing && r.st != RecSt.refused)).length) || s.draining || s.pkg.dieOff.getLsbD 0

/-- The state in which a record waits for its node word: it takes no name yet. -/
def State.unnamedYet (s t : State) : State := if t.nextId = s.nextId + 1 then { t with nextId := s.nextId } else t

/-- A record of a ring whose VDID is not its context's is refused with BAD_FIELD, and ends as any refused record does (19 R340, R299). -/
def State.refuseRecord (s : State) (c : Ctx) (raw : Nat) : State :=
  let (id, s) := s.fresh
  { s with recs := s.recs ++ [{ newRec id c.part c.num raw with st := .refused, status := 1 }] }

/-- The last record of a partition came by `launch`, or from a ring (R307). -/
def State.admittedBy (s : State) (part : Nat) (launch : Bool) : State :=
  let rest := if s.pkg.byLaunch.testBit part then s.pkg.byLaunch - 2 ^ part else s.pkg.byLaunch
  { s with pkg := { s.pkg with byLaunch := if launch then rest + 2 ^ part else rest } }

/-- Admission of a record: its status, none while its node word cannot be reached, and the state (R297, R298). -/
def State.takeRecord (s : State) (c : Ctx) (maxpl raw : Nat) : Option Nat × State :=
  let s0 := s
  let (id, s) := s.fresh
  let r := newRec id c.part c.num raw
  let refuse := fun (st : Nat) (s : State) => (some st, { s with recs := s.recs ++ [{ r with st := RecSt.refused, status := st }] })
  if badFields r maxpl then refuse 1 s
  else
    let g := s.launchAgent c c.part id
    match s.nodeAtomic g (c.nodeAddr r.node) (fun w => if w / 2 ^ 30 = 1 then none else some (2 ^ 30 + (w + r.npred) % 2 ^ 30)) with
    | .wait t => (none, s0.unnamedYet t)
    | .miss t _ _ _ _ | .err t _ _ => refuse 6 t
    | .ok old t =>
      if old / 2 ^ 30 = 1 then refuse 6 t
      else if r.isCopy then
        if t.engines c.part = [] then refuse 8 t
        else
          let t := { t with recs := t.recs ++ [r] }
          (some 0, if (old + r.npred) % 2 ^ 30 = 0 then t.enterQueue id else t)
      else if r.regs % 8 ≠ 0 ∨ r.regs < 8 ∨ 128 < r.regs then refuse 4 t
      else if !levelsOk r then refuse 2 t
      else if t.share c.part < r.scratch then refuse 5 t
      else if !t.fits r then refuse 3 t
      else
        let t := { t with recs := t.recs ++ [r] }
        (some 0, if (old + r.npred) % 2 ^ 30 = 0 then t.enterQueue id else t)

/-! ## The end of a record (17 R296, R299) -/

/-- An error record of a successor that is skipped. -/
def State.skipError (s : State) (c : Ctx) (cause a : Nat) : State :=
  s.errorRecord ⟨cause, c.world, c.vdid, ((s.partCores c.part).head?).getD 0, 10, a, [], c.conf⟩

/-- Decrements one successor; it may have to wait at a line. The rule gives the list no alignment: of an element that straddles two lines the
model reads the byte in the first (17 R296; log entry 57). -/
def State.decSucc (s : State) (c : Ctx) (g : Agent) (r : LRec) (j : Nat) : Eng Unit :=
  (s.engLoad g (r.succ + 2 * j) 2).bind (fun bs t =>
    let n := ofLeBytes bs
    (t.nodeAtomic g (c.nodeAddr n) (fun w => some (nodeDec w))).bind (fun old u =>
      .ok () (if nodeDec old = 2 ^ 30 then
        match u.recs.find? (fun x => x.ctx == r.ctx && x.node == n && x.st == RecSt.waitPred) with
        | some x => u.enterQueue x.id
        | none => u
      else u)))

/-- The successors are decremented in list order, up to one that waits; one whose word cannot be reached is skipped and recorded
(R296). The record is over when none is left. -/
def State.decAll (s : State) (c : Ctx) (g : Agent) (r : LRec) : List Nat → State
  | [] => s.modRec r.id (fun x => { x with st := .finishing, succDone := r.nsucc })
  | j :: js => match s.decSucc c g r j with
    | .wait t => t.modRec r.id (fun x => { x with succDone := j })
    | .ok _ t => t.decAll c g r js
    | .miss t m _ a _ => (t.skipError c (missCause m) a).decAll c g r js
    | .err t k a => (t.skipError c k a).decAll c g r js

/-- The node word of a record at its end is cleared, but where it was refused for that word (R296). -/
def State.clearNode (s : State) (c : Ctx) (g : Agent) (r : LRec) : Eng Unit :=
  if r.cleared || (r.st == .refused && decide (r.status = 6)) then .ok () s
  else match s.nodeAtomic g (c.nodeAddr r.node) (fun _ => some 0) with
    | .wait t => .wait t
    | .ok _ t | .miss t _ _ _ _ | .err t _ _ => .ok () (t.modRec r.id (fun x => { x with cleared := true }))

/-- The member range of this package: the first flat number and the one past the last (02 R28). -/
def LRec.range (r : LRec) : Nat × Nat :=
  let total := levelSpan r (levelCount r - 1)
  let lo := min r.gfirst total
  (lo, if r.gcount = 0 then total else min (lo + r.gcount) total)

/-- Whether a record has come to its end: every group placed and gone, and its last write time passed; a copy done; a
refusal whose copy is over (02 R42, R295). -/
def State.recEnded (s : State) (r : LRec) : Bool :=
  match r.st with
  | .running =>
    if r.isCopy then r.nodeDone
    else decide (r.range.1 + r.placed.length = r.range.2) && r.placed.all (fun x => r.released.contains x.flat) &&
      (s.out.all (fun o => o.group.place.launch != r.id)) && decide (r.wct + epsilon r.cscope < s.pace)
  | .refused => (match r.copy with | some i => s.copies.all (fun c => c.id != i) | none => true)
  | _ => false

/-- RECORD_DONE: a record reaches DONE or REFUSED; its node is cleared and successors decremented. (R299) -/
def execRecordDone (rec : Nat) (s : State) : Out State :=
  .next (match s.rec? rec with
    | none => s
    | some r =>
      if !s.recEnded r then s
      else match s.ctx? r.ctx with
        | none => { s with recs := s.recs.filter (fun (x : LRec) => x.id != rec) }
        | some c =>
          let g := s.launchAgent c r.part rec
          (match s.clearNode c g r with
          | .wait t => t
          | .ok _ t | .miss t _ _ _ _ | .err t _ _ =>
            t.decAll c g r ((List.range r.nsucc).drop r.succDone)))

/-- COMPLETION_STORE: the status and pace are stored to the completion word after the WCT wait. (R299) -/
def execCompletionStore (rec : Nat) (s : State) : Out State :=
  .next (match s.rec? rec with
    | none => s
    | some r =>
      if r.st != .finishing || s.writes.any (fun w => w.origin == .launch rec) || decide (s.pace ≤ r.wct + epsilon r.cscope) then s
      else
        let s' := { s with recs := s.recs.filter (fun (x : LRec) => x.id != rec)
                           bars := s.bars.filter (fun (b : Barrier) => b.launch != rec) }
        match s.ctx? r.ctx with
        | none => s'
        | some c =>
          if r.cpl = 0 then s'
          else match s'.engStore (s.launchAgent c r.part rec) (.completion c.num r.part) r.cpl
              (.bytes (leBytes 8 (r.status * 2 ^ 56 + s.pace % 2 ^ 56))) .write [] with
            | .ok _ t => t
            | .miss t m _ a _ => t.skipError c (missCause m) a
            | .err t k a => t.skipError c k a
            | .wait _ => s)

/-! ## Resources (02 R32, R33, 05 R84, R85) -/

def State.slotFree (s : State) (h : Held) (core slot : Nat) : Bool :=
  s.seated.all (fun p => !(p.core == core && p.slot == slot)) &&
    s.clearing.all (fun b => !(b.core == core && b.slot == slot)) && !h.slots.contains (core, slot)

/-- Free register blocks of a quarter. -/
def State.blocksFree (s : State) (h : Held) (core q : Nat) : Nat :=
  let used := ((s.seated.filter (fun p => p.core == core && p.slot / 8 == q)).map (fun p => p.nregs / 8)).sum
  let clr := ((s.clearing.filter (fun b => b.core == core && b.slot / 8 == q)).map BlockClear.blocks).sum
  let held := ((h.blocks.filter (fun b => b.1 == core && b.2.1 == q)).map (fun b => b.2.2)).sum
  96 - used - clr - held

/-- Free scratchpad of a core. -/
def State.scratchFree (s : State) (h : Held) (part core : Nat) : Nat :=
  s.share part - ((s.scratch.filter (fun r => r.core == core)).map Region.size).sum -
    ((h.scr.filter (fun x => x.1 == core)).map Prod.snd).sum

/-- Where the counter of a level lies: the core of a core-bound unit, else a die, 144 and up; a package's lies on CD0 (20
R361). -/
def barHome (r : LRec) (l core : Nat) : Nat :=
  if r.domain l ≤ 2 then core else if 5 ≤ r.domain l then 144 else 144 + dieOf core

/-- The barrier counters of a core or a die (20). -/
def barCap (home : Nat) : Nat := if home < 144 then 64 else 256

/-- A resident group is a member of the unit of a counter. -/
def State.barUsed (s : State) (b : Barrier) : Bool :=
  s.groups.any (fun g => g.place.launch == b.launch && (match s.rec? b.launch with
    | some r => g.place.flat / levelSpan r b.level == b.unit
    | none => false))

/-- Free barrier counters of a core or die: the counters of a unit with no resident member travel in the image (R361). -/
def State.barsFree (s : State) (h : Held) (home : Nat) : Nat :=
  barCap home - (s.bars.filter (fun b => b.home == home && s.barUsed b)).length -
    ((h.bars.filter (fun x => x.1 == home)).map Prod.snd).sum

/-- The homes of the counters that seats need: one for each unit of each level placed whole that has none in use. -/
def State.barsNeeded (s : State) (r : LRec) (seats : List Seat) : List Nat :=
  ((List.range (r.whole + 1)).filter (fun l => decide (0 < l))).flatMap (fun l =>
    ((seats.map (fun x => x.flat / levelSpan r l)).eraseDups).filterMap (fun u =>
      if s.bars.any (fun b => b.launch == r.id && b.level == l && b.unit == u && s.barUsed b) then none
      else (seats.find? (fun x => x.flat / levelSpan r l == u)).map (fun x => barHome r l x.core)))

/-- There are counters for seats. -/
def State.barsFit (s : State) (h : Held) (r : LRec) (seats : List Seat) : Bool :=
  let need := s.barsNeeded r seats
  need.all (fun k => decide ((need.filter (fun x => x == k)).length ≤ s.barsFree h k))

def State.hasTeam (s : State) (core launch : Nat) : Bool := s.scratch.any (fun r => r.core == core && r.launch == launch)

/-- Which seats bind a unit of a level: every seat so far for a level above the one placed whole, the resident members'
for the others (02 R28, R44); and the tiles and slots that switched-out groups need again, by flat number (16 R271). -/
structure Pins where
  all   : List Seat
  res   : List Seat
  items : List (Nat × List Nat × List Nat)
  deriving DecidableEq, Repr

def Pins.at (p : Pins) (r : LRec) (l : Nat) : List Seat := if l ≤ r.whole then p.res else p.all

/-- The tiles and the slots that a group needs. -/
def Pins.need (p : Pins) (flat : Nat) : List Nat × List Nat := ((p.items.find? (fun x => x.1 == flat)).map Prod.snd).getD ([], [])

/-- The tiles and slots of a group are free on a core, beside those of the groups already seated there. -/
def State.itemsFree (s : State) (p : Pins) (flat : Nat) (used : List Seat) (core : Nat) : Bool :=
  let beside := (used.filter (fun u => u.core == core)).map (fun u => p.need u.flat)
  (p.need flat).1.all (fun t => (s.tile? core t).isNone && beside.all (fun n => !n.1.contains t)) &&
    (p.need flat).2.all (fun t => (s.slot? core t).isNone && beside.all (fun n => !n.2.contains t))

/-- A group of a launch may take a slot beside those already seated. -/
def State.seatFree (s : State) (h : Held) (r : LRec) (p : Pins) (flat : Nat) (used : List Seat) (core slot : Nat) : Bool :=
  let b := r.regs / 8
  let beside := (used.filter (fun x => x.core == core && x.slot / 8 == slot / 8)).length
  s.slotFree h core slot && used.all (fun x => !(x.core == core && x.slot == slot)) &&
    decide (b * (beside + 1) ≤ s.blocksFree h core (slot / 8)) &&
    (s.hasTeam core r.id || used.any (fun x => x.core == core) || decide (r.scratch ≤ s.scratchFree h r.part core)) &&
    s.itemsFree p flat used core

/-! ## The choice of seats (02 R44) -/

/-- Seats for the groups `flats`, which lie in one unit of level `l`, on some cores, first fit; units of full size come first. -/
def State.seatUnit (s : State) (h : Held) (r : LRec) (p : Pins) : Nat → List Nat → List Nat → List Seat → Option (List Seat)
  | 0, cores, flats, used => flats.foldl (fun (acc : Option (List Seat)) f => acc.bind (fun u =>
      (cores.findSome? (fun c => ((List.range 32).find? (fun sl => s.seatFree h r p f u c sl)).map (fun sl => u ++ [⟨f, c, sl⟩])))))
      (some used)
  | l + 1, cores, flats, used =>
    let d := r.domain (l + 1)
    let unit := (flats.head?).getD 0 / levelSpan r (l + 1)
    let bound := (p.at r (l + 1)).filter (fun x => x.flat / levelSpan r (l + 1) == unit)
    let insts := ((cores.map (instOf d)).eraseDups).filter (fun k => bound.all (fun x => instOf d x.core == k))
    let units := flats.splitBy (fun a b => a / levelSpan r l == b / levelSpan r l)
    let full := fun (g : List Nat) => decide (levelSpan r l ≤ g.length)
    insts.findSome? (fun k =>
      let cs := cores.filter (fun c => instOf d c == k)
      (units.filter full ++ units.filter (fun g => !full g)).foldl
        (fun (acc : Option (List Seat)) grp => acc.bind (fun u => (s.seatUnit h r p l cs grp u).bind (fun v =>
          if s.barsFit h r v then some v else none))) (some used))

def insertSeat (x : Seat) : List Seat → List Seat
  | [] => [x]
  | y :: ys => if x.flat < y.flat then x :: y :: ys else y :: insertSeat x ys

/-- Seats for the groups `flats`, every choice of cores being tried for one that `k` accepts. -/
def State.seatSearch (s : State) (h : Held) (r : LRec) (p : Pins) :
    Nat → List Nat → List Nat → (List Seat → Option (List Seat)) → List Seat → Option (List Seat)
  | 0, cores, flats, k, used => (flats.foldr (fun f (k : List Seat → Option (List Seat)) u =>
      cores.findSome? (fun c => ((List.range 32).find? (fun sl => s.seatFree h r p f u c sl)).bind (fun sl => k (u ++ [⟨f, c, sl⟩])))) k) used
  | l + 1, cores, flats, k, used =>
    let d := r.domain (l + 1)
    let unit := (flats.head?).getD 0 / levelSpan r (l + 1)
    let bound := (p.at r (l + 1)).filter (fun x => x.flat / levelSpan r (l + 1) == unit)
    let insts := ((cores.map (instOf d)).eraseDups).filter (fun k => bound.all (fun x => instOf d x.core == k))
    let units := flats.splitBy (fun a b => a / levelSpan r l == b / levelSpan r l)
    insts.findSome? (fun i =>
      let cs := cores.filter (fun c => instOf d c == i)
      (units.foldr (fun grp (k : List Seat → Option (List Seat)) =>
        s.seatSearch h r p l cs grp (fun v => if s.barsFit h r v then k v else none)) k) used)

/-- Seats for groups, in ascending flat number: groups that need the same take the first that fit, which finds seats where there are
any; where they need tiles and slots of their own every choice is tried (02 R44, R45). -/
def State.seatAll (s : State) (h : Held) (r : LRec) (p : Pins) (flats : List Nat) : Option (List Seat) :=
  let cores := s.partCores r.part
  let same := p.items.all (fun x => x.2.1.isEmpty && x.2.2.isEmpty)
  (if same then s.seatUnit h r p (levelCount r - 1) cores flats []
    else s.seatSearch h r p (levelCount r - 1) cores flats some []).map (fun seats => seats.foldl (fun l x => insertSeat x l) [])

/-- Whether seats stand within the bounds and resources of a record (02 R28, R31, R44). -/
def State.seatsOk (s : State) (h : Held) (r : LRec) (p : Pins) (seats : List Seat) : Bool :=
  let cores := s.partCores r.part
  let room := (seats.foldl (fun (acc : Bool × List Seat) x =>
    (acc.1 && decide (x.slot < 32) && cores.contains x.core && s.seatFree h r p x.flat acc.2 x.core x.slot, acc.2 ++ [x])) (true, [])).1
  room && s.barsFit h r seats && (List.range (levelCount r)).all (fun l => decide (l = 0) ||
    seats.all (fun x => (seats ++ p.at r l).all (fun y =>
      x.flat / levelSpan r l != y.flat / levelSpan r l || instOf (r.domain l) x.core == instOf (r.domain l) y.core)))

/-! ## Order of service and reservation (02 R43) -/

/-- A record comes before another in its partition. -/
def LRec.before (a b : LRec) : Bool := decide (b.prio < a.prio) || (decide (a.prio = b.prio) && decide (a.queued < b.queued))

def insertRec (r : LRec) : List LRec → List LRec
  | [] => [r]
  | x :: xs => if r.before x then r :: x :: xs else x :: insertRec r xs

/-- The context of a record may have groups placed. -/
def State.mayPlace (s : State) (ctx : Nat) : Bool :=
  match s.ctx? ctx with
  | some c => c.st == CtxSt.resident && c.preempt == Preempt.none && c.reset.isNone
  | none => false

/-- The records of a partition in RESERVING that may be placed, in order of service. -/
def State.reserving (s : State) (part : Nat) : List LRec :=
  (s.recs.filter (fun x => x.part == part && x.st == RecSt.reserving && s.mayPlace x.ctx)).foldl
    (fun (l : List LRec) x => insertRec x l) []

/-- The flat numbers of the next unit of a record that has not been placed. -/
def LRec.nextFlats (r : LRec) : List Nat :=
  let next := r.range.1 + r.placed.length
  let u := levelSpan r r.whole
  let stop := min r.range.2 ((next / u + 1) * u)
  (List.range (stop - next)).map (fun i => next + i)

/-- Counters that a unit needs in a core or die, by the domains that have their counters there. -/
def LRec.barsOf (r : LRec) (flats : List Nat) (dom : Nat → Bool) : Nat :=
  (((List.range (r.whole + 1)).filter (fun l => decide (0 < l) && dom (r.domain l))).map (fun l =>
    ((flats.map (fun f => f / levelSpan r l)).eraseDups).length)).sum

def Held.add (a b : Held) : Held := ⟨a.slots ++ b.slots, a.blocks ++ b.blocks, a.scr ++ b.scr, a.bars ++ b.bars⟩

/-- A quantity is taken from places in turn, up to a total. -/
def takeUp : Nat → List (Nat × Nat × Nat) → List (Nat × Nat × Nat)
  | _, [] => []
  | n, (c, q, m) :: xs => (c, q, min m n) :: takeUp (n - min m n) xs

/-- The cores of its partition on which a unit may stand: those in the instances to which its members or its surroundings are bound
(02 R28, R44). -/
def State.coresFor (s : State) (r : LRec) (p : Pins) (flats : List Nat) : List Nat :=
  (s.partCores r.part).filter (fun c => (List.range (levelCount r)).all (fun l => decide (l = 0) || (p.at r l).all (fun x =>
    flats.all (fun f => x.flat / levelSpan r l != f / levelSpan r l) || instOf (r.domain l) x.core == instOf (r.domain l) c)))

/-- The items of some cores that a unit needs there and that no other holds (`h`), those its record has already (`old`) first: as many
slots as it has groups, their blocks, and scratchpad and barrier counters of the cores. -/
def State.usableIn (s : State) (h old : Held) (r : LRec) (flats cs : List Nat) : Held :=
  let b := r.regs / 8
  let n := flats.length
  let cap := min 8 (96 / b)
  let quarters := cs.flatMap (fun c => [(c, 0), (c, 1), (c, 2), (c, 3)])
  let free := quarters.flatMap (fun x => (((List.range 8).map (fun i => (x.1, 8 * x.2 + i))).filter (fun y => s.slotFree h y.1 y.2)).take cap)
  let slots := (free.filter (fun y => old.slots.contains y) ++ free.filter (fun y => !old.slots.contains y)).take n
  let mine := fun (x : Nat × Nat) => b * (slots.filter (fun y => y.1 == x.1 && y.2 / 8 == x.2)).length
  let blocks := takeUp (b * n) (quarters.map (fun x => (x.1, x.2, min (s.blocksFree h x.1 x.2) (mine x))) ++
    quarters.map (fun x => (x.1, x.2, min (s.blocksFree h x.1 x.2) (b * cap) - mine x)))
  let first := cs.filter (fun c => slots.any (fun y => y.1 == c)) ++ cs.filter (fun c => slots.all (fun y => y.1 != c))
  let scr := (first.take n).map (fun c => (c, if s.hasTeam c r.id then 0 else min r.scratch (s.scratchFree h r.part c)))
  let bars := takeUp (r.barsOf flats (fun d => decide (d ≤ 2))) (first.map (fun c => (c, 0, s.barsFree h c)))
  ⟨slots, blocks, scr, bars.map (fun x => (x.1, x.2.2))⟩

/-- The barrier counters of dies that a unit needs: on each die where it may stand, or over them where it spans the package. -/
def State.usableBars (s : State) (h : Held) (r : LRec) (flats cores : List Nat) : Held :=
  let dies := ((cores.map dieOf).eraseDups).map (fun d => (144 + d, 0, s.barsFree h (144 + d)))
  let need := r.barsOf flats (fun d => decide (d = 3) || decide (d = 4))
  let wide := r.barsOf flats (fun d => decide (5 ≤ d))
  let part := if 5 ≤ r.domain r.whole then takeUp need dies else dies.map (fun x => (x.1, x.2.1, min need x.2.2))
  ⟨[], [], [], (part.map (fun x => (x.1, x.2.2))) ++ [(144, min wide (s.barsFree h 144))]⟩

/-- The items that a record can use for a unit: in every instance of the domain in which the unit is placed whole, or on every core for a
group that is placed alone, what it needs there (02 R43). -/
def State.usable (s : State) (h old : Held) (r : LRec) (p : Pins) (flats : List Nat) : Held :=
  let cores := s.coresFor r p flats
  let d := if r.whole = 0 then 2 else r.domain r.whole
  (((cores.map (instOf d)).eraseDups).map (fun k => s.usableIn h old r flats (cores.filter (fun c => instOf d c == k)))).foldl Held.add
    (s.usableBars h r flats cores)

/-- What the other records in RESERVING of a partition hold. -/
def State.heldByOthers (s : State) (r : LRec) : Held :=
  ((s.reserving r.part).filter (fun x => x.id != r.id)).foldl (fun h x => h.add x.hold) Held.none

/-- The seats that bind a record's units, and what the groups that move need. -/
def State.pins (s : State) (r : LRec) (moving : List OutGroup) : Pins :=
  let res := (s.groups.filter (fun g => g.place.launch == r.id)).map (fun g => (⟨g.place.flat, g.place.core, g.place.slot⟩ : Seat))
  ⟨r.placed.filter (fun x => s.out.all (fun o => !(o.group.place.launch == r.id && o.group.place.flat == x.flat))), res,
    moving.map (fun o => (o.group.place.flat, o.tiles.map Prod.fst, o.slots.map Prod.fst))⟩

/-- Every record in RESERVING, in order of service, takes the free items that it can use and no other holds (R43). -/
def State.reserve (s : State) (part : Nat) : State :=
  (s.reserving part).foldl (fun (s : State) x =>
    s.modRec x.id (fun r => { r with hold := s.usable (s.heldByOthers r) r.hold r (s.pins r []) r.nextFlats })) s

/-- A record in WAIT_HURDLE that is served first passes its hurdle now (R42, R43). -/
def State.hurdleFirst (s : State) (r : LRec) : Bool :=
  s.recs.any (fun x => x.part == r.part && x.st == RecSt.waitHurdle && !x.isCopy && x.before r && s.mayPlace x.ctx &&
    (match s.ctx? x.ctx with | some c => (s.seeHurdle c).hurdleOk c x.hurdle | none => false))

/-! ## Switched-out groups of a record (02 R44, R46, 19 R341) -/

/-- A switched-out group can be placed: its image is written (20 R355), and one out for a long park waits until no page is
missing in its team. -/
def State.outReady (s : State) (o : OutGroup) : Bool :=
  !o.kept && o.group.acc.ops.isEmpty && s.copies.all (fun c => c.uid != o.group.place.uid) &&
    (!o.longPark || (s.out.filter (fun x => x.longPark && x.group.place.launch == o.group.place.launch &&
      x.group.place.core == o.group.place.core)).all (fun x => x.group.trap.missing == 0))

/-- The units of switched-out groups of a record that can be placed together: all the members that are out of a unit placed
whole, or one group. -/
def State.outUnits (s : State) (r : LRec) : List (List OutGroup) :=
  let mine := s.out.filter (fun o => o.group.place.launch == r.id)
  let key := fun (o : OutGroup) => if r.whole = 0 then o.group.place.flat else o.group.place.flat / levelSpan r r.whole
  (((mine.map key).eraseDups).map (fun k => mine.filter (fun o => key o == k))).filter (fun u => u.all s.outReady)

/-- A unit out for a long park. -/
def longOut (u : List OutGroup) : Bool := u.any OutGroup.longPark

/-- Whether switched-out groups come before a record: those of a slice's start before every record of their context (19
R341). -/
def State.outFirst (s : State) (r : LRec) : Bool :=
  s.recs.any (fun q => q.ctx == r.ctx && (s.outUnits q).any (fun u => !longOut u))

/-- The items that units out for a long park can use, of records whose priority is not below the record's: such a unit is placed
ahead of every record of its own priority (02 R46). -/
def State.heldByOut (s : State) (r : LRec) : Held :=
  (s.recs.filter (fun q => q.part == r.part && s.mayPlace q.ctx && decide (r.prio ≤ q.prio))).foldl (fun h q =>
    ((s.outUnits q).filter longOut).foldl (fun (h : Held) u =>
      h.add (s.usable Held.none Held.none q (s.pins q u) (u.map (fun o => o.group.place.flat)))) h) Held.none

/-- A record that comes before switched-out groups of another: of higher priority, where they are out for a long park (02 R46); else
of another context (02 R43, 19 R341). -/
def LRec.aheadOf (x r : LRec) (u : List OutGroup) : Bool := if longOut u then decide (r.prio < x.prio) else x.ctx != r.ctx

/-- What a unit of switched-out groups may not take. -/
def State.heldFrom (s : State) (r : LRec) (u : List OutGroup) : Held :=
  ((s.reserving r.part).filter (fun x => x.aheadOf r u)).foldl (fun h x => h.add x.hold) Held.none

/-- A record has been in RESERVING for longer than the gang age limit (02 R43, R300). -/
def State.overAge (s : State) (r : LRec) : Bool :=
  let limit := ((s.pkg.gangAge[r.part]?).getD 0).toNat
  r.st == .reserving && decide (limit ≠ 0) && decide (r.resvFrom + 1000 * limit < s.pace)

/-- A record over the age limit stops the placement of switched-out groups of a younger one, or one of lower priority (R43). -/
def State.agedStop (s : State) (r : LRec) (u : List OutGroup) : Bool :=
  (s.reserving r.part).any (fun x => (x.aged || s.overAge x) && x.before r && x.aheadOf r u)

/-! ## Placement (02 R31, R33, 05 R86, 20 R361) -/

/-- A code address as a split holds it (08 R133). -/
def startPc (r : LRec) : BitVec 48 := ((BitVec.ofNat 48 r.entry) >>> 2) <<< 2

/-- The registers of a group placed for the first time (05 R86). -/
def startRegs (r : LRec) (flat : Nat) : Regs :=
  { Regs.zero with
    s := Vector.ofFn (fun i : Fin 64 => if i.val < 16 then BitVec.ofNat 64 (r.num (128 + 8 * i.val) 8) else 0)
    sr := Vector.ofFn (fun l : Fin 32 => BitVec.ofNat 32 (r.bits 159 128) ^^^ BitVec.ofNat 32 (32 * flat + l.val)) }

/-- Split 0 alone, at the start address, with all lanes (05 R86). -/
def startCtl (r : LRec) : Ctl :=
  Group.empty.ctl.setSplit 0 { Split.free with live := true, pc := startPc r, mask := BitVec.allOnes 32 }

/-- A group as it is placed for the first time (05 R86). -/
def startGroup (r : LRec) (uid : Nat) (x : Seat) : Group :=
  { Group.empty with
    place := ⟨uid, true, x.core, x.slot, r.ctx, r.id, x.flat, r.regs⟩
    regs := startRegs r x.flat
    ctl := startCtl r
    trap := { Group.empty.trap with pl := r.pl } }

/-- A group becomes resident; its first turn comes after the turns that are due before it (02 R37). -/
def State.addGroup (s : State) (g : Group) : State := { s with others := s.others ++ [g] }

/-- The first group of a launch on a core gets a zeroed region of the launch's size (02 R33). -/
def State.ensureRegion (s : State) (r : LRec) (core world : Nat) : State :=
  if s.hasTeam core r.id then s else { s with scratch := s.scratch ++ [⟨core, r.id, world, r.scratch, [], [], [], [], 0⟩] }

/-- The barrier counters of a unit placed whole: one for each unit of its levels (20 R361). -/
def State.ensureBars (s : State) (r : LRec) (seats : List Seat) : State :=
  ((List.range (r.whole + 1)).filter (fun l => decide (0 < l))).foldl (fun (s : State) l =>
    ((seats.map (fun x => x.flat / levelSpan r l)).eraseDups).foldl (fun (s : State) u =>
      if s.bars.any (fun b => b.launch == r.id && b.level == l && b.unit == u) then s
      else
        let mine := seats.filter (fun x => x.flat / levelSpan r l == u)
        let core := (mine.head?.map Seat.core).getD 0
        let b : Barrier := ⟨r.id, l, u, barHome r l core, mine.length, 0, 0, false⟩
        { s with bars := s.bars ++ [b] }) s) s

/-- Every core of a record's partition invalidates the constant lines of its context, before the first of its groups is placed (13
R216). -/
def State.dropConst (s : State) (r : LRec) : State :=
  let cores := s.partCores r.part
  { s with l1 := s.l1.filter (fun (l : L1Line) => !(l.const && l.ctx == r.ctx && cores.contains l.core)) }

/-- New groups of a record take their seats. -/
def State.placeNew (s : State) (r : LRec) (world : Nat) (seats : List Seat) : State :=
  let s := seats.foldl (fun (s : State) x =>
    let (uid, s) := s.fresh
    (s.ensureRegion r x.core world).addGroup (startGroup r uid x)) (s.ensureBars r seats)
  let s := if r.placed.isEmpty then s.dropConst r else s
  s.modRec r.id (fun r =>
    let placed := r.placed ++ seats
    let done := decide (r.range.1 + placed.length = r.range.2)
    { r with placed := placed, hold := Held.none, st := if done then .running else .reserving })

/-- The matrix items and commands of a switched-out group return to its core (16 R291). -/
def State.restoreItems (s : State) (o : OutGroup) (core world : Nat) : State :=
  let uid := o.group.place.uid
  let mine := fun (c : MCmd) => { c with core := core }
  let s := o.tiles.foldl (fun (s : State) t => s.setTile ⟨core, t.1, uid, world, false, t.2, []⟩) s
  let s := o.slots.foldl (fun (s : State) t => s.setSlot ⟨core, t.1, uid, world, false, t.2.1, t.2.2.1, t.2.2.2, []⟩) s
  let s := s.onGroup uid (fun g => { g with mat := { g.mat with
    held := g.mat.held.map mine, released := o.cmds.map mine ++ g.mat.released.map mine } })
  let s := { s with partials := s.partials.map (fun (x : Partial) => if x.ordered && x.uid == uid then { x with core := core } else x) }
  s.feed core 8

/-- The counters of a unit that is placed again lie where its seats are (20 R361). -/
def State.moveBars (s : State) (r : LRec) (seats : List Seat) : State :=
  { s with bars := s.bars.map (fun (b : Barrier) =>
      if b.launch == r.id && !s.barUsed b then
        (match seats.find? (fun x => x.flat / levelSpan r b.level == b.unit) with
        | some x => { b with home := barHome r b.level x.core }
        | none => b)
      else b) }

/-! ## The image area (19 R339) -/

/-- The bytes of the sections that an image of a group takes. -/
def OutGroup.imageSize (o : OutGroup) : Nat :=
  1024 + 704 + 128 * o.group.place.nregs + (if o.flash then 0 else 704) + 65536 * o.tiles.length + 32768 * o.slots.length +
    (if o.cmds.isEmpty then 0 else 512)

/-- The context header, the descriptor table and the level tables of the launches with groups out. -/
def State.imageHead (s : State) (ctx : Nat) : Nat :=
  4096 + 8192 + 64 * ((s.out.filter (fun o => o.group.place.ctx == ctx)).map (fun o => o.group.place.launch)).eraseDups.length

/-- Where the image of a group lies in its context's area: behind the heads, the groups in the order in which they were saved
(log entry 33). -/
def State.imageAt (s : State) (c : Ctx) (uid : Nat) : Nat :=
  c.cimg.toNat + s.imageHead c.num +
    (((s.out.filter (fun o => o.group.place.ctx == c.num)).takeWhile (fun o => o.group.place.uid != uid)).map OutGroup.imageSize).sum

/-- Switched-out groups take their seats again, as their images are read (02 R44, 19 R339). -/
def State.placeOld (s : State) (r : LRec) (world : Nat) (os : List OutGroup) (seats : List Seat) : State :=
  let s := s.moveBars r seats
  let s := (os.zip seats).foldl (fun (s : State) p =>
    let s := match s.ctx? r.ctx with
      | some c => s.arrive c.world (s.imageAt c p.1.group.place.uid) p.1.imageSize
      | none => s
    let s := { s with out := s.out.filter (fun (o : OutGroup) => o.group.place.uid != p.1.group.place.uid) }
    let g := { p.1.group with place := { p.1.group.place with core := p.2.core, slot := p.2.slot } }
    ((s.ensureRegion r p.2.core world).addGroup g).restoreItems p.1 p.2.core world) s
  s.modRec r.id (fun r => { r with placed := r.placed.map (fun x => (seats.find? (fun y => y.flat == x.flat)).getD x) })

/-- Whether new groups of a record may be placed now (R43, 19 R341). -/
def State.newTurn (s : State) (r : LRec) : Bool :=
  r.st == RecSt.reserving && !s.outFirst r && !s.hurdleFirst r && (s.reserving r.part).all (fun x => !((x.aged || s.overAge x) && x.before r))

/-- GROUP_PLACEMENT: a fully reserved unit's groups are placed and initialised, or switched-out groups are placed again; seats
that break a bound or that another record holds are not taken. (02 R31, R43, R44) -/
def execGroupPlacement (rec : Nat) (seats : List Seat) (s : State) : Out State :=
  .next (match s.rec? rec with
    | none => s
    | some r =>
      let world := ((s.ctx? r.ctx).map Ctx.world).getD 0
      let flats := seats.map Seat.flat
      let t := s.reserve r.part
      if !s.mayPlace r.ctx then s
      else match (s.outUnits r).find? (fun u => u.map (fun o => o.group.place.flat) == flats) with
        | some u => if !t.agedStop r u && t.seatsOk (t.heldFrom r u) r (t.pins r u) seats then t.placeOld r world u seats else s
        | none =>
          if !s.newTurn r || flats != r.nextFlats then s
          else if t.seatsOk ((t.heldByOthers r).add (t.heldByOut r)) r (t.pins r []) seats then t.placeNew r world seats else s)

/-- The seats that the part chooses for a record now, if it can place one of its units. -/
def State.choose (s : State) (r : LRec) : Option (List Seat) :=
  if !s.mayPlace r.ctx then none
  else
    let t := s.reserve r.part
    match (t.outUnits r).findSome? (fun u => if t.agedStop r u then none else
        t.seatAll (t.heldFrom r u) r (t.pins r u) (u.map (fun o => o.group.place.flat))) with
    | some seats => some seats
    | none =>
      if !s.newTurn r then none
      else t.seatAll ((t.heldByOthers r).add (t.heldByOut r)) r (t.pins r []) r.nextFlats

/-- Records that have a unit out for a long park that could be placed 20 µs ago (02 R46). -/
def State.lateOut (s : State) : List LRec :=
  s.recs.filter (fun r => s.mayPlace r.ctx && (s.outUnits r).any (fun u => longOut u &&
    u.all (fun o => decide (o.group.ctl.parkedAt + 20000 ≤ s.pace))))

/-- GANG_AGE_EXPIRE: a record exceeds the gang age limit and blocks younger placement. (02 R43, R300) -/
def execGangAgeExpire (rec : Nat) (s : State) : Out State :=
  .next (match s.rec? rec with
    | none => s
    | some r =>
      if s.overAge r then s.modRec rec (fun r => { r with aged := true }) else s)

/-! ## Copy nodes and the hurdle (17 R295, 18 R313) -/

/-- HURDLE_PASS: a record in WAIT_HURDLE passes its hurdle and enters RESERVING; a copy node is handed to an engine, in order
of priority and age; one of no bytes is done with that. (18 R313, R295, 14 R244) -/
def execHurdlePass (rec : Nat) (s : State) : Out State :=
  .next (match s.rec? rec with
    | none => s
    | some r =>
      match s.ctx? r.ctx with
      | none => s
      | some c =>
        if r.st != .waitHurdle then s
        else if r.isCopy then
          if s.recs.any (fun x => x.part == r.part && x.isCopy && x.st == RecSt.waitHurdle && x.before r) then s
          else if r.gfirst = 0 then s.modRec rec (fun r => { r with st := .running, nodeDone := true })
          else match s.freeEngine r.part with
            | none => s
            | some e =>
              let (id, s) := s.fresh
              let core := ((s.partCores r.part).head?).getD 0
              let cp : CopyCmd := ⟨id, e, 0, some rec, r.ctx, core, 0, id, 0, .bytes r.entry r.recipe r.gfirst false false false,
                ⟨false, true, r.cscope⟩, 1, 0, none, false, [], 0, none⟩
              { s with copies := s.copies ++ [cp] }.modRec rec (fun r => { r with st := .running, copy := some id })
        else
          let s := s.seeHurdle c
          if s.hurdleOk c r.hurdle then (s.reserve r.part).modRec rec (fun r => { r with st := .reserving, resvFrom := s.pace })
          else s)

/-! ## The launch instruction (17 R301) -/

/-- The slot of a ring's expected sequence (R304). -/
def Ring.slotAt (r : Ring) : Nat := r.base.toNat / 512 * 512 + 512 * (r.seq.toNat % 2 ^ max 4 (bitsOf r.base.toNat 8 5))

/-- The initialisation vector of a ring's packet as a number, byte 0 least (R306). -/
def State.ringIv (s : State) (n : Nat) (seq : Nat) : Nat := seq + s.pkgNum * 2 ^ 64 + n * 2 ^ 88

/-- Whether what a slot holds is authentic: the tag of the ring's key over its sequence, by which the vector is formed too, and its record
(R305, R306; log entry 27). -/
def State.slotOk (s : State) (n : Nat) (bs : List Byte) : Bool :=
  let r := s.ring n
  !r.ctl.getLsbD 62 ||
    gcmTag r.key (leBytes 12 (s.ringIv n (ofLeBytes (bs.take 8)))) (bs.take 8 ++ (bs.drop 64).take 256) == (bs.drop 8).take 16

/-- The core clock in tenths of a gigahertz (22 R390). -/
def Pkg.clock (p : Pkg) : Nat := bitsOf p.pwrStat.toNat 15 8

/-- The state as its clock stood a cycle ago: what comes to hold in the cycle of a turn makes a split ready for the next one only
(R39). -/
def State.justBefore (s : State) : State := { s with ps := s.ps - 10000 / s.pkg.clock }

/-- A ring has a record to bring to a partition: what stands in its slot is authentic and of the expected sequence (R305, R307). -/
def State.ringWaits (s : State) (part : Nat) : Bool :=
  (List.range 16).any (fun n =>
    let r := s.ring n
    r.st == .running && (match s.ctx? (bitsOf r.ctl.toNat 39 24) with | some c => c.part == part | none => false) &&
      (match s.engineReadN 0 (r.slotAt) 320 with
      | some bs => s.slotOk n bs && decide (ofLeBytes (bs.take 8) = r.seq.toNat)
      | none => false))

/-- Steps 5 and 6 of a launch: no status while the node word cannot be reached, or while it is the turn of a ring's record (R307). -/
def State.finishLaunch (s : State) (raw : Nat) : Option Nat × State :=
  match s.myCtx with
  | none => (some 7, s)
  | some c =>
    if s.tableFull c.part then (some 7, s)
    else if s.pkg.byLaunch.testBit c.part && s.ringWaits c.part then (none, s)
    else match s.takeRecord c s.cur.trap.pl raw with
      | (some v, t) => (some v, t.admittedBy c.part true)
      | r => r

/-- A `launch` that has come to its admission waits for its partition's table (R307). -/
def State.launchWaits (s : State) (part : Nat) : Bool :=
  s.groups.any (fun g => ((s.ctx? g.place.ctx).map Ctx.part) == some part && splitNums.any (fun i => g.ctl.runs i &&
    (match (g.ctl.split i).wait with
    | .answer .launch _ raw b => { s with cur := g }.justBefore.relOk (bitsOf raw 103 100) b
    | _ => false)))

/-- `launch` (R301): its record stays the one that its register named at issue. -/
def doLaunch (d a : Nat) (s : State) : Act :=
  let gva := ((s.hints.trans.head?).map Prod.fst).getD (s.sreg a).toNat
  if gva % 64 ≠ 0 then .trap 11 gva 0
  else
    let before := s.since
    readLines false s gva 4 (fun s bs =>
      let raw := ofLeBytes bs
      let scope := bitsOf raw 103 100
      if scope < 2 ∨ 5 < scope then .ok (s.setSreg d 1)
      else if s.relOk scope before then
        withDeferred relKinds s (fun s => match s.finishLaunch raw with
          | (some v, t) => .ok (t.setSreg d (BitVec.ofNat 64 v))
          | (none, t) => .hold t (.answer .launch d raw before))
      else .hold s (.answer .launch d raw before))

/-! ## Work lists (17 R302, R303) -/

def WorkList.cap (w : WorkList) : Nat := 2 ^ bitsOf w.cfg.toNat 5 1

/-- How far a position of 40 bits lies ahead of the head (R302). -/
def WorkList.ahead (w : WorkList) (x : Nat) : Nat := (x + 2 ^ 40 - w.head) % 2 ^ 40

/-- Poppable items: those before the first reservation in flight, or the first position without an item. -/
def WorkList.poppable (w : WorkList) : Nat := (w.resv ++ w.void).foldl (fun m r => min m (w.ahead r.1)) (w.ahead w.tail)

/-- A reservation at the tail. -/
def WorkList.reserve (w : WorkList) (n : Nat) : WorkList :=
  { w with tail := (w.tail + n) % 2 ^ 40, resv := if n = 0 then w.resv else w.resv ++ [(w.tail, n)] }

/-- Items leave at the head. -/
def WorkList.popped (w : WorkList) (n : Nat) (producer : Bool) : WorkList :=
  let w := { w with head := (w.head + n) % 2 ^ 40, prod := if producer && decide (0 < n) then w.prod + 1 else w.prod }
  w.trim w.void.length

/-- Nothing can arrive any more (R302). -/
def WorkList.quiescent (w : WorkList) : Bool := decide (w.prod = 0) && decide (w.head = w.tail) && w.resv.isEmpty

/-- A list that is disabled or another VDID's (R303). -/
def State.wlBad (s : State) (w : WorkList) : Bool :=
  decide (bitsOf w.cfg.toNat 5 1 = 0) || decide (bitsOf w.cfg.toNat 53 48 ≠ s.myVdid)

/-- The IPA of an item. -/
def WorkList.item (w : WorkList) (i : Nat) : Nat := bitsOf w.cfg.toNat 47 6 * 64 + 8 * (i % w.cap)

/-- The fabric addresses of items through stage 2 of the list's VDID, and the misses. -/
def State.itemAddr (s : State) (c : Ctx) (w : WorkList) (need : BitVec 4) (i : Nat) : Nat ⊕ (Nat × Miss) :=
  let ipa := w.item i
  match s.hints.trans.find? (fun p => p.1 == 2 ^ 64 + i) with
  | some p => .inl p.2
  | none => match (s.walk2 (dieOf s.cur.place.core) c.world ((s.vregs.s2root[c.vdid]?).getD 0).toNat ipa 3).1 with
  | .ok l =>
    if l.far then .inr (ipa, .far ⟨l.block ipa, ipa, 3, l.out⟩)
    else if (l.perm &&& need) = need then .inl l.out
    else .inr (ipa, .fault ⟨9, 2, 3, l.lvl, ipa⟩)
  | .fault f => .inr (ipa, .fault f)
  | .far i => .inr (ipa, .far i)

/-- The walks of items arrive at their entries (09 R147). -/
def State.seeItems (s : State) (c : Ctx) (w : WorkList) (is : List Nat) : State :=
  s.walkArrive (dieOf s.cur.place.core) c.world (is.flatMap (fun i =>
    (s.walk2 (dieOf s.cur.place.core) c.world ((s.vregs.s2root[c.vdid]?).getD 0).toNat (w.item i) 3).2))

/-- The checks of a list unit's accesses: addresses that pass, misses, or the first trap (R237). -/
def State.itemsAt (s : State) (c : Ctx) (w : WorkList) (need : BitVec 4) (is : List Nat) :
    List Nat × List (Nat × Miss) × Option (Nat × Nat) :=
  let rs := is.map (fun i => s.itemAddr c w need i)
  let fas := rs.filterMap (fun r => match r with | .inl a => some a | .inr _ => none)
  let ms := rs.filterMap (fun r => match r with | .inr m => some m | .inl _ => none)
  let bad := fas.findSome? (fun a => match s.routeWrite (s.dieRouter s.cur.place.core) a [] with
    | none => some (13, a)
    | some h => if !s.worldOk h.holder a c.world || (need == 1 && (s.lineAt h.holder a).poison) then some (15, a) else none)
  (fas, ms, bad)

/-- A write of an item leaves for its primary. -/
def State.sendItem (s : State) (c : Ctx) (op : Nat) (l : Lane) (fa : Nat) (v : Nat) : State :=
  let h := ((s.routeWrite (s.dieRouter s.cur.place.core) fa []).map RtHolder.holder).getD 0
  let (id, s) := s.fresh
  let w : WriteReq := ⟨id, .group s.cur.place.uid op l, s.cur.place.core, c.world, c.vdid, c.num, fa, fa, 1, .bytes (leBytes 8 v), h, 0,
    [], none, .travel, [], 0, 0, 0, [], 0, true, false, none, [], none⟩
  s.sendWrite w

/-- The items of a reservation leave for their primaries, and the split waits until they can be popped; with no item to write its
answer is there at once (R303). -/
def State.pushItems (s : State) (c : Ctx) (d n first : Nat) (items : List (Lane × Nat × Nat)) : State × Option Wait :=
  if items.isEmpty then (s.setSreg d (BitVec.ofNat 64 first), none)
  else
    let (op, s) := s.fresh
    let o : MemOp := ⟨op, .none, .store, s.bundlePc, .drop, [], [], items.length, 1, none, false, 0, 0, none, s.cur.ctl.iss, s.cur.trap.pl⟩
    let s := s.modAcc (fun a => { a with ops := a.ops ++ [o] })
    let s := items.foldl (fun (s : State) x => s.sendItem c op x.1 x.2.1 x.2.2) s
    (s, some (.answer .push d s.nextId (n + 64 * first)))

/-- `wl.push` (R303): one reservation at issue; the release covers the group's earlier stores before the items are written, and the
items before they can be popped (log entry 32). -/
def doWlPush (d b n : Nat) (s : State) : Act :=
  let w := s.wl s.myPart n
  let ls := lanesOf s.exec
  match s.myCtx with
  | none => .trap 25 0 0
  | some c =>
    if s.wlBad w || decide (w.prod = 0) then .trap 25 0 0
    else if w.cap < w.ahead w.tail + ls.length then .ok (s.setSreg d (BitVec.allOnes 64))
    else if !s.split.acq.isEmpty then .waiting .acq
    else
      let is := (List.range ls.length).map (fun j => w.tail + j)
      let s := s.seeItems c w is
      let at' := s.itemsAt c w 2 is
      match at'.2.2 with
      | some t => .trap t.1 t.2 s.exec.toNat
      | none =>
        if !at'.2.1.isEmpty then .park (s.parkFaults c .write (at'.2.1.map (fun m => (m.1, m.2, s.exec.toNat)))) s.exec
        else
          let items := (ls.zip at'.1).map (fun x => (x.1, x.2, (s.vlane b x.1).toNat + (s.vlane (b + 1) x.1).toNat * 2 ^ 32))
          let s := s.setWl (w.reserve ls.length)
          if s.relOk 3 s.nextId then (match s.pushItems c d n w.tail items with
            | (t, none) => .ok t
            | (t, some x) => .hold t x)
          else .hold s (.push d n w.tail s.nextId items)

/-- A push whose bundle stops before its items are written has had no effect (19 R322). -/
def State.cancelPush (s : State) (part n first : Nat) : State := s.setWl ((s.wl part n).cancel first)

/-- The items of a push have become readable everywhere: they are poppable (R303). -/
def State.finishPush (s : State) (part y : Nat) : State :=
  let w := s.wl part (y % 64)
  s.setWl { w with resv := w.resv.filter (fun r => r.1 != y / 64) }

/-- The acquire reads of items at their primaries (R303, 14 R238); an item is named by its IPA, so no object holds it. -/
def State.itemWants (s : State) (c : Ctx) (fas : List Nat) : List (Want × Nat) :=
  fas.map (fun fa =>
    (⟨s.cur.place.core, c.num, c.vdid, c.world, 2 ^ 64, fa, s.cur.acc.rfloor.toNat, 1, false, true, true, none⟩, 8))

/-- The values of popped items go to the lanes that took them (R303, 06 R105). -/
def State.popInto (s : State) (d : Nat) (ls : List Lane) (bs : List Byte) : State :=
  let m := maskOf (fun l => ls.contains l)
  let val := fun (l : Lane) => ofLeBytes ((bs.drop (8 * ls.idxOf l)).take 8)
  if ls.isEmpty then s
  else (s.setV d m (fun l => BitVec.ofNat 32 (val l))).setV (d + 1) m (fun l => BitVec.ofNat 32 (val l / 2 ^ 32))

/-- `wl.pop` (R303): the acquire reads of the items take place in the turn. -/
def doWlPop (d sd n : Nat) (p : Bool) (s : State) : Act :=
  let w := s.wl s.myPart n
  match s.myCtx with
  | none => .trap 25 0 0
  | some c =>
    if s.wlBad w then .trap 25 0 0
    else if !s.split.acq.isEmpty then .waiting .acq
    else
      let ls := (lanesOf s.exec).take w.poppable
      if ls.isEmpty && w.quiescent then .ok (s.setSreg sd (BitVec.allOnes 64))
      else
        let is := (List.range ls.length).map (fun j => w.head + j)
        let s := s.seeItems c w is
        let at' := s.itemsAt c w 1 is
        match at'.2.2 with
        | some t => .trap t.1 t.2 s.exec.toNat
        | none =>
          if !at'.2.1.isEmpty then .park (s.parkFaults c .read (at'.2.1.map (fun m => (m.1, m.2, s.exec.toNat)))) s.exec
          else match s.readEach (s.itemWants c at'.1) with
            | .bad cause fa => if cause = 16 then .ecc (fun s => s.poisonBad fa) fa s.exec.toNat else .trap cause fa s.exec.toNat
            | .wait u => .hold (u.modSplit (fun sp => { sp with bundle := { sp.bundle with
                trans := is.zip at'.1 |>.map (fun x => (2 ^ 64 + x.1, x.2)) } })) (.answer .read 64 s.since 1)
            | .got u bs stamp =>
              let u := u.setWl (w.popped ls.length p)
              let u := u.modAcc (fun a => { a with rfloor := BitVec.ofNat 64 (max a.rfloor.toNat stamp) })
              .ok ((u.popInto d ls bs).setSreg sd (BitVec.ofNat 64 ls.length))

/-- `wl.done` (R303). -/
def doWlDone (n : Nat) (s : State) : Act :=
  let w := s.wl s.myPart n
  if s.wlBad w || decide (w.prod = 0) then .trap 25 0 0 else .ok (s.setWl { w with prod := w.prod - 1 })

/-! ## Submission rings (17 R304-R306) -/

/-- RING_KICK: a host kick wakes a ring in WAIT_KICK. (R305) -/
def execRingKick (ring : Fin 16) (s : State) : Out State :=
  let r := s.ring ring.val
  .next (if r.st = .waitKick then s.setRing ring.val { r with st := .running, tries := 0, sawLow := false, due := s.pace } else s)

/-- A read of a slot that ends in a retry: the run's first valid header below the expected sequence raises `rejects`, and after the
eighth re-read the ring waits for a kick (R305). -/
def Ring.retried (r : Ring) (low : Bool) (now : Nat) : Ring :=
  let r := { r with sawLow := r.sawLow || low, rejects := if low && !r.sawLow then min 65535 (r.rejects + 1) else r.rejects }
  if r.tries < 8 then { r with tries := r.tries + 1, due := now + 250 }
  else { r with st := .waitKick, tries := 0, sawLow := false }

/-- A packet of the expected sequence has been consumed; a ring whose sequence has run out is sealed (R305). -/
def Ring.consumed (r : Ring) (now : Nat) : Ring :=
  let q := r.seq + 1
  let full := decide (q = BitVec.allOnes 64)
  { r with
    seq := q, st := if full then .sealed else .running, stuck := if full then some .sealed else r.stuck
    tries := 0, sawLow := false, due := now }

/-- A ring reads the slot of its expected sequence and acts on it (R305). -/
def State.readRing (s : State) (n : Nat) : State :=
  let r := s.ring n
  let a := r.slotAt
  let s := s.arrive 0 a 320
  match s.engineReadN 0 a 320 with
  | none => s.setRing n (r.retried false s.pace)
  | some bs =>
    let h := ofLeBytes (bs.take 8)
    let ok := s.slotOk n bs
    if ok && decide (h = r.seq.toNat) then
      match s.ctx? (bitsOf r.ctl.toNat 39 24) with
      | none => s.setRing n (r.consumed s.pace)
      | some c =>
        if c.vdid ≠ bitsOf r.ctl.toNat 23 18 then (s.refuseRecord c (ofLeBytes ((bs.drop 64).take 256))).setRing n (r.consumed s.pace)
        else (match s.takeRecord c (bitsOf r.ctl.toNat 17 16) (ofLeBytes ((bs.drop 64).take 256)) with
          | (none, t) => t
          | (some _, t) => (t.admittedBy c.part false).setRing n (r.consumed s.pace))
    else if r.ctl.getLsbD 62 && ok && decide (r.seq.toNat < h) then
      s.setRing n { r with st := .faulted, stuck := some .faulted, tries := 0, sawLow := false }
    else s.setRing n (r.retried (ok && decide (h < r.seq.toNat)) s.pace)

/-- A ring in RUNNING has a read to make and nothing keeps it waiting: its partition's record table has room, it is not the turn of a
`launch`, and the pause before a re-read is over (R299, R305, R307). -/
def State.ringReady (s : State) (n : Nat) : Bool :=
  let r := s.ring n
  r.st == .running && (decide (r.tries = 0) || decide (r.due ≤ s.pace)) &&
    !(match s.ctx? (bitsOf r.ctl.toNat 39 24) with
      | some c => s.tableFull c.part || (!s.pkg.byLaunch.testBit c.part && s.launchWaits c.part && s.ringWaits c.part)
      | none => s.draining)

/-- The ring whose turn it is among those that are ready: the next after the one served last (R307). -/
def State.ringTurn (s : State) : Option Nat :=
  ((List.range 16).map (fun i => (s.pkg.ringLast + 1 + i) % 16)).find? s.ringReady

/-- A ring whose turn it is reads its slot. -/
def State.serveRing (s : State) (n : Nat) : State :=
  if s.ringTurn = some n then { s with pkg := { s.pkg with ringLast := n } }.readRing n else s

/-- RING_READ_SLOT: a ring reads and checks the slot of its expected sequence. (R305) -/
def execRingReadSlot (ring : Fin 16) (s : State) : Out State :=
  .next (if (s.ring ring.val).tries = 0 then s.serveRing ring.val else s)

/-- RING_RETRY: a ring reads again every 250 ns, and after eight tries enters WAIT_KICK. (R305) -/
def execRingRetry (ring : Fin 16) (s : State) : Out State :=
  .next (if 0 < (s.ring ring.val).tries then s.serveRing ring.val else s)


/-- LAUNCH: Reads a launch record, fences and submits it for admission. (R301) -/
def execLaunch (d : BitVec 6) (a : BitVec 6) (s : State) : Out State :=
  issue (.launch d a) s (doLaunch d.toNat a.toNat)

/-- WL_PUSH: Pushes one item per lane to a work list. (R303) -/
def execWlPush (d : BitVec 6) (b : BitVec 7) (n : BitVec 6) (s : State) : Out State :=
  issue (.wlPush d b n) s (doWlPush d.toNat b.toNat n.toNat)

/-- WL_POP: Pops items from a work list, or reports DONE when quiescent. (R303) -/
def execWlPop (d : BitVec 7) (bs : BitVec 6) (n : BitVec 6) (p : BitVec 1) (s : State) : Out State :=
  issue (.wlPop d bs n p) s (fun u => doWlPop d.toNat bs.toNat n.toNat (p == 1) u)

/-- WL_DONE: Lowers the work list's producer count. (R303) -/
def execWlDone (n : BitVec 6) (s : State) : Out State :=
  issue (.wlDone n) s (doWlDone n.toNat)

end Sys2Proof.Machine
end

