-- ==== Sys2Proof/Machine/Contexts.lean ====
section
/-! DEFINITION. The end of a group, its release, flashback and context images, pre-emption, residency and the end of a
forced reset (spec 08 R142, 19 R333-R341, 12 R208, 11 R193, 02 R44-R46, 05 R85). -/

namespace Sys2Proof.Machine

/-! ## `exit` (08 R142, 10 R171, 16 R287) -/

/-- An operation, copy or matrix command of the group has still to complete. -/
def State.outstanding (s : State) : Bool :=
  let uid := s.cur.place.uid
  !s.cur.acc.ops.isEmpty || s.copies.any (fun c => c.uid == uid && c.node.isNone) || s.mqueue.any (fun c => c.uid == uid) ||
    !s.cur.mat.released.isEmpty

/-- `exit` (R142): a record on top is taken, a record below it makes the split wait; the group's last split waits for the
group's operations and raises their causes (R171, R287) before it leaves. While it waits it has not issued: the model's choice
(log entry 21). -/
def doExit (s : State) : Act :=
  let c := s.cur.ctl
  match c.topRecord c.iss with
  | some (l, a, rest) =>
    .ok ((s.modCtl (fun c => { c with stack := rest })).modSplit (fun sp => { sp with mask := l.lanes, pc := payloadAddr a.payload }))
  | none =>
    if c.owns c.iss then .again ((s.setPc s.here).modSplit (fun sp => { sp with mask := 0 })) c.exitWait
    else if 1 < c.live.length then .ok s.leaveSplit
    else if s.outstanding then .notReady
    else
      let ds := s.takeDeferred (fun _ => true) s.nextId
      if s.cur.mat.held.isEmpty then raiseEntries ds.1 ds.2 (fun s => .ok s.leaveSplit)
      else if 0 < s.cur.trap.missing then .park s s.exec
      else raiseEntries (ds.1 ++ [s.matrixEntry]) ds.2 (fun s => .ok s.leaveSplit)

/-! ## Leaving a slot (05 R85, 02 R33) -/

/-- A group leaves its slot, whose storage becomes free once it is clear. -/
def State.dropGroup (s : State) (g : Group) : State :=
  let p := g.place
  if s.cur.place.used && s.cur.place.uid == p.uid then
    { s with cur := { Group.empty with place := { Group.empty.place with core := p.core, slot := p.slot } } }
  else { s with others := s.others.filter (fun x => x.place.uid != p.uid) }

def State.vacate (s : State) (g : Group) : State := (s.dropGroup g).leaveSeat g.place

/-- BLOCK_CLEAR_COMPLETE: released register blocks are cleared, at most 16 cycles after their release, and become free. (R85) -/
def execBlockClearComplete (n : Nat) (s : State) : Out State :=
  .next { s with clearing := s.clearing.zipIdx.filterMap (fun x => if x.2 = n then none else some x.1) }

/-- The closes that an exit makes: every open ordered round of the VDID that has the group as a leaf and that it has not
closed (11 R193). -/
def State.exitCloses (s : State) (vdid flat : Nat) : State :=
  (s.objs.map ObjEntry.idx).foldl (fun (s : State) i => match s.obj? i with
    | some o => if o.vdid == vdid && o.st == ObjSt.update && o.owes flat then (s.closeLeaf o flat).2 else s
    | none => s) s

/-- The barrier counters of a launch whose unit's members have all left are free (20 R361). -/
def State.freeBars (s : State) (r : LRec) : State :=
  { s with bars := s.bars.filter (fun (b : Barrier) => b.launch != r.id ||
      decide ((r.released.filter (fun f => unitOf r b.level f == b.unit)).length < b.target)) }

/-- An operation or a copy of a switched-out group has still to complete (20 R355). -/
def State.outBusy (s : State) (o : OutGroup) : Bool :=
  !o.group.acc.ops.isEmpty || s.copies.any (fun c => c.uid == o.group.place.uid && c.node.isNone) ||
    s.writes.any (fun w => match w.origin with | .matrix _ cmd _ => o.cmds.any (fun c => c.id == cmd) | _ => false)

/-! ## Images (19 R339, 20 R355) -/

/-- `n` bytes of an image are stored in the context's world. What they are is not given: a free value (log entry 33). -/
def State.storeImage (s : State) (c : Ctx) (a n : Nat) : State :=
  (List.range ((n + 63) / 64)).foldl (fun (s : State) i =>
    let bs := (List.range 64).map (fun j => (Config.freeBits 512 s.freeCount).extractLsb' (8 * j) 8)
    { s with freeCount := s.freeCount + 1 }.engineWrite c.world (a + 64 * i) bs) s

/-- The image of a switched-out group is written once its operations have completed, and its storage is released (20 R355); one whose
context is reset has no image (19 R337). -/
def State.writeImage (s : State) (uid : Nat) : State :=
  match s.out.find? (fun o => o.kept && o.group.place.uid == uid) with
  | none => s
  | some o =>
    if s.outBusy o then s
    else
      let ended := (s.ctx? o.group.place.ctx).any (fun c => c.reset.isSome)
      let s := match s.ctx? o.group.place.ctx with
        | some c => if ended then s else s.storeImage c (s.imageAt c uid) o.imageSize
        | none => s
      { s with out := if ended then s.out.erase o
          else s.out.map (fun (x : OutGroup) => if x.group.place.uid == uid then { x with kept := false } else x) }.leaveSeat o.group.place

/-- GROUP_RELEASE: all operations of an exited group are complete: its closes are recorded, its claims cleared and its storage
released; the storage of a switched-out group is released in the same way once its image is written. (R142, 20 R355) -/
def execGroupRelease (uid : Nat) (s : State) : Out State :=
  .next (match s.group? uid with
    | none => s.writeImage uid
    | some g =>
      if !g.ctl.exited || !g.acc.ops.isEmpty || g.acc.inflight.any (fun m => decide (s.cycle ≤ m.due)) ||
          s.copies.any (fun c => c.uid == uid && c.node.isNone) || !(s.cmdsOf g).isEmpty then s
      else
        let p := g.place
        let s := s.exitCloses (((s.ctx? p.ctx).map Ctx.vdid).getD 64) p.flat
        let s := ((s.freeItems uid p.core 0xFFF 0xFF).vacate g).modRec p.launch (fun r =>
          { r with released := r.released ++ [p.flat], wct := max r.wct g.acc.wctmax.toNat })
        let s := match s.rec? p.launch with | some r => s.freeBars r | none => s
        s.feed p.core 8)

/-! ## The recipe table (12 R208) -/

/-- The fields of a recipe entry. -/
structure Recipe where
  kmask : Nat
  smask : Nat
  vmask : Nat
  redo  : Nat
  deriving DecidableEq, Repr

/-- An entry of 64 bytes as a number; none where it is malformed. -/
def recipeOf (nregs n : Nat) : Option Recipe :=
  let r : Recipe := ⟨bitsOf n 399 384, bitsOf n 383 320, bitsOf n 319 192, bitsOf n 191 128⟩
  if bitsOf n 511 400 ≠ 0 ∨ bitsOf n 63 0 ≠ 0 ∨ r.kmask % 2 = 1 ∨ r.redo % 4 ≠ 0 ∨ bitsOf n 127 64 % 4 ≠ 0 ∨
      32 < popCount (BitVec.ofNat 64 r.smask) ∨ 16 < popCount (BitVec.ofNat 128 r.vmask) ∨ r.vmask / 2 ^ nregs ≠ 0 then none
  else some r

/-- The entry of a group's checkpoint, read as a load of its context, and the state after the read. -/
def State.readRecipe (s : State) (g : Group) (index : Nat) : Option Recipe × State :=
  match s.rec? g.place.launch, s.agentFor g.place.ctx g.place.core g.place.uid 0 ⟨false, false, 0⟩ 1 with
  | some r, some a =>
    let gva := r.recipe + 64 * index
    if r.nrecipe ≤ index ∨ gva % 64 ≠ 0 then (none, s)
    else match s.engLoad a gva 64 with
      | .ok bs t => (recipeOf g.place.nregs (ofLeBytes bs), t)
      | .err t _ _ | .miss t _ _ _ _ | .wait t => (none, t)
  | _, _ => (none, s)

/-- The read of the entry of a group's checkpoint waits at its line (15 R258). -/
def State.recipeWaits (s : State) (g : Group) : Bool :=
  match g.ckpt.saved, s.rec? g.place.launch, s.agentFor g.place.ctx g.place.core g.place.uid 0 ⟨false, false, 0⟩ 1 with
  | some k, some r, some a =>
    let gva := r.recipe + 64 * k.index
    if r.nrecipe ≤ k.index ∨ gva % 64 ≠ 0 then false
    else (match s.engLoad a gva 64 with
      | .wait _ => true
      | _ => false)
  | _, _, _ => false

/-! ## Flashback (19 R336-R338) -/

/-- What a flashback restarts from: the implicit checkpoint or a taken one with its recipe. -/
inductive Restart
  | launch
  | recipe (k : Ckpt) (r : Recipe)
  deriving DecidableEq, Repr

/-- Whether a group can be flashed back, and from what (R337). -/
def State.eligible (s : State) (g : Group) : Option Restart × State :=
  if g.ckpt.closed || g.ctl.parked || g.trap.inh || !g.trap.queue.isEmpty then (none, s)
  else match g.ckpt.saved with
    | none => (some .launch, s)
    | some k =>
      match s.readRecipe g k.index with
      | (some r, t) => (if g.ckpt.vdirty.toNat &&& r.vmask = 0 then some (.recipe k r) else none, t)
      | (none, t) => (none, t)

/-- The registers of a flashback image: the listed items, every other one 0 (R338). -/
def flashRegs (g : Group) (k : Ckpt) (r : Recipe) : Regs :=
  { Regs.zero with
    v := Vector.ofFn (fun i : Fin 128 => if r.vmask.testBit i.val then g.regs.v[i] else Vector.replicate 32 0)
    s := Vector.ofFn (fun i : Fin 64 => if r.smask.testBit i.val then k.s[i] else 0)
    k := Vector.ofFn (fun i : Fin 16 => if r.kmask.testBit i.val then k.k[i] else 0)
    sr := k.sr
    fpflags := g.regs.fpflags
    bad := g.regs.bad.filter (fun b => match b.1 with | .v n => r.vmask.testBit n | _ => false) }

/-- Results in the order in which they are due. -/
def insertDue (m : MultiTurn) : List MultiTurn → List MultiTurn
  | [] => [m]
  | x :: xs => if m.due < x.due then m :: x :: xs else x :: insertDue m xs

def byDue (ms : List MultiTurn) : List MultiTurn := ms.foldl (fun l m => insertDue m l) []

/-- A group with the multi-turn results that are due by now: they have been written (02 R41, 03 R60). -/
def State.landedNow (s : State) (g : Group) : Group :=
  let g := (((byDue g.acc.inflight).filter (fun m => decide (m.due ≤ s.cycle))).foldl State.completeResult { s with cur := g }).cur
  { g with acc := { g.acc with inflight := g.acc.inflight.filter (fun m => decide (s.cycle < m.due)) } }

/-- The sticky flags of a group with those of the results that are due by now (03 R60). -/
def State.dueFlags (s : State) (g : Group) : Word :=
  (g.acc.inflight.filter (fun m => decide (m.due ≤ s.cycle))).foldl (fun (f : Word) m => f ||| m.flags.setWidth 32) g.regs.fpflags

/-- A group as a flashback leaves it: loads and multi-turn results in flight are discarded, other operations go on without
a destination (R338). -/
def flashGroup (g : Group) (l : LRec) (f : Restart) : Group :=
  let ops := (g.acc.ops.filter (fun o => o.kind != .load)).map (fun (o : MemOp) => { o with dest := Dest.drop, acq := none })
  let acc := { g.acc with ops := ops, ld := 0, inflight := [] }
  match f with
  | .launch =>
    { g with
      regs := { startRegs l g.place.flat with fpflags := g.regs.fpflags }
      ctl := startCtl l
      acc := acc
      ckpt := ⟨0, false, none⟩ }
  | .recipe k r =>
    let sp : Split := { Split.free with live := true, pc := ((BitVec.ofNat 48 r.redo) >>> 2) <<< 2, mask := k.mask }
    { g with regs := flashRegs g k r, ctl := Group.empty.ctl.setSplit 0 sp, acc := acc }

/-! ## Full images (19 R322, R339) -/

/-- A split at the boundary at which its group stops: a bundle in progress is issued again in whole (R80); an instruction
that has issued goes on waiting, and so does one at a `join` or an `exit`, which issues again only once its condition changes (08
R139). -/
def Split.stopped (sp : Split) : Split :=
  if sp.wait.issued || (match sp.wait with | .join _ _ _ | .exit _ _ _ => true | _ => false) then sp
  else { sp with pc := if sp.bundle.active then sp.bundle.start else sp.pc, bundle := Bundle.none, wait := .none }

/-- A group as a full image saves it: its multi-turn results have landed and its splits stand at bundle boundaries. -/
def State.fullGroup (s : State) (g : Group) : Group :=
  let g := ((byDue g.acc.inflight).foldl State.completeResult { s with cur := g }).cur
  { g with
    acc := { g.acc with inflight := [] }
    ctl := { g.ctl with splits := g.ctl.splits.map Split.stopped } }

/-! ## Leaving with an image (19 R338, R339, 16 R291) -/

/-- A group leaves its slot with an image; its tiles, slots, commands and ordered partials go with it, a running drain where it has
stopped sending (16 R291, 11 R188). -/
def State.takeOut (s : State) (g image : Group) (flash long : Bool) : State :=
  let uid := g.place.uid
  let core := g.place.core
  let tiles := (s.tiles.filter (fun t => t.core == core && t.owner == uid)).map (fun t =>
    (t.idx, t.elems.filter (fun e => !t.bad.contains e.1)))
  let slots := (s.oslots.filter (fun t => t.core == core && t.owner == uid)).map (fun t =>
    (t.idx, t.tag, t.elems.filter (fun e => !t.bad.contains e.1), t.scales))
  let cmds := (s.mqueue.filter (fun c => c.uid == uid)).map (fun (c : MCmd) =>
    if c.sent then { c with progress := min 128 (c.pos / 128) } else c)
  let s := { s with
    mqueue := s.mqueue.filter (fun (c : MCmd) => c.uid != uid)
    partials := s.partials.map (fun (x : Partial) => if x.ordered && x.uid == uid then { x with core := 65535 } else x) }
  let o : OutGroup := ⟨{ image with mat := { image.mat with released := [] } }, flash, long, cmds ++ image.mat.released, tiles,
    slots, true⟩
  let s := { s.freeItems uid core 0xFFF 0xFF with out := s.out ++ [o] }.dropGroup g
  (s.writeImage uid).feed core 8

/-- A group is saved with a full image. -/
def State.saveFull (s : State) (g : Group) (long : Bool) : State := s.takeOut g (s.fullGroup g) false long

/-- A group is flashed back (R338). -/
def State.flashBack (s : State) (g : Group) (f : Restart) : State :=
  match s.rec? g.place.launch with
  | none => s
  | some l => (s.takeOut g (flashGroup g l f) true false).count g.place.ctx 13 1

/-- `rcp` (R336): a checkpoint where the group has one split and an empty rejoin stack; in a context that runs forward to its
next recipe point the group is flashed back at it (R335). The copy of `s` and `k` is no read of them that meets an uncorrectable error, and the
flashback restores the copied value as good: the model's choice (05 R92; log entry 57). -/
def doRcp (i : Nat) (s : State) : Act :=
  let c := s.cur.ctl
  if 1 < c.live.length ∨ c.stack ≠ [] then .ok (s.modCkpt (fun k => { k with closed := true }))
  else
    let k : Ckpt := ⟨s.bundlePc, i, s.split.mask, s.cur.regs.s, s.cur.regs.k, s.cur.regs.sr⟩
    let s := s.modCkpt (fun _ => ⟨0, false, some k⟩)
    match s.myCtx.map Ctx.preempt with
    | some (.forward _) =>
      if s.recipeWaits s.cur then .notReady
      else (match s.eligible s.cur with
      | (some f, t) =>
        let t := t.modRegs (fun r => { r with fpflags := t.dueFlags t.cur })
        .done ((t.tally 0 1).flashBack t.cur f)
      | (none, t) => .ok t)
    | _ => .ok s

/-! ## Long parks (19 R333, 02 R46) -/

/-- LONG_PARK_SWITCHOUT: a team parked for 20 µs has every parked group saved with a full image. (R333) -/
def execLongParkSwitchout (rec core : Nat) (s : State) : Out State :=
  .next (
    let team := s.groups.filter (fun g => g.place.launch == rec && g.place.core == core)
    let parked := team.filter (fun g => g.ctl.parked)
    let since := parked.foldl (fun m g => max m g.ctl.parkedAt) 0
    if parked.isEmpty || team.any (fun g => !g.ctl.parked && !g.ctl.exited) || decide (s.pace < since + 20000) then s
    else parked.foldl (fun (s : State) g => s.saveFull g true) s)

/-! ## Pre-emption (19 R334, R335) -/

def Ctx.grace (c : Ctx) : Nat := bitsOf c.ctxCfg.toNat 47 32
def Ctx.slice (c : Ctx) : Nat := bitsOf c.ctxCfg.toNat 31 8
/-- The deadline in µs: 0 acts as 1,000, one not above `grace` as `grace` + 1. -/
def Ctx.deadline (c : Ctx) : Nat :=
  let d := bitsOf c.ctxCfg.toNat 63 48
  let d := if d = 0 then 1000 else d
  if d ≤ c.grace then c.grace + 1 else d

/-- When the pre-emption of a context began. -/
def Ctx.preemptAt (c : Ctx) : Option Nat :=
  match c.preempt with
  | .none => none
  | .grace t | .forward t => some t

/-- SLICE_END: a context's time slice ends while another context waits, and pre-emption begins. (R335) -/
def execSliceEnd (ctx : Nat) (s : State) : Out State :=
  .next (match s.ctx? ctx with
    | none => s
    | some c =>
      if c.st == .resident && c.preempt == .none && decide (c.slice ≠ 0) && decide (c.sliceFrom + 1000 * c.slice ≤ s.pace) &&
          s.contended ctx then s.beginPreempt ctx else s)

/-- A member that has issued a `bar` and waits for its release is never flashed back (20 R361). -/
def Ctl.atBar (c : Ctl) : Bool := c.splits.toList.any (fun sp => match sp.wait with | .bar _ _ i => i | _ => false)

/-- A group at the flashback step: saved in full, flashed back, or left to run forward (R335). -/
def State.flashStep (s : State) (uid : Nat) : State :=
  match s.group? uid with
  | none => s
  | some g =>
    let g := s.landedNow g
    let s := s.modGroup uid (fun _ => g)
    if g.ctl.exited then s
    else if g.ctl.parked || g.trap.inh || !g.trap.queue.isEmpty || g.ctl.atBar then s.saveFull g false
    else match s.eligible g with
      | (some f, t) => t.flashBack g f
      | (none, t) => t

/-- GRACE_END: the grace period ends and each group is saved, flashed back or runs forward, one whose recipe entry cannot be read
yet as soon as it can; one that parks later is saved in full. (R335) -/
def execGraceEnd (ctx : Nat) (s : State) : Out State :=
  .next (match s.ctx? ctx with
    | none => s
    | some c =>
      let mine := s.groups.filter (fun g => g.place.ctx == ctx)
      match c.preempt with
      | .grace t =>
        if s.pace < t + 1000 * c.grace then s
        else
          let later := mine.filter s.recipeWaits
          let s := (mine.filter (fun g => !s.recipeWaits g)).foldl (fun (s : State) g => s.flashStep g.place.uid) s
          if later.isEmpty then s.modCtx ctx (fun c => { c with preempt := .forward t }) else s
      | .forward _ => (mine.filter (fun g => g.ctl.parked)).foldl (fun (s : State) g => s.saveFull g false) s
      | .none => s)

/-- DEADLINE_EXPIRE: a group is still unsaved at the deadline and the context is reset with DEADLINE. (R335) -/
def execDeadlineExpire (ctx : Nat) (s : State) : Out State :=
  .next (match s.ctx? ctx with
    | none => s
    | some c => (match c.preemptAt with
      | none => s
      | some t =>
        if t + 1000 * c.deadline ≤ s.pace ∧ s.groups.any (fun g => g.place.ctx == ctx && !g.ctl.exited) = true then
          s.resetContext ctx 34 else s))

/-- Records of a context short of DONE. -/
def State.pendingRecs (s : State) (ctx : Nat) : Bool :=
  s.recs.any (fun r => r.ctx == ctx && r.st != .finishing && r.st != .refused)

/-- Every operation of a context's switched-out groups has completed, so that their images can be written (20 R355). -/
def State.imagesReady (s : State) (ctx : Nat) : Bool :=
  s.out.all (fun o => o.group.place.ctx != ctx || (!o.kept && !s.outBusy o))

/-- A context leaves residency: the tier engine sees a switch-out, its sticky lines become default, and its records hold no
items; with groups out its image's head is stored (18 R312, 13 R224, 19 R339; log entries 14, 33). -/
def State.leaveResidency (s : State) (c : Ctx) : State :=
  let s := if s.out.any (fun o => o.group.place.ctx == c.num) then s.storeImage c c.cimg.toNat (s.imageHead c.num) else s
  let s := { s.tierOut c with recs := s.recs.map (fun (r : LRec) => if r.ctx == c.num then { r with hold := Held.none } else r) }
  { s with
    l1 := s.l1.map (fun (l : L1Line) => if l.ctx == c.num && l.cls == 2 then { l with cls := 1 } else l)
    tags := s.tags.map (fun (t : TagLine) => if t.ctx == c.num && t.cls == 2 then { t with cls := 1 } else t) }

/-- CONTEXT_SWITCH_OUT: a context leaves residency: its pre-emption has completed, or its last group has exited with no record
pending. (R340) -/
def execContextSwitchOut (ctx : Nat) (s : State) : Out State :=
  .next (match s.ctx? ctx with
    | none => s
    | some c =>
      let left := s.groups.all (fun g => g.place.ctx != ctx)
      let outs := s.out.any (fun o => o.group.place.ctx == ctx)
      let more := outs || s.pendingRecs ctx
      if c.st != .resident || !left || c.reset.isSome then s
      else if c.preempt != .none && s.imagesReady ctx then
        let (n, s) := (s.leaveResidency c).fresh
        s.modCtx ctx (fun c => { c with st := if more then .waiting else .idle, waitFrom := n, preempt := .none })
      else if c.preempt == .none && !more then (s.leaveResidency c).modCtx ctx (fun c => { c with st := .idle })
      else s)

/-- A waiting context may become resident (R341). -/
def State.mayReside (s : State) (c : Ctx) : Bool :=
  let res := s.ctxs.filter (fun x => x.part == c.part && x.st == CtxSt.resident)
  c.st == CtxSt.waiting && c.reset.isNone && decide (res.length < 4) && res.all (fun x => x.world != c.world) &&
    decide (s.pkg.tray = 0)

/-- CONTEXT_RESIDENT: a waiting context becomes resident, the first in its partition's order that may; its slice starts and
its footprint is switched in. (R341) -/
def execContextResident (ctx : Nat) (s : State) : Out State :=
  .next (match s.ctx? ctx with
    | none => s
    | some c =>
      if !s.mayReside c || s.ctxs.any (fun x => x.part == c.part && s.mayReside x && decide (x.waitFrom < c.waitFrom)) then s
      else
        let s := if s.out.any (fun o => o.group.place.ctx == ctx) then s.arrive c.world c.cimg.toNat (s.imageHead ctx) else s
        let s := { s with tlb := s.tlb.map (fun (e : TrEntry) => if e.ctx == ctx then { e with recorded := false } else e) }
        (s.tierIn c).modCtx ctx (fun c => { c with st := .resident, sliceFrom := s.pace, ctxCfg := c.ctxCfgNext }))

/-! ## The end of a forced reset (19 R337, R340, R351) -/

/-- The closes that a forced reset records reach their first nodes without a value (R337 step 4). -/
def State.resetCloses (s : State) (vdid : Nat) : State :=
  (s.objs.map ObjEntry.idx).foldl (fun (s : State) i => match s.obj? i with
    | none => s
    | some o =>
      if o.vdid != vdid || o.st != ObjSt.update || !o.isOpen || !o.ordered then s
      else
        let f := max 1 (o.fan 1)
        let told := fun (l : Nat) => s.partials.any (fun p => p.obj == i && p.ordered && p.who == l) ||
          s.nodes.any (fun n => n.obj == i && n.level == 1 && n.index == l / f && n.got.any (fun g => g.1 == l % f))
        (o.closed.filter (fun l => decide (l < o.leaves) && !told l)).foldl (fun (s : State) l =>
          s.childArrive i 8 ⟨1, l / f, l % f, [], 0⟩) s) s

/-- A group whose split waits for the reset of a context gets status 0 (R351). -/
def Group.haltDone (ctx : Nat) (g : Group) : Group :=
  splitNums.foldl (fun (g : Group) i =>
    let sp := g.ctl.split i
    match sp.wait with
    | .answer .halt d n _ =>
      if n = ctx then
        { g.setS d 0 with ctl := g.ctl.pass i }
      else g
    | _ => g) g

/-- A context is freed (R340): its number is free again, its records and queued faults are gone. -/
def State.freeCtx (s : State) (ctx : Nat) : State :=
  { s with ctxs := s.ctxs.filter (fun c => c.num != ctx)
           recs := s.recs.filter (fun r => r.ctx != ctx)
           faults := s.faults.filter (fun f => f.ctx != ctx || f.queue != 1)
           tlb := s.tlb.filter (fun e => e.ctx != ctx)
           vregs := { s.vregs with part := Vector.ofFn (fun i : Fin 64 =>
             if s.ctxs.any (fun c => c.num != ctx && c.vdid == i.val) then s.vregs.part[i] else 255) } }

/-- RESET_COMPLETE: the last operation of a forced reset has completed or ended; its closes are recorded, who waits for it is
answered, and a context that is to be destroyed is freed once its records are done. (R337) -/
def execResetComplete (ctx : Nat) (s : State) : Out State :=
  .next (match s.ctx? ctx with
    | none => s
    | some c =>
      if c.reset.isNone || s.groups.any (fun g => g.place.ctx == ctx) || s.copies.any (fun x => x.ctx == ctx) ||
          s.out.any (fun o => o.group.place.ctx == ctx) || s.sb.any (fun e => e.ctx == ctx) ||
          s.writes.any (fun w => w.ctx == ctx && (match w.origin with | .group _ _ _ | .copy _ _ | .matrix _ _ _ => true | _ => false)) ||
          (c.destroy && s.recs.any (fun r => r.ctx == ctx)) then s
      else
        let s := if c.st == .resident then s.leaveResidency c else s
        let s := (s.resetCloses c.vdid).mapAll (Group.haltDone ctx)
        if c.destroy then s.freeCtx ctx
        else
          let (n, s) := s.fresh
          s.modCtx ctx (fun c => { c with reset := none, st := if s.pendingRecs ctx then .waiting else .idle, waitFrom := n }))


/-- EXIT: Exits the split's lanes, or takes or waits for its serialised record. (R142) -/
def execExit (s : State) : Out State :=
  issue .exit s (doExit)

/-- RCP: Takes a flashback checkpoint. (R336) -/
def execRcp (i : BitVec 12) (s : State) : Out State :=
  issue (.rcp i) s (doRcp i.toNat)

end Sys2Proof.Machine
end

