-- ==== Sys2Proof/Machine/Fabric.lean ====
section
/-! DEFINITION. Attachment: links and ports of the Ovber fabric, the host's snoops and its CXL.mem requests
(spec 21 R370-R379). -/

namespace Sys2Proof.Machine

/-! ## Links (R372-R377) -/

/-- A link fails: the packets of its unacknowledged flits move to the port's surviving links, the oldest first, ahead of those that wait,
and are sent again; a port without links goes down. The links that take them begin a new wait for an acknowledgement where they
had none (R374). -/
def State.failLink (s : State) (l : Link) : State :=
  let s := s.setLink { l with up := false, retry := [], replays := 0, tagBad := 0, nak := none }
  if (s.upLinks l.port).isEmpty then s.portDown l.port
  else
    let ps := l.retry.flatMap (fun f => f.flit.packets)
    let s := (List.range 4).foldl (fun (s : State) c =>
      let t := s.portTx l.port c
      s.setPortTx { t with queue := ps.filter (fun p => p.chan == c) ++ t.queue }) s
    s.drainPort l.port

/-- What fails a link beside a lane fault without a spare: a flit replayed 8 times, three tags in a row, or no progress of the
acknowledgement for 8 µs (R374). -/
def State.linkBad (s : State) (l : Link) : Bool :=
  l.up && (decide (8 ≤ l.replays) || decide (3 ≤ l.tagBad) || (!l.retry.isEmpty && decide (l.ackAt + 8000 < s.pace)))

/-- A link whose condition has come fails. -/
def State.judgeLink (s : State) (l : Link) : State := if s.linkBad l then s.failLink l else s.setLink l

/-- LINK_FAIL: a link fails and its retry buffer moves to the surviving links: a lane faults while the spare is in use, or
one of the link's own conditions holds. (R374) -/
def execLinkFail (port link : Nat) (s : State) : Out State :=
  .next (match s.link? port link with
    | some l => if l.up && (l.spare || s.linkBad l) then s.failLink l else s
    | none => s)

/-- LANE_SPARE: a failing lane's traffic moves to the spare lane; the flits in flight, which are those not acknowledged, are replayed
(log entry 36). With the spare in use already the link fails. (R373, R374) -/
def execLaneSpare (port link : Nat) (s : State) : Out State :=
  .next (match s.link? port link with
    | some l =>
      if !l.up then s
      else if l.spare then s.failLink l
      else
        let l := { l with spare := true }
        s.judgeLink (match l.retry.head? with | some f => l.replay f.flit.seq | none => l)
    | none => s)

/-- LINK_UP: a link comes up with fresh session keys in both directions; one whose peer fails authentication carries no payload and is
reported as failed. (R377) -/
def execLinkUp (port link : Nat) (auth : Bool) (s : State) : Out State :=
  let old := s.link? port link
  let rx := (old.map Link.session).getD 0
  let tx := (old.map Link.txSession).getD 0
  .next (if 16 ≤ port ∨ 4 ≤ link ∨ s.pkg.boot ≠ 2 ∨ 2 ≤ s.pkg.tray ∨ s.pkg.dieOff.getLsbD (port / 4) = true then s
    else if (old.map Link.up).getD false then s
    else s.setLink ⟨port, link, auth, false, 0, 0, 0, [], s.pace, 0, 0, rx + 1, 0, tx + 1, 0, 0, none, !auth⟩)

/-- A direction of a link that has carried 2^40 flits has a new session (R377). -/
def Link.rekey (l : Link) : Link :=
  let l := if 2 ^ 40 ≤ l.flits then { l with session := l.session + 1, flits := 0 } else l
  if 2 ^ 40 ≤ l.txFlits then { l with txSession := l.txSession + 1, txFlits := 0 } else l

/-- A link has a new session due. -/
def Link.stale (l : Link) : Bool := l.up && (decide (2 ^ 40 ≤ l.flits) || decide (2 ^ 40 ≤ l.txFlits))

/-- SESSION_REKEY: a new in-band session is set up every 2^40 flits of a direction. (R377) -/
def execSessionRekey (port link : Nat) (s : State) : Out State :=
  .next (match s.link? port link with
    | some l => if l.stale then s.setLink l.rekey else s
    | none => s)

/-! ## Flits and packets (R372) -/

/-- Packets of a channel that are next in port sequence are delivered, the first of them first. -/
def releasePackets : Nat → Nat → List Packet → List Packet → Nat × List Packet × List Packet
  | 0, next, held, out => (next, held, out)
  | fuel + 1, next, held, out =>
    match held.find? (fun p => p.seq == next) with
    | none => (next, held, out)
    | some p => releasePackets fuel ((next + 1) % 65536) (held.filter (fun x => x.seq != next)) (out ++ [p])

/-- A packet arrives at a port: duplicates are discarded, packets of a channel are delivered in port-sequence order. -/
def State.takePacket (s : State) (port : Nat) (p : Packet) : State :=
  let r := (s.ports.find? (fun x => x.port == port && x.chan == p.chan)).getD ⟨port, p.chan, 0, []⟩
  let old := decide (32768 ≤ (p.seq + 65536 - r.next) % 65536) || r.held.any (fun x => x.seq == p.seq)
  if old then s
  else
    let (next, held, out) := releasePackets (r.held.length + 1) r.next (r.held ++ [p]) []
    { s with
      ports := ⟨port, p.chan, next, held⟩ :: s.ports.filter (fun (x : PortRx) => !(x.port == port && x.chan == p.chan))
      inbox := s.inbox ++ out }

/-- A flit whose CRC and tag hold brings an acknowledgement, which frees the retry buffer and ends the count of replays, and may ask
for a replay (R373, R374). -/
def Link.acknowledged (l : Link) (flit : Flit) (pace : Nat) : Link :=
  let n := (flit.ack + 1024 - l.acked) % 1024
  let l := if 0 < n ∧ n ≤ l.retry.length then { l with acked := flit.ack, retry := l.retry.drop n, ackAt := pace, replays := 0 } else l
  let l := { l with tagBad := 0, flits := l.flits + 1 }
  match flit.nak with
  | some q => l.replay q
  | none => l

/-- FLIT_RECEIVE: a link receives a flit, checks CRC and tag and delivers its packets in port-sequence order. One that is refused, or that
comes ahead of the link's sequence, is asked for again from the missing one on, in the next flit that is sent; one that has been
taken before is dropped. (R372, R373) -/
def execFlitReceive (port link : Nat) (flit : Flit) (s : State) : Out State :=
  .next (match s.link? port link with
    | none => s
    | some l =>
      if !l.up then s
      else if !flit.crcOk then s.setLink { l with nak := some l.rxSeq }
      else if !flit.tagOk then s.judgeLink { l with tagBad := l.tagBad + 1, nak := some l.rxSeq }
      else
        let l := l.acknowledged flit s.pace
        let ahead := (flit.seq + 1024 - l.rxSeq) % 1024
        let s :=
          if s.linkBad l then s.failLink l
          else if ahead = 0 then
            (flit.packets.filter (fun p => p.chan == flit.chan)).foldl (fun (s : State) p => s.takePacket port p)
              (s.setLink { l with rxSeq := (l.rxSeq + 1) % 1024, nak := none })
          else s.setLink (if ahead < retryMax then { l with nak := some l.rxSeq } else l)
        s.drainPort port)

/-! ## The host's accesses (R370, R371) -/

/-- The host link is in service: it goes with CD0 (11 R199). -/
def State.hostUp (s : State) : Bool := !s.pkg.dieOff.getLsbD 0

/-- The plaintext of a line of host memory after the host has written bytes of it as stored: lines of a world with a key are
ciphertext, those of world 0 are stored as written (R370, 13 R225). -/
def State.hostBytes (s : State) (ln : Nat) (bs : List Byte) : List Byte :=
  let h := s.localId 0
  let w := s.tagOf ln
  let old := s.cipherOf w ln (s.bytesAt h ln 64)
  s.plainOf w ln (bs ++ old.drop bs.length)

/-- A snoop at the serialisation point of its line: A12 copies are invalidated first, that of the point too and what an owner has written
goes home; a reading snoop is answered with the line as it is stored, and the host's write takes its place in the line's
order (R370). -/
def State.serveSnoop (s : State) (ln : Nat) (data : Option (List Byte)) : State :=
  let h := s.localId 0
  let s := (s.voidLine h ln).dropL2 0 ln
  match data with
  | none => { s with host := { s.host with seen := s.cipherOf (s.tagOf ln) ln (s.bytesAt h ln 64) } }
  | some bs =>
    let new := s.hostBytes ln (bs.take 64)
    s.unitApply .host (s.tagOf ln) 0 h ln new (fun id s =>
      let s := { s with mem := Memory.putN s.mem (memKey h ln) new }
      let r := (s.setLine { s.lineAt h ln with wct := s.pace, last := id }).sendEchoes id h ln new 0 false
      (r.1, r.2.map (fun d => (d, none))))

/-- The oldest snoop whose line waits for nothing is served; those of one line are served in their order. -/
def State.trySnoops (s : State) : List (Nat × Option (List Byte)) → List (Nat × Option (List Byte)) → State
  | _, [] => s
  | seen, x :: xs =>
    if s.lineWaits (s.localId 0) x.1 || seen.any (fun y => y.1 == x.1) then s.trySnoops (seen ++ [x]) xs
    else { s with host := { s.host with snoops := seen ++ xs } }.serveSnoop x.1 x.2

/-- HOST_SNOOP: the host snoops a line of host memory; a snoop of a line that waits is kept until it can be served. (R370) -/
def execHostSnoop (line : Nat) (data : Option (List (BitVec 8))) (s : State) : Out State :=
  .next (if !s.hostUp then s
    else
      let s : State := { s with host := { s.host with snoops := s.host.snoops ++ [(lineBase line, data)] } }
      s.trySnoops [] s.host.snoops)

/-- An access of the host-link controller to an object: an agent of CD0 that never holds a copy (R371). -/
def State.hostGate (s : State) (o : ObjEntry) (fa : Nat) : ObjGate :=
  match o.st with
  | .ownerLost => .poisoned
  | .update =>
    if o.isOpen || o.snoop.isSome then .wait s
    else if o.away ≠ [] then .wait (s.askAway o [])
    else .go (s.collect o (fun x => lineBase x.fa == lineBase fa))
  | .shared => .go s
  | .priv c => .go ((s.dropObj o c).modObj o.idx (fun o => { o with st := .shared }))
  | .owned x =>
    if o.snoop.isSome then .wait s
    else if s.answers x then .go ((s.writtenHome o).modObj o.idx (fun o => { o with st := .shared })) else .wait (s.sendSnoop o x [])

/-- Serves one request of the host at the serialisation point of its line; none where it waits there. The answer of a read is
all ones with poison where the line has none to give (R371). -/
def State.serveHost (s : State) (req : HostReq) : Option State :=
  let a := match req with | .read a _ => a | .write a _ => a
  let room := 64 - a % 64
  let bad := fun (s : State) => match req with
    | .read _ n => { s with host := { s.host with answer := List.replicate (min n room) 255, poison := true } }
    | .write _ _ => s
  match s.home a with
  | none => some (bad s)
  | some h =>
    if !s.worldOk h.holder a 0 || (s.lineAt h.holder a).poison then some (bad s)
    else if s.lineWaits h.holder a then none
    else
      let act := fun (s : State) => match req with
        | .read _ n =>
          let bs := s.bytesAt h.holder a (min n room)
          let s := s.unitRead h.holder a
          { s with host := { s.host with answer := bs, poison := false } }
        | .write _ bs => s.unitWrite .host 0 0 h.holder a (bs.take room)
      match s.objOfFa a with
      | none => some (act s)
      | some o => (match s.hostGate o a with
        | .poisoned => some (bad s)
        | .wait _ => none
        | .go t => some (act t))

/-- The oldest waiting request of the host is tried. -/
def State.tryHost (s : State) : State :=
  match s.host.waiting with
  | [] => s
  | r :: rest =>
    match s.serveHost r with
    | some t => { t with host := { t.host with waiting := rest } }
    | none => (match s.objOfFa (match r with | .read a _ => a | .write a _ => a) with
      | some o => (match s.hostGate o 0 with | .wait t => t | _ => s)
      | none => s)

/-- HOST_MEM_REQUEST: a CXL.mem request from the host is served at the serialisation point of its line, behind those that wait.
(R371) -/
def execHostMemRequest (req : HostReq) (s : State) : Out State :=
  .next (if !s.hostUp then s else { s with host := { s.host with waiting := s.host.waiting ++ [req] } }.tryHost)

end Sys2Proof.Machine
end

