-- ==== Sys2Proof/Machine/Manage.lean ====
section
/-! DEFINITION. Boot, attestation, worlds, the management mailbox, power, tray, wear, soft errors and integrity audits
(spec 22 R381-R394, 19 R340, 13 R226-R229, 05 R92, 21 R368, R369). -/

namespace Sys2Proof.Machine

/-! ## Boot (R381, R387) -/

/-- The bytes of a measurement, least significant first. -/
def measBytes (m : BitVec 512) : List Byte := leBytes 64 m.toNat

/-- The measurement extended by an image (R381). -/
def extendMeas (m : BitVec 512) (image : List Byte) : BitVec 512 :=
  Config.hash512 (measBytes m ++ measBytes (Config.hash512 image))

/-- The package at power-on as number `pkg` of its fabric: every register at its reset value, its stacks zeroed with world tag 0; what
lies outside the package, the host's memory and other packages' holders, stays. -/
def State.powerCycle (s : State) (pkg : Nat) : State :=
  let mine := fun (n : Nat) => decide (n = s.pkgNum) || decide (n = pkg)
  let out := fun (k : Nat) => let h := k / 2 ^ 64
    !(mine (h / 256) && decide (16 ≤ h % 256) && decide (h % 256 < 28))
  { State.reset with
    mem := s.mem.filter (fun c => out c.1)
    lines := s.lines.filter (fun l => out l.key && !mine (l.key / 2 ^ 72))
    cycle := s.cycle, ps := s.ps, agenda := s.agenda, phase := s.phase, nextId := s.nextId, freeCount := s.freeCount }

/-- The images in their order: each is verified and extends the measurement; a failure stops the boot. -/
def bootImages : Nat → List FwImage → BitVec 512 → Nat × Nat × BitVec 512
  | n, [], m => (n, if 4 ≤ n then 2 else 1, m)
  | n, i :: rest, m =>
    if 4 ≤ n then (n, 2, m) else if i.sigOk then bootImages (n + 1) rest (extendMeas m i.bytes) else (n, 3, m)

/-- Each stack is announced as the primary of its own range (R387). -/
def State.announceStacks (s : State) : State :=
  (List.range 12).foldl (fun (s : State) n =>
    (s.rteAnn (s.pkgNum * 2 ^ 40 + n * 2 ^ 36) (s.localId (16 + n) * 2 ^ 24 + 20 * 2 ^ 16 + 255 * 2 ^ 6 + 28)).2) s

/-- POWER_ON: measured boot loads and verifies firmware images and releases the dies; it takes place in BOOTING. (R381) -/
def execPowerOn (images : List FwImage) (pkg : BitVec 16) (s : State) : Out State :=
  .next (if s.pkg.tray ≠ 4 then s
    else
      let s := s.powerCycle pkg.toNat
      let (n, st, m) := bootImages 0 images 0
      let p := { s.pkg with boot := st, images := n, meas := m }
      if st = 2 then { s with pkg := { p with pkgId := pkg.setWidth 64, tray := 0 } }.announceStacks
      else { s with pkg := { p with bootFail := if st = 3 then n else 0 } })

/-! ## Memory region 0 as the host reads it (21 R368, R369) -/

/-- The identity and capability block. -/
def State.identity (s : State) : List Byte :=
  let ready := decide (s.pkg.boot = 2)
  ([0x49, 0x42, 0x2D, 0x41, 0x31, 0x32, 0x2D, 0x37, 0x36, 0x38, 0, 0, 0, 0, 0, 0] : List Byte) ++ leBytes 4 0x00010000 ++
    leBytes 4 15 ++ leBytes 2 (if ready then s.pkgNum else 0) ++ leBytes 2 12 ++ leBytes 2 144 ++ leBytes 2 16 ++
    leBytes 8 (768 * 2 ^ 30) ++ leBytes 4 (s.pkg.boot + s.pkg.bootFail * 256) ++ leBytes 4 0x4000 ++
    (if ready then measBytes s.pkg.meas else List.replicate 64 0)

/-- A byte of memory region 0: the identity block and the mailbox; the rest, ring kicks included, reads 0. -/
def State.region0 (s : State) (off : Nat) : Byte :=
  if off < 0x1000 then (s.identity[off]?).getD 0
  else if 0x4008 ≤ off ∧ off < 0x4010 then ((leBytes 8 s.mbox.stat.toNat)[off - 0x4008]?).getD 0
  else if 0x8000 ≤ off ∧ off < 0xC000 then (s.mbox.rsp[off - 0x8000]?).getD 0
  else 0

/-! ## Worlds (R383) -/

def State.world? (s : State) (w : Nat) : Option World := s.worlds.find? (fun x => x.id == w)

/-- The holder of a page of the package: a stack or its host memory. -/
def State.ownHolder (s : State) (fa : Nat) : Option Nat :=
  match s.routeWrite (s.localId 0) fa [] with
  | some h => if (s.ctlOf h.holder).isSome then some h.holder else none
  | none => none

/-- The last tuples of the lines of a range leave the sums of their world (log entry 9). -/
def State.retire (s : State) (base len : Nat) : State :=
  let mine := s.lines.filter (fun l => decide (base ≤ l.key % 2 ^ 64) && decide (l.key % 2 ^ 64 < base + len))
  mine.foldl (fun (s : State) (x : LineMeta) =>
    let l := { x with world := s.tagOf (x.key % 2 ^ 64) }
    let h := l.key / 2 ^ 64
    match s.ctlOf h with
    | some c => if l.summed then s.fold c l.world 0 (s.tuple l l.stamp (s.dramBytes h (l.key % 2 ^ 64))) else s
    | none => s) { s with lines := s.lines.filter (fun l => !mine.contains l) }

/-- Every cached copy of a range leaves the caches, with the values read from it that are not completed (R383, 15 R256). -/
def State.voidRange (s : State) (inside : Nat → Bool) : State :=
  let ls := (s.l1.filter (fun l => inside l.fline)).map (fun l => (l.core, l.fline))
  ls.foldl (fun (s : State) x => s.dropFrom true x.1 x.2)
    { s with
      l1 := s.l1.filter (fun (l : L1Line) => !inside l.fline)
      tags := s.tags.filter (fun (t : TagLine) => !inside t.line) }

/-- A range is zeroed at every holder of the package and tagged, once every cached copy is gone; bytes that are on their way to one of
its holders reach none (R383, 13 R226). -/
def State.retag (s : State) (base len world : Nat) : State :=
  let inside := fun (a : Nat) => decide (base ≤ a) && decide (a < base + len)
  let s := (s.retire base len).voidRange inside
  let kept := fun (k : Nat) => !(inside (k % 2 ^ 64) && decide (k / 2 ^ 72 = s.pkgNum))
  let blocks := (List.range (len / 2 ^ 21)).map (fun i => base / 2 ^ 21 + i)
  { s with
    mem := s.mem.filter (fun c => kept c.1)
    echoes := s.echoes.map (fun (e : Echo) => if inside e.addr then { e with data := [] } else e)
    mcast := s.mcast.map (fun (m : McFlight) => if inside m.pkt.addr then { m with pkt := { m.pkt with data := [] } } else m)
    fills := s.fills.filter (fun f => !inside f.addr)
    granted := (if world = 0 then [] else blocks.map (fun b => (b, world))) ++ s.granted.filter (fun g => !blocks.contains g.1) }

/-! ## The mailbox (R384, R385) -/

/-- A little-endian field of a request. -/
def reqField (r : List Byte) (off n : Nat) : Nat := ofLeBytes ((r.drop off).take n)

/-- Every byte of a request outside some ranges is zero. -/
def onlyBytes (r : List Byte) (fs : List (Nat × Nat)) : Bool :=
  r.zipIdx.all (fun x => x.1 == 0 || fs.any (fun f => decide (f.1 ≤ x.2) && decide (x.2 < f.1 + f.2)))

/-- The request length of a command; none for an unknown code. -/
def cmdLen (code : Nat) : Option Nat :=
  match code with
  | 0x01 => some 64 | 0x10 => some 12 | 0x11 => some 24 | 0x12 => some 24 | 0x13 => some 1 | 0x20 => some 16
  | 0x30 => some 16 | 0x31 => some 2 | 0x32 => some 2 | 0x40 => some 24 | 0x41 => some 1576 | _ => none

/-- The command code and the request length of a write to the `cmd` field. -/
def cmdCode (c : MboxCmd) : Nat := bitsOf c.cmd.toNat 15 0
def cmdBytes (c : MboxCmd) : Nat := bitsOf c.cmd.toNat 31 16

/-- The request as the controller reads it. -/
def cmdBody (c : MboxCmd) : List Byte := (c.req ++ List.replicate (cmdBytes c - c.req.length) 0).take (cmdBytes c)

/-- The end of a command: response, then tag, length, status and `done` in one step (R384). -/
def State.reply (s : State) (c : MboxCmd) (status : Nat) (rsp : List Byte) : State :=
  { s with mbox :=
    { cmd := c.cmd
      stat := BitVec.ofNat 64 (bitsOf c.cmd.toNat 63 32 * 2 ^ 32 + rsp.length % 65536 * 2 ^ 16 + status * 2 ^ 8 + 2)
      req := c.req
      rsp := rsp } }

/-- A command of a code: it is accepted once the package has booted and the mailbox is not busy, while CD0, with the management block,
is in service (11 R199); a status other than OK changes nothing (R384). -/
def State.mailbox (s : State) (c : MboxCmd) (code : Nat) (act : State → List Byte → Nat × List Byte × State) : State :=
  if s.pkg.boot ≠ 2 ∨ s.hostUp = false ∨ s.mbox.stat.getLsbD 0 = true ∨ (cmdCode c) ≠ code ∨ cmdLen code ≠ some (cmdBytes c) then s
  else
    let r := act s (cmdBody c)
    if r.1 = 0 then r.2.2.reply c 0 r.2.1 else s.reply c r.1 []

/-- MAILBOX_BAD_CMD: a write to the mailbox `cmd` field with an unknown command code or a bad length completes with status
BAD_CMD. (R384) -/
def execMailboxBadCmd (cmd : MboxCmd) (s : State) : Out State :=
  .next (if s.pkg.boot ≠ 2 ∨ s.hostUp = false ∨ s.mbox.stat.getLsbD 0 = true ∨ cmdLen (cmdCode cmd) = some (cmdBytes cmd) then s else s.reply cmd 1 [])

/-- The package's attestation public key. -/
def attestKey : List Byte := (List.range 2592).map Config.attestByte

/-- The report of R386 up to its last signature: the root has signed the key followed by the package's number. -/
def State.reportHead (s : State) (nonce : List Byte) : List Byte :=
  let ws := (List.range 256).filterMap (fun w => s.world? w)
  leBytes 4 1 ++ leBytes 2 s.pkgNum ++ leBytes 2 ws.length ++ measBytes s.pkg.meas ++ nonce ++
    (ws.map (fun w => leBytes 4 w.id ++ leBytes 4 w.audit ++ leBytes 4 w.fails)).flatten ++
    attestKey ++ (List.range 4627).map (Config.rootSign (Config.hash512 (attestKey ++ leBytes 2 s.pkgNum)))

/-- ATTEST: mailbox command that returns a signed attestation report; before the boot is complete it returns STATE. (R386) -/
def execAttest (cmd : MboxCmd) (s : State) : Out State :=
  .next (if s.pkg.boot ≠ 2 then
      (if (cmdCode cmd) = 1 ∧ s.mbox.stat.getLsbD 0 = false then s.reply cmd 7 [] else s)
    else s.mailbox cmd 1 (fun s r =>
      let head := s.reportHead r
      (0, head ++ (List.range 4627).map (Config.sign head s.freeCount), { s with freeCount := s.freeCount + 1 })))

/-- WORLD_CREATE: mailbox command that creates a world and its keys. (R385) -/
def execWorldCreate (cmd : MboxCmd) (s : State) : Out State :=
  .next (s.mailbox cmd 0x10 (fun s r =>
    let w := reqField r 0 1
    let t := reqField r 8 4
    if w = 0 ∨ t = 0 ∨ 600 < t ∨ onlyBytes r [(0, 1), (8, 4)] = false then (2, [], s)
    else if (s.world? w).isSome then (5, [], s)
    else (0, [], { s with
      worlds := s.worlds ++ [⟨w, (List.range 64).map (Config.worldKey s.freeCount), t, 0, s.pace,
        (List.range 32).map (fun i => Config.worldKey s.freeCount (64 + i))⟩]
      freeCount := s.freeCount + 1 })))

/-- The world and range of a grant or a revocation; none where a field is out of range. -/
def rangeReq (r : List Byte) : Option (Nat × Nat × Nat) :=
  let w := reqField r 0 1
  let base := reqField r 8 8
  let len := reqField r 16 8
  if w = 0 ∨ base % 2 ^ 21 ≠ 0 ∨ len % 2 ^ 21 ≠ 0 ∨ 2 ^ 64 < base + len ∨ onlyBytes r [(0, 1), (8, 16)] = false then none
  else some (w, base, len)

/-- WORLD_GRANT: mailbox command that zeroes a range and tags it with a world. (R383) -/
def execWorldGrant (cmd : MboxCmd) (s : State) : Out State :=
  .next (s.mailbox cmd 0x11 (fun s r => match rangeReq r with
    | none => (2, [], s)
    | some (w, base, len) =>
      let pages := (List.range (len / 4096)).map (fun i => base + 4096 * i)
      if (s.world? w).isNone then (4, [], s)
      else if pages.any (fun a => (s.ownHolder a).isNone) then (2, [], s)
      else if pages.any (fun a => s.tagOf a != 0 && s.tagOf a != w) then (3, [], s)
      else (0, [], s.retag base len w)))

/-- WORLD_REVOKE: mailbox command that zeroes a range and re-tags it 0. (R383) -/
def execWorldRevoke (cmd : MboxCmd) (s : State) : Out State :=
  .next (s.mailbox cmd 0x12 (fun s r => match rangeReq r with
    | none => (2, [], s)
    | some (w, base, len) =>
      let pages := (List.range (len / 4096)).map (fun i => base + 4096 * i)
      if (s.world? w).isNone then (4, [], s)
      else if pages.any (fun a => (s.ownHolder a).isNone || s.tagOf a != w) then (2, [], s)
      else (0, [], s.retag base len 0)))

/-- WORLD_DESTROY: mailbox command that removes a world and erases its keys. (R385) -/
def execWorldDestroy (cmd : MboxCmd) (s : State) : Out State :=
  .next (s.mailbox cmd 0x13 (fun s r =>
    let w := reqField r 0 1
    if w = 0 then (2, [], s)
    else if (s.world? w).isNone then (4, [], s)
    else if s.ctxs.any (fun c => c.world == w) || s.granted.any (fun g => g.2 == w) then (3, [], s)
    else (0, [], { s with worlds := s.worlds.filter (fun x => x.id != w), integ := s.integ.filter (fun e => e.world != w) })))

/-- PART_SET: mailbox command that writes a partition descriptor. (R385) -/
def execPartSet (cmd : MboxCmd) (s : State) : Out State :=
  .next (s.mailbox cmd 0x20 (fun s r =>
    let i := reqField r 0 1
    if 11 < i ∨ onlyBytes r [(0, 1), (8, 8)] = false then (2, [], s)
    else
      let t := s.writePart i (BitVec.ofNat 64 (reqField r 8 8))
      (0, leBytes 8 t.pkg.partStatus.toNat, t)))

/-- A context as it is created (19 R340): IDLE, every register at its reset value. -/
def newCtx (num part vdid world conf cimg : Nat) : Ctx :=
  let cfg : DWord := BitVec.ofNat 64 (1000 * 2 ^ 48 + 50 * 2 ^ 32 + 2000 * 2 ^ 8 + conf * 2)
  { num := num, part := part, vdid := vdid, world := world, conf := decide (conf = 1), st := .idle, preempt := .none,
    sliceFrom := 0, waitFrom := 0, s1root := 0, fpBase := 0, nodeBase := 0, tvec1 := 0, ctxCfg := cfg, ctxCfgNext := cfg,
    cimg := BitVec.ofNat 64 cimg, fq1 := 0, fq1Pos := 0, wdog := 26, perf := Vector.replicate 16 0, tdt := [], reset := none,
    destroy := false }

/-- A VDID joins a partition; a reservation that the slices no longer have room for is lost (09 R151; log entry 56). -/
def State.bindVdid (s : State) (vdid part : Nat) : State :=
  let q := ((s.vregs.tq[vdid]?).getD 0).toNat
  let tight := decide (128 < bitsOf q 15 8 + s.tqSum part vdid)
  { s with vregs := { s.vregs with
    part := s.vregs.part.setIfInBounds vdid part
    tq := if tight then s.vregs.tq.setIfInBounds vdid (BitVec.ofNat 64 (setBits q 15 8 0)) else s.vregs.tq } }

/-- CTX_CREATE: mailbox command that creates and binds a context. (19 R340) -/
def execCtxCreate (cmd : MboxCmd) (s : State) : Out State :=
  .next (s.mailbox cmd 0x30 (fun s r =>
    let part := reqField r 0 1
    let vdid := reqField r 1 1
    let world := reqField r 2 1
    let conf := reqField r 3 1
    let cimg := reqField r 8 8
    let bound := (s.vregs.part[vdid]?).getD 255
    if 11 < part ∨ 63 < vdid ∨ 1 < conf ∨ cimg % 4096 ≠ 0 ∨ onlyBytes r [(0, 4), (8, 8)] = false then (2, [], s)
    else if ((s.pkg.partDesc[part]?).getD 0).getLsbD 0 = false ∨ (world ≠ 0 ∧ (s.world? world).isNone = true) then (4, [], s)
    else if (bound ≠ 255 ∧ bound ≠ part) ∨ (conf = 1 ∧ world = 0) then (2, [], s)
    else match (List.range 4095).find? (fun n => s.ctxs.all (fun c => c.num != n)) with
      | none => (6, [], s)
      | some n =>
        (0, leBytes 2 n, { (if bound = part then s else s.bindVdid vdid part) with
          ctxs := s.ctxs ++ [newCtx n part vdid world conf cimg] })))

/-- CTX_DESTROY: mailbox command that frees a context, resetting it first if needed. (19 R340) -/
def execCtxDestroy (cmd : MboxCmd) (s : State) : Out State :=
  .next (s.mailbox cmd 0x31 (fun s r =>
    let n := reqField r 0 2
    match s.ctx? n with
    | none => (4, [], s)
    | some c =>
      if c.st == .idle && c.reset.isNone then (0, [], s.freeCtx n)
      else
        let s := if c.reset.isNone then s.resetContext n 35 else s
        (0, [], s.modCtx n (fun c => { c with destroy := true }))))

/-- CTX_PREEMPT: mailbox command that begins pre-emption of a context. (R385) -/
def execCtxPreempt (cmd : MboxCmd) (s : State) : Out State :=
  .next (s.mailbox cmd 0x32 (fun s r =>
    let n := reqField r 0 2
    match s.ctx? n with
    | none => (4, [], s)
    | some c => if c.st == .resident then (0, [], s.beginPreempt n) else (7, [], s)))

/-- RING_SET: mailbox command that writes `ring_base` and then `ring_ctl`. (R385) -/
def execRingSet (cmd : MboxCmd) (s : State) : Out State :=
  .next (s.mailbox cmd 0x40 (fun s r =>
    let n := reqField r 0 1
    if 15 < n ∨ onlyBytes r [(0, 1), (8, 16)] = false then (2, [], s)
    else (0, [], (s.writeRingBase n (BitVec.ofNat 64 (reqField r 8 8))).writeRingCtl n (BitVec.ofNat 64 (reqField r 16 8)))))

/-- RING_KEY: mailbox command that establishes a ring key by encapsulation. (R385) -/
def execRingKey (cmd : MboxCmd) (s : State) : Out State :=
  .next (s.mailbox cmd 0x41 (fun s r =>
    let n := reqField r 0 1
    let key := r.drop 8
    if 15 < n ∨ onlyBytes (r.take 8) [(0, 1)] = false then (2, [], s)
    else if (s.ring n).ctl.getLsbD 63 then (7, [], s)
    else
      let t := s.setRing n { s.ring n with key := (List.range 32).map (Config.kemSecret key s.freeCount), stuck := none }
      (0, (List.range 1568).map (Config.kemCipher key s.freeCount), { t with freeCount := s.freeCount + 1 })))

/-! ## Power and cooling (R388-R391) -/

/-- The thermal cap of an inlet temperature in °C, if any (R388). -/
def thermalCap (t : Int) : Option Nat :=
  if t ≤ 40 then none else if 45 < t then some 1500 else some (2900 - 280 * (t - 40).toNat)

/-- The lower of two caps. -/
def lowerCap : Option Nat → Option Nat → Option Nat
  | some a, some b => some (min a b)
  | some a, none => some a
  | none, b => b

/-- The clock after a comparison: one step down above the cap, one step up below 98% of it. -/
def nextClock (cap : Option Nat) (avg clk : Nat) : Nat :=
  match cap with
  | none => min 25 (clk + 1)
  | some c => if c < avg then max 10 (clk - 1) else if 100 * avg < 98 * c then min 25 (clk + 1) else clk

/-- POWER_COMPARE: every 100 µs average power is compared with the cap and the clock adjusted; `wholeWindow` says that it has also been
above the cap at 1.0 GHz between the comparisons of a whole window. (R390) -/
def execPowerCompare (avg : BitVec 16) (temp : Int) (flowLow wholeWindow : Bool) (s : State) : Out State :=
  let own := if s.pkg.pwrCap.getLsbD 31 then some (bitsOf s.pkg.pwrCap.toNat 11 0) else none
  let cap := lowerCap own (thermalCap (if flowLow then max temp 45 else temp))
  let clk := s.pkg.clock
  let above := (cap.map (fun c => decide (c < avg.toNat))).getD false
  let hot := if above && decide (clk ≤ 10) then some (s.pkg.pwrHot.getD s.pace) else none
  let win := 10 ^ 6 * bitsOf s.pkg.pwrCap.toNat 25 16
  let tooHot := wholeWindow && hot.any (fun t => decide (t + win ≤ s.pace))
  let stat := avg.toNat * 2 ^ 32 + nextClock cap avg.toNat clk * 2 ^ 8 + (s.pkg.pwrStat.getLsbD 0 || tooHot).toNat
  let t := { s with pkg := { s.pkg with pwrStat := BitVec.ofNat 64 stat, pwrAt := s.pace / 100000 * 100000, pwrHot := hot } }
  .next (if s.pace < s.pkg.pwrAt + 100000 then s
    else if tooHot then
      let e : ErrInfo := ⟨(Config.freeBits 8 s.freeCount).toNat, 0, 0, 0, 0, 0, [], false⟩
      { t with freeCount := s.freeCount + 1 }.errorRecord e
    else t)

/-! ## Tray (R392) -/

/-- TRAY_QUIESCE: a drained package becomes QUIESCED and its ports go down. (R392, 21 R374) -/
def execTrayQuiesce (s : State) : Out State :=
  .next (if s.pkg.tray ≠ 1 ∨ s.ctxs.any (fun c => c.st == .resident) = true ∨ s.tier.moves ≠ [] ∨
      s.holders.any (fun h => decide (h.holder / 256 = s.pkgNum)) = true then s
    else (List.range 16).foldl (fun (s : State) port => s.portDown port) { s with
      pkg := { s.pkg with tray := 2 }
      links := s.links.map (fun (l : Link) => { l with up := false, retry := [] }) })

/-- TRAY_POWER_OFF: Psison power-off makes the tray REMOVABLE. (R392) -/
def execTrayPowerOff (s : State) : Out State :=
  .next (if s.pkg.tray = 2 then { s with pkg := { s.pkg with tray := 3, boot := 0 } } else s)

/-- TRAY_INSERT: insertion and power start BOOTING. (R392) -/
def execTrayInsert (s : State) : Out State :=
  .next (if s.pkg.tray = 3 then { s with pkg := { s.pkg with tray := 4 } } else s)

/-! ## Wear (R394) -/

/-- Hours of pace time (R394). -/
def State.hour (s : State) : Nat := s.pace / (3600 * 10 ^ 9)

/-- The registers of ports, stacks and dies (R394): a port has four spare lanes at most. -/
def spareOf (index : Fin 32) (spare : Nat) : Nat := if index.val < 16 then min 4 spare else spare

/-- WEAR_UPDATE: the Psison controller updates the wear registers every hour. (R394) -/
def execWearUpdate (index : Fin 32) (eol : BitVec 16) (used spare : BitVec 8) (s : State) : Out State :=
  .next (if s.hour ≤ s.pkg.wearHour[index] then s
    else { s with pkg := { s.pkg with
      wearHour := s.pkg.wearHour.set index s.hour
      wear := s.pkg.wear.set index (BitVec.ofNat 64 (eol.toNat * 2 ^ 32 + used.toNat * 2 ^ 24 + spareOf index spare.toNat * 2 ^ 16)) } })

/-! ## Soft errors and audits (05 R92, 13 R227-R229, 16 R290) -/

/-- The context and core in which a soft error lies, and the coordinates that its record holds. -/
def State.errPlace (s : State) (site : ErrSite) : Option Nat × Nat × List Nat :=
  let of := fun (uid : Nat) => match s.group? uid with | some g => (some g.place.ctx, g.place.core) | none => (none, 0)
  match site with
  | .vreg u r l => ((of u).1, (of u).2, [r, l])
  | .sreg u r | .kreg u r => ((of u).1, (of u).2, [r])
  | .scratch c r o => ((s.rec? r).map LRec.ctx, c, [o])
  | .l1 c l => (none, c, [l])
  | .storeBuf c n => ((s.sb.find? (fun e => e.id == n)).map SbEntry.ctx, c, [n])
  | .tile c i e => (((s.tile? c i).bind (fun t => s.group? t.owner)).map (fun g => g.place.ctx), c, [i, e / 128, e % 128])
  | .slot c i e => (((s.slot? c i).bind (fun t => s.group? t.owner)).map (fun g => g.place.ctx), c, [i, e / 128, e % 128])
  | .msc n l => (none, 12 * n, [l])
  | .l2 n l => (none, 12 * n, [l])

/-- An uncorrectable error: the word is bad until it is written; a clean cache line is discarded. -/
def State.corrupt (s : State) (site : ErrSite) : State :=
  let mark := fun (uid : Nat) (r : RegRef) (l : Nat) => s.modGroup uid (fun g =>
    { g with regs := { g.regs with bad := if g.regs.bad.contains (r, l) then g.regs.bad else g.regs.bad ++ [(r, l)] } })
  match site with
  | .vreg u r l => if r < 128 ∧ l < 32 then mark u (.v r) l else s
  | .sreg u r => if r < 64 then mark u (.s r) 0 else s
  | .kreg u r => if 1 ≤ r ∧ r < 16 then mark u (.k r) 0 else s
  | .scratch c r o => { s with scratch := s.scratch.map (fun (x : Region) =>
      if x.core == c && x.launch == r && decide (o < x.size) then { x with bad := x.bad ++ [o] } else x) }
  | .l1 c l => s.dropFrom true c l
  | .storeBuf c n => { s with sb := s.sb.map (fun (e : SbEntry) => if e.core == c && e.id == n then { e with bad := true } else e) }
  | .tile c i e => { s with tiles := s.tiles.map (fun (t : TileSt) => if t.core == c && t.idx == i then { t with bad := t.bad ++ [e] } else t) }
  | .slot c i e => { s with oslots := s.oslots.map (fun (t : SlotSt) => if t.core == c && t.idx == i then { t with bad := t.bad ++ [e] } else t) }
  | .l2 n l =>
    let kept := s.tags.filter (fun (t : TagLine) => !(t.place == n && t.line == l && t.below.isNone))
    { s with tags := kept.map (fun (t : TagLine) => if t.place == n && t.line == l then { t with bad := true } else t) }
  | .msc n l => { s with tags := s.tags.filter (fun (t : TagLine) => !(t.place == 16 + n && t.line == l)) }

/-- SOFT_ERROR: a bit of a register, SRAM word, operand slot or tile is corrupted, to be corrected or reported when next
read; a single-bit error is corrected and recorded. The rule gives the record no moment: the model writes it as the error happens, also for
a word that nothing reads again (log entry 57). (05 R92, 13 R229, 16 R290) -/
def execSoftError (site : ErrSite) (single : Bool) (s : State) : Out State :=
  .next (if single then
      let p := s.errPlace site
      let c := p.1.bind s.ctx?
      s.errorRecord ⟨40, (c.map Ctx.world).getD 0, (c.map Ctx.vdid).getD 0, p.2.1, 0, 0, p.2.2.map (BitVec.ofNat 64),
        (c.map Ctx.conf).getD false⟩
    else s.corrupt site)

/-- The holder of a controller. -/
def State.ctlHolder (s : State) (ctl : Nat) : Nat := if ctl = 12 then s.localId 0 else s.localId (16 + ctl)

/-- DRAM_LINE_ALTERED: a DRAM line's ciphertext or stamp changes other than through its controller, which the world's audit
sweep then detects; `bytes` is what it decrypts to. (13 R227) -/
def execDramLineAltered (ctl line : Nat) (bytes : List (BitVec 8)) (stamp : Nat) (s : State) : Out State :=
  let h := s.ctlHolder ctl
  let l := s.lineAt h line
  let s := if l.summed then s else s.fold ctl l.world (s.base l (s.dramBytes h line)) 0
  let s := { s with tags := s.tags.filter (fun (t : TagLine) => !(t.place == 16 + ctl && t.line == lineBase line)) }
  let newer := s.tags.any (fun t => t.holder == h && t.line == lineBase line && t.below.isSome)
  let s : State := if newer then { s with tags := s.tags.map (fun (t : TagLine) =>
      if t.holder == h && t.line == lineBase line && t.below.isSome then { t with below := some (bytes.take 64) } else t) }
    else { s with mem := Memory.putN s.mem (memKey h (lineBase line)) (bytes.take 64) }
  .next (s.setLine { l with stamp := stamp, summed := true })

/-- AUDIT_INTERVAL_END: a world's audit interval ends and its controllers sweep and compare; on a difference the world's
contexts are reset with INTEGRITY. (R227, R228) -/
def execAuditIntervalEnd (ctl world : Nat) (s : State) : Out State :=
  .next (match s.world? world with
    | none => s
    | some w =>
      let now := fun (s : State) => (s.integ.find? (fun e => e.ctl == ctl && e.world == world)).getD ⟨ctl, world, 0, 0, 0⟩
      let e := now s
      if s.pace < w.since + (e.audits + 1) * w.audit * 10 ^ 9 then s
      else
        let h := s.ctlHolder ctl
        let mine := s.lines.filter (fun (l : LineMeta) => l.summed && decide (l.key / 2 ^ 64 = h) &&
          s.tagOf (l.key % 2 ^ 64) == world)
        let t := mine.foldl (fun (s : State) (l : LineMeta) => s.dramRead h (l.key % 2 ^ 64)) s
        let r := now t
        let rest := t.integ.filter (fun x => !(x.ctl == ctl && x.world == world))
        let t := { t with integ := ⟨ctl, world, r.hw - e.hw, 0, e.audits + 1⟩ :: rest }
        if r.hr = e.hw then t
        else
          let t := t.errorRecord ⟨32, world, 0, if ctl = 12 then 0 else 12 * ctl, 0, 0, [], false⟩
          let t := { t with worlds := t.worlds.map (fun (x : World) =>
            if x.id == world then { x with fails := min (x.fails + 1) (2 ^ 32 - 1) } else x) }
          ((t.ctxs.filter (fun c => c.world == world)).map Ctx.num).foldl (fun (s : State) n => s.resetContext n 32) t)

end Sys2Proof.Machine
end

