-- ==== Sys2Proof/Machine/Turn.lean ====
section
/-! DEFINITION. The turn of a group around the word it issues: what has come to hold before it, and results, watchdogs, merging,
counters and the barrel after it (spec 02 R35-R41, 04 R80, 20 R353, R357, R362). -/

namespace Sys2Proof.Machine

/-! ## Time (00 R6, 02 R37) -/

/-- Time passes: cycles of the core clock, whose length is a power-controller setting (22 R390). Register blocks are clear at
the latest 16 cycles after their release (05 R85). -/
def State.advance (s : State) (n : Nat) : State :=
  { s with
    cycle := s.cycle + n
    ps := s.ps + n * 10000 / s.pkg.clock
    clearing := s.clearing.filter (fun b => decide (s.cycle + n < b.due)) }

/-- The turn of the group's slot begins at the next cycle of its barrel position (R37). -/
def State.alignCycle (s : State) : State :=
  if s.cur.place.used then s.advance ((s.cur.place.slot % 8 + 8 - s.cycle % 8) % 8) else s.advance 1

/-- The order of turns: by barrel position, and within a cycle by core and quarter. -/
def turnKey (p : Place) : Nat := p.slot % 8 * 576 + p.core * 4 + p.slot / 8

/-- How far after the turn of one place that of another comes, from 1 to 4,608. -/
def turnDistance (a b : Place) : Nat := (turnKey b + 4608 - turnKey a - 1) % 4608 + 1

/-- The resident group whose turn comes next, none where there is no other (R37). -/
def State.nextGroup (s : State) : Option Group :=
  let d := fun (g : Group) => turnDistance s.cur.place g.place
  match s.others with
  | [] => none
  | g :: rest => some (rest.foldl (fun b x => if d x < d b then x else b) g)

/-- The cycles until its turn: none where it has the same barrel position (R37). -/
def State.untilNext (s : State) : Nat :=
  match s.nextGroup with
  | none => 8
  | some b =>
    let k := turnKey s.cur.place
    (k + turnDistance s.cur.place b.place) / 576 - k / 576

/-- The resident group whose turn comes next is at the turn, and time passes up to the cycle before it, in which events still
happen (R37, R39). -/
def State.nextTurn (s : State) : State :=
  let t := match s.nextGroup with
    | none => s
    | some b => { s with
        cur := b
        others := s.others.filter (fun (x : Group) => x.place.uid != b.place.uid) ++ (if s.cur.place.used then [s.cur] else []) }
  t.advance (s.untilNext - 1)

/-! ## Multi-turn results (02 R41, 06 R107, 20 R353) -/

/-- Results that are due before a cycle are complete, in the order in which they fall due. -/
def State.landBefore (s : State) (cycle : Nat) : State :=
  let ms := (byDue s.cur.acc.inflight).filter (fun m => decide (m.due < cycle))
  let s := ms.foldl State.completeResult s
  s.modAcc (fun a => { a with inflight := a.inflight.filter (fun m => decide (cycle ≤ m.due)) })

/-- An instruction that issues in the writing cycle reads the new value (R41); `fpflags` takes the bits of that cycle after the word:
the model's choice (log entry 51). -/
def State.showDue (s : State) : State :=
  ((byDue s.cur.acc.inflight).filter (fun m => decide (m.due = s.cycle))).foldl State.writeResult s

/-- Runs an operation on another resident group as if the turn were its. -/
def State.asGroup (s : State) (uid : Nat) (f : State → State) : State :=
  if s.cur.place.used && s.cur.place.uid == uid then f s
  else match s.others.find? (fun g => g.place.uid == uid) with
    | none => s
    | some g =>
      let t := f { s with cur := g }
      { t with cur := s.cur, others := t.others.map (fun x => if x.place.uid == uid then t.cur else x) }

/-- MULTI_TURN_COMPLETE: a multi-turn result is written in the cycle in which its flag is set; `n` counts the group's results
in flight from the earliest due. (R41) -/
def execMultiTurnComplete (uid n : Nat) (s : State) : Out State :=
  .next (s.asGroup uid (fun s => match (byDue s.cur.acc.inflight)[n]? with
    | none => s
    | some m =>
      if s.cycle ≤ m.due then s
      else (s.completeResult m).modAcc (fun a => { a with inflight := a.inflight.erase m })))

/-! ## Held splits (02 R39) -/

/-- The turn is taken for a split. -/
def State.forSplit (s : State) (i : Fin 4) : State := s.modCtl (fun c => { c with iss := i })

/-! ## The watchdog (20 R357) -/

/-- The waits that the watchdog counts. A push whose items are on their way is past its stop (log entry 32). -/
def Wait.counted : Wait → Bool
  | .none | .room | .answer .push _ _ _ => false
  | _ => true

/-- A split whose waiting cycles count at this turn. -/
def Ctl.watched (c : Ctl) (i : Fin 4) : Bool := c.runs i && (c.split i).wait.counted && decide ((c.split i).bundle.dly = 0)

/-- The limit of the group's context in cycles (R358). -/
def State.wdogLimit (s : State) : Nat := 2 ^ ((s.myCtx.map (fun c => bitsOf c.wdog.toNat 5 0)).getD 26)

/-- A split whose watchdog has reached the limit. -/
def State.expired (s : State) (i : Fin 4) : Bool :=
  s.cur.ctl.watched i && decide (s.wdogLimit ≤ (s.cur.ctl.split i).wdog)

/-- A waiting bundle first raises the deferred causes of the operations it waits for (10 R171); inside a handler they wait in
the queue and the bundle goes on (19 R328). -/
def State.settleHeld (s : State) (i : Fin 4) (kinds : OpKind → Bool) (before : Nat) (k : State → State) : State :=
  let s := s.forSplit i
  match s.takeDeferred kinds before with
  | ([], _) => k s
  | (es, t) => if s.cur.trap.inh then k (t.takeTraps es) else t.takeTraps es

/-- An object is under merge for a group, or its last round has ended in this very cycle (R39, 11 R189). -/
def State.stillMerging (s : State) (o : ObjEntry) : Bool := s.underMerge o || decide (o.ended = s.cycle)

/-- The entries of a `red` that folds where it stands, as the store buffer would hold them (11 R188, R191). -/
def State.foldNow (s : State) (op : HeldOp) : List SbEntry :=
  match op with
  | .store _ _ ret _ tree ws _ => ws.map (fun w =>
      ⟨0, s.cur.place.core, .group s.cur.place.uid s.nextId w.1.lane, s.myWorld, s.myVdid, s.cur.place.ctx, w.1.gva, w.1.fa, w.2.1, w.2.2,
        0, ret, tree, false, []⟩)
  | .load _ _ _ _ _ => []

/-- The `red` of an operator switch folds under its tag and is done (11 R191). -/
def State.foldSwitch (s : State) (op : HeldOp) : State :=
  let fl := match op with | .store _ _ _ _ _ _ fl => fl | _ => 0
  let s := (s.foldNow op).foldl (fun (s : State) (e : SbEntry) => match e.kind with
    | .fold obj _ who tag gva val =>
      let r := s.foldPartial obj e.core who s.cur.place.uid tag gva e.addr val
      r.1.raise r.2
    | _ => s) (s.raise fl)
  s.tally 4 1

/-- What a `red` that was held has to wait for now, as at its issue. -/
def State.redWaits (s : State) (op : HeldOp) : Option Wait :=
  match op with
  | .store .red _ _ _ _ ((_, _, .fold obj _ who tag _ _) :: _) _ => (redStall obj who tag s).map (fun w => w op)
  | _ => none

/-- A held access is performed: where a merge has begun meanwhile it waits for that, and while its buffer or count is full it goes on
waiting (14 R238, 11 R189, 20 R355). -/
def State.performHeld (s : State) (i : Fin 4) (op : HeldOp) : State :=
  let t := s.forSplit i
  let busy := if op.isRed then [] else (op.addrs.filterMap t.objOfFa).filter t.stillMerging
  let count := match op with | .load _ _ _ _ _ => s.cur.acc.ld | .store _ _ _ _ _ _ _ => s.cur.acc.st
  if busy.any t.owesRound then t.trapExact 4 0 0
  else match t.redWaits op, busy with
    | some w, _ => t.modSplit (fun sp => { sp with wait := w })
    | none, o :: _ => t.modSplit (fun sp => { sp with wait := .merge o.idx op })
    | none, [] => if 62 ≤ count || !t.sbRoom (t.entriesFor op) then s else (t.perform op).release i

/-- An operator switch goes on: the group's earlier `red`s fold, a merge under the old tag completes, the object enters UPDATE under the new
one, and the `red` folds (11 R191, R197). -/
def State.goSwitch (s : State) (i : Fin 4) (obj tag before : Nat) (op : HeldOp) : State :=
  let t := s.forSplit i
  match s.obj? obj with
  | none => t.trapExact 17 0 0
  | some o =>
    if o.st = .ownerLost then t.trapExact 15 ((op.addrs.head?).getD 0) 0
    else if !s.cur.redsDone before || (t.foldNow op).any (fun e => !t.drainable e || t.objRead obj e) then s
    else if o.st = .update ∧ o.tag ≠ tag then
      if t.owesRound o && o.isOpen then t.trapExact 4 0 0
      else if t.stillMerging o then s
      else
        let u := t.enterUpdate obj tag
        if (u.obj? obj).any (fun x => x.tag == tag) then (u.foldSwitch op).release i else u
    else if t.ownedAway o then t.enterUpdate obj tag
    else if o.isOpen && o.closed.contains s.cur.place.flat then s
    else (t.foldSwitch op).release i

/-- A held instruction completes where its condition holds (R39, 14 R239, 16 R270, 11 R192, R200, 17 R301, R303, 20 R360). -/
def State.completeHeld (s : State) (i : Fin 4) : State :=
  let p := s.cur.place
  if !s.cur.ctl.runs i then s
  else match (s.cur.ctl.split i).wait with
    | .fence acq rel scope b =>
      if (!acq || s.acqOk b) && (!rel || s.justBefore.relOk scope b) then
        s.settleHeld i (fun k => (acq && acqKinds k) || (rel && relKinds k)) b (fun s => s.release i)
      else s
    | .passed acq b t => if decide (t < s.cycle) && (!acq || s.acqOk b) then s.release i else s
    | .release scope b op => if s.justBefore.relOk scope b then s.performHeld i op else s
    | .merge o op => if (s.obj? o).any (s.forSplit i).stillMerging then s
      else if op.isRed then (s.obj? o).elim ((s.forSplit i).trapExact 17 0 0) (fun x =>
        if x.st = .ownerLost then (s.forSplit i).trapExact 15 ((op.addrs.head?).getD 0) 0 else s.performHeld i op)
      else s.performHeld i op
    | .switch obj tag b op => s.goSwitch i obj tag b op
    | .push d n first b items =>
      if s.justBefore.relOk 3 b then (match s.myCtx with
        | none => s
        | some c => (match (s.forSplit i).pushItems c d n first items with
          | (t, none) => t.release i
          | (t, some w) => t.modSplit (fun sp => { sp with wait := w })))
      else s
    | .zrel m => if s.unnamed s.cur m 0 then (s.freeItems p.uid p.core m 0).release i else s
    | .orel m => if s.unnamed s.cur 0 m then (s.freeItems p.uid p.core 0 m).release i else s
    | .answer .close d idx b =>
      if s.cur.redsDone b then
        let r := s.finishClose idx p.flat
        r.2.answer p.uid i d (BitVec.ofNat 64 r.1)
      else s
    | .answer .cobj d x b =>
      let o := s.obj? (x / 2)
      if !s.cur.redsDone b || o.any (fun o => o.isOpen || decide (o.ended = s.cycle)) then s
      else if o.any (fun o => o.st == ObjSt.update && o.away != []) then (o.map (fun o => s.askAway o [])).getD s
      else
        let r := s.finishSync (x / 2) (decide (x % 2 = 1))
        let t := r.2.2.answer p.uid i d (BitVec.ofNat 64 r.1)
        match r.2.1 with
        | some v => t.setSreg (d + 1) v
        | none => t
    | .answer .launch d raw b =>
      if s.justBefore.relOk (bitsOf raw 103 100) b then
        s.settleHeld i relKinds b (fun s => match s.finishLaunch raw with
          | (some v, t) => t.answer p.uid i d (BitVec.ofNat 64 v)
          | (none, t) => t)
      else s
    | .answer .push d b y =>
      if s.justBefore.relOk 3 b then (s.finishPush s.myPart y).answer p.uid i d (BitVec.ofNat 64 (y / 64)) else s
    | _ => s

/-! ## Before the word (19 R326, R331) -/

/-- An entry that waits in the trap queue while no handler runs is delivered (R326). -/
def State.deliverWaiting (s : State) : State :=
  if s.cur.trap.inh || s.cur.ctl.parked || s.cur.ctl.exited then s else s.deliver

/-- A group that resumes takes the cause that software gave back to it (R331). -/
def State.takeGiven (s : State) : State :=
  match s.cur.trap.pendAct with
  | none => s
  | some e =>
    if s.cur.ctl.parked || s.cur.ctl.exited then s
    else ((s.modTrap (fun t => { t with pendAct := none })).forSplit (Fin.ofNat 4 (bitsOf e.t0.toNat 31 30))).takeTraps [e]

/-- Everything that has come to hold by the cycle of the turn. -/
def State.startTurn (s : State) : State :=
  let s := s.alignCycle
  let s := (s.landBefore s.cycle).showDue
  let s := splitNums.foldl State.completeHeld s
  s.deliverWaiting.takeGiven

/-! ## Time-outs (20 R357) -/

/-- A split back at the first word of its bundle, waiting for nothing (04 R80). -/
def Split.rewound (sp : Split) : Split := sp.goto (if sp.bundle.active then sp.bundle.start else sp.pc)

/-- The arrival of a group at a barrier whose wait has timed out is taken back with its splits. -/
def State.leaveBar (s : State) (level : Nat) : State :=
  let at' := fun (sp : Split) => match sp.wait with | .bar l _ true => l == level | _ => false
  let s := match s.rec? s.cur.place.launch with
    | none => s
    | some r => { s with bars := s.bars.map (fun (b : Barrier) =>
        if b.launch == r.id && b.level == level && b.unit == unitOf r level s.cur.place.flat then
          { b with arrived := b.arrived - 1 } else b) }
  let s := (splitNums.filter (fun i => at' (s.cur.ctl.split i))).foldl State.refund s
  s.modCtl (fun c => { c with splits := c.splits.map (fun sp => if at' sp then sp.rewound else sp) })

/-- The kinds of operation whose deferred causes the bundle of a wait raises, and the point before which they were issued (10 R171). -/
def Wait.raises (w : Wait) (now : Nat) : (OpKind → Bool) × Nat := match w with
  | .waitc ld st cp => (fun k => (ld && k == .load) || (st && stKinds k) || (cp && k == .copy), now)
  | .fence a r _ b => (fun (k : OpKind) => (a && acqKinds k) || (r && relKinds k), b)
  | .bar _ nf false => (fun k => !nf && relKinds k, now)
  | .answer .launch _ _ b => (relKinds, b)
  | .exit _ _ _ => (fun _ => true, now)
  | _ => (fun _ => false, 0)

/-- The entries of a split that times out: the deferred causes that its bundle waits for, and last STALL_TIMEOUT (R357, 19 R327). -/
def State.timedOut (s : State) (i : Fin 4) : List TrapEntry × State :=
  let t := s.forSplit i
  let r := (s.cur.ctl.split i).wait.raises s.nextId
  let d := t.takeDeferred r.1 r.2
  (d.1 ++ [t.entry 5 t.bundlePc 0 t.bundlePc.toNat 0], d.2)

/-- STALL_TIMEOUT of every split whose watchdog has expired, in ascending split number, each at the bundle of its wait
(R357, 19 R327). -/
def State.timeOut (s : State) : State :=
  let is := splitNums.filter s.expired
  let (es, s) := is.foldl (fun (x : List TrapEntry × State) i =>
    let r := x.2.timedOut i
    (x.1 ++ r.1, r.2)) ([], s)
  let s := is.foldl (fun (s : State) i => match (s.cur.ctl.split i).wait with
    | .bar l _ true => s.leaveBar l
    | .push _ n first _ _ => s.cancelPush s.myPart n first
    | _ => s) s
  let s := (is.foldl State.refund s).modCtl (fun c => is.foldl (fun (c : Ctl) i => c.setSplit i (c.split i).rewound) c)
  match is with
  | [] => s
  | i :: _ => (s.forSplit i).takeTraps es

/-- STALL_TIMEOUT: a split's watchdog reaches its limit and traps. (R47) -/
def execStallTimeout (uid : Nat) (split : Fin 4) (s : State) : Out State :=
  .next (if s.cur.place.used && s.cur.place.uid == uid && s.expired split then s.timeOut else s)

/-! ## After the word -/

/-- DLY counts fall at each of the group's turns, but not for the split that issued (04 R77). -/
def Ctl.fallDly (c : Ctl) (issued : Option (Fin 4)) : Ctl :=
  splitNums.foldl (fun (c : Ctl) i =>
    if issued = some i then c
    else
      let sp := c.split i
      c.setSplit i { sp with bundle := { sp.bundle with dly := sp.bundle.dly - 1 } }) c

/-- The eight cycles to the next turn count for every waiting split (20 R357, R362). -/
def State.countWaits (s : State) : State :=
  let is := splitNums.filter s.cur.ctl.watched
  let s := s.modCtl (fun c => is.foldl (fun (c : Ctl) i => c.setSplit i { c.split i with wdog := (c.split i).wdog + 8 }) c)
  if is.isEmpty then s else s.tally 15 (8 * is.length)

/-- Two splits that merge: both at a bundle boundary of one address, neither the owner of a record (R35, 08 R138). -/
def Ctl.mergeable (c : Ctl) (i j : Fin 4) : Bool :=
  let a := c.split i
  let b := c.split j
  a.live && b.live && a.pc == b.pc && !a.bundle.active && !b.bundle.active && !a.wait.issued && !b.wait.issued &&
    !c.owns i && !c.owns j

/-- The lanes that a split has still to perform at a bundle (14 R237). -/
def Ctl.leftAt (c : Ctl) (i : Fin 4) (p : BitVec 48) : Option Word :=
  (c.unfinished.find? (fun u => u.1 == i && u.2.1 == p)).map (fun u => u.2.2)

/-- The lanes that a split has still to perform at the bundle at which it stands. -/
def Ctl.left (c : Ctl) (i : Fin 4) : Option Word := c.leftAt i (c.split i).pc

/-- Split `j` joins split `i`, which has the lower number (R35). -/
def Ctl.merge (c : Ctl) (i j : Fin 4) : Ctl :=
  let a := c.split i
  let b := c.split j
  let keep := decide (b.wait = .none) || (match a.wait with | .join _ _ _ | .exit _ _ _ => true | _ => false)
  let m : Split := { a with
    mask := a.mask ||| b.mask
    age := max a.age b.age
    acq := a.acq ++ b.acq
    wait := if keep then a.wait else b.wait
    wdog := if keep then a.wdog else b.wdog }
  let others := c.unfinished.filter (fun u => u.1 != i && u.1 != j)
  let mine := match c.left i, c.left j with
    | none, none => []
    | x, y => [(i, a.pc, (x.getD a.mask) ||| (y.getD b.mask))]
  { ((c.setSplit i m).setSplit j Split.free) with
    unfinished := mine ++ others
    handler := if c.handler = some j then some i else c.handler }

/-- Merging at the end of a turn (R35). -/
def Ctl.mergeAll (c : Ctl) : Ctl :=
  (splitNums.flatMap (fun i => (splitNums.filter (fun j => i < j)).map (fun j => (i, j)))).foldl
    (fun (c : Ctl) p => if c.mergeable p.1 p.2 then c.merge p.1 p.2 else c) c

/-- The end of a turn in which a split issued a word, or none did: results of this cycle, DLY counts, watchdogs, merging,
GROUP_CYCLES, and the turn of the next group, with events before it unless it comes in the same cycle (log entry 1). -/
def State.endTurn (s : State) (issued : Option (Fin 4)) : State :=
  let s := s.landBefore (s.cycle + 1)
  let s := s.modCtl (fun c => c.fallDly issued)
  let s := s.countWaits
  let s := s.modCtl Ctl.mergeAll
  let s := if s.cur.place.used then s.tally 14 8 else s
  { s.nextTurn with phase := if s.untilNext = 0 then .issue else .event 64 }

/-- GROUP_TURN: a group's turn comes and it issues one word or nothing. As an event of the agenda it is a turn in which no
word issues. (R37) -/
def execGroupTurn (s : State) : Out State := .next (s.startTurn.endTurn none)

end Sys2Proof.Machine
end

