-- ==== Sys2Proof/Machine/Dispatch.lean ====
section
/-! DEFINITION. What each instruction and each event does to the state: one arm per constructor of Instr. -/

namespace Sys2Proof.Machine

def exec (i : Instr) (s : State) : Host.Outcome State Fault Refusal :=
  match i with
  | .sadd x0 x1 x2 x3 => Sys2Proof.Machine.execSadd x0 x1 x2 x3 s
  | .ssub x0 x1 x2 x3 => Sys2Proof.Machine.execSsub x0 x1 x2 x3 s
  | .smullo x0 x1 x2 x3 => Sys2Proof.Machine.execSmullo x0 x1 x2 x3 s
  | .smulhiS x0 x1 x2 x3 => Sys2Proof.Machine.execSmulhiS x0 x1 x2 x3 s
  | .smulhiU x0 x1 x2 x3 => Sys2Proof.Machine.execSmulhiU x0 x1 x2 x3 s
  | .smad x0 x1 x2 x3 => Sys2Proof.Machine.execSmad x0 x1 x2 x3 s
  | .sminS x0 x1 x2 x3 => Sys2Proof.Machine.execSminS x0 x1 x2 x3 s
  | .sminU x0 x1 x2 x3 => Sys2Proof.Machine.execSminU x0 x1 x2 x3 s
  | .smaxS x0 x1 x2 x3 => Sys2Proof.Machine.execSmaxS x0 x1 x2 x3 s
  | .smaxU x0 x1 x2 x3 => Sys2Proof.Machine.execSmaxU x0 x1 x2 x3 s
  | .saddsS x0 x1 x2 x3 => Sys2Proof.Machine.execSaddsS x0 x1 x2 x3 s
  | .saddsU x0 x1 x2 x3 => Sys2Proof.Machine.execSaddsU x0 x1 x2 x3 s
  | .saddc x0 x1 x2 x3 => Sys2Proof.Machine.execSaddc x0 x1 x2 x3 s
  | .ssubb x0 x1 x2 x3 => Sys2Proof.Machine.execSsubb x0 x1 x2 x3 s
  | .sabs x0 x1 x2 => Sys2Proof.Machine.execSabs x0 x1 x2 s
  | .sneg x0 x1 x2 => Sys2Proof.Machine.execSneg x0 x1 x2 s
  | .sand x0 x1 x2 x3 => Sys2Proof.Machine.execSand x0 x1 x2 x3 s
  | .sor x0 x1 x2 x3 => Sys2Proof.Machine.execSor x0 x1 x2 x3 s
  | .sxor x0 x1 x2 x3 => Sys2Proof.Machine.execSxor x0 x1 x2 x3 s
  | .sandn x0 x1 x2 x3 => Sys2Proof.Machine.execSandn x0 x1 x2 x3 s
  | .snot x0 x1 x2 => Sys2Proof.Machine.execSnot x0 x1 x2 s
  | .sshl x0 x1 x2 x3 => Sys2Proof.Machine.execSshl x0 x1 x2 x3 s
  | .sshr x0 x1 x2 x3 => Sys2Proof.Machine.execSshr x0 x1 x2 x3 s
  | .ssar x0 x1 x2 x3 => Sys2Proof.Machine.execSsar x0 x1 x2 x3 s
  | .srot x0 x1 x2 x3 => Sys2Proof.Machine.execSrot x0 x1 x2 x3 s
  | .sclz x0 x1 x2 => Sys2Proof.Machine.execSclz x0 x1 x2 s
  | .spop x0 x1 x2 => Sys2Proof.Machine.execSpop x0 x1 x2 s
  | .sbrev x0 x1 x2 => Sys2Proof.Machine.execSbrev x0 x1 x2 s
  | .sbfeU x0 x1 x2 x3 => Sys2Proof.Machine.execSbfeU x0 x1 x2 x3 s
  | .sbfeS x0 x1 x2 x3 => Sys2Proof.Machine.execSbfeS x0 x1 x2 x3 s
  | .sbfi x0 x1 x2 x3 => Sys2Proof.Machine.execSbfi x0 x1 x2 x3 s
  | .sunpack x0 x1 x2 => Sys2Proof.Machine.execSunpack x0 x1 x2 s
  | .scmp x0 x1 x2 x3 x4 => Sys2Proof.Machine.execScmp x0 x1 x2 x3 x4 s
  | .smov x0 x1 x2 => Sys2Proof.Machine.execSmov x0 x1 x2 s
  | .sext8S x0 x1 x2 => Sys2Proof.Machine.execSext8S x0 x1 x2 s
  | .sext8U x0 x1 x2 => Sys2Proof.Machine.execSext8U x0 x1 x2 s
  | .sext16S x0 x1 x2 => Sys2Proof.Machine.execSext16S x0 x1 x2 s
  | .sext16U x0 x1 x2 => Sys2Proof.Machine.execSext16U x0 x1 x2 s
  | .slea x0 x1 x2 => Sys2Proof.Machine.execSlea x0 x1 x2 s
  | .ssel x0 x1 x2 x3 => Sys2Proof.Machine.execSsel x0 x1 x2 x3 s
  | .spack x0 x1 x2 x3 => Sys2Proof.Machine.execSpack x0 x1 x2 x3 s
  | .saddImm x0 x1 x2 => Sys2Proof.Machine.execSaddImm x0 x1 x2 s
  | .sandImm x0 x1 x2 => Sys2Proof.Machine.execSandImm x0 x1 x2 s
  | .sorImm x0 x1 x2 => Sys2Proof.Machine.execSorImm x0 x1 x2 s
  | .sxorImm x0 x1 x2 => Sys2Proof.Machine.execSxorImm x0 x1 x2 s
  | .sshlImm x0 x1 x2 => Sys2Proof.Machine.execSshlImm x0 x1 x2 s
  | .sshrImm x0 x1 x2 => Sys2Proof.Machine.execSshrImm x0 x1 x2 s
  | .ssarImm x0 x1 x2 => Sys2Proof.Machine.execSsarImm x0 x1 x2 s
  | .smovi x0 x1 => Sys2Proof.Machine.execSmovi x0 x1 s
  | .sdivS x0 x1 x2 x3 => Sys2Proof.Machine.execSdivS x0 x1 x2 x3 s
  | .sdivU x0 x1 x2 x3 => Sys2Proof.Machine.execSdivU x0 x1 x2 x3 s
  | .sremS x0 x1 x2 x3 => Sys2Proof.Machine.execSremS x0 x1 x2 x3 s
  | .sremU x0 x1 x2 x3 => Sys2Proof.Machine.execSremU x0 x1 x2 x3 s
  | .vadd x0 x1 x2 x3 => Sys2Proof.Machine.execVadd x0 x1 x2 x3 s
  | .vsub x0 x1 x2 x3 => Sys2Proof.Machine.execVsub x0 x1 x2 x3 s
  | .vmullo x0 x1 x2 x3 => Sys2Proof.Machine.execVmullo x0 x1 x2 x3 s
  | .vmulhiS x0 x1 x2 x3 => Sys2Proof.Machine.execVmulhiS x0 x1 x2 x3 s
  | .vmulhiU x0 x1 x2 x3 => Sys2Proof.Machine.execVmulhiU x0 x1 x2 x3 s
  | .vmad x0 x1 x2 x3 => Sys2Proof.Machine.execVmad x0 x1 x2 x3 s
  | .vminS x0 x1 x2 x3 => Sys2Proof.Machine.execVminS x0 x1 x2 x3 s
  | .vminU x0 x1 x2 x3 => Sys2Proof.Machine.execVminU x0 x1 x2 x3 s
  | .vmaxS x0 x1 x2 x3 => Sys2Proof.Machine.execVmaxS x0 x1 x2 x3 s
  | .vmaxU x0 x1 x2 x3 => Sys2Proof.Machine.execVmaxU x0 x1 x2 x3 s
  | .vaddsS x0 x1 x2 x3 => Sys2Proof.Machine.execVaddsS x0 x1 x2 x3 s
  | .vaddsU x0 x1 x2 x3 => Sys2Proof.Machine.execVaddsU x0 x1 x2 x3 s
  | .vabs x0 x1 x2 => Sys2Proof.Machine.execVabs x0 x1 x2 s
  | .vneg x0 x1 x2 => Sys2Proof.Machine.execVneg x0 x1 x2 s
  | .vsel x0 x1 x2 x3 => Sys2Proof.Machine.execVsel x0 x1 x2 x3 s
  | .vmov x0 x1 x2 => Sys2Proof.Machine.execVmov x0 x1 x2 s
  | .vand x0 x1 x2 x3 => Sys2Proof.Machine.execVand x0 x1 x2 x3 s
  | .vor x0 x1 x2 x3 => Sys2Proof.Machine.execVor x0 x1 x2 x3 s
  | .vxor x0 x1 x2 x3 => Sys2Proof.Machine.execVxor x0 x1 x2 x3 s
  | .vandn x0 x1 x2 x3 => Sys2Proof.Machine.execVandn x0 x1 x2 x3 s
  | .vnot x0 x1 x2 => Sys2Proof.Machine.execVnot x0 x1 x2 s
  | .vshl x0 x1 x2 x3 => Sys2Proof.Machine.execVshl x0 x1 x2 x3 s
  | .vshr x0 x1 x2 x3 => Sys2Proof.Machine.execVshr x0 x1 x2 x3 s
  | .vsar x0 x1 x2 x3 => Sys2Proof.Machine.execVsar x0 x1 x2 x3 s
  | .vrot x0 x1 x2 x3 => Sys2Proof.Machine.execVrot x0 x1 x2 x3 s
  | .vclz x0 x1 x2 => Sys2Proof.Machine.execVclz x0 x1 x2 s
  | .vpop x0 x1 x2 => Sys2Proof.Machine.execVpop x0 x1 x2 s
  | .vbrev x0 x1 x2 => Sys2Proof.Machine.execVbrev x0 x1 x2 s
  | .vbfeU x0 x1 x2 x3 => Sys2Proof.Machine.execVbfeU x0 x1 x2 x3 s
  | .vbfeS x0 x1 x2 x3 => Sys2Proof.Machine.execVbfeS x0 x1 x2 x3 s
  | .vbfi x0 x1 x2 x3 => Sys2Proof.Machine.execVbfi x0 x1 x2 x3 s
  | .vlea x0 x1 x2 x3 => Sys2Proof.Machine.execVlea x0 x1 x2 x3 s
  | .vcmp x0 x1 x2 x3 x4 => Sys2Proof.Machine.execVcmp x0 x1 x2 x3 x4 s
  | .vext8S x0 x1 x2 => Sys2Proof.Machine.execVext8S x0 x1 x2 s
  | .vext8U x0 x1 x2 => Sys2Proof.Machine.execVext8U x0 x1 x2 s
  | .vext16S x0 x1 x2 => Sys2Proof.Machine.execVext16S x0 x1 x2 s
  | .vext16U x0 x1 x2 => Sys2Proof.Machine.execVext16U x0 x1 x2 s
  | .vpack x0 x1 x2 x3 => Sys2Proof.Machine.execVpack x0 x1 x2 x3 s
  | .vunpack x0 x1 x2 => Sys2Proof.Machine.execVunpack x0 x1 x2 s
  | .vaddImm x0 x1 x2 => Sys2Proof.Machine.execVaddImm x0 x1 x2 s
  | .vandImm x0 x1 x2 => Sys2Proof.Machine.execVandImm x0 x1 x2 s
  | .vorImm x0 x1 x2 => Sys2Proof.Machine.execVorImm x0 x1 x2 s
  | .vxorImm x0 x1 x2 => Sys2Proof.Machine.execVxorImm x0 x1 x2 s
  | .vshlImm x0 x1 x2 => Sys2Proof.Machine.execVshlImm x0 x1 x2 s
  | .vshrImm x0 x1 x2 => Sys2Proof.Machine.execVshrImm x0 x1 x2 s
  | .vsarImm x0 x1 x2 => Sys2Proof.Machine.execVsarImm x0 x1 x2 s
  | .vmovi x0 x1 => Sys2Proof.Machine.execVmovi x0 x1 s
  | .vdivS x0 x1 x2 x3 => Sys2Proof.Machine.execVdivS x0 x1 x2 x3 s
  | .vdivU x0 x1 x2 x3 => Sys2Proof.Machine.execVdivU x0 x1 x2 x3 s
  | .vremS x0 x1 x2 x3 => Sys2Proof.Machine.execVremS x0 x1 x2 x3 s
  | .vremU x0 x1 x2 x3 => Sys2Proof.Machine.execVremU x0 x1 x2 x3 s
  | .vfadd x0 x1 x2 x3 => Sys2Proof.Machine.execVfadd x0 x1 x2 x3 s
  | .vfsub x0 x1 x2 x3 => Sys2Proof.Machine.execVfsub x0 x1 x2 x3 s
  | .vfmul x0 x1 x2 x3 => Sys2Proof.Machine.execVfmul x0 x1 x2 x3 s
  | .vfma x0 x1 x2 x3 => Sys2Proof.Machine.execVfma x0 x1 x2 x3 s
  | .vfms x0 x1 x2 x3 => Sys2Proof.Machine.execVfms x0 x1 x2 x3 s
  | .vfnma x0 x1 x2 x3 => Sys2Proof.Machine.execVfnma x0 x1 x2 x3 s
  | .vfminNum x0 x1 x2 x3 => Sys2Proof.Machine.execVfminNum x0 x1 x2 x3 s
  | .vfminProp x0 x1 x2 x3 => Sys2Proof.Machine.execVfminProp x0 x1 x2 x3 s
  | .vfmaxNum x0 x1 x2 x3 => Sys2Proof.Machine.execVfmaxNum x0 x1 x2 x3 s
  | .vfmaxProp x0 x1 x2 x3 => Sys2Proof.Machine.execVfmaxProp x0 x1 x2 x3 s
  | .vfabs x0 x1 x2 => Sys2Proof.Machine.execVfabs x0 x1 x2 s
  | .vfneg x0 x1 x2 => Sys2Proof.Machine.execVfneg x0 x1 x2 s
  | .vfscale x0 x1 x2 x3 => Sys2Proof.Machine.execVfscale x0 x1 x2 x3 s
  | .vfround x0 x1 x2 => Sys2Proof.Machine.execVfround x0 x1 x2 s
  | .vfclass x0 x1 x2 => Sys2Proof.Machine.execVfclass x0 x1 x2 s
  | .vfcmp x0 x1 x2 x3 x4 => Sys2Proof.Machine.execVfcmp x0 x1 x2 x3 x4 s
  | .vcvt x0 x1 x2 x3 => Sys2Proof.Machine.execVcvt x0 x1 x2 x3 s
  | .vpkE4m3 x0 x1 x2 x3 => Sys2Proof.Machine.execVpkE4m3 x0 x1 x2 x3 s
  | .vpkE5m2 x0 x1 x2 x3 => Sys2Proof.Machine.execVpkE5m2 x0 x1 x2 x3 s
  | .vpkIo4 x0 x1 x2 x3 => Sys2Proof.Machine.execVpkIo4 x0 x1 x2 x3 s
  | .vunpkE4m3 x0 x1 x2 x3 => Sys2Proof.Machine.execVunpkE4m3 x0 x1 x2 x3 s
  | .vunpkE5m2 x0 x1 x2 x3 => Sys2Proof.Machine.execVunpkE5m2 x0 x1 x2 x3 s
  | .vunpkIo4 x0 x1 x2 x3 => Sys2Proof.Machine.execVunpkIo4 x0 x1 x2 x3 s
  | .vhaddF16 x0 x1 x2 x3 => Sys2Proof.Machine.execVhaddF16 x0 x1 x2 x3 s
  | .vhaddBf16 x0 x1 x2 x3 => Sys2Proof.Machine.execVhaddBf16 x0 x1 x2 x3 s
  | .vhmulF16 x0 x1 x2 x3 => Sys2Proof.Machine.execVhmulF16 x0 x1 x2 x3 s
  | .vhmulBf16 x0 x1 x2 x3 => Sys2Proof.Machine.execVhmulBf16 x0 x1 x2 x3 s
  | .vhfmaF16 x0 x1 x2 x3 => Sys2Proof.Machine.execVhfmaF16 x0 x1 x2 x3 s
  | .vhfmaBf16 x0 x1 x2 x3 => Sys2Proof.Machine.execVhfmaBf16 x0 x1 x2 x3 s
  | .vfrcp x0 x1 x2 => Sys2Proof.Machine.execVfrcp x0 x1 x2 s
  | .vfrsq x0 x1 x2 => Sys2Proof.Machine.execVfrsq x0 x1 x2 s
  | .vfsqrt x0 x1 x2 => Sys2Proof.Machine.execVfsqrt x0 x1 x2 s
  | .vfexp2 x0 x1 x2 => Sys2Proof.Machine.execVfexp2 x0 x1 x2 s
  | .vflog2 x0 x1 x2 => Sys2Proof.Machine.execVflog2 x0 x1 x2 s
  | .vfsin x0 x1 x2 => Sys2Proof.Machine.execVfsin x0 x1 x2 s
  | .vfcos x0 x1 x2 => Sys2Proof.Machine.execVfcos x0 x1 x2 s
  | .vfdot2Bf16 x0 x1 x2 x3 => Sys2Proof.Machine.execVfdot2Bf16 x0 x1 x2 x3 s
  | .vfdot4Fp8 x0 x1 x2 x3 => Sys2Proof.Machine.execVfdot4Fp8 x0 x1 x2 x3 s
  | .vshuf x0 x1 x2 x3 => Sys2Proof.Machine.execVshuf x0 x1 x2 x3 s
  | .vlrot x0 x1 x2 x3 => Sys2Proof.Machine.execVlrot x0 x1 x2 x3 s
  | .vscan x0 x1 x2 x3 => Sys2Proof.Machine.execVscan x0 x1 x2 x3 s
  | .vscanExcl x0 x1 x2 x3 => Sys2Proof.Machine.execVscanExcl x0 x1 x2 x3 s
  | .vred x0 x1 x2 x3 => Sys2Proof.Machine.execVred x0 x1 x2 x3 s
  | .vbcast x0 x1 x2 x3 => Sys2Proof.Machine.execVbcast x0 x1 x2 x3 s
  | .kand x0 x1 x2 => Sys2Proof.Machine.execKand x0 x1 x2 s
  | .kor x0 x1 x2 => Sys2Proof.Machine.execKor x0 x1 x2 s
  | .kxor x0 x1 x2 => Sys2Proof.Machine.execKxor x0 x1 x2 s
  | .knot x0 x1 => Sys2Proof.Machine.execKnot x0 x1 s
  | .kmov x0 x1 => Sys2Proof.Machine.execKmov x0 x1 s
  | .kpop x0 x1 => Sys2Proof.Machine.execKpop x0 x1 s
  | .kfirst x0 x1 => Sys2Proof.Machine.execKfirst x0 x1 s
  | .vballot x0 x1 => Sys2Proof.Machine.execVballot x0 x1 s
  | .vrngRd x0 => Sys2Proof.Machine.execVrngRd x0 s
  | .vrngSeed x0 x1 x2 => Sys2Proof.Machine.execVrngSeed x0 x1 x2 s
  | .vrngStep x0 => Sys2Proof.Machine.execVrngStep x0 s
  | .brZ x0 x1 => Sys2Proof.Machine.execBrZ x0 x1 s
  | .brNz x0 x1 => Sys2Proof.Machine.execBrNz x0 x1 s
  | .brLt x0 x1 => Sys2Proof.Machine.execBrLt x0 x1 s
  | .brGe x0 x1 => Sys2Proof.Machine.execBrGe x0 x1 s
  | .call x0 x1 => Sys2Proof.Machine.execCall x0 x1 s
  | .jmp x0 => Sys2Proof.Machine.execJmp x0 s
  | .brkAny x0 x1 => Sys2Proof.Machine.execBrkAny x0 x1 s
  | .brkNone x0 x1 => Sys2Proof.Machine.execBrkNone x0 x1 s
  | .brd x0 x1 => Sys2Proof.Machine.execBrd x0 x1 s
  | .mark x0 => Sys2Proof.Machine.execMark x0 s
  | .ret x0 => Sys2Proof.Machine.execRet x0 s
  | .jmpReg x0 => Sys2Proof.Machine.execJmpReg x0 s
  | .callReg x0 x1 => Sys2Proof.Machine.execCallReg x0 x1 s
  | .sld x0 x1 x2 x3 x4 => Sys2Proof.Machine.execSld x0 x1 x2 x3 x4 s
  | .sst x0 x1 x2 x3 x4 => Sys2Proof.Machine.execSst x0 x1 x2 x3 x4 s
  | .vld x0 x1 x2 x3 x4 => Sys2Proof.Machine.execVld x0 x1 x2 x3 x4 s
  | .vst x0 x1 x2 x3 x4 => Sys2Proof.Machine.execVst x0 x1 x2 x3 x4 s
  | .vldg x0 x1 x2 x3 x4 => Sys2Proof.Machine.execVldg x0 x1 x2 x3 x4 s
  | .vsts x0 x1 x2 x3 x4 => Sys2Proof.Machine.execVsts x0 x1 x2 x3 x4 s
  | .spld x0 x1 x2 x3 x4 => Sys2Proof.Machine.execSpld x0 x1 x2 x3 x4 s
  | .spst x0 x1 x2 x3 => Sys2Proof.Machine.execSpst x0 x1 x2 x3 s
  | .cld x0 x1 x2 x3 x4 => Sys2Proof.Machine.execCld x0 x1 x2 x3 x4 s
  | .atomScalar x0 x1 x2 x3 x4 => Sys2Proof.Machine.execAtomScalar x0 x1 x2 x3 x4 s
  | .atomVector x0 x1 x2 x3 x4 => Sys2Proof.Machine.execAtomVector x0 x1 x2 x3 x4 s
  | .red x0 x1 x2 => Sys2Proof.Machine.execRed x0 x1 x2 s
  | .redClose x0 x1 => Sys2Proof.Machine.execRedClose x0 x1 s
  | .fenceRel x0 => Sys2Proof.Machine.execFenceRel x0 s
  | .fenceAr x0 => Sys2Proof.Machine.execFenceAr x0 s
  | .cp x0 x1 x2 x3 x4 => Sys2Proof.Machine.execCp x0 x1 x2 x3 x4 s
  | .cpFill x0 x1 x2 => Sys2Proof.Machine.execCpFill x0 x1 x2 s
  | .cpT x0 x1 x2 => Sys2Proof.Machine.execCpT x0 x1 x2 s
  | .stMc x0 x1 x2 => Sys2Proof.Machine.execStMc x0 x1 x2 s
  | .pf x0 x1 x2 => Sys2Proof.Machine.execPf x0 x1 x2 s
  | .zclaim x0 x1 => Sys2Proof.Machine.execZclaim x0 x1 s
  | .zrel x0 => Sys2Proof.Machine.execZrel x0 s
  | .zzero x0 => Sys2Proof.Machine.execZzero x0 s
  | .oclaim x0 x1 => Sys2Proof.Machine.execOclaim x0 x1 s
  | .orel x0 => Sys2Proof.Machine.execOrel x0 s
  | .oload x0 x1 x2 => Sys2Proof.Machine.execOload x0 x1 x2 s
  | .mmul x0 x1 x2 => Sys2Proof.Machine.execMmul x0 x1 x2 s
  | .mloop x0 x1 x2 x3 => Sys2Proof.Machine.execMloop x0 x1 x2 x3 s
  | .mdrain x0 x1 x2 x3 => Sys2Proof.Machine.execMdrain x0 x1 x2 x3 s
  | .mfence x0 => Sys2Proof.Machine.execMfence x0 s
  | .mwait x0 => Sys2Proof.Machine.execMwait x0 s
  | .mstat x0 => Sys2Proof.Machine.execMstat x0 s
  | .tinv x0 x1 x2 x3 => Sys2Proof.Machine.execTinv x0 x1 x2 x3 s
  | .tprobe x0 x1 x2 => Sys2Proof.Machine.execTprobe x0 x1 x2 s
  | .rteAnn x0 x1 x2 => Sys2Proof.Machine.execRteAnn x0 x1 x2 s
  | .rteWd x0 x1 x2 => Sys2Proof.Machine.execRteWd x0 x1 x2 s
  | .rteRole x0 x1 x2 => Sys2Proof.Machine.execRteRole x0 x1 x2 s
  | .rteQ x0 x1 x2 => Sys2Proof.Machine.execRteQ x0 x1 x2 s
  | .rteSync x0 x1 => Sys2Proof.Machine.execRteSync x0 x1 s
  | .cobjDecl x0 x1 x2 => Sys2Proof.Machine.execCobjDecl x0 x1 x2 s
  | .cobjDrop x0 x1 => Sys2Proof.Machine.execCobjDrop x0 x1 s
  | .cobjSync x0 x1 => Sys2Proof.Machine.execCobjSync x0 x1 s
  | .cobjSyncShared x0 x1 => Sys2Proof.Machine.execCobjSyncShared x0 x1 s
  | .cobjReclaim x0 x1 => Sys2Proof.Machine.execCobjReclaim x0 x1 s
  | .tdtSet x0 x1 x2 => Sys2Proof.Machine.execTdtSet x0 x1 x2 s
  | .tdtGet x0 x1 x2 => Sys2Proof.Machine.execTdtGet x0 x1 x2 s
  | .tdtDrop x0 => Sys2Proof.Machine.execTdtDrop x0 s
  | .treeSet x0 x1 x2 => Sys2Proof.Machine.execTreeSet x0 x1 x2 s
  | .launch x0 x1 => Sys2Proof.Machine.execLaunch x0 x1 s
  | .wlPush x0 x1 x2 => Sys2Proof.Machine.execWlPush x0 x1 x2 s
  | .wlPop x0 x1 x2 x3 => Sys2Proof.Machine.execWlPop x0 x1 x2 x3 s
  | .wlDone x0 => Sys2Proof.Machine.execWlDone x0 s
  | .tierRec x0 x1 x2 => Sys2Proof.Machine.execTierRec x0 x1 x2 s
  | .tierHintUp x0 x1 x2 => Sys2Proof.Machine.execTierHintUp x0 x1 x2 s
  | .tierHintDown x0 x1 x2 => Sys2Proof.Machine.execTierHintDown x0 x1 x2 s
  | .tierQ x0 x1 => Sys2Proof.Machine.execTierQ x0 x1 s
  | .waitc x0 x1 x2 => Sys2Proof.Machine.execWaitc x0 x1 x2 s
  | .waitF x0 => Sys2Proof.Machine.execWaitF x0 s
  | .bar x0 x1 => Sys2Proof.Machine.execBar x0 x1 s
  | .pcrd x0 x1 => Sys2Proof.Machine.execPcrd x0 x1 s
  | .trap x0 => Sys2Proof.Machine.execTrap x0 s
  | .rcp x0 => Sys2Proof.Machine.execRcp x0 s
  | .sysrd x0 x1 => Sys2Proof.Machine.execSysrd x0 x1 s
  | .syswr x0 x1 => Sys2Proof.Machine.execSyswr x0 x1 s
  | .halt x0 x1 => Sys2Proof.Machine.execHalt x0 x1 s
  | .hintLit x0 => Sys2Proof.Machine.execHintLit x0 s
  | .hintLith x0 => Sys2Proof.Machine.execHintLith x0 s
  | .hintDly x0 => Sys2Proof.Machine.execHintDly x0 s
  | .hintFlg x0 => Sys2Proof.Machine.execHintFlg x0 s
  | .hintRnd x0 x1 x2 => Sys2Proof.Machine.execHintRnd x0 x1 x2 s
  | .hintScp x0 x1 => Sys2Proof.Machine.execHintScp x0 x1 s
  | .hintNop x0 x1 => Sys2Proof.Machine.execHintNop x0 x1 s
  | .nop => Sys2Proof.Machine.execNop s
  | .join => Sys2Proof.Machine.execJoin s
  | .exit => Sys2Proof.Machine.execExit s
  | .mresume => Sys2Proof.Machine.execMresume s
  | .mresumeAbandon => Sys2Proof.Machine.execMresumeAbandon s
  | .tret => Sys2Proof.Machine.execTret s
  | .yield => Sys2Proof.Machine.execYield s
  | .fenceAcq0 => Sys2Proof.Machine.execFenceAcq0 s
  | .fenceAcq1 => Sys2Proof.Machine.execFenceAcq1 s
  | .fenceAcq2 => Sys2Proof.Machine.execFenceAcq2 s
  | .fenceAcq3 => Sys2Proof.Machine.execFenceAcq3 s
  | .fenceAcq4 => Sys2Proof.Machine.execFenceAcq4 s
  | .fenceAcq5 => Sys2Proof.Machine.execFenceAcq5 s
  | .fenceAcq6 => Sys2Proof.Machine.execFenceAcq6 s
  | .fenceAcq7 => Sys2Proof.Machine.execFenceAcq7 s
  | .fenceAcq8 => Sys2Proof.Machine.execFenceAcq8 s
  | .fenceAcq9 => Sys2Proof.Machine.execFenceAcq9 s
  | .fenceAcq10 => Sys2Proof.Machine.execFenceAcq10 s
  | .fenceAcq11 => Sys2Proof.Machine.execFenceAcq11 s
  | .fenceAcq12 => Sys2Proof.Machine.execFenceAcq12 s
  | .fenceAcq13 => Sys2Proof.Machine.execFenceAcq13 s
  | .fenceAcq14 => Sys2Proof.Machine.execFenceAcq14 s
  | .fenceAcq15 => Sys2Proof.Machine.execFenceAcq15 s
  | .hintMsk0 => Sys2Proof.Machine.execHintMsk0 s
  | .hintMsk1 => Sys2Proof.Machine.execHintMsk1 s
  | .hintMsk2 => Sys2Proof.Machine.execHintMsk2 s
  | .hintMsk3 => Sys2Proof.Machine.execHintMsk3 s
  | .hintMsk4 => Sys2Proof.Machine.execHintMsk4 s
  | .hintMsk5 => Sys2Proof.Machine.execHintMsk5 s
  | .hintMsk6 => Sys2Proof.Machine.execHintMsk6 s
  | .hintMsk7 => Sys2Proof.Machine.execHintMsk7 s
  | .hintMsk8 => Sys2Proof.Machine.execHintMsk8 s
  | .hintMsk9 => Sys2Proof.Machine.execHintMsk9 s
  | .hintMsk10 => Sys2Proof.Machine.execHintMsk10 s
  | .hintMsk11 => Sys2Proof.Machine.execHintMsk11 s
  | .hintMsk12 => Sys2Proof.Machine.execHintMsk12 s
  | .hintMsk13 => Sys2Proof.Machine.execHintMsk13 s
  | .hintMsk14 => Sys2Proof.Machine.execHintMsk14 s
  | .hintMsk15 => Sys2Proof.Machine.execHintMsk15 s
  | .hintRet0 => Sys2Proof.Machine.execHintRet0 s
  | .hintRet1 => Sys2Proof.Machine.execHintRet1 s
  | .hintRet2 => Sys2Proof.Machine.execHintRet2 s
  | .hintRet3 => Sys2Proof.Machine.execHintRet3 s
  | .groupTurn => Sys2Proof.Machine.execGroupTurn s
  | .multiTurnComplete x0 x1 => Sys2Proof.Machine.execMultiTurnComplete x0 x1 s
  | .blockClearComplete x0 => Sys2Proof.Machine.execBlockClearComplete x0 s
  | .groupRelease x0 => Sys2Proof.Machine.execGroupRelease x0 s
  | .stallTimeout x0 x1 => Sys2Proof.Machine.execStallTimeout x0 x1 s
  | .hurdlePass x0 => Sys2Proof.Machine.execHurdlePass x0 s
  | .groupPlacement x0 x1 => Sys2Proof.Machine.execGroupPlacement x0 x1 s
  | .gangAgeExpire x0 => Sys2Proof.Machine.execGangAgeExpire x0 s
  | .recordDone x0 => Sys2Proof.Machine.execRecordDone x0 s
  | .completionStore x0 => Sys2Proof.Machine.execCompletionStore x0 s
  | .translationWalk x0 x1 x2 x3 => Sys2Proof.Machine.execTranslationWalk x0 x1 x2 x3 s
  | .tinvComplete x0 => Sys2Proof.Machine.execTinvComplete x0 s
  | .storeBufferDrain x0 => Sys2Proof.Machine.execStoreBufferDrain x0 s
  | .writeApply x0 => Sys2Proof.Machine.execWriteApply x0 s
  | .writeReadable x0 => Sys2Proof.Machine.execWriteReadable x0 s
  | .applyNotice x0 => Sys2Proof.Machine.execApplyNotice x0 s
  | .echoReceive x0 => Sys2Proof.Machine.execEchoReceive x0 s
  | .fillWrite x0 => Sys2Proof.Machine.execFillWrite x0 s
  | .echoAckReceive x0 => Sys2Proof.Machine.execEchoAckReceive x0 s
  | .echoDeadline x0 => Sys2Proof.Machine.execEchoDeadline x0 s
  | .leaseRenewal x0 => Sys2Proof.Machine.execLeaseRenewal x0 s
  | .renewalReceive x0 => Sys2Proof.Machine.execRenewalReceive x0 s
  | .leaseEnd x0 x1 => Sys2Proof.Machine.execLeaseEnd x0 x1 s
  | .readRequest x0 => Sys2Proof.Machine.execReadRequest x0 s
  | .refusalReroute x0 => Sys2Proof.Machine.execRefusalReroute x0 s
  | .loadComplete x0 => Sys2Proof.Machine.execLoadComplete x0 s
  | .storeResponse x0 => Sys2Proof.Machine.execStoreResponse x0 s
  | .invalidate x0 => Sys2Proof.Machine.execInvalidate x0 s
  | .relayReceive x0 x1 => Sys2Proof.Machine.execRelayReceive x0 x1 s
  | .relayRefusal x0 x1 x2 => Sys2Proof.Machine.execRelayRefusal x0 x1 x2 s
  | .routerAnswer x0 x1 => Sys2Proof.Machine.execRouterAnswer x0 x1 s
  | .rteSyncDone x0 x1 => Sys2Proof.Machine.execRteSyncDone x0 x1 s
  | .holderAbsent x0 x1 => Sys2Proof.Machine.execHolderAbsent x0 x1 s
  | .cobjDirectoryRequest x0 x1 => Sys2Proof.Machine.execCobjDirectoryRequest x0 x1 s
  | .partialFold x0 x1 x2 => Sys2Proof.Machine.execPartialFold x0 x1 x2 s
  | .mergeChildArrive x0 x1 => Sys2Proof.Machine.execMergeChildArrive x0 x1 s
  | .mergeNodeTimeout x0 x1 x2 => Sys2Proof.Machine.execMergeNodeTimeout x0 x1 x2 s
  | .snoopRetry x0 => Sys2Proof.Machine.execSnoopRetry x0 s
  | .snoopTimeout x0 => Sys2Proof.Machine.execSnoopTimeout x0 s
  | .multicastForward x0 x1 => Sys2Proof.Machine.execMulticastForward x0 x1 s
  | .auditIntervalEnd x0 x1 => Sys2Proof.Machine.execAuditIntervalEnd x0 x1 s
  | .copyStart x0 => Sys2Proof.Machine.execCopyStart x0 s
  | .copyComplete x0 => Sys2Proof.Machine.execCopyComplete x0 s
  | .copyFault x0 => Sys2Proof.Machine.execCopyFault x0 s
  | .matrixCommandComplete x0 => Sys2Proof.Machine.execMatrixCommandComplete x0 s
  | .matrixCommandFault x0 => Sys2Proof.Machine.execMatrixCommandFault x0 s
  | .ringKick x0 => Sys2Proof.Machine.execRingKick x0 s
  | .ringReadSlot x0 => Sys2Proof.Machine.execRingReadSlot x0 s
  | .ringRetry x0 => Sys2Proof.Machine.execRingRetry x0 s
  | .contextSwitchOut x0 => Sys2Proof.Machine.execContextSwitchOut x0 s
  | .tierMoveStart => Sys2Proof.Machine.execTierMoveStart s
  | .tierAnnounceAnswer x0 x1 => Sys2Proof.Machine.execTierAnnounceAnswer x0 x1 s
  | .tierFillDone x0 => Sys2Proof.Machine.execTierFillDone x0 s
  | .tierHandoverAnswer x0 x1 => Sys2Proof.Machine.execTierHandoverAnswer x0 x1 s
  | .tierMoveEnd x0 => Sys2Proof.Machine.execTierMoveEnd x0 s
  | .tierFaultOffer x0 => Sys2Proof.Machine.execTierFaultOffer x0 s
  | .announcementRequest x0 x1 x2 x3 => Sys2Proof.Machine.execAnnouncementRequest x0 x1 x2 x3 s
  | .announcementTimeout x0 => Sys2Proof.Machine.execAnnouncementTimeout x0 s
  | .faultRecordOffer x0 => Sys2Proof.Machine.execFaultRecordOffer x0 s
  | .longParkSwitchout x0 x1 => Sys2Proof.Machine.execLongParkSwitchout x0 x1 s
  | .sliceEnd x0 => Sys2Proof.Machine.execSliceEnd x0 s
  | .graceEnd x0 => Sys2Proof.Machine.execGraceEnd x0 s
  | .deadlineExpire x0 => Sys2Proof.Machine.execDeadlineExpire x0 s
  | .resetComplete x0 => Sys2Proof.Machine.execResetComplete x0 s
  | .contextResident x0 => Sys2Proof.Machine.execContextResident x0 s
  | .flitReceive x0 x1 x2 => Sys2Proof.Machine.execFlitReceive x0 x1 x2 s
  | .laneSpare x0 x1 => Sys2Proof.Machine.execLaneSpare x0 x1 s
  | .linkFail x0 x1 => Sys2Proof.Machine.execLinkFail x0 x1 s
  | .linkUp x0 x1 x2 => Sys2Proof.Machine.execLinkUp x0 x1 x2 s
  | .sessionRekey x0 x1 => Sys2Proof.Machine.execSessionRekey x0 x1 s
  | .hostSnoop x0 x1 => Sys2Proof.Machine.execHostSnoop x0 x1 s
  | .hostMemRequest x0 => Sys2Proof.Machine.execHostMemRequest x0 s
  | .powerOn x0 x1 => Sys2Proof.Machine.execPowerOn x0 x1 s
  | .attest x0 => Sys2Proof.Machine.execAttest x0 s
  | .worldCreate x0 => Sys2Proof.Machine.execWorldCreate x0 s
  | .worldGrant x0 => Sys2Proof.Machine.execWorldGrant x0 s
  | .worldRevoke x0 => Sys2Proof.Machine.execWorldRevoke x0 s
  | .worldDestroy x0 => Sys2Proof.Machine.execWorldDestroy x0 s
  | .partSet x0 => Sys2Proof.Machine.execPartSet x0 s
  | .ctxCreate x0 => Sys2Proof.Machine.execCtxCreate x0 s
  | .ctxDestroy x0 => Sys2Proof.Machine.execCtxDestroy x0 s
  | .ctxPreempt x0 => Sys2Proof.Machine.execCtxPreempt x0 s
  | .ringSet x0 => Sys2Proof.Machine.execRingSet x0 s
  | .ringKey x0 => Sys2Proof.Machine.execRingKey x0 s
  | .powerCompare x0 x1 x2 x3 => Sys2Proof.Machine.execPowerCompare x0 x1 x2 x3 s
  | .trayRemoveRequest => Sys2Proof.Machine.execTrayRemoveRequest s
  | .trayCancel => Sys2Proof.Machine.execTrayCancel s
  | .trayQuiesce => Sys2Proof.Machine.execTrayQuiesce s
  | .trayPowerOff => Sys2Proof.Machine.execTrayPowerOff s
  | .trayInsert => Sys2Proof.Machine.execTrayInsert s
  | .wearUpdate x0 x1 x2 x3 => Sys2Proof.Machine.execWearUpdate x0 x1 x2 x3 s
  | .partDescWrite x0 x1 => Sys2Proof.Machine.execPartDescWrite x0 x1 s
  | .tqWrite x0 x1 => Sys2Proof.Machine.execTqWrite x0 x1 s
  | .rteCostWrite x0 => Sys2Proof.Machine.execRteCostWrite x0 s
  | .cobjQWrite x0 x1 => Sys2Proof.Machine.execCobjQWrite x0 x1 s
  | .wlCfgWrite x0 x1 x2 => Sys2Proof.Machine.execWlCfgWrite x0 x1 x2 s
  | .wlReset x0 x1 => Sys2Proof.Machine.execWlReset x0 x1 s
  | .ringBaseWrite x0 x1 => Sys2Proof.Machine.execRingBaseWrite x0 x1 s
  | .ringCtlWrite x0 x1 => Sys2Proof.Machine.execRingCtlWrite x0 x1 s
  | .ringEnable x0 x1 => Sys2Proof.Machine.execRingEnable x0 x1 s
  | .ringDisable x0 => Sys2Proof.Machine.execRingDisable x0 s
  | .tierCfgWrite x0 => Sys2Proof.Machine.execTierCfgWrite x0 s
  | .fqDone x0 x1 x2 x3 => Sys2Proof.Machine.execFqDone x0 x1 x2 x3 s
  | .erqLostClear => Sys2Proof.Machine.execErqLostClear s
  | .wdogWrite x0 x1 => Sys2Proof.Machine.execWdogWrite x0 x1 s
  | .pcclr x0 x1 => Sys2Proof.Machine.execPcclr x0 x1 s
  | .pwrCapWrite x0 => Sys2Proof.Machine.execPwrCapWrite x0 s
  | .sysregWrite x0 x1 => Sys2Proof.Machine.execSysregWrite x0 x1 s
  | .illegalOpcode x0 => Sys2Proof.Machine.execIllegalOpcode x0 s
  | .softError x0 x1 => Sys2Proof.Machine.execSoftError x0 x1 s
  | .dramLineAltered x0 x1 x2 x3 => Sys2Proof.Machine.execDramLineAltered x0 x1 x2 x3 s
  | .snoopReceive x0 => Sys2Proof.Machine.execSnoopReceive x0 s
  | .snoopAnswer x0 => Sys2Proof.Machine.execSnoopAnswer x0 s
  | .itemClearComplete x0 x1 x2 => Sys2Proof.Machine.execItemClearComplete x0 x1 x2 s
  | .tierFillRead x0 => Sys2Proof.Machine.execTierFillRead x0 s
  | .mailboxBadCmd x0 => Sys2Proof.Machine.execMailboxBadCmd x0 s

end Sys2Proof.Machine
end

