-- ==== Sys2Proof/Machine/Cycle.lean ====
section
/-! DEFINITION. Fetching and issuing a word, choosing the split that issues, and the events of the hardware between turns
(spec 02 R36-R39, 04 R64, R65, R80; log entries 1, 2, 6). -/

namespace Sys2Proof.Machine

/-! ## Fetch (04 R64, R65) -/

/-- What became of a fetch. -/
inductive Fetched
  | word (s : State) (w : Word)
  /-- The fetch faulted and the group parks at the bundle. -/
  | park (s : State) (m : Miss)
  /-- It found no route, or a line that is not the world's, is poisoned or has a bad only copy: an exact trap with the fabric
  address. -/
  | trap (cause fa : Nat)

/-- The holder from which a die reads an instruction word: the one that reads go to, or the primary where that one serves no
read now (10 R162, R170). -/
def State.fetchHolder (s : State) (core fa : Nat) : Option Nat :=
  let r := s.dieRouter core
  let prim := (s.routeWrite r fa []).map RtHolder.holder
  match s.routeRead r fa [] with
  | none => none
  | some h => match s.holderState h.holder fa with
    | some st =>
      if st.st == HState.primary || (st.st == HState.replica && decide (s.pace < st.leaseEnd)) then some h.holder else prim
    | none => if h.role == Role.primary then some h.holder else prim

/-- The word at the PC of the issuing split, through translation with execute permission at the group's level. -/
def State.fetch (s : State) : Fetched :=
  match s.myCtx with
  | none => .word s 0
  | some c =>
    let core := s.cur.place.core
    match s.translate c core s.pc.toNat .exec s.cur.trap.pl with
    | (.fault f, t) => .park t (.fault f)
    | (.far i, t) => .park t (.far i)
    | (.ok x, t) => match t.fetchHolder core x.fa with
      | none => .trap 13 x.fa
      | some h =>
        if !t.worldOk h x.fa c.world || (t.lineAt h x.fa).poison then .trap 15 x.fa
        else if t.badCopy h x.fa then .trap 16 x.fa
        else .word (t.unitReadAs h x.fa c.num 1) (BitVec.ofNat 32 (ofLeBytes (t.bytesAt h x.fa 4)))

/-- A word that has been fetched: its instruction, or the trap of a word that is none (04 R81). -/
def State.runWord (s : State) (w : Word) : Out State :=
  match decodeWord w with
  | some i => Sys2Proof.Machine.exec i s
  | none => execIllegalOpcode w s

/-- The issuing split fetches and issues its next word. A fetch fault on any word of a bundle parks the group at the bundle
(R64, 19 R330); lanes that it has performed before stay performed (14 R237). -/
def State.issueNext (s : State) : Out State :=
  match s.fetch with
  | .word t w => t.runWord w
  | .trap cause fa => .next (s.trapExact cause fa 0)
  | .park t m => match s.myCtx with
    | none => .next t
    | some c =>
      let p := s.bundlePc
      let left := (s.cur.ctl.leftAt s.cur.ctl.iss p).getD (BitVec.allOnes 32)
      let t := ((t.refund s.cur.ctl.iss).modSplit (fun sp => sp.rewound)).parkFault c m s.pc.toNat .exec 0
      .next (t.parkAt p left)

/-! ## Choosing a split (02 R38, R39, 04 R80) -/

/-- A split as it comes to the turn: what it waited for before its issue is looked at again. -/
def State.candidate (s : State) (i : Fin 4) : State :=
  (s.forSplit i).modSplit (fun sp => if sp.wait.issued then sp else { sp with wait := .none })

/-- Whether a wait leaves the bundle without having issued: the split was not ready (R39). -/
def Wait.unready : Wait → Bool
  | .flag | .waitc _ _ _ | .acq | .room | .mwait _ => true
  | .bar _ _ issued => !issued
  | _ => false

/-- Whether a waiting `join` or `exit` may issue again (08 R139, R142). -/
def Ctl.changed (c : Ctl) (top : Option RjEntry) (depth : Nat) (alone : Bool) : Bool :=
  decide (c.stack.head? ≠ top) || decide (c.stack.length ≠ depth) || (decide (c.live.length ≤ 1) && !alone)

/-- A split has issued an instruction whose last translation check is still to come (R36). -/
def Ctl.checking (c : Ctl) : Bool := splitNums.any (fun i => match (c.split i).wait with
  | .answer .read _ _ y => decide (y = 1)
  | _ => false)

/-- A split that may be asked to issue in this turn (R36, R39). -/
def State.askable (s : State) (i : Fin 4) : Bool :=
  let sp := s.cur.ctl.split i
  s.cur.ctl.runs i && decide (sp.readyAt ≤ s.cycle) && !s.cur.ctl.checking && decide (sp.bundle.dly = 0) && !sp.wait.issued &&
    (match sp.wait with
      | .join t d a | .exit t d a => s.cur.ctl.changed t d a
      | _ => true)

/-- Whether the instruction of a bundle, some of whose hints have issued, finds no room, whatever the bundle's turns of delay
and its flags (R39): at most `n` words are left. -/
def State.noRoom (i : Fin 4) : Nat → State → Bool
  | 0, _ => false
  | n + 1, s =>
    let free := fun (sp : Split) => { sp with bundle := { sp.bundle with dly := 0, flg := 0 } }
    match ((s.forSplit i).modSplit free).candidate i |>.issueNext with
    | .next t =>
      let sp := t.cur.ctl.split i
      if t.cur.place.uid ≠ s.cur.place.uid ∨ t.cur.ctl.parked = true then false
      else if sp.wait == Wait.room then true
      else if sp.bundle.active && sp.wait == Wait.none && decide (sp.pc ≠ (s.cur.ctl.split i).pc) then
        State.noRoom i n t
      else false
    | _ => false

/-- The wait in which a split's next word would leave it, where it is not ready; none where it is. A split is not ready for a
hint either whose instruction finds no room (R39). -/
def State.unreadyAt (s : State) (i : Fin 4) : Option Wait :=
  match (s.candidate i).issueNext with
  | .next t =>
    let sp := t.cur.ctl.split i
    if t.cur.place.uid ≠ s.cur.place.uid then none
    else if sp.wait.unready = true then some sp.wait
    else if sp.bundle.active && sp.wait == Wait.none && State.noRoom i 8 t then some .room
    else none
  | _ => none

/-- The splits whose bundles are in progress, the first begun first. -/
def Ctl.inProgress (c : Ctl) : List (Fin 4) :=
  let ins := fun (l : List (Fin 4)) (i : Fin 4) =>
    l.filter (fun j => decide ((c.split j).bundle.since ≤ (c.split i).bundle.since)) ++ [i] ++
      l.filter (fun j => decide ((c.split i).bundle.since < (c.split j).bundle.since))
  (splitNums.filter (fun i => (c.split i).bundle.active)).foldl ins []

/-- The splits that are not ready keep the wait in which they are, for the watchdog and for barriers; a ready split waits for
nothing. -/
def State.markWaits (s : State) (ws : List (Fin 4 × Wait)) : State :=
  s.modCtl (fun c => ws.foldl (fun (c : Ctl) w =>
    let sp := c.split w.1
    c.setSplit w.1 { sp with wait := w.2 }) c)

/-- Of the ready splits the one of the highest age, of those the lowest number (R38). -/
def Ctl.oldest (c : Ctl) : List (Fin 4) → Option (Fin 4)
  | [] => none
  | i :: rest => match c.oldest rest with
    | none => some i
    | some j => if (c.split i).age < (c.split j).age then some j else some i

/-- The ages after a choice (R38). -/
def Ctl.ageAll (c : Ctl) (ready : List (Fin 4)) (chosen : Fin 4) : Ctl :=
  ready.foldl (fun (c : Ctl) i =>
    let sp := c.split i
    c.setSplit i { sp with age := if i = chosen then 0 else sp.age + 1 }) c

/-- The split that issues in this turn, if any, and the state with waits and ages as they then are. The turn goes to the trap
of a split whose watchdog has reached its limit (20 R357, R358). -/
def State.pickSplit (s : State) : Option (Fin 4) × State :=
  let ask := splitNums.filter s.askable
  let waits := ask.filterMap (fun i => (s.unreadyAt i).map (fun w => (i, w)))
  let ready := ask.filter (fun i => waits.all (fun w => w.1 != i))
  let t := s.markWaits (waits ++ ready.map (fun i => (i, Wait.none)))
  if splitNums.any t.expired then (none, t)
  else match (s.cur.ctl.inProgress.filter (fun i => ready.contains i)) with
  | i :: _ => (some i, t)
  | [] => match s.cur.ctl.oldest ready with
    | none => (none, t)
    | some i => (some i, t.modCtl (fun c => c.ageAll ready i))

/-! ## Instructions that wait for what they read (R39, 14 R411) -/

/-- A split whose instruction has issued and waits for what it reads. -/
def State.mayResume (s : State) (i : Fin 4) : Bool :=
  s.cur.ctl.runs i && (match (s.cur.ctl.split i).wait with
    | .answer .read _ _ _ => true
    | _ => false)

/-- The instruction goes on where it waited, without being fetched or counted again. Where it waits on, its watchdog goes on too; where
it completes, its split is ready from the next turn on (R39). -/
def State.resume (s : State) (i : Fin 4) : State :=
  let t := s.forSplit i
  match if s.mayResume i then t.hints.held else none with
  | none => s
  | some ins =>
    let old := t.split
    match Sys2Proof.Machine.exec ins t with
    | .next u =>
      if u.cur.place.uid = s.cur.place.uid then
        let sp := u.cur.ctl.split i
        if sp.wait.unready then s
        else if sp.wait.issued then u.modCtl (fun c => c.setSplit i { sp with wdog := old.wdog })
        else u.modCtl (fun c => c.setSplit i { sp with readyAt := s.cycle + 1 })
      else u
    | _ => s

/-! ## The turn -/

/-- The turn of a group: what has come to hold, the choice of a split, its word, the end of the turn (R37-R39). -/
def State.turn (s : State) : Out State :=
  let s := splitNums.foldl State.resume s.startTurn
  match s.pickSplit with
  | (none, t) =>
    if splitNums.any t.expired then .next (t.timeOut.endTurn none) else .next (t.endTurn none)
  | (some i, t) => match (t.candidate i).issueNext with
    | .next u => .next (u.endTurn (some i))
    | .fault f => .fault f
    | .refused r => .refused r

/-! ## Events of the hardware (log entry 1) -/

/-- The lines and addresses of the splits that hold for an answer: uid, split. -/
def State.holding (s : State) (p : AnsKind → Bool) : List (Nat × Fin 4) :=
  s.groups.flatMap (fun g => (splitNums.filter (fun i => match (g.ctl.split i).wait with
    | .answer k _ _ _ => p k
    | _ => false)).map (fun i => (g.place.uid, i)))

/-- Events of groups, records, contexts and rings whose time may have come. -/
def State.queueEvents (s : State) : List (State → Out State) :=
  (List.range s.clearing.length).map execBlockClearComplete ++
  (s.groups.filter (fun g => g.ctl.exited)).map (fun g => execGroupRelease g.place.uid) ++
  (s.out.filter OutGroup.kept).map (fun o => execGroupRelease o.group.place.uid) ++
  s.recs.flatMap (fun r => [execHurdlePass r.id, execGangAgeExpire r.id, execRecordDone r.id, execCompletionStore r.id]) ++
  s.recs.filterMap (fun r => (s.choose r).map (fun seats => execGroupPlacement r.id seats)) ++
  (s.groups.filter (fun g => g.ctl.parked)).map (fun g => execLongParkSwitchout g.place.launch g.place.core) ++
  s.ctxs.flatMap (fun c => [execSliceEnd c.num, execGraceEnd c.num, execDeadlineExpire c.num, execResetComplete c.num,
    execContextSwitchOut c.num, execContextResident c.num]) ++
  (List.finRange 16).flatMap (fun n => [execRingReadSlot n, execRingRetry n]) ++
  s.faults.map (fun r => execFaultRecordOffer r.id) ++
  (s.holding (fun k => k == .tinv)).map (fun h => execTinvComplete (4 * h.1 + h.2.val)) ++
  (s.holding (fun k => k == .rte)).map (fun h => execRouterAnswer h.1 h.2) ++
  (s.holding (fun k => k == .sync)).map (fun h => execRteSyncDone h.1 h.2)

/-- Events of the memory system whose time may have come. -/
def State.memEvents (s : State) : List (State → Out State) :=
  ((s.sb.map SbEntry.core).eraseDups).map execStoreBufferDrain ++
  s.writes.flatMap (fun w => [execWriteApply (.flight w.id), execInvalidate w.id, execWriteReadable w.id, execApplyNotice w.id,
    execStoreResponse w.id, execEchoDeadline w.id, execRefusalReroute w.id]) ++
  s.echoes.map (fun e => execEchoReceive (.flight e.id)) ++
  s.acks.map (fun a => execEchoAckReceive a.id) ++
  s.fills.map (fun f => execFillWrite (.flight f.id)) ++
  s.renewals.map (fun r => execRenewalReceive (.flight r.id)) ++
  (s.holders.filter (fun h => h.st == HState.primary)).map (fun h => execLeaseRenewal h.pre) ++
  (s.holders.filter (fun h => h.st == HState.replica && h.leaseEnd != 0)).map (fun h => execLeaseEnd h.pre h.holder) ++
  (s.holders.filter (fun h => h.st == HState.draining)).map (fun h => execHolderAbsent h.pre h.holder) ++
  (s.groups ++ s.out.map OutGroup.group).flatMap (fun g => g.acc.ops.flatMap (fun o =>
    [execReadRequest (.load o.id), execRefusalReroute o.id, execLoadComplete o.id])) ++
  s.relays.map (fun f => execRelayReceive f.dst f.msg) ++
  s.mcast.map (fun m => execMulticastForward m.port m.pkt) ++
  (s.l1.filter (fun l => !l.const)).map (fun l => fun t => .next (t.evictDir (sliceOf l.core) l.fline)) ++
  (s.tags.filter (fun x => decide (x.place < 12))).map (fun x => fun t => .next (t.evictDie (x.place / 3) x.line)) ++
  s.integ.map (fun e => execAuditIntervalEnd e.ctl e.world)

/-- Events of an object's snoop; what an agent here answers, it answers at once. -/
def snoopEvents (o : ObjEntry) : List (State → Out State) :=
  match o.snoop with
  | none => []
  | some n => [execSnoopReceive (.home o.idx), execSnoopRetry o.idx, execSnoopTimeout o.idx] ++
      (if n.answered then [execSnoopAnswer ⟨o.idx, n.agent, n.sent, [], []⟩] else [])

/-- Events of objects, engines, links and the host whose time may have come. -/
def State.engineEvents (s : State) : List (State → Out State) :=
  s.nodes.map (fun n => execMergeNodeTimeout n.obj n.level n.index) ++
  s.objs.flatMap snoopEvents ++
  s.copies.flatMap (fun c => [execCopyStart c.id, execCopyComplete c.id, execCopyFault c.id]) ++
  ((s.mqueue.map MCmd.core).eraseDups).flatMap (fun c => [execMatrixCommandComplete c, execMatrixCommandFault c]) ++
  (s.tiles.filter (fun t => t.clearing)).map (fun t => execItemClearComplete t.core true t.idx) ++
  (s.oslots.filter (fun t => t.clearing)).map (fun t => execItemClearComplete t.core false t.idx) ++
  [execTierMoveStart] ++
  s.tier.moves.flatMap (fun m => [execTierFillRead m.id, execTierFillDone m.id, execTierMoveEnd m.id, execAnnouncementTimeout m.id] ++
    (if m.answer.isSome then [execTierAnnounceAnswer m.id 0, execTierHandoverAnswer m.id 0] else [])) ++
  s.tier.offered.map (fun w => execTierFaultOffer w.id) ++
  (s.links.filter s.linkBad).map (fun l => execLinkFail l.port l.n) ++
  [execTrayQuiesce] ++ (if s.host.waiting.isEmpty then [] else [fun t => .next t.tryHost]) ++
  (if s.host.snoops.isEmpty then [] else [fun t => .next (t.trySnoops [] t.host.snoops)])

/-- The first event of a list that has an effect, and the state after it. -/
def firstEvent : List (State → Out State) → State → Option State
  | [], _ => none
  | e :: es, s => match e s with
    | .next t => if t = s then firstEvent es s else some t
    | _ => firstEvent es s

/-- What the power controller measures at its next comparison: a free value (22 R390, log entries 5, 35). -/
def State.powerEvent (s : State) : Out State :=
  let n := s.freeCount
  execPowerCompare (Config.freeBits 16 n) (Config.freeBits 8 (n + 1)).toInt ((Config.freeBits 1 (n + 2)) == 1) ((Config.freeBits 1 (n + 3)) == 1)
    { s with freeCount := n + 4 }

/-- What the controller finds of the wear of a part: a free value (22 R394, log entries 5, 35). -/
def State.wearEvent (i : Fin 32) (s : State) : Out State :=
  let n := s.freeCount
  execWearUpdate i (Config.freeBits 16 n) (Config.freeBits 8 (n + 1)) (Config.freeBits 8 (n + 2)) { s with freeCount := n + 3 }

/-- What a context's slice, its grace period and its deadline demand by now (02 R45, 19 R335). -/
def State.lateCtx (s : State) (c : Ctx) : List (State → Out State) :=
  let due := match c.preemptAt with
    | some t => decide (t + 1000 * c.deadline ≤ s.pace)
    | none => false
  (if c.slice ≠ 0 ∧ c.sliceFrom + 1000 * c.slice ≤ s.pace then [execSliceEnd c.num] else []) ++
  (match c.preempt with
    | .grace t => if t + 1000 * c.grace ≤ s.pace then [execGraceEnd c.num] else []
    | .forward _ => [execGraceEnd c.num]
    | .none => []) ++
  (if due then [execDeadlineExpire c.num] else []) ++
  (if due || c.reset.isSome then [execContextSwitchOut c.num, execResetComplete c.num] else [])

/-- What may no longer wait, each at the first moment at which an event can happen after its time: holders whose acknowledgement has
missed its deadline (10 R165), lease renewals (10 R166), teams whose last page came 20 µs ago and that can be placed again (02 R46),
the ends of slices, grace periods and deadlines, the gang age, long parks, time-outs of merge nodes, snoops and announcements, offers of
fault records, re-reads of rings, audits, failing links, power comparisons and wear. -/
def State.lateEvents (s : State) : List (State → Out State) :=
  (s.writes.filter (fun w => w.phase == .applied && w.known.isNone && decide (w.time + 5000 < s.pace))).map
    (fun w => execEchoDeadline w.id) ++
  (s.renewed.filter (fun r => r.live && decide (r.time < (s.pace - 1) / 1000 * 1000))).map (fun r => execLeaseRenewal r.pre) ++
  s.ctxs.flatMap s.lateCtx ++
  (s.recs.filter (fun r => s.overAge r && !r.aged)).map (fun r => execGangAgeExpire r.id) ++
  s.lateOut.filterMap (fun r => (s.choose r).map (fun seats => execGroupPlacement r.id seats)) ++
  (s.groups.filter (fun g => g.ctl.parked && decide (g.ctl.parkedAt + 20000 ≤ s.pace))).map
    (fun g => execLongParkSwitchout g.place.launch g.place.core) ++
  (s.nodes.filter (fun n => !n.fired)).map (fun n => execMergeNodeTimeout n.obj n.level n.index) ++
  (s.objs.filter (fun o => o.snoop.any (fun n => decide (n.sent + 7000 ≤ s.pace)))).flatMap (fun o =>
    [execSnoopTimeout o.idx, execSnoopRetry o.idx]) ++
  (s.tier.moves.filter (fun m => m.answer.isNone && decide (m.asked + 20000 < s.pace))).map (fun m => execAnnouncementTimeout m.id) ++
  (s.faults.filter (fun r => !r.written && decide (r.offered + 1000 ≤ s.pace))).map (fun r => execFaultRecordOffer r.id) ++
  ((List.finRange 16).filter (fun n => let r := s.ring n.val
    r.st == .running && decide (0 < r.tries) && decide (r.due ≤ s.pace))).map execRingRetry ++
  (s.integ.filter (fun e => (s.world? e.world).any (fun w => decide (w.since + (e.audits + 1) * w.audit * 10 ^ 9 ≤ s.pace)))).map
    (fun e => execAuditIntervalEnd e.ctl e.world) ++
  (s.links.filter s.linkBad).map (fun l => execLinkFail l.port l.n) ++
  (s.links.filter Link.stale).map (fun l => execSessionRekey l.port l.n) ++
  (if s.pkg.boot = 2 ∧ s.pkg.pwrAt + 100000 ≤ s.pace then [State.powerEvent] else []) ++
  (if s.pkg.boot = 2 then ((List.finRange 32).filter (fun i => decide (s.pkg.wearHour[i] < s.hour))).map State.wearEvent else [])

/-- Between turns: an event that may no longer wait; else an event whose time has come, or the next turn. Which of these comes
first is open, and a free value stands for the choice (log entries 1, 5). -/
def State.between (s : State) (left : Nat) : Out State :=
  match firstEvent s.lateEvents s with
  | some t => .next { t with phase := .event (left - 1) }
  | none =>
  let es := s.queueEvents ++ s.memEvents ++ s.engineEvents
  let n := (Config.freeBits 16 s.freeCount).toNat % (es.length + 1)
  let s := { s with freeCount := s.freeCount + 1 }
  if left = 0 ∨ n = es.length then s.turn
  else match firstEvent (es.drop n ++ es.take n) s with
    | none => s.turn
    | some t => .next { t with phase := .event (left - 1) }

end Sys2Proof.Machine
end

