-- ==== Sys2Proof/Machine/Step.lean ====
section
/-! DEFINITION. One step of the part, and the state in which a given word is the next to issue (log entries 1, 2). -/

namespace Sys2Proof.Machine

/-- One step (log entry 1): the next event of the agenda happens; with an empty agenda an event whose time has come, or the
turn of a group, in which one word issues. An instruction is no event: it happens only where a group issues its word. -/
def step (s : State) : Host.Outcome State Fault Refusal :=
  match s.agenda with
  | i :: rest => if (encode i).isSome then .next { s with agenda := rest } else exec i { s with agenda := rest }
  | [] => match s.phase with
    | .issue => s.turn
    | .event left => s.between left

/-- The context under which a word is run from outside: number 0, without translation. -/
def probeCtx : Ctx :=
  { newCtx 0 0 0 0 0 0 with st := .resident }

/-- A group at PL2 in slot 0 of core 0 whose one split stands at address 0 with all lanes. -/
def probeGroup (uid : Nat) : Group :=
  { Group.empty with
    place := ⟨uid, true, 0, 0, 0, 0, 0, 128⟩
    ctl := Group.empty.ctl.setSplit 0 { Split.free with live := true, mask := BitVec.allOnes 32 }
    trap := { Group.empty.trap with pl := 2 } }

/-- A state whose next step issues the word `w` (log entry 2): a group at PL2 stands at address 0, which the router of CD0
gives to MS0 as primary, and the word lies there. -/
def State.withFetchWord (s : State) (_nbits w : Nat) : State :=
  let h := s.localId 16
  let pre : Prefix := ⟨0, 52⟩
  let rt : RtEntry := ⟨s.localId 0, pre, [⟨h, .primary, 20, 255, 0, [h]⟩], 0⟩
  let hold : HolderSt := ⟨pre, h, .primary, 20, 255, [], 0, 0, none, 0, [], []⟩
  { s with
    cur := probeGroup s.nextId
    mem := Memory.putN s.mem (memKey h 0) (leBytes 4 w)
    lines := s.lines.filter (fun l => l.key != memKey h 0)
    granted := s.granted.filter (fun g => g.1 != 0)
    tags := s.tags.filter (fun t => !(t.line == 0))
    tlb := s.tlb.filter (fun e => e.ctx != 0)
    routes := rt :: s.routes
    holders := hold :: s.holders
    ctxs := probeCtx :: s.ctxs.filter (fun c => c.num != 0)
    vregs := { s.vregs with s2root := s.vregs.s2root.setIfInBounds 0 0 }
    agenda := []
    phase := .issue
    nextId := s.nextId + 1 }

end Sys2Proof.Machine
end

