-- ==== Sys2Proof/WellFormed.lean ====
section
/-! DEFINITION. Well-formed instructions: every operand field holds a value that is legal for it (spec 04 R66-R74, R81). -/

namespace Sys2Proof

/-- An instruction whose fields are legal in a group of 128 vector registers, the most a launch may have (05 R84). In a group
of fewer, R81 check 4 is made with the group's own number. -/
abbrev WellFormed (i : Instr) : Prop := Machine.fieldsOk 128 i = true

/-- An instruction that has a word: every row of the opcode table that is not an event of the part. -/
abbrev Encoded (i : Instr) : Prop := (encode i).isSome = true

end Sys2Proof
end

