-- ==== Sys2Proof/Laws/PerInstr.lean ====
section
/-! SUPPORT. Per-instruction facts of the encoding: decoding the word of an instruction gives the instruction back, with every
operand at every value its field admits (spec 04 R66-R76). -/

set_option Elab.async false
set_option linter.unusedSimpArgs false

namespace Sys2Proof.Laws.Encodes

/-- The word of an instruction, where it has one, decodes to it. -/
def Statement (i : Instr) : Prop := ∀ w, encode i = some w → decodeWord w = some i

theorem toNat_ofNat_lt {n : Nat} (h : n < 2 ^ 32) : (BitVec.ofNat 32 n : Word).toNat = n := by
  rw [BitVec.toNat_ofNat]; exact Nat.mod_eq_of_lt h

theorem bf_eq {k n lo : Nat} {x : BitVec k} (h : n / 2 ^ lo % 2 ^ k = x.toNat) : bf k n lo = x := by
  apply BitVec.eq_of_toNat_eq; rw [bf, BitVec.toNat_ofNat]; exact h

theorem fx_true {n lo k v : Nat} (h : n / 2 ^ lo % 2 ^ k = v) : fx n lo k v = true := by
  rw [fx, h]; exact decide_eq_true rfl

theorem fx_false {n lo k v : Nat} (h : ¬ n / 2 ^ lo % 2 ^ k = v) : fx n lo k v = false := by
  rw [fx]; exact decide_eq_false h

theorem onlyIf_true (i : Instr) : onlyIf true i = some i := rfl

theorem onlyIf_false (i : Instr) : onlyIf false i = none := rfl

theorem field_at {n lo k h l x : Nat} (e : n = (h * 2 ^ k + x) * 2 ^ lo + l) (hl : l < 2 ^ lo) (hx : x < 2 ^ k) :
    n / 2 ^ lo % 2 ^ k = x := by
  subst e
  rw [Nat.mul_comm, Nat.mul_add_div (Nat.two_pow_pos lo), Nat.div_eq_of_lt hl, Nat.add_zero, Nat.mul_comm, Nat.mul_add_mod,
    Nat.mod_eq_of_lt hx]


theorem major_01 {n : Nat} (h : n < 2 ^ 32) (e : n / 2 ^ 26 = 0x01) : decodeWord (BitVec.ofNat 32 n) = decMaj01 n := by
  rw [decodeWord, toNat_ofNat_lt h]
  simp only [e]

theorem major_02 {n : Nat} (h : n < 2 ^ 32) (e : n / 2 ^ 26 = 0x02) : decodeWord (BitVec.ofNat 32 n) = decMaj02 n := by
  rw [decodeWord, toNat_ofNat_lt h]
  simp only [e]

theorem major_03 {n : Nat} (h : n < 2 ^ 32) (e : n / 2 ^ 26 = 0x03) : decodeWord (BitVec.ofNat 32 n) = decMaj03 n := by
  rw [decodeWord, toNat_ofNat_lt h]
  simp only [e]

theorem major_04 {n : Nat} (h : n < 2 ^ 32) (e : n / 2 ^ 26 = 0x04) : decodeWord (BitVec.ofNat 32 n) = decMaj04 n := by
  rw [decodeWord, toNat_ofNat_lt h]
  simp only [e]

theorem major_05 {n : Nat} (h : n < 2 ^ 32) (e : n / 2 ^ 26 = 0x05) : decodeWord (BitVec.ofNat 32 n) = decMaj05 n := by
  rw [decodeWord, toNat_ofNat_lt h]
  simp only [e]

theorem major_06 {n : Nat} (h : n < 2 ^ 32) (e : n / 2 ^ 26 = 0x06) : decodeWord (BitVec.ofNat 32 n) = decMaj06 n := by
  rw [decodeWord, toNat_ofNat_lt h]
  simp only [e]

theorem major_07 {n : Nat} (h : n < 2 ^ 32) (e : n / 2 ^ 26 = 0x07) : decodeWord (BitVec.ofNat 32 n) = decMaj07 n := by
  rw [decodeWord, toNat_ofNat_lt h]
  simp only [e]

theorem major_08 {n : Nat} (h : n < 2 ^ 32) (e : n / 2 ^ 26 = 0x08) : decodeWord (BitVec.ofNat 32 n) = decMaj08 n := by
  rw [decodeWord, toNat_ofNat_lt h]
  simp only [e]

theorem major_09 {n : Nat} (h : n < 2 ^ 32) (e : n / 2 ^ 26 = 0x09) : decodeWord (BitVec.ofNat 32 n) = decMaj09 n := by
  rw [decodeWord, toNat_ofNat_lt h]
  simp only [e]

theorem major_0A {n : Nat} (h : n < 2 ^ 32) (e : n / 2 ^ 26 = 0x0A) : decodeWord (BitVec.ofNat 32 n) = decMaj0A n := by
  rw [decodeWord, toNat_ofNat_lt h]
  simp only [e]

theorem major_0B {n : Nat} (h : n < 2 ^ 32) (e : n / 2 ^ 26 = 0x0B) : decodeWord (BitVec.ofNat 32 n) = decMaj0B n := by
  rw [decodeWord, toNat_ofNat_lt h]
  simp only [e]

theorem major_0C {n : Nat} (h : n < 2 ^ 32) (e : n / 2 ^ 26 = 0x0C) : decodeWord (BitVec.ofNat 32 n) = decMaj0C n := by
  rw [decodeWord, toNat_ofNat_lt h]
  simp only [e]

theorem major_0D {n : Nat} (h : n < 2 ^ 32) (e : n / 2 ^ 26 = 0x0D) : decodeWord (BitVec.ofNat 32 n) = decMaj0D n := by
  rw [decodeWord, toNat_ofNat_lt h]
  simp only [e]

theorem major_10 {n : Nat} (h : n < 2 ^ 32) (e : n / 2 ^ 26 = 0x10) : decodeWord (BitVec.ofNat 32 n) = decMaj10 n := by
  rw [decodeWord, toNat_ofNat_lt h]
  simp only [e]

theorem major_11 {n : Nat} (h : n < 2 ^ 32) (e : n / 2 ^ 26 = 0x11) : decodeWord (BitVec.ofNat 32 n) = decMaj11 n := by
  rw [decodeWord, toNat_ofNat_lt h]
  simp only [e]

theorem major_12 {n : Nat} (h : n < 2 ^ 32) (e : n / 2 ^ 26 = 0x12) : decodeWord (BitVec.ofNat 32 n) = decMaj12 n := by
  rw [decodeWord, toNat_ofNat_lt h]
  simp only [e]

theorem major_13 {n : Nat} (h : n < 2 ^ 32) (e : n / 2 ^ 26 = 0x13) : decodeWord (BitVec.ofNat 32 n) = decMaj13 n := by
  rw [decodeWord, toNat_ofNat_lt h]
  simp only [e]

theorem major_14 {n : Nat} (h : n < 2 ^ 32) (e : n / 2 ^ 26 = 0x14) : decodeWord (BitVec.ofNat 32 n) = decMaj14 n := by
  rw [decodeWord, toNat_ofNat_lt h]
  simp only [e]

theorem major_15 {n : Nat} (h : n < 2 ^ 32) (e : n / 2 ^ 26 = 0x15) : decodeWord (BitVec.ofNat 32 n) = decMaj15 n := by
  rw [decodeWord, toNat_ofNat_lt h]
  simp only [e]

theorem major_16 {n : Nat} (h : n < 2 ^ 32) (e : n / 2 ^ 26 = 0x16) : decodeWord (BitVec.ofNat 32 n) = decMaj16 n := by
  rw [decodeWord, toNat_ofNat_lt h]
  simp only [e]

theorem major_18 {n : Nat} (h : n < 2 ^ 32) (e : n / 2 ^ 26 = 0x18) : decodeWord (BitVec.ofNat 32 n) = decMaj18 n := by
  rw [decodeWord, toNat_ofNat_lt h]
  simp only [e]

theorem major_19 {n : Nat} (h : n < 2 ^ 32) (e : n / 2 ^ 26 = 0x19) : decodeWord (BitVec.ofNat 32 n) = decMaj19 n := by
  rw [decodeWord, toNat_ofNat_lt h]
  simp only [e]

theorem major_1A {n : Nat} (h : n < 2 ^ 32) (e : n / 2 ^ 26 = 0x1A) : decodeWord (BitVec.ofNat 32 n) = decMaj1A n := by
  rw [decodeWord, toNat_ofNat_lt h]
  simp only [e]

theorem major_1B {n : Nat} (h : n < 2 ^ 32) (e : n / 2 ^ 26 = 0x1B) : decodeWord (BitVec.ofNat 32 n) = decMaj1B n := by
  rw [decodeWord, toNat_ofNat_lt h]
  simp only [e]

theorem major_1C {n : Nat} (h : n < 2 ^ 32) (e : n / 2 ^ 26 = 0x1C) : decodeWord (BitVec.ofNat 32 n) = decMaj1C n := by
  rw [decodeWord, toNat_ofNat_lt h]
  simp only [e]

theorem major_1D {n : Nat} (h : n < 2 ^ 32) (e : n / 2 ^ 26 = 0x1D) : decodeWord (BitVec.ofNat 32 n) = decMaj1D n := by
  rw [decodeWord, toNat_ofNat_lt h]
  simp only [e]

theorem major_1E {n : Nat} (h : n < 2 ^ 32) (e : n / 2 ^ 26 = 0x1E) : decodeWord (BitVec.ofNat 32 n) = decMaj1E n := by
  rw [decodeWord, toNat_ofNat_lt h]
  simp only [e]

theorem major_20 {n : Nat} (h : n < 2 ^ 32) (e : n / 2 ^ 26 = 0x20) : decodeWord (BitVec.ofNat 32 n) = decMaj20 n := by
  rw [decodeWord, toNat_ofNat_lt h]
  simp only [e]

theorem major_21 {n : Nat} (h : n < 2 ^ 32) (e : n / 2 ^ 26 = 0x21) : decodeWord (BitVec.ofNat 32 n) = decMaj21 n := by
  rw [decodeWord, toNat_ofNat_lt h]
  simp only [e]

theorem major_22 {n : Nat} (h : n < 2 ^ 32) (e : n / 2 ^ 26 = 0x22) : decodeWord (BitVec.ofNat 32 n) = decMaj22 n := by
  rw [decodeWord, toNat_ofNat_lt h]
  simp only [e]

theorem major_23 {n : Nat} (h : n < 2 ^ 32) (e : n / 2 ^ 26 = 0x23) : decodeWord (BitVec.ofNat 32 n) = decMaj23 n := by
  rw [decodeWord, toNat_ofNat_lt h]
  simp only [e]

theorem major_24 {n : Nat} (h : n < 2 ^ 32) (e : n / 2 ^ 26 = 0x24) : decodeWord (BitVec.ofNat 32 n) = decMaj24 n := by
  rw [decodeWord, toNat_ofNat_lt h]
  simp only [e]

theorem major_25 {n : Nat} (h : n < 2 ^ 32) (e : n / 2 ^ 26 = 0x25) : decodeWord (BitVec.ofNat 32 n) = decMaj25 n := by
  rw [decodeWord, toNat_ofNat_lt h]
  simp only [e]

theorem major_26 {n : Nat} (h : n < 2 ^ 32) (e : n / 2 ^ 26 = 0x26) : decodeWord (BitVec.ofNat 32 n) = decMaj26 n := by
  rw [decodeWord, toNat_ofNat_lt h]
  simp only [e]

theorem major_27 {n : Nat} (h : n < 2 ^ 32) (e : n / 2 ^ 26 = 0x27) : decodeWord (BitVec.ofNat 32 n) = decMaj27 n := by
  rw [decodeWord, toNat_ofNat_lt h]
  simp only [e]

theorem major_28 {n : Nat} (h : n < 2 ^ 32) (e : n / 2 ^ 26 = 0x28) : decodeWord (BitVec.ofNat 32 n) = decMaj28 n := by
  rw [decodeWord, toNat_ofNat_lt h]
  simp only [e]

theorem major_29 {n : Nat} (h : n < 2 ^ 32) (e : n / 2 ^ 26 = 0x29) : decodeWord (BitVec.ofNat 32 n) = decMaj29 n := by
  rw [decodeWord, toNat_ofNat_lt h]
  simp only [e]

theorem major_2A {n : Nat} (h : n < 2 ^ 32) (e : n / 2 ^ 26 = 0x2A) : decodeWord (BitVec.ofNat 32 n) = decMaj2A n := by
  rw [decodeWord, toNat_ofNat_lt h]
  simp only [e]

theorem major_2B {n : Nat} (h : n < 2 ^ 32) (e : n / 2 ^ 26 = 0x2B) : decodeWord (BitVec.ofNat 32 n) = decMaj2B n := by
  rw [decodeWord, toNat_ofNat_lt h]
  simp only [e]

theorem major_2C {n : Nat} (h : n < 2 ^ 32) (e : n / 2 ^ 26 = 0x2C) : decodeWord (BitVec.ofNat 32 n) = decMaj2C n := by
  rw [decodeWord, toNat_ofNat_lt h]
  simp only [e]

theorem major_2D {n : Nat} (h : n < 2 ^ 32) (e : n / 2 ^ 26 = 0x2D) : decodeWord (BitVec.ofNat 32 n) = decMaj2D n := by
  rw [decodeWord, toNat_ofNat_lt h]
  simp only [e]

theorem major_2E {n : Nat} (h : n < 2 ^ 32) (e : n / 2 ^ 26 = 0x2E) : decodeWord (BitVec.ofNat 32 n) = decMaj2E n := by
  rw [decodeWord, toNat_ofNat_lt h]
  simp only [e]

theorem major_2F {n : Nat} (h : n < 2 ^ 32) (e : n / 2 ^ 26 = 0x2F) : decodeWord (BitVec.ofNat 32 n) = decMaj2F n := by
  rw [decodeWord, toNat_ofNat_lt h]
  simp only [e]

theorem major_30 {n : Nat} (h : n < 2 ^ 32) (e : n / 2 ^ 26 = 0x30) : decodeWord (BitVec.ofNat 32 n) = decMaj30 n := by
  rw [decodeWord, toNat_ofNat_lt h]
  simp only [e]

theorem major_32 {n : Nat} (h : n < 2 ^ 32) (e : n / 2 ^ 26 = 0x32) : decodeWord (BitVec.ofNat 32 n) = decMaj32 n := by
  rw [decodeWord, toNat_ofNat_lt h]
  simp only [e]

theorem major_33 {n : Nat} (h : n < 2 ^ 32) (e : n / 2 ^ 26 = 0x33) : decodeWord (BitVec.ofNat 32 n) = decMaj33 n := by
  rw [decodeWord, toNat_ofNat_lt h]
  simp only [e]

theorem major_34 {n : Nat} (h : n < 2 ^ 32) (e : n / 2 ^ 26 = 0x34) : decodeWord (BitVec.ofNat 32 n) = decMaj34 n := by
  rw [decodeWord, toNat_ofNat_lt h]
  simp only [e]

theorem major_35 {n : Nat} (h : n < 2 ^ 32) (e : n / 2 ^ 26 = 0x35) : decodeWord (BitVec.ofNat 32 n) = decMaj35 n := by
  rw [decodeWord, toNat_ofNat_lt h]
  simp only [e]

theorem major_36 {n : Nat} (h : n < 2 ^ 32) (e : n / 2 ^ 26 = 0x36) : decodeWord (BitVec.ofNat 32 n) = decMaj36 n := by
  rw [decodeWord, toNat_ofNat_lt h]
  simp only [e]

theorem major_3E {n : Nat} (h : n < 2 ^ 32) (e : n / 2 ^ 26 = 0x3E) : decodeWord (BitVec.ofNat 32 n) = decMaj3E n := by
  rw [decodeWord, toNat_ofNat_lt h]
  simp only [e]

theorem shape0 {c0 c1 n : Nat} {x0 : BitVec 7} {x1 : BitVec 7} {x2 : BitVec 7} {x3 : BitVec 1}
    (e : n = c0 * 67108864 + c1 * 4194304 + x0.toNat * 32768 + x1.toNat * 256 + x2.toNat * 2 + x3.toNat) (b_c0 : c0 < 2 ^ 6) (b_c1 : c1 < 2 ^ 4) :
    n < 2 ^ 32 ∧
      n / 2 ^ 26 = c0 ∧
      n / 2 ^ 22 % 2 ^ 4 = c1 ∧
      bf 7 n 15 = x0 ∧
      bf 7 n 8 = x1 ∧
      bf 7 n 1 = x2 ∧
      bf 1 n 0 = x3 := by
  have b_x0 := x0.isLt
  have b_x1 := x1.isLt
  have b_x2 := x2.isLt
  have b_x3 := x3.isLt
  exact ⟨by omega,
    by omega,
    field_at (n := n) (lo := 22) (k := 4) (h := c0) (l := x0.toNat * 32768 + x1.toNat * 256 + x2.toNat * 2 + x3.toNat) (x := c1)
      (by show n = ((c0) * 16 + c1) * 4194304 + (x0.toNat * 32768 + x1.toNat * 256 + x2.toNat * 2 + x3.toNat); rw [e]; ring) (by show x0.toNat * 32768 + x1.toNat * 256 + x2.toNat * 2 + x3.toNat < 4194304; omega) b_c1,
    bf_eq (field_at (n := n) (lo := 15) (k := 7) (h := c0 * 16 + c1) (l := x1.toNat * 256 + x2.toNat * 2 + x3.toNat) (x := x0.toNat)
      (by show n = ((c0 * 16 + c1) * 128 + x0.toNat) * 32768 + (x1.toNat * 256 + x2.toNat * 2 + x3.toNat); rw [e]; ring) (by show x1.toNat * 256 + x2.toNat * 2 + x3.toNat < 32768; omega) b_x0),
    bf_eq (field_at (n := n) (lo := 8) (k := 7) (h := c0 * 2048 + c1 * 128 + x0.toNat) (l := x2.toNat * 2 + x3.toNat) (x := x1.toNat)
      (by show n = ((c0 * 2048 + c1 * 128 + x0.toNat) * 128 + x1.toNat) * 256 + (x2.toNat * 2 + x3.toNat); rw [e]; ring) (by show x2.toNat * 2 + x3.toNat < 256; omega) b_x1),
    bf_eq (field_at (n := n) (lo := 1) (k := 7) (h := c0 * 262144 + c1 * 16384 + x0.toNat * 128 + x1.toNat) (l := x3.toNat) (x := x2.toNat)
      (by show n = ((c0 * 262144 + c1 * 16384 + x0.toNat * 128 + x1.toNat) * 128 + x2.toNat) * 2 + (x3.toNat); rw [e]; ring) (by show x3.toNat < 2; omega) b_x2),
    bf_eq (field_at (n := n) (lo := 0) (k := 1) (h := c0 * 33554432 + c1 * 2097152 + x0.toNat * 16384 + x1.toNat * 128 + x2.toNat) (l := 0) (x := x3.toNat)
      (by show n = ((c0 * 33554432 + c1 * 2097152 + x0.toNat * 16384 + x1.toNat * 128 + x2.toNat) * 2 + x3.toNat) * 1 + (0); rw [e]; ring) (by show 0 < 1; omega) b_x3)⟩

theorem shape1 {c0 c1 c2 n : Nat} {x0 : BitVec 7} {x1 : BitVec 7} {x2 : BitVec 1}
    (e : n = c0 * 67108864 + c1 * 4194304 + x0.toNat * 32768 + x1.toNat * 256 + c2 * 2 + x2.toNat) (b_c0 : c0 < 2 ^ 6) (b_c1 : c1 < 2 ^ 4) (b_c2 : c2 < 2 ^ 7) :
    n < 2 ^ 32 ∧
      n / 2 ^ 26 = c0 ∧
      n / 2 ^ 22 % 2 ^ 4 = c1 ∧
      bf 7 n 15 = x0 ∧
      bf 7 n 8 = x1 ∧
      n / 2 ^ 1 % 2 ^ 7 = c2 ∧
      bf 1 n 0 = x2 := by
  have b_x0 := x0.isLt
  have b_x1 := x1.isLt
  have b_x2 := x2.isLt
  exact ⟨by omega,
    by omega,
    field_at (n := n) (lo := 22) (k := 4) (h := c0) (l := x0.toNat * 32768 + x1.toNat * 256 + c2 * 2 + x2.toNat) (x := c1)
      (by show n = ((c0) * 16 + c1) * 4194304 + (x0.toNat * 32768 + x1.toNat * 256 + c2 * 2 + x2.toNat); rw [e]; ring) (by show x0.toNat * 32768 + x1.toNat * 256 + c2 * 2 + x2.toNat < 4194304; omega) b_c1,
    bf_eq (field_at (n := n) (lo := 15) (k := 7) (h := c0 * 16 + c1) (l := x1.toNat * 256 + c2 * 2 + x2.toNat) (x := x0.toNat)
      (by show n = ((c0 * 16 + c1) * 128 + x0.toNat) * 32768 + (x1.toNat * 256 + c2 * 2 + x2.toNat); rw [e]; ring) (by show x1.toNat * 256 + c2 * 2 + x2.toNat < 32768; omega) b_x0),
    bf_eq (field_at (n := n) (lo := 8) (k := 7) (h := c0 * 2048 + c1 * 128 + x0.toNat) (l := c2 * 2 + x2.toNat) (x := x1.toNat)
      (by show n = ((c0 * 2048 + c1 * 128 + x0.toNat) * 128 + x1.toNat) * 256 + (c2 * 2 + x2.toNat); rw [e]; ring) (by show c2 * 2 + x2.toNat < 256; omega) b_x1),
    field_at (n := n) (lo := 1) (k := 7) (h := c0 * 262144 + c1 * 16384 + x0.toNat * 128 + x1.toNat) (l := x2.toNat) (x := c2)
      (by show n = ((c0 * 262144 + c1 * 16384 + x0.toNat * 128 + x1.toNat) * 128 + c2) * 2 + (x2.toNat); rw [e]; ring) (by show x2.toNat < 2; omega) b_c2,
    bf_eq (field_at (n := n) (lo := 0) (k := 1) (h := c0 * 33554432 + c1 * 2097152 + x0.toNat * 16384 + x1.toNat * 128 + c2) (l := 0) (x := x2.toNat)
      (by show n = ((c0 * 33554432 + c1 * 2097152 + x0.toNat * 16384 + x1.toNat * 128 + c2) * 2 + x2.toNat) * 1 + (0); rw [e]; ring) (by show 0 < 1; omega) b_x2)⟩

theorem shape2 {c0 c1 n : Nat} {x0 : BitVec 3} {x1 : BitVec 7} {x2 : BitVec 7} {x3 : BitVec 7} {x4 : BitVec 1}
    (e : n = c0 * 67108864 + c1 * 33554432 + x0.toNat * 4194304 + x1.toNat * 32768 + x2.toNat * 256 + x3.toNat * 2 + x4.toNat) (b_c0 : c0 < 2 ^ 6) (b_c1 : c1 < 2 ^ 1) :
    n < 2 ^ 32 ∧
      n / 2 ^ 26 = c0 ∧
      n / 2 ^ 25 % 2 ^ 1 = c1 ∧
      bf 3 n 22 = x0 ∧
      bf 7 n 15 = x1 ∧
      bf 7 n 8 = x2 ∧
      bf 7 n 1 = x3 ∧
      bf 1 n 0 = x4 := by
  have b_x0 := x0.isLt
  have b_x1 := x1.isLt
  have b_x2 := x2.isLt
  have b_x3 := x3.isLt
  have b_x4 := x4.isLt
  exact ⟨by omega,
    by omega,
    field_at (n := n) (lo := 25) (k := 1) (h := c0) (l := x0.toNat * 4194304 + x1.toNat * 32768 + x2.toNat * 256 + x3.toNat * 2 + x4.toNat) (x := c1)
      (by show n = ((c0) * 2 + c1) * 33554432 + (x0.toNat * 4194304 + x1.toNat * 32768 + x2.toNat * 256 + x3.toNat * 2 + x4.toNat); rw [e]; ring) (by show x0.toNat * 4194304 + x1.toNat * 32768 + x2.toNat * 256 + x3.toNat * 2 + x4.toNat < 33554432; omega) b_c1,
    bf_eq (field_at (n := n) (lo := 22) (k := 3) (h := c0 * 2 + c1) (l := x1.toNat * 32768 + x2.toNat * 256 + x3.toNat * 2 + x4.toNat) (x := x0.toNat)
      (by show n = ((c0 * 2 + c1) * 8 + x0.toNat) * 4194304 + (x1.toNat * 32768 + x2.toNat * 256 + x3.toNat * 2 + x4.toNat); rw [e]; ring) (by show x1.toNat * 32768 + x2.toNat * 256 + x3.toNat * 2 + x4.toNat < 4194304; omega) b_x0),
    bf_eq (field_at (n := n) (lo := 15) (k := 7) (h := c0 * 16 + c1 * 8 + x0.toNat) (l := x2.toNat * 256 + x3.toNat * 2 + x4.toNat) (x := x1.toNat)
      (by show n = ((c0 * 16 + c1 * 8 + x0.toNat) * 128 + x1.toNat) * 32768 + (x2.toNat * 256 + x3.toNat * 2 + x4.toNat); rw [e]; ring) (by show x2.toNat * 256 + x3.toNat * 2 + x4.toNat < 32768; omega) b_x1),
    bf_eq (field_at (n := n) (lo := 8) (k := 7) (h := c0 * 2048 + c1 * 1024 + x0.toNat * 128 + x1.toNat) (l := x3.toNat * 2 + x4.toNat) (x := x2.toNat)
      (by show n = ((c0 * 2048 + c1 * 1024 + x0.toNat * 128 + x1.toNat) * 128 + x2.toNat) * 256 + (x3.toNat * 2 + x4.toNat); rw [e]; ring) (by show x3.toNat * 2 + x4.toNat < 256; omega) b_x2),
    bf_eq (field_at (n := n) (lo := 1) (k := 7) (h := c0 * 262144 + c1 * 131072 + x0.toNat * 16384 + x1.toNat * 128 + x2.toNat) (l := x4.toNat) (x := x3.toNat)
      (by show n = ((c0 * 262144 + c1 * 131072 + x0.toNat * 16384 + x1.toNat * 128 + x2.toNat) * 128 + x3.toNat) * 2 + (x4.toNat); rw [e]; ring) (by show x4.toNat < 2; omega) b_x3),
    bf_eq (field_at (n := n) (lo := 0) (k := 1) (h := c0 * 33554432 + c1 * 16777216 + x0.toNat * 2097152 + x1.toNat * 16384 + x2.toNat * 128 + x3.toNat) (l := 0) (x := x4.toNat)
      (by show n = ((c0 * 33554432 + c1 * 16777216 + x0.toNat * 2097152 + x1.toNat * 16384 + x2.toNat * 128 + x3.toNat) * 2 + x4.toNat) * 1 + (0); rw [e]; ring) (by show 0 < 1; omega) b_x4)⟩

theorem shape3 {c0 c1 c2 c3 n : Nat} {x0 : BitVec 7} {x1 : BitVec 7} {x2 : BitVec 1}
    (e : n = c0 * 67108864 + c1 * 33554432 + c2 * 4194304 + x0.toNat * 32768 + x1.toNat * 256 + c3 * 2 + x2.toNat) (b_c0 : c0 < 2 ^ 6) (b_c1 : c1 < 2 ^ 1) (b_c2 : c2 < 2 ^ 3) (b_c3 : c3 < 2 ^ 7) :
    n < 2 ^ 32 ∧
      n / 2 ^ 26 = c0 ∧
      n / 2 ^ 25 % 2 ^ 1 = c1 ∧
      n / 2 ^ 22 % 2 ^ 3 = c2 ∧
      bf 7 n 15 = x0 ∧
      bf 7 n 8 = x1 ∧
      n / 2 ^ 1 % 2 ^ 7 = c3 ∧
      bf 1 n 0 = x2 := by
  have b_x0 := x0.isLt
  have b_x1 := x1.isLt
  have b_x2 := x2.isLt
  exact ⟨by omega,
    by omega,
    field_at (n := n) (lo := 25) (k := 1) (h := c0) (l := c2 * 4194304 + x0.toNat * 32768 + x1.toNat * 256 + c3 * 2 + x2.toNat) (x := c1)
      (by show n = ((c0) * 2 + c1) * 33554432 + (c2 * 4194304 + x0.toNat * 32768 + x1.toNat * 256 + c3 * 2 + x2.toNat); rw [e]; ring) (by show c2 * 4194304 + x0.toNat * 32768 + x1.toNat * 256 + c3 * 2 + x2.toNat < 33554432; omega) b_c1,
    field_at (n := n) (lo := 22) (k := 3) (h := c0 * 2 + c1) (l := x0.toNat * 32768 + x1.toNat * 256 + c3 * 2 + x2.toNat) (x := c2)
      (by show n = ((c0 * 2 + c1) * 8 + c2) * 4194304 + (x0.toNat * 32768 + x1.toNat * 256 + c3 * 2 + x2.toNat); rw [e]; ring) (by show x0.toNat * 32768 + x1.toNat * 256 + c3 * 2 + x2.toNat < 4194304; omega) b_c2,
    bf_eq (field_at (n := n) (lo := 15) (k := 7) (h := c0 * 16 + c1 * 8 + c2) (l := x1.toNat * 256 + c3 * 2 + x2.toNat) (x := x0.toNat)
      (by show n = ((c0 * 16 + c1 * 8 + c2) * 128 + x0.toNat) * 32768 + (x1.toNat * 256 + c3 * 2 + x2.toNat); rw [e]; ring) (by show x1.toNat * 256 + c3 * 2 + x2.toNat < 32768; omega) b_x0),
    bf_eq (field_at (n := n) (lo := 8) (k := 7) (h := c0 * 2048 + c1 * 1024 + c2 * 128 + x0.toNat) (l := c3 * 2 + x2.toNat) (x := x1.toNat)
      (by show n = ((c0 * 2048 + c1 * 1024 + c2 * 128 + x0.toNat) * 128 + x1.toNat) * 256 + (c3 * 2 + x2.toNat); rw [e]; ring) (by show c3 * 2 + x2.toNat < 256; omega) b_x1),
    field_at (n := n) (lo := 1) (k := 7) (h := c0 * 262144 + c1 * 131072 + c2 * 16384 + x0.toNat * 128 + x1.toNat) (l := x2.toNat) (x := c3)
      (by show n = ((c0 * 262144 + c1 * 131072 + c2 * 16384 + x0.toNat * 128 + x1.toNat) * 128 + c3) * 2 + (x2.toNat); rw [e]; ring) (by show x2.toNat < 2; omega) b_c3,
    bf_eq (field_at (n := n) (lo := 0) (k := 1) (h := c0 * 33554432 + c1 * 16777216 + c2 * 2097152 + x0.toNat * 16384 + x1.toNat * 128 + c3) (l := 0) (x := x2.toNat)
      (by show n = ((c0 * 33554432 + c1 * 16777216 + c2 * 2097152 + x0.toNat * 16384 + x1.toNat * 128 + c3) * 2 + x2.toNat) * 1 + (0); rw [e]; ring) (by show 0 < 1; omega) b_x2)⟩

theorem shape4 {c0 c1 c2 c3 n : Nat} {x0 : BitVec 7} {x1 : BitVec 7} {x2 : BitVec 7}
    (e : n = c0 * 67108864 + c1 * 33554432 + c2 * 4194304 + x0.toNat * 32768 + x1.toNat * 256 + x2.toNat * 2 + c3) (b_c0 : c0 < 2 ^ 6) (b_c1 : c1 < 2 ^ 1) (b_c2 : c2 < 2 ^ 3) (b_c3 : c3 < 2 ^ 1) :
    n < 2 ^ 32 ∧
      n / 2 ^ 26 = c0 ∧
      n / 2 ^ 25 % 2 ^ 1 = c1 ∧
      n / 2 ^ 22 % 2 ^ 3 = c2 ∧
      bf 7 n 15 = x0 ∧
      bf 7 n 8 = x1 ∧
      bf 7 n 1 = x2 ∧
      n / 2 ^ 0 % 2 ^ 1 = c3 := by
  have b_x0 := x0.isLt
  have b_x1 := x1.isLt
  have b_x2 := x2.isLt
  exact ⟨by omega,
    by omega,
    field_at (n := n) (lo := 25) (k := 1) (h := c0) (l := c2 * 4194304 + x0.toNat * 32768 + x1.toNat * 256 + x2.toNat * 2 + c3) (x := c1)
      (by show n = ((c0) * 2 + c1) * 33554432 + (c2 * 4194304 + x0.toNat * 32768 + x1.toNat * 256 + x2.toNat * 2 + c3); rw [e]; ring) (by show c2 * 4194304 + x0.toNat * 32768 + x1.toNat * 256 + x2.toNat * 2 + c3 < 33554432; omega) b_c1,
    field_at (n := n) (lo := 22) (k := 3) (h := c0 * 2 + c1) (l := x0.toNat * 32768 + x1.toNat * 256 + x2.toNat * 2 + c3) (x := c2)
      (by show n = ((c0 * 2 + c1) * 8 + c2) * 4194304 + (x0.toNat * 32768 + x1.toNat * 256 + x2.toNat * 2 + c3); rw [e]; ring) (by show x0.toNat * 32768 + x1.toNat * 256 + x2.toNat * 2 + c3 < 4194304; omega) b_c2,
    bf_eq (field_at (n := n) (lo := 15) (k := 7) (h := c0 * 16 + c1 * 8 + c2) (l := x1.toNat * 256 + x2.toNat * 2 + c3) (x := x0.toNat)
      (by show n = ((c0 * 16 + c1 * 8 + c2) * 128 + x0.toNat) * 32768 + (x1.toNat * 256 + x2.toNat * 2 + c3); rw [e]; ring) (by show x1.toNat * 256 + x2.toNat * 2 + c3 < 32768; omega) b_x0),
    bf_eq (field_at (n := n) (lo := 8) (k := 7) (h := c0 * 2048 + c1 * 1024 + c2 * 128 + x0.toNat) (l := x2.toNat * 2 + c3) (x := x1.toNat)
      (by show n = ((c0 * 2048 + c1 * 1024 + c2 * 128 + x0.toNat) * 128 + x1.toNat) * 256 + (x2.toNat * 2 + c3); rw [e]; ring) (by show x2.toNat * 2 + c3 < 256; omega) b_x1),
    bf_eq (field_at (n := n) (lo := 1) (k := 7) (h := c0 * 262144 + c1 * 131072 + c2 * 16384 + x0.toNat * 128 + x1.toNat) (l := c3) (x := x2.toNat)
      (by show n = ((c0 * 262144 + c1 * 131072 + c2 * 16384 + x0.toNat * 128 + x1.toNat) * 128 + x2.toNat) * 2 + (c3); rw [e]; ring) (by show c3 < 2; omega) b_x2),
    field_at (n := n) (lo := 0) (k := 1) (h := c0 * 33554432 + c1 * 16777216 + c2 * 2097152 + x0.toNat * 16384 + x1.toNat * 128 + x2.toNat) (l := 0) (x := c3)
      (by show n = ((c0 * 33554432 + c1 * 16777216 + c2 * 2097152 + x0.toNat * 16384 + x1.toNat * 128 + x2.toNat) * 2 + c3) * 1 + (0); rw [e]; ring) (by show 0 < 1; omega) b_c3⟩

theorem shape5 {c0 c1 c2 n : Nat} {x0 : BitVec 7} {x1 : BitVec 7} {x2 : BitVec 7} {x3 : BitVec 1}
    (e : n = c0 * 67108864 + c1 * 33554432 + c2 * 4194304 + x0.toNat * 32768 + x1.toNat * 256 + x2.toNat * 2 + x3.toNat) (b_c0 : c0 < 2 ^ 6) (b_c1 : c1 < 2 ^ 1) (b_c2 : c2 < 2 ^ 3) :
    n < 2 ^ 32 ∧
      n / 2 ^ 26 = c0 ∧
      n / 2 ^ 25 % 2 ^ 1 = c1 ∧
      n / 2 ^ 22 % 2 ^ 3 = c2 ∧
      bf 7 n 15 = x0 ∧
      bf 7 n 8 = x1 ∧
      bf 7 n 1 = x2 ∧
      bf 1 n 0 = x3 := by
  have b_x0 := x0.isLt
  have b_x1 := x1.isLt
  have b_x2 := x2.isLt
  have b_x3 := x3.isLt
  exact ⟨by omega,
    by omega,
    field_at (n := n) (lo := 25) (k := 1) (h := c0) (l := c2 * 4194304 + x0.toNat * 32768 + x1.toNat * 256 + x2.toNat * 2 + x3.toNat) (x := c1)
      (by show n = ((c0) * 2 + c1) * 33554432 + (c2 * 4194304 + x0.toNat * 32768 + x1.toNat * 256 + x2.toNat * 2 + x3.toNat); rw [e]; ring) (by show c2 * 4194304 + x0.toNat * 32768 + x1.toNat * 256 + x2.toNat * 2 + x3.toNat < 33554432; omega) b_c1,
    field_at (n := n) (lo := 22) (k := 3) (h := c0 * 2 + c1) (l := x0.toNat * 32768 + x1.toNat * 256 + x2.toNat * 2 + x3.toNat) (x := c2)
      (by show n = ((c0 * 2 + c1) * 8 + c2) * 4194304 + (x0.toNat * 32768 + x1.toNat * 256 + x2.toNat * 2 + x3.toNat); rw [e]; ring) (by show x0.toNat * 32768 + x1.toNat * 256 + x2.toNat * 2 + x3.toNat < 4194304; omega) b_c2,
    bf_eq (field_at (n := n) (lo := 15) (k := 7) (h := c0 * 16 + c1 * 8 + c2) (l := x1.toNat * 256 + x2.toNat * 2 + x3.toNat) (x := x0.toNat)
      (by show n = ((c0 * 16 + c1 * 8 + c2) * 128 + x0.toNat) * 32768 + (x1.toNat * 256 + x2.toNat * 2 + x3.toNat); rw [e]; ring) (by show x1.toNat * 256 + x2.toNat * 2 + x3.toNat < 32768; omega) b_x0),
    bf_eq (field_at (n := n) (lo := 8) (k := 7) (h := c0 * 2048 + c1 * 1024 + c2 * 128 + x0.toNat) (l := x2.toNat * 2 + x3.toNat) (x := x1.toNat)
      (by show n = ((c0 * 2048 + c1 * 1024 + c2 * 128 + x0.toNat) * 128 + x1.toNat) * 256 + (x2.toNat * 2 + x3.toNat); rw [e]; ring) (by show x2.toNat * 2 + x3.toNat < 256; omega) b_x1),
    bf_eq (field_at (n := n) (lo := 1) (k := 7) (h := c0 * 262144 + c1 * 131072 + c2 * 16384 + x0.toNat * 128 + x1.toNat) (l := x3.toNat) (x := x2.toNat)
      (by show n = ((c0 * 262144 + c1 * 131072 + c2 * 16384 + x0.toNat * 128 + x1.toNat) * 128 + x2.toNat) * 2 + (x3.toNat); rw [e]; ring) (by show x3.toNat < 2; omega) b_x2),
    bf_eq (field_at (n := n) (lo := 0) (k := 1) (h := c0 * 33554432 + c1 * 16777216 + c2 * 2097152 + x0.toNat * 16384 + x1.toNat * 128 + x2.toNat) (l := 0) (x := x3.toNat)
      (by show n = ((c0 * 33554432 + c1 * 16777216 + c2 * 2097152 + x0.toNat * 16384 + x1.toNat * 128 + x2.toNat) * 2 + x3.toNat) * 1 + (0); rw [e]; ring) (by show 0 < 1; omega) b_x3)⟩

theorem shape6 {c0 c1 n : Nat} {x0 : BitVec 7} {x1 : BitVec 7} {x2 : BitVec 9}
    (e : n = c0 * 67108864 + c1 * 8388608 + x0.toNat * 65536 + x1.toNat * 512 + x2.toNat) (b_c0 : c0 < 2 ^ 6) (b_c1 : c1 < 2 ^ 3) :
    n < 2 ^ 32 ∧
      n / 2 ^ 26 = c0 ∧
      n / 2 ^ 23 % 2 ^ 3 = c1 ∧
      bf 7 n 16 = x0 ∧
      bf 7 n 9 = x1 ∧
      bf 9 n 0 = x2 := by
  have b_x0 := x0.isLt
  have b_x1 := x1.isLt
  have b_x2 := x2.isLt
  exact ⟨by omega,
    by omega,
    field_at (n := n) (lo := 23) (k := 3) (h := c0) (l := x0.toNat * 65536 + x1.toNat * 512 + x2.toNat) (x := c1)
      (by show n = ((c0) * 8 + c1) * 8388608 + (x0.toNat * 65536 + x1.toNat * 512 + x2.toNat); rw [e]; ring) (by show x0.toNat * 65536 + x1.toNat * 512 + x2.toNat < 8388608; omega) b_c1,
    bf_eq (field_at (n := n) (lo := 16) (k := 7) (h := c0 * 8 + c1) (l := x1.toNat * 512 + x2.toNat) (x := x0.toNat)
      (by show n = ((c0 * 8 + c1) * 128 + x0.toNat) * 65536 + (x1.toNat * 512 + x2.toNat); rw [e]; ring) (by show x1.toNat * 512 + x2.toNat < 65536; omega) b_x0),
    bf_eq (field_at (n := n) (lo := 9) (k := 7) (h := c0 * 1024 + c1 * 128 + x0.toNat) (l := x2.toNat) (x := x1.toNat)
      (by show n = ((c0 * 1024 + c1 * 128 + x0.toNat) * 128 + x1.toNat) * 512 + (x2.toNat); rw [e]; ring) (by show x2.toNat < 512; omega) b_x1),
    bf_eq (field_at (n := n) (lo := 0) (k := 9) (h := c0 * 131072 + c1 * 16384 + x0.toNat * 128 + x1.toNat) (l := 0) (x := x2.toNat)
      (by show n = ((c0 * 131072 + c1 * 16384 + x0.toNat * 128 + x1.toNat) * 512 + x2.toNat) * 1 + (0); rw [e]; ring) (by show 0 < 1; omega) b_x2)⟩

theorem shape7 {c0 c1 c2 n : Nat} {x0 : BitVec 7} {x1 : BitVec 9}
    (e : n = c0 * 67108864 + c1 * 8388608 + x0.toNat * 65536 + c2 * 512 + x1.toNat) (b_c0 : c0 < 2 ^ 6) (b_c1 : c1 < 2 ^ 3) (b_c2 : c2 < 2 ^ 7) :
    n < 2 ^ 32 ∧
      n / 2 ^ 26 = c0 ∧
      n / 2 ^ 23 % 2 ^ 3 = c1 ∧
      bf 7 n 16 = x0 ∧
      n / 2 ^ 9 % 2 ^ 7 = c2 ∧
      bf 9 n 0 = x1 := by
  have b_x0 := x0.isLt
  have b_x1 := x1.isLt
  exact ⟨by omega,
    by omega,
    field_at (n := n) (lo := 23) (k := 3) (h := c0) (l := x0.toNat * 65536 + c2 * 512 + x1.toNat) (x := c1)
      (by show n = ((c0) * 8 + c1) * 8388608 + (x0.toNat * 65536 + c2 * 512 + x1.toNat); rw [e]; ring) (by show x0.toNat * 65536 + c2 * 512 + x1.toNat < 8388608; omega) b_c1,
    bf_eq (field_at (n := n) (lo := 16) (k := 7) (h := c0 * 8 + c1) (l := c2 * 512 + x1.toNat) (x := x0.toNat)
      (by show n = ((c0 * 8 + c1) * 128 + x0.toNat) * 65536 + (c2 * 512 + x1.toNat); rw [e]; ring) (by show c2 * 512 + x1.toNat < 65536; omega) b_x0),
    field_at (n := n) (lo := 9) (k := 7) (h := c0 * 1024 + c1 * 128 + x0.toNat) (l := x1.toNat) (x := c2)
      (by show n = ((c0 * 1024 + c1 * 128 + x0.toNat) * 128 + c2) * 512 + (x1.toNat); rw [e]; ring) (by show x1.toNat < 512; omega) b_c2,
    bf_eq (field_at (n := n) (lo := 0) (k := 9) (h := c0 * 131072 + c1 * 16384 + x0.toNat * 128 + c2) (l := 0) (x := x1.toNat)
      (by show n = ((c0 * 131072 + c1 * 16384 + x0.toNat * 128 + c2) * 512 + x1.toNat) * 1 + (0); rw [e]; ring) (by show 0 < 1; omega) b_x1)⟩

theorem shape8 {c0 c1 n : Nat} {x0 : BitVec 4} {x1 : BitVec 7} {x2 : BitVec 7} {x3 : BitVec 7}
    (e : n = c0 * 67108864 + x0.toNat * 4194304 + x1.toNat * 32768 + x2.toNat * 256 + x3.toNat * 2 + c1) (b_c0 : c0 < 2 ^ 6) (b_c1 : c1 < 2 ^ 1) :
    n < 2 ^ 32 ∧
      n / 2 ^ 26 = c0 ∧
      bf 4 n 22 = x0 ∧
      bf 7 n 15 = x1 ∧
      bf 7 n 8 = x2 ∧
      bf 7 n 1 = x3 ∧
      n / 2 ^ 0 % 2 ^ 1 = c1 := by
  have b_x0 := x0.isLt
  have b_x1 := x1.isLt
  have b_x2 := x2.isLt
  have b_x3 := x3.isLt
  exact ⟨by omega,
    by omega,
    bf_eq (field_at (n := n) (lo := 22) (k := 4) (h := c0) (l := x1.toNat * 32768 + x2.toNat * 256 + x3.toNat * 2 + c1) (x := x0.toNat)
      (by show n = ((c0) * 16 + x0.toNat) * 4194304 + (x1.toNat * 32768 + x2.toNat * 256 + x3.toNat * 2 + c1); rw [e]; ring) (by show x1.toNat * 32768 + x2.toNat * 256 + x3.toNat * 2 + c1 < 4194304; omega) b_x0),
    bf_eq (field_at (n := n) (lo := 15) (k := 7) (h := c0 * 16 + x0.toNat) (l := x2.toNat * 256 + x3.toNat * 2 + c1) (x := x1.toNat)
      (by show n = ((c0 * 16 + x0.toNat) * 128 + x1.toNat) * 32768 + (x2.toNat * 256 + x3.toNat * 2 + c1); rw [e]; ring) (by show x2.toNat * 256 + x3.toNat * 2 + c1 < 32768; omega) b_x1),
    bf_eq (field_at (n := n) (lo := 8) (k := 7) (h := c0 * 2048 + x0.toNat * 128 + x1.toNat) (l := x3.toNat * 2 + c1) (x := x2.toNat)
      (by show n = ((c0 * 2048 + x0.toNat * 128 + x1.toNat) * 128 + x2.toNat) * 256 + (x3.toNat * 2 + c1); rw [e]; ring) (by show x3.toNat * 2 + c1 < 256; omega) b_x2),
    bf_eq (field_at (n := n) (lo := 1) (k := 7) (h := c0 * 262144 + x0.toNat * 16384 + x1.toNat * 128 + x2.toNat) (l := c1) (x := x3.toNat)
      (by show n = ((c0 * 262144 + x0.toNat * 16384 + x1.toNat * 128 + x2.toNat) * 128 + x3.toNat) * 2 + (c1); rw [e]; ring) (by show c1 < 2; omega) b_x3),
    field_at (n := n) (lo := 0) (k := 1) (h := c0 * 33554432 + x0.toNat * 2097152 + x1.toNat * 16384 + x2.toNat * 128 + x3.toNat) (l := 0) (x := c1)
      (by show n = ((c0 * 33554432 + x0.toNat * 2097152 + x1.toNat * 16384 + x2.toNat * 128 + x3.toNat) * 2 + c1) * 1 + (0); rw [e]; ring) (by show 0 < 1; omega) b_c1⟩

theorem shape9 {c0 c1 c2 n : Nat} {x0 : BitVec 7} {x1 : BitVec 7} {x2 : BitVec 1}
    (e : n = c0 * 67108864 + c1 * 4194304 + x0.toNat * 32768 + c2 * 256 + x1.toNat * 2 + x2.toNat) (b_c0 : c0 < 2 ^ 6) (b_c1 : c1 < 2 ^ 4) (b_c2 : c2 < 2 ^ 7) :
    n < 2 ^ 32 ∧
      n / 2 ^ 26 = c0 ∧
      n / 2 ^ 22 % 2 ^ 4 = c1 ∧
      bf 7 n 15 = x0 ∧
      n / 2 ^ 8 % 2 ^ 7 = c2 ∧
      bf 7 n 1 = x1 ∧
      bf 1 n 0 = x2 := by
  have b_x0 := x0.isLt
  have b_x1 := x1.isLt
  have b_x2 := x2.isLt
  exact ⟨by omega,
    by omega,
    field_at (n := n) (lo := 22) (k := 4) (h := c0) (l := x0.toNat * 32768 + c2 * 256 + x1.toNat * 2 + x2.toNat) (x := c1)
      (by show n = ((c0) * 16 + c1) * 4194304 + (x0.toNat * 32768 + c2 * 256 + x1.toNat * 2 + x2.toNat); rw [e]; ring) (by show x0.toNat * 32768 + c2 * 256 + x1.toNat * 2 + x2.toNat < 4194304; omega) b_c1,
    bf_eq (field_at (n := n) (lo := 15) (k := 7) (h := c0 * 16 + c1) (l := c2 * 256 + x1.toNat * 2 + x2.toNat) (x := x0.toNat)
      (by show n = ((c0 * 16 + c1) * 128 + x0.toNat) * 32768 + (c2 * 256 + x1.toNat * 2 + x2.toNat); rw [e]; ring) (by show c2 * 256 + x1.toNat * 2 + x2.toNat < 32768; omega) b_x0),
    field_at (n := n) (lo := 8) (k := 7) (h := c0 * 2048 + c1 * 128 + x0.toNat) (l := x1.toNat * 2 + x2.toNat) (x := c2)
      (by show n = ((c0 * 2048 + c1 * 128 + x0.toNat) * 128 + c2) * 256 + (x1.toNat * 2 + x2.toNat); rw [e]; ring) (by show x1.toNat * 2 + x2.toNat < 256; omega) b_c2,
    bf_eq (field_at (n := n) (lo := 1) (k := 7) (h := c0 * 262144 + c1 * 16384 + x0.toNat * 128 + c2) (l := x2.toNat) (x := x1.toNat)
      (by show n = ((c0 * 262144 + c1 * 16384 + x0.toNat * 128 + c2) * 128 + x1.toNat) * 2 + (x2.toNat); rw [e]; ring) (by show x2.toNat < 2; omega) b_x1),
    bf_eq (field_at (n := n) (lo := 0) (k := 1) (h := c0 * 33554432 + c1 * 2097152 + x0.toNat * 16384 + c2 * 128 + x1.toNat) (l := 0) (x := x2.toNat)
      (by show n = ((c0 * 33554432 + c1 * 2097152 + x0.toNat * 16384 + c2 * 128 + x1.toNat) * 2 + x2.toNat) * 1 + (0); rw [e]; ring) (by show 0 < 1; omega) b_x2)⟩

theorem shape10 {c0 c1 c2 c3 n : Nat} {x0 : BitVec 7} {x1 : BitVec 7} {x2 : BitVec 1}
    (e : n = c0 * 67108864 + c1 * 33554432 + c2 * 4194304 + x0.toNat * 32768 + c3 * 256 + x1.toNat * 2 + x2.toNat) (b_c0 : c0 < 2 ^ 6) (b_c1 : c1 < 2 ^ 1) (b_c2 : c2 < 2 ^ 3) (b_c3 : c3 < 2 ^ 7) :
    n < 2 ^ 32 ∧
      n / 2 ^ 26 = c0 ∧
      n / 2 ^ 25 % 2 ^ 1 = c1 ∧
      n / 2 ^ 22 % 2 ^ 3 = c2 ∧
      bf 7 n 15 = x0 ∧
      n / 2 ^ 8 % 2 ^ 7 = c3 ∧
      bf 7 n 1 = x1 ∧
      bf 1 n 0 = x2 := by
  have b_x0 := x0.isLt
  have b_x1 := x1.isLt
  have b_x2 := x2.isLt
  exact ⟨by omega,
    by omega,
    field_at (n := n) (lo := 25) (k := 1) (h := c0) (l := c2 * 4194304 + x0.toNat * 32768 + c3 * 256 + x1.toNat * 2 + x2.toNat) (x := c1)
      (by show n = ((c0) * 2 + c1) * 33554432 + (c2 * 4194304 + x0.toNat * 32768 + c3 * 256 + x1.toNat * 2 + x2.toNat); rw [e]; ring) (by show c2 * 4194304 + x0.toNat * 32768 + c3 * 256 + x1.toNat * 2 + x2.toNat < 33554432; omega) b_c1,
    field_at (n := n) (lo := 22) (k := 3) (h := c0 * 2 + c1) (l := x0.toNat * 32768 + c3 * 256 + x1.toNat * 2 + x2.toNat) (x := c2)
      (by show n = ((c0 * 2 + c1) * 8 + c2) * 4194304 + (x0.toNat * 32768 + c3 * 256 + x1.toNat * 2 + x2.toNat); rw [e]; ring) (by show x0.toNat * 32768 + c3 * 256 + x1.toNat * 2 + x2.toNat < 4194304; omega) b_c2,
    bf_eq (field_at (n := n) (lo := 15) (k := 7) (h := c0 * 16 + c1 * 8 + c2) (l := c3 * 256 + x1.toNat * 2 + x2.toNat) (x := x0.toNat)
      (by show n = ((c0 * 16 + c1 * 8 + c2) * 128 + x0.toNat) * 32768 + (c3 * 256 + x1.toNat * 2 + x2.toNat); rw [e]; ring) (by show c3 * 256 + x1.toNat * 2 + x2.toNat < 32768; omega) b_x0),
    field_at (n := n) (lo := 8) (k := 7) (h := c0 * 2048 + c1 * 1024 + c2 * 128 + x0.toNat) (l := x1.toNat * 2 + x2.toNat) (x := c3)
      (by show n = ((c0 * 2048 + c1 * 1024 + c2 * 128 + x0.toNat) * 128 + c3) * 256 + (x1.toNat * 2 + x2.toNat); rw [e]; ring) (by show x1.toNat * 2 + x2.toNat < 256; omega) b_c3,
    bf_eq (field_at (n := n) (lo := 1) (k := 7) (h := c0 * 262144 + c1 * 131072 + c2 * 16384 + x0.toNat * 128 + c3) (l := x2.toNat) (x := x1.toNat)
      (by show n = ((c0 * 262144 + c1 * 131072 + c2 * 16384 + x0.toNat * 128 + c3) * 128 + x1.toNat) * 2 + (x2.toNat); rw [e]; ring) (by show x2.toNat < 2; omega) b_x1),
    bf_eq (field_at (n := n) (lo := 0) (k := 1) (h := c0 * 33554432 + c1 * 16777216 + c2 * 2097152 + x0.toNat * 16384 + c3 * 128 + x1.toNat) (l := 0) (x := x2.toNat)
      (by show n = ((c0 * 33554432 + c1 * 16777216 + c2 * 2097152 + x0.toNat * 16384 + c3 * 128 + x1.toNat) * 2 + x2.toNat) * 1 + (0); rw [e]; ring) (by show 0 < 1; omega) b_x2)⟩

theorem shape11 {c0 c1 c2 n : Nat} {x0 : BitVec 4} {x1 : BitVec 7} {x2 : BitVec 7}
    (e : n = c0 * 67108864 + x0.toNat * 4194304 + x1.toNat * 32768 + x2.toNat * 256 + c1 * 2 + c2) (b_c0 : c0 < 2 ^ 6) (b_c1 : c1 < 2 ^ 7) (b_c2 : c2 < 2 ^ 1) :
    n < 2 ^ 32 ∧
      n / 2 ^ 26 = c0 ∧
      bf 4 n 22 = x0 ∧
      bf 7 n 15 = x1 ∧
      bf 7 n 8 = x2 ∧
      n / 2 ^ 1 % 2 ^ 7 = c1 ∧
      n / 2 ^ 0 % 2 ^ 1 = c2 := by
  have b_x0 := x0.isLt
  have b_x1 := x1.isLt
  have b_x2 := x2.isLt
  exact ⟨by omega,
    by omega,
    bf_eq (field_at (n := n) (lo := 22) (k := 4) (h := c0) (l := x1.toNat * 32768 + x2.toNat * 256 + c1 * 2 + c2) (x := x0.toNat)
      (by show n = ((c0) * 16 + x0.toNat) * 4194304 + (x1.toNat * 32768 + x2.toNat * 256 + c1 * 2 + c2); rw [e]; ring) (by show x1.toNat * 32768 + x2.toNat * 256 + c1 * 2 + c2 < 4194304; omega) b_x0),
    bf_eq (field_at (n := n) (lo := 15) (k := 7) (h := c0 * 16 + x0.toNat) (l := x2.toNat * 256 + c1 * 2 + c2) (x := x1.toNat)
      (by show n = ((c0 * 16 + x0.toNat) * 128 + x1.toNat) * 32768 + (x2.toNat * 256 + c1 * 2 + c2); rw [e]; ring) (by show x2.toNat * 256 + c1 * 2 + c2 < 32768; omega) b_x1),
    bf_eq (field_at (n := n) (lo := 8) (k := 7) (h := c0 * 2048 + x0.toNat * 128 + x1.toNat) (l := c1 * 2 + c2) (x := x2.toNat)
      (by show n = ((c0 * 2048 + x0.toNat * 128 + x1.toNat) * 128 + x2.toNat) * 256 + (c1 * 2 + c2); rw [e]; ring) (by show c1 * 2 + c2 < 256; omega) b_x2),
    field_at (n := n) (lo := 1) (k := 7) (h := c0 * 262144 + x0.toNat * 16384 + x1.toNat * 128 + x2.toNat) (l := c2) (x := c1)
      (by show n = ((c0 * 262144 + x0.toNat * 16384 + x1.toNat * 128 + x2.toNat) * 128 + c1) * 2 + (c2); rw [e]; ring) (by show c2 < 2; omega) b_c1,
    field_at (n := n) (lo := 0) (k := 1) (h := c0 * 33554432 + x0.toNat * 2097152 + x1.toNat * 16384 + x2.toNat * 128 + c1) (l := 0) (x := c2)
      (by show n = ((c0 * 33554432 + x0.toNat * 2097152 + x1.toNat * 16384 + x2.toNat * 128 + c1) * 2 + c2) * 1 + (0); rw [e]; ring) (by show 0 < 1; omega) b_c2⟩

theorem shape12 {c0 c1 c2 n : Nat} {x0 : BitVec 7} {x1 : BitVec 7} {x2 : BitVec 7}
    (e : n = c0 * 67108864 + c1 * 4194304 + x0.toNat * 32768 + x1.toNat * 256 + x2.toNat * 2 + c2) (b_c0 : c0 < 2 ^ 6) (b_c1 : c1 < 2 ^ 4) (b_c2 : c2 < 2 ^ 1) :
    n < 2 ^ 32 ∧
      n / 2 ^ 26 = c0 ∧
      n / 2 ^ 22 % 2 ^ 4 = c1 ∧
      bf 7 n 15 = x0 ∧
      bf 7 n 8 = x1 ∧
      bf 7 n 1 = x2 ∧
      n / 2 ^ 0 % 2 ^ 1 = c2 := by
  have b_x0 := x0.isLt
  have b_x1 := x1.isLt
  have b_x2 := x2.isLt
  exact ⟨by omega,
    by omega,
    field_at (n := n) (lo := 22) (k := 4) (h := c0) (l := x0.toNat * 32768 + x1.toNat * 256 + x2.toNat * 2 + c2) (x := c1)
      (by show n = ((c0) * 16 + c1) * 4194304 + (x0.toNat * 32768 + x1.toNat * 256 + x2.toNat * 2 + c2); rw [e]; ring) (by show x0.toNat * 32768 + x1.toNat * 256 + x2.toNat * 2 + c2 < 4194304; omega) b_c1,
    bf_eq (field_at (n := n) (lo := 15) (k := 7) (h := c0 * 16 + c1) (l := x1.toNat * 256 + x2.toNat * 2 + c2) (x := x0.toNat)
      (by show n = ((c0 * 16 + c1) * 128 + x0.toNat) * 32768 + (x1.toNat * 256 + x2.toNat * 2 + c2); rw [e]; ring) (by show x1.toNat * 256 + x2.toNat * 2 + c2 < 32768; omega) b_x0),
    bf_eq (field_at (n := n) (lo := 8) (k := 7) (h := c0 * 2048 + c1 * 128 + x0.toNat) (l := x2.toNat * 2 + c2) (x := x1.toNat)
      (by show n = ((c0 * 2048 + c1 * 128 + x0.toNat) * 128 + x1.toNat) * 256 + (x2.toNat * 2 + c2); rw [e]; ring) (by show x2.toNat * 2 + c2 < 256; omega) b_x1),
    bf_eq (field_at (n := n) (lo := 1) (k := 7) (h := c0 * 262144 + c1 * 16384 + x0.toNat * 128 + x1.toNat) (l := c2) (x := x2.toNat)
      (by show n = ((c0 * 262144 + c1 * 16384 + x0.toNat * 128 + x1.toNat) * 128 + x2.toNat) * 2 + (c2); rw [e]; ring) (by show c2 < 2; omega) b_x2),
    field_at (n := n) (lo := 0) (k := 1) (h := c0 * 33554432 + c1 * 2097152 + x0.toNat * 16384 + x1.toNat * 128 + x2.toNat) (l := 0) (x := c2)
      (by show n = ((c0 * 33554432 + c1 * 2097152 + x0.toNat * 16384 + x1.toNat * 128 + x2.toNat) * 2 + c2) * 1 + (0); rw [e]; ring) (by show 0 < 1; omega) b_c2⟩

theorem shape13 {c0 c1 c2 n : Nat} {x0 : BitVec 7} {x1 : BitVec 7}
    (e : n = c0 * 67108864 + c1 * 4194304 + x0.toNat * 32768 + x1.toNat * 256 + c2) (b_c0 : c0 < 2 ^ 6) (b_c1 : c1 < 2 ^ 4) (b_c2 : c2 < 2 ^ 8) :
    n < 2 ^ 32 ∧
      n / 2 ^ 26 = c0 ∧
      n / 2 ^ 22 % 2 ^ 4 = c1 ∧
      bf 7 n 15 = x0 ∧
      bf 7 n 8 = x1 ∧
      n / 2 ^ 0 % 2 ^ 8 = c2 := by
  have b_x0 := x0.isLt
  have b_x1 := x1.isLt
  exact ⟨by omega,
    by omega,
    field_at (n := n) (lo := 22) (k := 4) (h := c0) (l := x0.toNat * 32768 + x1.toNat * 256 + c2) (x := c1)
      (by show n = ((c0) * 16 + c1) * 4194304 + (x0.toNat * 32768 + x1.toNat * 256 + c2); rw [e]; ring) (by show x0.toNat * 32768 + x1.toNat * 256 + c2 < 4194304; omega) b_c1,
    bf_eq (field_at (n := n) (lo := 15) (k := 7) (h := c0 * 16 + c1) (l := x1.toNat * 256 + c2) (x := x0.toNat)
      (by show n = ((c0 * 16 + c1) * 128 + x0.toNat) * 32768 + (x1.toNat * 256 + c2); rw [e]; ring) (by show x1.toNat * 256 + c2 < 32768; omega) b_x0),
    bf_eq (field_at (n := n) (lo := 8) (k := 7) (h := c0 * 2048 + c1 * 128 + x0.toNat) (l := c2) (x := x1.toNat)
      (by show n = ((c0 * 2048 + c1 * 128 + x0.toNat) * 128 + x1.toNat) * 256 + (c2); rw [e]; ring) (by show c2 < 256; omega) b_x1),
    field_at (n := n) (lo := 0) (k := 8) (h := c0 * 262144 + c1 * 16384 + x0.toNat * 128 + x1.toNat) (l := 0) (x := c2)
      (by show n = ((c0 * 262144 + c1 * 16384 + x0.toNat * 128 + x1.toNat) * 256 + c2) * 1 + (0); rw [e]; ring) (by show 0 < 1; omega) b_c2⟩

theorem shape14 {c0 c1 c2 c3 n : Nat} {x0 : BitVec 7} {x1 : BitVec 7}
    (e : n = c0 * 67108864 + c1 * 4194304 + x0.toNat * 32768 + c2 * 256 + x1.toNat * 2 + c3) (b_c0 : c0 < 2 ^ 6) (b_c1 : c1 < 2 ^ 4) (b_c2 : c2 < 2 ^ 7) (b_c3 : c3 < 2 ^ 1) :
    n < 2 ^ 32 ∧
      n / 2 ^ 26 = c0 ∧
      n / 2 ^ 22 % 2 ^ 4 = c1 ∧
      bf 7 n 15 = x0 ∧
      n / 2 ^ 8 % 2 ^ 7 = c2 ∧
      bf 7 n 1 = x1 ∧
      n / 2 ^ 0 % 2 ^ 1 = c3 := by
  have b_x0 := x0.isLt
  have b_x1 := x1.isLt
  exact ⟨by omega,
    by omega,
    field_at (n := n) (lo := 22) (k := 4) (h := c0) (l := x0.toNat * 32768 + c2 * 256 + x1.toNat * 2 + c3) (x := c1)
      (by show n = ((c0) * 16 + c1) * 4194304 + (x0.toNat * 32768 + c2 * 256 + x1.toNat * 2 + c3); rw [e]; ring) (by show x0.toNat * 32768 + c2 * 256 + x1.toNat * 2 + c3 < 4194304; omega) b_c1,
    bf_eq (field_at (n := n) (lo := 15) (k := 7) (h := c0 * 16 + c1) (l := c2 * 256 + x1.toNat * 2 + c3) (x := x0.toNat)
      (by show n = ((c0 * 16 + c1) * 128 + x0.toNat) * 32768 + (c2 * 256 + x1.toNat * 2 + c3); rw [e]; ring) (by show c2 * 256 + x1.toNat * 2 + c3 < 32768; omega) b_x0),
    field_at (n := n) (lo := 8) (k := 7) (h := c0 * 2048 + c1 * 128 + x0.toNat) (l := x1.toNat * 2 + c3) (x := c2)
      (by show n = ((c0 * 2048 + c1 * 128 + x0.toNat) * 128 + c2) * 256 + (x1.toNat * 2 + c3); rw [e]; ring) (by show x1.toNat * 2 + c3 < 256; omega) b_c2,
    bf_eq (field_at (n := n) (lo := 1) (k := 7) (h := c0 * 262144 + c1 * 16384 + x0.toNat * 128 + c2) (l := c3) (x := x1.toNat)
      (by show n = ((c0 * 262144 + c1 * 16384 + x0.toNat * 128 + c2) * 128 + x1.toNat) * 2 + (c3); rw [e]; ring) (by show c3 < 2; omega) b_x1),
    field_at (n := n) (lo := 0) (k := 1) (h := c0 * 33554432 + c1 * 2097152 + x0.toNat * 16384 + c2 * 128 + x1.toNat) (l := 0) (x := c3)
      (by show n = ((c0 * 33554432 + c1 * 2097152 + x0.toNat * 16384 + c2 * 128 + x1.toNat) * 2 + c3) * 1 + (0); rw [e]; ring) (by show 0 < 1; omega) b_c3⟩

theorem shape15 {c0 c1 c2 n : Nat} {x0 : BitVec 7}
    (e : n = c0 * 67108864 + c1 * 4194304 + x0.toNat * 32768 + c2) (b_c0 : c0 < 2 ^ 6) (b_c1 : c1 < 2 ^ 4) (b_c2 : c2 < 2 ^ 15) :
    n < 2 ^ 32 ∧
      n / 2 ^ 26 = c0 ∧
      n / 2 ^ 22 % 2 ^ 4 = c1 ∧
      bf 7 n 15 = x0 ∧
      n / 2 ^ 0 % 2 ^ 15 = c2 := by
  have b_x0 := x0.isLt
  exact ⟨by omega,
    by omega,
    field_at (n := n) (lo := 22) (k := 4) (h := c0) (l := x0.toNat * 32768 + c2) (x := c1)
      (by show n = ((c0) * 16 + c1) * 4194304 + (x0.toNat * 32768 + c2); rw [e]; ring) (by show x0.toNat * 32768 + c2 < 4194304; omega) b_c1,
    bf_eq (field_at (n := n) (lo := 15) (k := 7) (h := c0 * 16 + c1) (l := c2) (x := x0.toNat)
      (by show n = ((c0 * 16 + c1) * 128 + x0.toNat) * 32768 + (c2); rw [e]; ring) (by show c2 < 32768; omega) b_x0),
    field_at (n := n) (lo := 0) (k := 15) (h := c0 * 2048 + c1 * 128 + x0.toNat) (l := 0) (x := c2)
      (by show n = ((c0 * 2048 + c1 * 128 + x0.toNat) * 32768 + c2) * 1 + (0); rw [e]; ring) (by show 0 < 1; omega) b_c2⟩

theorem shape16 {c0 c1 n : Nat} {x0 : BitVec 6} {x1 : BitVec 17}
    (e : n = c0 * 67108864 + c1 * 8388608 + x0.toNat * 131072 + x1.toNat) (b_c0 : c0 < 2 ^ 6) (b_c1 : c1 < 2 ^ 3) :
    n < 2 ^ 32 ∧
      n / 2 ^ 26 = c0 ∧
      n / 2 ^ 23 % 2 ^ 3 = c1 ∧
      bf 6 n 17 = x0 ∧
      bf 17 n 0 = x1 := by
  have b_x0 := x0.isLt
  have b_x1 := x1.isLt
  exact ⟨by omega,
    by omega,
    field_at (n := n) (lo := 23) (k := 3) (h := c0) (l := x0.toNat * 131072 + x1.toNat) (x := c1)
      (by show n = ((c0) * 8 + c1) * 8388608 + (x0.toNat * 131072 + x1.toNat); rw [e]; ring) (by show x0.toNat * 131072 + x1.toNat < 8388608; omega) b_c1,
    bf_eq (field_at (n := n) (lo := 17) (k := 6) (h := c0 * 8 + c1) (l := x1.toNat) (x := x0.toNat)
      (by show n = ((c0 * 8 + c1) * 64 + x0.toNat) * 131072 + (x1.toNat); rw [e]; ring) (by show x1.toNat < 131072; omega) b_x0),
    bf_eq (field_at (n := n) (lo := 0) (k := 17) (h := c0 * 512 + c1 * 64 + x0.toNat) (l := 0) (x := x1.toNat)
      (by show n = ((c0 * 512 + c1 * 64 + x0.toNat) * 131072 + x1.toNat) * 1 + (0); rw [e]; ring) (by show 0 < 1; omega) b_x1)⟩

theorem shape17 {c0 c1 c2 n : Nat} {x0 : BitVec 17}
    (e : n = c0 * 67108864 + c1 * 8388608 + c2 * 131072 + x0.toNat) (b_c0 : c0 < 2 ^ 6) (b_c1 : c1 < 2 ^ 3) (b_c2 : c2 < 2 ^ 6) :
    n < 2 ^ 32 ∧
      n / 2 ^ 26 = c0 ∧
      n / 2 ^ 23 % 2 ^ 3 = c1 ∧
      n / 2 ^ 17 % 2 ^ 6 = c2 ∧
      bf 17 n 0 = x0 := by
  have b_x0 := x0.isLt
  exact ⟨by omega,
    by omega,
    field_at (n := n) (lo := 23) (k := 3) (h := c0) (l := c2 * 131072 + x0.toNat) (x := c1)
      (by show n = ((c0) * 8 + c1) * 8388608 + (c2 * 131072 + x0.toNat); rw [e]; ring) (by show c2 * 131072 + x0.toNat < 8388608; omega) b_c1,
    field_at (n := n) (lo := 17) (k := 6) (h := c0 * 8 + c1) (l := x0.toNat) (x := c2)
      (by show n = ((c0 * 8 + c1) * 64 + c2) * 131072 + (x0.toNat); rw [e]; ring) (by show x0.toNat < 131072; omega) b_c2,
    bf_eq (field_at (n := n) (lo := 0) (k := 17) (h := c0 * 512 + c1 * 64 + c2) (l := 0) (x := x0.toNat)
      (by show n = ((c0 * 512 + c1 * 64 + c2) * 131072 + x0.toNat) * 1 + (0); rw [e]; ring) (by show 0 < 1; omega) b_x0)⟩

theorem shape18 {c0 c1 n : Nat} {x0 : BitVec 4} {x1 : BitVec 19}
    (e : n = c0 * 67108864 + c1 * 8388608 + x0.toNat * 524288 + x1.toNat) (b_c0 : c0 < 2 ^ 6) (b_c1 : c1 < 2 ^ 3) :
    n < 2 ^ 32 ∧
      n / 2 ^ 26 = c0 ∧
      n / 2 ^ 23 % 2 ^ 3 = c1 ∧
      bf 4 n 19 = x0 ∧
      bf 19 n 0 = x1 := by
  have b_x0 := x0.isLt
  have b_x1 := x1.isLt
  exact ⟨by omega,
    by omega,
    field_at (n := n) (lo := 23) (k := 3) (h := c0) (l := x0.toNat * 524288 + x1.toNat) (x := c1)
      (by show n = ((c0) * 8 + c1) * 8388608 + (x0.toNat * 524288 + x1.toNat); rw [e]; ring) (by show x0.toNat * 524288 + x1.toNat < 8388608; omega) b_c1,
    bf_eq (field_at (n := n) (lo := 19) (k := 4) (h := c0 * 8 + c1) (l := x1.toNat) (x := x0.toNat)
      (by show n = ((c0 * 8 + c1) * 16 + x0.toNat) * 524288 + (x1.toNat); rw [e]; ring) (by show x1.toNat < 524288; omega) b_x0),
    bf_eq (field_at (n := n) (lo := 0) (k := 19) (h := c0 * 128 + c1 * 16 + x0.toNat) (l := 0) (x := x1.toNat)
      (by show n = ((c0 * 128 + c1 * 16 + x0.toNat) * 524288 + x1.toNat) * 1 + (0); rw [e]; ring) (by show 0 < 1; omega) b_x1)⟩

theorem shape19 {c0 c1 c2 n : Nat} {x0 : BitVec 19}
    (e : n = c0 * 67108864 + c1 * 8388608 + c2 * 524288 + x0.toNat) (b_c0 : c0 < 2 ^ 6) (b_c1 : c1 < 2 ^ 3) (b_c2 : c2 < 2 ^ 4) :
    n < 2 ^ 32 ∧
      n / 2 ^ 26 = c0 ∧
      n / 2 ^ 23 % 2 ^ 3 = c1 ∧
      n / 2 ^ 19 % 2 ^ 4 = c2 ∧
      bf 19 n 0 = x0 := by
  have b_x0 := x0.isLt
  exact ⟨by omega,
    by omega,
    field_at (n := n) (lo := 23) (k := 3) (h := c0) (l := c2 * 524288 + x0.toNat) (x := c1)
      (by show n = ((c0) * 8 + c1) * 8388608 + (c2 * 524288 + x0.toNat); rw [e]; ring) (by show c2 * 524288 + x0.toNat < 8388608; omega) b_c1,
    field_at (n := n) (lo := 19) (k := 4) (h := c0 * 8 + c1) (l := x0.toNat) (x := c2)
      (by show n = ((c0 * 8 + c1) * 16 + c2) * 524288 + (x0.toNat); rw [e]; ring) (by show x0.toNat < 524288; omega) b_c2,
    bf_eq (field_at (n := n) (lo := 0) (k := 19) (h := c0 * 128 + c1 * 16 + c2) (l := 0) (x := x0.toNat)
      (by show n = ((c0 * 128 + c1 * 16 + c2) * 524288 + x0.toNat) * 1 + (0); rw [e]; ring) (by show 0 < 1; omega) b_x0)⟩

theorem shape20 {c0 c1 c2 n : Nat} {x0 : BitVec 6}
    (e : n = c0 * 67108864 + c1 * 1048576 + x0.toNat * 16384 + c2) (b_c0 : c0 < 2 ^ 6) (b_c1 : c1 < 2 ^ 6) (b_c2 : c2 < 2 ^ 14) :
    n < 2 ^ 32 ∧
      n / 2 ^ 26 = c0 ∧
      n / 2 ^ 20 % 2 ^ 6 = c1 ∧
      bf 6 n 14 = x0 ∧
      n / 2 ^ 0 % 2 ^ 14 = c2 := by
  have b_x0 := x0.isLt
  exact ⟨by omega,
    by omega,
    field_at (n := n) (lo := 20) (k := 6) (h := c0) (l := x0.toNat * 16384 + c2) (x := c1)
      (by show n = ((c0) * 64 + c1) * 1048576 + (x0.toNat * 16384 + c2); rw [e]; ring) (by show x0.toNat * 16384 + c2 < 1048576; omega) b_c1,
    bf_eq (field_at (n := n) (lo := 14) (k := 6) (h := c0 * 64 + c1) (l := c2) (x := x0.toNat)
      (by show n = ((c0 * 64 + c1) * 64 + x0.toNat) * 16384 + (c2); rw [e]; ring) (by show c2 < 16384; omega) b_x0),
    field_at (n := n) (lo := 0) (k := 14) (h := c0 * 4096 + c1 * 64 + x0.toNat) (l := 0) (x := c2)
      (by show n = ((c0 * 4096 + c1 * 64 + x0.toNat) * 16384 + c2) * 1 + (0); rw [e]; ring) (by show 0 < 1; omega) b_c2⟩

theorem shape21 {c0 c1 c2 n : Nat} {x0 : BitVec 6} {x1 : BitVec 6}
    (e : n = c0 * 67108864 + c1 * 1048576 + x0.toNat * 16384 + x1.toNat * 256 + c2) (b_c0 : c0 < 2 ^ 6) (b_c1 : c1 < 2 ^ 6) (b_c2 : c2 < 2 ^ 8) :
    n < 2 ^ 32 ∧
      n / 2 ^ 26 = c0 ∧
      n / 2 ^ 20 % 2 ^ 6 = c1 ∧
      bf 6 n 14 = x0 ∧
      bf 6 n 8 = x1 ∧
      n / 2 ^ 0 % 2 ^ 8 = c2 := by
  have b_x0 := x0.isLt
  have b_x1 := x1.isLt
  exact ⟨by omega,
    by omega,
    field_at (n := n) (lo := 20) (k := 6) (h := c0) (l := x0.toNat * 16384 + x1.toNat * 256 + c2) (x := c1)
      (by show n = ((c0) * 64 + c1) * 1048576 + (x0.toNat * 16384 + x1.toNat * 256 + c2); rw [e]; ring) (by show x0.toNat * 16384 + x1.toNat * 256 + c2 < 1048576; omega) b_c1,
    bf_eq (field_at (n := n) (lo := 14) (k := 6) (h := c0 * 64 + c1) (l := x1.toNat * 256 + c2) (x := x0.toNat)
      (by show n = ((c0 * 64 + c1) * 64 + x0.toNat) * 16384 + (x1.toNat * 256 + c2); rw [e]; ring) (by show x1.toNat * 256 + c2 < 16384; omega) b_x0),
    bf_eq (field_at (n := n) (lo := 8) (k := 6) (h := c0 * 4096 + c1 * 64 + x0.toNat) (l := c2) (x := x1.toNat)
      (by show n = ((c0 * 4096 + c1 * 64 + x0.toNat) * 64 + x1.toNat) * 256 + (c2); rw [e]; ring) (by show c2 < 256; omega) b_x1),
    field_at (n := n) (lo := 0) (k := 8) (h := c0 * 262144 + c1 * 4096 + x0.toNat * 64 + x1.toNat) (l := 0) (x := c2)
      (by show n = ((c0 * 262144 + c1 * 4096 + x0.toNat * 64 + x1.toNat) * 256 + c2) * 1 + (0); rw [e]; ring) (by show 0 < 1; omega) b_c2⟩

theorem shape22 {c0 n : Nat} {x0 : BitVec 3} {x1 : BitVec 7} {x2 : BitVec 6} {x3 : BitVec 8} {x4 : BitVec 2}
    (e : n = c0 * 67108864 + x0.toNat * 8388608 + x1.toNat * 65536 + x2.toNat * 1024 + x3.toNat * 4 + x4.toNat) (b_c0 : c0 < 2 ^ 6) :
    n < 2 ^ 32 ∧
      n / 2 ^ 26 = c0 ∧
      bf 3 n 23 = x0 ∧
      bf 7 n 16 = x1 ∧
      bf 6 n 10 = x2 ∧
      bf 8 n 2 = x3 ∧
      bf 2 n 0 = x4 := by
  have b_x0 := x0.isLt
  have b_x1 := x1.isLt
  have b_x2 := x2.isLt
  have b_x3 := x3.isLt
  have b_x4 := x4.isLt
  exact ⟨by omega,
    by omega,
    bf_eq (field_at (n := n) (lo := 23) (k := 3) (h := c0) (l := x1.toNat * 65536 + x2.toNat * 1024 + x3.toNat * 4 + x4.toNat) (x := x0.toNat)
      (by show n = ((c0) * 8 + x0.toNat) * 8388608 + (x1.toNat * 65536 + x2.toNat * 1024 + x3.toNat * 4 + x4.toNat); rw [e]; ring) (by show x1.toNat * 65536 + x2.toNat * 1024 + x3.toNat * 4 + x4.toNat < 8388608; omega) b_x0),
    bf_eq (field_at (n := n) (lo := 16) (k := 7) (h := c0 * 8 + x0.toNat) (l := x2.toNat * 1024 + x3.toNat * 4 + x4.toNat) (x := x1.toNat)
      (by show n = ((c0 * 8 + x0.toNat) * 128 + x1.toNat) * 65536 + (x2.toNat * 1024 + x3.toNat * 4 + x4.toNat); rw [e]; ring) (by show x2.toNat * 1024 + x3.toNat * 4 + x4.toNat < 65536; omega) b_x1),
    bf_eq (field_at (n := n) (lo := 10) (k := 6) (h := c0 * 1024 + x0.toNat * 128 + x1.toNat) (l := x3.toNat * 4 + x4.toNat) (x := x2.toNat)
      (by show n = ((c0 * 1024 + x0.toNat * 128 + x1.toNat) * 64 + x2.toNat) * 1024 + (x3.toNat * 4 + x4.toNat); rw [e]; ring) (by show x3.toNat * 4 + x4.toNat < 1024; omega) b_x2),
    bf_eq (field_at (n := n) (lo := 2) (k := 8) (h := c0 * 65536 + x0.toNat * 8192 + x1.toNat * 64 + x2.toNat) (l := x4.toNat) (x := x3.toNat)
      (by show n = ((c0 * 65536 + x0.toNat * 8192 + x1.toNat * 64 + x2.toNat) * 256 + x3.toNat) * 4 + (x4.toNat); rw [e]; ring) (by show x4.toNat < 4; omega) b_x3),
    bf_eq (field_at (n := n) (lo := 0) (k := 2) (h := c0 * 16777216 + x0.toNat * 2097152 + x1.toNat * 16384 + x2.toNat * 256 + x3.toNat) (l := 0) (x := x4.toNat)
      (by show n = ((c0 * 16777216 + x0.toNat * 2097152 + x1.toNat * 16384 + x2.toNat * 256 + x3.toNat) * 4 + x4.toNat) * 1 + (0); rw [e]; ring) (by show 0 < 1; omega) b_x4)⟩

theorem shape23 {c0 c1 n : Nat} {x0 : BitVec 2} {x1 : BitVec 7} {x2 : BitVec 6} {x3 : BitVec 8} {x4 : BitVec 2}
    (e : n = c0 * 67108864 + c1 * 33554432 + x0.toNat * 8388608 + x1.toNat * 65536 + x2.toNat * 1024 + x3.toNat * 4 + x4.toNat) (b_c0 : c0 < 2 ^ 6) (b_c1 : c1 < 2 ^ 1) :
    n < 2 ^ 32 ∧
      n / 2 ^ 26 = c0 ∧
      n / 2 ^ 25 % 2 ^ 1 = c1 ∧
      bf 2 n 23 = x0 ∧
      bf 7 n 16 = x1 ∧
      bf 6 n 10 = x2 ∧
      bf 8 n 2 = x3 ∧
      bf 2 n 0 = x4 := by
  have b_x0 := x0.isLt
  have b_x1 := x1.isLt
  have b_x2 := x2.isLt
  have b_x3 := x3.isLt
  have b_x4 := x4.isLt
  exact ⟨by omega,
    by omega,
    field_at (n := n) (lo := 25) (k := 1) (h := c0) (l := x0.toNat * 8388608 + x1.toNat * 65536 + x2.toNat * 1024 + x3.toNat * 4 + x4.toNat) (x := c1)
      (by show n = ((c0) * 2 + c1) * 33554432 + (x0.toNat * 8388608 + x1.toNat * 65536 + x2.toNat * 1024 + x3.toNat * 4 + x4.toNat); rw [e]; ring) (by show x0.toNat * 8388608 + x1.toNat * 65536 + x2.toNat * 1024 + x3.toNat * 4 + x4.toNat < 33554432; omega) b_c1,
    bf_eq (field_at (n := n) (lo := 23) (k := 2) (h := c0 * 2 + c1) (l := x1.toNat * 65536 + x2.toNat * 1024 + x3.toNat * 4 + x4.toNat) (x := x0.toNat)
      (by show n = ((c0 * 2 + c1) * 4 + x0.toNat) * 8388608 + (x1.toNat * 65536 + x2.toNat * 1024 + x3.toNat * 4 + x4.toNat); rw [e]; ring) (by show x1.toNat * 65536 + x2.toNat * 1024 + x3.toNat * 4 + x4.toNat < 8388608; omega) b_x0),
    bf_eq (field_at (n := n) (lo := 16) (k := 7) (h := c0 * 8 + c1 * 4 + x0.toNat) (l := x2.toNat * 1024 + x3.toNat * 4 + x4.toNat) (x := x1.toNat)
      (by show n = ((c0 * 8 + c1 * 4 + x0.toNat) * 128 + x1.toNat) * 65536 + (x2.toNat * 1024 + x3.toNat * 4 + x4.toNat); rw [e]; ring) (by show x2.toNat * 1024 + x3.toNat * 4 + x4.toNat < 65536; omega) b_x1),
    bf_eq (field_at (n := n) (lo := 10) (k := 6) (h := c0 * 1024 + c1 * 512 + x0.toNat * 128 + x1.toNat) (l := x3.toNat * 4 + x4.toNat) (x := x2.toNat)
      (by show n = ((c0 * 1024 + c1 * 512 + x0.toNat * 128 + x1.toNat) * 64 + x2.toNat) * 1024 + (x3.toNat * 4 + x4.toNat); rw [e]; ring) (by show x3.toNat * 4 + x4.toNat < 1024; omega) b_x2),
    bf_eq (field_at (n := n) (lo := 2) (k := 8) (h := c0 * 65536 + c1 * 32768 + x0.toNat * 8192 + x1.toNat * 64 + x2.toNat) (l := x4.toNat) (x := x3.toNat)
      (by show n = ((c0 * 65536 + c1 * 32768 + x0.toNat * 8192 + x1.toNat * 64 + x2.toNat) * 256 + x3.toNat) * 4 + (x4.toNat); rw [e]; ring) (by show x4.toNat < 4; omega) b_x3),
    bf_eq (field_at (n := n) (lo := 0) (k := 2) (h := c0 * 16777216 + c1 * 8388608 + x0.toNat * 2097152 + x1.toNat * 16384 + x2.toNat * 256 + x3.toNat) (l := 0) (x := x4.toNat)
      (by show n = ((c0 * 16777216 + c1 * 8388608 + x0.toNat * 2097152 + x1.toNat * 16384 + x2.toNat * 256 + x3.toNat) * 4 + x4.toNat) * 1 + (0); rw [e]; ring) (by show 0 < 1; omega) b_x4)⟩

theorem shape24 {c0 c1 n : Nat} {x0 : BitVec 3} {x1 : BitVec 7} {x2 : BitVec 6} {x3 : BitVec 7} {x4 : BitVec 2}
    (e : n = c0 * 67108864 + x0.toNat * 8388608 + x1.toNat * 65536 + x2.toNat * 1024 + x3.toNat * 8 + x4.toNat * 2 + c1) (b_c0 : c0 < 2 ^ 6) (b_c1 : c1 < 2 ^ 1) :
    n < 2 ^ 32 ∧
      n / 2 ^ 26 = c0 ∧
      bf 3 n 23 = x0 ∧
      bf 7 n 16 = x1 ∧
      bf 6 n 10 = x2 ∧
      bf 7 n 3 = x3 ∧
      bf 2 n 1 = x4 ∧
      n / 2 ^ 0 % 2 ^ 1 = c1 := by
  have b_x0 := x0.isLt
  have b_x1 := x1.isLt
  have b_x2 := x2.isLt
  have b_x3 := x3.isLt
  have b_x4 := x4.isLt
  exact ⟨by omega,
    by omega,
    bf_eq (field_at (n := n) (lo := 23) (k := 3) (h := c0) (l := x1.toNat * 65536 + x2.toNat * 1024 + x3.toNat * 8 + x4.toNat * 2 + c1) (x := x0.toNat)
      (by show n = ((c0) * 8 + x0.toNat) * 8388608 + (x1.toNat * 65536 + x2.toNat * 1024 + x3.toNat * 8 + x4.toNat * 2 + c1); rw [e]; ring) (by show x1.toNat * 65536 + x2.toNat * 1024 + x3.toNat * 8 + x4.toNat * 2 + c1 < 8388608; omega) b_x0),
    bf_eq (field_at (n := n) (lo := 16) (k := 7) (h := c0 * 8 + x0.toNat) (l := x2.toNat * 1024 + x3.toNat * 8 + x4.toNat * 2 + c1) (x := x1.toNat)
      (by show n = ((c0 * 8 + x0.toNat) * 128 + x1.toNat) * 65536 + (x2.toNat * 1024 + x3.toNat * 8 + x4.toNat * 2 + c1); rw [e]; ring) (by show x2.toNat * 1024 + x3.toNat * 8 + x4.toNat * 2 + c1 < 65536; omega) b_x1),
    bf_eq (field_at (n := n) (lo := 10) (k := 6) (h := c0 * 1024 + x0.toNat * 128 + x1.toNat) (l := x3.toNat * 8 + x4.toNat * 2 + c1) (x := x2.toNat)
      (by show n = ((c0 * 1024 + x0.toNat * 128 + x1.toNat) * 64 + x2.toNat) * 1024 + (x3.toNat * 8 + x4.toNat * 2 + c1); rw [e]; ring) (by show x3.toNat * 8 + x4.toNat * 2 + c1 < 1024; omega) b_x2),
    bf_eq (field_at (n := n) (lo := 3) (k := 7) (h := c0 * 65536 + x0.toNat * 8192 + x1.toNat * 64 + x2.toNat) (l := x4.toNat * 2 + c1) (x := x3.toNat)
      (by show n = ((c0 * 65536 + x0.toNat * 8192 + x1.toNat * 64 + x2.toNat) * 128 + x3.toNat) * 8 + (x4.toNat * 2 + c1); rw [e]; ring) (by show x4.toNat * 2 + c1 < 8; omega) b_x3),
    bf_eq (field_at (n := n) (lo := 1) (k := 2) (h := c0 * 8388608 + x0.toNat * 1048576 + x1.toNat * 8192 + x2.toNat * 128 + x3.toNat) (l := c1) (x := x4.toNat)
      (by show n = ((c0 * 8388608 + x0.toNat * 1048576 + x1.toNat * 8192 + x2.toNat * 128 + x3.toNat) * 4 + x4.toNat) * 2 + (c1); rw [e]; ring) (by show c1 < 2; omega) b_x4),
    field_at (n := n) (lo := 0) (k := 1) (h := c0 * 33554432 + x0.toNat * 4194304 + x1.toNat * 32768 + x2.toNat * 512 + x3.toNat * 4 + x4.toNat) (l := 0) (x := c1)
      (by show n = ((c0 * 33554432 + x0.toNat * 4194304 + x1.toNat * 32768 + x2.toNat * 512 + x3.toNat * 4 + x4.toNat) * 2 + c1) * 1 + (0); rw [e]; ring) (by show 0 < 1; omega) b_c1⟩

theorem shape25 {c0 c1 c2 n : Nat} {x0 : BitVec 2} {x1 : BitVec 7} {x2 : BitVec 6} {x3 : BitVec 7} {x4 : BitVec 2}
    (e : n = c0 * 67108864 + c1 * 33554432 + x0.toNat * 8388608 + x1.toNat * 65536 + x2.toNat * 1024 + x3.toNat * 8 + x4.toNat * 2 + c2) (b_c0 : c0 < 2 ^ 6) (b_c1 : c1 < 2 ^ 1) (b_c2 : c2 < 2 ^ 1) :
    n < 2 ^ 32 ∧
      n / 2 ^ 26 = c0 ∧
      n / 2 ^ 25 % 2 ^ 1 = c1 ∧
      bf 2 n 23 = x0 ∧
      bf 7 n 16 = x1 ∧
      bf 6 n 10 = x2 ∧
      bf 7 n 3 = x3 ∧
      bf 2 n 1 = x4 ∧
      n / 2 ^ 0 % 2 ^ 1 = c2 := by
  have b_x0 := x0.isLt
  have b_x1 := x1.isLt
  have b_x2 := x2.isLt
  have b_x3 := x3.isLt
  have b_x4 := x4.isLt
  exact ⟨by omega,
    by omega,
    field_at (n := n) (lo := 25) (k := 1) (h := c0) (l := x0.toNat * 8388608 + x1.toNat * 65536 + x2.toNat * 1024 + x3.toNat * 8 + x4.toNat * 2 + c2) (x := c1)
      (by show n = ((c0) * 2 + c1) * 33554432 + (x0.toNat * 8388608 + x1.toNat * 65536 + x2.toNat * 1024 + x3.toNat * 8 + x4.toNat * 2 + c2); rw [e]; ring) (by show x0.toNat * 8388608 + x1.toNat * 65536 + x2.toNat * 1024 + x3.toNat * 8 + x4.toNat * 2 + c2 < 33554432; omega) b_c1,
    bf_eq (field_at (n := n) (lo := 23) (k := 2) (h := c0 * 2 + c1) (l := x1.toNat * 65536 + x2.toNat * 1024 + x3.toNat * 8 + x4.toNat * 2 + c2) (x := x0.toNat)
      (by show n = ((c0 * 2 + c1) * 4 + x0.toNat) * 8388608 + (x1.toNat * 65536 + x2.toNat * 1024 + x3.toNat * 8 + x4.toNat * 2 + c2); rw [e]; ring) (by show x1.toNat * 65536 + x2.toNat * 1024 + x3.toNat * 8 + x4.toNat * 2 + c2 < 8388608; omega) b_x0),
    bf_eq (field_at (n := n) (lo := 16) (k := 7) (h := c0 * 8 + c1 * 4 + x0.toNat) (l := x2.toNat * 1024 + x3.toNat * 8 + x4.toNat * 2 + c2) (x := x1.toNat)
      (by show n = ((c0 * 8 + c1 * 4 + x0.toNat) * 128 + x1.toNat) * 65536 + (x2.toNat * 1024 + x3.toNat * 8 + x4.toNat * 2 + c2); rw [e]; ring) (by show x2.toNat * 1024 + x3.toNat * 8 + x4.toNat * 2 + c2 < 65536; omega) b_x1),
    bf_eq (field_at (n := n) (lo := 10) (k := 6) (h := c0 * 1024 + c1 * 512 + x0.toNat * 128 + x1.toNat) (l := x3.toNat * 8 + x4.toNat * 2 + c2) (x := x2.toNat)
      (by show n = ((c0 * 1024 + c1 * 512 + x0.toNat * 128 + x1.toNat) * 64 + x2.toNat) * 1024 + (x3.toNat * 8 + x4.toNat * 2 + c2); rw [e]; ring) (by show x3.toNat * 8 + x4.toNat * 2 + c2 < 1024; omega) b_x2),
    bf_eq (field_at (n := n) (lo := 3) (k := 7) (h := c0 * 65536 + c1 * 32768 + x0.toNat * 8192 + x1.toNat * 64 + x2.toNat) (l := x4.toNat * 2 + c2) (x := x3.toNat)
      (by show n = ((c0 * 65536 + c1 * 32768 + x0.toNat * 8192 + x1.toNat * 64 + x2.toNat) * 128 + x3.toNat) * 8 + (x4.toNat * 2 + c2); rw [e]; ring) (by show x4.toNat * 2 + c2 < 8; omega) b_x3),
    bf_eq (field_at (n := n) (lo := 1) (k := 2) (h := c0 * 8388608 + c1 * 4194304 + x0.toNat * 1048576 + x1.toNat * 8192 + x2.toNat * 128 + x3.toNat) (l := c2) (x := x4.toNat)
      (by show n = ((c0 * 8388608 + c1 * 4194304 + x0.toNat * 1048576 + x1.toNat * 8192 + x2.toNat * 128 + x3.toNat) * 4 + x4.toNat) * 2 + (c2); rw [e]; ring) (by show c2 < 2; omega) b_x4),
    field_at (n := n) (lo := 0) (k := 1) (h := c0 * 33554432 + c1 * 16777216 + x0.toNat * 4194304 + x1.toNat * 32768 + x2.toNat * 512 + x3.toNat * 4 + x4.toNat) (l := 0) (x := c2)
      (by show n = ((c0 * 33554432 + c1 * 16777216 + x0.toNat * 4194304 + x1.toNat * 32768 + x2.toNat * 512 + x3.toNat * 4 + x4.toNat) * 2 + c2) * 1 + (0); rw [e]; ring) (by show 0 < 1; omega) b_c2⟩

theorem shape26 {c0 n : Nat} {x0 : BitVec 3} {x1 : BitVec 7} {x2 : BitVec 6} {x3 : BitVec 6} {x4 : BitVec 4}
    (e : n = c0 * 67108864 + x0.toNat * 8388608 + x1.toNat * 65536 + x2.toNat * 1024 + x3.toNat * 16 + x4.toNat) (b_c0 : c0 < 2 ^ 6) :
    n < 2 ^ 32 ∧
      n / 2 ^ 26 = c0 ∧
      bf 3 n 23 = x0 ∧
      bf 7 n 16 = x1 ∧
      bf 6 n 10 = x2 ∧
      bf 6 n 4 = x3 ∧
      bf 4 n 0 = x4 := by
  have b_x0 := x0.isLt
  have b_x1 := x1.isLt
  have b_x2 := x2.isLt
  have b_x3 := x3.isLt
  have b_x4 := x4.isLt
  exact ⟨by omega,
    by omega,
    bf_eq (field_at (n := n) (lo := 23) (k := 3) (h := c0) (l := x1.toNat * 65536 + x2.toNat * 1024 + x3.toNat * 16 + x4.toNat) (x := x0.toNat)
      (by show n = ((c0) * 8 + x0.toNat) * 8388608 + (x1.toNat * 65536 + x2.toNat * 1024 + x3.toNat * 16 + x4.toNat); rw [e]; ring) (by show x1.toNat * 65536 + x2.toNat * 1024 + x3.toNat * 16 + x4.toNat < 8388608; omega) b_x0),
    bf_eq (field_at (n := n) (lo := 16) (k := 7) (h := c0 * 8 + x0.toNat) (l := x2.toNat * 1024 + x3.toNat * 16 + x4.toNat) (x := x1.toNat)
      (by show n = ((c0 * 8 + x0.toNat) * 128 + x1.toNat) * 65536 + (x2.toNat * 1024 + x3.toNat * 16 + x4.toNat); rw [e]; ring) (by show x2.toNat * 1024 + x3.toNat * 16 + x4.toNat < 65536; omega) b_x1),
    bf_eq (field_at (n := n) (lo := 10) (k := 6) (h := c0 * 1024 + x0.toNat * 128 + x1.toNat) (l := x3.toNat * 16 + x4.toNat) (x := x2.toNat)
      (by show n = ((c0 * 1024 + x0.toNat * 128 + x1.toNat) * 64 + x2.toNat) * 1024 + (x3.toNat * 16 + x4.toNat); rw [e]; ring) (by show x3.toNat * 16 + x4.toNat < 1024; omega) b_x2),
    bf_eq (field_at (n := n) (lo := 4) (k := 6) (h := c0 * 65536 + x0.toNat * 8192 + x1.toNat * 64 + x2.toNat) (l := x4.toNat) (x := x3.toNat)
      (by show n = ((c0 * 65536 + x0.toNat * 8192 + x1.toNat * 64 + x2.toNat) * 64 + x3.toNat) * 16 + (x4.toNat); rw [e]; ring) (by show x4.toNat < 16; omega) b_x3),
    bf_eq (field_at (n := n) (lo := 0) (k := 4) (h := c0 * 4194304 + x0.toNat * 524288 + x1.toNat * 4096 + x2.toNat * 64 + x3.toNat) (l := 0) (x := x4.toNat)
      (by show n = ((c0 * 4194304 + x0.toNat * 524288 + x1.toNat * 4096 + x2.toNat * 64 + x3.toNat) * 16 + x4.toNat) * 1 + (0); rw [e]; ring) (by show 0 < 1; omega) b_x4)⟩

theorem shape27 {c0 c1 c2 n : Nat} {x0 : BitVec 2} {x1 : BitVec 7} {x2 : BitVec 6} {x3 : BitVec 8}
    (e : n = c0 * 67108864 + c1 * 33554432 + x0.toNat * 8388608 + x1.toNat * 65536 + x2.toNat * 1024 + x3.toNat * 4 + c2) (b_c0 : c0 < 2 ^ 6) (b_c1 : c1 < 2 ^ 1) (b_c2 : c2 < 2 ^ 2) :
    n < 2 ^ 32 ∧
      n / 2 ^ 26 = c0 ∧
      n / 2 ^ 25 % 2 ^ 1 = c1 ∧
      bf 2 n 23 = x0 ∧
      bf 7 n 16 = x1 ∧
      bf 6 n 10 = x2 ∧
      bf 8 n 2 = x3 ∧
      n / 2 ^ 0 % 2 ^ 2 = c2 := by
  have b_x0 := x0.isLt
  have b_x1 := x1.isLt
  have b_x2 := x2.isLt
  have b_x3 := x3.isLt
  exact ⟨by omega,
    by omega,
    field_at (n := n) (lo := 25) (k := 1) (h := c0) (l := x0.toNat * 8388608 + x1.toNat * 65536 + x2.toNat * 1024 + x3.toNat * 4 + c2) (x := c1)
      (by show n = ((c0) * 2 + c1) * 33554432 + (x0.toNat * 8388608 + x1.toNat * 65536 + x2.toNat * 1024 + x3.toNat * 4 + c2); rw [e]; ring) (by show x0.toNat * 8388608 + x1.toNat * 65536 + x2.toNat * 1024 + x3.toNat * 4 + c2 < 33554432; omega) b_c1,
    bf_eq (field_at (n := n) (lo := 23) (k := 2) (h := c0 * 2 + c1) (l := x1.toNat * 65536 + x2.toNat * 1024 + x3.toNat * 4 + c2) (x := x0.toNat)
      (by show n = ((c0 * 2 + c1) * 4 + x0.toNat) * 8388608 + (x1.toNat * 65536 + x2.toNat * 1024 + x3.toNat * 4 + c2); rw [e]; ring) (by show x1.toNat * 65536 + x2.toNat * 1024 + x3.toNat * 4 + c2 < 8388608; omega) b_x0),
    bf_eq (field_at (n := n) (lo := 16) (k := 7) (h := c0 * 8 + c1 * 4 + x0.toNat) (l := x2.toNat * 1024 + x3.toNat * 4 + c2) (x := x1.toNat)
      (by show n = ((c0 * 8 + c1 * 4 + x0.toNat) * 128 + x1.toNat) * 65536 + (x2.toNat * 1024 + x3.toNat * 4 + c2); rw [e]; ring) (by show x2.toNat * 1024 + x3.toNat * 4 + c2 < 65536; omega) b_x1),
    bf_eq (field_at (n := n) (lo := 10) (k := 6) (h := c0 * 1024 + c1 * 512 + x0.toNat * 128 + x1.toNat) (l := x3.toNat * 4 + c2) (x := x2.toNat)
      (by show n = ((c0 * 1024 + c1 * 512 + x0.toNat * 128 + x1.toNat) * 64 + x2.toNat) * 1024 + (x3.toNat * 4 + c2); rw [e]; ring) (by show x3.toNat * 4 + c2 < 1024; omega) b_x2),
    bf_eq (field_at (n := n) (lo := 2) (k := 8) (h := c0 * 65536 + c1 * 32768 + x0.toNat * 8192 + x1.toNat * 64 + x2.toNat) (l := c2) (x := x3.toNat)
      (by show n = ((c0 * 65536 + c1 * 32768 + x0.toNat * 8192 + x1.toNat * 64 + x2.toNat) * 256 + x3.toNat) * 4 + (c2); rw [e]; ring) (by show c2 < 4; omega) b_x3),
    field_at (n := n) (lo := 0) (k := 2) (h := c0 * 16777216 + c1 * 8388608 + x0.toNat * 2097152 + x1.toNat * 16384 + x2.toNat * 256 + x3.toNat) (l := 0) (x := c2)
      (by show n = ((c0 * 16777216 + c1 * 8388608 + x0.toNat * 2097152 + x1.toNat * 16384 + x2.toNat * 256 + x3.toNat) * 4 + c2) * 1 + (0); rw [e]; ring) (by show 0 < 1; omega) b_c2⟩

theorem shape28 {c0 c1 c2 n : Nat} {x0 : BitVec 1} {x1 : BitVec 7} {x2 : BitVec 6} {x3 : BitVec 8} {x4 : BitVec 2}
    (e : n = c0 * 67108864 + c1 * 33554432 + c2 * 16777216 + x0.toNat * 8388608 + x1.toNat * 65536 + x2.toNat * 1024 + x3.toNat * 4 + x4.toNat) (b_c0 : c0 < 2 ^ 6) (b_c1 : c1 < 2 ^ 1) (b_c2 : c2 < 2 ^ 1) :
    n < 2 ^ 32 ∧
      n / 2 ^ 26 = c0 ∧
      n / 2 ^ 25 % 2 ^ 1 = c1 ∧
      n / 2 ^ 24 % 2 ^ 1 = c2 ∧
      bf 1 n 23 = x0 ∧
      bf 7 n 16 = x1 ∧
      bf 6 n 10 = x2 ∧
      bf 8 n 2 = x3 ∧
      bf 2 n 0 = x4 := by
  have b_x0 := x0.isLt
  have b_x1 := x1.isLt
  have b_x2 := x2.isLt
  have b_x3 := x3.isLt
  have b_x4 := x4.isLt
  exact ⟨by omega,
    by omega,
    field_at (n := n) (lo := 25) (k := 1) (h := c0) (l := c2 * 16777216 + x0.toNat * 8388608 + x1.toNat * 65536 + x2.toNat * 1024 + x3.toNat * 4 + x4.toNat) (x := c1)
      (by show n = ((c0) * 2 + c1) * 33554432 + (c2 * 16777216 + x0.toNat * 8388608 + x1.toNat * 65536 + x2.toNat * 1024 + x3.toNat * 4 + x4.toNat); rw [e]; ring) (by show c2 * 16777216 + x0.toNat * 8388608 + x1.toNat * 65536 + x2.toNat * 1024 + x3.toNat * 4 + x4.toNat < 33554432; omega) b_c1,
    field_at (n := n) (lo := 24) (k := 1) (h := c0 * 2 + c1) (l := x0.toNat * 8388608 + x1.toNat * 65536 + x2.toNat * 1024 + x3.toNat * 4 + x4.toNat) (x := c2)
      (by show n = ((c0 * 2 + c1) * 2 + c2) * 16777216 + (x0.toNat * 8388608 + x1.toNat * 65536 + x2.toNat * 1024 + x3.toNat * 4 + x4.toNat); rw [e]; ring) (by show x0.toNat * 8388608 + x1.toNat * 65536 + x2.toNat * 1024 + x3.toNat * 4 + x4.toNat < 16777216; omega) b_c2,
    bf_eq (field_at (n := n) (lo := 23) (k := 1) (h := c0 * 4 + c1 * 2 + c2) (l := x1.toNat * 65536 + x2.toNat * 1024 + x3.toNat * 4 + x4.toNat) (x := x0.toNat)
      (by show n = ((c0 * 4 + c1 * 2 + c2) * 2 + x0.toNat) * 8388608 + (x1.toNat * 65536 + x2.toNat * 1024 + x3.toNat * 4 + x4.toNat); rw [e]; ring) (by show x1.toNat * 65536 + x2.toNat * 1024 + x3.toNat * 4 + x4.toNat < 8388608; omega) b_x0),
    bf_eq (field_at (n := n) (lo := 16) (k := 7) (h := c0 * 8 + c1 * 4 + c2 * 2 + x0.toNat) (l := x2.toNat * 1024 + x3.toNat * 4 + x4.toNat) (x := x1.toNat)
      (by show n = ((c0 * 8 + c1 * 4 + c2 * 2 + x0.toNat) * 128 + x1.toNat) * 65536 + (x2.toNat * 1024 + x3.toNat * 4 + x4.toNat); rw [e]; ring) (by show x2.toNat * 1024 + x3.toNat * 4 + x4.toNat < 65536; omega) b_x1),
    bf_eq (field_at (n := n) (lo := 10) (k := 6) (h := c0 * 1024 + c1 * 512 + c2 * 256 + x0.toNat * 128 + x1.toNat) (l := x3.toNat * 4 + x4.toNat) (x := x2.toNat)
      (by show n = ((c0 * 1024 + c1 * 512 + c2 * 256 + x0.toNat * 128 + x1.toNat) * 64 + x2.toNat) * 1024 + (x3.toNat * 4 + x4.toNat); rw [e]; ring) (by show x3.toNat * 4 + x4.toNat < 1024; omega) b_x2),
    bf_eq (field_at (n := n) (lo := 2) (k := 8) (h := c0 * 65536 + c1 * 32768 + c2 * 16384 + x0.toNat * 8192 + x1.toNat * 64 + x2.toNat) (l := x4.toNat) (x := x3.toNat)
      (by show n = ((c0 * 65536 + c1 * 32768 + c2 * 16384 + x0.toNat * 8192 + x1.toNat * 64 + x2.toNat) * 256 + x3.toNat) * 4 + (x4.toNat); rw [e]; ring) (by show x4.toNat < 4; omega) b_x3),
    bf_eq (field_at (n := n) (lo := 0) (k := 2) (h := c0 * 16777216 + c1 * 8388608 + c2 * 4194304 + x0.toNat * 2097152 + x1.toNat * 16384 + x2.toNat * 256 + x3.toNat) (l := 0) (x := x4.toNat)
      (by show n = ((c0 * 16777216 + c1 * 8388608 + c2 * 4194304 + x0.toNat * 2097152 + x1.toNat * 16384 + x2.toNat * 256 + x3.toNat) * 4 + x4.toNat) * 1 + (0); rw [e]; ring) (by show 0 < 1; omega) b_x4)⟩

theorem shape29 {c0 n : Nat} {x0 : BitVec 6} {x1 : BitVec 6} {x2 : BitVec 6} {x3 : BitVec 6} {x4 : BitVec 2}
    (e : n = c0 * 67108864 + x0.toNat * 1048576 + x1.toNat * 16384 + x2.toNat * 256 + x3.toNat * 4 + x4.toNat) (b_c0 : c0 < 2 ^ 6) :
    n < 2 ^ 32 ∧
      n / 2 ^ 26 = c0 ∧
      bf 6 n 20 = x0 ∧
      bf 6 n 14 = x1 ∧
      bf 6 n 8 = x2 ∧
      bf 6 n 2 = x3 ∧
      bf 2 n 0 = x4 := by
  have b_x0 := x0.isLt
  have b_x1 := x1.isLt
  have b_x2 := x2.isLt
  have b_x3 := x3.isLt
  have b_x4 := x4.isLt
  exact ⟨by omega,
    by omega,
    bf_eq (field_at (n := n) (lo := 20) (k := 6) (h := c0) (l := x1.toNat * 16384 + x2.toNat * 256 + x3.toNat * 4 + x4.toNat) (x := x0.toNat)
      (by show n = ((c0) * 64 + x0.toNat) * 1048576 + (x1.toNat * 16384 + x2.toNat * 256 + x3.toNat * 4 + x4.toNat); rw [e]; ring) (by show x1.toNat * 16384 + x2.toNat * 256 + x3.toNat * 4 + x4.toNat < 1048576; omega) b_x0),
    bf_eq (field_at (n := n) (lo := 14) (k := 6) (h := c0 * 64 + x0.toNat) (l := x2.toNat * 256 + x3.toNat * 4 + x4.toNat) (x := x1.toNat)
      (by show n = ((c0 * 64 + x0.toNat) * 64 + x1.toNat) * 16384 + (x2.toNat * 256 + x3.toNat * 4 + x4.toNat); rw [e]; ring) (by show x2.toNat * 256 + x3.toNat * 4 + x4.toNat < 16384; omega) b_x1),
    bf_eq (field_at (n := n) (lo := 8) (k := 6) (h := c0 * 4096 + x0.toNat * 64 + x1.toNat) (l := x3.toNat * 4 + x4.toNat) (x := x2.toNat)
      (by show n = ((c0 * 4096 + x0.toNat * 64 + x1.toNat) * 64 + x2.toNat) * 256 + (x3.toNat * 4 + x4.toNat); rw [e]; ring) (by show x3.toNat * 4 + x4.toNat < 256; omega) b_x2),
    bf_eq (field_at (n := n) (lo := 2) (k := 6) (h := c0 * 262144 + x0.toNat * 4096 + x1.toNat * 64 + x2.toNat) (l := x4.toNat) (x := x3.toNat)
      (by show n = ((c0 * 262144 + x0.toNat * 4096 + x1.toNat * 64 + x2.toNat) * 64 + x3.toNat) * 4 + (x4.toNat); rw [e]; ring) (by show x4.toNat < 4; omega) b_x3),
    bf_eq (field_at (n := n) (lo := 0) (k := 2) (h := c0 * 16777216 + x0.toNat * 262144 + x1.toNat * 4096 + x2.toNat * 64 + x3.toNat) (l := 0) (x := x4.toNat)
      (by show n = ((c0 * 16777216 + x0.toNat * 262144 + x1.toNat * 4096 + x2.toNat * 64 + x3.toNat) * 4 + x4.toNat) * 1 + (0); rw [e]; ring) (by show 0 < 1; omega) b_x4)⟩

theorem shape30 {c0 c1 n : Nat} {x0 : BitVec 6} {x1 : BitVec 7} {x2 : BitVec 7} {x3 : BitVec 2} {x4 : BitVec 1}
    (e : n = c0 * 67108864 + x0.toNat * 1048576 + x1.toNat * 8192 + x2.toNat * 64 + x3.toNat * 16 + x4.toNat * 8 + c1) (b_c0 : c0 < 2 ^ 6) (b_c1 : c1 < 2 ^ 3) :
    n < 2 ^ 32 ∧
      n / 2 ^ 26 = c0 ∧
      bf 6 n 20 = x0 ∧
      bf 7 n 13 = x1 ∧
      bf 7 n 6 = x2 ∧
      bf 2 n 4 = x3 ∧
      bf 1 n 3 = x4 ∧
      n / 2 ^ 0 % 2 ^ 3 = c1 := by
  have b_x0 := x0.isLt
  have b_x1 := x1.isLt
  have b_x2 := x2.isLt
  have b_x3 := x3.isLt
  have b_x4 := x4.isLt
  exact ⟨by omega,
    by omega,
    bf_eq (field_at (n := n) (lo := 20) (k := 6) (h := c0) (l := x1.toNat * 8192 + x2.toNat * 64 + x3.toNat * 16 + x4.toNat * 8 + c1) (x := x0.toNat)
      (by show n = ((c0) * 64 + x0.toNat) * 1048576 + (x1.toNat * 8192 + x2.toNat * 64 + x3.toNat * 16 + x4.toNat * 8 + c1); rw [e]; ring) (by show x1.toNat * 8192 + x2.toNat * 64 + x3.toNat * 16 + x4.toNat * 8 + c1 < 1048576; omega) b_x0),
    bf_eq (field_at (n := n) (lo := 13) (k := 7) (h := c0 * 64 + x0.toNat) (l := x2.toNat * 64 + x3.toNat * 16 + x4.toNat * 8 + c1) (x := x1.toNat)
      (by show n = ((c0 * 64 + x0.toNat) * 128 + x1.toNat) * 8192 + (x2.toNat * 64 + x3.toNat * 16 + x4.toNat * 8 + c1); rw [e]; ring) (by show x2.toNat * 64 + x3.toNat * 16 + x4.toNat * 8 + c1 < 8192; omega) b_x1),
    bf_eq (field_at (n := n) (lo := 6) (k := 7) (h := c0 * 8192 + x0.toNat * 128 + x1.toNat) (l := x3.toNat * 16 + x4.toNat * 8 + c1) (x := x2.toNat)
      (by show n = ((c0 * 8192 + x0.toNat * 128 + x1.toNat) * 128 + x2.toNat) * 64 + (x3.toNat * 16 + x4.toNat * 8 + c1); rw [e]; ring) (by show x3.toNat * 16 + x4.toNat * 8 + c1 < 64; omega) b_x2),
    bf_eq (field_at (n := n) (lo := 4) (k := 2) (h := c0 * 1048576 + x0.toNat * 16384 + x1.toNat * 128 + x2.toNat) (l := x4.toNat * 8 + c1) (x := x3.toNat)
      (by show n = ((c0 * 1048576 + x0.toNat * 16384 + x1.toNat * 128 + x2.toNat) * 4 + x3.toNat) * 16 + (x4.toNat * 8 + c1); rw [e]; ring) (by show x4.toNat * 8 + c1 < 16; omega) b_x3),
    bf_eq (field_at (n := n) (lo := 3) (k := 1) (h := c0 * 4194304 + x0.toNat * 65536 + x1.toNat * 512 + x2.toNat * 4 + x3.toNat) (l := c1) (x := x4.toNat)
      (by show n = ((c0 * 4194304 + x0.toNat * 65536 + x1.toNat * 512 + x2.toNat * 4 + x3.toNat) * 2 + x4.toNat) * 8 + (c1); rw [e]; ring) (by show c1 < 8; omega) b_x4),
    field_at (n := n) (lo := 0) (k := 3) (h := c0 * 8388608 + x0.toNat * 131072 + x1.toNat * 1024 + x2.toNat * 8 + x3.toNat * 2 + x4.toNat) (l := 0) (x := c1)
      (by show n = ((c0 * 8388608 + x0.toNat * 131072 + x1.toNat * 1024 + x2.toNat * 8 + x3.toNat * 2 + x4.toNat) * 8 + c1) * 1 + (0); rw [e]; ring) (by show 0 < 1; omega) b_c1⟩

theorem shape31 {c0 c1 c2 n : Nat} {x0 : BitVec 7} {x1 : BitVec 7} {x2 : BitVec 4}
    (e : n = c0 * 67108864 + c1 * 1048576 + x0.toNat * 8192 + x1.toNat * 64 + x2.toNat * 4 + c2) (b_c0 : c0 < 2 ^ 6) (b_c1 : c1 < 2 ^ 6) (b_c2 : c2 < 2 ^ 2) :
    n < 2 ^ 32 ∧
      n / 2 ^ 26 = c0 ∧
      n / 2 ^ 20 % 2 ^ 6 = c1 ∧
      bf 7 n 13 = x0 ∧
      bf 7 n 6 = x1 ∧
      bf 4 n 2 = x2 ∧
      n / 2 ^ 0 % 2 ^ 2 = c2 := by
  have b_x0 := x0.isLt
  have b_x1 := x1.isLt
  have b_x2 := x2.isLt
  exact ⟨by omega,
    by omega,
    field_at (n := n) (lo := 20) (k := 6) (h := c0) (l := x0.toNat * 8192 + x1.toNat * 64 + x2.toNat * 4 + c2) (x := c1)
      (by show n = ((c0) * 64 + c1) * 1048576 + (x0.toNat * 8192 + x1.toNat * 64 + x2.toNat * 4 + c2); rw [e]; ring) (by show x0.toNat * 8192 + x1.toNat * 64 + x2.toNat * 4 + c2 < 1048576; omega) b_c1,
    bf_eq (field_at (n := n) (lo := 13) (k := 7) (h := c0 * 64 + c1) (l := x1.toNat * 64 + x2.toNat * 4 + c2) (x := x0.toNat)
      (by show n = ((c0 * 64 + c1) * 128 + x0.toNat) * 8192 + (x1.toNat * 64 + x2.toNat * 4 + c2); rw [e]; ring) (by show x1.toNat * 64 + x2.toNat * 4 + c2 < 8192; omega) b_x0),
    bf_eq (field_at (n := n) (lo := 6) (k := 7) (h := c0 * 8192 + c1 * 128 + x0.toNat) (l := x2.toNat * 4 + c2) (x := x1.toNat)
      (by show n = ((c0 * 8192 + c1 * 128 + x0.toNat) * 128 + x1.toNat) * 64 + (x2.toNat * 4 + c2); rw [e]; ring) (by show x2.toNat * 4 + c2 < 64; omega) b_x1),
    bf_eq (field_at (n := n) (lo := 2) (k := 4) (h := c0 * 1048576 + c1 * 16384 + x0.toNat * 128 + x1.toNat) (l := c2) (x := x2.toNat)
      (by show n = ((c0 * 1048576 + c1 * 16384 + x0.toNat * 128 + x1.toNat) * 16 + x2.toNat) * 4 + (c2); rw [e]; ring) (by show c2 < 4; omega) b_x2),
    field_at (n := n) (lo := 0) (k := 2) (h := c0 * 16777216 + c1 * 262144 + x0.toNat * 2048 + x1.toNat * 16 + x2.toNat) (l := 0) (x := c2)
      (by show n = ((c0 * 16777216 + c1 * 262144 + x0.toNat * 2048 + x1.toNat * 16 + x2.toNat) * 4 + c2) * 1 + (0); rw [e]; ring) (by show 0 < 1; omega) b_c2⟩

theorem shape32 {c0 c1 c2 n : Nat} {x0 : BitVec 4}
    (e : n = c0 * 67108864 + c1 * 1048576 + x0.toNat * 65536 + c2) (b_c0 : c0 < 2 ^ 6) (b_c1 : c1 < 2 ^ 6) (b_c2 : c2 < 2 ^ 16) :
    n < 2 ^ 32 ∧
      n / 2 ^ 26 = c0 ∧
      n / 2 ^ 20 % 2 ^ 6 = c1 ∧
      bf 4 n 16 = x0 ∧
      n / 2 ^ 0 % 2 ^ 16 = c2 := by
  have b_x0 := x0.isLt
  exact ⟨by omega,
    by omega,
    field_at (n := n) (lo := 20) (k := 6) (h := c0) (l := x0.toNat * 65536 + c2) (x := c1)
      (by show n = ((c0) * 64 + c1) * 1048576 + (x0.toNat * 65536 + c2); rw [e]; ring) (by show x0.toNat * 65536 + c2 < 1048576; omega) b_c1,
    bf_eq (field_at (n := n) (lo := 16) (k := 4) (h := c0 * 64 + c1) (l := c2) (x := x0.toNat)
      (by show n = ((c0 * 64 + c1) * 16 + x0.toNat) * 65536 + (c2); rw [e]; ring) (by show c2 < 65536; omega) b_x0),
    field_at (n := n) (lo := 0) (k := 16) (h := c0 * 1024 + c1 * 16 + x0.toNat) (l := 0) (x := c2)
      (by show n = ((c0 * 1024 + c1 * 16 + x0.toNat) * 65536 + c2) * 1 + (0); rw [e]; ring) (by show 0 < 1; omega) b_c2⟩

theorem shape33 {c0 c1 n : Nat} {x0 : BitVec 6} {x1 : BitVec 6} {x2 : BitVec 6} {x3 : BitVec 1} {x4 : BitVec 1}
    (e : n = c0 * 67108864 + c1 * 1048576 + x0.toNat * 16384 + x1.toNat * 256 + x2.toNat * 4 + x3.toNat * 2 + x4.toNat) (b_c0 : c0 < 2 ^ 6) (b_c1 : c1 < 2 ^ 6) :
    n < 2 ^ 32 ∧
      n / 2 ^ 26 = c0 ∧
      n / 2 ^ 20 % 2 ^ 6 = c1 ∧
      bf 6 n 14 = x0 ∧
      bf 6 n 8 = x1 ∧
      bf 6 n 2 = x2 ∧
      bf 1 n 1 = x3 ∧
      bf 1 n 0 = x4 := by
  have b_x0 := x0.isLt
  have b_x1 := x1.isLt
  have b_x2 := x2.isLt
  have b_x3 := x3.isLt
  have b_x4 := x4.isLt
  exact ⟨by omega,
    by omega,
    field_at (n := n) (lo := 20) (k := 6) (h := c0) (l := x0.toNat * 16384 + x1.toNat * 256 + x2.toNat * 4 + x3.toNat * 2 + x4.toNat) (x := c1)
      (by show n = ((c0) * 64 + c1) * 1048576 + (x0.toNat * 16384 + x1.toNat * 256 + x2.toNat * 4 + x3.toNat * 2 + x4.toNat); rw [e]; ring) (by show x0.toNat * 16384 + x1.toNat * 256 + x2.toNat * 4 + x3.toNat * 2 + x4.toNat < 1048576; omega) b_c1,
    bf_eq (field_at (n := n) (lo := 14) (k := 6) (h := c0 * 64 + c1) (l := x1.toNat * 256 + x2.toNat * 4 + x3.toNat * 2 + x4.toNat) (x := x0.toNat)
      (by show n = ((c0 * 64 + c1) * 64 + x0.toNat) * 16384 + (x1.toNat * 256 + x2.toNat * 4 + x3.toNat * 2 + x4.toNat); rw [e]; ring) (by show x1.toNat * 256 + x2.toNat * 4 + x3.toNat * 2 + x4.toNat < 16384; omega) b_x0),
    bf_eq (field_at (n := n) (lo := 8) (k := 6) (h := c0 * 4096 + c1 * 64 + x0.toNat) (l := x2.toNat * 4 + x3.toNat * 2 + x4.toNat) (x := x1.toNat)
      (by show n = ((c0 * 4096 + c1 * 64 + x0.toNat) * 64 + x1.toNat) * 256 + (x2.toNat * 4 + x3.toNat * 2 + x4.toNat); rw [e]; ring) (by show x2.toNat * 4 + x3.toNat * 2 + x4.toNat < 256; omega) b_x1),
    bf_eq (field_at (n := n) (lo := 2) (k := 6) (h := c0 * 262144 + c1 * 4096 + x0.toNat * 64 + x1.toNat) (l := x3.toNat * 2 + x4.toNat) (x := x2.toNat)
      (by show n = ((c0 * 262144 + c1 * 4096 + x0.toNat * 64 + x1.toNat) * 64 + x2.toNat) * 4 + (x3.toNat * 2 + x4.toNat); rw [e]; ring) (by show x3.toNat * 2 + x4.toNat < 4; omega) b_x2),
    bf_eq (field_at (n := n) (lo := 1) (k := 1) (h := c0 * 16777216 + c1 * 262144 + x0.toNat * 4096 + x1.toNat * 64 + x2.toNat) (l := x4.toNat) (x := x3.toNat)
      (by show n = ((c0 * 16777216 + c1 * 262144 + x0.toNat * 4096 + x1.toNat * 64 + x2.toNat) * 2 + x3.toNat) * 2 + (x4.toNat); rw [e]; ring) (by show x4.toNat < 2; omega) b_x3),
    bf_eq (field_at (n := n) (lo := 0) (k := 1) (h := c0 * 33554432 + c1 * 524288 + x0.toNat * 8192 + x1.toNat * 128 + x2.toNat * 2 + x3.toNat) (l := 0) (x := x4.toNat)
      (by show n = ((c0 * 33554432 + c1 * 524288 + x0.toNat * 8192 + x1.toNat * 128 + x2.toNat * 2 + x3.toNat) * 2 + x4.toNat) * 1 + (0); rw [e]; ring) (by show 0 < 1; omega) b_x4)⟩

theorem shape34 {c0 c1 c2 n : Nat} {x0 : BitVec 6} {x1 : BitVec 6} {x2 : BitVec 6}
    (e : n = c0 * 67108864 + c1 * 1048576 + x0.toNat * 16384 + x1.toNat * 256 + x2.toNat * 4 + c2) (b_c0 : c0 < 2 ^ 6) (b_c1 : c1 < 2 ^ 6) (b_c2 : c2 < 2 ^ 2) :
    n < 2 ^ 32 ∧
      n / 2 ^ 26 = c0 ∧
      n / 2 ^ 20 % 2 ^ 6 = c1 ∧
      bf 6 n 14 = x0 ∧
      bf 6 n 8 = x1 ∧
      bf 6 n 2 = x2 ∧
      n / 2 ^ 0 % 2 ^ 2 = c2 := by
  have b_x0 := x0.isLt
  have b_x1 := x1.isLt
  have b_x2 := x2.isLt
  exact ⟨by omega,
    by omega,
    field_at (n := n) (lo := 20) (k := 6) (h := c0) (l := x0.toNat * 16384 + x1.toNat * 256 + x2.toNat * 4 + c2) (x := c1)
      (by show n = ((c0) * 64 + c1) * 1048576 + (x0.toNat * 16384 + x1.toNat * 256 + x2.toNat * 4 + c2); rw [e]; ring) (by show x0.toNat * 16384 + x1.toNat * 256 + x2.toNat * 4 + c2 < 1048576; omega) b_c1,
    bf_eq (field_at (n := n) (lo := 14) (k := 6) (h := c0 * 64 + c1) (l := x1.toNat * 256 + x2.toNat * 4 + c2) (x := x0.toNat)
      (by show n = ((c0 * 64 + c1) * 64 + x0.toNat) * 16384 + (x1.toNat * 256 + x2.toNat * 4 + c2); rw [e]; ring) (by show x1.toNat * 256 + x2.toNat * 4 + c2 < 16384; omega) b_x0),
    bf_eq (field_at (n := n) (lo := 8) (k := 6) (h := c0 * 4096 + c1 * 64 + x0.toNat) (l := x2.toNat * 4 + c2) (x := x1.toNat)
      (by show n = ((c0 * 4096 + c1 * 64 + x0.toNat) * 64 + x1.toNat) * 256 + (x2.toNat * 4 + c2); rw [e]; ring) (by show x2.toNat * 4 + c2 < 256; omega) b_x1),
    bf_eq (field_at (n := n) (lo := 2) (k := 6) (h := c0 * 262144 + c1 * 4096 + x0.toNat * 64 + x1.toNat) (l := c2) (x := x2.toNat)
      (by show n = ((c0 * 262144 + c1 * 4096 + x0.toNat * 64 + x1.toNat) * 64 + x2.toNat) * 4 + (c2); rw [e]; ring) (by show c2 < 4; omega) b_x2),
    field_at (n := n) (lo := 0) (k := 2) (h := c0 * 16777216 + c1 * 262144 + x0.toNat * 4096 + x1.toNat * 64 + x2.toNat) (l := 0) (x := c2)
      (by show n = ((c0 * 16777216 + c1 * 262144 + x0.toNat * 4096 + x1.toNat * 64 + x2.toNat) * 4 + c2) * 1 + (0); rw [e]; ring) (by show 0 < 1; omega) b_c2⟩

theorem shape35 {c0 c1 n : Nat} {x0 : BitVec 7} {x1 : BitVec 7} {x2 : BitVec 6}
    (e : n = c0 * 67108864 + c1 * 1048576 + x0.toNat * 8192 + x1.toNat * 64 + x2.toNat) (b_c0 : c0 < 2 ^ 6) (b_c1 : c1 < 2 ^ 6) :
    n < 2 ^ 32 ∧
      n / 2 ^ 26 = c0 ∧
      n / 2 ^ 20 % 2 ^ 6 = c1 ∧
      bf 7 n 13 = x0 ∧
      bf 7 n 6 = x1 ∧
      bf 6 n 0 = x2 := by
  have b_x0 := x0.isLt
  have b_x1 := x1.isLt
  have b_x2 := x2.isLt
  exact ⟨by omega,
    by omega,
    field_at (n := n) (lo := 20) (k := 6) (h := c0) (l := x0.toNat * 8192 + x1.toNat * 64 + x2.toNat) (x := c1)
      (by show n = ((c0) * 64 + c1) * 1048576 + (x0.toNat * 8192 + x1.toNat * 64 + x2.toNat); rw [e]; ring) (by show x0.toNat * 8192 + x1.toNat * 64 + x2.toNat < 1048576; omega) b_c1,
    bf_eq (field_at (n := n) (lo := 13) (k := 7) (h := c0 * 64 + c1) (l := x1.toNat * 64 + x2.toNat) (x := x0.toNat)
      (by show n = ((c0 * 64 + c1) * 128 + x0.toNat) * 8192 + (x1.toNat * 64 + x2.toNat); rw [e]; ring) (by show x1.toNat * 64 + x2.toNat < 8192; omega) b_x0),
    bf_eq (field_at (n := n) (lo := 6) (k := 7) (h := c0 * 8192 + c1 * 128 + x0.toNat) (l := x2.toNat) (x := x1.toNat)
      (by show n = ((c0 * 8192 + c1 * 128 + x0.toNat) * 128 + x1.toNat) * 64 + (x2.toNat); rw [e]; ring) (by show x2.toNat < 64; omega) b_x1),
    bf_eq (field_at (n := n) (lo := 0) (k := 6) (h := c0 * 1048576 + c1 * 16384 + x0.toNat * 128 + x1.toNat) (l := 0) (x := x2.toNat)
      (by show n = ((c0 * 1048576 + c1 * 16384 + x0.toNat * 128 + x1.toNat) * 64 + x2.toNat) * 1 + (0); rw [e]; ring) (by show 0 < 1; omega) b_x2)⟩

theorem shape36 {c0 c1 n : Nat} {x0 : BitVec 6} {x1 : BitVec 6} {x2 : BitVec 8}
    (e : n = c0 * 67108864 + c1 * 1048576 + x0.toNat * 16384 + x1.toNat * 256 + x2.toNat) (b_c0 : c0 < 2 ^ 6) (b_c1 : c1 < 2 ^ 6) :
    n < 2 ^ 32 ∧
      n / 2 ^ 26 = c0 ∧
      n / 2 ^ 20 % 2 ^ 6 = c1 ∧
      bf 6 n 14 = x0 ∧
      bf 6 n 8 = x1 ∧
      bf 8 n 0 = x2 := by
  have b_x0 := x0.isLt
  have b_x1 := x1.isLt
  have b_x2 := x2.isLt
  exact ⟨by omega,
    by omega,
    field_at (n := n) (lo := 20) (k := 6) (h := c0) (l := x0.toNat * 16384 + x1.toNat * 256 + x2.toNat) (x := c1)
      (by show n = ((c0) * 64 + c1) * 1048576 + (x0.toNat * 16384 + x1.toNat * 256 + x2.toNat); rw [e]; ring) (by show x0.toNat * 16384 + x1.toNat * 256 + x2.toNat < 1048576; omega) b_c1,
    bf_eq (field_at (n := n) (lo := 14) (k := 6) (h := c0 * 64 + c1) (l := x1.toNat * 256 + x2.toNat) (x := x0.toNat)
      (by show n = ((c0 * 64 + c1) * 64 + x0.toNat) * 16384 + (x1.toNat * 256 + x2.toNat); rw [e]; ring) (by show x1.toNat * 256 + x2.toNat < 16384; omega) b_x0),
    bf_eq (field_at (n := n) (lo := 8) (k := 6) (h := c0 * 4096 + c1 * 64 + x0.toNat) (l := x2.toNat) (x := x1.toNat)
      (by show n = ((c0 * 4096 + c1 * 64 + x0.toNat) * 64 + x1.toNat) * 256 + (x2.toNat); rw [e]; ring) (by show x2.toNat < 256; omega) b_x1),
    bf_eq (field_at (n := n) (lo := 0) (k := 8) (h := c0 * 262144 + c1 * 4096 + x0.toNat * 64 + x1.toNat) (l := 0) (x := x2.toNat)
      (by show n = ((c0 * 262144 + c1 * 4096 + x0.toNat * 64 + x1.toNat) * 256 + x2.toNat) * 1 + (0); rw [e]; ring) (by show 0 < 1; omega) b_x2)⟩

theorem shape37 {c0 c1 c2 n : Nat} {x0 : BitVec 6} {x1 : BitVec 2} {x2 : BitVec 2}
    (e : n = c0 * 67108864 + c1 * 1048576 + x0.toNat * 16384 + x1.toNat * 4096 + x2.toNat * 1024 + c2) (b_c0 : c0 < 2 ^ 6) (b_c1 : c1 < 2 ^ 6) (b_c2 : c2 < 2 ^ 10) :
    n < 2 ^ 32 ∧
      n / 2 ^ 26 = c0 ∧
      n / 2 ^ 20 % 2 ^ 6 = c1 ∧
      bf 6 n 14 = x0 ∧
      bf 2 n 12 = x1 ∧
      bf 2 n 10 = x2 ∧
      n / 2 ^ 0 % 2 ^ 10 = c2 := by
  have b_x0 := x0.isLt
  have b_x1 := x1.isLt
  have b_x2 := x2.isLt
  exact ⟨by omega,
    by omega,
    field_at (n := n) (lo := 20) (k := 6) (h := c0) (l := x0.toNat * 16384 + x1.toNat * 4096 + x2.toNat * 1024 + c2) (x := c1)
      (by show n = ((c0) * 64 + c1) * 1048576 + (x0.toNat * 16384 + x1.toNat * 4096 + x2.toNat * 1024 + c2); rw [e]; ring) (by show x0.toNat * 16384 + x1.toNat * 4096 + x2.toNat * 1024 + c2 < 1048576; omega) b_c1,
    bf_eq (field_at (n := n) (lo := 14) (k := 6) (h := c0 * 64 + c1) (l := x1.toNat * 4096 + x2.toNat * 1024 + c2) (x := x0.toNat)
      (by show n = ((c0 * 64 + c1) * 64 + x0.toNat) * 16384 + (x1.toNat * 4096 + x2.toNat * 1024 + c2); rw [e]; ring) (by show x1.toNat * 4096 + x2.toNat * 1024 + c2 < 16384; omega) b_x0),
    bf_eq (field_at (n := n) (lo := 12) (k := 2) (h := c0 * 4096 + c1 * 64 + x0.toNat) (l := x2.toNat * 1024 + c2) (x := x1.toNat)
      (by show n = ((c0 * 4096 + c1 * 64 + x0.toNat) * 4 + x1.toNat) * 4096 + (x2.toNat * 1024 + c2); rw [e]; ring) (by show x2.toNat * 1024 + c2 < 4096; omega) b_x1),
    bf_eq (field_at (n := n) (lo := 10) (k := 2) (h := c0 * 16384 + c1 * 256 + x0.toNat * 4 + x1.toNat) (l := c2) (x := x2.toNat)
      (by show n = ((c0 * 16384 + c1 * 256 + x0.toNat * 4 + x1.toNat) * 4 + x2.toNat) * 1024 + (c2); rw [e]; ring) (by show c2 < 1024; omega) b_x2),
    field_at (n := n) (lo := 0) (k := 10) (h := c0 * 65536 + c1 * 1024 + x0.toNat * 16 + x1.toNat * 4 + x2.toNat) (l := 0) (x := c2)
      (by show n = ((c0 * 65536 + c1 * 1024 + x0.toNat * 16 + x1.toNat * 4 + x2.toNat) * 1024 + c2) * 1 + (0); rw [e]; ring) (by show 0 < 1; omega) b_c2⟩

theorem shape38 {c0 c1 c2 n : Nat} {x0 : BitVec 6} {x1 : BitVec 12}
    (e : n = c0 * 67108864 + c1 * 1048576 + x0.toNat * 16384 + c2 * 4096 + x1.toNat) (b_c0 : c0 < 2 ^ 6) (b_c1 : c1 < 2 ^ 6) (b_c2 : c2 < 2 ^ 2) :
    n < 2 ^ 32 ∧
      n / 2 ^ 26 = c0 ∧
      n / 2 ^ 20 % 2 ^ 6 = c1 ∧
      bf 6 n 14 = x0 ∧
      n / 2 ^ 12 % 2 ^ 2 = c2 ∧
      bf 12 n 0 = x1 := by
  have b_x0 := x0.isLt
  have b_x1 := x1.isLt
  exact ⟨by omega,
    by omega,
    field_at (n := n) (lo := 20) (k := 6) (h := c0) (l := x0.toNat * 16384 + c2 * 4096 + x1.toNat) (x := c1)
      (by show n = ((c0) * 64 + c1) * 1048576 + (x0.toNat * 16384 + c2 * 4096 + x1.toNat); rw [e]; ring) (by show x0.toNat * 16384 + c2 * 4096 + x1.toNat < 1048576; omega) b_c1,
    bf_eq (field_at (n := n) (lo := 14) (k := 6) (h := c0 * 64 + c1) (l := c2 * 4096 + x1.toNat) (x := x0.toNat)
      (by show n = ((c0 * 64 + c1) * 64 + x0.toNat) * 16384 + (c2 * 4096 + x1.toNat); rw [e]; ring) (by show c2 * 4096 + x1.toNat < 16384; omega) b_x0),
    field_at (n := n) (lo := 12) (k := 2) (h := c0 * 4096 + c1 * 64 + x0.toNat) (l := x1.toNat) (x := c2)
      (by show n = ((c0 * 4096 + c1 * 64 + x0.toNat) * 4 + c2) * 4096 + (x1.toNat); rw [e]; ring) (by show x1.toNat < 4096; omega) b_c2,
    bf_eq (field_at (n := n) (lo := 0) (k := 12) (h := c0 * 16384 + c1 * 256 + x0.toNat * 4 + c2) (l := 0) (x := x1.toNat)
      (by show n = ((c0 * 16384 + c1 * 256 + x0.toNat * 4 + c2) * 4096 + x1.toNat) * 1 + (0); rw [e]; ring) (by show 0 < 1; omega) b_x1)⟩

theorem shape39 {c0 c1 c2 n : Nat} {x0 : BitVec 12}
    (e : n = c0 * 67108864 + c1 * 1048576 + c2 * 4096 + x0.toNat) (b_c0 : c0 < 2 ^ 6) (b_c1 : c1 < 2 ^ 6) (b_c2 : c2 < 2 ^ 8) :
    n < 2 ^ 32 ∧
      n / 2 ^ 26 = c0 ∧
      n / 2 ^ 20 % 2 ^ 6 = c1 ∧
      n / 2 ^ 12 % 2 ^ 8 = c2 ∧
      bf 12 n 0 = x0 := by
  have b_x0 := x0.isLt
  exact ⟨by omega,
    by omega,
    field_at (n := n) (lo := 20) (k := 6) (h := c0) (l := c2 * 4096 + x0.toNat) (x := c1)
      (by show n = ((c0) * 64 + c1) * 1048576 + (c2 * 4096 + x0.toNat); rw [e]; ring) (by show c2 * 4096 + x0.toNat < 1048576; omega) b_c1,
    field_at (n := n) (lo := 12) (k := 8) (h := c0 * 64 + c1) (l := x0.toNat) (x := c2)
      (by show n = ((c0 * 64 + c1) * 256 + c2) * 4096 + (x0.toNat); rw [e]; ring) (by show x0.toNat < 4096; omega) b_c2,
    bf_eq (field_at (n := n) (lo := 0) (k := 12) (h := c0 * 16384 + c1 * 256 + c2) (l := 0) (x := x0.toNat)
      (by show n = ((c0 * 16384 + c1 * 256 + c2) * 4096 + x0.toNat) * 1 + (0); rw [e]; ring) (by show 0 < 1; omega) b_x0)⟩

theorem shape40 {c0 c1 c2 n : Nat} {x0 : BitVec 6} {x1 : BitVec 8}
    (e : n = c0 * 67108864 + c1 * 1048576 + x0.toNat * 16384 + c2 * 256 + x1.toNat) (b_c0 : c0 < 2 ^ 6) (b_c1 : c1 < 2 ^ 6) (b_c2 : c2 < 2 ^ 6) :
    n < 2 ^ 32 ∧
      n / 2 ^ 26 = c0 ∧
      n / 2 ^ 20 % 2 ^ 6 = c1 ∧
      bf 6 n 14 = x0 ∧
      n / 2 ^ 8 % 2 ^ 6 = c2 ∧
      bf 8 n 0 = x1 := by
  have b_x0 := x0.isLt
  have b_x1 := x1.isLt
  exact ⟨by omega,
    by omega,
    field_at (n := n) (lo := 20) (k := 6) (h := c0) (l := x0.toNat * 16384 + c2 * 256 + x1.toNat) (x := c1)
      (by show n = ((c0) * 64 + c1) * 1048576 + (x0.toNat * 16384 + c2 * 256 + x1.toNat); rw [e]; ring) (by show x0.toNat * 16384 + c2 * 256 + x1.toNat < 1048576; omega) b_c1,
    bf_eq (field_at (n := n) (lo := 14) (k := 6) (h := c0 * 64 + c1) (l := c2 * 256 + x1.toNat) (x := x0.toNat)
      (by show n = ((c0 * 64 + c1) * 64 + x0.toNat) * 16384 + (c2 * 256 + x1.toNat); rw [e]; ring) (by show c2 * 256 + x1.toNat < 16384; omega) b_x0),
    field_at (n := n) (lo := 8) (k := 6) (h := c0 * 4096 + c1 * 64 + x0.toNat) (l := x1.toNat) (x := c2)
      (by show n = ((c0 * 4096 + c1 * 64 + x0.toNat) * 64 + c2) * 256 + (x1.toNat); rw [e]; ring) (by show x1.toNat < 256; omega) b_c2,
    bf_eq (field_at (n := n) (lo := 0) (k := 8) (h := c0 * 262144 + c1 * 4096 + x0.toNat * 64 + c2) (l := 0) (x := x1.toNat)
      (by show n = ((c0 * 262144 + c1 * 4096 + x0.toNat * 64 + c2) * 256 + x1.toNat) * 1 + (0); rw [e]; ring) (by show 0 < 1; omega) b_x1)⟩

theorem shape41 {c0 c1 c2 n : Nat} {x0 : BitVec 8}
    (e : n = c0 * 67108864 + c1 * 1048576 + c2 * 256 + x0.toNat) (b_c0 : c0 < 2 ^ 6) (b_c1 : c1 < 2 ^ 6) (b_c2 : c2 < 2 ^ 12) :
    n < 2 ^ 32 ∧
      n / 2 ^ 26 = c0 ∧
      n / 2 ^ 20 % 2 ^ 6 = c1 ∧
      n / 2 ^ 8 % 2 ^ 12 = c2 ∧
      bf 8 n 0 = x0 := by
  have b_x0 := x0.isLt
  exact ⟨by omega,
    by omega,
    field_at (n := n) (lo := 20) (k := 6) (h := c0) (l := c2 * 256 + x0.toNat) (x := c1)
      (by show n = ((c0) * 64 + c1) * 1048576 + (c2 * 256 + x0.toNat); rw [e]; ring) (by show c2 * 256 + x0.toNat < 1048576; omega) b_c1,
    field_at (n := n) (lo := 8) (k := 12) (h := c0 * 64 + c1) (l := x0.toNat) (x := c2)
      (by show n = ((c0 * 64 + c1) * 4096 + c2) * 256 + (x0.toNat); rw [e]; ring) (by show x0.toNat < 256; omega) b_c2,
    bf_eq (field_at (n := n) (lo := 0) (k := 8) (h := c0 * 262144 + c1 * 4096 + c2) (l := 0) (x := x0.toNat)
      (by show n = ((c0 * 262144 + c1 * 4096 + c2) * 256 + x0.toNat) * 1 + (0); rw [e]; ring) (by show 0 < 1; omega) b_x0)⟩

theorem shape42 {c0 c1 c2 n : Nat} {x0 : BitVec 3} {x1 : BitVec 7} {x2 : BitVec 6}
    (e : n = c0 * 67108864 + c1 * 1048576 + x0.toNat * 131072 + x1.toNat * 1024 + x2.toNat * 16 + c2) (b_c0 : c0 < 2 ^ 6) (b_c1 : c1 < 2 ^ 6) (b_c2 : c2 < 2 ^ 4) :
    n < 2 ^ 32 ∧
      n / 2 ^ 26 = c0 ∧
      n / 2 ^ 20 % 2 ^ 6 = c1 ∧
      bf 3 n 17 = x0 ∧
      bf 7 n 10 = x1 ∧
      bf 6 n 4 = x2 ∧
      n / 2 ^ 0 % 2 ^ 4 = c2 := by
  have b_x0 := x0.isLt
  have b_x1 := x1.isLt
  have b_x2 := x2.isLt
  exact ⟨by omega,
    by omega,
    field_at (n := n) (lo := 20) (k := 6) (h := c0) (l := x0.toNat * 131072 + x1.toNat * 1024 + x2.toNat * 16 + c2) (x := c1)
      (by show n = ((c0) * 64 + c1) * 1048576 + (x0.toNat * 131072 + x1.toNat * 1024 + x2.toNat * 16 + c2); rw [e]; ring) (by show x0.toNat * 131072 + x1.toNat * 1024 + x2.toNat * 16 + c2 < 1048576; omega) b_c1,
    bf_eq (field_at (n := n) (lo := 17) (k := 3) (h := c0 * 64 + c1) (l := x1.toNat * 1024 + x2.toNat * 16 + c2) (x := x0.toNat)
      (by show n = ((c0 * 64 + c1) * 8 + x0.toNat) * 131072 + (x1.toNat * 1024 + x2.toNat * 16 + c2); rw [e]; ring) (by show x1.toNat * 1024 + x2.toNat * 16 + c2 < 131072; omega) b_x0),
    bf_eq (field_at (n := n) (lo := 10) (k := 7) (h := c0 * 512 + c1 * 8 + x0.toNat) (l := x2.toNat * 16 + c2) (x := x1.toNat)
      (by show n = ((c0 * 512 + c1 * 8 + x0.toNat) * 128 + x1.toNat) * 1024 + (x2.toNat * 16 + c2); rw [e]; ring) (by show x2.toNat * 16 + c2 < 1024; omega) b_x1),
    bf_eq (field_at (n := n) (lo := 4) (k := 6) (h := c0 * 65536 + c1 * 1024 + x0.toNat * 128 + x1.toNat) (l := c2) (x := x2.toNat)
      (by show n = ((c0 * 65536 + c1 * 1024 + x0.toNat * 128 + x1.toNat) * 64 + x2.toNat) * 16 + (c2); rw [e]; ring) (by show c2 < 16; omega) b_x2),
    field_at (n := n) (lo := 0) (k := 4) (h := c0 * 4194304 + c1 * 65536 + x0.toNat * 8192 + x1.toNat * 64 + x2.toNat) (l := 0) (x := c2)
      (by show n = ((c0 * 4194304 + c1 * 65536 + x0.toNat * 8192 + x1.toNat * 64 + x2.toNat) * 16 + c2) * 1 + (0); rw [e]; ring) (by show 0 < 1; omega) b_c2⟩

theorem shape43 {c0 c1 c2 n : Nat} {x0 : BitVec 4} {x1 : BitVec 3} {x2 : BitVec 3}
    (e : n = c0 * 67108864 + c1 * 1048576 + x0.toNat * 65536 + x1.toNat * 8192 + x2.toNat * 1024 + c2) (b_c0 : c0 < 2 ^ 6) (b_c1 : c1 < 2 ^ 6) (b_c2 : c2 < 2 ^ 10) :
    n < 2 ^ 32 ∧
      n / 2 ^ 26 = c0 ∧
      n / 2 ^ 20 % 2 ^ 6 = c1 ∧
      bf 4 n 16 = x0 ∧
      bf 3 n 13 = x1 ∧
      bf 3 n 10 = x2 ∧
      n / 2 ^ 0 % 2 ^ 10 = c2 := by
  have b_x0 := x0.isLt
  have b_x1 := x1.isLt
  have b_x2 := x2.isLt
  exact ⟨by omega,
    by omega,
    field_at (n := n) (lo := 20) (k := 6) (h := c0) (l := x0.toNat * 65536 + x1.toNat * 8192 + x2.toNat * 1024 + c2) (x := c1)
      (by show n = ((c0) * 64 + c1) * 1048576 + (x0.toNat * 65536 + x1.toNat * 8192 + x2.toNat * 1024 + c2); rw [e]; ring) (by show x0.toNat * 65536 + x1.toNat * 8192 + x2.toNat * 1024 + c2 < 1048576; omega) b_c1,
    bf_eq (field_at (n := n) (lo := 16) (k := 4) (h := c0 * 64 + c1) (l := x1.toNat * 8192 + x2.toNat * 1024 + c2) (x := x0.toNat)
      (by show n = ((c0 * 64 + c1) * 16 + x0.toNat) * 65536 + (x1.toNat * 8192 + x2.toNat * 1024 + c2); rw [e]; ring) (by show x1.toNat * 8192 + x2.toNat * 1024 + c2 < 65536; omega) b_x0),
    bf_eq (field_at (n := n) (lo := 13) (k := 3) (h := c0 * 1024 + c1 * 16 + x0.toNat) (l := x2.toNat * 1024 + c2) (x := x1.toNat)
      (by show n = ((c0 * 1024 + c1 * 16 + x0.toNat) * 8 + x1.toNat) * 8192 + (x2.toNat * 1024 + c2); rw [e]; ring) (by show x2.toNat * 1024 + c2 < 8192; omega) b_x1),
    bf_eq (field_at (n := n) (lo := 10) (k := 3) (h := c0 * 8192 + c1 * 128 + x0.toNat * 8 + x1.toNat) (l := c2) (x := x2.toNat)
      (by show n = ((c0 * 8192 + c1 * 128 + x0.toNat * 8 + x1.toNat) * 8 + x2.toNat) * 1024 + (c2); rw [e]; ring) (by show c2 < 1024; omega) b_x2),
    field_at (n := n) (lo := 0) (k := 10) (h := c0 * 65536 + c1 * 1024 + x0.toNat * 64 + x1.toNat * 8 + x2.toNat) (l := 0) (x := c2)
      (by show n = ((c0 * 65536 + c1 * 1024 + x0.toNat * 64 + x1.toNat * 8 + x2.toNat) * 1024 + c2) * 1 + (0); rw [e]; ring) (by show 0 < 1; omega) b_c2⟩

theorem shape44 {c0 c1 n : Nat} {x0 : BitVec 4} {x1 : BitVec 7} {x2 : BitVec 7} {x3 : BitVec 2}
    (e : n = c0 * 67108864 + c1 * 1048576 + x0.toNat * 65536 + x1.toNat * 512 + x2.toNat * 4 + x3.toNat) (b_c0 : c0 < 2 ^ 6) (b_c1 : c1 < 2 ^ 6) :
    n < 2 ^ 32 ∧
      n / 2 ^ 26 = c0 ∧
      n / 2 ^ 20 % 2 ^ 6 = c1 ∧
      bf 4 n 16 = x0 ∧
      bf 7 n 9 = x1 ∧
      bf 7 n 2 = x2 ∧
      bf 2 n 0 = x3 := by
  have b_x0 := x0.isLt
  have b_x1 := x1.isLt
  have b_x2 := x2.isLt
  have b_x3 := x3.isLt
  exact ⟨by omega,
    by omega,
    field_at (n := n) (lo := 20) (k := 6) (h := c0) (l := x0.toNat * 65536 + x1.toNat * 512 + x2.toNat * 4 + x3.toNat) (x := c1)
      (by show n = ((c0) * 64 + c1) * 1048576 + (x0.toNat * 65536 + x1.toNat * 512 + x2.toNat * 4 + x3.toNat); rw [e]; ring) (by show x0.toNat * 65536 + x1.toNat * 512 + x2.toNat * 4 + x3.toNat < 1048576; omega) b_c1,
    bf_eq (field_at (n := n) (lo := 16) (k := 4) (h := c0 * 64 + c1) (l := x1.toNat * 512 + x2.toNat * 4 + x3.toNat) (x := x0.toNat)
      (by show n = ((c0 * 64 + c1) * 16 + x0.toNat) * 65536 + (x1.toNat * 512 + x2.toNat * 4 + x3.toNat); rw [e]; ring) (by show x1.toNat * 512 + x2.toNat * 4 + x3.toNat < 65536; omega) b_x0),
    bf_eq (field_at (n := n) (lo := 9) (k := 7) (h := c0 * 1024 + c1 * 16 + x0.toNat) (l := x2.toNat * 4 + x3.toNat) (x := x1.toNat)
      (by show n = ((c0 * 1024 + c1 * 16 + x0.toNat) * 128 + x1.toNat) * 512 + (x2.toNat * 4 + x3.toNat); rw [e]; ring) (by show x2.toNat * 4 + x3.toNat < 512; omega) b_x1),
    bf_eq (field_at (n := n) (lo := 2) (k := 7) (h := c0 * 131072 + c1 * 2048 + x0.toNat * 128 + x1.toNat) (l := x3.toNat) (x := x2.toNat)
      (by show n = ((c0 * 131072 + c1 * 2048 + x0.toNat * 128 + x1.toNat) * 128 + x2.toNat) * 4 + (x3.toNat); rw [e]; ring) (by show x3.toNat < 4; omega) b_x2),
    bf_eq (field_at (n := n) (lo := 0) (k := 2) (h := c0 * 16777216 + c1 * 262144 + x0.toNat * 16384 + x1.toNat * 128 + x2.toNat) (l := 0) (x := x3.toNat)
      (by show n = ((c0 * 16777216 + c1 * 262144 + x0.toNat * 16384 + x1.toNat * 128 + x2.toNat) * 4 + x3.toNat) * 1 + (0); rw [e]; ring) (by show 0 < 1; omega) b_x3)⟩

theorem shape45 {c0 c1 c2 n : Nat} {x0 : BitVec 4} {x1 : BitVec 7} {x2 : BitVec 6} {x3 : BitVec 1}
    (e : n = c0 * 67108864 + c1 * 1048576 + x0.toNat * 65536 + x1.toNat * 512 + x2.toNat * 8 + x3.toNat * 4 + c2) (b_c0 : c0 < 2 ^ 6) (b_c1 : c1 < 2 ^ 6) (b_c2 : c2 < 2 ^ 2) :
    n < 2 ^ 32 ∧
      n / 2 ^ 26 = c0 ∧
      n / 2 ^ 20 % 2 ^ 6 = c1 ∧
      bf 4 n 16 = x0 ∧
      bf 7 n 9 = x1 ∧
      bf 6 n 3 = x2 ∧
      bf 1 n 2 = x3 ∧
      n / 2 ^ 0 % 2 ^ 2 = c2 := by
  have b_x0 := x0.isLt
  have b_x1 := x1.isLt
  have b_x2 := x2.isLt
  have b_x3 := x3.isLt
  exact ⟨by omega,
    by omega,
    field_at (n := n) (lo := 20) (k := 6) (h := c0) (l := x0.toNat * 65536 + x1.toNat * 512 + x2.toNat * 8 + x3.toNat * 4 + c2) (x := c1)
      (by show n = ((c0) * 64 + c1) * 1048576 + (x0.toNat * 65536 + x1.toNat * 512 + x2.toNat * 8 + x3.toNat * 4 + c2); rw [e]; ring) (by show x0.toNat * 65536 + x1.toNat * 512 + x2.toNat * 8 + x3.toNat * 4 + c2 < 1048576; omega) b_c1,
    bf_eq (field_at (n := n) (lo := 16) (k := 4) (h := c0 * 64 + c1) (l := x1.toNat * 512 + x2.toNat * 8 + x3.toNat * 4 + c2) (x := x0.toNat)
      (by show n = ((c0 * 64 + c1) * 16 + x0.toNat) * 65536 + (x1.toNat * 512 + x2.toNat * 8 + x3.toNat * 4 + c2); rw [e]; ring) (by show x1.toNat * 512 + x2.toNat * 8 + x3.toNat * 4 + c2 < 65536; omega) b_x0),
    bf_eq (field_at (n := n) (lo := 9) (k := 7) (h := c0 * 1024 + c1 * 16 + x0.toNat) (l := x2.toNat * 8 + x3.toNat * 4 + c2) (x := x1.toNat)
      (by show n = ((c0 * 1024 + c1 * 16 + x0.toNat) * 128 + x1.toNat) * 512 + (x2.toNat * 8 + x3.toNat * 4 + c2); rw [e]; ring) (by show x2.toNat * 8 + x3.toNat * 4 + c2 < 512; omega) b_x1),
    bf_eq (field_at (n := n) (lo := 3) (k := 6) (h := c0 * 131072 + c1 * 2048 + x0.toNat * 128 + x1.toNat) (l := x3.toNat * 4 + c2) (x := x2.toNat)
      (by show n = ((c0 * 131072 + c1 * 2048 + x0.toNat * 128 + x1.toNat) * 64 + x2.toNat) * 8 + (x3.toNat * 4 + c2); rw [e]; ring) (by show x3.toNat * 4 + c2 < 8; omega) b_x2),
    bf_eq (field_at (n := n) (lo := 2) (k := 1) (h := c0 * 8388608 + c1 * 131072 + x0.toNat * 8192 + x1.toNat * 64 + x2.toNat) (l := c2) (x := x3.toNat)
      (by show n = ((c0 * 8388608 + c1 * 131072 + x0.toNat * 8192 + x1.toNat * 64 + x2.toNat) * 2 + x3.toNat) * 4 + (c2); rw [e]; ring) (by show c2 < 4; omega) b_x3),
    field_at (n := n) (lo := 0) (k := 2) (h := c0 * 16777216 + c1 * 262144 + x0.toNat * 16384 + x1.toNat * 128 + x2.toNat * 2 + x3.toNat) (l := 0) (x := c2)
      (by show n = ((c0 * 16777216 + c1 * 262144 + x0.toNat * 16384 + x1.toNat * 128 + x2.toNat * 2 + x3.toNat) * 4 + c2) * 1 + (0); rw [e]; ring) (by show 0 < 1; omega) b_c2⟩

theorem shape46 {c0 c1 c2 c3 n : Nat} {x0 : BitVec 6}
    (e : n = c0 * 67108864 + c1 * 1048576 + c2 * 16384 + x0.toNat * 256 + c3) (b_c0 : c0 < 2 ^ 6) (b_c1 : c1 < 2 ^ 6) (b_c2 : c2 < 2 ^ 6) (b_c3 : c3 < 2 ^ 8) :
    n < 2 ^ 32 ∧
      n / 2 ^ 26 = c0 ∧
      n / 2 ^ 20 % 2 ^ 6 = c1 ∧
      n / 2 ^ 14 % 2 ^ 6 = c2 ∧
      bf 6 n 8 = x0 ∧
      n / 2 ^ 0 % 2 ^ 8 = c3 := by
  have b_x0 := x0.isLt
  exact ⟨by omega,
    by omega,
    field_at (n := n) (lo := 20) (k := 6) (h := c0) (l := c2 * 16384 + x0.toNat * 256 + c3) (x := c1)
      (by show n = ((c0) * 64 + c1) * 1048576 + (c2 * 16384 + x0.toNat * 256 + c3); rw [e]; ring) (by show c2 * 16384 + x0.toNat * 256 + c3 < 1048576; omega) b_c1,
    field_at (n := n) (lo := 14) (k := 6) (h := c0 * 64 + c1) (l := x0.toNat * 256 + c3) (x := c2)
      (by show n = ((c0 * 64 + c1) * 64 + c2) * 16384 + (x0.toNat * 256 + c3); rw [e]; ring) (by show x0.toNat * 256 + c3 < 16384; omega) b_c2,
    bf_eq (field_at (n := n) (lo := 8) (k := 6) (h := c0 * 4096 + c1 * 64 + c2) (l := c3) (x := x0.toNat)
      (by show n = ((c0 * 4096 + c1 * 64 + c2) * 64 + x0.toNat) * 256 + (c3); rw [e]; ring) (by show c3 < 256; omega) b_x0),
    field_at (n := n) (lo := 0) (k := 8) (h := c0 * 262144 + c1 * 4096 + c2 * 64 + x0.toNat) (l := 0) (x := c3)
      (by show n = ((c0 * 262144 + c1 * 4096 + c2 * 64 + x0.toNat) * 256 + c3) * 1 + (0); rw [e]; ring) (by show 0 < 1; omega) b_c3⟩

theorem shape47 {c0 c1 n : Nat} {x0 : BitVec 6} {x1 : BitVec 6} {x2 : BitVec 6} {x3 : BitVec 2}
    (e : n = c0 * 67108864 + c1 * 1048576 + x0.toNat * 16384 + x1.toNat * 256 + x2.toNat * 4 + x3.toNat) (b_c0 : c0 < 2 ^ 6) (b_c1 : c1 < 2 ^ 6) :
    n < 2 ^ 32 ∧
      n / 2 ^ 26 = c0 ∧
      n / 2 ^ 20 % 2 ^ 6 = c1 ∧
      bf 6 n 14 = x0 ∧
      bf 6 n 8 = x1 ∧
      bf 6 n 2 = x2 ∧
      bf 2 n 0 = x3 := by
  have b_x0 := x0.isLt
  have b_x1 := x1.isLt
  have b_x2 := x2.isLt
  have b_x3 := x3.isLt
  exact ⟨by omega,
    by omega,
    field_at (n := n) (lo := 20) (k := 6) (h := c0) (l := x0.toNat * 16384 + x1.toNat * 256 + x2.toNat * 4 + x3.toNat) (x := c1)
      (by show n = ((c0) * 64 + c1) * 1048576 + (x0.toNat * 16384 + x1.toNat * 256 + x2.toNat * 4 + x3.toNat); rw [e]; ring) (by show x0.toNat * 16384 + x1.toNat * 256 + x2.toNat * 4 + x3.toNat < 1048576; omega) b_c1,
    bf_eq (field_at (n := n) (lo := 14) (k := 6) (h := c0 * 64 + c1) (l := x1.toNat * 256 + x2.toNat * 4 + x3.toNat) (x := x0.toNat)
      (by show n = ((c0 * 64 + c1) * 64 + x0.toNat) * 16384 + (x1.toNat * 256 + x2.toNat * 4 + x3.toNat); rw [e]; ring) (by show x1.toNat * 256 + x2.toNat * 4 + x3.toNat < 16384; omega) b_x0),
    bf_eq (field_at (n := n) (lo := 8) (k := 6) (h := c0 * 4096 + c1 * 64 + x0.toNat) (l := x2.toNat * 4 + x3.toNat) (x := x1.toNat)
      (by show n = ((c0 * 4096 + c1 * 64 + x0.toNat) * 64 + x1.toNat) * 256 + (x2.toNat * 4 + x3.toNat); rw [e]; ring) (by show x2.toNat * 4 + x3.toNat < 256; omega) b_x1),
    bf_eq (field_at (n := n) (lo := 2) (k := 6) (h := c0 * 262144 + c1 * 4096 + x0.toNat * 64 + x1.toNat) (l := x3.toNat) (x := x2.toNat)
      (by show n = ((c0 * 262144 + c1 * 4096 + x0.toNat * 64 + x1.toNat) * 64 + x2.toNat) * 4 + (x3.toNat); rw [e]; ring) (by show x3.toNat < 4; omega) b_x2),
    bf_eq (field_at (n := n) (lo := 0) (k := 2) (h := c0 * 16777216 + c1 * 262144 + x0.toNat * 4096 + x1.toNat * 64 + x2.toNat) (l := 0) (x := x3.toNat)
      (by show n = ((c0 * 16777216 + c1 * 262144 + x0.toNat * 4096 + x1.toNat * 64 + x2.toNat) * 4 + x3.toNat) * 1 + (0); rw [e]; ring) (by show 0 < 1; omega) b_x3)⟩

theorem shape48 {c0 c1 c2 n : Nat} {x0 : BitVec 6} {x1 : BitVec 6} {x2 : BitVec 1}
    (e : n = c0 * 67108864 + c1 * 1048576 + x0.toNat * 16384 + x1.toNat * 256 + x2.toNat * 128 + c2) (b_c0 : c0 < 2 ^ 6) (b_c1 : c1 < 2 ^ 6) (b_c2 : c2 < 2 ^ 7) :
    n < 2 ^ 32 ∧
      n / 2 ^ 26 = c0 ∧
      n / 2 ^ 20 % 2 ^ 6 = c1 ∧
      bf 6 n 14 = x0 ∧
      bf 6 n 8 = x1 ∧
      bf 1 n 7 = x2 ∧
      n / 2 ^ 0 % 2 ^ 7 = c2 := by
  have b_x0 := x0.isLt
  have b_x1 := x1.isLt
  have b_x2 := x2.isLt
  exact ⟨by omega,
    by omega,
    field_at (n := n) (lo := 20) (k := 6) (h := c0) (l := x0.toNat * 16384 + x1.toNat * 256 + x2.toNat * 128 + c2) (x := c1)
      (by show n = ((c0) * 64 + c1) * 1048576 + (x0.toNat * 16384 + x1.toNat * 256 + x2.toNat * 128 + c2); rw [e]; ring) (by show x0.toNat * 16384 + x1.toNat * 256 + x2.toNat * 128 + c2 < 1048576; omega) b_c1,
    bf_eq (field_at (n := n) (lo := 14) (k := 6) (h := c0 * 64 + c1) (l := x1.toNat * 256 + x2.toNat * 128 + c2) (x := x0.toNat)
      (by show n = ((c0 * 64 + c1) * 64 + x0.toNat) * 16384 + (x1.toNat * 256 + x2.toNat * 128 + c2); rw [e]; ring) (by show x1.toNat * 256 + x2.toNat * 128 + c2 < 16384; omega) b_x0),
    bf_eq (field_at (n := n) (lo := 8) (k := 6) (h := c0 * 4096 + c1 * 64 + x0.toNat) (l := x2.toNat * 128 + c2) (x := x1.toNat)
      (by show n = ((c0 * 4096 + c1 * 64 + x0.toNat) * 64 + x1.toNat) * 256 + (x2.toNat * 128 + c2); rw [e]; ring) (by show x2.toNat * 128 + c2 < 256; omega) b_x1),
    bf_eq (field_at (n := n) (lo := 7) (k := 1) (h := c0 * 262144 + c1 * 4096 + x0.toNat * 64 + x1.toNat) (l := c2) (x := x2.toNat)
      (by show n = ((c0 * 262144 + c1 * 4096 + x0.toNat * 64 + x1.toNat) * 2 + x2.toNat) * 128 + (c2); rw [e]; ring) (by show c2 < 128; omega) b_x2),
    field_at (n := n) (lo := 0) (k := 7) (h := c0 * 524288 + c1 * 8192 + x0.toNat * 128 + x1.toNat * 2 + x2.toNat) (l := 0) (x := c2)
      (by show n = ((c0 * 524288 + c1 * 8192 + x0.toNat * 128 + x1.toNat * 2 + x2.toNat) * 128 + c2) * 1 + (0); rw [e]; ring) (by show 0 < 1; omega) b_c2⟩

theorem shape49 {c0 c1 c2 n : Nat} {x0 : BitVec 6} {x1 : BitVec 6} {x2 : BitVec 2}
    (e : n = c0 * 67108864 + c1 * 1048576 + x0.toNat * 16384 + x1.toNat * 256 + c2 * 4 + x2.toNat) (b_c0 : c0 < 2 ^ 6) (b_c1 : c1 < 2 ^ 6) (b_c2 : c2 < 2 ^ 6) :
    n < 2 ^ 32 ∧
      n / 2 ^ 26 = c0 ∧
      n / 2 ^ 20 % 2 ^ 6 = c1 ∧
      bf 6 n 14 = x0 ∧
      bf 6 n 8 = x1 ∧
      n / 2 ^ 2 % 2 ^ 6 = c2 ∧
      bf 2 n 0 = x2 := by
  have b_x0 := x0.isLt
  have b_x1 := x1.isLt
  have b_x2 := x2.isLt
  exact ⟨by omega,
    by omega,
    field_at (n := n) (lo := 20) (k := 6) (h := c0) (l := x0.toNat * 16384 + x1.toNat * 256 + c2 * 4 + x2.toNat) (x := c1)
      (by show n = ((c0) * 64 + c1) * 1048576 + (x0.toNat * 16384 + x1.toNat * 256 + c2 * 4 + x2.toNat); rw [e]; ring) (by show x0.toNat * 16384 + x1.toNat * 256 + c2 * 4 + x2.toNat < 1048576; omega) b_c1,
    bf_eq (field_at (n := n) (lo := 14) (k := 6) (h := c0 * 64 + c1) (l := x1.toNat * 256 + c2 * 4 + x2.toNat) (x := x0.toNat)
      (by show n = ((c0 * 64 + c1) * 64 + x0.toNat) * 16384 + (x1.toNat * 256 + c2 * 4 + x2.toNat); rw [e]; ring) (by show x1.toNat * 256 + c2 * 4 + x2.toNat < 16384; omega) b_x0),
    bf_eq (field_at (n := n) (lo := 8) (k := 6) (h := c0 * 4096 + c1 * 64 + x0.toNat) (l := c2 * 4 + x2.toNat) (x := x1.toNat)
      (by show n = ((c0 * 4096 + c1 * 64 + x0.toNat) * 64 + x1.toNat) * 256 + (c2 * 4 + x2.toNat); rw [e]; ring) (by show c2 * 4 + x2.toNat < 256; omega) b_x1),
    field_at (n := n) (lo := 2) (k := 6) (h := c0 * 262144 + c1 * 4096 + x0.toNat * 64 + x1.toNat) (l := x2.toNat) (x := c2)
      (by show n = ((c0 * 262144 + c1 * 4096 + x0.toNat * 64 + x1.toNat) * 64 + c2) * 4 + (x2.toNat); rw [e]; ring) (by show x2.toNat < 4; omega) b_c2,
    bf_eq (field_at (n := n) (lo := 0) (k := 2) (h := c0 * 16777216 + c1 * 262144 + x0.toNat * 4096 + x1.toNat * 64 + c2) (l := 0) (x := x2.toNat)
      (by show n = ((c0 * 16777216 + c1 * 262144 + x0.toNat * 4096 + x1.toNat * 64 + c2) * 4 + x2.toNat) * 1 + (0); rw [e]; ring) (by show 0 < 1; omega) b_x2)⟩

theorem shape50 {c0 c1 c2 n : Nat} {x0 : BitVec 4} {x1 : BitVec 6}
    (e : n = c0 * 67108864 + c1 * 1048576 + x0.toNat * 65536 + x1.toNat * 1024 + c2) (b_c0 : c0 < 2 ^ 6) (b_c1 : c1 < 2 ^ 6) (b_c2 : c2 < 2 ^ 10) :
    n < 2 ^ 32 ∧
      n / 2 ^ 26 = c0 ∧
      n / 2 ^ 20 % 2 ^ 6 = c1 ∧
      bf 4 n 16 = x0 ∧
      bf 6 n 10 = x1 ∧
      n / 2 ^ 0 % 2 ^ 10 = c2 := by
  have b_x0 := x0.isLt
  have b_x1 := x1.isLt
  exact ⟨by omega,
    by omega,
    field_at (n := n) (lo := 20) (k := 6) (h := c0) (l := x0.toNat * 65536 + x1.toNat * 1024 + c2) (x := c1)
      (by show n = ((c0) * 64 + c1) * 1048576 + (x0.toNat * 65536 + x1.toNat * 1024 + c2); rw [e]; ring) (by show x0.toNat * 65536 + x1.toNat * 1024 + c2 < 1048576; omega) b_c1,
    bf_eq (field_at (n := n) (lo := 16) (k := 4) (h := c0 * 64 + c1) (l := x1.toNat * 1024 + c2) (x := x0.toNat)
      (by show n = ((c0 * 64 + c1) * 16 + x0.toNat) * 65536 + (x1.toNat * 1024 + c2); rw [e]; ring) (by show x1.toNat * 1024 + c2 < 65536; omega) b_x0),
    bf_eq (field_at (n := n) (lo := 10) (k := 6) (h := c0 * 1024 + c1 * 16 + x0.toNat) (l := c2) (x := x1.toNat)
      (by show n = ((c0 * 1024 + c1 * 16 + x0.toNat) * 64 + x1.toNat) * 1024 + (c2); rw [e]; ring) (by show c2 < 1024; omega) b_x1),
    field_at (n := n) (lo := 0) (k := 10) (h := c0 * 65536 + c1 * 1024 + x0.toNat * 64 + x1.toNat) (l := 0) (x := c2)
      (by show n = ((c0 * 65536 + c1 * 1024 + x0.toNat * 64 + x1.toNat) * 1024 + c2) * 1 + (0); rw [e]; ring) (by show 0 < 1; omega) b_c2⟩

theorem shape51 {c0 c1 c2 n : Nat} {x0 : BitVec 6} {x1 : BitVec 6} {x2 : BitVec 7}
    (e : n = c0 * 67108864 + c1 * 1048576 + x0.toNat * 16384 + x1.toNat * 256 + c2 * 128 + x2.toNat) (b_c0 : c0 < 2 ^ 6) (b_c1 : c1 < 2 ^ 6) (b_c2 : c2 < 2 ^ 1) :
    n < 2 ^ 32 ∧
      n / 2 ^ 26 = c0 ∧
      n / 2 ^ 20 % 2 ^ 6 = c1 ∧
      bf 6 n 14 = x0 ∧
      bf 6 n 8 = x1 ∧
      n / 2 ^ 7 % 2 ^ 1 = c2 ∧
      bf 7 n 0 = x2 := by
  have b_x0 := x0.isLt
  have b_x1 := x1.isLt
  have b_x2 := x2.isLt
  exact ⟨by omega,
    by omega,
    field_at (n := n) (lo := 20) (k := 6) (h := c0) (l := x0.toNat * 16384 + x1.toNat * 256 + c2 * 128 + x2.toNat) (x := c1)
      (by show n = ((c0) * 64 + c1) * 1048576 + (x0.toNat * 16384 + x1.toNat * 256 + c2 * 128 + x2.toNat); rw [e]; ring) (by show x0.toNat * 16384 + x1.toNat * 256 + c2 * 128 + x2.toNat < 1048576; omega) b_c1,
    bf_eq (field_at (n := n) (lo := 14) (k := 6) (h := c0 * 64 + c1) (l := x1.toNat * 256 + c2 * 128 + x2.toNat) (x := x0.toNat)
      (by show n = ((c0 * 64 + c1) * 64 + x0.toNat) * 16384 + (x1.toNat * 256 + c2 * 128 + x2.toNat); rw [e]; ring) (by show x1.toNat * 256 + c2 * 128 + x2.toNat < 16384; omega) b_x0),
    bf_eq (field_at (n := n) (lo := 8) (k := 6) (h := c0 * 4096 + c1 * 64 + x0.toNat) (l := c2 * 128 + x2.toNat) (x := x1.toNat)
      (by show n = ((c0 * 4096 + c1 * 64 + x0.toNat) * 64 + x1.toNat) * 256 + (c2 * 128 + x2.toNat); rw [e]; ring) (by show c2 * 128 + x2.toNat < 256; omega) b_x1),
    field_at (n := n) (lo := 7) (k := 1) (h := c0 * 262144 + c1 * 4096 + x0.toNat * 64 + x1.toNat) (l := x2.toNat) (x := c2)
      (by show n = ((c0 * 262144 + c1 * 4096 + x0.toNat * 64 + x1.toNat) * 2 + c2) * 128 + (x2.toNat); rw [e]; ring) (by show x2.toNat < 128; omega) b_c2,
    bf_eq (field_at (n := n) (lo := 0) (k := 7) (h := c0 * 524288 + c1 * 8192 + x0.toNat * 128 + x1.toNat * 2 + c2) (l := 0) (x := x2.toNat)
      (by show n = ((c0 * 524288 + c1 * 8192 + x0.toNat * 128 + x1.toNat * 2 + c2) * 128 + x2.toNat) * 1 + (0); rw [e]; ring) (by show 0 < 1; omega) b_x2)⟩

theorem shape52 {c0 c1 c2 n : Nat} {x0 : BitVec 6} {x1 : BitVec 3} {x2 : BitVec 7}
    (e : n = c0 * 67108864 + c1 * 1048576 + x0.toNat * 16384 + x1.toNat * 2048 + c2 * 128 + x2.toNat) (b_c0 : c0 < 2 ^ 6) (b_c1 : c1 < 2 ^ 6) (b_c2 : c2 < 2 ^ 4) :
    n < 2 ^ 32 ∧
      n / 2 ^ 26 = c0 ∧
      n / 2 ^ 20 % 2 ^ 6 = c1 ∧
      bf 6 n 14 = x0 ∧
      bf 3 n 11 = x1 ∧
      n / 2 ^ 7 % 2 ^ 4 = c2 ∧
      bf 7 n 0 = x2 := by
  have b_x0 := x0.isLt
  have b_x1 := x1.isLt
  have b_x2 := x2.isLt
  exact ⟨by omega,
    by omega,
    field_at (n := n) (lo := 20) (k := 6) (h := c0) (l := x0.toNat * 16384 + x1.toNat * 2048 + c2 * 128 + x2.toNat) (x := c1)
      (by show n = ((c0) * 64 + c1) * 1048576 + (x0.toNat * 16384 + x1.toNat * 2048 + c2 * 128 + x2.toNat); rw [e]; ring) (by show x0.toNat * 16384 + x1.toNat * 2048 + c2 * 128 + x2.toNat < 1048576; omega) b_c1,
    bf_eq (field_at (n := n) (lo := 14) (k := 6) (h := c0 * 64 + c1) (l := x1.toNat * 2048 + c2 * 128 + x2.toNat) (x := x0.toNat)
      (by show n = ((c0 * 64 + c1) * 64 + x0.toNat) * 16384 + (x1.toNat * 2048 + c2 * 128 + x2.toNat); rw [e]; ring) (by show x1.toNat * 2048 + c2 * 128 + x2.toNat < 16384; omega) b_x0),
    bf_eq (field_at (n := n) (lo := 11) (k := 3) (h := c0 * 4096 + c1 * 64 + x0.toNat) (l := c2 * 128 + x2.toNat) (x := x1.toNat)
      (by show n = ((c0 * 4096 + c1 * 64 + x0.toNat) * 8 + x1.toNat) * 2048 + (c2 * 128 + x2.toNat); rw [e]; ring) (by show c2 * 128 + x2.toNat < 2048; omega) b_x1),
    field_at (n := n) (lo := 7) (k := 4) (h := c0 * 32768 + c1 * 512 + x0.toNat * 8 + x1.toNat) (l := x2.toNat) (x := c2)
      (by show n = ((c0 * 32768 + c1 * 512 + x0.toNat * 8 + x1.toNat) * 16 + c2) * 128 + (x2.toNat); rw [e]; ring) (by show x2.toNat < 128; omega) b_c2,
    bf_eq (field_at (n := n) (lo := 0) (k := 7) (h := c0 * 524288 + c1 * 8192 + x0.toNat * 128 + x1.toNat * 16 + c2) (l := 0) (x := x2.toNat)
      (by show n = ((c0 * 524288 + c1 * 8192 + x0.toNat * 128 + x1.toNat * 16 + c2) * 128 + x2.toNat) * 1 + (0); rw [e]; ring) (by show 0 < 1; omega) b_x2)⟩

theorem shape53 {c0 c1 c2 n : Nat} {x0 : BitVec 7}
    (e : n = c0 * 67108864 + c1 * 1048576 + c2 * 128 + x0.toNat) (b_c0 : c0 < 2 ^ 6) (b_c1 : c1 < 2 ^ 6) (b_c2 : c2 < 2 ^ 13) :
    n < 2 ^ 32 ∧
      n / 2 ^ 26 = c0 ∧
      n / 2 ^ 20 % 2 ^ 6 = c1 ∧
      n / 2 ^ 7 % 2 ^ 13 = c2 ∧
      bf 7 n 0 = x0 := by
  have b_x0 := x0.isLt
  exact ⟨by omega,
    by omega,
    field_at (n := n) (lo := 20) (k := 6) (h := c0) (l := c2 * 128 + x0.toNat) (x := c1)
      (by show n = ((c0) * 64 + c1) * 1048576 + (c2 * 128 + x0.toNat); rw [e]; ring) (by show c2 * 128 + x0.toNat < 1048576; omega) b_c1,
    field_at (n := n) (lo := 7) (k := 13) (h := c0 * 64 + c1) (l := x0.toNat) (x := c2)
      (by show n = ((c0 * 64 + c1) * 8192 + c2) * 128 + (x0.toNat); rw [e]; ring) (by show x0.toNat < 128; omega) b_c2,
    bf_eq (field_at (n := n) (lo := 0) (k := 7) (h := c0 * 524288 + c1 * 8192 + c2) (l := 0) (x := x0.toNat)
      (by show n = ((c0 * 524288 + c1 * 8192 + c2) * 128 + x0.toNat) * 1 + (0); rw [e]; ring) (by show 0 < 1; omega) b_x0)⟩

theorem shape54 {c0 c1 c2 n : Nat} {x0 : BitVec 6} {x1 : BitVec 7} {x2 : BitVec 6}
    (e : n = c0 * 67108864 + c1 * 1048576 + x0.toNat * 16384 + x1.toNat * 128 + x2.toNat * 2 + c2) (b_c0 : c0 < 2 ^ 6) (b_c1 : c1 < 2 ^ 6) (b_c2 : c2 < 2 ^ 1) :
    n < 2 ^ 32 ∧
      n / 2 ^ 26 = c0 ∧
      n / 2 ^ 20 % 2 ^ 6 = c1 ∧
      bf 6 n 14 = x0 ∧
      bf 7 n 7 = x1 ∧
      bf 6 n 1 = x2 ∧
      n / 2 ^ 0 % 2 ^ 1 = c2 := by
  have b_x0 := x0.isLt
  have b_x1 := x1.isLt
  have b_x2 := x2.isLt
  exact ⟨by omega,
    by omega,
    field_at (n := n) (lo := 20) (k := 6) (h := c0) (l := x0.toNat * 16384 + x1.toNat * 128 + x2.toNat * 2 + c2) (x := c1)
      (by show n = ((c0) * 64 + c1) * 1048576 + (x0.toNat * 16384 + x1.toNat * 128 + x2.toNat * 2 + c2); rw [e]; ring) (by show x0.toNat * 16384 + x1.toNat * 128 + x2.toNat * 2 + c2 < 1048576; omega) b_c1,
    bf_eq (field_at (n := n) (lo := 14) (k := 6) (h := c0 * 64 + c1) (l := x1.toNat * 128 + x2.toNat * 2 + c2) (x := x0.toNat)
      (by show n = ((c0 * 64 + c1) * 64 + x0.toNat) * 16384 + (x1.toNat * 128 + x2.toNat * 2 + c2); rw [e]; ring) (by show x1.toNat * 128 + x2.toNat * 2 + c2 < 16384; omega) b_x0),
    bf_eq (field_at (n := n) (lo := 7) (k := 7) (h := c0 * 4096 + c1 * 64 + x0.toNat) (l := x2.toNat * 2 + c2) (x := x1.toNat)
      (by show n = ((c0 * 4096 + c1 * 64 + x0.toNat) * 128 + x1.toNat) * 128 + (x2.toNat * 2 + c2); rw [e]; ring) (by show x2.toNat * 2 + c2 < 128; omega) b_x1),
    bf_eq (field_at (n := n) (lo := 1) (k := 6) (h := c0 * 524288 + c1 * 8192 + x0.toNat * 128 + x1.toNat) (l := c2) (x := x2.toNat)
      (by show n = ((c0 * 524288 + c1 * 8192 + x0.toNat * 128 + x1.toNat) * 64 + x2.toNat) * 2 + (c2); rw [e]; ring) (by show c2 < 2; omega) b_x2),
    field_at (n := n) (lo := 0) (k := 1) (h := c0 * 33554432 + c1 * 524288 + x0.toNat * 8192 + x1.toNat * 64 + x2.toNat) (l := 0) (x := c2)
      (by show n = ((c0 * 33554432 + c1 * 524288 + x0.toNat * 8192 + x1.toNat * 64 + x2.toNat) * 2 + c2) * 1 + (0); rw [e]; ring) (by show 0 < 1; omega) b_c2⟩

theorem shape55 {c0 c1 n : Nat} {x0 : BitVec 7} {x1 : BitVec 6} {x2 : BitVec 6} {x3 : BitVec 1}
    (e : n = c0 * 67108864 + c1 * 1048576 + x0.toNat * 8192 + x1.toNat * 128 + x2.toNat * 2 + x3.toNat) (b_c0 : c0 < 2 ^ 6) (b_c1 : c1 < 2 ^ 6) :
    n < 2 ^ 32 ∧
      n / 2 ^ 26 = c0 ∧
      n / 2 ^ 20 % 2 ^ 6 = c1 ∧
      bf 7 n 13 = x0 ∧
      bf 6 n 7 = x1 ∧
      bf 6 n 1 = x2 ∧
      bf 1 n 0 = x3 := by
  have b_x0 := x0.isLt
  have b_x1 := x1.isLt
  have b_x2 := x2.isLt
  have b_x3 := x3.isLt
  exact ⟨by omega,
    by omega,
    field_at (n := n) (lo := 20) (k := 6) (h := c0) (l := x0.toNat * 8192 + x1.toNat * 128 + x2.toNat * 2 + x3.toNat) (x := c1)
      (by show n = ((c0) * 64 + c1) * 1048576 + (x0.toNat * 8192 + x1.toNat * 128 + x2.toNat * 2 + x3.toNat); rw [e]; ring) (by show x0.toNat * 8192 + x1.toNat * 128 + x2.toNat * 2 + x3.toNat < 1048576; omega) b_c1,
    bf_eq (field_at (n := n) (lo := 13) (k := 7) (h := c0 * 64 + c1) (l := x1.toNat * 128 + x2.toNat * 2 + x3.toNat) (x := x0.toNat)
      (by show n = ((c0 * 64 + c1) * 128 + x0.toNat) * 8192 + (x1.toNat * 128 + x2.toNat * 2 + x3.toNat); rw [e]; ring) (by show x1.toNat * 128 + x2.toNat * 2 + x3.toNat < 8192; omega) b_x0),
    bf_eq (field_at (n := n) (lo := 7) (k := 6) (h := c0 * 8192 + c1 * 128 + x0.toNat) (l := x2.toNat * 2 + x3.toNat) (x := x1.toNat)
      (by show n = ((c0 * 8192 + c1 * 128 + x0.toNat) * 64 + x1.toNat) * 128 + (x2.toNat * 2 + x3.toNat); rw [e]; ring) (by show x2.toNat * 2 + x3.toNat < 128; omega) b_x1),
    bf_eq (field_at (n := n) (lo := 1) (k := 6) (h := c0 * 524288 + c1 * 8192 + x0.toNat * 64 + x1.toNat) (l := x3.toNat) (x := x2.toNat)
      (by show n = ((c0 * 524288 + c1 * 8192 + x0.toNat * 64 + x1.toNat) * 64 + x2.toNat) * 2 + (x3.toNat); rw [e]; ring) (by show x3.toNat < 2; omega) b_x2),
    bf_eq (field_at (n := n) (lo := 0) (k := 1) (h := c0 * 33554432 + c1 * 524288 + x0.toNat * 4096 + x1.toNat * 64 + x2.toNat) (l := 0) (x := x3.toNat)
      (by show n = ((c0 * 33554432 + c1 * 524288 + x0.toNat * 4096 + x1.toNat * 64 + x2.toNat) * 2 + x3.toNat) * 1 + (0); rw [e]; ring) (by show 0 < 1; omega) b_x3)⟩

theorem shape56 {c0 c1 c2 n : Nat} {x0 : BitVec 6}
    (e : n = c0 * 67108864 + c1 * 1048576 + c2 * 64 + x0.toNat) (b_c0 : c0 < 2 ^ 6) (b_c1 : c1 < 2 ^ 6) (b_c2 : c2 < 2 ^ 14) :
    n < 2 ^ 32 ∧
      n / 2 ^ 26 = c0 ∧
      n / 2 ^ 20 % 2 ^ 6 = c1 ∧
      n / 2 ^ 6 % 2 ^ 14 = c2 ∧
      bf 6 n 0 = x0 := by
  have b_x0 := x0.isLt
  exact ⟨by omega,
    by omega,
    field_at (n := n) (lo := 20) (k := 6) (h := c0) (l := c2 * 64 + x0.toNat) (x := c1)
      (by show n = ((c0) * 64 + c1) * 1048576 + (c2 * 64 + x0.toNat); rw [e]; ring) (by show c2 * 64 + x0.toNat < 1048576; omega) b_c1,
    field_at (n := n) (lo := 6) (k := 14) (h := c0 * 64 + c1) (l := x0.toNat) (x := c2)
      (by show n = ((c0 * 64 + c1) * 16384 + c2) * 64 + (x0.toNat); rw [e]; ring) (by show x0.toNat < 64; omega) b_c2,
    bf_eq (field_at (n := n) (lo := 0) (k := 6) (h := c0 * 1048576 + c1 * 16384 + c2) (l := 0) (x := x0.toNat)
      (by show n = ((c0 * 1048576 + c1 * 16384 + c2) * 64 + x0.toNat) * 1 + (0); rw [e]; ring) (by show 0 < 1; omega) b_x0)⟩

theorem shape57 {c0 c1 c2 n : Nat} {x0 : BitVec 3} {x1 : BitVec 1}
    (e : n = c0 * 67108864 + c1 * 1048576 + x0.toNat * 131072 + x1.toNat * 65536 + c2) (b_c0 : c0 < 2 ^ 6) (b_c1 : c1 < 2 ^ 6) (b_c2 : c2 < 2 ^ 16) :
    n < 2 ^ 32 ∧
      n / 2 ^ 26 = c0 ∧
      n / 2 ^ 20 % 2 ^ 6 = c1 ∧
      bf 3 n 17 = x0 ∧
      bf 1 n 16 = x1 ∧
      n / 2 ^ 0 % 2 ^ 16 = c2 := by
  have b_x0 := x0.isLt
  have b_x1 := x1.isLt
  exact ⟨by omega,
    by omega,
    field_at (n := n) (lo := 20) (k := 6) (h := c0) (l := x0.toNat * 131072 + x1.toNat * 65536 + c2) (x := c1)
      (by show n = ((c0) * 64 + c1) * 1048576 + (x0.toNat * 131072 + x1.toNat * 65536 + c2); rw [e]; ring) (by show x0.toNat * 131072 + x1.toNat * 65536 + c2 < 1048576; omega) b_c1,
    bf_eq (field_at (n := n) (lo := 17) (k := 3) (h := c0 * 64 + c1) (l := x1.toNat * 65536 + c2) (x := x0.toNat)
      (by show n = ((c0 * 64 + c1) * 8 + x0.toNat) * 131072 + (x1.toNat * 65536 + c2); rw [e]; ring) (by show x1.toNat * 65536 + c2 < 131072; omega) b_x0),
    bf_eq (field_at (n := n) (lo := 16) (k := 1) (h := c0 * 512 + c1 * 8 + x0.toNat) (l := c2) (x := x1.toNat)
      (by show n = ((c0 * 512 + c1 * 8 + x0.toNat) * 2 + x1.toNat) * 65536 + (c2); rw [e]; ring) (by show c2 < 65536; omega) b_x1),
    field_at (n := n) (lo := 0) (k := 16) (h := c0 * 1024 + c1 * 16 + x0.toNat * 2 + x1.toNat) (l := 0) (x := c2)
      (by show n = ((c0 * 1024 + c1 * 16 + x0.toNat * 2 + x1.toNat) * 65536 + c2) * 1 + (0); rw [e]; ring) (by show 0 < 1; omega) b_c2⟩

theorem shape58 {c0 c1 c2 n : Nat} {x0 : BitVec 16}
    (e : n = c0 * 67108864 + c1 * 1048576 + c2 * 65536 + x0.toNat) (b_c0 : c0 < 2 ^ 6) (b_c1 : c1 < 2 ^ 6) (b_c2 : c2 < 2 ^ 4) :
    n < 2 ^ 32 ∧
      n / 2 ^ 26 = c0 ∧
      n / 2 ^ 20 % 2 ^ 6 = c1 ∧
      n / 2 ^ 16 % 2 ^ 4 = c2 ∧
      bf 16 n 0 = x0 := by
  have b_x0 := x0.isLt
  exact ⟨by omega,
    by omega,
    field_at (n := n) (lo := 20) (k := 6) (h := c0) (l := c2 * 65536 + x0.toNat) (x := c1)
      (by show n = ((c0) * 64 + c1) * 1048576 + (c2 * 65536 + x0.toNat); rw [e]; ring) (by show c2 * 65536 + x0.toNat < 1048576; omega) b_c1,
    field_at (n := n) (lo := 16) (k := 4) (h := c0 * 64 + c1) (l := x0.toNat) (x := c2)
      (by show n = ((c0 * 64 + c1) * 16 + c2) * 65536 + (x0.toNat); rw [e]; ring) (by show x0.toNat < 65536; omega) b_c2,
    bf_eq (field_at (n := n) (lo := 0) (k := 16) (h := c0 * 1024 + c1 * 16 + c2) (l := 0) (x := x0.toNat)
      (by show n = ((c0 * 1024 + c1 * 16 + c2) * 65536 + x0.toNat) * 1 + (0); rw [e]; ring) (by show 0 < 1; omega) b_x0)⟩

theorem shape59 {c0 c1 c2 n : Nat} {x0 : BitVec 7} {x1 : BitVec 12}
    (e : n = c0 * 67108864 + c1 * 1048576 + x0.toNat * 8192 + c2 * 4096 + x1.toNat) (b_c0 : c0 < 2 ^ 6) (b_c1 : c1 < 2 ^ 6) (b_c2 : c2 < 2 ^ 1) :
    n < 2 ^ 32 ∧
      n / 2 ^ 26 = c0 ∧
      n / 2 ^ 20 % 2 ^ 6 = c1 ∧
      bf 7 n 13 = x0 ∧
      n / 2 ^ 12 % 2 ^ 1 = c2 ∧
      bf 12 n 0 = x1 := by
  have b_x0 := x0.isLt
  have b_x1 := x1.isLt
  exact ⟨by omega,
    by omega,
    field_at (n := n) (lo := 20) (k := 6) (h := c0) (l := x0.toNat * 8192 + c2 * 4096 + x1.toNat) (x := c1)
      (by show n = ((c0) * 64 + c1) * 1048576 + (x0.toNat * 8192 + c2 * 4096 + x1.toNat); rw [e]; ring) (by show x0.toNat * 8192 + c2 * 4096 + x1.toNat < 1048576; omega) b_c1,
    bf_eq (field_at (n := n) (lo := 13) (k := 7) (h := c0 * 64 + c1) (l := c2 * 4096 + x1.toNat) (x := x0.toNat)
      (by show n = ((c0 * 64 + c1) * 128 + x0.toNat) * 8192 + (c2 * 4096 + x1.toNat); rw [e]; ring) (by show c2 * 4096 + x1.toNat < 8192; omega) b_x0),
    field_at (n := n) (lo := 12) (k := 1) (h := c0 * 8192 + c1 * 128 + x0.toNat) (l := x1.toNat) (x := c2)
      (by show n = ((c0 * 8192 + c1 * 128 + x0.toNat) * 2 + c2) * 4096 + (x1.toNat); rw [e]; ring) (by show x1.toNat < 4096; omega) b_c2,
    bf_eq (field_at (n := n) (lo := 0) (k := 12) (h := c0 * 16384 + c1 * 256 + x0.toNat * 2 + c2) (l := 0) (x := x1.toNat)
      (by show n = ((c0 * 16384 + c1 * 256 + x0.toNat * 2 + c2) * 4096 + x1.toNat) * 1 + (0); rw [e]; ring) (by show 0 < 1; omega) b_x1)⟩

theorem shape60 {c0 c1 c2 n : Nat} {x0 : BitVec 22}
    (e : n = c0 * 67108864 + c1 * 16777216 + c2 * 4194304 + x0.toNat) (b_c0 : c0 < 2 ^ 6) (b_c1 : c1 < 2 ^ 2) (b_c2 : c2 < 2 ^ 2) :
    n < 2 ^ 32 ∧
      n / 2 ^ 26 = c0 ∧
      n / 2 ^ 24 % 2 ^ 2 = c1 ∧
      n / 2 ^ 22 % 2 ^ 2 = c2 ∧
      bf 22 n 0 = x0 := by
  have b_x0 := x0.isLt
  exact ⟨by omega,
    by omega,
    field_at (n := n) (lo := 24) (k := 2) (h := c0) (l := c2 * 4194304 + x0.toNat) (x := c1)
      (by show n = ((c0) * 4 + c1) * 16777216 + (c2 * 4194304 + x0.toNat); rw [e]; ring) (by show c2 * 4194304 + x0.toNat < 16777216; omega) b_c1,
    field_at (n := n) (lo := 22) (k := 2) (h := c0 * 4 + c1) (l := x0.toNat) (x := c2)
      (by show n = ((c0 * 4 + c1) * 4 + c2) * 4194304 + (x0.toNat); rw [e]; ring) (by show x0.toNat < 4194304; omega) b_c2,
    bf_eq (field_at (n := n) (lo := 0) (k := 22) (h := c0 * 16 + c1 * 4 + c2) (l := 0) (x := x0.toNat)
      (by show n = ((c0 * 16 + c1 * 4 + c2) * 4194304 + x0.toNat) * 1 + (0); rw [e]; ring) (by show 0 < 1; omega) b_x0)⟩

theorem shape61 {c0 c1 n : Nat} {x0 : BitVec 2} {x1 : BitVec 22}
    (e : n = c0 * 67108864 + c1 * 16777216 + x0.toNat * 4194304 + x1.toNat) (b_c0 : c0 < 2 ^ 6) (b_c1 : c1 < 2 ^ 2) :
    n < 2 ^ 32 ∧
      n / 2 ^ 26 = c0 ∧
      n / 2 ^ 24 % 2 ^ 2 = c1 ∧
      bf 2 n 22 = x0 ∧
      bf 22 n 0 = x1 := by
  have b_x0 := x0.isLt
  have b_x1 := x1.isLt
  exact ⟨by omega,
    by omega,
    field_at (n := n) (lo := 24) (k := 2) (h := c0) (l := x0.toNat * 4194304 + x1.toNat) (x := c1)
      (by show n = ((c0) * 4 + c1) * 16777216 + (x0.toNat * 4194304 + x1.toNat); rw [e]; ring) (by show x0.toNat * 4194304 + x1.toNat < 16777216; omega) b_c1,
    bf_eq (field_at (n := n) (lo := 22) (k := 2) (h := c0 * 4 + c1) (l := x1.toNat) (x := x0.toNat)
      (by show n = ((c0 * 4 + c1) * 4 + x0.toNat) * 4194304 + (x1.toNat); rw [e]; ring) (by show x1.toNat < 4194304; omega) b_x0),
    bf_eq (field_at (n := n) (lo := 0) (k := 22) (h := c0 * 16 + c1 * 4 + x0.toNat) (l := 0) (x := x1.toNat)
      (by show n = ((c0 * 16 + c1 * 4 + x0.toNat) * 4194304 + x1.toNat) * 1 + (0); rw [e]; ring) (by show 0 < 1; omega) b_x1)⟩

theorem sadd : ∀ x0 x1 x2 x3, Statement (.sadd x0 x1 x2 x3) := by
  intro x0 x1 x2 x3 w h
  have h' : some (BitVec.ofNat 32 (134217728 + 32768 * x0.toNat + 256 * x1.toNat + 2 * x2.toNat + x3.toNat)) = some w := h
  cases h'
  generalize hn : 134217728 + 32768 * x0.toNat + 256 * x1.toNat + 2 * x2.toNat + x3.toNat = n
  obtain ⟨lt, em, g22, g15, g8, g1, g0⟩ := shape0 (c0 := 2) (c1 := 0) (x0 := x0) (x1 := x1) (x2 := x2) (x3 := x3) (n := n)
    (by omega) (by decide) (by decide)
  rw [major_02 lt em, decMaj02]
  simp only [g15, g8, g1, g0, g22]

theorem ssub : ∀ x0 x1 x2 x3, Statement (.ssub x0 x1 x2 x3) := by
  intro x0 x1 x2 x3 w h
  have h' : some (BitVec.ofNat 32 (138412032 + 32768 * x0.toNat + 256 * x1.toNat + 2 * x2.toNat + x3.toNat)) = some w := h
  cases h'
  generalize hn : 138412032 + 32768 * x0.toNat + 256 * x1.toNat + 2 * x2.toNat + x3.toNat = n
  obtain ⟨lt, em, g22, g15, g8, g1, g0⟩ := shape0 (c0 := 2) (c1 := 1) (x0 := x0) (x1 := x1) (x2 := x2) (x3 := x3) (n := n)
    (by omega) (by decide) (by decide)
  rw [major_02 lt em, decMaj02]
  simp only [g15, g8, g1, g0, g22]

theorem smullo : ∀ x0 x1 x2 x3, Statement (.smullo x0 x1 x2 x3) := by
  intro x0 x1 x2 x3 w h
  have h' : some (BitVec.ofNat 32 (142606336 + 32768 * x0.toNat + 256 * x1.toNat + 2 * x2.toNat + x3.toNat)) = some w := h
  cases h'
  generalize hn : 142606336 + 32768 * x0.toNat + 256 * x1.toNat + 2 * x2.toNat + x3.toNat = n
  obtain ⟨lt, em, g22, g15, g8, g1, g0⟩ := shape0 (c0 := 2) (c1 := 2) (x0 := x0) (x1 := x1) (x2 := x2) (x3 := x3) (n := n)
    (by omega) (by decide) (by decide)
  rw [major_02 lt em, decMaj02]
  simp only [g15, g8, g1, g0, g22]

theorem smulhiS : ∀ x0 x1 x2 x3, Statement (.smulhiS x0 x1 x2 x3) := by
  intro x0 x1 x2 x3 w h
  have h' : some (BitVec.ofNat 32 (146800640 + 32768 * x0.toNat + 256 * x1.toNat + 2 * x2.toNat + x3.toNat)) = some w := h
  cases h'
  generalize hn : 146800640 + 32768 * x0.toNat + 256 * x1.toNat + 2 * x2.toNat + x3.toNat = n
  obtain ⟨lt, em, g22, g15, g8, g1, g0⟩ := shape0 (c0 := 2) (c1 := 3) (x0 := x0) (x1 := x1) (x2 := x2) (x3 := x3) (n := n)
    (by omega) (by decide) (by decide)
  rw [major_02 lt em, decMaj02]
  simp only [g15, g8, g1, g0, g22]

theorem smulhiU : ∀ x0 x1 x2 x3, Statement (.smulhiU x0 x1 x2 x3) := by
  intro x0 x1 x2 x3 w h
  have h' : some (BitVec.ofNat 32 (150994944 + 32768 * x0.toNat + 256 * x1.toNat + 2 * x2.toNat + x3.toNat)) = some w := h
  cases h'
  generalize hn : 150994944 + 32768 * x0.toNat + 256 * x1.toNat + 2 * x2.toNat + x3.toNat = n
  obtain ⟨lt, em, g22, g15, g8, g1, g0⟩ := shape0 (c0 := 2) (c1 := 4) (x0 := x0) (x1 := x1) (x2 := x2) (x3 := x3) (n := n)
    (by omega) (by decide) (by decide)
  rw [major_02 lt em, decMaj02]
  simp only [g15, g8, g1, g0, g22]

theorem smad : ∀ x0 x1 x2 x3, Statement (.smad x0 x1 x2 x3) := by
  intro x0 x1 x2 x3 w h
  have h' : some (BitVec.ofNat 32 (155189248 + 32768 * x0.toNat + 256 * x1.toNat + 2 * x2.toNat + x3.toNat)) = some w := h
  cases h'
  generalize hn : 155189248 + 32768 * x0.toNat + 256 * x1.toNat + 2 * x2.toNat + x3.toNat = n
  obtain ⟨lt, em, g22, g15, g8, g1, g0⟩ := shape0 (c0 := 2) (c1 := 5) (x0 := x0) (x1 := x1) (x2 := x2) (x3 := x3) (n := n)
    (by omega) (by decide) (by decide)
  rw [major_02 lt em, decMaj02]
  simp only [g15, g8, g1, g0, g22]

theorem sminS : ∀ x0 x1 x2 x3, Statement (.sminS x0 x1 x2 x3) := by
  intro x0 x1 x2 x3 w h
  have h' : some (BitVec.ofNat 32 (159383552 + 32768 * x0.toNat + 256 * x1.toNat + 2 * x2.toNat + x3.toNat)) = some w := h
  cases h'
  generalize hn : 159383552 + 32768 * x0.toNat + 256 * x1.toNat + 2 * x2.toNat + x3.toNat = n
  obtain ⟨lt, em, g22, g15, g8, g1, g0⟩ := shape0 (c0 := 2) (c1 := 6) (x0 := x0) (x1 := x1) (x2 := x2) (x3 := x3) (n := n)
    (by omega) (by decide) (by decide)
  rw [major_02 lt em, decMaj02]
  simp only [g15, g8, g1, g0, g22]

theorem sminU : ∀ x0 x1 x2 x3, Statement (.sminU x0 x1 x2 x3) := by
  intro x0 x1 x2 x3 w h
  have h' : some (BitVec.ofNat 32 (163577856 + 32768 * x0.toNat + 256 * x1.toNat + 2 * x2.toNat + x3.toNat)) = some w := h
  cases h'
  generalize hn : 163577856 + 32768 * x0.toNat + 256 * x1.toNat + 2 * x2.toNat + x3.toNat = n
  obtain ⟨lt, em, g22, g15, g8, g1, g0⟩ := shape0 (c0 := 2) (c1 := 7) (x0 := x0) (x1 := x1) (x2 := x2) (x3 := x3) (n := n)
    (by omega) (by decide) (by decide)
  rw [major_02 lt em, decMaj02]
  simp only [g15, g8, g1, g0, g22]

theorem smaxS : ∀ x0 x1 x2 x3, Statement (.smaxS x0 x1 x2 x3) := by
  intro x0 x1 x2 x3 w h
  have h' : some (BitVec.ofNat 32 (167772160 + 32768 * x0.toNat + 256 * x1.toNat + 2 * x2.toNat + x3.toNat)) = some w := h
  cases h'
  generalize hn : 167772160 + 32768 * x0.toNat + 256 * x1.toNat + 2 * x2.toNat + x3.toNat = n
  obtain ⟨lt, em, g22, g15, g8, g1, g0⟩ := shape0 (c0 := 2) (c1 := 8) (x0 := x0) (x1 := x1) (x2 := x2) (x3 := x3) (n := n)
    (by omega) (by decide) (by decide)
  rw [major_02 lt em, decMaj02]
  simp only [g15, g8, g1, g0, g22]

theorem smaxU : ∀ x0 x1 x2 x3, Statement (.smaxU x0 x1 x2 x3) := by
  intro x0 x1 x2 x3 w h
  have h' : some (BitVec.ofNat 32 (171966464 + 32768 * x0.toNat + 256 * x1.toNat + 2 * x2.toNat + x3.toNat)) = some w := h
  cases h'
  generalize hn : 171966464 + 32768 * x0.toNat + 256 * x1.toNat + 2 * x2.toNat + x3.toNat = n
  obtain ⟨lt, em, g22, g15, g8, g1, g0⟩ := shape0 (c0 := 2) (c1 := 9) (x0 := x0) (x1 := x1) (x2 := x2) (x3 := x3) (n := n)
    (by omega) (by decide) (by decide)
  rw [major_02 lt em, decMaj02]
  simp only [g15, g8, g1, g0, g22]

theorem saddsS : ∀ x0 x1 x2 x3, Statement (.saddsS x0 x1 x2 x3) := by
  intro x0 x1 x2 x3 w h
  have h' : some (BitVec.ofNat 32 (176160768 + 32768 * x0.toNat + 256 * x1.toNat + 2 * x2.toNat + x3.toNat)) = some w := h
  cases h'
  generalize hn : 176160768 + 32768 * x0.toNat + 256 * x1.toNat + 2 * x2.toNat + x3.toNat = n
  obtain ⟨lt, em, g22, g15, g8, g1, g0⟩ := shape0 (c0 := 2) (c1 := 10) (x0 := x0) (x1 := x1) (x2 := x2) (x3 := x3) (n := n)
    (by omega) (by decide) (by decide)
  rw [major_02 lt em, decMaj02]
  simp only [g15, g8, g1, g0, g22]

theorem saddsU : ∀ x0 x1 x2 x3, Statement (.saddsU x0 x1 x2 x3) := by
  intro x0 x1 x2 x3 w h
  have h' : some (BitVec.ofNat 32 (180355072 + 32768 * x0.toNat + 256 * x1.toNat + 2 * x2.toNat + x3.toNat)) = some w := h
  cases h'
  generalize hn : 180355072 + 32768 * x0.toNat + 256 * x1.toNat + 2 * x2.toNat + x3.toNat = n
  obtain ⟨lt, em, g22, g15, g8, g1, g0⟩ := shape0 (c0 := 2) (c1 := 11) (x0 := x0) (x1 := x1) (x2 := x2) (x3 := x3) (n := n)
    (by omega) (by decide) (by decide)
  rw [major_02 lt em, decMaj02]
  simp only [g15, g8, g1, g0, g22]

theorem saddc : ∀ x0 x1 x2 x3, Statement (.saddc x0 x1 x2 x3) := by
  intro x0 x1 x2 x3 w h
  have h' : some (BitVec.ofNat 32 (184549376 + 32768 * x0.toNat + 256 * x1.toNat + 2 * x2.toNat + x3.toNat)) = some w := h
  cases h'
  generalize hn : 184549376 + 32768 * x0.toNat + 256 * x1.toNat + 2 * x2.toNat + x3.toNat = n
  obtain ⟨lt, em, g22, g15, g8, g1, g0⟩ := shape0 (c0 := 2) (c1 := 12) (x0 := x0) (x1 := x1) (x2 := x2) (x3 := x3) (n := n)
    (by omega) (by decide) (by decide)
  rw [major_02 lt em, decMaj02]
  simp only [g15, g8, g1, g0, g22]

theorem ssubb : ∀ x0 x1 x2 x3, Statement (.ssubb x0 x1 x2 x3) := by
  intro x0 x1 x2 x3 w h
  have h' : some (BitVec.ofNat 32 (188743680 + 32768 * x0.toNat + 256 * x1.toNat + 2 * x2.toNat + x3.toNat)) = some w := h
  cases h'
  generalize hn : 188743680 + 32768 * x0.toNat + 256 * x1.toNat + 2 * x2.toNat + x3.toNat = n
  obtain ⟨lt, em, g22, g15, g8, g1, g0⟩ := shape0 (c0 := 2) (c1 := 13) (x0 := x0) (x1 := x1) (x2 := x2) (x3 := x3) (n := n)
    (by omega) (by decide) (by decide)
  rw [major_02 lt em, decMaj02]
  simp only [g15, g8, g1, g0, g22]

theorem sabs : ∀ x0 x1 x2, Statement (.sabs x0 x1 x2) := by
  intro x0 x1 x2 w h
  have h' : some (BitVec.ofNat 32 (192937984 + 32768 * x0.toNat + 256 * x1.toNat + x2.toNat)) = some w := h
  cases h'
  generalize hn : 192937984 + 32768 * x0.toNat + 256 * x1.toNat + x2.toNat = n
  obtain ⟨lt, em, g22, g15, g8, g1, g0⟩ := shape1 (c0 := 2) (c1 := 14) (c2 := 0) (x0 := x0) (x1 := x1) (x2 := x2) (n := n)
    (by omega) (by decide) (by decide) (by decide)
  rw [major_02 lt em, decMaj02]
  simp only [onlyIf_true, g15, g8, g0, g22, fx_true g1]

theorem sneg : ∀ x0 x1 x2, Statement (.sneg x0 x1 x2) := by
  intro x0 x1 x2 w h
  have h' : some (BitVec.ofNat 32 (197132288 + 32768 * x0.toNat + 256 * x1.toNat + x2.toNat)) = some w := h
  cases h'
  generalize hn : 197132288 + 32768 * x0.toNat + 256 * x1.toNat + x2.toNat = n
  obtain ⟨lt, em, g22, g15, g8, g1, g0⟩ := shape1 (c0 := 2) (c1 := 15) (c2 := 0) (x0 := x0) (x1 := x1) (x2 := x2) (n := n)
    (by omega) (by decide) (by decide) (by decide)
  rw [major_02 lt em, decMaj02]
  simp only [onlyIf_true, g15, g8, g0, g22, fx_true g1]

theorem sand : ∀ x0 x1 x2 x3, Statement (.sand x0 x1 x2 x3) := by
  intro x0 x1 x2 x3 w h
  have h' : some (BitVec.ofNat 32 (201326592 + 32768 * x0.toNat + 256 * x1.toNat + 2 * x2.toNat + x3.toNat)) = some w := h
  cases h'
  generalize hn : 201326592 + 32768 * x0.toNat + 256 * x1.toNat + 2 * x2.toNat + x3.toNat = n
  obtain ⟨lt, em, g22, g15, g8, g1, g0⟩ := shape0 (c0 := 3) (c1 := 0) (x0 := x0) (x1 := x1) (x2 := x2) (x3 := x3) (n := n)
    (by omega) (by decide) (by decide)
  rw [major_03 lt em, decMaj03]
  simp only [g15, g8, g1, g0, g22]

theorem sor : ∀ x0 x1 x2 x3, Statement (.sor x0 x1 x2 x3) := by
  intro x0 x1 x2 x3 w h
  have h' : some (BitVec.ofNat 32 (205520896 + 32768 * x0.toNat + 256 * x1.toNat + 2 * x2.toNat + x3.toNat)) = some w := h
  cases h'
  generalize hn : 205520896 + 32768 * x0.toNat + 256 * x1.toNat + 2 * x2.toNat + x3.toNat = n
  obtain ⟨lt, em, g22, g15, g8, g1, g0⟩ := shape0 (c0 := 3) (c1 := 1) (x0 := x0) (x1 := x1) (x2 := x2) (x3 := x3) (n := n)
    (by omega) (by decide) (by decide)
  rw [major_03 lt em, decMaj03]
  simp only [g15, g8, g1, g0, g22]

theorem sxor : ∀ x0 x1 x2 x3, Statement (.sxor x0 x1 x2 x3) := by
  intro x0 x1 x2 x3 w h
  have h' : some (BitVec.ofNat 32 (209715200 + 32768 * x0.toNat + 256 * x1.toNat + 2 * x2.toNat + x3.toNat)) = some w := h
  cases h'
  generalize hn : 209715200 + 32768 * x0.toNat + 256 * x1.toNat + 2 * x2.toNat + x3.toNat = n
  obtain ⟨lt, em, g22, g15, g8, g1, g0⟩ := shape0 (c0 := 3) (c1 := 2) (x0 := x0) (x1 := x1) (x2 := x2) (x3 := x3) (n := n)
    (by omega) (by decide) (by decide)
  rw [major_03 lt em, decMaj03]
  simp only [g15, g8, g1, g0, g22]

theorem sandn : ∀ x0 x1 x2 x3, Statement (.sandn x0 x1 x2 x3) := by
  intro x0 x1 x2 x3 w h
  have h' : some (BitVec.ofNat 32 (213909504 + 32768 * x0.toNat + 256 * x1.toNat + 2 * x2.toNat + x3.toNat)) = some w := h
  cases h'
  generalize hn : 213909504 + 32768 * x0.toNat + 256 * x1.toNat + 2 * x2.toNat + x3.toNat = n
  obtain ⟨lt, em, g22, g15, g8, g1, g0⟩ := shape0 (c0 := 3) (c1 := 3) (x0 := x0) (x1 := x1) (x2 := x2) (x3 := x3) (n := n)
    (by omega) (by decide) (by decide)
  rw [major_03 lt em, decMaj03]
  simp only [g15, g8, g1, g0, g22]

theorem snot : ∀ x0 x1 x2, Statement (.snot x0 x1 x2) := by
  intro x0 x1 x2 w h
  have h' : some (BitVec.ofNat 32 (218103808 + 32768 * x0.toNat + 256 * x1.toNat + x2.toNat)) = some w := h
  cases h'
  generalize hn : 218103808 + 32768 * x0.toNat + 256 * x1.toNat + x2.toNat = n
  obtain ⟨lt, em, g22, g15, g8, g1, g0⟩ := shape1 (c0 := 3) (c1 := 4) (c2 := 0) (x0 := x0) (x1 := x1) (x2 := x2) (n := n)
    (by omega) (by decide) (by decide) (by decide)
  rw [major_03 lt em, decMaj03]
  simp only [onlyIf_true, g15, g8, g0, g22, fx_true g1]

theorem sshl : ∀ x0 x1 x2 x3, Statement (.sshl x0 x1 x2 x3) := by
  intro x0 x1 x2 x3 w h
  have h' : some (BitVec.ofNat 32 (222298112 + 32768 * x0.toNat + 256 * x1.toNat + 2 * x2.toNat + x3.toNat)) = some w := h
  cases h'
  generalize hn : 222298112 + 32768 * x0.toNat + 256 * x1.toNat + 2 * x2.toNat + x3.toNat = n
  obtain ⟨lt, em, g22, g15, g8, g1, g0⟩ := shape0 (c0 := 3) (c1 := 5) (x0 := x0) (x1 := x1) (x2 := x2) (x3 := x3) (n := n)
    (by omega) (by decide) (by decide)
  rw [major_03 lt em, decMaj03]
  simp only [g15, g8, g1, g0, g22]

theorem sshr : ∀ x0 x1 x2 x3, Statement (.sshr x0 x1 x2 x3) := by
  intro x0 x1 x2 x3 w h
  have h' : some (BitVec.ofNat 32 (226492416 + 32768 * x0.toNat + 256 * x1.toNat + 2 * x2.toNat + x3.toNat)) = some w := h
  cases h'
  generalize hn : 226492416 + 32768 * x0.toNat + 256 * x1.toNat + 2 * x2.toNat + x3.toNat = n
  obtain ⟨lt, em, g22, g15, g8, g1, g0⟩ := shape0 (c0 := 3) (c1 := 6) (x0 := x0) (x1 := x1) (x2 := x2) (x3 := x3) (n := n)
    (by omega) (by decide) (by decide)
  rw [major_03 lt em, decMaj03]
  simp only [g15, g8, g1, g0, g22]

theorem ssar : ∀ x0 x1 x2 x3, Statement (.ssar x0 x1 x2 x3) := by
  intro x0 x1 x2 x3 w h
  have h' : some (BitVec.ofNat 32 (230686720 + 32768 * x0.toNat + 256 * x1.toNat + 2 * x2.toNat + x3.toNat)) = some w := h
  cases h'
  generalize hn : 230686720 + 32768 * x0.toNat + 256 * x1.toNat + 2 * x2.toNat + x3.toNat = n
  obtain ⟨lt, em, g22, g15, g8, g1, g0⟩ := shape0 (c0 := 3) (c1 := 7) (x0 := x0) (x1 := x1) (x2 := x2) (x3 := x3) (n := n)
    (by omega) (by decide) (by decide)
  rw [major_03 lt em, decMaj03]
  simp only [g15, g8, g1, g0, g22]

theorem srot : ∀ x0 x1 x2 x3, Statement (.srot x0 x1 x2 x3) := by
  intro x0 x1 x2 x3 w h
  have h' : some (BitVec.ofNat 32 (234881024 + 32768 * x0.toNat + 256 * x1.toNat + 2 * x2.toNat + x3.toNat)) = some w := h
  cases h'
  generalize hn : 234881024 + 32768 * x0.toNat + 256 * x1.toNat + 2 * x2.toNat + x3.toNat = n
  obtain ⟨lt, em, g22, g15, g8, g1, g0⟩ := shape0 (c0 := 3) (c1 := 8) (x0 := x0) (x1 := x1) (x2 := x2) (x3 := x3) (n := n)
    (by omega) (by decide) (by decide)
  rw [major_03 lt em, decMaj03]
  simp only [g15, g8, g1, g0, g22]

theorem sclz : ∀ x0 x1 x2, Statement (.sclz x0 x1 x2) := by
  intro x0 x1 x2 w h
  have h' : some (BitVec.ofNat 32 (239075328 + 32768 * x0.toNat + 256 * x1.toNat + x2.toNat)) = some w := h
  cases h'
  generalize hn : 239075328 + 32768 * x0.toNat + 256 * x1.toNat + x2.toNat = n
  obtain ⟨lt, em, g22, g15, g8, g1, g0⟩ := shape1 (c0 := 3) (c1 := 9) (c2 := 0) (x0 := x0) (x1 := x1) (x2 := x2) (n := n)
    (by omega) (by decide) (by decide) (by decide)
  rw [major_03 lt em, decMaj03]
  simp only [onlyIf_true, g15, g8, g0, g22, fx_true g1]

theorem spop : ∀ x0 x1 x2, Statement (.spop x0 x1 x2) := by
  intro x0 x1 x2 w h
  have h' : some (BitVec.ofNat 32 (243269632 + 32768 * x0.toNat + 256 * x1.toNat + x2.toNat)) = some w := h
  cases h'
  generalize hn : 243269632 + 32768 * x0.toNat + 256 * x1.toNat + x2.toNat = n
  obtain ⟨lt, em, g22, g15, g8, g1, g0⟩ := shape1 (c0 := 3) (c1 := 10) (c2 := 0) (x0 := x0) (x1 := x1) (x2 := x2) (n := n)
    (by omega) (by decide) (by decide) (by decide)
  rw [major_03 lt em, decMaj03]
  simp only [onlyIf_true, g15, g8, g0, g22, fx_true g1]

theorem sbrev : ∀ x0 x1 x2, Statement (.sbrev x0 x1 x2) := by
  intro x0 x1 x2 w h
  have h' : some (BitVec.ofNat 32 (247463936 + 32768 * x0.toNat + 256 * x1.toNat + x2.toNat)) = some w := h
  cases h'
  generalize hn : 247463936 + 32768 * x0.toNat + 256 * x1.toNat + x2.toNat = n
  obtain ⟨lt, em, g22, g15, g8, g1, g0⟩ := shape1 (c0 := 3) (c1 := 11) (c2 := 0) (x0 := x0) (x1 := x1) (x2 := x2) (n := n)
    (by omega) (by decide) (by decide) (by decide)
  rw [major_03 lt em, decMaj03]
  simp only [onlyIf_true, g15, g8, g0, g22, fx_true g1]

theorem sbfeU : ∀ x0 x1 x2 x3, Statement (.sbfeU x0 x1 x2 x3) := by
  intro x0 x1 x2 x3 w h
  have h' : some (BitVec.ofNat 32 (251658240 + 32768 * x0.toNat + 256 * x1.toNat + 2 * x2.toNat + x3.toNat)) = some w := h
  cases h'
  generalize hn : 251658240 + 32768 * x0.toNat + 256 * x1.toNat + 2 * x2.toNat + x3.toNat = n
  obtain ⟨lt, em, g22, g15, g8, g1, g0⟩ := shape0 (c0 := 3) (c1 := 12) (x0 := x0) (x1 := x1) (x2 := x2) (x3 := x3) (n := n)
    (by omega) (by decide) (by decide)
  rw [major_03 lt em, decMaj03]
  simp only [g15, g8, g1, g0, g22]

theorem sbfeS : ∀ x0 x1 x2 x3, Statement (.sbfeS x0 x1 x2 x3) := by
  intro x0 x1 x2 x3 w h
  have h' : some (BitVec.ofNat 32 (255852544 + 32768 * x0.toNat + 256 * x1.toNat + 2 * x2.toNat + x3.toNat)) = some w := h
  cases h'
  generalize hn : 255852544 + 32768 * x0.toNat + 256 * x1.toNat + 2 * x2.toNat + x3.toNat = n
  obtain ⟨lt, em, g22, g15, g8, g1, g0⟩ := shape0 (c0 := 3) (c1 := 13) (x0 := x0) (x1 := x1) (x2 := x2) (x3 := x3) (n := n)
    (by omega) (by decide) (by decide)
  rw [major_03 lt em, decMaj03]
  simp only [g15, g8, g1, g0, g22]

theorem sbfi : ∀ x0 x1 x2 x3, Statement (.sbfi x0 x1 x2 x3) := by
  intro x0 x1 x2 x3 w h
  have h' : some (BitVec.ofNat 32 (260046848 + 32768 * x0.toNat + 256 * x1.toNat + 2 * x2.toNat + x3.toNat)) = some w := h
  cases h'
  generalize hn : 260046848 + 32768 * x0.toNat + 256 * x1.toNat + 2 * x2.toNat + x3.toNat = n
  obtain ⟨lt, em, g22, g15, g8, g1, g0⟩ := shape0 (c0 := 3) (c1 := 14) (x0 := x0) (x1 := x1) (x2 := x2) (x3 := x3) (n := n)
    (by omega) (by decide) (by decide)
  rw [major_03 lt em, decMaj03]
  simp only [g15, g8, g1, g0, g22]

theorem sunpack : ∀ x0 x1 x2, Statement (.sunpack x0 x1 x2) := by
  intro x0 x1 x2 w h
  have h' : some (BitVec.ofNat 32 (264241152 + 32768 * x0.toNat + 256 * x1.toNat + x2.toNat)) = some w := h
  cases h'
  generalize hn : 264241152 + 32768 * x0.toNat + 256 * x1.toNat + x2.toNat = n
  obtain ⟨lt, em, g22, g15, g8, g1, g0⟩ := shape1 (c0 := 3) (c1 := 15) (c2 := 0) (x0 := x0) (x1 := x1) (x2 := x2) (n := n)
    (by omega) (by decide) (by decide) (by decide)
  rw [major_03 lt em, decMaj03]
  simp only [onlyIf_true, g15, g8, g0, g22, fx_true g1]

theorem scmp : ∀ x0 x1 x2 x3 x4, Statement (.scmp x0 x1 x2 x3 x4) := by
  intro x0 x1 x2 x3 x4 w h
  have h' : some (BitVec.ofNat 32 (268435456 + 4194304 * x0.toNat + 32768 * x1.toNat + 256 * x2.toNat + 2 * x3.toNat + x4.toNat)) = some w := h
  cases h'
  generalize hn : 268435456 + 4194304 * x0.toNat + 32768 * x1.toNat + 256 * x2.toNat + 2 * x3.toNat + x4.toNat = n
  obtain ⟨lt, em, g25, g22, g15, g8, g1, g0⟩ := shape2 (c0 := 4) (c1 := 0) (x0 := x0) (x1 := x1) (x2 := x2) (x3 := x3) (x4 := x4) (n := n)
    (by omega) (by decide) (by decide)
  rw [major_04 lt em, decMaj04]
  simp only [g22, g15, g8, g1, g0, g25]

theorem smov : ∀ x0 x1 x2, Statement (.smov x0 x1 x2) := by
  intro x0 x1 x2 w h
  have h' : some (BitVec.ofNat 32 (301989888 + 32768 * x0.toNat + 256 * x1.toNat + x2.toNat)) = some w := h
  cases h'
  generalize hn : 301989888 + 32768 * x0.toNat + 256 * x1.toNat + x2.toNat = n
  obtain ⟨lt, em, g25, g22, g15, g8, g1, g0⟩ := shape3 (c0 := 4) (c1 := 1) (c2 := 0) (c3 := 0) (x0 := x0) (x1 := x1) (x2 := x2) (n := n)
    (by omega) (by decide) (by decide) (by decide) (by decide)
  rw [major_04 lt em, decMaj04]
  simp only [Bool.and_false, Bool.and_self, Bool.false_and, onlyIf_true, g15, g8, g0, g25, fx_true g1, fx_true g22]
  rfl

theorem sext8S : ∀ x0 x1 x2, Statement (.sext8S x0 x1 x2) := by
  intro x0 x1 x2 w h
  have h' : some (BitVec.ofNat 32 (306184192 + 32768 * x0.toNat + 256 * x1.toNat + x2.toNat)) = some w := h
  cases h'
  generalize hn : 306184192 + 32768 * x0.toNat + 256 * x1.toNat + x2.toNat = n
  obtain ⟨lt, em, g25, g22, g15, g8, g1, g0⟩ := shape3 (c0 := 4) (c1 := 1) (c2 := 1) (c3 := 0) (x0 := x0) (x1 := x1) (x2 := x2) (n := n)
    (by omega) (by decide) (by decide) (by decide) (by decide)
  rw [major_04 lt em, decMaj04]
  simp only [Bool.and_false, Bool.and_self, Bool.false_and, onlyIf_false, onlyIf_true, g15, g8, g0, g25, fx_true g1, (fx_false (by rw [g22]; decide) : fx n 22 3 0 = false), fx_true g22]
  rfl

theorem sext8U : ∀ x0 x1 x2, Statement (.sext8U x0 x1 x2) := by
  intro x0 x1 x2 w h
  have h' : some (BitVec.ofNat 32 (310378496 + 32768 * x0.toNat + 256 * x1.toNat + x2.toNat)) = some w := h
  cases h'
  generalize hn : 310378496 + 32768 * x0.toNat + 256 * x1.toNat + x2.toNat = n
  obtain ⟨lt, em, g25, g22, g15, g8, g1, g0⟩ := shape3 (c0 := 4) (c1 := 1) (c2 := 2) (c3 := 0) (x0 := x0) (x1 := x1) (x2 := x2) (n := n)
    (by omega) (by decide) (by decide) (by decide) (by decide)
  rw [major_04 lt em, decMaj04]
  simp only [Bool.and_false, Bool.and_self, Bool.false_and, onlyIf_false, onlyIf_true, g15, g8, g0, g25, fx_true g1, (fx_false (by rw [g22]; decide) : fx n 22 3 0 = false), (fx_false (by rw [g22]; decide) : fx n 22 3 1 = false), fx_true g22]
  rfl

theorem sext16S : ∀ x0 x1 x2, Statement (.sext16S x0 x1 x2) := by
  intro x0 x1 x2 w h
  have h' : some (BitVec.ofNat 32 (314572800 + 32768 * x0.toNat + 256 * x1.toNat + x2.toNat)) = some w := h
  cases h'
  generalize hn : 314572800 + 32768 * x0.toNat + 256 * x1.toNat + x2.toNat = n
  obtain ⟨lt, em, g25, g22, g15, g8, g1, g0⟩ := shape3 (c0 := 4) (c1 := 1) (c2 := 3) (c3 := 0) (x0 := x0) (x1 := x1) (x2 := x2) (n := n)
    (by omega) (by decide) (by decide) (by decide) (by decide)
  rw [major_04 lt em, decMaj04]
  simp only [Bool.and_false, Bool.and_self, Bool.false_and, onlyIf_false, onlyIf_true, g15, g8, g0, g25, fx_true g1, (fx_false (by rw [g22]; decide) : fx n 22 3 0 = false), (fx_false (by rw [g22]; decide) : fx n 22 3 1 = false), (fx_false (by rw [g22]; decide) : fx n 22 3 2 = false), fx_true g22]
  rfl

theorem sext16U : ∀ x0 x1 x2, Statement (.sext16U x0 x1 x2) := by
  intro x0 x1 x2 w h
  have h' : some (BitVec.ofNat 32 (318767104 + 32768 * x0.toNat + 256 * x1.toNat + x2.toNat)) = some w := h
  cases h'
  generalize hn : 318767104 + 32768 * x0.toNat + 256 * x1.toNat + x2.toNat = n
  obtain ⟨lt, em, g25, g22, g15, g8, g1, g0⟩ := shape3 (c0 := 4) (c1 := 1) (c2 := 4) (c3 := 0) (x0 := x0) (x1 := x1) (x2 := x2) (n := n)
    (by omega) (by decide) (by decide) (by decide) (by decide)
  rw [major_04 lt em, decMaj04]
  simp only [Bool.and_false, Bool.and_self, Bool.false_and, onlyIf_false, onlyIf_true, g15, g8, g0, g25, fx_true g1, (fx_false (by rw [g22]; decide) : fx n 22 3 0 = false), (fx_false (by rw [g22]; decide) : fx n 22 3 1 = false), (fx_false (by rw [g22]; decide) : fx n 22 3 2 = false), (fx_false (by rw [g22]; decide) : fx n 22 3 3 = false), fx_true g22]
  rfl

theorem slea : ∀ x0 x1 x2, Statement (.slea x0 x1 x2) := by
  intro x0 x1 x2 w h
  have h' : some (BitVec.ofNat 32 (322961408 + 32768 * x0.toNat + 256 * x1.toNat + 2 * x2.toNat)) = some w := h
  cases h'
  generalize hn : 322961408 + 32768 * x0.toNat + 256 * x1.toNat + 2 * x2.toNat = n
  obtain ⟨lt, em, g25, g22, g15, g8, g1, g0⟩ := shape4 (c0 := 4) (c1 := 1) (c2 := 5) (c3 := 0) (x0 := x0) (x1 := x1) (x2 := x2) (n := n)
    (by omega) (by decide) (by decide) (by decide) (by decide)
  rw [major_04 lt em, decMaj04]
  simp only [Bool.and_false, Bool.and_self, Bool.false_and, onlyIf_false, onlyIf_true, g15, g8, g1, g25, (fx_false (by rw [g22]; decide) : fx n 22 3 0 = false), (fx_false (by rw [g22]; decide) : fx n 22 3 1 = false), (fx_false (by rw [g22]; decide) : fx n 22 3 2 = false), (fx_false (by rw [g22]; decide) : fx n 22 3 3 = false), (fx_false (by rw [g22]; decide) : fx n 22 3 4 = false), fx_true g0, fx_true g22]
  rfl

theorem ssel : ∀ x0 x1 x2 x3, Statement (.ssel x0 x1 x2 x3) := by
  intro x0 x1 x2 x3 w h
  have h' : some (BitVec.ofNat 32 (327155712 + 32768 * x0.toNat + 256 * x1.toNat + 2 * x2.toNat + x3.toNat)) = some w := h
  cases h'
  generalize hn : 327155712 + 32768 * x0.toNat + 256 * x1.toNat + 2 * x2.toNat + x3.toNat = n
  obtain ⟨lt, em, g25, g22, g15, g8, g1, g0⟩ := shape5 (c0 := 4) (c1 := 1) (c2 := 6) (x0 := x0) (x1 := x1) (x2 := x2) (x3 := x3) (n := n)
    (by omega) (by decide) (by decide) (by decide)
  rw [major_04 lt em, decMaj04]
  simp only [Bool.and_false, Bool.and_self, Bool.false_and, onlyIf_false, onlyIf_true, g15, g8, g1, g0, g25, (fx_false (by rw [g22]; decide) : fx n 22 3 0 = false), (fx_false (by rw [g22]; decide) : fx n 22 3 1 = false), (fx_false (by rw [g22]; decide) : fx n 22 3 2 = false), (fx_false (by rw [g22]; decide) : fx n 22 3 3 = false), (fx_false (by rw [g22]; decide) : fx n 22 3 4 = false), (fx_false (by rw [g22]; decide) : fx n 22 3 5 = false), fx_true g22]
  rfl

theorem spack : ∀ x0 x1 x2 x3, Statement (.spack x0 x1 x2 x3) := by
  intro x0 x1 x2 x3 w h
  have h' : some (BitVec.ofNat 32 (331350016 + 32768 * x0.toNat + 256 * x1.toNat + 2 * x2.toNat + x3.toNat)) = some w := h
  cases h'
  generalize hn : 331350016 + 32768 * x0.toNat + 256 * x1.toNat + 2 * x2.toNat + x3.toNat = n
  obtain ⟨lt, em, g25, g22, g15, g8, g1, g0⟩ := shape5 (c0 := 4) (c1 := 1) (c2 := 7) (x0 := x0) (x1 := x1) (x2 := x2) (x3 := x3) (n := n)
    (by omega) (by decide) (by decide) (by decide)
  rw [major_04 lt em, decMaj04]
  simp only [Bool.and_false, Bool.and_self, Bool.false_and, onlyIf_false, onlyIf_true, g15, g8, g1, g0, g25, (fx_false (by rw [g22]; decide) : fx n 22 3 0 = false), (fx_false (by rw [g22]; decide) : fx n 22 3 1 = false), (fx_false (by rw [g22]; decide) : fx n 22 3 2 = false), (fx_false (by rw [g22]; decide) : fx n 22 3 3 = false), (fx_false (by rw [g22]; decide) : fx n 22 3 4 = false), (fx_false (by rw [g22]; decide) : fx n 22 3 5 = false), (fx_false (by rw [g22]; decide) : fx n 22 3 6 = false), fx_true g22]
  rfl

theorem saddImm : ∀ x0 x1 x2, Statement (.saddImm x0 x1 x2) := by
  intro x0 x1 x2 w h
  have h' : some (BitVec.ofNat 32 (335544320 + 65536 * x0.toNat + 512 * x1.toNat + x2.toNat)) = some w := h
  cases h'
  generalize hn : 335544320 + 65536 * x0.toNat + 512 * x1.toNat + x2.toNat = n
  obtain ⟨lt, em, g23, g16, g9, g0⟩ := shape6 (c0 := 5) (c1 := 0) (x0 := x0) (x1 := x1) (x2 := x2) (n := n)
    (by omega) (by decide) (by decide)
  rw [major_05 lt em, decMaj05]
  simp only [g16, g9, g0, g23]

theorem sandImm : ∀ x0 x1 x2, Statement (.sandImm x0 x1 x2) := by
  intro x0 x1 x2 w h
  have h' : some (BitVec.ofNat 32 (343932928 + 65536 * x0.toNat + 512 * x1.toNat + x2.toNat)) = some w := h
  cases h'
  generalize hn : 343932928 + 65536 * x0.toNat + 512 * x1.toNat + x2.toNat = n
  obtain ⟨lt, em, g23, g16, g9, g0⟩ := shape6 (c0 := 5) (c1 := 1) (x0 := x0) (x1 := x1) (x2 := x2) (n := n)
    (by omega) (by decide) (by decide)
  rw [major_05 lt em, decMaj05]
  simp only [g16, g9, g0, g23]

theorem sorImm : ∀ x0 x1 x2, Statement (.sorImm x0 x1 x2) := by
  intro x0 x1 x2 w h
  have h' : some (BitVec.ofNat 32 (352321536 + 65536 * x0.toNat + 512 * x1.toNat + x2.toNat)) = some w := h
  cases h'
  generalize hn : 352321536 + 65536 * x0.toNat + 512 * x1.toNat + x2.toNat = n
  obtain ⟨lt, em, g23, g16, g9, g0⟩ := shape6 (c0 := 5) (c1 := 2) (x0 := x0) (x1 := x1) (x2 := x2) (n := n)
    (by omega) (by decide) (by decide)
  rw [major_05 lt em, decMaj05]
  simp only [g16, g9, g0, g23]

theorem sxorImm : ∀ x0 x1 x2, Statement (.sxorImm x0 x1 x2) := by
  intro x0 x1 x2 w h
  have h' : some (BitVec.ofNat 32 (360710144 + 65536 * x0.toNat + 512 * x1.toNat + x2.toNat)) = some w := h
  cases h'
  generalize hn : 360710144 + 65536 * x0.toNat + 512 * x1.toNat + x2.toNat = n
  obtain ⟨lt, em, g23, g16, g9, g0⟩ := shape6 (c0 := 5) (c1 := 3) (x0 := x0) (x1 := x1) (x2 := x2) (n := n)
    (by omega) (by decide) (by decide)
  rw [major_05 lt em, decMaj05]
  simp only [g16, g9, g0, g23]

theorem sshlImm : ∀ x0 x1 x2, Statement (.sshlImm x0 x1 x2) := by
  intro x0 x1 x2 w h
  have h' : some (BitVec.ofNat 32 (369098752 + 65536 * x0.toNat + 512 * x1.toNat + x2.toNat)) = some w := h
  cases h'
  generalize hn : 369098752 + 65536 * x0.toNat + 512 * x1.toNat + x2.toNat = n
  obtain ⟨lt, em, g23, g16, g9, g0⟩ := shape6 (c0 := 5) (c1 := 4) (x0 := x0) (x1 := x1) (x2 := x2) (n := n)
    (by omega) (by decide) (by decide)
  rw [major_05 lt em, decMaj05]
  simp only [g16, g9, g0, g23]

theorem sshrImm : ∀ x0 x1 x2, Statement (.sshrImm x0 x1 x2) := by
  intro x0 x1 x2 w h
  have h' : some (BitVec.ofNat 32 (377487360 + 65536 * x0.toNat + 512 * x1.toNat + x2.toNat)) = some w := h
  cases h'
  generalize hn : 377487360 + 65536 * x0.toNat + 512 * x1.toNat + x2.toNat = n
  obtain ⟨lt, em, g23, g16, g9, g0⟩ := shape6 (c0 := 5) (c1 := 5) (x0 := x0) (x1 := x1) (x2 := x2) (n := n)
    (by omega) (by decide) (by decide)
  rw [major_05 lt em, decMaj05]
  simp only [g16, g9, g0, g23]

theorem ssarImm : ∀ x0 x1 x2, Statement (.ssarImm x0 x1 x2) := by
  intro x0 x1 x2 w h
  have h' : some (BitVec.ofNat 32 (385875968 + 65536 * x0.toNat + 512 * x1.toNat + x2.toNat)) = some w := h
  cases h'
  generalize hn : 385875968 + 65536 * x0.toNat + 512 * x1.toNat + x2.toNat = n
  obtain ⟨lt, em, g23, g16, g9, g0⟩ := shape6 (c0 := 5) (c1 := 6) (x0 := x0) (x1 := x1) (x2 := x2) (n := n)
    (by omega) (by decide) (by decide)
  rw [major_05 lt em, decMaj05]
  simp only [g16, g9, g0, g23]

theorem smovi : ∀ x0 x1, Statement (.smovi x0 x1) := by
  intro x0 x1 w h
  have h' : some (BitVec.ofNat 32 (394264576 + 65536 * x0.toNat + x1.toNat)) = some w := h
  cases h'
  generalize hn : 394264576 + 65536 * x0.toNat + x1.toNat = n
  obtain ⟨lt, em, g23, g16, g9, g0⟩ := shape7 (c0 := 5) (c1 := 7) (c2 := 0) (x0 := x0) (x1 := x1) (n := n)
    (by omega) (by decide) (by decide) (by decide)
  rw [major_05 lt em, decMaj05]
  simp only [onlyIf_true, g16, g0, g23, fx_true g9]

theorem sdivS : ∀ x0 x1 x2 x3, Statement (.sdivS x0 x1 x2 x3) := by
  intro x0 x1 x2 x3 w h
  have h' : some (BitVec.ofNat 32 (402653184 + 4194304 * x0.toNat + 32768 * x1.toNat + 256 * x2.toNat + 2 * x3.toNat)) = some w := h
  cases h'
  generalize hn : 402653184 + 4194304 * x0.toNat + 32768 * x1.toNat + 256 * x2.toNat + 2 * x3.toNat = n
  obtain ⟨lt, em, g22, g15, g8, g1, g0⟩ := shape8 (c0 := 6) (c1 := 0) (x0 := x0) (x1 := x1) (x2 := x2) (x3 := x3) (n := n)
    (by omega) (by decide) (by decide)
  rw [major_06 lt em, decMaj06]
  simp only [g22, g15, g8, g1, g0]

theorem sdivU : ∀ x0 x1 x2 x3, Statement (.sdivU x0 x1 x2 x3) := by
  intro x0 x1 x2 x3 w h
  have h' : some (BitVec.ofNat 32 (402653185 + 4194304 * x0.toNat + 32768 * x1.toNat + 256 * x2.toNat + 2 * x3.toNat)) = some w := h
  cases h'
  generalize hn : 402653185 + 4194304 * x0.toNat + 32768 * x1.toNat + 256 * x2.toNat + 2 * x3.toNat = n
  obtain ⟨lt, em, g22, g15, g8, g1, g0⟩ := shape8 (c0 := 6) (c1 := 1) (x0 := x0) (x1 := x1) (x2 := x2) (x3 := x3) (n := n)
    (by omega) (by decide) (by decide)
  rw [major_06 lt em, decMaj06]
  simp only [g22, g15, g8, g1, g0]

theorem sremS : ∀ x0 x1 x2 x3, Statement (.sremS x0 x1 x2 x3) := by
  intro x0 x1 x2 x3 w h
  have h' : some (BitVec.ofNat 32 (469762048 + 4194304 * x0.toNat + 32768 * x1.toNat + 256 * x2.toNat + 2 * x3.toNat)) = some w := h
  cases h'
  generalize hn : 469762048 + 4194304 * x0.toNat + 32768 * x1.toNat + 256 * x2.toNat + 2 * x3.toNat = n
  obtain ⟨lt, em, g22, g15, g8, g1, g0⟩ := shape8 (c0 := 7) (c1 := 0) (x0 := x0) (x1 := x1) (x2 := x2) (x3 := x3) (n := n)
    (by omega) (by decide) (by decide)
  rw [major_07 lt em, decMaj07]
  simp only [g22, g15, g8, g1, g0]

theorem sremU : ∀ x0 x1 x2 x3, Statement (.sremU x0 x1 x2 x3) := by
  intro x0 x1 x2 x3 w h
  have h' : some (BitVec.ofNat 32 (469762049 + 4194304 * x0.toNat + 32768 * x1.toNat + 256 * x2.toNat + 2 * x3.toNat)) = some w := h
  cases h'
  generalize hn : 469762049 + 4194304 * x0.toNat + 32768 * x1.toNat + 256 * x2.toNat + 2 * x3.toNat = n
  obtain ⟨lt, em, g22, g15, g8, g1, g0⟩ := shape8 (c0 := 7) (c1 := 1) (x0 := x0) (x1 := x1) (x2 := x2) (x3 := x3) (n := n)
    (by omega) (by decide) (by decide)
  rw [major_07 lt em, decMaj07]
  simp only [g22, g15, g8, g1, g0]

theorem vadd : ∀ x0 x1 x2 x3, Statement (.vadd x0 x1 x2 x3) := by
  intro x0 x1 x2 x3 w h
  have h' : some (BitVec.ofNat 32 (536870912 + 32768 * x0.toNat + 256 * x1.toNat + 2 * x2.toNat + x3.toNat)) = some w := h
  cases h'
  generalize hn : 536870912 + 32768 * x0.toNat + 256 * x1.toNat + 2 * x2.toNat + x3.toNat = n
  obtain ⟨lt, em, g22, g15, g8, g1, g0⟩ := shape0 (c0 := 8) (c1 := 0) (x0 := x0) (x1 := x1) (x2 := x2) (x3 := x3) (n := n)
    (by omega) (by decide) (by decide)
  rw [major_08 lt em, decMaj08]
  simp only [g15, g8, g1, g0, g22]

theorem vsub : ∀ x0 x1 x2 x3, Statement (.vsub x0 x1 x2 x3) := by
  intro x0 x1 x2 x3 w h
  have h' : some (BitVec.ofNat 32 (541065216 + 32768 * x0.toNat + 256 * x1.toNat + 2 * x2.toNat + x3.toNat)) = some w := h
  cases h'
  generalize hn : 541065216 + 32768 * x0.toNat + 256 * x1.toNat + 2 * x2.toNat + x3.toNat = n
  obtain ⟨lt, em, g22, g15, g8, g1, g0⟩ := shape0 (c0 := 8) (c1 := 1) (x0 := x0) (x1 := x1) (x2 := x2) (x3 := x3) (n := n)
    (by omega) (by decide) (by decide)
  rw [major_08 lt em, decMaj08]
  simp only [g15, g8, g1, g0, g22]

theorem vmullo : ∀ x0 x1 x2 x3, Statement (.vmullo x0 x1 x2 x3) := by
  intro x0 x1 x2 x3 w h
  have h' : some (BitVec.ofNat 32 (545259520 + 32768 * x0.toNat + 256 * x1.toNat + 2 * x2.toNat + x3.toNat)) = some w := h
  cases h'
  generalize hn : 545259520 + 32768 * x0.toNat + 256 * x1.toNat + 2 * x2.toNat + x3.toNat = n
  obtain ⟨lt, em, g22, g15, g8, g1, g0⟩ := shape0 (c0 := 8) (c1 := 2) (x0 := x0) (x1 := x1) (x2 := x2) (x3 := x3) (n := n)
    (by omega) (by decide) (by decide)
  rw [major_08 lt em, decMaj08]
  simp only [g15, g8, g1, g0, g22]

theorem vmulhiS : ∀ x0 x1 x2 x3, Statement (.vmulhiS x0 x1 x2 x3) := by
  intro x0 x1 x2 x3 w h
  have h' : some (BitVec.ofNat 32 (549453824 + 32768 * x0.toNat + 256 * x1.toNat + 2 * x2.toNat + x3.toNat)) = some w := h
  cases h'
  generalize hn : 549453824 + 32768 * x0.toNat + 256 * x1.toNat + 2 * x2.toNat + x3.toNat = n
  obtain ⟨lt, em, g22, g15, g8, g1, g0⟩ := shape0 (c0 := 8) (c1 := 3) (x0 := x0) (x1 := x1) (x2 := x2) (x3 := x3) (n := n)
    (by omega) (by decide) (by decide)
  rw [major_08 lt em, decMaj08]
  simp only [g15, g8, g1, g0, g22]

theorem vmulhiU : ∀ x0 x1 x2 x3, Statement (.vmulhiU x0 x1 x2 x3) := by
  intro x0 x1 x2 x3 w h
  have h' : some (BitVec.ofNat 32 (553648128 + 32768 * x0.toNat + 256 * x1.toNat + 2 * x2.toNat + x3.toNat)) = some w := h
  cases h'
  generalize hn : 553648128 + 32768 * x0.toNat + 256 * x1.toNat + 2 * x2.toNat + x3.toNat = n
  obtain ⟨lt, em, g22, g15, g8, g1, g0⟩ := shape0 (c0 := 8) (c1 := 4) (x0 := x0) (x1 := x1) (x2 := x2) (x3 := x3) (n := n)
    (by omega) (by decide) (by decide)
  rw [major_08 lt em, decMaj08]
  simp only [g15, g8, g1, g0, g22]

theorem vmad : ∀ x0 x1 x2 x3, Statement (.vmad x0 x1 x2 x3) := by
  intro x0 x1 x2 x3 w h
  have h' : some (BitVec.ofNat 32 (557842432 + 32768 * x0.toNat + 256 * x1.toNat + 2 * x2.toNat + x3.toNat)) = some w := h
  cases h'
  generalize hn : 557842432 + 32768 * x0.toNat + 256 * x1.toNat + 2 * x2.toNat + x3.toNat = n
  obtain ⟨lt, em, g22, g15, g8, g1, g0⟩ := shape0 (c0 := 8) (c1 := 5) (x0 := x0) (x1 := x1) (x2 := x2) (x3 := x3) (n := n)
    (by omega) (by decide) (by decide)
  rw [major_08 lt em, decMaj08]
  simp only [g15, g8, g1, g0, g22]

theorem vminS : ∀ x0 x1 x2 x3, Statement (.vminS x0 x1 x2 x3) := by
  intro x0 x1 x2 x3 w h
  have h' : some (BitVec.ofNat 32 (562036736 + 32768 * x0.toNat + 256 * x1.toNat + 2 * x2.toNat + x3.toNat)) = some w := h
  cases h'
  generalize hn : 562036736 + 32768 * x0.toNat + 256 * x1.toNat + 2 * x2.toNat + x3.toNat = n
  obtain ⟨lt, em, g22, g15, g8, g1, g0⟩ := shape0 (c0 := 8) (c1 := 6) (x0 := x0) (x1 := x1) (x2 := x2) (x3 := x3) (n := n)
    (by omega) (by decide) (by decide)
  rw [major_08 lt em, decMaj08]
  simp only [g15, g8, g1, g0, g22]

theorem vminU : ∀ x0 x1 x2 x3, Statement (.vminU x0 x1 x2 x3) := by
  intro x0 x1 x2 x3 w h
  have h' : some (BitVec.ofNat 32 (566231040 + 32768 * x0.toNat + 256 * x1.toNat + 2 * x2.toNat + x3.toNat)) = some w := h
  cases h'
  generalize hn : 566231040 + 32768 * x0.toNat + 256 * x1.toNat + 2 * x2.toNat + x3.toNat = n
  obtain ⟨lt, em, g22, g15, g8, g1, g0⟩ := shape0 (c0 := 8) (c1 := 7) (x0 := x0) (x1 := x1) (x2 := x2) (x3 := x3) (n := n)
    (by omega) (by decide) (by decide)
  rw [major_08 lt em, decMaj08]
  simp only [g15, g8, g1, g0, g22]

theorem vmaxS : ∀ x0 x1 x2 x3, Statement (.vmaxS x0 x1 x2 x3) := by
  intro x0 x1 x2 x3 w h
  have h' : some (BitVec.ofNat 32 (570425344 + 32768 * x0.toNat + 256 * x1.toNat + 2 * x2.toNat + x3.toNat)) = some w := h
  cases h'
  generalize hn : 570425344 + 32768 * x0.toNat + 256 * x1.toNat + 2 * x2.toNat + x3.toNat = n
  obtain ⟨lt, em, g22, g15, g8, g1, g0⟩ := shape0 (c0 := 8) (c1 := 8) (x0 := x0) (x1 := x1) (x2 := x2) (x3 := x3) (n := n)
    (by omega) (by decide) (by decide)
  rw [major_08 lt em, decMaj08]
  simp only [g15, g8, g1, g0, g22]

theorem vmaxU : ∀ x0 x1 x2 x3, Statement (.vmaxU x0 x1 x2 x3) := by
  intro x0 x1 x2 x3 w h
  have h' : some (BitVec.ofNat 32 (574619648 + 32768 * x0.toNat + 256 * x1.toNat + 2 * x2.toNat + x3.toNat)) = some w := h
  cases h'
  generalize hn : 574619648 + 32768 * x0.toNat + 256 * x1.toNat + 2 * x2.toNat + x3.toNat = n
  obtain ⟨lt, em, g22, g15, g8, g1, g0⟩ := shape0 (c0 := 8) (c1 := 9) (x0 := x0) (x1 := x1) (x2 := x2) (x3 := x3) (n := n)
    (by omega) (by decide) (by decide)
  rw [major_08 lt em, decMaj08]
  simp only [g15, g8, g1, g0, g22]

theorem vaddsS : ∀ x0 x1 x2 x3, Statement (.vaddsS x0 x1 x2 x3) := by
  intro x0 x1 x2 x3 w h
  have h' : some (BitVec.ofNat 32 (578813952 + 32768 * x0.toNat + 256 * x1.toNat + 2 * x2.toNat + x3.toNat)) = some w := h
  cases h'
  generalize hn : 578813952 + 32768 * x0.toNat + 256 * x1.toNat + 2 * x2.toNat + x3.toNat = n
  obtain ⟨lt, em, g22, g15, g8, g1, g0⟩ := shape0 (c0 := 8) (c1 := 10) (x0 := x0) (x1 := x1) (x2 := x2) (x3 := x3) (n := n)
    (by omega) (by decide) (by decide)
  rw [major_08 lt em, decMaj08]
  simp only [g15, g8, g1, g0, g22]

theorem vaddsU : ∀ x0 x1 x2 x3, Statement (.vaddsU x0 x1 x2 x3) := by
  intro x0 x1 x2 x3 w h
  have h' : some (BitVec.ofNat 32 (583008256 + 32768 * x0.toNat + 256 * x1.toNat + 2 * x2.toNat + x3.toNat)) = some w := h
  cases h'
  generalize hn : 583008256 + 32768 * x0.toNat + 256 * x1.toNat + 2 * x2.toNat + x3.toNat = n
  obtain ⟨lt, em, g22, g15, g8, g1, g0⟩ := shape0 (c0 := 8) (c1 := 11) (x0 := x0) (x1 := x1) (x2 := x2) (x3 := x3) (n := n)
    (by omega) (by decide) (by decide)
  rw [major_08 lt em, decMaj08]
  simp only [g15, g8, g1, g0, g22]

theorem vabs : ∀ x0 x1 x2, Statement (.vabs x0 x1 x2) := by
  intro x0 x1 x2 w h
  have h' : some (BitVec.ofNat 32 (587202560 + 32768 * x0.toNat + 2 * x1.toNat + x2.toNat)) = some w := h
  cases h'
  generalize hn : 587202560 + 32768 * x0.toNat + 2 * x1.toNat + x2.toNat = n
  obtain ⟨lt, em, g22, g15, g8, g1, g0⟩ := shape9 (c0 := 8) (c1 := 12) (c2 := 0) (x0 := x0) (x1 := x1) (x2 := x2) (n := n)
    (by omega) (by decide) (by decide) (by decide)
  rw [major_08 lt em, decMaj08]
  simp only [onlyIf_true, g15, g1, g0, g22, fx_true g8]

theorem vneg : ∀ x0 x1 x2, Statement (.vneg x0 x1 x2) := by
  intro x0 x1 x2 w h
  have h' : some (BitVec.ofNat 32 (591396864 + 32768 * x0.toNat + 2 * x1.toNat + x2.toNat)) = some w := h
  cases h'
  generalize hn : 591396864 + 32768 * x0.toNat + 2 * x1.toNat + x2.toNat = n
  obtain ⟨lt, em, g22, g15, g8, g1, g0⟩ := shape9 (c0 := 8) (c1 := 13) (c2 := 0) (x0 := x0) (x1 := x1) (x2 := x2) (n := n)
    (by omega) (by decide) (by decide) (by decide)
  rw [major_08 lt em, decMaj08]
  simp only [onlyIf_true, g15, g1, g0, g22, fx_true g8]

theorem vsel : ∀ x0 x1 x2 x3, Statement (.vsel x0 x1 x2 x3) := by
  intro x0 x1 x2 x3 w h
  have h' : some (BitVec.ofNat 32 (595591168 + 32768 * x0.toNat + 256 * x1.toNat + 2 * x2.toNat + x3.toNat)) = some w := h
  cases h'
  generalize hn : 595591168 + 32768 * x0.toNat + 256 * x1.toNat + 2 * x2.toNat + x3.toNat = n
  obtain ⟨lt, em, g22, g15, g8, g1, g0⟩ := shape0 (c0 := 8) (c1 := 14) (x0 := x0) (x1 := x1) (x2 := x2) (x3 := x3) (n := n)
    (by omega) (by decide) (by decide)
  rw [major_08 lt em, decMaj08]
  simp only [g15, g8, g1, g0, g22]

theorem vmov : ∀ x0 x1 x2, Statement (.vmov x0 x1 x2) := by
  intro x0 x1 x2 w h
  have h' : some (BitVec.ofNat 32 (599785472 + 32768 * x0.toNat + 2 * x1.toNat + x2.toNat)) = some w := h
  cases h'
  generalize hn : 599785472 + 32768 * x0.toNat + 2 * x1.toNat + x2.toNat = n
  obtain ⟨lt, em, g22, g15, g8, g1, g0⟩ := shape9 (c0 := 8) (c1 := 15) (c2 := 0) (x0 := x0) (x1 := x1) (x2 := x2) (n := n)
    (by omega) (by decide) (by decide) (by decide)
  rw [major_08 lt em, decMaj08]
  simp only [onlyIf_true, g15, g1, g0, g22, fx_true g8]

theorem vand : ∀ x0 x1 x2 x3, Statement (.vand x0 x1 x2 x3) := by
  intro x0 x1 x2 x3 w h
  have h' : some (BitVec.ofNat 32 (603979776 + 32768 * x0.toNat + 256 * x1.toNat + 2 * x2.toNat + x3.toNat)) = some w := h
  cases h'
  generalize hn : 603979776 + 32768 * x0.toNat + 256 * x1.toNat + 2 * x2.toNat + x3.toNat = n
  obtain ⟨lt, em, g22, g15, g8, g1, g0⟩ := shape0 (c0 := 9) (c1 := 0) (x0 := x0) (x1 := x1) (x2 := x2) (x3 := x3) (n := n)
    (by omega) (by decide) (by decide)
  rw [major_09 lt em, decMaj09]
  simp only [g15, g8, g1, g0, g22]

theorem vor : ∀ x0 x1 x2 x3, Statement (.vor x0 x1 x2 x3) := by
  intro x0 x1 x2 x3 w h
  have h' : some (BitVec.ofNat 32 (608174080 + 32768 * x0.toNat + 256 * x1.toNat + 2 * x2.toNat + x3.toNat)) = some w := h
  cases h'
  generalize hn : 608174080 + 32768 * x0.toNat + 256 * x1.toNat + 2 * x2.toNat + x3.toNat = n
  obtain ⟨lt, em, g22, g15, g8, g1, g0⟩ := shape0 (c0 := 9) (c1 := 1) (x0 := x0) (x1 := x1) (x2 := x2) (x3 := x3) (n := n)
    (by omega) (by decide) (by decide)
  rw [major_09 lt em, decMaj09]
  simp only [g15, g8, g1, g0, g22]

theorem vxor : ∀ x0 x1 x2 x3, Statement (.vxor x0 x1 x2 x3) := by
  intro x0 x1 x2 x3 w h
  have h' : some (BitVec.ofNat 32 (612368384 + 32768 * x0.toNat + 256 * x1.toNat + 2 * x2.toNat + x3.toNat)) = some w := h
  cases h'
  generalize hn : 612368384 + 32768 * x0.toNat + 256 * x1.toNat + 2 * x2.toNat + x3.toNat = n
  obtain ⟨lt, em, g22, g15, g8, g1, g0⟩ := shape0 (c0 := 9) (c1 := 2) (x0 := x0) (x1 := x1) (x2 := x2) (x3 := x3) (n := n)
    (by omega) (by decide) (by decide)
  rw [major_09 lt em, decMaj09]
  simp only [g15, g8, g1, g0, g22]

theorem vandn : ∀ x0 x1 x2 x3, Statement (.vandn x0 x1 x2 x3) := by
  intro x0 x1 x2 x3 w h
  have h' : some (BitVec.ofNat 32 (616562688 + 32768 * x0.toNat + 256 * x1.toNat + 2 * x2.toNat + x3.toNat)) = some w := h
  cases h'
  generalize hn : 616562688 + 32768 * x0.toNat + 256 * x1.toNat + 2 * x2.toNat + x3.toNat = n
  obtain ⟨lt, em, g22, g15, g8, g1, g0⟩ := shape0 (c0 := 9) (c1 := 3) (x0 := x0) (x1 := x1) (x2 := x2) (x3 := x3) (n := n)
    (by omega) (by decide) (by decide)
  rw [major_09 lt em, decMaj09]
  simp only [g15, g8, g1, g0, g22]

theorem vnot : ∀ x0 x1 x2, Statement (.vnot x0 x1 x2) := by
  intro x0 x1 x2 w h
  have h' : some (BitVec.ofNat 32 (620756992 + 32768 * x0.toNat + 2 * x1.toNat + x2.toNat)) = some w := h
  cases h'
  generalize hn : 620756992 + 32768 * x0.toNat + 2 * x1.toNat + x2.toNat = n
  obtain ⟨lt, em, g22, g15, g8, g1, g0⟩ := shape9 (c0 := 9) (c1 := 4) (c2 := 0) (x0 := x0) (x1 := x1) (x2 := x2) (n := n)
    (by omega) (by decide) (by decide) (by decide)
  rw [major_09 lt em, decMaj09]
  simp only [onlyIf_true, g15, g1, g0, g22, fx_true g8]

theorem vshl : ∀ x0 x1 x2 x3, Statement (.vshl x0 x1 x2 x3) := by
  intro x0 x1 x2 x3 w h
  have h' : some (BitVec.ofNat 32 (624951296 + 32768 * x0.toNat + 256 * x1.toNat + 2 * x2.toNat + x3.toNat)) = some w := h
  cases h'
  generalize hn : 624951296 + 32768 * x0.toNat + 256 * x1.toNat + 2 * x2.toNat + x3.toNat = n
  obtain ⟨lt, em, g22, g15, g8, g1, g0⟩ := shape0 (c0 := 9) (c1 := 5) (x0 := x0) (x1 := x1) (x2 := x2) (x3 := x3) (n := n)
    (by omega) (by decide) (by decide)
  rw [major_09 lt em, decMaj09]
  simp only [g15, g8, g1, g0, g22]

theorem vshr : ∀ x0 x1 x2 x3, Statement (.vshr x0 x1 x2 x3) := by
  intro x0 x1 x2 x3 w h
  have h' : some (BitVec.ofNat 32 (629145600 + 32768 * x0.toNat + 256 * x1.toNat + 2 * x2.toNat + x3.toNat)) = some w := h
  cases h'
  generalize hn : 629145600 + 32768 * x0.toNat + 256 * x1.toNat + 2 * x2.toNat + x3.toNat = n
  obtain ⟨lt, em, g22, g15, g8, g1, g0⟩ := shape0 (c0 := 9) (c1 := 6) (x0 := x0) (x1 := x1) (x2 := x2) (x3 := x3) (n := n)
    (by omega) (by decide) (by decide)
  rw [major_09 lt em, decMaj09]
  simp only [g15, g8, g1, g0, g22]

theorem vsar : ∀ x0 x1 x2 x3, Statement (.vsar x0 x1 x2 x3) := by
  intro x0 x1 x2 x3 w h
  have h' : some (BitVec.ofNat 32 (633339904 + 32768 * x0.toNat + 256 * x1.toNat + 2 * x2.toNat + x3.toNat)) = some w := h
  cases h'
  generalize hn : 633339904 + 32768 * x0.toNat + 256 * x1.toNat + 2 * x2.toNat + x3.toNat = n
  obtain ⟨lt, em, g22, g15, g8, g1, g0⟩ := shape0 (c0 := 9) (c1 := 7) (x0 := x0) (x1 := x1) (x2 := x2) (x3 := x3) (n := n)
    (by omega) (by decide) (by decide)
  rw [major_09 lt em, decMaj09]
  simp only [g15, g8, g1, g0, g22]

theorem vrot : ∀ x0 x1 x2 x3, Statement (.vrot x0 x1 x2 x3) := by
  intro x0 x1 x2 x3 w h
  have h' : some (BitVec.ofNat 32 (637534208 + 32768 * x0.toNat + 256 * x1.toNat + 2 * x2.toNat + x3.toNat)) = some w := h
  cases h'
  generalize hn : 637534208 + 32768 * x0.toNat + 256 * x1.toNat + 2 * x2.toNat + x3.toNat = n
  obtain ⟨lt, em, g22, g15, g8, g1, g0⟩ := shape0 (c0 := 9) (c1 := 8) (x0 := x0) (x1 := x1) (x2 := x2) (x3 := x3) (n := n)
    (by omega) (by decide) (by decide)
  rw [major_09 lt em, decMaj09]
  simp only [g15, g8, g1, g0, g22]

theorem vclz : ∀ x0 x1 x2, Statement (.vclz x0 x1 x2) := by
  intro x0 x1 x2 w h
  have h' : some (BitVec.ofNat 32 (641728512 + 32768 * x0.toNat + 2 * x1.toNat + x2.toNat)) = some w := h
  cases h'
  generalize hn : 641728512 + 32768 * x0.toNat + 2 * x1.toNat + x2.toNat = n
  obtain ⟨lt, em, g22, g15, g8, g1, g0⟩ := shape9 (c0 := 9) (c1 := 9) (c2 := 0) (x0 := x0) (x1 := x1) (x2 := x2) (n := n)
    (by omega) (by decide) (by decide) (by decide)
  rw [major_09 lt em, decMaj09]
  simp only [onlyIf_true, g15, g1, g0, g22, fx_true g8]

theorem vpop : ∀ x0 x1 x2, Statement (.vpop x0 x1 x2) := by
  intro x0 x1 x2 w h
  have h' : some (BitVec.ofNat 32 (645922816 + 32768 * x0.toNat + 2 * x1.toNat + x2.toNat)) = some w := h
  cases h'
  generalize hn : 645922816 + 32768 * x0.toNat + 2 * x1.toNat + x2.toNat = n
  obtain ⟨lt, em, g22, g15, g8, g1, g0⟩ := shape9 (c0 := 9) (c1 := 10) (c2 := 0) (x0 := x0) (x1 := x1) (x2 := x2) (n := n)
    (by omega) (by decide) (by decide) (by decide)
  rw [major_09 lt em, decMaj09]
  simp only [onlyIf_true, g15, g1, g0, g22, fx_true g8]

theorem vbrev : ∀ x0 x1 x2, Statement (.vbrev x0 x1 x2) := by
  intro x0 x1 x2 w h
  have h' : some (BitVec.ofNat 32 (650117120 + 32768 * x0.toNat + 2 * x1.toNat + x2.toNat)) = some w := h
  cases h'
  generalize hn : 650117120 + 32768 * x0.toNat + 2 * x1.toNat + x2.toNat = n
  obtain ⟨lt, em, g22, g15, g8, g1, g0⟩ := shape9 (c0 := 9) (c1 := 11) (c2 := 0) (x0 := x0) (x1 := x1) (x2 := x2) (n := n)
    (by omega) (by decide) (by decide) (by decide)
  rw [major_09 lt em, decMaj09]
  simp only [onlyIf_true, g15, g1, g0, g22, fx_true g8]

theorem vbfeU : ∀ x0 x1 x2 x3, Statement (.vbfeU x0 x1 x2 x3) := by
  intro x0 x1 x2 x3 w h
  have h' : some (BitVec.ofNat 32 (654311424 + 32768 * x0.toNat + 256 * x1.toNat + 2 * x2.toNat + x3.toNat)) = some w := h
  cases h'
  generalize hn : 654311424 + 32768 * x0.toNat + 256 * x1.toNat + 2 * x2.toNat + x3.toNat = n
  obtain ⟨lt, em, g22, g15, g8, g1, g0⟩ := shape0 (c0 := 9) (c1 := 12) (x0 := x0) (x1 := x1) (x2 := x2) (x3 := x3) (n := n)
    (by omega) (by decide) (by decide)
  rw [major_09 lt em, decMaj09]
  simp only [g15, g8, g1, g0, g22]

theorem vbfeS : ∀ x0 x1 x2 x3, Statement (.vbfeS x0 x1 x2 x3) := by
  intro x0 x1 x2 x3 w h
  have h' : some (BitVec.ofNat 32 (658505728 + 32768 * x0.toNat + 256 * x1.toNat + 2 * x2.toNat + x3.toNat)) = some w := h
  cases h'
  generalize hn : 658505728 + 32768 * x0.toNat + 256 * x1.toNat + 2 * x2.toNat + x3.toNat = n
  obtain ⟨lt, em, g22, g15, g8, g1, g0⟩ := shape0 (c0 := 9) (c1 := 13) (x0 := x0) (x1 := x1) (x2 := x2) (x3 := x3) (n := n)
    (by omega) (by decide) (by decide)
  rw [major_09 lt em, decMaj09]
  simp only [g15, g8, g1, g0, g22]

theorem vbfi : ∀ x0 x1 x2 x3, Statement (.vbfi x0 x1 x2 x3) := by
  intro x0 x1 x2 x3 w h
  have h' : some (BitVec.ofNat 32 (662700032 + 32768 * x0.toNat + 256 * x1.toNat + 2 * x2.toNat + x3.toNat)) = some w := h
  cases h'
  generalize hn : 662700032 + 32768 * x0.toNat + 256 * x1.toNat + 2 * x2.toNat + x3.toNat = n
  obtain ⟨lt, em, g22, g15, g8, g1, g0⟩ := shape0 (c0 := 9) (c1 := 14) (x0 := x0) (x1 := x1) (x2 := x2) (x3 := x3) (n := n)
    (by omega) (by decide) (by decide)
  rw [major_09 lt em, decMaj09]
  simp only [g15, g8, g1, g0, g22]

theorem vlea : ∀ x0 x1 x2 x3, Statement (.vlea x0 x1 x2 x3) := by
  intro x0 x1 x2 x3 w h
  have h' : some (BitVec.ofNat 32 (666894336 + 32768 * x0.toNat + 256 * x1.toNat + 2 * x2.toNat + x3.toNat)) = some w := h
  cases h'
  generalize hn : 666894336 + 32768 * x0.toNat + 256 * x1.toNat + 2 * x2.toNat + x3.toNat = n
  obtain ⟨lt, em, g22, g15, g8, g1, g0⟩ := shape0 (c0 := 9) (c1 := 15) (x0 := x0) (x1 := x1) (x2 := x2) (x3 := x3) (n := n)
    (by omega) (by decide) (by decide)
  rw [major_09 lt em, decMaj09]
  simp only [g15, g8, g1, g0, g22]

theorem vcmp : ∀ x0 x1 x2 x3 x4, Statement (.vcmp x0 x1 x2 x3 x4) := by
  intro x0 x1 x2 x3 x4 w h
  have h' : some (BitVec.ofNat 32 (671088640 + 4194304 * x0.toNat + 32768 * x1.toNat + 256 * x2.toNat + 2 * x3.toNat + x4.toNat)) = some w := h
  cases h'
  generalize hn : 671088640 + 4194304 * x0.toNat + 32768 * x1.toNat + 256 * x2.toNat + 2 * x3.toNat + x4.toNat = n
  obtain ⟨lt, em, g25, g22, g15, g8, g1, g0⟩ := shape2 (c0 := 10) (c1 := 0) (x0 := x0) (x1 := x1) (x2 := x2) (x3 := x3) (x4 := x4) (n := n)
    (by omega) (by decide) (by decide)
  rw [major_0A lt em, decMaj0A]
  simp only [g22, g15, g8, g1, g0, g25]

theorem vext8S : ∀ x0 x1 x2, Statement (.vext8S x0 x1 x2) := by
  intro x0 x1 x2 w h
  have h' : some (BitVec.ofNat 32 (704643072 + 32768 * x0.toNat + 2 * x1.toNat + x2.toNat)) = some w := h
  cases h'
  generalize hn : 704643072 + 32768 * x0.toNat + 2 * x1.toNat + x2.toNat = n
  obtain ⟨lt, em, g25, g22, g15, g8, g1, g0⟩ := shape10 (c0 := 10) (c1 := 1) (c2 := 0) (c3 := 0) (x0 := x0) (x1 := x1) (x2 := x2) (n := n)
    (by omega) (by decide) (by decide) (by decide) (by decide)
  rw [major_0A lt em, decMaj0A]
  simp only [Bool.and_false, Bool.and_self, Bool.false_and, onlyIf_true, g15, g1, g0, g25, fx_true g8, fx_true g22]
  rfl

theorem vext8U : ∀ x0 x1 x2, Statement (.vext8U x0 x1 x2) := by
  intro x0 x1 x2 w h
  have h' : some (BitVec.ofNat 32 (708837376 + 32768 * x0.toNat + 2 * x1.toNat + x2.toNat)) = some w := h
  cases h'
  generalize hn : 708837376 + 32768 * x0.toNat + 2 * x1.toNat + x2.toNat = n
  obtain ⟨lt, em, g25, g22, g15, g8, g1, g0⟩ := shape10 (c0 := 10) (c1 := 1) (c2 := 1) (c3 := 0) (x0 := x0) (x1 := x1) (x2 := x2) (n := n)
    (by omega) (by decide) (by decide) (by decide) (by decide)
  rw [major_0A lt em, decMaj0A]
  simp only [Bool.and_false, Bool.and_self, Bool.false_and, onlyIf_false, onlyIf_true, g15, g1, g0, g25, fx_true g8, (fx_false (by rw [g22]; decide) : fx n 22 3 0 = false), fx_true g22]
  rfl

theorem vext16S : ∀ x0 x1 x2, Statement (.vext16S x0 x1 x2) := by
  intro x0 x1 x2 w h
  have h' : some (BitVec.ofNat 32 (713031680 + 32768 * x0.toNat + 2 * x1.toNat + x2.toNat)) = some w := h
  cases h'
  generalize hn : 713031680 + 32768 * x0.toNat + 2 * x1.toNat + x2.toNat = n
  obtain ⟨lt, em, g25, g22, g15, g8, g1, g0⟩ := shape10 (c0 := 10) (c1 := 1) (c2 := 2) (c3 := 0) (x0 := x0) (x1 := x1) (x2 := x2) (n := n)
    (by omega) (by decide) (by decide) (by decide) (by decide)
  rw [major_0A lt em, decMaj0A]
  simp only [Bool.and_false, Bool.and_self, Bool.false_and, onlyIf_false, onlyIf_true, g15, g1, g0, g25, fx_true g8, (fx_false (by rw [g22]; decide) : fx n 22 3 0 = false), (fx_false (by rw [g22]; decide) : fx n 22 3 1 = false), fx_true g22]
  rfl

theorem vext16U : ∀ x0 x1 x2, Statement (.vext16U x0 x1 x2) := by
  intro x0 x1 x2 w h
  have h' : some (BitVec.ofNat 32 (717225984 + 32768 * x0.toNat + 2 * x1.toNat + x2.toNat)) = some w := h
  cases h'
  generalize hn : 717225984 + 32768 * x0.toNat + 2 * x1.toNat + x2.toNat = n
  obtain ⟨lt, em, g25, g22, g15, g8, g1, g0⟩ := shape10 (c0 := 10) (c1 := 1) (c2 := 3) (c3 := 0) (x0 := x0) (x1 := x1) (x2 := x2) (n := n)
    (by omega) (by decide) (by decide) (by decide) (by decide)
  rw [major_0A lt em, decMaj0A]
  simp only [Bool.and_false, Bool.and_self, Bool.false_and, onlyIf_false, onlyIf_true, g15, g1, g0, g25, fx_true g8, (fx_false (by rw [g22]; decide) : fx n 22 3 0 = false), (fx_false (by rw [g22]; decide) : fx n 22 3 1 = false), (fx_false (by rw [g22]; decide) : fx n 22 3 2 = false), fx_true g22]
  rfl

theorem vpack : ∀ x0 x1 x2 x3, Statement (.vpack x0 x1 x2 x3) := by
  intro x0 x1 x2 x3 w h
  have h' : some (BitVec.ofNat 32 (721420288 + 32768 * x0.toNat + 256 * x1.toNat + 2 * x2.toNat + x3.toNat)) = some w := h
  cases h'
  generalize hn : 721420288 + 32768 * x0.toNat + 256 * x1.toNat + 2 * x2.toNat + x3.toNat = n
  obtain ⟨lt, em, g25, g22, g15, g8, g1, g0⟩ := shape5 (c0 := 10) (c1 := 1) (c2 := 4) (x0 := x0) (x1 := x1) (x2 := x2) (x3 := x3) (n := n)
    (by omega) (by decide) (by decide) (by decide)
  rw [major_0A lt em, decMaj0A]
  simp only [Bool.and_false, Bool.and_self, Bool.false_and, onlyIf_false, onlyIf_true, g15, g8, g1, g0, g25, (fx_false (by rw [g22]; decide) : fx n 22 3 0 = false), (fx_false (by rw [g22]; decide) : fx n 22 3 1 = false), (fx_false (by rw [g22]; decide) : fx n 22 3 2 = false), (fx_false (by rw [g22]; decide) : fx n 22 3 3 = false), fx_true g22]
  rfl

theorem vunpack : ∀ x0 x1 x2, Statement (.vunpack x0 x1 x2) := by
  intro x0 x1 x2 w h
  have h' : some (BitVec.ofNat 32 (725614592 + 32768 * x0.toNat + 2 * x1.toNat + x2.toNat)) = some w := h
  cases h'
  generalize hn : 725614592 + 32768 * x0.toNat + 2 * x1.toNat + x2.toNat = n
  obtain ⟨lt, em, g25, g22, g15, g8, g1, g0⟩ := shape10 (c0 := 10) (c1 := 1) (c2 := 5) (c3 := 0) (x0 := x0) (x1 := x1) (x2 := x2) (n := n)
    (by omega) (by decide) (by decide) (by decide) (by decide)
  rw [major_0A lt em, decMaj0A]
  simp only [Bool.and_false, Bool.and_self, Bool.false_and, onlyIf_false, onlyIf_true, g15, g1, g0, g25, fx_true g8, (fx_false (by rw [g22]; decide) : fx n 22 3 0 = false), (fx_false (by rw [g22]; decide) : fx n 22 3 1 = false), (fx_false (by rw [g22]; decide) : fx n 22 3 2 = false), (fx_false (by rw [g22]; decide) : fx n 22 3 3 = false), (fx_false (by rw [g22]; decide) : fx n 22 3 4 = false), fx_true g22]
  rfl

theorem vaddImm : ∀ x0 x1 x2, Statement (.vaddImm x0 x1 x2) := by
  intro x0 x1 x2 w h
  have h' : some (BitVec.ofNat 32 (738197504 + 65536 * x0.toNat + 512 * x1.toNat + x2.toNat)) = some w := h
  cases h'
  generalize hn : 738197504 + 65536 * x0.toNat + 512 * x1.toNat + x2.toNat = n
  obtain ⟨lt, em, g23, g16, g9, g0⟩ := shape6 (c0 := 11) (c1 := 0) (x0 := x0) (x1 := x1) (x2 := x2) (n := n)
    (by omega) (by decide) (by decide)
  rw [major_0B lt em, decMaj0B]
  simp only [g16, g9, g0, g23]

theorem vandImm : ∀ x0 x1 x2, Statement (.vandImm x0 x1 x2) := by
  intro x0 x1 x2 w h
  have h' : some (BitVec.ofNat 32 (746586112 + 65536 * x0.toNat + 512 * x1.toNat + x2.toNat)) = some w := h
  cases h'
  generalize hn : 746586112 + 65536 * x0.toNat + 512 * x1.toNat + x2.toNat = n
  obtain ⟨lt, em, g23, g16, g9, g0⟩ := shape6 (c0 := 11) (c1 := 1) (x0 := x0) (x1 := x1) (x2 := x2) (n := n)
    (by omega) (by decide) (by decide)
  rw [major_0B lt em, decMaj0B]
  simp only [g16, g9, g0, g23]

theorem vorImm : ∀ x0 x1 x2, Statement (.vorImm x0 x1 x2) := by
  intro x0 x1 x2 w h
  have h' : some (BitVec.ofNat 32 (754974720 + 65536 * x0.toNat + 512 * x1.toNat + x2.toNat)) = some w := h
  cases h'
  generalize hn : 754974720 + 65536 * x0.toNat + 512 * x1.toNat + x2.toNat = n
  obtain ⟨lt, em, g23, g16, g9, g0⟩ := shape6 (c0 := 11) (c1 := 2) (x0 := x0) (x1 := x1) (x2 := x2) (n := n)
    (by omega) (by decide) (by decide)
  rw [major_0B lt em, decMaj0B]
  simp only [g16, g9, g0, g23]

theorem vxorImm : ∀ x0 x1 x2, Statement (.vxorImm x0 x1 x2) := by
  intro x0 x1 x2 w h
  have h' : some (BitVec.ofNat 32 (763363328 + 65536 * x0.toNat + 512 * x1.toNat + x2.toNat)) = some w := h
  cases h'
  generalize hn : 763363328 + 65536 * x0.toNat + 512 * x1.toNat + x2.toNat = n
  obtain ⟨lt, em, g23, g16, g9, g0⟩ := shape6 (c0 := 11) (c1 := 3) (x0 := x0) (x1 := x1) (x2 := x2) (n := n)
    (by omega) (by decide) (by decide)
  rw [major_0B lt em, decMaj0B]
  simp only [g16, g9, g0, g23]

theorem vshlImm : ∀ x0 x1 x2, Statement (.vshlImm x0 x1 x2) := by
  intro x0 x1 x2 w h
  have h' : some (BitVec.ofNat 32 (771751936 + 65536 * x0.toNat + 512 * x1.toNat + x2.toNat)) = some w := h
  cases h'
  generalize hn : 771751936 + 65536 * x0.toNat + 512 * x1.toNat + x2.toNat = n
  obtain ⟨lt, em, g23, g16, g9, g0⟩ := shape6 (c0 := 11) (c1 := 4) (x0 := x0) (x1 := x1) (x2 := x2) (n := n)
    (by omega) (by decide) (by decide)
  rw [major_0B lt em, decMaj0B]
  simp only [g16, g9, g0, g23]

theorem vshrImm : ∀ x0 x1 x2, Statement (.vshrImm x0 x1 x2) := by
  intro x0 x1 x2 w h
  have h' : some (BitVec.ofNat 32 (780140544 + 65536 * x0.toNat + 512 * x1.toNat + x2.toNat)) = some w := h
  cases h'
  generalize hn : 780140544 + 65536 * x0.toNat + 512 * x1.toNat + x2.toNat = n
  obtain ⟨lt, em, g23, g16, g9, g0⟩ := shape6 (c0 := 11) (c1 := 5) (x0 := x0) (x1 := x1) (x2 := x2) (n := n)
    (by omega) (by decide) (by decide)
  rw [major_0B lt em, decMaj0B]
  simp only [g16, g9, g0, g23]

theorem vsarImm : ∀ x0 x1 x2, Statement (.vsarImm x0 x1 x2) := by
  intro x0 x1 x2 w h
  have h' : some (BitVec.ofNat 32 (788529152 + 65536 * x0.toNat + 512 * x1.toNat + x2.toNat)) = some w := h
  cases h'
  generalize hn : 788529152 + 65536 * x0.toNat + 512 * x1.toNat + x2.toNat = n
  obtain ⟨lt, em, g23, g16, g9, g0⟩ := shape6 (c0 := 11) (c1 := 6) (x0 := x0) (x1 := x1) (x2 := x2) (n := n)
    (by omega) (by decide) (by decide)
  rw [major_0B lt em, decMaj0B]
  simp only [g16, g9, g0, g23]

theorem vmovi : ∀ x0 x1, Statement (.vmovi x0 x1) := by
  intro x0 x1 w h
  have h' : some (BitVec.ofNat 32 (796917760 + 65536 * x0.toNat + x1.toNat)) = some w := h
  cases h'
  generalize hn : 796917760 + 65536 * x0.toNat + x1.toNat = n
  obtain ⟨lt, em, g23, g16, g9, g0⟩ := shape7 (c0 := 11) (c1 := 7) (c2 := 0) (x0 := x0) (x1 := x1) (n := n)
    (by omega) (by decide) (by decide) (by decide)
  rw [major_0B lt em, decMaj0B]
  simp only [onlyIf_true, g16, g0, g23, fx_true g9]

theorem vdivS : ∀ x0 x1 x2 x3, Statement (.vdivS x0 x1 x2 x3) := by
  intro x0 x1 x2 x3 w h
  have h' : some (BitVec.ofNat 32 (805306368 + 4194304 * x0.toNat + 32768 * x1.toNat + 256 * x2.toNat + 2 * x3.toNat)) = some w := h
  cases h'
  generalize hn : 805306368 + 4194304 * x0.toNat + 32768 * x1.toNat + 256 * x2.toNat + 2 * x3.toNat = n
  obtain ⟨lt, em, g22, g15, g8, g1, g0⟩ := shape8 (c0 := 12) (c1 := 0) (x0 := x0) (x1 := x1) (x2 := x2) (x3 := x3) (n := n)
    (by omega) (by decide) (by decide)
  rw [major_0C lt em, decMaj0C]
  simp only [g22, g15, g8, g1, g0]

theorem vdivU : ∀ x0 x1 x2 x3, Statement (.vdivU x0 x1 x2 x3) := by
  intro x0 x1 x2 x3 w h
  have h' : some (BitVec.ofNat 32 (805306369 + 4194304 * x0.toNat + 32768 * x1.toNat + 256 * x2.toNat + 2 * x3.toNat)) = some w := h
  cases h'
  generalize hn : 805306369 + 4194304 * x0.toNat + 32768 * x1.toNat + 256 * x2.toNat + 2 * x3.toNat = n
  obtain ⟨lt, em, g22, g15, g8, g1, g0⟩ := shape8 (c0 := 12) (c1 := 1) (x0 := x0) (x1 := x1) (x2 := x2) (x3 := x3) (n := n)
    (by omega) (by decide) (by decide)
  rw [major_0C lt em, decMaj0C]
  simp only [g22, g15, g8, g1, g0]

theorem vremS : ∀ x0 x1 x2 x3, Statement (.vremS x0 x1 x2 x3) := by
  intro x0 x1 x2 x3 w h
  have h' : some (BitVec.ofNat 32 (872415232 + 4194304 * x0.toNat + 32768 * x1.toNat + 256 * x2.toNat + 2 * x3.toNat)) = some w := h
  cases h'
  generalize hn : 872415232 + 4194304 * x0.toNat + 32768 * x1.toNat + 256 * x2.toNat + 2 * x3.toNat = n
  obtain ⟨lt, em, g22, g15, g8, g1, g0⟩ := shape8 (c0 := 13) (c1 := 0) (x0 := x0) (x1 := x1) (x2 := x2) (x3 := x3) (n := n)
    (by omega) (by decide) (by decide)
  rw [major_0D lt em, decMaj0D]
  simp only [g22, g15, g8, g1, g0]

theorem vremU : ∀ x0 x1 x2 x3, Statement (.vremU x0 x1 x2 x3) := by
  intro x0 x1 x2 x3 w h
  have h' : some (BitVec.ofNat 32 (872415233 + 4194304 * x0.toNat + 32768 * x1.toNat + 256 * x2.toNat + 2 * x3.toNat)) = some w := h
  cases h'
  generalize hn : 872415233 + 4194304 * x0.toNat + 32768 * x1.toNat + 256 * x2.toNat + 2 * x3.toNat = n
  obtain ⟨lt, em, g22, g15, g8, g1, g0⟩ := shape8 (c0 := 13) (c1 := 1) (x0 := x0) (x1 := x1) (x2 := x2) (x3 := x3) (n := n)
    (by omega) (by decide) (by decide)
  rw [major_0D lt em, decMaj0D]
  simp only [g22, g15, g8, g1, g0]

theorem vfadd : ∀ x0 x1 x2 x3, Statement (.vfadd x0 x1 x2 x3) := by
  intro x0 x1 x2 x3 w h
  have h' : some (BitVec.ofNat 32 (1073741824 + 32768 * x0.toNat + 256 * x1.toNat + 2 * x2.toNat + x3.toNat)) = some w := h
  cases h'
  generalize hn : 1073741824 + 32768 * x0.toNat + 256 * x1.toNat + 2 * x2.toNat + x3.toNat = n
  obtain ⟨lt, em, g22, g15, g8, g1, g0⟩ := shape0 (c0 := 16) (c1 := 0) (x0 := x0) (x1 := x1) (x2 := x2) (x3 := x3) (n := n)
    (by omega) (by decide) (by decide)
  rw [major_10 lt em, decMaj10]
  simp only [g15, g8, g1, g0, g22]

theorem vfsub : ∀ x0 x1 x2 x3, Statement (.vfsub x0 x1 x2 x3) := by
  intro x0 x1 x2 x3 w h
  have h' : some (BitVec.ofNat 32 (1077936128 + 32768 * x0.toNat + 256 * x1.toNat + 2 * x2.toNat + x3.toNat)) = some w := h
  cases h'
  generalize hn : 1077936128 + 32768 * x0.toNat + 256 * x1.toNat + 2 * x2.toNat + x3.toNat = n
  obtain ⟨lt, em, g22, g15, g8, g1, g0⟩ := shape0 (c0 := 16) (c1 := 1) (x0 := x0) (x1 := x1) (x2 := x2) (x3 := x3) (n := n)
    (by omega) (by decide) (by decide)
  rw [major_10 lt em, decMaj10]
  simp only [g15, g8, g1, g0, g22]

theorem vfmul : ∀ x0 x1 x2 x3, Statement (.vfmul x0 x1 x2 x3) := by
  intro x0 x1 x2 x3 w h
  have h' : some (BitVec.ofNat 32 (1082130432 + 32768 * x0.toNat + 256 * x1.toNat + 2 * x2.toNat + x3.toNat)) = some w := h
  cases h'
  generalize hn : 1082130432 + 32768 * x0.toNat + 256 * x1.toNat + 2 * x2.toNat + x3.toNat = n
  obtain ⟨lt, em, g22, g15, g8, g1, g0⟩ := shape0 (c0 := 16) (c1 := 2) (x0 := x0) (x1 := x1) (x2 := x2) (x3 := x3) (n := n)
    (by omega) (by decide) (by decide)
  rw [major_10 lt em, decMaj10]
  simp only [g15, g8, g1, g0, g22]

theorem vfma : ∀ x0 x1 x2 x3, Statement (.vfma x0 x1 x2 x3) := by
  intro x0 x1 x2 x3 w h
  have h' : some (BitVec.ofNat 32 (1086324736 + 32768 * x0.toNat + 256 * x1.toNat + 2 * x2.toNat + x3.toNat)) = some w := h
  cases h'
  generalize hn : 1086324736 + 32768 * x0.toNat + 256 * x1.toNat + 2 * x2.toNat + x3.toNat = n
  obtain ⟨lt, em, g22, g15, g8, g1, g0⟩ := shape0 (c0 := 16) (c1 := 3) (x0 := x0) (x1 := x1) (x2 := x2) (x3 := x3) (n := n)
    (by omega) (by decide) (by decide)
  rw [major_10 lt em, decMaj10]
  simp only [g15, g8, g1, g0, g22]

theorem vfms : ∀ x0 x1 x2 x3, Statement (.vfms x0 x1 x2 x3) := by
  intro x0 x1 x2 x3 w h
  have h' : some (BitVec.ofNat 32 (1090519040 + 32768 * x0.toNat + 256 * x1.toNat + 2 * x2.toNat + x3.toNat)) = some w := h
  cases h'
  generalize hn : 1090519040 + 32768 * x0.toNat + 256 * x1.toNat + 2 * x2.toNat + x3.toNat = n
  obtain ⟨lt, em, g22, g15, g8, g1, g0⟩ := shape0 (c0 := 16) (c1 := 4) (x0 := x0) (x1 := x1) (x2 := x2) (x3 := x3) (n := n)
    (by omega) (by decide) (by decide)
  rw [major_10 lt em, decMaj10]
  simp only [g15, g8, g1, g0, g22]

theorem vfnma : ∀ x0 x1 x2 x3, Statement (.vfnma x0 x1 x2 x3) := by
  intro x0 x1 x2 x3 w h
  have h' : some (BitVec.ofNat 32 (1094713344 + 32768 * x0.toNat + 256 * x1.toNat + 2 * x2.toNat + x3.toNat)) = some w := h
  cases h'
  generalize hn : 1094713344 + 32768 * x0.toNat + 256 * x1.toNat + 2 * x2.toNat + x3.toNat = n
  obtain ⟨lt, em, g22, g15, g8, g1, g0⟩ := shape0 (c0 := 16) (c1 := 5) (x0 := x0) (x1 := x1) (x2 := x2) (x3 := x3) (n := n)
    (by omega) (by decide) (by decide)
  rw [major_10 lt em, decMaj10]
  simp only [g15, g8, g1, g0, g22]

theorem vfminNum : ∀ x0 x1 x2 x3, Statement (.vfminNum x0 x1 x2 x3) := by
  intro x0 x1 x2 x3 w h
  have h' : some (BitVec.ofNat 32 (1098907648 + 32768 * x0.toNat + 256 * x1.toNat + 2 * x2.toNat + x3.toNat)) = some w := h
  cases h'
  generalize hn : 1098907648 + 32768 * x0.toNat + 256 * x1.toNat + 2 * x2.toNat + x3.toNat = n
  obtain ⟨lt, em, g22, g15, g8, g1, g0⟩ := shape0 (c0 := 16) (c1 := 6) (x0 := x0) (x1 := x1) (x2 := x2) (x3 := x3) (n := n)
    (by omega) (by decide) (by decide)
  rw [major_10 lt em, decMaj10]
  simp only [g15, g8, g1, g0, g22]

theorem vfminProp : ∀ x0 x1 x2 x3, Statement (.vfminProp x0 x1 x2 x3) := by
  intro x0 x1 x2 x3 w h
  have h' : some (BitVec.ofNat 32 (1103101952 + 32768 * x0.toNat + 256 * x1.toNat + 2 * x2.toNat + x3.toNat)) = some w := h
  cases h'
  generalize hn : 1103101952 + 32768 * x0.toNat + 256 * x1.toNat + 2 * x2.toNat + x3.toNat = n
  obtain ⟨lt, em, g22, g15, g8, g1, g0⟩ := shape0 (c0 := 16) (c1 := 7) (x0 := x0) (x1 := x1) (x2 := x2) (x3 := x3) (n := n)
    (by omega) (by decide) (by decide)
  rw [major_10 lt em, decMaj10]
  simp only [g15, g8, g1, g0, g22]

theorem vfmaxNum : ∀ x0 x1 x2 x3, Statement (.vfmaxNum x0 x1 x2 x3) := by
  intro x0 x1 x2 x3 w h
  have h' : some (BitVec.ofNat 32 (1107296256 + 32768 * x0.toNat + 256 * x1.toNat + 2 * x2.toNat + x3.toNat)) = some w := h
  cases h'
  generalize hn : 1107296256 + 32768 * x0.toNat + 256 * x1.toNat + 2 * x2.toNat + x3.toNat = n
  obtain ⟨lt, em, g22, g15, g8, g1, g0⟩ := shape0 (c0 := 16) (c1 := 8) (x0 := x0) (x1 := x1) (x2 := x2) (x3 := x3) (n := n)
    (by omega) (by decide) (by decide)
  rw [major_10 lt em, decMaj10]
  simp only [g15, g8, g1, g0, g22]

theorem vfmaxProp : ∀ x0 x1 x2 x3, Statement (.vfmaxProp x0 x1 x2 x3) := by
  intro x0 x1 x2 x3 w h
  have h' : some (BitVec.ofNat 32 (1111490560 + 32768 * x0.toNat + 256 * x1.toNat + 2 * x2.toNat + x3.toNat)) = some w := h
  cases h'
  generalize hn : 1111490560 + 32768 * x0.toNat + 256 * x1.toNat + 2 * x2.toNat + x3.toNat = n
  obtain ⟨lt, em, g22, g15, g8, g1, g0⟩ := shape0 (c0 := 16) (c1 := 9) (x0 := x0) (x1 := x1) (x2 := x2) (x3 := x3) (n := n)
    (by omega) (by decide) (by decide)
  rw [major_10 lt em, decMaj10]
  simp only [g15, g8, g1, g0, g22]

theorem vfabs : ∀ x0 x1 x2, Statement (.vfabs x0 x1 x2) := by
  intro x0 x1 x2 w h
  have h' : some (BitVec.ofNat 32 (1115684864 + 32768 * x0.toNat + 2 * x1.toNat + x2.toNat)) = some w := h
  cases h'
  generalize hn : 1115684864 + 32768 * x0.toNat + 2 * x1.toNat + x2.toNat = n
  obtain ⟨lt, em, g22, g15, g8, g1, g0⟩ := shape9 (c0 := 16) (c1 := 10) (c2 := 0) (x0 := x0) (x1 := x1) (x2 := x2) (n := n)
    (by omega) (by decide) (by decide) (by decide)
  rw [major_10 lt em, decMaj10]
  simp only [onlyIf_true, g15, g1, g0, g22, fx_true g8]

theorem vfneg : ∀ x0 x1 x2, Statement (.vfneg x0 x1 x2) := by
  intro x0 x1 x2 w h
  have h' : some (BitVec.ofNat 32 (1119879168 + 32768 * x0.toNat + 2 * x1.toNat + x2.toNat)) = some w := h
  cases h'
  generalize hn : 1119879168 + 32768 * x0.toNat + 2 * x1.toNat + x2.toNat = n
  obtain ⟨lt, em, g22, g15, g8, g1, g0⟩ := shape9 (c0 := 16) (c1 := 11) (c2 := 0) (x0 := x0) (x1 := x1) (x2 := x2) (n := n)
    (by omega) (by decide) (by decide) (by decide)
  rw [major_10 lt em, decMaj10]
  simp only [onlyIf_true, g15, g1, g0, g22, fx_true g8]

theorem vfscale : ∀ x0 x1 x2 x3, Statement (.vfscale x0 x1 x2 x3) := by
  intro x0 x1 x2 x3 w h
  have h' : some (BitVec.ofNat 32 (1124073472 + 32768 * x0.toNat + 256 * x1.toNat + 2 * x2.toNat + x3.toNat)) = some w := h
  cases h'
  generalize hn : 1124073472 + 32768 * x0.toNat + 256 * x1.toNat + 2 * x2.toNat + x3.toNat = n
  obtain ⟨lt, em, g22, g15, g8, g1, g0⟩ := shape0 (c0 := 16) (c1 := 12) (x0 := x0) (x1 := x1) (x2 := x2) (x3 := x3) (n := n)
    (by omega) (by decide) (by decide)
  rw [major_10 lt em, decMaj10]
  simp only [g15, g8, g1, g0, g22]

theorem vfround : ∀ x0 x1 x2, Statement (.vfround x0 x1 x2) := by
  intro x0 x1 x2 w h
  have h' : some (BitVec.ofNat 32 (1128267776 + 32768 * x0.toNat + 2 * x1.toNat + x2.toNat)) = some w := h
  cases h'
  generalize hn : 1128267776 + 32768 * x0.toNat + 2 * x1.toNat + x2.toNat = n
  obtain ⟨lt, em, g22, g15, g8, g1, g0⟩ := shape9 (c0 := 16) (c1 := 13) (c2 := 0) (x0 := x0) (x1 := x1) (x2 := x2) (n := n)
    (by omega) (by decide) (by decide) (by decide)
  rw [major_10 lt em, decMaj10]
  simp only [onlyIf_true, g15, g1, g0, g22, fx_true g8]

theorem vfclass : ∀ x0 x1 x2, Statement (.vfclass x0 x1 x2) := by
  intro x0 x1 x2 w h
  have h' : some (BitVec.ofNat 32 (1132462080 + 32768 * x0.toNat + 2 * x1.toNat + x2.toNat)) = some w := h
  cases h'
  generalize hn : 1132462080 + 32768 * x0.toNat + 2 * x1.toNat + x2.toNat = n
  obtain ⟨lt, em, g22, g15, g8, g1, g0⟩ := shape9 (c0 := 16) (c1 := 14) (c2 := 0) (x0 := x0) (x1 := x1) (x2 := x2) (n := n)
    (by omega) (by decide) (by decide) (by decide)
  rw [major_10 lt em, decMaj10]
  simp only [onlyIf_true, g15, g1, g0, g22, fx_true g8]

theorem vfcmp : ∀ x0 x1 x2 x3 x4, Statement (.vfcmp x0 x1 x2 x3 x4) := by
  intro x0 x1 x2 x3 x4 w h
  have h' : some (BitVec.ofNat 32 (1140850688 + 4194304 * x0.toNat + 32768 * x1.toNat + 256 * x2.toNat + 2 * x3.toNat + x4.toNat)) = some w := h
  cases h'
  generalize hn : 1140850688 + 4194304 * x0.toNat + 32768 * x1.toNat + 256 * x2.toNat + 2 * x3.toNat + x4.toNat = n
  obtain ⟨lt, em, g25, g22, g15, g8, g1, g0⟩ := shape2 (c0 := 17) (c1 := 0) (x0 := x0) (x1 := x1) (x2 := x2) (x3 := x3) (x4 := x4) (n := n)
    (by omega) (by decide) (by decide)
  rw [major_11 lt em, decMaj11]
  simp only [onlyIf_true, g22, g15, g8, g1, g0, fx_true g25]

theorem vcvt : ∀ x0 x1 x2 x3, Statement (.vcvt x0 x1 x2 x3) := by
  intro x0 x1 x2 x3 w h
  have h' : some (BitVec.ofNat 32 (1207959552 + 4194304 * x0.toNat + 32768 * x1.toNat + 256 * x2.toNat + 2 * x3.toNat)) = some w := h
  cases h'
  generalize hn : 1207959552 + 4194304 * x0.toNat + 32768 * x1.toNat + 256 * x2.toNat + 2 * x3.toNat = n
  obtain ⟨lt, em, g22, g15, g8, g1, g0⟩ := shape8 (c0 := 18) (c1 := 0) (x0 := x0) (x1 := x1) (x2 := x2) (x3 := x3) (n := n)
    (by omega) (by decide) (by decide)
  rw [major_12 lt em, decMaj12]
  simp only [onlyIf_true, g22, g15, g8, g1, fx_true g0]

theorem vpkE4m3 : ∀ x0 x1 x2 x3, Statement (.vpkE4m3 x0 x1 x2 x3) := by
  intro x0 x1 x2 x3 w h
  have h' : some (BitVec.ofNat 32 (1275068416 + 32768 * x0.toNat + 256 * x1.toNat + 2 * x2.toNat + x3.toNat)) = some w := h
  cases h'
  generalize hn : 1275068416 + 32768 * x0.toNat + 256 * x1.toNat + 2 * x2.toNat + x3.toNat = n
  obtain ⟨lt, em, g22, g15, g8, g1, g0⟩ := shape0 (c0 := 19) (c1 := 0) (x0 := x0) (x1 := x1) (x2 := x2) (x3 := x3) (n := n)
    (by omega) (by decide) (by decide)
  rw [major_13 lt em, decMaj13]
  simp only [g15, g8, g1, g0, g22]

theorem vpkE5m2 : ∀ x0 x1 x2 x3, Statement (.vpkE5m2 x0 x1 x2 x3) := by
  intro x0 x1 x2 x3 w h
  have h' : some (BitVec.ofNat 32 (1279262720 + 32768 * x0.toNat + 256 * x1.toNat + 2 * x2.toNat + x3.toNat)) = some w := h
  cases h'
  generalize hn : 1279262720 + 32768 * x0.toNat + 256 * x1.toNat + 2 * x2.toNat + x3.toNat = n
  obtain ⟨lt, em, g22, g15, g8, g1, g0⟩ := shape0 (c0 := 19) (c1 := 1) (x0 := x0) (x1 := x1) (x2 := x2) (x3 := x3) (n := n)
    (by omega) (by decide) (by decide)
  rw [major_13 lt em, decMaj13]
  simp only [g15, g8, g1, g0, g22]

theorem vpkIo4 : ∀ x0 x1 x2 x3, Statement (.vpkIo4 x0 x1 x2 x3) := by
  intro x0 x1 x2 x3 w h
  have h' : some (BitVec.ofNat 32 (1283457024 + 32768 * x0.toNat + 256 * x1.toNat + 2 * x2.toNat + x3.toNat)) = some w := h
  cases h'
  generalize hn : 1283457024 + 32768 * x0.toNat + 256 * x1.toNat + 2 * x2.toNat + x3.toNat = n
  obtain ⟨lt, em, g22, g15, g8, g1, g0⟩ := shape0 (c0 := 19) (c1 := 2) (x0 := x0) (x1 := x1) (x2 := x2) (x3 := x3) (n := n)
    (by omega) (by decide) (by decide)
  rw [major_13 lt em, decMaj13]
  simp only [g15, g8, g1, g0, g22]

theorem vunpkE4m3 : ∀ x0 x1 x2 x3, Statement (.vunpkE4m3 x0 x1 x2 x3) := by
  intro x0 x1 x2 x3 w h
  have h' : some (BitVec.ofNat 32 (1287651328 + 32768 * x0.toNat + 256 * x1.toNat + 2 * x2.toNat + x3.toNat)) = some w := h
  cases h'
  generalize hn : 1287651328 + 32768 * x0.toNat + 256 * x1.toNat + 2 * x2.toNat + x3.toNat = n
  obtain ⟨lt, em, g22, g15, g8, g1, g0⟩ := shape0 (c0 := 19) (c1 := 3) (x0 := x0) (x1 := x1) (x2 := x2) (x3 := x3) (n := n)
    (by omega) (by decide) (by decide)
  rw [major_13 lt em, decMaj13]
  simp only [g15, g8, g1, g0, g22]

theorem vunpkE5m2 : ∀ x0 x1 x2 x3, Statement (.vunpkE5m2 x0 x1 x2 x3) := by
  intro x0 x1 x2 x3 w h
  have h' : some (BitVec.ofNat 32 (1291845632 + 32768 * x0.toNat + 256 * x1.toNat + 2 * x2.toNat + x3.toNat)) = some w := h
  cases h'
  generalize hn : 1291845632 + 32768 * x0.toNat + 256 * x1.toNat + 2 * x2.toNat + x3.toNat = n
  obtain ⟨lt, em, g22, g15, g8, g1, g0⟩ := shape0 (c0 := 19) (c1 := 4) (x0 := x0) (x1 := x1) (x2 := x2) (x3 := x3) (n := n)
    (by omega) (by decide) (by decide)
  rw [major_13 lt em, decMaj13]
  simp only [g15, g8, g1, g0, g22]

theorem vunpkIo4 : ∀ x0 x1 x2 x3, Statement (.vunpkIo4 x0 x1 x2 x3) := by
  intro x0 x1 x2 x3 w h
  have h' : some (BitVec.ofNat 32 (1296039936 + 32768 * x0.toNat + 256 * x1.toNat + 2 * x2.toNat + x3.toNat)) = some w := h
  cases h'
  generalize hn : 1296039936 + 32768 * x0.toNat + 256 * x1.toNat + 2 * x2.toNat + x3.toNat = n
  obtain ⟨lt, em, g22, g15, g8, g1, g0⟩ := shape0 (c0 := 19) (c1 := 5) (x0 := x0) (x1 := x1) (x2 := x2) (x3 := x3) (n := n)
    (by omega) (by decide) (by decide)
  rw [major_13 lt em, decMaj13]
  simp only [g15, g8, g1, g0, g22]

theorem vhaddF16 : ∀ x0 x1 x2 x3, Statement (.vhaddF16 x0 x1 x2 x3) := by
  intro x0 x1 x2 x3 w h
  have h' : some (BitVec.ofNat 32 (1342177280 + 32768 * x0.toNat + 256 * x1.toNat + 2 * x2.toNat + x3.toNat)) = some w := h
  cases h'
  generalize hn : 1342177280 + 32768 * x0.toNat + 256 * x1.toNat + 2 * x2.toNat + x3.toNat = n
  obtain ⟨lt, em, g22, g15, g8, g1, g0⟩ := shape0 (c0 := 20) (c1 := 0) (x0 := x0) (x1 := x1) (x2 := x2) (x3 := x3) (n := n)
    (by omega) (by decide) (by decide)
  rw [major_14 lt em, decMaj14]
  simp only [g15, g8, g1, g0, g22]

theorem vhaddBf16 : ∀ x0 x1 x2 x3, Statement (.vhaddBf16 x0 x1 x2 x3) := by
  intro x0 x1 x2 x3 w h
  have h' : some (BitVec.ofNat 32 (1346371584 + 32768 * x0.toNat + 256 * x1.toNat + 2 * x2.toNat + x3.toNat)) = some w := h
  cases h'
  generalize hn : 1346371584 + 32768 * x0.toNat + 256 * x1.toNat + 2 * x2.toNat + x3.toNat = n
  obtain ⟨lt, em, g22, g15, g8, g1, g0⟩ := shape0 (c0 := 20) (c1 := 1) (x0 := x0) (x1 := x1) (x2 := x2) (x3 := x3) (n := n)
    (by omega) (by decide) (by decide)
  rw [major_14 lt em, decMaj14]
  simp only [g15, g8, g1, g0, g22]

theorem vhmulF16 : ∀ x0 x1 x2 x3, Statement (.vhmulF16 x0 x1 x2 x3) := by
  intro x0 x1 x2 x3 w h
  have h' : some (BitVec.ofNat 32 (1350565888 + 32768 * x0.toNat + 256 * x1.toNat + 2 * x2.toNat + x3.toNat)) = some w := h
  cases h'
  generalize hn : 1350565888 + 32768 * x0.toNat + 256 * x1.toNat + 2 * x2.toNat + x3.toNat = n
  obtain ⟨lt, em, g22, g15, g8, g1, g0⟩ := shape0 (c0 := 20) (c1 := 2) (x0 := x0) (x1 := x1) (x2 := x2) (x3 := x3) (n := n)
    (by omega) (by decide) (by decide)
  rw [major_14 lt em, decMaj14]
  simp only [g15, g8, g1, g0, g22]

theorem vhmulBf16 : ∀ x0 x1 x2 x3, Statement (.vhmulBf16 x0 x1 x2 x3) := by
  intro x0 x1 x2 x3 w h
  have h' : some (BitVec.ofNat 32 (1354760192 + 32768 * x0.toNat + 256 * x1.toNat + 2 * x2.toNat + x3.toNat)) = some w := h
  cases h'
  generalize hn : 1354760192 + 32768 * x0.toNat + 256 * x1.toNat + 2 * x2.toNat + x3.toNat = n
  obtain ⟨lt, em, g22, g15, g8, g1, g0⟩ := shape0 (c0 := 20) (c1 := 3) (x0 := x0) (x1 := x1) (x2 := x2) (x3 := x3) (n := n)
    (by omega) (by decide) (by decide)
  rw [major_14 lt em, decMaj14]
  simp only [g15, g8, g1, g0, g22]

theorem vhfmaF16 : ∀ x0 x1 x2 x3, Statement (.vhfmaF16 x0 x1 x2 x3) := by
  intro x0 x1 x2 x3 w h
  have h' : some (BitVec.ofNat 32 (1358954496 + 32768 * x0.toNat + 256 * x1.toNat + 2 * x2.toNat + x3.toNat)) = some w := h
  cases h'
  generalize hn : 1358954496 + 32768 * x0.toNat + 256 * x1.toNat + 2 * x2.toNat + x3.toNat = n
  obtain ⟨lt, em, g22, g15, g8, g1, g0⟩ := shape0 (c0 := 20) (c1 := 4) (x0 := x0) (x1 := x1) (x2 := x2) (x3 := x3) (n := n)
    (by omega) (by decide) (by decide)
  rw [major_14 lt em, decMaj14]
  simp only [g15, g8, g1, g0, g22]

theorem vhfmaBf16 : ∀ x0 x1 x2 x3, Statement (.vhfmaBf16 x0 x1 x2 x3) := by
  intro x0 x1 x2 x3 w h
  have h' : some (BitVec.ofNat 32 (1363148800 + 32768 * x0.toNat + 256 * x1.toNat + 2 * x2.toNat + x3.toNat)) = some w := h
  cases h'
  generalize hn : 1363148800 + 32768 * x0.toNat + 256 * x1.toNat + 2 * x2.toNat + x3.toNat = n
  obtain ⟨lt, em, g22, g15, g8, g1, g0⟩ := shape0 (c0 := 20) (c1 := 5) (x0 := x0) (x1 := x1) (x2 := x2) (x3 := x3) (n := n)
    (by omega) (by decide) (by decide)
  rw [major_14 lt em, decMaj14]
  simp only [g15, g8, g1, g0, g22]

theorem vfrcp : ∀ x0 x1 x2, Statement (.vfrcp x0 x1 x2) := by
  intro x0 x1 x2 w h
  have h' : some (BitVec.ofNat 32 (1409286144 + 4194304 * x0.toNat + 32768 * x1.toNat + 256 * x2.toNat)) = some w := h
  cases h'
  generalize hn : 1409286144 + 4194304 * x0.toNat + 32768 * x1.toNat + 256 * x2.toNat = n
  obtain ⟨lt, em, g22, g15, g8, g1, g0⟩ := shape11 (c0 := 21) (c1 := 0) (c2 := 0) (x0 := x0) (x1 := x1) (x2 := x2) (n := n)
    (by omega) (by decide) (by decide) (by decide)
  rw [major_15 lt em, decMaj15]
  simp only [onlyIf_true, g22, g15, g8, g1, fx_true g0]

theorem vfrsq : ∀ x0 x1 x2, Statement (.vfrsq x0 x1 x2) := by
  intro x0 x1 x2 w h
  have h' : some (BitVec.ofNat 32 (1409286146 + 4194304 * x0.toNat + 32768 * x1.toNat + 256 * x2.toNat)) = some w := h
  cases h'
  generalize hn : 1409286146 + 4194304 * x0.toNat + 32768 * x1.toNat + 256 * x2.toNat = n
  obtain ⟨lt, em, g22, g15, g8, g1, g0⟩ := shape11 (c0 := 21) (c1 := 1) (c2 := 0) (x0 := x0) (x1 := x1) (x2 := x2) (n := n)
    (by omega) (by decide) (by decide) (by decide)
  rw [major_15 lt em, decMaj15]
  simp only [onlyIf_true, g22, g15, g8, g1, fx_true g0]

theorem vfsqrt : ∀ x0 x1 x2, Statement (.vfsqrt x0 x1 x2) := by
  intro x0 x1 x2 w h
  have h' : some (BitVec.ofNat 32 (1409286148 + 4194304 * x0.toNat + 32768 * x1.toNat + 256 * x2.toNat)) = some w := h
  cases h'
  generalize hn : 1409286148 + 4194304 * x0.toNat + 32768 * x1.toNat + 256 * x2.toNat = n
  obtain ⟨lt, em, g22, g15, g8, g1, g0⟩ := shape11 (c0 := 21) (c1 := 2) (c2 := 0) (x0 := x0) (x1 := x1) (x2 := x2) (n := n)
    (by omega) (by decide) (by decide) (by decide)
  rw [major_15 lt em, decMaj15]
  simp only [onlyIf_true, g22, g15, g8, g1, fx_true g0]

theorem vfexp2 : ∀ x0 x1 x2, Statement (.vfexp2 x0 x1 x2) := by
  intro x0 x1 x2 w h
  have h' : some (BitVec.ofNat 32 (1409286150 + 4194304 * x0.toNat + 32768 * x1.toNat + 256 * x2.toNat)) = some w := h
  cases h'
  generalize hn : 1409286150 + 4194304 * x0.toNat + 32768 * x1.toNat + 256 * x2.toNat = n
  obtain ⟨lt, em, g22, g15, g8, g1, g0⟩ := shape11 (c0 := 21) (c1 := 3) (c2 := 0) (x0 := x0) (x1 := x1) (x2 := x2) (n := n)
    (by omega) (by decide) (by decide) (by decide)
  rw [major_15 lt em, decMaj15]
  simp only [onlyIf_true, g22, g15, g8, g1, fx_true g0]

theorem vflog2 : ∀ x0 x1 x2, Statement (.vflog2 x0 x1 x2) := by
  intro x0 x1 x2 w h
  have h' : some (BitVec.ofNat 32 (1409286152 + 4194304 * x0.toNat + 32768 * x1.toNat + 256 * x2.toNat)) = some w := h
  cases h'
  generalize hn : 1409286152 + 4194304 * x0.toNat + 32768 * x1.toNat + 256 * x2.toNat = n
  obtain ⟨lt, em, g22, g15, g8, g1, g0⟩ := shape11 (c0 := 21) (c1 := 4) (c2 := 0) (x0 := x0) (x1 := x1) (x2 := x2) (n := n)
    (by omega) (by decide) (by decide) (by decide)
  rw [major_15 lt em, decMaj15]
  simp only [onlyIf_true, g22, g15, g8, g1, fx_true g0]

theorem vfsin : ∀ x0 x1 x2, Statement (.vfsin x0 x1 x2) := by
  intro x0 x1 x2 w h
  have h' : some (BitVec.ofNat 32 (1409286154 + 4194304 * x0.toNat + 32768 * x1.toNat + 256 * x2.toNat)) = some w := h
  cases h'
  generalize hn : 1409286154 + 4194304 * x0.toNat + 32768 * x1.toNat + 256 * x2.toNat = n
  obtain ⟨lt, em, g22, g15, g8, g1, g0⟩ := shape11 (c0 := 21) (c1 := 5) (c2 := 0) (x0 := x0) (x1 := x1) (x2 := x2) (n := n)
    (by omega) (by decide) (by decide) (by decide)
  rw [major_15 lt em, decMaj15]
  simp only [onlyIf_true, g22, g15, g8, g1, fx_true g0]

theorem vfcos : ∀ x0 x1 x2, Statement (.vfcos x0 x1 x2) := by
  intro x0 x1 x2 w h
  have h' : some (BitVec.ofNat 32 (1409286156 + 4194304 * x0.toNat + 32768 * x1.toNat + 256 * x2.toNat)) = some w := h
  cases h'
  generalize hn : 1409286156 + 4194304 * x0.toNat + 32768 * x1.toNat + 256 * x2.toNat = n
  obtain ⟨lt, em, g22, g15, g8, g1, g0⟩ := shape11 (c0 := 21) (c1 := 6) (c2 := 0) (x0 := x0) (x1 := x1) (x2 := x2) (n := n)
    (by omega) (by decide) (by decide) (by decide)
  rw [major_15 lt em, decMaj15]
  simp only [onlyIf_true, g22, g15, g8, g1, fx_true g0]

theorem vfdot2Bf16 : ∀ x0 x1 x2 x3, Statement (.vfdot2Bf16 x0 x1 x2 x3) := by
  intro x0 x1 x2 x3 w h
  have h' : some (BitVec.ofNat 32 (1476395008 + 4194304 * x0.toNat + 32768 * x1.toNat + 256 * x2.toNat + 2 * x3.toNat)) = some w := h
  cases h'
  generalize hn : 1476395008 + 4194304 * x0.toNat + 32768 * x1.toNat + 256 * x2.toNat + 2 * x3.toNat = n
  obtain ⟨lt, em, g22, g15, g8, g1, g0⟩ := shape8 (c0 := 22) (c1 := 0) (x0 := x0) (x1 := x1) (x2 := x2) (x3 := x3) (n := n)
    (by omega) (by decide) (by decide)
  rw [major_16 lt em, decMaj16]
  simp only [g22, g15, g8, g1, g0]

theorem vfdot4Fp8 : ∀ x0 x1 x2 x3, Statement (.vfdot4Fp8 x0 x1 x2 x3) := by
  intro x0 x1 x2 x3 w h
  have h' : some (BitVec.ofNat 32 (1476395009 + 4194304 * x0.toNat + 32768 * x1.toNat + 256 * x2.toNat + 2 * x3.toNat)) = some w := h
  cases h'
  generalize hn : 1476395009 + 4194304 * x0.toNat + 32768 * x1.toNat + 256 * x2.toNat + 2 * x3.toNat = n
  obtain ⟨lt, em, g22, g15, g8, g1, g0⟩ := shape8 (c0 := 22) (c1 := 1) (x0 := x0) (x1 := x1) (x2 := x2) (x3 := x3) (n := n)
    (by omega) (by decide) (by decide)
  rw [major_16 lt em, decMaj16]
  simp only [g22, g15, g8, g1, g0]

theorem vshuf : ∀ x0 x1 x2 x3, Statement (.vshuf x0 x1 x2 x3) := by
  intro x0 x1 x2 x3 w h
  have h' : some (BitVec.ofNat 32 (1610612736 + 4194304 * x0.toNat + 32768 * x1.toNat + 256 * x2.toNat + 2 * x3.toNat)) = some w := h
  cases h'
  generalize hn : 1610612736 + 4194304 * x0.toNat + 32768 * x1.toNat + 256 * x2.toNat + 2 * x3.toNat = n
  obtain ⟨lt, em, g22, g15, g8, g1, g0⟩ := shape8 (c0 := 24) (c1 := 0) (x0 := x0) (x1 := x1) (x2 := x2) (x3 := x3) (n := n)
    (by omega) (by decide) (by decide)
  rw [major_18 lt em, decMaj18]
  simp only [g22, g15, g8, g1, g0]

theorem vlrot : ∀ x0 x1 x2 x3, Statement (.vlrot x0 x1 x2 x3) := by
  intro x0 x1 x2 x3 w h
  have h' : some (BitVec.ofNat 32 (1610612737 + 4194304 * x0.toNat + 32768 * x1.toNat + 256 * x2.toNat + 2 * x3.toNat)) = some w := h
  cases h'
  generalize hn : 1610612737 + 4194304 * x0.toNat + 32768 * x1.toNat + 256 * x2.toNat + 2 * x3.toNat = n
  obtain ⟨lt, em, g22, g15, g8, g1, g0⟩ := shape8 (c0 := 24) (c1 := 1) (x0 := x0) (x1 := x1) (x2 := x2) (x3 := x3) (n := n)
    (by omega) (by decide) (by decide)
  rw [major_18 lt em, decMaj18]
  simp only [g22, g15, g8, g1, g0]

theorem vscan : ∀ x0 x1 x2 x3, Statement (.vscan x0 x1 x2 x3) := by
  intro x0 x1 x2 x3 w h
  have h' : some (BitVec.ofNat 32 (1677721600 + 4194304 * x0.toNat + 32768 * x1.toNat + 256 * x2.toNat + 2 * x3.toNat)) = some w := h
  cases h'
  generalize hn : 1677721600 + 4194304 * x0.toNat + 32768 * x1.toNat + 256 * x2.toNat + 2 * x3.toNat = n
  obtain ⟨lt, em, g22, g15, g8, g1, g0⟩ := shape8 (c0 := 25) (c1 := 0) (x0 := x0) (x1 := x1) (x2 := x2) (x3 := x3) (n := n)
    (by omega) (by decide) (by decide)
  rw [major_19 lt em, decMaj19]
  simp only [g22, g15, g8, g1, g0]

theorem vscanExcl : ∀ x0 x1 x2 x3, Statement (.vscanExcl x0 x1 x2 x3) := by
  intro x0 x1 x2 x3 w h
  have h' : some (BitVec.ofNat 32 (1677721601 + 4194304 * x0.toNat + 32768 * x1.toNat + 256 * x2.toNat + 2 * x3.toNat)) = some w := h
  cases h'
  generalize hn : 1677721601 + 4194304 * x0.toNat + 32768 * x1.toNat + 256 * x2.toNat + 2 * x3.toNat = n
  obtain ⟨lt, em, g22, g15, g8, g1, g0⟩ := shape8 (c0 := 25) (c1 := 1) (x0 := x0) (x1 := x1) (x2 := x2) (x3 := x3) (n := n)
    (by omega) (by decide) (by decide)
  rw [major_19 lt em, decMaj19]
  simp only [g22, g15, g8, g1, g0]

theorem vred : ∀ x0 x1 x2 x3, Statement (.vred x0 x1 x2 x3) := by
  intro x0 x1 x2 x3 w h
  have h' : some (BitVec.ofNat 32 (1744830464 + 4194304 * x0.toNat + 32768 * x1.toNat + 256 * x2.toNat + 2 * x3.toNat)) = some w := h
  cases h'
  generalize hn : 1744830464 + 4194304 * x0.toNat + 32768 * x1.toNat + 256 * x2.toNat + 2 * x3.toNat = n
  obtain ⟨lt, em, g22, g15, g8, g1, g0⟩ := shape8 (c0 := 26) (c1 := 0) (x0 := x0) (x1 := x1) (x2 := x2) (x3 := x3) (n := n)
    (by omega) (by decide) (by decide)
  rw [major_1A lt em, decMaj1A]
  simp only [g22, g15, g8, g1, g0]

theorem vbcast : ∀ x0 x1 x2 x3, Statement (.vbcast x0 x1 x2 x3) := by
  intro x0 x1 x2 x3 w h
  have h' : some (BitVec.ofNat 32 (1744830465 + 4194304 * x0.toNat + 32768 * x1.toNat + 256 * x2.toNat + 2 * x3.toNat)) = some w := h
  cases h'
  generalize hn : 1744830465 + 4194304 * x0.toNat + 32768 * x1.toNat + 256 * x2.toNat + 2 * x3.toNat = n
  obtain ⟨lt, em, g22, g15, g8, g1, g0⟩ := shape8 (c0 := 26) (c1 := 1) (x0 := x0) (x1 := x1) (x2 := x2) (x3 := x3) (n := n)
    (by omega) (by decide) (by decide)
  rw [major_1A lt em, decMaj1A]
  simp only [g22, g15, g8, g1, g0]

theorem kand : ∀ x0 x1 x2, Statement (.kand x0 x1 x2) := by
  intro x0 x1 x2 w h
  have h' : some (BitVec.ofNat 32 (1811939328 + 32768 * x0.toNat + 256 * x1.toNat + 2 * x2.toNat)) = some w := h
  cases h'
  generalize hn : 1811939328 + 32768 * x0.toNat + 256 * x1.toNat + 2 * x2.toNat = n
  obtain ⟨lt, em, g22, g15, g8, g1, g0⟩ := shape12 (c0 := 27) (c1 := 0) (c2 := 0) (x0 := x0) (x1 := x1) (x2 := x2) (n := n)
    (by omega) (by decide) (by decide) (by decide)
  rw [major_1B lt em, decMaj1B]
  simp only [onlyIf_true, g15, g8, g1, g22, fx_true g0]

theorem kor : ∀ x0 x1 x2, Statement (.kor x0 x1 x2) := by
  intro x0 x1 x2 w h
  have h' : some (BitVec.ofNat 32 (1816133632 + 32768 * x0.toNat + 256 * x1.toNat + 2 * x2.toNat)) = some w := h
  cases h'
  generalize hn : 1816133632 + 32768 * x0.toNat + 256 * x1.toNat + 2 * x2.toNat = n
  obtain ⟨lt, em, g22, g15, g8, g1, g0⟩ := shape12 (c0 := 27) (c1 := 1) (c2 := 0) (x0 := x0) (x1 := x1) (x2 := x2) (n := n)
    (by omega) (by decide) (by decide) (by decide)
  rw [major_1B lt em, decMaj1B]
  simp only [onlyIf_true, g15, g8, g1, g22, fx_true g0]

theorem kxor : ∀ x0 x1 x2, Statement (.kxor x0 x1 x2) := by
  intro x0 x1 x2 w h
  have h' : some (BitVec.ofNat 32 (1820327936 + 32768 * x0.toNat + 256 * x1.toNat + 2 * x2.toNat)) = some w := h
  cases h'
  generalize hn : 1820327936 + 32768 * x0.toNat + 256 * x1.toNat + 2 * x2.toNat = n
  obtain ⟨lt, em, g22, g15, g8, g1, g0⟩ := shape12 (c0 := 27) (c1 := 2) (c2 := 0) (x0 := x0) (x1 := x1) (x2 := x2) (n := n)
    (by omega) (by decide) (by decide) (by decide)
  rw [major_1B lt em, decMaj1B]
  simp only [onlyIf_true, g15, g8, g1, g22, fx_true g0]

theorem knot : ∀ x0 x1, Statement (.knot x0 x1) := by
  intro x0 x1 w h
  have h' : some (BitVec.ofNat 32 (1824522240 + 32768 * x0.toNat + 256 * x1.toNat)) = some w := h
  cases h'
  generalize hn : 1824522240 + 32768 * x0.toNat + 256 * x1.toNat = n
  obtain ⟨lt, em, g22, g15, g8, g0⟩ := shape13 (c0 := 27) (c1 := 3) (c2 := 0) (x0 := x0) (x1 := x1) (n := n)
    (by omega) (by decide) (by decide) (by decide)
  rw [major_1B lt em, decMaj1B]
  simp only [onlyIf_true, g15, g8, g22, fx_true g0]

theorem kmov : ∀ x0 x1, Statement (.kmov x0 x1) := by
  intro x0 x1 w h
  have h' : some (BitVec.ofNat 32 (1828716544 + 32768 * x0.toNat + 256 * x1.toNat)) = some w := h
  cases h'
  generalize hn : 1828716544 + 32768 * x0.toNat + 256 * x1.toNat = n
  obtain ⟨lt, em, g22, g15, g8, g0⟩ := shape13 (c0 := 27) (c1 := 4) (c2 := 0) (x0 := x0) (x1 := x1) (n := n)
    (by omega) (by decide) (by decide) (by decide)
  rw [major_1B lt em, decMaj1B]
  simp only [onlyIf_true, g15, g8, g22, fx_true g0]

theorem kpop : ∀ x0 x1, Statement (.kpop x0 x1) := by
  intro x0 x1 w h
  have h' : some (BitVec.ofNat 32 (1832910848 + 32768 * x0.toNat + 256 * x1.toNat)) = some w := h
  cases h'
  generalize hn : 1832910848 + 32768 * x0.toNat + 256 * x1.toNat = n
  obtain ⟨lt, em, g22, g15, g8, g0⟩ := shape13 (c0 := 27) (c1 := 5) (c2 := 0) (x0 := x0) (x1 := x1) (n := n)
    (by omega) (by decide) (by decide) (by decide)
  rw [major_1B lt em, decMaj1B]
  simp only [onlyIf_true, g15, g8, g22, fx_true g0]

theorem kfirst : ∀ x0 x1, Statement (.kfirst x0 x1) := by
  intro x0 x1 w h
  have h' : some (BitVec.ofNat 32 (1837105152 + 32768 * x0.toNat + 256 * x1.toNat)) = some w := h
  cases h'
  generalize hn : 1837105152 + 32768 * x0.toNat + 256 * x1.toNat = n
  obtain ⟨lt, em, g22, g15, g8, g0⟩ := shape13 (c0 := 27) (c1 := 6) (c2 := 0) (x0 := x0) (x1 := x1) (n := n)
    (by omega) (by decide) (by decide) (by decide)
  rw [major_1B lt em, decMaj1B]
  simp only [onlyIf_true, g15, g8, g22, fx_true g0]

theorem vballot : ∀ x0 x1, Statement (.vballot x0 x1) := by
  intro x0 x1 w h
  have h' : some (BitVec.ofNat 32 (1841299456 + 32768 * x0.toNat + 2 * x1.toNat)) = some w := h
  cases h'
  generalize hn : 1841299456 + 32768 * x0.toNat + 2 * x1.toNat = n
  obtain ⟨lt, em, g22, g15, g8, g1, g0⟩ := shape14 (c0 := 27) (c1 := 7) (c2 := 0) (c3 := 0) (x0 := x0) (x1 := x1) (n := n)
    (by omega) (by decide) (by decide) (by decide) (by decide)
  rw [major_1B lt em, decMaj1B]
  simp only [Bool.and_false, Bool.and_self, Bool.false_and, onlyIf_true, g15, g1, g22, fx_true g0, fx_true g8]

theorem vrngRd : ∀ x0, Statement (.vrngRd x0) := by
  intro x0 w h
  have h' : some (BitVec.ofNat 32 (1845493760 + 32768 * x0.toNat)) = some w := h
  cases h'
  generalize hn : 1845493760 + 32768 * x0.toNat = n
  obtain ⟨lt, em, g22, g15, g0⟩ := shape15 (c0 := 27) (c1 := 8) (c2 := 0) (x0 := x0) (n := n)
    (by omega) (by decide) (by decide) (by decide)
  rw [major_1B lt em, decMaj1B]
  simp only [Bool.and_false, Bool.and_self, Bool.false_and, onlyIf_true, g15, g22, fx_true g0]
  rfl

theorem vrngSeed : ∀ x0 x1 x2, Statement (.vrngSeed x0 x1 x2) := by
  intro x0 x1 x2 w h
  have h' : some (BitVec.ofNat 32 (1845494016 + 32768 * x0.toNat + 2 * x1.toNat + x2.toNat)) = some w := h
  cases h'
  have l_x0 := x0.isLt
  have l_x1 := x1.isLt
  have l_x2 := x2.isLt
  generalize hn : 1845494016 + 32768 * x0.toNat + 2 * x1.toNat + x2.toNat = n
  rw [major_1B (by omega) (by omega), decMaj1B]
  simp only [Bool.and_false, Bool.and_self, Bool.false_and, onlyIf_false, onlyIf_true, (show n / 2 ^ 22 % 2 ^ 4 = 8 by show n / 4194304 % 16 = 8; omega), (fx_false (by show ¬ n / 1 % 32768 = 0; omega) : fx n 0 15 0 = false), (fx_true (by show n / 256 % 128 = 1; omega) : fx n 8 7 1 = true), (bf_eq (by show n / 32768 % 128 = x0.toNat; omega) : bf 7 n 15 = x0), (bf_eq (by show n / 2 % 128 = x1.toNat; omega) : bf 7 n 1 = x1), (bf_eq (by show n / 1 % 2 = x2.toNat; omega) : bf 1 n 0 = x2)]
  rfl

theorem vrngStep : ∀ x0, Statement (.vrngStep x0) := by
  intro x0 w h
  have h' : some (BitVec.ofNat 32 (1845494272 + 32768 * x0.toNat)) = some w := h
  cases h'
  have l_x0 := x0.isLt
  generalize hn : 1845494272 + 32768 * x0.toNat = n
  rw [major_1B (by omega) (by omega), decMaj1B]
  simp only [Bool.and_false, Bool.and_self, Bool.false_and, onlyIf_false, onlyIf_true, (show n / 2 ^ 22 % 2 ^ 4 = 8 by show n / 4194304 % 16 = 8; omega), (fx_false (by show ¬ n / 1 % 32768 = 0; omega) : fx n 0 15 0 = false), (fx_false (by show ¬ n / 256 % 128 = 1; omega) : fx n 8 7 1 = false), (fx_true (by show n / 1 % 32768 = 512; omega) : fx n 0 15 512 = true), (bf_eq (by show n / 32768 % 128 = x0.toNat; omega) : bf 7 n 15 = x0)]
  rfl

theorem brZ : ∀ x0 x1, Statement (.brZ x0 x1) := by
  intro x0 x1 w h
  have h' : some (BitVec.ofNat 32 (1879048192 + 131072 * x0.toNat + x1.toNat)) = some w := h
  cases h'
  generalize hn : 1879048192 + 131072 * x0.toNat + x1.toNat = n
  obtain ⟨lt, em, g23, g17, g0⟩ := shape16 (c0 := 28) (c1 := 0) (x0 := x0) (x1 := x1) (n := n)
    (by omega) (by decide) (by decide)
  rw [major_1C lt em, decMaj1C]
  simp only [g17, g0, g23]

theorem brNz : ∀ x0 x1, Statement (.brNz x0 x1) := by
  intro x0 x1 w h
  have h' : some (BitVec.ofNat 32 (1887436800 + 131072 * x0.toNat + x1.toNat)) = some w := h
  cases h'
  generalize hn : 1887436800 + 131072 * x0.toNat + x1.toNat = n
  obtain ⟨lt, em, g23, g17, g0⟩ := shape16 (c0 := 28) (c1 := 1) (x0 := x0) (x1 := x1) (n := n)
    (by omega) (by decide) (by decide)
  rw [major_1C lt em, decMaj1C]
  simp only [g17, g0, g23]

theorem brLt : ∀ x0 x1, Statement (.brLt x0 x1) := by
  intro x0 x1 w h
  have h' : some (BitVec.ofNat 32 (1895825408 + 131072 * x0.toNat + x1.toNat)) = some w := h
  cases h'
  generalize hn : 1895825408 + 131072 * x0.toNat + x1.toNat = n
  obtain ⟨lt, em, g23, g17, g0⟩ := shape16 (c0 := 28) (c1 := 2) (x0 := x0) (x1 := x1) (n := n)
    (by omega) (by decide) (by decide)
  rw [major_1C lt em, decMaj1C]
  simp only [g17, g0, g23]

theorem brGe : ∀ x0 x1, Statement (.brGe x0 x1) := by
  intro x0 x1 w h
  have h' : some (BitVec.ofNat 32 (1904214016 + 131072 * x0.toNat + x1.toNat)) = some w := h
  cases h'
  generalize hn : 1904214016 + 131072 * x0.toNat + x1.toNat = n
  obtain ⟨lt, em, g23, g17, g0⟩ := shape16 (c0 := 28) (c1 := 3) (x0 := x0) (x1 := x1) (n := n)
    (by omega) (by decide) (by decide)
  rw [major_1C lt em, decMaj1C]
  simp only [g17, g0, g23]

theorem call : ∀ x0 x1, Statement (.call x0 x1) := by
  intro x0 x1 w h
  have h' : some (BitVec.ofNat 32 (1912602624 + 131072 * x0.toNat + x1.toNat)) = some w := h
  cases h'
  generalize hn : 1912602624 + 131072 * x0.toNat + x1.toNat = n
  obtain ⟨lt, em, g23, g17, g0⟩ := shape16 (c0 := 28) (c1 := 4) (x0 := x0) (x1 := x1) (n := n)
    (by omega) (by decide) (by decide)
  rw [major_1C lt em, decMaj1C]
  simp only [g17, g0, g23]

theorem jmp : ∀ x0, Statement (.jmp x0) := by
  intro x0 w h
  have h' : some (BitVec.ofNat 32 (1920991232 + x0.toNat)) = some w := h
  cases h'
  generalize hn : 1920991232 + x0.toNat = n
  obtain ⟨lt, em, g23, g17, g0⟩ := shape17 (c0 := 28) (c1 := 5) (c2 := 0) (x0 := x0) (n := n)
    (by omega) (by decide) (by decide) (by decide)
  rw [major_1C lt em, decMaj1C]
  simp only [onlyIf_true, g0, g23, fx_true g17]

theorem brkAny : ∀ x0 x1, Statement (.brkAny x0 x1) := by
  intro x0 x1 w h
  have h' : some (BitVec.ofNat 32 (1946157056 + 524288 * x0.toNat + x1.toNat)) = some w := h
  cases h'
  generalize hn : 1946157056 + 524288 * x0.toNat + x1.toNat = n
  obtain ⟨lt, em, g23, g19, g0⟩ := shape18 (c0 := 29) (c1 := 0) (x0 := x0) (x1 := x1) (n := n)
    (by omega) (by decide) (by decide)
  rw [major_1D lt em, decMaj1D]
  simp only [g19, g0, g23]

theorem brkNone : ∀ x0 x1, Statement (.brkNone x0 x1) := by
  intro x0 x1 w h
  have h' : some (BitVec.ofNat 32 (1954545664 + 524288 * x0.toNat + x1.toNat)) = some w := h
  cases h'
  generalize hn : 1954545664 + 524288 * x0.toNat + x1.toNat = n
  obtain ⟨lt, em, g23, g19, g0⟩ := shape18 (c0 := 29) (c1 := 1) (x0 := x0) (x1 := x1) (n := n)
    (by omega) (by decide) (by decide)
  rw [major_1D lt em, decMaj1D]
  simp only [g19, g0, g23]

theorem brd : ∀ x0 x1, Statement (.brd x0 x1) := by
  intro x0 x1 w h
  have h' : some (BitVec.ofNat 32 (1962934272 + 524288 * x0.toNat + x1.toNat)) = some w := h
  cases h'
  generalize hn : 1962934272 + 524288 * x0.toNat + x1.toNat = n
  obtain ⟨lt, em, g23, g19, g0⟩ := shape18 (c0 := 29) (c1 := 2) (x0 := x0) (x1 := x1) (n := n)
    (by omega) (by decide) (by decide)
  rw [major_1D lt em, decMaj1D]
  simp only [g19, g0, g23]

theorem mark : ∀ x0, Statement (.mark x0) := by
  intro x0 w h
  have h' : some (BitVec.ofNat 32 (1971322880 + x0.toNat)) = some w := h
  cases h'
  generalize hn : 1971322880 + x0.toNat = n
  obtain ⟨lt, em, g23, g19, g0⟩ := shape19 (c0 := 29) (c1 := 3) (c2 := 0) (x0 := x0) (n := n)
    (by omega) (by decide) (by decide) (by decide)
  rw [major_1D lt em, decMaj1D]
  simp only [onlyIf_true, g0, g23, fx_true g19]

theorem ret : ∀ x0, Statement (.ret x0) := by
  intro x0 w h
  have h' : some (BitVec.ofNat 32 (2013265920 + 16384 * x0.toNat)) = some w := h
  cases h'
  generalize hn : 2013265920 + 16384 * x0.toNat = n
  obtain ⟨lt, em, g20, g14, g0⟩ := shape20 (c0 := 30) (c1 := 0) (c2 := 0) (x0 := x0) (n := n)
    (by omega) (by decide) (by decide) (by decide)
  rw [major_1E lt em, decMaj1E]
  simp only [onlyIf_true, g14, g20, fx_true g0]

theorem jmpReg : ∀ x0, Statement (.jmpReg x0) := by
  intro x0 w h
  have h' : some (BitVec.ofNat 32 (2014314496 + 16384 * x0.toNat)) = some w := h
  cases h'
  generalize hn : 2014314496 + 16384 * x0.toNat = n
  obtain ⟨lt, em, g20, g14, g0⟩ := shape20 (c0 := 30) (c1 := 1) (c2 := 0) (x0 := x0) (n := n)
    (by omega) (by decide) (by decide) (by decide)
  rw [major_1E lt em, decMaj1E]
  simp only [onlyIf_true, g14, g20, fx_true g0]

theorem callReg : ∀ x0 x1, Statement (.callReg x0 x1) := by
  intro x0 x1 w h
  have h' : some (BitVec.ofNat 32 (2015363072 + 16384 * x0.toNat + 256 * x1.toNat)) = some w := h
  cases h'
  generalize hn : 2015363072 + 16384 * x0.toNat + 256 * x1.toNat = n
  obtain ⟨lt, em, g20, g14, g8, g0⟩ := shape21 (c0 := 30) (c1 := 2) (c2 := 0) (x0 := x0) (x1 := x1) (n := n)
    (by omega) (by decide) (by decide) (by decide)
  rw [major_1E lt em, decMaj1E]
  simp only [onlyIf_true, g14, g8, g20, fx_true g0]

theorem sld : ∀ x0 x1 x2 x3 x4, Statement (.sld x0 x1 x2 x3 x4) := by
  intro x0 x1 x2 x3 x4 w h
  have h' : some (BitVec.ofNat 32 (2147483648 + 8388608 * x0.toNat + 65536 * x1.toNat + 1024 * x2.toNat + 4 * x3.toNat + x4.toNat)) = some w := h
  cases h'
  generalize hn : 2147483648 + 8388608 * x0.toNat + 65536 * x1.toNat + 1024 * x2.toNat + 4 * x3.toNat + x4.toNat = n
  obtain ⟨lt, em, g23, g16, g10, g2, g0⟩ := shape22 (c0 := 32) (x0 := x0) (x1 := x1) (x2 := x2) (x3 := x3) (x4 := x4) (n := n)
    (by omega) (by decide)
  rw [major_20 lt em, decMaj20]
  simp only [g23, g16, g10, g2, g0]

theorem sst : ∀ x0 x1 x2 x3 x4, Statement (.sst x0 x1 x2 x3 x4) := by
  intro x0 x1 x2 x3 x4 w h
  have h' : some (BitVec.ofNat 32 (2214592512 + 8388608 * x0.toNat + 65536 * x1.toNat + 1024 * x2.toNat + 4 * x3.toNat + x4.toNat)) = some w := h
  cases h'
  generalize hn : 2214592512 + 8388608 * x0.toNat + 65536 * x1.toNat + 1024 * x2.toNat + 4 * x3.toNat + x4.toNat = n
  obtain ⟨lt, em, g25, g23, g16, g10, g2, g0⟩ := shape23 (c0 := 33) (c1 := 0) (x0 := x0) (x1 := x1) (x2 := x2) (x3 := x3) (x4 := x4) (n := n)
    (by omega) (by decide) (by decide)
  rw [major_21 lt em, decMaj21]
  simp only [onlyIf_true, g23, g16, g10, g2, g0, fx_true g25]

theorem vld : ∀ x0 x1 x2 x3 x4, Statement (.vld x0 x1 x2 x3 x4) := by
  intro x0 x1 x2 x3 x4 w h
  have h' : some (BitVec.ofNat 32 (2281701376 + 8388608 * x0.toNat + 65536 * x1.toNat + 1024 * x2.toNat + 4 * x3.toNat + x4.toNat)) = some w := h
  cases h'
  generalize hn : 2281701376 + 8388608 * x0.toNat + 65536 * x1.toNat + 1024 * x2.toNat + 4 * x3.toNat + x4.toNat = n
  obtain ⟨lt, em, g23, g16, g10, g2, g0⟩ := shape22 (c0 := 34) (x0 := x0) (x1 := x1) (x2 := x2) (x3 := x3) (x4 := x4) (n := n)
    (by omega) (by decide)
  rw [major_22 lt em, decMaj22]
  simp only [g23, g16, g10, g2, g0]

theorem vst : ∀ x0 x1 x2 x3 x4, Statement (.vst x0 x1 x2 x3 x4) := by
  intro x0 x1 x2 x3 x4 w h
  have h' : some (BitVec.ofNat 32 (2348810240 + 8388608 * x0.toNat + 65536 * x1.toNat + 1024 * x2.toNat + 4 * x3.toNat + x4.toNat)) = some w := h
  cases h'
  generalize hn : 2348810240 + 8388608 * x0.toNat + 65536 * x1.toNat + 1024 * x2.toNat + 4 * x3.toNat + x4.toNat = n
  obtain ⟨lt, em, g25, g23, g16, g10, g2, g0⟩ := shape23 (c0 := 35) (c1 := 0) (x0 := x0) (x1 := x1) (x2 := x2) (x3 := x3) (x4 := x4) (n := n)
    (by omega) (by decide) (by decide)
  rw [major_23 lt em, decMaj23]
  simp only [onlyIf_true, g23, g16, g10, g2, g0, fx_true g25]

theorem vldg : ∀ x0 x1 x2 x3 x4, Statement (.vldg x0 x1 x2 x3 x4) := by
  intro x0 x1 x2 x3 x4 w h
  have h' : some (BitVec.ofNat 32 (2415919104 + 8388608 * x0.toNat + 65536 * x1.toNat + 1024 * x2.toNat + 8 * x3.toNat + 2 * x4.toNat)) = some w := h
  cases h'
  generalize hn : 2415919104 + 8388608 * x0.toNat + 65536 * x1.toNat + 1024 * x2.toNat + 8 * x3.toNat + 2 * x4.toNat = n
  obtain ⟨lt, em, g23, g16, g10, g3, g1, g0⟩ := shape24 (c0 := 36) (c1 := 0) (x0 := x0) (x1 := x1) (x2 := x2) (x3 := x3) (x4 := x4) (n := n)
    (by omega) (by decide) (by decide)
  rw [major_24 lt em, decMaj24]
  simp only [onlyIf_true, g23, g16, g10, g3, g1, fx_true g0]

theorem vsts : ∀ x0 x1 x2 x3 x4, Statement (.vsts x0 x1 x2 x3 x4) := by
  intro x0 x1 x2 x3 x4 w h
  have h' : some (BitVec.ofNat 32 (2483027968 + 8388608 * x0.toNat + 65536 * x1.toNat + 1024 * x2.toNat + 8 * x3.toNat + 2 * x4.toNat)) = some w := h
  cases h'
  generalize hn : 2483027968 + 8388608 * x0.toNat + 65536 * x1.toNat + 1024 * x2.toNat + 8 * x3.toNat + 2 * x4.toNat = n
  obtain ⟨lt, em, g25, g23, g16, g10, g3, g1, g0⟩ := shape25 (c0 := 37) (c1 := 0) (c2 := 0) (x0 := x0) (x1 := x1) (x2 := x2) (x3 := x3) (x4 := x4) (n := n)
    (by omega) (by decide) (by decide) (by decide)
  rw [major_25 lt em, decMaj25]
  simp only [Bool.and_false, Bool.and_self, Bool.false_and, onlyIf_true, g23, g16, g10, g3, g1, fx_true g0, fx_true g25]

theorem spld : ∀ x0 x1 x2 x3 x4, Statement (.spld x0 x1 x2 x3 x4) := by
  intro x0 x1 x2 x3 x4 w h
  have h' : some (BitVec.ofNat 32 (2550136832 + 8388608 * x0.toNat + 65536 * x1.toNat + 1024 * x2.toNat + 16 * x3.toNat + x4.toNat)) = some w := h
  cases h'
  generalize hn : 2550136832 + 8388608 * x0.toNat + 65536 * x1.toNat + 1024 * x2.toNat + 16 * x3.toNat + x4.toNat = n
  obtain ⟨lt, em, g23, g16, g10, g4, g0⟩ := shape26 (c0 := 38) (x0 := x0) (x1 := x1) (x2 := x2) (x3 := x3) (x4 := x4) (n := n)
    (by omega) (by decide)
  rw [major_26 lt em, decMaj26]
  simp only [g23, g16, g10, g4, g0]

theorem spst : ∀ x0 x1 x2 x3, Statement (.spst x0 x1 x2 x3) := by
  intro x0 x1 x2 x3 w h
  have h' : some (BitVec.ofNat 32 (2617245696 + 8388608 * x0.toNat + 65536 * x1.toNat + 1024 * x2.toNat + 4 * x3.toNat)) = some w := h
  cases h'
  generalize hn : 2617245696 + 8388608 * x0.toNat + 65536 * x1.toNat + 1024 * x2.toNat + 4 * x3.toNat = n
  obtain ⟨lt, em, g25, g23, g16, g10, g2, g0⟩ := shape27 (c0 := 39) (c1 := 0) (c2 := 0) (x0 := x0) (x1 := x1) (x2 := x2) (x3 := x3) (n := n)
    (by omega) (by decide) (by decide) (by decide)
  rw [major_27 lt em, decMaj27]
  simp only [onlyIf_true, g23, g16, g10, g2, g25, fx_true g0]

theorem cld : ∀ x0 x1 x2 x3 x4, Statement (.cld x0 x1 x2 x3 x4) := by
  intro x0 x1 x2 x3 x4 w h
  have h' : some (BitVec.ofNat 32 (2650800128 + 8388608 * x0.toNat + 65536 * x1.toNat + 1024 * x2.toNat + 4 * x3.toNat + x4.toNat)) = some w := h
  cases h'
  generalize hn : 2650800128 + 8388608 * x0.toNat + 65536 * x1.toNat + 1024 * x2.toNat + 4 * x3.toNat + x4.toNat = n
  obtain ⟨lt, em, g25, g24, g23, g16, g10, g2, g0⟩ := shape28 (c0 := 39) (c1 := 1) (c2 := 0) (x0 := x0) (x1 := x1) (x2 := x2) (x3 := x3) (x4 := x4) (n := n)
    (by omega) (by decide) (by decide) (by decide)
  rw [major_27 lt em, decMaj27]
  simp only [onlyIf_true, g23, g16, g10, g2, g0, g25, fx_true g24]

theorem atomScalar : ∀ x0 x1 x2 x3 x4, Statement (.atomScalar x0 x1 x2 x3 x4) := by
  intro x0 x1 x2 x3 x4 w h
  have h' : some (BitVec.ofNat 32 (2684354560 + 1048576 * x0.toNat + 16384 * x1.toNat + 256 * x2.toNat + 4 * x3.toNat + x4.toNat)) = some w := h
  cases h'
  generalize hn : 2684354560 + 1048576 * x0.toNat + 16384 * x1.toNat + 256 * x2.toNat + 4 * x3.toNat + x4.toNat = n
  obtain ⟨lt, em, g20, g14, g8, g2, g0⟩ := shape29 (c0 := 40) (x0 := x0) (x1 := x1) (x2 := x2) (x3 := x3) (x4 := x4) (n := n)
    (by omega) (by decide)
  rw [major_28 lt em, decMaj28]
  simp only [g20, g14, g8, g2, g0]

theorem atomVector : ∀ x0 x1 x2 x3 x4, Statement (.atomVector x0 x1 x2 x3 x4) := by
  intro x0 x1 x2 x3 x4 w h
  have h' : some (BitVec.ofNat 32 (2751463424 + 1048576 * x0.toNat + 8192 * x1.toNat + 64 * x2.toNat + 16 * x3.toNat + 8 * x4.toNat)) = some w := h
  cases h'
  generalize hn : 2751463424 + 1048576 * x0.toNat + 8192 * x1.toNat + 64 * x2.toNat + 16 * x3.toNat + 8 * x4.toNat = n
  obtain ⟨lt, em, g20, g13, g6, g4, g3, g0⟩ := shape30 (c0 := 41) (c1 := 0) (x0 := x0) (x1 := x1) (x2 := x2) (x3 := x3) (x4 := x4) (n := n)
    (by omega) (by decide) (by decide)
  rw [major_29 lt em, decMaj29]
  simp only [onlyIf_true, g20, g13, g6, g4, g3, fx_true g0]

theorem red : ∀ x0 x1 x2, Statement (.red x0 x1 x2) := by
  intro x0 x1 x2 w h
  have h' : some (BitVec.ofNat 32 (2818572288 + 8192 * x0.toNat + 64 * x1.toNat + 4 * x2.toNat)) = some w := h
  cases h'
  generalize hn : 2818572288 + 8192 * x0.toNat + 64 * x1.toNat + 4 * x2.toNat = n
  obtain ⟨lt, em, g20, g13, g6, g2, g0⟩ := shape31 (c0 := 42) (c1 := 0) (c2 := 0) (x0 := x0) (x1 := x1) (x2 := x2) (n := n)
    (by omega) (by decide) (by decide) (by decide)
  rw [major_2A lt em, decMaj2A]
  simp only [onlyIf_true, g13, g6, g2, g20, fx_true g0]

theorem redClose : ∀ x0 x1, Statement (.redClose x0 x1) := by
  intro x0 x1 w h
  have h' : some (BitVec.ofNat 32 (2819620864 + 16384 * x0.toNat + 256 * x1.toNat)) = some w := h
  cases h'
  generalize hn : 2819620864 + 16384 * x0.toNat + 256 * x1.toNat = n
  obtain ⟨lt, em, g20, g14, g8, g0⟩ := shape21 (c0 := 42) (c1 := 1) (c2 := 0) (x0 := x0) (x1 := x1) (n := n)
    (by omega) (by decide) (by decide) (by decide)
  rw [major_2A lt em, decMaj2A]
  simp only [onlyIf_true, g14, g8, g20, fx_true g0]

theorem fenceRel : ∀ x0, Statement (.fenceRel x0) := by
  intro x0 w h
  have h' : some (BitVec.ofNat 32 (2886729728 + 65536 * x0.toNat)) = some w := h
  cases h'
  generalize hn : 2886729728 + 65536 * x0.toNat = n
  obtain ⟨lt, em, g20, g16, g0⟩ := shape32 (c0 := 43) (c1 := 1) (c2 := 0) (x0 := x0) (n := n)
    (by omega) (by decide) (by decide) (by decide)
  rw [major_2B lt em, decMaj2B]
  simp only [onlyIf_true, g16, g20, fx_true g0]

theorem fenceAr : ∀ x0, Statement (.fenceAr x0) := by
  intro x0 w h
  have h' : some (BitVec.ofNat 32 (2887778304 + 65536 * x0.toNat)) = some w := h
  cases h'
  generalize hn : 2887778304 + 65536 * x0.toNat = n
  obtain ⟨lt, em, g20, g16, g0⟩ := shape32 (c0 := 43) (c1 := 2) (c2 := 0) (x0 := x0) (n := n)
    (by omega) (by decide) (by decide) (by decide)
  rw [major_2B lt em, decMaj2B]
  simp only [onlyIf_true, g16, g20, fx_true g0]

theorem cp : ∀ x0 x1 x2 x3 x4, Statement (.cp x0 x1 x2 x3 x4) := by
  intro x0 x1 x2 x3 x4 w h
  have h' : some (BitVec.ofNat 32 (2952790016 + 16384 * x0.toNat + 256 * x1.toNat + 4 * x2.toNat + 2 * x3.toNat + x4.toNat)) = some w := h
  cases h'
  generalize hn : 2952790016 + 16384 * x0.toNat + 256 * x1.toNat + 4 * x2.toNat + 2 * x3.toNat + x4.toNat = n
  obtain ⟨lt, em, g20, g14, g8, g2, g1, g0⟩ := shape33 (c0 := 44) (c1 := 0) (x0 := x0) (x1 := x1) (x2 := x2) (x3 := x3) (x4 := x4) (n := n)
    (by omega) (by decide) (by decide)
  rw [major_2C lt em, decMaj2C]
  simp only [g14, g8, g2, g1, g0, g20]

theorem cpFill : ∀ x0 x1 x2, Statement (.cpFill x0 x1 x2) := by
  intro x0 x1 x2 w h
  have h' : some (BitVec.ofNat 32 (2953838592 + 16384 * x0.toNat + 256 * x1.toNat + 4 * x2.toNat)) = some w := h
  cases h'
  generalize hn : 2953838592 + 16384 * x0.toNat + 256 * x1.toNat + 4 * x2.toNat = n
  obtain ⟨lt, em, g20, g14, g8, g2, g0⟩ := shape34 (c0 := 44) (c1 := 1) (c2 := 0) (x0 := x0) (x1 := x1) (x2 := x2) (n := n)
    (by omega) (by decide) (by decide) (by decide)
  rw [major_2C lt em, decMaj2C]
  simp only [onlyIf_true, g14, g8, g2, g20, fx_true g0]

theorem cpT : ∀ x0 x1 x2, Statement (.cpT x0 x1 x2) := by
  intro x0 x1 x2 w h
  have h' : some (BitVec.ofNat 32 (2954887168 + 8192 * x0.toNat + 64 * x1.toNat + x2.toNat)) = some w := h
  cases h'
  generalize hn : 2954887168 + 8192 * x0.toNat + 64 * x1.toNat + x2.toNat = n
  obtain ⟨lt, em, g20, g13, g6, g0⟩ := shape35 (c0 := 44) (c1 := 2) (x0 := x0) (x1 := x1) (x2 := x2) (n := n)
    (by omega) (by decide) (by decide)
  rw [major_2C lt em, decMaj2C]
  simp only [g13, g6, g0, g20]

theorem stMc : ∀ x0 x1 x2, Statement (.stMc x0 x1 x2) := by
  intro x0 x1 x2 w h
  have h' : some (BitVec.ofNat 32 (3019898880 + 16384 * x0.toNat + 256 * x1.toNat + x2.toNat)) = some w := h
  cases h'
  generalize hn : 3019898880 + 16384 * x0.toNat + 256 * x1.toNat + x2.toNat = n
  obtain ⟨lt, em, g20, g14, g8, g0⟩ := shape36 (c0 := 45) (c1 := 0) (x0 := x0) (x1 := x1) (x2 := x2) (n := n)
    (by omega) (by decide) (by decide)
  rw [major_2D lt em, decMaj2D]
  simp only [g14, g8, g0, g20]

theorem pf : ∀ x0 x1 x2, Statement (.pf x0 x1 x2) := by
  intro x0 x1 x2 w h
  have h' : some (BitVec.ofNat 32 (3020947456 + 16384 * x0.toNat + 4096 * x1.toNat + 1024 * x2.toNat)) = some w := h
  cases h'
  generalize hn : 3020947456 + 16384 * x0.toNat + 4096 * x1.toNat + 1024 * x2.toNat = n
  obtain ⟨lt, em, g20, g14, g12, g10, g0⟩ := shape37 (c0 := 45) (c1 := 1) (c2 := 0) (x0 := x0) (x1 := x1) (x2 := x2) (n := n)
    (by omega) (by decide) (by decide) (by decide)
  rw [major_2D lt em, decMaj2D]
  simp only [onlyIf_true, g14, g12, g10, g20, fx_true g0]

theorem zclaim : ∀ x0 x1, Statement (.zclaim x0 x1) := by
  intro x0 x1 w h
  have h' : some (BitVec.ofNat 32 (3087007744 + 16384 * x0.toNat + x1.toNat)) = some w := h
  cases h'
  generalize hn : 3087007744 + 16384 * x0.toNat + x1.toNat = n
  obtain ⟨lt, em, g20, g14, g12, g0⟩ := shape38 (c0 := 46) (c1 := 0) (c2 := 0) (x0 := x0) (x1 := x1) (n := n)
    (by omega) (by decide) (by decide) (by decide)
  rw [major_2E lt em, decMaj2E]
  simp only [onlyIf_true, g14, g0, g20, fx_true g12]

theorem zrel : ∀ x0, Statement (.zrel x0) := by
  intro x0 w h
  have h' : some (BitVec.ofNat 32 (3088056320 + x0.toNat)) = some w := h
  cases h'
  generalize hn : 3088056320 + x0.toNat = n
  obtain ⟨lt, em, g20, g12, g0⟩ := shape39 (c0 := 46) (c1 := 1) (c2 := 0) (x0 := x0) (n := n)
    (by omega) (by decide) (by decide) (by decide)
  rw [major_2E lt em, decMaj2E]
  simp only [onlyIf_true, g0, g20, fx_true g12]

theorem zzero : ∀ x0, Statement (.zzero x0) := by
  intro x0 w h
  have h' : some (BitVec.ofNat 32 (3089104896 + x0.toNat)) = some w := h
  cases h'
  generalize hn : 3089104896 + x0.toNat = n
  obtain ⟨lt, em, g20, g12, g0⟩ := shape39 (c0 := 46) (c1 := 2) (c2 := 0) (x0 := x0) (n := n)
    (by omega) (by decide) (by decide) (by decide)
  rw [major_2E lt em, decMaj2E]
  simp only [onlyIf_true, g0, g20, fx_true g12]

theorem oclaim : ∀ x0 x1, Statement (.oclaim x0 x1) := by
  intro x0 x1 w h
  have h' : some (BitVec.ofNat 32 (3090153472 + 16384 * x0.toNat + x1.toNat)) = some w := h
  cases h'
  generalize hn : 3090153472 + 16384 * x0.toNat + x1.toNat = n
  obtain ⟨lt, em, g20, g14, g8, g0⟩ := shape40 (c0 := 46) (c1 := 3) (c2 := 0) (x0 := x0) (x1 := x1) (n := n)
    (by omega) (by decide) (by decide) (by decide)
  rw [major_2E lt em, decMaj2E]
  simp only [onlyIf_true, g14, g0, g20, fx_true g8]

theorem orel : ∀ x0, Statement (.orel x0) := by
  intro x0 w h
  have h' : some (BitVec.ofNat 32 (3091202048 + x0.toNat)) = some w := h
  cases h'
  generalize hn : 3091202048 + x0.toNat = n
  obtain ⟨lt, em, g20, g8, g0⟩ := shape41 (c0 := 46) (c1 := 4) (c2 := 0) (x0 := x0) (n := n)
    (by omega) (by decide) (by decide) (by decide)
  rw [major_2E lt em, decMaj2E]
  simp only [onlyIf_true, g0, g20, fx_true g8]

theorem oload : ∀ x0 x1 x2, Statement (.oload x0 x1 x2) := by
  intro x0 x1 x2 w h
  have h' : some (BitVec.ofNat 32 (3154116608 + 131072 * x0.toNat + 1024 * x1.toNat + 16 * x2.toNat)) = some w := h
  cases h'
  generalize hn : 3154116608 + 131072 * x0.toNat + 1024 * x1.toNat + 16 * x2.toNat = n
  obtain ⟨lt, em, g20, g17, g10, g4, g0⟩ := shape42 (c0 := 47) (c1 := 0) (c2 := 0) (x0 := x0) (x1 := x1) (x2 := x2) (n := n)
    (by omega) (by decide) (by decide) (by decide)
  rw [major_2F lt em, decMaj2F]
  simp only [onlyIf_true, g17, g10, g4, g20, fx_true g0]

theorem mmul : ∀ x0 x1 x2, Statement (.mmul x0 x1 x2) := by
  intro x0 x1 x2 w h
  have h' : some (BitVec.ofNat 32 (3155165184 + 65536 * x0.toNat + 8192 * x1.toNat + 1024 * x2.toNat)) = some w := h
  cases h'
  generalize hn : 3155165184 + 65536 * x0.toNat + 8192 * x1.toNat + 1024 * x2.toNat = n
  obtain ⟨lt, em, g20, g16, g13, g10, g0⟩ := shape43 (c0 := 47) (c1 := 1) (c2 := 0) (x0 := x0) (x1 := x1) (x2 := x2) (n := n)
    (by omega) (by decide) (by decide) (by decide)
  rw [major_2F lt em, decMaj2F]
  simp only [onlyIf_true, g16, g13, g10, g20, fx_true g0]

theorem mloop : ∀ x0 x1 x2 x3, Statement (.mloop x0 x1 x2 x3) := by
  intro x0 x1 x2 x3 w h
  have h' : some (BitVec.ofNat 32 (3156213760 + 65536 * x0.toNat + 512 * x1.toNat + 4 * x2.toNat + x3.toNat)) = some w := h
  cases h'
  generalize hn : 3156213760 + 65536 * x0.toNat + 512 * x1.toNat + 4 * x2.toNat + x3.toNat = n
  obtain ⟨lt, em, g20, g16, g9, g2, g0⟩ := shape44 (c0 := 47) (c1 := 2) (x0 := x0) (x1 := x1) (x2 := x2) (x3 := x3) (n := n)
    (by omega) (by decide) (by decide)
  rw [major_2F lt em, decMaj2F]
  simp only [g16, g9, g2, g0, g20]

theorem mdrain : ∀ x0 x1 x2 x3, Statement (.mdrain x0 x1 x2 x3) := by
  intro x0 x1 x2 x3 w h
  have h' : some (BitVec.ofNat 32 (3157262336 + 65536 * x0.toNat + 512 * x1.toNat + 8 * x2.toNat + 4 * x3.toNat)) = some w := h
  cases h'
  generalize hn : 3157262336 + 65536 * x0.toNat + 512 * x1.toNat + 8 * x2.toNat + 4 * x3.toNat = n
  obtain ⟨lt, em, g20, g16, g9, g3, g2, g0⟩ := shape45 (c0 := 47) (c1 := 3) (c2 := 0) (x0 := x0) (x1 := x1) (x2 := x2) (x3 := x3) (n := n)
    (by omega) (by decide) (by decide) (by decide)
  rw [major_2F lt em, decMaj2F]
  simp only [onlyIf_true, g16, g9, g3, g2, g20, fx_true g0]

theorem mfence : ∀ x0, Statement (.mfence x0) := by
  intro x0 w h
  have h' : some (BitVec.ofNat 32 (3221225472 + 16384 * x0.toNat)) = some w := h
  cases h'
  generalize hn : 3221225472 + 16384 * x0.toNat = n
  obtain ⟨lt, em, g20, g14, g0⟩ := shape20 (c0 := 48) (c1 := 0) (c2 := 0) (x0 := x0) (n := n)
    (by omega) (by decide) (by decide) (by decide)
  rw [major_30 lt em, decMaj30]
  simp only [onlyIf_true, g14, g20, fx_true g0]

theorem mwait : ∀ x0, Statement (.mwait x0) := by
  intro x0 w h
  have h' : some (BitVec.ofNat 32 (3222274048 + 256 * x0.toNat)) = some w := h
  cases h'
  generalize hn : 3222274048 + 256 * x0.toNat = n
  obtain ⟨lt, em, g20, g14, g8, g0⟩ := shape46 (c0 := 48) (c1 := 1) (c2 := 0) (c3 := 0) (x0 := x0) (n := n)
    (by omega) (by decide) (by decide) (by decide) (by decide)
  rw [major_30 lt em, decMaj30]
  simp only [Bool.and_false, Bool.and_self, Bool.false_and, onlyIf_true, g8, g20, fx_true g0, fx_true g14]

theorem mstat : ∀ x0, Statement (.mstat x0) := by
  intro x0 w h
  have h' : some (BitVec.ofNat 32 (3224371200 + 16384 * x0.toNat)) = some w := h
  cases h'
  generalize hn : 3224371200 + 16384 * x0.toNat = n
  obtain ⟨lt, em, g20, g14, g0⟩ := shape20 (c0 := 48) (c1 := 3) (c2 := 0) (x0 := x0) (n := n)
    (by omega) (by decide) (by decide) (by decide)
  rw [major_30 lt em, decMaj30]
  simp only [onlyIf_true, g14, g20, fx_true g0]

theorem tinv : ∀ x0 x1 x2 x3, Statement (.tinv x0 x1 x2 x3) := by
  intro x0 x1 x2 x3 w h
  have h' : some (BitVec.ofNat 32 (3355443200 + 16384 * x0.toNat + 256 * x1.toNat + 4 * x2.toNat + x3.toNat)) = some w := h
  cases h'
  generalize hn : 3355443200 + 16384 * x0.toNat + 256 * x1.toNat + 4 * x2.toNat + x3.toNat = n
  obtain ⟨lt, em, g20, g14, g8, g2, g0⟩ := shape47 (c0 := 50) (c1 := 0) (x0 := x0) (x1 := x1) (x2 := x2) (x3 := x3) (n := n)
    (by omega) (by decide) (by decide)
  rw [major_32 lt em, decMaj32]
  simp only [g14, g8, g2, g0, g20]

theorem tprobe : ∀ x0 x1 x2, Statement (.tprobe x0 x1 x2) := by
  intro x0 x1 x2 w h
  have h' : some (BitVec.ofNat 32 (3356491776 + 16384 * x0.toNat + 256 * x1.toNat + 128 * x2.toNat)) = some w := h
  cases h'
  generalize hn : 3356491776 + 16384 * x0.toNat + 256 * x1.toNat + 128 * x2.toNat = n
  obtain ⟨lt, em, g20, g14, g8, g7, g0⟩ := shape48 (c0 := 50) (c1 := 1) (c2 := 0) (x0 := x0) (x1 := x1) (x2 := x2) (n := n)
    (by omega) (by decide) (by decide) (by decide)
  rw [major_32 lt em, decMaj32]
  simp only [onlyIf_true, g14, g8, g7, g20, fx_true g0]

theorem rteAnn : ∀ x0 x1 x2, Statement (.rteAnn x0 x1 x2) := by
  intro x0 x1 x2 w h
  have h' : some (BitVec.ofNat 32 (3357540352 + 16384 * x0.toNat + 256 * x1.toNat + 4 * x2.toNat)) = some w := h
  cases h'
  generalize hn : 3357540352 + 16384 * x0.toNat + 256 * x1.toNat + 4 * x2.toNat = n
  obtain ⟨lt, em, g20, g14, g8, g2, g0⟩ := shape34 (c0 := 50) (c1 := 2) (c2 := 0) (x0 := x0) (x1 := x1) (x2 := x2) (n := n)
    (by omega) (by decide) (by decide) (by decide)
  rw [major_32 lt em, decMaj32]
  simp only [onlyIf_true, g14, g8, g2, g20, fx_true g0]

theorem rteWd : ∀ x0 x1 x2, Statement (.rteWd x0 x1 x2) := by
  intro x0 x1 x2 w h
  have h' : some (BitVec.ofNat 32 (3358588928 + 16384 * x0.toNat + 256 * x1.toNat + 4 * x2.toNat)) = some w := h
  cases h'
  generalize hn : 3358588928 + 16384 * x0.toNat + 256 * x1.toNat + 4 * x2.toNat = n
  obtain ⟨lt, em, g20, g14, g8, g2, g0⟩ := shape34 (c0 := 50) (c1 := 3) (c2 := 0) (x0 := x0) (x1 := x1) (x2 := x2) (n := n)
    (by omega) (by decide) (by decide) (by decide)
  rw [major_32 lt em, decMaj32]
  simp only [onlyIf_true, g14, g8, g2, g20, fx_true g0]

theorem rteRole : ∀ x0 x1 x2, Statement (.rteRole x0 x1 x2) := by
  intro x0 x1 x2 w h
  have h' : some (BitVec.ofNat 32 (3359637504 + 16384 * x0.toNat + 256 * x1.toNat + 4 * x2.toNat)) = some w := h
  cases h'
  generalize hn : 3359637504 + 16384 * x0.toNat + 256 * x1.toNat + 4 * x2.toNat = n
  obtain ⟨lt, em, g20, g14, g8, g2, g0⟩ := shape34 (c0 := 50) (c1 := 4) (c2 := 0) (x0 := x0) (x1 := x1) (x2 := x2) (n := n)
    (by omega) (by decide) (by decide) (by decide)
  rw [major_32 lt em, decMaj32]
  simp only [onlyIf_true, g14, g8, g2, g20, fx_true g0]

theorem rteQ : ∀ x0 x1 x2, Statement (.rteQ x0 x1 x2) := by
  intro x0 x1 x2 w h
  have h' : some (BitVec.ofNat 32 (3360686080 + 16384 * x0.toNat + 256 * x1.toNat + x2.toNat)) = some w := h
  cases h'
  generalize hn : 3360686080 + 16384 * x0.toNat + 256 * x1.toNat + x2.toNat = n
  obtain ⟨lt, em, g20, g14, g8, g2, g0⟩ := shape49 (c0 := 50) (c1 := 5) (c2 := 0) (x0 := x0) (x1 := x1) (x2 := x2) (n := n)
    (by omega) (by decide) (by decide) (by decide)
  rw [major_32 lt em, decMaj32]
  simp only [onlyIf_true, g14, g8, g0, g20, fx_true g2]

theorem rteSync : ∀ x0 x1, Statement (.rteSync x0 x1) := by
  intro x0 x1 w h
  have h' : some (BitVec.ofNat 32 (3361734656 + 65536 * x0.toNat + 1024 * x1.toNat)) = some w := h
  cases h'
  generalize hn : 3361734656 + 65536 * x0.toNat + 1024 * x1.toNat = n
  obtain ⟨lt, em, g20, g16, g10, g0⟩ := shape50 (c0 := 50) (c1 := 6) (c2 := 0) (x0 := x0) (x1 := x1) (n := n)
    (by omega) (by decide) (by decide) (by decide)
  rw [major_32 lt em, decMaj32]
  simp only [onlyIf_true, g16, g10, g20, fx_true g0]

theorem cobjDecl : ∀ x0 x1 x2, Statement (.cobjDecl x0 x1 x2) := by
  intro x0 x1 x2 w h
  have h' : some (BitVec.ofNat 32 (3422552064 + 16384 * x0.toNat + 256 * x1.toNat + x2.toNat)) = some w := h
  cases h'
  generalize hn : 3422552064 + 16384 * x0.toNat + 256 * x1.toNat + x2.toNat = n
  obtain ⟨lt, em, g20, g14, g8, g0⟩ := shape36 (c0 := 51) (c1 := 0) (x0 := x0) (x1 := x1) (x2 := x2) (n := n)
    (by omega) (by decide) (by decide)
  rw [major_33 lt em, decMaj33]
  simp only [g14, g8, g0, g20]

theorem cobjDrop : ∀ x0 x1, Statement (.cobjDrop x0 x1) := by
  intro x0 x1 w h
  have h' : some (BitVec.ofNat 32 (3423600640 + 16384 * x0.toNat + x1.toNat)) = some w := h
  cases h'
  generalize hn : 3423600640 + 16384 * x0.toNat + x1.toNat = n
  obtain ⟨lt, em, g20, g14, g8, g0⟩ := shape40 (c0 := 51) (c1 := 1) (c2 := 0) (x0 := x0) (x1 := x1) (n := n)
    (by omega) (by decide) (by decide) (by decide)
  rw [major_33 lt em, decMaj33]
  simp only [onlyIf_true, g14, g0, g20, fx_true g8]

theorem cobjSync : ∀ x0 x1, Statement (.cobjSync x0 x1) := by
  intro x0 x1 w h
  have h' : some (BitVec.ofNat 32 (3424649216 + 16384 * x0.toNat + x1.toNat)) = some w := h
  cases h'
  generalize hn : 3424649216 + 16384 * x0.toNat + x1.toNat = n
  obtain ⟨lt, em, g20, g14, g8, g0⟩ := shape40 (c0 := 51) (c1 := 2) (c2 := 0) (x0 := x0) (x1 := x1) (n := n)
    (by omega) (by decide) (by decide) (by decide)
  rw [major_33 lt em, decMaj33]
  simp only [Bool.and_false, Bool.and_self, Bool.false_and, onlyIf_true, g14, g0, g20, fx_true g8]
  rfl

theorem cobjSyncShared : ∀ x0 x1, Statement (.cobjSyncShared x0 x1) := by
  intro x0 x1 w h
  have h' : some (BitVec.ofNat 32 (3424649472 + 16384 * x0.toNat + x1.toNat)) = some w := h
  cases h'
  generalize hn : 3424649472 + 16384 * x0.toNat + x1.toNat = n
  obtain ⟨lt, em, g20, g14, g8, g0⟩ := shape40 (c0 := 51) (c1 := 2) (c2 := 1) (x0 := x0) (x1 := x1) (n := n)
    (by omega) (by decide) (by decide) (by decide)
  rw [major_33 lt em, decMaj33]
  simp only [Bool.and_false, Bool.and_self, Bool.false_and, onlyIf_false, onlyIf_true, g14, g0, g20, (fx_false (by rw [g8]; decide) : fx n 8 6 0 = false), fx_true g8]
  rfl

theorem cobjReclaim : ∀ x0 x1, Statement (.cobjReclaim x0 x1) := by
  intro x0 x1 w h
  have h' : some (BitVec.ofNat 32 (3425697792 + 16384 * x0.toNat + x1.toNat)) = some w := h
  cases h'
  generalize hn : 3425697792 + 16384 * x0.toNat + x1.toNat = n
  obtain ⟨lt, em, g20, g14, g8, g0⟩ := shape40 (c0 := 51) (c1 := 3) (c2 := 0) (x0 := x0) (x1 := x1) (n := n)
    (by omega) (by decide) (by decide) (by decide)
  rw [major_33 lt em, decMaj33]
  simp only [onlyIf_true, g14, g0, g20, fx_true g8]

theorem tdtSet : ∀ x0 x1 x2, Statement (.tdtSet x0 x1 x2) := by
  intro x0 x1 x2 w h
  have h' : some (BitVec.ofNat 32 (3426746368 + 16384 * x0.toNat + 256 * x1.toNat + x2.toNat)) = some w := h
  cases h'
  generalize hn : 3426746368 + 16384 * x0.toNat + 256 * x1.toNat + x2.toNat = n
  obtain ⟨lt, em, g20, g14, g8, g7, g0⟩ := shape51 (c0 := 51) (c1 := 4) (c2 := 0) (x0 := x0) (x1 := x1) (x2 := x2) (n := n)
    (by omega) (by decide) (by decide) (by decide)
  rw [major_33 lt em, decMaj33]
  simp only [onlyIf_true, g14, g8, g0, g20, fx_true g7]

theorem tdtGet : ∀ x0 x1 x2, Statement (.tdtGet x0 x1 x2) := by
  intro x0 x1 x2 w h
  have h' : some (BitVec.ofNat 32 (3427794944 + 16384 * x0.toNat + 2048 * x1.toNat + x2.toNat)) = some w := h
  cases h'
  generalize hn : 3427794944 + 16384 * x0.toNat + 2048 * x1.toNat + x2.toNat = n
  obtain ⟨lt, em, g20, g14, g11, g7, g0⟩ := shape52 (c0 := 51) (c1 := 5) (c2 := 0) (x0 := x0) (x1 := x1) (x2 := x2) (n := n)
    (by omega) (by decide) (by decide) (by decide)
  rw [major_33 lt em, decMaj33]
  simp only [onlyIf_true, g14, g11, g0, g20, fx_true g7]

theorem tdtDrop : ∀ x0, Statement (.tdtDrop x0) := by
  intro x0 w h
  have h' : some (BitVec.ofNat 32 (3428843520 + x0.toNat)) = some w := h
  cases h'
  generalize hn : 3428843520 + x0.toNat = n
  obtain ⟨lt, em, g20, g7, g0⟩ := shape53 (c0 := 51) (c1 := 6) (c2 := 0) (x0 := x0) (n := n)
    (by omega) (by decide) (by decide) (by decide)
  rw [major_33 lt em, decMaj33]
  simp only [onlyIf_true, g0, g20, fx_true g7]

theorem treeSet : ∀ x0 x1 x2, Statement (.treeSet x0 x1 x2) := by
  intro x0 x1 x2 w h
  have h' : some (BitVec.ofNat 32 (3429892096 + 16384 * x0.toNat + 256 * x1.toNat + x2.toNat)) = some w := h
  cases h'
  generalize hn : 3429892096 + 16384 * x0.toNat + 256 * x1.toNat + x2.toNat = n
  obtain ⟨lt, em, g20, g14, g8, g0⟩ := shape36 (c0 := 51) (c1 := 7) (x0 := x0) (x1 := x1) (x2 := x2) (n := n)
    (by omega) (by decide) (by decide)
  rw [major_33 lt em, decMaj33]
  simp only [g14, g8, g0, g20]

theorem launch : ∀ x0 x1, Statement (.launch x0 x1) := by
  intro x0 x1 w h
  have h' : some (BitVec.ofNat 32 (3489660928 + 16384 * x0.toNat + 256 * x1.toNat)) = some w := h
  cases h'
  generalize hn : 3489660928 + 16384 * x0.toNat + 256 * x1.toNat = n
  obtain ⟨lt, em, g20, g14, g8, g0⟩ := shape21 (c0 := 52) (c1 := 0) (c2 := 0) (x0 := x0) (x1 := x1) (n := n)
    (by omega) (by decide) (by decide) (by decide)
  rw [major_34 lt em, decMaj34]
  simp only [onlyIf_true, g14, g8, g20, fx_true g0]

theorem wlPush : ∀ x0 x1 x2, Statement (.wlPush x0 x1 x2) := by
  intro x0 x1 x2 w h
  have h' : some (BitVec.ofNat 32 (3490709504 + 16384 * x0.toNat + 128 * x1.toNat + 2 * x2.toNat)) = some w := h
  cases h'
  generalize hn : 3490709504 + 16384 * x0.toNat + 128 * x1.toNat + 2 * x2.toNat = n
  obtain ⟨lt, em, g20, g14, g7, g1, g0⟩ := shape54 (c0 := 52) (c1 := 1) (c2 := 0) (x0 := x0) (x1 := x1) (x2 := x2) (n := n)
    (by omega) (by decide) (by decide) (by decide)
  rw [major_34 lt em, decMaj34]
  simp only [onlyIf_true, g14, g7, g1, g20, fx_true g0]

theorem wlPop : ∀ x0 x1 x2 x3, Statement (.wlPop x0 x1 x2 x3) := by
  intro x0 x1 x2 x3 w h
  have h' : some (BitVec.ofNat 32 (3491758080 + 8192 * x0.toNat + 128 * x1.toNat + 2 * x2.toNat + x3.toNat)) = some w := h
  cases h'
  generalize hn : 3491758080 + 8192 * x0.toNat + 128 * x1.toNat + 2 * x2.toNat + x3.toNat = n
  obtain ⟨lt, em, g20, g13, g7, g1, g0⟩ := shape55 (c0 := 52) (c1 := 2) (x0 := x0) (x1 := x1) (x2 := x2) (x3 := x3) (n := n)
    (by omega) (by decide) (by decide)
  rw [major_34 lt em, decMaj34]
  simp only [g13, g7, g1, g0, g20]

theorem wlDone : ∀ x0, Statement (.wlDone x0) := by
  intro x0 w h
  have h' : some (BitVec.ofNat 32 (3492806656 + x0.toNat)) = some w := h
  cases h'
  generalize hn : 3492806656 + x0.toNat = n
  obtain ⟨lt, em, g20, g6, g0⟩ := shape56 (c0 := 52) (c1 := 3) (c2 := 0) (x0 := x0) (n := n)
    (by omega) (by decide) (by decide) (by decide)
  rw [major_34 lt em, decMaj34]
  simp only [onlyIf_true, g0, g20, fx_true g6]

theorem tierRec : ∀ x0 x1 x2, Statement (.tierRec x0 x1 x2) := by
  intro x0 x1 x2 w h
  have h' : some (BitVec.ofNat 32 (3493855232 + 16384 * x0.toNat + 256 * x1.toNat + 4 * x2.toNat)) = some w := h
  cases h'
  generalize hn : 3493855232 + 16384 * x0.toNat + 256 * x1.toNat + 4 * x2.toNat = n
  obtain ⟨lt, em, g20, g14, g8, g2, g0⟩ := shape34 (c0 := 52) (c1 := 4) (c2 := 0) (x0 := x0) (x1 := x1) (x2 := x2) (n := n)
    (by omega) (by decide) (by decide) (by decide)
  rw [major_34 lt em, decMaj34]
  simp only [onlyIf_true, g14, g8, g2, g20, fx_true g0]

theorem tierHintUp : ∀ x0 x1 x2, Statement (.tierHintUp x0 x1 x2) := by
  intro x0 x1 x2 w h
  have h' : some (BitVec.ofNat 32 (3494903808 + 16384 * x0.toNat + 256 * x1.toNat + 4 * x2.toNat)) = some w := h
  cases h'
  generalize hn : 3494903808 + 16384 * x0.toNat + 256 * x1.toNat + 4 * x2.toNat = n
  obtain ⟨lt, em, g20, g14, g8, g2, g0⟩ := shape34 (c0 := 52) (c1 := 5) (c2 := 0) (x0 := x0) (x1 := x1) (x2 := x2) (n := n)
    (by omega) (by decide) (by decide) (by decide)
  rw [major_34 lt em, decMaj34]
  simp only [Bool.and_false, Bool.and_self, Bool.false_and, onlyIf_true, g14, g8, g2, g20, fx_true g0]
  rfl

theorem tierHintDown : ∀ x0 x1 x2, Statement (.tierHintDown x0 x1 x2) := by
  intro x0 x1 x2 w h
  have h' : some (BitVec.ofNat 32 (3494903809 + 16384 * x0.toNat + 256 * x1.toNat + 4 * x2.toNat)) = some w := h
  cases h'
  generalize hn : 3494903809 + 16384 * x0.toNat + 256 * x1.toNat + 4 * x2.toNat = n
  obtain ⟨lt, em, g20, g14, g8, g2, g0⟩ := shape34 (c0 := 52) (c1 := 5) (c2 := 1) (x0 := x0) (x1 := x1) (x2 := x2) (n := n)
    (by omega) (by decide) (by decide) (by decide)
  rw [major_34 lt em, decMaj34]
  simp only [Bool.and_false, Bool.and_self, Bool.false_and, onlyIf_false, onlyIf_true, g14, g8, g2, g20, (fx_false (by rw [g0]; decide) : fx n 0 2 0 = false), fx_true g0]
  rfl

theorem tierQ : ∀ x0 x1, Statement (.tierQ x0 x1) := by
  intro x0 x1 w h
  have h' : some (BitVec.ofNat 32 (3495952384 + 16384 * x0.toNat + 256 * x1.toNat)) = some w := h
  cases h'
  generalize hn : 3495952384 + 16384 * x0.toNat + 256 * x1.toNat = n
  obtain ⟨lt, em, g20, g14, g8, g0⟩ := shape21 (c0 := 52) (c1 := 6) (c2 := 0) (x0 := x0) (x1 := x1) (n := n)
    (by omega) (by decide) (by decide) (by decide)
  rw [major_34 lt em, decMaj34]
  simp only [onlyIf_true, g14, g8, g20, fx_true g0]

theorem waitc : ∀ x0 x1 x2, Statement (.waitc x0 x1 x2) := by
  intro x0 x1 x2 w h
  have h' : some (BitVec.ofNat 32 (3556769792 + 16384 * x0.toNat + 256 * x1.toNat + 4 * x2.toNat)) = some w := h
  cases h'
  generalize hn : 3556769792 + 16384 * x0.toNat + 256 * x1.toNat + 4 * x2.toNat = n
  obtain ⟨lt, em, g20, g14, g8, g2, g0⟩ := shape34 (c0 := 53) (c1 := 0) (c2 := 0) (x0 := x0) (x1 := x1) (x2 := x2) (n := n)
    (by omega) (by decide) (by decide) (by decide)
  rw [major_35 lt em, decMaj35]
  simp only [onlyIf_true, g14, g8, g2, g20, fx_true g0]

theorem waitF : ∀ x0, Statement (.waitF x0) := by
  intro x0 w h
  have h' : some (BitVec.ofNat 32 (3557818368 + x0.toNat)) = some w := h
  cases h'
  generalize hn : 3557818368 + x0.toNat = n
  obtain ⟨lt, em, g20, g12, g0⟩ := shape39 (c0 := 53) (c1 := 1) (c2 := 0) (x0 := x0) (n := n)
    (by omega) (by decide) (by decide) (by decide)
  rw [major_35 lt em, decMaj35]
  simp only [onlyIf_true, g0, g20, fx_true g12]

theorem bar : ∀ x0 x1, Statement (.bar x0 x1) := by
  intro x0 x1 w h
  have h' : some (BitVec.ofNat 32 (3558866944 + 131072 * x0.toNat + 65536 * x1.toNat)) = some w := h
  cases h'
  generalize hn : 3558866944 + 131072 * x0.toNat + 65536 * x1.toNat = n
  obtain ⟨lt, em, g20, g17, g16, g0⟩ := shape57 (c0 := 53) (c1 := 2) (c2 := 0) (x0 := x0) (x1 := x1) (n := n)
    (by omega) (by decide) (by decide) (by decide)
  rw [major_35 lt em, decMaj35]
  simp only [onlyIf_true, g17, g16, g20, fx_true g0]

theorem pcrd : ∀ x0 x1, Statement (.pcrd x0 x1) := by
  intro x0 x1 w h
  have h' : some (BitVec.ofNat 32 (3559915520 + 16384 * x0.toNat + x1.toNat)) = some w := h
  cases h'
  generalize hn : 3559915520 + 16384 * x0.toNat + x1.toNat = n
  obtain ⟨lt, em, g20, g14, g12, g0⟩ := shape38 (c0 := 53) (c1 := 3) (c2 := 0) (x0 := x0) (x1 := x1) (n := n)
    (by omega) (by decide) (by decide) (by decide)
  rw [major_35 lt em, decMaj35]
  simp only [onlyIf_true, g14, g0, g20, fx_true g12]

theorem trap : ∀ x0, Statement (.trap x0) := by
  intro x0 w h
  have h' : some (BitVec.ofNat 32 (3623878656 + x0.toNat)) = some w := h
  cases h'
  generalize hn : 3623878656 + x0.toNat = n
  obtain ⟨lt, em, g20, g16, g0⟩ := shape58 (c0 := 54) (c1 := 0) (c2 := 0) (x0 := x0) (n := n)
    (by omega) (by decide) (by decide) (by decide)
  rw [major_36 lt em, decMaj36]
  simp only [onlyIf_true, g0, g20, fx_true g16]

theorem rcp : ∀ x0, Statement (.rcp x0) := by
  intro x0 w h
  have h' : some (BitVec.ofNat 32 (3625975808 + x0.toNat)) = some w := h
  cases h'
  generalize hn : 3625975808 + x0.toNat = n
  obtain ⟨lt, em, g20, g12, g0⟩ := shape39 (c0 := 54) (c1 := 2) (c2 := 0) (x0 := x0) (n := n)
    (by omega) (by decide) (by decide) (by decide)
  rw [major_36 lt em, decMaj36]
  simp only [onlyIf_true, g0, g20, fx_true g12]

theorem sysrd : ∀ x0 x1, Statement (.sysrd x0 x1) := by
  intro x0 x1 w h
  have h' : some (BitVec.ofNat 32 (3628072960 + 16384 * x0.toNat + x1.toNat)) = some w := h
  cases h'
  generalize hn : 3628072960 + 16384 * x0.toNat + x1.toNat = n
  obtain ⟨lt, em, g20, g14, g12, g0⟩ := shape38 (c0 := 54) (c1 := 4) (c2 := 0) (x0 := x0) (x1 := x1) (n := n)
    (by omega) (by decide) (by decide) (by decide)
  rw [major_36 lt em, decMaj36]
  simp only [onlyIf_true, g14, g0, g20, fx_true g12]

theorem syswr : ∀ x0 x1, Statement (.syswr x0 x1) := by
  intro x0 x1 w h
  have h' : some (BitVec.ofNat 32 (3629121536 + 8192 * x0.toNat + x1.toNat)) = some w := h
  cases h'
  generalize hn : 3629121536 + 8192 * x0.toNat + x1.toNat = n
  obtain ⟨lt, em, g20, g13, g12, g0⟩ := shape59 (c0 := 54) (c1 := 5) (c2 := 0) (x0 := x0) (x1 := x1) (n := n)
    (by omega) (by decide) (by decide) (by decide)
  rw [major_36 lt em, decMaj36]
  simp only [onlyIf_true, g13, g0, g20, fx_true g12]

theorem halt : ∀ x0 x1, Statement (.halt x0 x1) := by
  intro x0 x1 w h
  have h' : some (BitVec.ofNat 32 (3630170112 + 16384 * x0.toNat + 256 * x1.toNat)) = some w := h
  cases h'
  generalize hn : 3630170112 + 16384 * x0.toNat + 256 * x1.toNat = n
  obtain ⟨lt, em, g20, g14, g8, g0⟩ := shape21 (c0 := 54) (c1 := 6) (c2 := 0) (x0 := x0) (x1 := x1) (n := n)
    (by omega) (by decide) (by decide) (by decide)
  rw [major_36 lt em, decMaj36]
  simp only [onlyIf_true, g14, g8, g20, fx_true g0]

theorem hintLit : ∀ x0, Statement (.hintLit x0) := by
  intro x0 w h
  have h' : some (BitVec.ofNat 32 (4160749568 + x0.toNat)) = some w := h
  cases h'
  generalize hn : 4160749568 + x0.toNat = n
  obtain ⟨lt, em, g24, g22, g0⟩ := shape60 (c0 := 62) (c1 := 0) (c2 := 0) (x0 := x0) (n := n)
    (by omega) (by decide) (by decide) (by decide)
  rw [major_3E lt em, decMaj3E]
  simp only [Bool.and_false, Bool.and_self, Bool.false_and, onlyIf_true, g0, g24, fx_true g22]
  rfl

theorem hintLith : ∀ x0, Statement (.hintLith x0) := by
  intro x0 w h
  have h' : some (BitVec.ofNat 32 (4164943872 + x0.toNat)) = some w := h
  cases h'
  generalize hn : 4164943872 + x0.toNat = n
  obtain ⟨lt, em, g24, g22, g0⟩ := shape60 (c0 := 62) (c1 := 0) (c2 := 1) (x0 := x0) (n := n)
    (by omega) (by decide) (by decide) (by decide)
  rw [major_3E lt em, decMaj3E]
  simp only [Bool.and_false, Bool.and_self, Bool.false_and, onlyIf_false, onlyIf_true, g0, g24, (fx_false (by rw [g22]; decide) : fx n 22 2 0 = false), fx_true g22]
  rfl

theorem hintDly : ∀ x0, Statement (.hintDly x0) := by
  intro x0 w h
  have h' : some (BitVec.ofNat 32 (4169138176 + x0.toNat)) = some w := h
  cases h'
  have l_x0 := x0.isLt
  generalize hn : 4169138176 + x0.toNat = n
  rw [major_3E (by omega) (by omega), decMaj3E]
  simp only [Bool.and_false, Bool.and_self, Bool.false_and, onlyIf_false, onlyIf_true, (show n / 2 ^ 24 % 2 ^ 2 = 0 by show n / 16777216 % 4 = 0; omega), (fx_false (by show ¬ n / 4194304 % 4 = 0; omega) : fx n 22 2 0 = false), (fx_false (by show ¬ n / 4194304 % 4 = 1; omega) : fx n 22 2 1 = false), (fx_true (by show n / 64 % 262144 = 131072; omega) : fx n 6 18 131072 = true), (bf_eq (by show n / 1 % 64 = x0.toNat; omega) : bf 6 n 0 = x0)]
  rfl

theorem hintFlg : ∀ x0, Statement (.hintFlg x0) := by
  intro x0 w h
  have h' : some (BitVec.ofNat 32 (4173332480 + x0.toNat)) = some w := h
  cases h'
  have l_x0 := x0.isLt
  generalize hn : 4173332480 + x0.toNat = n
  rw [major_3E (by omega) (by omega), decMaj3E]
  simp only [Bool.and_false, Bool.and_self, Bool.false_and, onlyIf_false, onlyIf_true, (show n / 2 ^ 24 % 2 ^ 2 = 0 by show n / 16777216 % 4 = 0; omega), (fx_false (by show ¬ n / 4194304 % 4 = 0; omega) : fx n 22 2 0 = false), (fx_false (by show ¬ n / 4194304 % 4 = 1; omega) : fx n 22 2 1 = false), (fx_false (by show ¬ n / 64 % 262144 = 131072; omega) : fx n 6 18 131072 = false), (fx_true (by show n / 4096 % 4096 = 3072; omega) : fx n 12 12 3072 = true), (bf_eq (by show n / 1 % 4096 = x0.toNat; omega) : bf 12 n 0 = x0)]
  rfl

theorem hintRnd : ∀ x0 x1 x2, Statement (.hintRnd x0 x1 x2) := by
  intro x0 x1 x2 w h
  have h' : some (BitVec.ofNat 32 (4181721088 + 16 * x0.toNat + 8 * x1.toNat + x2.toNat)) = some w := h
  cases h'
  have l_x0 := x0.isLt
  have l_x1 := x1.isLt
  have l_x2 := x2.isLt
  generalize hn : 4181721088 + 16 * x0.toNat + 8 * x1.toNat + x2.toNat = n
  rw [major_3E (by omega) (by omega), decMaj3E]
  simp only [Bool.and_false, Bool.and_self, Bool.false_and, onlyIf_false, onlyIf_true, (show n / 2 ^ 24 % 2 ^ 2 = 1 by show n / 16777216 % 4 = 1; omega), (fx_false (by show ¬ n / 16 % 1048576 = 0; omega) : fx n 4 20 0 = false), (fx_true (by show n / 64 % 262144 = 65536; omega) : fx n 6 18 65536 = true), (bf_eq (by show n / 16 % 4 = x0.toNat; omega) : bf 2 n 4 = x0), (bf_eq (by show n / 8 % 2 = x1.toNat; omega) : bf 1 n 3 = x1), (bf_eq (by show n / 1 % 8 = x2.toNat; omega) : bf 3 n 0 = x2)]
  rfl

theorem hintScp : ∀ x0 x1, Statement (.hintScp x0 x1) := by
  intro x0 x1 w h
  have h' : some (BitVec.ofNat 32 (4190109696 + 4 * x0.toNat + x1.toNat)) = some w := h
  cases h'
  have l_x0 := x0.isLt
  have l_x1 := x1.isLt
  generalize hn : 4190109696 + 4 * x0.toNat + x1.toNat = n
  rw [major_3E (by omega) (by omega), decMaj3E]
  simp only [Bool.and_false, Bool.and_self, Bool.false_and, onlyIf_false, onlyIf_true, (show n / 2 ^ 24 % 2 ^ 2 = 1 by show n / 16777216 % 4 = 1; omega), (fx_false (by show ¬ n / 16 % 1048576 = 0; omega) : fx n 4 20 0 = false), (fx_false (by show ¬ n / 64 % 262144 = 65536; omega) : fx n 6 18 65536 = false), (fx_false (by show ¬ n / 4 % 4194304 = 2097152; omega) : fx n 2 22 2097152 = false), (fx_true (by show n / 64 % 262144 = 196608; omega) : fx n 6 18 196608 = true), (bf_eq (by show n / 4 % 16 = x0.toNat; omega) : bf 4 n 2 = x0), (bf_eq (by show n / 1 % 4 = x1.toNat; omega) : bf 2 n 0 = x1)]
  rfl

theorem hintNop : ∀ x0 x1, Statement (.hintNop x0 x1) := by
  intro x0 x1 w h
  have h' : some (BitVec.ofNat 32 (4211081216 + 4194304 * x0.toNat + x1.toNat)) = some w := h
  cases h'
  generalize hn : 4211081216 + 4194304 * x0.toNat + x1.toNat = n
  obtain ⟨lt, em, g24, g22, g0⟩ := shape61 (c0 := 62) (c1 := 3) (x0 := x0) (x1 := x1) (n := n)
    (by omega) (by decide) (by decide)
  rw [major_3E lt em, decMaj3E]
  simp only [g22, g0, g24]

theorem nop : Statement .nop := by
  intro w h; cases h; rfl

theorem join : Statement .join := by
  intro w h; cases h; rfl

theorem exit : Statement .exit := by
  intro w h; cases h; rfl

theorem mresume : Statement .mresume := by
  intro w h; cases h; rfl

theorem mresumeAbandon : Statement .mresumeAbandon := by
  intro w h; cases h; rfl

theorem tret : Statement .tret := by
  intro w h; cases h; rfl

theorem yield : Statement .yield := by
  intro w h; cases h; rfl

theorem fenceAcq0 : Statement .fenceAcq0 := by
  intro w h; cases h; rfl

theorem fenceAcq1 : Statement .fenceAcq1 := by
  intro w h; cases h; rfl

theorem fenceAcq2 : Statement .fenceAcq2 := by
  intro w h; cases h; rfl

theorem fenceAcq3 : Statement .fenceAcq3 := by
  intro w h; cases h; rfl

theorem fenceAcq4 : Statement .fenceAcq4 := by
  intro w h; cases h; rfl

theorem fenceAcq5 : Statement .fenceAcq5 := by
  intro w h; cases h; rfl

theorem fenceAcq6 : Statement .fenceAcq6 := by
  intro w h; cases h; rfl

theorem fenceAcq7 : Statement .fenceAcq7 := by
  intro w h; cases h; rfl

theorem fenceAcq8 : Statement .fenceAcq8 := by
  intro w h; cases h; rfl

theorem fenceAcq9 : Statement .fenceAcq9 := by
  intro w h; cases h; rfl

theorem fenceAcq10 : Statement .fenceAcq10 := by
  intro w h; cases h; rfl

theorem fenceAcq11 : Statement .fenceAcq11 := by
  intro w h; cases h; rfl

theorem fenceAcq12 : Statement .fenceAcq12 := by
  intro w h; cases h; rfl

theorem fenceAcq13 : Statement .fenceAcq13 := by
  intro w h; cases h; rfl

theorem fenceAcq14 : Statement .fenceAcq14 := by
  intro w h; cases h; rfl

theorem fenceAcq15 : Statement .fenceAcq15 := by
  intro w h; cases h; rfl

theorem hintMsk0 : Statement .hintMsk0 := by
  intro w h; cases h; rfl

theorem hintMsk1 : Statement .hintMsk1 := by
  intro w h; cases h; rfl

theorem hintMsk2 : Statement .hintMsk2 := by
  intro w h; cases h; rfl

theorem hintMsk3 : Statement .hintMsk3 := by
  intro w h; cases h; rfl

theorem hintMsk4 : Statement .hintMsk4 := by
  intro w h; cases h; rfl

theorem hintMsk5 : Statement .hintMsk5 := by
  intro w h; cases h; rfl

theorem hintMsk6 : Statement .hintMsk6 := by
  intro w h; cases h; rfl

theorem hintMsk7 : Statement .hintMsk7 := by
  intro w h; cases h; rfl

theorem hintMsk8 : Statement .hintMsk8 := by
  intro w h; cases h; rfl

theorem hintMsk9 : Statement .hintMsk9 := by
  intro w h; cases h; rfl

theorem hintMsk10 : Statement .hintMsk10 := by
  intro w h; cases h; rfl

theorem hintMsk11 : Statement .hintMsk11 := by
  intro w h; cases h; rfl

theorem hintMsk12 : Statement .hintMsk12 := by
  intro w h; cases h; rfl

theorem hintMsk13 : Statement .hintMsk13 := by
  intro w h; cases h; rfl

theorem hintMsk14 : Statement .hintMsk14 := by
  intro w h; cases h; rfl

theorem hintMsk15 : Statement .hintMsk15 := by
  intro w h; cases h; rfl

theorem hintRet0 : Statement .hintRet0 := by
  intro w h; cases h; rfl

theorem hintRet1 : Statement .hintRet1 := by
  intro w h; cases h; rfl

theorem hintRet2 : Statement .hintRet2 := by
  intro w h; cases h; rfl

theorem hintRet3 : Statement .hintRet3 := by
  intro w h; cases h; rfl

theorem groupTurn : Statement .groupTurn := by
  intro w h; exact nomatch (show (none : Option Word) = some w from h)

theorem multiTurnComplete : ∀ x0 x1, Statement (.multiTurnComplete x0 x1) := by
  intros; intro w h; exact nomatch (show (none : Option Word) = some w from h)

theorem blockClearComplete : ∀ x0, Statement (.blockClearComplete x0) := by
  intros; intro w h; exact nomatch (show (none : Option Word) = some w from h)

theorem groupRelease : ∀ x0, Statement (.groupRelease x0) := by
  intros; intro w h; exact nomatch (show (none : Option Word) = some w from h)

theorem stallTimeout : ∀ x0 x1, Statement (.stallTimeout x0 x1) := by
  intros; intro w h; exact nomatch (show (none : Option Word) = some w from h)

theorem hurdlePass : ∀ x0, Statement (.hurdlePass x0) := by
  intros; intro w h; exact nomatch (show (none : Option Word) = some w from h)

theorem groupPlacement : ∀ x0 x1, Statement (.groupPlacement x0 x1) := by
  intros; intro w h; exact nomatch (show (none : Option Word) = some w from h)

theorem gangAgeExpire : ∀ x0, Statement (.gangAgeExpire x0) := by
  intros; intro w h; exact nomatch (show (none : Option Word) = some w from h)

theorem recordDone : ∀ x0, Statement (.recordDone x0) := by
  intros; intro w h; exact nomatch (show (none : Option Word) = some w from h)

theorem completionStore : ∀ x0, Statement (.completionStore x0) := by
  intros; intro w h; exact nomatch (show (none : Option Word) = some w from h)

theorem translationWalk : ∀ x0 x1 x2 x3, Statement (.translationWalk x0 x1 x2 x3) := by
  intros; intro w h; exact nomatch (show (none : Option Word) = some w from h)

theorem tinvComplete : ∀ x0, Statement (.tinvComplete x0) := by
  intros; intro w h; exact nomatch (show (none : Option Word) = some w from h)

theorem storeBufferDrain : ∀ x0, Statement (.storeBufferDrain x0) := by
  intros; intro w h; exact nomatch (show (none : Option Word) = some w from h)

theorem writeApply : ∀ x0, Statement (.writeApply x0) := by
  intros; intro w h; exact nomatch (show (none : Option Word) = some w from h)

theorem writeReadable : ∀ x0, Statement (.writeReadable x0) := by
  intros; intro w h; exact nomatch (show (none : Option Word) = some w from h)

theorem applyNotice : ∀ x0, Statement (.applyNotice x0) := by
  intros; intro w h; exact nomatch (show (none : Option Word) = some w from h)

theorem echoReceive : ∀ x0, Statement (.echoReceive x0) := by
  intros; intro w h; exact nomatch (show (none : Option Word) = some w from h)

theorem fillWrite : ∀ x0, Statement (.fillWrite x0) := by
  intros; intro w h; exact nomatch (show (none : Option Word) = some w from h)

theorem echoAckReceive : ∀ x0, Statement (.echoAckReceive x0) := by
  intros; intro w h; exact nomatch (show (none : Option Word) = some w from h)

theorem echoDeadline : ∀ x0, Statement (.echoDeadline x0) := by
  intros; intro w h; exact nomatch (show (none : Option Word) = some w from h)

theorem leaseRenewal : ∀ x0, Statement (.leaseRenewal x0) := by
  intros; intro w h; exact nomatch (show (none : Option Word) = some w from h)

theorem renewalReceive : ∀ x0, Statement (.renewalReceive x0) := by
  intros; intro w h; exact nomatch (show (none : Option Word) = some w from h)

theorem leaseEnd : ∀ x0 x1, Statement (.leaseEnd x0 x1) := by
  intros; intro w h; exact nomatch (show (none : Option Word) = some w from h)

theorem readRequest : ∀ x0, Statement (.readRequest x0) := by
  intros; intro w h; exact nomatch (show (none : Option Word) = some w from h)

theorem refusalReroute : ∀ x0, Statement (.refusalReroute x0) := by
  intros; intro w h; exact nomatch (show (none : Option Word) = some w from h)

theorem loadComplete : ∀ x0, Statement (.loadComplete x0) := by
  intros; intro w h; exact nomatch (show (none : Option Word) = some w from h)

theorem storeResponse : ∀ x0, Statement (.storeResponse x0) := by
  intros; intro w h; exact nomatch (show (none : Option Word) = some w from h)

theorem invalidate : ∀ x0, Statement (.invalidate x0) := by
  intros; intro w h; exact nomatch (show (none : Option Word) = some w from h)

theorem relayReceive : ∀ x0 x1, Statement (.relayReceive x0 x1) := by
  intros; intro w h; exact nomatch (show (none : Option Word) = some w from h)

theorem relayRefusal : ∀ x0 x1 x2, Statement (.relayRefusal x0 x1 x2) := by
  intros; intro w h; exact nomatch (show (none : Option Word) = some w from h)

theorem routerAnswer : ∀ x0 x1, Statement (.routerAnswer x0 x1) := by
  intros; intro w h; exact nomatch (show (none : Option Word) = some w from h)

theorem rteSyncDone : ∀ x0 x1, Statement (.rteSyncDone x0 x1) := by
  intros; intro w h; exact nomatch (show (none : Option Word) = some w from h)

theorem holderAbsent : ∀ x0 x1, Statement (.holderAbsent x0 x1) := by
  intros; intro w h; exact nomatch (show (none : Option Word) = some w from h)

theorem cobjDirectoryRequest : ∀ x0 x1, Statement (.cobjDirectoryRequest x0 x1) := by
  intros; intro w h; exact nomatch (show (none : Option Word) = some w from h)

theorem partialFold : ∀ x0 x1 x2, Statement (.partialFold x0 x1 x2) := by
  intros; intro w h; exact nomatch (show (none : Option Word) = some w from h)

theorem mergeChildArrive : ∀ x0 x1, Statement (.mergeChildArrive x0 x1) := by
  intros; intro w h; exact nomatch (show (none : Option Word) = some w from h)

theorem mergeNodeTimeout : ∀ x0 x1 x2, Statement (.mergeNodeTimeout x0 x1 x2) := by
  intros; intro w h; exact nomatch (show (none : Option Word) = some w from h)

theorem snoopRetry : ∀ x0, Statement (.snoopRetry x0) := by
  intros; intro w h; exact nomatch (show (none : Option Word) = some w from h)

theorem snoopTimeout : ∀ x0, Statement (.snoopTimeout x0) := by
  intros; intro w h; exact nomatch (show (none : Option Word) = some w from h)

theorem multicastForward : ∀ x0 x1, Statement (.multicastForward x0 x1) := by
  intros; intro w h; exact nomatch (show (none : Option Word) = some w from h)

theorem auditIntervalEnd : ∀ x0 x1, Statement (.auditIntervalEnd x0 x1) := by
  intros; intro w h; exact nomatch (show (none : Option Word) = some w from h)

theorem copyStart : ∀ x0, Statement (.copyStart x0) := by
  intros; intro w h; exact nomatch (show (none : Option Word) = some w from h)

theorem copyComplete : ∀ x0, Statement (.copyComplete x0) := by
  intros; intro w h; exact nomatch (show (none : Option Word) = some w from h)

theorem copyFault : ∀ x0, Statement (.copyFault x0) := by
  intros; intro w h; exact nomatch (show (none : Option Word) = some w from h)

theorem matrixCommandComplete : ∀ x0, Statement (.matrixCommandComplete x0) := by
  intros; intro w h; exact nomatch (show (none : Option Word) = some w from h)

theorem matrixCommandFault : ∀ x0, Statement (.matrixCommandFault x0) := by
  intros; intro w h; exact nomatch (show (none : Option Word) = some w from h)

theorem ringKick : ∀ x0, Statement (.ringKick x0) := by
  intros; intro w h; exact nomatch (show (none : Option Word) = some w from h)

theorem ringReadSlot : ∀ x0, Statement (.ringReadSlot x0) := by
  intros; intro w h; exact nomatch (show (none : Option Word) = some w from h)

theorem ringRetry : ∀ x0, Statement (.ringRetry x0) := by
  intros; intro w h; exact nomatch (show (none : Option Word) = some w from h)

theorem contextSwitchOut : ∀ x0, Statement (.contextSwitchOut x0) := by
  intros; intro w h; exact nomatch (show (none : Option Word) = some w from h)

theorem tierMoveStart : Statement .tierMoveStart := by
  intro w h; exact nomatch (show (none : Option Word) = some w from h)

theorem tierAnnounceAnswer : ∀ x0 x1, Statement (.tierAnnounceAnswer x0 x1) := by
  intros; intro w h; exact nomatch (show (none : Option Word) = some w from h)

theorem tierFillDone : ∀ x0, Statement (.tierFillDone x0) := by
  intros; intro w h; exact nomatch (show (none : Option Word) = some w from h)

theorem tierHandoverAnswer : ∀ x0 x1, Statement (.tierHandoverAnswer x0 x1) := by
  intros; intro w h; exact nomatch (show (none : Option Word) = some w from h)

theorem tierMoveEnd : ∀ x0, Statement (.tierMoveEnd x0) := by
  intros; intro w h; exact nomatch (show (none : Option Word) = some w from h)

theorem tierFaultOffer : ∀ x0, Statement (.tierFaultOffer x0) := by
  intros; intro w h; exact nomatch (show (none : Option Word) = some w from h)

theorem announcementRequest : ∀ x0 x1 x2 x3, Statement (.announcementRequest x0 x1 x2 x3) := by
  intros; intro w h; exact nomatch (show (none : Option Word) = some w from h)

theorem announcementTimeout : ∀ x0, Statement (.announcementTimeout x0) := by
  intros; intro w h; exact nomatch (show (none : Option Word) = some w from h)

theorem faultRecordOffer : ∀ x0, Statement (.faultRecordOffer x0) := by
  intros; intro w h; exact nomatch (show (none : Option Word) = some w from h)

theorem longParkSwitchout : ∀ x0 x1, Statement (.longParkSwitchout x0 x1) := by
  intros; intro w h; exact nomatch (show (none : Option Word) = some w from h)

theorem sliceEnd : ∀ x0, Statement (.sliceEnd x0) := by
  intros; intro w h; exact nomatch (show (none : Option Word) = some w from h)

theorem graceEnd : ∀ x0, Statement (.graceEnd x0) := by
  intros; intro w h; exact nomatch (show (none : Option Word) = some w from h)

theorem deadlineExpire : ∀ x0, Statement (.deadlineExpire x0) := by
  intros; intro w h; exact nomatch (show (none : Option Word) = some w from h)

theorem resetComplete : ∀ x0, Statement (.resetComplete x0) := by
  intros; intro w h; exact nomatch (show (none : Option Word) = some w from h)

theorem contextResident : ∀ x0, Statement (.contextResident x0) := by
  intros; intro w h; exact nomatch (show (none : Option Word) = some w from h)

theorem flitReceive : ∀ x0 x1 x2, Statement (.flitReceive x0 x1 x2) := by
  intros; intro w h; exact nomatch (show (none : Option Word) = some w from h)

theorem laneSpare : ∀ x0 x1, Statement (.laneSpare x0 x1) := by
  intros; intro w h; exact nomatch (show (none : Option Word) = some w from h)

theorem linkFail : ∀ x0 x1, Statement (.linkFail x0 x1) := by
  intros; intro w h; exact nomatch (show (none : Option Word) = some w from h)

theorem linkUp : ∀ x0 x1 x2, Statement (.linkUp x0 x1 x2) := by
  intros; intro w h; exact nomatch (show (none : Option Word) = some w from h)

theorem sessionRekey : ∀ x0 x1, Statement (.sessionRekey x0 x1) := by
  intros; intro w h; exact nomatch (show (none : Option Word) = some w from h)

theorem hostSnoop : ∀ x0 x1, Statement (.hostSnoop x0 x1) := by
  intros; intro w h; exact nomatch (show (none : Option Word) = some w from h)

theorem hostMemRequest : ∀ x0, Statement (.hostMemRequest x0) := by
  intros; intro w h; exact nomatch (show (none : Option Word) = some w from h)

theorem powerOn : ∀ x0 x1, Statement (.powerOn x0 x1) := by
  intros; intro w h; exact nomatch (show (none : Option Word) = some w from h)

theorem attest : ∀ x0, Statement (.attest x0) := by
  intros; intro w h; exact nomatch (show (none : Option Word) = some w from h)

theorem worldCreate : ∀ x0, Statement (.worldCreate x0) := by
  intros; intro w h; exact nomatch (show (none : Option Word) = some w from h)

theorem worldGrant : ∀ x0, Statement (.worldGrant x0) := by
  intros; intro w h; exact nomatch (show (none : Option Word) = some w from h)

theorem worldRevoke : ∀ x0, Statement (.worldRevoke x0) := by
  intros; intro w h; exact nomatch (show (none : Option Word) = some w from h)

theorem worldDestroy : ∀ x0, Statement (.worldDestroy x0) := by
  intros; intro w h; exact nomatch (show (none : Option Word) = some w from h)

theorem partSet : ∀ x0, Statement (.partSet x0) := by
  intros; intro w h; exact nomatch (show (none : Option Word) = some w from h)

theorem ctxCreate : ∀ x0, Statement (.ctxCreate x0) := by
  intros; intro w h; exact nomatch (show (none : Option Word) = some w from h)

theorem ctxDestroy : ∀ x0, Statement (.ctxDestroy x0) := by
  intros; intro w h; exact nomatch (show (none : Option Word) = some w from h)

theorem ctxPreempt : ∀ x0, Statement (.ctxPreempt x0) := by
  intros; intro w h; exact nomatch (show (none : Option Word) = some w from h)

theorem ringSet : ∀ x0, Statement (.ringSet x0) := by
  intros; intro w h; exact nomatch (show (none : Option Word) = some w from h)

theorem ringKey : ∀ x0, Statement (.ringKey x0) := by
  intros; intro w h; exact nomatch (show (none : Option Word) = some w from h)

theorem powerCompare : ∀ x0 x1 x2 x3, Statement (.powerCompare x0 x1 x2 x3) := by
  intros; intro w h; exact nomatch (show (none : Option Word) = some w from h)

theorem trayRemoveRequest : Statement .trayRemoveRequest := by
  intro w h; exact nomatch (show (none : Option Word) = some w from h)

theorem trayCancel : Statement .trayCancel := by
  intro w h; exact nomatch (show (none : Option Word) = some w from h)

theorem trayQuiesce : Statement .trayQuiesce := by
  intro w h; exact nomatch (show (none : Option Word) = some w from h)

theorem trayPowerOff : Statement .trayPowerOff := by
  intro w h; exact nomatch (show (none : Option Word) = some w from h)

theorem trayInsert : Statement .trayInsert := by
  intro w h; exact nomatch (show (none : Option Word) = some w from h)

theorem wearUpdate : ∀ x0 x1 x2 x3, Statement (.wearUpdate x0 x1 x2 x3) := by
  intros; intro w h; exact nomatch (show (none : Option Word) = some w from h)

theorem partDescWrite : ∀ x0 x1, Statement (.partDescWrite x0 x1) := by
  intros; intro w h; exact nomatch (show (none : Option Word) = some w from h)

theorem tqWrite : ∀ x0 x1, Statement (.tqWrite x0 x1) := by
  intros; intro w h; exact nomatch (show (none : Option Word) = some w from h)

theorem rteCostWrite : ∀ x0, Statement (.rteCostWrite x0) := by
  intros; intro w h; exact nomatch (show (none : Option Word) = some w from h)

theorem cobjQWrite : ∀ x0 x1, Statement (.cobjQWrite x0 x1) := by
  intros; intro w h; exact nomatch (show (none : Option Word) = some w from h)

theorem wlCfgWrite : ∀ x0 x1 x2, Statement (.wlCfgWrite x0 x1 x2) := by
  intros; intro w h; exact nomatch (show (none : Option Word) = some w from h)

theorem wlReset : ∀ x0 x1, Statement (.wlReset x0 x1) := by
  intros; intro w h; exact nomatch (show (none : Option Word) = some w from h)

theorem ringBaseWrite : ∀ x0 x1, Statement (.ringBaseWrite x0 x1) := by
  intros; intro w h; exact nomatch (show (none : Option Word) = some w from h)

theorem ringCtlWrite : ∀ x0 x1, Statement (.ringCtlWrite x0 x1) := by
  intros; intro w h; exact nomatch (show (none : Option Word) = some w from h)

theorem ringEnable : ∀ x0 x1, Statement (.ringEnable x0 x1) := by
  intros; intro w h; exact nomatch (show (none : Option Word) = some w from h)

theorem ringDisable : ∀ x0, Statement (.ringDisable x0) := by
  intros; intro w h; exact nomatch (show (none : Option Word) = some w from h)

theorem tierCfgWrite : ∀ x0, Statement (.tierCfgWrite x0) := by
  intros; intro w h; exact nomatch (show (none : Option Word) = some w from h)

theorem fqDone : ∀ x0 x1 x2 x3, Statement (.fqDone x0 x1 x2 x3) := by
  intros; intro w h; exact nomatch (show (none : Option Word) = some w from h)

theorem erqLostClear : Statement .erqLostClear := by
  intro w h; exact nomatch (show (none : Option Word) = some w from h)

theorem wdogWrite : ∀ x0 x1, Statement (.wdogWrite x0 x1) := by
  intros; intro w h; exact nomatch (show (none : Option Word) = some w from h)

theorem pcclr : ∀ x0 x1, Statement (.pcclr x0 x1) := by
  intros; intro w h; exact nomatch (show (none : Option Word) = some w from h)

theorem pwrCapWrite : ∀ x0, Statement (.pwrCapWrite x0) := by
  intros; intro w h; exact nomatch (show (none : Option Word) = some w from h)

theorem sysregWrite : ∀ x0 x1, Statement (.sysregWrite x0 x1) := by
  intros; intro w h; exact nomatch (show (none : Option Word) = some w from h)

theorem illegalOpcode : ∀ x0, Statement (.illegalOpcode x0) := by
  intros; intro w h; exact nomatch (show (none : Option Word) = some w from h)

theorem softError : ∀ x0 x1, Statement (.softError x0 x1) := by
  intros; intro w h; exact nomatch (show (none : Option Word) = some w from h)

theorem dramLineAltered : ∀ x0 x1 x2 x3, Statement (.dramLineAltered x0 x1 x2 x3) := by
  intros; intro w h; exact nomatch (show (none : Option Word) = some w from h)

theorem snoopReceive : ∀ x0, Statement (.snoopReceive x0) := by
  intros; intro w h; exact nomatch (show (none : Option Word) = some w from h)

theorem snoopAnswer : ∀ x0, Statement (.snoopAnswer x0) := by
  intros; intro w h; exact nomatch (show (none : Option Word) = some w from h)

theorem itemClearComplete : ∀ x0 x1 x2, Statement (.itemClearComplete x0 x1 x2) := by
  intros; intro w h; exact nomatch (show (none : Option Word) = some w from h)

theorem tierFillRead : ∀ x0, Statement (.tierFillRead x0) := by
  intros; intro w h; exact nomatch (show (none : Option Word) = some w from h)

theorem mailboxBadCmd : ∀ x0, Statement (.mailboxBadCmd x0) := by
  intros; intro w h; exact nomatch (show (none : Option Word) = some w from h)

end Sys2Proof.Laws.Encodes
end

