-- ==== Sys2Proof/Safety.lean ====
section
/-! DEFINITION. The terms in which claims about the machine are made: when an instruction issues, what it does to the state in
which it has issued, and what a step leaves alone. -/

namespace Sys2Proof.Machine

/-- The flags for which an instruction's bundle waits (20 R354). -/
def State.waitsFor (s : State) (i : Instr) : BitVec 12 := s.hints.flg ||| waitMask i

/-- An instruction passes the checks before its own meaning: its flags are set (20 R354), the group's level is high enough (04
R81 check 3), its fields and its hints are legal (R81 check 4), and no register it reads holds an uncorrectable error (05 R92). -/
abbrev Ready (i : Instr) (s : State) : Prop :=
  s.flagWait (s.waitsFor i) = .satisfied ∧ privOf i ≤ s.cur.trap.pl ∧ fieldsOk s.cur.place.nregs i = true ∧
    hintsOk (hintsOf i) s.hints = true ∧ s.badRead i = none

/-- The state an instruction acts on: its flags are consumed (20 R353), and the PC stands at the next word (04 R65). -/
def State.issued (s : State) (i : Instr) : State := ((s.useFlags (s.waitsFor i)).anchor).setPc (s.pc + 4)

/-- Where it is ready, an instruction has the effect `f`, and its bundle is complete. -/
def Does (i : Instr) (s : State) (f : State → State) : Prop :=
  Ready i s → exec i s = .next ((f (s.issued i)).finish i s)

/-- Where it is ready, an instruction has the effect `f`, its bundle is complete, and its split waits (08 R139). -/
def Waits (i : Instr) (s : State) (f : State → State) (w : Wait) : Prop :=
  Ready i s → exec i s = .next (((f (s.issued i)).finish i s).modSplit (fun sp => { sp with wait := w }))

/-- A state in which an instruction has issued and holds its split: the split stands at the instruction's word, and the
instruction counts once, with its lanes where it is a vector instruction (02 R39, 20 R362). -/
def State.held (s : State) (i : Instr) (u : State) (w : Wait) : State :=
  let u := u.heldAt s i w (s.waitsFor i)
  let u := if closesRegion i then u.modCkpt (fun c => { c with closed := true }) else u
  u.countIssue i s

/-- Where it is ready, an instruction has the effect `f` and holds its split (02 R39). -/
def Holds (i : Instr) (s : State) (f : State → State) (w : Wait) : Prop :=
  Ready i s → exec i s = .next (s.held i (f (s.issued i)) w)

/-- Where it is ready, an instruction raises an exact trap: its cause, `trec2` and `trec4` (19 R322). -/
def Traps (i : Instr) (s : State) (cause addr info : Nat) : Prop :=
  Ready i s → exec i s = .next (s.trapExact cause addr info)

/-- Where it is ready, an instruction cannot issue in this turn and waits (02 R39). -/
def NotYet (i : Instr) (s : State) (w : Wait) : Prop :=
  Ready i s → exec i s = .next (s.modSplit (fun sp => { sp with wait := w }))

/-- Where it is ready, an instruction leaves the state `f`, which is complete as it is. -/
def Ends (i : Instr) (s : State) (f : State → State) : Prop :=
  Ready i s → exec i s = .next (f (s.issued i))

/-- A code address `d` words from the word at the PC (04 R69). -/
def State.jumpTo {n : Nat} (s : State) (d : BitVec n) : BitVec 48 := s.pc + d.signExtend 48 * 4

/-- A hint word joins the bundle in progress and does nothing else (04 R78, R80). -/
def State.hinted (s : State) (set : Bundle → Bundle) : State :=
  s.modSplit (fun sp => { sp with
    pc := sp.pc + 4
    wait := .none
    wdog := 0
    bundle := { set s.hints with
      active := true
      start := s.bundlePc
      count := s.hints.count + 1
      since := if s.hints.active then s.hints.since else s.cycle } })

/-- A function of three words at every width. -/
abbrev Fun3 := (n : Nat) → BitVec n → BitVec n → BitVec n → BitVec n

/-- A function at the width of a scalar instruction: 64 bits, or 32 with the result extended (06 R97). -/
def sized (zx : Bool) (w : BitVec 1) (F : Fun3) (x y z : DWord) : DWord :=
  if w = 1 then
    if zx then (F 32 (x.setWidth 32) (y.setWidth 32) (z.setWidth 32)).setWidth 64
    else (F 32 (x.setWidth 32) (y.setWidth 32) (z.setWidth 32)).signExtend 64
  else F 64 x y z

/-- `scalar_rr` of 06 R97: the scalar `d` holds the function of a, b and itself. -/
def ScalarFn (i : Instr) (s : State) (d a b : BitVec 7) (w : BitVec 1) (zx : Bool) (F : Fun3) : Prop :=
  Does i s (fun t => t.setSreg d.toNat (sized zx w F (t.src a.toNat) (t.src b.toNat) (t.sreg d.toNat)))

/-- `vector_rr` of 06 R97: every lane of `exec` of `v` `d` holds the function of a, b and itself at 32 bits. -/
def VectorFn (i : Instr) (s : State) (d a b : BitVec 7) (bs : BitVec 1) (F : Fun3) : Prop :=
  Does i s (fun t => t.setV d.toNat t.exec (fun l => F 32 (t.vlane a.toNat l) (t.vecB b bs l) (t.vlane d.toNat l)))

/-- An integer clamped to a range, and whether it lay outside (06 R99). -/
def clamp (n : Nat) (t lo hi : Int) : BitVec n × Bool :=
  if hi < t then (BitVec.ofInt n hi, true) else if t < lo then (BitVec.ofInt n lo, true) else (BitVec.ofInt n t, false)

/-- A scalar saturating sum: the destination and the flag `sat` (06 R99). -/
def saturated (t : State) (d : BitVec 7) (zx : Bool) (w : BitVec 1) (F : (n : Nat) → BitVec n → BitVec n → BitVec n × Bool)
    (x y : DWord) : State :=
  if w = 1 then
    let r := F 32 (x.setWidth 32) (y.setWidth 32)
    (t.setSreg d.toNat (if zx then r.1.setWidth 64 else r.1.signExtend 64)).raise (if r.2 then flSat else 0)
  else (t.setSreg d.toNat (F 64 x y).1).raise (if (F 64 x y).2 then flSat else 0)

/-- A saturating sum in every lane of `exec` (06 R99). -/
def saturatedLanes (t : State) (d : BitVec 7) (F : (n : Nat) → BitVec n → BitVec n → BitVec n × Bool) (a b : BitVec 7)
    (bs : BitVec 1) : State :=
  let r := fun l => F 32 (t.vlane a.toNat l) (t.vecB b bs l)
  (t.setV d.toNat t.exec (fun l => (r l).1)).raise (if (lanesOf t.exec).any (fun l => (r l).2) then flSat else 0)

/-- A function of two words and a carry through the pair `s` d, `s` d+1 (06 R100). -/
def paired (t : State) (d : BitVec 7) (w : BitVec 1) (F : Nat → Nat → Nat → Nat → Int × Bool) (x y : DWord) : State :=
  let c := (t.sreg (d.toNat + 1)).toNat % 2
  let r := if w = 1 then F 32 (x.setWidth 32).toNat (y.setWidth 32).toNat c else F 64 x.toNat y.toNat c
  (t.setSreg d.toNat (if w = 1 then (BitVec.ofInt 32 r.1).setWidth 64 else BitVec.ofInt 64 r.1)).setSreg (d.toNat + 1)
    (if r.2 then 1 else 0)

/-- `bfi` of 06 R102: z above the field, the low bits of x in it, z below it. -/
def fieldInsert {n : Nat} (x y z : BitVec n) : BitVec n :=
  let p := y.toNat % 256
  let len := min (y.toNat / 256 % 256) (n - p)
  BitVec.ofNat n (z.toNat / 2 ^ (p + len) * 2 ^ (p + len) + x.toNat % 2 ^ len * 2 ^ p + z.toNat % 2 ^ p)

/-- `vcmp` of 06 R103: the bits of the lanes of `exec` are written, the others kept. -/
def LaneCompare (i : Instr) (s : State) (d a b : BitVec 7) (bs : BitVec 1) (P : Word → Word → Bool) : Prop :=
  Does i s (fun t => t.setKreg d.toNat (maskOf (fun l =>
    if laneBit t.exec l then P (t.vlane a.toNat l) (t.vecB b bs l) else laneBit (t.kreg d.toNat) l)))

/-! ## Lanes with flags (03 R60, 07 R112-R129) -/

/-- The flags of the lanes of `exec` together. -/
def flagsOf (m : Word) (r : Lane → FpFlags) : FpFlags := (lanesOf m).foldl (fun a l => a ||| r l) 0

/-- The lanes of `exec` of `v` d are written, and their flags ORed into `fpflags`. -/
def FlagLanes (i : Instr) (s : State) (d : BitVec 7) (r : State → Lane → Word × FpFlags) : Prop :=
  Does i s (fun t => (t.setV d.toNat t.exec (fun l => (r t l).1)).raise (flagsOf t.exec (fun l => (r t l).2)))

/-- A function of three lanes under the RND settings of the bundle. -/
def FloatFn (i : Instr) (s : State) (d a b : BitVec 7) (bs : BitVec 1) (F : Rnd → Word → Word → Word → Word × FpFlags) : Prop :=
  FlagLanes i s d (fun t l => F t.rnd (t.vlane a.toNat l) (t.vecB b bs l) (t.vlane d.toNat l))

/-- As `FlagLanes`, where the generator of each lane of `exec` is left in a state too (03 R59). -/
def SrLanes (i : Instr) (s : State) (d : BitVec 7) (r : State → Lane → Word × FpFlags × Word) : Prop :=
  Does i s (fun t => ((t.setV d.toNat t.exec (fun l => (r t l).1)).raise (flagsOf t.exec (fun l => (r t l).2.1))).setSr t.exec
    (fun l => (r t l).2.2))

/-- A function of the generator's state and three lanes. -/
def SrFn (i : Instr) (s : State) (d a b : BitVec 7) (bs : BitVec 1)
    (F : Rnd → Word → Word → Word → Word → Word × FpFlags × Word) : Prop :=
  SrLanes i s d (fun t l => F t.rnd (t.srState l) (t.vlane a.toNat l) (t.vecB b bs l) (t.vlane d.toNat l))

/-- A result of the lanes of `exec`, to be written `lat` cycles after the issue under flag `f` (07 R109). -/
def LaterLanes (i : Instr) (s : State) (lat : Nat) (f : BitVec 4) (d : BitVec 7) (r : State → Lane → Word × FpFlags) : Prop :=
  Does i s (fun t => t.later lat f.toNat [] ((lanesOf t.exec).map (fun l => (d.toNat, l, (r t l).1)))
    (flagsOf t.exec (fun l => (r t l).2)))

/-- `n` registers from `v` d up are written in the lanes of `exec` from what was read before (07 R122). -/
def Unpacks (i : Instr) (s : State) (d : BitVec 7) (n : Nat) (r : State → Lane → Nat → Word × FpFlags)
    (fl : State → Lane → FpFlags) : Prop :=
  Does i s (fun t => ((List.range n).foldl (fun u j => u.setV (d.toNat + j) t.exec (fun l => (r t l j).1)) t).raise
    (flagsOf t.exec (fl t)))

/-- `vcvt` between two formats of 04 R72. -/
def converted (t : State) (f : BitVec 4) (d a o : BitVec 7) : State :=
  match cvtFmt o.toNat, cvtFmt f.toNat with
  | some src, some dst =>
    let r := fun l => cvtLane src dst t.rnd (t.srState l) (t.laneVal (cvtWide src) a.toNat l)
    ((t.setLanes (cvtWide dst) d.toNat t.exec (fun l => cvtFill dst (r l).1.1)).raise
      (flagsOf t.exec (fun l => (r l).1.2))).setSr t.exec (fun l => (r l).2)
  | _, _ => t

/-- A NaN in the bits of FP32. -/
def isNan32 (x : Word) : Bool := decide (0x7F800000 < x.toNat % 2 ^ 31)

/-- What reading an operand that is a NaN sets (03 R49). -/
def nanMarks (x : Word) : FpFlags :=
  if isNan32 x then (if x.getLsbD 22 then flNanSeen else flNanSeen ||| flInvalid) else 0

/-- The value of a word as FP32 (03 R48). -/
def value32 (x : Word) : FVal := fmtDecode fmtF32 x.toNat

/-- x lies below y, −0 below +0 (07 R113). -/
def floatBelow (x y : Word) : Bool := fLtZero (value32 x) (value32 y)

/-- The bit of the class of a word, by its sign and the range of its magnitude bits (07 R115). -/
def classBit (y : Word) : Nat :=
  let n := y.getLsbD 31
  let m := y.toNat % 2 ^ 31
  if 0x7FC00000 ≤ m then 9
  else if 0x7F800000 < m then 8
  else if m = 0x7F800000 then (if n then 0 else 7)
  else if 0x00800000 ≤ m then (if n then 1 else 6)
  else if 0 < m then (if n then 2 else 5)
  else if n then 3 else 4

/-- `vfcmp` of 07 R114: the lanes of `exec` of a mask by a condition; where `inv` holds any NaN sets invalid. -/
def FloatCompare (i : Instr) (s : State) (d a b : BitVec 7) (bs : BitVec 1) (P : Word → Word → Bool) (inv : Bool) : Prop :=
  Does i s (fun t =>
    let x := fun l => t.vlane a.toNat l
    let y := fun l => t.vecB b bs l
    (t.setKreg d.toNat (maskOf (fun l => if laneBit t.exec l then P (x l) (y l) else laneBit (t.kreg d.toNat) l))).raise
      (flagsOf t.exec (fun l => nanMarks (x l) ||| nanMarks (y l) |||
        (if inv && (isNan32 (x l) || isNan32 (y l)) then flInvalid else 0))))

/-! ## Memory accesses (14 R231-R242) -/

/-- Nothing holds an access back: no acquire of its split is open (14 R238), its class has room (20 R355), and where it is a
release the earlier writes have completed (R238). -/
abbrev Clear (u : State) (count : Nat) : Prop :=
  u.split.acq = [] ∧ count < 62 ∧ (u.scp.rel = true → u.relOk u.scp.scope u.nextId = true)

/-- Every element of an access passes the checks of 14 R237: the elements with their fabric addresses, and the state after the
walks; no object under merge holds the access (11 R189). -/
def Passes (u : State) (acc : Access) (needs : Needs) (prim : Bool) (es : List Elem) (c : Ctx) (oks : List (Elem × Nat))
    (t : State) : Prop :=
  u.myCtx = some c ∧ u.checkAll c acc needs prim es = (oks.map (fun e => (e.1, Chk.ok e.2)), t) ∧
    ∀ e ∈ oks, ∀ o, t.objOfFa e.2 = some o → t.underMerge o = false

/-- The scope of an acquire of the bundle, if it is one (14 R238). -/
def State.acquires (u : State) : Option Nat := if u.scp.acq then some u.scp.scope else none

/-- A load whose elements pass becomes outstanding and its bundle is complete (14 R232, R233). -/
def LoadOf (i : Instr) (s : State) (dest : Dest) (const : Bool) (ret : State → Nat) (es : State → List Elem) : Prop :=
  ∀ c oks t, Ready i s → Clear (s.issued i) s.cur.acc.ld →
    Passes (s.issued i) .read [] ((s.issued i).scp.acq && decide (3 ≤ (s.issued i).scp.scope)) (es (s.issued i)) c oks t →
    exec i s = .next ((t.startLoad dest const (ret (s.issued i)) (s.issued i).acquires (laneAccs oks)).finish i s)

/-- The entries that the bytes of some elements form: neighbours within a line are one entry (13 R219). -/
def entriesOf (oks : List (Elem × Nat)) (val : Elem → Nat) : List (LaneAcc × List Byte) :=
  mergeWrites (oks.map (fun e => (⟨e.1.lane, e.1.gva, e.2, e.1.size, none, false⟩, leBytes e.1.size (val e.1))))

/-- A store whose elements pass becomes outstanding, its bytes enter the store buffer, and its bundle is complete (13 R219,
14 R232). -/
def StoreOf (i : Instr) (s : State) (kind : OpKind) (tree : Option (Nat × Nat)) (ret : State → Nat) (es : State → List Elem)
    (val : State → Elem → Nat) : Prop :=
  ∀ c oks t, Ready i s → Clear (s.issued i) s.cur.acc.st →
    (s.issued i).sbRoom ((s.issued i).newEntries (entriesOf ((es (s.issued i)).map (fun e => (e, e.gva))) (val (s.issued i)))) = true →
    Passes (s.issued i) .write [] false (es (s.issued i)) c oks t →
    exec i s = .next ((t.startStore kind .drop (ret (s.issued i)) none tree
      ((entriesOf oks (val (s.issued i))).map (fun w => (w.1, w.2.length, WKind.bytes w.2)))).finish i s)

/-- An atomic whose elements pass becomes outstanding with one entry for each element (14 R240-R242). -/
def AtomOf (i : Instr) (s : State) (op z : Nat) (dest : Dest) (ret : State → Nat) (es : State → List Elem)
    (x cmp : State → Elem → Nat) : Prop :=
  ∀ c oks t, Ready i s → Clear (s.issued i) s.cur.acc.st → (s.issued i).sbRoom (es (s.issued i)).length = true →
    Passes (s.issued i) .atomic [atomCap op (4 * 2 ^ z)] false (es (s.issued i)) c oks t →
    exec i s = .next ((t.startStore .atomic dest (ret (s.issued i)) (s.issued i).acquires none
      (oks.map (fun e => (⟨e.1.lane, e.1.gva, e.2, e.1.size, none, false⟩, e.1.size,
        WKind.atomic op e.1.size (x (s.issued i) e.1) (cmp (s.issued i) e.1))))).finish i s)

/-- No deferred cause of the kinds a fence waits for is recorded (10 R171). -/
def NoDeferred (u : State) (p : OpKind → Bool) : Prop := ∀ d ∈ u.cur.trap.deferred, p d.kind = false

/-- A fence (14 R239): where its conditions hold it completes in its turn; else it holds its split until they do. -/
def FenceOf (i : Instr) (s : State) (acq rel : Bool) (scope : Nat) : Prop :=
  let ok := (acq = true → (s.issued i).acqOk s.nextId = true) ∧ (rel = true → (s.issued i).relOk scope s.nextId = true)
  (ok → NoDeferred s (fun k => (acq && acqKinds k) || (rel && relKinds k)) → Does i s id) ∧
    (¬ ok → Holds i s id (.fence acq rel scope s.nextId))

/-- The elements of `spld`: consecutive offsets in the lanes of `exec` (14 R235). -/
def scratchElems (t : State) (b o : BitVec 6) (z : Nat) : List Elem :=
  (lanesOf t.exec).map (fun l =>
    ⟨l, (t.sreg b.toNat + o.signExtend 64 * BitVec.ofNat 64 z + BitVec.ofNat 64 (l.val * z)).toNat, z⟩)

/-- An element lies within a region, aligned, and none of its words holds an uncorrectable error where it is read (R235, R229). -/
def Fits (g : Region) (e : Elem) (read : Bool) : Prop :=
  e.gva + e.size ≤ g.size ∧ e.gva % e.size = 0 ∧
    (read = true → ∀ b ∈ g.bad, ¬ (e.gva / 4 ≤ b / 4 ∧ b / 4 ≤ (e.gva + e.size - 1) / 4))

/-- An element of a scratchpad store is written; the words it covers are good again (13 R215, R229). -/
def State.poke (t : State) (e : Elem) (v : Nat) : State :=
  match t.region with
  | none => t
  | some g =>
    let g := g.write t.cycle e.gva (leBytes e.size v)
    let keep := fun (b : Nat) => !(decide (e.gva / 4 ≤ b / 4) && decide (b / 4 < (e.gva + e.size + 3) / 4))
    t.setRegion { g with bad := g.bad.filter keep, poisoned := g.poisoned.filter keep }

/-- The group whose one split issues `bar` at a level arrives at the counter of its unit, and holds its split until it is released
(20 R360, R361). -/
def State.joinBar (t : State) (r : LRec) (l : Nat) (nf : Bool) : State :=
  let b := t.barrierOf r l t.cur.place.flat
  let u := t.modSplit (fun sp => { sp with wait := .bar l nf false, pc := t.here })
  let u := (u.useFlags (u.cur.ctl.barFlags l)).modCtl (fun c => c.issueBar l)
  let rest := u.bars.filter (fun x => !(x.launch == b.launch && x.level == b.level && x.unit == b.unit))
  let u := ({ u with bars := { b with arrived := b.arrived + 1 } :: rest }).modCkpt (fun c => { c with closed := true })
  ((u.tally 0 1).modSplit (fun sp => { sp with wdog := 0 })).testBarrier r.id l b.unit

/-! ## Copies and records (14 R244, R411) -/

/-- The size of the region of the team, 0 where it has none (13 R215). -/
def State.regionSize (s : State) : Nat := (s.region.map Region.size).getD 0

/-- A copy command joins an engine (14 R244). -/
def State.queueCopy (u : State) (e : Nat) (k : CKind) : State :=
  ({ u with
    nextId := u.nextId + 1
    copies := u.copies ++ [(⟨u.nextId, e, u.cur.place.uid, none, u.cur.place.ctx, u.cur.place.core, u.cur.place.launch, u.nextId,
      u.bundlePc, k, u.scp, u.retCls, 0, none, false, u.cur.acc.ops.map MemOp.id, 0, none⟩ : CopyCmd)] }).modAcc
        (fun a => { a with cp := a.cp + 1 })

/-- The engines of the partition of the issuing group that are in service (01 R24, 11 R199). -/
def State.myEngines (u : State) : List Nat := u.engines u.myPart

/-- A copy whose sides are in range joins an engine of its partition that has the fewest commands, where one has fewer than 32; one of
length 0 completes at once (14 R243, R244, 17 R294). -/
def CopyOf (i : Instr) (s : State) (kind : State → CKind) (inRange : State → Prop) : Prop :=
  Ready i s → (s.issued i).split.acq = [] → s.cur.acc.cp < 62 → inRange (s.issued i) →
    ((kind (s.issued i)).empty = true → (s.issued i).myEngines ≠ [] → exec i s = .next ((s.issued i).finish i s)) ∧
    ((kind (s.issued i)).empty = false → (∃ x ∈ (s.issued i).myEngines, (s.copies.filter (fun c => c.engine == x)).length < 32) →
    ∃ e ∈ (s.issued i).myEngines,
      (∀ x ∈ (s.issued i).myEngines,
        (s.copies.filter (fun c => c.engine == e)).length ≤ (s.copies.filter (fun c => c.engine == x)).length) ∧
      exec i s = .next (((s.issued i).queueCopy e (kind (s.issued i))).finish i s))

/-- What the issuing group wants of an element's line: its floor, the default class, and a serialisation point where the read is an
acquire at package scope or wider (10 R168, R170, 13 R224, 14 R238). -/
def State.wants (u : State) (c : Ctx) (prim : Bool) (x : Elem × Nat) : Want × Nat :=
  (⟨u.cur.place.core, c.num, c.vdid, c.world, x.1.gva, x.2, u.cur.acc.rfloor.toNat, 1, false, prim, true, none⟩, x.1.size)

/-- Elements are read for the issuing group: they pass the checks of a load, no earlier operation of the group holds them back, no
object under merge covers one, each has a holder that gives its line, and the group's floor rises to the latest stamp; `prim`
makes the read an acquire at package scope or wider (14 R238, R411, 15 R255, 11 R189). -/
def ReadsFrom (prim : Bool) (u : State) (es : List Elem) (bs : List Byte) (t : State) : Prop :=
  ∃ (c : Ctx) (oks : List (Elem × Nat)) (v w : State) (stamp : Nat), u.split.acq = [] ∧ u.myCtx = some c ∧
    u.checkAll c .read [] prim es = (oks.map (fun (e : Elem × Nat) => (e.1, Chk.ok e.2)), v) ∧
    u.readHeld u.since oks = false ∧
    (∀ e ∈ oks, ∀ o, v.objOfFa e.2 = some o → v.underMerge o = false) ∧
    v.readEach (oks.map (u.wants c prim)) = .got w bs stamp ∧
      t = w.modAcc (fun a => { a with rfloor := BitVec.ofNat 64 (max a.rfloor.toNat stamp) })

/-- Plain loads of `n` lines (14 R411): what the instruction has read before it was held, it does not read again (02 R36). -/
def Reads (u : State) (gva n : Nat) (bs : List Byte) (t : State) : Prop :=
  (64 * n ≤ u.hints.got.length ∧ bs = u.hints.got ∧ t = u) ∨
    (u.hints.got.length < 64 * n ∧ ∃ v, ReadsFrom false u (lineElems gva n) bs v ∧
      t = v.modSplit (fun sp => { sp with bundle := { sp.bundle with got := bs } }))

/-! ## Matrix commands (16 R271-R289) -/

/-- The command that an instruction makes: it names its group, its batch and its bundle (16 R275, R283). -/
def State.matrixCommand (u : State) (kind : MKind) (scp : Scp) (memory : Bool) : MCmd :=
  ⟨u.nextId, u.cur.place.core, u.cur.place.uid, u.cur.place.ctx, u.cur.mat.mopen.toNat, u.bundlePc, kind, scp, u.retCls,
    u.cur.acc.rfloor.toNat, false, 0, if memory then u.cur.acc.ops.map MemOp.id else [], false, 0, 0, none, 0⟩

/-- A matrix command enters the queue of its core, or the held list of its group while that is not empty (16 R275, R285). -/
def Queues (i : Instr) (s : State) (kind : MKind) (scp : Scp) (memory : Bool) (post : State → State) : Prop :=
  (memory = true → s.split.acq = []) →
    (s.cur.mat.held = [] → s.cur.mat.released = [] → (s.mqueue.filter (fun c => c.core == s.cur.place.core)).length < 8 →
      Does i s (fun t => post { t with
        nextId := t.nextId + 1
        mqueue := t.mqueue ++ [t.matrixCommand kind scp memory] })) ∧
    (s.cur.mat.held ≠ [] → s.cur.mat.held.length < 8 →
      Does i s (fun t => post (({ t with nextId := t.nextId + 1 }).modMat (fun m =>
        { m with held := m.held ++ [t.matrixCommand kind scp memory] }))))

/-- A release of tiles and slots: at once where no command of the group names them, else the split is held (16 R270). -/
def Releases (i : Instr) (s : State) (tiles slots : Nat) (w : Wait) : Prop :=
  (s.unnamed s.cur tiles slots = false → Holds i s id w) ∧
    (s.unnamed s.cur tiles slots = true → Does i s (fun t => ({ t with
      tiles := t.tiles.map (fun (x : TileSt) =>
        if x.core == t.cur.place.core && x.owner == t.cur.place.uid && decide (tiles / 2 ^ x.idx % 2 = 1) then
          { x with owner := 0, world := 0, clearing := true, elems := [], bad := [] } else x)
      oslots := t.oslots.map (fun (x : SlotSt) =>
        if x.core == t.cur.place.core && x.owner == t.cur.place.uid && decide (slots / 2 ^ x.idx % 2 = 1) then
          { x with owner := 0, world := 0, clearing := true, tag := 255, elems := [], scales := [], bad := [] } else x) }).onGroup
          t.cur.place.uid (fun g => { g with mat := { g.mat with
            tiles := g.mat.tiles &&& ~~~(BitVec.ofNat 12 tiles)
            slots := g.mat.slots &&& ~~~(BitVec.ofNat 8 slots) } })))

/-- A mailbox command of a code and of its length is accepted: the package has booted, CD0 is in service and the mailbox is not busy
(22 R384, 11 R199). -/
def State.Accepts (s : State) (c : MboxCmd) (code : Nat) : Prop :=
  s.pkg.boot = 2 ∧ s.hostUp = true ∧ s.mbox.stat.getLsbD 0 = false ∧ cmdCode c = code ∧ cmdLen code = some (cmdBytes c)

/-! ## Frames -/

/-- Where it is ready, an instruction that works on registers answers a next state that differs in the group's registers, bundle
and flashback region and in its context's counters only; of the registers the scalars, vectors and masks that are not named, the
lanes outside `exec`, the flags not waited for and, unless `fl`, the sticky flags and the generators are as before. -/
def Frame (i : Instr) (s : State) (sd vd kd : Nat → Prop) (fl : Bool) : Prop :=
  Ready i s → ∃ t, exec i s = .next t ∧
    t = { s with cur := t.cur, ctxs := t.ctxs } ∧
    t.cur = { s.cur with regs := t.cur.regs, ctl := t.cur.ctl, ckpt := t.cur.ckpt } ∧
    (∀ n, ¬ sd n → t.sreg n = s.sreg n) ∧
    (∀ n l, ¬ vd n ∨ laneBit s.exec l = false → t.vlane n l = s.vlane n l) ∧
    (∀ n, ¬ kd n → t.kreg n = s.kreg n) ∧
    (∀ n, (s.waitsFor i).getLsbD n = false → t.flag n = s.flag n) ∧
    (fl = false → t.cur.regs.fpflags = s.cur.regs.fpflags ∧ t.cur.regs.sr = s.cur.regs.sr)

end Sys2Proof.Machine
end

