-- ==== Sys2Proof/Certificates/Slice0/Obligations.lean ====
section
/-! DEFINITION. The statements about the machine. -/

open Sys2Proof Sys2Proof.Machine

/-- Where it is ready, each of these instructions writes its destination with the function of the table of 06 R98: a
scalar at 64 bits, or at 32 with the result extended; the lanes of exec of a vector register at 32 bits. Nothing else
changes but what every completed bundle changes. -/
def Obligations.IntegerArithmetic : Prop :=
  ∀ (s : State) (d a b : BitVec 7) (w bs : BitVec 1),
  ScalarFn (.sadd d a b w) s d a b w false (fun _ x y _ => x + y) ∧
  VectorFn (.vadd d a b bs) s d a b bs (fun _ x y _ => x + y) ∧
  ScalarFn (.ssub d a b w) s d a b w false (fun _ x y _ => x - y) ∧
  VectorFn (.vsub d a b bs) s d a b bs (fun _ x y _ => x - y) ∧
  ScalarFn (.smullo d a b w) s d a b w false (fun _ x y _ => x * y) ∧
  VectorFn (.vmullo d a b bs) s d a b bs (fun _ x y _ => x * y) ∧
  ScalarFn (.smulhiS d a b w) s d a b w false (fun n x y _ => BitVec.ofInt n (x.toInt * y.toInt / 2 ^ n)) ∧
  VectorFn (.vmulhiS d a b bs) s d a b bs (fun n x y _ => BitVec.ofInt n (x.toInt * y.toInt / 2 ^ n)) ∧
  ScalarFn (.smulhiU d a b w) s d a b w true (fun n x y _ => BitVec.ofNat n (x.toNat * y.toNat / 2 ^ n)) ∧
  VectorFn (.vmulhiU d a b bs) s d a b bs (fun n x y _ => BitVec.ofNat n (x.toNat * y.toNat / 2 ^ n)) ∧
  ScalarFn (.smad d a b w) s d a b w false (fun _ x y z => z + x * y) ∧
  VectorFn (.vmad d a b bs) s d a b bs (fun _ x y z => z + x * y) ∧
  ScalarFn (.sminS d a b w) s d a b w false (fun _ x y _ => if x.toInt ≤ y.toInt then x else y) ∧
  VectorFn (.vminS d a b bs) s d a b bs (fun _ x y _ => if x.toInt ≤ y.toInt then x else y) ∧
  ScalarFn (.sminU d a b w) s d a b w true (fun _ x y _ => if x.toNat ≤ y.toNat then x else y) ∧
  VectorFn (.vminU d a b bs) s d a b bs (fun _ x y _ => if x.toNat ≤ y.toNat then x else y) ∧
  ScalarFn (.smaxS d a b w) s d a b w false (fun _ x y _ => if x.toInt ≤ y.toInt then y else x) ∧
  VectorFn (.vmaxS d a b bs) s d a b bs (fun _ x y _ => if x.toInt ≤ y.toInt then y else x) ∧
  ScalarFn (.smaxU d a b w) s d a b w true (fun _ x y _ => if x.toNat ≤ y.toNat then y else x) ∧
  VectorFn (.vmaxU d a b bs) s d a b bs (fun _ x y _ => if x.toNat ≤ y.toNat then y else x) ∧
  ScalarFn (.sabs d a w) s d a 0 w false (fun _ x _ _ => if x.toInt < 0 then -x else x) ∧
  VectorFn (.vabs d b bs) s d 0 b bs (fun _ _ y _ => if y.toInt < 0 then -y else y) ∧
  ScalarFn (.sneg d a w) s d a 0 w false (fun _ x _ _ => -x) ∧
  VectorFn (.vneg d b bs) s d 0 b bs (fun _ _ y _ => -y) ∧
  ScalarFn (.ssel d a b w) s d a b w false (fun _ x y z => if z ≠ 0 then x else y) ∧
  VectorFn (.vsel d a b bs) s d a b bs (fun _ x y z => if z ≠ 0 then x else y) ∧
  ScalarFn (.smov d a w) s d a 0 w false (fun _ x _ _ => x) ∧
  VectorFn (.vmov d b bs) s d 0 b bs (fun _ _ y _ => y)

/-- Where it is ready, each of these instructions writes its destination with the function of the table of 06 R98; slea
adds the sign-extended low word of b to a. -/
def Obligations.IntegerBitFunctions : Prop :=
  ∀ (s : State) (d a b : BitVec 7) (w bs : BitVec 1),
  ScalarFn (.sand d a b w) s d a b w false (fun _ x y _ => x &&& y) ∧
  VectorFn (.vand d a b bs) s d a b bs (fun _ x y _ => x &&& y) ∧
  ScalarFn (.sor d a b w) s d a b w false (fun _ x y _ => x ||| y) ∧
  VectorFn (.vor d a b bs) s d a b bs (fun _ x y _ => x ||| y) ∧
  ScalarFn (.sxor d a b w) s d a b w false (fun _ x y _ => x ^^^ y) ∧
  VectorFn (.vxor d a b bs) s d a b bs (fun _ x y _ => x ^^^ y) ∧
  ScalarFn (.sandn d a b w) s d a b w false (fun _ x y _ => x &&& ~~~y) ∧
  VectorFn (.vandn d a b bs) s d a b bs (fun _ x y _ => x &&& ~~~y) ∧
  ScalarFn (.snot d a w) s d a 0 w false (fun _ x _ _ => ~~~x) ∧
  VectorFn (.vnot d b bs) s d 0 b bs (fun _ _ y _ => ~~~y) ∧
  ScalarFn (.sclz d a w) s d a 0 w false (fun n x _ _ => BitVec.ofNat n (leadingZeros x)) ∧
  VectorFn (.vclz d b bs) s d 0 b bs (fun n _ y _ => BitVec.ofNat n (leadingZeros y)) ∧
  ScalarFn (.spop d a w) s d a 0 w false (fun n x _ _ => BitVec.ofNat n (popCount x)) ∧
  VectorFn (.vpop d b bs) s d 0 b bs (fun n _ y _ => BitVec.ofNat n (popCount y)) ∧
  ScalarFn (.sbrev d a w) s d a 0 w false (fun _ x _ _ => bitReverse x) ∧
  VectorFn (.vbrev d b bs) s d 0 b bs (fun _ _ y _ => bitReverse y) ∧
  ScalarFn (.sunpack d a w) s d a 0 w false (fun n x _ _ => x.sshiftRight (n / 2)) ∧
  VectorFn (.vunpack d b bs) s d 0 b bs (fun n _ y _ => y.sshiftRight (n / 2)) ∧
  ScalarFn (.spack d a b w) s d a b w true (fun n x y _ => BitVec.ofNat n (x.toNat % 2 ^ (n / 2) + y.toNat % 2 ^ (n / 2) * 2 ^ (n / 2))) ∧
  VectorFn (.vpack d a b bs) s d a b bs (fun n x y _ => BitVec.ofNat n (x.toNat % 2 ^ (n / 2) + y.toNat % 2 ^ (n / 2) * 2 ^ (n / 2))) ∧
  ScalarFn (.sext8S d a w) s d a 0 w false (fun n x _ _ => BitVec.ofInt n (sextInt 8 x.toNat)) ∧
  VectorFn (.vext8S d b bs) s d 0 b bs (fun n _ y _ => BitVec.ofInt n (sextInt 8 y.toNat)) ∧
  ScalarFn (.sext8U d a w) s d a 0 w true (fun n x _ _ => BitVec.ofNat n (x.toNat % 2 ^ 8)) ∧
  VectorFn (.vext8U d b bs) s d 0 b bs (fun n _ y _ => BitVec.ofNat n (y.toNat % 2 ^ 8)) ∧
  ScalarFn (.sext16S d a w) s d a 0 w false (fun n x _ _ => BitVec.ofInt n (sextInt 16 x.toNat)) ∧
  VectorFn (.vext16S d b bs) s d 0 b bs (fun n _ y _ => BitVec.ofInt n (sextInt 16 y.toNat)) ∧
  ScalarFn (.sext16U d a w) s d a 0 w true (fun n x _ _ => BitVec.ofNat n (x.toNat % 2 ^ 16)) ∧
  VectorFn (.vext16U d b bs) s d 0 b bs (fun n _ y _ => BitVec.ofNat n (y.toNat % 2 ^ 16)) ∧
  Does (.slea d a b) s (fun t => t.setSreg d.toNat (t.src a.toNat + ((t.src b.toNat).setWidth 32).signExtend 64))

/-- Where it is ready, a shift or rotate takes its count as the whole second operand, unsigned; for a count of W or more
shl and shr give 0 and sar gives copies of bit W-1; rot uses the count modulo W. Where it is ready, bfe takes from x
the field whose position is y[7:0] and whose length is y[15:8], cut at bit W-1, zero- or sign-extended, 0 where the
field is empty; bfi puts the low bits of x there into z, bit by bit. -/
def Obligations.ShiftsAndBitFields : Prop :=
  (∀ (s : State) (d a b : BitVec 7) (w bs : BitVec 1),
  ScalarFn (.sshl d a b w) s d a b w false (fun n x y _ => if y.toNat < n then x <<< y.toNat else 0) ∧
  VectorFn (.vshl d a b bs) s d a b bs (fun n x y _ => if y.toNat < n then x <<< y.toNat else 0) ∧
  ScalarFn (.sshr d a b w) s d a b w true (fun n x y _ => if y.toNat < n then x >>> y.toNat else 0) ∧
  VectorFn (.vshr d a b bs) s d a b bs (fun n x y _ => if y.toNat < n then x >>> y.toNat else 0) ∧
  ScalarFn (.ssar d a b w) s d a b w false (fun n x y _ => if y.toNat < n then x.sshiftRight y.toNat else if x.msb then BitVec.allOnes n else 0) ∧
  VectorFn (.vsar d a b bs) s d a b bs (fun n x y _ => if y.toNat < n then x.sshiftRight y.toNat else if x.msb then BitVec.allOnes n else 0) ∧
  ScalarFn (.srot d a b w) s d a b w false (fun n x y _ => x.rotateLeft (y.toNat % n)) ∧
  VectorFn (.vrot d a b bs) s d a b bs (fun n x y _ => x.rotateLeft (y.toNat % n))) ∧
  (∀ (s : State) (d a b : BitVec 7) (w bs : BitVec 1),
  ScalarFn (.sbfeU d a b w) s d a b w false (fun n x y _ => BitVec.ofNat n (x.toNat / 2 ^ (y.toNat % 256) % 2 ^ (min (y.toNat / 256 % 256) (n - y.toNat % 256)))) ∧
  VectorFn (.vbfeU d a b bs) s d a b bs (fun n x y _ => BitVec.ofNat n (x.toNat / 2 ^ (y.toNat % 256) % 2 ^ (min (y.toNat / 256 % 256) (n - y.toNat % 256)))) ∧
  ScalarFn (.sbfeS d a b w) s d a b w false (fun n x y _ => BitVec.ofInt n (sextInt (min (y.toNat / 256 % 256) (n - y.toNat % 256)) (x.toNat / 2 ^ (y.toNat % 256)))) ∧
  VectorFn (.vbfeS d a b bs) s d a b bs (fun n x y _ => BitVec.ofInt n (sextInt (min (y.toNat / 256 % 256) (n - y.toNat % 256)) (x.toNat / 2 ^ (y.toNat % 256)))) ∧
  ScalarFn (.sbfi d a b w) s d a b w false (fun _ x y z => fieldInsert x y z) ∧
  VectorFn (.vbfi d a b bs) s d a b bs (fun _ x y z => fieldInsert x y z))

/-- Where it is ready, sadds.s and sadds.u form the exact sum, clamp it to the range of the type, and set sat in fpflags
exactly where it was outside; the vector forms do so in every lane of exec and set sat where any lane clamps. Where it
is ready, saddc adds bit 0 of the register after its destination to the sum and ssubb subtracts it from the
difference; the destination holds the result modulo 2^W, zero-extended, and the register after it 1 or 0, the carry or
the borrow out. -/
def Obligations.SaturatingSumsAndCarryPairs : Prop :=
  (∀ (s : State) (d a b : BitVec 7) (w bs : BitVec 1),
  Does (.saddsS d a b w) s (fun t => saturated t d false w (fun n x y => clamp n (x.toInt + y.toInt) (-2 ^ (n - 1)) (2 ^ (n - 1) - 1)) (t.src a.toNat) (t.src b.toNat)) ∧
  Does (.vaddsS d a b bs) s (fun t => saturatedLanes t d (fun n x y => clamp n (x.toInt + y.toInt) (-2 ^ (n - 1)) (2 ^ (n - 1) - 1)) a b bs) ∧
  Does (.saddsU d a b w) s (fun t => saturated t d true w (fun n x y => clamp n ((x.toNat : Int) + y.toNat) (0) (2 ^ n - 1)) (t.src a.toNat) (t.src b.toNat)) ∧
  Does (.vaddsU d a b bs) s (fun t => saturatedLanes t d (fun n x y => clamp n ((x.toNat : Int) + y.toNat) (0) (2 ^ n - 1)) a b bs)) ∧
  (∀ (s : State) (d a b : BitVec 7) (w bs : BitVec 1),
  Does (.saddc d a b w) s (fun t => paired t d w (fun n x y c => ((x : Int) + y + c, decide (2 ^ n ≤ (x : Int) + y + c))) (t.src a.toNat) (t.src b.toNat)) ∧
  Does (.ssubb d a b w) s (fun t => paired t d w (fun _ x y c => ((x : Int) - y - c, decide ((x : Int) - y - c < 0))) (t.src a.toNat) (t.src b.toNat)))

/-- Where it is ready, scmp writes 1 or 0 by its condition in all 64 bits; vcmp writes the bit of its mask destination of
every lane of exec by the condition on that lane and keeps the other bits. -/
def Obligations.IntegerCompares : Prop :=
  ∀ (s : State) (d a b : BitVec 7) (w bs : BitVec 1),
  ScalarFn (.scmp 0 d a b w) s d a b w true (fun _ x y _ => if x = y then 1 else 0) ∧
  ScalarFn (.scmp 1 d a b w) s d a b w true (fun _ x y _ => if x ≠ y then 1 else 0) ∧
  ScalarFn (.scmp 2 d a b w) s d a b w true (fun _ x y _ => if x.toInt < y.toInt then 1 else 0) ∧
  ScalarFn (.scmp 3 d a b w) s d a b w true (fun _ x y _ => if x.toInt ≤ y.toInt then 1 else 0) ∧
  ScalarFn (.scmp 4 d a b w) s d a b w true (fun _ x y _ => if y.toInt < x.toInt then 1 else 0) ∧
  ScalarFn (.scmp 5 d a b w) s d a b w true (fun _ x y _ => if y.toInt ≤ x.toInt then 1 else 0) ∧
  ScalarFn (.scmp 6 d a b w) s d a b w true (fun _ x y _ => if x.toNat < y.toNat then 1 else 0) ∧
  ScalarFn (.scmp 7 d a b w) s d a b w true (fun _ x y _ => if y.toNat ≤ x.toNat then 1 else 0) ∧
  LaneCompare (.vcmp 0 d a b bs) s d a b bs (fun x y => decide (x = y)) ∧
  LaneCompare (.vcmp 1 d a b bs) s d a b bs (fun x y => decide (x ≠ y)) ∧
  LaneCompare (.vcmp 2 d a b bs) s d a b bs (fun x y => decide (x.toInt < y.toInt)) ∧
  LaneCompare (.vcmp 3 d a b bs) s d a b bs (fun x y => decide (x.toInt ≤ y.toInt)) ∧
  LaneCompare (.vcmp 4 d a b bs) s d a b bs (fun x y => decide (y.toInt < x.toInt)) ∧
  LaneCompare (.vcmp 5 d a b bs) s d a b bs (fun x y => decide (y.toInt ≤ x.toInt)) ∧
  LaneCompare (.vcmp 6 d a b bs) s d a b bs (fun x y => decide (x.toNat < y.toNat)) ∧
  LaneCompare (.vcmp 7 d a b bs) s d a b bs (fun x y => decide (y.toNat ≤ x.toNat))

/-- Where it is ready, each of the eight functions with a literal takes its second operand from the immediate widened by
the hints: at 64 bits in the scalar forms, the low 32 bits in every lane in the vector forms. Where it is ready, vlea
writes in every lane of exec the pair v(d), v(d+1) with the low and the high word of the 64-bit base plus the
sign-extended index; %lane as the base gives the lane number. -/
def Obligations.LiteralsAndLaneAddresses : Prop :=
  (∀ (s : State) (d a : BitVec 7) (i : BitVec 9),
  Does (.saddImm d a i) s (fun t => t.setSreg d.toNat ((fun (x y : DWord) => x + y) (t.src a.toNat) (t.imm9 i))) ∧
  Does (.vaddImm d a i) s (fun t => t.setV d.toNat t.exec (fun l => (fun (x y : Word) => x + y) (t.vlane a.toNat l) ((t.imm9 i).setWidth 32))) ∧
  Does (.sandImm d a i) s (fun t => t.setSreg d.toNat ((fun (x y : DWord) => x &&& y) (t.src a.toNat) (t.imm9 i))) ∧
  Does (.vandImm d a i) s (fun t => t.setV d.toNat t.exec (fun l => (fun (x y : Word) => x &&& y) (t.vlane a.toNat l) ((t.imm9 i).setWidth 32))) ∧
  Does (.sorImm d a i) s (fun t => t.setSreg d.toNat ((fun (x y : DWord) => x ||| y) (t.src a.toNat) (t.imm9 i))) ∧
  Does (.vorImm d a i) s (fun t => t.setV d.toNat t.exec (fun l => (fun (x y : Word) => x ||| y) (t.vlane a.toNat l) ((t.imm9 i).setWidth 32))) ∧
  Does (.sxorImm d a i) s (fun t => t.setSreg d.toNat ((fun (x y : DWord) => x ^^^ y) (t.src a.toNat) (t.imm9 i))) ∧
  Does (.vxorImm d a i) s (fun t => t.setV d.toNat t.exec (fun l => (fun (x y : Word) => x ^^^ y) (t.vlane a.toNat l) ((t.imm9 i).setWidth 32))) ∧
  Does (.sshlImm d a i) s (fun t => t.setSreg d.toNat ((fun (x y : DWord) => if y.toNat < 64 then x <<< y.toNat else 0) (t.src a.toNat) (t.imm9 i))) ∧
  Does (.vshlImm d a i) s (fun t => t.setV d.toNat t.exec (fun l => (fun (x y : Word) => if y.toNat < 32 then x <<< y.toNat else 0) (t.vlane a.toNat l) ((t.imm9 i).setWidth 32))) ∧
  Does (.sshrImm d a i) s (fun t => t.setSreg d.toNat ((fun (x y : DWord) => if y.toNat < 64 then x >>> y.toNat else 0) (t.src a.toNat) (t.imm9 i))) ∧
  Does (.vshrImm d a i) s (fun t => t.setV d.toNat t.exec (fun l => (fun (x y : Word) => if y.toNat < 32 then x >>> y.toNat else 0) (t.vlane a.toNat l) ((t.imm9 i).setWidth 32))) ∧
  Does (.ssarImm d a i) s (fun t => t.setSreg d.toNat ((fun (x y : DWord) => if y.toNat < 64 then x.sshiftRight y.toNat else if x.msb then BitVec.allOnes 64 else 0) (t.src a.toNat) (t.imm9 i))) ∧
  Does (.vsarImm d a i) s (fun t => t.setV d.toNat t.exec (fun l => (fun (x y : Word) => if y.toNat < 32 then x.sshiftRight y.toNat else if x.msb then BitVec.allOnes 32 else 0) (t.vlane a.toNat l) ((t.imm9 i).setWidth 32))) ∧
  Does (.smovi d i) s (fun t => t.setSreg d.toNat (t.imm9 i)) ∧
  Does (.vmovi d i) s (fun t => t.setV d.toNat t.exec (fun _ => (t.imm9 i).setWidth 32))) ∧
  (∀ (s : State) (d a b : BitVec 7) (bs : BitVec 1),
  Does (.vlea d a b bs) s (fun t =>
    let u := fun l => t.srcLane a.toNat l + (t.vecB b bs l).signExtend 64
    (t.setV d.toNat t.exec (fun l => (u l).setWidth 32)).setV (d.toNat + 1) t.exec (fun l => (u l >>> 32).setWidth 32)))

/-- Where it is ready, a division reads its sources and exec at issue, clears its flag and makes one result pending on it,
and sets down the exact quotient or remainder, with the results of R106 for a zero divisor, to be written 64 cycles
later for a scalar and 32 for lanes. -/
def Obligations.Divisions : Prop :=
  ∀ (s : State) (f : BitVec 4) (d a b : BitVec 7),
  Does (.sdivS f d a b) s (fun t => t.later 64 f.toNat [(d.toNat, (fun (x y : DWord) => if y = 0 then -1 else BitVec.ofInt 64 (x.toInt.tdiv y.toInt)) (t.src a.toNat) (t.src b.toNat))] [] 0) ∧
  Does (.vdivS f d a b) s (fun t => t.later 32 f.toNat [] ((lanesOf t.exec).map (fun l =>
    (d.toNat, l, (fun (x y : Word) => if y = 0 then -1 else BitVec.ofInt 32 (x.toInt.tdiv y.toInt)) (t.vlane a.toNat l) (t.vlane b.toNat l)))) 0) ∧
  Does (.sdivU f d a b) s (fun t => t.later 64 f.toNat [(d.toNat, (fun (x y : DWord) => if y = 0 then -1 else BitVec.ofNat 64 (x.toNat / y.toNat)) (t.src a.toNat) (t.src b.toNat))] [] 0) ∧
  Does (.vdivU f d a b) s (fun t => t.later 32 f.toNat [] ((lanesOf t.exec).map (fun l =>
    (d.toNat, l, (fun (x y : Word) => if y = 0 then -1 else BitVec.ofNat 32 (x.toNat / y.toNat)) (t.vlane a.toNat l) (t.vlane b.toNat l)))) 0) ∧
  Does (.sremS f d a b) s (fun t => t.later 64 f.toNat [(d.toNat, (fun (x y : DWord) => if y = 0 then x else BitVec.ofInt 64 (x.toInt.tmod y.toInt)) (t.src a.toNat) (t.src b.toNat))] [] 0) ∧
  Does (.vremS f d a b) s (fun t => t.later 32 f.toNat [] ((lanesOf t.exec).map (fun l =>
    (d.toNat, l, (fun (x y : Word) => if y = 0 then x else BitVec.ofInt 32 (x.toInt.tmod y.toInt)) (t.vlane a.toNat l) (t.vlane b.toNat l)))) 0) ∧
  Does (.sremU f d a b) s (fun t => t.later 64 f.toNat [(d.toNat, (fun (x y : DWord) => if y = 0 then x else BitVec.ofNat 64 (x.toNat % y.toNat)) (t.src a.toNat) (t.src b.toNat))] [] 0) ∧
  Does (.vremU f d a b) s (fun t => t.later 32 f.toNat [] ((lanesOf t.exec).map (fun l =>
    (d.toNat, l, (fun (x y : Word) => if y = 0 then x else BitVec.ofNat 32 (x.toNat % y.toNat)) (t.vlane a.toNat l) (t.vlane b.toNat l)))) 0)

/-- Where it is ready, each of these instructions writes the lanes of exec of its destination with the exact sum, product
or fused form of its operands, rounded once under the RND settings of the bundle, and ORs the flags of those lanes
into fpflags; the packed forms also leave the generator state that rounding two elements leaves in each lane. The
rounding itself is the model's own (log entry 5 and the chapter of number formats). -/
def Obligations.FloatArithmetic : Prop :=
  ∀ (s : State) (d a b : BitVec 7) (bs : BitVec 1),
  FloatFn (.vfadd d a b bs) s d a b bs (fun c x y _ => fAdd32 c x y) ∧
  FloatFn (.vfsub d a b bs) s d a b bs (fun c x y _ => fSub32 c x y) ∧
  FloatFn (.vfmul d a b bs) s d a b bs (fun c x y _ => fMul32 c x y) ∧
  FloatFn (.vfma d a b bs) s d a b bs (fFused32 false false) ∧
  FloatFn (.vfms d a b bs) s d a b bs (fFused32 false true) ∧
  FloatFn (.vfnma d a b bs) s d a b bs (fFused32 true false) ∧
  FloatFn (.vfscale d a b bs) s d a b bs (fun c x y _ => fScale32 c x y) ∧
  FloatFn (.vfround d b bs) s d 0 b bs (fun c _ y _ => fRound32 c y) ∧
  SrFn (.vhaddF16 d a b bs) s d a b bs (halfLane .add fmtF16) ∧
  SrFn (.vhaddBf16 d a b bs) s d a b bs (halfLane .add fmtBf16) ∧
  SrFn (.vhmulF16 d a b bs) s d a b bs (halfLane .mul fmtF16) ∧
  SrFn (.vhmulBf16 d a b bs) s d a b bs (halfLane .mul fmtBf16) ∧
  SrFn (.vhfmaF16 d a b bs) s d a b bs (halfLane .fma fmtF16) ∧
  SrFn (.vhfmaBf16 d a b bs) s d a b bs (halfLane .fma fmtBf16)

/-- Where it is ready, vfmin and vfmax return one of their operands unchanged when neither is a NaN, the .num forms the
other operand for one NaN, the .prop forms and two NaNs the canonical NaN; vfabs clears and vfneg inverts bit 31; a
NaN operand always sets nan_seen, and invalid where its top fraction bit is 0. Where it is ready, vfcmp writes the bit
of every lane of exec of its mask destination by its condition on the values, with the result of 07 R114 where an
operand is a NaN, and keeps the other bits; an ordered condition sets invalid for any NaN. vfclass writes the word
with the one bit of the class of its operand. -/
def Obligations.FloatSelectionsAndCompares : Prop :=
  (∀ (s : State) (d a b : BitVec 7) (bs : BitVec 1),
  FloatFn (.vfabs d b bs) s d 0 b bs (fun _ _ y _ => if isNan32 y then (0x7FC00000, nanMarks y) else (y &&& 0x7FFFFFFF, 0)) ∧
  FloatFn (.vfneg d b bs) s d 0 b bs (fun _ _ y _ => if isNan32 y then (0x7FC00000, nanMarks y) else (y ^^^ 0x80000000, 0)) ∧
  FloatFn (.vfminNum d a b bs) s d a b bs (fun _ x y _ =>
    (if isNan32 x || isNan32 y then if isNan32 x then (if isNan32 y then 0x7FC00000 else y) else x else if floatBelow y x then y else x, nanMarks x ||| nanMarks y)) ∧
  FloatFn (.vfminProp d a b bs) s d a b bs (fun _ x y _ =>
    (if isNan32 x || isNan32 y then 0x7FC00000 else if floatBelow y x then y else x, nanMarks x ||| nanMarks y)) ∧
  FloatFn (.vfmaxNum d a b bs) s d a b bs (fun _ x y _ =>
    (if isNan32 x || isNan32 y then if isNan32 x then (if isNan32 y then 0x7FC00000 else y) else x else if floatBelow x y then y else x, nanMarks x ||| nanMarks y)) ∧
  FloatFn (.vfmaxProp d a b bs) s d a b bs (fun _ x y _ =>
    (if isNan32 x || isNan32 y then 0x7FC00000 else if floatBelow x y then y else x, nanMarks x ||| nanMarks y))) ∧
  (∀ (s : State) (d a b : BitVec 7) (bs : BitVec 1),
  FloatCompare (.vfcmp 0 d a b bs) s d a b bs (fun x y => if isNan32 x || isNan32 y then false else fEq (value32 x) (value32 y)) false ∧
  FloatCompare (.vfcmp 1 d a b bs) s d a b bs (fun x y => if isNan32 x || isNan32 y then true else !fEq (value32 x) (value32 y)) false ∧
  FloatCompare (.vfcmp 2 d a b bs) s d a b bs (fun x y => if isNan32 x || isNan32 y then false else fLt (value32 x) (value32 y)) true ∧
  FloatCompare (.vfcmp 3 d a b bs) s d a b bs (fun x y => if isNan32 x || isNan32 y then false else !fLt (value32 y) (value32 x)) true ∧
  FloatCompare (.vfcmp 4 d a b bs) s d a b bs (fun x y => if isNan32 x || isNan32 y then false else fLt (value32 y) (value32 x)) true ∧
  FloatCompare (.vfcmp 5 d a b bs) s d a b bs (fun x y => if isNan32 x || isNan32 y then false else !fLt (value32 x) (value32 y)) true ∧
  FloatCompare (.vfcmp 6 d a b bs) s d a b bs (fun x y => if isNan32 x || isNan32 y then true else false) false ∧
  FloatCompare (.vfcmp 7 d a b bs) s d a b bs (fun x y => if isNan32 x || isNan32 y then false else true) false ∧
  FloatFn (.vfclass d b bs) s d 0 b bs (fun _ _ y _ => (BitVec.ofNat 32 (2 ^ classBit y), 0)))

/-- Where it is ready, vcvt converts every lane of exec between its two formats, a 64-bit operand being a register pair;
vpk packs the lanes of four or eight registers into one under the scale code of the lane; vunpk writes the decoded
elements of one register to four or eight, all sources being read first. The flags of the lanes are ORed into fpflags,
and the generator of each lane stands where its stochastic roundings leave it. -/
def Obligations.ConversionsAndPacking : Prop :=
  ∀ (s : State) (f : BitVec 4) (d a b o : BitVec 7) (bs : BitVec 1),
  Does (.vcvt f d a o) s (fun t => converted t f d a o) ∧
  SrLanes (.vpkE4m3 d a b bs) s d (fun t l =>
    packLane fmtE4m3 t.rnd ((t.vecB b bs l).toNat % 256) (t.srState l) (t.vlane a.toNat l) (t.vlane (a.toNat + 1) l)
      (t.vlane (a.toNat + 2) l) (t.vlane (a.toNat + 3) l)) ∧
  SrLanes (.vpkE5m2 d a b bs) s d (fun t l =>
    packLane fmtE5m2 t.rnd ((t.vecB b bs l).toNat % 256) (t.srState l) (t.vlane a.toNat l) (t.vlane (a.toNat + 1) l)
      (t.vlane (a.toNat + 2) l) (t.vlane (a.toNat + 3) l)) ∧
  FlagLanes (.vpkIo4 d a b bs) s d (fun t l => packIo4Lane ((t.vecB b bs l).toNat % 256) (fun j => t.vlane (a.toNat + j.val) l)) ∧
  Unpacks (.vunpkE4m3 d a b bs) s d 4 (fun t l j =>
    unpackFp8 fmtE4m3 ((t.vecB b bs l).toNat % 256) ((t.vlane a.toNat l).toNat / 2 ^ (8 * j) % 2 ^ 8))
    (fun t l => (List.range 4).foldl (fun r j => r ||| (unpackFp8 fmtE4m3 ((t.vecB b bs l).toNat % 256)
      ((t.vlane a.toNat l).toNat / 2 ^ (8 * j) % 2 ^ 8)).2) 0) ∧
  Unpacks (.vunpkE5m2 d a b bs) s d 4 (fun t l j =>
    unpackFp8 fmtE5m2 ((t.vecB b bs l).toNat % 256) ((t.vlane a.toNat l).toNat / 2 ^ (8 * j) % 2 ^ 8))
    (fun t l => (List.range 4).foldl (fun r j => r ||| (unpackFp8 fmtE5m2 ((t.vecB b bs l).toNat % 256)
      ((t.vlane a.toNat l).toNat / 2 ^ (8 * j) % 2 ^ 8)).2) 0) ∧
  Unpacks (.vunpkIo4 d a b bs) s d 8 (fun t l j =>
    ((((unpackIo4 ((t.vecB b bs l).toNat % 256) (t.vlane a.toNat l)).1)[j]?).getD 0, 0))
    (fun t l => (unpackIo4 ((t.vecB b bs l).toNat % 256) (t.vlane a.toNat l)).2)

/-- Where it is ready, a function of major 0x15 sets down for every lane of exec the result and the flags of its operand
as read at issue, to be written 24 cycles later under its flag, and a fused dot product the sum of the products and of
its destination, rounded once, 16 cycles later. Within the bounds of 07 R117 the result of a function is the free
constant of log entry 5. -/
def Obligations.FunctionsAndDots : Prop :=
  ∀ (s : State) (f : BitVec 4) (d a b : BitVec 7),
  LaterLanes (.vfrcp f d a) s 24 f d (fun t l => funcExec .rcp t.rnd.flush (t.vlane a.toNat l)) ∧
  LaterLanes (.vfrsq f d a) s 24 f d (fun t l => funcExec .rsq t.rnd.flush (t.vlane a.toNat l)) ∧
  LaterLanes (.vfsqrt f d a) s 24 f d (fun t l => funcExec .sqrt t.rnd.flush (t.vlane a.toNat l)) ∧
  LaterLanes (.vfexp2 f d a) s 24 f d (fun t l => funcExec .exp2 t.rnd.flush (t.vlane a.toNat l)) ∧
  LaterLanes (.vflog2 f d a) s 24 f d (fun t l => funcExec .log2 t.rnd.flush (t.vlane a.toNat l)) ∧
  LaterLanes (.vfsin f d a) s 24 f d (fun t l => funcExec .sin t.rnd.flush (t.vlane a.toNat l)) ∧
  LaterLanes (.vfcos f d a) s 24 f d (fun t l => funcExec .cos t.rnd.flush (t.vlane a.toNat l)) ∧
  LaterLanes (.vfdot2Bf16 f d a b) s 16 f d (fun t l => dotLane fmtBf16 2 t.rnd (t.vlane d.toNat l) (t.vlane a.toNat l) (t.vlane b.toNat l)) ∧
  LaterLanes (.vfdot4Fp8 f d a b) s 16 f d (fun t l => dotLane fmtE4m3 4 t.rnd (t.vlane d.toNat l) (t.vlane a.toNat l) (t.vlane b.toNat l))

/-- Where it is ready, a shuffle, rotation or broadcast sets down the lanes of its source chosen at issue, to be written
16 cycles later; a scan or reduction the prefix or the fixed tree of the lanes of exec, 24 cycles later; vballot
writes the lanes of exec whose operand is not zero; vrng reads, replaces or steps the generator of each lane of exec. -/
def Obligations.LaneOperations : Prop :=
  ∀ (s : State) (f : BitVec 4) (d a b o : BitVec 7) (bs : BitVec 1),
  LaterLanes (.vshuf f d a b) s 16 f d (fun t l => (t.laneAt a.toNat ((t.vlane b.toNat l).toNat % 32), 0)) ∧
  LaterLanes (.vlrot f d a b) s 16 f d (fun t l => (t.laneAt a.toNat ((l.val + (t.src b.toNat).toNat % 32) % 32), 0)) ∧
  LaterLanes (.vbcast f d a b) s 16 f d (fun t _ => (t.laneAt a.toNat ((t.src b.toNat).toNat % 32), 0)) ∧
  (∀ op, redOp o.toNat = some op → Does (.vscan f d a o) s (fun t =>
    let r := scanGo op t.rnd false ((lanesOf t.exec).map (fun l => (l, t.vlane a.toNat l))) none
    t.later 24 f.toNat [] (r.1.map (fun p => (d.toNat, p.1, p.2))) r.2)) ∧
  (∀ op, redOp o.toNat = some op → Does (.vscanExcl f d a o) s (fun t =>
    let r := scanGo op t.rnd true ((lanesOf t.exec).map (fun l => (l, t.vlane a.toNat l))) none
    t.later 24 f.toNat [] (r.1.map (fun p => (d.toNat, p.1, p.2))) r.2)) ∧
  (∀ op, redOp o.toNat = some op → Does (.vred f d a o) s (fun t =>
    let r := redLanes op t.rnd (allLanes.map (fun l => if laneBit t.exec l then some (t.vlane a.toNat l) else none))
    t.later 24 f.toNat [(d.toNat, redScalar op r.1)] [] r.2)) ∧
  Does (.vballot d b) s (fun t => t.setSreg d.toNat ((maskOf (fun l => laneBit t.exec l && decide (t.vlane b.toNat l ≠ 0))).setWidth 64)) ∧
  Does (.vrngRd d) s (fun t => t.setV d.toNat t.exec t.srState) ∧
  Does (.vrngSeed d b bs) s (fun t => (t.setV d.toNat t.exec t.srState).setSr t.exec (t.vecB b bs)) ∧
  Does (.vrngStep d) s (fun t => (t.setV d.toNat t.exec (fun l => srStep (t.srState l))).setSr t.exec (fun l => srStep (t.srState l)))

/-- Where it is ready, a branch whose condition holds sets the PC of the issuing split to its own address plus four times
its sign-extended displacement, and one whose condition does not hold lets the PC stand at the next word; call writes
that next address to its link register; the register forms go to the source with bits [1:0] cleared and [63:48]
dropped, read before the link is written; a mask branch tests the mask of the split with its mask register. That a
target and a link are taken modulo 2^48 is the model's reading (log entry 4). -/
def Obligations.BranchesAndCalls : Prop :=
  ∀ (s : State) (r l : BitVec 6) (k : BitVec 4) (d : BitVec 17) (e : BitVec 19),
  Does (.brZ r d) s (fun t => if t.sreg r.toNat = 0 then t.setPc (s.jumpTo d) else t) ∧
  Does (.brNz r d) s (fun t => if t.sreg r.toNat ≠ 0 then t.setPc (s.jumpTo d) else t) ∧
  Does (.brLt r d) s (fun t => if (t.sreg r.toNat).toInt < 0 then t.setPc (s.jumpTo d) else t) ∧
  Does (.brGe r d) s (fun t => if 0 ≤ (t.sreg r.toNat).toInt then t.setPc (s.jumpTo d) else t) ∧
  Does (.call r d) s (fun t => (t.setSreg r.toNat ((s.pc + 4).setWidth 64)).setPc (s.jumpTo d)) ∧
  Does (.jmp d) s (fun t => t.setPc (s.jumpTo d)) ∧
  Does (.ret r) s (fun t => t.setPc ((t.sreg r.toNat).setWidth 48 &&& ~~~3)) ∧
  Does (.jmpReg r) s (fun t => t.setPc ((t.sreg r.toNat).setWidth 48 &&& ~~~3)) ∧
  Does (.callReg r l) s (fun t => (t.setSreg l.toNat ((s.pc + 4).setWidth 64)).setPc ((t.sreg r.toNat).setWidth 48 &&& ~~~3)) ∧
  Does (.brkAny k e) s (fun t => if t.split.mask &&& t.kreg k.toNat ≠ 0 then t.setPc (s.jumpTo e) else t) ∧
  Does (.brkNone k e) s (fun t => if t.split.mask &&& t.kreg k.toNat = 0 then t.setPc (s.jumpTo e) else t)

/-- Where it is ready: mark pushes its address when the group has one split and the stack has room, does nothing in a
divided group, and raises REJOIN_OVERFLOW on a full stack. brd moves the whole split where all its lanes take the
branch, does nothing where none does, else makes the lowest free split for the lanes that take it, or with four splits
pushes a record of them, or raises REJOIN_OVERFLOW where two entries are not free. Where it is ready, join looks at
the top of the rejoin stack: a record of its own split is swapped to, or its held lanes are taken back with the PC at
the join again; a record of another split, or a rejoin entry of this address in a divided group, makes it wait at its
own word; a rejoin entry of this address is popped by the only split; otherwise it only advances the PC. -/
def Obligations.DivergenceAndRejoining : Prop :=
  (∀ (s : State) (k : BitVec 4) (d : BitVec 19),
  (s.cur.ctl.live.length ≤ 1 → s.cur.ctl.stack.length < 8 → Does (.mark d) s (fun t =>
    t.modCtl (fun c => { c with stack := ⟨1, ((s.jumpTo d) >>> 2).setWidth 46⟩ :: c.stack }))) ∧
  (1 < s.cur.ctl.live.length → Does (.mark d) s id) ∧
  (s.cur.ctl.live.length ≤ 1 → 8 ≤ s.cur.ctl.stack.length → Traps (.mark d) s 6 0 0) ∧
  (s.split.mask &&& ~~~(s.split.mask &&& s.kreg k.toNat) = 0 → Does (.brd k d) s (fun t => t.setPc (s.jumpTo d))) ∧
  (s.split.mask &&& ~~~(s.split.mask &&& s.kreg k.toNat) ≠ 0 → s.split.mask &&& s.kreg k.toNat = 0 → Does (.brd k d) s id) ∧
  (∀ n : Fin 4, s.split.mask &&& ~~~(s.split.mask &&& s.kreg k.toNat) ≠ 0 → s.split.mask &&& s.kreg k.toNat ≠ 0 → (s.cur.ctl.split n).live = false →
    (∀ m, m < n → (s.cur.ctl.split m).live = true) → Does (.brd k d) s (fun t =>
      (t.modSplit (fun sp => { sp with mask := s.split.mask &&& ~~~(s.split.mask &&& s.kreg k.toNat) })).modCtl (fun c =>
        c.setSplit n { Split.free with live := true, pc := s.jumpTo d, mask := s.split.mask &&& s.kreg k.toNat }))) ∧
  (s.split.mask &&& ~~~(s.split.mask &&& s.kreg k.toNat) ≠ 0 → s.split.mask &&& s.kreg k.toNat ≠ 0 → (∀ n, (s.cur.ctl.split n).live = true) → s.cur.ctl.stack.length ≤ 6 →
    Does (.brd k d) s (fun t => (t.modSplit (fun sp => { sp with mask := s.split.mask &&& ~~~(s.split.mask &&& s.kreg k.toNat) })).modCtl (fun c =>
      { c with stack := ⟨3, BitVec.ofNat 46 (c.iss.val * 2 ^ 32 + (s.split.mask &&& s.kreg k.toNat).toNat)⟩ ::
        ⟨2, ((s.jumpTo d) >>> 2).setWidth 46⟩ :: c.stack }))) ∧
  (s.split.mask &&& ~~~(s.split.mask &&& s.kreg k.toNat) ≠ 0 → s.split.mask &&& s.kreg k.toNat ≠ 0 → (∀ n, (s.cur.ctl.split n).live = true) → 6 < s.cur.ctl.stack.length →
    Traps (.brd k d) s 6 0 0)) ∧
  (∀ s : State,
  (s.cur.ctl.stack = [] → Does .join s id) ∧
  (∀ l a rest, s.cur.ctl.stack = l :: a :: rest → l.kind = 3 → l.owner = s.cur.ctl.iss.val → l.payload.getLsbD 34 = false →
    Does .join s (fun t => (t.modCtl (fun c => { c with stack :=
        ⟨3, BitVec.ofNat 46 (2 ^ 34 + c.iss.val * 2 ^ 32 + s.split.mask.toNat)⟩ :: ⟨2, (s.pc >>> 2).setWidth 46⟩ :: rest })).modSplit
      (fun sp => { sp with mask := l.payload.setWidth 32, pc := a.payload.setWidth 48 * 4 }))) ∧
  (∀ l a rest, s.cur.ctl.stack = l :: a :: rest → l.kind = 3 → l.owner = s.cur.ctl.iss.val → l.payload.getLsbD 34 = true →
    Does .join s (fun t => (t.modCtl (fun c => { c with stack := rest })).modSplit
      (fun sp => { sp with mask := sp.mask ||| l.payload.setWidth 32, pc := s.pc }))) ∧
  (∀ e rest, s.cur.ctl.stack = e :: rest → e.kind = 3 → e.owner ≠ s.cur.ctl.iss.val →
    Waits .join s (fun t => t.setPc s.pc) s.cur.ctl.joinWait) ∧
  (∀ e rest, s.cur.ctl.stack = e :: rest → e.kind = 1 → e.payload.setWidth 48 * 4 = s.pc → s.cur.ctl.live.length ≤ 1 →
    Does .join s (fun t => t.modCtl (fun c => { c with stack := rest }))) ∧
  (∀ e rest, s.cur.ctl.stack = e :: rest → e.kind = 1 → e.payload.setWidth 48 * 4 = s.pc → 1 < s.cur.ctl.live.length →
    Waits .join s (fun t => t.setPc s.pc) s.cur.ctl.joinWait) ∧
  (∀ e rest, s.cur.ctl.stack = e :: rest → e.kind ≠ 3 → ¬ (e.kind = 1 ∧ e.payload.setWidth 48 * 4 = s.pc) → Does .join s id))

/-- Where it is ready, each mask instruction writes its destination with its function of whole mask registers, whatever
exec holds; k0 reads as all ones. nop changes nothing but the PC. -/
def Obligations.MaskInstructions : Prop :=
  ∀ (s : State) (d a b : BitVec 7),
  Does (.kand d a b) s (fun t => t.setKreg d.toNat (t.kreg a.toNat &&& t.kreg b.toNat)) ∧
  Does (.kor d a b) s (fun t => t.setKreg d.toNat (t.kreg a.toNat ||| t.kreg b.toNat)) ∧
  Does (.kxor d a b) s (fun t => t.setKreg d.toNat (t.kreg a.toNat ^^^ t.kreg b.toNat)) ∧
  Does (.knot d a) s (fun t => t.setKreg d.toNat (~~~ t.kreg a.toNat)) ∧
  Does (.kmov d a) s (fun t => t.setKreg d.toNat (t.kreg a.toNat)) ∧
  Does (.kpop d a) s (fun t => t.setSreg d.toNat (BitVec.ofNat 64 (popCount (t.kreg a.toNat)))) ∧
  Does (.kfirst d a) s (fun t => t.setSreg d.toNat (BitVec.ofNat 64 (lowestOne (t.kreg a.toNat)))) ∧
  s.kreg 0 = BitVec.allOnes 32 ∧
  Does .nop s id

/-- Where fewer than eight hints of the bundle have issued, a hint word with a legal payload joins the bundle, replacing
an earlier hint of its kind, and the PC advances by one word; no register, no memory and nothing outside the split
changes. A hint word of any kind that would be the ninth of its bundle, an RND hint with a mode above 4 or a
saturation code above 2, and an SCP hint with a scope above 5 raise ILLEGAL_OPCODE at the bundle with an exact stop. -/
def Obligations.HintWordsInBundles : Prop :=
  (∀ (s : State) (p : BitVec 22) (n : BitVec 6) (f : BitVec 12) (t o : BitVec 2) (z : BitVec 1) (m : BitVec 3) (g : BitVec 4),
  s.hints.count < 8 →
  (exec (.hintLit p) s = .next (s.hinted (fun b => { b with lit := some p }))) ∧
  (exec (.hintLith p) s = .next (s.hinted (fun b => { b with lith := some p }))) ∧
  (exec (.hintDly n) s = .next (s.hinted (fun b => { b with dly := n.toNat }))) ∧
  (exec (.hintFlg f) s = .next (s.hinted (fun b => { b with flg := f }))) ∧
  (m.toNat ≤ 4 → t.toNat ≤ 2 → exec (.hintRnd t z m) s = .next (s.hinted (fun b => { b with rnd := some (t ++ z ++ m) }))) ∧
  (g.toNat ≤ 5 → exec (.hintScp g o) s = .next (s.hinted (fun b => { b with scp := some (g ++ o) }))) ∧
  (exec (.hintNop t p) s = .next (s.hinted (fun b => b))) ∧
  (exec .hintMsk0 s = .next (s.hinted (fun b => { b with msk := some 0 }))) ∧
  (exec .hintMsk1 s = .next (s.hinted (fun b => { b with msk := some 1 }))) ∧
  (exec .hintMsk2 s = .next (s.hinted (fun b => { b with msk := some 2 }))) ∧
  (exec .hintMsk3 s = .next (s.hinted (fun b => { b with msk := some 3 }))) ∧
  (exec .hintMsk4 s = .next (s.hinted (fun b => { b with msk := some 4 }))) ∧
  (exec .hintMsk5 s = .next (s.hinted (fun b => { b with msk := some 5 }))) ∧
  (exec .hintMsk6 s = .next (s.hinted (fun b => { b with msk := some 6 }))) ∧
  (exec .hintMsk7 s = .next (s.hinted (fun b => { b with msk := some 7 }))) ∧
  (exec .hintMsk8 s = .next (s.hinted (fun b => { b with msk := some 8 }))) ∧
  (exec .hintMsk9 s = .next (s.hinted (fun b => { b with msk := some 9 }))) ∧
  (exec .hintMsk10 s = .next (s.hinted (fun b => { b with msk := some 10 }))) ∧
  (exec .hintMsk11 s = .next (s.hinted (fun b => { b with msk := some 11 }))) ∧
  (exec .hintMsk12 s = .next (s.hinted (fun b => { b with msk := some 12 }))) ∧
  (exec .hintMsk13 s = .next (s.hinted (fun b => { b with msk := some 13 }))) ∧
  (exec .hintMsk14 s = .next (s.hinted (fun b => { b with msk := some 14 }))) ∧
  (exec .hintMsk15 s = .next (s.hinted (fun b => { b with msk := some 15 }))) ∧
  (exec .hintRet0 s = .next (s.hinted (fun b => { b with ret := some 0 }))) ∧
  (exec .hintRet1 s = .next (s.hinted (fun b => { b with ret := some 1 }))) ∧
  (exec .hintRet2 s = .next (s.hinted (fun b => { b with ret := some 2 }))) ∧
  (exec .hintRet3 s = .next (s.hinted (fun b => { b with ret := some 3 })))) ∧
  (∀ s : State,
  (∀ i, (∃ w, encode i = some w ∧ w.toNat / 2 ^ 26 = 0x3E) → 8 ≤ s.hints.count → exec i s = .next (s.trapExact 1 0 0)) ∧
  (∀ t z m, 4 < BitVec.toNat m ∨ 2 < BitVec.toNat t → exec (.hintRnd t z m) s = .next (s.trapExact 1 0 0)) ∧
  (∀ g o, 5 < BitVec.toNat g → exec (.hintScp g o) s = .next (s.trapExact 1 0 0)))

/-- Where it is ready, nothing holds it back and all its elements pass the checks of 14 R237, a scalar, vector, gather or
constant load becomes an outstanding operation of class ld with one request for each 64-byte line, and its bundle is
complete; its registers are written when its data has come. -/
def Obligations.LoadsIssue : Prop :=
  ∀ (s : State) (z : BitVec 3) (y : BitVec 1) (d x : BitVec 7) (b : BitVec 6) (o : BitVec 8) (r k : BitVec 2),
  LoadOf (.sld z d b o r) s (.scalar d.toNat (loadSigned z.toNat)) false (State.retOf · r) (State.elemS · b o (loadSize true z.toNat)) ∧
  LoadOf (.vld z d b o r) s (.vector d.toNat (loadSigned z.toNat) (z == 5)) false (State.retOf · r) (State.elemsV · b o (loadSize false z.toNat)) ∧
  LoadOf (.vldg z d b x k) s (.vector d.toNat (loadSigned z.toNat) (z == 5)) false (State.retOf · 1) (State.elemsI · b x k (loadSize false z.toNat)) ∧
  LoadOf (.cld y d b o r) s (.scalar d.toNat false) true (State.retOf · r) (State.elemS · b o (4 * 2 ^ y.toNat))

/-- Where it is ready, nothing holds it back, the buffer of its core has room and all its elements pass the checks of 14
R237, a scalar, vector, scatter or multicast store becomes an outstanding operation of class st whose bytes stand in
the store buffer, neighbours within a line as one entry, and its bundle is complete; st.mc with a port word of 16 or
more raises ILLEGAL_OPCODE (log entry 31). -/
def Obligations.StoresIssue : Prop :=
  ∀ (s : State) (z : BitVec 2) (d x : BitVec 7) (a b : BitVec 6) (o n : BitVec 8) (r : BitVec 2),
  StoreOf (.sst z d b o r) s .store none (State.retOf · r) (State.elemS · b o (2 ^ z.toNat)) (fun u _ => (u.src d.toNat).toNat) ∧
  StoreOf (.vst z d b o r) s .store none (State.retOf · r) (State.elemsV · b o (2 ^ z.toNat)) (fun u e => u.vsrc d.toNat e.size e.lane) ∧
  StoreOf (.vsts z d b x r) s .store none (State.retOf · 1) (State.elemsI · b x r (2 ^ z.toNat)) (fun u e => u.vsrc d.toNat e.size e.lane) ∧
  ((s.sreg (a.toNat + 1)).toNat < 16 → StoreOf (.stMc a b n) s .mc (some (n.toNat, (s.sreg (a.toNat + 1)).toNat)) (State.retOf · 1)
    (fun u => [⟨0, (u.sreg a.toNat).toNat, 8⟩]) (fun u _ => (u.sreg b.toNat).toNat)) ∧
  (16 ≤ (s.sreg (a.toNat + 1)).toNat → Traps (.stMc a b n) s 1 0 0)

/-- Where it is ready, nothing holds it back, the buffer of its core has room and all its elements pass the checks, an
atomic becomes an outstanding operation of class st with one entry for each element, holding its operation, its
operand and, for cas, its compare value; a vector atomic with ret = 0 drops the old values. -/
def Obligations.AtomicsIssue : Prop :=
  ∀ (s : State) (p e a b : BitVec 6) (v w : BitVec 7) (z : BitVec 2) (q : BitVec 1),
  AtomOf (.atomScalar p e a b z) s p.toNat z.toNat (.scalar e.toNat false) (State.retOf · 1)
    (fun u => [⟨0, (u.sreg a.toNat).toNat, 4 * 2 ^ z.toNat⟩])
    (fun u _ => (if p.toNat = 9 then u.sregs (b.toNat + (if z = 2 then 2 else 1)) (if z = 2 then 2 else 1)
      else u.sregs b.toNat (if z = 2 then 2 else 1)) % 2 ^ (8 * (4 * 2 ^ z.toNat)))
    (fun u _ => u.sregs b.toNat (if z = 2 then 2 else 1) % 2 ^ (8 * (4 * 2 ^ z.toNat))) ∧
  AtomOf (.atomVector p v w z q) s p.toNat z.toNat (if q = 1 then .vector w.toNat false (z == 1) else .drop) (State.retOf · 1)
    (fun u => u.elemsP v (4 * 2 ^ z.toNat))
    (fun u e => u.vsrc (if p.toNat = 9 then w.toNat + z.toNat + 1 else w.toNat) (4 * 2 ^ z.toNat) e.lane)
    (fun u e => u.vsrc w.toNat (4 * 2 ^ z.toNat) e.lane)

/-- Where it is ready, a fence whose conditions hold, and which no deferred cause of the operations it waits for meets,
changes nothing but the PC; a fence whose conditions do not hold yet has issued and holds its split with its kind, its
scope and the point of its issue. -/
def Obligations.FencesWait : Prop :=
  ∀ (s : State) (k : BitVec 4),
  FenceOf (.fenceRel k) s false true k.toNat ∧
  FenceOf (.fenceAr k) s true true k.toNat ∧
  FenceOf .fenceAcq0 s true false 0 ∧
  FenceOf .fenceAcq1 s true false 1 ∧
  FenceOf .fenceAcq2 s true false 2 ∧
  FenceOf .fenceAcq3 s true false 3 ∧
  FenceOf .fenceAcq4 s true false 4 ∧
  FenceOf .fenceAcq5 s true false 5 ∧
  FenceOf .fenceAcq6 s true false 6 ∧
  FenceOf .fenceAcq7 s true false 7 ∧
  FenceOf .fenceAcq8 s true false 8 ∧
  FenceOf .fenceAcq9 s true false 9 ∧
  FenceOf .fenceAcq10 s true false 10 ∧
  FenceOf .fenceAcq11 s true false 11 ∧
  FenceOf .fenceAcq12 s true false 12 ∧
  FenceOf .fenceAcq13 s true false 13 ∧
  FenceOf .fenceAcq14 s true false 14 ∧
  FenceOf .fenceAcq15 s true false 15

/-- Where it is ready and every element lies within the region of the team, is aligned and, for a load, holds no
uncorrectable error, spld takes the bytes as they stand in its issue cycle and sets down the lanes to be written 16
cycles later under its flag, and spst writes the bytes of its lanes in ascending order in its issue cycle. Where it is
ready, a scalar load whose checks give a trap raises it with the lowest lane's cause and address, a line that MEM_ECC
names being poisoned for later readers; an address that is not a multiple of the access size traps with ALIGNMENT once
it is translated, where its bundle has not passed it before it was held; a load behind an open acquire of its split
waits. A prefetch whose translation faults changes nothing but what the walk does; one to the L1 that a holder serves
fills the line. -/
def Obligations.AccessesAtTheCore : Prop :=
  (∀ (s : State) (z : BitVec 3) (y : BitVec 2) (d : BitVec 7) (b : BitVec 6) (o : BitVec 6) (p : BitVec 8) (f : BitVec 4),
  (∀ g, s.region = some g → (∀ e ∈ scratchElems (s.issued (.spld z d b o f)) b o (loadSize false z.toNat), Fits g e true) →
    Does (.spld z d b o f) s (fun t =>
      t.later 16 f.toNat [] ((scratchElems t b o (loadSize false z.toNat)).flatMap (fun e =>
        let v := loadExt (loadSigned z.toNat) 32 e.size (ofLeBytes (g.read t.cycle e.gva e.size))
        (d.toNat, e.lane, BitVec.ofNat 32 v) ::
          (if e.size = 8 then [(d.toNat + 1, e.lane, BitVec.ofNat 32 (v / 2 ^ 32))] else []))) 0)) ∧
  (∀ g, s.region = some g → (∀ e ∈ (s.issued (.spst y d b p)).elemsV b p (2 ^ y.toNat), Fits g e false) →
    Does (.spst y d b p) s (fun t => (t.elemsV b p (2 ^ y.toNat)).foldl (fun u e => u.poke e (t.vsrc d.toNat e.size e.lane)) t))) ∧
  (∀ (s : State) (z : BitVec 3) (d : BitVec 7) (a b : BitVec 6) (o : BitVec 8) (r l k : BitVec 2),
  (∀ c rs t, Clear (s.issued (.sld z d b o r)) s.cur.acc.ld → s.myCtx = some c →
    (s.issued (.sld z d b o r)).checkAll c .read [] ((s.issued (.sld z d b o r)).scp.acq &&
      decide (3 ≤ (s.issued (.sld z d b o r)).scp.scope)) ((s.issued (.sld z d b o r)).elemS b o (loadSize true z.toNat)) = (rs, t) →
    ∀ cause addr m, firstTrap rs = some (cause, addr, m) → Ready (.sld z d b o r) s →
      exec (.sld z d b o r) s = .next (State.trapExact (if cause = 16 then s.poisonBad addr else s) cause addr m)) ∧
  (∀ u : State, ∀ c acc needs prim e x t, u.hints.trans.find? (fun p => p.1 == e.gva) = none →
    u.translate c u.cur.place.core e.gva acc u.cur.trap.pl = (.ok x, t) → e.gva % e.size ≠ 0 →
    u.checkElem c acc needs prim e = (.trap 11 e.gva, t)) ∧
  ((s.issued (.sld z d b o r)).split.acq ≠ [] → NotYet (.sld z d b o r) s .acq) ∧
  ((s.issued (.pf a l k)).split.acq = [] → ∀ c t, s.myCtx = some c → ∀ f, (s.issued (.pf a l k)).translate c s.cur.place.core (s.sreg a.toNat).toNat .read s.cur.trap.pl = (.fault f, t) →
    Does (.pf a l k) s (fun _ => t)) ∧
  ((s.issued (.pf a 0 k)).split.acq = [] → ∀ c t x, s.myCtx = some c →
    (s.issued (.pf a 0 k)).translate c s.cur.place.core (s.sreg a.toNat).toNat .read s.cur.trap.pl = (.ok x, t) →
    ∀ v bs stamp lease, t.fetchServed ⟨s.cur.place.core, c.num, c.vdid, c.world, (s.sreg a.toNat).toNat, x.fa,
      t.cur.acc.rfloor.toNat, k.toNat, false, false, false, none⟩ 16 [] = some (v, bs, stamp, lease) →
    Does (.pf a 0 k) s (fun _ =>
      v.fillL1 s.cur.place.core c (s.sreg a.toNat).toNat x.fa k.toNat false bs stamp lease (v.tagOf x.fa))))

/-- Where it is ready: trap raises SOFTWARE with its code, its return being the bundle after it and every flag left as it
was; tret inside a handler returns and outside one raises ILLEGAL_OPCODE; yield changes nothing where no other context
waits for the partition and else begins pre-emption; halt resets its own context, or another that exists and waits for
the end of that, or answers NOT_FOUND (3). -/
def Obligations.TrapsReturnsAndHalts : Prop :=
  ∀ (s : State) (k : BitVec 16) (d a : BitVec 6),
  Ends (.trap k) s (fun t => (((t.tally 0 1).keepFlags s).modSplit (fun _ => s.split)).takeTraps
    [t.entry 3 t.pc 0 t.bundlePc.toNat k.toNat]) ∧
  (s.cur.trap.inh = true → Ends .tret s (fun t => (t.tally 0 1).trapReturn)) ∧
  (s.cur.trap.inh = false → Traps .tret s 1 0 0) ∧
  (s.contended s.cur.place.ctx = false → Does .yield s id) ∧
  (s.contended s.cur.place.ctx = true → Does .yield s (fun t => t.modCtx t.cur.place.ctx (fun c =>
    if c.preempt = .none then { c with preempt := .grace t.pace } else c))) ∧
  ((s.sreg a.toNat).toNat % 65536 = 65535 ∨ (s.sreg a.toNat).toNat % 65536 = s.cur.place.ctx →
    Ends (.halt d a) s (fun t => (t.tally 0 1).resetAs t.cur.place.ctx 35 t.cur.place.core [])) ∧
  ((s.sreg a.toNat).toNat % 65536 ≠ 65535 → (s.sreg a.toNat).toNat % 65536 ≠ s.cur.place.ctx →
    s.ctx? ((s.sreg a.toNat).toNat % 65536) = none → Does (.halt d a) s (fun t => t.setSreg d.toNat 3)) ∧
  ((s.sreg a.toNat).toNat % 65536 ≠ 65535 → (s.sreg a.toNat).toNat % 65536 ≠ s.cur.place.ctx →
    s.ctx? ((s.sreg a.toNat).toNat % 65536) ≠ none → Holds (.halt d a) s (fun t => t.resetAs ((s.sreg a.toNat).toNat % 65536) 35 t.cur.place.core [])
      (.answer .halt d.toNat ((s.sreg a.toNat).toNat % 65536) 0))

/-- Outside a handler, with an empty queue and a vector that is not 0, an exact trap of the bundle that issues sets inh,
saves the level in ppl and in trec0, runs at PL2 from PL2 and else at PL1, writes trec0 to trec4 with cause, split,
return address, address and information, puts the issuing split at the vector with no bundle, makes it the handler,
and leaves registers, memory and the other groups as they were, but for the flags that the stopping bundle had
consumed, which are set again. Another split that has issued hints without their instruction stands at the first word
of its bundle with no hint issued; every other one is as it was. A return from a trap with an empty queue ends the
handler: the level is the one saved in trec0, inh is cleared, the split that ran the handler stands at bits [47:2] of
trec1 with no bundle and no split is a handler; registers, memory and the other splits are as they were. -/
def Obligations.TrapEntryAndReturn : Prop :=
  (∀ (s : State) (cause addr info : Nat), s.cur.trap.inh = false → s.cur.trap.queue = [] → s.vector s.cur.trap.pl ≠ 0 →
  cause < 256 →
  let t := s.trapExact cause addr info
  t.cur.trap.inh = true ∧ t.cur.trap.ppl = s.cur.trap.pl ∧ t.cur.trap.pl = (if s.cur.trap.pl = 2 then 2 else 1) ∧
  t.cur.trap.queue = [] ∧ t.cur.trap.cur.t0.toNat % 256 = cause ∧
  t.cur.trap.cur.t0.toNat / 2 ^ 30 % 4 = s.cur.ctl.iss.val ∧ t.cur.trap.cur.t0.toNat / 2 ^ 32 % 4 = s.cur.trap.pl % 4 ∧
  t.cur.trap.cur.t1 = s.bundlePc.setWidth 64 ∧ t.cur.trap.cur.t2 = BitVec.ofNat 64 addr ∧
  t.cur.trap.cur.t3 = s.bundlePc.setWidth 64 ∧ t.cur.trap.cur.t4 = BitVec.ofNat 64 info ∧
  t.cur.ctl.handler = some s.cur.ctl.iss ∧ t.pc = (s.vector s.cur.trap.pl).setWidth 48 * 4 ∧ t.hints = Bundle.none ∧
  (∀ j, j ≠ s.cur.ctl.iss → t.cur.ctl.split j =
    if (s.cur.ctl.split j).bundle.active = true ∧ (s.cur.ctl.split j).wait.issued = false then
      { s.cur.ctl.split j with pc := (s.cur.ctl.split j).bundle.start, bundle := Bundle.none, wait := .none }
    else s.cur.ctl.split j) ∧ t.cur.ckpt.closed = true ∧
  t.cur.regs = (s.refund s.cur.ctl.iss).cur.regs ∧ (s.split.bundle.used = 0 → t.cur.regs = s.cur.regs) ∧ t.cur.mat = s.cur.mat ∧ t.cur.acc = s.cur.acc ∧ t.mem = s.mem ∧ t.others = s.others) ∧
  (∀ (s : State) (h : Fin 4), s.cur.trap.queue = [] → s.cur.ctl.handler = some h →
  let t := s.trapReturn
  t.cur.trap.inh = false ∧ t.cur.trap.pl = s.cur.trap.cur.t0.toNat / 2 ^ 32 % 4 ∧ t.cur.ctl.handler = none ∧
  (t.cur.ctl.split h).pc = (s.cur.trap.cur.t1.setWidth 48 &&& ~~~3) ∧ (t.cur.ctl.split h).bundle = Bundle.none ∧
  (∀ j, j ≠ h → t.cur.ctl.split j = s.cur.ctl.split j) ∧ t.cur.regs = s.cur.regs ∧ t.mem = s.mem ∧ t.others = s.others)

/-- An exact cause inside a handler, and a trap where the vector is 0, reset the context with DOUBLE_TRAP (33), whose
record holds the words of the trap that could not be taken. A deferred cause inside a handler joins the queue. A fifth
queued entry makes the fourth a TRAP_OVERFLOW entry with count 2, and each further one adds 1. -/
def Obligations.TrapsInsideHandlers : Prop :=
  ∀ (s : State) (cause addr info : Nat) (e a b c d : TrapEntry),
  (s.cur.trap.inh = true → cause < 256 → s.trapExact cause addr info =
    s.doubleTrap (s.entry cause s.bundlePc addr s.bundlePc.toNat info)) ∧
  (∀ e q, s.cur.trap.queue = e :: q → s.vector s.cur.trap.pl = 0 → s.deliver = s.doubleTrap e) ∧
  (s.cur.trap.inh = true → e.isDeferred = true → s.takeTraps [e] =
    s.modTrap (fun t => { t with queue := enqueueTrap t.queue e })) ∧
  enqueueTrap [] e = [e] ∧ enqueueTrap [a, b, c] e = [a, b, c, e] ∧
  (d.t0.toNat % 256 ≠ 26 → ∃ d', enqueueTrap [a, b, c, d] e = [a, b, c, d'] ∧ d'.t0.toNat % 256 = 26 ∧
    d'.t0.toNat / 2 ^ 48 % 2 ^ 16 = 2) ∧
  (d.t0.toNat % 256 = 26 → d.t0.toNat / 2 ^ 48 % 2 ^ 16 < 65535 → ∃ d', enqueueTrap [a, b, c, d] e = [a, b, c, d'] ∧
    d'.t0.toNat % 256 = 26 ∧ d'.t0.toNat / 2 ^ 48 % 2 ^ 16 = d.t0.toNat / 2 ^ 48 % 2 ^ 16 + 1)

/-- Where it is ready, sysrd writes its destination with the register of an assigned number, and syswr writes a register
that may be written with its source; an unassigned number, and a register of a selected context that does not exist,
raise ILLEGAL_OPCODE; fq_done for queue 2 below PL2 raises PRIVILEGE. pcrd reads the performance counter of the
context of the group, 0 for a number without one. -/
def Obligations.SystemRegisterAccess : Prop :=
  ∀ (s : State) (d : BitVec 6) (b : BitVec 7) (n e : BitVec 12) (v : DWord),
  ((regRead? n.toNat).isSome = true → s.badSel n.toNat = false → Does (.sysrd d n) s (fun t => t.setSreg d.toNat (t.readReg n.toNat))) ∧
  ((regRead? n.toNat).isNone = true ∨ s.badSel n.toNat = true → Traps (.sysrd d n) s 1 0 0) ∧
  ((regWrite? n.toNat).isSome = true → s.badSel n.toNat = false →
    ¬ (n.toNat = 0x2BA ∧ (s.src b.toNat).getLsbD 33 = true ∧ s.cur.trap.pl < 2) →
    Does (.syswr b n) s (fun t => t.writeReg n.toNat (t.src b.toNat))) ∧
  ((regWrite? n.toNat).isNone = true ∨ s.badSel n.toNat = true → Traps (.syswr b n) s 1 0 0) ∧
  ((s.src b.toNat).getLsbD 33 = true → s.cur.trap.pl < 2 → s.badSel 0x2BA = false → Traps (.syswr b 0x2BA) s 2 0 0) ∧
  Does (.pcrd d e) s (fun t => t.setSreg d.toNat (((t.myCtx.map Ctx.perf).bind (fun p => p[e.toNat]?)).getD 0)) ∧
  exec (.sysregWrite n v) s = .next (s.writeReg n.toNat v)

/-- A write of a system register stores the bits of its fields, reserved bits reading 0: fpflags, tvec2, csel, trec1,
tscr0 and tscr1, the error queue, the tier tables and the gang ages; a read gives the register of the group, its
context, its VDID or the package that the number names. -/
def Obligations.SystemRegisterValues : Prop :=
  ∀ (s : State) (v : DWord),
  (s.writeReg 0x010 v).cur.regs.fpflags = (v.setWidth 32 &&& 0x3FF) ∧
  (s.writeReg 0x2A9 v).pkg.tvec2 = v &&& 0x0000FFFFFFFFFFFC ∧
  (s.writeReg 0x2AF v).cur.trap.csel = v &&& 0x1FFFF ∧
  (s.writeReg 0x2B1 v).cur.trap.cur.t1 = v &&& 0x0000FFFFFFFFFFFC ∧
  (s.writeReg 0x2B6 v).cur.trap.scr0 = v ∧
  (s.writeReg 0x2B7 v).cur.trap.scr1 = v ∧
  (s.writeReg 0x2BC v).pkg.erq = v &&& 0xFFFFFFFFFFFFF00F ∧
  (s.writeReg 0x2BD v).pkg.erqLost = 0 ∧
  (∀ i : Fin 64, (s.writeReg (0x2C0 + i.val) v).vregs.tierTab[i] = v) ∧
  (∀ i : Fin 12, (s.writeReg (0x280 + i.val) v).pkg.gangAge[i] = v &&& 0xFFFF) ∧
  s.readReg 0x000 = s.pkg.pkgId ∧
  s.readReg 0x010 = s.cur.regs.fpflags.setWidth 64 ∧
  s.readReg 0x2A9 = s.pkg.tvec2 ∧
  s.readReg 0x2AF = s.cur.trap.csel ∧
  s.readReg 0x2B0 = s.cur.trap.cur.t0 ∧ s.readReg 0x2B1 = s.cur.trap.cur.t1 ∧ s.readReg 0x2B2 = s.cur.trap.cur.t2 ∧
  s.readReg 0x2B3 = s.cur.trap.cur.t3 ∧ s.readReg 0x2B4 = s.cur.trap.cur.t4 ∧
  s.readReg 0x2B6 = s.cur.trap.scr0 ∧ s.readReg 0x2B7 = s.cur.trap.scr1 ∧
  (∀ c, s.cur.trap.pl < 2 → s.ctx? s.cur.place.ctx = some c → s.readReg 0x100 = c.s1root ∧ s.readReg 0x110 = c.fpBase ∧
  s.readReg 0x290 = c.nodeBase ∧ s.readReg 0x2A8 = c.tvec1 ∧ s.readReg 0x2AA = c.ctxCfg ∧ s.readReg 0x2AB = c.cimg ∧
  s.readReg 0x2B8 = c.fq1 ∧ s.readReg 0x300 = c.wdog) ∧
  (∀ i : Fin 64, s.readReg (0x140 + i.val) = s.vregs.tq[i] ∧ s.readReg (0x1C0 + i.val) = s.vregs.cobjQ[i] ∧ s.readReg (0x2C0 + i.val) = s.vregs.tierTab[i]) ∧
  s.readReg 0x400 = s.pkg.pwrCap ∧ s.readReg 0x401 = s.pkg.pwrStat ∧ s.readReg 0x402 = BitVec.ofNat 64 s.pkg.tray

/-- A partition descriptor is written only where its checks hold, and part_status tells; the L1s of its slices then start
empty (the model's, log entry 8); a quota of at most 128 where no VDID has one is taken and evicts the VDID's entries,
one above 128 and an object range past the table have no effect; a zero byte of rte_cost keeps the old one; a work
list is configured by a legal capacity, and its reset clears it; a ring takes its base and its fields only while it is
disabled, starts at sequence 0 when it is enabled, stuck where it was FAULTED or SEALED and has no new key (log entry
27), and stops when it is disabled. Each of these writes has the effect its register's rule gives, and an out-of-range
value none: tier_cfg, erq_lost, wdog with its special value 0, pcclr, pwr_cap and tray. A resolution removes the live
fault record of its tag, and the group that counted it has one missing page fewer. A word that is no instruction
raises ILLEGAL_OPCODE, or PRIVILEGE where its function lies above the level of the group. -/
def Obligations.ConfigurationAndControlWrites : Prop :=
  (∀ (s : State) (i : Fin 12) (u : Fin 64) (r : Fin 16) (p l : Nat) (v : DWord),
  (s.partCheck i.val v = 0 → exec (.partDescWrite i v) s = .next { s with
    pkg := { s.pkg with partStatus := 0, partDesc := s.pkg.partDesc.set i v }
    l1 := s.l1.filter (fun l => !(partSlices v ++ partSlices s.pkg.partDesc[i]).contains (sliceOf l.core)) }) ∧
  (s.partCheck i.val v ≠ 0 → exec (.partDescWrite i v) s = .next { s with pkg := { s.pkg with partStatus := BitVec.ofNat 64 (s.partCheck i.val v) } }) ∧
  (128 < v.toNat / 256 % 256 → exec (.tqWrite u v) s = .next s) ∧
  (v.toNat / 256 % 256 ≤ 128 → (∀ w : Fin 64, s.vregs.tq[w] = 0) → exec (.tqWrite u v) s = .next { s with
    vregs := { s.vregs with tq := s.vregs.tq.set u (v &&& 0xFF1F) }
    tlb := s.tlb.filter (fun e => e.vdid != u.val) }) ∧
  (∃ t, exec (.rteCostWrite v) s = .next t ∧ ∀ k < 4, t.pkg.rteCost.toNat / 256 ^ k % 256 =
    (if v.toNat / 256 ^ k % 256 = 0 then s.pkg.rteCost.toNat / 256 ^ k % 256 else v.toNat / 256 ^ k % 256)) ∧
  (4096 < v.toNat % 4096 + v.toNat / 2 ^ 16 % 2 ^ 13 → exec (.cobjQWrite u v) s = .next s) ∧
  (s.objs = [] → (∀ w : Fin 64, s.vregs.cobjQ[w] = 0) → v.toNat % 4096 + v.toNat / 2 ^ 16 % 2 ^ 13 ≤ 4096 →
    exec (.cobjQWrite u v) s = .next { s with vregs := { s.vregs with cobjQ := s.vregs.cobjQ.set u (v &&& 0x1FFF0FFF) } }) ∧
  (v.toNat / 2 % 32 = 0 ∨ (4 ≤ v.toNat / 2 % 32 ∧ v.toNat / 2 % 32 ≤ 24) → ∃ t, exec (.wlCfgWrite p l v) s = .next t ∧
    (t.wl p l).cfg = v &&& ~~~1) ∧
  (∃ t, exec (.wlReset p l) s = .next t ∧ (t.wl p l).head = 0 ∧ (t.wl p l).tail = 0 ∧ (t.wl p l).prod = (s.wl p l).cfg.toNat / 2 ^ 54 % 2 ^ 10) ∧
  ((s.rings[r]).ctl.getLsbD 63 = true → exec (.ringBaseWrite r v) s = .next s ∧ exec (.ringCtlWrite r v) s = .next s) ∧
  ((s.rings[r]).ctl.getLsbD 63 = false → exec (.ringBaseWrite r v) s =
    .next { s with rings := s.rings.set r { s.rings[r] with base := v &&& 0xFFFFFFFFFFFFFFE0 } }) ∧
  ((s.rings[r]).ctl.getLsbD 63 = false → ∃ t, exec (.ringCtlWrite r v) s = .next t ∧ (t.rings[r]).ctl.getLsbD 63 = false ∧
    (t.rings[r]).ctl.toNat / 2 ^ 16 % 2 ^ 24 = v.toNat / 2 ^ 16 % 2 ^ 24) ∧
  ((s.rings[r]).ctl.getLsbD 63 = false → ∃ t, exec (.ringEnable r v) s = .next t ∧ (t.rings[r]).ctl.getLsbD 63 = true ∧
    (t.rings[r]).seq = 0 ∧ (t.rings[r]).st = (s.rings[r]).stuck.getD .running) ∧
  ((s.rings[r]).ctl.getLsbD 63 = true → ∃ t, exec (.ringDisable r) s = .next t ∧ (t.rings[r]).ctl.getLsbD 63 = false ∧
    (t.rings[r]).st = .disabled)) ∧
  (∀ (s : State) (n m : Nat) (v : DWord),
  (∃ t, exec (.tierCfgWrite v) s = .next t ∧ t.pkg.tierCfg.getLsbD 0 = v.getLsbD 0 ∧
    (1 ≤ v.toNat / 2 ^ 16 % 32 → v.toNat / 2 ^ 16 % 32 ≤ 16 → t.pkg.tierCfg.toNat / 2 ^ 16 % 32 = v.toNat / 2 ^ 16 % 32)) ∧
  exec .erqLostClear s = .next { s with pkg := { s.pkg with erqLost := 0 } } ∧
  (v.toNat % 64 = 0 → exec (.wdogWrite n v) s = .next (s.modCtx n (fun c => { c with wdog := 26 }))) ∧
  (16 ≤ v.toNat % 64 → v.toNat % 64 ≤ 40 → exec (.wdogWrite n v) s = .next (s.modCtx n (fun c => { c with wdog := v &&& 63 }))) ∧
  ((0 < v.toNat % 64 ∧ v.toNat % 64 < 16) ∨ 40 < v.toNat % 64 → exec (.wdogWrite n v) s = .next s) ∧
  exec (.pcclr n v) s = .next (s.modCtx n (fun c => { c with perf := Vector.ofFn (fun i : Fin 16 => if v.getLsbD i.val then 0 else c.perf[i]) })) ∧
  (1500 ≤ v.toNat % 4096 → v.toNat % 4096 ≤ 2900 → 1 ≤ v.toNat / 2 ^ 16 % 1024 → v.toNat / 2 ^ 16 % 1024 ≤ 1000 →
    exec (.pwrCapWrite v) s = .next { s with pkg := { s.pkg with pwrCap := v &&& 0x83FF0FFF, pwrStat := s.pkg.pwrStat &&& ~~~1 } }) ∧
  (v.toNat % 4096 < 1500 ∨ 2900 < v.toNat % 4096 ∨ v.toNat / 2 ^ 16 % 1024 = 0 ∨ 1000 < v.toNat / 2 ^ 16 % 1024 → exec (.pwrCapWrite v) s = .next s) ∧
  (s.pkg.tray = 0 → ∃ t, exec .trayRemoveRequest s = .next t ∧ t.pkg.tray = 1) ∧
  (s.pkg.tray = 1 → exec .trayCancel s = .next { s with pkg := { s.pkg with tray := 0 } }) ∧
  (s.pkg.tray ≠ 0 → exec .trayRemoveRequest s = .next s) ∧
  (s.pkg.tray ≠ 1 → exec .trayCancel s = .next s) ∧
  (∀ r : FaultRec, s.faults.find? (fun r => r.written && r.tag == v.toNat % 2 ^ 32 && (r.queue == 1 && r.ctx == n)) = some r → r.counted = false →
    exec (.fqDone n m 1 v) s = .next { s with faults := s.faults.filter (fun x => x.id != r.id) }) ∧
  (∀ r : FaultRec, s.faults.find? (fun r => r.written && r.tag == v.toNat % 2 ^ 32 && (r.queue == 1 && r.ctx == n)) = some r → r.counted = true →
    v.getLsbD 32 = false → exec (.fqDone n m 1 v) s =
      .next ({ s with faults := s.faults.filter (fun x => x.id != r.id) }.modAnyGroup r.uid (Group.pageCame s.pace s.cycle))) ∧
  (∀ w : Word, w.toNat / 2 ^ 26 = 0x3E → exec (.illegalOpcode w) s = .next (s.trapExact 1 0 0)) ∧
  (∀ w : Word, w.toNat / 2 ^ 26 ≠ 0x3E → s.flagWait s.hints.flg = .satisfied →
    exec (.illegalOpcode w) s = .next (s.trapExact (if s.cur.trap.pl < illegalLevel w then 2 else 1) 0 0)))

/-- Where it is ready, wait.f changes nothing more, its flags having been consumed; waitc completes where every count is
within its limit, waits where a load that is outstanding holds a count above it, and raises WAIT_UNSATISFIABLE where
nothing outstanding can bring the count down; bar raises WAIT_UNSATISFIABLE at a level that cannot complete, waits for
its release conditions, and then arrives at the counter of its unit, which is released when every member has arrived
or exited. -/
def Obligations.WaitsAndBarriers : Prop :=
  ∀ (s : State) (f : BitVec 12) (l m c : BitVec 6) (v : BitVec 3) (y : BitVec 1),
  Does (.waitF f) s id ∧
  (s.cur.acc.ld ≤ l.toNat → s.cur.acc.st ≤ m.toNat → s.cur.acc.cp ≤ c.toNat → s.cur.trap.deferred = [] → Does (.waitc l m c) s id) ∧
  (l.toNat < 63 → l.toNat < s.cur.acc.ld → (∃ o ∈ s.cur.acc.ops, o.kind = .load) → m.toNat = 63 → c.toNat = 63 →
    NotYet (.waitc l m c) s (.waitc true false false)) ∧
  (l.toNat < 63 → l.toNat < s.cur.acc.ld → (∀ o ∈ s.cur.acc.ops, o.kind ≠ .load) → Traps (.waitc l m c) s 4 0 0) ∧
  (s.rec? s.cur.place.launch = none → Traps (.bar v y) s 4 0 0) ∧
  (∀ r, s.rec? s.cur.place.launch = some r → barLevelOk r v.toNat = false → Traps (.bar v y) s 4 0 0) ∧
  (∀ r, s.rec? s.cur.place.launch = some r → barLevelOk r v.toNat = true → s.cur.ctl.live = [s.cur.ctl.iss] →
    s.relOk (r.bits (64 * v.toNat + 523) (64 * v.toNat + 520)) s.nextId = false → NotYet (.bar v 0) s (.bar v.toNat false false)) ∧
  (∀ r, s.rec? s.cur.place.launch = some r → barLevelOk r v.toNat = true → s.cur.ctl.live = [s.cur.ctl.iss] →
    Ends (.bar v 1) s (fun t => t.joinBar r v.toNat true)) ∧
  (∀ r, s.rec? s.cur.place.launch = some r → barLevelOk r v.toNat = true → s.cur.ctl.live = [s.cur.ctl.iss] → s.cur.trap.deferred = [] →
    s.relOk (r.bits (64 * v.toNat + 523) (64 * v.toNat + 520)) s.nextId = true → Ends (.bar v 0) s (fun t => t.joinBar r v.toNat false))

/-- Where it is ready, no acquire of its split is open and its class has room, a copy whose scratchpad sides lie in the
region of the team, a fill copy, or a tensor copy between two valid descriptors of one format becomes a command of an
engine of the partition that no other engine has fewer commands than (the choice of the engine is the model's, log
entry 14), with the earlier operations of its group to wait for; its bundle is complete; a copy of length 0 completes
as it issues. A side outside the region raises SPAD_RANGE, an invalid or differing descriptor DESC_INVALID, a
partition without an engine NO_ENGINE; a copy waits behind an open acquire of its split, and where every engine holds
32 commands. -/
def Obligations.CopiesIssue : Prop :=
  ∀ (s : State) (a b e : BitVec 6) (m n : BitVec 7) (p q : BitVec 1),
  CopyOf (.cp a b e p q) s (fun t => .bytes (t.sreg a.toNat).toNat (t.sreg b.toNat).toNat ((t.sreg e.toNat).toNat % 2 ^ 32) (p == 1) (q == 1) false)
    (fun t => (p = 1 → (t.sreg e.toNat).toNat % 2 ^ 32 = 0 ∨ (t.sreg a.toNat).toNat + (t.sreg e.toNat).toNat % 2 ^ 32 ≤ t.regionSize) ∧
      (q = 1 → (t.sreg e.toNat).toNat % 2 ^ 32 = 0 ∨ (t.sreg b.toNat).toNat + (t.sreg e.toNat).toNat % 2 ^ 32 ≤ t.regionSize)) ∧
  CopyOf (.cpFill a b e) s (fun t => .bytes (t.sreg a.toNat).toNat (t.sreg b.toNat).toNat ((t.sreg e.toNat).toNat % 2 ^ 32) false false true)
    (fun _ => True) ∧
  (∀ dd ds, s.tdt? m.toNat = some dd → s.tdt? n.toNat = some ds → tdFmt dd = tdFmt ds →
    (tdFmt ds = 6 → (s.sreg e.toNat).toNat % 4 = 0 ∧ (s.sreg (e.toNat + 1)).toNat % 4 = 0 ∧ tdTile ds 0 % 4 = 0) →
    CopyOf (.cpT m n e) s (fun t => .tensor dd ds ((t.sreg (e.toNat + 1)).toNat % 2 ^ 32) ((t.sreg (e.toNat + 1)).toNat / 2 ^ 32)
      ((t.sreg e.toNat).toNat % 2 ^ 32) ((t.sreg e.toNat).toNat / 2 ^ 32)) (fun _ => True)) ∧
  (s.split.acq = [] → s.tdt? m.toNat = none ∨ s.tdt? n.toNat = none → Traps (.cpT m n e) s 19 0 0) ∧
  (∀ dd ds, s.tdt? m.toNat = some dd → s.tdt? n.toNat = some ds → tdFmt dd ≠ tdFmt ds → s.split.acq = [] → Traps (.cpT m n e) s 19 0 0) ∧
  (s.split.acq = [] → s.regionSize < (s.sreg a.toNat).toNat + (s.sreg e.toNat).toNat % 2 ^ 32 → (s.sreg e.toNat).toNat % 2 ^ 32 ≠ 0 →
    Traps (.cp a b e 1 q) s 12 (s.sreg a.toNat).toNat 0) ∧
  (s.split.acq = [] → s.cur.acc.cp < 62 → s.myEngines = [] → Traps (.cpFill a b e) s 23 0 0) ∧
  (s.split.acq = [] → s.cur.acc.cp < 62 → s.myEngines ≠ [] → (s.sreg e.toNat).toNat % 2 ^ 32 ≠ 0 →
    (∀ x ∈ s.myEngines, 32 ≤ (s.copies.filter (fun c => c.engine == x)).length) → NotYet (.cpFill a b e) s .room) ∧
  (s.split.acq ≠ [] → NotYet (.cp a b e p q) s .acq ∧ NotYet (.cpFill a b e) s .acq ∧ NotYet (.cpT m n e) s .acq)

/-- The pieces of a byte copy are the bytes of the command once each in ascending order, each within one line on both
sides. The first command of an engine whose earlier accesses are complete starts with the floor of its group and moves
its pieces in ascending order, all in one event (R244 gives the accesses of one copy no order among themselves: the
order is the model's choice, log entry 12), up to one that fails, which ends it, or one that waits for its line or for
a far block, which it reports; one that is done leaves its engine, its group's count falls and its floor and wctmax
rise; a copy node's record learns the time; one whose access failed leaves a deferred COPY_FAULT with the cause,
address and offset, or status 9 in its record. -/
def Obligations.CopiesRun : Prop :=
  ∀ s : State,
  (∀ dst src len, ((bytePieces dst src len 0 len).flatMap (fun p => (List.range p.len).map (p.off + ·))) = List.range len) ∧
  (∀ dst src len, ∀ p ∈ bytePieces dst src len 0 len, 0 < p.len ∧ p.dst = (dst + p.off) % 2 ^ 64 ∧ p.src = some ((src + p.off) % 2 ^ 64) ∧
    p.dst % 64 + p.len ≤ 64 ∧ (src + p.off) % 64 + p.len ≤ 64) ∧
  (∀ n c g, s.copies.find? (fun c => c.id == n) = some c → c.started = false → c.moved = none → c.err = none →
    s.engineBusy c = false → s.afterDone c.uid c.after = true → s.engWaits n = false →
    s.agentFor c.ctx c.core c.uid n c.scp c.cls = some g →
    exec (.copyStart n) s = .next ((s.modCopy n (fun c => { c with floor := g.floor })).movePieces g c c.pieces 0)) ∧
  (∀ g c k, s.movePieces g c [] k = s.modCopy c.id (fun x => { x with moved := some k, started := true })) ∧
  (∀ g c p ps k t, s.movePiece g c p = .ok () t → s.movePieces g c (p :: ps) k = t.movePieces g c ps (k + 1)) ∧
  (∀ g c p ps k t x a, s.movePiece g c p = .err t x a → s.movePieces g c (p :: ps) k = t.modCopy c.id (fun x' => { x' with
    moved := some k, started := true, err := if x'.err.isNone then some (x, p.off, a) else x'.err })) ∧
  (∀ g c p ps k t, s.movePiece g c p = .wait t → s.movePieces g c (p :: ps) k = t.modCopy c.id (fun x => { x with moved := some k })) ∧
  (∀ g c p ps k t i gva a acc, s.movePiece g c p = .miss t (.far i) gva a acc →
    s.movePieces g c (p :: ps) k = (t.modCopy c.id (fun x => { x with moved := some k })).engMiss g (.far i) gva acc) ∧
  (∀ g i gva acc, s.engMiss g (.far i) gva acc = { s with
    nextId := s.nextId + 1
    tier := { s.tier with offered := s.tier.offered ++ [⟨s.nextId, g.id, g.c.vdid, g.c.num, i, gva, acc⟩] } }) ∧
  (∀ n c, s.copies.find? (fun c => c.id == n) = some c → s.copyDone c = true → c.err = none → c.node = none →
    exec (.copyComplete n) s = .next (({ s with copies := s.copies.filter (fun x => x.id != c.id) }.freeRegion c.core c.team).onGroup
      c.uid (fun g => { g with acc := { g.acc with
        cp := g.acc.cp - 1
        rfloor := BitVec.ofNat 64 (max g.acc.rfloor.toNat c.wct)
        wctmax := BitVec.ofNat 64 (max g.acc.wctmax.toNat c.wct) } }))) ∧
  (∀ n c r, s.copies.find? (fun c => c.id == n) = some c → s.copyDone c = true → c.err = none → c.node = some r →
    exec (.copyComplete n) s = .next (({ s with copies := s.copies.filter (fun x => x.id != c.id) }).modRec r (fun r =>
      { r with nodeDone := true, wct := max r.wct c.wct }))) ∧
  (∀ n c r e, s.copies.find? (fun c => c.id == n) = some c → s.copyDone c = true → c.err = some e → c.node = some r →
    ∃ t, exec (.copyFault n) s = .next t ∧ t.copies = s.copies.filter (fun x => x.id != c.id) ∧
      ∀ q, s.rec? r = some q → q.st ≠ .refused → t.rec? r = some { q with nodeDone := true, wct := max q.wct c.wct, status := 9 }) ∧
  (∀ n c e, s.copies.find? (fun c => c.id == n) = some c → s.copyDone c = true → c.err = some e → c.node = none →
    s.cur.place.used = true → s.cur.place.uid = c.uid →
    ∃ t, exec (.copyFault n) s = .next t ∧ t.copies = s.copies.filter (fun x => x.id != c.id) ∧ t.cur.acc.cp = s.cur.acc.cp - 1 ∧
      t.cur.trap.deferred = s.cur.trap.deferred ++ [deferredOf .copy c.id 24 e.1 e.2.2 c.pc e.2.1])

/-- Where it is ready: tdt.drop removes the entry of the group's context; tdt.get reads one word of a valid entry, else 0;
tdt.set of a misaligned or malformed record answers 1, else writes the entry with its valid bit, deriving its scale
where the record asks, and answers 0. tree.set of a malformed entry answers 1 and else answers 0 and changes the entry
of that port and number only. A multicast packet with no budget, or whose tree entry is invalid or of another VDID, is
dropped and recorded; one of a primary of the package delivers the echoes it carries and leaves by the ports of its
entry that have a link, with the tree number of the entry and one hop less; one of another package becomes an echo to
a holder of this package, where that primary counts it in its echo set (log entry 45). -/
def Obligations.DescriptorsAndTrees : Prop :=
  ∀ (s : State) (d a b : BitVec 6) (w : BitVec 3) (n : BitVec 7) (k : BitVec 8),
  Does (.tdtDrop n) s (fun t => t.modCtx t.cur.place.ctx (fun c => { c with tdt := c.tdt.filter (fun x => x.1 != n.toNat) })) ∧
  (∀ e, s.tdt? n.toNat = some e → Does (.tdtGet d w n) s (fun t => t.setSreg d.toNat (e.extractLsb' (64 * w.toNat) 64))) ∧
  (s.tdt? n.toNat = none → Does (.tdtGet d w n) s (fun t => t.setSreg d.toNat 0)) ∧
  ((s.sreg a.toNat).toNat % 64 ≠ 0 → Does (.tdtSet d a n) s (fun t => t.setSreg d.toNat 1)) ∧
  (∀ bs t, (s.sreg a.toNat).toNat % 64 = 0 → Reads (s.issued (.tdtSet d a n)) (s.sreg a.toNat).toNat 1 bs t →
    tdOk (BitVec.ofNat 512 (ofLeBytes bs)) = false → Does (.tdtSet d a n) s (fun _ => t.setSreg d.toNat 1)) ∧
  (∀ bs t, (s.sreg a.toNat).toNat % 64 = 0 → Reads (s.issued (.tdtSet d a n)) (s.sreg a.toNat).toNat 1 bs t →
    tdOk (BitVec.ofNat 512 (ofLeBytes bs)) = true → tdf (BitVec.ofNat 512 (ofLeBytes bs)) 463 463 = 0 →
    Does (.tdtSet d a n) s (fun _ => (t.modCtx t.cur.place.ctx (fun c => { c with tdt :=
      (n.toNat, tdSet (BitVec.ofNat 512 (ofLeBytes bs)) 504 504 1) :: c.tdt.filter (fun x => x.1 != n.toNat) })).setSreg d.toNat 0)) ∧
  (∀ bs t cs v, (s.sreg a.toNat).toNat % 64 = 0 → Reads (s.issued (.tdtSet d a n)) (s.sreg a.toNat).toNat 1 bs t →
    tdOk (BitVec.ofNat 512 (ofLeBytes bs)) = true → tdf (BitVec.ofNat 512 (ofLeBytes bs)) 463 463 = 1 →
    ReadsFrom (decide (3 ≤ tdf (BitVec.ofNat 512 (ofLeBytes bs)) 467 464)) t [⟨0, tdf (BitVec.ofNat 512 (ofLeBytes bs)) 383 320, 4⟩] cs v →
    let e := BitVec.ofNat 512 (ofLeBytes bs)
    let r := scaleCode (BitVec.ofNat 32 (ofLeBytes (cs.take 4))) (if tdFmt e = 4 then 57344 else 448) 0
    Does (.tdtSet d a n) s (fun _ => (((v.raise r.2).modCkpt (fun c => { c with closed := true })).setTdt n.toNat
      (some (tdSet (tdSet e 479 472 r.1) 504 504 1))).setSreg d.toNat 0)) ∧
  (∀ z, s.sreg (b.toNat + 1) = z → (16 ≤ s.sreg b.toNat ∨ z.getLsbD 62 ∨ z.extractLsb' 48 8 ≠ 0 ∨ z.extractLsb' 29 11 ≠ 0 ∨ z.getLsbD ((s.sreg b.toNat).toNat % 16) ∨
      (z.getLsbD 28 ∧ 4 ≤ s.sreg b.toNat)) → Does (.treeSet d b k) s (fun t => t.setSreg d.toNat 1)) ∧
  (∀ z, s.sreg (b.toNat + 1) = z → ¬ (16 ≤ s.sreg b.toNat ∨ z.getLsbD 62 ∨ z.extractLsb' 48 8 ≠ 0 ∨ z.extractLsb' 29 11 ≠ 0 ∨ z.getLsbD ((s.sreg b.toNat).toNat % 16) ∨
      (z.getLsbD 28 ∧ 4 ≤ s.sreg b.toNat)) → Ready (.treeSet d b k) s → ∃ t, exec (.treeSet d b k) s = .next t ∧
    t.treeAt (s.sreg b.toNat).toNat k.toNat = z ∧ t.sreg d.toNat = 0 ∧
    ∀ p n, (p ≠ (s.sreg b.toNat).toNat ∨ n ≠ k.toNat) → t.treeAt p n = s.treeAt p n) ∧
  (∀ port pkt, port < 16 → s.mcast.find? (fun m => m.port == port && m.pkt == pkt) = none →
    pkt.hops = 0 ∨ (s.treeAt port pkt.tree).getLsbD 63 = false ∨ (bitsOf (s.treeAt port pkt.tree).toNat 61 56 ≠ pkt.vdid) →
    exec (.multicastForward port pkt) s = .next (s.errorRecord ⟨42, 0, pkt.vdid, 0, 0, pkt.addr, [], false⟩)) ∧
  (∀ port pkt m, port < 16 → s.mcast.find? (fun m => m.port == port && m.pkt == pkt) = some m → pkt.hops ≠ 0 →
    bitsOf (s.treeAt port pkt.tree).toNat 63 63 = 1 → bitsOf (s.treeAt port pkt.tree).toNat 61 56 = pkt.vdid → pkt.prim / 256 = s.pkgNum →
    ∃ t, exec (.multicastForward port pkt) s = .next t ∧
      t.mcast = s.mcast.erase m ++ (s.treePorts (s.treeAt port pkt.tree).toNat port).map (fun p =>
        ⟨beyond p, 0, { pkt with tree := bitsOf (s.treeAt port pkt.tree).toNat 47 40, hops := pkt.hops - 1 }⟩) ∧
      t.echoes = s.echoes.map (fun e => if e.write == m.write && e.carried then { e with carried := false } else e)) ∧
  (∀ port pkt h, port < 16 → s.mcast.find? (fun m => m.port == port && m.pkt == pkt) = none → pkt.hops ≠ 0 → pkt.prim / 256 ≠ s.pkgNum →
    s.treeAt port pkt.tree = 0x8000000000000000#64 ||| (BitVec.ofNat 64 pkt.vdid <<< 56) ||| 0x10000000#64 → pkt.vdid < 64 →
    s.holderState (s.localId 0) pkt.addr = some h → h.st ≠ .primary →
    ∃ t i, exec (.multicastForward port pkt) s = .next t ∧ t.mcast = s.mcast ∧ (t.echoes = s.echoes ∨ t.echoes = s.echoes ++
      [⟨i, 0, pkt.prim, s.localId 0, h.pre, pkt.addr, pkt.data.take (64 - pkt.addr % 64), pkt.time, false, false⟩]))

/-- Where it is ready, a claim of items of which another group holds one, or one is still being cleared, answers 2 and
claims nothing (R270 says only that an item being cleared cannot be claimed yet: the answer BUSY is the model's
inference); any other claim answers 0, makes the group the owner of all of them, starts a new item empty, and leaves
every other item as it was. A release of items that a command of the group names holds its split; another clears and
unclaims the items the group holds, and they are free to claim when their clearing completes. -/
def Obligations.MatrixClaims : Prop :=
  ∀ (s : State) (d : BitVec 6) (m : BitVec 12) (o : BitVec 8),
  ((∃ j x, BitVec.getLsbD m j = true ∧ s.tile? s.cur.place.core j = some x ∧ x.owner ≠ s.cur.place.uid) →
    Does (.zclaim d m) s (fun t => t.setSreg d.toNat 2)) ∧
  ((∀ j x, BitVec.getLsbD m j = true → s.tile? s.cur.place.core j = some x → x.owner = s.cur.place.uid) → Ready (.zclaim d m) s →
    ∃ t, exec (.zclaim d m) s = .next t ∧ t.sreg d.toNat = 0 ∧ t.cur.mat.tiles = s.cur.mat.tiles ||| m ∧
      (∀ j, BitVec.getLsbD m j = true → ∃ x, t.tile? s.cur.place.core j = some x ∧ x.owner = s.cur.place.uid) ∧
      (∀ j, BitVec.getLsbD m j = true → s.tile? s.cur.place.core j = none → t.tile? s.cur.place.core j = some ⟨s.cur.place.core, j, s.cur.place.uid, s.myWorld, false, [], []⟩) ∧
      (∀ j x, s.tile? s.cur.place.core j = some x → t.tile? s.cur.place.core j = some x) ∧
      ∀ c j, BitVec.getLsbD m j = false → t.tile? c j = s.tile? c j) ∧
  ((∃ j x, BitVec.getLsbD o j = true ∧ s.slot? s.cur.place.core j = some x ∧ x.owner ≠ s.cur.place.uid) →
    Does (.oclaim d o) s (fun t => t.setSreg d.toNat 2)) ∧
  ((∀ j x, BitVec.getLsbD o j = true → s.slot? s.cur.place.core j = some x → x.owner = s.cur.place.uid) → Ready (.oclaim d o) s →
    ∃ t, exec (.oclaim d o) s = .next t ∧ t.sreg d.toNat = 0 ∧ t.cur.mat.slots = s.cur.mat.slots ||| o ∧
      (∀ j, BitVec.getLsbD o j = true → ∃ x, t.slot? s.cur.place.core j = some x ∧ x.owner = s.cur.place.uid) ∧
      (∀ j, BitVec.getLsbD o j = true → s.slot? s.cur.place.core j = none → t.slot? s.cur.place.core j = some ⟨s.cur.place.core, j, s.cur.place.uid, s.myWorld, false, 255, [], [], []⟩) ∧
      (∀ j x, s.slot? s.cur.place.core j = some x → t.slot? s.cur.place.core j = some x) ∧
      ∀ c j, BitVec.getLsbD o j = false → t.slot? c j = s.slot? c j) ∧
  Releases (.zrel m) s m.toNat 0 (.zrel m.toNat) ∧
  Releases (.orel o) s 0 o.toNat (.orel o.toNat) ∧
  (∀ core idx, exec (.itemClearComplete core true idx) s =
    .next { s with tiles := s.tiles.filter (fun x => !(x.core == core && x.idx == idx && x.clearing)) }) ∧
  (∀ core idx, exec (.itemClearComplete core false idx) s =
    .next { s with oslots := s.oslots.filter (fun x => !(x.core == core && x.idx == idx && x.clearing)) })

/-- Where it is ready: a command whose tiles and slots the group holds and whose formats fit enters the queue of its core
while fewer than eight commands stand there, or the held list while that is not empty, an oload, and an mloop with a
count that is not 0, setting its slots' tags; a missing claim raises NOT_CLAIMED, an invalid descriptor DESC_INVALID
and a misfit MATRIX_SHAPE. mfence answers the open batch number and opens the next; mwait traps on a batch that is
still open, waits for commands of its batch in the queue, and completes where none is left; mresume gives the held
commands back and its abandon form drops them, the WCTs of the writes they have made entering wctmax; mstat answers
the claims, the counts and the progress of a fault. -/
def Obligations.MatrixInstructions : Prop :=
  ∀ (s : State) (d : BitVec 6) (m : BitVec 12) (z : BitVec 4) (p q : BitVec 3) (a b : BitVec 7) (k : BitVec 2) (w : BitVec 1),
  (s.claims m.toNat 0 = true → Queues (.zzero m) s (.zzero m.toNat) ⟨false, false, 0⟩ false id) ∧
  (s.claims m.toNat 0 = false → Traps (.zzero m) s 20 0 0) ∧
  (s.claims (2 ^ z.toNat) (2 ^ p.toNat ||| 2 ^ q.toNat) = true → pairOk (s.slotTag p.toNat) (s.slotTag q.toNat) = true →
    Queues (.mmul z p q) s
      (.mmul z.toNat p.toNat q.toNat (s.slotTag p.toNat) (s.slotTag q.toNat)) ⟨false, false, 0⟩ false id) ∧
  (s.claims (2 ^ z.toNat) (2 ^ p.toNat ||| 2 ^ q.toNat) = false → Traps (.mmul z p q) s 20 0 0) ∧
  (s.claims (2 ^ z.toNat) (2 ^ p.toNat ||| 2 ^ q.toNat) = true → pairOk (s.slotTag p.toNat) (s.slotTag q.toNat) = false →
    Traps (.mmul z p q) s 21 0 0) ∧
  (∀ e x, s.tdt? a.toNat = some e → (s.sreg d.toNat).toNat = x → s.claims 0 (2 ^ p.toNat) = true →
    shapeFits e (x % 2 ^ 32) (x / 2 ^ 32) = true → Queues (.oload p a d) s (.oload p.toNat e (x % 2 ^ 32) (x / 2 ^ 32)) (s.issued (.oload p a d)).scp true
      (fun t => t.tagSlot p.toNat (tdFmt e))) ∧
  (s.split.acq = [] → s.tdt? a.toNat = none → Traps (.oload p a d) s 19 0 0) ∧
  (∀ da db x y l, s.tdt? a.toNat = some da → s.tdt? b.toNat = some db → l = bitsOf (s.sreg (48 + 4 * k.toNat)).toNat 18 16 → l % 2 = 0 →
    x = (s.sreg (49 + 4 * k.toNat)).toNat → y = (s.sreg (50 + 4 * k.toNat)).toNat →
    s.claims (2 ^ z.toNat) (2 ^ l + 2 ^ (l + 1)) = true → shapeFits da (x % 2 ^ 32) (x / 2 ^ 32) = true →
    shapeFits db (y % 2 ^ 32) (y / 2 ^ 32) = true → pairOk (tdFmt da) (tdFmt db) = true →
    Queues (.mloop z a b k) s (.mloop z.toNat l ((s.sreg (48 + 4 * k.toNat)).toNat % 2 ^ 16) da db (x % 2 ^ 32) (x / 2 ^ 32) (y % 2 ^ 32) (y / 2 ^ 32))
      (s.issued (.mloop z a b k)).scp true (fun t => if (s.sreg (48 + 4 * k.toNat)).toNat % 2 ^ 16 = 0 then t
        else (t.tagSlot l (tdFmt da)).tagSlot (l + 1) (tdFmt db))) ∧
  (∀ e x, s.tdt? a.toNat = some e → (s.sreg d.toNat).toNat = x → s.claims (2 ^ z.toNat) 0 = true →
    tdFmt e = 0 → (w = 1 → tdf e 383 320 ≠ 0) → Queues (.mdrain z a d w) s
      (.mdrain z.toNat e (x % 2 ^ 32) (x / 2 ^ 32) (w == 1) ((s.issued (.mdrain z a d w)).hints.rnd.getD 0) []) (s.issued (.mdrain z a d w)).scp true id) ∧
  (∀ e x f g, s.tdt? a.toNat = some e → (s.sreg d.toNat).toNat = x → s.claims (2 ^ z.toNat) 0 = true →
    drainFmt (tdFmt e) = some f → (w = 1 → tdf e 383 320 ≠ 0) → g = (s.issued (.mdrain z a d w)).hints.rnd.getD 0 →
    Queues (.mdrain z a d w) s
      (.mdrain z.toNat e (x % 2 ^ 32) (x / 2 ^ 32) (w == 1) g (if usesSr f (rndOfCode g) then allLanes.map s.srState else []))
      (s.issued (.mdrain z a d w)).scp true
      (fun t => if usesSr f (rndOfCode g) then t.setSr (BitVec.allOnes 32) (fun l => srSteps 512 (t.srState l)) else t)) ∧
  (∀ e, s.tdt? a.toNat = some e → s.claims (2 ^ z.toNat) 0 = true → 5 ≤ tdFmt e → s.split.acq = [] → Traps (.mdrain z a d w) s 21 0 0) ∧
  Does (.mfence d) s (fun t => (t.setSreg d.toNat t.cur.mat.mopen).modMat (fun m => { m with mopen := m.mopen + 1 })) ∧
  (s.cur.mat.mopen.toNat ≤ (s.sreg d.toNat).toNat → Traps (.mwait d) s 4 0 0) ∧
  ((s.sreg d.toNat).toNat < s.cur.mat.mopen.toNat → (∃ c ∈ s.mqueue, c.uid = s.cur.place.uid ∧ c.batch ≤ (s.sreg d.toNat).toNat) →
    NotYet (.mwait d) s (.mwait (s.sreg d.toNat).toNat)) ∧
  ((s.sreg d.toNat).toNat < s.cur.mat.mopen.toNat → (∀ c ∈ s.mqueue, c.uid = s.cur.place.uid → (s.sreg d.toNat).toNat < c.batch) →
    (∀ c ∈ s.cur.mat.released ++ s.cur.mat.held, (s.sreg d.toNat).toNat < c.batch) → Does (.mwait d) s id) ∧
  (s.cur.mat.held = [] → Does .mresume s id ∧ Does .mresumeAbandon s id) ∧
  (s.cur.mat.held ≠ [] → Does .mresumeAbandon s (fun t => (t.modMat (fun m => { m with held := [], fault := none })).modCur
      (fun g => g.learn (s.cur.mat.held.foldl (fun n c => max n c.wct) 0))) ∧
    Does .mresume s (fun t => (t.modMat (fun m =>
      { m with released := m.released ++ m.held, held := [], fault := none })).feed t.cur.place.core 8)) ∧
  (Ready (.mstat d) s → ∃ t r, exec (.mstat d) s = .next t ∧ t.sreg d.toNat = r ∧ r.extractLsb' 16 12 = s.cur.mat.tiles ∧
    r.extractLsb' 8 8 = s.cur.mat.slots ∧ r.getLsbD 7 = !s.cur.mat.held.isEmpty ∧ r.extractLsb' 0 7 = 0 ∧
    r.extractLsb' 28 4 = BitVec.ofNat 4 (s.mqueue.filter (fun c => c.core == s.cur.place.core)).length ∧
    r.extractLsb' 32 4 = BitVec.ofNat 4 s.cur.mat.held.length ∧
    (s.cur.mat.fault = none → r.extractLsb' 36 28 = 0) ∧
    ∀ f c, s.cur.mat.fault = some f → s.cur.mat.held.head? = some c → c.kind.ztile < 12 → r.extractLsb' 48 16 = BitVec.ofNat 16 f.progress ∧
      r.extractLsb' 44 4 = BitVec.ofNat 4 (mstatCause f.cause) ∧ r.extractLsb' 40 4 = BitVec.ofNat 4 c.kind.ztile ∧
      r.extractLsb' 37 3 = BitVec.ofNat 3 c.kind.code)

/-- The command at the head of a core's queue that is done leaves the queue with its flags: zzero makes its tiles zero,
and mmul makes every element of the tile the step of its row of a and its row of b, read under the tags of its issue,
over the old element; a drain that has sent its writes stays until they are answered, and faults at the lowest row
with a write that ended without effect. A command that faults moves with the later commands of its group, those of the
queue and those released to it, to the front of the held list with its progress, and the fault record holds the cause,
progress and address. An operand element with an uncorrectable error reads as +0 and sets merr. -/
def Obligations.MatrixCommandsRun : Prop :=
  ∀ s : State,
  (∀ core c t fl, s.headCmd core = some c → s.runCmd c = .done t fl → exec (.matrixCommandComplete core) s =
    .next ((t.recordBad c fl (s.badElems c)).endCmd c fl)) ∧
  (∀ c fl es, fl.getLsbD 9 = false → s.recordBad c fl es = s) ∧
  (∀ c fl e k, fl.getLsbD 9 = true → s.ctx? c.ctx = some k → s.recordBad c fl [e] =
    s.errorRecord ⟨41, k.world, k.vdid, c.core, 8, 0, e.map (BitVec.ofNat 64), k.conf⟩) ∧
  (∀ core c g m, s.headCmd core = some c → s.agentFor c.ctx c.core c.uid c.id c.scp c.cls = some g → c.kind = .zzero m →
    exec (.matrixCommandComplete core) s = .next (State.endCmd { s with tiles := s.tiles.map (fun x =>
      if x.core == c.core && decide (m / 2 ^ x.idx % 2 = 1) then { x with elems := [], bad := [] } else x) } c 0)) ∧
  (∀ core c g z a b ta tb x y w, s.headCmd core = some c → s.agentFor c.ctx c.core c.uid c.id c.scp c.cls = some g → c.kind = .mmul z a b ta tb →
    s.tile? c.core z = some w → s.slot? c.core a = some x → s.slot? c.core b = some y →
    exec (.matrixCommandComplete core) s = .next ((((s.setTile (matStep w x y ta tb).1).count c.ctx 2 1).recordBad c (matStep w x y ta tb).2 (s.badElems c)).endCmd c (matStep w x y ta tb).2)) ∧
  (∀ core c t fl, s.headCmd core = some c → s.runCmd c = .sent t fl → fl.getLsbD 9 = false → exec (.matrixCommandComplete core) s = .next { t with
    mqueue := t.mqueue.map (fun x => if x.id == c.id then { x with sent := true, flags := x.flags ||| fl } else x) }) ∧
  (∀ core c x t cause prog addr fl, s.headCmd core = some c → s.runCmd c = .fault t cause prog addr none fl → fl.getLsbD 9 = false →
    t.mqueue.find? (fun x => x.id == c.id) = some x →
    exec (.matrixCommandFault core) s = .next ((({ t with mqueue := t.mqueue.filter (fun y => !(y.uid == x.uid)) }).onGroup x.uid (fun g =>
      { g with mat := { g.mat with
        held := { x with progress := prog, sent := false, flags := x.flags ||| fl, err := none, pos := 128 * prog } ::
          t.mqueue.filter (fun y => y.uid == x.uid && y.id != x.id) ++ g.mat.released ++ g.mat.held
        released := []
        fault := some ⟨cause, prog, addr⟩ } })).feed core 8)) ∧
  (∀ core c g z e o0 o1 amax rnd sr row cause a, s.headCmd core = some c → c.core = core → s.agentFor c.ctx c.core c.uid c.id c.scp c.cls = some g →
    c.kind = .mdrain z e o0 o1 amax rnd sr → s.afterDone c.uid c.after = true → s.writes = [] → c.err = some (row, cause, a) →
    s.runCmd c = .fault s cause row a none 0) ∧
  (∀ core cmd row w, w.origin = .matrix core cmd row → w.err ≠ none → ∀ c ∈ (s.respond w).mqueue, c.id = cmd →
    ∃ x, c.err = some x ∧ x.1 ≤ row) ∧
  (∀ (w : TileSt) (x y : SlotSt) (ta tb m n : Nat), m < 128 → n < 128 → w.bad = [] →
    (matStep w x y ta tb).1.val m n = (stepElem (w.val m n) (x.val ta m) (y.val tb n)).1) ∧
  (∀ (t : SlotSt) (tag r k : Nat), t.bad.contains (128 * r + k) = true → t.val tag r k = (.fin false 0 0, flMerr))

/-- Where it is ready, its elements lie at the start of elements of one object, its tag fits and nothing holds it back,
red becomes an outstanding operation with one fold for each element that its lanes name, combined over lane positions;
one that switches the operator, or whose leaf has closed the open round, is held first. An object enters UPDATE under
a tag with what its owner here has written back home and no line of it left in an L1. A red with no lane changes
nothing, outside every object it raises NO_OBJECT, and a tag that does not fit, an odd pair or a group that is no leaf
OBJ_MISMATCH. red.close of an object holds its split until the group's earlier reds have folded, and then answers 0,
10 for a leaf without which the round has ended by timeout, or, where the object is not update-only, 11; that a leaf
that has closed, a group that is no leaf and an object with no open round are answered 0 is the model's choice (log
entries 43 and 48). -/
def Obligations.Reductions : Prop :=
  ∀ (s : State) (a b : BitVec 7) (g : BitVec 4) (d e : BitVec 6),
  (∀ o c (oks : List (Elem × Nat)) t, (s.issued (.red a b g)).elemsP a 4 ≠ [] →
    (∀ e ∈ (s.issued (.red a b g)).elemsP a 4, s.objAt s.myVdid e.gva = some o ∧ o.element e.gva = some 0) →
    (o.esize = 8 → b.toNat % 2 = 0 ∧ ∀ x ∈ s.cur.regs.bad, x.1 = .v (b.toNat + 1) → s.exec.getLsbD x.2 = false) → o.st ≠ .ownerLost →
    tagFits g.toNat o.fmt = true → (o.ordered = true → s.cur.place.flat < o.leaves) →
    (s.issued (.red a b g)).switches o g.toNat = false →
    Clear (s.issued (.red a b g)) s.cur.acc.st → (s.issued (.red a b g)).sbRoom ((s.issued (.red a b g)).elemsP a 4).length = true →
    (s.issued (.red a b g)).myCtx = some c → (s.issued (.red a b g)).checkAll c .write [tagCap g.toNat o.fmt, 7] false
      (((s.issued (.red a b g)).elemsP a 4).map (fun e => { e with size := o.esize })) = (oks.map (fun e => (e.1, Chk.ok e.2)), t) →
    redStall o.idx s.cur.place.flat g.toNat t = none →
    let rs := redElems g.toNat (oks.map Prod.fst) (fun l => BitVec.ofNat 64 ((s.vlane b.toNat l).toNat +
      (if o.esize = 8 then (s.vlane (b.toNat + 1) l).toNat * 2 ^ 32 else 0)))
    Does (.red a b g) s (fun _ => (t.raise (rs.foldl (fun f r => f ||| r.2.2) 0)).startStore .red .drop 1 none none
      (rs.filterMap (fun r => (oks.find? (fun k => k.1 == r.1)).map (fun k => (⟨k.1.lane, k.1.gva, k.2, o.esize, none, false⟩, o.esize,
        WKind.fold o.idx o.ordered s.cur.place.flat g.toNat k.1.gva r.2.1)))))) ∧
  (s.split.acq ≠ [] → NotYet (.red a b g) s .acq) ∧
  (s.split.acq = [] → (s.issued (.red a b g)).elemsP a 4 = [] → Does (.red a b g) s id) ∧
  (∀ o, s.split.acq = [] → (s.issued (.red a b g)).elemsP a 4 ≠ [] → (∀ e ∈ (s.issued (.red a b g)).elemsP a 4, s.objAt s.myVdid e.gva = some o) →
    (o.esize = 8 → ∀ x ∈ s.cur.regs.bad, x.1 = .v (b.toNat + 1) → s.exec.getLsbD x.2 = false) →
    (o.esize = 8 ∧ b.toNat % 2 = 1) ∨ tagFits g.toNat o.fmt = false ∨ (o.ordered = true ∧ o.leaves ≤ s.cur.place.flat) → Traps (.red a b g) s 18 0 0) ∧
  (s.split.acq = [] → (s.issued (.red a b g)).elemsP a 4 ≠ [] → (∀ e ∈ (s.issued (.red a b g)).elemsP a 4, s.objAt s.myVdid e.gva = none) → Traps (.red a b g) s 17 0 0) ∧
  (∀ o, s.objAt s.myVdid (s.sreg e.toNat).toNat = some o → o.st ≠ .ownerLost → Holds (.redClose d e) s id (.answer .close d.toNat o.idx s.nextId)) ∧
  (s.objAt s.myVdid (s.sreg e.toNat).toNat = none → Traps (.redClose d e) s 17 0 0) ∧
  (∀ i r o idx n, s.cur.ctl.runs i = true → (s.cur.ctl.split i).wait = .answer .close r idx n → s.cur.redsDone n = true →
    s.obj? idx = some o → o.st = .update → o.ordered = true → s.completeHeld i =
      (s.closeLeaf o s.cur.place.flat).2.answer s.cur.place.uid i r (BitVec.ofNat 64 (s.closeLeaf o s.cur.place.flat).1)) ∧
  (∀ o l, o.late.contains l = false → o.isOpen = false ∨ o.closed.contains l = true ∨ o.leaves ≤ l → s.closeLeaf o l = (0, s)) ∧
  (∀ o l, o.late.contains l = true → s.closeLeaf o l = (10, s.modObj o.idx (fun y => { y with late := y.late.filter (fun x => x != l) }))) ∧
  (∀ o k l tag, s.obj? k = some o → s.switches o tag = true → redStall k l tag s = some (Wait.switch k tag s.nextId)) ∧
  (∀ o k l tag, s.obj? k = some o → s.switches o tag = false → o.isOpen = true → o.closed.contains l = true → redStall k l tag s = some (Wait.merge k)) ∧
  (∀ o k l tag, s.obj? k = some o → s.switches o tag = false → o.isOpen = true → o.closed.contains l = false → redStall k l tag s = none) ∧
  (∀ o, s.objAt s.myVdid (s.sreg e.toNat).toNat = some o → o.st = .ownerLost → Traps (.redClose d e) s 15 ((s.issued (.redClose d e)).faOf (s.sreg e.toNat).toNat) 0) ∧
  (∀ o k tag, s.obj? k = some o → o.st ≠ .ownerLost → s.ownedAway o = false → o.st ≠ .update → o.isMember = false → s.enterUpdate k tag =
      (((s.writtenHome o).uncache o (fun _ => true)).recall o).modObj k (fun y => { y with st := .update, tag := tag, isOpen := y.isOpen || y.ordered })) ∧
  (∀ o k tag, s.obj? k = some o → o.st = .update → o.tag = tag → s.enterUpdate k tag =
      s.modObj k (fun y => { y with st := .update, tag := tag, isOpen := y.isOpen || y.ordered })) ∧
  (∀ o l, l ∈ (s.uncache o (fun _ => true)).l1 → l ∈ s.l1 ∧ (l.const = false → s.isLine o l.fline = false)) ∧
  (∀ i r o idx n, s.cur.ctl.runs i = true → (s.cur.ctl.split i).wait = .answer .close r idx n → s.cur.redsDone n = true →
    s.obj? idx = some o → o.st ≠ .update → s.completeHeld i = s.answer s.cur.place.uid i r 11)

/-- Where it is ready: an object number outside the range of the VDID answers 1, a number without an object 3 and an
object in OWNER_LOST 9. cobj.decl of a malformed pair answers 1; of a good pair whose home is reachable, whose number
and lines are free and whose partials fit it adds the entry and answers 0. cobj.drop sends home what an owner here has
written, frees the entry with its partials and nodes and answers 0. cobj.sync holds its split until the round is
complete, or raises WAIT_UNSATISFIABLE where its own leaf holds the round up, and then answers 0 with the round
record. cobj.reclaim answers 11, 8 or, where the lost agent is fenced, returns the object to SHARED, what that agent
sent before being barred, and answers 0. -/
def Obligations.ObjectInstructions : Prop :=
  ∀ (s : State) (d a : BitVec 6) (o : BitVec 8),
  (s.objIndex ((s.issued (.cobjDecl d a o)).objNum o) = none → Does (.cobjDecl d a o) s (fun t => t.setSreg d.toNat 1)) ∧
  (s.objIndex ((s.issued (.cobjDrop d o)).objNum o) = none → Does (.cobjDrop d o) s (fun t => t.setSreg d.toNat 1)) ∧
  (s.objIndex ((s.issued (.cobjSync d o)).objNum o) = none → Does (.cobjSync d o) s (fun t => t.setSreg d.toNat 1)) ∧
  (s.objIndex ((s.issued (.cobjSyncShared d o)).objNum o) = none → Does (.cobjSyncShared d o) s (fun t => t.setSreg d.toNat 1)) ∧
  (s.objIndex ((s.issued (.cobjReclaim d o)).objNum o) = none → Does (.cobjReclaim d o) s (fun t => t.setSreg d.toNat 1)) ∧
  (∀ n, s.objIndex ((s.issued (.cobjDrop d o)).objNum o) = some n → s.obj? n = none → Does (.cobjDrop d o) s (fun t => t.setSreg d.toNat 3)) ∧
  (∀ n, s.objIndex ((s.issued (.cobjSync d o)).objNum o) = some n → s.obj? n = none → Does (.cobjSync d o) s (fun t => t.setSreg d.toNat 3)) ∧
  (∀ n, s.objIndex ((s.issued (.cobjSyncShared d o)).objNum o) = some n → s.obj? n = none → Does (.cobjSyncShared d o) s (fun t => t.setSreg d.toNat 3)) ∧
  (∀ n, s.objIndex ((s.issued (.cobjReclaim d o)).objNum o) = some n → s.obj? n = none → Does (.cobjReclaim d o) s (fun t => t.setSreg d.toNat 3)) ∧
  (∀ n x, s.objIndex ((s.issued (.cobjDrop d o)).objNum o) = some n → s.obj? n = some x → x.st = .ownerLost → Does (.cobjDrop d o) s (fun t => t.setSreg d.toNat 9)) ∧
  (∀ n x, s.objIndex ((s.issued (.cobjSync d o)).objNum o) = some n → s.obj? n = some x → x.st = .ownerLost → Does (.cobjSync d o) s (fun t => t.setSreg d.toNat 9)) ∧
  (∀ n x, s.objIndex ((s.issued (.cobjSyncShared d o)).objNum o) = some n → s.obj? n = some x → x.st = .ownerLost → Does (.cobjSyncShared d o) s (fun t => t.setSreg d.toNat 9)) ∧
  (∀ n bs t, s.objIndex ((s.issued (.cobjDecl d a o)).objNum o) = some n → (s.sreg a.toNat).toNat % 64 = 0 →
    Reads (s.issued (.cobjDecl d a o)) (s.sreg a.toNat).toNat 2 bs t → ∀ x : ObjEntry, x.shape = BitVec.ofNat 512 (ofLeBytes (bs.take 64)) →
    x.tree = BitVec.ofNat 256 (ofLeBytes ((bs.drop 64).take 32)) → (shapeOk x && treeOk x) = false → Does (.cobjDecl d a o) s (fun _ => t.setSreg d.toNat 1)) ∧
  (∀ n bs t, s.objIndex ((s.issued (.cobjDecl d a o)).objNum o) = some n → (s.sreg a.toNat).toNat % 64 = 0 →
    Reads (s.issued (.cobjDecl d a o)) (s.sreg a.toNat).toNat 2 bs t → ∀ x : ObjEntry,
    x = ⟨n, t.myVdid, t.myWorld, BitVec.ofNat 512 (ofLeBytes (bs.take 64)), BitVec.ofNat 256 (ofLeBytes ((bs.drop 64).take 32)),
      .shared, 15, 0, false, 0, 0, 0, false, [], 0, false, ((t.myCtx.map Ctx.s1root).getD 0), none, none, 0, [], [], [], []⟩ → shapeOk x = true → treeOk x = true →
    ∀ c fa v, t.myCtx = some c → t.checkElem c .read [] false ⟨0, x.base, 64⟩ = (.ok fa, v) → t.obj? n = none →
    (∀ y ∈ t.objs, y.vdid = x.vdid → overlaps x y = false) →
    (x.ordered = true → x.lineCount * (if x.dom 1 = 2 then x.fan 1 else 32) ≤
      256 * bitsOf ((t.pkg.partDesc[c.part]?).getD 0).toNat 19 16) → v.slotStatus x (x.scope == 4 && (v.home fa).any (fun h => h.holder / 256 != v.pkgNum)) = 0 →
    Does (.cobjDecl d a o) s (fun _ => State.setSreg { v.spendFree x with objs := v.objs ++ [{ x with
      st := if x.field 399 392 = 15 then .shared else .update
      tag := x.field 399 392
      home := fa
      isMember := x.scope == 4 && (v.home fa).any (fun h => h.holder / 256 != v.pkgNum) }] } d.toNat 0)) ∧
  (∀ n x, s.objIndex ((s.issued (.cobjDrop d o)).objNum o) = some n → s.obj? n = some x → x.st ≠ .ownerLost → x.st ≠ .update →
    Does (.cobjDrop d o) s (fun t =>
      let u := if x.isMember then (t.writtenHome x).collect x (fun _ => true) else t.writtenHome x
      State.setSreg { u with
        objs := u.objs.filter (fun y => y.idx != n)
        partials := u.partials.filter (fun p => p.obj != n)
        nodes := u.nodes.filter (fun m => m.obj != n) } d.toNat 0)) ∧
  (∀ n x, s.objIndex ((s.issued (.cobjDrop d o)).objNum o) = some n → s.obj? n = some x → x.st = .update → x.snoop = none → x.away = [] → Ready (.cobjDrop d o) s →
    ∃ t, exec (.cobjDrop d o) s = .next t ∧ t.obj? n = none ∧ (∀ p ∈ t.partials, p.obj ≠ n) ∧ t.sreg d.toNat = 0) ∧
  (∀ n x, s.objIndex ((s.issued (.cobjSync d o)).objNum o) = some n → s.obj? n = some x → x.st ≠ .ownerLost → (x.st = .update → x.owes s.cur.place.flat = false) →
    Holds (.cobjSync d o) s id (.answer .cobj d.toNat (2 * n + 0) s.nextId)) ∧
  (∀ n x, s.objIndex ((s.issued (.cobjSync d o)).objNum o) = some n → s.obj? n = some x → x.st = .update → x.owes s.cur.place.flat = true → Traps (.cobjSync d o) s 4 0 0) ∧
  (∀ n x, s.objIndex ((s.issued (.cobjSyncShared d o)).objNum o) = some n → s.obj? n = some x → x.st ≠ .ownerLost → (x.st = .update → x.owes s.cur.place.flat = false) →
    Holds (.cobjSyncShared d o) s id (.answer .cobj d.toNat (2 * n + 1) s.nextId)) ∧
  (∀ n x, s.objIndex ((s.issued (.cobjSyncShared d o)).objNum o) = some n → s.obj? n = some x → x.st = .update → x.owes s.cur.place.flat = true → Traps (.cobjSyncShared d o) s 4 0 0) ∧
  (∀ i r b x n, s.cur.ctl.runs i = true → (s.cur.ctl.split i).wait = .answer .cobj r (2 * x.idx + b) n → b < 2 → s.cur.redsDone n = true →
    s.obj? x.idx = some x → (∀ y ∈ s.objs, y.idx = x.idx → y = x) → x.isOpen = false → x.ended ≠ s.cycle → x.isMember = false → x.st ≠ .ownerLost → x.st ≠ .update → s.completeHeld i =
      ((s.modObj x.idx (fun y => { y with mflags := 0 })).answer s.cur.place.uid i r 0).setSreg (r + 1) x.roundRecord) ∧
  (∀ n x, s.objIndex ((s.issued (.cobjReclaim d o)).objNum o) = some n → s.obj? n = some x → x.st ≠ .ownerLost →
    Does (.cobjReclaim d o) s (fun t => t.setSreg d.toNat 11)) ∧
  (∀ n x, s.objIndex ((s.issued (.cobjReclaim d o)).objNum o) = some n → s.obj? n = some x → x.st = .ownerLost → s.fenced x = false →
    Does (.cobjReclaim d o) s (fun t => t.setSreg d.toNat 8)) ∧
  (∀ n x, s.objIndex ((s.issued (.cobjReclaim d o)).objNum o) = some n → s.obj? n = some x → x.st = .ownerLost → s.fenced x = true →
    Does (.cobjReclaim d o) s (fun t => ((t.poisonLines x false).modObj n (fun y => { y with st := .shared, lost := none, barred := match y.lost with
      | some a => (a, t.pace) :: y.barred.filter (fun b => b.1 != a)
      | none => y.barred })).setSreg d.toNat 0))

/-- A collected partial is folded into the home value in arrival order; a child's first result opens a round and stands at
its node, one that a node has timed out without is rejected, and news from the home ends a member's round; a switch or
fabric node fires when its timeout has passed and not before; a request that meets an outstanding snoop is held behind
it, and one that a lost agent sent before the reclaim is discarded; a read of a SHARED object leaves it SHARED, a red
of a PRIVATE one writes it back and makes it UPDATE, and a write to one that another agent owns sends a snoop to its
owner; a red of another package makes it an agent whose partials a merge asks for; a snoop is received, answered, the
answer of its agent in another package bringing its lines home, while one of another agent, of an earlier snoop or
after 20 microseconds changes nothing, sent again at 7 and 14 microseconds, and after 20 makes the object OWNER_LOST. -/
def Obligations.ObjectEvents : Prop :=
  ∀ (s : State) (n : Nat),
  (∀ x die fa, s.obj? n = some x → exec (.partialFold n die fa) s = .next
    ((s.partials.filter (fun p => p.obj == x.idx && !p.ordered && (p.who == die && p.fa == fa))).foldl (fun u p => u.homeFold x p.fa p.val)
      { s with partials := s.partials.filter (fun p => !(p.obj == x.idx && !p.ordered && (p.who == die && p.fa == fa))) })) ∧
  (∀ x m, s.obj? n = some x → x.ordered = true → x.st = .update → x.isMember = false → s.rejects x m = false → x.fan m.level ≠ 1 →
    s.nodes.find? (fun y => y.obj == n && y.level == m.level && y.index == m.index) = none →
    ∃ t, exec (.mergeChildArrive n (.child m)) s = .next t ∧ (t.obj? n).map ObjEntry.isOpen = some true ∧
      t.nodes.find? (fun y => y.obj == n && y.level == m.level && y.index == m.index) =
        some ⟨n, m.level, m.index, [(m.child, m.vals)], s.pace, false⟩) ∧
  (∀ x m, s.obj? n = some x → x.ordered = true → x.st = .update → x.isMember = false → s.rejects x m = true →
    ∃ t y, exec (.mergeChildArrive n (.child m)) s = .next t ∧ t.nodes = s.nodes ∧ t.obj? n = some y ∧ y.isOpen = x.isOpen) ∧
  (∀ x r, s.obj? n = some x → x.isMember = true → x.ordered = true → ∃ t y, exec (.mergeChildArrive n (.ended r)) s = .next t ∧
    t.obj? n = some y ∧ y.isOpen = false ∧ y.closed = [] ∧ y.round = r.toNat / 2 ^ 40 ∧ ∀ p ∈ t.partials, p.obj = x.idx → p.ordered = false) ∧
  (∀ x y l k, s.obj? n = some x → s.nodes.find? (fun y => y.obj == n && y.level == l && y.index == k) = some y →
    6 ≤ x.dom l → y.first + x.tmo ≤ s.pace → exec (.mergeNodeTimeout n l k) s = .next (s.fireNode n l k)) ∧
  (∀ x y l k, s.obj? n = some x → s.nodes.find? (fun y => y.obj == n && y.level == l && y.index == k) = some y →
    x.dom l < 6 ∨ s.pace < y.first + x.tmo → exec (.mergeNodeTimeout n l k) s = .next s) ∧
  (∀ x q r, s.obj? n = some x → x.isMember = false → x.barred = [] → x.snoop = some q → exec (.cobjDirectoryRequest n r) s =
    .next (s.modObj x.idx (fun y => { y with snoop := y.snoop.map (fun w => { w with held := w.held ++ [.agent r.req] }) }))) ∧
  (∀ x r k, s.obj? n = some x → (s.asker r.req, k) ∈ x.barred → r.sent < k → exec (.cobjDirectoryRequest n r) s = .next s) ∧
  (∀ x a k, s.obj? n = some x → x.snoop = none → x.st = .shared → exec (.cobjDirectoryRequest n ⟨.read a, k⟩) s = .next s) ∧
  (∀ x a c k, s.obj? n = some x → x.isMember = false → x.barred = [] → x.snoop = none → x.st = .priv c → a / 256 = s.pkgNum →
    exec (.cobjDirectoryRequest n ⟨.red a 3, k⟩) s = .next ((((s.writtenHome x).uncache x (fun _ => true)).recall x).modObj x.idx (fun y => { y with st := .update, tag := 3, isOpen := y.isOpen || y.ordered }))) ∧
  (∀ x a o k, s.obj? n = some x → x.isMember = false → x.barred = [] → x.snoop = none → x.st = .owned o → o ≠ a →
    exec (.cobjDirectoryRequest n ⟨.write a, k⟩) s = .next ((s.modObj x.idx (fun y =>
      { y with snoop := some ⟨o, s.pace, 1, false, false, [.agent (.write a)]⟩ })).sendTo (s.localId 0) x.home o chanReq)) ∧
  (∀ x a g k, s.obj? n = some x → x.isMember = false → x.barred = [] → x.snoop = none → x.st = .shared → x.ordered = false → a / 256 ≠ s.pkgNum → a ∉ x.away →
    ∃ t y, exec (.cobjDirectoryRequest n ⟨.red a g, k⟩) s = .next t ∧ t.obj? n = some y ∧ y.st = .update ∧ y.tag = g ∧ y.away = x.away ++ [a]) ∧
  (exec (.snoopReceive (.home n)) s = .next (s.modObj n (fun x => { x with snoop := x.snoop.map (fun q =>
    { q with received := true, answered := q.answered || s.answers q.agent }) }))) ∧
  (∀ l f, s.farOwner l = some f → exec (.snoopReceive (.away l)) s = .next (s.giveFar f)) ∧
  (∀ f, (s.giveFar f).owned = s.owned.filter (fun x => x.lines != f.lines)) ∧
  (∀ x q a sent lines parts, s.obj? n = some x → x.snoop = some q → q.held = [] → x.st = .owned a → (q.agent / 256 = s.pkgNum → q.answered = true) → s.pace ≤ q.sent + 20000 → q.sent ≤ sent →
    exec (.snoopAnswer ⟨n, q.agent, sent, lines, parts⟩) s = .next
      (((lines.filter (fun l => decide (q.agent / 256 ≠ s.pkgNum) && (s.objGva x l.1).isSome)).foldl
        (fun u l => u.engineWrite x.world (lineBase l.1) (l.2.take 64)) (s.writtenHome x)).modObj n (fun y => { y with
          snoop := none
          away := y.away.filter (fun z => z != q.agent)
          st := match y.st with | .owned _ => .shared | z => z }))) ∧
  (∀ x q m, s.obj? m.obj = some x → x.snoop = some q → m.agent ≠ q.agent ∨ m.sent < q.sent ∨ q.sent + 20000 < s.pace →
    exec (.snoopAnswer m) s = .next s) ∧
  (∀ x q, s.obj? n = some x → x.snoop = some q → q.tries < 3 → q.sent + 7000 * q.tries ≤ s.pace →
    ∃ t, exec (.snoopRetry n) s = .next t ∧ t.obj? n = some { x with snoop := some { q with tries := q.tries + 1 } }) ∧
  (∀ x q, s.obj? n = some x → x.snoop = some q → s.pace < q.sent + 20000 → exec (.snoopTimeout n) s = .next s) ∧
  (∀ x q, s.obj? n = some x → x.snoop = some q → q.sent + 20000 ≤ s.pace → exec (.snoopTimeout n) s = .next (s.ownerLost x q.agent)) ∧
  (∀ x a, a / 256 ≠ s.pkgNum → s.obj? x.idx = some x → ∃ y, (s.ownerLost x a).obj? x.idx = some y ∧ y.st = .ownerLost ∧ y.lost = some a)

/-- Where it is ready, rte.ann, rte.wd, rte.role and rte.sync hold their split; the answer of the origin router sets the
destination to the status and lets the split go on. A bad field answers 1 or 2 and changes nothing; an announcement as
REPLICA answers 6; a good one as PRIMARY answers 0, records the holder and its entry; a withdrawal of no holder
answers 5, and one of a holder answers 0 and makes it DRAINING with no lease. rte.sync waits while an earlier relay of
its package has not arrived in its scope and answers once all have, 9 where one issued before it was refused. rte.q
answers the entry of the die router at once, 0 where it has none. -/
def Obligations.RouteInstructions : Prop :=
  ∀ (s : State) (d a b : BitVec 6) (m : BitVec 2) (k : BitVec 4) (n : Nat),
  Holds (.rteAnn d a b) s id (.answer .rte d.toNat (s.sreg a.toNat).toNat (2 * 2 ^ 64 + (s.sreg b.toNat).toNat)) ∧
  Holds (.rteWd d a b) s id (.answer .rte d.toNat (s.sreg a.toNat).toNat (3 * 2 ^ 64 + (s.sreg b.toNat).toNat)) ∧
  Holds (.rteRole d a b) s id (.answer .rte d.toNat (s.sreg a.toNat).toNat (4 * 2 ^ 64 + (s.sreg b.toNat).toNat)) ∧
  Holds (.rteSync k d) s id (.answer .sync d.toNat s.nextId k.toNat) ∧
  (∀ g i r x y, s.group? n = some g → (g.ctl.split i).wait = .answer .rte r x y → exec (.routerAnswer n i) s =
    .next ((s.rteDo (y / 2 ^ 64) x (y % 2 ^ 64)).2.answer n i r (BitVec.ofNat 64 (s.rteDo (y / 2 ^ 64) x (y % 2 ^ 64)).1))) ∧
  (∀ g i r x y, s.group? n = some g → (g.ctl.split i).wait = .answer .sync r x y → (∀ f ∈ s.relays, f.id < x → y = 3 ∧ 2 ^ 24 ≤ f.dst) → exec (.rteSyncDone n i) s =
    .next (s.answer n i r (if s.refused.any (fun q => decide (q.2.2 < x)) then 9 else 0))) ∧
  (∀ g i r x y, s.group? n = some g → (g.ctl.split i).wait = .answer .sync r x y →
    (∃ f ∈ s.relays, f.id < x ∧ (y = 3 → f.dst < 2 ^ 24) ∧ ∃ o, f.msg.path.head? = some o ∧ o / 256 = s.pkgNum ∧ o % 256 < 32) →
    exec (.rteSyncDone n i) s = .next s) ∧
  (∀ op x y, s.rteCommon true x y ≠ none → op = 2 ∨ op = 4 → (s.rteDo op x y).2 = s ∧ ((s.rteDo op x y).1 = 1 ∨ (s.rteDo op x y).1 = 2)) ∧
  (∀ x y, s.rteCommon true x y = none → 5 ≤ bitsOf y 23 16 → bitsOf y 15 14 = 2 → s.rteDo 2 x y = (6, s)) ∧
  (∀ x y, s.rteCommon true x y = none → 5 ≤ bitsOf y 23 16 → bitsOf y 15 14 = 0 → s.record ⟨x, bitsOf y 5 0⟩ (bitsOf y 47 24) = none →
    s.exactEntry (bitsOf y 47 24) ⟨x, bitsOf y 5 0⟩ = none → s.entryFree (bitsOf y 47 24) = true →
    ∃ t h, s.rteDo 2 x y = (0, t) ∧ t.holders = s.holders ++ [h] ∧ h.pre = ⟨x, bitsOf y 5 0⟩ ∧ h.holder = bitsOf y 47 24 ∧ h.st = .primary ∧
      h.lease = bitsOf y 23 16 ∧ ∃ e, t.exactEntry (bitsOf y 47 24) ⟨x, bitsOf y 5 0⟩ = some e ∧ e.changed = s.pace ∧
        e.holders = [⟨bitsOf y 47 24, .primary, bitsOf y 23 16, BitVec.ofNat 8 (bitsOf y 13 6), 0, [bitsOf y 47 24]⟩]) ∧
  (∀ x y, s.rteCommon false x y = none → s.record ⟨x, bitsOf y 5 0⟩ (bitsOf y 47 24) = none → s.rteDo 3 x y = (5, s)) ∧
  (∀ x y h, s.rteCommon false x y = none → s.record ⟨x, bitsOf y 5 0⟩ (bitsOf y 47 24) = some h → h.st ≠ .draining →
    (s.rteDo 3 x y).1 = 0 ∧ ∃ q, (s.rteDo 3 x y).2.record ⟨x, bitsOf y 5 0⟩ (bitsOf y 47 24) = some q ∧ q.st = .draining ∧ q.leaseEnd = 0) ∧
  (s.routeEntry (s.dieRouter s.cur.place.core) (s.sreg a.toNat).toNat = none → Does (.rteQ d a m) s (fun t => t.setSreg d.toNat 0)) ∧
  (∀ e, s.routeEntry (s.dieRouter s.cur.place.core) (s.sreg a.toNat).toNat = some e →
    Does (.rteQ d a 2) s (fun t => t.setSreg d.toNat (BitVec.ofNat 64 (e.holders.length + e.pre.len * 2 ^ 16)))) ∧
  (∀ e h, s.routeEntry (s.dieRouter s.cur.place.core) (s.sreg a.toNat).toNat = some e →
    s.routeWrite (s.dieRouter s.cur.place.core) (s.sreg a.toNat).toNat [] = some h → h.role = .primary →
    Does (.rteQ d a 1) s (fun t => t.setSreg d.toNat (BitVec.ofNat 64 (h.holder * 2 ^ 40 + h.cost % 65536 * 2 ^ 24 + e.pre.len * 2 ^ 16 +
      h.cap.toNat * 256 + (if e.changed + 32000 ≤ s.pace then 2 else 0) + 1))))

/-- A relay that has come round, travelled sixteen routers or would cost too much to be forwarded (log entry 45) is
dropped, and the relays of one link are taken in order; a router without an entry installs the holder and forwards the
relay; one whose entry holds four other holders refuses it; a withdrawal removes its holder, is forwarded, and makes
the holder DRAINING at its own router. A refusal is recorded at the origin and nowhere else, and a PRIMARY refused as
a second one is withdrawn. A DRAINING holder is ABSENT once no router names it, its relays and writes are gone and 32
microseconds have passed since its withdrawal last changed a router. An acknowledgement that is late by 5 microseconds
revokes its holder, which becomes DRAINING, and its write counts the last renewal issued to it with its lease, whether
or not it is still listed; a withdrawal on a holder's behalf takes its refusals with it. A read goes to the cheapest
holder of the longest prefix that is neither filling nor left out, a write to the PRIMARY. -/
def Obligations.RelaysAndRoutes : Prop :=
  ∀ (s : State) (n : Nat),
  (∀ m f, s.relays.find? (fun f => f.dst == n && f.msg.via == m.via) = some f → f.msg = m → 2 ^ 24 ≤ n ∨ m.path.contains n = true ∨ 16 ≤ m.path.length ∨ s.tooFar n m = true →
    exec (.relayReceive n m) s = .next { s with relays := s.relays.erase f }) ∧
  (∀ m f, s.relays.find? (fun f => f.dst == n && f.msg.via == m.via) = some f → f.msg ≠ m → exec (.relayReceive n m) s = .next s) ∧
  (∀ m, s.relays.find? (fun f => f.dst == n && f.msg.via == m.via) = none → m.path.contains n = false → m.path.length < 16 → s.tooFar n m = false →
    exec (.relayReceive n m) s = .next ({ s with nextId := s.nextId + 1 }.takeRelay n m s.nextId)) ∧
  (∀ m f, s.relays.find? (fun f => f.dst == n && f.msg.via == m.via) = some f → f.msg = m → n < 2 ^ 24 → m.path.contains n = false → m.path.length < 16 → s.tooFar n m = false →
    m.wd = false → roleOnly m = false → s.exactEntry n m.pre = none → s.entryFree n = true →
    exec (.relayReceive n m) s = .next (((({ s with relays := s.relays.erase f }).setEntry
      ⟨n, m.pre, [⟨m.holder, m.role, m.lease, m.cap, m.cost, m.path⟩], 0⟩).passRelay n m f.id).learnFar m)) ∧
  (∀ m e f, s.relays.find? (fun f => f.dst == n && f.msg.via == m.via) = some f → f.msg = m → n < 2 ^ 24 → m.path.contains n = false → m.path.length < 16 → s.tooFar n m = false →
    m.wd = false → roleOnly m = false → s.exactEntry n m.pre = some e → m.role ≠ .primary → 4 ≤ e.holders.length + s.drainPlaces n m.pre →
    (∀ h ∈ e.holders, h.holder ≠ m.holder) →
    exec (.relayReceive n m) s = .next (({ s with relays := s.relays.erase f }).relayRefused m.pre m.holder f.id false)) ∧
  (∀ m e f, s.relays.find? (fun f => f.dst == n && f.msg.via == m.via) = some f → f.msg = m → n < 2 ^ 24 → m.path.contains n = false → m.path.length < 16 → s.tooFar n m = false →
    m.wd = true → s.exactEntry n m.pre = some e → (∃ h ∈ e.holders, h.holder = m.holder) →
    exec (.relayReceive n m) s = .next (((((({ s with relays := s.relays.erase f }).setEntry
      { e with holders := e.holders.filter (fun h => h.holder != m.holder) }).passRelay n m f.id).cutOff n m.holder m.pre).dropMember n m.pre
        m.holder).withdrawnHere n m.pre m.holder)) ∧
  (∀ p h x, s.record p h = some x → x.st ≠ .draining → ∃ y, (s.withdrawnHere h p h).record p h = some y ∧ y.st = .draining ∧ y.leaseEnd = 0) ∧
  (∀ p h k b, h / 256 ≠ s.pkgNum ∨ s.record p h = none → exec (.relayRefusal p h ⟨k, b⟩) s = .next s) ∧
  (∀ p h k x, h / 256 = s.pkgNum → s.record p h = some x → x.st ≠ .draining → s.refused.contains (p, h, k) = false →
    exec (.relayRefusal p h ⟨k, false⟩) s = .next { s with refused := s.refused ++ [(p, h, k)] }) ∧
  (∀ p h k x, h / 256 = s.pkgNum → s.record p h = some x → x.st = .primary →
    ∃ t y, exec (.relayRefusal p h ⟨k, true⟩) s = .next t ∧ t.record p h = some y ∧ y.st = .draining ∧ y.leaseEnd = 0) ∧
  (∀ p h x, s.record p h = some x → x.st = .draining → x.settle + 32000 ≤ s.pace → s.relays = [] → s.writes = [] →
    (∀ e ∈ s.routes, e.pre = p → (∀ y ∈ e.holders, y.holder ≠ h) ∧ e.changed + 32000 ≤ s.pace) →
    exec (.holderAbsent p h) s = .next { s with holders := s.holders.filter (fun y => !(y.pre == p && y.holder == h)) }) ∧
  (∀ p h x e, s.record p h = some x → e ∈ s.routes → e.pre = p → s.pace < e.changed + 32000 → exec (.holderAbsent p h) s = .next s) ∧
  (∀ w h, s.write? n = some w → w.phase = .applied → w.echo = [(h, none)] → w.time + 5000 < s.pace →
    exec (.echoDeadline n) s = .next ((s.revokeFor w h).stampWct n)) ∧
  (∀ w h x, s.write? w.id = some w → w.echo = [(h, none)] → h % 256 ≠ 255 → s.holderState h w.addr = some x →
    (s.revoke w h).write? w.id = some { w with echo := [(h, some (s.lastLease w h))] } ∧
      ∃ y ∈ (s.revoke w h).holders, y.pre = x.pre ∧ y.holder = h ∧ y.st = .draining ∧ y.leaseEnd = 0) ∧
  (∀ w h, h % 256 ≠ 255 → w.prim / 256 = s.pkgNum → w.time ≤ s.lastLease w h ∧
    (∀ r ∈ s.renewed, r.prim = w.prim → r.holder = h → prefixCovers r.pre w.addr = true → r.issued = true → r.time + r.lease ≤ s.lastLease w h) ∧
    (s.lastLease w h = w.time ∨ ∃ r ∈ s.renewed, r.prim = w.prim ∧ r.holder = h ∧ r.issued = true ∧ s.lastLease w h = r.time + r.lease)) ∧
  (∀ p h, (s.withdrawnHere h p h).refused.any (fun q => q.1 == p && q.2.1 == h) = true → ∀ x ∈ s.holders, x.pre = p → x.holder = h → x.st = .draining) ∧
  (∀ w, s.write? n = some w → w.phase ≠ .applied → exec (.echoDeadline n) s = .next s) ∧
  (∀ (e : RtEntry) (r : Nat) (p : Prefix), e.holders ≠ [] → (s.setEntry e).exactEntry e.router e.pre = some { e with changed := s.pace } ∧
    (r ≠ e.router ∨ p ≠ e.pre → (s.setEntry e).exactEntry r p = s.exactEntry r p)) ∧
  (∀ (r x : Nat) (g : List Nat) (h : RtHolder), s.routeRead r x g = some h → h.holder ∉ g ∧ h.role ≠ .filling ∧ ∃ e ∈ s.routes,
    e.router = r ∧ h ∈ e.holders ∧ prefixCovers e.pre x = true ∧ (∀ y ∈ e.holders, y.role ≠ .filling → y.holder ∉ g → h.cost ≤ y.cost) ∧
    ∀ q ∈ s.routes, q.router = r → prefixCovers q.pre x = true → q.pre.len ≤ e.pre.len) ∧
  (∀ (r x : Nat) (g : List Nat) (h : RtHolder), s.routeWrite r x g = some h → h.role = .primary ∧ h.holder ∉ g)

/-- Where it is ready, tier.rec sets the bits of the blocks of its range in the bitmap and the footprint set, whether or
not translation records there (the model's reading, log entry 30), and answers how many there are, with bit 63 where a
page is unmapped; tier.hint sets or clears the footprint bit of a block and queues the move of one that is far, or of
one that is near and not pinned, while the engine is enabled, and answers how many it queued; tier.q answers 0 for an
address outside every block and else the holder, tier and state bits of its block. A footprint index at or beyond the
count has no record. Each answers in the turn in which it issues (log entry 20). -/
def Obligations.TierInstructions : Prop :=
  ∀ (s : State) (d a b : BitVec 6),
  (∀ c r v, s.myCtx = some c → (s.issued (.tierRec d a b)).rangeBlocks c a.toNat b.toNat = (r, v) → Does (.tierRec d a b) s (fun _ =>
    (r.1.foldl (fun u n => (u.putBit c.world c.bitmap n true).putBit c.world c.fset n true) v).setSreg d.toNat
      (BitVec.ofNat 64 (r.1.length + if r.2 then 2 ^ 63 else 0)))) ∧
  (∀ c z w, s.myCtx = some c → (s.issued (.tierHintUp d a b)).rangeBlocks c a.toNat b.toNat = (([], z), w) → Does (.tierHintUp d a b) s (fun _ => w.setSreg d.toNat (BitVec.ofNat 64 (if z then 2 ^ 63 else 0)))) ∧
  (∀ c n k z v w, s.myCtx = some c → (s.issued (.tierHintUp d a b)).rangeBlocks c a.toNat b.toNat = (([n], z), w) → (w.putBit c.world c.fset n true).seeBlock c.vdid n = v → v.recOf? c.vdid n = some k → k.far = true → v.tierEn = true →
    v.tier.moves = [] → v.tier.cmds.length < 4096 → (∀ x ∈ v.tier.cmds, x.blk ≠ k.blk) → Does (.tierHintUp d a b) s (fun _ =>
      State.setSreg { v with tier := { v.tier with cmds := v.tier.cmds ++ [⟨k.blk, c.vdid, c.num, k.addr, .up, 2, []⟩] } } d.toNat
        (BitVec.ofNat 64 (1 + if z then 2 ^ 63 else 0)))) ∧
  (∀ c n k z v w, s.myCtx = some c → (s.issued (.tierHintUp d a b)).rangeBlocks c a.toNat b.toNat = (([n], z), w) → (w.putBit c.world c.fset n true).seeBlock c.vdid n = v → v.recOf? c.vdid n = some k → ¬ k.far = true ∨ v.tierEn = false →
    Does (.tierHintUp d a b) s (fun _ => v.setSreg d.toNat (BitVec.ofNat 64 (if z then 2 ^ 63 else 0)))) ∧
  (∀ c z w, s.myCtx = some c → (s.issued (.tierHintDown d a b)).rangeBlocks c a.toNat b.toNat = (([], z), w) → Does (.tierHintDown d a b) s (fun _ => w.setSreg d.toNat (BitVec.ofNat 64 (if z then 2 ^ 63 else 0)))) ∧
  (∀ c n k z v w, s.myCtx = some c → (s.issued (.tierHintDown d a b)).rangeBlocks c a.toNat b.toNat = (([n], z), w) → (w.putBit c.world c.fset n false).seeBlock c.vdid n = v → v.recOf? c.vdid n = some k → (k.tier = 0 ∧ k.pin = false) → v.tierEn = true →
    v.tier.moves = [] → v.tier.cmds.length < 4096 → (∀ x ∈ v.tier.cmds, x.blk ≠ k.blk) → Does (.tierHintDown d a b) s (fun _ =>
      State.setSreg { v with tier := { v.tier with cmds := v.tier.cmds ++ [⟨k.blk, c.vdid, c.num, k.addr, .down, 4, []⟩] } } d.toNat
        (BitVec.ofNat 64 (1 + if z then 2 ^ 63 else 0)))) ∧
  (∀ c n k z v w, s.myCtx = some c → (s.issued (.tierHintDown d a b)).rangeBlocks c a.toNat b.toNat = (([n], z), w) → (w.putBit c.world c.fset n false).seeBlock c.vdid n = v → v.recOf? c.vdid n = some k → ¬ (k.tier = 0 ∧ k.pin = false) ∨ v.tierEn = false →
    Does (.tierHintDown d a b) s (fun _ => v.setSreg d.toNat (BitVec.ofNat 64 (if z then 2 ^ 63 else 0)))) ∧
  (∀ c r v, s.myCtx = some c → (s.issued (.tierQ d a)).probe c (dieOf s.cur.place.core) (s.sreg a.toNat).toNat true = (r, v) → (∀ x, r = .ok x → x.block = none) →
    Does (.tierQ d a) s (fun _ => v.setSreg d.toNat 0)) ∧
  (∀ c n x k p v w, s.myCtx = some c → (s.issued (.tierQ d a)).probe c (dieOf s.cur.place.core) (s.sreg a.toNat).toNat true = (.ok x, v) → x.block = some n →
    ((v.seeBlock c.vdid n).arrive c.world (c.fset + n / 8) 1).arrive c.world (c.bitmap + n / 8) 1 = w →
    w.recOf? c.vdid n = some k → w.routeWrite (w.dieRouter w.cur.place.core) k.blk [] = some p → n < 2 ^ 20 →
    Does (.tierQ d a) s (fun _ => w.setSreg d.toNat (BitVec.ofNat 64 (p.holder * 2 ^ 40 + k.tier * 2 ^ 38 + k.far.toNat * 2 ^ 37 + k.busy.toNat * 2 ^ 36 +
      (w.bitAt c.world c.fset n).toNat * 2 ^ 35 + (w.bitAt c.world c.bitmap n).toNat * 2 ^ 34 + k.pin.toNat * 2 ^ 33 + n * 2 ^ 8 + 1)))) ∧
  (∀ (u : State) (v n : Nat) (k : Block), u.block? v n = some k → n < ((u.vregs.tierTab[v]?).getD 0).toNat % 2 ^ 21 ∧ leafFits k.ent k.blk = true ∧ u.inLevel2 v k.leaf = true) ∧
  (∀ (u : State) (v n : Nat), ((u.vregs.tierTab[v]?).getD 0).toNat % 2 ^ 21 ≤ n → u.block? v n = none)

/-- A far leaf is offered again while the fault queue is full, and else queues an UP move with its waiter, unless its
block has come; one whose block has no usable record goes to the fault queue of the hypervisor. The engine starts a
queued command of a block without a move while a place is free, marks the block busy and announces the new holder; a
good answer lets it copy, a bad one aborts a move up. A fill read goes on as a fill write with the stamp of its line,
or aborts the move where its line is poisoned or has no route or the new holder is no longer filling. After the last
fill the baton is asked for, then the old holder is withdrawn; at the end far, tier and busy are written and the
waiters go on. An announcement for a VDID that is not hosted here has no effect; an answer that is missing after 20
microseconds counts as a failure, and one that comes later changes nothing. -/
def Obligations.TierMoves : Prop :=
  ∀ (s : State) (n k : Nat),
  (∀ w, s.tier.offered.find? (fun w => w.id == n) = some w → 1024 ≤ s.tier.faults → exec (.tierFaultOffer n) s = .next s) ∧
  (∀ w u, s.tier.offered.find? (fun w => w.id == n) = some w → s.tier.faults < 1024 → s.seeBlock w.vdid w.far.fpi = u →
    u.block? w.vdid w.far.fpi = none → exec (.tierFaultOffer n) s =
      .next ((State.passFault { u with tier := { u.tier with offered := u.tier.offered.filter (fun x => x.id != n) } } w).tierError w.vdid (w.far.fa / 2 ^ 21 * 2 ^ 21))) ∧
  (∀ w k u, s.tier.offered.find? (fun w => w.id == n) = some w → s.tier.faults < 1024 → s.seeBlock w.vdid w.far.fpi = u →
    u.block? w.vdid w.far.fpi = some k → k.far = false →
    exec (.tierFaultOffer n) s = .next (({ u with tier := { u.tier with offered := u.tier.offered.filter (fun x => x.id != n) } }).modAnyGroup
      w.uid (Group.pageCame u.pace u.cycle))) ∧
  (∀ w k u, s.tier.offered.find? (fun w => w.id == n) = some w → s.tier.faults < 1024 → s.seeBlock w.vdid w.far.fpi = u →
    u.block? w.vdid w.far.fpi = some k → k.far = true →
    u.tier.moves = [] → u.tier.cmds.length < 4096 → (∀ x ∈ u.tier.cmds, x.blk ≠ k.blk) → exec (.tierFaultOffer n) s = .next { u with tier := { u.tier with
      offered := u.tier.offered.filter (fun x => x.id != n)
      cmds := u.tier.cmds ++ [⟨k.blk, w.vdid, w.ctx, k.addr, .up, 0, [w]⟩] } }) ∧
  (s.nextCmd = none → exec .tierMoveStart s = .next s) ∧
  (∀ c, s.nextCmd = some c → c ∈ s.tier.cmds ∧ (∀ m ∈ s.tier.moves, m.cmd.blk ≠ c.blk) ∧ s.tier.moves.length < bitsOf s.pkg.tierCfg.toNat 20 16) ∧
  (∀ c k u, s.nextCmd = some c → State.seeBlock { s with tier := { s.tier with cmds := s.tier.cmds.erase c } } c.vdid ((c.recAddr - (s.recAddr c.vdid 0).getD 0) / 32) = u →
    u.block? c.vdid ((c.recAddr - (s.recAddr c.vdid 0).getD 0) / 32) = some k → c.dir = .up → k.far = false → exec .tierMoveStart s = .next (u.wakeAll c.waiters)) ∧
  (∀ c k u, s.nextCmd = some c → State.seeBlock { s with tier := { s.tier with cmds := s.tier.cmds.erase c } } c.vdid ((c.recAddr - (s.recAddr c.vdid 0).getD 0) / 32) = u →
    u.block? c.vdid ((c.recAddr - (s.recAddr c.vdid 0).getD 0) / 32) = some k → c.dir = .up → k.far = true →
    ∃ t m, exec .tierMoveStart s = .next t ∧ m.cmd = c ∧ m.dst = k.home ∧ m.id = u.nextId ∧ m.st = .announcing ∧
      m.src = ((u.routeWrite (u.localId 0) k.blk []).map RtHolder.holder).getD 0 ∧
      t = State.askAnnounce (State.setBusy { u with
        nextId := u.nextId + 1
        tier := { u.tier with moves := u.tier.moves ++ [m] } } k.addr true) m) ∧
  (∀ m, s.move? n = some m → m.st = .announcing → (∀ r ∈ s.relays, r.msg.pre ≠ blkPrefix m.cmd.blk) → s.tooLate m = false → m.answer.getD k = 0 → s.filling m = true →
    (∀ x ∈ s.refused, ¬ (x.1 = blkPrefix m.cmd.blk ∧ x.2.1 = m.dst)) →
    exec (.tierAnnounceAnswer n k) s = .next (s.setMove { m with st := .copying, announced := true })) ∧
  (∀ m, s.move? n = some m → m.st = .announcing → (∀ r ∈ s.relays, r.msg.pre ≠ blkPrefix m.cmd.blk) → s.tooLate m = false → m.answer.getD k ≠ 0 → m.cmd.dir = .up →
    exec (.tierAnnounceAnswer n k) s = .next (s.setMove { m with st := .aborted })) ∧
  (∀ m h v u, s.move? n = some m → m.st = .copying → m.pos < 2 ^ 21 → s.filling m = true → s.home (m.cmd.blk + m.pos) = some h →
    s.settleLine h.holder (m.cmd.blk + m.pos) = v → (v.lineAt h.holder (m.cmd.blk + m.pos)).poison = false →
    v.unitRead h.holder (m.cmd.blk + m.pos) = u → exec (.tierFillRead n) s = .next (State.setMove (State.sendTo { u with
      nextId := u.nextId + 1
      fills := u.fills ++ [⟨u.nextId, blkPrefix m.cmd.blk, m.dst, m.cmd.blk + m.pos, u.bytesAt h.holder (m.cmd.blk + m.pos) 64, n,
        (u.lineAt h.holder (m.cmd.blk + m.pos)).wct⟩] } (u.localId 0) (m.cmd.blk + m.pos) m.dst chanData) { m with pos := m.pos + 64 })) ∧
  (∀ m h, s.move? n = some m → m.st = .copying → m.pos < 2 ^ 21 → s.filling m = false → s.home (m.cmd.blk + m.pos) = some h →
    exec (.tierFillRead n) s = .next ((s.settleLine h.holder (m.cmd.blk + m.pos)).setMove { m with st := .aborted })) ∧
  (∀ m h v, s.move? n = some m → m.st = .copying → m.pos < 2 ^ 21 → s.home (m.cmd.blk + m.pos) = some h → s.settleLine h.holder (m.cmd.blk + m.pos) = v →
    (v.lineAt h.holder (m.cmd.blk + m.pos)).poison = true → exec (.tierFillRead n) s = .next (v.setMove { m with st := .aborted })) ∧
  (∀ m, s.move? n = some m → m.st = .copying → m.pos < 2 ^ 21 → s.home (m.cmd.blk + m.pos) = none →
    exec (.tierFillRead n) s = .next (s.setMove { m with st := .aborted })) ∧
  (∀ m, s.move? n = some m → m.st = .copying → 2 ^ 21 ≤ m.pos → (∀ f ∈ s.fills, f.move ≠ n) → m.dst / 256 = s.pkgNum →
    exec (.tierFillDone n) s = .next ((s.rteRole m.cmd.blk (s.moveDesc m.cmd.blk m.dst m.src 0)).2.setMove { m with
      st := .handing
      asked := s.pace
      answer := some (s.rteRole m.cmd.blk (s.moveDesc m.cmd.blk m.dst m.src 0)).1 })) ∧
  (∀ m, s.move? n = some m → m.st = .handing → s.tooLate m = false → m.answer.getD k = 0 → exec (.tierHandoverAnswer n k) s =
    .next (((s.handedOver m).rteWd m.cmd.blk ((s.handedOver m).moveDesc m.cmd.blk m.src m.src 0)).2.setMove { m with st := .withdrawing })) ∧
  (∀ m, s.move? n = some m → s.tooLate m = true → exec (.tierHandoverAnswer n k) s = .next s ∧ exec (.tierAnnounceAnswer n k) s = .next s) ∧
  (∀ m, m.dst / 256 = s.pkgNum → s.handedOver m = s) ∧
  (∀ m, m.dst / 256 ≠ s.pkgNum → (s.record (blkPrefix m.cmd.blk) m.src).map HolderSt.st = some .primary → s.handedOver m = s.baton (blkPrefix m.cmd.blk) m.src m.dst) ∧
  (∀ m, s.move? n = some m → m.st = .handing → s.tooLate m = false → m.answer.getD k ≠ 0 → exec (.tierHandoverAnswer n k) s = .next (s.setMove { m with st := .aborted })) ∧
  (∀ m u, s.move? n = some m → m.st = .withdrawing → m.src / 256 ≠ s.pkgNum → m.cmd.dir = .up →
    (∀ e, s.exactEntry (s.localId 0) (blkPrefix m.cmd.blk) = some e → ∀ h ∈ e.holders, h.holder ≠ m.src) →
    s.seeBlock m.cmd.vdid ((m.cmd.recAddr - (s.recAddr m.cmd.vdid 0).getD 0) / 32) = u →
    u.block? m.cmd.vdid ((m.cmd.recAddr - (s.recAddr m.cmd.vdid 0).getD 0) / 32) = none →
    exec (.tierMoveEnd n) s = .next (((({ u with tier := { u.tier with moves := u.tier.moves.filter (fun x => x.id != n) } }).setTier
      m.cmd.recAddr 0).setBusy m.cmd.recAddr false).wakeAll m.cmd.waiters)) ∧
  (∀ m k u, s.move? n = some m → m.st = .withdrawing → m.src / 256 ≠ s.pkgNum → m.cmd.dir = .up →
    (∀ e, s.exactEntry (s.localId 0) (blkPrefix m.cmd.blk) = some e → ∀ h ∈ e.holders, h.holder ≠ m.src) →
    s.seeBlock m.cmd.vdid ((m.cmd.recAddr - (s.recAddr m.cmd.vdid 0).getD 0) / 32) = u →
    u.block? m.cmd.vdid ((m.cmd.recAddr - (s.recAddr m.cmd.vdid 0).getD 0) / 32) = some k →
    exec (.tierMoveEnd n) s = .next ((((({ u with tier := { u.tier with moves := u.tier.moves.filter (fun x => x.id != n) } }).setFar k.leaf false).setTier
      m.cmd.recAddr 0).setBusy m.cmd.recAddr false).wakeAll m.cmd.waiters)) ∧
  (∀ m, s.move? n = some m → m.st ≠ .withdrawing → m.st ≠ .aborted → exec (.tierMoveEnd n) s = .next s) ∧
  (∀ v o p x, o ≠ .baton → (s.vregs.part[v]?).getD 255 = 255 → exec (.announcementRequest v o p x) s = .next s) ∧
  (∀ v p x, (s.vregs.part[v]?).getD 255 ≠ 255 → exec (.announcementRequest v .wd p x) s = .next (s.rteWd p.base (setBits x.toNat 5 0 p.len)).2) ∧
  (∀ m, s.move? n = some m → m.answer = none → m.asked + 20000 < s.pace → m.st = .handing →
    exec (.announcementTimeout n) s = .next (s.setMove { m with st := .aborted })) ∧
  (∀ m, s.move? n = some m → s.pace ≤ m.asked + 20000 → exec (.announcementTimeout n) s = .next s)

/-- Where it is ready: launch of a misaligned record raises ALIGNMENT; of a record with a bad completion scope it answers
1; else it holds its split until its release conditions hold and its node word can be reached, and then answers the
status of the admission, which is 7 for a full table and 1 for bad fields. A push to a disabled list, or to one
without a producer, raises cause 25; one that does not fit answers all ones; one that fits reserves its items and
holds its split until its release holds and the items can be popped, and a reservation taken back leaves the list as
it was. A pop of a quiescent list answers all ones, of one with nothing ready 0, and else takes the items that are
ready for its lanes; done lowers the producer count. -/
def Obligations.LaunchAndWorkLists : Prop :=
  ∀ (s : State) (d a : BitVec 6) (v : BitVec 7) (n : BitVec 6) (q : BitVec 1),
  (∀ p, ((s.hints.trans.head?).map Prod.fst).getD (s.sreg a.toNat).toNat = p → p % 64 ≠ 0 → Traps (.launch d a) s 11 p 0) ∧
  (∀ p bs t, ((s.hints.trans.head?).map Prod.fst).getD (s.sreg a.toNat).toNat = p → p % 64 = 0 →
    Reads (s.issued (.launch d a)) p 4 bs t →
    bitsOf (ofLeBytes bs) 103 100 < 2 ∨ 5 < bitsOf (ofLeBytes bs) 103 100 → Does (.launch d a) s (fun _ => t.setSreg d.toNat 1)) ∧
  (∀ p bs t, ((s.hints.trans.head?).map Prod.fst).getD (s.sreg a.toNat).toNat = p → p % 64 = 0 →
    Reads (s.issued (.launch d a)) p 4 bs t →
    2 ≤ bitsOf (ofLeBytes bs) 103 100 → bitsOf (ofLeBytes bs) 103 100 ≤ 5 → t.relOk (bitsOf (ofLeBytes bs) 103 100) (s.issued (.launch d a)).since = false →
    Holds (.launch d a) s (fun _ => t) (.answer .launch d.toNat (ofLeBytes bs) (s.issued (.launch d a)).since)) ∧
  (∀ p bs t r x, ((s.hints.trans.head?).map Prod.fst).getD (s.sreg a.toNat).toNat = p → p % 64 = 0 →
    Reads (s.issued (.launch d a)) p 4 bs t →
    2 ≤ bitsOf (ofLeBytes bs) 103 100 → bitsOf (ofLeBytes bs) 103 100 ≤ 5 → t.relOk (bitsOf (ofLeBytes bs) 103 100) (s.issued (.launch d a)).since = true →
    t.cur.trap.deferred = [] → t.finishLaunch (ofLeBytes bs) = (some x, r) → Does (.launch d a) s (fun _ => r.setSreg d.toNat (BitVec.ofNat 64 x))) ∧
  (∀ p bs t r, ((s.hints.trans.head?).map Prod.fst).getD (s.sreg a.toNat).toNat = p → p % 64 = 0 →
    Reads (s.issued (.launch d a)) p 4 bs t →
    2 ≤ bitsOf (ofLeBytes bs) 103 100 → bitsOf (ofLeBytes bs) 103 100 ≤ 5 → t.relOk (bitsOf (ofLeBytes bs) 103 100) (s.issued (.launch d a)).since = true →
    t.cur.trap.deferred = [] → t.finishLaunch (ofLeBytes bs) = (none, r) →
    Holds (.launch d a) s (fun _ => r) (.answer .launch d.toNat (ofLeBytes bs) (s.issued (.launch d a)).since)) ∧
  (∀ c raw, s.myCtx = some c → s.tableFull c.part = true → s.finishLaunch raw = (some 7, s)) ∧
  (∀ c part pl raw, badFields (newRec s.nextId c.part c.num raw) pl = true → part = c.part → ∃ t, s.takeRecord c pl raw = (some 1, t) ∧
    ∃ r ∈ t.recs, r.id = s.nextId ∧ r.st = .refused ∧ r.status = 1) ∧
  (∀ w : Nat, w < 2 ^ 32 → nodeDec w < 2 ^ 32 ∧ nodeDec w / 2 ^ 30 = w / 2 ^ 30 ∧ (nodeDec w + 1) % 2 ^ 30 = w % 2 ^ 30) ∧
  (∀ w, s.wl s.myPart n.toNat = w → s.wlBad w = true ∨ w.prod = 0 → Traps (.wlPush d v n) s 25 0 0) ∧
  (∀ c w, s.myCtx = some c → s.wl s.myPart n.toNat = w → s.wlBad w = false → w.prod ≠ 0 → w.cap < w.ahead w.tail + (lanesOf (s.issued (.wlPush d v n)).exec).length →
    Does (.wlPush d v n) s (fun t => t.setSreg d.toNat (BitVec.allOnes 64))) ∧
  (∀ c w fas u, s.myCtx = some c → s.wl s.myPart n.toNat = w → s.wlBad w = false → w.prod ≠ 0 → 0 < (lanesOf (s.issued (.wlPush d v n)).exec).length →
    w.ahead w.tail + (lanesOf (s.issued (.wlPush d v n)).exec).length ≤ w.cap → s.split.acq = [] → (s.issued (.wlPush d v n)).seeItems c w ((List.range (lanesOf (s.issued (.wlPush d v n)).exec).length).map (fun j => w.tail + j)) = u →
    u.itemsAt c w 2 ((List.range (lanesOf (s.issued (.wlPush d v n)).exec).length).map (fun j => w.tail + j)) = (fas, [], none) →
    Ready (.wlPush d v n) s → ∃ t, exec (.wlPush d v n) s = .next t ∧
      (u.relOk 3 u.nextId = true → ∃ b, t.split.wait = .answer .push d.toNat b (n.toNat + 64 * w.tail)) ∧
      (u.relOk 3 u.nextId = false → ∃ l, l.length = (lanesOf (s.issued (.wlPush d v n)).exec).length ∧ t.split.wait = .push d.toNat n.toNat w.tail u.nextId l) ∧
      t.wl s.myPart n.toNat = { w with
      tail := (w.tail + (lanesOf (s.issued (.wlPush d v n)).exec).length) % 2 ^ 40
      resv := w.resv ++ [(w.tail, (lanesOf (s.issued (.wlPush d v n)).exec).length)] }) ∧
  (s.split.acq ≠ [] → ∀ c w, s.myCtx = some c → s.wl s.myPart n.toNat = w → s.wlBad w = false → w.prod ≠ 0 → w.ahead w.tail + (lanesOf (s.issued (.wlPush d v n)).exec).length ≤ w.cap → NotYet (.wlPush d v n) s .acq) ∧
  (s.split.acq = [] → ∀ c w, s.myCtx = some c → s.wl s.myPart n.toNat = w → s.wlBad w = false → w.prod ≠ 0 → lanesOf (s.issued (.wlPush d v n)).exec = [] → w.ahead w.tail ≤ w.cap →
    ((s.issued (.wlPush d v n)).relOk 3 s.nextId = true → Does (.wlPush d v n) s (fun t => (t.setWl (w.reserve 0)).setSreg d.toNat (BitVec.ofNat 64 w.tail))) ∧
    ((s.issued (.wlPush d v n)).relOk 3 s.nextId = false → Holds (.wlPush d v n) s (fun t => t.setWl (w.reserve 0)) (.push d.toNat n.toNat w.tail s.nextId []))) ∧
  (∀ (w : WorkList) (m : Nat), w.void = [] → (∀ r ∈ w.resv, r.1 ≠ w.tail) → w.tail < 2 ^ 40 → (w.reserve m).cancel w.tail = w) ∧
  (∀ (w : WorkList) (m : Nat) (b : Bool), w.void = [] → w.popped m b =
    { w with head := (w.head + m) % 2 ^ 40, prod := if b = true ∧ 0 < m then w.prod + 1 else w.prod }) ∧
  (∀ p m j, m < 64 → (s.finishPush p (m + 64 * j)).wl p m = { s.wl p m with resv := (s.wl p m).resv.filter (fun r => r.1 != j) }) ∧
  (∀ w, s.wl s.myPart n.toNat = w → s.wlBad w = true → Traps (.wlPop v d n q) s 25 0 0) ∧
  (∀ c w, s.myCtx = some c → s.wl s.myPart n.toNat = w → s.wlBad w = false → s.split.acq = [] → w.quiescent = true →
    Does (.wlPop v d n q) s (fun t => t.setSreg d.toNat (BitVec.allOnes 64))) ∧
  (∀ c w, s.myCtx = some c → s.wl s.myPart n.toNat = w → s.wlBad w = false → s.split.acq = [] → w.quiescent = false → w.poppable = 0 → w.head < 2 ^ 40 → w.void = [] → Ready (.wlPop v d n q) s →
    ∃ t, exec (.wlPop v d n q) s = .next t ∧ t.sreg d.toNat = 0 ∧ t.wl s.myPart n.toNat = w) ∧
  (∀ c w fas k u x bs st, s.myCtx = some c → s.wl s.myPart n.toNat = w → s.wlBad w = false → s.split.acq = [] → 0 < k →
    k = ((lanesOf (s.issued (.wlPop v d n q)).exec).take w.poppable).length → (s.issued (.wlPop v d n q)).seeItems c w ((List.range k).map (fun j => w.head + j)) = u →
    u.itemsAt c w 1 ((List.range k).map (fun j => w.head + j)) = (fas, [], none) → u.readEach (u.itemWants c fas) = .got x bs st → Ready (.wlPop v d n q) s →
    ∃ t, exec (.wlPop v d n q) s = .next t ∧ t.sreg d.toNat = BitVec.ofNat 64 k ∧
      t.wl s.myPart n.toNat = w.popped k (q == 1)) ∧
  (∀ w, s.wl s.myPart n.toNat = w → s.wlBad w = true ∨ w.prod = 0 → Traps (.wlDone n) s 25 0 0) ∧
  (∀ w, s.wl s.myPart n.toNat = w → s.wlBad w = false → w.prod ≠ 0 → Does (.wlDone n) s (fun t => t.setWl { w with prod := w.prod - 1 }))

/-- A record whose hurdle is met starts reserving; a copy node goes to an engine. Seats that stand within the bounds of a
record and the resources that no other record holds take its next unit, or a unit of its switched-out groups, other
seats nobody; a group starts with its arguments, zeros and the generator of its number, at its entry with all lanes. A
record that waits beyond the limit is marked and blocks younger ones, new or switched out. A record that has ended
clears its node word and decrements its successors in list order, and then stores its completion word once its last
write time has passed. A kick wakes a waiting ring; the ring whose turn it is reads its slot: one with the expected
sequence is admitted and the sequence rises, an authentic one beyond it stops the ring, any other slot is read again,
up to eight times, and a lower one counts once a run. Where it is ready: exit of a split whose record is on top takes
its lanes and address; of one whose record lies deeper waits at its word with no lanes; of one of several splits frees
it; of the last split waits until nothing of the group is outstanding (that it has not issued till then is the model's
choice, log entry 21) and then leaves, and the group has exited. rcp in a divided group or below a rejoin entry closes
the region; else it takes a checkpoint, and in a context that runs forward to a recipe point the group is flashed back
at it. A group is released once nothing of it is left, and the storage of a switched-out one once its image can be
written to its area, or at once where its context is reset: its slot and blocks are cleared within 16 cycles, and the
region of a team is free when neither a group nor a copy of it is left. -/
def Obligations.RecordsRingsAndEndsOfGroups : Prop :=
  (∀ (s : State) (n : Nat) (k : Fin 16),
  (∀ r c u, s.rec? n = some r → s.ctx? r.ctx = some c → r.st = .waitHurdle → r.isCopy = false → s.seeHurdle c = u → u.hurdleOk c r.hurdle = true →
    exec (.hurdlePass n) s = .next ((u.reserve r.part).modRec n (fun x => { x with st := .reserving, resvFrom := u.pace }))) ∧
  (∀ r c, s.rec? n = some r → s.ctx? r.ctx = some c → r.st ≠ .waitHurdle →
    exec (.hurdlePass n) s = .next s) ∧
  (∀ r c, s.rec? n = some r → s.ctx? r.ctx = some c → r.st = .waitHurdle → r.isCopy = false → (s.seeHurdle c).hurdleOk c r.hurdle = false →
    exec (.hurdlePass n) s = .next (s.seeHurdle c)) ∧
  (∀ r c, s.rec? n = some r → s.ctx? r.ctx = some c → r.st = .waitHurdle → r.isCopy = true → (∀ x ∈ s.recs, x.part = r.part → x.isCopy = true → x.st = .waitHurdle → x.before r = false) →
    r.gfirst = 0 → exec (.hurdlePass n) s = .next (s.modRec n (fun x => { x with st := .running, nodeDone := true }))) ∧
  (∀ r c e, s.rec? n = some r → s.ctx? r.ctx = some c → r.st = .waitHurdle → r.isCopy = true → (∀ x ∈ s.recs, x.part = r.part → x.isCopy = true → x.st = .waitHurdle → x.before r = false) →
    r.gfirst ≠ 0 → s.freeEngine r.part = some e → ∃ t k, exec (.hurdlePass n) s = .next t ∧ t.copies = s.copies ++ [k] ∧ k.id = s.nextId ∧ k.engine = e ∧
      k.node = some n ∧ k.kind = .bytes r.entry r.recipe r.gfirst false false false ∧ k.scp = ⟨false, true, r.cscope⟩ ∧
      (t.rec? n) = some { r with st := .running, copy := some s.nextId }) ∧
  (∀ r seats, s.rec? n = some r → s.mayPlace r.ctx = false → exec (.groupPlacement n seats) s = .next s) ∧
  (∀ r seats t, s.rec? n = some r → s.mayPlace r.ctx = true → (∀ u ∈ s.outUnits r, u.map (fun o => o.group.place.flat) ≠ seats.map Seat.flat) →
    s.reserve r.part = t → s.newTurn r = true → seats.map Seat.flat = r.nextFlats →
    t.seatsOk ((t.heldByOthers r).add (t.heldByOut r)) r (t.pins r []) seats = true → exec (.groupPlacement n seats) s = .next (t.placeNew r (((s.ctx? r.ctx).map Ctx.world).getD 0) seats)) ∧
  (∀ r seats t, s.rec? n = some r → s.mayPlace r.ctx = true → (∀ u ∈ s.outUnits r, u.map (fun o => o.group.place.flat) ≠ seats.map Seat.flat) →
    s.reserve r.part = t → s.newTurn r = false ∨ seats.map Seat.flat ≠ r.nextFlats ∨
    t.seatsOk ((t.heldByOthers r).add (t.heldByOut r)) r (t.pins r []) seats = false → exec (.groupPlacement n seats) s = .next s) ∧
  (∀ r seats t u, s.rec? n = some r → s.mayPlace r.ctx = true →
    (s.outUnits r).find? (fun u => u.map (fun o => o.group.place.flat) == seats.map Seat.flat) = some u → s.reserve r.part = t →
    t.agedStop r u = false → t.seatsOk (t.heldFrom r u) r (t.pins r u) seats = true → exec (.groupPlacement n seats) s = .next (t.placeOld r (((s.ctx? r.ctx).map Ctx.world).getD 0) u seats)) ∧
  (∀ r seats t u, s.rec? n = some r → s.mayPlace r.ctx = true →
    (s.outUnits r).find? (fun u => u.map (fun o => o.group.place.flat) == seats.map Seat.flat) = some u → s.reserve r.part = t →
    t.agedStop r u = true ∨ t.seatsOk (t.heldFrom r u) r (t.pins r u) seats = false → exec (.groupPlacement n seats) s = .next s) ∧
  (∀ r, s.newTurn r = true → r.st = .reserving ∧ s.outFirst r = false ∧ s.hurdleFirst r = false ∧
    ∀ x ∈ s.recs, x.part = r.part → x.st = .reserving → s.mayPlace x.ctx = true → x.before r = true → x.aged = false ∧ s.overAge x = false) ∧
  (∀ (r : LRec) (u : Nat) (x : Seat), (startGroup r u x).regs.v = Vector.replicate 128 (Vector.replicate 32 0) ∧ (startGroup r u x).regs.fpflags = 0 ∧
    (startGroup r u x).trap.pl = r.pl ∧ ((startGroup r u x).ctl.split 0).mask = BitVec.allOnes 32 ∧
    ((startGroup r u x).ctl.split 0).pc = ((BitVec.ofNat 48 r.entry >>> 2) <<< 2) ∧ (startGroup r u x).ctl.live = [0] ∧
    (∀ k : Fin 16, (startGroup r u x).regs.s[k.val] = BitVec.ofNat 64 (r.num (128 + 8 * k.val) 8)) ∧
    (∀ k : Fin 48, (startGroup r u x).regs.s[16 + k.val] = 0) ∧
    ∀ l : Lane, (startGroup r u x).regs.sr[l] = BitVec.ofNat 32 (r.bits 159 128) ^^^ BitVec.ofNat 32 (32 * x.flat + l.val)) ∧
  (∀ r, s.rec? n = some r → r.st = .reserving → ((s.pkg.gangAge[r.part]?).getD 0).toNat ≠ 0 →
    r.resvFrom + 1000 * ((s.pkg.gangAge[r.part]?).getD 0).toNat < s.pace → exec (.gangAgeExpire n) s = .next (s.modRec n (fun r => { r with aged := true }))) ∧
  (∀ r, s.rec? n = some r → r.st ≠ .reserving ∨ ((s.pkg.gangAge[r.part]?).getD 0).toNat = 0 → exec (.gangAgeExpire n) s = .next s) ∧
  (∀ r, s.rec? n = some r → s.recEnded r = false → exec (.recordDone n) s = .next s) ∧
  (∀ r c t, s.rec? n = some r → s.recEnded r = true → s.ctx? r.ctx = some c → s.clearNode c (s.launchAgent c r.part n) r = .ok () t →
    exec (.recordDone n) s = .next (t.decAll c (s.launchAgent c r.part n) r ((List.range r.nsucc).drop r.succDone))) ∧
  (∀ c g r t b, r.cleared = false → ¬ (r.st = .refused ∧ r.status = 6) → s.nodeAtomic g (c.nodeAddr r.node) (fun _ => some 0) = .ok b t →
    s.clearNode c g r = .ok () (t.modRec r.id (fun x => { x with cleared := true }))) ∧
  (∀ c g r, s.decAll c g r [] = s.modRec r.id (fun x => { x with st := .finishing, succDone := r.nsucc })) ∧
  (∀ c g r j js t, s.decSucc c g r j = .ok () t → s.decAll c g r (j :: js) = t.decAll c g r js) ∧
  (∀ c g r j js t, s.decSucc c g r j = .wait t → s.decAll c g r (j :: js) = t.modRec r.id (fun x => { x with succDone := j })) ∧
  (∀ r, s.rec? n = some r → s.pace ≤ r.wct + epsilon r.cscope → exec (.completionStore n) s = .next s) ∧
  (∀ r c t, s.rec? n = some r → r.st = .finishing → (∀ w ∈ s.writes, w.origin ≠ .launch n) → r.wct + epsilon r.cscope < s.pace → s.ctx? r.ctx = some c →
    r.cpl ≠ 0 → State.engStore { s with recs := s.recs.filter (fun x => x.id != n), bars := s.bars.filter (fun b => b.launch != n) }
      (State.launchAgent { s with recs := s.recs.filter (fun x => x.id != n), bars := s.bars.filter (fun b => b.launch != n) } c r.part n) (.completion c.num r.part) r.cpl
      (.bytes (leBytes 8 (r.status * 2 ^ 56 + s.pace % 2 ^ 56))) .write [] = .ok () t → exec (.completionStore n) s = .next t) ∧
  (∀ r, s.rec? n = some r → r.st = .finishing → (∀ w ∈ s.writes, w.origin ≠ .launch n) → r.wct + epsilon r.cscope < s.pace → r.cpl = 0 →
    exec (.completionStore n) s = .next { s with recs := s.recs.filter (fun x => x.id != n), bars := s.bars.filter (fun b => b.launch != n) }) ∧
  ((s.rings[k]).st = .waitKick → exec (.ringKick k) s = .next { s with rings := s.rings.set k { s.rings[k] with
    st := .running, tries := 0, sawLow := false, due := s.pace } }) ∧
  ((s.rings[k]).st ≠ .waitKick → exec (.ringKick k) s = .next s) ∧
  ((s.rings[k]).tries ≠ 0 ∨ (s.rings[k]).st ≠ .running → exec (.ringReadSlot k) s = .next s) ∧
  ((s.rings[k]).tries = 0 ∨ s.pace < (s.rings[k]).due → exec (.ringRetry k) s = .next s) ∧
  (s.ringTurn ≠ some k.val → exec (.ringReadSlot k) s = .next s ∧ exec (.ringRetry k) s = .next s) ∧
  (∀ bs c u v t, (s.rings[k]).tries = 0 → s.ringTurn = some k.val → State.arrive { s with pkg := { s.pkg with ringLast := k.val } } 0 ((s.rings[k]).base.toNat / 512 * 512 + 512 * ((s.rings[k]).seq.toNat % 2 ^ max 4 (bitsOf (s.rings[k]).base.toNat 8 5))) 320 = u →
    u.engineReadN 0 ((s.rings[k]).base.toNat / 512 * 512 + 512 * ((s.rings[k]).seq.toNat % 2 ^ max 4 (bitsOf (s.rings[k]).base.toNat 8 5))) 320 = some bs → u.slotOk k.val bs = true →
    ofLeBytes (bs.take 8) = (s.rings[k]).seq.toNat → u.ctx? (bitsOf (s.rings[k]).ctl.toNat 39 24) = some c → c.vdid = bitsOf (s.rings[k]).ctl.toNat 23 18 →
    u.takeRecord c (bitsOf (s.rings[k]).ctl.toNat 17 16) (ofLeBytes ((bs.drop 64).take 256)) = (some v, t) →
    exec (.ringReadSlot k) s = .next ((t.admittedBy c.part false).setRing k.val ((s.rings[k]).consumed u.pace))) ∧
  (∀ bs u, 0 < (s.rings[k]).tries → s.ringTurn = some k.val → (s.rings[k]).ctl.getLsbD 62 = false → State.arrive { s with pkg := { s.pkg with ringLast := k.val } } 0 ((s.rings[k]).base.toNat / 512 * 512 + 512 * ((s.rings[k]).seq.toNat % 2 ^ max 4 (bitsOf (s.rings[k]).base.toNat 8 5))) 320 = u →
    u.engineReadN 0 ((s.rings[k]).base.toNat / 512 * 512 + 512 * ((s.rings[k]).seq.toNat % 2 ^ max 4 (bitsOf (s.rings[k]).base.toNat 8 5))) 320 = some bs → u.slotOk k.val bs = true →
    ofLeBytes (bs.take 8) ≠ (s.rings[k]).seq.toNat →
    exec (.ringRetry k) s = .next (u.setRing k.val ((s.rings[k]).retried (decide (ofLeBytes (bs.take 8) < (s.rings[k]).seq.toNat)) u.pace))) ∧
  (∀ bs u, (s.rings[k]).tries = 0 → s.ringTurn = some k.val → (s.rings[k]).ctl.getLsbD 62 = true → State.arrive { s with pkg := { s.pkg with ringLast := k.val } } 0 ((s.rings[k]).base.toNat / 512 * 512 + 512 * ((s.rings[k]).seq.toNat % 2 ^ max 4 (bitsOf (s.rings[k]).base.toNat 8 5))) 320 = u →
    u.engineReadN 0 ((s.rings[k]).base.toNat / 512 * 512 + 512 * ((s.rings[k]).seq.toNat % 2 ^ max 4 (bitsOf (s.rings[k]).base.toNat 8 5))) 320 = some bs → u.slotOk k.val bs = true →
    (s.rings[k]).seq.toNat < ofLeBytes (bs.take 8) →
    exec (.ringReadSlot k) s = .next (u.setRing k.val { s.rings[k] with st := .faulted, stuck := some .faulted, tries := 0, sawLow := false })) ∧
  (∀ (r : Ring) (now : Nat), r.seq + 1 ≠ BitVec.allOnes 64 →
    r.consumed now = { r with seq := r.seq + 1, st := .running, tries := 0, sawLow := false, due := now }) ∧
  (∀ (r : Ring) (now : Nat), r.seq + 1 = BitVec.allOnes 64 → (r.consumed now).st = .sealed) ∧
  (∀ (r : Ring) (now : Nat), r.tries < 8 → r.retried false now = { r with tries := r.tries + 1, due := now + 250 }) ∧
  (∀ (r : Ring) (now : Nat), r.tries < 8 → r.sawLow = false →
    r.retried true now = { r with sawLow := true, rejects := min 65535 (r.rejects + 1), tries := r.tries + 1, due := now + 250 }) ∧
  (∀ (r : Ring) (b : Bool) (now : Nat), 8 ≤ r.tries → (r.retried b now).st = .waitKick)) ∧
  (∀ (s : State) (i : BitVec 12) (n : Nat),
  (∀ l a rest, s.cur.ctl.stack = l :: a :: rest → l.kind = 3 → l.owner = s.cur.ctl.iss.val → Does .exit s (fun t =>
    (t.modCtl (fun c => { c with stack := rest })).modSplit (fun sp => { sp with mask := l.payload.setWidth 32, pc := a.payload.setWidth 48 * 4 }))) ∧
  (s.cur.ctl.topRecord s.cur.ctl.iss = none → s.cur.ctl.owns s.cur.ctl.iss = true →
    Waits .exit s (fun t => (t.setPc s.pc).modSplit (fun sp => { sp with mask := 0 })) s.cur.ctl.exitWait) ∧
  (s.cur.ctl.topRecord s.cur.ctl.iss = none → s.cur.ctl.owns s.cur.ctl.iss = false → 1 < s.cur.ctl.live.length → Does .exit s State.leaveSplit) ∧
  (s.cur.ctl.topRecord s.cur.ctl.iss = none → s.cur.ctl.owns s.cur.ctl.iss = false → s.cur.ctl.live.length ≤ 1 → s.outstanding = true →
    NotYet .exit s .room) ∧
  (s.cur.ctl.topRecord s.cur.ctl.iss = none → s.cur.ctl.owns s.cur.ctl.iss = false → s.cur.ctl.live.length ≤ 1 → s.outstanding = false →
    s.cur.trap.deferred = [] → s.cur.mat.held = [] → Does .exit s State.leaveSplit) ∧
  (s.cur.ctl.live = [s.cur.ctl.iss] → (s.rec? s.cur.place.launch) = none → ∃ t, s.leaveSplit = t ∧ t.cur.ctl.exited = true ∧ t.cur.ctl.live = []) ∧
  (1 < s.cur.ctl.live.length ∨ s.cur.ctl.stack ≠ [] → Does (.rcp i) s (fun t => t.modCkpt (fun k => { k with closed := true }))) ∧
  (s.cur.ctl.live.length ≤ 1 → s.cur.ctl.stack = [] → (∀ c, s.myCtx = some c → c.preemptAt = none) → Does (.rcp i) s (fun t =>
    t.modCkpt (fun _ => ⟨0, false, some ⟨s.bundlePc, i.toNat, s.split.mask, s.cur.regs.s, s.cur.regs.k, s.cur.regs.sr⟩⟩))) ∧
  (∀ c n t r v f, s.cur.ctl.live.length ≤ 1 → s.cur.ctl.stack = [] → s.myCtx = some c → c.preempt = .forward n →
    ((s.issued (.rcp i)).modCkpt (fun _ => ⟨0, false, some ⟨s.bundlePc, i.toNat, s.split.mask, s.cur.regs.s, s.cur.regs.k, s.cur.regs.sr⟩⟩)) = t →
    t.recipeWaits t.cur = false → t.eligible t.cur = (some f, r) →
    r.modRegs (fun x => { x with fpflags := r.dueFlags r.cur }) = v → Ends (.rcp i) s (fun _ => (v.tally 0 1).flashBack v.cur f)) ∧
  (exec (.blockClearComplete n) s = .next { s with clearing := s.clearing.zipIdx.filterMap (fun x => if x.2 = n then none else some x.1) }) ∧
  (∀ (u : State) (p : Place), ∃ t, u.leaveSeat p = t ∧ t.clearing = u.clearing ++ [⟨p.core, p.slot, p.nregs / 8, u.cycle + 16⟩] ∧
    ((∃ x ∈ u.seated, x.core = p.core ∧ x.launch = p.launch) ∨ (∃ c ∈ u.copies, c.core = p.core ∧ c.team = p.launch ∧ c.node = none) → t.scratch = u.scratch)) ∧
  (∀ o, s.group? n = none → s.out.find? (fun o => o.kept && o.group.place.uid == n) = some o → s.outBusy o = true → exec (.groupRelease n) s = .next s) ∧
  (∀ o, s.group? n = none → s.out.find? (fun o => o.kept && o.group.place.uid == n) = some o → s.outBusy o = false → (s.ctx? o.group.place.ctx).any (fun c => c.reset.isSome) = true → exec (.groupRelease n) s =
    .next (State.leaveSeat { s with out := s.out.erase o } o.group.place)) ∧
  (∀ o c u, s.group? n = none → s.out.find? (fun o => o.kept && o.group.place.uid == n) = some o → s.outBusy o = false → s.ctx? o.group.place.ctx = some c →
    c.reset = none → s.storeImage c (s.imageAt c n) o.imageSize = u → exec (.groupRelease n) s =
    .next (State.leaveSeat { u with out := u.out.map (fun x => if x.group.place.uid == n then { x with kept := false } else x) } o.group.place)) ∧
  (∀ g, s.group? n = some g → g.ctl.exited = false ∨ g.acc.ops ≠ [] ∨ s.cmdsOf g ≠ [] → exec (.groupRelease n) s = .next s) ∧
  (∀ g, s.group? n = some g → g.ctl.exited = true → g.acc.ops = [] → g.acc.inflight = [] → s.copies = [] → s.cmdsOf g = [] → s.objs = [] → s.cur = g →
    s.rec? g.place.launch = none → s.mqueue = [] → s.others = [] → ∃ t, exec (.groupRelease n) s = .next t ∧ t.cur.place.used = false ∧ t.groups = [] ∧
      t.clearing = s.clearing ++ [⟨g.place.core, g.place.slot, g.place.nregs / 8, s.cycle + 16⟩] ∧
      t.scratch = s.scratch.filter (fun r => !(r.core == g.place.core && r.launch == g.place.launch))))

/-- A slice that has ended while another context waits begins a pre-emption; at the end of the grace period every group of
the context is saved, flashed back or runs forward, and no earlier; at the deadline a context with a group that has
not left is reset with DEADLINE. A team that has been parked for 20 microseconds is saved in full. A context leaves
residency when no group of it is left, waiting where images or records are left and else idle; the first waiting
context that may becomes resident with its next configuration. A reset ends every group of its context, of those
switched out the ones whose operations are still in flight, and completes when the last of them has gone and nothing
of it is in flight. -/
def Obligations.Contexts : Prop :=
  ∀ (s : State) (n : Nat),
  (∀ c, s.ctx? n = some c → c.st = .resident → c.preempt = .none → c.slice ≠ 0 → c.sliceFrom + 1000 * c.slice ≤ s.pace → s.contended n = true →
    exec (.sliceEnd n) s = .next (s.modCtx n (fun c => if c.preempt = .none then { c with preempt := .grace s.pace } else c))) ∧
  (∀ c, s.ctx? n = some c → c.st ≠ .resident ∨ c.slice = 0 ∨ s.pace < c.sliceFrom + 1000 * c.slice ∨ s.contended n = false → exec (.sliceEnd n) s = .next s) ∧
  (∀ c t, s.ctx? n = some c → c.preempt = .grace t → s.pace < t + 1000 * c.grace → exec (.graceEnd n) s = .next s) ∧
  (∀ c t, s.ctx? n = some c → c.preempt = .grace t → t + 1000 * c.grace ≤ s.pace → (∀ g ∈ s.groups, g.place.ctx ≠ n) →
    exec (.graceEnd n) s = .next (s.modCtx n (fun c => { c with preempt := .forward t }))) ∧
  (∀ c t g, s.ctx? n = some c → c.preempt = .grace t → t + 1000 * c.grace ≤ s.pace → s.cur = g → s.others = [] → g.place.used = true → g.place.ctx = n →
    g.ctl.exited = false → g.ctl.parked = true → g.acc.inflight = [] → s.recipeWaits g = false → exec (.graceEnd n) s = .next ((s.saveFull g false).modCtx n (fun c => { c with preempt := .forward t }))) ∧
  (∀ c t, s.ctx? n = some c → c.preemptAt = some t → t + 1000 * c.deadline ≤ s.pace → (∃ g ∈ s.groups, g.place.ctx = n ∧ g.ctl.exited = false) →
    exec (.deadlineExpire n) s = .next (s.resetContext n 34)) ∧
  (∀ c t, s.ctx? n = some c → c.preemptAt = some t → s.pace < t + 1000 * c.deadline → exec (.deadlineExpire n) s = .next s) ∧
  (∀ l k g, s.cur = g → s.others = [] → g.place.used = true → g.place.launch = l → g.place.core = k → g.ctl.parked = true →
    g.ctl.parkedAt + 20000 ≤ s.pace → exec (.longParkSwitchout l k) s = .next (s.saveFull g true)) ∧
  (∀ l k g, g ∈ s.groups → g.place.launch = l → g.place.core = k → g.ctl.parked = false → g.ctl.exited = false → exec (.longParkSwitchout l k) s = .next s) ∧
  (∀ c, s.ctx? n = some c → (∃ g ∈ s.groups, g.place.ctx = n) → exec (.contextSwitchOut n) s = .next s) ∧
  (∀ c, s.ctx? n = some c → c.st = .resident → (∀ g ∈ s.groups, g.place.ctx ≠ n) → (∀ o ∈ s.out, o.group.place.ctx ≠ n) → c.reset = none →
    c.preempt = .none → s.pendingRecs n = false → exec (.contextSwitchOut n) s = .next ((s.leaveResidency c).modCtx n (fun c => { c with st := .idle }))) ∧
  (∀ c, s.ctx? n = some c → c.st = .resident → (∀ g ∈ s.groups, g.place.ctx ≠ n) → c.reset = none → c.preempt ≠ .none → s.imagesReady n = true →
    (∃ o ∈ s.out, o.group.place.ctx = n) → exec (.contextSwitchOut n) s = .next ((s.leaveResidency c).fresh.2.modCtx n (fun c =>
      { c with st := .waiting, waitFrom := (s.leaveResidency c).nextId, preempt := .none }))) ∧
  (∀ c, s.ctx? n = some c → s.mayReside c = false → exec (.contextResident n) s = .next s) ∧
  (∀ c, s.ctx? n = some c → s.mayReside c = true → (∀ x ∈ s.ctxs, x.part = c.part → s.mayReside x = true → c.waitFrom ≤ x.waitFrom) →
    (∀ o ∈ s.out, o.group.place.ctx ≠ n) → exec (.contextResident n) s = .next ((State.tierIn { s with
      tlb := s.tlb.map (fun e => if e.ctx == n then { e with recorded := false } else e) } c).modCtx n (fun x =>
        { x with st := .resident, sliceFrom := s.pace, ctxCfg := x.ctxCfgNext }))) ∧
  (∀ c, s.mayReside c = true → c.st = .waiting ∧ c.reset = none ∧ s.pkg.tray = 0 ∧ ∀ x ∈ s.ctxs, x.part = c.part → x.st = .resident → x.world ≠ c.world) ∧
  (∀ c, s.ctx? n = some c → c.reset = none ∨ (∃ g ∈ s.groups, g.place.ctx = n) → exec (.resetComplete n) s = .next s) ∧
  (∀ c z, s.ctx? n = some c → c.reset = some z → c.st ≠ .resident → (∀ g ∈ s.groups, g.place.ctx ≠ n) → (∀ x ∈ s.copies, x.ctx ≠ n) → c.destroy = false → (∀ o ∈ s.out, o.group.place.ctx ≠ n) →
    (∀ e ∈ s.sb, e.ctx ≠ n) → (∀ w ∈ s.writes, w.ctx ≠ n) →
    s.objs = [] → exec (.resetComplete n) s = .next ((s.mapAll (Group.haltDone n)).fresh.2.modCtx n (fun c => { c with
      reset := none
      st := if (s.mapAll (Group.haltDone n)).fresh.2.pendingRecs n then .waiting else .idle
      waitFrom := s.nextId }))) ∧
  (∀ z, ∃ t, s.resetContext n z = t ∧ (∀ g ∈ t.groups, g.place.ctx = n → g.ctl.exited = true ∧ g.ctl.live = [] ∧ g.trap.queue = []) ∧
    (∀ o ∈ t.out, o.group.place.ctx = n → o.kept = true ∧ o.group.ctl.exited = true) ∧ (∀ m ∈ t.mqueue, m.ctx ≠ n) ∧ ∀ c, t.ctx? n = some c → c.reset = some z ∧ c.tdt = [])

/-- A flit with a bad CRC is refused and asked for again; one with a bad tag counts beside, and the third in a row fails
the link; a good one of the next sequence delivers its packets, one ahead of it is asked for again from the missing
one on, one taken before is dropped; an acknowledgement frees the retry buffer, and a replay sends the flits from the
one asked for, each under a new nonce. A sent packet stays in the retry buffer in a flit of its own, with the next
sequence. A packet that is next in its port's sequence is delivered. A lane fault takes the spare lane and replays
what is not acknowledged, and fails the link where the spare is in use; a link fails after eight replays, three bad
tags or 8 microseconds without progress. A link comes up only after boot and before the tray is quiesced; a direction
that has carried 2^40 flits has a new session. While CD0 is in service, a host snoop of a line takes its copies out of
the caches once no write holds the line, and is answered with the line as it is stored; (what the retry buffer, the
channels and the replay request hold is the model's choice, log entry 36) a host read without a route answers all ones
with poison, any other the bytes of its line. -/
def Obligations.LinksAndHost : Prop :=
  ∀ (s : State) (p n : Nat) (f : Flit),
  (∀ k, s.link? p n = some k → k.up = false → exec (.flitReceive p n f) s = .next s) ∧
  (∀ k, s.link? p n = some k → k.up = true → f.crcOk = false → exec (.flitReceive p n f) s = .next (s.setLink { k with nak := some k.rxSeq })) ∧
  (∀ k, s.link? p n = some k → k.up = true → f.crcOk = true → f.tagOk = false → k.tagBad < 2 → s.linkBad k = false →
    exec (.flitReceive p n f) s = .next (s.setLink { k with tagBad := k.tagBad + 1, nak := some k.rxSeq })) ∧
  (∀ k, s.link? p n = some k → k.up = true → f.crcOk = true → f.tagOk = false → k.tagBad = 2 →
    exec (.flitReceive p n f) s = .next (s.failLink { k with tagBad := 3, nak := some k.rxSeq })) ∧
  (∀ k, s.link? p n = some k → k.up = true → f.crcOk = true → f.tagOk = true → f.ack = k.acked → k.acked < 1024 → f.nak = none → f.seq = k.rxSeq → f.packets = [] →
    s.linkBad k = false → exec (.flitReceive p n f) s = .next
      ((s.setLink { k with tagBad := 0, flits := k.flits + 1, rxSeq := (k.rxSeq + 1) % 1024, nak := none }).drainPort p)) ∧
  (∀ k, s.link? p n = some k → k.up = true → f.crcOk = true → f.tagOk = true → f.ack = k.acked → k.acked < 1024 → f.nak = none →
    0 < (f.seq + 1024 - k.rxSeq) % 1024 → (f.seq + 1024 - k.rxSeq) % 1024 < 512 → s.linkBad k = false →
    exec (.flitReceive p n f) s = .next ((s.setLink { k with tagBad := 0, flits := k.flits + 1, nak := some k.rxSeq }).drainPort p)) ∧
  (∀ k, s.link? p n = some k → k.up = true → f.crcOk = true → f.tagOk = true → f.ack = k.acked → k.acked < 1024 → f.nak = none →
    512 ≤ (f.seq + 1024 - k.rxSeq) % 1024 → s.linkBad k = false →
    exec (.flitReceive p n f) s = .next ((s.setLink { k with tagBad := 0, flits := k.flits + 1 }).drainPort p)) ∧
  (∀ (k : Link) now m, f.nak = none → (f.ack + 1024 - k.acked) % 1024 = m → 0 < m → m ≤ k.retry.length → k.acknowledged f now =
    { k with acked := f.ack, retry := k.retry.drop m, ackAt := now, replays := 0, tagBad := 0, flits := k.flits + 1 }) ∧
  (∀ (k : Link) m j, k.retry.findIdx? (fun x => x.flit.seq == m) = some j → (k.replay m).retry.map SentFlit.flit = k.retry.map SentFlit.flit ∧
    (k.replay m).txFlits = k.txFlits + (k.retry.length - j) ∧ (k.replay m).replays = (if k.again = m then k.replays + 1 else 1)) ∧
  (∀ (k : Link) now (q : Packet), (k.send now q).retry.length = k.retry.length + 1 ∧ (k.send now q).txSeq = (k.txSeq + 1) % 1024 ∧
    (k.send now q).retry.getLast? = some ⟨⟨k.txSeq, k.rxSeq, q.chan, now % 2 ^ 40, k.nak, true, true, [q]⟩, k.txSession * 2 ^ 64 + k.txFlits⟩) ∧
  (∀ port ch, s.upLinks port = [] → s.sendPacket port ch = s) ∧
  (∀ q r, s.ports.find? (fun x => x.port == p && x.chan == q.chan) = some r → r.next = q.seq → q.seq < 65536 → r.held = [] →
    ∃ t, s.takePacket p q = t ∧ t.inbox = s.inbox ++ [q] ∧ t.ports.find? (fun x => x.port == p && x.chan == q.chan) = some ⟨p, q.chan, (q.seq + 1) % 65536, []⟩) ∧
  (∀ k, s.link? p n = some k → k.up = true → k.spare = false → k.retry = [] → s.linkBad k = false → exec (.laneSpare p n) s =
    .next (s.setLink { k with spare := true })) ∧
  (∀ k x r, s.link? p n = some k → k.up = true → k.spare = false → k.retry = x :: r → exec (.laneSpare p n) s =
    .next (s.judgeLink (Link.replay { k with spare := true } x.flit.seq))) ∧
  (∀ k, s.link? p n = some k → k.up = true → k.spare = true → exec (.laneSpare p n) s = .next (s.failLink k)) ∧
  (∀ k, s.link? p n = some k → k.up = true → k.spare = true ∨ 8 ≤ k.replays ∨ 3 ≤ k.tagBad ∨ (k.retry ≠ [] ∧ k.ackAt + 8000 < s.pace) →
    exec (.linkFail p n) s = .next (s.failLink k)) ∧
  (∀ k, s.link? p n = some k → k.up = true → k.spare = false → s.linkBad k = false → exec (.linkFail p n) s = .next s) ∧
  (∀ a, p < 16 → n < 4 → s.pkg.boot = 2 → s.pkg.tray < 2 → s.pkg.dieOff.getLsbD (p / 4) = false → s.link? p n = none →
    exec (.linkUp p n a) s = .next (s.setLink ⟨p, n, a, false, 0, 0, 0, [], s.pace, 0, 0, 1, 0, 1, 0, 0, none, !a⟩)) ∧
  (∀ a, 16 ≤ p ∨ 4 ≤ n ∨ s.pkg.boot ≠ 2 ∨ 2 ≤ s.pkg.tray → exec (.linkUp p n a) s = .next s) ∧
  (∀ k, s.link? p n = some k → k.up = true → 2 ^ 40 ≤ k.flits → k.txFlits < 2 ^ 40 → exec (.sessionRekey p n) s =
    .next (s.setLink { k with session := k.session + 1, flits := 0 })) ∧
  (∀ k, s.link? p n = some k → k.up = true → k.flits < 2 ^ 40 → 2 ^ 40 ≤ k.txFlits → exec (.sessionRekey p n) s =
    .next (s.setLink { k with txSession := k.txSession + 1, txFlits := 0 })) ∧
  (∀ k, s.link? p n = some k → k.flits < 2 ^ 40 → k.txFlits < 2 ^ 40 → exec (.sessionRekey p n) s = .next s) ∧
  (∀ a b, s.hostUp = true → s.host.snoops = [] → s.lineWaits (s.localId 0) (lineBase a) = false → exec (.hostSnoop a b) s = .next (s.serveSnoop (lineBase a) b)) ∧
  (∀ a u, (s.voidLine (s.localId 0) a).dropL2 0 a = u → s.serveSnoop a none =
    { u with host := { u.host with seen := u.cipherOf (u.tagOf a) a (u.bytesAt (s.localId 0) a 64) } }) ∧
  (∀ a bs u, ((s.voidLine (s.localId 0) (lineBase a)).dropL2 0 (lineBase a)).voidLine (s.localId 0) (lineBase a) = u →
    s.routeEntry (s.localId 0) (lineBase a) = none → s.sharers = [] → s.tagOf (lineBase a) = 0 → (∀ x ∈ s.worlds, x.id ≠ 0) → bs.length = 64 →
    ∃ t, s.serveSnoop (lineBase a) (some bs) = t ∧ t.mem = Memory.putN u.mem (memKey (s.localId 0) (lineBase a)) bs ∧ ∀ x ∈ t.l1, x.fline = lineBase a → x.core < 144 → x.const = true) ∧
  (∀ a b, s.hostUp = true → s.host.snoops = [] → s.lineWaits (s.localId 0) (lineBase a) = true → exec (.hostSnoop a b) s =
    .next { s with host := { s.host with snoops := [(lineBase a, b)] } }) ∧
  (∀ a b q, s.hostUp = false → exec (.hostSnoop a b) s = .next s ∧ exec (.hostMemRequest q) s = .next s) ∧
  (∀ a k, s.hostUp = true → s.host.waiting = [] → s.home a = none → exec (.hostMemRequest (.read a k)) s =
    .next { s with host := ⟨[], List.replicate (min k (64 - a % 64)) 255, true, s.host.snoops, s.host.seen⟩ }) ∧
  (∀ a k h, s.hostUp = true → s.host.waiting = [] → s.home a = some h → s.worldOk h.holder a 0 = true → (s.lineAt h.holder a).poison = false →
    s.lineWaits h.holder a = false → s.objs = [] → ∃ t, exec (.hostMemRequest (.read a k)) s = .next t ∧
      t.host = ⟨[], s.bytesAt h.holder a (min k (64 - a % 64)), false, s.host.snoops, s.host.seen⟩ ∧ t.mem = s.mem)

/-- A command with an unknown code or a wrong length completes with BAD_CMD; an attestation before boot with STATE. An
accepted command that meets its conditions has its effect and completes with status OK: a report begins with its
version, the package, the worlds and the measurement; a world is created with a fresh key and its audit interval,
granted and revoked ranges that are zeroed and tagged, and destroyed; a partition is set, a context created IDLE with
its reset values, destroyed and pre-empted; a ring is set and keyed. One that does not meet them changes nothing and
completes with its status; that a revocation of a world that does not exist has NOT_FOUND is the model's reading (log
entry 34), and that a command is complete in the event in which it is written its choice (log entry 20). -/
def Obligations.MailboxCommands : Prop :=
  ∀ (s : State) (c : MboxCmd),
  (s.pkg.boot = 2 → s.hostUp = true → s.mbox.stat.getLsbD 0 = false → cmdLen (cmdCode c) ≠ some (cmdBytes c) → exec (.mailboxBadCmd c) s = .next (s.reply c 1 [])) ∧
  (∀ q st r, st < 256 → (s.reply q st r).mbox.stat.toNat = bitsOf q.cmd.toNat 63 32 * 2 ^ 32 + r.length % 65536 * 2 ^ 16 + st * 2 ^ 8 + 2) ∧
  (s.pkg.boot ≠ 2 → cmdCode c = 1 → s.mbox.stat.getLsbD 0 = false → exec (.attest c) s = .next (s.reply c 7 [])) ∧
  (s.Accepts c 1 → ∃ t, exec (.attest c) s = .next t ∧ t.mbox.rsp.take 72 = leBytes 4 1 ++ leBytes 2 s.pkgNum ++
    leBytes 2 ((List.range 256).filterMap s.world?).length ++ measBytes s.pkg.meas) ∧
  (s.Accepts c 0x10 → ∀ w t, w = reqField (cmdBody c) 0 1 → t = reqField (cmdBody c) 8 4 → 0 < w → 0 < t → t ≤ 600 →
    onlyBytes (cmdBody c) [(0, 1), (8, 4)] = true → s.world? w = none →
    exec (.worldCreate c) s = .next (State.reply { s with worlds := s.worlds ++ [⟨w, (List.range 64).map (Config.worldKey s.freeCount), t, 0, s.pace, (List.range 32).map (fun i => Config.worldKey s.freeCount (64 + i))⟩], freeCount := s.freeCount + 1 } c 0 [])) ∧
  (s.Accepts c 0x10 → ∀ w t, w = reqField (cmdBody c) 0 1 → t = reqField (cmdBody c) 8 4 → w = 0 ∨ t = 0 ∨ 600 < t →
    exec (.worldCreate c) s = .next (s.reply c 2 [])) ∧
  (s.Accepts c 0x11 → ∀ w b l, rangeReq (cmdBody c) = some (w, b, l) → s.world? w ≠ none →
    (∀ k < l / 4096, s.ownHolder (b + 4096 * k) ≠ none ∧ (s.tagOf (b + 4096 * k) = 0 ∨ s.tagOf (b + 4096 * k) = w)) →
    exec (.worldGrant c) s = .next ((s.retag b l w).reply c 0 [])) ∧
  (s.Accepts c 0x12 → ∀ w b l, rangeReq (cmdBody c) = some (w, b, l) → s.world? w ≠ none →
    (∀ k < l / 4096, s.ownHolder (b + 4096 * k) ≠ none ∧ s.tagOf (b + 4096 * k) = w) →
    exec (.worldRevoke c) s = .next ((s.retag b l 0).reply c 0 [])) ∧
  (s.Accepts c 0x12 → ∀ w b l, rangeReq (cmdBody c) = some (w, b, l) → s.world? w = none → exec (.worldRevoke c) s = .next (s.reply c 4 [])) ∧
  (s.Accepts c 0x13 → ∀ w, w = reqField (cmdBody c) 0 1 → 0 < w → s.world? w ≠ none → (∀ x ∈ s.ctxs, x.world ≠ w) → (∀ g ∈ s.granted, g.2 ≠ w) →
    exec (.worldDestroy c) s = .next (State.reply { s with
      worlds := s.worlds.filter (fun x => x.id != w), integ := s.integ.filter (fun e => e.world != w) } c 0 [])) ∧
  (s.Accepts c 0x13 → ∀ w, w = reqField (cmdBody c) 0 1 → 0 < w → s.world? w ≠ none → (∃ x ∈ s.ctxs, x.world = w) → exec (.worldDestroy c) s = .next (s.reply c 3 [])) ∧
  (s.Accepts c 0x20 → ∀ i, i = reqField (cmdBody c) 0 1 → i ≤ 11 → onlyBytes (cmdBody c) [(0, 1), (8, 8)] = true →
    exec (.partSet c) s = .next ((s.writePart i (BitVec.ofNat 64 (reqField (cmdBody c) 8 8))).reply c 0
      (leBytes 8 (s.writePart i (BitVec.ofNat 64 (reqField (cmdBody c) 8 8))).pkg.partStatus.toNat))) ∧
  (s.Accepts c 0x30 → ∀ p v w, p = reqField (cmdBody c) 0 1 → v = reqField (cmdBody c) 1 1 → w = reqField (cmdBody c) 2 1 → reqField (cmdBody c) 3 1 = 0 →
    p ≤ 11 → v ≤ 63 → reqField (cmdBody c) 8 8 % 4096 = 0 → onlyBytes (cmdBody c) [(0, 4), (8, 8)] = true →
    ((s.pkg.partDesc[p]?).getD 0).getLsbD 0 = true → (w = 0 ∨ s.world? w ≠ none) → ((s.vregs.part[v]?).getD 255 = 255 ∨ (s.vregs.part[v]?).getD 255 = p) → s.ctxs = [] →
    ∃ t x, exec (.ctxCreate c) s = .next t ∧ t.ctxs = [x] ∧ x.num = 0 ∧ x.part = p ∧ x.vdid = v ∧ x.world = w ∧ x.st = .idle ∧ x.wdog = 26 ∧
      x.s1root = 0 ∧ x.tvec1 = 0 ∧ t.mbox.rsp = leBytes 2 0) ∧
  (s.Accepts c 0x31 → ∀ x, s.ctx? (reqField (cmdBody c) 0 2) = some x → x.st = .idle → x.reset = none →
    exec (.ctxDestroy c) s = .next ((s.freeCtx (reqField (cmdBody c) 0 2)).reply c 0 [])) ∧
  (s.Accepts c 0x31 → s.ctx? (reqField (cmdBody c) 0 2) = none → exec (.ctxDestroy c) s = .next (s.reply c 4 [])) ∧
  (s.Accepts c 0x32 → ∀ x, s.ctx? (reqField (cmdBody c) 0 2) = some x → x.st = .resident →
    exec (.ctxPreempt c) s = .next ((s.beginPreempt (reqField (cmdBody c) 0 2)).reply c 0 [])) ∧
  (s.Accepts c 0x32 → ∀ x, s.ctx? (reqField (cmdBody c) 0 2) = some x → x.st ≠ .resident → exec (.ctxPreempt c) s = .next (s.reply c 7 [])) ∧
  (s.Accepts c 0x40 → ∀ k, k = reqField (cmdBody c) 0 1 → k ≤ 15 → onlyBytes (cmdBody c) [(0, 1), (8, 16)] = true →
    exec (.ringSet c) s = .next (((s.writeRingBase k (BitVec.ofNat 64 (reqField (cmdBody c) 8 8))).writeRingCtl k
      (BitVec.ofNat 64 (reqField (cmdBody c) 16 8))).reply c 0 [])) ∧
  (s.Accepts c 0x41 → ∀ k, k = reqField (cmdBody c) 0 1 → k ≤ 15 → onlyBytes ((cmdBody c).take 8) [(0, 1)] = true → (s.ring k).ctl.getLsbD 63 = false →
    ∃ t, exec (.ringKey c) s = .next t ∧ (t.ring k).key.length = 32 ∧ t.mbox.rsp.length = 1568 ∧ (t.ring k).seq = (s.ring k).seq) ∧
  (s.Accepts c 0x41 → ∀ k, k = reqField (cmdBody c) 0 1 → k ≤ 15 → onlyBytes ((cmdBody c).take 8) [(0, 1)] = true → (s.ring k).ctl.getLsbD 63 = true →
    exec (.ringKey c) s = .next (s.reply c 7 []))

/-- A boot takes place only in BOOTING; four good images extend the measurement in order and bring the package up ONLINE
with every other register at its reset value, and a bad one stops it. A comparison comes every 100 microseconds: above
the cap the clock falls one step; that it rises one step without a cap is the model's reading (log entry 35). A
drained package quiesces, is powered off, and boots again once it is inserted. A wear update of a new hour writes its
register. An uncorrectable error marks its register until it is written; one of a cache line drops the line, and a
corrected one is recorded. An altered line keeps its new stamp; an audit interval ends at its time, and an audit whose
sums agree starts a new interval. -/
def Obligations.BootPowerTrayAndErrors : Prop :=
  ∀ (s : State) (l : List FwImage) (k : BitVec 16),
  (s.pkg.tray ≠ 4 → exec (.powerOn l k) s = .next s) ∧
  (∀ x, s.pkg.tray = 4 → (∀ i ∈ l, i.sigOk = true) → l.length = 4 → x = l.foldl (fun m i => extendMeas m i.bytes) 0 →
    ∃ t, exec (.powerOn l k) s = .next t ∧ t.pkg.boot = 2 ∧ t.pkg.tray = 0 ∧ t.pkg.images = 4 ∧ t.pkg.meas = x ∧ t.pkg.pkgId = k.setWidth 64 ∧
      t.ctxs = [] ∧ t.cur = Group.empty) ∧
  (∀ i r, s.pkg.tray = 4 → l = i :: r → i.sigOk = false → ∃ t, exec (.powerOn l k) s = .next t ∧ t.pkg.boot = 3 ∧ t.pkg.bootFail = 0 ∧ t.pkg.tray = 4 ∧ t.routes = []) ∧
  (∀ (a : BitVec 16) (d : Int) (g w : Bool), s.pkg.pwrAt + 100000 ≤ s.pace → s.pkg.pwrCap.getLsbD 31 = false → d ≤ 40 → g = false → s.pkg.pwrStat.toNat / 256 % 256 < 25 → s.pkg.pwrStat.getLsbD 0 = false →
    ∃ t, exec (.powerCompare a d g w) s = .next t ∧ t.pkg.pwrStat.toNat = a.toNat * 2 ^ 32 + (s.pkg.pwrStat.toNat / 256 % 256 + 1) * 2 ^ 8) ∧
  (∀ (a : BitVec 16) (d : Int) (g : Bool), s.pkg.pwrAt + 100000 ≤ s.pace → s.pkg.pwrCap.getLsbD 31 = true → d ≤ 40 → g = false → s.pkg.pwrCap.toNat % 4096 < a.toNat → 10 < s.pkg.pwrStat.toNat / 256 % 256 →
    s.pkg.pwrStat.getLsbD 0 = false →
    ∃ t, exec (.powerCompare a d g false) s = .next t ∧ t.pkg.pwrStat.toNat = a.toNat * 2 ^ 32 + (s.pkg.pwrStat.toNat / 256 % 256 - 1) * 2 ^ 8) ∧
  (∀ (a : BitVec 16) (d : Int) (g w : Bool), s.pace < s.pkg.pwrAt + 100000 → exec (.powerCompare a d g w) s = .next s) ∧
  (s.pkg.tray = 1 → (∀ c ∈ s.ctxs, c.st ≠ .resident) → s.tier.moves = [] → (∀ h ∈ s.holders, h.holder / 256 ≠ s.pkgNum) → exec .trayQuiesce s =
    .next ((List.range 16).foldl (fun t p => State.portDown t p) { s with pkg := { s.pkg with tray := 2 }, links := s.links.map (fun k =>
      { k with up := false, retry := [] }) })) ∧
  ((∀ e ∈ s.routes, e.holders = []) → ∀ p, s.portDown p = { s with
      relays := s.relays.filter (fun f => f.dst != beyond p), mcast := s.mcast.filter (fun m => m.port != beyond p),
      txq := s.txq.filter (fun x => x.port != p), ports := s.ports.filter (fun x => x.port != p) }) ∧
  (s.pkg.tray ≠ 1 ∨ (∃ c ∈ s.ctxs, c.st = .resident) → exec .trayQuiesce s = .next s) ∧
  (s.pkg.tray = 2 → exec .trayPowerOff s = .next { s with pkg := { s.pkg with tray := 3, boot := 0 } }) ∧
  (s.pkg.tray = 3 → exec .trayInsert s = .next { s with pkg := { s.pkg with tray := 4 } }) ∧
  (s.pkg.tray ≠ 2 → exec .trayPowerOff s = .next s) ∧
  (s.pkg.tray ≠ 3 → exec .trayInsert s = .next s) ∧
  (∀ (i : Fin 32) (e : BitVec 16) (u p : BitVec 8), s.hour ≤ s.pkg.wearHour[i] → exec (.wearUpdate i e u p) s = .next s) ∧
  (∀ (i : Fin 32) (e : BitVec 16) (u p : BitVec 8), s.pkg.wearHour[i] < s.hour → ∃ t x, exec (.wearUpdate i e u p) s = .next t ∧ t.pkg.wear = s.pkg.wear.set i x ∧
    x = (0 : BitVec 16) ++ e ++ u ++ BitVec.ofNat 8 (if i.val < 16 then min 4 p.toNat else p.toNat) ++ (0 : BitVec 16)) ∧
  (∀ u r k, r < 128 → k < 32 → s.cur.place.used = true → s.cur.place.uid = u → (RegRef.v r, k) ∉ s.cur.regs.bad →
    exec (.softError (.vreg u r k) false) s = .next (s.modRegs (fun g => { g with bad := g.bad ++ [(.v r, k)] }))) ∧
  (∀ a b, exec (.softError (.l1 a b) false) s = .next (s.dropFrom true a b)) ∧
  (∀ a b, exec (.softError (.l1 a b) true) s = .next (s.errorRecord ⟨40, 0, 0, a, 0, 0, [BitVec.ofNat 64 b], false⟩)) ∧
  (∀ a b bs v, ∃ t, exec (.dramLineAltered a b bs v) s = .next t ∧ (t.lineAt (s.ctlHolder a) b).stamp = v ∧ (t.lineAt (s.ctlHolder a) b).summed = true) ∧
  (∀ a w x, s.world? w = some x → s.pace < x.since + (((s.integ.find? (fun e => e.ctl == a && e.world == w)).getD ⟨a, w, 0, 0, 0⟩).audits + 1) * x.audit * 10 ^ 9 →
    exec (.auditIntervalEnd a w) s = .next s) ∧
  (∀ a w x e, s.world? w = some x → s.integ.find? (fun e => e.ctl == a && e.world == w) = some e → x.since + (e.audits + 1) * x.audit * 10 ^ 9 ≤ s.pace →
    (∀ y ∈ s.lines, y.summed = true → y.key / 2 ^ 64 = s.ctlHolder a → s.tagOf (y.key % 2 ^ 64) ≠ w) → e.hr = e.hw →
    exec (.auditIntervalEnd a w) s = .next { s with integ := ⟨a, w, 0, 0, e.audits + 1⟩ :: s.integ.filter (fun y => !(y.ctl == a && y.world == w)) })

/-- Where it is ready, tprobe writes the report of a walk, with the bits of the table of R155, and tinv discards every
cached entry of its range and every L1 line under it and holds its split, which goes on once every buffered or
travelling write of the VDID bound before it has arrived and not before (that stage 2 drops every L1 line of the VDID,
and that every earlier write of the VDID is waited for, is the model's reading, log entry 41); loads translated under
it bring no line to L1; the pages that a stage-2 invalidation matches are UNTOUCHED then. A walk that ends in a leaf
fills the cache of its slice, one that faults fills nothing, and a VDID without quota keeps nothing. A fault record is
written in full to its slot, and the position advances, only where the queue has a base and the slot is free, at
offers 1 microsecond apart. -/
def Obligations.TranslationEvents : Prop :=
  ∀ (s : State) (n : Nat) (d a b e : BitVec 6) (bs : BitVec 1) (t : BitVec 2),
  (∀ c r u, s.myCtx = some c → (s.issued (.tprobe d a bs)).probe c (dieOf s.cur.place.core) (s.sreg a.toNat).toNat (bs == 1) = (r, u) →
    Does (.tprobe d a bs) s (fun _ => State.setSreg { u with freeCount := u.freeCount + 1 } d.toNat (BitVec.ofNat 64 (probeWord r (Config.freeBits 7 u.freeCount))))) ∧
  (∀ (x : Xlate) (q : BitVec 7), bitsOf (probeWord (.ok x) q) 0 0 = 1 ∧ bitsOf (probeWord (.ok x) q) 4 1 = x.perm.toNat ∧
    bitsOf (probeWord (.ok x) q) 6 5 = sizeCode x.bits ∧ bitsOf (probeWord (.ok x) q) 7 7 = x.far.toNat ∧
    bitsOf (probeWord (.ok x) q) 11 8 = 0 ∧ probeWord (.ok x) q / 4096 = x.fa / 4096) ∧
  (∀ (f : XFault) (q : BitVec 7), f.l1 < 4 → f.l2 < 4 → f.stage < 4 → bitsOf (probeWord (.fault f) q) 0 0 = 0 ∧
    bitsOf (probeWord (.fault f) q) 11 10 = (if f.stage = 2 then f.l2 else f.l1) ∧
    bitsOf (probeWord (.fault f) q) 9 8 = (if f.cause = 10 then 3 else f.stage) ∧ probeWord (.fault f) q / 4096 = 0) ∧
  (∀ r : TinvRange, r = ⟨t.toNat, if e = 0 then s.myVdid else (s.sreg e.toNat).toNat % 64,
    (s.sreg a.toNat).toNat / 4096 * 4096, (s.sreg b.toNat).toNat % 2 ^ 40⟩ → Holds (.tinv a b e t) s (fun v => v.invalidate r) (.answer .tinv 64 s.nextId r.code)) ∧
  (∀ r : TinvRange, r.st < 4 → r.vdid < 64 → r.start % 4096 = 0 → r.start < 2 ^ 64 → TinvRange.ofCode r.code = r) ∧
  (∀ r : TinvRange, ∀ x ∈ (s.invalidate r).tlb, x.matched r.st r.vdid r.start r.n = false) ∧
  (∀ r : TinvRange, s.objs = [] → (s.invalidate r).tlb = s.tlb.filter (fun x => !x.matched r.st r.vdid r.start r.n)) ∧
  (∀ r : TinvRange, r.st ≠ 0 → ∀ g ∈ (s.staleLanes r).groups, (s.ctx? g.place.ctx).any (fun c => c.vdid == r.vdid) = true →
    ∀ o ∈ g.acc.ops, o.kind = .load → ∀ l ∈ o.lanes, l.stale = true) ∧
  (∀ r : TinvRange, ∀ l ∈ (s.invalidate r).l1, l.vdid = r.vdid → r.st = 0 ∧ pageMeets (l.gline / 2 ^ l.bits) l.bits r.start r.n = false) ∧
  (∀ g q before (r : TinvRange), s.group? (n / 4) = some g → (g.ctl.split (Fin.ofNat 4 n)).wait = .answer .tinv q before r.code → TinvRange.ofCode r.code = r →
    (∀ x ∈ s.sb, x.vdid = r.vdid → before ≤ x.id) →
    (∀ w ∈ s.writes, w.vdid = r.vdid → w.id < before → w.phase ≠ .travel ∧ w.phase ≠ .invalidating) →
    (∀ x ∈ s.groups, ∀ i, (x.ctl.split i).wait.boundBefore before = false) → (∀ f ∈ s.fills, before ≤ f.id) → (∀ x ∈ s.partials, x.ordered = false) →
    exec (.tinvComplete n) s = .next ((s.tinvPages r).answer (n / 4) (Fin.ofNat 4 n) 64 0)) ∧
  (∀ g q before (r : TinvRange), s.group? (n / 4) = some g → (g.ctl.split (Fin.ofNat 4 n)).wait = .answer .tinv q before r.code → TinvRange.ofCode r.code = r →
    (∃ x ∈ s.sb, x.vdid = r.vdid ∧ x.id < before) ∨ (∃ w ∈ s.writes, w.vdid = r.vdid ∧ w.id < before ∧ w.phase = .travel) →
    exec (.tinvComplete n) s = .next s) ∧
  (∀ r : TinvRange, (r.st = 0 → s.tinvPages r = s) ∧ (r.st ≠ 0 → ∀ p ∈ (s.tinvPages r).pages, inPages (s.tinvMaps r) (p.page * 4096) = false)) ∧
  (∀ c x u k gva acc, s.ctx? n = some c → s.walked c (k / 3) gva.toNat (some acc) 2 = (.ok x, u) →
    exec (.translationWalk n gva acc k) s = .next ((u.count n 10 1).cacheFill k c gva.toNat x)) ∧
  (∀ c f u k gva acc, s.ctx? n = some c → s.walked c (k / 3) gva.toNat (some acc) 2 = (.fault f, u) →
    exec (.translationWalk n gva acc k) s = .next (u.count n 10 1)) ∧
  (∀ k c gva x, bitsOf ((s.vregs.tq[c.vdid]?).getD 0).toNat 15 8 = 0 → (s.cacheFill k c gva x).tlb = s.tlb) ∧
  (∀ r, s.faults.find? (fun x => x.id == n && !x.written) = some r → r.queue = 2 →
    ((s.vregs.fq2[r.vdid]?).getD 0).toNat < 4096 → r.offered + 1000 ≤ s.pace → exec (.faultRecordOffer n) s = .next { s with faults := s.faults.map (fun x => if x.id == n then { x with offered := s.pace } else x) }) ∧
  ((∀ r ∈ s.faults, r.id = n → s.pace < r.offered + 1000) → exec (.faultRecordOffer n) s = .next s) ∧
  (∀ r w z p v u, s.faults.find? (fun x => x.id == n && !x.written) = some r → r.queue = 2 → r.offered + 1000 ≤ s.pace →
    ({ s with faults := s.faults.map (fun (x : FaultRec) => if x.id == n then { x with offered := s.pace } else x) } : State) = v → (s.vregs.fq2[r.vdid]?).getD 0 = z →
    4096 ≤ z.toNat → (s.vregs.fq2Pos[r.vdid]?).getD 0 = p → v.arrive 0 (z.toNat / 4096 * 4096 + 32 * (p % 2 ^ (z.toNat % 16 + 4))) 8 = u →
    u.engineNum 0 (z.toNat / 4096 * 4096 + 32 * (p % 2 ^ (z.toNat % 16 + 4))) 8 = some w → w / 2 ^ 63 = 1 → exec (.faultRecordOffer n) s = .next u) ∧
  (∀ r w z p v u, s.faults.find? (fun x => x.id == n && !x.written) = some r → r.queue = 2 → r.offered + 1000 ≤ s.pace →
    ({ s with faults := s.faults.map (fun (x : FaultRec) => if x.id == n then { x with offered := s.pace } else x) } : State) = v → (s.vregs.fq2[r.vdid]?).getD 0 = z →
    4096 ≤ z.toNat → (s.vregs.fq2Pos[r.vdid]?).getD 0 = p → v.arrive 0 (z.toNat / 4096 * 4096 + 32 * (p % 2 ^ (z.toNat % 16 + 4))) 8 = u →
    u.engineNum 0 (z.toNat / 4096 * 4096 + 32 * (p % 2 ^ (z.toNat % 16 + 4))) 8 = some w → w / 2 ^ 63 ≠ 1 →
    ∃ x y, x = u.engineWrite 0 (z.toNat / 4096 * 4096 + 32 * (p % 2 ^ (z.toNat % 16 + 4))) (leBytes 8 r.w0.toNat ++
        leBytes 8 r.w1.toNat ++ leBytes 8 r.w2.toNat ++ leBytes 8 r.w3.toNat) ∧
      exec (.faultRecordOffer n) s = .next y ∧ y.mem = x.mem ∧ (∀ q ∈ y.faults, q.id = n → q.written = true) ∧
      y.vregs.fq2Pos = x.vregs.fq2Pos.setIfInBounds r.vdid ((p + 1) % 2 ^ (z.toNat % 16 + 4)))

/-- A turn in which no word issues starts and ends as any other; it leaves the agenda open to events unless the next turn
is in the same cycle. A resident group's turn falls in the cycle of its slot modulo 8, within 8 cycles; the next turn
is that of the group next in the order of the barrel. A multi-turn result is written once its cycle has passed, and
its flag is set when the last one pending on it lands. A split whose counted wait has reached the limit of its context
raises STALL_TIMEOUT at the bundle it waits in, with the flags that its waiting instruction had consumed and the
reservation of a push given back, behind the deferred causes that the bundle waits for, and no other does. The order
of events around a turn is the model's choice (log entry 1). -/
def Obligations.TurnsAndWatchdogs : Prop :=
  ∀ (s : State) (n : Nat),
  (exec .groupTurn s = .next (s.startTurn.endTurn none)) ∧
  (∀ j, (s.endTurn j).phase = if s.untilNext = 0 then .issue else .event 64) ∧
  (s.cur.place.used = true → s.alignCycle.cycle % 8 = s.cur.place.slot % 8 ∧ s.cycle ≤ s.alignCycle.cycle ∧ s.alignCycle.cycle < s.cycle + 8) ∧
  (∀ g rest, s.others = g :: rest → ∃ b ∈ s.others, s.nextTurn.cur = b ∧
    ∀ x ∈ s.others, turnDistance s.cur.place b.place ≤ turnDistance s.cur.place x.place) ∧
  (s.others = [] → s.nextTurn = s.advance 7) ∧
  (∀ b, s.nextGroup = some b → s.nextTurn.cycle = s.cycle + (s.untilNext - 1)) ∧
  (∀ m, s.cur.place.used = true → (byDue s.cur.acc.inflight)[n]? = some m → m.due < s.cycle →
    exec (.multiTurnComplete s.cur.place.uid n) s =
      .next ((s.completeResult m).modAcc (fun a => { a with inflight := a.inflight.erase m }))) ∧
  (∀ m, s.cur.place.used = true → (byDue s.cur.acc.inflight)[n]? = some m → s.cycle ≤ m.due →
    exec (.multiTurnComplete s.cur.place.uid n) s = .next s) ∧
  (∀ m : MultiTurn, m.flag < 12 → (s.completeResult m).flag m.flag =
    ⟨(s.flag m.flag).set || (s.flag m.flag).pend == 1, (s.flag m.flag).pend - 1⟩) ∧
  (∀ c i, s.myCtx = some c → (s.expired i = true ↔
    s.cur.ctl.watched i = true ∧ 2 ^ bitsOf c.wdog.toNat 5 0 ≤ (s.cur.ctl.split i).wdog)) ∧
  (∀ i, s.expired i = false → exec (.stallTimeout s.cur.place.uid i) s = .next s) ∧
  (∀ i es u, s.cur.place.used = true → s.expired i = true → (∀ j, j ≠ i → s.expired j = false) → s.timedOut i = (es, u) →
    (∀ l nf, (s.cur.ctl.split i).wait ≠ .bar l nf true) → (∀ d m f b l, (s.cur.ctl.split i).wait ≠ .push d m f b l) →
    exec (.stallTimeout s.cur.place.uid i) s = .next ((((u.refund i).modCtl (fun c => c.setSplit i (c.split i).rewound)).forSplit i).takeTraps es)) ∧
  (∀ i es u d m f b l, s.cur.place.used = true → s.expired i = true → (∀ j, j ≠ i → s.expired j = false) → s.timedOut i = (es, u) →
    (s.cur.ctl.split i).wait = .push d m f b l → exec (.stallTimeout s.cur.place.uid i) s =
      .next (((((u.cancelPush u.myPart m f).refund i).modCtl (fun c => c.setSplit i (c.split i).rewound)).forSplit i).takeTraps es)) ∧
  (∀ i, s.cur.trap.deferred = [] → s.timedOut i =
    ([(s.forSplit i).entry 5 (s.forSplit i).bundlePc 0 (s.forSplit i).bundlePc.toNat 0], s.forSplit i))

/-- The head entry of a store buffer drains where its holds allow, and becomes a travelling write; a contribution folds at
its object, after lines and partials of other packages have come home. At a primary it waits behind another write that
is invalidating its line and behind an echo of the line on its way to that primary (the latter an inference from R173
and R253, log entry 47), ends with cause 15 or 14 where the world, a poisoned line or a capability forbids it, or else
invalidates every other copy, in the L1s and in the L2s of other serialisation points, once the page allows it, or at
the slice of the die here that owns its object; only then are its bytes, or the result of its atomic, applied. At a
holder that handed the baton on it is forwarded, at one that drains it is refused and routed again (that of another
package is answered), up to 16 times, after which it ends with ROUTE_NONE; a refusal that names no write sends on its
load. It answers once it is applied, noticed, and its WCT is known. -/
def Obligations.WritesAtTheirPrimary : Prop :=
  ∀ (s : State) (n : Nat),
  ((∀ e ∈ s.sb, e.core ≠ n) → exec (.storeBufferDrain n) s = .next s) ∧
  (∀ e, s.sb.find? (fun x => x.core == n) = some e → e.kind.isFold = false → s.drainable e = false → exec (.storeBufferDrain n) s = .next s) ∧
  (∀ e, s.sb.find? (fun x => x.core == n) = some e → e.kind.isFold = false → s.drainable e = true → e.prim / 256 = s.pkgNum →
    exec (.storeBufferDrain n) s = .next { s with
    sb := s.sb.erase e
    writes := s.writes ++ [⟨e.id, e.origin, e.core, e.world, e.vdid, e.ctx, e.gva, e.addr, e.ret, e.kind, e.prim, 0, [],
      e.tree, .travel, [], 0, 0, 0, [], 0, false, e.bad, none, e.also, none⟩] }) ∧
  (∀ e, s.sb.find? (fun x => x.core == n) = some e → e.kind.isFold = false → s.drainable e = true → exec (.storeBufferDrain n) s =
    .next (State.sendWrite { s with sb := s.sb.erase e } e.req)) ∧
  (∀ e obj od who tag gva val u op l, s.sb.find? (fun x => x.core == n) = some e → e.kind = .fold obj od who tag gva val → e.origin = .group u op l →
    s.otherRound obj tag = true ∨ s.drainable e = false ∨ s.objRead obj e = true → exec (.storeBufferDrain n) s = .next s) ∧
  (∀ e obj od who tag gva val u op l, s.sb.find? (fun x => x.core == n) = some e → e.kind = .fold obj od who tag gva val → e.origin = .group u op l →
    s.otherRound obj tag = false → s.drainable e = true → s.objRead obj e = false → s.comesHome obj tag = false →
    exec (.storeBufferDrain n) s = .next (s.foldEntry e)) ∧
  (∀ e obj od who tag gva val u op l, s.sb.find? (fun x => x.core == n) = some e → e.kind = .fold obj od who tag gva val → e.origin = .group u op l →
    s.otherRound obj tag = false → s.drainable e = true → s.objRead obj e = false → s.comesHome obj tag = true →
    exec (.storeBufferDrain n) s = .next (s.enterUpdate obj tag)) ∧
  (∀ w, s.write? n = some w → w.phase = .travel → (∃ x ∈ s.writes, x.phase = .invalidating ∧ lineBase x.addr = lineBase w.addr) ∨
    (∃ x ∈ s.echoes, x.dst = w.prim ∧ lineBase x.addr = lineBase w.addr) → exec (.writeApply (.flight n)) s = .next s) ∧
  (∀ p a, (∀ x ∈ s.writes, x.phase = .invalidating → lineBase x.addr ≠ lineBase a) →
    (∀ x ∈ s.echoes, x.dst = p → lineBase x.addr ≠ lineBase a) → s.lineWaits p a = false) ∧
  (∀ w, s.write? n = some w → w.phase = .travel → w.prim ≠ 2 ^ 24 → s.lineWaits w.prim w.addr = false → s.farOwner w.addr = none → 
    (s.holderState w.prim w.addr).map HolderSt.st = some .primary → s.worldOk w.prim w.addr w.world = false → exec (.writeApply (.flight n)) s =
      .next (s.modWrite n (fun x => { x with phase := .answered, notice := true, err := some 15 }))) ∧
  (∀ w, s.write? n = some w → w.phase = .travel → w.prim ≠ 2 ^ 24 → s.lineWaits w.prim w.addr = false → s.farOwner w.addr = none → 
    (s.holderState w.prim w.addr).map HolderSt.st = some .primary → s.worldOk w.prim w.addr w.world = true → (s.lineAt w.prim w.addr).poison = false →
    s.badCopy w.prim w.addr = false → (∃ b ∈ w.needs, (s.capOf w.prim w.addr).getLsbD b = false) → exec (.writeApply (.flight n)) s =
      .next (s.modWrite n (fun x => { x with phase := .answered, notice := true, err := some 14 }))) ∧
  (∀ w, s.write? n = some w → w.phase = .travel → w.prim ≠ 2 ^ 24 → s.lineWaits w.prim w.addr = false → s.farOwner w.addr = none → 
    (s.holderState w.prim w.addr).map HolderSt.st = some .primary → s.worldOk w.prim w.addr w.world = true → (s.lineAt w.prim w.addr).poison = true →
    (∃ op z x y, w.kind = .atomic op z x y) → exec (.writeApply (.flight n)) s =
      .next (s.modWrite n (fun x => { x with phase := .answered, notice := true, err := some 15 }))) ∧
  (∀ w, s.write? n = some w → w.phase = .travel → w.prim ≠ 2 ^ 24 → s.lineWaits w.prim w.addr = false → s.farOwner w.addr = none → 
    (s.holderState w.prim w.addr).map HolderSt.st = some .primary → s.worldOk w.prim w.addr w.world = true → (s.lineAt w.prim w.addr).poison = false →
    (∀ b ∈ w.needs, (s.capOf w.prim w.addr).getLsbD b = true) → s.objOfFa w.addr = none → s.badCopy w.prim w.addr = false →
    ∀ t, s.writePage w = some t → exec (.writeApply (.flight n)) s = .next (t.beginWrite n none)) ∧
  (∀ w, s.write? n = some w → w.phase = .travel → w.prim ≠ 2 ^ 24 → s.lineWaits w.prim w.addr = false → s.farOwner w.addr = none → 
    (s.holderState w.prim w.addr).map HolderSt.st = some .primary → s.worldOk w.prim w.addr w.world = true → (s.lineAt w.prim w.addr).poison = false →
    (∀ b ∈ w.needs, (s.capOf w.prim w.addr).getLsbD b = true) → s.badCopy w.prim w.addr = false → ∀ o t a, s.objOfFa w.addr = some o →
    s.objAccess o (some (.write n)) (s.writer w) w.core w.addr true = .go t → (t.obj? o.idx).map ObjEntry.st = some (.owned a) → a / 256 = t.pkgNum →
    exec (.writeApply (.flight n)) s = .next ((t.markWrote o.idx w.addr).beginWrite n (some (t.l2Place (36 * (a % 256)) w.prim w.addr)))) ∧
  (∀ k, s.beginWrite n k = s.modWrite n (fun w => { w with
    phase := .invalidating, place := k, invs := s.copiesAt (k.or (s.serSlice w.prim)) (lineBase w.addr) })) ∧
  (∀ w, s.write? n = some w → w.phase = .travel → w.prim ≠ 2 ^ 24 → s.lineWaits w.prim w.addr = false → s.farOwner w.addr = none → 
    (s.holderState w.prim w.addr).map HolderSt.st = some .primary → s.worldOk w.prim w.addr w.world = true → (s.lineAt w.prim w.addr).poison = false →
    (∀ b ∈ w.needs, (s.capOf w.prim w.addr).getLsbD b = true) → s.objOfFa w.addr = none → s.badCopy w.prim w.addr = false → s.writePage w = none →
    exec (.writeApply (.flight n)) s = .next s) ∧
  (∀ p line, ∀ l ∈ s.l1, l.fline = line → l.const = false → l.core < 144 → l.core ∈ s.copiesOf p line) ∧
  (∀ p line, ∀ x ∈ s.tags, x.line = line → x.place < 12 → s.serSlice p ≠ some x.place → 1000 + x.place ∈ s.copiesOf p line) ∧
  (∀ w, s.write? n = some w → w.phase = .travel → w.prim ≠ 2 ^ 24 → s.lineWaits w.prim w.addr = false → s.farOwner w.addr = none → 
    ∀ h k, s.holderState w.prim w.addr = some h → h.st = .replica ∨ h.st = .filling → h.next = some k →
    exec (.writeApply (.flight n)) s = .next ((s.modWrite n (fun x => { x with prim := k })).routeTo { w with prim := k })) ∧
  (∀ w : WriteReq, w.prim / 256 = s.pkgNum → s.routeTo w = s) ∧
  (∀ w, s.write? n = some w → w.phase = .travel → w.prim ≠ 2 ^ 24 → s.lineWaits w.prim w.addr = false → s.farOwner w.addr = none → 
    (s.holderState w.prim w.addr).map HolderSt.st = some .draining → (∀ q x, w.origin ≠ .outside q x) → exec (.writeApply (.flight n)) s =
      .next (s.modWrite n (fun x => { x with gone := x.prim :: x.gone, prim := 2 ^ 24, routed := x.routed + 1 }))) ∧
  (∀ w, s.write? n = some w → w.phase = .travel → w.prim ≠ 2 ^ 24 → s.lineWaits w.prim w.addr = false → s.farOwner w.addr = none → 
    (s.holderState w.prim w.addr).map HolderSt.st = some .draining → ∀ q x, w.origin = .outside q x → exec (.writeApply (.flight n)) s =
      .next (State.sendTo { s with writes := s.writes.erase w } (s.primRouter w.prim) w.addr (sharerId q) chanAnswer)) ∧
  (∀ q k y h a v z, q = s.pkgNum ∨ s.barredAt (sharerId q) a z = true → exec (.writeApply (.outside q k y h a v z)) s = .next s) ∧
  (∀ q k y h a v z, q ≠ s.pkgNum → s.barredAt (sharerId q) a z = false → exec (.writeApply (.outside q k y h a v z)) s = .next (s.outsideWrite q k y h a v)) ∧
  (∀ w, s.write? n = some w → ∀ k rest, w.invs = k :: rest → exec (.invalidate n) s =
    .next ((s.dropOne (lineBase w.addr) k).modWrite n (fun x => { x with invs := rest }))) ∧
  (∀ k line, ∀ l ∈ (s.dropL1 k line).l1, l.core = k → l.fline = line → l.const = true) ∧
  (∀ w, s.write? n = some w → w.phase = .invalidating → w.invs ≠ [] → exec (.writeReadable n) s = .next s) ∧
  (∀ w, s.write? n = some w → w.phase = .invalidating → w.invs = [] → s.worldOk w.prim w.addr w.world = false → exec (.writeReadable n) s =
    .next (s.modWrite n (fun x => { x with phase := .answered, notice := true, err := some 15 }))) ∧
  (∀ w d, w.kind = .bytes d → s.readOld w = s) ∧
  (∀ w, s.write? n = some w → w.phase = .invalidating → w.invs = [] → w.bad = false → w.prim / 256 = s.pkgNum → s.badCopy w.prim w.addr = false → s.worldOk w.prim w.addr w.world = true →
    ∀ old d fl u e v, s.readOld w = v → v.effect w = (old, some d, fl) →
    (v.countWrite (w.place.or (v.serSlice w.prim)) w.ctx w.addr w.ret).applyBytes n w.prim w.addr d w.tree w.vdid w.ctx w.ret w.place = (u, e) → exec (.writeReadable n) s =
      .next (u.modWrite n (fun x => { x with phase := .applied, invs := [], time := u.pace, old := old, flags := fl, echo := e, wct := u.pace }))) ∧
  (∀ w d, w.kind = .bytes d → s.effect w = (0, some d, 0)) ∧
  (∀ w op size x y old, w.kind = .atomic op size x y → ofLeBytes (s.bytesAt w.prim w.addr size) = old → (op = 9 → old = y % 2 ^ (8 * size)) →
    s.effect w = (old, some (leBytes size (atomOp op (8 * size) old x).1), (atomOp op (8 * size) old x).2)) ∧
  (∀ w size x y, w.kind = .atomic 9 size x y → ofLeBytes (s.bytesAt w.prim w.addr size) ≠ y % 2 ^ (8 * size) →
    s.effect w = (ofLeBytes (s.bytesAt w.prim w.addr size), none, 0)) ∧
  (∀ (i p a : Nat) (d : List Byte) (t : Option (Nat × Nat)) (v c k : Nat) (l : Option Nat), (s.applyBytes i p a d t v c k l).1.mem = Memory.putN s.mem (memKey p a) d) ∧
  (exec (.applyNotice n) s = .next (s.modWrite n (fun w => if w.phase = .applied then { w with notice := true } else w))) ∧
  (∀ w, s.write? n = some w → w.phase = .applied → w.notice = true → ∀ t, w.known = some t →
    exec (.storeResponse n) s = .next (({ s with writes := s.writes.erase w } : State).respond { w with wct := t })) ∧
  (∀ w, s.write? n = some w → w.phase = .applied → w.notice = false ∨ w.known = none → exec (.storeResponse n) s = .next s) ∧
  (∀ w : WriteReq, (∃ e ∈ w.echo, e.2 = none) → w.known = none) ∧
  (∀ w, s.write? n = some w → w.phase = .travel → w.prim = 2 ^ 24 → w.routed < 16 → ∀ h, s.routeWrite (s.dieRouter w.core) w.addr w.gone = some h →
    exec (.refusalReroute n) s =
    .next ((s.modWrite n (fun x => { x with prim := h.holder })).routeTo { w with prim := h.holder })) ∧
  (∀ w, s.write? n = some w → w.phase = .travel → w.prim = 2 ^ 24 → 16 ≤ w.routed ∨ s.routeWrite (s.dieRouter w.core) w.addr w.gone = none →
    exec (.refusalReroute n) s = .next (s.modWrite n (fun x => { x with phase := .answered, notice := true, err := some 13 }))) ∧
  (s.write? n = none → exec (.refusalReroute n) s = .next (s.serveOp n true))

/-- An echo is applied at its holder, in the order of its pair of holders and of its line and not before an earlier
renewal, and acknowledged; one that drains only acknowledges, a filling one marks its bytes; echoes, renewals and
reads of other packages come from outside. The last acknowledgement, where none is late, makes a write's WCT known,
which stamps the line where no later write was applied. A fill leaves bytes that an echo has written, and its line
takes the later stamp. A lease that has run out ends; renewals go out at each whole microsecond to replicas that lack
one and set the lease and the applied-through time. A read takes the group's own buffered bytes first, then a line of
its L1, then goes to a holder, with the floor its group had when it left; one that is held or waits keeps no other of
its load from going on; a replica whose lease is over or that lacks the floor refuses it, as does a holder that
drains. A load is complete once its requests are. -/
def Obligations.EchoesLeasesAndReads : Prop :=
  ∀ (s : State) (n : Nat),
  (∀ e, s.echoes.find? (fun x => x.id == n) = some e → e.carried = false → s.echoFirst e = true → exec (.echoReceive (.flight n)) s = .next (s.takeEcho e)) ∧
  (∀ e, s.echoes.find? (fun x => x.id == n) = some e → e.carried = true ∨ s.echoFirst e = false → exec (.echoReceive (.flight n)) s = .next s) ∧
  (∀ e : Echo, s.echoFirst e = true ↔ (∀ x ∈ s.echoes, e.id ≤ x.id ∨ x.dst ≠ e.dst ∨ (x.src ≠ e.src ∧ lineBase x.addr ≠ lineBase e.addr)) ∧
    ∀ r ∈ s.renewals, r.dst ≠ e.dst ∨ e.id ≤ r.seq) ∧
  (∀ e : Echo, e.inval = false → e.write ≠ 0 → (s.holderState e.dst e.addr).map HolderSt.st = some .draining → ∃ t, s.takeEcho e = t ∧
    t.mem = s.mem ∧ t.echoes = s.echoes.erase e ∧ t.acks = s.acks ++ [⟨s.nextId, e.write, e.dst, s.pace⟩]) ∧
  (∀ x a, exec (.echoReceive (.hold x a)) s = .next (if x / 256 = s.pkgNum then s.mapHeld x (fun h => { h with kept := lineBase a :: h.kept }) a else s)) ∧
  (∀ e : Echo, e.inval = false → e.write ≠ 0 → (s.holderState e.dst e.addr).map HolderSt.st = some .replica →
    ∃ t, s.takeEcho e = t ∧ t.mem = Memory.putN s.mem (memKey e.dst e.addr) e.data ∧ t.echoes = s.echoes.erase e ∧
      t.acks = s.acks ++ [⟨s.nextId, e.write, e.dst, t.pace⟩]) ∧
  (∀ e : Echo, e.inval = false → (s.holderState e.dst e.addr).map HolderSt.st = some .filling →
    ∀ h ∈ (s.takeEcho e).holders, h.pre = e.pre → h.holder = e.dst → ∀ i < e.data.length, e.addr + i ∈ h.echoed) ∧
  (∀ p x y a d m, x / 256 ≠ s.pkgNum → y / 256 = s.pkgNum → (∀ z ∈ s.echoes, z.src = x → z.dst ≠ y) →
    exec (.echoReceive (.outside p x y a d m)) s = .next (s.takeEcho ⟨0, 0, x, y, p, a, d.take (64 - a % 64), m, false, decide (y = sharerId s.pkgNum)⟩)) ∧
  (∀ p x y a d m, x / 256 = s.pkgNum ∨ y / 256 ≠ s.pkgNum ∨ (∃ z ∈ s.echoes, z.src = x ∧ z.dst = y) →
    exec (.echoReceive (.outside p x y a d m)) s = .next s) ∧
  (∀ a w, s.acks.find? (fun x => x.id == n) = some a → s.write? a.write = some w → s.pace ≤ w.time + 5000 →
    exec (.echoAckReceive n) s = .next (State.stampWct { (({ s with acks := s.acks.erase a } : State).modWrite a.write (fun x => { x with
        echo := x.echo.map (fun e => if e.1 = a.dst ∧ e.2.isNone then (e.1, some a.time) else e) })) with
      sharers := s.sharers.filter (fun x => !(sharerId x.pkg == a.dst && x.prim == w.prim && x.line == lineBase w.addr &&
        decide (x.sent ≤ w.time))) } a.write)) ∧
  (∀ a, s.acks.find? (fun x => x.id == n) = some a → (∀ w, s.write? a.write = some w → w.time + 5000 < s.pace) →
    exec (.echoAckReceive n) s = .next { s with acks := s.acks.erase a }) ∧
  (∀ w t, s.write? n = some w → w.known = some t → s.stampWct n = (if (s.lineAt w.prim w.addr).last = n then
    s.setLine { s.lineAt w.prim w.addr with wct := t } else s).modWrite n (fun x => { x with wct := t, echo := [] })) ∧
  (∀ w, s.write? n = some w → w.known = none → s.stampWct n = s) ∧
  (∀ f h, s.fills.find? (fun x => x.id == n) = some f → s.holderState f.dst f.addr = some h → h.st ≠ .filling →
    exec (.fillWrite (.flight n)) s = .next { s with fills := s.fills.erase f }) ∧
  (∀ f h x, s.fills.find? (fun x => x.id == n) = some f → s.holderState f.dst f.addr = some h → h.st = .filling → f.data = [x] →
    ∃ t, exec (.fillWrite (.flight n)) s = .next t ∧ t.fills = s.fills.erase f ∧
      t.mem = (if f.addr ∈ h.echoed then s.mem else Memory.put s.mem (memKey f.dst f.addr) x) ∧
      (f.addr ∉ h.echoed → (t.lineAt f.dst f.addr).wct = max (s.lineAt f.dst f.addr).wct f.time)) ∧
  (∀ p x a d m, exec (.fillWrite (.outside p x a d m)) s = .next (if x / 256 = s.pkgNum then s.fillAt x a (d.take (64 - a % 64)) m else s)) ∧
  (∀ p h, exec (.leaseEnd p h) s = .next { s with holders := s.holders.map (fun x =>
    if x.pre = p ∧ x.holder = h ∧ x.leaseEnd ≤ s.pace then { x with leaseEnd := 0 } else x) }) ∧
  (∀ p, (∀ h ∈ s.holders, h.pre = p → h.st ≠ .primary ∨ h.holder / 256 ≠ s.pkgNum) → exec (.leaseRenewal p) s = .next s) ∧
  (∀ p h, s.holders.find? (fun h => h.pre == p && h.st == HState.primary && h.holder / 256 == s.pkgNum) = some h →
    (∀ r ∈ s.renewed, r.live = true → r.pre = p → r.prim = h.holder → (s.pace - 1) / 1000 * 1000 ≤ r.time) → exec (.leaseRenewal p) s = .next s) ∧
  (∀ p h r, s.holders.find? (fun h => h.pre == p && h.st == HState.primary && h.holder / 256 == s.pkgNum) = some h →
    s.renewed.filter (fun r => r.live && r.pre == p && r.prim == h.holder && decide (r.time < (s.pace - 1) / 1000 * 1000)) = [r] →
    exec (.leaseRenewal p) s = .next (State.sendTo { s with
      nextId := s.nextId + 1
      renewed := s.renewed.map (fun x => if x = r then { x with time := (s.pace - 1) / 1000 * 1000, issued := true } else x)
      renewals := s.renewals ++ [⟨s.nextId, p, h.holder, r.holder, (s.pace - 1) / 1000 * 1000, s.nextId⟩] } (s.primRouter h.holder) p.base r.holder chanData)) ∧
  (∀ r, s.renewals.find? (fun x => x.id == n) = some r → (∀ e ∈ s.echoes, e.dst = r.dst → r.seq ≤ e.id) →
    (∀ x ∈ s.renewals, x.dst = r.dst → r.seq ≤ x.seq) → exec (.renewalReceive (.flight n)) s =
      .next (({ s with renewals := s.renewals.erase r } : State).takeRenewal r.pre r.src r.dst r.time)) ∧
  (∀ r, s.renewals.find? (fun x => x.id == n) = some r → (∃ e ∈ s.echoes, e.dst = r.dst ∧ e.id < r.seq) ∨ (∃ x ∈ s.renewals, x.dst = r.dst ∧ x.seq < r.seq) →
    exec (.renewalReceive (.flight n)) s = .next s) ∧
  (∀ p x y m, x / 256 ≠ s.pkgNum → y / 256 = s.pkgNum → m ≤ s.pace → (∀ e ∈ s.echoes, e.dst ≠ y) →
    exec (.renewalReceive (.outside p x y m)) s = .next (s.takeRenewal p x y m)) ∧
  (∀ p x y m, s.takeRenewal p x y m = s.modHolder p y (fun h => if h.st = .replica then
    { h with through := m, leaseEnd := m + 1000 * h.lease - (if x / 256 = s.pkgNum then 2 else 20) } else h)) ∧
  (∀ g o c, s.opOf n = some (g, o) → s.ctx? g.place.ctx = some c → exec (.readRequest (.load n)) s =
    .next (s.serveFirst g c o (o.reqs.filter (fun r => !r.served && r.err.isNone && (decide (0 < r.routed) == false))))) ∧
  (∀ g c o r rs, s.serveFirst g c o (r :: rs) = if s.tryReq g c o r = s then s.serveFirst g c o rs else s.tryReq g c o r) ∧
  (∀ g o, s.opOf n = some (g, o) → (∀ x ∈ o.reqs, x.served = true ∨ x.err ≠ none ∨ 0 < x.routed) → exec (.readRequest (.load n)) s = .next s) ∧
  (∀ q k w p a f m h t, s.holderState p (lineBase a) = some h → h.st = .primary → q ≠ s.pkgNum → s.objOfFa (lineBase a) = none →
    s.worldOk p (lineBase a) w = true → (s.lineAt p (lineBase a)).poison = false → s.lineWaits p (lineBase a) = false →
    s.touchPageAs q k (lineBase a) = some t → ∀ u, (t.unitRead p (lineBase a)).sendTo ((t.unitRead p (lineBase a)).primRouter p) (lineBase a) (sharerId q) chanAnswer = u →
    exec (.readRequest (.outside q k w p a f m)) s = .next { u with
      sharers := ⟨p, lineBase a, q, u.pace⟩ ::
        u.sharers.filter (fun x => !(x.prim == p && x.line == lineBase a && x.pkg == q)) }) ∧
  (∀ q k w p a f m h, s.holderState p (lineBase a) = some h → h.st = .draining ∨ h.st = .filling →
    exec (.readRequest (.outside q k w p a f m)) s = .next (s.sendTo (s.primRouter p) (lineBase a) (sharerId q) chanAnswer)) ∧
  (∀ (g : Group) (c : Ctx) (o : MemOp) (r : LineReq), s.badOwn g.place.uid o r.line = true → s.tryReq g c o r = s.setReq g.place.uid o.id { r with err := some 16 }) ∧
  (∀ (g : Group) (c : Ctx) (o : MemOp) (r : LineReq) bs, s.badOwn g.place.uid o r.line = false → r.toPrim = false → s.forwarded g.place.uid o r.line = some bs →
    s.tryReq g c o r = s.setReq g.place.uid o.id { r with served := true, left := true, data := bs, source := 0, stamp := 0 }) ∧
  (∀ (g : Group) (c : Ctx) (o : MemOp) (r : LineReq) l y, s.badOwn g.place.uid o r.line = false → r.toPrim = false → s.forwarded g.place.uid o r.line = none →
    r.left = true ∨ s.leaves g o r.line = true → y = (if r.left then r else { r with left := true, floor := g.acc.rfloor.toNat }) →
    s.l1Find g.place.core c (((o.lanes.find? (fun a => lineBase a.fa == r.line)).map LaneAcc.gva).getD 0) y.floor o.pl o.const = some l →
    s.tryReq g c o r = (s.hitL1 l o.ret).setReq g.place.uid o.id { y with served := true, data := l.data, source := 1, stamp := l.stamp }) ∧
  (∀ (g : Group) (c : Ctx) (o : MemOp) (r : LineReq), s.badOwn g.place.uid o r.line = false → r.toPrim = true ∨ s.forwarded g.place.uid o r.line = none →
    r.left = false → s.leaves g o r.line = false → s.tryReq g c o r = s) ∧
  (∀ (g : Group) (c : Ctx) (o : MemOp) (r : LineReq), s.badOwn g.place.uid o r.line = false → r.toPrim = true → r.left = true → 16 ≤ r.routed →
    s.tryReq g c o r = s.setReq g.place.uid o.id { r with err := some 13 }) ∧
  (∀ w gone h x, s.leasedCopy w = none → s.routed w gone = some h → s.holderState h.holder w.fa = some x → x.st = .replica → h.holder / 256 = s.pkgNum → w.acq = false →
    x.leaseEnd ≤ s.pace ∨ x.through < w.floor → s.fetchLine w gone = .refused none) ∧
  (∀ w gone h x, s.leasedCopy w = none → s.routed w gone = some h → s.holderState h.holder w.fa = some x → x.st = .draining → h.holder / 256 = s.pkgNum →
    s.fetchLine w gone = .refused (some h.holder)) ∧
  (∀ g o, s.opOf n = some (g, o) → o.finished = true → exec (.loadComplete n) s = .next (s.settleSend g.place.uid o.cls)) ∧
  (∀ g o, s.opOf n = some (g, o) → o.finished = false → exec (.loadComplete n) s = .next s)

/-- For every instruction that has a word, the decoder reads that instruction, with every operand at every value its field
admits, from its word. -/
def Obligations.EncodedInstructionsDecode : Prop :=
  ∀ i, Sys2Proof.Laws.Encodes.Statement i

/-- Every word in which the decoder reads an instruction is the one word of that instruction: no bit of an accepted word
is ignored, and no two words name one instruction. -/
def Obligations.DecodedWordsEncode : Prop :=
  ∀ w i, decodeWord w = some i → encode i = some w

/-- One or two words of each family, as the spec prints them beside their assembly, decode to that instruction with those
operands. -/
def Obligations.WordsOfTheSpec : Prop :=
  decodeWord 0x04000000 = some (.nop) ∧
  decodeWord 0x0801840A = some (.sadd 3 4 5 0) ∧
  decodeWord 0x09038813 = some (.smulhiU 7 8 9 1) ∧
  decodeWord 0x11C08299 = some (.scmp 7 1 2 76 1) ∧
  decodeWord 0x178101FB = some (.smovi 1 0x1FB) ∧
  decodeWord 0x18C50B19 = some (.sdivU 3 10 11 12) ∧
  decodeWord 0x27CA0412 = some (.vlea 20 4 9 0) ∧
  decodeWord 0x28818405 = some (.vcmp 2 3 4 2 1) ∧
  decodeWord 0x40C5020F = some (.vfma 10 2 7 1) ∧
  decodeWord 0x48840200 = some (.vcvt 2 8 2 0) ∧
  decodeWord 0x5846040B = some (.vfdot4Fp8 1 12 4 5) ∧
  decodeWord 0x69030202 = some (.vred 4 6 2 1) ∧
  decodeWord 0x6C018104 = some (.kand 3 1 2) ∧
  decodeWord 0x7113FFFC = some (.brLt 9 0x1FFFC) ∧
  decodeWord 0x7487FFFE = some (.brkNone 0 0x7FFFE) ∧
  decodeWord 0x780F8000 = some (.ret 62) ∧
  decodeWord 0x83061001 = some (.sld 6 6 4 0 1) ∧
  decodeWord 0x9509103C = some (.vsts 2 9 4 7 2) ∧
  decodeWord 0xA0024415 = some (.atomScalar 0 9 4 5 1) ∧
  decodeWord 0xA8028108 = some (.red 20 4 2) ∧
  decodeWord 0xAC130000 = some (.fenceRel 3) ∧
  decodeWord 0xB020C14A = some (.cpT 6 5 10) ∧
  decodeWord 0xB4010602 = some (.stMc 4 6 2) ∧
  decodeWord 0xB8014001 = some (.zclaim 5 1) ∧
  decodeWord 0xBC200A1A = some (.mloop 0 5 6 2) ∧
  decodeWord 0xC031C000 = some (.mstat 7) ∧
  decodeWord 0xC8010519 = some (.tinv 4 5 6 1) ∧
  decodeWord 0xC842041C = some (.rteRole 8 4 7) ∧
  decodeWord 0xCC220103 = some (.cobjSyncShared 8 3) ∧
  decodeWord 0xD0020400 = some (.launch 8 4) ∧
  decodeWord 0xD0624400 = some (.tierQ 9 4) ∧
  decodeWord 0xD4250000 = some (.bar 2 1) ∧
  decodeWord 0xD8424010 = some (.sysrd 9 0x010) ∧
  decodeWord 0xD8100000 = some (.tret) ∧
  decodeWord 0xF83FFFFE = some (.hintLit 0x3FFFFE) ∧
  decodeWord 0xF9400019 = some (.hintRnd 1 1 1)

/-- With an empty agenda, in its issue phase, a step chooses a split and runs the word it fetches: exec of the instruction
that the word decodes to, or the trap of a word that is none, and then the end of the turn. The fetch reads four
bytes, lowest first, at the holder to which the PC's translation leads, where the line is read as it is; a fetch that
faults parks the group. The agenda and the phases are the model's (log entries 1 and 2). -/
def Obligations.StepRunsDecodedWord : Prop :=
  ∀ s : State,
  ((step s = match s.agenda with
    | j :: rest => if (encode j).isSome then .next { s with agenda := rest } else exec j { s with agenda := rest }
    | [] => (match s.phase with | .issue => s.turn | .event left => s.between left))) ∧
  (∀ i v u j w t r, s.agenda = [] → s.phase = .issue → splitNums.foldl State.resume s.startTurn = r → r.pickSplit = (some i, t) →
    (t.candidate i).fetch = .word v w → decodeWord w = some j → exec j v = .next u → step s = .next (u.endTurn (some i))) ∧
  (∀ i v u w t r, s.agenda = [] → s.phase = .issue → splitNums.foldl State.resume s.startTurn = r → r.pickSplit = (some i, t) →
    (t.candidate i).fetch = .word v w → decodeWord w = none → execIllegalOpcode w v = .next u → step s = .next (u.endTurn (some i))) ∧
  (∀ v w j, s.fetch = .word v w → decodeWord w = some j → s.issueNext = exec j v) ∧
  (∀ c x t h, s.myCtx = some c → s.translate c s.cur.place.core s.pc.toNat .exec s.cur.trap.pl = (.ok x, t) →
    t.fetchHolder s.cur.place.core x.fa = some h → t.worldOk h x.fa c.world = true → (t.lineAt h x.fa).poison = false →
    t.badCopy h x.fa = false → s.fetch = .word (t.unitReadAs h x.fa c.num 1) (BitVec.ofNat 32 (ofLeBytes (t.bytesAt h x.fa 4)))) ∧
  (∀ b0 b1 b2 b3 : Byte, ofLeBytes [b0, b1, b2, b3] = b0.toNat + 256 * b1.toNat + 65536 * b2.toNat + 16777216 * b3.toNat) ∧
  (∀ c m t, s.myCtx = some c → s.translate c s.cur.place.core s.pc.toNat .exec s.cur.trap.pl = (.fault m, t) → ∃ u, s.issueNext = .next u ∧
    u.cur.ctl.parked = true)

/-- From every state whose memory lists rising addresses and no byte equal to what an unlisted address reads as, a step
that answers a next state leaves memory in that form. -/
def Obligations.StepKeepsMemoryCanonical : Prop :=
  ∀ s t : State, s.mem.wf = true → step s = .next t → t.mem.wf = true

/-- At reset the package number is 0, link costs are 8, 2, 1 and 1, the tier engine has 8 moves, a share of 4 and is off,
the cap is 2,900 W over 10 ms and off, the clock is 2.5 GHz, no die is offline, every ring is disabled with 16 slots,
every stage-2 root is off, and there is no context and no group. That a byte that nothing has written reads as 0, and
every value the field maps do not give, are the model's choices (log entries 3 and 13). -/
def Obligations.ResetValues : Prop :=
  let s := State.reset
  s.mem.wf = true ∧
  s.pkg.pkgId = 0 ∧
  s.pkg.rteCost.toNat = 8 * 2 ^ 24 + 2 * 2 ^ 16 + 1 * 2 ^ 8 + 1 ∧
  s.pkg.tierCfg.toNat = 8 * 2 ^ 16 + 4 * 2 ^ 8 ∧
  s.pkg.pwrCap.toNat = 10 * 2 ^ 16 + 2900 ∧
  s.pkg.pwrStat.toNat = 25 * 2 ^ 8 ∧
  s.pkg.dieOff = 0 ∧
  (∀ r ∈ s.rings.toList, r.base.toNat = 4 * 2 ^ 5 ∧ r.st = .disabled ∧ r.seq = 0) ∧
  (∀ v < 64, s.vregs.s2root[v]? = some 0) ∧
  s.ctxs = [] ∧
  s.groups = [] ∧
  (∀ h a, s.bytesAt h a 1 = [0])

/-- For every encoded instruction that is no hint: a flag that can never be set raises WAIT_UNSATISFIABLE, one still
pending holds the split (that the flags which wait.f names itself are tested here, with those of the FLG hint, is the
model's choice, log entry 51); then a level below the instruction's raises PRIVILEGE, an illegal field or hint
ILLEGAL_OPCODE, and a register that is read with an uncorrectable error REG_ECC with its code, each as an exact trap
of the bundle. -/
def Obligations.ChecksBeforeIssue : Prop :=
  ∀ (s : State) (i : Instr), (∃ w, encode i = some w ∧ w.toNat / 2 ^ 26 ≠ 0x3E) →
  (s.flagWait (s.waitsFor i) = .never → exec i s = .next (s.trapExact 4 0 0)) ∧
  (s.flagWait (s.waitsFor i) = .pending → exec i s = .next (s.modSplit (fun sp => { sp with wait := .flag }))) ∧
  (s.flagWait (s.waitsFor i) = .satisfied → s.cur.trap.pl < privOf i → exec i s = .next (s.trapExact 2 0 0)) ∧
  (s.flagWait (s.waitsFor i) = .satisfied → privOf i ≤ s.cur.trap.pl →
    fieldsOk s.cur.place.nregs i = false ∨ hintsOk (hintsOf i) s.hints = false → exec i s = .next (s.trapExact 1 0 0)) ∧
  (∀ r, s.flagWait (s.waitsFor i) = .satisfied → privOf i ≤ s.cur.trap.pl → fieldsOk s.cur.place.nregs i = true →
    hintsOk (hintsOf i) s.hints = true → s.badRead i = some r → exec i s = .next (s.trapExact 7 0 r)) ∧
  (s.flagWait (s.waitsFor i) = .satisfied ↔ ∀ n < 12, (s.waitsFor i).getLsbD n = true → (s.flag n).set = true) ∧
  (s.flagWait (s.waitsFor i) = .never ↔ ∃ n < 12, (s.waitsFor i).getLsbD n = true ∧ (s.flag n).set = false ∧ (s.flag n).pend = 0)

/-- Where it is ready, each scalar, vector, float and compare instruction answers a next state in which all memory, every
other group, every table and register of the part, and the group's place, traps, accesses and matrix state are as
before; of its registers, those that are not its destination, the lanes outside exec, every flag it does not wait for,
and, where it raises none, the sticky float flags and the generators are as before. The PC, the bundle, the context's
counters and the flashback region may change. -/
def Obligations.RegisterFrames : Prop :=
  ∀ (s : State) (d a b : BitVec 7) (w : BitVec 1) (i : BitVec 9) (c : BitVec 3),
  (∀ j ∈ ([.sadd d a b w, .ssub d a b w, .smullo d a b w, .smulhiS d a b w, .smulhiU d a b w, .smad d a b w, .sminS d a b w,
      .sminU d a b w, .smaxS d a b w, .smaxU d a b w, .sabs d a w, .sneg d a w, .sand d a b w, .sor d a b w, .sxor d a b w,
      .sandn d a b w, .snot d a w, .sshl d a b w, .sshr d a b w, .ssar d a b w, .srot d a b w, .sclz d a w, .spop d a w,
      .sbrev d a w, .sbfeU d a b w, .sbfeS d a b w, .sbfi d a b w, .sunpack d a w, .scmp c d a b w, .smov d a w,
      .sext8S d a w, .sext8U d a w, .sext16S d a w, .sext16U d a w, .slea d a b, .ssel d a b w, .spack d a b w,
      .saddImm d a i, .sandImm d a i, .sorImm d a i, .sxorImm d a i, .sshlImm d a i, .sshrImm d a i, .ssarImm d a i,
      .smovi d i] : List Instr),
    Frame j s (fun n => n = d.toNat) (fun _ => False) (fun _ => False) false) ∧
  (∀ j ∈ ([.saddsS d a b w, .saddsU d a b w] : List Instr), Frame j s (fun n => n = d.toNat) (fun _ => False) (fun _ => False) true) ∧
  (∀ j ∈ ([.saddc d a b w, .ssubb d a b w] : List Instr),
    Frame j s (fun n => n = d.toNat ∨ n = d.toNat + 1) (fun _ => False) (fun _ => False) false) ∧
  (∀ j ∈ ([.vadd d a b w, .vsub d a b w, .vmullo d a b w, .vmulhiS d a b w, .vmulhiU d a b w, .vmad d a b w, .vminS d a b w,
      .vminU d a b w, .vmaxS d a b w, .vmaxU d a b w, .vabs d b w, .vneg d b w, .vsel d a b w, .vmov d b w, .vand d a b w,
      .vor d a b w, .vxor d a b w, .vandn d a b w, .vnot d b w, .vshl d a b w, .vshr d a b w, .vsar d a b w, .vrot d a b w,
      .vclz d b w, .vpop d b w, .vbrev d b w, .vbfeU d a b w, .vbfeS d a b w, .vbfi d a b w, .vext8S d b w, .vext8U d b w,
      .vext16S d b w, .vext16U d b w, .vpack d a b w, .vunpack d b w, .vaddImm d a i, .vandImm d a i, .vorImm d a i,
      .vxorImm d a i, .vshlImm d a i, .vshrImm d a i, .vsarImm d a i, .vmovi d i] : List Instr),
    Frame j s (fun _ => False) (fun n => n = d.toNat) (fun _ => False) false) ∧
  (∀ j ∈ ([.vaddsS d a b w, .vaddsU d a b w, .vfadd d a b w, .vfsub d a b w, .vfmul d a b w, .vfma d a b w, .vfms d a b w,
      .vfnma d a b w, .vfminNum d a b w, .vfminProp d a b w, .vfmaxNum d a b w, .vfmaxProp d a b w, .vfabs d b w,
      .vfneg d b w, .vfscale d a b w, .vfround d b w, .vhaddF16 d a b w, .vhaddBf16 d a b w, .vhmulF16 d a b w,
      .vhmulBf16 d a b w, .vhfmaF16 d a b w, .vhfmaBf16 d a b w] : List Instr),
    Frame j s (fun _ => False) (fun n => n = d.toNat) (fun _ => False) true) ∧
  (Frame (.vlea d a b w) s (fun _ => False) (fun n => n = d.toNat ∨ n = d.toNat + 1) (fun _ => False) false) ∧
  (Frame (.vcmp c d a b w) s (fun _ => False) (fun _ => False) (fun n => n = d.toNat) false) ∧
  (Frame (.vfcmp c d a b w) s (fun _ => False) (fun _ => False) (fun n => n = d.toNat) true)

/-- In its own turn, where names of fault records are below the next name and no write or echo is under way for a table
walk to settle, a load, store, atomic, red or scratchpad access of a context without a footprint base and fault queues
changes no byte of memory, whether it completes, waits, traps or parks: its bytes go through the store buffer. A write
that becomes readable at its primary, with the line still in its world, changes the bytes it stores, at the key of its
address at that holder, and no byte outside them. -/
def Obligations.MemoryFrames : Prop :=
  ∀ (s : State) (n : Nat) (d p : BitVec 7) (e g h f : BitVec 6) (o : BitVec 8) (z : BitVec 3) (y r : BitVec 2) (w : BitVec 1) (q : BitVec 4),
  (∀ k, s.myCtx = some k → k.fpBase.toNat % 2 = 0 → k.fq1.toNat < 4096 → ((s.vregs.fq2[k.vdid]?).getD 0).toNat < 4096 →
    s.pkg.erq.toNat < 4096 → (∀ x ∈ s.faults, x.id < s.nextId) → s.echoes = [] → (∀ x ∈ s.writes, x.phase ≠ .invalidating) →
    ∀ i ∈ ([.sld z d e o r, .sst y d e o r, .vld z d e o r, .vst y d e o r, .vldg z d e p r, .vsts y d e p r, .cld w d e o r, .atomScalar f g e h r, .atomVector f d p r w, .stMc e g o, .spld z d e f q, .spst y d e o, .red d p q] : List Instr),
    ∀ t, exec i s = .next t → t.mem = s.mem) ∧
  (∀ v t x, s.mem.wf = true → s.write? n = some v → exec (.writeReadable n) s = .next t →
    (∀ old bs fl, s.effect v = (old, some bs, fl) → x < memKey v.prim v.addr ∨ memKey v.prim v.addr + bs.length ≤ x) →
    t.mem.get x = s.mem.get x) ∧
  (∀ v t old bs fl x, s.mem.wf = true → s.write? n = some v → v.phase = .invalidating → v.invs = [] → s.worldOk v.prim v.addr v.world = true → s.badCopy v.prim v.addr = false →
    s.effect v = (old, some bs, fl) → exec (.writeReadable n) s = .next t → x < bs.length → t.mem.get (memKey v.prim v.addr + x) = bs.getD x 0)
end

