-- ==== Sys2Proof/Laws/Ops.lean ====
section
/-! SUPPORT. What the issue of an instruction can do, said once: the checks before its meaning, and the ends of a meaning
(spec 04 R81, 20 R354). -/

namespace Sys2Proof.Laws.Issue

open Sys2Proof Sys2Proof.Machine

variable {i : Instr} {s t : State} {body : State → Act}

theorem of_never (h : s.flagWait (s.waitsFor i) = .never) : issueState i s body = s.trapExact 4 0 0 := by
  unfold issueState; simp only [State.waitsFor] at h; simp only [h]

theorem of_pending (h : s.flagWait (s.waitsFor i) = .pending) :
    issueState i s body = s.modSplit (fun sp => { sp with wait := .flag }) := by
  unfold issueState; simp only [State.waitsFor] at h; simp only [h]

theorem of_level (hf : s.flagWait (s.waitsFor i) = .satisfied) (h : s.cur.trap.pl < privOf i) :
    issueState i s body = s.trapExact 2 0 0 := by
  unfold issueState; simp only [State.waitsFor] at hf; simp only [hf, h, if_true]

theorem of_illegal (hf : s.flagWait (s.waitsFor i) = .satisfied) (hl : privOf i ≤ s.cur.trap.pl)
    (h : (fieldsOk s.cur.place.nregs i && hintsOk (hintsOf i) s.hints) = false) :
    issueState i s body = s.trapExact 1 0 0 := by
  unfold issueState; simp only [State.waitsFor] at hf; simp [hf, h, Nat.not_lt.mpr hl]

theorem of_bad {r : Nat} (hf : s.flagWait (s.waitsFor i) = .satisfied) (hl : privOf i ≤ s.cur.trap.pl)
    (hk : fieldsOk s.cur.place.nregs i = true) (hh : hintsOk (hintsOf i) s.hints = true) (h : s.badRead i = some r) :
    issueState i s body = s.trapExact 7 0 r := by
  unfold issueState; simp only [State.waitsFor] at hf; simp [hf, h, Nat.not_lt.mpr hl, hk, hh]

/-- A ready instruction comes to its own meaning, on the state in which it has issued. -/
theorem of_ready (h : Ready i s) : issueState i s body =
    match body (s.issued i) with
    | .ok t => t.finish i s
    | .again t w => (t.finish i s).modSplit (fun sp => { sp with wait := w })
    | .hold t w =>
      let t := t.heldAt s i w (s.waitsFor i)
      let t := if closesRegion i then t.modCkpt (fun c => { c with closed := true }) else t
      t.countIssue i s
    | .notReady => s.modSplit (fun sp => { sp with wait := .room })
    | .waiting w => s.modSplit (fun sp => { sp with wait := w })
    | .trap c a n => s.trapExact c a n
    | .ecc f a n => (f s).trapExact 16 a n
    | .park t left =>
      ((t.keepFlags s).modSplit (fun sp => { sp with pc := s.bundlePc, bundle := Bundle.none, wait := .none })).parkAt s.bundlePc left
    | .raise t es => ((t.keepFlags s).modSplit (fun _ => s.split)).takeTraps es
    | .done t => t := by
  obtain ⟨hf, hl, hk, hh, hb⟩ := h
  unfold issueState
  simp only [State.waitsFor] at hf
  simp only [hf, Nat.not_lt.mpr hl, hk, hh, hb, if_false, Bool.and_self, Bool.not_true, Bool.false_eq_true]
  rfl

theorem of_ok (h : Ready i s) (hb : body (s.issued i) = .ok t) : issueState i s body = t.finish i s := by
  rw [of_ready h, hb]

theorem of_done (h : Ready i s) (hb : body (s.issued i) = .done t) : issueState i s body = t := by
  rw [of_ready h, hb]

theorem of_trap {c a n : Nat} (h : Ready i s) (hb : body (s.issued i) = .trap c a n) : issueState i s body = s.trapExact c a n := by
  rw [of_ready h, hb]

theorem of_hold {w : Wait} (h : Ready i s) (hb : body (s.issued i) = .hold t w) :
    issueState i s body =
      (let t := t.heldAt s i w (s.waitsFor i)
       let t := if closesRegion i then t.modCkpt (fun c => { c with closed := true }) else t
       t.countIssue i s) := by
  rw [of_ready h, hb]

/-- The effect of an instruction whose meaning always answers a complete state. -/
theorem does {f : State → State} (he : exec i s = issue i s body) (hb : ∀ t, body t = .ok (f t)) : Does i s f := by
  intro h
  rw [he, issue, of_ok h (hb _)]

theorem does_at {i : Instr} {s : State} {body : State → Act} {f : State → State} (he : exec i s = issue i s body)
    (hb : body (s.issued i) = .ok (f (s.issued i))) : Does i s f := by
  intro h; rw [he, issue, of_ok h hb]

theorem traps_at {i : Instr} {s : State} {body : State → Act} {c a n : Nat} (he : exec i s = issue i s body)
    (hb : body (s.issued i) = .trap c a n) : Traps i s c a n := by
  intro h; rw [he, issue, of_trap h hb]

theorem waits_at {i : Instr} {s : State} {body : State → Act} {f : State → State} {w : Wait} (he : exec i s = issue i s body)
    (hb : body (s.issued i) = .again (f (s.issued i)) w) : Waits i s f w := by
  intro h; rw [he, issue, of_ready h, hb]

theorem notYet_at {i : Instr} {s : State} {body : State → Act} {w : Wait} (he : exec i s = issue i s body)
    (hb : body (s.issued i) = .waiting w) : NotYet i s w := by
  intro h; rw [he, issue, of_ready h, hb]

theorem holds_at {i : Instr} {s : State} {body : State → Act} {f : State → State} {w : Wait} (he : exec i s = issue i s body)
    (hb : body (s.issued i) = .hold (f (s.issued i)) w) : Holds i s f w := by
  intro h; rw [he, issue, of_ready h, hb]; rfl

theorem ends_at {i : Instr} {s : State} {body : State → Act} {f : State → State} (he : exec i s = issue i s body)
    (hb : body (s.issued i) = .done (f (s.issued i))) : Ends i s f := by
  intro h; rw [he, issue, of_done h hb]

end Sys2Proof.Laws.Issue
end

