-- ==== Sys2Proof/Laws/State.lean ====
section
/-! SUPPORT. What each update of the state leaves: one lemma per part per update, and reading what was written. -/

namespace Sys2Proof.Machine

@[simp] theorem State.modRegs_place (s : State) (f : Regs → Regs) : (s.modRegs f).cur.place = s.cur.place := rfl
@[simp] theorem State.modRegs_ctl (s : State) (f : Regs → Regs) : (s.modRegs f).cur.ctl = s.cur.ctl := rfl
@[simp] theorem State.modRegs_trap (s : State) (f : Regs → Regs) : (s.modRegs f).cur.trap = s.cur.trap := rfl
@[simp] theorem State.modRegs_mat (s : State) (f : Regs → Regs) : (s.modRegs f).cur.mat = s.cur.mat := rfl
@[simp] theorem State.modRegs_acc (s : State) (f : Regs → Regs) : (s.modRegs f).cur.acc = s.cur.acc := rfl
@[simp] theorem State.modRegs_ckpt (s : State) (f : Regs → Regs) : (s.modRegs f).cur.ckpt = s.cur.ckpt := rfl
theorem State.modRegs_outside (s : State) (f : Regs → Regs) : (s.modRegs f) = { s with cur := (s.modRegs f).cur } := rfl
@[simp] theorem State.modRegs_mem (s : State) (f : Regs → Regs) : (s.modRegs f).mem = s.mem := rfl

@[simp] theorem State.modCtl_place (s : State) (f : Ctl → Ctl) : (s.modCtl f).cur.place = s.cur.place := rfl
@[simp] theorem State.modCtl_regs (s : State) (f : Ctl → Ctl) : (s.modCtl f).cur.regs = s.cur.regs := rfl
@[simp] theorem State.modCtl_trap (s : State) (f : Ctl → Ctl) : (s.modCtl f).cur.trap = s.cur.trap := rfl
@[simp] theorem State.modCtl_mat (s : State) (f : Ctl → Ctl) : (s.modCtl f).cur.mat = s.cur.mat := rfl
@[simp] theorem State.modCtl_acc (s : State) (f : Ctl → Ctl) : (s.modCtl f).cur.acc = s.cur.acc := rfl
@[simp] theorem State.modCtl_ckpt (s : State) (f : Ctl → Ctl) : (s.modCtl f).cur.ckpt = s.cur.ckpt := rfl
theorem State.modCtl_outside (s : State) (f : Ctl → Ctl) : (s.modCtl f) = { s with cur := (s.modCtl f).cur } := rfl
@[simp] theorem State.modCtl_mem (s : State) (f : Ctl → Ctl) : (s.modCtl f).mem = s.mem := rfl

@[simp] theorem State.modTrap_place (s : State) (f : TrapSt → TrapSt) : (s.modTrap f).cur.place = s.cur.place := rfl
@[simp] theorem State.modTrap_regs (s : State) (f : TrapSt → TrapSt) : (s.modTrap f).cur.regs = s.cur.regs := rfl
@[simp] theorem State.modTrap_ctl (s : State) (f : TrapSt → TrapSt) : (s.modTrap f).cur.ctl = s.cur.ctl := rfl
@[simp] theorem State.modTrap_mat (s : State) (f : TrapSt → TrapSt) : (s.modTrap f).cur.mat = s.cur.mat := rfl
@[simp] theorem State.modTrap_acc (s : State) (f : TrapSt → TrapSt) : (s.modTrap f).cur.acc = s.cur.acc := rfl
@[simp] theorem State.modTrap_ckpt (s : State) (f : TrapSt → TrapSt) : (s.modTrap f).cur.ckpt = s.cur.ckpt := rfl
theorem State.modTrap_outside (s : State) (f : TrapSt → TrapSt) : (s.modTrap f) = { s with cur := (s.modTrap f).cur } := rfl
@[simp] theorem State.modTrap_mem (s : State) (f : TrapSt → TrapSt) : (s.modTrap f).mem = s.mem := rfl

@[simp] theorem State.modMat_place (s : State) (f : MatSt → MatSt) : (s.modMat f).cur.place = s.cur.place := rfl
@[simp] theorem State.modMat_regs (s : State) (f : MatSt → MatSt) : (s.modMat f).cur.regs = s.cur.regs := rfl
@[simp] theorem State.modMat_ctl (s : State) (f : MatSt → MatSt) : (s.modMat f).cur.ctl = s.cur.ctl := rfl
@[simp] theorem State.modMat_trap (s : State) (f : MatSt → MatSt) : (s.modMat f).cur.trap = s.cur.trap := rfl
@[simp] theorem State.modMat_acc (s : State) (f : MatSt → MatSt) : (s.modMat f).cur.acc = s.cur.acc := rfl
@[simp] theorem State.modMat_ckpt (s : State) (f : MatSt → MatSt) : (s.modMat f).cur.ckpt = s.cur.ckpt := rfl
theorem State.modMat_outside (s : State) (f : MatSt → MatSt) : (s.modMat f) = { s with cur := (s.modMat f).cur } := rfl
@[simp] theorem State.modMat_mem (s : State) (f : MatSt → MatSt) : (s.modMat f).mem = s.mem := rfl

@[simp] theorem State.modAcc_place (s : State) (f : AccSt → AccSt) : (s.modAcc f).cur.place = s.cur.place := rfl
@[simp] theorem State.modAcc_regs (s : State) (f : AccSt → AccSt) : (s.modAcc f).cur.regs = s.cur.regs := rfl
@[simp] theorem State.modAcc_ctl (s : State) (f : AccSt → AccSt) : (s.modAcc f).cur.ctl = s.cur.ctl := rfl
@[simp] theorem State.modAcc_trap (s : State) (f : AccSt → AccSt) : (s.modAcc f).cur.trap = s.cur.trap := rfl
@[simp] theorem State.modAcc_mat (s : State) (f : AccSt → AccSt) : (s.modAcc f).cur.mat = s.cur.mat := rfl
@[simp] theorem State.modAcc_ckpt (s : State) (f : AccSt → AccSt) : (s.modAcc f).cur.ckpt = s.cur.ckpt := rfl
theorem State.modAcc_outside (s : State) (f : AccSt → AccSt) : (s.modAcc f) = { s with cur := (s.modAcc f).cur } := rfl
@[simp] theorem State.modAcc_mem (s : State) (f : AccSt → AccSt) : (s.modAcc f).mem = s.mem := rfl

@[simp] theorem State.modCkpt_place (s : State) (f : CkptSt → CkptSt) : (s.modCkpt f).cur.place = s.cur.place := rfl
@[simp] theorem State.modCkpt_regs (s : State) (f : CkptSt → CkptSt) : (s.modCkpt f).cur.regs = s.cur.regs := rfl
@[simp] theorem State.modCkpt_ctl (s : State) (f : CkptSt → CkptSt) : (s.modCkpt f).cur.ctl = s.cur.ctl := rfl
@[simp] theorem State.modCkpt_trap (s : State) (f : CkptSt → CkptSt) : (s.modCkpt f).cur.trap = s.cur.trap := rfl
@[simp] theorem State.modCkpt_mat (s : State) (f : CkptSt → CkptSt) : (s.modCkpt f).cur.mat = s.cur.mat := rfl
@[simp] theorem State.modCkpt_acc (s : State) (f : CkptSt → CkptSt) : (s.modCkpt f).cur.acc = s.cur.acc := rfl
theorem State.modCkpt_outside (s : State) (f : CkptSt → CkptSt) : (s.modCkpt f) = { s with cur := (s.modCkpt f).cur } := rfl
@[simp] theorem State.modCkpt_mem (s : State) (f : CkptSt → CkptSt) : (s.modCkpt f).mem = s.mem := rfl

@[simp] theorem State.modSplit_place (s : State) (f : Split → Split) : (s.modSplit f).cur.place = s.cur.place := rfl
@[simp] theorem State.modSplit_regs (s : State) (f : Split → Split) : (s.modSplit f).cur.regs = s.cur.regs := rfl
@[simp] theorem State.modSplit_trap (s : State) (f : Split → Split) : (s.modSplit f).cur.trap = s.cur.trap := rfl
@[simp] theorem State.modSplit_mat (s : State) (f : Split → Split) : (s.modSplit f).cur.mat = s.cur.mat := rfl
@[simp] theorem State.modSplit_acc (s : State) (f : Split → Split) : (s.modSplit f).cur.acc = s.cur.acc := rfl
@[simp] theorem State.modSplit_ckpt (s : State) (f : Split → Split) : (s.modSplit f).cur.ckpt = s.cur.ckpt := rfl
theorem State.modSplit_outside (s : State) (f : Split → Split) : (s.modSplit f) = { s with cur := (s.modSplit f).cur } := rfl
@[simp] theorem State.modSplit_mem (s : State) (f : Split → Split) : (s.modSplit f).mem = s.mem := rfl

@[simp] theorem State.setPc_place (s : State) (a : BitVec 48) : (s.setPc a).cur.place = s.cur.place := rfl
@[simp] theorem State.setPc_regs (s : State) (a : BitVec 48) : (s.setPc a).cur.regs = s.cur.regs := rfl
@[simp] theorem State.setPc_trap (s : State) (a : BitVec 48) : (s.setPc a).cur.trap = s.cur.trap := rfl
@[simp] theorem State.setPc_mat (s : State) (a : BitVec 48) : (s.setPc a).cur.mat = s.cur.mat := rfl
@[simp] theorem State.setPc_acc (s : State) (a : BitVec 48) : (s.setPc a).cur.acc = s.cur.acc := rfl
@[simp] theorem State.setPc_ckpt (s : State) (a : BitVec 48) : (s.setPc a).cur.ckpt = s.cur.ckpt := rfl
theorem State.setPc_outside (s : State) (a : BitVec 48) : (s.setPc a) = { s with cur := (s.setPc a).cur } := rfl
@[simp] theorem State.setPc_mem (s : State) (a : BitVec 48) : (s.setPc a).mem = s.mem := rfl

@[simp] theorem State.anchor_place (s : State) : (s.anchor).cur.place = s.cur.place := rfl
@[simp] theorem State.anchor_regs (s : State) : (s.anchor).cur.regs = s.cur.regs := rfl
@[simp] theorem State.anchor_trap (s : State) : (s.anchor).cur.trap = s.cur.trap := rfl
@[simp] theorem State.anchor_mat (s : State) : (s.anchor).cur.mat = s.cur.mat := rfl
@[simp] theorem State.anchor_acc (s : State) : (s.anchor).cur.acc = s.cur.acc := rfl
@[simp] theorem State.anchor_ckpt (s : State) : (s.anchor).cur.ckpt = s.cur.ckpt := rfl
theorem State.anchor_outside (s : State) : (s.anchor) = { s with cur := (s.anchor).cur } := rfl
@[simp] theorem State.anchor_mem (s : State) : (s.anchor).mem = s.mem := rfl

@[simp] theorem State.setSreg_place (s : State) (n : Nat) (x : DWord) : (s.setSreg n x).cur.place = s.cur.place := rfl
@[simp] theorem State.setSreg_ctl (s : State) (n : Nat) (x : DWord) : (s.setSreg n x).cur.ctl = s.cur.ctl := rfl
@[simp] theorem State.setSreg_trap (s : State) (n : Nat) (x : DWord) : (s.setSreg n x).cur.trap = s.cur.trap := rfl
@[simp] theorem State.setSreg_mat (s : State) (n : Nat) (x : DWord) : (s.setSreg n x).cur.mat = s.cur.mat := rfl
@[simp] theorem State.setSreg_acc (s : State) (n : Nat) (x : DWord) : (s.setSreg n x).cur.acc = s.cur.acc := rfl
@[simp] theorem State.setSreg_ckpt (s : State) (n : Nat) (x : DWord) : (s.setSreg n x).cur.ckpt = s.cur.ckpt := rfl
theorem State.setSreg_outside (s : State) (n : Nat) (x : DWord) : (s.setSreg n x) = { s with cur := (s.setSreg n x).cur } := rfl
@[simp] theorem State.setSreg_mem (s : State) (n : Nat) (x : DWord) : (s.setSreg n x).mem = s.mem := rfl

@[simp] theorem State.setKreg_place (s : State) (n : Nat) (x : Word) : (s.setKreg n x).cur.place = s.cur.place := by unfold State.setKreg; split <;> rfl
@[simp] theorem State.setKreg_ctl (s : State) (n : Nat) (x : Word) : (s.setKreg n x).cur.ctl = s.cur.ctl := by unfold State.setKreg; split <;> rfl
@[simp] theorem State.setKreg_trap (s : State) (n : Nat) (x : Word) : (s.setKreg n x).cur.trap = s.cur.trap := by unfold State.setKreg; split <;> rfl
@[simp] theorem State.setKreg_mat (s : State) (n : Nat) (x : Word) : (s.setKreg n x).cur.mat = s.cur.mat := by unfold State.setKreg; split <;> rfl
@[simp] theorem State.setKreg_acc (s : State) (n : Nat) (x : Word) : (s.setKreg n x).cur.acc = s.cur.acc := by unfold State.setKreg; split <;> rfl
@[simp] theorem State.setKreg_ckpt (s : State) (n : Nat) (x : Word) : (s.setKreg n x).cur.ckpt = s.cur.ckpt := by unfold State.setKreg; split <;> rfl
theorem State.setKreg_outside (s : State) (n : Nat) (x : Word) : (s.setKreg n x) = { s with cur := (s.setKreg n x).cur } := by unfold State.setKreg; split <;> rfl
@[simp] theorem State.setKreg_mem (s : State) (n : Nat) (x : Word) : (s.setKreg n x).mem = s.mem := by unfold State.setKreg; split <;> rfl

@[simp] theorem State.setV_place (s : State) (n : Nat) (m : Word) (f : Lane → Word) : (s.setV n m f).cur.place = s.cur.place := rfl
@[simp] theorem State.setV_ctl (s : State) (n : Nat) (m : Word) (f : Lane → Word) : (s.setV n m f).cur.ctl = s.cur.ctl := rfl
@[simp] theorem State.setV_trap (s : State) (n : Nat) (m : Word) (f : Lane → Word) : (s.setV n m f).cur.trap = s.cur.trap := rfl
@[simp] theorem State.setV_mat (s : State) (n : Nat) (m : Word) (f : Lane → Word) : (s.setV n m f).cur.mat = s.cur.mat := rfl
@[simp] theorem State.setV_acc (s : State) (n : Nat) (m : Word) (f : Lane → Word) : (s.setV n m f).cur.acc = s.cur.acc := rfl
theorem State.setV_outside (s : State) (n : Nat) (m : Word) (f : Lane → Word) : (s.setV n m f) = { s with cur := (s.setV n m f).cur } := rfl
@[simp] theorem State.setV_mem (s : State) (n : Nat) (m : Word) (f : Lane → Word) : (s.setV n m f).mem = s.mem := rfl

@[simp] theorem State.modFlag_place (s : State) (n : Nat) (f : Flag → Flag) : (s.modFlag n f).cur.place = s.cur.place := rfl
@[simp] theorem State.modFlag_ctl (s : State) (n : Nat) (f : Flag → Flag) : (s.modFlag n f).cur.ctl = s.cur.ctl := rfl
@[simp] theorem State.modFlag_trap (s : State) (n : Nat) (f : Flag → Flag) : (s.modFlag n f).cur.trap = s.cur.trap := rfl
@[simp] theorem State.modFlag_mat (s : State) (n : Nat) (f : Flag → Flag) : (s.modFlag n f).cur.mat = s.cur.mat := rfl
@[simp] theorem State.modFlag_acc (s : State) (n : Nat) (f : Flag → Flag) : (s.modFlag n f).cur.acc = s.cur.acc := rfl
@[simp] theorem State.modFlag_ckpt (s : State) (n : Nat) (f : Flag → Flag) : (s.modFlag n f).cur.ckpt = s.cur.ckpt := rfl
theorem State.modFlag_outside (s : State) (n : Nat) (f : Flag → Flag) : (s.modFlag n f) = { s with cur := (s.modFlag n f).cur } := rfl
@[simp] theorem State.modFlag_mem (s : State) (n : Nat) (f : Flag → Flag) : (s.modFlag n f).mem = s.mem := rfl

@[simp] theorem State.raise_place (s : State) (fl : FpFlags) : (s.raise fl).cur.place = s.cur.place := rfl
@[simp] theorem State.raise_ctl (s : State) (fl : FpFlags) : (s.raise fl).cur.ctl = s.cur.ctl := rfl
@[simp] theorem State.raise_trap (s : State) (fl : FpFlags) : (s.raise fl).cur.trap = s.cur.trap := rfl
@[simp] theorem State.raise_mat (s : State) (fl : FpFlags) : (s.raise fl).cur.mat = s.cur.mat := rfl
@[simp] theorem State.raise_acc (s : State) (fl : FpFlags) : (s.raise fl).cur.acc = s.cur.acc := rfl
@[simp] theorem State.raise_ckpt (s : State) (fl : FpFlags) : (s.raise fl).cur.ckpt = s.cur.ckpt := rfl
theorem State.raise_outside (s : State) (fl : FpFlags) : (s.raise fl) = { s with cur := (s.raise fl).cur } := rfl
@[simp] theorem State.raise_mem (s : State) (fl : FpFlags) : (s.raise fl).mem = s.mem := rfl

@[simp] theorem State.setSr_place (s : State) (m : Word) (f : Lane → Word) : (s.setSr m f).cur.place = s.cur.place := State.modRegs_place s _
@[simp] theorem State.setSr_ctl (s : State) (m : Word) (f : Lane → Word) : (s.setSr m f).cur.ctl = s.cur.ctl := State.modRegs_ctl s _
@[simp] theorem State.setSr_trap (s : State) (m : Word) (f : Lane → Word) : (s.setSr m f).cur.trap = s.cur.trap := State.modRegs_trap s _
@[simp] theorem State.setSr_mat (s : State) (m : Word) (f : Lane → Word) : (s.setSr m f).cur.mat = s.cur.mat := State.modRegs_mat s _
@[simp] theorem State.setSr_acc (s : State) (m : Word) (f : Lane → Word) : (s.setSr m f).cur.acc = s.cur.acc := State.modRegs_acc s _
@[simp] theorem State.setSr_ckpt (s : State) (m : Word) (f : Lane → Word) : (s.setSr m f).cur.ckpt = s.cur.ckpt := State.modRegs_ckpt s _
theorem State.setSr_outside (s : State) (m : Word) (f : Lane → Word) : (s.setSr m f) = { s with cur := (s.setSr m f).cur } := State.modRegs_outside s _
@[simp] theorem State.setSr_mem (s : State) (m : Word) (f : Lane → Word) : (s.setSr m f).mem = s.mem := State.modRegs_mem s _

@[simp] theorem State.useFlags_place (s : State) (m : BitVec 12) : (s.useFlags m).cur.place = s.cur.place := by unfold State.useFlags; split <;> rfl
@[simp] theorem State.useFlags_ctl (s : State) (m : BitVec 12) : (s.useFlags m).cur.ctl = s.cur.ctl := by unfold State.useFlags; split <;> rfl
@[simp] theorem State.useFlags_trap (s : State) (m : BitVec 12) : (s.useFlags m).cur.trap = s.cur.trap := by unfold State.useFlags; split <;> rfl
@[simp] theorem State.useFlags_mat (s : State) (m : BitVec 12) : (s.useFlags m).cur.mat = s.cur.mat := by unfold State.useFlags; split <;> rfl
@[simp] theorem State.useFlags_acc (s : State) (m : BitVec 12) : (s.useFlags m).cur.acc = s.cur.acc := by unfold State.useFlags; split <;> rfl
@[simp] theorem State.useFlags_ckpt (s : State) (m : BitVec 12) : (s.useFlags m).cur.ckpt = s.cur.ckpt := by unfold State.useFlags; split <;> rfl
theorem State.useFlags_outside (s : State) (m : BitVec 12) : (s.useFlags m) = { s with cur := (s.useFlags m).cur } := by unfold State.useFlags; split <;> rfl
@[simp] theorem State.useFlags_mem (s : State) (m : BitVec 12) : (s.useFlags m).mem = s.mem := by unfold State.useFlags; split <;> rfl

@[simp] theorem State.later_place (s : State) (lat g : Nat) (x : List (Nat × DWord)) (y : List (Nat × Lane × Word)) (fl : FpFlags) : (s.later lat g x y fl).cur.place = s.cur.place := rfl
@[simp] theorem State.later_ctl (s : State) (lat g : Nat) (x : List (Nat × DWord)) (y : List (Nat × Lane × Word)) (fl : FpFlags) : (s.later lat g x y fl).cur.ctl = s.cur.ctl := rfl
@[simp] theorem State.later_trap (s : State) (lat g : Nat) (x : List (Nat × DWord)) (y : List (Nat × Lane × Word)) (fl : FpFlags) : (s.later lat g x y fl).cur.trap = s.cur.trap := rfl
@[simp] theorem State.later_mat (s : State) (lat g : Nat) (x : List (Nat × DWord)) (y : List (Nat × Lane × Word)) (fl : FpFlags) : (s.later lat g x y fl).cur.mat = s.cur.mat := rfl
@[simp] theorem State.later_ckpt (s : State) (lat g : Nat) (x : List (Nat × DWord)) (y : List (Nat × Lane × Word)) (fl : FpFlags) : (s.later lat g x y fl).cur.ckpt = s.cur.ckpt := rfl
theorem State.later_outside (s : State) (lat g : Nat) (x : List (Nat × DWord)) (y : List (Nat × Lane × Word)) (fl : FpFlags) : (s.later lat g x y fl) = { s with cur := (s.later lat g x y fl).cur } := rfl
@[simp] theorem State.later_mem (s : State) (lat g : Nat) (x : List (Nat × DWord)) (y : List (Nat × Lane × Word)) (fl : FpFlags) : (s.later lat g x y fl).mem = s.mem := rfl

@[simp] theorem State.count_place (s : State) (c e n : Nat) : (s.count c e n).cur.place = s.cur.place := rfl
@[simp] theorem State.count_regs (s : State) (c e n : Nat) : (s.count c e n).cur.regs = s.cur.regs := rfl
@[simp] theorem State.count_ctl (s : State) (c e n : Nat) : (s.count c e n).cur.ctl = s.cur.ctl := rfl
@[simp] theorem State.count_trap (s : State) (c e n : Nat) : (s.count c e n).cur.trap = s.cur.trap := rfl
@[simp] theorem State.count_mat (s : State) (c e n : Nat) : (s.count c e n).cur.mat = s.cur.mat := rfl
@[simp] theorem State.count_acc (s : State) (c e n : Nat) : (s.count c e n).cur.acc = s.cur.acc := rfl
@[simp] theorem State.count_ckpt (s : State) (c e n : Nat) : (s.count c e n).cur.ckpt = s.cur.ckpt := rfl
@[simp] theorem State.count_cur (s : State) (c e n : Nat) : (s.count c e n).cur = s.cur := rfl
theorem State.count_outside (s : State) (c e n : Nat) : (s.count c e n) = { s with ctxs := (s.count c e n).ctxs } := rfl
@[simp] theorem State.count_mem (s : State) (c e n : Nat) : (s.count c e n).mem = s.mem := rfl

@[simp] theorem State.tally_place (s : State) (e n : Nat) : (s.tally e n).cur.place = s.cur.place := rfl
@[simp] theorem State.tally_regs (s : State) (e n : Nat) : (s.tally e n).cur.regs = s.cur.regs := rfl
@[simp] theorem State.tally_ctl (s : State) (e n : Nat) : (s.tally e n).cur.ctl = s.cur.ctl := rfl
@[simp] theorem State.tally_trap (s : State) (e n : Nat) : (s.tally e n).cur.trap = s.cur.trap := rfl
@[simp] theorem State.tally_mat (s : State) (e n : Nat) : (s.tally e n).cur.mat = s.cur.mat := rfl
@[simp] theorem State.tally_acc (s : State) (e n : Nat) : (s.tally e n).cur.acc = s.cur.acc := rfl
@[simp] theorem State.tally_ckpt (s : State) (e n : Nat) : (s.tally e n).cur.ckpt = s.cur.ckpt := rfl
@[simp] theorem State.tally_cur (s : State) (e n : Nat) : (s.tally e n).cur = s.cur := rfl
theorem State.tally_outside (s : State) (e n : Nat) : (s.tally e n) = { s with ctxs := (s.tally e n).ctxs } := rfl
@[simp] theorem State.tally_mem (s : State) (e n : Nat) : (s.tally e n).mem = s.mem := rfl

@[simp] theorem State.modCtx_place (s : State) (n : Nat) (f : Ctx → Ctx) : (s.modCtx n f).cur.place = s.cur.place := rfl
@[simp] theorem State.modCtx_regs (s : State) (n : Nat) (f : Ctx → Ctx) : (s.modCtx n f).cur.regs = s.cur.regs := rfl
@[simp] theorem State.modCtx_ctl (s : State) (n : Nat) (f : Ctx → Ctx) : (s.modCtx n f).cur.ctl = s.cur.ctl := rfl
@[simp] theorem State.modCtx_trap (s : State) (n : Nat) (f : Ctx → Ctx) : (s.modCtx n f).cur.trap = s.cur.trap := rfl
@[simp] theorem State.modCtx_mat (s : State) (n : Nat) (f : Ctx → Ctx) : (s.modCtx n f).cur.mat = s.cur.mat := rfl
@[simp] theorem State.modCtx_acc (s : State) (n : Nat) (f : Ctx → Ctx) : (s.modCtx n f).cur.acc = s.cur.acc := rfl
@[simp] theorem State.modCtx_ckpt (s : State) (n : Nat) (f : Ctx → Ctx) : (s.modCtx n f).cur.ckpt = s.cur.ckpt := rfl
@[simp] theorem State.modCtx_cur (s : State) (n : Nat) (f : Ctx → Ctx) : (s.modCtx n f).cur = s.cur := rfl
theorem State.modCtx_outside (s : State) (n : Nat) (f : Ctx → Ctx) : (s.modCtx n f) = { s with ctxs := (s.modCtx n f).ctxs } := rfl
@[simp] theorem State.modCtx_mem (s : State) (n : Nat) (f : Ctx → Ctx) : (s.modCtx n f).mem = s.mem := rfl

/-! ## Splits -/

@[simp] theorem Ctl.split_setSplit_same (c : Ctl) (i : Fin 4) (sp : Split) : (c.setSplit i sp).split i = sp := by
  simp [Ctl.split, Ctl.setSplit]

theorem Ctl.split_setSplit_ne (c : Ctl) {i j : Fin 4} (h : j ≠ i) (sp : Split) : (c.setSplit i sp).split j = c.split j := by
  have : i.val ≠ j.val := fun e => h (Fin.ext e.symm)
  simp [Ctl.split, Ctl.setSplit, this]

@[simp] theorem Ctl.setSplit_stack (c : Ctl) (i : Fin 4) (sp : Split) : (c.setSplit i sp).stack = c.stack := rfl
@[simp] theorem Ctl.setSplit_iss (c : Ctl) (i : Fin 4) (sp : Split) : (c.setSplit i sp).iss = c.iss := rfl

@[simp] theorem State.modSplit_split (s : State) (f : Split → Split) : (s.modSplit f).split = f s.split := by
  simp [State.split, State.modSplit, State.modCtl]

@[simp] theorem State.modSplit_stack (s : State) (f : Split → Split) : (s.modSplit f).cur.ctl.stack = s.cur.ctl.stack := rfl
@[simp] theorem State.modSplit_iss (s : State) (f : Split → Split) : (s.modSplit f).cur.ctl.iss = s.cur.ctl.iss := rfl
@[simp] theorem State.modRegs_split (s : State) (f : Regs → Regs) : (s.modRegs f).split = s.split := rfl
@[simp] theorem State.setPc_pc (s : State) (a : BitVec 48) : (s.setPc a).pc = a := by simp [State.pc, State.setPc]

theorem Ctl.live_setSplit (c : Ctl) (i : Fin 4) (sp : Split) (h : sp.live = (c.split i).live) :
    (c.setSplit i sp).live = c.live := by
  unfold Ctl.live
  apply List.filter_congr
  intro j _
  by_cases e : j = i
  · subst e; simp [h]
  · rw [Ctl.split_setSplit_ne c e]

/-! ## The state in which an instruction has issued -/

@[simp] theorem State.useFlags_split (s : State) (m : BitVec 12) : (s.useFlags m).split = s.split := by
  simp [State.split]

@[simp] theorem State.issued_pc (s : State) (i : Instr) : (s.issued i).pc = s.pc + 4 := by
  simp [State.issued]

@[simp] theorem State.issued_mask (s : State) (i : Instr) : (s.issued i).split.mask = s.split.mask := by
  simp [State.issued, State.setPc, State.anchor]

@[simp] theorem State.issued_stack (s : State) (i : Instr) : (s.issued i).cur.ctl.stack = s.cur.ctl.stack := by
  simp [State.issued, State.setPc, State.anchor]

@[simp] theorem State.issued_iss (s : State) (i : Instr) : (s.issued i).cur.ctl.iss = s.cur.ctl.iss := by
  simp [State.issued, State.setPc, State.anchor]

@[simp] theorem State.useFlags_s (s : State) (m : BitVec 12) : (s.useFlags m).cur.regs.s = s.cur.regs.s := by
  unfold State.useFlags; split <;> rfl

@[simp] theorem State.useFlags_k (s : State) (m : BitVec 12) : (s.useFlags m).cur.regs.k = s.cur.regs.k := by
  unfold State.useFlags; split <;> rfl

@[simp] theorem State.useFlags_v (s : State) (m : BitVec 12) : (s.useFlags m).cur.regs.v = s.cur.regs.v := by
  unfold State.useFlags; split <;> rfl

@[simp] theorem State.issued_sreg (s : State) (i : Instr) (n : Nat) : (s.issued i).sreg n = s.sreg n := by
  simp [State.issued, State.sreg]

@[simp] theorem State.issued_kreg (s : State) (i : Instr) (n : Nat) : (s.issued i).kreg n = s.kreg n := by
  simp [State.issued, State.kreg]

@[simp] theorem State.issued_vreg (s : State) (i : Instr) (n : Nat) : (s.issued i).vreg n = s.vreg n := by
  simp [State.issued, State.vreg]

@[simp] theorem State.issued_trap (s : State) (i : Instr) : (s.issued i).cur.trap = s.cur.trap := by simp [State.issued]
@[simp] theorem State.issued_place (s : State) (i : Instr) : (s.issued i).cur.place = s.cur.place := by simp [State.issued]
@[simp] theorem State.issued_mat (s : State) (i : Instr) : (s.issued i).cur.mat = s.cur.mat := by simp [State.issued]
@[simp] theorem State.issued_acc (s : State) (i : Instr) : (s.issued i).cur.acc = s.cur.acc := by simp [State.issued]
@[simp] theorem State.issued_ckpt (s : State) (i : Instr) : (s.issued i).cur.ckpt = s.cur.ckpt := by simp [State.issued]
@[simp] theorem State.issued_mem (s : State) (i : Instr) : (s.issued i).mem = s.mem := by simp [State.issued]

theorem State.issued_outside (s : State) (i : Instr) : s.issued i = { s with cur := (s.issued i).cur } := by
  unfold State.issued
  rw [State.setPc_outside, State.anchor_outside, State.useFlags_outside]

@[simp] theorem State.issued_resident (s : State) (i : Instr) : (s.issued i).others = s.others := by rw [State.issued_outside]
@[simp] theorem State.issued_out (s : State) (i : Instr) : (s.issued i).out = s.out := by rw [State.issued_outside]
@[simp] theorem State.issued_mqueue (s : State) (i : Instr) : (s.issued i).mqueue = s.mqueue := by rw [State.issued_outside]
@[simp] theorem State.issued_tiles (s : State) (i : Instr) : (s.issued i).tiles = s.tiles := by rw [State.issued_outside]
@[simp] theorem State.issued_oslots (s : State) (i : Instr) : (s.issued i).oslots = s.oslots := by rw [State.issued_outside]
@[simp] theorem State.issued_scratch (s : State) (i : Instr) : (s.issued i).scratch = s.scratch := by rw [State.issued_outside]
@[simp] theorem State.issued_sb (s : State) (i : Instr) : (s.issued i).sb = s.sb := by rw [State.issued_outside]
@[simp] theorem State.issued_l1 (s : State) (i : Instr) : (s.issued i).l1 = s.l1 := by rw [State.issued_outside]
@[simp] theorem State.issued_tags (s : State) (i : Instr) : (s.issued i).tags = s.tags := by rw [State.issued_outside]
@[simp] theorem State.issued_bars (s : State) (i : Instr) : (s.issued i).bars = s.bars := by rw [State.issued_outside]
@[simp] theorem State.issued_clearing (s : State) (i : Instr) : (s.issued i).clearing = s.clearing := by rw [State.issued_outside]
@[simp] theorem State.issued_partials (s : State) (i : Instr) : (s.issued i).partials = s.partials := by rw [State.issued_outside]
@[simp] theorem State.issued_lines (s : State) (i : Instr) : (s.issued i).lines = s.lines := by rw [State.issued_outside]
@[simp] theorem State.issued_granted (s : State) (i : Instr) : (s.issued i).granted = s.granted := by rw [State.issued_outside]
@[simp] theorem State.issued_pages (s : State) (i : Instr) : (s.issued i).pages = s.pages := by rw [State.issued_outside]
@[simp] theorem State.issued_integ (s : State) (i : Instr) : (s.issued i).integ = s.integ := by rw [State.issued_outside]
@[simp] theorem State.issued_writes (s : State) (i : Instr) : (s.issued i).writes = s.writes := by rw [State.issued_outside]
@[simp] theorem State.issued_echoes (s : State) (i : Instr) : (s.issued i).echoes = s.echoes := by rw [State.issued_outside]
@[simp] theorem State.issued_mcast (s : State) (i : Instr) : (s.issued i).mcast = s.mcast := by rw [State.issued_outside]
@[simp] theorem State.issued_acks (s : State) (i : Instr) : (s.issued i).acks = s.acks := by rw [State.issued_outside]
@[simp] theorem State.issued_renewals (s : State) (i : Instr) : (s.issued i).renewals = s.renewals := by rw [State.issued_outside]
@[simp] theorem State.issued_fills (s : State) (i : Instr) : (s.issued i).fills = s.fills := by rw [State.issued_outside]
@[simp] theorem State.issued_sharers (s : State) (i : Instr) : (s.issued i).sharers = s.sharers := by rw [State.issued_outside]
@[simp] theorem State.issued_renewed (s : State) (i : Instr) : (s.issued i).renewed = s.renewed := by rw [State.issued_outside]
@[simp] theorem State.issued_mapped (s : State) (i : Instr) : (s.issued i).mapped = s.mapped := by rw [State.issued_outside]
@[simp] theorem State.issued_tlb (s : State) (i : Instr) : (s.issued i).tlb = s.tlb := by rw [State.issued_outside]
@[simp] theorem State.issued_routes (s : State) (i : Instr) : (s.issued i).routes = s.routes := by rw [State.issued_outside]
@[simp] theorem State.issued_holders (s : State) (i : Instr) : (s.issued i).holders = s.holders := by rw [State.issued_outside]
@[simp] theorem State.issued_relays (s : State) (i : Instr) : (s.issued i).relays = s.relays := by rw [State.issued_outside]
@[simp] theorem State.issued_refused (s : State) (i : Instr) : (s.issued i).refused = s.refused := by rw [State.issued_outside]
@[simp] theorem State.issued_objs (s : State) (i : Instr) : (s.issued i).objs = s.objs := by rw [State.issued_outside]
@[simp] theorem State.issued_nodes (s : State) (i : Instr) : (s.issued i).nodes = s.nodes := by rw [State.issued_outside]
@[simp] theorem State.issued_trees (s : State) (i : Instr) : (s.issued i).trees = s.trees := by rw [State.issued_outside]
@[simp] theorem State.issued_ctxs (s : State) (i : Instr) : (s.issued i).ctxs = s.ctxs := by rw [State.issued_outside]
@[simp] theorem State.issued_recs (s : State) (i : Instr) : (s.issued i).recs = s.recs := by rw [State.issued_outside]
@[simp] theorem State.issued_copies (s : State) (i : Instr) : (s.issued i).copies = s.copies := by rw [State.issued_outside]
@[simp] theorem State.issued_faults (s : State) (i : Instr) : (s.issued i).faults = s.faults := by rw [State.issued_outside]
@[simp] theorem State.issued_wls (s : State) (i : Instr) : (s.issued i).wls = s.wls := by rw [State.issued_outside]
@[simp] theorem State.issued_rings (s : State) (i : Instr) : (s.issued i).rings = s.rings := by rw [State.issued_outside]
@[simp] theorem State.issued_tier (s : State) (i : Instr) : (s.issued i).tier = s.tier := by rw [State.issued_outside]
@[simp] theorem State.issued_vregs (s : State) (i : Instr) : (s.issued i).vregs = s.vregs := by rw [State.issued_outside]
@[simp] theorem State.issued_pkg (s : State) (i : Instr) : (s.issued i).pkg = s.pkg := by rw [State.issued_outside]
@[simp] theorem State.issued_mbox (s : State) (i : Instr) : (s.issued i).mbox = s.mbox := by rw [State.issued_outside]
@[simp] theorem State.issued_worlds (s : State) (i : Instr) : (s.issued i).worlds = s.worlds := by rw [State.issued_outside]
@[simp] theorem State.issued_host (s : State) (i : Instr) : (s.issued i).host = s.host := by rw [State.issued_outside]
@[simp] theorem State.issued_links (s : State) (i : Instr) : (s.issued i).links = s.links := by rw [State.issued_outside]
@[simp] theorem State.issued_ports (s : State) (i : Instr) : (s.issued i).ports = s.ports := by rw [State.issued_outside]
@[simp] theorem State.issued_inbox (s : State) (i : Instr) : (s.issued i).inbox = s.inbox := by rw [State.issued_outside]
@[simp] theorem State.issued_cycle (s : State) (i : Instr) : (s.issued i).cycle = s.cycle := by rw [State.issued_outside]
@[simp] theorem State.issued_ps (s : State) (i : Instr) : (s.issued i).ps = s.ps := by rw [State.issued_outside]
@[simp] theorem State.issued_agenda (s : State) (i : Instr) : (s.issued i).agenda = s.agenda := by rw [State.issued_outside]
@[simp] theorem State.issued_phase (s : State) (i : Instr) : (s.issued i).phase = s.phase := by rw [State.issued_outside]
@[simp] theorem State.issued_nextId (s : State) (i : Instr) : (s.issued i).nextId = s.nextId := by rw [State.issued_outside]
@[simp] theorem State.issued_freeCount (s : State) (i : Instr) : (s.issued i).freeCount = s.freeCount := by rw [State.issued_outside]

@[simp] theorem State.issued_myCtx (s : State) (i : Instr) : (s.issued i).myCtx = s.myCtx := by
  simp only [State.myCtx, State.ctx?, State.issued_ctxs, State.issued_place]
@[simp] theorem State.issued_myVdid (s : State) (i : Instr) : (s.issued i).myVdid = s.myVdid := by simp only [State.myVdid, State.issued_myCtx]
@[simp] theorem State.issued_myPart (s : State) (i : Instr) : (s.issued i).myPart = s.myPart := by simp only [State.myPart, State.issued_myCtx]
@[simp] theorem State.issued_myWorld (s : State) (i : Instr) : (s.issued i).myWorld = s.myWorld := by simp only [State.myWorld, State.issued_myCtx]
@[simp] theorem State.issued_tdt (s : State) (i : Instr) (n : Nat) : (s.issued i).tdt? n = s.tdt? n := by
  simp only [State.tdt?, State.issued_myCtx]
@[simp] theorem State.issued_region (s : State) (i : Instr) : (s.issued i).region = s.region := by
  simp only [State.region, State.issued_scratch, State.issued_place]
@[simp] theorem State.issued_regionSize (s : State) (i : Instr) : (s.issued i).regionSize = s.regionSize := by
  simp only [State.regionSize, State.issued_region]
@[simp] theorem State.issued_engines (s : State) (i : Instr) (p : Nat) : (s.issued i).engines p = s.engines p := by
  simp only [State.engines, State.issued_pkg]
@[simp] theorem State.issued_myEngines (s : State) (i : Instr) : (s.issued i).myEngines = s.myEngines := by
  simp only [State.myEngines, State.issued_engines, State.issued_myPart]
@[simp] theorem State.issued_acq (s : State) (i : Instr) : (s.issued i).split.acq = s.split.acq := by
  simp [State.issued, State.setPc, State.anchor]

theorem State.issued_live (s : State) (i : Instr) : (s.issued i).cur.ctl.live = s.cur.ctl.live := by
  unfold State.issued State.setPc State.anchor State.modSplit State.modCtl
  simp only [State.useFlags_ctl]
  rw [Ctl.live_setSplit, Ctl.live_setSplit] <;> simp

theorem State.issued_others (s : State) (i : Instr) (j : Fin 4) (h : j ≠ s.cur.ctl.iss) :
    (s.issued i).cur.ctl.split j = s.cur.ctl.split j := by
  unfold State.issued State.setPc State.anchor State.modSplit State.modCtl
  simp only [State.useFlags_ctl, Ctl.setSplit_iss]
  rw [Ctl.split_setSplit_ne _ h, Ctl.split_setSplit_ne _ h]

theorem State.issued_split_live (s : State) (i : Instr) (j : Fin 4) :
    ((s.issued i).cur.ctl.split j).live = (s.cur.ctl.split j).live := by
  by_cases h : j = s.cur.ctl.iss
  · subst h
    unfold State.issued State.setPc State.anchor State.modSplit State.modCtl
    simp
  · rw [State.issued_others s i j h]

/-! ## Registers -/

theorem State.sreg_setSreg_same (s : State) {n : Nat} (h : n < 64) (x : DWord) : (s.setSreg n x).sreg n = x := by
  simp [State.setSreg, State.sreg, State.modRegs, h]

theorem State.sreg_setSreg_ne (s : State) {n m : Nat} (h : m ≠ n) (x : DWord) : (s.setSreg n x).sreg m = s.sreg m := by
  simp [State.setSreg, State.sreg, State.modRegs, Ne.symm h]

@[simp] theorem State.kreg_setSreg (s : State) (n m : Nat) (x : DWord) : (s.setSreg n x).kreg m = s.kreg m := rfl
@[simp] theorem State.vreg_setSreg (s : State) (n m : Nat) (x : DWord) : (s.setSreg n x).vreg m = s.vreg m := rfl
@[simp] theorem State.flag_setSreg (s : State) (n m : Nat) (x : DWord) : (s.setSreg n x).flag m = s.flag m := rfl

theorem State.kreg_zero (s : State) : s.kreg 0 = BitVec.allOnes 32 := rfl

theorem State.kreg_setKreg_same (s : State) {n : Nat} (h : 0 < n) (h' : n < 16) (x : Word) : (s.setKreg n x).kreg n = x := by
  have e : n ≠ 0 := by omega
  simp [State.setKreg, State.kreg, State.modRegs, h', e]

theorem State.kreg_setKreg_ne (s : State) {n m : Nat} (h : m ≠ n) (x : Word) : (s.setKreg n x).kreg m = s.kreg m := by
  unfold State.setKreg State.kreg
  split
  · rfl
  · split
    · rfl
    · simp [State.modRegs, Ne.symm h]

theorem State.setKreg_zero (s : State) (x : Word) : s.setKreg 0 x = s := rfl

theorem State.vlane_setV_in (s : State) {n : Nat} (h : n < 128) (m : Word) (f : Lane → Word) (l : Lane) (hl : laneBit m l = true) :
    (s.setV n m f).vlane n l = f l := by
  simp [State.setV, State.vlane, State.vreg, State.modRegs, State.modCkpt, h, hl]

theorem State.vlane_setV_out (s : State) {n : Nat} (h : n < 128) (m : Word) (f : Lane → Word) (l : Lane) (hl : laneBit m l = false) :
    (s.setV n m f).vlane n l = s.vlane n l := by
  simp [State.setV, State.vlane, State.vreg, State.modRegs, State.modCkpt, h, hl]

theorem State.vlane_setV_ne (s : State) {n k : Nat} (h : k ≠ n) (m : Word) (f : Lane → Word) (l : Lane) :
    (s.setV n m f).vlane k l = s.vlane k l := by
  simp [State.setV, State.vlane, State.vreg, State.modRegs, State.modCkpt, Ne.symm h]

end Sys2Proof.Machine
end

