-- ==== Sys2Proof/Laws/Control.lean ====
section
/-! SUPPORT. Displacements, code addresses, free splits and hint words in the terms of claims (spec 04 R69, R78, 08 R133-R139). -/

namespace Sys2Proof.Laws.Control

open Sys2Proof Sys2Proof.Machine

theorem shiftLeft_two (x : BitVec 48) : x <<< 2 = x * 4 := by
  rw [BitVec.shiftLeft_eq_mul_twoPow]; rfl

theorem target_issued (s : State) (i : Instr) {n : Nat} (d : BitVec n) : (s.issued i).target d = s.jumpTo d := by
  simp only [State.target, State.here, State.issued_pc, State.jumpTo, shiftLeft_two, BitVec.add_sub_cancel]

theorem codeAddr_eq (x : DWord) : codeAddr x = x.setWidth 48 &&& ~~~3 := by
  unfold codeAddr
  apply BitVec.eq_of_getLsbD_eq
  intro i hi
  simp only [BitVec.getLsbD_shiftLeft, BitVec.getLsbD_setWidth, BitVec.getLsbD_ushiftRight, BitVec.getLsbD_and, BitVec.getLsbD_not, hi, decide_true, Bool.true_and]
  by_cases h : i < 2
  · have : i = 0 ∨ i = 1 := by omega
    rcases this with rfl | rfl <;> simp
  · have h3 : (3 : BitVec 48).getLsbD i = false := by
      simp [BitVec.getLsbD, Nat.testBit]
      have : 3 >>> i = 0 := by rw [Nat.shiftRight_eq_div_pow]; exact Nat.div_eq_of_lt (lt_of_lt_of_le (by norm_num : 3 < 2 ^ 2) (Nat.pow_le_pow_right (by norm_num) (by omega)))
      omega
    have e : 2 + (i - 2) = i := by omega
    simp only [h, h3, e, decide_false, Bool.not_false, Bool.true_and, Bool.and_true]
    have : decide (i - 2 < 48) = true := by simp; omega
    have h4 : decide (i - 2 < 46) = true := by simp; omega
    rw [this, h4]; rfl

theorem here_issued (s : State) (i : Instr) : (s.issued i).here = s.pc := by
  simp [State.here]

theorem no_free_split {c : Ctl} (h : ∀ n, (c.split n).live = true) : splitNums.find? (fun i => !(c.split i).live) = none := by
  rw [List.find?_eq_none]; intro x _; simp [h x]

theorem lowest_free_split {c : Ctl} {n : Fin 4} (h : (c.split n).live = false) (hm : ∀ m, m < n → (c.split m).live = true) :
    splitNums.find? (fun i => !(c.split i).live) = some n := by
  have e : splitNums = [0, 1, 2, 3] := rfl
  rw [e]
  simp only [List.find?]
  match n, h, hm with
  | 0, h, hm => simp [h]
  | 1, h, hm => simp [h, hm 0 (by decide)]
  | 2, h, hm => simp [h, hm 0 (by decide), hm 1 (by decide)]
  | 3, h, hm => simp [h, hm 0 (by decide), hm 1 (by decide), hm 2 (by decide)]

theorem hint_joins {i : Instr} {s : State} {set : Bundle → Bundle} {l : Bool} (he : exec i s = hintWord l set s) (h : s.hints.count < 8) (hl : l = true) : exec i s = .next (s.hinted set) := by
  subst hl
  rw [he]
  simp only [hintWord, State.hinted]
  rw [if_neg (by simp; omega)]

theorem hint_traps {i : Instr} {s : State} {set : Bundle → Bundle} {l : Bool} (he : exec i s = hintWord l set s) (h : 8 ≤ s.hints.count ∨ l = false) : exec i s = .next (s.trapExact 1 0 0) := by
  rw [he]
  simp only [hintWord]
  rw [if_pos (by rcases h with h | h <;> simp [h])]

end Sys2Proof.Laws.Control
end

