-- ==== Sys2Proof/Laws/Access.lean ====
section
/-! SUPPORT. What the issue of a memory access can do, said once: its waits, its checks, and the operation that it leaves
outstanding (spec 14 R231-R242). -/

namespace Sys2Proof.Laws.Access

open Sys2Proof Sys2Proof.Machine Sys2Proof.Laws.Issue

theorem firstTrap_ok (oks : List (Elem × Nat)) : firstTrap (oks.map (fun e => (e.1, Chk.ok e.2))) = none := by
  simp [firstTrap, List.filterMap_map, Function.comp_def]

theorem checkAll_len (u : State) (c acc needs prim) (es : List Elem) : (u.checkAll c acc needs prim es).1.length = es.length := by
  induction es generalizing u with
  | nil => rfl
  | cons e es ih => simp only [State.checkAll, List.length_cons]; rw [ih]

theorem access_ok {u : State} {acc needs prim gate es c oks t} {stall : State → Option (HeldOp → Wait)} {k go}
    (h : Passes u acc needs prim es c oks t) (hr : u.scp.rel = true → u.relOk u.scp.scope u.nextId = true) (hs : stall t = none) :
    access u acc needs prim gate es stall k go = .ok (go t (k oks)) := by
  obtain ⟨hc, ha, hb⟩ := h
  have hbusy : oks.filterMap (fun e => (t.objOfFa e.2).filter (fun o => gate && t.underMerge o)) = [] := by
    rw [List.filterMap_eq_nil_iff]
    intro e he
    rw [Option.filter_eq_none_iff]
    intro o ho
    simp [hb e he o ho]
  have hw : (u.scp.rel && !u.relOk u.scp.scope u.nextId) = false := by
    cases hx : u.scp.rel
    · rfl
    · simp [hr hx]
  simp only [access, hc, ha, firstTrap_ok, List.filterMap_map, Function.comp_def, List.filterMap_some, List.filterMap_none, Prod.mk.eta]
  rw [hbusy]
  simp [hw, hs]

theorem ordered_ok {u : State} {n : Nat} {k} (h : Clear u n) : ordered u n k = k u := by
  obtain ⟨h1, h2, _⟩ := h
  simp only [ordered, h1, List.isEmpty_nil, Bool.not_true, Bool.false_eq_true, if_false, Nat.not_le.mpr h2]

/-- No new sticky flag changes nothing. -/
theorem raise_zero (s : State) : s.raise 0 = s := by
  unfold State.raise State.modRegs
  have : s.cur.regs.fpflags ||| (0 : FpFlags).setWidth 32 = s.cur.regs.fpflags := by
    rw [show (0 : FpFlags).setWidth 32 = 0#32 from rfl, BitVec.or_zero]
  simp only [this]

theorem load_of {i : Instr} {s dest const} {ret : State → Nat} {es : State → List Elem} (he : exec i s = issue i s (fun t => doLoad dest const (ret t) (es t) t)) :
    LoadOf i s dest const ret es := by
  intro c oks t hr hc hp
  have hc' : Clear (s.issued i) (s.issued i).cur.acc.ld := by simpa using hc
  rw [he, issue, of_ok hr (t := t.startLoad dest const (ret (s.issued i)) (s.issued i).acquires (laneAccs oks))]
  rw [doLoad, ordered_ok hc', access_ok (stall := fun _ => none) hp hc'.2.2 rfl]; rfl

theorem store_of {i : Instr} {s kind tree} {ret : State → Nat} {es : State → List Elem} {val : State → Elem → Nat} (he : exec i s = issue i s (fun t => doStore kind (ret t) tree (es t) (val t) t)) :
    StoreOf i s kind tree ret es val := by
  intro c oks t hr hc hroom hp
  have hc' : Clear (s.issued i) (s.issued i).cur.acc.st := by simpa using hc
  rw [he, issue, of_ok hr (t := t.startStore kind .drop (ret (s.issued i)) none tree
      ((entriesOf oks (val (s.issued i))).map (fun w => (w.1, w.2.length, WKind.bytes w.2))))]
  rw [doStore, ordered_ok hc']
  simp only [entriesOf, List.map_map, Function.comp_def] at hroom
  simp only [hroom, Bool.not_true, Bool.false_eq_true, if_false, access_ok (stall := fun _ => none) hp hc'.2.2 rfl]
  simp only [State.perform, raise_zero]
  rfl

theorem atom_of {i : Instr} {s op z dest} {ret : State → Nat} {es : State → List Elem} {x cmp : State → Elem → Nat} (he : exec i s = issue i s (fun t => doAtom op z (ret t) dest (es t) (x t) (cmp t) t)) :
    AtomOf i s op z dest ret es x cmp := by
  intro c oks t hr hc hroom hp
  have hc' : Clear (s.issued i) (s.issued i).cur.acc.st := by simpa using hc
  rw [he, issue, of_ok hr]
  rw [doAtom, ordered_ok hc']
  simp only [hroom, Bool.not_true, Bool.false_eq_true, if_false]
  rw [show atomBytes z = 4 * 2 ^ z from rfl, access_ok (stall := fun _ => none) hp hc'.2.2 rfl]
  simp only [State.perform, raise_zero]
  rfl

theorem fence_of {i : Instr} {s acq rel sc} (he : exec i s = issue i s (doFence acq rel sc)) : FenceOf i s acq rel sc := by
  have hn : (s.issued i).nextId = s.nextId := by rw [State.issued_outside]
  refine ⟨?_, ?_⟩
  · intro ⟨h1, h2⟩ hd
    refine does_at he ?_
    simp only [doFence, hn]
    rw [if_pos (by
      cases acq <;> cases rel <;> simp_all)]
    have : (s.issued i).cur.trap.deferred.filter (fun d => ((acq && acqKinds d.kind) || (rel && relKinds d.kind)) &&
        decide (d.op < (s.issued i).since)) = [] := by
      rw [List.filter_eq_nil_iff]; intro d hd'; rw [State.issued_trap] at hd'; simp [hd d hd']
    simp only [withDeferred, State.takeDeferred, this, List.map_nil]; rfl
  · intro h
    refine holds_at he ?_
    simp only [doFence, hn]
    rw [if_neg]; · rfl
    intro hh; apply h
    revert hh
    cases acq <;> cases rel <;> simp <;> tauto

theorem fits_ok {g : Region} {es : List Elem} {rd : Bool} (h : ∀ e ∈ es, Fits g e rd) : scratchTrap (some g) rd es = none := by
  unfold scratchTrap
  have form : es.filter (fun e => (if g.size < e.gva + e.size then 12 else if e.gva % e.size ≠ 0 then 11 else 0) != 0) = [] := by
    rw [List.filter_eq_nil_iff]
    intro e he
    obtain ⟨h1, h2, _⟩ := h e he
    rw [if_neg (by omega), if_neg (by simpa using h2)]
    decide
  have word : es.filter (fun e =>
      (if (rd && g.bad.any (fun b => decide (e.gva / 4 ≤ b / 4) && decide (b / 4 ≤ (e.gva + e.size - 1) / 4))) = true then
        (if (g.poisoned.any (fun b => decide (e.gva / 4 ≤ b / 4) && decide (b / 4 ≤ (e.gva + e.size - 1) / 4))) = true then 15 else 16)
      else 0) != 0) = [] := by
    rw [List.filter_eq_nil_iff]
    intro e he
    obtain ⟨_, _, h3⟩ := h e he
    rw [if_neg]
    · decide
    · cases rd
      · simp
      · have h3' := h3 rfl
        simp only [Bool.true_and, List.any_eq_true, Bool.and_eq_true, decide_eq_true_eq, not_exists, not_and]
        intro b hb h4 h5; exact h3' b hb ⟨h4, h5⟩
  simp only [Option.map_some, Option.getD_some]
  rw [form, word]
  rfl

/-- What a load that has become outstanding changes: one operation more, the count of its class, and where it acquires the
split's list. -/
theorem startLoad_mem (s : State) (dest : Dest) (const : Bool) (ret : Nat) (acq : Option Nat) (oks : List LaneAcc) :
    (s.startLoad dest const ret acq oks).mem = s.mem := by
  unfold State.startLoad State.fresh
  simp only []
  split <;> rfl

theorem startLoad_ld (s : State) (dest : Dest) (const : Bool) (ret : Nat) (acq : Option Nat) (oks : List LaneAcc) :
    (s.startLoad dest const ret acq oks).cur.acc.ld = s.cur.acc.ld + 1 := by
  unfold State.startLoad State.fresh
  simp only []
  split <;> rfl

theorem startLoad_regs (s : State) (dest : Dest) (const : Bool) (ret : Nat) (acq : Option Nat) (oks : List LaneAcc) :
    (s.startLoad dest const ret acq oks).cur.regs = s.cur.regs := by
  unfold State.startLoad State.fresh
  simp only []
  split <;> rfl

end Sys2Proof.Laws.Access
end

