-- ==== Sys2Proof/Laws/Float.lean ====
section
/-! SUPPORT. FP32 words by their bits, and the shared operations of the float instructions in the terms of claims (spec 07 R112-R115). -/

namespace Sys2Proof.Laws.Float

open Sys2Proof Sys2Proof.Machine

theorem decode32 (x : Word) : fmtDecode fmtF32 x.toNat =
    (let ee : Nat := x.toNat / 2 ^ 23 % 256
     let ff : Nat := x.toNat % 2 ^ 23
     if ee = 0 then .fin (x.toNat.testBit 31) ff (-149)
     else if ee = 255 then (if ff = 0 then .inf (x.toNat.testBit 31) else .nan (ff.testBit 22))
     else .fin (x.toNat.testBit 31) (2 ^ 23 + ff) ((ee : Int) - 127 - 23)) := by
  simp only [fmtDecode, fmtF32, bitsOf, Nat.shiftRight_eq_div_pow]
  norm_num
  split_ifs <;> first | rfl | (exfalso; omega)

theorem isNan_eq (x : Word) : fIsNan (fmtDecode fmtF32 x.toNat) = isNan32 x := by
  rw [decode32]; unfold isNan32
  have hx := x.isLt
  simp only []
  split
  · exact (decide_eq_false (p := 0x7F800000 < x.toNat % 2 ^ 31) (by omega)).symm
  · split
    · split
      · exact (decide_eq_false (p := 0x7F800000 < x.toNat % 2 ^ 31) (by omega)).symm
      · exact (decide_eq_true (p := 0x7F800000 < x.toNat % 2 ^ 31) (by omega)).symm
    · exact (decide_eq_false (p := 0x7F800000 < x.toNat % 2 ^ 31) (by omega)).symm

theorem nanFlags_eq (x : Word) : nanFlags (fmtDecode fmtF32 x.toNat) = nanMarks x := by
  have h := isNan_eq x
  unfold nanMarks
  rw [← h]
  cases hd : fmtDecode fmtF32 x.toNat with
  | nan q =>
    have : q = x.getLsbD 22 := by
      rw [decode32] at hd; simp only [] at hd
      split at hd
      · cases hd
      · split at hd
        · split at hd
          · cases hd
          · injection hd with hq
            rw [← hq, BitVec.getLsbD, Nat.testBit_mod_two_pow]; simp
        · cases hd
    subst this
    simp only [nanFlags, fIsNan, if_true, flagIf]
    cases x.getLsbD 22 <;> simp
  | inf => rfl
  | fin => rfl

theorem float_fn {F G : Rnd → Word → Word → Word → Word × FpFlags} {i : Instr} {s d a b bs}
    (he : exec i s = issue i s (vecF F d a b bs)) (h : ∀ c x y z, F c x y z = G c x y z) : FloatFn i s d a b bs G := by
  have : F = G := by funext c x y z; exact h c x y z
  subst this
  unfold FloatFn FlagLanes; refine Laws.Issue.does he fun t => ?_; rw [vecF]; rfl

theorem minMax_eq (mx pr : Bool) (x y : Word) : fMinMax32 mx pr x y =
    (if isNan32 x || isNan32 y then (if pr then nan32 else if isNan32 x then (if isNan32 y then nan32 else y) else x)
      else if (if mx then floatBelow x y else floatBelow y x) then y else x, nanMarks x ||| nanMarks y) := by
  simp only [fMinMax32, isNan_eq, nanFlags_eq, floatBelow, value32]
  cases isNan32 x <;> cases isNan32 y <;> cases pr <;> cases mx <;> simp <;> split <;> rfl

theorem class_eq (y : Word) : fClass32 y = BitVec.ofNat 32 (2 ^ classBit y) := by
  unfold fClass32 classBit
  simp only [bitsOf, Nat.shiftRight_eq_div_pow, Nat.testBit_eq_decide_div_mod_eq]
  generalize y.getLsbD 31 = sg
  congr 2
  generalize y.toNat = n at *
  have e1 : n / 2 ^ 23 % 2 ^ (30 + 1 - 23) = n % 2147483648 / 8388608 := by omega
  have e2 : n % 2 ^ 23 = n % 2147483648 % 8388608 := by omega
  have e3 : n % 2 ^ 31 = n % 2147483648 := by omega
  rw [e1, e2, e3]
  have hm : n % 2147483648 < 2147483648 := Nat.mod_lt _ (by omega)
  generalize n % 2147483648 = m at *
  clear e1 e2 e3
  cases sg <;> simp only [if_true, if_false, Bool.false_eq_true, decide_eq_true_eq] <;> split_ifs <;> omega

theorem cvt_some {k : Nat} (h : k ≤ 10) : ∃ c, cvtFmt k = some c := by
  have : k = 0 ∨ k = 1 ∨ k = 2 ∨ k = 3 ∨ k = 4 ∨ k = 5 ∨ k = 6 ∨ k = 7 ∨ k = 8 ∨ k = 9 ∨ k = 10 := by omega
  rcases this with rfl | rfl | rfl | rfl | rfl | rfl | rfl | rfl | rfl | rfl | rfl <;> exact ⟨_, rfl⟩

theorem float_cmp {k : BitVec 3} {P : Word → Word → Bool} {inv : Bool} {s d a b bs}
    (h : ∀ x y, fCmp32 k x y = (P x y, nanMarks x ||| nanMarks y ||| (if inv && (isNan32 x || isNan32 y) then flInvalid else 0))) :
    FloatCompare (.vfcmp k d a b bs) s d a b bs P inv := by
  refine Laws.Issue.does rfl fun t => ?_
  simp only [h]; rfl

end Sys2Proof.Laws.Float
end

