-- ==== Sys2Proof/Laws/Integer.lean ====
section
/-! SUPPORT. The shared operations of the integer instructions in the terms of claims (spec 06 R97-R102). -/

namespace Sys2Proof.Laws.Integer

open Sys2Proof Sys2Proof.Machine

theorem scalarRR_eq (F : Fun3) (zx d a b w) (t : State) : scalarRR F zx d a b w t =
  .ok (t.setSreg d.toNat (sized zx w F (t.src a.toNat) (t.src b.toNat) (t.sreg d.toNat))) := by
  unfold scalarRR sized lo32; split
  · split <;> rfl
  · rfl

theorem absS_eq {n} (x : BitVec n) : absS x = if x.toInt < 0 then -x else x := by
  unfold absS; rw [BitVec.msb_eq_toInt]; simp

theorem scalar_fn {F G : Fun3} {i : Instr} {s d a b w zx} (he : exec i s = issue i s (scalarRR F zx d a b w)) (h : F = G) : ScalarFn i s d a b w zx G :=
  Laws.Issue.does he fun t => by rw [scalarRR_eq, h]

theorem vector_fn {F G : Fun3} {i : Instr} {s d a b bs} (he : exec i s = issue i s (vectorRR F d a b bs)) (h : F = G) : VectorFn i s d a b bs G :=
  Laws.Issue.does he fun t => by rw [vectorRR, h]

theorem shiftRight_eq {n} (x : BitVec n) (k : Nat) : x.toNat >>> k = x.toNat / 2 ^ k := by rw [Nat.shiftRight_eq_div_pow]

theorem bfeS_eq {n} (x y : BitVec n) : bfeS x y = BitVec.ofInt n (sextInt (min (y.toNat / 256 % 256) (n - y.toNat % 256)) (x.toNat / 2 ^ (y.toNat % 256))) := by
  unfold bfeS bfField; simp only [shiftRight_eq]
  split
  · rename_i h; rw [h]; simp [sextInt, Nat.mod_one]
  · rfl

theorem bfi_eq {n} (x y z : BitVec n) : bfi x y z = fieldInsert x y z := by
  unfold bfi fieldInsert bfField
  simp only []
  generalize hp : y.toNat % 256 = p
  generalize hl : min (y.toNat / 256 % 256) (n - p) = l
  apply BitVec.eq_of_getLsbD_eq
  intro i hi
  simp only [BitVec.getLsbD_or, BitVec.getLsbD_and, BitVec.getLsbD_not, BitVec.getLsbD_ofNat, hi, decide_true, Bool.true_and, Nat.testBit_shiftLeft, Nat.testBit_mod_two_pow]
  have e : z.toNat / 2 ^ (p + l) * 2 ^ (p + l) + x.toNat % 2 ^ l * 2 ^ p + z.toNat % 2 ^ p =
     2 ^ p * (2 ^ l * (z.toNat / 2 ^ (p + l)) + x.toNat % 2 ^ l) + z.toNat % 2 ^ p := by
    rw [Nat.pow_add]; ring
  rw [e, Nat.testBit_two_pow_mul_add _ (Nat.mod_lt _ (Nat.two_pow_pos _)), Nat.testBit_two_pow_mul_add _ (Nat.mod_lt _ (Nat.two_pow_pos _))]
  simp only [Nat.testBit_mod_two_pow, Nat.testBit_div_two_pow, Nat.testBit_two_pow_sub_one]
  simp only [BitVec.getLsbD, ge_iff_le]
  by_cases h1 : i < p
  · simp [h1, Nat.not_le.mpr h1]
  · have h1' := Nat.not_lt.mp h1
    by_cases h2 : i - p < l
    · simp [h1, h1', h2]
    · have : p + l + (i - p - l) = i := by omega
      have h3 : i - p - l + (p + l) = i := by omega
      simp [h1, h1', h2, h3]

theorem addsU_eq {n} (x y : BitVec n) : addsU x y = clamp n ((x.toNat : Int) + y.toNat) 0 (2 ^ n - 1) := by
  unfold addsU clamp
  have : ((2:Int)^n) = ((2^n : Nat) : Int) := by push_cast; rfl
  rw [this]
  have h0 := Nat.two_pow_pos n
  simp only []
  split
  · rename_i h
    rw [if_pos (by omega)]
    congr 1
    rw [← BitVec.ofInt_natCast]; congr 1; omega
  · rename_i h
    rw [if_neg (by omega), if_neg (by omega)]
    congr 1

theorem bit_zero (x : DWord) : (x.getLsbD 0).toNat = x.toNat % 2 := by
  have h : x.getLsbD 0 = decide (x.toNat % 2 = 1) := by
    simp [BitVec.getLsbD, Nat.testBit_zero]
  rw [h]
  rcases Nat.mod_two_eq_zero_or_one x.toNat with h | h <;> simp [h]

theorem addCarry_eq {n} (x y : BitVec n) (c : Bool) : addCarry x y c = (BitVec.ofInt n ((x.toNat : Int) + y.toNat + c.toNat), decide (2 ^ n ≤ (x.toNat : Int) + y.toNat + c.toNat)) := by
  unfold addCarry
  simp only []
  congr 1
  exact decide_eq_decide.mpr (by constructor <;> intro h <;> exact_mod_cast h)

end Sys2Proof.Laws.Integer
end

