-- ==== Sys2Proof/Laws/Memory.lean ====
section
/-! SUPPORT. What the operations over memory do (spec 00 R5, 13 R213, R214): a byte read after a write is the byte written, every
other byte is as before, and the canonical form is kept. -/

namespace Sys2Proof.Laws.Mem

open Sys2Proof Sys2Proof.Machine

/-- The canonical form above a bound: a listed key lies above it. -/
theorem lt_of_wf {lo k : Nat} {b : Byte} {m : Memory} (h : Memory.wfFrom (some lo) ((k, b) :: m) = true) : lo < k := by
  simp only [Memory.wfFrom, Bool.and_eq_true, decide_eq_true_eq] at h
  exact h.1.1

theorem tail_wf {lo : Option Nat} {k : Nat} {b : Byte} {m : Memory} (h : Memory.wfFrom lo ((k, b) :: m) = true) :
    Memory.wfFrom (some k) m = true := by
  simp only [Memory.wfFrom, Bool.and_eq_true] at h
  exact h.2

theorem byte_wf {lo : Option Nat} {k : Nat} {b : Byte} {m : Memory} (h : Memory.wfFrom lo ((k, b) :: m) = true) :
    b ≠ Memory.unlisted := by
  simp only [Memory.wfFrom, Bool.and_eq_true, decide_eq_true_eq] at h
  exact h.1.2

/-- A canonical form above a bound is one above every lower bound. -/
theorem weaken {lo hi : Nat} {m : Memory} (h : Memory.wfFrom (some hi) m = true) (hl : lo ≤ hi) :
    Memory.wfFrom (some lo) m = true := by
  cases m with
  | nil => rfl
  | cons c m =>
    obtain ⟨k, b⟩ := c
    have hk := lt_of_wf h
    simp only [Memory.wfFrom, Bool.and_eq_true, decide_eq_true_eq] at h ⊢
    exact ⟨⟨by omega, h.1.2⟩, h.2⟩

theorem drop_bound {lo : Option Nat} {m : Memory} (h : Memory.wfFrom lo m = true) : Memory.wfFrom none m = true := by
  cases m with
  | nil => rfl
  | cons c m =>
    simp only [Memory.wfFrom, Bool.and_eq_true, Bool.true_and] at h ⊢
    exact ⟨h.1.2, h.2⟩

theorem bounded {lo : Option Nat} {k : Nat} {b : Byte} {m : Memory} (h : Memory.wfFrom lo ((k, b) :: m) = true) (a : Nat)
    (ha : lo = some a) : a < k := by
  subst ha
  exact lt_of_wf h

/-- A key below every listed one reads as an unlisted byte. -/
theorem get_below {a lo : Nat} {m : Memory} (h : Memory.wfFrom (some lo) m = true) (ha : a ≤ lo) :
    Memory.get m a = Memory.unlisted := by
  induction m generalizing lo with
  | nil => rfl
  | cons c m ih =>
    obtain ⟨k, b⟩ := c
    have hk := lt_of_wf h
    have hne : k ≠ a := by omega
    simp only [Memory.get, hne, if_false]
    exact ih (tail_wf h) (by omega)

theorem erase_wf {lo : Option Nat} {m : Memory} (a : Nat) (h : Memory.wfFrom lo m = true) :
    Memory.wfFrom lo (Memory.erase m a) = true := by
  induction m generalizing lo with
  | nil => rfl
  | cons c m ih =>
    obtain ⟨k, b⟩ := c
    have ht := tail_wf h
    by_cases hk : k = a
    · simp only [Memory.erase, hk, if_true]
      cases lo with
      | none => exact drop_bound ht
      | some l => exact weaken ht (Nat.le_of_lt (lt_of_wf h))
    · simp only [Memory.erase, hk, if_false]
      have hb := byte_wf h
      cases lo with
      | none => simp [Memory.wfFrom, hb, ih ht]
      | some l => simp [Memory.wfFrom, hb, ih ht, lt_of_wf h]

theorem insert_wf {lo : Option Nat} {m : Memory} (a : Nat) {x : Byte} (hx : x ≠ Memory.unlisted)
    (h : Memory.wfFrom lo m = true) (ha : ∀ l, lo = some l → l < a) : Memory.wfFrom lo (Memory.insert m a x) = true := by
  induction m generalizing lo with
  | nil =>
    cases lo with
    | none => simp [Memory.insert, Memory.wfFrom, hx]
    | some l => simp [Memory.insert, Memory.wfFrom, hx, ha l rfl]
  | cons c m ih =>
    obtain ⟨k, b⟩ := c
    have ht := tail_wf h
    have hb := byte_wf h
    by_cases h1 : a < k
    · simp only [Memory.insert, h1, if_true]
      cases lo with
      | none => simp [Memory.wfFrom, hx, hb, h1, ht]
      | some l => simp [Memory.wfFrom, hx, hb, h1, ht, ha l rfl]
    · by_cases h2 : a = k
      · subst h2
        simp only [Memory.insert, Nat.lt_irrefl, if_false, if_true]
        cases lo with
        | none => simp [Memory.wfFrom, hx, ht]
        | some l => simp [Memory.wfFrom, hx, ht, ha l rfl]
      · simp only [Memory.insert, h1, h2, if_false]
        have hi := ih ht (fun l hl => by cases hl; omega)
        cases lo with
        | none => simp [Memory.wfFrom, hb, hi]
        | some l => simp [Memory.wfFrom, hb, hi, lt_of_wf h]

/-- A write of one byte keeps the canonical form. -/
theorem put_wf {m : Memory} (a : Nat) (x : Byte) (h : m.wf = true) : (m.put a x).wf = true := by
  unfold Memory.put Memory.wf
  split
  · exact erase_wf a h
  · exact insert_wf a ‹_› h (fun _ hl => nomatch hl)

/-- A write of bytes keeps the canonical form. -/
theorem putN_wf {m : Memory} (a : Nat) (bs : List Byte) (h : m.wf = true) : (m.putN a bs).wf = true := by
  induction bs generalizing m a with
  | nil => exact h
  | cons x xs ih => exact ih (a + 1) (put_wf a x h)

/-- Dropping listed keys keeps the canonical form. -/
theorem filter_wf {lo : Option Nat} {m : Memory} (p : Host.Cell → Bool) (h : Memory.wfFrom lo m = true) :
    Memory.wfFrom lo (m.filter p) = true := by
  induction m generalizing lo with
  | nil => rfl
  | cons c m ih =>
    obtain ⟨k, b⟩ := c
    have ht := tail_wf h
    by_cases hp : p (k, b) = true
    · rw [List.filter_cons_of_pos hp]
      have hb := byte_wf h
      cases lo with
      | none => simp [Memory.wfFrom, hb, ih ht]
      | some l => simp [Memory.wfFrom, hb, ih ht, lt_of_wf h]
    · rw [List.filter_cons_of_neg hp]
      cases lo with
      | none => exact drop_bound (ih ht)
      | some l => exact weaken (ih ht) (Nat.le_of_lt (lt_of_wf h))

theorem get_insert_same (m : Memory) (a : Nat) (x : Byte) : Memory.get (Memory.insert m a x) a = x := by
  induction m with
  | nil => simp [Memory.insert, Memory.get]
  | cons c m ih =>
    obtain ⟨k, b⟩ := c
    simp only [Memory.insert]
    split
    · simp [Memory.get]
    · split
      · simp [Memory.get]
      · have : k ≠ a := fun e => ‹¬ a = k› e.symm
        simp [Memory.get, this, ih]

theorem get_insert_other (m : Memory) {a k : Nat} (x : Byte) (h : k ≠ a) :
    Memory.get (Memory.insert m a x) k = Memory.get m k := by
  induction m with
  | nil => simp [Memory.insert, Memory.get, h.symm]
  | cons c m ih =>
    obtain ⟨q, b⟩ := c
    simp only [Memory.insert]
    split
    · simp [Memory.get, h.symm]
    · split
      · have : q ≠ k := by omega
        simp [Memory.get, h.symm, this]
      · simp [Memory.get, ih]

theorem get_erase_same {lo : Option Nat} {m : Memory} (a : Nat) (h : Memory.wfFrom lo m = true) :
    Memory.get (Memory.erase m a) a = Memory.unlisted := by
  induction m generalizing lo with
  | nil => rfl
  | cons c m ih =>
    obtain ⟨k, b⟩ := c
    by_cases hk : k = a
    · simp only [Memory.erase, hk, if_true]
      exact get_below (hk ▸ tail_wf h) (Nat.le_refl a)
    · simp only [Memory.erase, hk, if_false, Memory.get]
      exact ih (tail_wf h)

theorem get_erase_other (m : Memory) {a k : Nat} (h : k ≠ a) : Memory.get (Memory.erase m a) k = Memory.get m k := by
  induction m with
  | nil => rfl
  | cons c m ih =>
    obtain ⟨q, b⟩ := c
    simp only [Memory.erase]
    split
    · have : q ≠ k := by omega
      simp [Memory.get, this]
    · simp [Memory.get, ih]

/-- A byte read after it is written is the byte written. -/
theorem get_put_same {m : Memory} (a : Nat) (x : Byte) (h : m.wf = true) : (m.put a x).get a = x := by
  unfold Memory.put
  split
  · rw [get_erase_same a h]; exact Eq.symm ‹_›
  · exact get_insert_same m a x

/-- A write leaves every other byte as it was. -/
theorem get_put_other (m : Memory) {a k : Nat} (x : Byte) (h : k ≠ a) : (m.put a x).get k = m.get k := by
  unfold Memory.put
  split
  · exact get_erase_other m h
  · exact get_insert_other m x h

/-- A write of bytes leaves every byte outside them as it was. -/
theorem get_putN_outside (m : Memory) {a k : Nat} (bs : List Byte) (h : k < a ∨ a + bs.length ≤ k) :
    (m.putN a bs).get k = m.get k := by
  induction bs generalizing m a with
  | nil => rfl
  | cons x xs ih =>
    simp only [List.length_cons] at h
    have h1 : Memory.get (Memory.putN (Memory.put m a x) (a + 1) xs) k = Memory.get (Memory.put m a x) k :=
      ih (Memory.put m a x) (by omega)
    rw [Memory.putN, h1]
    exact get_put_other m x (by omega)

/-- A byte of those written reads as written. -/
theorem get_putN_inside {m : Memory} {a i : Nat} {bs : List Byte} (h : m.wf = true) (hi : i < bs.length) :
    (m.putN a bs).get (a + i) = bs.getD i 0 := by
  induction bs generalizing m a i with
  | nil => exact absurd hi (Nat.not_lt_zero i)
  | cons x xs ih =>
    rw [Memory.putN]
    cases i with
    | zero =>
      rw [get_putN_outside _ xs (by omega)]
      simpa using get_put_same a x h
    | succ i =>
      have := ih (m := m.put a x) (a := a + 1) (i := i) (put_wf a x h) (by simpa using hi)
      simpa [Nat.add_comm, Nat.add_left_comm] using this

/-- Memory at reset lists nothing. -/
theorem reset_wf : State.reset.mem.wf = true := rfl

/-! ## The operations of a holder -/

@[simp] theorem fold_mem (s : State) (c w : Nat) (x y : BitVec 256) : (s.fold c w x y).mem = s.mem := rfl

@[simp] theorem setLine_mem (s : State) (l : LineMeta) : (s.setLine l).mem = s.mem := rfl

@[simp] theorem putDram_mem (s : State) (h a : Nat) (old : List Byte) : (s.putDram h a old).mem = s.mem := by
  unfold State.putDram
  split <;> rfl

/-- A controller's read changes no byte. -/
@[simp] theorem dramRead_mem (s : State) (h a : Nat) : (s.dramRead h a).mem = s.mem := by
  unfold State.dramRead
  split <;> rfl

/-- A controller's write changes the bytes it stores, at their holder. -/
@[simp] theorem dramWrite_mem (s : State) (h a : Nat) (bs : List Byte) :
    (s.dramWrite h a bs).mem = s.mem.putN (memKey h a) bs := by
  unfold State.dramWrite
  simp

/-- What a cache line written back leaves in memory is what memory had: the line as it is now (13 R220). -/
@[simp] theorem writeBack_mem (s : State) (t : TagLine) : (s.writeBack t).mem = s.mem := by
  unfold State.writeBack
  split
  · rfl
  · dsimp only
    split <;> simp

@[simp] theorem evictTag_mem (s : State) (t : TagLine) : (s.evictTag t).mem = s.mem := by
  unfold State.evictTag
  simp

@[simp] theorem modCtx_mem (s : State) (n : Nat) (f : Ctx → Ctx) : (s.modCtx n f).mem = s.mem := rfl

@[simp] theorem count_mem (s : State) (c e n : Nat) : (s.count c e n).mem = s.mem := rfl

@[simp] theorem evictFor_mem (s : State) (c : Nat) (t : TagLine) : (s.evictFor c t).mem = s.mem := by
  unfold State.evictFor
  rw [evictTag_mem]
  split <;> simp

/-- Lines that leave a cache for a request change no byte. -/
@[simp] theorem evictAll_mem (c : Nat) (ts : List TagLine) (s : State) :
    (ts.foldl (fun (s : State) t => s.evictFor c t) s).mem = s.mem := by
  induction ts generalizing s with
  | nil => rfl
  | cons t ts ih => rw [List.foldl_cons, ih, evictFor_mem]

@[simp] theorem limitTags_mem (s : State) (p l : Nat) : (s.limitTags p l).mem = s.mem := by
  unfold State.limitTags
  dsimp only
  split
  · rfl
  · split <;> rfl

/-- A cache that takes or finds a line changes no byte. -/
@[simp] theorem touchTag_mem (s : State) (p h a w c k : Nat) : (s.touchTag p h a w c k).mem = s.mem := by
  unfold State.touchTag
  dsimp only
  split
  · simp
  · split
    · simp
    · simp only [limitTags_mem]
      split
      · simp
      · split <;> simp

@[simp] theorem ctlRead_mem (s : State) (h a c k : Nat) : (s.ctlRead h a c k).mem = s.mem := by
  unfold State.ctlRead
  dsimp only
  split
  · split
    · split <;> simp
    · split <;> simp
  · split <;> simp

/-- A read by a unit of the package changes no byte. -/
@[simp] theorem unitReadAs_mem (s : State) (h a c k : Nat) : (s.unitReadAs h a c k).mem = s.mem := by
  unfold State.unitReadAs
  split
  · simp
  · split <;> simp

@[simp] theorem unitRead_mem (s : State) (h a : Nat) : (s.unitRead h a).mem = s.mem := by
  unfold State.unitRead
  simp

/-- A write where its line is serialised changes the bytes it stores, at their holder, whether it goes through or stays in the L2
(13 R220). -/
@[simp] theorem storeAt_mem (s : State) (p : Option Nat) (h a c k : Nat) (bs : List Byte) :
    (s.storeAt p h a c k bs).mem = s.mem.putN (memKey h a) bs := by
  unfold State.storeAt
  dsimp only
  split
  · simp
  · split <;> simp

/-- The same at a primary. -/
@[simp] theorem storeLine_mem (s : State) (h a c k : Nat) (bs : List Byte) :
    (s.storeLine h a c k bs).mem = s.mem.putN (memKey h a) bs := by
  unfold State.storeLine
  simp

/-- The bytes of a holder after a write to them. -/
theorem dramWrite_wf {s : State} (h a : Nat) (bs : List Byte) (w : s.mem.wf = true) : (s.dramWrite h a bs).mem.wf = true := by
  rw [dramWrite_mem]
  exact putN_wf _ bs w

theorem storeLine_wf {s : State} (h a c k : Nat) (bs : List Byte) (w : s.mem.wf = true) : (s.storeLine h a c k bs).mem.wf = true := by
  rw [storeLine_mem]
  exact putN_wf _ bs w

end Sys2Proof.Laws.Mem
end

