-- ==== Sys2Proof/Laws/Step.lean ====
section
/-! SUPPORT. What a step can do, said once: the agenda, a turn and the word it runs (spec 02 R37-R39, 04 R64, R81; log entries
1, 2), and that every encoded instruction but a hint issues through the shared checks (04 R81). -/

set_option Elab.async false

namespace Sys2Proof.Laws.Step

open Sys2Proof Sys2Proof.Machine

variable {s t u v r : State} {i : Fin 4} {j : Instr} {w : Word}

theorem step_event (ha : s.agenda = j :: l) (he : encode j = none) : step s = exec j { s with agenda := l } := by
  delta step
  rw [ha]; dsimp only; rw [he]; rfl

theorem step_turn (ha : s.agenda = []) (hp : s.phase = .issue) : step s = s.turn := by
  delta step
  rw [ha]; dsimp only; rw [hp]

theorem step_between (ha : s.agenda = []) (hp : s.phase = .event n) : step s = s.between n := by
  delta step
  rw [ha]; dsimp only; rw [hp]

/-- A word that is an instruction runs as it. -/
theorem issueNext_word (hf : s.fetch = .word v w) (hd : decodeWord w = some j) : s.issueNext = exec j v := by
  rw [State.issueNext, hf]
  show v.runWord w = _
  rw [State.runWord, hd]

/-- A word that is no instruction traps (04 R81). -/
theorem issueNext_illegal (hf : s.fetch = .word v w) (hd : decodeWord w = none) : s.issueNext = execIllegalOpcode w v := by
  rw [State.issueNext, hf]
  show v.runWord w = _
  rw [State.runWord, hd]

/-- A fetch that ends in a trap (19 R322). -/
theorem issueNext_trap {c a : Nat} (hf : s.fetch = .trap c a) : s.issueNext = .next (s.trapExact c a 0) := by
  rw [State.issueNext, hf]

/-- The turn in which a split is chosen: its word, and the end of the turn. -/
theorem turn_runs (hr : splitNums.foldl State.resume s.startTurn = r) (hk : r.pickSplit = (some i, t))
    (h : (t.candidate i).issueNext = .next u) : s.turn = .next (u.endTurn (some i)) := by
  unfold State.turn
  rw [hr]
  show (match r.pickSplit with
    | (none, t) => if splitNums.any t.expired then .next (t.timeOut.endTurn none) else .next (t.endTurn none)
    | (some i, t) => match (t.candidate i).issueNext with
      | .next u => .next (u.endTurn (some i))
      | .fault f => .fault f
      | .refused r => .refused r : Out State) = _
  rw [hk]
  show (match (t.candidate i).issueNext with
      | .next u => .next (u.endTurn (some i))
      | .fault f => .fault f
      | .refused r => .refused r : Out State) = _
  rw [h]

/-- A step of a turn that runs a word. -/
theorem step_runs (ha : s.agenda = []) (hp : s.phase = .issue) (hr : splitNums.foldl State.resume s.startTurn = r)
    (hk : r.pickSplit = (some i, t)) (h : (t.candidate i).issueNext = .next u) : step s = .next (u.endTurn (some i)) := by
  rw [step_turn ha hp, turn_runs hr hk h]

/-- Every encoded instruction but a hint issues through the shared checks. -/
theorem issues (j : Instr) (s : State) : (∃ body, exec j s = issue j s body) ∨
    (∃ w, encode j = some w ∧ w.toNat / 2 ^ 26 = 0x3E) ∨ encode j = none := by
  cases j
  case sadd => exact .inl ⟨_, rfl⟩
  case ssub => exact .inl ⟨_, rfl⟩
  case smullo => exact .inl ⟨_, rfl⟩
  case smulhiS => exact .inl ⟨_, rfl⟩
  case smulhiU => exact .inl ⟨_, rfl⟩
  case smad => exact .inl ⟨_, rfl⟩
  case sminS => exact .inl ⟨_, rfl⟩
  case sminU => exact .inl ⟨_, rfl⟩
  case smaxS => exact .inl ⟨_, rfl⟩
  case smaxU => exact .inl ⟨_, rfl⟩
  case saddsS => exact .inl ⟨_, rfl⟩
  case saddsU => exact .inl ⟨_, rfl⟩
  case saddc => exact .inl ⟨_, rfl⟩
  case ssubb => exact .inl ⟨_, rfl⟩
  case sabs => exact .inl ⟨_, rfl⟩
  case sneg => exact .inl ⟨_, rfl⟩
  case sand => exact .inl ⟨_, rfl⟩
  case sor => exact .inl ⟨_, rfl⟩
  case sxor => exact .inl ⟨_, rfl⟩
  case sandn => exact .inl ⟨_, rfl⟩
  case snot => exact .inl ⟨_, rfl⟩
  case sshl => exact .inl ⟨_, rfl⟩
  case sshr => exact .inl ⟨_, rfl⟩
  case ssar => exact .inl ⟨_, rfl⟩
  case srot => exact .inl ⟨_, rfl⟩
  case sclz => exact .inl ⟨_, rfl⟩
  case spop => exact .inl ⟨_, rfl⟩
  case sbrev => exact .inl ⟨_, rfl⟩
  case sbfeU => exact .inl ⟨_, rfl⟩
  case sbfeS => exact .inl ⟨_, rfl⟩
  case sbfi => exact .inl ⟨_, rfl⟩
  case sunpack => exact .inl ⟨_, rfl⟩
  case scmp => exact .inl ⟨_, rfl⟩
  case smov => exact .inl ⟨_, rfl⟩
  case sext8S => exact .inl ⟨_, rfl⟩
  case sext8U => exact .inl ⟨_, rfl⟩
  case sext16S => exact .inl ⟨_, rfl⟩
  case sext16U => exact .inl ⟨_, rfl⟩
  case slea => exact .inl ⟨_, rfl⟩
  case ssel => exact .inl ⟨_, rfl⟩
  case spack => exact .inl ⟨_, rfl⟩
  case saddImm => exact .inl ⟨_, rfl⟩
  case sandImm => exact .inl ⟨_, rfl⟩
  case sorImm => exact .inl ⟨_, rfl⟩
  case sxorImm => exact .inl ⟨_, rfl⟩
  case sshlImm => exact .inl ⟨_, rfl⟩
  case sshrImm => exact .inl ⟨_, rfl⟩
  case ssarImm => exact .inl ⟨_, rfl⟩
  case smovi => exact .inl ⟨_, rfl⟩
  case sdivS => exact .inl ⟨_, rfl⟩
  case sdivU => exact .inl ⟨_, rfl⟩
  case sremS => exact .inl ⟨_, rfl⟩
  case sremU => exact .inl ⟨_, rfl⟩
  case vadd => exact .inl ⟨_, rfl⟩
  case vsub => exact .inl ⟨_, rfl⟩
  case vmullo => exact .inl ⟨_, rfl⟩
  case vmulhiS => exact .inl ⟨_, rfl⟩
  case vmulhiU => exact .inl ⟨_, rfl⟩
  case vmad => exact .inl ⟨_, rfl⟩
  case vminS => exact .inl ⟨_, rfl⟩
  case vminU => exact .inl ⟨_, rfl⟩
  case vmaxS => exact .inl ⟨_, rfl⟩
  case vmaxU => exact .inl ⟨_, rfl⟩
  case vaddsS => exact .inl ⟨_, rfl⟩
  case vaddsU => exact .inl ⟨_, rfl⟩
  case vabs => exact .inl ⟨_, rfl⟩
  case vneg => exact .inl ⟨_, rfl⟩
  case vsel => exact .inl ⟨_, rfl⟩
  case vmov => exact .inl ⟨_, rfl⟩
  case vand => exact .inl ⟨_, rfl⟩
  case vor => exact .inl ⟨_, rfl⟩
  case vxor => exact .inl ⟨_, rfl⟩
  case vandn => exact .inl ⟨_, rfl⟩
  case vnot => exact .inl ⟨_, rfl⟩
  case vshl => exact .inl ⟨_, rfl⟩
  case vshr => exact .inl ⟨_, rfl⟩
  case vsar => exact .inl ⟨_, rfl⟩
  case vrot => exact .inl ⟨_, rfl⟩
  case vclz => exact .inl ⟨_, rfl⟩
  case vpop => exact .inl ⟨_, rfl⟩
  case vbrev => exact .inl ⟨_, rfl⟩
  case vbfeU => exact .inl ⟨_, rfl⟩
  case vbfeS => exact .inl ⟨_, rfl⟩
  case vbfi => exact .inl ⟨_, rfl⟩
  case vlea => exact .inl ⟨_, rfl⟩
  case vcmp => exact .inl ⟨_, rfl⟩
  case vext8S => exact .inl ⟨_, rfl⟩
  case vext8U => exact .inl ⟨_, rfl⟩
  case vext16S => exact .inl ⟨_, rfl⟩
  case vext16U => exact .inl ⟨_, rfl⟩
  case vpack => exact .inl ⟨_, rfl⟩
  case vunpack => exact .inl ⟨_, rfl⟩
  case vaddImm => exact .inl ⟨_, rfl⟩
  case vandImm => exact .inl ⟨_, rfl⟩
  case vorImm => exact .inl ⟨_, rfl⟩
  case vxorImm => exact .inl ⟨_, rfl⟩
  case vshlImm => exact .inl ⟨_, rfl⟩
  case vshrImm => exact .inl ⟨_, rfl⟩
  case vsarImm => exact .inl ⟨_, rfl⟩
  case vmovi => exact .inl ⟨_, rfl⟩
  case vdivS => exact .inl ⟨_, rfl⟩
  case vdivU => exact .inl ⟨_, rfl⟩
  case vremS => exact .inl ⟨_, rfl⟩
  case vremU => exact .inl ⟨_, rfl⟩
  case vfadd => exact .inl ⟨_, rfl⟩
  case vfsub => exact .inl ⟨_, rfl⟩
  case vfmul => exact .inl ⟨_, rfl⟩
  case vfma => exact .inl ⟨_, rfl⟩
  case vfms => exact .inl ⟨_, rfl⟩
  case vfnma => exact .inl ⟨_, rfl⟩
  case vfminNum => exact .inl ⟨_, rfl⟩
  case vfminProp => exact .inl ⟨_, rfl⟩
  case vfmaxNum => exact .inl ⟨_, rfl⟩
  case vfmaxProp => exact .inl ⟨_, rfl⟩
  case vfabs => exact .inl ⟨_, rfl⟩
  case vfneg => exact .inl ⟨_, rfl⟩
  case vfscale => exact .inl ⟨_, rfl⟩
  case vfround => exact .inl ⟨_, rfl⟩
  case vfclass => exact .inl ⟨_, rfl⟩
  case vfcmp => exact .inl ⟨_, rfl⟩
  case vcvt => exact .inl ⟨_, rfl⟩
  case vpkE4m3 => exact .inl ⟨_, rfl⟩
  case vpkE5m2 => exact .inl ⟨_, rfl⟩
  case vpkIo4 => exact .inl ⟨_, rfl⟩
  case vunpkE4m3 => exact .inl ⟨_, rfl⟩
  case vunpkE5m2 => exact .inl ⟨_, rfl⟩
  case vunpkIo4 => exact .inl ⟨_, rfl⟩
  case vhaddF16 => exact .inl ⟨_, rfl⟩
  case vhaddBf16 => exact .inl ⟨_, rfl⟩
  case vhmulF16 => exact .inl ⟨_, rfl⟩
  case vhmulBf16 => exact .inl ⟨_, rfl⟩
  case vhfmaF16 => exact .inl ⟨_, rfl⟩
  case vhfmaBf16 => exact .inl ⟨_, rfl⟩
  case vfrcp => exact .inl ⟨_, rfl⟩
  case vfrsq => exact .inl ⟨_, rfl⟩
  case vfsqrt => exact .inl ⟨_, rfl⟩
  case vfexp2 => exact .inl ⟨_, rfl⟩
  case vflog2 => exact .inl ⟨_, rfl⟩
  case vfsin => exact .inl ⟨_, rfl⟩
  case vfcos => exact .inl ⟨_, rfl⟩
  case vfdot2Bf16 => exact .inl ⟨_, rfl⟩
  case vfdot4Fp8 => exact .inl ⟨_, rfl⟩
  case vshuf => exact .inl ⟨_, rfl⟩
  case vlrot => exact .inl ⟨_, rfl⟩
  case vscan => exact .inl ⟨_, rfl⟩
  case vscanExcl => exact .inl ⟨_, rfl⟩
  case vred => exact .inl ⟨_, rfl⟩
  case vbcast => exact .inl ⟨_, rfl⟩
  case kand => exact .inl ⟨_, rfl⟩
  case kor => exact .inl ⟨_, rfl⟩
  case kxor => exact .inl ⟨_, rfl⟩
  case knot => exact .inl ⟨_, rfl⟩
  case kmov => exact .inl ⟨_, rfl⟩
  case kpop => exact .inl ⟨_, rfl⟩
  case kfirst => exact .inl ⟨_, rfl⟩
  case vballot => exact .inl ⟨_, rfl⟩
  case vrngRd => exact .inl ⟨_, rfl⟩
  case vrngSeed => exact .inl ⟨_, rfl⟩
  case vrngStep => exact .inl ⟨_, rfl⟩
  case brZ => exact .inl ⟨_, rfl⟩
  case brNz => exact .inl ⟨_, rfl⟩
  case brLt => exact .inl ⟨_, rfl⟩
  case brGe => exact .inl ⟨_, rfl⟩
  case call => exact .inl ⟨_, rfl⟩
  case jmp => exact .inl ⟨_, rfl⟩
  case brkAny => exact .inl ⟨_, rfl⟩
  case brkNone => exact .inl ⟨_, rfl⟩
  case brd => exact .inl ⟨_, rfl⟩
  case mark => exact .inl ⟨_, rfl⟩
  case ret => exact .inl ⟨_, rfl⟩
  case jmpReg => exact .inl ⟨_, rfl⟩
  case callReg => exact .inl ⟨_, rfl⟩
  case sld => exact .inl ⟨_, rfl⟩
  case sst => exact .inl ⟨_, rfl⟩
  case vld => exact .inl ⟨_, rfl⟩
  case vst => exact .inl ⟨_, rfl⟩
  case vldg => exact .inl ⟨_, rfl⟩
  case vsts => exact .inl ⟨_, rfl⟩
  case spld => exact .inl ⟨_, rfl⟩
  case spst => exact .inl ⟨_, rfl⟩
  case cld => exact .inl ⟨_, rfl⟩
  case atomScalar => exact .inl ⟨_, rfl⟩
  case atomVector => exact .inl ⟨_, rfl⟩
  case red => exact .inl ⟨_, rfl⟩
  case redClose => exact .inl ⟨_, rfl⟩
  case fenceRel => exact .inl ⟨_, rfl⟩
  case fenceAr => exact .inl ⟨_, rfl⟩
  case cp => exact .inl ⟨_, rfl⟩
  case cpFill => exact .inl ⟨_, rfl⟩
  case cpT => exact .inl ⟨_, rfl⟩
  case stMc => exact .inl ⟨_, rfl⟩
  case pf => exact .inl ⟨_, rfl⟩
  case zclaim => exact .inl ⟨_, rfl⟩
  case zrel => exact .inl ⟨_, rfl⟩
  case zzero => exact .inl ⟨_, rfl⟩
  case oclaim => exact .inl ⟨_, rfl⟩
  case orel => exact .inl ⟨_, rfl⟩
  case oload => exact .inl ⟨_, rfl⟩
  case mmul => exact .inl ⟨_, rfl⟩
  case mloop => exact .inl ⟨_, rfl⟩
  case mdrain => exact .inl ⟨_, rfl⟩
  case mfence => exact .inl ⟨_, rfl⟩
  case mwait => exact .inl ⟨_, rfl⟩
  case mstat => exact .inl ⟨_, rfl⟩
  case tinv => exact .inl ⟨_, rfl⟩
  case tprobe => exact .inl ⟨_, rfl⟩
  case rteAnn => exact .inl ⟨_, rfl⟩
  case rteWd => exact .inl ⟨_, rfl⟩
  case rteRole => exact .inl ⟨_, rfl⟩
  case rteQ => exact .inl ⟨_, rfl⟩
  case rteSync => exact .inl ⟨_, rfl⟩
  case cobjDecl => exact .inl ⟨_, rfl⟩
  case cobjDrop => exact .inl ⟨_, rfl⟩
  case cobjSync => exact .inl ⟨_, rfl⟩
  case cobjSyncShared => exact .inl ⟨_, rfl⟩
  case cobjReclaim => exact .inl ⟨_, rfl⟩
  case tdtSet => exact .inl ⟨_, rfl⟩
  case tdtGet => exact .inl ⟨_, rfl⟩
  case tdtDrop => exact .inl ⟨_, rfl⟩
  case treeSet => exact .inl ⟨_, rfl⟩
  case launch => exact .inl ⟨_, rfl⟩
  case wlPush => exact .inl ⟨_, rfl⟩
  case wlPop => exact .inl ⟨_, rfl⟩
  case wlDone => exact .inl ⟨_, rfl⟩
  case tierRec => exact .inl ⟨_, rfl⟩
  case tierHintUp => exact .inl ⟨_, rfl⟩
  case tierHintDown => exact .inl ⟨_, rfl⟩
  case tierQ => exact .inl ⟨_, rfl⟩
  case waitc => exact .inl ⟨_, rfl⟩
  case waitF => exact .inl ⟨_, rfl⟩
  case bar => exact .inl ⟨_, rfl⟩
  case pcrd => exact .inl ⟨_, rfl⟩
  case trap => exact .inl ⟨_, rfl⟩
  case rcp => exact .inl ⟨_, rfl⟩
  case sysrd => exact .inl ⟨_, rfl⟩
  case syswr => exact .inl ⟨_, rfl⟩
  case halt => exact .inl ⟨_, rfl⟩
  case hintLit x0 => exact .inr (.inl ⟨_, rfl, by have := x0.isLt; simp only [BitVec.toNat_ofNat]; omega⟩)
  case hintLith x0 => exact .inr (.inl ⟨_, rfl, by have := x0.isLt; simp only [BitVec.toNat_ofNat]; omega⟩)
  case hintDly x0 => exact .inr (.inl ⟨_, rfl, by have := x0.isLt; simp only [BitVec.toNat_ofNat]; omega⟩)
  case hintFlg x0 => exact .inr (.inl ⟨_, rfl, by have := x0.isLt; simp only [BitVec.toNat_ofNat]; omega⟩)
  case hintRnd x0 x1 x2 => exact .inr (.inl ⟨_, rfl, by have := x0.isLt; have := x1.isLt; have := x2.isLt; simp only [BitVec.toNat_ofNat]; omega⟩)
  case hintScp x0 x1 => exact .inr (.inl ⟨_, rfl, by have := x0.isLt; have := x1.isLt; simp only [BitVec.toNat_ofNat]; omega⟩)
  case hintNop x0 x1 => exact .inr (.inl ⟨_, rfl, by have := x0.isLt; have := x1.isLt; simp only [BitVec.toNat_ofNat]; omega⟩)
  case nop => exact .inl ⟨_, rfl⟩
  case join => exact .inl ⟨_, rfl⟩
  case exit => exact .inl ⟨_, rfl⟩
  case mresume => exact .inl ⟨_, rfl⟩
  case mresumeAbandon => exact .inl ⟨_, rfl⟩
  case tret => exact .inl ⟨_, rfl⟩
  case yield => exact .inl ⟨_, rfl⟩
  case fenceAcq0 => exact .inl ⟨_, rfl⟩
  case fenceAcq1 => exact .inl ⟨_, rfl⟩
  case fenceAcq2 => exact .inl ⟨_, rfl⟩
  case fenceAcq3 => exact .inl ⟨_, rfl⟩
  case fenceAcq4 => exact .inl ⟨_, rfl⟩
  case fenceAcq5 => exact .inl ⟨_, rfl⟩
  case fenceAcq6 => exact .inl ⟨_, rfl⟩
  case fenceAcq7 => exact .inl ⟨_, rfl⟩
  case fenceAcq8 => exact .inl ⟨_, rfl⟩
  case fenceAcq9 => exact .inl ⟨_, rfl⟩
  case fenceAcq10 => exact .inl ⟨_, rfl⟩
  case fenceAcq11 => exact .inl ⟨_, rfl⟩
  case fenceAcq12 => exact .inl ⟨_, rfl⟩
  case fenceAcq13 => exact .inl ⟨_, rfl⟩
  case fenceAcq14 => exact .inl ⟨_, rfl⟩
  case fenceAcq15 => exact .inl ⟨_, rfl⟩
  case hintMsk0 => exact .inr (.inl ⟨_, rfl, by simp only [BitVec.toNat_ofNat]; omega⟩)
  case hintMsk1 => exact .inr (.inl ⟨_, rfl, by simp only [BitVec.toNat_ofNat]; omega⟩)
  case hintMsk2 => exact .inr (.inl ⟨_, rfl, by simp only [BitVec.toNat_ofNat]; omega⟩)
  case hintMsk3 => exact .inr (.inl ⟨_, rfl, by simp only [BitVec.toNat_ofNat]; omega⟩)
  case hintMsk4 => exact .inr (.inl ⟨_, rfl, by simp only [BitVec.toNat_ofNat]; omega⟩)
  case hintMsk5 => exact .inr (.inl ⟨_, rfl, by simp only [BitVec.toNat_ofNat]; omega⟩)
  case hintMsk6 => exact .inr (.inl ⟨_, rfl, by simp only [BitVec.toNat_ofNat]; omega⟩)
  case hintMsk7 => exact .inr (.inl ⟨_, rfl, by simp only [BitVec.toNat_ofNat]; omega⟩)
  case hintMsk8 => exact .inr (.inl ⟨_, rfl, by simp only [BitVec.toNat_ofNat]; omega⟩)
  case hintMsk9 => exact .inr (.inl ⟨_, rfl, by simp only [BitVec.toNat_ofNat]; omega⟩)
  case hintMsk10 => exact .inr (.inl ⟨_, rfl, by simp only [BitVec.toNat_ofNat]; omega⟩)
  case hintMsk11 => exact .inr (.inl ⟨_, rfl, by simp only [BitVec.toNat_ofNat]; omega⟩)
  case hintMsk12 => exact .inr (.inl ⟨_, rfl, by simp only [BitVec.toNat_ofNat]; omega⟩)
  case hintMsk13 => exact .inr (.inl ⟨_, rfl, by simp only [BitVec.toNat_ofNat]; omega⟩)
  case hintMsk14 => exact .inr (.inl ⟨_, rfl, by simp only [BitVec.toNat_ofNat]; omega⟩)
  case hintMsk15 => exact .inr (.inl ⟨_, rfl, by simp only [BitVec.toNat_ofNat]; omega⟩)
  case hintRet0 => exact .inr (.inl ⟨_, rfl, by simp only [BitVec.toNat_ofNat]; omega⟩)
  case hintRet1 => exact .inr (.inl ⟨_, rfl, by simp only [BitVec.toNat_ofNat]; omega⟩)
  case hintRet2 => exact .inr (.inl ⟨_, rfl, by simp only [BitVec.toNat_ofNat]; omega⟩)
  case hintRet3 => exact .inr (.inl ⟨_, rfl, by simp only [BitVec.toNat_ofNat]; omega⟩)
  case groupTurn => exact .inr (.inr rfl)
  case multiTurnComplete => exact .inr (.inr rfl)
  case blockClearComplete => exact .inr (.inr rfl)
  case groupRelease => exact .inr (.inr rfl)
  case stallTimeout => exact .inr (.inr rfl)
  case hurdlePass => exact .inr (.inr rfl)
  case groupPlacement => exact .inr (.inr rfl)
  case gangAgeExpire => exact .inr (.inr rfl)
  case recordDone => exact .inr (.inr rfl)
  case completionStore => exact .inr (.inr rfl)
  case translationWalk => exact .inr (.inr rfl)
  case tinvComplete => exact .inr (.inr rfl)
  case storeBufferDrain => exact .inr (.inr rfl)
  case writeApply => exact .inr (.inr rfl)
  case writeReadable => exact .inr (.inr rfl)
  case applyNotice => exact .inr (.inr rfl)
  case echoReceive => exact .inr (.inr rfl)
  case fillWrite => exact .inr (.inr rfl)
  case echoAckReceive => exact .inr (.inr rfl)
  case echoDeadline => exact .inr (.inr rfl)
  case leaseRenewal => exact .inr (.inr rfl)
  case renewalReceive => exact .inr (.inr rfl)
  case leaseEnd => exact .inr (.inr rfl)
  case readRequest => exact .inr (.inr rfl)
  case refusalReroute => exact .inr (.inr rfl)
  case loadComplete => exact .inr (.inr rfl)
  case storeResponse => exact .inr (.inr rfl)
  case invalidate => exact .inr (.inr rfl)
  case relayReceive => exact .inr (.inr rfl)
  case relayRefusal => exact .inr (.inr rfl)
  case routerAnswer => exact .inr (.inr rfl)
  case rteSyncDone => exact .inr (.inr rfl)
  case holderAbsent => exact .inr (.inr rfl)
  case cobjDirectoryRequest => exact .inr (.inr rfl)
  case partialFold => exact .inr (.inr rfl)
  case mergeChildArrive => exact .inr (.inr rfl)
  case mergeNodeTimeout => exact .inr (.inr rfl)
  case snoopRetry => exact .inr (.inr rfl)
  case snoopTimeout => exact .inr (.inr rfl)
  case multicastForward => exact .inr (.inr rfl)
  case auditIntervalEnd => exact .inr (.inr rfl)
  case copyStart => exact .inr (.inr rfl)
  case copyComplete => exact .inr (.inr rfl)
  case copyFault => exact .inr (.inr rfl)
  case matrixCommandComplete => exact .inr (.inr rfl)
  case matrixCommandFault => exact .inr (.inr rfl)
  case ringKick => exact .inr (.inr rfl)
  case ringReadSlot => exact .inr (.inr rfl)
  case ringRetry => exact .inr (.inr rfl)
  case contextSwitchOut => exact .inr (.inr rfl)
  case tierMoveStart => exact .inr (.inr rfl)
  case tierAnnounceAnswer => exact .inr (.inr rfl)
  case tierFillDone => exact .inr (.inr rfl)
  case tierHandoverAnswer => exact .inr (.inr rfl)
  case tierMoveEnd => exact .inr (.inr rfl)
  case tierFaultOffer => exact .inr (.inr rfl)
  case announcementRequest => exact .inr (.inr rfl)
  case announcementTimeout => exact .inr (.inr rfl)
  case faultRecordOffer => exact .inr (.inr rfl)
  case longParkSwitchout => exact .inr (.inr rfl)
  case sliceEnd => exact .inr (.inr rfl)
  case graceEnd => exact .inr (.inr rfl)
  case deadlineExpire => exact .inr (.inr rfl)
  case resetComplete => exact .inr (.inr rfl)
  case contextResident => exact .inr (.inr rfl)
  case flitReceive => exact .inr (.inr rfl)
  case laneSpare => exact .inr (.inr rfl)
  case linkFail => exact .inr (.inr rfl)
  case linkUp => exact .inr (.inr rfl)
  case sessionRekey => exact .inr (.inr rfl)
  case hostSnoop => exact .inr (.inr rfl)
  case hostMemRequest => exact .inr (.inr rfl)
  case powerOn => exact .inr (.inr rfl)
  case attest => exact .inr (.inr rfl)
  case worldCreate => exact .inr (.inr rfl)
  case worldGrant => exact .inr (.inr rfl)
  case worldRevoke => exact .inr (.inr rfl)
  case worldDestroy => exact .inr (.inr rfl)
  case partSet => exact .inr (.inr rfl)
  case ctxCreate => exact .inr (.inr rfl)
  case ctxDestroy => exact .inr (.inr rfl)
  case ctxPreempt => exact .inr (.inr rfl)
  case ringSet => exact .inr (.inr rfl)
  case ringKey => exact .inr (.inr rfl)
  case powerCompare => exact .inr (.inr rfl)
  case trayRemoveRequest => exact .inr (.inr rfl)
  case trayCancel => exact .inr (.inr rfl)
  case trayQuiesce => exact .inr (.inr rfl)
  case trayPowerOff => exact .inr (.inr rfl)
  case trayInsert => exact .inr (.inr rfl)
  case wearUpdate => exact .inr (.inr rfl)
  case partDescWrite => exact .inr (.inr rfl)
  case tqWrite => exact .inr (.inr rfl)
  case rteCostWrite => exact .inr (.inr rfl)
  case cobjQWrite => exact .inr (.inr rfl)
  case wlCfgWrite => exact .inr (.inr rfl)
  case wlReset => exact .inr (.inr rfl)
  case ringBaseWrite => exact .inr (.inr rfl)
  case ringCtlWrite => exact .inr (.inr rfl)
  case ringEnable => exact .inr (.inr rfl)
  case ringDisable => exact .inr (.inr rfl)
  case tierCfgWrite => exact .inr (.inr rfl)
  case fqDone => exact .inr (.inr rfl)
  case erqLostClear => exact .inr (.inr rfl)
  case wdogWrite => exact .inr (.inr rfl)
  case pcclr => exact .inr (.inr rfl)
  case pwrCapWrite => exact .inr (.inr rfl)
  case sysregWrite => exact .inr (.inr rfl)
  case illegalOpcode => exact .inr (.inr rfl)
  case softError => exact .inr (.inr rfl)
  case dramLineAltered => exact .inr (.inr rfl)
  case snoopReceive => exact .inr (.inr rfl)
  case snoopAnswer => exact .inr (.inr rfl)
  case itemClearComplete => exact .inr (.inr rfl)
  case tierFillRead => exact .inr (.inr rfl)
  case mailboxBadCmd => exact .inr (.inr rfl)

end Sys2Proof.Laws.Step
end

