-- ==== Sys2Proof/Tests/Slice0.lean ====
section
/-! SUPPORT. Tests: ill-formed terms that the checks refuse, words of the encoding, witnesses for the hypotheses of the
statements, and single steps with the results that the specification works out. -/

namespace Sys2Proof.Tests

open Sys2Proof Sys2Proof.Machine

set_option Elab.async false
set_option maxRecDepth 4000
set_option exponentiation.threshold 600

/-- A group at PL2 about to issue, in the state after reset. -/
def probe : State := State.reset.withFetchWord 32 0

/-! ## Well-formedness and decoding

`test_ill_formed_1` and the following: for each check of a field, an instruction that fails it. `test_decode_1` and the following: a
word of every row of the opcode table. `test_bits_1` to `test_bits_3`: words of every family, bit by bit from the encodings of the
instruction chapters (04 R66-R76). -/

theorem test_ill_formed_1 : ∀ i ∈ ([.sadd 64 0 0 0, .sadd 0 65 0 0, .sadd 0 0 65 0, .ssub 64 0 0 0, .ssub 0 65 0 0, .ssub 0 0 65 0, .smullo 64 0 0 0,
    .smullo 0 65 0 0, .smullo 0 0 65 0, .smulhiS 64 0 0 0, .smulhiS 0 65 0 0, .smulhiS 0 0 65 0, .smulhiU 64 0 0 0,
    .smulhiU 0 65 0 0, .smulhiU 0 0 65 0, .smad 64 0 0 0, .smad 0 65 0 0, .smad 0 0 65 0, .sminS 64 0 0 0,
    .sminS 0 65 0 0, .sminS 0 0 65 0, .sminU 64 0 0 0, .sminU 0 65 0 0, .sminU 0 0 65 0, .smaxS 64 0 0 0,
    .smaxS 0 65 0 0, .smaxS 0 0 65 0, .smaxU 64 0 0 0, .smaxU 0 65 0 0, .smaxU 0 0 65 0, .saddsS 64 0 0 0,
    .saddsS 0 65 0 0, .saddsS 0 0 65 0, .saddsU 64 0 0 0, .saddsU 0 65 0 0, .saddsU 0 0 65 0, .saddc 1 0 0 0,
    .saddc 0 65 0 0, .saddc 0 0 65 0, .ssubb 1 0 0 0, .ssubb 0 65 0 0, .ssubb 0 0 65 0, .sabs 64 0 0, .sabs 0 65 0,
    .sneg 64 0 0, .sneg 0 65 0, .sand 64 0 0 0, .sand 0 65 0 0] : List Instr), ¬ WellFormed i := by decide

theorem test_ill_formed_2 : ∀ i ∈ ([.sand 0 0 65 0, .sor 64 0 0 0, .sor 0 65 0 0, .sor 0 0 65 0, .sxor 64 0 0 0, .sxor 0 65 0 0, .sxor 0 0 65 0,
    .sandn 64 0 0 0, .sandn 0 65 0 0, .sandn 0 0 65 0, .snot 64 0 0, .snot 0 65 0, .sshl 64 0 0 0, .sshl 0 65 0 0,
    .sshl 0 0 65 0, .sshr 64 0 0 0, .sshr 0 65 0 0, .sshr 0 0 65 0, .ssar 64 0 0 0, .ssar 0 65 0 0, .ssar 0 0 65 0,
    .srot 64 0 0 0, .srot 0 65 0 0, .srot 0 0 65 0, .sclz 64 0 0, .sclz 0 65 0, .spop 64 0 0, .spop 0 65 0,
    .sbrev 64 0 0, .sbrev 0 65 0, .sbfeU 64 0 0 0, .sbfeU 0 65 0 0, .sbfeU 0 0 65 0, .sbfeS 64 0 0 0, .sbfeS 0 65 0 0,
    .sbfeS 0 0 65 0, .sbfi 64 0 0 0, .sbfi 0 65 0 0, .sbfi 0 0 65 0, .sunpack 64 0 0, .sunpack 0 65 0,
    .scmp 0 64 0 0 0, .scmp 0 0 65 0 0, .scmp 0 0 0 65 0, .smov 64 0 0, .smov 0 65 0, .sext8S 64 0 0, .sext8S 0 65 0] : List Instr), ¬ WellFormed i := by decide

theorem test_ill_formed_3 : ∀ i ∈ ([.sext8U 64 0 0, .sext8U 0 65 0, .sext16S 64 0 0, .sext16S 0 65 0, .sext16U 64 0 0, .sext16U 0 65 0, .slea 64 0 0,
    .slea 0 65 0, .slea 0 0 65, .ssel 64 0 0 0, .ssel 0 65 0 0, .ssel 0 0 65 0, .spack 64 0 0 0, .spack 0 65 0 0,
    .spack 0 0 65 0, .saddImm 64 0 0, .saddImm 0 65 0, .sandImm 64 0 0, .sandImm 0 65 0, .sorImm 64 0 0,
    .sorImm 0 65 0, .sxorImm 64 0 0, .sxorImm 0 65 0, .sshlImm 64 0 0, .sshlImm 0 65 0, .sshrImm 64 0 0,
    .sshrImm 0 65 0, .ssarImm 64 0 0, .ssarImm 0 65 0, .smovi 64 0, .sdivS 12 0 0 0, .sdivS 0 64 0 0, .sdivS 0 0 65 0,
    .sdivS 0 0 0 65, .sdivU 12 0 0 0, .sdivU 0 64 0 0, .sdivU 0 0 65 0, .sdivU 0 0 0 65, .sremS 12 0 0 0,
    .sremS 0 64 0 0, .sremS 0 0 65 0, .sremS 0 0 0 65, .sremU 12 0 0 0, .sremU 0 64 0 0, .sremU 0 0 65 0,
    .sremU 0 0 0 65, .vlea 1 0 0 0, .vlea 0 84 0 0] : List Instr), ¬ WellFormed i := by decide

theorem test_ill_formed_4 : ∀ i ∈ ([.vcmp 2 0 2 2 0, .vdivS 12 0 0 0, .vdivU 12 0 0 0, .vremS 12 0 0 0, .vremU 12 0 0 0, .vfcmp 2 0 2 2 0,
    .vcvt 2 4 1 2, .vcvt 8 4 1 8, .vpkE4m3 0 1 0 0, .vpkE5m2 0 1 0 0, .vpkIo4 0 1 0 0, .vunpkE4m3 1 0 0 0,
    .vunpkE5m2 1 0 0 0, .vunpkIo4 1 0 0 0, .vfrcp 12 0 0, .vfrsq 12 0 0, .vfsqrt 12 0 0, .vfexp2 12 0 0,
    .vflog2 12 0 0, .vfsin 12 0 0, .vfcos 12 0 0, .vfdot2Bf16 12 0 0 0, .vfdot4Fp8 12 0 0 0, .vshuf 12 0 0 0,
    .vlrot 12 0 0 0, .vlrot 0 0 0 65, .vscan 12 0 0 0, .vscan 0 0 0 9, .vscanExcl 12 0 0 0, .vscanExcl 0 0 0 9,
    .vred 12 0 0 0, .vred 0 64 0 0, .vred 0 0 0 9, .vbcast 12 0 0 0, .vbcast 0 0 0 65, .kand 0 2 2, .kand 2 16 2,
    .kand 2 2 16, .kor 0 2 2, .kor 2 16 2, .kor 2 2 16, .kxor 0 2 2, .kxor 2 16 2, .kxor 2 2 16, .knot 0 2, .knot 2 16,
    .kmov 0 2, .kmov 2 16] : List Instr), ¬ WellFormed i := by decide

theorem test_ill_formed_5 : ∀ i ∈ ([.kpop 64 0, .kpop 0 16, .kfirst 64 0, .kfirst 0 16, .vballot 64 0, .sld 7 0 0 0 0, .sld 0 64 0 0 0,
    .sst 0 65 0 0 0, .vld 6 0 0 0 0, .vldg 6 2 8 4 2, .vldg 4 4 8 4 2, .vldg 4 2 8 2 2, .spld 6 0 0 0 0,
    .spld 0 0 0 0 12, .cld 0 64 0 0 0, .atomScalar 17 0 0 0 0, .atomScalar 0 0 0 0 2, .atomVector 17 0 0 0 0,
    .atomVector 0 1 0 0 0, .atomVector 0 0 0 2 0, .atomVector 0 0 0 0 1, .red 1 0 0, .red 0 0 13, .fenceRel 6,
    .fenceAr 6, .cpT 0 0 1, .stMc 1 0 0, .pf 0 3 0, .mmul 12 0 0, .mloop 12 0 0 0, .mdrain 12 0 0 0, .tinv 0 0 0 3,
    .rteQ 0 0 3, .rteSync 0 2, .cobjSync 63 0, .treeSet 0 1 0, .wlPush 0 1 0, .wlPop 1 0 0 0, .bar 0 0, .pcrd 0 16,
    .syswr 65 0, .fenceAcq6, .fenceAcq7, .fenceAcq8, .fenceAcq9, .fenceAcq10, .fenceAcq11, .fenceAcq12] : List Instr), ¬ WellFormed i := by decide

theorem test_ill_formed_6 : ∀ i ∈ ([.fenceAcq13, .fenceAcq14, .fenceAcq15] : List Instr), ¬ WellFormed i := by decide

theorem test_decode_1 : ∀ p ∈ ([(0x04000000, .nop), (0x0800830A, .sadd 1 3 5 0), (0x0840830A, .ssub 1 3 5 0), (0x0880830A, .smullo 1 3 5 0),
    (0x08C0830A, .smulhiS 1 3 5 0), (0x0900830A, .smulhiU 1 3 5 0), (0x0940830A, .smad 1 3 5 0),
    (0x0980830A, .sminS 1 3 5 0), (0x09C0830A, .sminU 1 3 5 0), (0x0A00830A, .smaxS 1 3 5 0),
    (0x0A40830A, .smaxU 1 3 5 0), (0x0A80830A, .saddsS 1 3 5 0), (0x0AC0830A, .saddsU 1 3 5 0),
    (0x0B00030A, .saddc 0 3 5 0), (0x0B40030A, .ssubb 0 3 5 0), (0x0B808300, .sabs 1 3 0), (0x0BC08300, .sneg 1 3 0),
    (0x0C00830A, .sand 1 3 5 0), (0x0C40830A, .sor 1 3 5 0), (0x0C80830A, .sxor 1 3 5 0), (0x0CC0830A, .sandn 1 3 5 0),
    (0x0D008300, .snot 1 3 0), (0x0D40830A, .sshl 1 3 5 0), (0x0D80830A, .sshr 1 3 5 0), (0x0DC0830A, .ssar 1 3 5 0),
    (0x0E00830A, .srot 1 3 5 0), (0x0E408300, .sclz 1 3 0), (0x0E808300, .spop 1 3 0), (0x0EC08300, .sbrev 1 3 0),
    (0x0F00830A, .sbfeU 1 3 5 0), (0x0F40830A, .sbfeS 1 3 5 0), (0x0F80830A, .sbfi 1 3 5 0),
    (0x0FC08300, .sunpack 1 3 0), (0x1001850E, .scmp 0 3 5 7 0), (0x12008300, .smov 1 3 0),
    (0x12408300, .sext8S 1 3 0), (0x12808300, .sext8U 1 3 0), (0x12C08300, .sext16S 1 3 0),
    (0x13008300, .sext16U 1 3 0), (0x1340830A, .slea 1 3 5)] : List (Word × Instr)),
    decodeWord p.1 = some p.2 := by decide

theorem test_decode_2 : ∀ p ∈ ([(0x1380830A, .ssel 1 3 5 0), (0x13C0830A, .spack 1 3 5 0), (0x14010605, .saddImm 1 3 5),
    (0x14810605, .sandImm 1 3 5), (0x15010605, .sorImm 1 3 5), (0x15810605, .sxorImm 1 3 5),
    (0x16010605, .sshlImm 1 3 5), (0x16810605, .sshrImm 1 3 5), (0x17010605, .ssarImm 1 3 5), (0x17810003, .smovi 1 3),
    (0x1801850E, .sdivS 0 3 5 7), (0x1801850F, .sdivU 0 3 5 7), (0x1C01850E, .sremS 0 3 5 7),
    (0x1C01850F, .sremU 0 3 5 7), (0x2000830A, .vadd 1 3 5 0), (0x2040830A, .vsub 1 3 5 0),
    (0x2080830A, .vmullo 1 3 5 0), (0x20C0830A, .vmulhiS 1 3 5 0), (0x2100830A, .vmulhiU 1 3 5 0),
    (0x2140830A, .vmad 1 3 5 0), (0x2180830A, .vminS 1 3 5 0), (0x21C0830A, .vminU 1 3 5 0),
    (0x2200830A, .vmaxS 1 3 5 0), (0x2240830A, .vmaxU 1 3 5 0), (0x2280830A, .vaddsS 1 3 5 0),
    (0x22C0830A, .vaddsU 1 3 5 0), (0x23008006, .vabs 1 3 0), (0x23408006, .vneg 1 3 0), (0x2380830A, .vsel 1 3 5 0),
    (0x23C08006, .vmov 1 3 0), (0x2400830A, .vand 1 3 5 0), (0x2440830A, .vor 1 3 5 0), (0x2480830A, .vxor 1 3 5 0),
    (0x24C0830A, .vandn 1 3 5 0), (0x25008006, .vnot 1 3 0), (0x2540830A, .vshl 1 3 5 0), (0x2580830A, .vshr 1 3 5 0),
    (0x25C0830A, .vsar 1 3 5 0), (0x2600830A, .vrot 1 3 5 0), (0x26408006, .vclz 1 3 0)] : List (Word × Instr)),
    decodeWord p.1 = some p.2 := by decide

theorem test_decode_3 : ∀ p ∈ ([(0x26808006, .vpop 1 3 0), (0x26C08006, .vbrev 1 3 0), (0x2700830A, .vbfeU 1 3 5 0), (0x2740830A, .vbfeS 1 3 5 0),
    (0x2780830A, .vbfi 1 3 5 0), (0x27C0030A, .vlea 0 3 5 0), (0x28810712, .vcmp 2 2 7 9 0),
    (0x2A008006, .vext8S 1 3 0), (0x2A408006, .vext8U 1 3 0), (0x2A808006, .vext16S 1 3 0),
    (0x2AC08006, .vext16U 1 3 0), (0x2B00830A, .vpack 1 3 5 0), (0x2B408006, .vunpack 1 3 0),
    (0x2C010605, .vaddImm 1 3 5), (0x2C810605, .vandImm 1 3 5), (0x2D010605, .vorImm 1 3 5),
    (0x2D810605, .vxorImm 1 3 5), (0x2E010605, .vshlImm 1 3 5), (0x2E810605, .vshrImm 1 3 5),
    (0x2F010605, .vsarImm 1 3 5), (0x2F810003, .vmovi 1 3), (0x3001850E, .vdivS 0 3 5 7), (0x3001850F, .vdivU 0 3 5 7),
    (0x3401850E, .vremS 0 3 5 7), (0x3401850F, .vremU 0 3 5 7), (0x4000830A, .vfadd 1 3 5 0),
    (0x4040830A, .vfsub 1 3 5 0), (0x4080830A, .vfmul 1 3 5 0), (0x40C0830A, .vfma 1 3 5 0),
    (0x4100830A, .vfms 1 3 5 0), (0x4140830A, .vfnma 1 3 5 0), (0x4180830A, .vfminNum 1 3 5 0),
    (0x41C0830A, .vfminProp 1 3 5 0), (0x4200830A, .vfmaxNum 1 3 5 0), (0x4240830A, .vfmaxProp 1 3 5 0),
    (0x42808006, .vfabs 1 3 0), (0x42C08006, .vfneg 1 3 0), (0x4300830A, .vfscale 1 3 5 0),
    (0x43408006, .vfround 1 3 0), (0x43808006, .vfclass 1 3 0)] : List (Word × Instr)),
    decodeWord p.1 = some p.2 := by decide

theorem test_decode_4 : ∀ p ∈ ([(0x44810712, .vfcmp 2 2 7 9 0), (0x4A038604, .vcvt 8 7 6 2), (0x4C00800A, .vpkE4m3 1 0 5 0),
    (0x4C40800A, .vpkE5m2 1 0 5 0), (0x4C80800A, .vpkIo4 1 0 5 0), (0x4CC0030A, .vunpkE4m3 0 3 5 0),
    (0x4D00030A, .vunpkE5m2 0 3 5 0), (0x4D40030A, .vunpkIo4 0 3 5 0), (0x5000830A, .vhaddF16 1 3 5 0),
    (0x5040830A, .vhaddBf16 1 3 5 0), (0x5080830A, .vhmulF16 1 3 5 0), (0x50C0830A, .vhmulBf16 1 3 5 0),
    (0x5100830A, .vhfmaF16 1 3 5 0), (0x5140830A, .vhfmaBf16 1 3 5 0), (0x54018500, .vfrcp 0 3 5),
    (0x54018502, .vfrsq 0 3 5), (0x54018504, .vfsqrt 0 3 5), (0x54018506, .vfexp2 0 3 5), (0x54018508, .vflog2 0 3 5),
    (0x5401850A, .vfsin 0 3 5), (0x5401850C, .vfcos 0 3 5), (0x5801850E, .vfdot2Bf16 0 3 5 7),
    (0x5801850F, .vfdot4Fp8 0 3 5 7), (0x6001850E, .vshuf 0 3 5 7), (0x6001850F, .vlrot 0 3 5 7),
    (0x6401850E, .vscan 0 3 5 7), (0x6401850F, .vscanExcl 0 3 5 7), (0x6801850E, .vred 0 3 5 7),
    (0x6801850F, .vbcast 0 3 5 7), (0x6C01050E, .kand 2 5 7), (0x6C41050E, .kor 2 5 7), (0x6C81050E, .kxor 2 5 7),
    (0x6CC10500, .knot 2 5), (0x6D010500, .kmov 2 5), (0x6D408300, .kpop 1 3), (0x6D808300, .kfirst 1 3),
    (0x6DC08006, .vballot 1 3), (0x6E008000, .vrngRd 1), (0x6E008106, .vrngSeed 1 3 0), (0x6E008200, .vrngStep 1)] : List (Word × Instr)),
    decodeWord p.1 = some p.2 := by decide

theorem test_decode_5 : ∀ p ∈ ([(0x70020003, .brZ 1 3), (0x70820003, .brNz 1 3), (0x71020003, .brLt 1 3), (0x71820003, .brGe 1 3),
    (0x72020003, .call 1 3), (0x72800001, .jmp 1), (0x74000003, .brkAny 0 3), (0x74800003, .brkNone 0 3),
    (0x75000003, .brd 0 3), (0x75800001, .mark 1), (0x76000000, .join), (0x78004000, .ret 1), (0x78104000, .jmpReg 1),
    (0x78204300, .callReg 1 3), (0x78300000, .exit), (0x8003141C, .sld 0 3 5 7 0), (0x8403141C, .sst 0 3 5 7 0),
    (0x8803141C, .vld 0 3 5 7 0), (0x8C03141C, .vst 0 3 5 7 0), (0x92023424, .vldg 4 2 13 4 2),
    (0x94031438, .vsts 0 3 5 7 0), (0x98031470, .spld 0 3 5 7 0), (0x9C03141C, .spst 0 3 5 7),
    (0x9E03141C, .cld 0 3 5 7 0), (0xA010C51C, .atomScalar 1 3 5 7 0), (0xA4100140, .atomVector 1 0 5 0 0),
    (0xA80000C0, .red 0 3 0), (0xA8104300, .redClose 1 3), (0xAC000000, .fenceAcq0), (0xAC010000, .fenceAcq1),
    (0xAC020000, .fenceAcq2), (0xAC030000, .fenceAcq3), (0xAC040000, .fenceAcq4), (0xAC050000, .fenceAcq5),
    (0xAC060000, .fenceAcq6), (0xAC070000, .fenceAcq7), (0xAC080000, .fenceAcq8), (0xAC090000, .fenceAcq9),
    (0xAC0A0000, .fenceAcq10), (0xAC0B0000, .fenceAcq11)] : List (Word × Instr)),
    decodeWord p.1 = some p.2 := by decide

theorem test_decode_6 : ∀ p ∈ ([(0xAC0C0000, .fenceAcq12), (0xAC0D0000, .fenceAcq13), (0xAC0E0000, .fenceAcq14), (0xAC0F0000, .fenceAcq15),
    (0xAC100000, .fenceRel 0), (0xAC200000, .fenceAr 0), (0xB0004314, .cp 1 3 5 0 0), (0xB0104314, .cpFill 1 3 5),
    (0xB02020C0, .cpT 1 3 0), (0xB4000305, .stMc 0 3 5), (0xB4104000, .pf 1 0 0), (0xB8004003, .zclaim 1 3),
    (0xB8100001, .zrel 1), (0xB8200001, .zzero 1), (0xB8304003, .oclaim 1 3), (0xB8400001, .orel 1),
    (0xBC000C50, .oload 0 3 5), (0xBC100000, .mmul 0 0 0), (0xBC200614, .mloop 0 3 5 0), (0xBC300628, .mdrain 0 3 5 0),
    (0xC0004000, .mfence 1), (0xC0100100, .mwait 1), (0xC0200000, .mresume), (0xC0200001, .mresumeAbandon),
    (0xC0304000, .mstat 1), (0xC8004314, .tinv 1 3 5 0), (0xC8104300, .tprobe 1 3 0), (0xC8204314, .rteAnn 1 3 5),
    (0xC8304314, .rteWd 1 3 5), (0xC8404314, .rteRole 1 3 5), (0xC8504300, .rteQ 1 3 0), (0xC8641400, .rteSync 4 5),
    (0xCC004305, .cobjDecl 1 3 5), (0xCC104003, .cobjDrop 1 3), (0xCC204003, .cobjSync 1 3),
    (0xCC204103, .cobjSyncShared 1 3), (0xCC304003, .cobjReclaim 1 3), (0xCC404305, .tdtSet 1 3 5),
    (0xCC504005, .tdtGet 1 0 5), (0xCC600001, .tdtDrop 1)] : List (Word × Instr)),
    decodeWord p.1 = some p.2 := by decide

theorem test_decode_7 : ∀ p ∈ ([(0xCC704005, .treeSet 1 0 5), (0xD0004300, .launch 1 3), (0xD010400A, .wlPush 1 0 5), (0xD020018A, .wlPop 0 3 5 0),
    (0xD0300001, .wlDone 1), (0xD0404314, .tierRec 1 3 5), (0xD0504314, .tierHintUp 1 3 5),
    (0xD0504315, .tierHintDown 1 3 5), (0xD0604300, .tierQ 1 3), (0xD4004314, .waitc 1 3 5), (0xD4100001, .waitF 1),
    (0xD4240000, .bar 2 0), (0xD4304003, .pcrd 1 3), (0xD8000001, .trap 1), (0xD8100000, .tret), (0xD8200001, .rcp 1),
    (0xD8300000, .yield), (0xD8404003, .sysrd 1 3), (0xD8502003, .syswr 1 3), (0xD8604300, .halt 1 3),
    (0xF8000001, .hintLit 1), (0xF8400001, .hintLith 1), (0xF8800001, .hintDly 1), (0xF8C00001, .hintFlg 1),
    (0xF9000000, .hintMsk0), (0xF9000001, .hintMsk1), (0xF9000002, .hintMsk2), (0xF9000003, .hintMsk3),
    (0xF9000004, .hintMsk4), (0xF9000005, .hintMsk5), (0xF9000006, .hintMsk6), (0xF9000007, .hintMsk7),
    (0xF9000008, .hintMsk8), (0xF9000009, .hintMsk9), (0xF900000A, .hintMsk10), (0xF900000B, .hintMsk11),
    (0xF900000C, .hintMsk12), (0xF900000D, .hintMsk13), (0xF900000E, .hintMsk14), (0xF900000F, .hintMsk15)] : List (Word × Instr)),
    decodeWord p.1 = some p.2 := by decide

theorem test_decode_8 : ∀ p ∈ ([(0xF9400000, .hintRnd 0 0 0), (0xF9800000, .hintRet0), (0xF9800001, .hintRet1), (0xF9800002, .hintRet2),
    (0xF9800003, .hintRet3), (0xF9C00000, .hintScp 0 0), (0xFB000003, .hintNop 0 3)] : List (Word × Instr)),
    decodeWord p.1 = some p.2 := by decide

theorem test_bits_1 : ∀ p ∈ ([(0b000001_00000000000000000000000000, .nop), (0b000010_0000_0000011_0000100_0000101_0, .sadd 3 4 5 0),
    (0b000010_0100_0000111_0001000_0001001_1, .smulhiU 7 8 9 1),
    (0b000100_0_111_0000001_0000010_1001100_1, .scmp 7 1 2 76 1),
    (0b000101_111_0000001_0000000_111111011, .smovi 1 0x1FB),
    (0b000110_0011_0001010_0001011_0001100_1, .sdivU 3 10 11 12),
    (0b001001_1111_0010100_0000100_0001001_0, .vlea 20 4 9 0),
    (0b001010_0_010_0000011_0000100_0000010_1, .vcmp 2 3 4 2 1),
    (0b010000_0011_0001010_0000010_0000111_1, .vfma 10 2 7 1),
    (0b010010_0010_0001000_0000010_0000000_0, .vcvt 2 8 2 0),
    (0b010110_0001_0001100_0000100_0000101_1, .vfdot4Fp8 1 12 4 5),
    (0b011010_0100_0000110_0000010_0000001_0, .vred 4 6 2 1)] : List (Word × Instr)),
    decodeWord p.1 = some p.2 := by decide

theorem test_bits_2 : ∀ p ∈ ([(0b011011_0000_0000011_0000001_0000010_0, .kand 3 1 2), (0b011100_010_001001_11111111111111100, .brLt 9 0x1FFFC),
    (0b011101_001_0000_1111111111111111110, .brkNone 0 0x7FFFE), (0b011110_000000_111110_00000000000000, .ret 62),
    (0b100000_110_0000110_000100_00000000_01, .sld 6 6 4 0 1),
    (0b100101_0_10_0001001_000100_0000111_10_0, .vsts 2 9 4 7 2),
    (0b101000_000000_001001_000100_000101_01, .atomScalar 0 9 4 5 1),
    (0b101010_000000_0010100_0000100_0010_00, .red 20 4 2), (0b101011_000001_0011_0000000000000000, .fenceRel 3),
    (0b101100_000010_0000110_0000101_001010, .cpT 6 5 10), (0b101101_000000_000100_000110_00000010, .stMc 4 6 2),
    (0b101110_000000_000101_00_000000000001, .zclaim 5 1)] : List (Word × Instr)),
    decodeWord p.1 = some p.2 := by decide

theorem test_bits_3 : ∀ p ∈ ([(0b101111_000010_0000_0000101_0000110_10, .mloop 0 5 6 2), (0b110000_000011_000111_00000000000000, .mstat 7),
    (0b110010_000000_000100_000101_000110_01, .tinv 4 5 6 1),
    (0b110010_000100_001000_000100_000111_00, .rteRole 8 4 7),
    (0b110011_000010_001000_000001_00000011, .cobjSyncShared 8 3),
    (0b110100_000000_001000_000100_00000000, .launch 8 4), (0b110100_000110_001001_000100_00000000, .tierQ 9 4),
    (0b110101_000010_010_1_0000000000000000, .bar 2 1), (0b110110_000100_001001_00_000000010000, .sysrd 9 0x010),
    (0b110110_00000100000000000000000000, .tret), (0b111110_0000_1111111111111111111110, .hintLit 0x3FFFFE),
    (0b111110_01010000000000000000_01_1_001, .hintRnd 1 1 1)] : List (Word × Instr)),
    decodeWord p.1 = some p.2 := by decide

/-! ## Witnesses: the hypotheses of the statements hold together somewhere

`test_ready_1` to the last of that name give a state in which each encoded instruction is ready, which is the one hypothesis of the
statements of the integer, float and mask families. -/

theorem test_ready_1 : ∀ i ∈ ([.sadd 0 0 0 0, .ssub 0 0 0 0, .smullo 0 0 0 0, .smulhiS 0 0 0 0, .smulhiU 0 0 0 0, .smad 0 0 0 0, .sminS 0 0 0 0,
    .sminU 0 0 0 0, .smaxS 0 0 0 0, .smaxU 0 0 0 0, .saddsS 0 0 0 0, .saddsU 0 0 0 0, .saddc 0 0 0 0, .ssubb 0 0 0 0,
    .sabs 0 0 0, .sneg 0 0 0, .sand 0 0 0 0, .sor 0 0 0 0, .sxor 0 0 0 0, .sandn 0 0 0 0, .snot 0 0 0, .sshl 0 0 0 0,
    .sshr 0 0 0 0, .ssar 0 0 0 0, .srot 0 0 0 0, .sclz 0 0 0, .spop 0 0 0, .sbrev 0 0 0, .sbfeU 0 0 0 0, .sbfeS 0 0 0 0] : List Instr), WellFormed i ∧ Ready i probe := by decide

theorem test_ready_2 : ∀ i ∈ ([.sbfi 0 0 0 0, .sunpack 0 0 0, .scmp 0 0 0 0 0, .smov 0 0 0, .sext8S 0 0 0, .sext8U 0 0 0, .sext16S 0 0 0,
    .sext16U 0 0 0, .slea 0 0 0, .ssel 0 0 0 0, .spack 0 0 0 0, .saddImm 0 0 0, .sandImm 0 0 0, .sorImm 0 0 0,
    .sxorImm 0 0 0, .sshlImm 0 0 0, .sshrImm 0 0 0, .ssarImm 0 0 0, .smovi 0 0, .sdivS 0 0 0 0, .sdivU 0 0 0 0,
    .sremS 0 0 0 0, .sremU 0 0 0 0, .vadd 0 0 0 0, .vsub 0 0 0 0, .vmullo 0 0 0 0, .vmulhiS 0 0 0 0, .vmulhiU 0 0 0 0,
    .vmad 0 0 0 0, .vminS 0 0 0 0] : List Instr), WellFormed i ∧ Ready i probe := by decide

theorem test_ready_3 : ∀ i ∈ ([.vminU 0 0 0 0, .vmaxS 0 0 0 0, .vmaxU 0 0 0 0, .vaddsS 0 0 0 0, .vaddsU 0 0 0 0, .vabs 0 0 0, .vneg 0 0 0,
    .vsel 0 0 0 0, .vmov 0 0 0, .vand 0 0 0 0, .vor 0 0 0 0, .vxor 0 0 0 0, .vandn 0 0 0 0, .vnot 0 0 0, .vshl 0 0 0 0,
    .vshr 0 0 0 0, .vsar 0 0 0 0, .vrot 0 0 0 0, .vclz 0 0 0, .vpop 0 0 0, .vbrev 0 0 0, .vbfeU 0 0 0 0,
    .vbfeS 0 0 0 0, .vbfi 0 0 0 0, .vlea 0 0 0 0, .vcmp 2 2 2 2 0, .vext8S 0 0 0, .vext8U 0 0 0, .vext16S 0 0 0,
    .vext16U 0 0 0] : List Instr), WellFormed i ∧ Ready i probe := by decide

theorem test_ready_4 : ∀ i ∈ ([.vpack 0 0 0 0, .vunpack 0 0 0, .vaddImm 0 0 0, .vandImm 0 0 0, .vorImm 0 0 0, .vxorImm 0 0 0, .vshlImm 0 0 0,
    .vshrImm 0 0 0, .vsarImm 0 0 0, .vmovi 0 0, .vdivS 0 0 0 0, .vdivU 0 0 0 0, .vremS 0 0 0 0, .vremU 0 0 0 0,
    .vfadd 0 0 0 0, .vfsub 0 0 0 0, .vfmul 0 0 0 0, .vfma 0 0 0 0, .vfms 0 0 0 0, .vfnma 0 0 0 0, .vfminNum 0 0 0 0,
    .vfminProp 0 0 0 0, .vfmaxNum 0 0 0 0, .vfmaxProp 0 0 0 0, .vfabs 0 0 0, .vfneg 0 0 0, .vfscale 0 0 0 0,
    .vfround 0 0 0, .vfclass 0 0 0, .vfcmp 2 2 2 2 0] : List Instr), WellFormed i ∧ Ready i probe := by decide

theorem test_ready_5 : ∀ i ∈ ([.vcvt 8 4 1 2, .vpkE4m3 0 0 0 0, .vpkE5m2 0 0 0 0, .vpkIo4 0 0 0 0, .vunpkE4m3 0 0 0 0, .vunpkE5m2 0 0 0 0,
    .vunpkIo4 0 0 0 0, .vhaddF16 0 0 0 0, .vhaddBf16 0 0 0 0, .vhmulF16 0 0 0 0, .vhmulBf16 0 0 0 0, .vhfmaF16 0 0 0 0,
    .vhfmaBf16 0 0 0 0, .vfrcp 0 0 0, .vfrsq 0 0 0, .vfsqrt 0 0 0, .vfexp2 0 0 0, .vflog2 0 0 0, .vfsin 0 0 0,
    .vfcos 0 0 0, .vfdot2Bf16 0 0 0 0, .vfdot4Fp8 0 0 0 0, .vshuf 0 0 0 0, .vlrot 0 0 0 0, .vscan 0 0 0 0,
    .vscanExcl 0 0 0 0, .vred 0 0 0 0, .vbcast 0 0 0 0, .kand 2 2 2, .kor 2 2 2] : List Instr), WellFormed i ∧ Ready i probe := by decide

theorem test_ready_6 : ∀ i ∈ ([.kxor 2 2 2, .knot 2 2, .kmov 2 2, .kpop 0 0, .kfirst 0 0, .vballot 0 0, .vrngRd 0, .vrngSeed 0 0 0, .vrngStep 0,
    .brZ 0 0, .brNz 0 0, .brLt 0 0, .brGe 0 0, .call 0 0, .jmp 0, .brkAny 0 0, .brkNone 0 0, .brd 0 0, .mark 0, .ret 0,
    .jmpReg 0, .callReg 0 0, .sld 0 0 0 0 0, .sst 0 0 0 0 0, .vld 0 0 0 0 0, .vst 0 0 0 0 0, .vldg 4 2 8 4 2,
    .vsts 0 0 0 0 0, .spld 0 0 0 0 0, .spst 0 0 0 0] : List Instr), WellFormed i ∧ Ready i probe := by decide

theorem test_ready_7 : ∀ i ∈ ([.cld 0 0 0 0 0, .atomScalar 0 0 0 0 0, .atomVector 0 0 0 0 0, .red 0 0 0, .redClose 0 0, .fenceRel 0, .fenceAr 0,
    .cp 0 0 0 0 0, .cpFill 0 0 0, .cpT 0 0 0, .stMc 0 0 0, .pf 0 0 0, .zclaim 0 0, .zrel 0, .zzero 0, .oclaim 0 0,
    .orel 0, .oload 0 0 0, .mmul 0 0 0, .mloop 0 0 0 0, .mdrain 0 0 0 0, .mfence 0, .mwait 0, .mstat 0, .tinv 0 0 0 0,
    .tprobe 0 0 0, .rteAnn 0 0 0, .rteWd 0 0 0, .rteRole 0 0 0, .rteQ 0 0 0] : List Instr), WellFormed i ∧ Ready i probe := by decide

theorem test_ready_8 : ∀ i ∈ ([.rteSync 4 2, .cobjDecl 0 0 0, .cobjDrop 0 0, .cobjSync 0 0, .cobjSyncShared 0 0, .cobjReclaim 0 0, .tdtSet 0 0 0,
    .tdtGet 0 0 0, .tdtDrop 0, .treeSet 0 0 0, .launch 0 0, .wlPush 0 0 0, .wlPop 0 0 0 0, .wlDone 0, .tierRec 0 0 0,
    .tierHintUp 0 0 0, .tierHintDown 0 0 0, .tierQ 0 0, .waitc 0 0 0, .waitF 0, .bar 2 0, .pcrd 0 0, .trap 0, .rcp 0,
    .sysrd 0 0, .syswr 0 0, .halt 0 0, .nop, .join, .exit] : List Instr), WellFormed i ∧ Ready i probe := by decide

theorem test_ready_9 : ∀ i ∈ ([.mresume, .mresumeAbandon, .tret, .yield, .fenceAcq0, .fenceAcq1, .fenceAcq2, .fenceAcq3, .fenceAcq4, .fenceAcq5] : List Instr), WellFormed i ∧ Ready i probe := by decide

/-- The group's control changed. -/
def ctl (f : Ctl → Ctl) (s : State) : State := s.modCtl f

/-- Two live splits. -/
def two : State := ctl (fun c => c.setSplit 1 { Split.free with live := true, pc := 8, mask := 3 }) probe

/-- Four live splits. -/
def four : State :=
  let sp : Split := { Split.free with live := true, mask := 15 }
  ctl (fun c => (((c.setSplit 0 sp).setSplit 1 sp).setSplit 2 sp).setSplit 3 sp) probe

/-- A rejoin stack. -/
def stacked (l : List RjEntry) (s : State) : State := ctl (fun c => { c with stack := l }) s

/-- `k1` holds the low four lanes, `k2` none. -/
def masked (s : State) : State := (s.setKreg 1 15).setKreg 2 0

theorem test_meets_scan_codes : redOp 0 ≠ none ∧ Ready (.vscan 1 2 3 0) probe ∧ Ready (.vred 1 2 3 0) probe := by decide

theorem test_meets_divergence :
    (Ready (.mark 5) probe ∧ probe.cur.ctl.live.length ≤ 1 ∧ probe.cur.ctl.stack.length < 8) ∧
    (Ready (.mark 5) two ∧ 1 < two.cur.ctl.live.length) ∧
    (let s := stacked (List.replicate 8 ⟨1, 0⟩) probe; Ready (.mark 5) s ∧ s.cur.ctl.live.length ≤ 1 ∧ 8 ≤ s.cur.ctl.stack.length) ∧
    (let s := masked probe; Ready (.brd 0 5) s ∧ s.split.mask &&& ~~~(s.split.mask &&& s.kreg 0) = 0) ∧
    (let s := masked probe; Ready (.brd 2 5) s ∧ s.split.mask &&& ~~~(s.split.mask &&& s.kreg 2) ≠ 0 ∧ s.split.mask &&& s.kreg 2 = 0) ∧
    (let s := masked probe; Ready (.brd 1 5) s ∧ s.split.mask &&& ~~~(s.split.mask &&& s.kreg 1) ≠ 0 ∧
      s.split.mask &&& s.kreg 1 ≠ 0 ∧ (s.cur.ctl.split 1).live = false ∧ ∀ m : Fin 4, m < 1 → (s.cur.ctl.split m).live = true) ∧
    (let s := four.setKreg 1 3; Ready (.brd 1 5) s ∧ s.split.mask &&& ~~~(s.split.mask &&& s.kreg 1) ≠ 0 ∧
      s.split.mask &&& s.kreg 1 ≠ 0 ∧ (∀ n, (s.cur.ctl.split n).live = true) ∧ s.cur.ctl.stack.length ≤ 6) ∧
    (let s := stacked (List.replicate 7 ⟨1, 0⟩) (four.setKreg 1 3); Ready (.brd 1 5) s ∧
      s.split.mask &&& ~~~(s.split.mask &&& s.kreg 1) ≠ 0 ∧ s.split.mask &&& s.kreg 1 ≠ 0 ∧
      (∀ n, (s.cur.ctl.split n).live = true) ∧ 6 < s.cur.ctl.stack.length) := by
  refine ⟨?_, ?_, ?_, ?_, ?_, ?_, ?_, ?_⟩ <;> decide

theorem test_meets_rejoining :
    (Ready .join probe ∧ probe.cur.ctl.stack = []) ∧
    (let e : RjEntry := ⟨3, 3⟩; e.kind = 3 ∧ e.owner = probe.cur.ctl.iss.val ∧ e.payload.getLsbD 34 = false ∧
      Ready .join (stacked [e, ⟨2, 9⟩] probe)) ∧
    (let e : RjEntry := ⟨3, BitVec.ofNat 46 (2 ^ 34)⟩; e.kind = 3 ∧ e.owner = probe.cur.ctl.iss.val ∧ e.payload.getLsbD 34 = true ∧
      Ready .join (stacked [e, ⟨2, 9⟩] probe)) ∧
    (let e : RjEntry := ⟨3, BitVec.ofNat 46 (2 ^ 32)⟩; e.kind = 3 ∧ e.owner ≠ probe.cur.ctl.iss.val ∧
      Ready .join (stacked [e, ⟨2, 9⟩] probe)) ∧
    (let e : RjEntry := ⟨1, 0⟩; e.kind = 1 ∧ e.payload.setWidth 48 * 4 = probe.pc ∧ Ready .join (stacked [e] probe) ∧
      (stacked [e] probe).cur.ctl.live.length ≤ 1 ∧ 1 < (stacked [e] two).cur.ctl.live.length ∧ Ready .join (stacked [e] two)) ∧
    (let e : RjEntry := ⟨1, 7⟩; e.kind ≠ 3 ∧ ¬ (e.kind = 1 ∧ e.payload.setWidth 48 * 4 = probe.pc) ∧ Ready .join (stacked [e] probe)) := by
  refine ⟨?_, ?_, ?_, ?_, ?_, ?_⟩ <;> decide

/-- Eight hints of the bundle have issued. -/
def hinted8 : State := probe.modSplit (fun sp => { sp with bundle := { sp.bundle with active := true, count := 8 } })

theorem test_meets_hints : probe.hints.count < 8 ∧ 8 ≤ hinted8.hints.count ∧
    (∃ w, encode (.hintDly 63) = some w ∧ w.toNat / 2 ^ 26 = 0x3E) ∧ (5 : BitVec 3).toNat > 4 ∧ (4 : BitVec 3).toNat ≤ 4 ∧
    (3 : BitVec 2).toNat > 2 ∧ (2 : BitVec 2).toNat ≤ 2 ∧ (6 : BitVec 4).toNat > 5 ∧ (5 : BitVec 4).toNat ≤ 5 :=
  ⟨by decide, by decide, ⟨_, rfl, by decide⟩, by decide, by decide, by decide, by decide, by decide, by decide⟩

theorem test_meets_loads : Ready (.sld 6 3 4 0 1) probe ∧ Clear (probe.issued (.sld 6 3 4 0 1)) probe.cur.acc.ld ∧
    ∃ c oks t, Passes (probe.issued (.sld 6 3 4 0 1)) .read [] false ((probe.issued (.sld 6 3 4 0 1)).elemS 4 0 8) c oks t :=
  ⟨by decide, by decide, probeCtx, [(⟨0, 0, 8⟩, 0)], _, rfl, rfl, by decide⟩

theorem test_meets_stores : Ready (.sst 3 3 4 0 1) probe ∧ Clear (probe.issued (.sst 3 3 4 0 1)) probe.cur.acc.st ∧
    (probe.issued (.sst 3 3 4 0 1)).sbRoom (entriesOf (((probe.issued (.sst 3 3 4 0 1)).elemS 4 0 8).map (fun e => (e, e.gva)))
      (fun _ => 0)).length = true ∧
    (probe.sreg 5).toNat < 16 ∧ 16 ≤ ((probe.setSreg 5 16).sreg 5).toNat ∧ Ready (.stMc 4 6 2) (probe.setSreg 5 16) ∧
    ∃ c oks t, Passes (probe.issued (.sst 3 3 4 0 1)) .write [] false ((probe.issued (.sst 3 3 4 0 1)).elemS 4 0 8) c oks t :=
  ⟨by decide, by decide, by decide, by decide, by decide, by decide, probeCtx, [(⟨0, 0, 8⟩, 0)], _, rfl, rfl, by decide⟩

theorem test_meets_atomics : Ready (.atomScalar 0 9 4 5 1) probe ∧ Clear (probe.issued (.atomScalar 0 9 4 5 1)) probe.cur.acc.st ∧
    (probe.issued (.atomScalar 0 9 4 5 1)).sbRoom 1 = true ∧
    ∃ c oks t, Passes (probe.issued (.atomScalar 0 9 4 5 1)) .atomic [atomCap 0 8] false [⟨0, 0, 8⟩] c oks t :=
  ⟨by decide, by decide, by decide, probeCtx, [(⟨0, 0, 8⟩, 0)], _, rfl, rfl, by decide⟩

/-- A group with an acquire of its split open, and a load outstanding. -/
def acquiring : State := (probe.startLoad (.scalar 3 false) false 1 (some 2) [⟨0, 0, 0, 8, none, false⟩])

/-- A millisecond later. -/
def late : State := { probe with ps := 10 ^ 9 }

theorem test_meets_fences :
    (Ready (.fenceAr 2) late ∧ (late.issued (.fenceAr 2)).acqOk late.nextId = true ∧
      (late.issued (.fenceAr 2)).relOk 2 late.nextId = true ∧ NoDeferred late (fun _ => true)) ∧
    (Ready .fenceAcq2 acquiring ∧ (acquiring.issued .fenceAcq2).acqOk acquiring.nextId = false) :=
  ⟨⟨by decide, by decide, by decide, fun d h => nomatch h⟩, by decide, by decide⟩

/-- The team has a scratchpad region of 256 bytes. -/
def spad : State := { probe with scratch := [⟨0, 0, 0, 256, [], [], [], [], 0⟩] }

theorem test_meets_scratchpad : ∃ g, spad.region = some g ∧
    (Ready (.spld 4 3 4 0 1) spad ∧ ∀ e ∈ scratchElems (spad.issued (.spld 4 3 4 0 1)) 4 0 4, Fits g e true) ∧
    (Ready (.spst 2 3 4 0) spad ∧ ∀ e ∈ (spad.issued (.spst 2 3 4 0)).elemsV 4 0 4, Fits g e false) := by
  refine ⟨⟨0, 0, 0, 256, [], [], [], [], 0⟩, rfl, ⟨by decide, ?_⟩, by decide, ?_⟩ <;> (unfold Fits; decide)

theorem test_meets_faults_of_accesses :
    (let s := probe.setSreg 4 4; Ready (.sld 6 3 4 0 1) s ∧ Clear (s.issued (.sld 6 3 4 0 1)) s.cur.acc.ld ∧ s.myCtx = some probeCtx ∧
      firstTrap ((s.issued (.sld 6 3 4 0 1)).checkAll probeCtx .read [] false ((s.issued (.sld 6 3 4 0 1)).elemS 4 0 8)).1 =
        some (11, 4, 1)) ∧
    (Ready (.sld 6 3 4 0 1) acquiring ∧ (acquiring.issued (.sld 6 3 4 0 1)).split.acq ≠ []) ∧
    (let s := probe.setSreg 4 (BitVec.ofNat 64 (2 ^ 48)); Ready (.pf 4 0 1) s ∧ (s.issued (.pf 4 0 1)).split.acq = [] ∧ s.myCtx = some probeCtx ∧
      ((s.issued (.pf 4 0 1)).translate probeCtx 0 (s.sreg 4).toNat .read 2).1 = .fault ⟨8, 1, 0, 0, 0⟩) := by
  refine ⟨by decide, by decide, by decide⟩

/-- The holder of the probe's lines. -/
def ms : Nat := State.reset.localId 16

/-- The only current copy of the probe's first line holds an uncorrectable error. -/
def badLine : State := { probe with tags := [⟨16, 0, ms, 0, 0, 1, 0, none, none, true⟩] }

theorem test_meets_memory_errors : Ready (.sld 6 3 4 0 1) badLine ∧ Clear (badLine.issued (.sld 6 3 4 0 1)) badLine.cur.acc.ld ∧
    firstTrap ((badLine.issued (.sld 6 3 4 0 1)).checkAll probeCtx .read [] false ((badLine.issued (.sld 6 3 4 0 1)).elemS 4 0 8)).1 =
      some (16, 0, 1) := by
  refine ⟨by decide, by decide, by decide⟩

theorem test_meets_prefetch : ∃ x t v bs stamp lease,
    (probe.issued (.pf 4 0 1)).translate probeCtx 0 0 .read 2 = (.ok x, t) ∧
      t.fetchServed ⟨0, 0, 0, 0, 0, x.fa, t.cur.acc.rfloor.toNat, 1, false, false, false, none⟩ 16 [] = some (v, bs, stamp, lease) :=
  ⟨_, _, _, _, _, _, rfl, rfl⟩

/-- The group runs a handler at PL1. -/
def handling : State := (probe.modTrap (fun t => { t with inh := true, pl := 1 })).modCtl (fun c => { c with handler := some 0 })

/-- A vector for PL2. -/
def vectored : State := { probe with pkg := { probe.pkg with tvec2 := 0x1000 } }

/-- Another context of the partition waits, and one of number 5 is there. -/
def rivals : State := { probe with ctxs := probe.ctxs ++ [{ newCtx 5 0 0 1 0 0 with st := .waiting }] }

theorem test_meets_traps_and_halts :
    (Ready .tret handling ∧ handling.cur.trap.inh = true) ∧ (Ready .tret { probe with cur := { probe.cur with trap := { probe.cur.trap with pl := 1 } } } ∧ probe.cur.trap.inh = false) ∧
    (Ready .yield probe ∧ probe.contended probe.cur.place.ctx = false) ∧ (Ready .yield rivals ∧ rivals.contended 0 = true) ∧
    (let s := rivals.setSreg 4 65535; Ready (.halt 8 4) s ∧ (s.sreg 4).toNat % 65536 = 65535) ∧
    (let s := rivals.setSreg 4 6; Ready (.halt 8 4) s ∧ (s.sreg 4).toNat % 65536 ≠ s.cur.place.ctx ∧ s.ctx? 6 = none) ∧
    (let s := rivals.setSreg 4 5; Ready (.halt 8 4) s ∧ (s.sreg 4).toNat % 65536 ≠ s.cur.place.ctx ∧ s.ctx? 5 ≠ none) := by
  and_intros <;> decide

theorem test_meets_trap_entry : vectored.cur.trap.inh = false ∧ vectored.cur.trap.queue = [] ∧
    vectored.vector vectored.cur.trap.pl ≠ 0 ∧ 255 < 256 ∧ handling.cur.trap.queue = [] ∧ handling.cur.ctl.handler = some 0 := by decide

theorem test_meets_traps_in_handlers :
    (let e : TrapEntry := ⟨trec0 24 0 1 true 0 0 0 0, 0, 0, 0, 0⟩; e.isDeferred = true ∧ handling.cur.trap.inh = true ∧
      (probe.modTrap (fun t => { t with queue := [e] })).vector 2 = 0 ∧ e.t0.toNat % 256 ≠ 26) ∧
    (let d : TrapEntry := ⟨trec0 26 0 1 true 0 0 0 2, 0, 0, 0, 0⟩; d.t0.toNat % 256 = 26 ∧ d.t0.toNat / 2 ^ 48 % 2 ^ 16 < 65535) := by
  refine ⟨?_, ?_⟩ <;> decide

theorem test_meets_system_registers :
    (Ready (.sysrd 9 0x010) probe ∧ (regRead? 0x010).isSome = true ∧ probe.badSel 0x010 = false) ∧
    (Ready (.sysrd 9 0x0FF) probe ∧ (regRead? 0x0FF).isNone = true) ∧
    (let s := probe.modTrap (fun t => { t with csel := 0x10007 }); Ready (.sysrd 9 0x290) s ∧ s.badSel 0x290 = true) ∧
    (Ready (.syswr 5 0x2B6) probe ∧ (regWrite? 0x2B6).isSome = true ∧ probe.badSel 0x2B6 = false) ∧
    (Ready (.syswr 5 0x0FF) probe ∧ (regWrite? 0x0FF).isNone = true) ∧
    (let s := (handling.setSreg 5 (BitVec.ofNat 64 (2 ^ 33))); Ready (.syswr 5 0x2BA) s ∧ (s.src 5).getLsbD 33 = true ∧
      s.cur.trap.pl < 2 ∧ s.badSel 0x2BA = false) ∧
    (handling.cur.trap.pl < 2 ∧ handling.ctx? handling.cur.place.ctx = some probeCtx) := by
  refine ⟨?_, ?_, ?_, ?_, ?_, ?_, ?_⟩ <;> decide

/-- Ring 3 enabled. -/
def ringed : State := { probe with rings := probe.rings.set 3 { Ring.reset with ctl := 0x8000000000000000, st := .running } }

theorem test_meets_configuration :
    probe.partCheck 0 0 = 0 ∧ probe.partCheck 0 1 ≠ 0 ∧ 128 < (0x8100 : DWord).toNat / 256 % 256 ∧
    4096 < (0x10000001 : DWord).toNat % 4096 + (0x10000001 : DWord).toNat / 2 ^ 16 % 2 ^ 13 ∧ probe.objs = [] ∧
    (∀ w : Fin 64, probe.vregs.cobjQ[w] = 0) ∧ (0x0FFF0001 : DWord).toNat % 4096 + (0x0FFF0001 : DWord).toNat / 2 ^ 16 % 2 ^ 13 ≤ 4096 ∧
    (8 : DWord).toNat / 2 % 32 = 4 ∧ (48 : DWord).toNat / 2 % 32 = 24 ∧
    (ringed.rings[(3 : Fin 16)]).ctl.getLsbD 63 = true ∧ (ringed.rings[(4 : Fin 16)]).ctl.getLsbD 63 = false := by
  and_intros <;> decide

theorem test_meets_control_writes :
    (64 : DWord).toNat % 64 = 0 ∧ (16 ≤ (16 : DWord).toNat % 64 ∧ (40 : DWord).toNat % 64 ≤ 40) ∧ (15 : DWord).toNat % 64 < 16 ∧ 40 < (41 : DWord).toNat % 64 ∧
    (let v : DWord := BitVec.ofNat 64 (2 ^ 16 + 1500); 1500 ≤ v.toNat % 4096 ∧ v.toNat % 4096 ≤ 2900 ∧ 1 ≤ v.toNat / 2 ^ 16 % 1024 ∧ v.toNat / 2 ^ 16 % 1024 ≤ 1000) ∧
    (BitVec.ofNat 64 (1001 * 2 ^ 16 + 1500) : DWord).toNat / 2 ^ 16 % 1024 > 1000 ∧ probe.pkg.tray ≠ 0 ∧ probe.pkg.tray ≠ 1 ∧
    (let r : FaultRec := ⟨1, 1, 0, 0, 7, 1, true, 0, 0, 0, 0, true, 0, 0⟩; let s := { probe with faults := [r] };
      s.faults.find? (fun r => r.written && r.tag == 7 % 2 ^ 32 && (r.queue == 1 && r.ctx == 0)) = some r) ∧
    (let r : FaultRec := ⟨1, 1, 0, 0, 7, 1, false, 0, 0, 0, 0, true, 0, 0⟩; let s := { probe with faults := [r] };
      s.faults.find? (fun r => r.written && r.tag == 7 % 2 ^ 32 && (r.queue == 1 && r.ctx == 0)) = some r) ∧
    (0xFA000000 : Word).toNat / 2 ^ 26 = 0x3E ∧ (0xFFFFFFFF : Word).toNat / 2 ^ 26 ≠ 0x3E ∧ probe.flagWait probe.hints.flg = .satisfied := by
  and_intros <;> decide

/-- The record of the probe's group: dimensions of 1 with cores. -/
def recorded (raw : Nat) : State := { late with recs := [{ newRec 9 0 0 raw with id := 0 }] }

theorem test_meets_waits :
    (Ready (.waitc 0 0 0) probe ∧ probe.cur.acc.ld ≤ 0 ∧ probe.cur.acc.st ≤ 0 ∧ probe.cur.acc.cp ≤ 0 ∧ probe.cur.trap.deferred = []) ∧
    (Ready (.waitc 0 63 63) acquiring ∧ 0 < acquiring.cur.acc.ld ∧ ∃ o ∈ acquiring.cur.acc.ops, o.kind = .load) ∧
    (let s := probe.modAcc (fun a => { a with ld := 1 }); Ready (.waitc 0 63 63) s ∧ 0 < s.cur.acc.ld ∧ ∀ o ∈ s.cur.acc.ops, o.kind ≠ .load) ∧
    (Ready (.bar 1 0) probe ∧ probe.rec? probe.cur.place.launch = none) ∧
    (Ready (.bar 5 0) (recorded 0) ∧ ∃ r, (recorded 0).rec? 0 = some r ∧ barLevelOk r 5 = false) := by
  refine ⟨by decide, by decide, by decide, by decide, by decide, ⟨_, rfl, by decide⟩⟩

/-- Bytes of the probe's memory. -/
def lay (a : Nat) (bs : List Byte) (s : State) : State := { s with mem := Memory.putN s.mem (memKey ms a) bs }

/-- A tensor entry of a format: 128 by 128 elements, one tile. -/
def tensor (f : Nat) : BitVec 512 :=
  BitVec.ofNat 512 (2 ^ 504 + f * 2 ^ 448 + 128 * 2 ^ 432 + 128 * 2 ^ 416 + 512 * 2 ^ 128 + 128 * 2 ^ 96 + 128 * 2 ^ 64)

/-- Entries 1 and 2 of formats `f` and `g`. -/
def tensors (f g : Nat) (s : State) : State := (s.setTdt 1 (some (tensor f))).setTdt 2 (some (tensor g))

/-- Partition 0 is enabled and has engine 0. -/
def equipped (s : State) : State := { s with pkg := { s.pkg with partDesc := s.pkg.partDesc.set 0 (BitVec.ofNat 64 (2 ^ 48 + 1)) } }

/-- A copy command of the probe's group. -/
def copyCmd (node : Option Nat) (err : Option (Nat × Nat × Nat)) (started : Bool) : CopyCmd :=
  ⟨9, 0, probe.cur.place.uid, node, 0, 0, 0, 9, 0, .bytes 64 0 4 false false false, ⟨false, false, 0⟩, 1, 0, none, started, [], 0, err⟩

set_option maxRecDepth 20000 in
theorem test_meets_copies_issue :
    (Ready (.cp 4 5 6 0 0) (equipped probe) ∧ ((equipped probe).issued (.cp 4 5 6 0 0)).myEngines ≠ [] ∧
      Ready (.cpFill 4 5 6) (equipped probe) ∧ (probe.sreg 6).toNat % 2 ^ 32 = 0) ∧
    (let s := equipped (probe.setSreg 6 4); Ready (.cp 4 5 6 0 0) s ∧ (s.issued (.cp 4 5 6 0 0)).split.acq = [] ∧ s.cur.acc.cp < 62 ∧
      (s.sreg 6).toNat % 2 ^ 32 ≠ 0 ∧ ∃ x ∈ (s.issued (.cp 4 5 6 0 0)).myEngines, (s.copies.filter (fun c => c.engine == x)).length < 32) ∧
    (let s := equipped ((spad.setSreg 4 252).setSreg 6 4); let t := s.issued (.cp 4 5 6 1 0); Ready (.cp 4 5 6 1 0) s ∧
      (t.sreg 6).toNat % 2 ^ 32 ≠ 0 ∧ (t.sreg 4).toNat + (t.sreg 6).toNat % 2 ^ 32 = t.regionSize ∧ t.myEngines ≠ [] ∧ s.copies = []) ∧
    (let s := equipped (probe.setSreg 6 4); Ready (.cpFill 4 5 6) s ∧ (s.issued (.cpFill 4 5 6)).myEngines ≠ [] ∧ s.copies = []) ∧
    (let s := equipped ((tensors 6 6 probe).setSreg 5 (4 * 2 ^ 32 + 4)); Ready (.cpT 1 2 4) s ∧
      (CKind.tensor (tensor 6) (tensor 6) ((s.sreg 5).toNat % 2 ^ 32) ((s.sreg 5).toNat / 2 ^ 32) 0 0).empty = false ∧ s.tdt? 1 = some (tensor 6) ∧ s.tdt? 2 = some (tensor 6) ∧
      tdFmt (tensor 6) = 6 ∧ (s.sreg 4).toNat % 4 = 0 ∧ (s.sreg 5).toNat % 4 = 0 ∧ tdTile (tensor 6) 0 % 4 = 0 ∧
      (s.issued (.cpT 1 2 4)).myEngines ≠ [] ∧ s.copies = []) ∧
    (Ready (.cpT 1 2 4) probe ∧ probe.tdt? 1 = none) ∧
    (let s := tensors 1 2 probe; Ready (.cpT 1 2 4) s ∧ s.tdt? 1 = some (tensor 1) ∧ s.tdt? 2 = some (tensor 2) ∧
      tdFmt (tensor 1) ≠ tdFmt (tensor 2)) ∧
    (let s := (spad.setSreg 4 253).setSreg 6 4; Ready (.cp 4 5 6 1 0) s ∧
      s.regionSize < (s.sreg 4).toNat + (s.sreg 6).toNat % 2 ^ 32 ∧ (s.sreg 6).toNat % 2 ^ 32 ≠ 0) ∧
    (Ready (.cpFill 4 5 6) probe ∧ probe.myEngines = [] ∧ probe.split.acq = [] ∧ probe.cur.acc.cp < 62) ∧
    (let s : State := { equipped (probe.setSreg 6 4) with copies := List.replicate 32 (copyCmd none none false) }; Ready (.cpFill 4 5 6) s ∧
      s.split.acq = [] ∧ s.cur.acc.cp < 62 ∧ s.myEngines ≠ [] ∧ (s.sreg 6).toNat % 2 ^ 32 ≠ 0 ∧ ∀ x ∈ s.myEngines, 32 ≤ (s.copies.filter (fun c => c.engine == x)).length) ∧
    (Ready (.cpFill 4 5 6) acquiring ∧ Ready (.cp 4 5 6 0 0) acquiring ∧ Ready (.cpT 1 2 4) acquiring ∧ acquiring.split.acq ≠ []) := by
  refine ⟨?_, ?_, ?_, ?_, ?_, ?_, ?_, ?_, ?_, ?_, ?_⟩ <;> decide

/-- That command in its engine. -/
def copying (c : CopyCmd) (s : State) : State := { (s.modAcc (fun a => { a with cp := 1 })) with copies := [c] }

/-- The probe's holder has the low 4 GiB, and partition 0 has engine 0. -/
def wide (s : State) : State :=
  { s with
    routes := s.routes.map (fun e => { e with pre := ⟨0, 32⟩ })
    holders := s.holders.map (fun h => { h with pre := ⟨0, 32⟩ }) }

/-- Stage 2 of VDID 0 maps the low GiB to itself in a `far` leaf of footprint index 5 (09 R148, R149). -/
def farTable : State :=
  { lay 0x2000 (leBytes 16 (4 * 2 ^ 64 + 1)) (lay 0x4000 (leBytes 16 (5 * 2 ^ 44 + 2 ^ 8 + 7 * 2 ^ 3 + 3)) (wide probe)) with
    vregs := { probe.vregs with s2root := probe.vregs.s2root.setIfInBounds 0 0x2001 } }

/-- A piece of a byte copy: 4 bytes from 0 to 64, and from an address without a holder. -/
def pieceOf (src : Nat) : Piece := ⟨some src, 64, 4, 0⟩

/-- The agent of the copy. -/
def copier : Agent := ⟨probeCtx, 0, 2, 9, 0, false, 1⟩

theorem test_meets_copies_run :
    (let c := copyCmd none none false; let s := copying c probe; s.copies.find? (fun c => c.id == 9) = some c ∧ c.started = false ∧
      c.moved = none ∧ c.err = none ∧ s.engineBusy c = false ∧ s.afterDone c.uid c.after = true ∧ s.engWaits 9 = false ∧
      s.agentFor c.ctx c.core c.uid 9 c.scp c.cls = some copier ∧ ∃ t, s.movePiece copier c (pieceOf 0) = .ok () t) ∧
    (let c := copyCmd none none false; ∃ t x a, (copying c probe).movePiece copier c (pieceOf 0x200000) = .err t x a) ∧
    (let c := copyCmd none none false; let s : State := { copying c probe with echoes := [⟨9, 4, 17, ms, ⟨0, 52⟩, 0, [1], 0, false, false⟩] };
      ∃ t, s.movePiece copier c (pieceOf 0) = .wait t) ∧
    (let c := copyCmd none none false; ∃ t i gva a acc, (copying c farTable).movePiece copier c (pieceOf 0) = .miss t (.far i) gva a acc) ∧
    (let c := copyCmd none none true; let s := copying c probe; s.copies.find? (fun c => c.id == 9) = some c ∧ s.copyDone c = true ∧ c.err = none) ∧
    (let c := copyCmd (some 3) none true; let s := copying c probe; s.copies.find? (fun c => c.id == 9) = some c ∧ s.copyDone c = true ∧ c.err = none) ∧
    (let c := copyCmd (some 0) (some (8, 0, 0)) true; let s := copying c { probe with recs := [newRec 0 0 0 0] };
      s.copies.find? (fun c => c.id == 9) = some c ∧ s.copyDone c = true ∧ s.rec? 0 = some (newRec 0 0 0 0) ∧ (newRec 0 0 0 0).st ≠ .refused) ∧
    (let c := copyCmd none (some (8, 0, 0)) true; let s := copying c probe; s.copies.find? (fun c => c.id == 9) = some c ∧
      s.copyDone c = true ∧ s.cur.place.used = true ∧ s.cur.place.uid = c.uid) := by
  refine ⟨⟨by decide, by decide, by decide, by decide, by decide, by decide, by decide, by decide, _, rfl⟩, ⟨_, _, _, rfl⟩, ⟨_, rfl⟩,
    ⟨_, _, _, _, _, rfl⟩, ?_, ?_, ?_, ?_⟩ <;> decide

/-- Bytes of a record. -/
def record (n : Nat) (e : BitVec 512) : List Byte := leBytes n e.toNat

/-- A packet of VDID 0 for tree entry 3. -/
def packet (hops : Nat) : McPacket := ⟨3, 0, hops, ms, 0, [1], 0, 0⟩

/-- An echo that travels by the tree, and CD0 a holder of the line. -/
def spreading (v : DWord) : State :=
  { probe with
    mcast := [⟨0, 4, packet 2⟩]
    trees := [⟨0, 3, v⟩]
    holders := ⟨⟨0, 52⟩, probe.localId 0, .replica, 20, 255, [], 0, 0, none, 0, [], []⟩ :: probe.holders }

/-- A descriptor that derives its scale from the maximum at 0x200. -/
def derived : BitVec 512 := BitVec.ofNat 512 ((tensor 3).toNat + (2 ^ 207 + 2 * 2 ^ 200 + 0x200 * 2 ^ 64) * 2 ^ 256 - 2 ^ 504)

theorem test_meets_descriptors :
    (let s := tensors 1 1 probe; Ready (.tdtDrop 1) s ∧ Ready (.tdtGet 9 7 1) s ∧ s.tdt? 1 = some (tensor 1)) ∧
    (Ready (.tdtGet 9 7 1) probe ∧ probe.tdt? 1 = none) ∧
    (let s := probe.setSreg 4 63; Ready (.tdtSet 9 4 3) s ∧ (s.sreg 4).toNat % 64 ≠ 0) ∧
    (let s := probe.setSreg 4 64; Ready (.tdtSet 9 4 3) s ∧ (s.sreg 4).toNat % 64 = 0 ∧
      ∃ bs t, Reads (s.issued (.tdtSet 9 4 3)) (s.sreg 4).toNat 1 bs t ∧ tdOk (BitVec.ofNat 512 (ofLeBytes bs)) = false) ∧
    (let s := lay 64 (record 63 (tensor 1)) (probe.setSreg 4 64); Ready (.tdtSet 9 4 3) s ∧ (s.sreg 4).toNat % 64 = 0 ∧
      ∃ bs t, Reads (s.issued (.tdtSet 9 4 3)) (s.sreg 4).toNat 1 bs t ∧ tdOk (BitVec.ofNat 512 (ofLeBytes bs)) = true ∧
        tdf (BitVec.ofNat 512 (ofLeBytes bs)) 463 463 = 0) ∧
    (let s := lay 64 (record 63 derived) (probe.setSreg 4 64); Ready (.tdtSet 9 4 3) s ∧
      ∃ bs t cs v, Reads (s.issued (.tdtSet 9 4 3)) (s.sreg 4).toNat 1 bs t ∧ tdOk (BitVec.ofNat 512 (ofLeBytes bs)) = true ∧
        tdf (BitVec.ofNat 512 (ofLeBytes bs)) 463 463 = 1 ∧ ReadsFrom (decide (3 ≤ tdf (BitVec.ofNat 512 (ofLeBytes bs)) 467 464)) t [⟨0, tdf (BitVec.ofNat 512 (ofLeBytes bs)) 383 320, 4⟩] cs v) := by
  refine ⟨by decide, by decide, by decide, ⟨by decide, by decide, _, _, .inr ⟨by decide, _, ⟨_, [(⟨0, 64, 64⟩, 64)], _, _, _, rfl, rfl, rfl, by decide, by decide, rfl, rfl⟩, rfl⟩, ?_⟩,
    ⟨by decide, by decide, _, _, .inr ⟨by decide, _, ⟨_, [(⟨0, 64, 64⟩, 64)], _, _, _, rfl, rfl, rfl, by decide, by decide, rfl, rfl⟩, rfl⟩, ?_, ?_⟩, by decide, _, _, _, _,
    .inr ⟨by decide, _, ⟨_, [(⟨0, 64, 64⟩, 64)], _, _, _, rfl, rfl, rfl, by decide, by decide, rfl, rfl⟩, rfl⟩, ?_, ?_,
    ⟨_, [(⟨0, 0x200, 4⟩, 0x200)], _, _, _, rfl, rfl, rfl, by decide, by decide, rfl, rfl⟩⟩ <;> decide

theorem test_meets_trees :
    (let s := (probe.setSreg 4 16).setSreg 5 0; Ready (.treeSet 9 4 3) s ∧ 16 ≤ s.sreg 4) ∧
    (let s := (probe.setSreg 4 15).setSreg 5 1; Ready (.treeSet 9 4 3) s ∧ ¬ (16 ≤ s.sreg 4 ∨ (s.sreg 5).getLsbD 62 ∨
      (s.sreg 5).extractLsb' 48 8 ≠ 0 ∨ (s.sreg 5).extractLsb' 29 11 ≠ 0 ∨ (s.sreg 5).getLsbD ((s.sreg 4).toNat % 16) ∨
      ((s.sreg 5).getLsbD 28 ∧ 4 ≤ s.sreg 4))) ∧
    (probe.mcast.find? (fun m => m.port == 0 && m.pkt == packet 0) = none ∧ (packet 0).hops = 0) ∧
    (let v : DWord := 0x8000000010000000; let s := spreading v; s.mcast.find? (fun m => m.port == 0 && m.pkt == packet 2) = some ⟨0, 4, packet 2⟩ ∧
      (packet 2).hops ≠ 0 ∧ bitsOf (s.treeAt 0 (packet 2).tree).toNat 63 63 = 1 ∧ bitsOf (s.treeAt 0 (packet 2).tree).toNat 61 56 = (packet 2).vdid ∧
      (packet 2).prim / 256 = s.pkgNum) ∧
    (let q : McPacket := { packet 1 with prim := 768 }; let s := spreading 0x8000000010000000;
      s.mcast.find? (fun m => m.port == 0 && m.pkt == q) = none ∧ q.hops ≠ 0 ∧ q.prim / 256 ≠ s.pkgNum ∧
      s.treeAt 0 q.tree = 0x8000000000000000#64 ||| (BitVec.ofNat 64 q.vdid <<< 56) ||| 0x10000000#64 ∧ q.vdid < 64 ∧
      (s.holderState (s.localId 0) q.addr).map HolderSt.st = some .replica) := by
  refine ⟨?_, ?_, ?_, ?_, ?_⟩ <;> decide

/-- A matrix command of the probe's group. -/
def mcmd (k : MKind) : MCmd := ⟨9, 0, probe.cur.place.uid, 0, 0, 0, k, ⟨false, false, 0⟩, 1, 0, false, 0, [], false, 0, 0, none, 0⟩

/-- Tile 0 and slots 0 and 1, claimed by `owner`, their operands of formats `f` and `g`. -/
def items (owner f g : Nat) (s : State) : State :=
  { (s.modMat (fun m => { m with tiles := 1, slots := 3 })) with
    tiles := [⟨0, 0, owner, 0, false, [], []⟩]
    oslots := [⟨0, 0, owner, 0, false, f, [], [], []⟩, ⟨0, 1, owner, 0, false, g, [], [], []⟩] }

/-- The same as the probe's group has them. -/
def mine (f g : Nat) : State := items probe.cur.place.uid f g probe

/-- Commands in the queue of core 0. -/
def queued (l : List MCmd) (s : State) : State := { s with mqueue := l }

theorem test_meets_matrix_claims :
    (let s := items 77 255 255 probe; Ready (.zclaim 9 1) s ∧ BitVec.getLsbD (1 : BitVec 12) 0 = true ∧
      s.tile? s.cur.place.core 0 = some ⟨0, 0, 77, 0, false, [], []⟩ ∧ 77 ≠ s.cur.place.uid) ∧
    (Ready (.zclaim 9 4095) probe ∧ probe.tiles = []) ∧
    (let s := items 77 255 255 probe; Ready (.oclaim 9 1) s ∧ BitVec.getLsbD (1 : BitVec 8) 0 = true ∧
      s.slot? s.cur.place.core 0 = some ⟨0, 0, 77, 0, false, 255, [], [], []⟩ ∧ 77 ≠ s.cur.place.uid) ∧
    (Ready (.oclaim 9 255) probe ∧ probe.oslots = []) ∧
    (let s := queued [mcmd (.zzero 1)] (mine 1 1); Ready (.zrel 1) s ∧ s.unnamed s.cur 1 0 = false) ∧
    (Ready (.zrel 1) (mine 1 1) ∧ (mine 1 1).unnamed (mine 1 1).cur 1 0 = true) ∧
    (let s := queued [mcmd (.mmul 0 0 1 1 1)] (mine 1 1); Ready (.orel 3) s ∧ s.unnamed s.cur 0 3 = false) ∧
    (Ready (.orel 3) (mine 1 1) ∧ (mine 1 1).unnamed (mine 1 1).cur 0 3 = true) := by
  refine ⟨?_, ?_, ?_, ?_, ?_, ?_, ?_, ?_⟩ <;> decide

theorem test_meets_matrix_instructions :
    (Ready (.zzero 1) (mine 1 1) ∧ (mine 1 1).claims 1 0 = true ∧ (mine 1 1).cur.mat.held = [] ∧ (mine 1 1).cur.mat.released = [] ∧
      ((mine 1 1).mqueue.filter (fun c => c.core == (mine 1 1).cur.place.core)).length < 8) ∧
    (let s := (mine 1 1).modMat (fun m => { m with held := List.replicate 7 (mcmd (.zzero 1)) }); Ready (.zzero 1) s ∧
      s.claims 1 0 = true ∧ s.cur.mat.held ≠ [] ∧ s.cur.mat.held.length < 8) ∧
    (Ready (.zzero 1) probe ∧ probe.claims 1 0 = false) ∧
    (Ready (.mmul 0 0 1) (mine 1 1) ∧ (mine 1 1).claims (2 ^ 0) (2 ^ 0 ||| 2 ^ 1) = true ∧
      pairOk ((mine 1 1).slotTag 0) ((mine 1 1).slotTag 1) = true) ∧
    (Ready (.mmul 0 0 1) probe ∧ probe.claims (2 ^ 0) (2 ^ 0 ||| 2 ^ 1) = false) ∧
    (Ready (.mmul 0 0 1) (mine 1 2) ∧ pairOk ((mine 1 2).slotTag 0) ((mine 1 2).slotTag 1) = false) ∧
    (let s := tensors 1 1 (mine 1 1); Ready (.oload 0 1 4) s ∧ s.tdt? 1 = some (tensor 1) ∧ s.claims 0 (2 ^ 0) = true ∧
      shapeFits (tensor 1) ((s.sreg 4).toNat % 2 ^ 32) ((s.sreg 4).toNat / 2 ^ 32) = true) ∧
    (Ready (.oload 0 1 4) (mine 1 1) ∧ (mine 1 1).tdt? 1 = none) ∧
    (let s := tensors 1 1 (mine 1 1); Ready (.mloop 0 1 2 0) s ∧ s.tdt? 1 = some (tensor 1) ∧ s.tdt? 2 = some (tensor 1) ∧
      bitsOf (s.sreg 48).toNat 18 16 = 0 ∧ (s.sreg 48).toNat % 2 ^ 16 = 0 ∧ s.claims (2 ^ 0) (2 ^ 0 + 2 ^ 1) = true ∧ shapeFits (tensor 1) 0 0 = true ∧
      (s.sreg 49).toNat = 0 ∧ (s.sreg 50).toNat = 0 ∧ pairOk (tdFmt (tensor 1)) (tdFmt (tensor 1)) = true) ∧
    (let s := tensors 0 0 (mine 1 1); Ready (.mdrain 0 1 4 0) s ∧ s.tdt? 1 = some (tensor 0) ∧ s.claims (2 ^ 0) 0 = true ∧
      tdFmt (tensor 0) = 0) ∧
    (let s := tensors 4 4 (mine 1 1); Ready (.mdrain 0 1 4 0) s ∧ s.tdt? 1 = some (tensor 4) ∧ s.claims (2 ^ 0) 0 = true ∧
      (drainFmt (tdFmt (tensor 4))).isSome = true) ∧
    (let s := tensors 5 5 (mine 1 1); Ready (.mdrain 0 1 4 0) s ∧ s.tdt? 1 = some (tensor 5) ∧ s.claims (2 ^ 0) 0 = true ∧
      5 ≤ tdFmt (tensor 5)) := by
  refine ⟨?_, ?_, ?_, ?_, ?_, ?_, ?_, ?_, ?_, ?_, ?_, ?_⟩ <;> decide

theorem test_meets_loops_of_steps :
    let s := (tensors 1 1 (mine 1 1)).setSreg 48 5
    Ready (.mloop 0 1 2 0) s ∧ s.tdt? 1 = some (tensor 1) ∧ s.tdt? 2 = some (tensor 1) ∧ bitsOf (s.sreg 48).toNat 18 16 = 0 ∧
      s.claims (2 ^ 0) (2 ^ 0 + 2 ^ 1) = true ∧ (s.sreg 48).toNat % 2 ^ 16 ≠ 0 := by decide

theorem test_meets_batches :
    (Ready (.mfence 9) probe ∧ Ready (.mwait 9) (probe.modMat (fun m => { m with mopen := 0 })) ∧
      (probe.modMat (fun m => { m with mopen := 0 })).cur.mat.mopen.toNat ≤ (probe.sreg 9).toNat) ∧
    (let s := queued [mcmd (.zzero 1)] (probe.modMat (fun m => { m with mopen := 1 })); Ready (.mwait 9) s ∧
      (s.sreg 9).toNat < s.cur.mat.mopen.toNat ∧ ∃ c ∈ s.mqueue, c.uid = s.cur.place.uid ∧ c.batch ≤ (s.sreg 9).toNat) ∧
    (let s := queued [{ mcmd (.zzero 1) with batch := 1 }] (probe.modMat (fun m => { m with mopen := 1 })); Ready (.mwait 9) s ∧
      (s.sreg 9).toNat < s.cur.mat.mopen.toNat ∧ (∀ c ∈ s.mqueue, c.uid = s.cur.place.uid → (s.sreg 9).toNat < c.batch) ∧
      (∀ c ∈ s.cur.mat.released ++ s.cur.mat.held, (s.sreg 9).toNat < c.batch)) ∧
    (Ready .mresume probe ∧ Ready .mresumeAbandon probe ∧ probe.cur.mat.held = []) ∧
    (let s := probe.modMat (fun m => { m with held := [mcmd (.zzero 1)], fault := some ⟨8, 3, 64⟩ });
      Ready .mresume s ∧ Ready .mresumeAbandon s ∧ s.cur.mat.held ≠ [] ∧ Ready (.mstat 9) s ∧ s.cur.mat.fault = some ⟨8, 3, 64⟩ ∧
        s.cur.mat.held.head? = some (mcmd (.zzero 1)) ∧ (mcmd (.zzero 1)).kind.ztile < 12) := by
  refine ⟨?_, ?_, ?_, ?_, ?_⟩ <;> decide

/-- A column of 128 FP16 elements at an address that has no holder. -/
def lostTensor : BitVec 512 :=
  BitVec.ofNat 512 (2 ^ 504 + 2 ^ 448 + 2 ^ 432 + 128 * 2 ^ 416 + 2 ^ 96 + 128 * 2 ^ 64 + 0x2000)

/-- A drain of an all-zero tile whose elements all lie outside the tensor. -/
def emptyDrain : MCmd := mcmd (.mdrain 0 (tensor 0) 4096 0 false 0 [])

/-- A drain none of whose elements lies in the tensor sends nothing. -/
theorem drain_outside (g : Agent) (core id z start : Nat) (e : BitVec 512) (o0 o1 : Nat) (c : Rnd) (d : DrainSt) (i : Nat)
    (hk : tdKdim e = 0) (ho : tdExt e 0 ≤ o0) (hf : drainFmt (tdFmt e) = none) (hd : d.stop = none) :
    drainOne g core id z start e o0 o1 c d i = { d with pos := i + 1 } := by
  have h : inTensor e (o0 + i % 128, o1 + i / 128) = false := by
    simp only [inTensor, Bool.and_eq_false_iff, decide_eq_false_iff_not]; omega
  have h2 : drainIdx e o0 o1 i = none := by simp [drainIdx, hk, h]
  unfold drainOne
  simp [hd, hf, h2]

theorem drain_all (g : Agent) (core id z start : Nat) (e : BitVec 512) (o0 o1 : Nat) (c : Rnd)
    (hk : tdKdim e = 0) (ho : tdExt e 0 ≤ o0) (hf : drainFmt (tdFmt e) = none) (l : List Nat) :
    ∀ d : DrainSt, d.stop = none → ∃ p, l.foldl (drainOne g core id z start e o0 o1 c) d = { d with pos := p } := by
  induction l with
  | nil => exact fun d _ => ⟨d.pos, rfl⟩
  | cons i l ih =>
    intro d hd
    obtain ⟨p, hp⟩ := ih { d with pos := i + 1 } hd
    exact ⟨p, by rw [List.foldl_cons, drain_outside _ _ _ _ _ _ _ _ _ _ _ hk ho hf hd, hp]⟩

theorem run_outside (s : State) (g : Agent) (c : MCmd) (z : Nat) (e : BitVec 512) (o0 o1 : Nat) (rnd : BitVec 6)
    (sr : List Word) (hk : tdKdim e = 0) (ho : tdExt e 0 ≤ o0) (hf : drainFmt (tdFmt e) = none) :
    s.runDrain g c z e o0 o1 rnd sr = .sent (s.sentTo c.id 16384) 0 := by
  obtain ⟨p, hp⟩ := drain_all g c.core c.id z c.pos e o0 o1 (rndOfCode rnd) hk ho hf (List.range 16384) ⟨s, sr, 0, c.pos, none⟩ rfl
  exact (congrArg (fun d => DrainSt.result d c) hp).trans rfl

theorem run_drain (s : State) (c : MCmd) (g : Agent) (z : Nat) (e : BitVec 512) (o0 o1 : Nat) (amax : Bool) (rnd : BitVec 6)
    (sr : List Word) (hg : s.agentFor c.ctx c.core c.uid c.id c.scp c.cls = some g) (hc : c.kind = .mdrain z e o0 o1 amax rnd sr)
    (ha : s.afterDone c.uid c.after = true) (hw : s.writes = []) (he : c.err = none) (hp : c.pos < 16384) :
    s.runCmd c = (s.begin c (c.readFloor g.floor)).runDrain { g with floor := c.readFloor g.floor } c z e o0 o1 rnd sr := by
  simp [State.runCmd, hg, hc, ha, hw, he, hp]

theorem empty_drain : (queued [emptyDrain] (mine 1 1)).runCmd emptyDrain =
    .sent (((queued [emptyDrain] (mine 1 1)).begin emptyDrain 0).sentTo emptyDrain.id 16384) 0 :=
  (run_drain _ _ ⟨probeCtx, 0, 2, 9, 0, false, 1⟩ _ _ _ _ _ _ _ rfl rfl (by decide) rfl rfl (Nat.succ_pos _)).trans
    (run_outside _ _ _ _ _ _ _ _ _ (by decide) (by decide) (by decide))

theorem test_meets_matrix_commands :
    (let s := queued [mcmd (.zzero 1)] (mine 1 1); ∃ g t fl, s.headCmd 0 = some (mcmd (.zzero 1)) ∧ s.runCmd (mcmd (.zzero 1)) = .done t fl ∧
      s.agentFor 0 0 probe.cur.place.uid 9 ⟨false, false, 0⟩ 1 = some g) ∧
    (let c := mcmd (.mmul 0 0 1 1 1); let s := queued [c] (mine 1 1); ∃ g, s.headCmd 0 = some c ∧ s.agentFor c.ctx c.core c.uid c.id c.scp c.cls = some g ∧
      (s.tile? 0 0).isSome = true ∧ (s.slot? 0 0).isSome = true ∧ (s.slot? 0 1).isSome = true) ∧
    (let s := queued [emptyDrain] (mine 1 1); s.headCmd 0 = some emptyDrain ∧ ∃ t fl, s.runCmd emptyDrain = .sent t fl) ∧
    (let c := mcmd (.oload 0 lostTensor 0 0); let s := queued [c] (mine 1 1); s.headCmd 0 = some c ∧
      ∃ t x cause prog addr, s.runCmd c = .fault t cause prog addr none 0 ∧ (0 : BitVec 10).getLsbD 9 = false ∧ t.mqueue.find? (fun x => x.id == c.id) = some x) ∧
    (let c := { emptyDrain with err := some (3, 13, 64) }; let s := queued [c] (mine 1 1); ∃ g, s.headCmd 0 = some c ∧ c.core = 0 ∧
      s.agentFor c.ctx c.core c.uid c.id c.scp c.cls = some g ∧ s.afterDone c.uid c.after = true ∧ s.writes = []) ∧
    ((0x200 : BitVec 10).getLsbD 9 = true ∧ probe.ctx? (mcmd (.zzero 1)).ctx = some probeCtx) ∧
    (let w : WriteReq := ⟨7, .matrix 0 9 3, 0, 0, 0, 0, 64, 64, 1, .bytes [1], ms, 0, [], none, .answered, [], 0, 0, 0, [], 0, true, false, some 13, [], none⟩;
      let s := queued [emptyDrain] (mine 1 1); w.origin = .matrix 0 9 3 ∧ w.err ≠ none ∧ ∃ c ∈ (s.respond w).mqueue, c.id = 9) ∧
    (let t : SlotSt := ⟨0, 0, 1, 0, false, 1, [], [], [129]⟩; t.bad.contains (128 * 1 + 1) = true) := by
  refine ⟨⟨_, _, _, rfl, rfl, rfl⟩, ⟨_, rfl, rfl, by decide, by decide, by decide⟩, ⟨rfl, _, _, empty_drain⟩,
    ⟨rfl, _, _, _, _, _, rfl, rfl, rfl⟩, ⟨_, rfl, rfl, rfl, by decide, rfl⟩, by decide, by decide, by decide⟩

/-- 16 elements of format 0 at address 0, under a tag. -/
def shape (tag ord : Nat) : BitVec 512 :=
  BitVec.ofNat 512 (3 * 2 ^ 401 + ord * 2 ^ 400 + tag * 2 ^ 392 + 2 ^ 160 + 2 ^ 128 + 2 ^ 96 + 16 * 2 ^ 64)

/-- A tree of one level with 32 leaves, in a domain. -/
def tree1 (dom : Nat) : BitVec 256 := BitVec.ofNat 256 (32 * 2 ^ 64 + dom * 2 ^ 8 + 1)

/-- Object 0 of VDID 0. -/
def obj (st : ObjSt) (ord : Nat) (opened : Bool) : ObjEntry :=
  ⟨0, 0, 0, shape 3 ord, tree1 2, st, 3, 0, false, 0, 0, 0, opened, [], 0, false, 0, none, none, 0, [], [], [], []⟩

/-- VDID 0 has 8 objects, and these are there. -/
def objects (l : List ObjEntry) (s : State) : State :=
  { s with objs := l, vregs := { s.vregs with cobjQ := s.vregs.cobjQ.set 0 (8 * 2 ^ 16) } }

/-- One lane, and none. -/
def lanes (m : Word) (s : State) : State := s.modSplit (fun sp => { sp with mask := m })

/-- The split waits. -/
def waiting (w : Wait) (s : State) : State := s.modSplit (fun sp => { sp with wait := w })

theorem test_meets_reductions :
    (let s := objects [obj .update 1 true] (lanes 1 probe); let o := obj .update 1 true; Ready (.red 4 6 3) s ∧
      (s.issued (.red 4 6 3)).elemsP 4 4 ≠ [] ∧
      (∀ e ∈ (s.issued (.red 4 6 3)).elemsP 4 4, s.objAt s.myVdid e.gva = some o ∧ o.element e.gva = some 0) ∧
      o.esize ≠ 8 ∧ tagFits 3 o.fmt = true ∧ o.ordered = true ∧ s.cur.place.flat < o.leaves ∧ o.tag = 3 ∧
      (s.issued (.red 4 6 3)).switches o 3 = false ∧ Clear (s.issued (.red 4 6 3)) s.cur.acc.st ∧
      (s.issued (.red 4 6 3)).sbRoom ((s.issued (.red 4 6 3)).elemsP 4 4).length = true) ∧
    (let s := objects [obj .update 1 true] (lanes 1 probe); ∃ c t, (s.issued (.red 4 6 3)).myCtx = some c ∧
      (s.issued (.red 4 6 3)).checkAll c .write [tagCap 3 0, 7] false
        (((s.issued (.red 4 6 3)).elemsP 4 4).map (fun e => { e with size := 4 })) =
          ([((⟨0, 0, 4⟩ : Elem), 0)].map (fun e => (e.1, Chk.ok e.2)), t) ∧ redStall 0 s.cur.place.flat 3 t = none) ∧
    (let s := lanes 0 probe; Ready (.red 4 6 3) s ∧ (s.issued (.red 4 6 3)).elemsP 4 4 = []) ∧
    (let s := lanes 1 probe; Ready (.red 4 6 3) s ∧ (s.issued (.red 4 6 3)).elemsP 4 4 ≠ [] ∧
      ∀ e ∈ (s.issued (.red 4 6 3)).elemsP 4 4, s.objAt s.myVdid e.gva = none) ∧
    (let s := objects [obj .shared 1 false] probe; Ready (.redClose 9 4) s ∧
      s.objAt s.myVdid (s.sreg 4).toNat = some (obj .shared 1 false) ∧ (obj .shared 1 false).st ≠ .ownerLost) ∧
    (Ready (.redClose 9 4) probe ∧ probe.objAt probe.myVdid (probe.sreg 4).toNat = none) ∧
    (let s := waiting (.answer .close 9 0 5) (objects [obj .update 1 true] probe); s.cur.ctl.runs 0 = true ∧
      (s.cur.ctl.split 0).wait = .answer .close 9 0 5 ∧ s.cur.redsDone 5 = true ∧ s.obj? 0 = some (obj .update 1 true)) ∧
    ((obj .update 1 false).isOpen = false ∧ (obj .update 1 false).late.contains 0 = false ∧
      ({ obj .update 1 false with late := [4] }).late.contains 4 = true) ∧
    (let o := obj .update 1 true; let s := objects [o] probe; s.obj? 0 = some o ∧ s.switches o 4 = true ∧ s.switches o 3 = false ∧
      o.isOpen = true ∧ o.closed.contains 0 = false) ∧
    (let o := { obj .update 1 true with closed := [0] }; let s := objects [o] probe; s.obj? 0 = some o ∧ s.switches o 3 = false ∧
      o.isOpen = true ∧ o.closed.contains 0 = true) ∧
    (let s := waiting (.answer .close 9 0 5) (objects [obj .shared 1 false] probe); s.cur.ctl.runs 0 = true ∧
      s.cur.redsDone 5 = true ∧ s.obj? 0 = some (obj .shared 1 false)) := by
  refine ⟨?_, ⟨_, _, rfl, rfl, by decide⟩, ?_, ?_, ?_, ?_, ?_, ?_, ?_, ?_, ?_⟩ <;> decide

/-- Partition 0 has one core. -/
def coreOfOne : State := { probe with pkg := { probe.pkg with partDesc := probe.pkg.partDesc.set 0 (BitVec.ofNat 64 (2 ^ 16)) } }

/-- The bytes of a declaration. -/
def declared (n m : Nat) (s : State) : State := lay 64 (leBytes 60 n) (lay 128 (leBytes 20 m) (s.setSreg 4 64))

theorem test_meets_object_numbers :
    (Ready (.cobjDecl 9 4 0) probe ∧ Ready (.cobjDrop 9 0) probe ∧ Ready (.cobjSync 9 0) probe ∧ Ready (.cobjSyncShared 9 0) probe ∧
      Ready (.cobjReclaim 9 0) probe ∧ probe.objIndex ((probe.issued (.cobjDecl 9 4 0)).objNum 0) = none ∧
      probe.objIndex ((probe.issued (.cobjDrop 9 0)).objNum 0) = none ∧ probe.objIndex ((probe.issued (.cobjSync 9 0)).objNum 0) = none ∧
      probe.objIndex ((probe.issued (.cobjSyncShared 9 0)).objNum 0) = none ∧
      probe.objIndex ((probe.issued (.cobjReclaim 9 0)).objNum 0) = none) ∧
    (let s := objects [] probe; Ready (.cobjDrop 9 7) s ∧ s.objIndex ((s.issued (.cobjDrop 9 7)).objNum 7) = some 7 ∧
      s.objIndex ((s.issued (.cobjSync 9 7)).objNum 7) = some 7 ∧ s.objIndex ((s.issued (.cobjSyncShared 9 7)).objNum 7) = some 7 ∧
      s.objIndex ((s.issued (.cobjReclaim 9 7)).objNum 7) = some 7 ∧ s.obj? 7 = none ∧
      s.objIndex ((s.issued (.cobjDrop 9 8)).objNum 8) = none) ∧
    (let s := objects [obj .ownerLost 1 false] probe; s.obj? 0 = some (obj .ownerLost 1 false) ∧
      s.objIndex ((s.issued (.cobjDrop 9 0)).objNum 0) = some 0 ∧ s.objIndex ((s.issued (.cobjReclaim 9 0)).objNum 0) = some 0) ∧
    (let s := objects [obj .shared 1 false] probe; Ready (.cobjDrop 9 0) s ∧ Ready (.cobjSync 9 0) s ∧ Ready (.cobjReclaim 9 0) s ∧
      s.obj? 0 = some (obj .shared 1 false)) ∧
    (let s := objects [obj .update 1 true] probe; Ready (.cobjSync 9 0) s ∧ Ready (.cobjSyncShared 9 0) s ∧
      s.obj? 0 = some (obj .update 1 true) ∧ (obj .update 1 true).owes s.cur.place.flat = true ∧
      (obj .update 1 false).owes s.cur.place.flat = false) := by
  refine ⟨?_, ?_, ?_, ?_, ?_⟩ <;> decide

theorem test_meets_object_instructions :
    (let s := objects [] (declared 1 0 probe); Ready (.cobjDecl 9 4 0) s ∧
      ∃ bs t, Reads (s.issued (.cobjDecl 9 4 0)) (s.sreg 4).toNat 2 bs t ∧
        let x : ObjEntry := ⟨0, 0, 0, BitVec.ofNat 512 (ofLeBytes (bs.take 64)), BitVec.ofNat 256 (ofLeBytes ((bs.drop 64).take 32)),
          .shared, 15, 0, false, 0, 0, 0, false, [], 0, false, (t.myCtx.map Ctx.s1root).getD 0, none, none, 0, [], [], [], []⟩
        (shapeOk x && treeOk x) = false) ∧
    (let s := objects [] (declared (shape 15 1).toNat (tree1 2).toNat coreOfOne); Ready (.cobjDecl 9 4 0) s ∧
      ∃ bs t, Reads (s.issued (.cobjDecl 9 4 0)) (s.sreg 4).toNat 2 bs t ∧
        let x : ObjEntry := ⟨0, 0, 0, BitVec.ofNat 512 (ofLeBytes (bs.take 64)), BitVec.ofNat 256 (ofLeBytes ((bs.drop 64).take 32)),
          .shared, 15, 0, false, 0, 0, 0, false, [], 0, false, (t.myCtx.map Ctx.s1root).getD 0, none, none, 0, [], [], [], []⟩
        shapeOk x = true ∧ treeOk x = true ∧ ∃ c fa v, t.myCtx = some c ∧ t.checkElem c .read [] false ⟨0, x.base, 64⟩ = (.ok fa, v) ∧
          t.obj? 0 = none ∧ t.objs = [] ∧ x.lineCount * (if x.dom 1 = 2 then x.fan 1 else 32) ≤
            256 * bitsOf ((t.pkg.partDesc[c.part]?).getD 0).toNat 19 16 ∧
          v.slotStatus x (x.scope == 4 && (v.home fa).any (fun h => h.holder / 256 != v.pkgNum)) = 0) ∧
    (let s : State := { waiting (.answer .cobj 9 (2 * 0 + 1) 5) (objects [obj .shared 1 false] probe) with cycle := 1 }; s.cur.ctl.runs 0 = true ∧
      (s.cur.ctl.split 0).wait = .answer .cobj 9 (2 * (obj .shared 1 false).idx + 1) 5 ∧ s.cur.redsDone 5 = true ∧
      s.obj? 0 = some (obj .shared 1 false) ∧ (obj .shared 1 false).isOpen = false ∧
      (obj .shared 1 false).ended ≠ s.cycle ∧ (obj .shared 1 false).isMember = false) ∧
    (let x := { obj .ownerLost 1 false with lost := some 0 }; let s := objects [x] probe; Ready (.cobjReclaim 9 0) s ∧
      s.obj? 0 = some x ∧ s.fenced x = false) ∧
    (let s := objects [obj .ownerLost 1 false] probe; Ready (.cobjReclaim 9 0) s ∧ s.fenced (obj .ownerLost 1 false) = true) := by
  refine ⟨⟨by decide, _, _, .inr ⟨by decide, _, ⟨_, [(⟨0, 64, 64⟩, 64), (⟨1, 128, 64⟩, 128)], _, _, _, rfl, rfl, rfl, by decide, by decide, rfl, rfl⟩, rfl⟩, by decide⟩,
    ⟨by decide, _, _, .inr ⟨by decide, _, ⟨_, [(⟨0, 64, 64⟩, 64), (⟨1, 128, 64⟩, 128)], _, _, _, rfl, rfl, rfl, by decide, by decide, rfl, rfl⟩, rfl⟩, by decide, by decide,
      _, _, _, rfl, rfl, by decide, by decide, by decide, by decide⟩, by decide, by decide, by decide⟩

/-- Object 0 of 64-bit elements. -/
def wideObj (st : ObjSt) : ObjEntry := { obj st 0 false with shape := BitVec.ofNat 512 (3 * 2 ^ 401 + 3 * 2 ^ 392 + 2 ^ 160 + 2 ^ 128 + 2 ^ 96 + 8 * 2 ^ 64 + 2 ^ 384) }

theorem test_meets_stopped_reductions :
    (Ready (.red 4 6 3) acquiring ∧ acquiring.split.acq ≠ []) ∧
    (let s := objects [obj .shared 1 false] (lanes 1 probe); Ready (.red 4 6 1) s ∧ s.split.acq = [] ∧ (s.issued (.red 4 6 1)).elemsP 4 4 ≠ [] ∧
      (∀ e ∈ (s.issued (.red 4 6 1)).elemsP 4 4, s.objAt s.myVdid e.gva = some (obj .shared 1 false)) ∧ (obj .shared 1 false).esize ≠ 8 ∧
      tagFits 1 (obj .shared 1 false).fmt = false) ∧
    (let s := objects [wideObj .shared] (lanes 1 probe); (wideObj .shared).esize = 8 ∧ Ready (.red 4 7 1) s ∧ (7 : BitVec 7).toNat % 2 = 1 ∧
      (∀ e ∈ (s.issued (.red 4 7 1)).elemsP 4 4, s.objAt s.myVdid e.gva = some (wideObj .shared)) ∧ s.cur.regs.bad = []) ∧
    (let s := objects [obj .ownerLost 1 false] probe; Ready (.redClose 9 4) s ∧
      s.objAt s.myVdid (s.sreg 4).toNat = some (obj .ownerLost 1 false)) ∧
    (let x := obj .shared 1 false; let s := objects [x] probe; s.obj? 0 = some x ∧ x.st ≠ .ownerLost ∧ s.ownedAway x = false ∧ x.st ≠ .update ∧ x.isMember = false) ∧
    (let x := obj .update 1 false; let s := objects [x] probe; s.obj? 0 = some x ∧ x.tag = 3) ∧
    (let x := obj .update 0 true; let s := waiting (.answer .close 9 0 5) (objects [x] probe); s.obj? 0 = some x ∧ x.st = .update) := by
  refine ⟨?_, ?_, ?_, ?_, ?_, ?_, ?_⟩ <;> decide

/-- A snoop that stands at an object. -/
def snooped (q : Snoop) (st : ObjSt) : ObjEntry := { obj st 1 false with snoop := some q }

/-- A node of object 0 with one child. -/
def node1 : MNode := ⟨0, 1, 0, [(0, [])], 0, false⟩

/-- The time in nanoseconds. -/
def atPace (n : Nat) (s : State) : State := { s with ps := 1000 * n }

theorem test_meets_object_events :
    (let x := obj .update 1 false; let s := objects [x] probe; s.obj? 0 = some x ∧ x.ordered = true ∧ x.isMember = false ∧
      s.rejects x ⟨1, 0, 0, [], 0⟩ = false ∧ x.fan 1 ≠ 1 ∧ s.nodes = []) ∧
    (let x := { obj .update 1 false with incomplete := true, late := [5] }; let s := objects [x] probe; s.obj? 0 = some x ∧ x.ordered = true ∧
      x.st = .update ∧ x.isMember = false ∧ s.rejects x ⟨1, 0, 5, [], 0⟩ = true) ∧
    (let x := { obj .update 1 true with isMember := true }; (objects [x] probe).obj? 0 = some x ∧ x.isMember = true ∧ x.ordered = true) ∧
    (let x := { obj .shared 1 false with barred := [(768, 9)] }; let s := objects [x] probe; s.obj? 0 = some x ∧
      (s.asker (.read 768), 9) ∈ x.barred ∧ 8 < 9) ∧
    (let f : FarOwned := ⟨768, [0x3000], 0, []⟩; ({ probe with owned := [f] } : State).farOwner 0x3000 = some f) ∧
    (let q : Snoop := ⟨768, 0, 1, false, false, []⟩; let x := snooped q (.owned 768); let s := objects [x] (atPace 20000 probe);
      s.obj? 0 = some x ∧ q.held = [] ∧ q.agent / 256 ≠ s.pkgNum ∧ s.pace ≤ q.sent + 20000 ∧ q.sent ≤ 5 ∧ (769 : Nat) ≠ q.agent ∧
      (objects [x] (atPace 20001 probe)).obj? 0 = some x ∧ q.sent + 20000 < (atPace 20001 probe).pace) ∧
    (let q : Snoop := ⟨0, 7, 1, true, true, []⟩; q.agent / 256 = probe.pkgNum ∧ q.answered = true ∧ 6 < q.sent) ∧
    (let x := { obj .update 1 true with tree := tree1 6 }; let s : State := { atPace 100000 (objects [x] probe) with nodes := [node1] };
      s.obj? 0 = some x ∧ s.nodes.find? (fun y => y.obj == 0 && y.level == 1 && y.index == 0) = some node1 ∧ 6 ≤ x.dom 1 ∧
      node1.first + x.tmo = s.pace) ∧
    (let x := { obj .update 1 true with tree := tree1 6 }; let s : State := { atPace 99999 (objects [x] probe) with nodes := [node1] };
      s.obj? 0 = some x ∧ s.pace < node1.first + x.tmo) ∧
    (let x := snooped ⟨768, 0, 1, false, false, []⟩ (.owned 768); (objects [x] probe).obj? 0 = some x ∧ x.snoop ≠ none ∧ x.st = .owned 768 ∧
      (atPace 6999 probe).pace < 0 + 7000 * 1 ∧ 0 + 7000 * 1 = (atPace 7000 probe).pace ∧ (atPace 19999 probe).pace < 0 + 20000 ∧
      0 + 20000 = (atPace 20000 probe).pace) ∧
    ((objects [obj .shared 1 false] probe).obj? 0 = some (obj .shared 1 false) ∧ (obj .shared 1 false).snoop = none ∧
      (obj .shared 1 false).barred = [] ∧ (obj .shared 1 false).isMember = false) ∧
    ((objects [obj (.priv 3) 1 false] probe).obj? 0 = some (obj (.priv 3) 1 false)) ∧
    (let x := obj .shared 0 false; (objects [x] probe).obj? 0 = some x ∧ x.ordered = false ∧ x.snoop = none ∧ (768 : Nat) / 256 ≠ probe.pkgNum ∧ 768 ∉ x.away) ∧
    (let x := snooped ⟨768, 0, 2, false, false, []⟩ (.owned 768); (objects [x] probe).obj? 0 = some x ∧ 2 < 3 ∧ 0 + 7000 * 2 = (atPace 14000 probe).pace ∧
      (snooped ⟨0, 0, 1, true, true, []⟩ (.owned 0)).snoop = some ⟨0, 0, 1, true, true, []⟩) ∧
    ((objects [obj (.owned 768) 1 false] probe).obj? 0 = some (obj (.owned 768) 1 false) ∧ (768 : Nat) ≠ 0 ∧ 768 / 256 ≠ probe.pkgNum ∧ (atPace 20000 probe).pace ≤ 0 + 20000) := by
  refine ⟨?_, ?_, ?_, ?_, ?_, ?_, ?_, ?_, ?_, ?_, ?_, ?_, ?_, ?_, ?_, ?_⟩ <;> decide

/-- A holder descriptor for the probe's package: role, local index. -/
def desc (role n : Nat) : Nat := n * 2 ^ 24 + 5 * 2 ^ 16 + role * 2 ^ 14 + 255 * 2 ^ 6 + 52

/-- A relay of a holder of the prefix of page 1, that has gone by `path`. -/
def relay (path : List Nat) (wd : Bool) (role : Role) : RelayMsg := ⟨⟨0x1000, 52⟩, ms, role, 20, 255, 3, path, wd, ms⟩

/-- The relay on its way to CD0's router. -/
def relaying (m : RelayMsg) (s : State) : State := { s with relays := [⟨9, s.localId 0, m⟩] }

/-- An entry of CD0's router for page 1. -/
def entry (hs : List Nat) : RtEntry := ⟨probe.localId 0, ⟨0x1000, 52⟩, hs.map (fun h => ⟨h, .replica, 20, 255, 1, [h]⟩), 0⟩

/-- A write of page 0 at a holder. -/
def writeAt (prim : Nat) (ph : WPhase) (echo : List (Nat × Option Nat)) (kind : WKind) : WriteReq :=
  ⟨9, .engine, 0, 0, 0, 0, 64, 64, 1, kind, prim, 0, [], none, ph, [], 0, 0, 0, echo, 0, false, false, none, [], none⟩

/-- The write on its way. -/
def writing (w : WriteReq) (s : State) : State := { s with writes := [w] }

theorem test_meets_route_instructions :
    (Ready (.rteAnn 9 4 5) probe ∧ Ready (.rteWd 9 4 5) probe ∧ Ready (.rteRole 9 4 5) probe ∧ Ready (.rteSync 4 9) probe) ∧
    (let s := waiting (.answer .rte 9 0 (2 * 2 ^ 64)) probe; (s.group? s.cur.place.uid).isSome = true ∧
      (s.cur.ctl.split 0).wait = .answer .rte 9 0 (2 * 2 ^ 64)) ∧
    (let s := waiting (.answer .sync 9 5 0) probe; (s.cur.ctl.split 0).wait = .answer .sync 9 5 0 ∧ s.relays = []) ∧
    (let s := waiting (.answer .sync 9 10 3) (relaying (relay [ms] false .replica) probe); ∃ f ∈ s.relays, f.id < 10 ∧ (3 = 3 → f.dst < 2 ^ 24) ∧
      f.msg.path.head? = some ms ∧ ms / 256 = s.pkgNum ∧ ms % 256 < 32) ∧
    (probe.rteCommon true 0 0 ≠ none ∧ probe.rteCommon true 0x1000 (desc 2 16) = none ∧ bitsOf (desc 2 16) 23 16 = 5 ∧
      bitsOf (desc 2 16) 15 14 = 2) ∧
    (let y := desc 0 16; probe.rteCommon true 0x1000 y = none ∧ bitsOf y 23 16 = 5 ∧ bitsOf y 15 14 = 0 ∧
      probe.record ⟨0x1000, bitsOf y 5 0⟩ (bitsOf y 47 24) = none ∧ probe.exactEntry (bitsOf y 47 24) ⟨0x1000, bitsOf y 5 0⟩ = none ∧
      probe.entryFree (bitsOf y 47 24) = true) ∧
    (probe.rteCommon false 0x1000 (desc 0 16) = none ∧ probe.record ⟨0x1000, 52⟩ 16 = none) ∧
    (probe.rteCommon false 0 (desc 0 16) = none ∧ (probe.record ⟨0, bitsOf (desc 0 16) 5 0⟩ (bitsOf (desc 0 16) 47 24)).map HolderSt.st = some .primary) ∧
    (let s := probe.setSreg 4 0x1000; Ready (.rteQ 9 4 2) s ∧ s.routeEntry (s.dieRouter s.cur.place.core) (s.sreg 4).toNat = none) ∧
    (Ready (.rteQ 9 4 1) probe ∧ (probe.routeEntry (probe.dieRouter probe.cur.place.core) (probe.sreg 4).toNat).isSome = true ∧
      (probe.routeWrite (probe.dieRouter probe.cur.place.core) (probe.sreg 4).toNat []).map RtHolder.role = some .primary) := by
  refine ⟨?_, ?_, ?_, ?_, ?_, ?_, ?_, ?_, ?_, ?_⟩ <;> decide

theorem test_meets_relays :
    (let m := relay (List.replicate 16 77) false .replica; let s := relaying m probe;
      s.relays.find? (fun f => f.dst == s.localId 0 && f.msg.via == m.via) = some ⟨9, s.localId 0, m⟩ ∧ 16 = m.path.length ∧
      s.tooFar (s.localId 0) m = false ∧ { m with cost := 5 } ≠ m ∧ { m with cost := 5 }.via = m.via) ∧
    (let m := { relay [ms] false .replica with cost := 65535 }; probe.tooFar (probe.localId 0) m = true ∧ probe.relays = [] ∧
      probe.tooFar (probe.localId 0) (relay [ms] false .replica) = false) ∧
    (let m := relay (ms :: List.replicate 14 77) false .replica; let s := relaying m probe;
      s.relays.find? (fun f => f.dst == s.localId 0 && f.msg.via == m.via) = some ⟨9, s.localId 0, m⟩ ∧ m.path.contains (s.localId 0) = false ∧
      m.path.length = 15 ∧ s.tooFar (s.localId 0) m = false ∧ m.wd = false ∧ roleOnly m = false ∧ s.exactEntry (s.localId 0) m.pre = none ∧
      s.entryFree (s.localId 0) = true) ∧
    (let m := relay [ms] false .replica; roleOnly m = false ∧ let s := relaying m { probe with routes := [entry [1, 2, 3, 4]] };
      s.exactEntry (s.localId 0) m.pre = some (entry [1, 2, 3, 4]) ∧ m.role ≠ .primary ∧ 4 ≤ (entry [1, 2, 3, 4]).holders.length + s.drainPlaces (s.localId 0) m.pre ∧
      ∀ h ∈ (entry [1, 2, 3, 4]).holders, h.holder ≠ m.holder) ∧
    (let m := relay [ms] true .replica; let s := relaying m { probe with routes := [entry [ms]] };
      m.wd = true ∧ s.exactEntry (s.localId 0) m.pre = some (entry [ms]) ∧ ∃ h ∈ (entry [ms]).holders, h.holder = m.holder) ∧
    ((256 : Nat) / 256 ≠ probe.pkgNum ∧ ms / 256 = probe.pkgNum ∧ probe.record ⟨0x1000, 52⟩ ms = none ∧
      (probe.record ⟨0, 52⟩ ms).map HolderSt.st = some .primary ∧ probe.refused.contains (⟨0, 52⟩, ms, 5) = false) ∧
    (let h : HolderSt := ⟨⟨0x1000, 52⟩, ms, .draining, 20, 255, [], 0, 0, none, 0, [], []⟩; let s : State := { atPace 32000 probe with holders := [h] };
      s.record ⟨0x1000, 52⟩ ms = some h ∧ h.settle + 32000 = s.pace ∧ s.relays = [] ∧ s.writes = [] ∧ ∀ e ∈ s.routes, e.pre ≠ ⟨0x1000, 52⟩) ∧
    (let s := atPace 31999 probe; (s.record ⟨0, 52⟩ ms).isSome = true ∧ ∃ e ∈ s.routes, e.pre = ⟨0, 52⟩ ∧ s.pace < e.changed + 32000) ∧
    (let w := writeAt 77 .applied [(ms, none)] (.bytes [1]); let s := atPace 5001 (writing w probe); s.write? 9 = some w ∧ w.phase = .applied ∧
      w.echo = [(ms, none)] ∧ w.time + 5000 < s.pace ∧ s.write? w.id = some w ∧ (s.holderState ms w.addr).isSome = true) ∧
    (let w := writeAt ms .travel [] (.bytes [1]); (writing w probe).write? 9 = some w ∧ w.phase ≠ .applied) ∧
    (let w := { writeAt ms .applied [(17, none)] (.bytes [1]) with addr := 0 }; let h : HolderSt := ⟨⟨0, 52⟩, 17, .replica, 20, 255, [], 0, 0, none, 0, [], []⟩;
      let s : State := { probe with holders := [h], renewed := [⟨⟨0, 52⟩, ms, 17, 1000, true, 20000, true⟩] }; 17 % 256 ≠ 255 ∧ w.prim / 256 = s.pkgNum ∧ s.write? w.id = none ∧
      s.holderState 17 w.addr = some h ∧ s.renewed.find? (fun r => r.prim == w.prim && r.holder == 17 && prefixCovers r.pre w.addr && r.issued) =
        some ⟨⟨0, 52⟩, ms, 17, 1000, true, 20000, true⟩) ∧
    (let s : State := { probe with refused := [(⟨0x1000, 52⟩, ms, 5)] };
      (s.withdrawnHere ms ⟨0x1000, 52⟩ ms).refused.any (fun q => q.1 == ⟨0x1000, 52⟩ && q.2.1 == ms) = true) ∧
    ((entry [1]).holders ≠ [] ∧ (probe.routeRead (probe.localId 0) 0 []).isSome = true ∧ (probe.routeWrite (probe.localId 0) 0 []).isSome = true) := by
  refine ⟨?_, ?_, ?_, ?_, ?_, ?_, ?_, ?_, ?_, ?_, ?_, ?_, ?_⟩ <;> decide

/-- Block 5 of VDID 0 lies at 2 MiB, mapped at GVA 0 by a leaf of level 2 of footprint index 5; its record stands at 0xA0
(18 R309, R310). -/
def tiered (far tier pin : Nat) : State :=
  let s := lay 0x2000 (leBytes 9 (4 * 2 ^ 64 + 1)) (lay 0x4000 (leBytes 9 (6 * 2 ^ 64 + 1)) (wide probe))
  let s := lay 0x6000 (leBytes 10 (0x200 * 2 ^ 64 + 5 * 2 ^ 44 + far * 2 ^ 8 + 7 * 2 ^ 3 + 3)) s
  let s := lay 0xA0 (leBytes 27 (0x600 * 2 ^ 196 + tier * 2 ^ 134 + pin * 2 ^ 133 + 0x200000 * 2 ^ 64 + 17)) s
  { s with
    vregs := { s.vregs with s2root := s.vregs.s2root.setIfInBounds 0 0x2001, tierTab := s.vregs.tierTab.set 0 6 }
    pkg := { s.pkg with tierCfg := 0x20001 } }

/-- A range of eight bytes at GVA 0 that `s4` and `s5` name. -/
def ranged (s : State) : State := s.setSreg 5 8

/-- A block of the given kind, far, tier and pin. -/
def kindOf (k : Option Block) : Option (Bool × Nat × Bool) := k.map (fun k => (k.far, k.tier, k.pin))

theorem test_meets_tier_instructions :
    (let s := ranged (tiered 1 0 0); Ready (.tierRec 9 4 5) s ∧ s.myCtx = some probeCtx ∧
      ((s.issued (.tierRec 9 4 5)).rangeBlocks probeCtx 4 5).1 = ([5], false)) ∧
    (Ready (.tierHintUp 9 4 5) (tiered 1 0 0) ∧ (((tiered 1 0 0).issued (.tierHintUp 9 4 5)).rangeBlocks probeCtx 4 5).1 = ([], false)) ∧
    (let s := ranged (tiered 1 0 0); let v := s.issued (.tierHintUp 9 4 5); Ready (.tierHintUp 9 4 5) s ∧ (v.rangeBlocks probeCtx 4 5).1 = ([5], false) ∧
      (let w := ((v.rangeBlocks probeCtx 4 5).2.putBit 0 probeCtx.fset 5 true).seeBlock 0 5; kindOf (w.recOf? 0 5) = some (true, 0, false) ∧ w.tierEn = true ∧
        w.tier.moves = [] ∧ w.tier.cmds = [])) ∧
    (let s := ranged (tiered 0 0 0); let r := (s.issued (.tierHintUp 9 4 5)).rangeBlocks probeCtx 4 5; r.1 = ([5], false) ∧
      kindOf (((r.2.putBit 0 probeCtx.fset 5 true).seeBlock 0 5).recOf? 0 5) = some (false, 0, false)) ∧
    (let s := ranged (tiered 0 0 0); let r := (s.issued (.tierHintDown 9 4 5)).rangeBlocks probeCtx 4 5; Ready (.tierHintDown 9 4 5) s ∧
      r.1 = ([5], false) ∧ kindOf (((r.2.putBit 0 probeCtx.fset 5 false).seeBlock 0 5).recOf? 0 5) = some (false, 0, false)) ∧
    (let s := ranged (tiered 0 0 1); let r := (s.issued (.tierHintDown 9 4 5)).rangeBlocks probeCtx 4 5; r.1 = ([5], false) ∧
      kindOf (((r.2.putBit 0 probeCtx.fset 5 false).seeBlock 0 5).recOf? 0 5) = some (false, 0, true)) ∧
    (Ready (.tierQ 9 4) probe ∧ ∃ x v, (probe.issued (.tierQ 9 4)).probe probeCtx 0 0 true = (.ok x, v) ∧ x.block = none) ∧
    (let s := tiered 1 0 0; Ready (.tierQ 9 4) s ∧ ∃ x v, (s.issued (.tierQ 9 4)).probe probeCtx 0 0 true = (.ok x, v) ∧ x.block = some 5 ∧
      let w := ((v.seeBlock 0 5).arrive 0 probeCtx.fset 1).arrive 0 probeCtx.bitmap 1;
      (w.recOf? 0 5).map Block.blk = some 0x200000 ∧ (w.routeWrite (w.dieRouter 0) 0x200000 []).isSome = true ∧
      s.block? 0 6 = none ∧ ((s.vregs.tierTab[0]?).getD 0).toNat % 2 ^ 21 = 6) := by
  refine ⟨?_, ?_, ?_, ?_, ?_, ?_, ⟨by decide, _, _, rfl, by decide⟩, ⟨by decide, _, _, rfl, by decide, by decide, by decide, by decide, by decide⟩⟩ <;> decide

/-- A command of the tier engine for block 5, and a move of it. -/
def tcmd (d : Dir) : TierCmd := ⟨0x200000, 0, 0, 0xA0, d, 0, [⟨9, 1, 0, 0, ⟨5, 0, 3, 0⟩, 0, .read⟩]⟩
def move (src : Nat) (st : MoveSt) (pos : Nat) (ans : Option Nat) : Move := ⟨9, tcmd .up, src, 17, st, pos, false, true, 0, ans⟩
def moving (m : Move) (s : State) : State := { s with tier := ⟨[], [m], []⟩ }
def offering (s : State) : State := { s with tier := ⟨[], [], [⟨9, 1, 0, 0, ⟨5, 0, 3, 0⟩, 0, .read⟩]⟩ }
def commanded (s : State) : State := { s with tier := ⟨[tcmd .up], [], []⟩ }

/-- The new holder of block 5 fills. -/
def filling (s : State) : State :=
  { s with holders := ⟨blkPrefix 0x200000, 17, .filling, 20, 255, [], 0, 0, none, 0, [], []⟩ :: s.holders }

set_option maxRecDepth 20000 in
theorem test_meets_tier_faults :
    (let s : State := { tiered 1 0 0 with tier := ⟨[{ tcmd .up with waiters := List.replicate 1024 ⟨9, 1, 0, 0, ⟨5, 0, 3, 0⟩, 0, .read⟩ }], [], [⟨9, 1, 0, 0, ⟨5, 0, 3, 0⟩, 0, .read⟩]⟩ };
      s.tier.offered.find? (fun w => w.id == 9) = some ⟨9, 1, 0, 0, ⟨5, 0, 3, 0⟩, 0, .read⟩ ∧ s.tier.faults = 1024) ∧
    (let s := offering (tiered 0 0 0); s.tier.offered.find? (fun w => w.id == 9) = some ⟨9, 1, 0, 0, ⟨5, 0, 3, 0⟩, 0, .read⟩ ∧ s.tier.faults < 1024 ∧
      kindOf ((s.seeBlock 0 5).block? 0 5) = some (false, 0, false)) ∧
    (let s := offering (tiered 1 0 0); s.tier.offered.find? (fun w => w.id == 9) = some ⟨9, 1, 0, 0, ⟨5, 0, 3, 0⟩, 0, .read⟩ ∧
      kindOf ((s.seeBlock 0 5).block? 0 5) = some (true, 0, false) ∧ (s.seeBlock 0 5).tier.moves = [] ∧ (s.seeBlock 0 5).tier.cmds = []) ∧
    (let s := offering probe; s.tier.faults < 1024 ∧ kindOf ((s.seeBlock 0 5).block? 0 5) = none) ∧
    (probe.nextCmd = none ∧ (commanded (tiered 1 0 0)).nextCmd = some (tcmd .up)) ∧
    (let s := commanded (tiered 0 0 0); s.nextCmd = some (tcmd .up) ∧ ((tcmd .up).recAddr - (s.recAddr 0 0).getD 0) / 32 = 5 ∧
      kindOf ((State.seeBlock { s with tier := { s.tier with cmds := s.tier.cmds.erase (tcmd .up) } } 0 5).block? 0 5) = some (false, 0, false)) ∧
    (let s := commanded (tiered 1 0 0); s.nextCmd = some (tcmd .up) ∧
      kindOf ((State.seeBlock { s with tier := { s.tier with cmds := s.tier.cmds.erase (tcmd .up) } } 0 5).block? 0 5) = some (true, 0, false)) := by
  refine ⟨?_, ?_, ?_, ?_, ?_, ?_, ?_⟩ <;> decide

theorem test_meets_tier_moves :
    (let m := move 16 .announcing 0 none; let s := moving m probe; s.move? 9 = some m ∧ m.st = .announcing ∧ s.relays = [] ∧ m.answer.getD 0 = 0 ∧
      m.answer.getD 3 ≠ 0 ∧ s.refused = [] ∧ m.cmd.dir = .up ∧ s.tooLate m = false ∧ (filling s).filling m = true ∧ (filling s).move? 9 = some m) ∧
    (let m := move 16 .copying 0 none; let s := moving m (wide probe); s.move? 9 = some m ∧ s.filling m = false ∧ (s.home (m.cmd.blk + m.pos)).isSome = true) ∧
    (let m := { move 16 .handing 0 none with dst := 768 }; let s : State := { moving m (wide probe) with
        holders := [⟨blkPrefix 0x200000, 16, .primary, 20, 255, [], 0, 0, none, 0, [], []⟩] };
      m.dst / 256 ≠ s.pkgNum ∧ (s.record (blkPrefix m.cmd.blk) m.src).map HolderSt.st = some .primary ∧ (move 16 .handing 0 none).dst / 256 = s.pkgNum) ∧
    ((RteOp.wd ≠ .baton) ∧ (let m := move 16 .handing 0 none; let s := atPace 20001 (moving m probe); s.move? 9 = some m ∧ s.tooLate m = true)) ∧
    (let m := move 16 .copying (2 ^ 21 - 64) none; let s := filling (moving m (wide probe)); s.move? 9 = some m ∧ m.pos < 2 ^ 21 ∧ m.dst / 256 = s.pkgNum ∧
      s.filling m = true ∧ (s.home (m.cmd.blk + m.pos)).map RtHolder.holder = some ms ∧
      ((s.settleLine ms (m.cmd.blk + m.pos)).lineAt ms (m.cmd.blk + m.pos)).poison = false) ∧
    (let m := move 16 .copying 0 none; let s := moving m { probe with routes := [] }; s.move? 9 = some m ∧ s.home (m.cmd.blk + m.pos) = none) ∧
    (let m := move 16 .copying 0 none; let s : State := { moving m (wide probe) with lines := [⟨memKey 16 0x200000, 0, 0, 0, true, false, 0⟩] };
      s.move? 9 = some m ∧ (s.home (m.cmd.blk + m.pos)).map RtHolder.holder = some 16 ∧ ((s.settleLine 16 (m.cmd.blk + m.pos)).lineAt 16 (m.cmd.blk + m.pos)).poison = true) ∧
    (let m := move 16 .copying (2 ^ 21) none; let s := moving m probe; s.move? 9 = some m ∧ 2 ^ 21 = m.pos ∧ s.fills = [] ∧ m.dst / 256 = s.pkgNum) ∧
    (let m := move 16 .handing 0 none; let s := moving m probe; s.move? 9 = some m ∧ m.st = .handing ∧ m.answer.getD 0 = 0 ∧ m.answer.getD 3 ≠ 0 ∧ s.tooLate m = false) ∧
    (let m := move 768 .withdrawing 0 none; let s := moving m probe; s.move? 9 = some m ∧ m.src / 256 ≠ s.pkgNum ∧ m.cmd.dir = .up ∧ s.exactEntry (s.localId 0) (blkPrefix m.cmd.blk) = none ∧
      (s.seeBlock m.cmd.vdid ((m.cmd.recAddr - (s.recAddr m.cmd.vdid 0).getD 0) / 32)).block? m.cmd.vdid ((m.cmd.recAddr - (s.recAddr m.cmd.vdid 0).getD 0) / 32) = none) ∧
    (let m := move 768 .withdrawing 0 none; let s := moving m (tiered 1 0 0); s.move? 9 = some m ∧ m.src / 256 ≠ s.pkgNum ∧
      s.exactEntry (s.localId 0) (blkPrefix m.cmd.blk) = none ∧ ((s.seeBlock m.cmd.vdid ((m.cmd.recAddr - (s.recAddr m.cmd.vdid 0).getD 0) / 32)).block? m.cmd.vdid
        ((m.cmd.recAddr - (s.recAddr m.cmd.vdid 0).getD 0) / 32)).isSome = true) ∧
    ((probe.vregs.part[5]?).getD 255 = 255 ∧
      (let s : State := { probe with vregs := { probe.vregs with part := probe.vregs.part.set 5 0 } }; (s.vregs.part[5]?).getD 255 ≠ 255)) ∧
    (let m := move 16 .handing 0 none; let s := atPace 20001 (moving m probe); s.move? 9 = some m ∧ m.answer = none ∧ m.asked + 20000 < s.pace ∧
      (atPace 20000 s).pace ≤ m.asked + 20000) := by
  refine ⟨?_, ?_, ?_, ?_, ?_, ?_, ?_, ?_, ?_, ?_, ?_, ?_, ?_⟩ <;> decide

/-- A launch record of 128 registers, completion scope 2, one level of one group (17 R295, 02 R27). -/
def launchRaw : Nat := 128 * 2 ^ 64 + 2 * 2 ^ 100 + (1 + 16 + 32 * 2 ^ 32) * 2 ^ 512

/-- The record's first bytes at 0x100, `s4` pointing at it, late enough for every release. -/
def placedAt (n : Nat) (raw : Nat) (s : State) : State := lay 0x100 (leBytes n raw) (s.setSreg 4 0x100)

/-- Work list 2 of the probe's partition, of four items at 0x200. -/
def listed (head tail prod : Nat) (resv : List (Nat × Nat)) : WorkList := ⟨0, 2, BitVec.ofNat 64 (8 * 2 ^ 6 + 2 * 2), head, tail, prod, resv, []⟩
def withList (w : WorkList) (s : State) : State := { s with wls := [w] }

/-- A write at the line of address 0 has yet to be acknowledged: an access there waits. -/
def held0 (s : State) : State := writing { writeAt ms .invalidating [] (.bytes [2]) with addr := 0 } s

theorem test_meets_launch :
    (let s := probe.setSreg 4 32; Ready (.launch 9 4) s ∧ (s.sreg 4).toNat % 64 ≠ 0) ∧
    (let s := placedAt 1 0 late; Ready (.launch 9 4) s ∧ (s.sreg 4).toNat % 64 = 0 ∧ ∃ bs t, Reads (s.issued (.launch 9 4)) (s.sreg 4).toNat 4 bs t ∧
      bitsOf (ofLeBytes bs) 103 100 < 2) ∧
    (let s := placedAt 13 launchRaw probe; Ready (.launch 9 4) s ∧ ∃ bs t, Reads (s.issued (.launch 9 4)) (s.sreg 4).toNat 4 bs t ∧
      bitsOf (ofLeBytes bs) 103 100 = 2 ∧ t.relOk 2 (s.issued (.launch 9 4)).since = false) ∧
    (let s := placedAt 13 launchRaw late; Ready (.launch 9 4) s ∧ ∃ bs t x r, Reads (s.issued (.launch 9 4)) (s.sreg 4).toNat 4 bs t ∧
      bitsOf (ofLeBytes bs) 103 100 = 2 ∧ t.relOk 2 (s.issued (.launch 9 4)).since = true ∧ t.cur.trap.deferred = [] ∧
      t.finishLaunch (ofLeBytes bs) = (some x, r)) ∧
    (let s := held0 (placedAt 13 launchRaw late); Ready (.launch 9 4) s ∧ ∃ bs t r, Reads (s.issued (.launch 9 4)) (s.sreg 4).toNat 4 bs t ∧
      bitsOf (ofLeBytes bs) 103 100 = 2 ∧ t.relOk 2 (s.issued (.launch 9 4)).since = true ∧ t.cur.trap.deferred = [] ∧
      t.finishLaunch (ofLeBytes bs) = (none, r)) ∧
    (let s : State := { probe with pkg := { probe.pkg with tray := 1 } }; s.myCtx = some probeCtx ∧ s.tableFull probeCtx.part = true) ∧
    (badFields (newRec probe.nextId 0 0 0) 1 = true ∧ (2 ^ 32 - 1 : Nat) < 2 ^ 32) := by
  refine ⟨by decide,
    ⟨by decide, by decide, _, _, .inr ⟨by decide, _, ⟨_, [(⟨0, 0x100, 64⟩, 0x100), (⟨1, 0x140, 64⟩, 0x140), (⟨2, 0x180, 64⟩, 0x180), (⟨3, 0x1C0, 64⟩, 0x1C0)], _, _, _, rfl, rfl, rfl, by decide, by decide, rfl, rfl⟩, rfl⟩, ?_⟩,
    ⟨by decide, _, _, .inr ⟨by decide, _, ⟨_, [(⟨0, 0x100, 64⟩, 0x100), (⟨1, 0x140, 64⟩, 0x140), (⟨2, 0x180, 64⟩, 0x180), (⟨3, 0x1C0, 64⟩, 0x1C0)], _, _, _, rfl, rfl, rfl, by decide, by decide, rfl, rfl⟩, rfl⟩, ?_, ?_⟩,
    ⟨by decide, _, _, _, _, .inr ⟨by decide, _, ⟨_, [(⟨0, 0x100, 64⟩, 0x100), (⟨1, 0x140, 64⟩, 0x140), (⟨2, 0x180, 64⟩, 0x180), (⟨3, 0x1C0, 64⟩, 0x1C0)], _, _, _, rfl, rfl, rfl, by decide, by decide, rfl, rfl⟩, rfl⟩, ?_, ?_, ?_, rfl⟩,
    ⟨by decide, _, _, _, .inr ⟨by decide, _, ⟨_, [(⟨0, 0x100, 64⟩, 0x100), (⟨1, 0x140, 64⟩, 0x140), (⟨2, 0x180, 64⟩, 0x180), (⟨3, 0x1C0, 64⟩, 0x1C0)], _, _, _, rfl, rfl, rfl, by decide, by decide, rfl, rfl⟩, rfl⟩, ?_, ?_, ?_, rfl⟩, ?_, ?_⟩ <;> decide

theorem test_meets_work_lists :
    (Ready (.wlPush 9 6 2) probe ∧ probe.wlBad (probe.wl probe.myPart 2) = true ∧ Ready (.wlPop 6 9 2 1) probe ∧ Ready (.wlDone 2) probe) ∧
    (let w := listed 0 0 0 []; let s := withList w probe; s.myCtx = some probeCtx ∧ s.wl s.myPart 2 = w ∧ s.wlBad w = false ∧
      w.prod = 0 ∧ w.quiescent = true ∧ s.split.acq = [] ∧ Ready (.wlPush 9 6 2) s ∧ Ready (.wlPop 6 9 2 1) s ∧ Ready (.wlDone 2) s) ∧
    (let w := listed 0 1 1 []; let s := withList w (lanes 15 probe); Ready (.wlPush 9 6 2) s ∧ s.myCtx = some probeCtx ∧ s.wl s.myPart 2 = w ∧
      s.wlBad w = false ∧ w.prod ≠ 0 ∧ w.cap + 1 = w.ahead w.tail + (lanesOf (s.issued (.wlPush 9 6 2)).exec).length) ∧
    (let w := listed 0 0 1 []; let s := withList w (lanes 15 probe); let i := Instr.wlPush 9 6 2; Ready i s ∧
      s.myCtx = some probeCtx ∧ s.wl s.myPart 2 = w ∧ s.wlBad w = false ∧ w.prod ≠ 0 ∧ 0 < (lanesOf (s.issued i).exec).length ∧
      w.ahead w.tail + (lanesOf (s.issued i).exec).length = w.cap ∧ s.split.acq = [] ∧
      ((s.issued i).seeItems probeCtx w ((List.range (lanesOf (s.issued i).exec).length).map (fun j => w.tail + j))).itemsAt probeCtx w 2
        ((List.range (lanesOf (s.issued i).exec).length).map (fun j => w.tail + j)) = ([0x200, 0x208, 0x210, 0x218], [], none) ∧
      (let u := (s.issued i).seeItems probeCtx w ((List.range (lanesOf (s.issued i).exec).length).map (fun j => w.tail + j));
        u.relOk 3 u.nextId = false ∧ (State.relOk { u with ps := 10 ^ 9 } 3 u.nextId) = true)) ∧
    (let w := listed 0 0 1 []; let s := withList w (lanes 15 acquiring); Ready (.wlPush 9 6 2) s ∧ s.split.acq ≠ [] ∧ s.myCtx = some probeCtx ∧
      s.wl s.myPart 2 = w ∧ s.wlBad w = false ∧ w.prod ≠ 0 ∧ w.ahead w.tail + (lanesOf (s.issued (.wlPush 9 6 2)).exec).length ≤ w.cap) ∧
    (let w := listed 0 4 1 []; let s := withList w (lanes 0 probe); Ready (.wlPush 9 6 2) s ∧ s.split.acq = [] ∧ s.myCtx = some probeCtx ∧
      s.wl s.myPart 2 = w ∧ s.wlBad w = false ∧ w.prod ≠ 0 ∧ lanesOf (s.issued (.wlPush 9 6 2)).exec = [] ∧ w.ahead w.tail = w.cap ∧
      (s.issued (.wlPush 9 6 2)).relOk 3 s.nextId = false ∧ State.relOk { s.issued (.wlPush 9 6 2) with ps := 10 ^ 9 } 3 s.nextId = true ∧
      w.void = [] ∧ w.resv = [] ∧ w.tail < 2 ^ 40) ∧
    (let w := listed 0 1 1 [(0, 1)]; let s := withList w probe; s.myCtx = some probeCtx ∧ s.wl s.myPart 2 = w ∧ s.wlBad w = false ∧
      s.split.acq = [] ∧ w.quiescent = false ∧ w.poppable = 0 ∧ w.head < 2 ^ 40 ∧ Ready (.wlPop 6 9 2 1) s ∧ Ready (.wlDone 2) s ∧ w.prod ≠ 0) ∧
    (let w := listed (2 ^ 40 - 1) 1 1 []; let s := withList w probe; let i := Instr.wlPop 6 9 2 1;
      let u := (s.issued i).seeItems probeCtx w ((List.range 2).map (fun j => w.head + j)); Ready i s ∧ s.myCtx = some probeCtx ∧
      s.wl s.myPart 2 = w ∧ s.wlBad w = false ∧ s.split.acq = [] ∧ 2 = ((lanesOf (s.issued i).exec).take w.poppable).length ∧
      u.itemsAt probeCtx w 1 ((List.range 2).map (fun j => w.head + j)) = ([0x218, 0x200], [], none) ∧
      ∃ x bs st, u.readEach (u.itemWants probeCtx [0x218, 0x200]) = .got x bs st) := by
  refine ⟨?_, ?_, ?_, ?_, ?_, ?_, ?_, ⟨?_, ?_, ?_, ?_, ?_, ?_, ?_, _, _, _, rfl⟩⟩ <;> decide

/-- The record of the probe's launch, in a state. -/
def rec0 (st : RecSt) (raw : Nat) : LRec := { newRec 0 0 0 raw with st := st }
def records (l : List LRec) (s : State) : State := { s with recs := l }

/-- Partition 0 has slice 0 and engine 0, and no group runs. -/
def ready (s : State) : State :=
  { s with
    pkg := { s.pkg with partDesc := s.pkg.partDesc.set 0 (BitVec.ofNat 64 (2 ^ 48 + 1)) }
    cur := Group.empty }

/-- A copy node of 64 bytes. -/
def copyRaw : Nat := 2 * 2 ^ 100 + 2 ^ 124 + 64 * 2 ^ 320

/-- A record with one successor, at 0x300. -/
def succRaw : Nat := launchRaw + 0x300 * 2 ^ 192 + 2 ^ 240

/-- Ring 3 in a state, of context 0, whose slot 0 lies at 0. -/
def ringIs (st : RingSt) (tries : Nat) (seq : DWord) (s : State) : State :=
  { s with rings := s.rings.set 3 { Ring.reset with ctl := BitVec.ofNat 64 (2 ^ 63), st := st, tries := tries, seq := seq } }

/-- The context waits for residency. -/
def unplaced (s : State) : State := { s with ctxs := [{ probeCtx with st := .waiting }] }

/-- The only group of a launch of one, switched out. -/
def outRec : LRec := { rec0 .running launchRaw with placed := [⟨0, 0, 0⟩] }
def outOne : OutGroup := ⟨probeGroup 1, false, false, [], [], [], false⟩
def outState : State := { records [outRec] (ready probe) with out := [outOne] }

theorem test_meets_records :
    (let r := rec0 .waitHurdle launchRaw; let s := unplaced (records [r] probe); s.rec? 0 = some r ∧
      s.ctx? 0 = some { probeCtx with st := .waiting } ∧ r.isCopy = false ∧ (s.seeHurdle { probeCtx with st := .waiting }).hurdleOk { probeCtx with st := .waiting } r.hurdle = true) ∧
    (let r := rec0 .waitHurdle (launchRaw + 2 ^ 112); let s := records [r] (lay probeCtx.fset [0x20] (tiered 1 0 0)); s.rec? 0 = some r ∧ r.isCopy = false ∧
      s.ctx? 0 = some probeCtx ∧ (s.seeHurdle probeCtx).hurdleOk probeCtx r.hurdle = false) ∧
    (let r := rec0 .waitHurdle (2 * 2 ^ 100 + 2 ^ 124); r.isCopy = true ∧ r.gfirst = 0 ∧ (records [r] probe).rec? 0 = some r) ∧
    ((rec0 .running launchRaw).st ≠ .waitHurdle) ∧
    (let r := rec0 .waitHurdle copyRaw; let s := records [r] (ready probe); s.rec? 0 = some r ∧ s.ctx? r.ctx = some probeCtx ∧ r.isCopy = true ∧
      (∀ x ∈ s.recs, x.part = r.part → x.isCopy = true → x.st = .waitHurdle → x.before r = false) ∧ r.gfirst ≠ 0 ∧
      s.freeEngine r.part = some 0) ∧
    (let r := rec0 .reserving launchRaw; let s := records [r] (ready probe); let t := s.reserve r.part; s.rec? 0 = some r ∧ s.mayPlace r.ctx = true ∧
      s.outUnits r = [] ∧ s.newTurn r = true ∧ [(⟨0, 0, 0⟩ : Seat)].map Seat.flat = r.nextFlats ∧
      t.seatsOk ((t.heldByOthers r).add (t.heldByOut r)) r (t.pins r []) [⟨0, 0, 0⟩] = true ∧
      t.seatsOk ((t.heldByOthers r).add (t.heldByOut r)) r (t.pins r []) [⟨0, 0, 32⟩] = false) ∧
    (let r := rec0 .reserving launchRaw; let s := records [r] (ready (unplaced probe)); s.rec? 0 = some r ∧ s.mayPlace r.ctx = false) ∧
    (outState.rec? 0 = some outRec ∧ outState.mayPlace outRec.ctx = true ∧
      (outState.outUnits outRec).find? (fun u => u.map (fun o => o.group.place.flat) == [(⟨0, 5, 3⟩ : Seat)].map Seat.flat) = some [outOne]) ∧
    (let r : LRec := { newRec 1 0 0 (launchRaw + 3 * 2 ^ 96) with st := .reserving, aged := true }; let l := { outOne with longPark := true };
      let s : State := { outState with recs := [r, outRec], out := [l] };
      let t := s.reserve outRec.part; (s.outUnits outRec).find? (fun u => u.map (fun o => o.group.place.flat) == [(⟨0, 5, 3⟩ : Seat)].map Seat.flat) = some [l] ∧
      s.rec? 0 = some outRec ∧ s.mayPlace outRec.ctx = true ∧ t.agedStop outRec [l] = true) ∧
    (let t := outState.reserve outRec.part; t.agedStop outRec [outOne] = false ∧ t.seatsOk (t.heldFrom outRec [outOne]) outRec (t.pins outRec [outOne]) [⟨0, 5, 3⟩] = true ∧
      t.seatsOk (t.heldFrom outRec [outOne]) outRec (t.pins outRec [outOne]) [⟨0, 5, 32⟩] = false) := by
  refine ⟨?_, ?_, ?_, ?_, ?_, ?_, ?_, ?_, ?_, ?_⟩ <;> decide

theorem test_meets_ends_of_records :
    (let r := rec0 .reserving launchRaw; let s : State := { atPace 5001 (records [r] probe) with
        pkg := { probe.pkg with gangAge := probe.pkg.gangAge.set 0 5 } }; s.rec? 0 = some r ∧ r.st = .reserving ∧
      ((s.pkg.gangAge[r.part]?).getD 0).toNat ≠ 0 ∧ r.resvFrom + 1000 * ((s.pkg.gangAge[r.part]?).getD 0).toNat < s.pace ∧
      ¬ (r.resvFrom + 1000 * ((s.pkg.gangAge[r.part]?).getD 0).toNat < (atPace 5000 s).pace)) ∧
    (let s := records [rec0 .running launchRaw] probe; s.rec? 0 = some (rec0 .running launchRaw) ∧ s.recEnded (rec0 .running launchRaw) = false) ∧
    (let r := rec0 .refused launchRaw; let s := records [r] probe; ∃ t, s.rec? 0 = some r ∧ s.recEnded r = true ∧ s.ctx? r.ctx = some probeCtx ∧
      s.clearNode probeCtx (s.launchAgent probeCtx r.part 0) r = .ok () t) ∧
    (let r := rec0 .refused launchRaw; let s := records [r] probe; ∃ b t, r.cleared = false ∧ ¬ (r.st = .refused ∧ r.status = 6) ∧
      s.nodeAtomic (s.launchAgent probeCtx r.part 0) (probeCtx.nodeAddr r.node) (fun _ => some 0) = .ok b t) ∧
    (let r := rec0 .refused succRaw; let s := records [r] probe; ∃ t, r.nsucc = 1 ∧
      s.decSucc probeCtx (s.launchAgent probeCtx r.part 0) r 0 = .ok () t) ∧
    (let r := rec0 .refused succRaw; let s := held0 (records [r] probe); ∃ t, r.nsucc = 1 ∧
      s.decSucc probeCtx (s.launchAgent probeCtx r.part 0) r 0 = .wait t) ∧
    (let r := rec0 .finishing launchRaw; let s := records [r] (atPace (epsilon 2) probe); s.rec? 0 = some r ∧ s.pace ≤ r.wct + epsilon r.cscope) ∧
    (let r := rec0 .finishing launchRaw; let s := records [r] (atPace (epsilon 2 + 1) probe); s.rec? 0 = some r ∧ s.writes = [] ∧
      r.wct + epsilon r.cscope < s.pace ∧ r.cpl = 0) ∧
    (let r := rec0 .finishing (launchRaw + 0x300 * 2 ^ 448); let s := records [r] late; ∃ t, s.rec? 0 = some r ∧ s.writes = [] ∧
      r.wct + epsilon r.cscope < s.pace ∧ s.ctx? r.ctx = some probeCtx ∧ r.cpl ≠ 0 ∧ State.engStore { s with
          recs := s.recs.filter (fun x => x.id != 0), bars := s.bars.filter (fun b => b.launch != 0) }
        (State.launchAgent { s with recs := s.recs.filter (fun x => x.id != 0), bars := s.bars.filter (fun b => b.launch != 0) } probeCtx r.part 0) (.completion 0 0)
        r.cpl (.bytes (leBytes 8 (r.status * 2 ^ 56 + s.pace % 2 ^ 56))) .write [] = .ok () t) := by
  refine ⟨by decide, by decide, ⟨_, by decide, by decide, by decide, rfl⟩, ⟨_, _, by decide, by decide, rfl⟩, ⟨_, by decide, rfl⟩,
    ⟨_, by decide, rfl⟩, by decide, by decide, ⟨_, by decide, by decide, by decide, by decide, by decide, rfl⟩⟩

/-- Ring 3, which authenticates with a key of zeros, and a slot of sequence 5 with its tag. -/
def sealedRing (s : State) : State :=
  { s with rings := s.rings.set 3 { Ring.reset with ctl := BitVec.ofNat 64 (3 * 2 ^ 62), st := .running, key := List.replicate 32 0 } }
def slot5 : List Byte := leBytes 8 5 ++ leBytes 16 36284721088891174370443435342662903874

set_option maxRecDepth 100000 in
theorem test_meets_rings :
    ((ringIs .waitKick 0 0 probe).rings[(3 : Fin 16)].st = .waitKick ∧ (ringIs .running 1 0 probe).rings[(3 : Fin 16)].st ≠ .waitKick ∧
      (ringIs .running 1 0 probe).rings[(3 : Fin 16)].tries ≠ 0 ∧ (ringIs .running 0 0 probe).rings[(3 : Fin 16)].tries = 0 ∧
      (ringIs .waitKick 0 0 probe).ringTurn ≠ some 3) ∧
    (let s := ringIs .running 0 0 probe; let r := s.rings[(3 : Fin 16)]; let u := State.arrive { s with pkg := { s.pkg with ringLast := 3 } } 0 0 320;
      ∃ bs v t, r.tries = 0 ∧ s.ringTurn = some 3 ∧ r.base.toNat / 512 * 512 + 512 * (r.seq.toNat % 2 ^ max 4 (bitsOf r.base.toNat 8 5)) = 0 ∧
      u.engineReadN 0 0 320 = some bs ∧ u.slotOk 3 bs = true ∧ ofLeBytes (bs.take 8) = r.seq.toNat ∧
      u.ctx? (bitsOf r.ctl.toNat 39 24) = some probeCtx ∧ probeCtx.vdid = bitsOf r.ctl.toNat 23 18 ∧
      u.takeRecord probeCtx (bitsOf r.ctl.toNat 17 16) (ofLeBytes ((bs.drop 64).take 256)) = (some v, t) ∧ r.seq + 1 ≠ BitVec.allOnes 64) ∧
    (let s := ringIs .running 8 1 probe; let r := s.rings[(3 : Fin 16)]; let u := State.arrive { s with pkg := { s.pkg with ringLast := 3 } } 0 512 320;
      ∃ bs, 0 < r.tries ∧ s.ringTurn = some 3 ∧ r.ctl.getLsbD 62 = false ∧
      r.base.toNat / 512 * 512 + 512 * (r.seq.toNat % 2 ^ max 4 (bitsOf r.base.toNat 8 5)) = 512 ∧ u.engineReadN 0 512 320 = some bs ∧
      u.slotOk 3 bs = true ∧ ofLeBytes (bs.take 8) ≠ r.seq.toNat ∧ 8 ≤ r.tries ∧ r.sawLow = false) ∧
    (let s := sealedRing (lay 0 slot5 probe); let r := s.rings[(3 : Fin 16)]; let u := State.arrive { s with pkg := { s.pkg with ringLast := 3 } } 0 0 320;
      ∃ bs, r.tries = 0 ∧ s.ringTurn = some 3 ∧ r.ctl.getLsbD 62 = true ∧ u.engineReadN 0 0 320 = some bs ∧ r.seq.toNat < ofLeBytes (bs.take 8) ∧
      u.slotOk 3 bs = true) ∧
    ((BitVec.ofNat 64 (2 ^ 64 - 2) : DWord) + 1 = BitVec.allOnes 64) := by
  refine ⟨by decide, ⟨_, _, _, by decide, by decide, by decide, rfl, by decide, by decide, by decide, by decide, rfl, by decide⟩,
    ⟨_, by decide, by decide, by decide, by decide, rfl, by decide, by decide, by decide, by decide⟩,
    ⟨_, by decide, by decide, by decide, rfl, by decide, by decide⟩, by decide⟩

/-- A group with an outstanding operation. -/
def busy : State := probe.modAcc (fun a => { a with cp := 1, ops := [⟨5, .ld, .load, 0, .drop, [], [], 0, 0, none, false, 0, 0, none, 0, 2⟩] })

/-- The probe's context changed. -/
def ctx (f : Ctx → Ctx) (s : State) : State := { s with ctxs := s.ctxs.map f }

/-- No group runs, and no other one is there. -/
def alone (s : State) : State := { s with cur := Group.empty }

theorem test_meets_exits :
    (let e : RjEntry := ⟨3, 3⟩; let s := stacked [e, ⟨2, 9⟩] probe; Ready .exit s ∧ s.cur.ctl.stack = [e, ⟨2, 9⟩] ∧ e.kind = 3 ∧
      e.owner = s.cur.ctl.iss.val) ∧
    (let s := stacked [⟨1, 0⟩, ⟨3, 3⟩, ⟨2, 9⟩] probe; Ready .exit s ∧ s.cur.ctl.topRecord s.cur.ctl.iss = none ∧ s.cur.ctl.owns s.cur.ctl.iss = true) ∧
    (Ready .exit two ∧ two.cur.ctl.topRecord two.cur.ctl.iss = none ∧ two.cur.ctl.owns two.cur.ctl.iss = false ∧ 1 < two.cur.ctl.live.length) ∧
    (Ready .exit busy ∧ busy.cur.ctl.topRecord busy.cur.ctl.iss = none ∧ busy.cur.ctl.owns busy.cur.ctl.iss = false ∧
      busy.cur.ctl.live.length ≤ 1 ∧ busy.outstanding = true) ∧
    (Ready .exit probe ∧ probe.cur.ctl.topRecord probe.cur.ctl.iss = none ∧ probe.cur.ctl.owns probe.cur.ctl.iss = false ∧
      probe.cur.ctl.live.length ≤ 1 ∧ probe.outstanding = false ∧ probe.cur.trap.deferred = [] ∧ probe.cur.mat.held = [] ∧
      probe.cur.ctl.live = [probe.cur.ctl.iss] ∧ probe.rec? probe.cur.place.launch = none) := by
  refine ⟨?_, ?_, ?_, ?_, ?_⟩ <;> decide

/-- A switched-out group whose image is not written yet. -/
def keptOne : OutGroup := ⟨{ probeGroup 1 with place := { (probeGroup 1).place with uid := 7 } }, false, false, [], [], [], true⟩

theorem test_meets_images :
    (let s : State := { probe with out := [keptOne] }; s.group? 7 = none ∧ s.out.find? (fun o => o.kept && o.group.place.uid == 7) = some keptOne ∧
      s.outBusy keptOne = false ∧ s.ctx? keptOne.group.place.ctx = some probeCtx ∧ probeCtx.reset = none ∧
      ((ctx (fun c => { c with reset := some 34 }) s).ctx? keptOne.group.place.ctx).any (fun c => c.reset.isSome) = true) ∧
    (let o := { keptOne with group := { keptOne.group with acc := busy.cur.acc } }; let s : State := { probe with out := [o] }; s.group? 7 = none ∧
      s.out.find? (fun o => o.kept && o.group.place.uid == 7) = some o ∧ s.outBusy o = true) ∧
    (let p := probe.cur.place; ∃ x ∈ probe.seated, x.core = p.core ∧ x.launch = p.launch) := by
  refine ⟨?_, ?_, ?_⟩ <;> decide

theorem test_meets_checkpoints :
    (Ready (.rcp 7) two ∧ 1 < two.cur.ctl.live.length) ∧
    (Ready (.rcp 7) probe ∧ probe.cur.ctl.live.length ≤ 1 ∧ probe.cur.ctl.stack = [] ∧ probe.myCtx = some probeCtx ∧ probeCtx.preemptAt = none) ∧
    (let l : List Byte := leBytes 8 (2 ^ 0 * 0x20)
     let s := ctx (fun c => { c with preempt := .forward 3 }) (lay 0x308 l (records [rec0 .running (launchRaw + 0x300 * 2 ^ 256 + 2 ^ 304)] probe))
     ∃ c t r f, Ready (.rcp 0) s ∧ s.cur.ctl.live.length ≤ 1 ∧ s.cur.ctl.stack = [] ∧ s.myCtx = some c ∧ c.preempt = .forward 3 ∧
      ((s.issued (.rcp 0)).modCkpt (fun _ => ⟨0, false, some ⟨s.bundlePc, 0, s.split.mask, s.cur.regs.s, s.cur.regs.k, s.cur.regs.sr⟩⟩)) = t ∧
      t.recipeWaits t.cur = false ∧ t.eligible t.cur = (some f, r)) ∧
    ((probe.group? probe.cur.place.uid).isSome = true ∧ probe.cur.ctl.exited = false) ∧
    (let s := ctl (fun c => { c with exited := true }) probe; let g := s.cur; s.group? g.place.uid = some g ∧ g.ctl.exited = true ∧ g.acc.ops = [] ∧
      g.acc.inflight = [] ∧ s.copies = [] ∧ s.cmdsOf g = [] ∧ s.objs = [] ∧ s.rec? g.place.launch = none ∧ s.mqueue = [] ∧ s.others = []) := by
  refine ⟨by decide, by decide, ⟨_, _, _, _, by decide, by decide, by decide, rfl, rfl, rfl, by decide, rfl⟩, by decide, by decide⟩

/-- Context 0 in a state, and another that waits. -/
def contending (st : CtxSt) (p : Preempt) (s : State) : State :=
  { s with ctxs := [{ probeCtx with st := st, preempt := p }, { newCtx 5 0 0 1 0 0 with st := .waiting, waitFrom := 3 }] }

theorem test_meets_pre_emption :
    (let s := contending .resident .none (atPace 2000000 probe); let c := { probeCtx with st := CtxSt.resident, preempt := Preempt.none }; s.ctx? 0 = some c ∧
      c.slice ≠ 0 ∧ c.sliceFrom + 1000 * c.slice = s.pace ∧ s.contended 0 = true ∧ (atPace 1999999 s).pace < c.sliceFrom + 1000 * c.slice) ∧
    (let s := contending .resident (.grace 0) (atPace 50000 (alone probe)); let c := { probeCtx with st := CtxSt.resident, preempt := Preempt.grace 0 };
      s.ctx? 0 = some c ∧ 0 + 1000 * c.grace = s.pace ∧ (∀ g ∈ s.groups, g.place.ctx ≠ 0) ∧ (atPace 49999 s).pace < 0 + 1000 * c.grace) ∧
    (let s := contending .resident (.grace 0) (atPace 50000 (ctl (fun c => { c with parked := true }) probe)); s.others = [] ∧ s.cur.place.used = true ∧
      s.cur.place.ctx = 0 ∧ s.cur.ctl.exited = false ∧ s.cur.ctl.parked = true ∧ s.cur.acc.inflight = [] ∧ s.recipeWaits s.cur = false) ∧
    (let s := contending .resident (.forward 0) (atPace 1000000 probe); let c := { probeCtx with st := CtxSt.resident, preempt := Preempt.forward 0 };
      s.ctx? 0 = some c ∧ c.preemptAt = some 0 ∧ 0 + 1000 * c.deadline = s.pace ∧ (∃ g ∈ s.groups, g.place.ctx = 0 ∧ g.ctl.exited = false) ∧
      (atPace 999999 s).pace < 0 + 1000 * c.deadline) ∧
    (let s := atPace 20000 (ctl (fun c => { c with parked := true }) probe); s.others = [] ∧ s.cur.place.used = true ∧ s.cur.place.launch = 0 ∧
      s.cur.place.core = 0 ∧ s.cur.ctl.parked = true ∧ s.cur.ctl.parkedAt + 20000 = s.pace) ∧
    (∃ g ∈ probe.groups, g.place.launch = 0 ∧ g.place.core = 0 ∧ g.ctl.parked = false ∧ g.ctl.exited = false) := by
  refine ⟨?_, ?_, ?_, ?_, ?_, ?_⟩ <;> decide

theorem test_meets_residency :
    (probe.ctx? 0 = some probeCtx ∧ ∃ g ∈ probe.groups, g.place.ctx = 0) ∧
    (let s := alone probe; s.ctx? 0 = some probeCtx ∧ probeCtx.st = .resident ∧ (∀ g ∈ s.groups, g.place.ctx ≠ 0) ∧
      (∀ o ∈ s.out, o.group.place.ctx ≠ 0) ∧ probeCtx.reset = none ∧ probeCtx.preempt = .none ∧ s.pendingRecs 0 = false) ∧
    (let s : State := { contending .resident (.forward 0) (alone probe) with out := [⟨probeGroup 1, false, false, [], [], [], false⟩] };
      (∀ g ∈ s.groups, g.place.ctx ≠ 0) ∧ s.imagesReady 0 = true ∧ ∃ o ∈ s.out, o.group.place.ctx = 0) ∧
    (probe.ctx? 0 = some probeCtx ∧ probe.mayReside probeCtx = false) ∧
    (let s : State := { contending .waiting .none (alone probe) with pkg := { probe.pkg with tray := 0 } }; let c := { probeCtx with st := CtxSt.waiting, preempt := Preempt.none }; s.ctx? 0 = some c ∧ s.mayReside c = true ∧
      (∀ x ∈ s.ctxs, x.part = c.part → s.mayReside x = true → c.waitFrom ≤ x.waitFrom) ∧
      s.out = []) ∧
    (probeCtx.reset = none) ∧
    (let c := { probeCtx with st := CtxSt.waiting, reset := some 34 }; let s : State := { alone probe with ctxs := [c] }; s.ctx? 0 = some c ∧
      c.reset = some 34 ∧ c.st ≠ .resident ∧ (∀ g ∈ s.groups, g.place.ctx ≠ 0) ∧ s.copies = [] ∧ c.destroy = false ∧ s.out = [] ∧ s.sb = [] ∧
      s.writes = [] ∧ s.objs = []) := by
  refine ⟨?_, ?_, ?_, ?_, ?_, ?_, ?_⟩ <;> decide

/-- Link 0 of port 0. -/
def linkIs (up spare : Bool) (bad flits : Nat) : Link := ⟨0, 0, up, spare, 0, 0, 0, [], 0, 0, bad, 1, flits, 1, 0, 0, none, false⟩
/-- An empty flit of a sequence, and one that has been sent. -/
def flit (seq : Nat) (crc tag : Bool) : Flit := ⟨seq, 0, 0, 0, none, crc, tag, []⟩
def sent (seq : Nat) : SentFlit := ⟨flit seq true true, 0⟩

/-- A package with one link. -/
def linked (k : Link) (s : State) : State := { s with links := [k] }

/-- The package has booted; a tray state. -/
def booted (tray : Nat) (s : State) : State := { s with pkg := { s.pkg with boot := 2, tray := tray } }

theorem test_meets_links :
    (let k := linkIs false false 0 0; (linked k probe).link? 0 0 = some k ∧ k.up = false) ∧
    (let k := linkIs true false 0 0; (linked k probe).link? 0 0 = some k ∧ k.up = true ∧ (flit 0 false true).crcOk = false) ∧
    (let k := linkIs true false 1 0; let s := linked k probe; s.link? 0 0 = some k ∧ (flit 0 true false).crcOk = true ∧
      (flit 0 true false).tagOk = false ∧ k.tagBad < 2 ∧ s.linkBad k = false) ∧
    (let k := linkIs true false 2 0; (linked k probe).link? 0 0 = some k ∧ (flit 0 true false).tagOk = false ∧ k.tagBad = 2) ∧
    (let k := linkIs true false 0 0; let s := linked k probe; s.link? 0 0 = some k ∧ s.linkBad k = false ∧ k.acked < 1024 ∧
      (flit 0 true true).ack = k.acked ∧ (flit 0 true true).nak = none ∧ (flit 0 true true).seq = k.rxSeq ∧ (flit 0 true true).packets = [] ∧
      0 < ((flit 511 true true).seq + 1024 - k.rxSeq) % 1024 ∧ ((flit 511 true true).seq + 1024 - k.rxSeq) % 1024 < 512 ∧
      512 ≤ ((flit 512 true true).seq + 1024 - k.rxSeq) % 1024) ∧
    (let k := { linkIs true false 0 0 with acked := 1023, retry := [sent 1023, sent 0] }; ((flit 0 true true).ack + 1024 - k.acked) % 1024 = 1 ∧
      1 ≤ k.retry.length ∧ k.retry.findIdx? (fun x => x.flit.seq == 0) = some 1) ∧
    (let k := { linkIs true false 0 0 with retry := [sent 4] }; let s := linked k probe; s.link? 0 0 = some k ∧ k.spare = false ∧ k.retry = sent 4 :: []) ∧
    (probe.upLinks 3 = []) ∧
    (let k := { linkIs true false 0 0 with txFlits := 2 ^ 40 }; (linked k probe).link? 0 0 = some k ∧ k.flits < 2 ^ 40 ∧ 2 ^ 40 ≤ k.txFlits) ∧
    (let q : Packet := ⟨2, 65535, []⟩; let s : State := { probe with ports := [⟨0, 2, 65535, []⟩] };
      s.ports.find? (fun x => x.port == 0 && x.chan == q.chan) = some ⟨0, 2, 65535, []⟩ ∧ q.seq < 65536) ∧
    (let k := linkIs true true 0 0; (linked k probe).link? 0 0 = some k ∧ k.up = true ∧ k.spare = true) ∧
    (let k := linkIs true false 3 0; (linked k probe).link? 0 0 = some k ∧ 3 ≤ k.tagBad) ∧
    (let k := linkIs true false 2 0; let s := linked k probe; s.link? 0 0 = some k ∧ k.spare = false ∧ k.retry = [] ∧ s.linkBad k = false) ∧
    (let s := booted 1 probe; s.pkg.boot = 2 ∧ s.pkg.tray < 2 ∧ s.pkg.dieOff.getLsbD (15 / 4) = false ∧ s.link? 15 3 = none) ∧
    ((booted 2 probe).pkg.tray = 2 ∧ probe.pkg.boot ≠ 2) ∧
    (let k := linkIs true false 0 (2 ^ 40); (linked k probe).link? 0 0 = some k ∧ 2 ^ 40 = k.flits ∧ k.txFlits < 2 ^ 40 ∧ (linkIs true false 0 (2 ^ 40 - 1)).flits < 2 ^ 40) := by
  refine ⟨?_, ?_, ?_, ?_, ?_, ?_, ?_, ?_, ?_, ?_, ?_, ?_, ?_, ?_, ?_, ?_⟩ <;> decide

/-- CD0 is offline. -/
def offline (s : State) : State := { s with pkg := { s.pkg with dieOff := 1 } }

theorem test_meets_host : (probe.hostUp = true ∧ (offline probe).hostUp = false) ∧ probe.lineWaits (probe.localId 0) (lineBase 0x1000) = false ∧
    probe.routeEntry (probe.localId 0) (lineBase 0x1000) = none ∧ (held0 probe).lineWaits (probe.localId 0) (lineBase 0) = true ∧
    (List.replicate 64 (7 : Byte)).length = 64 ∧ probe.host.waiting = [] ∧ probe.host.snoops = [] ∧ probe.sharers = [] ∧
    probe.tagOf (lineBase 0x1000) = 0 ∧ (∀ x ∈ probe.worlds, x.id ≠ 0) ∧ probe.home 0x1000 = none ∧
    (∃ h, probe.home 0 = some h ∧ probe.worldOk h.holder 0 0 = true ∧ (probe.lineAt h.holder 0).poison = false ∧
      probe.lineWaits h.holder 0 = false) ∧ probe.objs = [] := by
  refine ⟨⟨?_, ?_⟩, ?_, ?_, ?_, ?_, ?_, ?_, ?_, ?_, ?_, ?_, ⟨_, rfl, ?_, ?_, ?_⟩, ?_⟩ <;> decide

/-- A mailbox command: code and request. -/
def cmd (code : Nat) (r : List Byte) : MboxCmd := ⟨BitVec.ofNat 64 (r.length * 2 ^ 16 + code), r⟩

/-- A request of a length whose first bytes are given. -/
def req (n : Nat) (l : List Byte) : List Byte := l ++ List.replicate (n - l.length) 0

/-- World 3 is there. -/
def worlds (s : State) : State := { s with worlds := [⟨3, [5], 0, 0, 0, []⟩] }

/-- Partition 0 is enabled. -/
def parted (s : State) : State := { s with pkg := { s.pkg with partDesc := s.pkg.partDesc.set 0 1 } }

/-- The holder of the probe's lines has 4 GiB in CD0's router, and every page of 2 MiB has tag 3. -/
def granted (s : State) : State := { wide s with granted := [(0, 3)] }

theorem test_meets_mailbox :
    (let s := booted 0 probe; s.pkg.boot = 2 ∧ s.hostUp = true ∧ s.mbox.stat.getLsbD 0 = false ∧ cmdLen (cmdCode (cmd 0x99 [])) ≠ some (cmdBytes (cmd 0x99 []))) ∧
    (probe.pkg.boot ≠ 2 ∧ cmdCode (cmd 1 (req 64 [])) = 1 ∧ probe.mbox.stat.getLsbD 0 = false) ∧
    ((booted 0 probe).Accepts (cmd 1 (req 64 [])) 1) ∧
    (let c := cmd 0x10 (req 12 [3, 0, 0, 0, 0, 0, 0, 0, 0x58, 2]); (booted 0 probe).Accepts c 0x10 ∧ reqField (cmdBody c) 0 1 = 3 ∧
      reqField (cmdBody c) 8 4 = 600 ∧ onlyBytes (cmdBody c) [(0, 1), (8, 4)] = true ∧ (booted 0 probe).world? 3 = none) ∧
    (let c := cmd 0x10 (req 12 [3, 0, 0, 0, 0, 0, 0, 0, 0x59, 2]); (booted 0 probe).Accepts c 0x10 ∧ 600 < reqField (cmdBody c) 8 4) ∧
    (let c := cmd 0x11 (req 24 [3]); let s := worlds (booted 0 probe); s.Accepts c 0x11 ∧ rangeReq (cmdBody c) = some (3, 0, 0) ∧ s.world? 3 ≠ none) ∧
    (let c := cmd 0x12 (req 24 [3]); let s := worlds (booted 0 probe); s.Accepts c 0x12 ∧ rangeReq (cmdBody c) = some (3, 0, 0) ∧ s.world? 3 ≠ none ∧
      (booted 0 probe).world? 3 = none) ∧
    (let c := cmd 0x13 [3]; let s := worlds (booted 0 probe); s.Accepts c 0x13 ∧ reqField (cmdBody c) 0 1 = 3 ∧ s.world? 3 ≠ none ∧
      (∀ x ∈ s.ctxs, x.world ≠ 3) ∧ (∀ g ∈ s.granted, g.2 ≠ 3)) ∧
    (let c := cmd 0x13 [3]; let s := ctx (fun c => { c with world := 3 }) (worlds (booted 0 probe)); s.Accepts c 0x13 ∧ s.world? 3 ≠ none ∧ ∃ x ∈ s.ctxs, x.world = 3) ∧
    (let c := cmd 0x20 (req 16 [11, 0, 0, 0, 0, 0, 0, 0, 1]); (booted 0 probe).Accepts c 0x20 ∧ reqField (cmdBody c) 0 1 = 11 ∧
      onlyBytes (cmdBody c) [(0, 1), (8, 8)] = true) ∧
    (let c := cmd 0x30 (req 16 [0, 63, 3, 0, 0, 0, 0, 0, 0, 0x10]); let s : State := { worlds (parted (booted 0 probe)) with ctxs := [] };
      s.Accepts c 0x30 ∧ reqField (cmdBody c) 0 1 = 0 ∧ reqField (cmdBody c) 1 1 = 63 ∧ reqField (cmdBody c) 2 1 = 3 ∧ reqField (cmdBody c) 3 1 = 0 ∧
      reqField (cmdBody c) 8 8 % 4096 = 0 ∧ onlyBytes (cmdBody c) [(0, 4), (8, 8)] = true ∧ ((s.pkg.partDesc[0]?).getD 0).getLsbD 0 = true ∧
      s.world? 3 ≠ none ∧ (s.vregs.part[63]?).getD 255 = 255) ∧
    (let c := cmd 0x31 (req 2 [0]); let s := ctx (fun c => { c with st := .idle }) (booted 0 probe); s.Accepts c 0x31 ∧
      (s.ctx? (reqField (cmdBody c) 0 2)).map (fun x => (x.st, x.reset)) = some (.idle, none)) ∧
    (let c := cmd 0x31 (req 2 [9]); (booted 0 probe).Accepts c 0x31 ∧ (booted 0 probe).ctx? (reqField (cmdBody c) 0 2) = none) ∧
    (let c := cmd 0x32 (req 2 [0]); (booted 0 probe).Accepts c 0x32 ∧ (booted 0 probe).ctx? (reqField (cmdBody c) 0 2) = some probeCtx ∧ probeCtx.st = .resident) ∧
    (let c := cmd 0x32 (req 2 [0]); let s := ctx (fun c => { c with st := .idle }) (booted 0 probe); s.Accepts c 0x32 ∧
      (s.ctx? (reqField (cmdBody c) 0 2)).map Ctx.st = some .idle) ∧
    (let c := cmd 0x40 (req 24 [15]); (booted 0 probe).Accepts c 0x40 ∧ reqField (cmdBody c) 0 1 = 15 ∧ onlyBytes (cmdBody c) [(0, 1), (8, 16)] = true) := by
  and_intros <;> decide

set_option maxRecDepth 20000 in
theorem test_meets_ring_keys :
    let c := cmd 0x41 (req 1576 [3]); (booted 0 probe).Accepts c 0x41 ∧ reqField (cmdBody c) 0 1 = 3 ∧
      onlyBytes ((cmdBody c).take 8) [(0, 1)] = true ∧ ((booted 0 probe).ring 3).ctl.getLsbD 63 = false ∧
      ((ringIs .running 0 0 (booted 0 probe)).ring 3).ctl.getLsbD 63 = true := by
  and_intros <;> decide

set_option maxRecDepth 20000 in
theorem test_meets_grants :
    let c := cmd 0x11 (req 24 [3, 0, 0, 0, 0, 0, 0, 0, 0, 0, 0, 0, 0, 0, 0, 0, 0, 0, 0x20]); let s := worlds (granted (booted 0 probe));
    rangeReq (cmdBody c) = some (3, 0, 2 ^ 21) ∧ s.world? 3 ≠ none ∧
      ∀ k < 2 ^ 21 / 4096, s.ownHolder (0 + 4096 * k) ≠ none ∧ s.tagOf (0 + 4096 * k) = 3 := by
  and_intros <;> decide

theorem test_meets_boot :
    (probe.pkg.tray = 4) ∧ ((booted 0 probe).pkg.tray ≠ 4) ∧
    (∀ i ∈ List.replicate 4 (⟨[], true⟩ : FwImage), i.sigOk = true) ∧ (List.replicate 4 (⟨[], true⟩ : FwImage)).length = 4 ∧
    (⟨[], false⟩ : FwImage).sigOk = false ∧
    (let s : State := { atPace 100000 probe with pkg := { probe.pkg with pwrCap := 0, pwrStat := 24 * 2 ^ 8 } }; s.pkg.pwrAt + 100000 = s.pace ∧
      (atPace 99999 s).pace < (atPace 99999 s).pkg.pwrAt + 100000 ∧ s.pkg.pwrCap.getLsbD 31 = false ∧
      s.pkg.pwrStat.toNat / 256 % 256 < 25 ∧ s.pkg.pwrStat.getLsbD 0 = false) ∧
    (let s : State := { atPace 100000 probe with pkg := { probe.pkg with pwrCap := BitVec.ofNat 64 (2 ^ 31 + 2000), pwrStat := 11 * 2 ^ 8 } }; s.pkg.pwrCap.getLsbD 31 = true ∧
      s.pkg.pwrCap.toNat % 4096 < (2001 : BitVec 16).toNat ∧ 10 < s.pkg.pwrStat.toNat / 256 % 256 ∧ s.pkg.pwrStat.getLsbD 0 = false ∧ s.pkg.pwrAt + 100000 = s.pace) ∧
    (let s : State := { booted 1 probe with ctxs := [], holders := [] }; s.pkg.tray = 1 ∧ s.ctxs = [] ∧ s.tier.moves = [] ∧ s.holders = []) ∧
    (probe.hour ≤ probe.pkg.wearHour[(3 : Fin 32)] ∧ let s := atPace (3600 * 10 ^ 9) probe; s.pkg.wearHour[(3 : Fin 32)] < s.hour) ∧
    (let s : State := { probe with routes := [entry []] }; ∀ e ∈ s.routes, e.holders = []) ∧
    ((booted 2 probe).pkg.tray = 2 ∧ (booted 3 probe).pkg.tray = 3) := by
  and_intros <;> decide

theorem test_meets_errors :
    (127 < 128 ∧ 31 < 32 ∧ probe.cur.place.used = true ∧ (RegRef.v 127, 31) ∉ probe.cur.regs.bad) ∧
    (let s := atPace (5 * 10 ^ 9 - 1) (worlds probe); (s.world? 3).isSome = true ∧ s.pace < 0 + (0 + 1) * 5 * 10 ^ 9 ∧
      (s.integ.find? (fun e => e.ctl == 0 && e.world == 3)) = none) ∧
    (let s : State := { atPace (5 * 10 ^ 9) (worlds probe) with integ := [⟨0, 3, 7, 7, 0⟩] }; (s.world? 3) = some ⟨3, [5], 0, 0, 0, []⟩ ∧
      s.integ.find? (fun e => e.ctl == 0 && e.world == 3) = some ⟨0, 3, 7, 7, 0⟩ ∧ 0 + (0 + 1) * 5 * 10 ^ 9 ≤ s.pace ∧ s.lines = []) := by
  and_intros <;> decide

/-- A fault record of queue 2, not written yet. -/
def fault2 : FaultRec := ⟨9, 2, 0, 0, 7, 1, true, 1, 2, 3, 4, false, 0, 0⟩

/-- Queue 2 of VDID 0 at a base, with that record. -/
def queue2 (z : DWord) (s : State) : State :=
  { s with faults := [fault2], vregs := { s.vregs with fq2 := s.vregs.fq2.set 0 z } }

/-- An entry of the store buffer of core 0. -/
def stored (id : Nat) (k : WKind) : SbEntry := ⟨id, 0, .engine, 0, 0, 0, 64, 64, 1, k, ms, 1, none, false, []⟩
def buffered (l : List SbEntry) (s : State) : State := { s with sb := l }

theorem test_meets_translation :
    (Ready (.tprobe 9 4 0) probe ∧ probe.myCtx = some probeCtx ∧ Ready (.tinv 4 5 0 0) probe ∧ (3 : Nat) < 4) ∧
    (let w := Wait.answer .tinv 64 5 0; let s := buffered [stored 5 (.bytes [1])] (waiting w probe); let n := 4 * s.cur.place.uid;
      (s.group? (n / 4)) = some s.cur ∧ (s.cur.ctl.split (Fin.ofNat 4 n)).wait = w ∧ (∀ x ∈ s.sb, x.vdid = 0 → 5 ≤ x.id) ∧ s.writes = [] ∧
      (∀ x ∈ s.groups, ∀ i, (x.ctl.split i).wait.boundBefore 5 = false) ∧ s.fills = [] ∧ s.partials = []) ∧
    (let s := buffered [stored 4 (.bytes [1])] probe; ∃ x ∈ s.sb, x.vdid = 0 ∧ x.id < 5) ∧
    (∃ r u, (probe.issued (.tprobe 9 4 0)).probe probeCtx (dieOf probe.cur.place.core) 0 false = (r, u)) ∧
    (∃ x u, probe.ctx? 0 = some probeCtx ∧ probe.walked probeCtx (5 / 3) 0 (some .read) 2 = (.ok x, u)) ∧
    (∃ f u, probe.walked probeCtx (5 / 3) (2 ^ 48) (some .read) 2 = (.fault f, u)) ∧
    (bitsOf ((probe.vregs.tq[0]?).getD 0).toNat 15 8 = 0 ∨ bitsOf (((({ probe with vregs := { probe.vregs with tq := probe.vregs.tq.set 0 0 } } :
      State).vregs.tq)[0]?).getD 0).toNat 15 8 = 0) ∧
    (let s := queue2 4095 (atPace 1000 probe); fault2.offered + 1000 = s.pace ∧ (queue2 4095 (atPace 999 probe)).pace < fault2.offered + 1000 ∧ s.faults.find? (fun x => x.id == 9 && !x.written) = some fault2 ∧ fault2.queue = 2 ∧
      ((s.vregs.fq2[fault2.vdid]?).getD 0).toNat = 4095) ∧
    (let s := queue2 4096 (lay 0x1007 [0x80] (wide (atPace 1000 probe))); ((s.vregs.fq2[0]?).getD 0).toNat = 4096 ∧ (s.vregs.fq2Pos[0]?).getD 0 = 0 ∧
      ∃ u, State.arrive { s with faults := s.faults.map (fun x => if x.id == 9 then { x with offered := s.pace } else x) } 0 4096 8 = u ∧
        (u.engineNum 0 4096 8).map (· / 2 ^ 63) = some 1) ∧
    (let s := queue2 4096 (wide (atPace 1000 probe)); (s.vregs.fq2[0]?).getD 0 = 4096 ∧ ∃ u, State.arrive { s with faults := s.faults.map (fun x => if x.id == 9 then { x with offered := s.pace } else x) } 0 4096 8 = u ∧
        (u.engineNum 0 4096 8).map (· / 2 ^ 63) = some 0) ∧
    (∀ r : TinvRange, r = ⟨3, 63, 2 ^ 64 - 4096, 5⟩ → r.st < 4 ∧ r.vdid < 64 ∧ r.start % 4096 = 0 ∧ r.start < 2 ^ 64) := by
  refine ⟨?_, ?_, ?_, ⟨_, _, rfl⟩, ⟨_, _, rfl, rfl⟩, ⟨_, _, rfl⟩, ?_, ?_, ⟨?_, ?_, _, rfl, ?_⟩, ⟨?_, _, rfl, ?_⟩, ?_⟩ <;> first | decide | (intro r h; subst h; decide)

/-- A result that lands after cycle 5 under flag 3. -/
def landing : MultiTurn := ⟨5, 3, [(7, 9)], [], 0⟩

theorem test_meets_turns :
    (let s : State := { probe with others := [{ probeGroup 1 with place := ⟨1, true, 3, 2, 0, 0, 0, 128⟩ }] }; s.others ≠ [] ∧ probe.others = [] ∧
      (s.nextGroup).isSome = true ∧ s.cur.place.used = true) ∧
    (let s := probe.modAcc (fun a => { a with inflight := [landing] }); s.cur.place.used = true ∧ (byDue s.cur.acc.inflight)[0]? = some landing ∧
      landing.due < ({ s with cycle := 6 } : State).cycle ∧ ({ s with cycle := 5 } : State).cycle ≤ landing.due ∧ landing.flag < 12) ∧
    (let s := ctl (fun c => c.setSplit 0 { c.split 0 with wait := .waitc true false false, wdog := 2 ^ 26 }) probe; s.myCtx = some probeCtx ∧ s.cur.place.used = true ∧
      s.expired 0 = true ∧ (∀ j, j ≠ 0 → s.expired j = false) ∧ (s.cur.ctl.split 0).wait = .waitc true false false) ∧
    (let s := ctl (fun c => c.setSplit 0 { c.split 0 with wait := .push 9 2 0 5 [], wdog := 2 ^ 26 }) probe; s.cur.place.used = true ∧
      s.expired 0 = true ∧ (∀ j, j ≠ 0 → s.expired j = false) ∧ (s.cur.ctl.split 0).wait = .push 9 2 0 5 [] ∧ s.cur.trap.deferred = []) ∧
    (let s := ctl (fun c => c.setSplit 0 { c.split 0 with wait := .waitc true false false, wdog := 2 ^ 26 - 1 }) probe; s.expired 0 = false) := by
  refine ⟨?_, ?_, ?_, ?_, ?_⟩ <;> decide

/-- The probe's holder in a state. -/
def holderIs (st : HState) (next : Option Nat) (s : State) : State :=
  { s with holders := s.holders.map (fun h => { h with st := st, next := next }) }

/-- A contribution of the probe to element 0 of object 0, with ADD_F32. -/
def folding : SbEntry := { stored 9 (.fold 0 false 0 3 0 1) with origin := .group probe.cur.place.uid 8 0 }

theorem test_meets_folds :
    (∃ g v, folding.kind = .fold 0 false 0 3 g v ∧ folding.kind.isFold = true) ∧
    (let s := buffered [folding] (objects [{ obj .update 1 true with tag := 4 }] probe); s.sb.find? (fun x => x.core == 0) = some folding ∧
      s.otherRound 0 3 = true) ∧
    (let s := buffered [folding] (objects [obj .update 1 true] probe); s.sb.find? (fun x => x.core == 0) = some folding ∧
      s.otherRound 0 3 = false ∧ s.drainable folding = true ∧ s.objRead 0 folding = false ∧ s.comesHome 0 3 = false) ∧
    (let s := buffered [folding] (objects [obj (.owned (5 * 256)) 1 false] probe); s.otherRound 0 3 = false ∧ s.drainable folding = true ∧
      s.objRead 0 folding = false ∧ s.comesHome 0 3 = true) := by
  refine ⟨⟨_, _, rfl, by decide⟩, ?_, ?_, ?_⟩ <;> decide

/-- A page that a core of this package or of another one holds alone. -/
def paged (pkg core : Nat) (s : State) : State := { s with pages := [⟨0, .priv pkg core⟩] }

theorem test_meets_copies :
    (let w := writeAt ms .travel [] (.atomic 0 4 1 0); let s := (writing w probe).setLine { probe.lineAt ms 64 with poison := true };
      (s.holderState w.prim w.addr).map HolderSt.st = some .primary ∧ s.worldOk w.prim w.addr w.world = true ∧ (s.lineAt w.prim w.addr).poison = true) ∧
    (let s := writing (writeAt ms .travel [] (.bytes [1])) probe; ∃ t, s.touchPage 64 0 = some t) ∧
    (let s := writing (writeAt ms .travel [] (.bytes [1])) (buffered [{ stored 9 (.bytes [1]) with core := 3 },
        { stored 10 (.bytes [1]) with core := 3 }] (paged probe.pkgNum 3 probe)); s.touchPage 64 0 = none) ∧
    (let s : State := { probe with l1 := [⟨143, 64, 64, 0, 0, 0, 0, 15, 12, 0, false, [], 0, none, 0⟩], tags := [⟨1, 64, ms, 0, 0, 1, 0, none, none, false⟩] };
      (∃ l ∈ s.l1, l.fline = 64 ∧ l.const = false ∧ l.core < 144) ∧ ∃ x ∈ s.tags, x.line = 64 ∧ x.place < 12 ∧ s.serSlice ms ≠ some x.place) ∧
    (let w := { writeAt ms .invalidating [] (.bytes [1]) with world := 3 }; let s : State := { writing w probe with granted := [(0, 5)] };
      s.write? 9 = some w ∧ w.invs = [] ∧ s.worldOk w.prim w.addr w.world = false) ∧
    (∃ u e, ((writing (writeAt ms .invalidating [] (.bytes [1])) probe).countWrite (probe.serSlice ms) 0 64 1).applyBytes 9 ms 64 [1] none 0 0 1 none = (u, e)) ∧
    (probe.write? 9 = none) := by
  refine ⟨by decide, ⟨_, rfl⟩, by decide, ⟨⟨_, List.mem_singleton_self _, by decide, by decide, by decide⟩,
    ⟨_, List.mem_singleton_self _, by decide, by decide, by decide⟩⟩, by decide, ⟨_, _, rfl⟩, by decide⟩

theorem test_meets_writes :
    (∀ e ∈ probe.sb, e.core ≠ 0) ∧
    (let e := stored 9 (.bytes [1]); let s := buffered [e] probe; s.sb.find? (fun x => x.core == 0) = some e ∧ e.kind.isFold = false ∧ s.drainable e = true ∧
      e.prim / 256 = s.pkgNum) ∧
    (let e := stored 9 (.bytes [1]); let s := buffered [e] (writing (writeAt ms .travel [] (.bytes [2])) probe); s.sb.find? (fun x => x.core == 0) = some e ∧
      s.drainable e = false) ∧
    (let w := writeAt ms .travel [] (.bytes [1]); let s : State := { probe with writes := [w, { w with id := 8, phase := .invalidating }] };
      s.write? 9 = some w ∧ w.phase = .travel ∧ ∃ x ∈ s.writes, x.phase = .invalidating ∧ lineBase x.addr = lineBase w.addr) ∧
    (let w := writeAt ms .travel [] (.bytes [1]); let s : State := { writing w probe with echoes := [⟨9, 4, 17, ms, ⟨0, 52⟩, 64, [1], 0, false, false⟩] };
      s.write? 9 = some w ∧ w.phase = .travel ∧ ∃ x ∈ s.echoes, x.dst = w.prim ∧ lineBase x.addr = lineBase w.addr) ∧
    (let w := { writeAt ms .travel [] (.bytes [1]) with world := 3 }; let s : State := { writing w probe with granted := [(0, 5)] };
      s.write? 9 = some w ∧ w.prim ≠ 2 ^ 24 ∧ s.lineWaits w.prim w.addr = false ∧ s.farOwner w.addr = none ∧
      (s.holderState w.prim w.addr).map HolderSt.st = some .primary ∧ s.worldOk w.prim w.addr w.world = false) ∧
    (let w := writeAt ms .travel [] (.atomic 0 4 1 0); let s : State := { writing w probe with holders := probe.holders.map (fun h => { h with cap := 0 }) };
      s.worldOk w.prim w.addr w.world = true ∧ (s.holderState w.prim w.addr).map HolderSt.st = some .primary ∧
      s.badCopy w.prim w.addr = false ∧ (s.lineAt w.prim w.addr).poison = false ∧ ∃ b ∈ w.needs, (s.capOf w.prim w.addr).getLsbD b = false) ∧
    (let w := writeAt ms .travel [] (.bytes [1]); let s := writing w probe; (s.holderState w.prim w.addr).map HolderSt.st = some .primary ∧
      s.worldOk w.prim w.addr w.world = true ∧ (∀ b ∈ w.needs, (s.capOf w.prim w.addr).getLsbD b = true) ∧ s.objOfFa w.addr = none ∧
      s.badCopy w.prim w.addr = false ∧ s.farOwner w.addr = none ∧ (s.writePage w).isSome = true ∧ w.origin = .engine) ∧
    (let w := { writeAt ms .travel [] (.bytes [1]) with addr := 0 }; let o := obj .shared 0 false; let s := objects [o] (writing w probe);
      s.objOfFa w.addr = some o ∧ s.badCopy w.prim w.addr = false ∧ s.farOwner w.addr = none ∧ ∃ t a, s.objAccess o (some (.write 9)) (s.writer w) w.core w.addr true = .go t ∧
        (t.obj? o.idx).map ObjEntry.st = some (.owned a) ∧ a / 256 = t.pkgNum) ∧
    (let s := buffered [{ stored 9 (.bytes [1]) with core := 3 }] (paged probe.pkgNum 3 (writing (writeAt ms .travel [] (.bytes [1])) probe));
      s.writePage (writeAt ms .travel [] (.bytes [1])) = none) ∧
    (let w := { writeAt ms .travel [] (.bytes [1]) with origin := .outside 5 3 }; w.origin = .outside 5 3 ∧ w.prim / 256 = probe.pkgNum) ∧
    (let x := { obj .shared 1 false with barred := [(sharerId 5, 9)] }; let s := objects [x] probe; s.barredAt (sharerId 5) 0 8 = true ∧ 5 ≠ s.pkgNum ∧
      s.barredAt (sharerId 5) 0 9 = false) ∧
    (let w := writeAt ms .travel [] (.bytes [1]); let s := holderIs .replica (some 17) (writing w probe);
      (s.holderState w.prim w.addr).map (fun h => (h.st, h.next)) = some (.replica, some 17)) ∧
    (let w := writeAt ms .travel [] (.bytes [1]); let s := holderIs .draining none (writing w probe);
      (s.holderState w.prim w.addr).map HolderSt.st = some .draining) ∧
    (let w := { writeAt ms .invalidating [] (.bytes [1]) with invs := [3] }; (writing w probe).write? 9 = some w ∧ w.invs = 3 :: []) ∧
    (let w := writeAt ms .invalidating [] (.bytes [1]); let s := writing w probe; s.write? 9 = some w ∧ w.invs = [] ∧ w.bad = false ∧
      s.badCopy w.prim w.addr = false ∧
      s.effect w = (0, some [1], 0) ∧ s.readOld w = s ∧ w.prim / 256 = s.pkgNum) ∧
    (let w := writeAt ms .invalidating [] (.atomic 9 4 7 0); probe.bytesAt w.prim w.addr 4 = [0, 0, 0, 0] ∧
      ofLeBytes (probe.bytesAt w.prim w.addr 4) = 0 % 2 ^ (8 * 4) ∧ ofLeBytes (probe.bytesAt w.prim w.addr 4) ≠ 1 % 2 ^ (8 * 4)) ∧
    (let w := { writeAt ms .applied [] (.bytes [1]) with notice := true }; (writing w probe).write? 9 = some w ∧ w.notice = true ∧ w.known = some 0) ∧
    (let w := writeAt ms .applied [(17, none)] (.bytes [1]); w.notice = false ∧ w.known = none ∧ ∃ e ∈ w.echo, e.2 = none) ∧
    (let w := { writeAt (2 ^ 24) .travel [] (.bytes [1]) with routed := 15 }; (writing w probe).write? 9 = some w ∧ w.prim = 2 ^ 24 ∧ w.routed < 16 ∧
      (probe.routeWrite (probe.dieRouter w.core) w.addr w.gone).isSome = true) ∧
    (let w := { writeAt (2 ^ 24) .travel [] (.bytes [1]) with routed := 16 }; (writing w probe).write? 9 = some w ∧ w.prim = 2 ^ 24 ∧ 16 ≤ w.routed) := by
  refine ⟨?_, ?_, ?_, ?_, ?_, ?_, ?_, ?_, ⟨?_, ?_, ?_, _, 0, rfl, ?_, ?_⟩, ?_, ?_, ?_, ?_, ?_, ?_, ?_, ?_, ?_, ?_, ?_, ?_⟩ <;> decide

/-- An echo to the probe's holder. -/
def echo : Echo := ⟨9, 4, 17, ms, ⟨0, 52⟩, 64, [1], 0, false, false⟩
def echoing (s : State) : State := { s with echoes := [echo] }

/-- A load of line 64 that waits, and the line's request. -/
def request (rt : Nat) (prim : Bool) : LineReq := ⟨64, 0, rt, [], false, prim, false, [], 0, 0, none⟩
def loadOp (r : LineReq) : MemOp := ⟨9, .ld, .load, 0, .scalar 3 false, [⟨0, 64, 64, 4, none, false⟩], [r], 0, 0, none, false, 0, 0, none, 0, 2⟩
def loading (o : MemOp) : State := probe.modAcc (fun a => { a with ld := 1, ops := [o] })

/-- Another replica of the probe's prefix, in this package. -/
def replicaIs (n : Nat) (s : State) : State := { s with holders := s.holders ++ [⟨⟨0, 52⟩, n, .replica, 20, 255, [], 0, 0, none, 0, [], []⟩] }

/-- The probe's package has number 5. -/
def fifth (s : State) : State := { s with pkg := { s.pkg with pkgId := 5 } }

theorem test_meets_echoes :
    (let s := holderIs .draining none (echoing probe); s.echoes.find? (fun x => x.id == 9) = some echo ∧ echo.carried = false ∧ echo.inval = false ∧
      s.echoFirst echo = true ∧ echo.write ≠ 0 ∧ (s.holderState echo.dst echo.addr).map HolderSt.st = some .draining) ∧
    (let s := holderIs .replica none (echoing probe); (s.holderState echo.dst echo.addr).map HolderSt.st = some .replica) ∧
    (let s := holderIs .filling none (echoing probe); (s.holderState echo.dst echo.addr).map HolderSt.st = some .filling) ∧
    (let s : State := { echoing probe with renewals := [⟨7, ⟨0, 52⟩, 17, ms, 0, 7⟩] }; s.echoFirst echo = false) ∧
    (1280 / 256 ≠ probe.pkgNum ∧ ms / 256 = probe.pkgNum ∧ ∀ z ∈ probe.echoes, z.src = 1280 → z.dst ≠ ms) ∧
    ((fifth (echoing probe)).echoes = [echo] ∧ echo.src = 17 ∧ 17 / 256 ≠ (fifth probe).pkgNum) ∧
    (let w := writeAt ms .applied [(17, none)] (.bytes [1]); let a : EchoAck := ⟨5, 9, 17, 3⟩; let s : State := { atPace 5000 (writing w probe) with acks := [a] };
      s.acks.find? (fun x => x.id == 5) = some a ∧ s.write? a.write = some w ∧ s.pace = w.time + 5000) ∧
    (let w := writeAt ms .applied [(17, none)] (.bytes [1]); let a : EchoAck := ⟨5, 9, 17, 3⟩; let s : State := { atPace 5001 (writing w probe) with acks := [a] };
      s.acks.find? (fun x => x.id == 5) = some a ∧ s.write? a.write = some w ∧ w.time + 5000 < s.pace) ∧
    (let w := writeAt ms .applied [(17, some 3)] (.bytes [1]); (writing w probe).write? 9 = some w ∧ w.known = some 3) ∧
    (let w := writeAt ms .applied [(17, none)] (.bytes [1]); (writing w probe).write? 9 = some w ∧ w.known = none) ∧
    (let f : FillWrite := ⟨9, ⟨0, 52⟩, ms, 64, [7], 1, 0⟩; let s : State := { probe with fills := [f] }; s.fills.find? (fun x => x.id == 9) = some f ∧
      (s.holderState f.dst f.addr).map HolderSt.st = some .primary ∧ ((holderIs .filling none s).holderState f.dst f.addr).map HolderSt.st = some .filling ∧
      f.data = [7]) := by
  refine ⟨?_, ?_, ?_, ?_, ?_, ?_, ?_, ?_, ?_, ?_, ?_⟩ <;> decide

theorem test_meets_leases :
    (∀ h ∈ probe.holders, h.pre = ⟨0x1000, 52⟩ → h.st ≠ .primary) ∧
    (∃ h, probe.holders.find? (fun h => h.pre == ⟨0, 52⟩ && h.st == HState.primary && h.holder / 256 == probe.pkgNum) = some h ∧ h.holder = ms ∧ probe.renewed = []) ∧
    (let r : Renewed := ⟨⟨0, 52⟩, ms, 17, 0, false, 20000, true⟩; let s : State := { replicaIs 17 (atPace 1001 probe) with renewed := [r] };
      ∃ h, s.holders.find? (fun h => h.pre == ⟨0, 52⟩ && h.st == HState.primary && h.holder / 256 == s.pkgNum) = some h ∧
      s.renewed.filter (fun x => x.live && x.pre == ⟨0, 52⟩ && x.prim == h.holder && decide (x.time < (s.pace - 1) / 1000 * 1000)) = [r]) ∧
    (let r : Renewal := ⟨5, ⟨0, 52⟩, 17, ms, 0, 5⟩; let s : State := { probe with renewals := [r] }; s.renewals.find? (fun x => x.id == 5) = some r ∧
      s.echoes = [] ∧ ∀ x ∈ s.renewals, x.dst = r.dst → r.seq ≤ x.seq) ∧
    (let r : Renewal := ⟨5, ⟨0, 52⟩, 17, ms, 0, 10⟩; let s : State := { echoing probe with renewals := [r] }; s.renewals.find? (fun x => x.id == 5) = some r ∧
      ∃ e ∈ s.echoes, e.dst = r.dst ∧ e.id < r.seq) ∧
    (1280 / 256 ≠ probe.pkgNum ∧ ms / 256 = probe.pkgNum ∧ 0 ≤ probe.pace ∧ ∀ e ∈ probe.echoes, e.dst ≠ ms) := by
  refine ⟨?_, ⟨_, rfl, ?_, ?_⟩, ⟨_, rfl, ?_⟩, ?_, ?_, ?_⟩ <;> decide

/-- What the probe wants of line 64 in a plain load. -/
def want : Want := ⟨0, 0, 0, 0, 64, 64, 0, 1, false, false, true, none⟩

theorem test_meets_reads :
    (let o := loadOp (request 0 false); let s := loading o; s.opOf 9 = some (s.cur, o) ∧ s.ctx? s.cur.place.ctx = some probeCtx ∧
      o.reqs.find? (fun x => !x.served && x.err.isNone && (decide (0 < x.routed) == false)) = some (request 0 false) ∧
      s.leaves s.cur o 64 = true ∧ s.forwarded s.cur.place.uid o 64 = none ∧ s.badOwn s.cur.place.uid o 64 = false ∧
      (request 0 false).left = false ∧ o.finished = false) ∧
    (let o := loadOp (request 1 false); (loading o).opOf 9 = some ((loading o).cur, o) ∧ ∀ x ∈ o.reqs, x.served = true ∨ x.err ≠ none ∨ 0 < x.routed) ∧
    (let o := { loadOp (request 0 false) with lanes := [] }; ((loading o).forwarded (loading o).cur.place.uid o 64).isSome = true ∧
      (loading o).badOwn (loading o).cur.place.uid o 64 = false ∧ (request 0 false).toPrim = false) ∧
    (let o := loadOp (request 0 false); let s := buffered [{ stored 5 (.bytes [1]) with origin := .group probe.cur.place.uid 5 0, bad := true }] (loading o);
      s.badOwn s.cur.place.uid o 64 = true) ∧
    (let o := loadOp (request 0 false); let p := { o with id := 8 }; let s := probe.modAcc (fun a => { a with ld := 2, ops := [p, o] });
      s.forwarded s.cur.place.uid o 64 = none ∧ s.badOwn s.cur.place.uid o 64 = false ∧ (request 0 false).left = false ∧ s.leaves s.cur o 64 = false) ∧
    (let s := loading (loadOp (request 0 false)); ∃ g ∈ (s.staleLanes ⟨3, 0, 0, 1⟩).groups, (s.ctx? g.place.ctx).any (fun c => c.vdid == 0) = true ∧
      ∃ p ∈ g.acc.ops, p.kind = .load ∧ p.lanes ≠ []) ∧
    (let s : State := { loading (loadOp (request 0 false)) with l1 := [⟨0, 64, 64, 0, 0, 0, 0, 15, 12, 0, false, [], 0, none, 0⟩] };
      (s.l1Find 0 probeCtx 64 0 2 false).isSome = true ∧ s.leaves s.cur (loadOp (request 0 false)) 64 = true ∧
      s.forwarded s.cur.place.uid (loadOp (request 0 false)) 64 = none) ∧
    (let r := { request 16 true with left := true }; let o := loadOp r; r.toPrim = true ∧ r.left = true ∧ 16 ≤ r.routed ∧
      (loading o).badOwn (loading o).cur.place.uid o 64 = false) ∧
    (let s := holderIs .replica none probe; s.leasedCopy want = none ∧ (s.routed want []).map RtHolder.holder = some ms ∧ want.acq = false ∧
      (s.holderState ms want.fa).map (fun x => (x.st, x.leaseEnd)) = some (.replica, 0) ∧ 0 ≤ s.pace) ∧
    (let s := holderIs .draining none probe; s.leasedCopy want = none ∧ (s.routed want []).map RtHolder.holder = some ms ∧
      (s.holderState ms want.fa).map HolderSt.st = some .draining) ∧
    (let o := loadOp { request 0 false with served := true, data := List.replicate 64 0 }; (loading o).opOf 9 = some ((loading o).cur, o) ∧ o.finished = true) := by
  refine ⟨?_, ?_, ?_, ?_, ?_, ?_, ?_, ?_, ?_, ?_, ?_⟩ <;> decide

theorem test_meets_reads_from_outside :
    ((probe.holderState ms (lineBase 64)).map HolderSt.st = some .primary ∧ 5 ≠ probe.pkgNum ∧ probe.objOfFa (lineBase 64) = none ∧
      probe.worldOk ms (lineBase 64) 0 = true ∧ (probe.lineAt ms (lineBase 64)).poison = false ∧ probe.lineWaits ms (lineBase 64) = false) ∧
    (∃ t, probe.touchPageAs 5 0 (lineBase 64) = some t) ∧
    (((holderIs .draining none probe).holderState ms (lineBase 64)).map HolderSt.st = some .draining) := by
  refine ⟨?_, ⟨_, rfl⟩, ?_⟩ <;> decide

/-! ## Steps and checks -/

/-- The probe about to issue a word. -/
def issuing (w : Nat) : State := State.reset.withFetchWord 32 w

theorem test_meets_step : ∃ i t v w j u, (issuing 0x0801840A).agenda = [] ∧ (issuing 0x0801840A).phase = .issue ∧
    (splitNums.foldl State.resume (issuing 0x0801840A).startTurn).pickSplit = (some i, t) ∧ (t.candidate i).fetch = .word v w ∧
      decodeWord w = some j ∧ exec j v = .next u :=
  ⟨0, _, _, _, _, _, rfl, rfl, rfl, rfl, rfl, rfl⟩

theorem test_meets_illegal_step : ∃ i t v w u, probe.agenda = [] ∧ probe.phase = .issue ∧
    (splitNums.foldl State.resume probe.startTurn).pickSplit = (some i, t) ∧ (t.candidate i).fetch = .word v w ∧
      decodeWord w = none ∧ execIllegalOpcode w v = .next u :=
  ⟨0, _, _, _, _, rfl, rfl, rfl, rfl, rfl, rfl⟩

theorem test_meets_fetch : ∃ c x t h, probe.myCtx = some c ∧
    probe.translate c probe.cur.place.core probe.pc.toNat .exec probe.cur.trap.pl = (.ok x, t) ∧
    t.fetchHolder probe.cur.place.core x.fa = some h ∧ t.worldOk h x.fa c.world = true ∧ (t.lineAt h x.fa).poison = false ∧
    t.badCopy h x.fa = false :=
  ⟨_, _, _, _, rfl, rfl, rfl, by decide, by decide, by decide⟩

/-- Stage 1 of the context is on and its table empty. -/
theorem test_meets_fetch_fault : let s := ctx (fun c => { c with s1root := 1 }) probe; ∃ c m t, s.myCtx = some c ∧
    s.translate c s.cur.place.core s.pc.toNat .exec s.cur.trap.pl = (.fault m, t) :=
  ⟨_, _, _, rfl, rfl⟩

theorem test_meets_canonical_step : State.reset.mem.wf = true ∧ (issuing 0x0801840A).mem.wf = true ∧ ∃ t, step (issuing 0x0801840A) = .next t :=
  ⟨by decide, by decide, _, rfl⟩

/-- The probe at PL0, with flags 3 pending, and with a bad register. -/
def lowly : State := probe.modTrap (fun t => { t with pl := 0 })
def flagged (n : Nat) : State := probe.modRegs (fun r => { r with f := r.f.set 3 ⟨false, n⟩ })
def damaged : State := probe.modRegs (fun r => { r with bad := [(.s 63, 0)] })

theorem test_meets_checks :
    (∃ w, encode (.waitF 8) = some w ∧ w.toNat / 2 ^ 26 ≠ 0x3E) ∧
    ((flagged 0).flagWait ((flagged 0).waitsFor (.waitF 8)) = .never) ∧
    ((flagged 1).flagWait ((flagged 1).waitsFor (.waitF 8)) = .pending) ∧
    (lowly.flagWait (lowly.waitsFor .tret) = .satisfied ∧ lowly.cur.trap.pl < privOf .tret) ∧
    (probe.flagWait (probe.waitsFor (.bar 0 0)) = .satisfied ∧ privOf (.bar 0 0) ≤ probe.cur.trap.pl ∧
      fieldsOk probe.cur.place.nregs (.bar 0 0) = false) ∧
    (let i := Instr.sadd 3 63 5 0; damaged.flagWait (damaged.waitsFor i) = .satisfied ∧ privOf i ≤ damaged.cur.trap.pl ∧
      fieldsOk damaged.cur.place.nregs i = true ∧ hintsOk (hintsOf i) damaged.hints = true ∧ (damaged.badRead i).isSome = true) := by
  refine ⟨⟨_, rfl, by decide⟩, ?_, ?_, ?_, ?_, ?_⟩ <;> decide

theorem test_meets_memory_frames :
    (probe.myCtx = some probeCtx ∧ probeCtx.fpBase.toNat % 2 = 0 ∧ probeCtx.fq1.toNat < 4096 ∧ ((probe.vregs.fq2[probeCtx.vdid]?).getD 0).toNat < 4096 ∧
      probe.pkg.erq.toNat < 4096 ∧ (∀ x ∈ probe.faults, x.id < probe.nextId) ∧ probe.echoes = [] ∧
      ∀ x ∈ probe.writes, x.phase ≠ .invalidating) ∧
    (∃ t, exec (.sst 3 3 4 0 1) probe = .next t) ∧ (probe.objs = [] ∧ ∃ t, exec (.red 4 8 0) probe = .next t) ∧
    (let v := writeAt ms .invalidating [] (.bytes [1]); let s := writing v probe; s.mem.wf = true ∧ s.write? 9 = some v ∧ v.phase = .invalidating ∧
      v.invs = [] ∧ s.worldOk v.prim v.addr v.world = true ∧ s.badCopy v.prim v.addr = false ∧ s.effect v = (0, some [1], 0) ∧ 0 < [(1 : Byte)].length ∧ memKey v.prim v.addr + [(1 : Byte)].length ≤ memKey v.prim v.addr + 1 ∧
      ∃ t, exec (.writeReadable 9) s = .next t) :=
  ⟨by decide, ⟨_, rfl⟩, ⟨rfl, _, rfl⟩, by decide, by decide, rfl, rfl, by decide, by decide, by decide, by decide, by decide, _, rfl⟩

/-! ## One step or one operation, with the results the specification works out -/

/-- The state after an instruction in a state. -/
def after (i : Instr) (s : State) : State := match exec i s with | .next t => t | _ => s

/-- 06 R100, the 128-bit sum: low words, then high words with the carry. -/
theorem test_saddc_low : let t := after (.saddc 8 2 4 0) ((probe.setSreg 2 0xFFFFFFFFFFFFFFFF).setSreg 4 1); t.sreg 8 = 0 ∧ t.sreg 9 = 1 := by decide

theorem test_saddc_high : let t := after (.saddc 8 3 5 0) (((probe.setSreg 3 1).setSreg 5 2).setSreg 9 1); t.sreg 8 = 4 ∧ t.sreg 9 = 0 := by decide

/-- 06 R99: a sum above the largest 32-bit value clamps and sets `sat`. -/
theorem test_sadds_clamps : let t := after (.saddsS 8 2 4 1) ((probe.setSreg 2 0x7FFFFFFF).setSreg 4 1); t.sreg 8 = 0x7FFFFFFF ∧
    t.cur.regs.fpflags = 32 := by decide

/-- 06 R101: a negative count is a large one. -/
theorem test_sshl_negative : (after (.sshl 1 1 5 0) ((probe.setSreg 1 7).setSreg 5 (BitVec.allOnes 64))).sreg 1 = 0 := by decide

/-- 06 R102, the table of `vbfe` under 0x0408. -/
def fields : State := (probe.setV 5 (BitVec.allOnes 32) (fun l => if l = 0 then 0x0F00 else if l = 1 then 0x0700 else 0x12345A67)).setSreg 3 0x0408

theorem test_vbfe_s : let t := after (.vbfeS 6 5 3 1) fields; t.vlane 6 0 = 0xFFFFFFFF ∧ t.vlane 6 1 = 7 ∧ t.vlane 6 2 = 0xFFFFFFFA := by decide

theorem test_vbfe_u : let t := after (.vbfeU 7 5 3 1) fields; t.vlane 7 0 = 15 ∧ t.vlane 7 1 = 7 ∧ t.vlane 7 2 = 10 := by decide

/-- 06 R105: lane addresses with a negative index. -/
theorem test_vlea : let s := (probe.setSreg 4 0x00007F0000200000).setV 9 (BitVec.allOnes 32) (fun l => BitVec.ofNat 32 (4 * l.val) - 8);
    let t := after (.vlea 20 4 9 0) s; t.vlane 20 0 = 0x001FFFF8 ∧ t.vlane 21 0 = 0x00007F00 ∧ t.vlane 20 3 = 0x00200004 ∧ t.vlane 21 3 = 0x00007F00 := by decide

/-- 06 R106, the division table at 32 bits. -/
theorem test_division : (divS (BitVec.ofInt 32 (-7)) 2) = BitVec.ofInt 32 (-3) ∧ (remS (BitVec.ofInt 32 (-7)) (2 : Word)) = BitVec.ofInt 32 (-1) ∧
    divU (BitVec.ofInt 32 (-7)) (2 : Word) = 0x7FFFFFFC ∧ divS (5 : Word) 0 = 0xFFFFFFFF ∧ remS (5 : Word) 0 = 5 ∧
    divS (0x80000000 : Word) 0xFFFFFFFF = 0x80000000 ∧ remS (0x80000000 : Word) 0xFFFFFFFF = 0 := by decide

/-- 07 R129: one step of a generator from state 1. -/
theorem test_vrng_step : let t := after (.vrngStep 3) (probe.setSr (BitVec.allOnes 32) (fun _ => 1)); t.vlane 3 7 = 0x00042021 ∧ t.srState 7 = 0x00042021 := by decide

/-- 07, the reduction example: 2^24 + 1 is 2^24 in FP32, inexactly. -/
theorem test_vfadd_tie : let s := (probe.setV 2 (BitVec.allOnes 32) (fun _ => 0x4B800000)).setV 3 (BitVec.allOnes 32) (fun _ => 0x3F800000);
    let t := after (.vfadd 4 2 3 0) s; t.vlane 4 0 = 0x4B800000 ∧ t.cur.regs.fpflags = 16 := by decide

/-- 03 R54, the worked block under scale code 125. -/
def f32 (x : Nat) : FVal := fmtDecode fmtF32 x

theorem test_io4_outlier : io4Quantise (f32 0x40A26666) (f32 0x3DCCCCCD) (f32 0xBD4CCCCD) (f32 0xBF466666) 125 = (0xD5A8, 16) := by decide

theorem test_io4_saturates : io4Quantise (f32 0x3E800000) (f32 0x3F000000) (f32 0x4019999A) (f32 0) 125 = (0x0721, 48) := by decide

/-- 03 R61, the table of scale codes. -/
theorem test_scale_codes : scaleCode 0x447A0000 448 0 = (129, 0) ∧ scaleCode 0x43E00000 448 0 = (127, 0) ∧ scaleCode 0x44600000 448 0 = (128, 0) ∧
    scaleCode 0x40400000 57344 0 = (113, 0) ∧ scaleCode 0x00000200 448 0 = (0, 256) ∧ scaleCode 0 448 0 = (0, 0) ∧ (scaleCode 0x7F800000 448 0).1 = 255 := by decide

/-- 12 R210: tree 2 of port 5. -/
theorem test_tree_set : let t := after (.treeSet 8 6 2) ((probe.setSreg 6 5).setSreg 7 0x8000030000030006); t.sreg 8 = 0 ∧
    t.treeAt 5 2 = 0x8000030000030006 := by decide

/-- 08 R132: a call links to the next word and jumps by words. -/
theorem test_call : let t := after (.call 62 0x1FFFF) { probe with cur := (ctl (fun c => c.setSplit 0 { c.split 0 with pc := 0x100 }) probe).cur };
    t.sreg 62 = 0x104 ∧ t.pc = 0xFC := by decide

/-- 09, the example: a 2 MiB leaf of IPA 0x1_4000_0000 under indices 254, 0, 1 (`oa` by R149, log entry 52). -/
theorem test_walk : let s := lay 0x8FE0 (leBytes 9 (0xA * 2 ^ 64 + 1)) (lay 0xA000 (leBytes 9 (0xC * 2 ^ 64 + 1))
      (lay 0xC010 (leBytes 11 (0x140000 * 2 ^ 64 + 0x3B)) (wide probe)));
    (s.walk1 0 0 0x8001 0 0x00007F0000200004).1 = .ok ⟨0x0000000140000004, 7, 21, 2, false, none⟩ := by decide

end Sys2Proof.Tests
end

/-!
# Memory stays in its canonical form

Memory is a list of cells with rising addresses, none of which holds what its address reads as unlisted (`Memory.wf`). A state's
memory is written only by `Memory.putN` and `List.filter`, and both keep that form (`Laws.Mem.putN_wf`, `Laws.Mem.filter_wf`). What
remains is to follow every function of the model from `step` down to these writes. For each function there is one lemma, in the order
of the model: `f_mem` where `f` leaves memory as it is, and `f_wf` where it keeps memory in its form. A function that answers an
outcome has the lemma for the state in each of its outcomes.
-/

namespace Sys2Proof.Proofs.Canonical

open Sys2Proof Sys2Proof.Machine Sys2Proof.Laws.Mem

/-! ## Combinators of states -/

@[simp] theorem ite_mem (c : Prop) [Decidable c] (a b : State) : (if c then a else b).mem = if c then a.mem else b.mem :=
  apply_ite State.mem c a b

@[simp] theorem ite_wf {c : Prop} [Decidable c] {a b : Memory} (ha : a.wf = true) (hb : b.wf = true) :
    (if c then a else b).wf = true := by
  split <;> assumption

theorem ite_state_wf {c : Prop} [Decidable c] {a b : State} (ha : a.mem.wf = true) (hb : b.mem.wf = true) :
    (if c then a else b).mem.wf = true := by
  split <;> assumption

theorem wf_of_mem_eq {s t : State} (e : t.mem = s.mem) (hs : s.mem.wf = true) : t.mem.wf = true := by
  rw [e]
  exact hs

@[simp] theorem foldl_mem {α : Type} {f : State → α → State} (hf : ∀ s a, (f s a).mem = s.mem) (l : List α) (s : State) :
    (l.foldl f s).mem = s.mem :=
  List.foldlRecOn (motive := fun t : State => t.mem = s.mem) l f rfl fun t ht a _ => (hf t a).trans ht

theorem foldl_wf {α : Type} {f : State → α → State} (hf : ∀ s a, s.mem.wf = true → (f s a).mem.wf = true)
    {l : List α} {s : State}
    (hs : s.mem.wf = true) : (l.foldl f s).mem.wf = true :=
  List.foldlRecOn (motive := fun t : State => t.mem.wf = true) l f hs fun t ht a _ => hf t a ht

theorem wf_of_snd {α : Type} {p : α × State} {a : α} {t : State} (e : p = (a, t)) (h : p.2.mem.wf = true) : t.mem.wf = true := by
  rw [e] at h
  exact h

theorem wf_of_fst {α : Type} {p : State × α} {a : α} {t : State} (e : p = (t, a)) (h : p.1.mem.wf = true) : t.mem.wf = true := by
  rw [e] at h
  exact h

/-! ## Outcomes whose states have memory in its form -/

/-- What an instruction does keeps memory in its form: the state that it leaves, or, where it raises an error, its mark on any
state. -/
def ActWf : Act → Prop
  | .ok s | .hold s _ | .again s _ | .park s _ | .raise s _ | .done s => s.mem.wf = true
  | .ecc f _ _ => ∀ s : State, s.mem.wf = true → (f s).mem.wf = true
  | .notReady | .waiting _ | .trap _ _ _ => True

/-- The next state, if there is one, has memory in its form. -/
def OutWf (o : Out State) : Prop := ∀ t, o = .next t → t.mem.wf = true

/-- The state with which an access passes an object, or waits at it, has memory in its form. -/
def ObjGateWf : ObjGate → Prop
  | .go s | .wait s => s.mem.wf = true
  | .poisoned => True

/-- The state after a read at a holder has memory in its form. -/
def FetchWf : Fetch → Prop
  | .data s _ _ _ | .wait s | .err s _ => s.mem.wf = true
  | .refused _ => True

/-- The state after a unit's read of a line has memory in its form. -/
def LineReadWf : LineRead → Prop
  | .got s _ _ | .wait s => s.mem.wf = true
  | .bad _ _ => True

/-- The state after the fetch of a word has memory in its form. -/
def FetchedWf : Fetched → Prop
  | .word s _ | .park s _ => s.mem.wf = true
  | .trap _ _ => True

/-- A state that may be answered has memory in its form. -/
def OptWf (o : Option State) : Prop := ∀ t, o = some t → t.mem.wf = true

/-- The state after an engine's access, however it ended. -/
def engState {α : Type} : Eng α → State
  | .ok _ s | .err s _ _ | .miss s _ _ _ _ | .wait s => s

/-- The state after a matrix command has run, however it ended. -/
def mresState : MRes → State
  | .done s _ | .sent s _ | .part s _ _ | .fault s _ _ _ _ _ => s

/-- Every event of a list keeps memory in its form. -/
def EventsWf (es : List (State → Out State)) : Prop := ∀ e ∈ es, ∀ s : State, s.mem.wf = true → OutWf (e s)

section
variable {s : State}

@[simp] theorem actWf_ok : ActWf (.ok s) ↔ s.mem.wf = true := Iff.rfl
@[simp] theorem actWf_hold {w : Wait} : ActWf (.hold s w) ↔ s.mem.wf = true := Iff.rfl
@[simp] theorem actWf_again {w : Wait} : ActWf (.again s w) ↔ s.mem.wf = true := Iff.rfl
@[simp] theorem actWf_raise {es : List TrapEntry} : ActWf (.raise s es) ↔ s.mem.wf = true := Iff.rfl
@[simp] theorem actWf_done : ActWf (.done s) ↔ s.mem.wf = true := Iff.rfl
@[simp] theorem actWf_notReady : ActWf .notReady := trivial
@[simp] theorem actWf_waiting {w : Wait} : ActWf (.waiting w) := trivial
@[simp] theorem actWf_trap {c a n : Nat} : ActWf (.trap c a n) := trivial
@[simp] theorem actWf_ecc {f : State → State} {a n : Nat} :
    ActWf (.ecc f a n) ↔ ∀ s : State, s.mem.wf = true → (f s).mem.wf = true := Iff.rfl
@[simp] theorem outWf_next : OutWf (.next s) ↔ s.mem.wf = true := by simp [OutWf]
@[simp] theorem objGateWf_go : ObjGateWf (.go s) ↔ s.mem.wf = true := Iff.rfl
@[simp] theorem objGateWf_wait : ObjGateWf (.wait s) ↔ s.mem.wf = true := Iff.rfl
@[simp] theorem objGateWf_poisoned : ObjGateWf .poisoned := trivial
@[simp] theorem fetchWf_data {bs : List Byte} {n : Nat} {l : Option (Nat × Nat)} : FetchWf (.data s bs n l) ↔ s.mem.wf = true := Iff.rfl
@[simp] theorem optWf_some : OptWf (some s) ↔ s.mem.wf = true := by simp [OptWf]
@[simp] theorem optWf_none : OptWf none := by simp [OptWf]
@[simp] theorem engState_ok {α : Type} {x : α} : engState (.ok x s) = s := rfl
@[simp] theorem engState_err {α : Type} {c a : Nat} : engState (.err s c a : Eng α) = s := rfl
@[simp] theorem engState_miss {α : Type} {m : Miss} {g a : Nat} {acc : Access} : engState (.miss s m g a acc : Eng α) = s := rfl
@[simp] theorem engState_wait {α : Type} : engState (.wait s : Eng α) = s := rfl

end

theorem ActWf.of_eq {a b : Act} (h : ActWf a) (e : a = b) : ActWf b := by
  rwa [← e]

theorem ObjGateWf.of_eq {a b : ObjGate} (h : ObjGateWf a) (e : a = b) : ObjGateWf b := by
  rwa [← e]

theorem FetchWf.of_eq {a b : Fetch} (h : FetchWf a) (e : a = b) : FetchWf b := by
  rwa [← e]

theorem LineReadWf.of_eq {a b : LineRead} (h : LineReadWf a) (e : a = b) : LineReadWf b := by
  rwa [← e]

theorem FetchedWf.of_eq {a b : Fetched} (h : FetchedWf a) (e : a = b) : FetchedWf b := by
  rwa [← e]

theorem engState_wf_of_eq {α : Type} {a b : Eng α} (h : (engState a).mem.wf = true) (e : a = b) : (engState b).mem.wf = true := by
  rwa [← e]

theorem mresState_wf_of_eq {a b : MRes} (h : (mresState a).mem.wf = true) (e : a = b) : (mresState b).mem.wf = true := by
  rwa [← e]

theorem actWf_ite {c : Prop} [Decidable c] {a b : Act} (ha : ActWf a) (hb : ActWf b) : ActWf (if c then a else b) := by
  split <;> assumption

theorem EventsWf.append {es fs : List (State → Out State)} (he : EventsWf es) (hf : EventsWf fs) : EventsWf (es ++ fs) :=
  fun e h => (List.mem_append.mp h).elim (he e) (hf e)

theorem eventsWf_nil : EventsWf [] := fun _ h => absurd h List.not_mem_nil

theorem eventsWf_cons {e : State → Out State} {es : List (State → Out State)} (he : ∀ s : State, s.mem.wf = true → OutWf (e s))
    (hes : EventsWf es) : EventsWf (e :: es) :=
  List.forall_mem_cons.mpr ⟨he, hes⟩

theorem eventsWf_map {α : Type} {f : α → State → Out State} {l : List α}
    (hf : ∀ a (s : State), s.mem.wf = true → OutWf (f a s)) : EventsWf (l.map f) := by
  intro e he
  obtain ⟨a, _, rfl⟩ := List.mem_map.mp he
  exact hf a

theorem eventsWf_flatMap {α : Type} {f : α → List (State → Out State)} {l : List α} (hf : ∀ a, EventsWf (f a)) :
    EventsWf (l.flatMap f) := by
  intro e he
  obtain ⟨a, _, ha⟩ := List.mem_flatMap.mp he
  exact hf a e ha

theorem eventsWf_filterMap {α β : Type} {g : α → Option β} {f : α → β → State → Out State} {l : List α}
    (hf : ∀ a b (s : State), s.mem.wf = true → OutWf (f a b s)) : EventsWf (l.filterMap fun a => (g a).map (f a)) := by
  intro e he
  obtain ⟨a, _, ha⟩ := List.mem_filterMap.mp he
  obtain ⟨b, _, rfl⟩ := Option.map_eq_some_iff.mp ha
  exact hf a b

theorem eventsWf_ite {c : Prop} [Decidable c] {es fs : List (State → Out State)} (he : EventsWf es) (hf : EventsWf fs) :
    EventsWf (if c then es else fs) := by
  split <;> assumption

/-! ## The functions of the model -/

section
variable {s : State}

/-! ### The caches of dies and base dies (01 R11, R15, R16, 13 R220) -/

@[simp] theorem countRead_mem (s : State) (ctx holder fa : Nat) : (s.countRead ctx holder fa).mem = s.mem := by
  unfold State.countRead
  simp

@[simp] theorem countWrite_mem (s : State) (place : Option Nat) (ctx fa cls : Nat) :
    (s.countWrite place ctx fa cls).mem = s.mem := by
  unfold State.countWrite
  (repeat' split) <;> simp

@[simp] theorem writeBackAll_mem (s : State) (p : TagLine → Bool) : (s.writeBackAll p).mem = s.mem := by
  unfold State.writeBackAll
  simp

/-! ### Parts of the group whose turn it is -/

@[simp] theorem modCur_mem (s : State) (f : Group → Group) : (s.modCur f).mem = s.mem := by rfl

/-! ### Contexts and records -/

@[simp] theorem modRec_mem (s : State) (n : Nat) (f : LRec → LRec) : (s.modRec n f).mem = s.mem := by rfl

@[simp] theorem modGroup_mem (s : State) (uid : Nat) (f : Group → Group) : (s.modGroup uid f).mem = s.mem := by
  unfold State.modGroup
  simp

@[simp] theorem mapGroups_mem (s : State) (f : Group → Group) : (s.mapGroups f).mem = s.mem := by rfl
@[simp] theorem fresh_mem (s : State) : s.fresh.2.mem = s.mem := by rfl

/-! ### Registers read (05 R92) -/

@[simp] theorem setLink_mem (s : State) (l : Link) : (s.setLink l).mem = s.mem := by rfl
@[simp] theorem setPortTx_mem (s : State) (t : PortTx) : (s.setPortTx t).mem = s.mem := by rfl

@[simp] theorem drainTx_mem (s : State) (port chan n : Nat) : (s.drainTx port chan n).mem = s.mem := by
  induction n generalizing s with
  | zero => rfl
  | succ n ih =>
    rw [State.drainTx]
    split
    · rfl
    · split
      · rfl
      · rw [ih, setLink_mem, setPortTx_mem]

@[simp] theorem drainPort_mem (s : State) (port : Nat) : (s.drainPort port).mem = s.mem := by
  unfold State.drainPort
  simp

@[simp] theorem sendPacket_mem (s : State) (port chan : Nat) : (s.sendPacket port chan).mem = s.mem := by
  unfold State.sendPacket
  simp

@[simp] theorem sendTo_mem (s : State) (router fa holder chan : Nat) : (s.sendTo router fa holder chan).mem = s.mem := by
  unfold State.sendTo
  (repeat' split) <;> simp

/-! ### Copies of a line (13 R222, R223, 15 R256) -/

@[simp] theorem dropFrom_mem (s : State) (const : Bool) (core line : Nat) : (s.dropFrom const core line).mem = s.mem := by rfl
@[simp] theorem dropL1_mem (s : State) (core line : Nat) : (s.dropL1 core line).mem = s.mem := by rfl

@[simp] theorem dropL2_mem (s : State) (place line : Nat) : (s.dropL2 place line).mem = s.mem := by
  unfold State.dropL2
  (repeat' split) <;> simp

@[simp] theorem dropOne_mem (s : State) (line c : Nat) : (s.dropOne line c).mem = s.mem := by
  unfold State.dropOne
  simp

@[simp] theorem voidLine_mem (s : State) (prim line : Nat) : (s.voidLine prim line).mem = s.mem := by
  unfold State.voidLine
  simp

@[simp] theorem evictDir_mem (s : State) (slice line : Nat) : (s.evictDir slice line).mem = s.mem := by
  unfold State.evictDir
  simp

@[simp] theorem evictDie_mem (s : State) (die line : Nat) : (s.evictDie die line).mem = s.mem := by
  unfold State.evictDie
  simp

/-! ### Writing at a primary (10 R164, 13 R220, R222) -/

@[simp] theorem sendEchoes_mem (s : State) (id prim addr : Nat) (bs : List Byte) (tree : Nat) (own : Bool) :
    (s.sendEchoes id prim addr bs tree own).1.mem = s.mem := by
  unfold State.sendEchoes
  simp

@[simp] theorem applyBytes_wf {id prim addr : Nat} {bs : List Byte} {mc : Option (Nat × Nat)} {vdid ctx cls : Nat}
    {place : Option Nat} (hs : s.mem.wf = true) :
    (s.applyBytes id prim addr bs mc vdid ctx cls place).1.mem.wf = true := by
  unfold State.applyBytes
  dsimp only
  split <;> simp [putN_wf _ _ hs]

@[simp] theorem modWrite_mem (s : State) (id : Nat) (f : WriteReq → WriteReq) : (s.modWrite id f).mem = s.mem := by rfl

@[simp] theorem routeTo_mem (s : State) (w : WriteReq) : (s.routeTo w).mem = s.mem := by
  unfold State.routeTo
  simp

@[simp] theorem sendWrite_mem (s : State) (w : WriteReq) : (s.sendWrite w).mem = s.mem := by
  unfold State.sendWrite
  simp

@[simp] theorem failWrite_mem (s : State) (n cause : Nat) : (s.failWrite n cause).mem = s.mem := by rfl

@[simp] theorem poisonBad_mem (s : State) (fa : Nat) : (s.poisonBad fa).mem = s.mem := by
  unfold State.poisonBad
  simp

@[simp] theorem readOld_mem (s : State) (w : WriteReq) : (s.readOld w).mem = s.mem := by
  unfold State.readOld
  (repeat' split) <;> simp

@[simp] theorem makeReadable_wf {w : WriteReq} (hs : s.mem.wf = true) : (s.makeReadable w).mem.wf = true := by
  unfold State.makeReadable
  dsimp only
  (repeat' split) <;> simp [hs]

/-! ### Echoes at their holders (10 R164, R172) -/

@[simp] theorem modHolder_mem (s : State) (pre : Prefix) (holder : Nat) (f : HolderSt → HolderSt) :
    (s.modHolder pre holder f).mem = s.mem := by rfl

@[simp] theorem mapHeld_mem (s : State) (holder : Nat) (f : HolderSt → HolderSt) (addr : Nat) :
    (s.mapHeld holder f addr).mem = s.mem := by rfl

@[simp] theorem copyBytes_wf {holder addr : Nat} {bs : List Byte} {stamp : Nat} (hs : s.mem.wf = true) :
    (s.copyBytes holder addr bs stamp).mem.wf = true := by
  unfold State.copyBytes
  exact dramWrite_wf _ _ _ hs

@[simp] theorem dropLeased_mem (s : State) (line : Nat) : (s.dropLeased line).mem = s.mem := by
  unfold State.dropLeased
  simp

@[simp] theorem takeEcho_wf {e : Echo} (hs : s.mem.wf = true) : (s.takeEcho e).mem.wf = true := by
  unfold State.takeEcho
  dsimp only
  (repeat' split) <;> simp [hs]

/-! ### The package's own units at a line -/

@[simp] theorem landWrite_wf {w : WriteReq} (hs : s.mem.wf = true) : (s.landWrite w).mem.wf = true := by
  unfold State.landWrite
  simp [hs]

@[simp] theorem settleLine_wf {holder fa : Nat} (hs : s.mem.wf = true) : (s.settleLine holder fa).mem.wf = true := by
  unfold State.settleLine
  dsimp only
  split
  · exact hs
  · refine foldl_wf (fun s w hs => landWrite_wf hs) ?_
    split
    · exact foldl_wf (fun s e hs => takeEcho_wf hs) hs
    · exact hs

@[simp] theorem arrive_wf {world a n : Nat} (hs : s.mem.wf = true) : (s.arrive world a n).mem.wf = true := by
  unfold State.arrive
  refine foldl_wf (fun s i hs => ?_) hs
  dsimp only
  split
  · exact hs
  · split <;> simp [hs]

@[simp] theorem unitApply_wf (hs : s.mem.wf = true) {origin : Origin} {world vdid prim addr : Nat} {bs : List Byte}
    {act : Nat → State → State × List (Nat × Option Nat)} (ha : ∀ n (s : State), s.mem.wf = true → (act n s).1.mem.wf = true) :
    (s.unitApply origin world vdid prim addr bs act).mem.wf = true := by
  unfold State.unitApply
  dsimp only
  split
  · exact ha _ _ (by simp [hs])
  · exact ha _ _ (by simp [hs])

@[simp] theorem unitWrite_wf {origin : Origin} {world vdid prim addr : Nat} {bs : List Byte} (hs : s.mem.wf = true) :
    (s.unitWrite origin world vdid prim addr bs).mem.wf = true :=
  unitApply_wf hs fun _ _ h => applyBytes_wf h

@[simp] theorem engineWrite_wf {world a : Nat} {bs : List Byte} (hs : s.mem.wf = true) :
    (s.engineWrite world a bs).mem.wf = true := by
  unfold State.engineWrite
  dsimp only
  (repeat' split) <;> simp [hs]

@[simp] theorem errorRecord_wf {e : ErrInfo} (hs : s.mem.wf = true) : (s.errorRecord e).mem.wf = true := by
  unfold State.errorRecord
  dsimp only
  (repeat' split) <;> simp [hs]

@[simp] theorem ctxError_wf {ctx cause cls core : Nat} {detail : List DWord} (hs : s.mem.wf = true) :
    (s.ctxError ctx cause cls core detail).mem.wf = true := by
  unfold State.ctxError
  split <;> simp [hs]

@[simp] theorem freeRegion_mem (s : State) (core launch : Nat) : (s.freeRegion core launch).mem = s.mem := by
  unfold State.freeRegion
  simp

@[simp] theorem leaveSeat_mem (s : State) (p : Place) : (s.leaveSeat p).mem = s.mem := by
  unfold State.leaveSeat
  simp

@[simp] theorem resetAs_wf {ctx cause core : Nat} {detail : List DWord} (hs : s.mem.wf = true) :
    (s.resetAs ctx cause core detail).mem.wf = true := by
  unfold State.resetAs
  simp [hs]

@[simp] theorem resetContext_wf {ctx cause : Nat} (hs : s.mem.wf = true) : (s.resetContext ctx cause).mem.wf = true := by
  unfold State.resetContext
  simp [hs]

@[simp] theorem doubleTrap_wf {e : TrapEntry} (hs : s.mem.wf = true) : (s.doubleTrap e).mem.wf = true := by
  unfold State.doubleTrap
  simp [hs]

/-! ### Trap records (19 R329) -/

@[simp] theorem deliver_wf (hs : s.mem.wf = true) : s.deliver.mem.wf = true := by
  unfold State.deliver
  split <;> simp [hs]

@[simp] theorem refund_mem (s : State) (i : Fin 4) : (s.refund i).mem = s.mem := by
  unfold State.refund
  simp

@[simp] theorem rewind_mem (s : State) : s.rewind.mem = s.mem := by
  unfold State.rewind
  simp

@[simp] theorem takeTraps_wf {es : List TrapEntry} (hs : s.mem.wf = true) : (s.takeTraps es).mem.wf = true := by
  unfold State.takeTraps
  split <;> simp [hs]

@[simp] theorem trapExact_wf {cause addr info : Nat} (hs : s.mem.wf = true) : (s.trapExact cause addr info).mem.wf = true := by
  unfold State.trapExact
  simp [hs]

@[simp] theorem trapReturn_wf (hs : s.mem.wf = true) : s.trapReturn.mem.wf = true := by
  unfold State.trapReturn
  simp [hs]

/-! ### Deferred causes (10 R171, 11 R197, 14 R246) -/

@[simp] theorem takeDeferred_mem (s : State) (p : OpKind → Bool) (before : Nat) :
    (s.takeDeferred p before).2.mem = s.mem := by rfl

/-! ### Issue (04 R77-R81) -/

@[simp] theorem heldAt_mem (s orig : State) (i : Instr) (w : Wait) (used : BitVec 12) :
    (s.heldAt orig i w used).mem = s.mem := by rfl

@[simp] theorem countIssue_mem (s : State) (i : Instr) (orig : State) : (s.countIssue i orig).mem = s.mem := by
  unfold State.countIssue
  simp

@[simp] theorem finish_mem (s : State) (i : Instr) (orig : State) : (s.finish i orig).mem = s.mem := by
  unfold State.finish
  simp

@[simp] theorem parkAt_mem (s : State) (p : BitVec 48) (left : Word) : (s.parkAt p left).mem = s.mem := by rfl
@[simp] theorem keepFlags_mem (s orig : State) : (s.keepFlags orig).mem = s.mem := by rfl

@[simp] theorem issueState_wf {i : Instr} (hs : s.mem.wf = true) {body : State → Act}
    (hb : ∀ s : State, s.mem.wf = true → ActWf (body s)) :
    (issueState i s body).mem.wf = true := by
  have hb := hb ((s.useFlags (s.hints.flg ||| waitMask i)).anchor.setPc (s.pc + 4)) (by simp [hs])
  unfold issueState
  dsimp only
  split
  · exact trapExact_wf hs
  · exact hs
  · split
    · exact trapExact_wf hs
    · split
      · exact trapExact_wf hs
      · split
        · exact trapExact_wf hs
        · split
          · next t ht => simpa using hb.of_eq ht
          · next t w ht => simpa using hb.of_eq ht
          · next t w ht =>
            have ht : t.mem.wf = true := hb.of_eq ht
            split <;> simpa using ht
          · exact hs
          · exact hs
          · exact trapExact_wf hs
          · next f a n hf => exact trapExact_wf (hb.of_eq hf s hs)
          · next t left ht =>
            have ht : t.mem.wf = true := hb.of_eq ht
            simp [ht]
          · next t es ht => 
            have ht : t.mem.wf = true := hb.of_eq ht
            exact takeTraps_wf (wf_of_mem_eq (keepFlags_mem t s) ht)
          · next t ht => exact hb.of_eq ht

@[simp] theorem raiseEntries_wf (hs : s.mem.wf = true) {es : List TrapEntry} {k : State → Act}
    (hk : ∀ s : State, s.mem.wf = true → ActWf (k s)) :
    ActWf (raiseEntries es s k) := by
  unfold raiseEntries
  split
  · exact hk s hs
  · next e es =>
    split
    · exact hk _ (takeTraps_wf hs)
    · split
      · exact hs
      · next mark a n he => exact (hk s hs).of_eq he s hs
      · exact hs

@[simp] theorem withDeferred_wf (hs : s.mem.wf = true) {p : OpKind → Bool} {k : State → Act}
    (hk : ∀ s : State, s.mem.wf = true → ActWf (k s)) :
    ActWf (withDeferred p s k) := by
  unfold withDeferred
  split
  · exact hk s hs
  · next t ht => exact raiseEntries_wf (wf_of_snd ht (wf_of_mem_eq (takeDeferred_mem s p s.since) hs)) hk

@[simp] theorem issue_wf {i : Instr} (hs : s.mem.wf = true) {body : State → Act}
    (hb : ∀ s : State, s.mem.wf = true → ActWf (body s)) :
    OutWf (issue i s body) := by
  rw [issue, outWf_next]
  exact issueState_wf hs hb

/-! ### Multi-turn instructions (02 R41, 06 R107) -/

@[simp] theorem writeResult_mem (s : State) (m : MultiTurn) : (s.writeResult m).mem = s.mem := by
  unfold State.writeResult
  dsimp only
  rw [foldl_mem fun s w => State.setV_mem s _ _ _, foldl_mem fun s w => State.setSreg_mem s _ _]

@[simp] theorem completeResult_mem (s : State) (m : MultiTurn) : (s.completeResult m).mem = s.mem := by
  unfold State.completeResult
  simp

@[simp] theorem vecF_wf {F : Rnd → Word → Word → Word → Word × FpFlags} {d a b : BitVec 7} {bs : BitVec 1}
    (hs : s.mem.wf = true) :
    ActWf (vecF F d a b bs s) := by
  unfold vecF
  simp [hs]

@[simp] theorem vecSr_wf {F : Rnd → Word → Word → Word → Word → Word × FpFlags × Word} {d a b : BitVec 7} {bs : BitVec 1}
    (hs : s.mem.wf = true) :
    ActWf (vecSr F d a b bs s) := by
  unfold vecSr
  simp [hs]

@[simp] theorem setLanes_mem (s : State) (wide : Bool) (n : Nat) (m : Word) (f : Lane → Nat) :
    (s.setLanes wide n m f).mem = s.mem := by
  unfold State.setLanes
  simp

@[simp] theorem vecCvt_wf {t : BitVec 4} {d a b : BitVec 7} (hs : s.mem.wf = true) : ActWf (vecCvt t d a b s) := by
  unfold vecCvt
  split <;> simp [hs]

@[simp] theorem vecPack_wf {f : Fmt} {d a b : BitVec 7} {bs : BitVec 1} (hs : s.mem.wf = true) :
    ActWf (vecPack f d a b bs s) := by
  unfold vecPack
  simp [hs]

@[simp] theorem vecPackIo4_wf {d a b : BitVec 7} {bs : BitVec 1} (hs : s.mem.wf = true) : ActWf (vecPackIo4 d a b bs s) := by
  unfold vecPackIo4
  simp [hs]

@[simp] theorem vecUnpack_wf {f : Fmt} {d a b : BitVec 7} {bs : BitVec 1} (hs : s.mem.wf = true) :
    ActWf (vecUnpack f d a b bs s) := by
  unfold vecUnpack
  exact wf_of_mem_eq (State.raise_mem _ _) (wf_of_mem_eq (foldl_mem (fun _ _ => State.setV_mem _ _ _ _) _ _) hs)

@[simp] theorem vecUnpackIo4_wf {d a b : BitVec 7} {bs : BitVec 1} (hs : s.mem.wf = true) : ActWf (vecUnpackIo4 d a b bs s) := by
  unfold vecUnpackIo4
  exact wf_of_mem_eq (State.raise_mem _ _) (wf_of_mem_eq (foldl_mem (fun _ _ => State.setV_mem _ _ _ _) _ _) hs)

@[simp] theorem vecLater_wf {lat : Nat} {F : Lane → Word × FpFlags} {f : BitVec 4} {d : BitVec 7} (hs : s.mem.wf = true) :
    ActWf (vecLater lat F f d s) := by
  unfold vecLater
  simp [hs]

@[simp] theorem vecFunc_wf {op : Func} {f : BitVec 4} {d a : BitVec 7} (hs : s.mem.wf = true) : ActWf (vecFunc op f d a s) := by
  unfold vecFunc
  simp [hs]

@[simp] theorem vecDot_wf {fm : Fmt} {n : Nat} {f : BitVec 4} {d a b : BitVec 7} (hs : s.mem.wf = true) :
    ActWf (vecDot fm n f d a b s) := by
  unfold vecDot
  simp [hs]

@[simp] theorem vecScan_wf {excl : Bool} {f : BitVec 4} {d a o : BitVec 7} (hs : s.mem.wf = true) :
    ActWf (vecScan excl f d a o s) := by
  unfold vecScan
  split <;> simp [hs]

@[simp] theorem vecRed_wf {f : BitVec 4} {d a o : BitVec 7} (hs : s.mem.wf = true) : ActWf (vecRed f d a o s) := by
  unfold vecRed
  split <;> simp [hs]

@[simp] theorem hintWord_wf {legal : Bool} {set : Bundle → Bundle} (hs : s.mem.wf = true) : OutWf (hintWord legal set s) := by
  unfold hintWord
  dsimp only
  split <;> simp [hs]

@[simp] theorem scalarRR_wf {F : IntF} {zx : Bool} {d a b : BitVec 7} {w : BitVec 1} (hs : s.mem.wf = true) :
    ActWf (scalarRR F zx d a b w s) := by
  unfold scalarRR
  split <;> simp [hs]

@[simp] theorem vectorRR_wf {F : IntF} {d a b : BitVec 7} {bs : BitVec 1} (hs : s.mem.wf = true) :
    ActWf (vectorRR F d a b bs s) := by
  unfold vectorRR
  simp [hs]

@[simp] theorem scalarSat_wf {F : (w : Nat) → BitVec w → BitVec w → BitVec w × Bool} {zx : Bool} {d a b : BitVec 7}
    {w : BitVec 1} (hs : s.mem.wf = true) :
    ActWf (scalarSat F zx d a b w s) := by
  unfold scalarSat
  split <;> simp [hs]

@[simp] theorem vectorSat_wf {F : (w : Nat) → BitVec w → BitVec w → BitVec w × Bool} {d a b : BitVec 7} {bs : BitVec 1}
    (hs : s.mem.wf = true) :
    ActWf (vectorSat F d a b bs s) := by
  unfold vectorSat
  simp [hs]

@[simp] theorem scalarPair_wf {F : (w : Nat) → BitVec w → BitVec w → Bool → BitVec w × Bool} {d a b : BitVec 7} {w : BitVec 1}
    (hs : s.mem.wf = true) :
    ActWf (scalarPair F d a b w s) := by
  unfold scalarPair
  split <;> simp [hs]

@[simp] theorem scalarRI_wf {F : DWord → DWord → DWord} {d a : BitVec 7} {i : BitVec 9} (hs : s.mem.wf = true) :
    ActWf (scalarRI F d a i s) := by
  unfold scalarRI
  simp [hs]

@[simp] theorem vectorRI_wf {F : Word → Word → Word} {d a : BitVec 7} {i : BitVec 9} (hs : s.mem.wf = true) :
    ActWf (vectorRI F d a i s) := by
  unfold vectorRI
  simp [hs]

@[simp] theorem scalarDiv_wf {F : DWord → DWord → DWord} {f : BitVec 4} {d a b : BitVec 7} (hs : s.mem.wf = true) :
    ActWf (scalarDiv F f d a b s) := by
  unfold scalarDiv
  simp [hs]

@[simp] theorem vectorDiv_wf {F : Word → Word → Word} {f : BitVec 4} {d a b : BitVec 7} (hs : s.mem.wf = true) :
    ActWf (vectorDiv F f d a b s) := by
  unfold vectorDiv
  simp [hs]

@[simp] theorem doFence_wf {acq rel : Bool} {scope : Nat} (hs : s.mem.wf = true) : ActWf (doFence acq rel scope s) := by
  unfold doFence
  dsimp only
  split
  · exact withDeferred_wf hs fun _ h => h
  · exact hs

@[simp] theorem release_mem (s : State) (i : Fin 4) : (s.release i).mem = s.mem := by rfl

@[simp] theorem answer_mem (s : State) (uid : Nat) (i : Fin 4) (d : Nat) (v : DWord) : (s.answer uid i d v).mem = s.mem := by
  unfold State.answer
  simp

/-! ### Translating (09 R147, R150, R151) -/

@[simp] theorem walkArrive_wf {die world : Nat} {ls : List Nat} (hs : s.mem.wf = true) :
    (s.walkArrive die world ls).mem.wf = true := by
  unfold State.walkArrive
  refine foldl_wf (fun s fa hs => ?_) hs
  dsimp only
  split
  · exact hs
  · split <;> simp [hs]

@[simp] theorem walkedBy_wf (hs : s.mem.wf = true) {look : State → XRes × List Nat} {die world n : Nat} :
    (walkedBy look die world n s).2.mem.wf = true := by
  induction n generalizing s with
  | zero => exact hs
  | succ n ih =>
    unfold walkedBy
    dsimp only
    split
    · exact ih (walkArrive_wf hs)
    · exact walkArrive_wf hs

@[simp] theorem walked_wf {c : Ctx} {die gva : Nat} {acc : Option Access} {pl : Nat} (hs : s.mem.wf = true) :
    (s.walked c die gva acc pl).2.mem.wf = true := by
  unfold State.walked
  simp [hs]

@[simp] theorem noteMapped_mem (s : State) (e : TrEntry) : (s.noteMapped e).mem = s.mem := by
  unfold State.noteMapped
  simp

@[simp] theorem cacheFill_mem (s : State) (slice : Nat) (c : Ctx) (gva : Nat) (x : Xlate) :
    (s.cacheFill slice c gva x).mem = s.mem := by
  unfold State.cacheFill
  dsimp only
  (repeat' split) <;> simp

@[simp] theorem footprint_wf {c : Ctx} {fpi : Option Nat} {off : Nat} {fresh : Bool} (hs : s.mem.wf = true) :
    (s.footprint c fpi off fresh).mem.wf = true := by
  unfold State.footprint
  dsimp only
  (repeat' split) <;> simp [hs]

@[simp] theorem translate_wf {c : Ctx} {core gva : Nat} {acc : Access} {pl : Nat} (hs : s.mem.wf = true) :
    (s.translate c core gva acc pl).2.mem.wf = true := by
  unfold State.translate
  dsimp only
  (repeat' split) <;> simp [hs]

/-! ### Fault records (19 R330) -/

@[simp] theorem newFault_mem (s : State) (c : Ctx) (uid : Nat) (counted : Bool) (f : XFault) (gva : Nat) (acc : Access)
    (lanes : Nat) :
    (s.newFault c uid counted f gva acc lanes).mem = s.mem := by rfl

@[simp] theorem offerFault_wf {id : Nat} (hs : s.mem.wf = true) : (s.offerFault id).mem.wf = true := by
  unfold State.offerFault
  dsimp only
  (repeat' split) <;> simp [hs]

@[simp] theorem parkFault_wf {c : Ctx} {m : Miss} {gva : Nat} {acc : Access} {lanes : Nat} (hs : s.mem.wf = true) :
    (s.parkFault c m gva acc lanes).mem.wf = true := by
  unfold State.parkFault
  split <;> simp [hs]

@[simp] theorem parkFaults_wf {c : Ctx} {acc : Access} {ms : List (Nat × Miss × Nat)} (hs : s.mem.wf = true) :
    (s.parkFaults c acc ms).mem.wf = true := by
  unfold State.parkFaults
  exact foldl_wf (fun s m hs => parkFault_wf hs) hs

@[simp] theorem execTranslationWalk_wf {ctx : Nat} {gva : BitVec 64} {acc : Access} {slice : Nat} (hs : s.mem.wf = true) :
    OutWf (execTranslationWalk ctx gva acc slice s) := by
  unfold execTranslationWalk
  dsimp only
  (repeat' split) <;> simp [hs]

@[simp] theorem execFaultRecordOffer_wf {n : Nat} (hs : s.mem.wf = true) : OutWf (execFaultRecordOffer n s) := by
  unfold execFaultRecordOffer
  simp [hs]

/-! ### Serialisation points and classes -/

@[simp] theorem setPage_mem (s : State) (fa : Nat) (c : PClass) : (s.setPage fa c).mem = s.mem := by
  unfold State.setPage
  dsimp only
  split <;> simp

/-! ### Completion of a group's operations (14 R232) -/

@[simp] theorem onGroup_mem (s : State) (uid : Nat) (f : Group → Group) : (s.onGroup uid f).mem = s.mem := by
  unfold State.onGroup
  simp

@[simp] theorem modCmd_mem (s : State) (id : Nat) (f : MCmd → MCmd) : (s.modCmd id f).mem = s.mem := by rfl
@[simp] theorem sink_mem (s : State) (uid n : Nat) : (s.sink uid n).mem = s.mem := by rfl

@[simp] theorem settle_mem (s : State) (uid : Nat) (cls : Cls) : (s.settle uid cls).mem = s.mem := by
  unfold State.settle
  (repeat' split) <;> simp

/-! ### Records (R179-R182) -/

@[simp] theorem markFar_mem (s : State) (f : FarOwned) (fa : Nat) : (s.markFar f fa).mem = s.mem := by rfl
@[simp] theorem modObj_mem (s : State) (idx : Nat) (f : ObjEntry → ObjEntry) : (s.modObj idx f).mem = s.mem := by rfl
@[simp] theorem markWrote_mem (s : State) (idx fa : Nat) : (s.markWrote idx fa).mem = s.mem := by rfl

/-! ### Home values and rounds (R188-R190, R193) -/

@[simp] theorem homeFold_wf {o : ObjEntry} {fa : Nat} {val : BitVec 64} (hs : s.mem.wf = true) :
    (s.homeFold o fa val).mem.wf = true := by
  unfold State.homeFold
  dsimp only
  (repeat' split) <;> simp [hs]

@[simp] theorem collect_wf {o : ObjEntry} {p : Partial → Bool} (hs : s.mem.wf = true) : (s.collect o p).mem.wf = true := by
  unfold State.collect
  exact foldl_wf (fun s x hs => homeFold_wf hs) hs

@[simp] theorem endRound_wf {o : ObjEntry} {vals : List (Nat × BitVec 64)} (hs : s.mem.wf = true) :
    (s.endRound o vals).mem.wf = true := by
  unfold State.endRound
  dsimp only
  rw [modObj_mem]
  exact foldl_wf (fun s v hs => homeFold_wf hs) hs

@[simp] theorem childArrive_wf {obj n : Nat} {m : ChildMsg} (hs : s.mem.wf = true) : (s.childArrive obj n m).mem.wf = true := by
  induction n generalizing s m with
  | zero => exact hs
  | succ n ih =>
    unfold State.childArrive
    dsimp only
    (repeat' split) <;> simp [hs, ih]

@[simp] theorem fireNode_wf {obj level index : Nat} (hs : s.mem.wf = true) : (s.fireNode obj level index).mem.wf = true := by
  unfold State.fireNode
  split <;> simp [hs]

@[simp] theorem closeLeaf_wf {o : ObjEntry} {leaf : Nat} (hs : s.mem.wf = true) : (s.closeLeaf o leaf).2.mem.wf = true := by
  unfold State.closeLeaf
  (repeat' split) <;> simp [hs]

@[simp] theorem forceRound_wf {obj : Nat} (hs : s.mem.wf = true) : (s.forceRound obj).mem.wf = true := by
  unfold State.forceRound
  dsimp only
  rw [modObj_mem]
  have h : ∀ k (s : State), s.mem.wf = true → (((s.nodes.filter (fun n => n.obj == obj && n.level == k && !n.fired)).foldl
      (fun (s : State) (n : MNode) => s.fireNode obj k n.index) s)).mem.wf = true :=
    fun k s hs => foldl_wf (fun s n hs => fireNode_wf hs) hs
  have h7 := foldl_wf (fun s k hs => h (k + 1) s hs) (l := List.range 7) hs
  split
  · split
    · exact endRound_wf h7
    · exact h7
  · exact h7

/-! ### Agents and accesses (R183-R185, R196) -/

@[simp] theorem markOwn_mem (s : State) (fa : Nat) : (s.markOwn fa).mem = s.mem := by
  unfold State.markOwn
  (repeat' split) <;> simp

@[simp] theorem sendSnoop_mem (s : State) (o : ObjEntry) (agent : Nat) (held : List HeldReq) :
    (s.sendSnoop o agent held).mem = s.mem := by
  unfold State.sendSnoop
  (repeat' split) <;> simp

@[simp] theorem dropObj_mem (s : State) (o : ObjEntry) (core : Nat) : (s.dropObj o core).mem = s.mem := by
  unfold State.dropObj
  simp

@[simp] theorem uncache_mem (s : State) (o : ObjEntry) (p : Nat → Bool) : (s.uncache o p).mem = s.mem := by
  unfold State.uncache
  simp

@[simp] theorem recallLine_mem (s : State) (prim line : Nat) : (s.recallLine prim line).mem = s.mem := by
  unfold State.recallLine
  simp

@[simp] theorem recall_mem (s : State) (o : ObjEntry) : (s.recall o).mem = s.mem := by
  unfold State.recall
  simp

@[simp] theorem writtenHome_wf {o : ObjEntry} (hs : s.mem.wf = true) : (s.writtenHome o).mem.wf = true := by
  unfold State.writtenHome
  dsimp only
  rw [modObj_mem]
  refine foldl_wf (fun s line hs => ?_) (foldl_wf (fun s w hs => landWrite_wf hs) hs)
  split
  · exact hs
  · refine unitWrite_wf ?_
    rw [foldl_mem evictTag_mem]
    exact settleLine_wf hs

@[simp] theorem askAway_mem (s : State) (o : ObjEntry) (held : List HeldReq) : (s.askAway o held).mem = s.mem := by
  unfold State.askAway
  (repeat' split) <;> simp

@[simp] theorem enterUpdate_wf {obj tag : Nat} (hs : s.mem.wf = true) : (s.enterUpdate obj tag).mem.wf = true := by
  unfold State.enterUpdate
  (repeat' split) <;> simp [hs]

@[simp] theorem objAccess_wf {o : ObjEntry} {who : Option HeldReq} {agent core fa : Nat} {write : Bool} (hs : s.mem.wf = true) :
    ObjGateWf (s.objAccess o who agent core fa write) := by
  unfold State.objAccess
  dsimp only
  (repeat' split) <;> simp [hs]

@[simp] theorem foldPartial_wf {obj core who uid tag gva fa : Nat} {val : BitVec 64} (hs : s.mem.wf = true) :
    (s.foldPartial obj core who uid tag gva fa val).1.mem.wf = true := by
  unfold State.foldPartial
  dsimp only
  (repeat' split) <;> simp [hs]

/-! ### Store buffers (13 R219) -/

@[simp] theorem drainHead_mem (s : State) (core : Nat) : (s.drainHead core).mem = s.mem := by
  unfold State.drainHead
  (repeat' split) <;> simp

@[simp] theorem drainPage_mem (s : State) (core page n : Nat) : (s.drainPage core page n).mem = s.mem := by
  induction n generalizing s with
  | zero => rfl
  | succ n ih =>
    rw [State.drainPage]
    split
    · rw [ih, drainHead_mem]
    · rfl

@[simp] theorem recallPage_mem (s : State) (pkg page : Nat) : (s.recallPage pkg page).mem = s.mem := by
  unfold State.recallPage
  simp

@[simp] theorem touchPageAs_wf {pkg core fa : Nat} (hs : s.mem.wf = true) : OptWf (s.touchPageAs pkg core fa) := by
  unfold State.touchPageAs
  dsimp only
  (repeat' split) <;> simp [hs]

@[simp] theorem touchPage_wf {fa core : Nat} (hs : s.mem.wf = true) : OptWf (s.touchPage fa core) := by
  unfold State.touchPage
  simp [hs]

/-! ### Partition descriptors (01 R22, R23) -/

@[simp] theorem writePart_mem (s : State) (i : Nat) (v : DWord) : (s.writePart i v).mem = s.mem := by rfl

/-! ### Registers with rules of their own -/

@[simp] theorem writeTq_mem (s : State) (vdid : Nat) (v : DWord) : (s.writeTq vdid v).mem = s.mem := by
  unfold State.writeTq
  simp

theorem setPkg_mem (s : State) (p : Pkg) : ({ s with pkg := p } : State).mem = s.mem := rfl

@[simp] theorem writeRteCost_mem (s : State) (v : DWord) : (s.writeRteCost v).mem = s.mem := by
  unfold State.writeRteCost
  exact setPkg_mem s _

@[simp] theorem writeCobjQ_mem (s : State) (vdid : Nat) (v : DWord) : (s.writeCobjQ vdid v).mem = s.mem := by
  unfold State.writeCobjQ
  simp

@[simp] theorem setWl_mem (s : State) (w : WorkList) : (s.setWl w).mem = s.mem := by rfl

@[simp] theorem writeWl_mem (s : State) (part n : Nat) (v : DWord) : (s.writeWl part n v).mem = s.mem := by
  unfold State.writeWl
  simp

@[simp] theorem setRing_mem (s : State) (n : Nat) (r : Ring) : (s.setRing n r).mem = s.mem := by rfl

@[simp] theorem writeRingBase_mem (s : State) (n : Nat) (v : DWord) : (s.writeRingBase n v).mem = s.mem := by
  unfold State.writeRingBase
  simp

@[simp] theorem writeRingCtl_mem (s : State) (n : Nat) (v : DWord) : (s.writeRingCtl n v).mem = s.mem := by
  unfold State.writeRingCtl
  simp

@[simp] theorem writeTierCfg_mem (s : State) (v : DWord) : (s.writeTierCfg v).mem = s.mem := by rfl

@[simp] theorem writeWdog_mem (s : State) (ctx : Nat) (v : DWord) : (s.writeWdog ctx v).mem = s.mem := by
  unfold State.writeWdog
  simp

@[simp] theorem writePcclr_mem (s : State) (ctx : Nat) (v : DWord) : (s.writePcclr ctx v).mem = s.mem := by rfl

@[simp] theorem writePwrCap_mem (s : State) (v : DWord) : (s.writePwrCap v).mem = s.mem := by
  unfold State.writePwrCap
  simp

@[simp] theorem beginPreempt_mem (s : State) (ctx : Nat) : (s.beginPreempt ctx).mem = s.mem := by rfl

@[simp] theorem trayRemove_mem (s : State) : s.trayRemove.mem = s.mem := by
  unfold State.trayRemove
  simp

@[simp] theorem trayCancel_mem (s : State) : s.trayCancel.mem = s.mem := by
  unfold State.trayCancel
  simp

@[simp] theorem writeTray_mem (s : State) (v : DWord) : (s.writeTray v).mem = s.mem := by
  unfold State.writeTray
  (repeat' split) <;> simp

@[simp] theorem writeCtxCfg_mem (s : State) (ctx : Nat) (v : DWord) : (s.writeCtxCfg ctx v).mem = s.mem := by rfl

/-! ### Fault records (19 R331) -/

@[simp] theorem modAnyGroup_mem (s : State) (uid : Nat) (f : Group → Group) : (s.modAnyGroup uid f).mem = s.mem := by
  unfold State.modAnyGroup
  simp

@[simp] theorem fqDone_mem (s : State) (queue2 : Bool) (ctx vdid : Nat) (v : DWord) :
    (s.fqDone queue2 ctx vdid v).mem = s.mem := by
  unfold State.fqDone
  dsimp only
  split <;> simp

/-! ### Writing (19 R350) -/

@[simp] theorem writeReg_mem (s : State) (n : Nat) (v : DWord) : (s.writeReg n v).mem = s.mem := by
  unfold State.writeReg
  simp

/-! ### Elements and their checks (R237) -/

@[simp] theorem checkElem_wf {c : Ctx} {acc : Access} {needs : Needs} {prim : Bool} {e : Elem} (hs : s.mem.wf = true) :
    (s.checkElem c acc needs prim e).2.mem.wf = true := by
  unfold State.checkElem
  dsimp only
  split
  · exact hs
  · split
    · next f t ht => exact wf_of_snd ht (translate_wf hs)
    · next i t ht => exact wf_of_snd ht (translate_wf hs)
    · next x t ht =>
      have ht := wf_of_snd ht (translate_wf hs)
      (repeat' split) <;> exact ht

@[simp] theorem checkAll_wf {c : Ctx} {acc : Access} {needs : Needs} {prim : Bool} {l : List Elem} (hs : s.mem.wf = true) :
    (s.checkAll c acc needs prim l).2.mem.wf = true := by
  induction l generalizing s with
  | nil => exact hs
  | cons e es ih => exact ih (checkElem_wf hs)

@[simp] theorem access_wf (hs : s.mem.wf = true) {acc : Access} {needs : Needs} {prim gate : Bool} {es : List Elem}
    {stall : State → Option (HeldOp → Wait)} {k : List (Elem × Nat) → HeldOp} {go : State → HeldOp → State}
    (hg : ∀ (s : State) o, s.mem.wf = true → (go s o).mem.wf = true) :
    ActWf (access s acc needs prim gate es stall k go) := by
  unfold access
  split
  · trivial
  · next c _ =>
    have ht := checkAll_wf (c := c) (acc := acc) (needs := needs) (prim := prim) (l := es) hs
    revert ht
    generalize s.checkAll c acc needs prim es = r
    obtain ⟨rs, t⟩ := r
    intro ht
    dsimp only
    split
    · split
      · exact fun s hs => wf_of_mem_eq (poisonBad_mem s _) hs
      · trivial
    · split
      · trivial
      · split
        · exact parkFaults_wf (ite_state_wf ht (hg _ _ ht))
        · split
          · exact ht
          · split
            · exact ht
            · exact ht
            · exact hg _ _ ht

@[simp] theorem ordered_wf (hs : s.mem.wf = true) {n : Nat} {k : State → Act} (hk : ∀ s : State, s.mem.wf = true → ActWf (k s)) :
    ActWf (ordered s n k) := by
  unfold ordered
  split
  · trivial
  · split
    · trivial
    · exact hk s hs

/-! ### Reading a line (R170, R217-R223) -/

@[simp] theorem passPoint_wf {w : Want} {holder : Nat} (hs : s.mem.wf = true) : ObjGateWf (s.passPoint w holder) := by
  unfold State.passPoint
  split
  · exact hs
  · split
    · exact hs
    · split
      · exact objAccess_wf hs
      · split
        · next t ht => exact touchPage_wf hs t ht
        · exact hs

@[simp] theorem giveLine_wf {w : Want} {holder : Nat} {prim : Bool} {lease : Option (Nat × Nat)} (hs : s.mem.wf = true) :
    FetchWf (s.giveLine w holder prim lease) := by
  unfold State.giveLine
  dsimp only
  split <;> simp [hs]

@[simp] theorem useLeased_mem (s : State) (w : Want) : (s.useLeased w).mem = s.mem := by
  unfold State.useLeased
  dsimp only
  split <;> simp

@[simp] theorem fetchLine_wf {w : Want} {gone : List Nat} (hs : s.mem.wf = true) : FetchWf (s.fetchLine w gone) := by
  unfold State.fetchLine
  dsimp only
  split
  · exact wf_of_mem_eq (useLeased_mem s w) hs
  · split
    · exact hs
    · split
      · trivial
      · trivial
      · split
        · exact hs
        · exact giveLine_wf hs
      · next p _ =>
        split
        · exact hs
        · split
          · exact hs
          · next t ht => exact (passPoint_wf hs).of_eq ht
          · next t ht =>
            have ht : t.mem.wf = true := (passPoint_wf hs).of_eq ht
            split
            · exact wf_of_mem_eq (poisonBad_mem t _) ht
            · exact giveLine_wf ht

/-! ### Reads of the package's own units (R411) -/

@[simp] theorem countUnit_mem (s : State) (w : Want) (h : Nat) : (s.countUnit w h).mem = s.mem := by
  unfold State.countUnit
  simp

@[simp] theorem readLine_wf {w : Want} (hs : s.mem.wf = true) : LineReadWf (s.readLine w) := by
  unfold State.readLine
  have give : ∀ (t : State) (h : Nat), t.mem.wf = true → ((t.countUnit w h).unitReadAs h w.fa w.ctx w.cls).mem.wf = true := fun t h ht =>
    wf_of_mem_eq (unitReadAs_mem _ h w.fa w.ctx w.cls) (wf_of_mem_eq (countUnit_mem t w h) ht)
  split
  · trivial
  · next h prim _ =>
    split
    · trivial
    · dsimp only
      split
      · exact give s h hs
      · split
        · trivial
        · next t ht => exact (passPoint_wf hs).of_eq ht
        · next t ht =>
          split
          · trivial
          · exact give t h ((passPoint_wf hs).of_eq ht)

@[simp] theorem readEach_wf {l : List (Want × Nat)} (hs : s.mem.wf = true) : LineReadWf (s.readEach l) := by
  induction l generalizing s with
  | nil => exact hs
  | cons p ws ih =>
    obtain ⟨w, z⟩ := p
    have hr := readLine_wf (w := w) hs
    rw [State.readEach]
    split
    · next t bs n ht =>
      have ht := ih (hr.of_eq ht)
      split
      · next u cs m hu =>
        have hu : u.mem.wf = true := ht.of_eq hu
        exact hu
      · exact ht
    · exact hr

/-! ### The L1 (R217, R218, R224) -/

@[simp] theorem limitL1_mem (s : State) (core gline : Nat) : (s.limitL1 core gline).mem = s.mem := by
  unfold State.limitL1
  dsimp only
  (repeat' split) <;> simp

@[simp] theorem fillL1_mem (s : State) (core : Nat) (c : Ctx) (gva fa cls : Nat) (const : Bool) (bs : List Byte) (stamp : Nat)
    (lease : Option (Nat × Nat)) (tag : Nat) :
    (s.fillL1 core c gva fa cls const bs stamp lease tag).mem = s.mem := by
  unfold State.fillL1
  simp

@[simp] theorem hitL1_mem (s : State) (l : L1Line) (cls : Nat) : (s.hitL1 l cls).mem = s.mem := by
  unfold State.hitL1
  simp

/-! ### Requests of a load -/

@[simp] theorem setReq_mem (s : State) (uid op : Nat) (r : LineReq) : (s.setReq uid op r).mem = s.mem := by
  unfold State.setReq
  simp

@[simp] theorem settleSend_mem (s : State) (uid : Nat) (cls : Cls) : (s.settleSend uid cls).mem = s.mem := by
  unfold State.settleSend
  simp

@[simp] theorem tryReq_wf {g : Group} {c : Ctx} {o : MemOp} {r : LineReq} (hs : s.mem.wf = true) :
    (s.tryReq g c o r).mem.wf = true := by
  unfold State.tryReq
  extract_lets uid core gva r' hit r'' w stale
  clear_value uid core gva r' hit r'' w stale
  split
  · simp [hs]
  · split
    · simp [hs]
    · split
      · exact hs
      · split
        · simp [hs]
        · split
          · simp [hs]
          · have hf := fetchLine_wf (w := w) (gone := r''.gone) hs
            split
            · next t bs stamp lease ht =>
              have ht : t.mem.wf = true := hf.of_eq ht
              dsimp only
              split <;> simp [ht]
            · simp [hs]
            · simp [hs]
            · next t ht => exact hf.of_eq ht
            · next t cause ht =>
              have ht : t.mem.wf = true := hf.of_eq ht
              simp [ht]

@[simp] theorem serveFirst_wf {g : Group} {c : Ctx} {o : MemOp} {l : List LineReq} (hs : s.mem.wf = true) :
    (s.serveFirst g c o l).mem.wf = true := by
  induction l with
  | nil => exact hs
  | cons r rs ih =>
    rw [State.serveFirst]
    split
    · exact ih
    · exact tryReq_wf hs

@[simp] theorem serveOp_wf {n : Nat} {again : Bool} (hs : s.mem.wf = true) : (s.serveOp n again).mem.wf = true := by
  unfold State.serveOp
  (repeat' split) <;> simp [hs]

@[simp] theorem readOutside_wf {pkg core world holder line floor sent : Nat} (hs : s.mem.wf = true) :
    (s.readOutside pkg core world holder line floor sent).mem.wf = true := by
  have answer : ∀ t : State, t.mem.wf = true → (t.sendTo (t.primRouter holder) (lineBase line) (sharerId pkg) chanAnswer).mem.wf = true :=
    fun t ht => wf_of_mem_eq (sendTo_mem t _ _ _ _) ht
  have read : ∀ t : State, t.mem.wf = true → (t.unitRead holder (lineBase line)).mem.wf = true :=
    fun t ht => wf_of_mem_eq (unitRead_mem t _ _) ht
  unfold State.readOutside
  dsimp only
  split
  · exact hs
  · split
    · exact answer s hs
    · split
      · split
        · exact hs
        · split
          · next o _ =>
            split
            · exact hs
            · split
              · exact answer s hs
              · next t ht => exact (objAccess_wf hs).of_eq ht
              · next t ht =>
                have ht : t.mem.wf = true := (objAccess_wf hs).of_eq ht
                split <;> exact answer _ (read t ht)
          · split
            · exact hs
            · next t ht => exact answer _ (read t (touchPageAs_wf hs t ht))
      · exact answer _ (ite_state_wf (read s hs) hs)
      · exact answer s hs

@[simp] theorem farPoison_mem (s : State) (n line : Nat) : (s.farPoison n line).mem = s.mem := by
  unfold State.farPoison
  (repeat' split) <;> simp

@[simp] theorem execReadRequest_wf {m : ReadMsg} (hs : s.mem.wf = true) : OutWf (execReadRequest m s) := by
  unfold execReadRequest
  split <;> simp [hs]

@[simp] theorem execLoadComplete_wf {n : Nat} (hs : s.mem.wf = true) : OutWf (execLoadComplete n s) := by
  unfold execLoadComplete
  split <;> simp [hs]

/-! ### Issue of loads and stores -/

@[simp] theorem pushEntry_mem (s : State) (op ret : Nat) (tree : Option (Nat × Nat)) (a : LaneAcc) (size : Nat) (k : WKind) :
    (s.pushEntry op ret tree a size k).mem = s.mem := by
  unfold State.pushEntry
  dsimp only
  split <;> simp

@[simp] theorem startStore_mem (s : State) (kind : OpKind) (dest : Dest) (ret : Nat) (acq : Option Nat)
    (tree : Option (Nat × Nat)) (ws : List (LaneAcc × Nat × WKind)) :
    (s.startStore kind dest ret acq tree ws).mem = s.mem := by
  unfold State.startStore
  simp

@[simp] theorem perform_mem (s : State) (x : HeldOp) : (s.perform x).mem = s.mem := by
  cases x with
  | load => exact Laws.Access.startLoad_mem ..
  | store => exact startStore_mem ..

/-! ### Draining and arrival -/

@[simp] theorem foldEntry_wf {e : SbEntry} (hs : s.mem.wf = true) : (s.foldEntry e).mem.wf = true := by
  unfold State.foldEntry
  dsimp only
  (repeat' split) <;> simp [hs]

@[simp] theorem execStoreBufferDrain_wf {core : Nat} (hs : s.mem.wf = true) : OutWf (execStoreBufferDrain core s) := by
  unfold execStoreBufferDrain
  (repeat' split) <;> simp [hs]

@[simp] theorem writePage_wf {w : WriteReq} (hs : s.mem.wf = true) : OptWf (s.writePage w) := by
  unfold State.writePage
  split <;> simp [hs]

@[simp] theorem beginWrite_mem (s : State) (n : Nat) (place : Option Nat) : (s.beginWrite n place).mem = s.mem := by rfl

@[simp] theorem atPoint_wf {w : WriteReq} (hs : s.mem.wf = true) : (s.atPoint w).mem.wf = true := by
  have ho := fun o => objAccess_wf (o := o) (who := some (.write w.id)) (agent := s.writer w) (core := w.core) (fa := w.addr) (write := true) hs
  unfold State.atPoint
  split
  · split
    · next t ht => simp [writePage_wf hs t ht]
    · exact hs
  · next o _ =>
    have ho := ho o
    split
    · simp [hs]
    · next t ht => rw [ht] at ho; exact ho
    · next t ht =>
      rw [ht] at ho
      have ht : t.mem.wf = true := ho
      split
      · split <;> simp [ht]
      · simp [ht]

@[simp] theorem arriveWrite_wf {n : Nat} (hs : s.mem.wf = true) : (s.arriveWrite n).mem.wf = true := by
  unfold State.arriveWrite
  dsimp only
  (repeat' split) <;> simp [hs]

@[simp] theorem outsideWrite_wf {pkg core world holder addr : Nat} {k : FarWrite} (hs : s.mem.wf = true) :
    (s.outsideWrite pkg core world holder addr k).mem.wf = true := by
  unfold State.outsideWrite
  simp [hs]

@[simp] theorem grant_wf {w : WriteReq} {lines : List (Nat × List Byte)} (hs : s.mem.wf = true) :
    (s.grant w lines).mem.wf = true := by
  unfold State.grant
  exact foldl_wf (fun s l hs => putN_wf _ _ (by rw [dropLeased_mem]; exact hs)) hs

@[simp] theorem execWriteApply_wf {m : WriteMsg} (hs : s.mem.wf = true) : OutWf (execWriteApply m s) := by
  unfold execWriteApply
  (repeat' split) <;> simp [hs]

@[simp] theorem execInvalidate_wf {n : Nat} (hs : s.mem.wf = true) : OutWf (execInvalidate n s) := by
  unfold execInvalidate
  (repeat' split) <;> simp [hs]

@[simp] theorem execWriteReadable_wf {n : Nat} (hs : s.mem.wf = true) : OutWf (execWriteReadable n s) := by
  unfold execWriteReadable
  split <;> simp [hs]

@[simp] theorem execApplyNotice_wf {n : Nat} (hs : s.mem.wf = true) : OutWf (execApplyNotice n s) := by
  unfold execApplyNotice
  simp [hs]

/-! ### Echoes and fills -/

@[simp] theorem execEchoReceive_wf {m : EchoMsg} (hs : s.mem.wf = true) : OutWf (execEchoReceive m s) := by
  unfold execEchoReceive
  (repeat' split) <;> simp [hs]

@[simp] theorem stampWct_mem (s : State) (n : Nat) : (s.stampWct n).mem = s.mem := by
  unfold State.stampWct
  (repeat' split) <;> simp

@[simp] theorem execEchoAckReceive_wf {n : Nat} (hs : s.mem.wf = true) : OutWf (execEchoAckReceive n s) := by
  unfold execEchoAckReceive
  dsimp only
  (repeat' split) <;> simp [hs]

@[simp] theorem drainHolder_mem (s : State) (pre : Prefix) (holder : Nat) : (s.drainHolder pre holder).mem = s.mem := by rfl

@[simp] theorem fillAt_wf {dst addr : Nat} {data : List Byte} {stamp : Nat} (hs : s.mem.wf = true) :
    (s.fillAt dst addr data stamp).mem.wf = true := by
  unfold State.fillAt
  split
  · split
    · exact foldl_wf (fun s p hs => copyBytes_wf hs) hs
    · exact hs
  · exact hs

@[simp] theorem execFillWrite_wf {m : FillMsg} (hs : s.mem.wf = true) : OutWf (execFillWrite m s) := by
  unfold execFillWrite
  (repeat' split) <;> simp [hs]

@[simp] theorem execLeaseEnd_wf {pre : Prefix} {holder : Nat} (hs : s.mem.wf = true) : OutWf (execLeaseEnd pre holder s) := by
  unfold execLeaseEnd
  simp [hs]

@[simp] theorem execLeaseRenewal_wf {pre : Prefix} (hs : s.mem.wf = true) : OutWf (execLeaseRenewal pre s) := by
  unfold execLeaseRenewal
  split <;> simp [hs]

@[simp] theorem takeRenewal_mem (s : State) (pre : Prefix) (src dst time : Nat) :
    (s.takeRenewal pre src dst time).mem = s.mem := by rfl

@[simp] theorem execRenewalReceive_wf {m : RenewMsg} (hs : s.mem.wf = true) : OutWf (execRenewalReceive m s) := by
  unfold execRenewalReceive
  (repeat' split) <;> simp [hs]

/-! ### Rerouting and responses -/

@[simp] theorem execRefusalReroute_wf {n : Nat} (hs : s.mem.wf = true) : OutWf (execRefusalReroute n s) := by
  unfold execRefusalReroute
  split <;> simp [hs]

@[simp] theorem respond_wf {w : WriteReq} (hs : s.mem.wf = true) : (s.respond w).mem.wf = true := by
  unfold State.respond
  (repeat' split) <;> simp [hs]

@[simp] theorem execStoreResponse_wf {n : Nat} (hs : s.mem.wf = true) : OutWf (execStoreResponse n s) := by
  unfold execStoreResponse
  split <;> simp [hs]

@[simp] theorem revoke_mem (s : State) (w : WriteReq) (holder : Nat) : (s.revoke w holder).mem = s.mem := by
  unfold State.revoke
  dsimp only
  (repeat' split) <;> simp

/-! ### Loads and stores -/

@[simp] theorem doLoad_wf {dest : Dest} {const : Bool} {ret : Nat} {es : List Elem} (hs : s.mem.wf = true) :
    ActWf (doLoad dest const ret es s) := by
  unfold doLoad
  exact ordered_wf hs fun s hs => access_wf hs fun s o hs => wf_of_mem_eq (perform_mem s o) hs

@[simp] theorem doStore_wf {kind : OpKind} {ret : Nat} {tree : Option (Nat × Nat)} {es : List Elem} {val : Elem → Nat}
    (hs : s.mem.wf = true) :
    ActWf (doStore kind ret tree es val s) := by
  unfold doStore
  refine ordered_wf hs fun s hs => ?_
  dsimp only
  split
  · trivial
  · exact access_wf hs fun s o hs => wf_of_mem_eq (perform_mem s o) hs

/-! ### Scratchpad (13 R215, R235) -/

@[simp] theorem setRegion_mem (s : State) (r : Region) : (s.setRegion r).mem = s.mem := by rfl

@[simp] theorem meetBad_mem (s : State) (es : List Elem) : (s.meetBad es).mem = s.mem := by
  unfold State.meetBad
  dsimp only
  split <;> simp

@[simp] theorem doSpld_wf {z d f : Nat} {es : List Elem} (hs : s.mem.wf = true) : ActWf (doSpld z d f es s) := by
  unfold doSpld
  dsimp only
  (repeat' split) <;> simp [hs]

@[simp] theorem doSpst_wf {es : List Elem} {val : Elem → Nat} (hs : s.mem.wf = true) : ActWf (doSpst es val s) := by
  unfold doSpst
  split
  · trivial
  · refine wf_of_mem_eq (foldl_mem (fun s e => ?_) _ s) hs
    split
    · exact setRegion_mem _ _
    · rfl

/-! ### Atomics (R240-R242) -/

@[simp] theorem doAtom_wf {op z ret : Nat} {dest : Dest} {es : List Elem} {x cmp : Elem → Nat} (hs : s.mem.wf = true) :
    ActWf (doAtom op z ret dest es x cmp s) := by
  unfold doAtom
  refine ordered_wf hs fun s hs => ?_
  dsimp only
  split
  · trivial
  · exact access_wf hs fun s o hs => wf_of_mem_eq (perform_mem s o) hs

@[simp] theorem doAtomS_wf {op z d a b ret : Nat} (hs : s.mem.wf = true) : ActWf (doAtomS op z d a b ret s) := by
  unfold doAtomS
  simp [hs]

@[simp] theorem doAtomV_wf {op z b : Nat} {back : Bool} {ret : Nat} {es : List Elem} (hs : s.mem.wf = true) :
    ActWf (doAtomV op z b back ret es s) := by
  unfold doAtomV
  simp [hs]

/-! ### Multicast store and prefetch (R247, R248) -/

@[simp] theorem doStMc_wf {a b n ret : Nat} (hs : s.mem.wf = true) : ActWf (doStMc a b n ret s) := by
  unfold doStMc
  dsimp only
  split <;> simp [hs]

theorem fetchServed_wf {s t : State} (hs : s.mem.wf = true) {w : Want} {n : Nat} {gone : List Nat} {bs : List Byte} {st : Nat}
    {l : Option (Nat × Nat)} (e : s.fetchServed w n gone = some (t, bs, st, l)) :
    t.mem.wf = true := by
  induction n generalizing w gone with
  | zero => cases e
  | succ n ih =>
    rw [State.fetchServed] at e
    split at e
    · next u bs' stamp lease hu =>
      cases e
      exact (fetchLine_wf hs).of_eq hu
    · exact ih e
    · exact ih e
    · cases e

@[simp] theorem fillMsc_mem (s : State) (w : Want) : (s.fillMsc w).mem = s.mem := by
  unfold State.fillMsc
  (repeat' split) <;> simp

@[simp] theorem doPf_wf {a lvl cls : Nat} (hs : s.mem.wf = true) : ActWf (doPf a lvl cls s) := by
  unfold doPf
  split
  · trivial
  · split
    · exact hs
    · dsimp only
      split
      · next x t ht =>
        have ht := wf_of_snd ht (translate_wf hs)
        refine ite_state_wf (wf_of_mem_eq (fillMsc_mem t _) ht) ?_
        split
        · next u bs stamp lease hu =>
          have hu := fetchServed_wf ht hu
          exact ite_state_wf (wf_of_mem_eq (fillL1_mem u _ _ _ _ _ _ _ _ _ _) hu) hu
        · exact ht
      · next r t ht => exact wf_of_snd ht (translate_wf hs)

/-! ### Topology and costs (R156, R159, 01 R11, R17) -/

@[simp] theorem passRelay_mem (s : State) (router : Nat) (m : RelayMsg) (n : Nat) : (s.passRelay router m n).mem = s.mem := by
  unfold State.passRelay
  simp

@[simp] theorem sendRelay_mem (s : State) (router : Nat) (m : RelayMsg) : (s.sendRelay router m).mem = s.mem := by
  unfold State.sendRelay
  simp

@[simp] theorem trackReplicas_mem (s : State) (router : Nat) (pre : Prefix) : (s.trackReplicas router pre).mem = s.mem := by
  unfold State.trackReplicas
  dsimp only
  split <;> simp

@[simp] theorem setEntry_mem (s : State) (e : RtEntry) : (s.setEntry e).mem = s.mem := by
  unfold State.setEntry
  simp

@[simp] theorem withdraw_mem (s : State) (pre : Prefix) (holder : Nat) : (s.withdraw pre holder).mem = s.mem := by
  unfold State.withdraw
  dsimp only
  split <;> simp

@[simp] theorem relayRefused_mem (s : State) (pre : Prefix) (holder n : Nat) (second : Bool) :
    (s.relayRefused pre holder n second).mem = s.mem := by
  unfold State.relayRefused
  (repeat' split) <;> simp

@[simp] theorem cutOff_mem (s : State) (router holder : Nat) (pre : Prefix) : (s.cutOff router holder pre).mem = s.mem := by
  unfold State.cutOff
  simp

@[simp] theorem withdrawnHere_mem (s : State) (router : Nat) (pre : Prefix) (holder : Nat) :
    (s.withdrawnHere router pre holder).mem = s.mem := by
  unfold State.withdrawnHere
  simp

@[simp] theorem dropMember_mem (s : State) (router : Nat) (pre : Prefix) (holder : Nat) :
    (s.dropMember router pre holder).mem = s.mem := by
  unfold State.dropMember
  simp

@[simp] theorem learnFar_mem (s : State) (m : RelayMsg) : (s.learnFar m).mem = s.mem := by
  unfold State.learnFar
  simp

@[simp] theorem takeRelay_mem (s : State) (router : Nat) (relay : RelayMsg) (n : Nat) :
    (s.takeRelay router relay n).mem = s.mem := by
  unfold State.takeRelay
  (repeat' split) <;> simp

@[simp] theorem execRelayReceive_wf {router : Nat} {relay : RelayMsg} (hs : s.mem.wf = true) :
    OutWf (execRelayReceive router relay s) := by
  unfold execRelayReceive
  split <;> simp [hs]

@[simp] theorem execRelayRefusal_wf {pre : Prefix} {holder : Nat} {relay : RefusalMsg} (hs : s.mem.wf = true) :
    OutWf (execRelayRefusal pre holder relay s) := by
  unfold execRelayRefusal
  simp [hs]

@[simp] theorem portDown_mem (s : State) (port : Nat) : (s.portDown port).mem = s.mem := by
  unfold State.portDown
  dsimp only
  rw [foldl_mem fun s e => ?_]
  refine foldl_mem (fun s h => ?_) _ _
  split <;> simp

/-! ### Holder states at an origin router (R172-R174) -/

@[simp] theorem announce_mem (s : State) (pre : Prefix) (h : RtHolder) : (s.announce pre h).mem = s.mem := by
  unfold State.announce
  simp

@[simp] theorem baton_mem (s : State) (pre : Prefix) (old new : Nat) : (s.baton pre old new).mem = s.mem := by
  unfold State.baton
  extract_lets -underBinder way change now mine listed members extra s1 s2 s3 theirs s4 s5
  have hc : ∀ s a b, (change s a b).mem = s.mem := by
    intro s a b
    unfold change
    dsimp only
    (repeat' split) <;> simp
  have h1 : s1.mem = s.mem := writeBackAll_mem _ _
  have h2 : s2.mem = s1.mem := by unfold s2; split <;> rfl
  have h3 : s3.mem = s2.mem := by unfold s3; split <;> rfl
  rw [hc, hc]
  calc s5.mem = s4.mem := trackReplicas_mem _ _ _
    _ = s3.mem := rfl
    _ = s.mem := by rw [h3, h2, h1]

@[simp] theorem rteAnn_mem (s : State) (addr desc : Nat) : (s.rteAnn addr desc).2.mem = s.mem := by
  unfold State.rteAnn
  dsimp only
  (repeat' split) <;> simp

@[simp] theorem rteWd_mem (s : State) (addr desc : Nat) : (s.rteWd addr desc).2.mem = s.mem := by
  unfold State.rteWd
  dsimp only
  (repeat' split) <;> simp

@[simp] theorem rteRole_mem (s : State) (addr desc : Nat) : (s.rteRole addr desc).2.mem = s.mem := by
  unfold State.rteRole
  dsimp only
  (repeat' split) <;> simp

@[simp] theorem giveBaton_mem (s : State) (addr desc : Nat) : (s.giveBaton addr desc).mem = s.mem := by
  unfold State.giveBaton
  dsimp only
  split <;> simp

@[simp] theorem rteDo_mem (s : State) (op addr desc : Nat) : (s.rteDo op addr desc).2.mem = s.mem := by
  unfold State.rteDo
  (repeat' split) <;> simp

@[simp] theorem execRouterAnswer_wf {uid : Nat} {split : Fin 4} (hs : s.mem.wf = true) :
    OutWf (execRouterAnswer uid split s) := by
  unfold execRouterAnswer
  split <;> simp [hs]

@[simp] theorem execRteSyncDone_wf {uid : Nat} {split : Fin 4} (hs : s.mem.wf = true) : OutWf (execRteSyncDone uid split s) := by
  unfold execRteSyncDone
  split <;> simp [hs]

@[simp] theorem execHolderAbsent_wf {pre : Prefix} {holder : Nat} (hs : s.mem.wf = true) :
    OutWf (execHolderAbsent pre holder s) := by
  unfold execHolderAbsent
  split <;> simp [hs]

@[simp] theorem revokeFor_mem (s : State) (w : WriteReq) (holder : Nat) : (s.revokeFor w holder).mem = s.mem := by
  unfold State.revokeFor
  dsimp only
  (repeat' split) <;> simp

@[simp] theorem execEchoDeadline_wf {n : Nat} (hs : s.mem.wf = true) : OutWf (execEchoDeadline n s) := by
  unfold execEchoDeadline
  split <;> simp [hs]

/-! ### Instructions -/

@[simp] theorem doRte_wf {op d a b : Nat} (hs : s.mem.wf = true) : ActWf (doRte op d a b s) := by
  unfold doRte
  simp [hs]

/-! ### Records read as loads of the issuing group (14 R411) -/

@[simp] theorem readFrom_wf {prim more : Bool} (hs : s.mem.wf = true) {es : List Elem} {k : State → List Byte → Act}
    (hk : ∀ (s : State) bs, s.mem.wf = true → ActWf (k s bs)) :
    ActWf (readFrom prim more s es k) := by
  unfold readFrom
  split
  · trivial
  · next c _ =>
    split
    · trivial
    · have ht := checkAll_wf (c := c) (acc := .read) (needs := []) (prim := prim) (l := es) hs
      revert ht
      generalize s.checkAll c .read [] prim es = r
      obtain ⟨rs, t⟩ := r
      intro ht
      dsimp only
      split
      · split
        · exact fun s hs => wf_of_mem_eq (poisonBad_mem s _) hs
        · trivial
      · split
        · exact parkFaults_wf ht
        · split
          · exact ht
          · split
            · trivial
            · split
              · exact ht
              · split
                · split
                  · exact fun s hs => wf_of_mem_eq (poisonBad_mem s _) hs
                  · trivial
                · next u hu => exact (readEach_wf ht).of_eq hu
                · next u bs stamp hu => exact hk _ bs ((readEach_wf ht).of_eq hu)

@[simp] theorem readLines_wf {more : Bool} (hs : s.mem.wf = true) {gva n : Nat} {k : State → List Byte → Act}
    (hk : ∀ (s : State) bs, s.mem.wf = true → ActWf (k s bs)) :
    ActWf (readLines more s gva n k) := by
  unfold readLines
  split
  · exact hk s _ hs
  · exact readFrom_wf hs fun s bs hs => hk _ bs hs

/-! ### Contributions (R187, R188) -/

@[simp] theorem doRed_wf {a : BitVec 7} {b tag : Nat} (hs : s.mem.wf = true) : ActWf (doRed a b tag s) := by
  unfold doRed
  dsimp only
  split
  · trivial
  · split
    · split
      · exact hs
      · trivial
    · split
      · trivial
      · split
        · trivial
        · split
          · trivial
          · refine ordered_wf hs fun s hs => ?_
            split
            · trivial
            · split
              · trivial
              · exact access_wf hs fun s o hs => wf_of_mem_eq (perform_mem s o) hs

@[simp] theorem doRedClose_wf {d a : Nat} (hs : s.mem.wf = true) : ActWf (doRedClose d a s) := by
  unfold doRedClose
  dsimp only
  (repeat' split) <;> simp [hs]

@[simp] theorem finishClose_wf {idx flat : Nat} (hs : s.mem.wf = true) : (s.finishClose idx flat).2.mem.wf = true := by
  unfold State.finishClose
  (repeat' split) <;> simp [hs]

/-! ### Objects (R200) -/

@[simp] theorem spendFree_mem (s : State) (o : ObjEntry) : (s.spendFree o).mem = s.mem := by
  unfold State.spendFree
  simp

@[simp] theorem doCobjDecl_wf {d a : Nat} {n : Int} (hs : s.mem.wf = true) : ActWf (doCobjDecl d a n s) := by
  have say : ∀ (t : State) (v : Nat), t.mem.wf = true → ActWf (.ok (t.setSreg d (BitVec.ofNat 64 v))) := fun t v ht => ht
  unfold doCobjDecl
  dsimp only
  split
  · exact say s 1 hs
  · split
    · exact say s 1 hs
    · refine readLines_wf hs fun s bs hs => actWf_ite (say s 1 hs) ?_
      split
      · trivial
      · next c _ =>
        generalize hr : s.checkElem c .read [] false _ = r
        obtain ⟨r, t⟩ := r
        have ht : t.mem.wf = true := wf_of_snd hr (checkElem_wf hs)
        have free : ∀ o, (t.spendFree o).mem.wf = true := fun o => wf_of_mem_eq (spendFree_mem t o) ht
        dsimp only
        split
        · trivial
        · exact parkFaults_wf ht
        · exact actWf_ite (say t 2 ht) (actWf_ite (say t 6 ht) (actWf_ite (say t 4 ht) (actWf_ite (free _) (free _))))

@[simp] theorem doCobjDrop_wf {d : Nat} {n : Int} (hs : s.mem.wf = true) : ActWf (doCobjDrop d n s) := by
  unfold doCobjDrop
  (repeat' split) <;> simp [hs]

@[simp] theorem doCobjSync_wf {d : Nat} {share : Bool} {n : Int} (hs : s.mem.wf = true) : ActWf (doCobjSync d share n s) := by
  unfold doCobjSync
  (repeat' split) <;> simp [hs]

@[simp] theorem finishSync_wf {idx : Nat} {share : Bool} (hs : s.mem.wf = true) : (s.finishSync idx share).2.2.mem.wf = true := by
  unfold State.finishSync
  (repeat' split) <;> simp [hs]

@[simp] theorem poisonLines_mem (s : State) (o : ObjEntry) (p : Bool) : (s.poisonLines o p).mem = s.mem := by
  unfold State.poisonLines
  refine foldl_mem (fun s fa => ?_) _ _
  split
  · exact setLine_mem s _
  · rfl

@[simp] theorem doCobjReclaim_wf {d : Nat} {n : Int} (hs : s.mem.wf = true) : ActWf (doCobjReclaim d n s) := by
  unfold doCobjReclaim
  (repeat' split) <;> simp [hs]

/-! ### Events -/

@[simp] theorem execPartialFold_wf {obj die elem : Nat} (hs : s.mem.wf = true) : OutWf (execPartialFold obj die elem s) := by
  unfold execPartialFold
  split <;> simp [hs]

@[simp] theorem memberRound_mem (s : State) (o : ObjEntry) (rec : Nat) : (s.memberRound o rec).mem = s.mem := by rfl

@[simp] theorem execMergeChildArrive_wf {obj : Nat} {child : NodeMsg} (hs : s.mem.wf = true) :
    OutWf (execMergeChildArrive obj child s) := by
  unfold execMergeChildArrive
  (repeat' split) <;> simp [hs]

@[simp] theorem execMergeNodeTimeout_wf {obj level index : Nat} (hs : s.mem.wf = true) :
    OutWf (execMergeNodeTimeout obj level index s) := by
  unfold execMergeNodeTimeout
  split <;> simp [hs]

@[simp] theorem refuseHeld_mem (s : State) (h : HeldReq) : (s.refuseHeld h).mem = s.mem := by
  unfold State.refuseHeld
  (repeat' split) <;> simp

@[simp] theorem loseObject_wf {o : ObjEntry} {agent : Nat} (hs : s.mem.wf = true) : (s.loseObject o agent).mem.wf = true := by
  unfold State.loseObject
  simp [hs]

@[simp] theorem voidEntry_wf {e : SbEntry} (hs : s.mem.wf = true) : (s.voidEntry e).mem.wf = true := by
  unfold State.voidEntry
  simp [hs]

@[simp] theorem dieLost_wf {d : Nat} (hs : s.mem.wf = true) : (s.dieLost d).mem.wf = true := by
  have lose : ∀ (t : State) (ts : List TagLine), t.mem.wf = true → (ts.foldl (fun (s : State) (t : TagLine) =>
      let s := { s with mem := Memory.putN s.mem (memKey t.holder t.line) (t.below.getD []) }
      s.setLine { s.lineAt t.holder t.line with poison := true }) t).mem.wf = true :=
    fun t ts h => foldl_wf (fun s t hs => putN_wf _ _ hs) h
  unfold State.dieLost
  dsimp only
  refine errorRecord_wf ?_
  rw [foldl_mem (fun s i => portDown_mem s _)]
  refine foldl_wf (fun s o hs => loseObject_wf hs) ?_
  refine foldl_wf (fun s e hs => voidEntry_wf hs) ?_
  exact lose _ _ (foldl_wf (fun s c hs => resetContext_wf hs) hs)

@[simp] theorem ownerLost_wf {o : ObjEntry} {agent : Nat} (hs : s.mem.wf = true) : (s.ownerLost o agent).mem.wf = true := by
  unfold State.ownerLost
  dsimp only
  split <;> simp [hs]

@[simp] theorem remember_wf {idx agent tag : Nat} (hs : s.mem.wf = true) : (s.remember idx agent tag).mem.wf = true := by
  unfold State.remember
  simp [hs]

@[simp] theorem directory_wf {o : ObjEntry} {req : ObjReq} (hs : s.mem.wf = true) : (s.directory o req).mem.wf = true := by
  unfold State.directory
  dsimp only
  (repeat' split) <;> simp [hs]

@[simp] theorem request_wf {obj : Nat} {req : ObjReq} (hs : s.mem.wf = true) : (s.request obj req).mem.wf = true := by
  unfold State.request
  (repeat' split) <;> simp [hs]

@[simp] theorem execCobjDirectoryRequest_wf {obj : Nat} {req : ObjMsg} (hs : s.mem.wf = true) :
    OutWf (execCobjDirectoryRequest obj req s) := by
  unfold execCobjDirectoryRequest
  simp [hs]

@[simp] theorem giveFar_wf {f : FarOwned} (hs : s.mem.wf = true) : (s.giveFar f).mem.wf = true := by
  unfold State.giveFar
  dsimp only
  rw [sendTo_mem]
  dsimp only
  rw [foldl_mem (fun s x => dropL1_mem s _ _), foldl_mem evictTag_mem]
  exact foldl_wf (fun s w hs => landWrite_wf hs) hs

@[simp] theorem execSnoopReceive_wf {obj : SnoopMsg} (hs : s.mem.wf = true) : OutWf (execSnoopReceive obj s) := by
  unfold execSnoopReceive
  (repeat' split) <;> simp [hs]

@[simp] theorem serveHeld_wf {obj : Nat} {h : HeldReq} (hs : s.mem.wf = true) : (s.serveHeld obj h).mem.wf = true := by
  unfold State.serveHeld
  (repeat' split) <;> simp [hs]

@[simp] theorem execSnoopAnswer_wf {m : AnswerMsg} (hs : s.mem.wf = true) : OutWf (execSnoopAnswer m s) := by
  unfold execSnoopAnswer
  rw [outWf_next]
  split
  · exact hs
  · split
    · exact hs
    · dsimp only
      split
      · exact hs
      · refine foldl_wf (fun s h hs => serveHeld_wf hs) ?_
        rw [modObj_mem]
        have hh := writtenHome_wf (o := by assumption) hs
        split
        · refine foldl_wf (fun s x hs => homeFold_wf hs) (collect_wf ?_)
          split
          · exact foldl_wf (fun s x hs => engineWrite_wf hs) hh
          · exact hh
        · split
          · exact foldl_wf (fun s x hs => engineWrite_wf hs) hh
          · exact hh

@[simp] theorem execSnoopRetry_wf {obj : Nat} (hs : s.mem.wf = true) : OutWf (execSnoopRetry obj s) := by
  unfold execSnoopRetry
  (repeat' split) <;> simp [hs]

@[simp] theorem execSnoopTimeout_wf {obj : Nat} (hs : s.mem.wf = true) : OutWf (execSnoopTimeout obj s) := by
  unfold execSnoopTimeout
  (repeat' split) <;> simp [hs]

/-! ### Descriptors (R202-R204) -/

@[simp] theorem setTdt_mem (s : State) (n : Nat) (e : Option (BitVec 512)) : (s.setTdt n e).mem = s.mem := by rfl

@[simp] theorem doTdtSet_wf {d a n : Nat} (hs : s.mem.wf = true) : ActWf (doTdtSet d a n s) := by
  have put : ∀ (t : State) (e : BitVec 512), t.mem.wf = true → ActWf (.ok ((t.setTdt n (some (tdSet e 504 504 1))).setSreg d 0)) :=
    fun t e ht => by simp [ht]
  unfold doTdtSet
  dsimp only
  split
  · exact hs
  · refine readLines_wf hs fun s bs hs => ?_
    split
    · exact hs
    · split
      · exact put s _ hs
      · exact readFrom_wf hs fun s bs hs => put _ _ hs

@[simp] theorem doTdtGet_wf {d w n : Nat} (hs : s.mem.wf = true) : ActWf (doTdtGet d w n s) := by
  unfold doTdtGet
  simp [hs]

/-! ### Carillon trees (R210, R211) -/

@[simp] theorem doTreeSet_wf {d a n : Nat} (hs : s.mem.wf = true) : ActWf (doTreeSet d a n s) := by
  unfold doTreeSet
  dsimp only
  split <;> simp [hs]

@[simp] theorem landed_mem (s : State) (write : Nat) : (s.landed write).mem = s.mem := by rfl

@[simp] theorem fromOutside_mem (s : State) (pkt : McPacket) (member : Bool) (d : Nat) :
    (s.fromOutside pkt member d).mem = s.mem := by
  unfold State.fromOutside
  dsimp only
  split <;> simp

@[simp] theorem execMulticastForward_wf {port : Nat} {pkt : McPacket} (hs : s.mem.wf = true) :
    OutWf (execMulticastForward port pkt s) := by
  unfold execMulticastForward
  dsimp only
  (repeat' split) <;> simp [hs]

/-! ### Accesses of an engine (09 R147, 10 R162, R168) -/

@[simp] theorem engBind_wf {α β : Type} {r : Eng α} (h : (engState r).mem.wf = true) {k : α → State → Eng β}
    (hk : ∀ x (s : State), s.mem.wf = true → (engState (k x s)).mem.wf = true) :
    (engState (r.bind k)).mem.wf = true := by
  cases r with
  | ok x s => exact hk x s h
  | err s c a => exact h
  | miss s m g a acc => exact h
  | wait s => exact h

@[simp] theorem engFailAt_wf {α β : Type} {r : Eng α} {t : State} (h : t.mem.wf = true) :
    (engState (r.failAt t : Eng β)).mem.wf = true := by
  cases r <;> exact h

@[simp] theorem engBoth_wf {α β : Type} {r : Eng α} (h : (engState r).mem.wf = true) {k : State → Eng β}
    (hk : ∀ (s : State), s.mem.wf = true → (engState (k s)).mem.wf = true) :
    (engState (r.both k)).mem.wf = true := by
  have hf : ∀ t : State, t.mem.wf = true → (engState (r.failAt t : Eng (α × β))).mem.wf = true := fun t ht => engFailAt_wf ht
  unfold Eng.both
  cases r with
  | wait s => exact h
  | ok x s => exact engBind_wf (hk s h) fun _ _ h => h
  | err s | miss s =>
    have hk := hk s h
    revert hk
    dsimp only
    cases k s with
    | wait u => exact id
    | ok y u => exact hf u
    | err u | miss u =>
      intro hu
      dsimp only
      (repeat' split) <;> simp_all

@[simp] theorem engXlate_wf {g : Agent} {gva : Nat} {acc : Access} (hs : s.mem.wf = true) :
    (engState (s.engXlate g gva acc)).mem.wf = true := by
  unfold State.engXlate
  split
  · next f t ht => exact wf_of_snd ht (translate_wf hs)
  · next i t ht => exact wf_of_snd ht (translate_wf hs)
  · next x t ht => exact wf_of_snd ht (translate_wf hs)

@[simp] theorem engLoad_wf {g : Agent} {gva n : Nat} (hs : s.mem.wf = true) : (engState (s.engLoad g gva n)).mem.wf = true := by
  unfold State.engLoad
  refine engBind_wf (engXlate_wf hs) fun fa t ht => ?_
  have hr := readLine_wf (w := ⟨g.core, g.c.num, g.c.vdid, g.c.world, gva, fa, g.floor, g.cls, false, g.prim, true, none⟩) ht
  split
  · split <;> simp [ht]
  · next u hu => rw [hu] at hr; exact hr
  · next u bs n hu => rw [hu] at hr; exact hr

@[simp] theorem engStore_wf {g : Agent} {origin : Origin} {gva : Nat} {k : WKind} {acc : Access} {needs : Needs}
    (hs : s.mem.wf = true) :
    (engState (s.engStore g origin gva k acc needs)).mem.wf = true := by
  unfold State.engStore
  refine engBind_wf (engXlate_wf hs) fun fa t ht => ?_
  dsimp only
  split
  · exact ht
  · (repeat' split) <;> simp [ht]

@[simp] theorem engFill_wf {g : Agent} {gva : Nat} {bs : List Byte} (hs : s.mem.wf = true) :
    (engState (s.engFill g gva bs)).mem.wf = true := by
  unfold State.engFill
  refine engBind_wf (engXlate_wf hs) fun fa t ht => ?_
  dsimp only
  split <;> simp [ht]

/-! ### The pieces of a copy -/

@[simp] theorem putRegion_mem (s : State) (r : Region) : (s.putRegion r).mem = s.mem := by rfl

@[simp] theorem scratchLoad_mem (s : State) (c : CopyCmd) (a n : Nat) : (engState (s.scratchLoad c a n)).mem = s.mem := by
  unfold State.scratchLoad
  dsimp only
  (repeat' split) <;> simp

@[simp] theorem scratchStore_wf {c : CopyCmd} {a : Nat} {bs : List Byte} (hs : s.mem.wf = true) :
    (engState (s.scratchStore c a bs)).mem.wf = true := by
  unfold State.scratchStore
  split <;> simp [hs]

@[simp] theorem movePiece_wf {g : Agent} {c : CopyCmd} {p : Piece} (hs : s.mem.wf = true) :
    (engState (s.movePiece g c p)).mem.wf = true := by
  unfold State.movePiece
  refine engBind_wf ?_ fun bs t ht => ?_
  · split
    · exact hs
    · (repeat' split) <;> simp [hs]
  · (repeat' split) <;> simp [ht]

@[simp] theorem engMiss_wf {g : Agent} {m : Miss} {gva : Nat} {acc : Access} (hs : s.mem.wf = true) :
    (s.engMiss g m gva acc).mem.wf = true := by
  unfold State.engMiss
  split <;> simp [hs]

@[simp] theorem modCopy_mem (s : State) (id : Nat) (f : CopyCmd → CopyCmd) : (s.modCopy id f).mem = s.mem := by rfl

@[simp] theorem movePieces_wf {g : Agent} {c : CopyCmd} {l : List Piece} {n : Nat} (hs : s.mem.wf = true) :
    (s.movePieces g c l n).mem.wf = true := by
  induction l generalizing s n with
  | nil => exact wf_of_mem_eq (modCopy_mem s _ _) hs
  | cons p ps ih =>
    have hm := movePiece_wf (g := g) (c := c) (p := p) hs
    have hc : ∀ (t : State) (f : CopyCmd → CopyCmd), t.mem.wf = true → (t.modCopy c.id f).mem.wf = true :=
      fun t f ht => wf_of_mem_eq (modCopy_mem t _ f) ht
    rw [State.movePieces]
    dsimp only
    split
    · next t ht => exact ih (engState_wf_of_eq hm ht)
    · next t x a ht => exact hc t _ (engState_wf_of_eq hm ht)
    · next t f gva a acc ht =>
      have ht := engState_wf_of_eq hm ht
      exact ite_state_wf (engMiss_wf (hc t _ ht)) (hc t _ ht)
    · next t i gva a acc ht => exact engMiss_wf (hc t _ (engState_wf_of_eq hm ht))
    · next t ht => exact hc t _ (engState_wf_of_eq hm ht)

@[simp] theorem execCopyStart_wf {n : Nat} (hs : s.mem.wf = true) : OutWf (execCopyStart n s) := by
  unfold execCopyStart
  (repeat' split) <;> simp [hs]

@[simp] theorem endCopy_mem (s : State) (c : CopyCmd) : (s.endCopy c).mem = s.mem := by
  unfold State.endCopy
  dsimp only
  split <;> simp

@[simp] theorem execCopyComplete_wf {n : Nat} (hs : s.mem.wf = true) : OutWf (execCopyComplete n s) := by
  unfold execCopyComplete
  split <;> simp [hs]

@[simp] theorem execCopyFault_wf {n : Nat} (hs : s.mem.wf = true) : OutWf (execCopyFault n s) := by
  unfold execCopyFault
  (repeat' split) <;> simp [hs]

/-! ### Issue (R243-R245) -/

@[simp] theorem startCopy_wf {kind : CKind} (hs : s.mem.wf = true) : ActWf (startCopy kind s) := by
  unfold startCopy
  dsimp only
  (repeat' split) <;> simp [hs]

@[simp] theorem doCp_wf {a b c : Nat} {dsp ssp fill : Bool} (hs : s.mem.wf = true) : ActWf (doCp a b c dsp ssp fill s) := by
  unfold doCp
  dsimp only
  (repeat' split) <;> simp [hs]

@[simp] theorem doCpT_wf {td ts c : Nat} (hs : s.mem.wf = true) : ActWf (doCpT td ts c s) := by
  unfold doCpT
  dsimp only
  (repeat' split) <;> simp [hs]

/-! ### Claims (R269-R271) -/

@[simp] theorem setTile_mem (s : State) (t : TileSt) : (s.setTile t).mem = s.mem := by rfl
@[simp] theorem setSlot_mem (s : State) (t : SlotSt) : (s.setSlot t).mem = s.mem := by rfl

@[simp] theorem doZclaim_wf {d : Nat} {m : BitVec 12} (hs : s.mem.wf = true) : ActWf (doZclaim d m s) := by
  unfold doZclaim
  dsimp only
  split <;> simp [hs]

@[simp] theorem doOclaim_wf {d : Nat} {m : BitVec 8} (hs : s.mem.wf = true) : ActWf (doOclaim d m s) := by
  unfold doOclaim
  dsimp only
  split <;> simp [hs]

@[simp] theorem freeItems_mem (s : State) (uid core tiles slots : Nat) : (s.freeItems uid core tiles slots).mem = s.mem := by
  unfold State.freeItems
  simp

@[simp] theorem doRel_wf {tiles slots : Nat} {w : Wait} (hs : s.mem.wf = true) : ActWf (doRel tiles slots w s) := by
  unfold doRel
  split <;> simp [hs]

@[simp] theorem execItemClearComplete_wf {core : Nat} {isTile : Bool} {index : Nat} (hs : s.mem.wf = true) :
    OutWf (execItemClearComplete core isTile index s) := by
  unfold execItemClearComplete
  simp [hs]

/-! ### Filling a slot (R272) -/

@[simp] theorem gather_wf {g : Agent} {l : List (Nat × Nat × Nat)} {l' : List (Nat × Nat)} (hs : s.mem.wf = true) :
    (engState (s.gather g l l')).mem.wf = true := by
  induction l generalizing s l' with
  | nil => exact hs
  | cons p rest ih =>
    obtain ⟨key, a, n⟩ := p
    exact engBind_wf (engBoth_wf (engLoad_wf hs) fun t ht => ih ht) fun r t ht => ht

@[simp] theorem fillSlot_wf {g : Agent} {t : SlotSt} {e : BitVec 512} {o0 o1 : Nat} (hs : s.mem.wf = true) :
    (engState (s.fillSlot g t e o0 o1)).mem.wf = true := by
  unfold State.fillSlot
  exact engBind_wf (engBoth_wf (gather_wf hs) fun u hu => gather_wf hu) fun r w hw => hw

/-! ### Running a command (R279-R284) -/

@[simp] theorem engMres_wf {α : Type} {r : Eng α} (h : (engState r).mem.wf = true) {n : Nat} {fl : FpFlags}
    {k : α → State → MRes} (hk : ∀ x (s : State), s.mem.wf = true → (mresState (k x s)).mem.wf = true) :
    (mresState (r.mres n fl k)).mem.wf = true := by
  cases r with
  | ok x s => exact hk x s h
  | err s c a => exact h
  | miss s m g a acc => exact h
  | wait s => exact h

@[simp] theorem runLoop_wf {g : Agent} {z p : Nat} {da db : BitVec 512} {a0 a1 b0 b1 n n' : Nat} {x : FpFlags}
    (hs : s.mem.wf = true) :
    (mresState (s.runLoop g z p da db a0 a1 b0 b1 n n' x)).mem.wf = true := by
  induction n generalizing s n' x with
  | zero => exact hs
  | succ n ih =>
    rw [State.runLoop]
    split
    · refine engMres_wf (engBoth_wf (fillSlot_wf hs) fun u hu => fillSlot_wf hu) fun tt v hv => ?_
      refine ih ?_
      rw [count_mem, setTile_mem, setSlot_mem, setSlot_mem]
      exact hv
    · exact hs

@[simp] theorem after_wf {α : Type} {d : DrainSt} {r : Eng α} (h : (engState r).mem.wf = true) {go : α → State → DrainSt}
    (hg : ∀ x (s : State), s.mem.wf = true → (go x s).s.mem.wf = true) :
    (d.after r go).s.mem.wf = true := by
  cases r with
  | ok x s => exact hg x s h
  | err s c a => exact h
  | miss s m g a acc => exact h
  | wait s => exact h

@[simp] theorem drainOne_wf {g : Agent} {core id z start : Nat} {e : BitVec 512} {o0 o1 : Nat} {c : Rnd} {d : DrainSt}
    (h : d.s.mem.wf = true) {i : Nat} :
    (drainOne g core id z start e o0 o1 c d i).s.mem.wf = true := by
  unfold drainOne
  dsimp only
  split
  · exact h
  · split
    · exact h
    · split
      · exact h
      · split
        · exact after_wf (engStore_wf h) fun _ u hu => hu
        · exact after_wf (engLoad_wf h) fun bs u hu => after_wf (engStore_wf hu) fun _ u hu => hu

@[simp] theorem sentTo_mem (s : State) (id pos : Nat) : (s.sentTo id pos).mem = s.mem := by rfl

@[simp] theorem result_wf {d : DrainSt} (h : d.s.mem.wf = true) {c : MCmd} : (mresState (d.result c)).mem.wf = true := by
  have sent : ∀ pos, (d.s.sentTo c.id pos).mem.wf = true := fun pos => wf_of_mem_eq (sentTo_mem _ _ _) h
  unfold DrainSt.result
  split
  · exact sent _
  · split
    · exact sent _
    · split <;> exact h

@[simp] theorem runDrain_wf {g : Agent} {c : MCmd} {z : Nat} {e : BitVec 512} {o0 o1 : Nat} {rnd : BitVec 6} {sr : List Word}
    (hs : s.mem.wf = true) :
    (mresState (s.runDrain g c z e o0 o1 rnd sr)).mem.wf = true := by
  have drained : ∀ (l : List Nat) (d : DrainSt), d.s.mem.wf = true →
      (l.foldl (drainOne g c.core c.id z c.pos e o0 o1 (rndOfCode rnd)) d).s.mem.wf = true := fun l d hd =>
    List.foldlRecOn (motive := fun d : DrainSt => d.s.mem.wf = true) l _ hd fun _ hd _ _ => drainOne_wf hd
  unfold State.runDrain
  exact result_wf (drained _ _ hs)

@[simp] theorem runAmax_wf {g : Agent} {c : MCmd} {z : Nat} {e : BitVec 512} {o0 o1 : Nat} (hs : s.mem.wf = true) :
    (mresState (s.runAmax g c z e o0 o1)).mem.wf = true := by
  unfold State.runAmax
  split
  · exact wf_of_mem_eq (sentTo_mem s _ _) hs
  · next m _ =>
    have hr := engStore_wf (g := g) (origin := .matrix c.core c.id 128) (gva := tdf e 383 320) (k := .atomic 14 4 m.1.toNat 0)
      (acc := .atomic) (needs := [3]) hs
    dsimp only
    split
    · next u hu => exact engState_wf_of_eq hr hu
    · exact engMres_wf hr fun _ u hu => wf_of_mem_eq (sentTo_mem u _ _) hu

@[simp] theorem begin_mem (s : State) (c : MCmd) (floor : Nat) : (s.begin c floor).mem = s.mem := by rfl

@[simp] theorem runCmd_wf {c : MCmd} (hs : s.mem.wf = true) : (mresState (s.runCmd c)).mem.wf = true := by
  unfold State.runCmd
  split
  · exact hs
  · dsimp only
    split
    · exact hs
    · split
      · exact wf_of_mem_eq (count_mem _ _ _ _) (wf_of_mem_eq (setTile_mem s _) hs)
      · exact hs
    · split
      · exact hs
      · split
        · exact hs
        · exact engMres_wf (fillSlot_wf (wf_of_mem_eq (begin_mem s _ _) hs)) fun t u hu => wf_of_mem_eq (setSlot_mem u t) hu
    · split
      · exact hs
      · split
        · exact hs
        · exact runLoop_wf (wf_of_mem_eq (begin_mem s _ _) hs)
    · split
      · exact hs
      · split
        · exact hs
        · split
          · exact hs
          · split
            · exact runDrain_wf (wf_of_mem_eq (begin_mem s _ _) hs)
            · split
              · exact runAmax_wf (wf_of_mem_eq (begin_mem s _ _) hs)
              · split <;> exact hs

@[simp] theorem feed_mem (s : State) (core n : Nat) : (s.feed core n).mem = s.mem := by
  induction n generalizing s with
  | zero => rfl
  | succ n ih =>
    rw [State.feed]
    split
    · rfl
    · split
      · rfl
      · split
        · rfl
        · rw [ih]
          simp

@[simp] theorem endCmd_mem (s : State) (c : MCmd) (fl : FpFlags) : (s.endCmd c fl).mem = s.mem := by
  unfold State.endCmd
  simp

@[simp] theorem recordBad_wf {c : MCmd} {fl : FpFlags} {es : List (List Nat)} (hs : s.mem.wf = true) :
    (s.recordBad c fl es).mem.wf = true := by
  unfold State.recordBad
  split
  · exact foldl_wf (fun s e hs => errorRecord_wf hs) hs
  · exact hs

@[simp] theorem execMatrixCommandComplete_wf {core : Nat} (hs : s.mem.wf = true) : OutWf (execMatrixCommandComplete core s) := by
  unfold execMatrixCommandComplete
  rw [outWf_next]
  split
  · exact hs
  · next c _ =>
    have hr := runCmd_wf (c := c) hs
    split
    · next t fl ht => exact wf_of_mem_eq (endCmd_mem _ _ _) (recordBad_wf (mresState_wf_of_eq hr ht))
    · next t fl ht => exact recordBad_wf (mresState_wf_of_eq hr ht)
    · next t k fl ht =>
      have ht := mresState_wf_of_eq hr ht
      exact ite_state_wf (recordBad_wf ht) ht
    · exact hs

@[simp] theorem holdFrom_mem (s : State) (c : MCmd) (f : MFault) : (s.holdFrom c f).mem = s.mem := by
  unfold State.holdFrom
  simp

@[simp] theorem reportMiss_wf {g : Agent} {uid : Nat} {x : MissAt} (hs : s.mem.wf = true) :
    (s.reportMiss g uid x).mem.wf = true := by
  unfold State.reportMiss
  split <;> simp [hs]

@[simp] theorem execMatrixCommandFault_wf {core : Nat} (hs : s.mem.wf = true) : OutWf (execMatrixCommandFault core s) := by
  unfold execMatrixCommandFault
  rw [outWf_next]
  split
  · exact hs
  · next c _ =>
    have hr := runCmd_wf (c := c) hs
    split
    · next t cause progress addr m fl ht =>
      have ht := mresState_wf_of_eq hr ht
      dsimp only
      rw [feed_mem]
      split
      · exact reportMiss_wf (wf_of_mem_eq (holdFrom_mem _ _ _) (recordBad_wf ht))
      · exact wf_of_mem_eq (holdFrom_mem _ _ _) (recordBad_wf ht)
    · exact hs

/-! ### Raising MATRIX_FAULT (R286, R287) -/

@[simp] theorem raiseMatrix_wf (hs : s.mem.wf = true) {k : State → Act} (hk : ∀ s : State, s.mem.wf = true → ActWf (k s)) :
    ActWf (raiseMatrix s k) := by
  unfold raiseMatrix
  split
  · exact hs
  · split
    · exact hk _ (takeTraps_wf hs)
    · exact hs

/-! ### Issue of commands (R271-R275, R285) -/

@[simp] theorem enqueue_wf {kind : MKind} {scp : Scp} {m : Bool} (hs : s.mem.wf = true) {post : State → State}
    (hp : ∀ s : State, s.mem.wf = true → (post s).mem.wf = true) :
    ActWf (enqueue kind scp m s post) := by
  unfold enqueue
  dsimp only
  split
  · split
    · exact raiseMatrix_wf hs fun _ h => h
    · exact hp _ hs
  · split
    · trivial
    · exact hp _ hs

@[simp] theorem tagSlot_mem (s : State) (i tag : Nat) : (s.tagSlot i tag).mem = s.mem := by
  unfold State.tagSlot
  (repeat' split) <;> simp

@[simp] theorem doZzero_wf {m : Nat} (hs : s.mem.wf = true) : ActWf (doZzero m s) := by
  unfold doZzero
  split <;> simp [hs]

@[simp] theorem doOload_wf {o t c : Nat} (hs : s.mem.wf = true) : ActWf (doOload o t c s) := by
  unfold doOload
  dsimp only
  (repeat' split) <;> simp [hs]

@[simp] theorem doMmul_wf {z a b : Nat} (hs : s.mem.wf = true) : ActWf (doMmul z a b s) := by
  unfold doMmul
  (repeat' split) <;> simp [hs]

@[simp] theorem doMloop_wf {z ta tb blk : Nat} (hs : s.mem.wf = true) : ActWf (doMloop z ta tb blk s) := by
  unfold doMloop
  dsimp only
  (repeat' split) <;> simp [hs]

@[simp] theorem doMdrain_wf {z t c : Nat} {amax : Bool} (hs : s.mem.wf = true) : ActWf (doMdrain z t c amax s) := by
  unfold doMdrain
  (repeat' split) <;> simp [hs]

@[simp] theorem doMfence_wf {d : Nat} (hs : s.mem.wf = true) : ActWf (doMfence d s) := by
  unfold doMfence
  simp [hs]

@[simp] theorem doMwait_wf {a : Nat} (hs : s.mem.wf = true) : ActWf (doMwait a s) := by
  unfold doMwait
  dsimp only
  split
  · trivial
  · split
    · trivial
    · split
      · exact raiseMatrix_wf hs fun _ h => h
      · exact hs

@[simp] theorem doMresume_wf {abandon : Bool} (hs : s.mem.wf = true) : ActWf (doMresume abandon s) := by
  unfold doMresume
  (repeat' split) <;> simp [hs]

@[simp] theorem branchIf_wf {n : Nat} {c : Bool} {disp : BitVec n} (hs : s.mem.wf = true) : ActWf (branchIf c disp s) := by
  unfold branchIf
  simp [hs]

@[simp] theorem doMark_wf {n : Nat} {disp : BitVec n} (hs : s.mem.wf = true) : ActWf (doMark disp s) := by
  unfold doMark
  (repeat' split) <;> simp [hs]

@[simp] theorem doBrd_wf {n k : Nat} {disp : BitVec n} (hs : s.mem.wf = true) : ActWf (doBrd k disp s) := by
  unfold doBrd
  dsimp only
  (repeat' split) <;> simp [hs]

@[simp] theorem doJoin_wf (hs : s.mem.wf = true) : ActWf (doJoin s) := by
  unfold doJoin
  dsimp only
  (repeat' split) <;> simp [hs]

/-! ### Barriers (20 R360, R361) -/

@[simp] theorem mapAll_mem (s : State) (f : Group → Group) : (s.mapAll f).mem = s.mem := by rfl

@[simp] theorem testBarrier_mem (s : State) (launch level unit : Nat) : (s.testBarrier launch level unit).mem = s.mem := by
  unfold State.testBarrier
  dsimp only
  split <;> simp

@[simp] theorem barrierExit_mem (s : State) : s.barrierExit.mem = s.mem := by
  unfold State.barrierExit
  dsimp only
  split <;> simp

@[simp] theorem teamExit_mem (s : State) : s.teamExit.mem = s.mem := by rfl

@[simp] theorem leaveSplit_mem (s : State) : s.leaveSplit.mem = s.mem := by
  unfold State.leaveSplit
  simp

@[simp] theorem doTrap_wf {code : Nat} (hs : s.mem.wf = true) : ActWf (doTrap code s) := by
  unfold doTrap
  simp [hs]

@[simp] theorem doTret_wf (hs : s.mem.wf = true) : ActWf (doTret s) := by
  unfold doTret
  split <;> simp [hs]

@[simp] theorem doYield_wf (hs : s.mem.wf = true) : ActWf (doYield s) := by
  unfold doYield
  simp [hs]

@[simp] theorem doSysrd_wf {d n : Nat} (hs : s.mem.wf = true) : ActWf (doSysrd d n s) := by
  unfold doSysrd
  split <;> simp [hs]

@[simp] theorem doSyswr_wf {b n : Nat} (hs : s.mem.wf = true) : ActWf (doSyswr b n s) := by
  unfold doSyswr
  dsimp only
  (repeat' split) <;> simp [hs]

@[simp] theorem doHalt_wf {d a : Nat} (hs : s.mem.wf = true) : ActWf (doHalt d a s) := by
  unfold doHalt
  dsimp only
  (repeat' split) <;> simp [hs]

@[simp] theorem doWaitc_wf {l t c : Nat} (hs : s.mem.wf = true) : ActWf (doWaitc l t c s) := by
  unfold doWaitc
  dsimp only
  split
  · trivial
  · split
    · trivial
    · exact withDeferred_wf hs fun _ h => h

@[simp] theorem doBar_wf {l : Nat} {nf : Bool} (hs : s.mem.wf = true) : ActWf (doBar l nf s) := by
  unfold doBar
  split
  · trivial
  · split
    · trivial
    · dsimp only
      split
      · trivial
      · refine withDeferred_wf hs fun s hs => ?_
        rw [actWf_done, testBarrier_mem]
        simp [hs]

@[simp] theorem execIllegalOpcode_wf {w : Word} (hs : s.mem.wf = true) : OutWf (execIllegalOpcode w s) := by
  unfold execIllegalOpcode
  (repeat' split) <;> simp [hs]

@[simp] theorem execSysregWrite_wf {num : BitVec 12} {value : BitVec 64} (hs : s.mem.wf = true) :
    OutWf (execSysregWrite num value s) := by
  unfold execSysregWrite
  simp [hs]

@[simp] theorem execPartDescWrite_wf {index : Fin 12} {value : BitVec 64} (hs : s.mem.wf = true) :
    OutWf (execPartDescWrite index value s) := by
  unfold execPartDescWrite
  simp [hs]

@[simp] theorem execTqWrite_wf {vdid : Fin 64} {value : BitVec 64} (hs : s.mem.wf = true) : OutWf (execTqWrite vdid value s) := by
  unfold execTqWrite
  simp [hs]

@[simp] theorem execRteCostWrite_wf {value : BitVec 64} (hs : s.mem.wf = true) : OutWf (execRteCostWrite value s) := by
  unfold execRteCostWrite
  simp [hs]

@[simp] theorem execCobjQWrite_wf {vdid : Fin 64} {value : BitVec 64} (hs : s.mem.wf = true) :
    OutWf (execCobjQWrite vdid value s) := by
  unfold execCobjQWrite
  simp [hs]

@[simp] theorem execWlCfgWrite_wf {part list : Nat} {value : BitVec 64} (hs : s.mem.wf = true) :
    OutWf (execWlCfgWrite part list value s) := by
  unfold execWlCfgWrite
  simp [hs]

@[simp] theorem execWlReset_wf {part list : Nat} (hs : s.mem.wf = true) : OutWf (execWlReset part list s) := by
  unfold execWlReset
  simp [hs]

@[simp] theorem execRingBaseWrite_wf {ring : Fin 16} {value : BitVec 64} (hs : s.mem.wf = true) :
    OutWf (execRingBaseWrite ring value s) := by
  unfold execRingBaseWrite
  simp [hs]

@[simp] theorem execRingCtlWrite_wf {ring : Fin 16} {value : BitVec 64} (hs : s.mem.wf = true) :
    OutWf (execRingCtlWrite ring value s) := by
  unfold execRingCtlWrite
  simp [hs]

@[simp] theorem execRingEnable_wf {ring : Fin 16} {value : BitVec 64} (hs : s.mem.wf = true) :
    OutWf (execRingEnable ring value s) := by
  unfold execRingEnable
  simp [hs]

@[simp] theorem execRingDisable_wf {ring : Fin 16} (hs : s.mem.wf = true) : OutWf (execRingDisable ring s) := by
  unfold execRingDisable
  simp [hs]

@[simp] theorem execTierCfgWrite_wf {value : BitVec 64} (hs : s.mem.wf = true) : OutWf (execTierCfgWrite value s) := by
  unfold execTierCfgWrite
  simp [hs]

@[simp] theorem execFqDone_wf {ctx vdid level : Nat} {value : BitVec 64} (hs : s.mem.wf = true) :
    OutWf (execFqDone ctx vdid level value s) := by
  unfold execFqDone
  simp [hs]

@[simp] theorem execErqLostClear_wf (hs : s.mem.wf = true) : OutWf (execErqLostClear s) := by
  unfold execErqLostClear
  simp [hs]

@[simp] theorem execWdogWrite_wf {ctx : Nat} {value : BitVec 64} (hs : s.mem.wf = true) : OutWf (execWdogWrite ctx value s) := by
  unfold execWdogWrite
  simp [hs]

@[simp] theorem execPcclr_wf {ctx : Nat} {value : BitVec 64} (hs : s.mem.wf = true) : OutWf (execPcclr ctx value s) := by
  unfold execPcclr
  simp [hs]

@[simp] theorem execPwrCapWrite_wf {value : BitVec 64} (hs : s.mem.wf = true) : OutWf (execPwrCapWrite value s) := by
  unfold execPwrCapWrite
  simp [hs]

@[simp] theorem execTrayRemoveRequest_wf (hs : s.mem.wf = true) : OutWf (execTrayRemoveRequest s) := by
  unfold execTrayRemoveRequest
  simp [hs]

@[simp] theorem execTrayCancel_wf (hs : s.mem.wf = true) : OutWf (execTrayCancel s) := by
  unfold execTrayCancel
  simp [hs]

@[simp] theorem staleLanes_mem (s : State) (r : TinvRange) : (s.staleLanes r).mem = s.mem := by rfl

@[simp] theorem invalidate_wf {r : TinvRange} (hs : s.mem.wf = true) : (s.invalidate r).mem.wf = true := by
  unfold State.invalidate
  dsimp only
  rw [foldl_mem (fun s l => dropFrom_mem s _ _ _)]
  exact foldl_wf (fun s o hs => collect_wf hs) (by rw [staleLanes_mem]; exact hs)

@[simp] theorem doTinv_wf {a b c st : Nat} (hs : s.mem.wf = true) : ActWf (doTinv a b c st s) := by
  unfold doTinv
  simp [hs]

@[simp] theorem tinvPages_mem (s : State) (r : TinvRange) : (s.tinvPages r).mem = s.mem := by
  unfold State.tinvPages
  simp

@[simp] theorem execTinvComplete_wf {n : Nat} (hs : s.mem.wf = true) : OutWf (execTinvComplete n s) := by
  unfold execTinvComplete
  dsimp only
  split <;> simp [hs]

@[simp] theorem probe_wf {c : Ctx} {die gva : Nat} {s2 : Bool} (hs : s.mem.wf = true) :
    (s.probe c die gva s2).2.mem.wf = true := by
  unfold State.probe
  simp [hs]

@[simp] theorem doTprobe_wf {d a : Nat} {s2 : Bool} (hs : s.mem.wf = true) : ActWf (doTprobe d a s2 s) := by
  unfold doTprobe
  split <;> simp [hs]

/-! ### Block records (R309-R311) -/

@[simp] theorem seeRange_wf {world a n : Nat} (hs : s.mem.wf = true) : (s.seeRange world a n).mem.wf = true := by
  unfold State.seeRange
  exact foldl_wf (fun s l hs => arrive_wf hs) hs

@[simp] theorem seeTables_wf {vdid : Nat} (hs : s.mem.wf = true) : (s.seeTables vdid).mem.wf = true := by
  unfold State.seeTables
  exact foldl_wf (fun s t hs => seeRange_wf hs) (seeRange_wf hs)

@[simp] theorem seeBlock_wf {vdid i : Nat} (hs : s.mem.wf = true) : (s.seeBlock vdid i).mem.wf = true := by
  unfold State.seeBlock
  split
  · exact hs
  · have ht := fun a => seeTables_wf (vdid := vdid) (arrive_wf (world := 0) (a := a) (n := 32) hs)
    dsimp only
    split
    · exact ht _
    · exact arrive_wf (ht _)

@[simp] theorem engineByte_wf {world a : Nat} {f : Nat → Nat} (hs : s.mem.wf = true) :
    (s.engineByte world a f).mem.wf = true := by
  unfold State.engineByte
  dsimp only
  split <;> simp [hs]

@[simp] theorem setFar_wf {leaf : Nat} {v : Bool} (hs : s.mem.wf = true) : (s.setFar leaf v).mem.wf = true := by
  unfold State.setFar
  simp [hs]

@[simp] theorem setBusy_wf {rec : Nat} {v : Bool} (hs : s.mem.wf = true) : (s.setBusy rec v).mem.wf = true := by
  unfold State.setBusy
  simp [hs]

@[simp] theorem setTier_wf {rec t : Nat} (hs : s.mem.wf = true) : (s.setTier rec t).mem.wf = true := by
  unfold State.setTier
  simp [hs]

/-! ### Footprints (R308, R312, R313) -/

@[simp] theorem putBit_wf {world b i : Nat} {v : Bool} (hs : s.mem.wf = true) : (s.putBit world b i v).mem.wf = true := by
  unfold State.putBit
  simp [hs]

@[simp] theorem seeHurdle_wf {c : Ctx} (hs : s.mem.wf = true) : (s.seeHurdle c).mem.wf = true := by
  unfold State.seeHurdle
  exact foldl_wf (fun s i hs => seeBlock_wf hs) (seeRange_wf hs)

/-! ### Commands (R314) -/

@[simp] theorem command_mem (s : State) (c : TierCmd) : (s.command c).2.mem = s.mem := by
  unfold State.command
  dsimp only
  (repeat' split) <;> simp

@[simp] theorem tierOut_wf {c : Ctx} (hs : s.mem.wf = true) : (s.tierOut c).mem.wf = true := by
  unfold State.tierOut
  refine foldl_wf (fun s i hs => ?_) (seeRange_wf hs)
  have hb : ∀ os : List Ctx, (os.foldl (fun (s : State) (o : Ctx) =>
      (s.arrive o.world (o.bitmap + i / 8) 1).arrive o.world (o.fset + i / 8) 1) (s.seeBlock c.vdid i)).mem.wf = true :=
    fun os => foldl_wf (fun s o hs => arrive_wf (arrive_wf hs)) (seeBlock_wf hs)
  dsimp only
  split
  · exact hb _
  · split
    · exact hb _
    · rw [command_mem]
      exact hb _

@[simp] theorem tierIn_wf {c : Ctx} (hs : s.mem.wf = true) : (s.tierIn c).mem.wf = true := by
  unfold State.tierIn
  refine foldl_wf (fun s i hs => ?_) ?_
  · dsimp only
    (repeat' split) <;> simp [hs]
  · refine foldl_wf (fun s a hs => engineByte_wf hs) ?_
    refine foldl_wf (fun s i hs => putBit_wf hs) ?_
    exact foldl_wf (fun s a hs => engineByte_wf hs) (seeRange_wf hs)

/-! ### Waiters (R319) -/

@[simp] theorem tierError_wf {vdid blk : Nat} (hs : s.mem.wf = true) : (s.tierError vdid blk).mem.wf = true := by
  unfold State.tierError
  simp [hs]

@[simp] theorem passFault_wf {w : TierWait} (hs : s.mem.wf = true) : (s.passFault w).mem.wf = true := by
  unfold State.passFault
  split <;> simp [hs]

@[simp] theorem wakeAll_mem (s : State) (ws : List TierWait) : (s.wakeAll ws).mem = s.mem := by
  unfold State.wakeAll
  simp

@[simp] theorem execTierFaultOffer_wf {n : Nat} (hs : s.mem.wf = true) : OutWf (execTierFaultOffer n s) := by
  unfold execTierFaultOffer
  rw [outWf_next]
  split
  · exact hs
  · next w _ =>
    have hb := seeBlock_wf (vdid := w.vdid) (i := w.far.fpi) hs
    split
    · exact hs
    · dsimp only
      split
      · exact tierError_wf (passFault_wf hb)
      · split
        · rw [wakeAll_mem]
          exact hb
        · split
          · rw [command_mem]
            exact hb
          · exact hb

/-! ### Moves (R316, R317) -/

@[simp] theorem askAnnounce_mem (s : State) (m : Move) : (s.askAnnounce m).mem = s.mem := by
  unfold State.askAnnounce
  simp

@[simp] theorem execTierMoveStart_wf (hs : s.mem.wf = true) : OutWf (execTierMoveStart s) := by
  unfold execTierMoveStart
  rw [outWf_next]
  split
  · exact hs
  · dsimp only
    split
    · exact tierError_wf (foldl_wf (fun s w hs => passFault_wf hs) (by simp [hs]))
    · split <;> simp [hs]

@[simp] theorem setMove_mem (s : State) (m : Move) : (s.setMove m).mem = s.mem := by rfl

@[simp] theorem dropNew_mem (s : State) (m : Move) : (s.dropNew m).mem = s.mem := by
  unfold State.dropNew
  simp

@[simp] theorem announceFailed_mem (s : State) (m : Move) : (s.announceFailed m).mem = s.mem := by
  unfold State.announceFailed
  simp

@[simp] theorem execTierAnnounceAnswer_wf {n status : Nat} (hs : s.mem.wf = true) :
    OutWf (execTierAnnounceAnswer n status s) := by
  unfold execTierAnnounceAnswer
  split <;> simp [hs]

@[simp] theorem execTierFillRead_wf {n : Nat} (hs : s.mem.wf = true) : OutWf (execTierFillRead n s) := by
  unfold execTierFillRead
  dsimp only
  (repeat' split) <;> simp [hs]

@[simp] theorem execTierFillDone_wf {n : Nat} (hs : s.mem.wf = true) : OutWf (execTierFillDone n s) := by
  unfold execTierFillDone
  split <;> simp [hs]

@[simp] theorem handedOver_mem (s : State) (m : Move) : (s.handedOver m).mem = s.mem := by
  unfold State.handedOver
  simp

@[simp] theorem execTierHandoverAnswer_wf {n status : Nat} (hs : s.mem.wf = true) :
    OutWf (execTierHandoverAnswer n status s) := by
  unfold execTierHandoverAnswer
  split <;> simp [hs]

@[simp] theorem execTierMoveEnd_wf {n : Nat} (hs : s.mem.wf = true) : OutWf (execTierMoveEnd n s) := by
  unfold execTierMoveEnd
  rw [outWf_next]
  split
  · exact hs
  · next m _ =>
    have setFar : ∀ (leaf : Option Nat) (v : Bool) (t : State), t.mem.wf = true →
        (match leaf with | some l => t.setFar l v | none => t).mem.wf = true := by
      intro leaf v t ht
      cases leaf with
      | none => exact ht
      | some l => exact setFar_wf ht
    extract_lets pre left up done base s1 leaf tier s2 s3 far s4 s5
    have h1 : s1.mem.wf = true := seeBlock_wf hs
    have h3 : s3.mem.wf = true := ite_state_wf h1 (tierError_wf (wf_of_mem_eq (dropNew_mem s2 m) h1))
    have hfar : ∀ v, (far s3 v).mem.wf = true := fun v => setFar leaf v s3 h3
    have h4 : s4.mem.wf = true := ite_state_wf (setTier_wf (hfar _)) (ite_state_wf (hfar _) h3)
    have h5 : s5.mem.wf = true := ite_state_wf h4 h4
    exact ite_state_wf hs (wf_of_mem_eq (wakeAll_mem _ _) (setBusy_wf h5))

@[simp] theorem execAnnouncementRequest_wf {vdid : Nat} {op : RteOp} {pre : Prefix} {desc : BitVec 64} (hs : s.mem.wf = true) :
    OutWf (execAnnouncementRequest vdid op pre desc s) := by
  unfold execAnnouncementRequest
  (repeat' split) <;> simp [hs]

@[simp] theorem execAnnouncementTimeout_wf {n : Nat} (hs : s.mem.wf = true) : OutWf (execAnnouncementTimeout n s) := by
  unfold execAnnouncementTimeout
  (repeat' split) <;> simp [hs]

/-! ### Instructions (R320, R321) -/

@[simp] theorem blocksOf_wf {c : Ctx} {core stop fuel gva : Nat} {acc : List Nat × Bool} (hs : s.mem.wf = true) :
    (blocksOf c core stop fuel gva acc s).2.mem.wf = true := by
  induction fuel generalizing s gva acc with
  | zero => exact hs
  | succ n ih =>
    rw [blocksOf]
    split
    · exact hs
    · dsimp only
      split
      · exact ih (probe_wf hs)
      · exact ih (probe_wf hs)

@[simp] theorem rangeBlocks_wf {c : Ctx} {a b : Nat} (hs : s.mem.wf = true) : (s.rangeBlocks c a b).2.mem.wf = true := by
  unfold State.rangeBlocks
  simp [hs]

@[simp] theorem doTierRec_wf {d a b : Nat} (hs : s.mem.wf = true) : ActWf (doTierRec d a b s) := by
  unfold doTierRec
  split
  · exact hs
  · exact foldl_wf (fun s i hs => putBit_wf (putBit_wf hs)) (rangeBlocks_wf hs)

@[simp] theorem doTierHint_wf {up : Bool} {d a b : Nat} (hs : s.mem.wf = true) : ActWf (doTierHint up d a b s) := by
  unfold doTierHint
  split
  · exact hs
  · next c _ =>
    refine List.foldlRecOn (motive := fun x : State × Nat × Bool => x.1.mem.wf = true) _ _ (rangeBlocks_wf hs) fun x hx i _ => ?_
    dsimp only
    split
    · exact hx
    · (repeat' split) <;> simp [hx]

@[simp] theorem doTierQ_wf {d a : Nat} (hs : s.mem.wf = true) : ActWf (doTierQ d a s) := by
  unfold doTierQ
  split
  · exact hs
  · dsimp only
    split
    · exact probe_wf hs
    · exact arrive_wf (arrive_wf (seeBlock_wf (probe_wf hs)))

/-! ### Node words (17 R296) -/

@[simp] theorem nodeChange_wf {g : Agent} {gva fa holder : Nat} {f : Nat → Option Nat} (hs : s.mem.wf = true) :
    (engState (s.nodeChange g gva fa holder f)).mem.wf = true := by
  unfold State.nodeChange
  dsimp only
  split <;> simp [hs]

@[simp] theorem nodeAtomic_wf {g : Agent} {gva : Nat} {f : Nat → Option Nat} (hs : s.mem.wf = true) :
    (engState (s.nodeAtomic g gva f)).mem.wf = true := by
  unfold State.nodeAtomic
  refine engBind_wf (engXlate_wf hs) fun fa t ht => ?_
  dsimp only
  split
  · exact ht
  · next h _ =>
    split
    · exact ht
    · split
      · exact ht
      · split
        · exact ht
        · split
          · split
            · exact ht
            · next u hu => exact (objAccess_wf ht).of_eq hu
            · next u hu => exact nodeChange_wf ((objAccess_wf ht).of_eq hu)
          · split
            · next u hu => exact nodeChange_wf (touchPage_wf ht u hu)
            · exact ht

@[simp] theorem enterQueue_mem (s : State) (id : Nat) : (s.enterQueue id).mem = s.mem := by
  unfold State.enterQueue
  dsimp only
  split <;> simp

/-! ### Admission (17 R297-R299) -/

@[simp] theorem unnamedYet_mem (s t : State) : (s.unnamedYet t).mem = t.mem := by
  unfold State.unnamedYet
  split <;> rfl

@[simp] theorem refuseRecord_mem (s : State) (c : Ctx) (raw : Nat) : (s.refuseRecord c raw).mem = s.mem := by rfl
@[simp] theorem admittedBy_mem (s : State) (part : Nat) (launch : Bool) : (s.admittedBy part launch).mem = s.mem := by rfl

@[simp] theorem takeRecord_wf {c : Ctx} {maxpl raw : Nat} (hs : s.mem.wf = true) :
    (s.takeRecord c maxpl raw).2.mem.wf = true := by
  have queued : ∀ (p : Prop) [Decidable p] (t : State) (id : Nat), t.mem.wf = true → (if p then t.enterQueue id else t).mem.wf = true :=
    fun p _ t id ht => ite_state_wf (wf_of_mem_eq (enterQueue_mem t id) ht) ht
  unfold State.takeRecord
  dsimp only
  split
  · exact hs
  · split
    · next t ht => exact wf_of_mem_eq (unnamedYet_mem s t) (engState_wf_of_eq (nodeAtomic_wf (wf_of_mem_eq (fresh_mem s) hs)) ht)
    · next t _ _ _ _ ht => exact engState_wf_of_eq (nodeAtomic_wf (wf_of_mem_eq (fresh_mem s) hs)) ht
    · next t _ _ ht => exact engState_wf_of_eq (nodeAtomic_wf (wf_of_mem_eq (fresh_mem s) hs)) ht
    · next old t ht =>
      have ht : t.mem.wf = true := engState_wf_of_eq (nodeAtomic_wf (wf_of_mem_eq (fresh_mem s) hs)) ht
      split
      · exact ht
      · split
        · split
          · exact ht
          · exact queued _ _ _ ht
        · (repeat' split) <;> simp [ht]

/-! ### The end of a record (17 R296, R299) -/

@[simp] theorem skipError_wf {c : Ctx} {cause a : Nat} (hs : s.mem.wf = true) : (s.skipError c cause a).mem.wf = true := by
  unfold State.skipError
  simp [hs]

@[simp] theorem decSucc_wf {c : Ctx} {g : Agent} {r : LRec} {j : Nat} (hs : s.mem.wf = true) :
    (engState (s.decSucc c g r j)).mem.wf = true := by
  unfold State.decSucc
  refine engBind_wf (engLoad_wf hs) fun bs t ht => ?_
  refine engBind_wf (nodeAtomic_wf ht) fun old u hu => ?_
  rw [engState_ok]
  split
  · split
    · exact wf_of_mem_eq (enterQueue_mem u _) hu
    · exact hu
  · exact hu

@[simp] theorem decAll_wf {c : Ctx} {g : Agent} {r : LRec} {l : List Nat} (hs : s.mem.wf = true) :
    (s.decAll c g r l).mem.wf = true := by
  induction l generalizing s with
  | nil => exact wf_of_mem_eq (modRec_mem s _ _) hs
  | cons j js ih =>
    have hd := decSucc_wf (c := c) (g := g) (r := r) (j := j) hs
    rw [State.decAll]
    split
    · next t ht => exact wf_of_mem_eq (modRec_mem t _ _) (engState_wf_of_eq hd ht)
    · next t ht => exact ih (engState_wf_of_eq hd ht)
    · next t m _ a _ ht => exact ih (skipError_wf (engState_wf_of_eq hd ht))
    · next t k a ht => exact ih (skipError_wf (engState_wf_of_eq hd ht))

@[simp] theorem clearNode_wf {c : Ctx} {g : Agent} {r : LRec} (hs : s.mem.wf = true) :
    (engState (s.clearNode c g r)).mem.wf = true := by
  unfold State.clearNode
  split
  · exact hs
  · have hn := nodeAtomic_wf (g := g) (gva := c.nodeAddr r.node) (f := fun _ => some 0) hs
    have cleared : ∀ t : State, t.mem.wf = true → (t.modRec r.id (fun x => { x with cleared := true })).mem.wf = true :=
      fun t ht => wf_of_mem_eq (modRec_mem t _ _) ht
    split
    · next t ht =>
      have ht := engState_wf_of_eq hn ht
      exact ht
    · next t ht => exact cleared t (engState_wf_of_eq hn ht)
    · next t _ _ _ _ ht => exact cleared t (engState_wf_of_eq hn ht)
    · next t _ _ ht => exact cleared t (engState_wf_of_eq hn ht)

@[simp] theorem execRecordDone_wf {rec : Nat} (hs : s.mem.wf = true) : OutWf (execRecordDone rec s) := by
  unfold execRecordDone
  rw [outWf_next]
  split
  · exact hs
  · next r _ =>
    split
    · exact hs
    · split
      · exact hs
      · next c _ =>
        have hc := clearNode_wf (c := c) (g := s.launchAgent c r.part rec) (r := r) hs
        dsimp only
        split
        · next t ht => exact engState_wf_of_eq hc ht
        · next t ht => exact decAll_wf (engState_wf_of_eq hc ht)
        · next t _ _ _ _ ht => exact decAll_wf (engState_wf_of_eq hc ht)
        · next t _ _ ht => exact decAll_wf (engState_wf_of_eq hc ht)

@[simp] theorem execCompletionStore_wf {rec : Nat} (hs : s.mem.wf = true) : OutWf (execCompletionStore rec s) := by
  unfold execCompletionStore
  rw [outWf_next]
  split
  · exact hs
  · next r _ =>
    split
    · exact hs
    · extract_lets s'
      have stored := fun c w => engStore_wf (s := s') (g := s.launchAgent c r.part rec) (origin := .completion c.num r.part)
        (gva := r.cpl) (k := w) (acc := .write) (needs := []) hs
      split
      · exact hs
      · split
        · exact hs
        · split
          · next t ht => exact engState_wf_of_eq (stored _ _) ht
          · next t m _ a _ ht => exact skipError_wf (engState_wf_of_eq (stored _ _) ht)
          · next t k a ht => exact skipError_wf (engState_wf_of_eq (stored _ _) ht)
          · exact hs

/-! ### Order of service and reservation (02 R43) -/

@[simp] theorem reserve_mem (s : State) (part : Nat) : (s.reserve part).mem = s.mem := by
  unfold State.reserve
  simp

/-! ### Placement (02 R31, R33, 05 R86, 20 R361) -/

@[simp] theorem addGroup_mem (s : State) (g : Group) : (s.addGroup g).mem = s.mem := by rfl

@[simp] theorem ensureRegion_mem (s : State) (r : LRec) (core world : Nat) : (s.ensureRegion r core world).mem = s.mem := by
  unfold State.ensureRegion
  simp

@[simp] theorem ensureBars_mem (s : State) (r : LRec) (seats : List Seat) : (s.ensureBars r seats).mem = s.mem := by
  unfold State.ensureBars
  simp

@[simp] theorem dropConst_mem (s : State) (r : LRec) : (s.dropConst r).mem = s.mem := by rfl

@[simp] theorem placeNew_mem (s : State) (r : LRec) (world : Nat) (seats : List Seat) :
    (s.placeNew r world seats).mem = s.mem := by
  unfold State.placeNew
  simp

@[simp] theorem restoreItems_mem (s : State) (o : OutGroup) (core world : Nat) : (s.restoreItems o core world).mem = s.mem := by
  unfold State.restoreItems
  simp

@[simp] theorem moveBars_mem (s : State) (r : LRec) (seats : List Seat) : (s.moveBars r seats).mem = s.mem := by rfl

/-! ### The image area (19 R339) -/

@[simp] theorem placeOld_wf {r : LRec} {world : Nat} {os : List OutGroup} {seats : List Seat} (hs : s.mem.wf = true) :
    (s.placeOld r world os seats).mem.wf = true := by
  unfold State.placeOld
  dsimp only
  rw [modRec_mem]
  refine foldl_wf (fun s p hs => ?_) (by rw [moveBars_mem]; exact hs)
  rw [restoreItems_mem, addGroup_mem, ensureRegion_mem]
  dsimp only
  split
  · exact arrive_wf hs
  · exact hs

@[simp] theorem execGroupPlacement_wf {rec : Nat} {seats : List Seat} (hs : s.mem.wf = true) :
    OutWf (execGroupPlacement rec seats s) := by
  unfold execGroupPlacement
  dsimp only
  (repeat' split) <;> simp [hs]

@[simp] theorem execGangAgeExpire_wf {rec : Nat} (hs : s.mem.wf = true) : OutWf (execGangAgeExpire rec s) := by
  unfold execGangAgeExpire
  split <;> simp [hs]

/-! ### Copy nodes and the hurdle (17 R295, 18 R313) -/

@[simp] theorem execHurdlePass_wf {rec : Nat} (hs : s.mem.wf = true) : OutWf (execHurdlePass rec s) := by
  unfold execHurdlePass
  dsimp only
  (repeat' split) <;> simp [hs]

/-! ### The launch instruction (17 R301) -/

@[simp] theorem finishLaunch_wf {raw : Nat} (hs : s.mem.wf = true) : (s.finishLaunch raw).2.mem.wf = true := by
  unfold State.finishLaunch
  split
  · exact hs
  · split
    · exact hs
    · split
      · exact hs
      · have hr := fun c => takeRecord_wf (c := c) (maxpl := s.cur.trap.pl) (raw := raw) hs
        split
        · next v t ht =>
          rw [admittedBy_mem]
          exact wf_of_snd ht (hr _)
        · exact hr _

@[simp] theorem doLaunch_wf {d a : Nat} (hs : s.mem.wf = true) : ActWf (doLaunch d a s) := by
  unfold doLaunch
  dsimp only
  split
  · trivial
  · refine readLines_wf hs fun s bs hs => ?_
    split
    · exact hs
    · split
      · refine withDeferred_wf hs fun s hs => ?_
        split
        · next v t ht =>
          have ht := wf_of_snd ht (finishLaunch_wf hs)
          exact ht
        · next t ht =>
          have ht := wf_of_snd ht (finishLaunch_wf hs)
          exact ht
      · exact hs

/-! ### Work lists (17 R302, R303) -/

@[simp] theorem seeItems_wf {c : Ctx} {w : WorkList} {is : List Nat} (hs : s.mem.wf = true) :
    (s.seeItems c w is).mem.wf = true := by
  unfold State.seeItems
  simp [hs]

@[simp] theorem sendItem_mem (s : State) (c : Ctx) (op : Nat) (l : Lane) (fa v : Nat) : (s.sendItem c op l fa v).mem = s.mem := by
  unfold State.sendItem
  simp

@[simp] theorem pushItems_mem (s : State) (c : Ctx) (d n first : Nat) (items : List (Lane × Nat × Nat)) :
    (s.pushItems c d n first items).1.mem = s.mem := by
  unfold State.pushItems
  dsimp only
  split <;> simp

@[simp] theorem doWlPush_wf {d b n : Nat} (hs : s.mem.wf = true) : ActWf (doWlPush d b n s) := by
  unfold doWlPush
  dsimp only
  split
  · trivial
  · next c _ =>
    split
    · trivial
    · split
      · exact hs
      · split
        · trivial
        · have hi := fun is => seeItems_wf (c := c) (w := s.wl s.myPart n) (is := is) hs
          split
          · trivial
          · split
            · exact parkFaults_wf (hi _)
            · have hw := fun is w => wf_of_mem_eq (setWl_mem _ w) (hi is)
              split
              · split
                · next t ht => exact wf_of_fst ht (wf_of_mem_eq (pushItems_mem _ _ _ _ _ _) (hw _ _))
                · next t x ht => exact wf_of_fst ht (wf_of_mem_eq (pushItems_mem _ _ _ _ _ _) (hw _ _))
              · exact hw _ _

@[simp] theorem cancelPush_mem (s : State) (part n first : Nat) : (s.cancelPush part n first).mem = s.mem := by rfl
@[simp] theorem finishPush_mem (s : State) (part y : Nat) : (s.finishPush part y).mem = s.mem := by rfl

@[simp] theorem popInto_mem (s : State) (d : Nat) (ls : List Lane) (bs : List Byte) : (s.popInto d ls bs).mem = s.mem := by
  unfold State.popInto
  simp

@[simp] theorem doWlPop_wf {d sd n : Nat} {p : Bool} (hs : s.mem.wf = true) : ActWf (doWlPop d sd n p s) := by
  unfold doWlPop
  dsimp only
  split
  · trivial
  · next c _ =>
    split
    · trivial
    · split
      · trivial
      · split
        · exact hs
        · have hi := fun is => seeItems_wf (c := c) (w := s.wl s.myPart n) (is := is) hs
          split
          · trivial
          · split
            · exact parkFaults_wf (hi _)
            · split
              · split
                · exact fun s hs => wf_of_mem_eq (poisonBad_mem s _) hs
                · trivial
              · next u hu => exact (readEach_wf (hi _)).of_eq hu
              · next u bs stamp hu =>
                have hu : u.mem.wf = true := (readEach_wf (hi _)).of_eq hu
                exact wf_of_mem_eq (popInto_mem _ _ _ _) hu

@[simp] theorem doWlDone_wf {n : Nat} (hs : s.mem.wf = true) : ActWf (doWlDone n s) := by
  unfold doWlDone
  dsimp only
  split <;> simp [hs]

/-! ### Submission rings (17 R304-R306) -/

@[simp] theorem execRingKick_wf {ring : Fin 16} (hs : s.mem.wf = true) : OutWf (execRingKick ring s) := by
  unfold execRingKick
  simp [hs]

@[simp] theorem readRing_wf {n : Nat} (hs : s.mem.wf = true) : (s.readRing n).mem.wf = true := by
  unfold State.readRing
  dsimp only
  have ha := arrive_wf (world := 0) (a := (s.ring n).slotAt) (n := 320) hs
  have hset : ∀ (t : State) (r : Ring), t.mem.wf = true → (t.setRing n r).mem.wf = true := fun t r ht => wf_of_mem_eq (setRing_mem t n r) ht
  split
  · exact hset _ _ ha
  · split
    · split
      · exact hset _ _ ha
      · split
        · exact hset _ _ (wf_of_mem_eq (refuseRecord_mem _ _ _) ha)
        · split
          · next t ht => exact wf_of_snd ht (takeRecord_wf ha)
          · next t ht => exact hset _ _ (wf_of_mem_eq (admittedBy_mem t _ _) (wf_of_snd ht (takeRecord_wf ha)))
    · exact ite_state_wf (hset _ _ ha) (hset _ _ ha)

@[simp] theorem serveRing_wf {n : Nat} (hs : s.mem.wf = true) : (s.serveRing n).mem.wf = true := by
  unfold State.serveRing
  simp [hs]

@[simp] theorem execRingReadSlot_wf {ring : Fin 16} (hs : s.mem.wf = true) : OutWf (execRingReadSlot ring s) := by
  unfold execRingReadSlot
  simp [hs]

@[simp] theorem execRingRetry_wf {ring : Fin 16} (hs : s.mem.wf = true) : OutWf (execRingRetry ring s) := by
  unfold execRingRetry
  simp [hs]

/-! ### `exit` (08 R142, 10 R171, 16 R287) -/

@[simp] theorem doExit_wf (hs : s.mem.wf = true) : ActWf (doExit s) := by
  have leave : ∀ t : State, t.mem.wf = true → ActWf (.ok t.leaveSplit) := fun t ht => wf_of_mem_eq (leaveSplit_mem t) ht
  have deferred : (s.takeDeferred (fun _ => true) s.nextId).2.mem.wf = true := wf_of_mem_eq (takeDeferred_mem s _ _) hs
  unfold doExit
  dsimp only
  split
  · exact hs
  · split
    · exact hs
    · split
      · exact leave s hs
      · split
        · trivial
        · split
          · exact raiseEntries_wf deferred leave
          · split
            · exact hs
            · exact raiseEntries_wf deferred leave

/-! ### Leaving a slot (05 R85, 02 R33) -/

@[simp] theorem dropGroup_mem (s : State) (g : Group) : (s.dropGroup g).mem = s.mem := by
  unfold State.dropGroup
  simp

@[simp] theorem vacate_mem (s : State) (g : Group) : (s.vacate g).mem = s.mem := by
  unfold State.vacate
  simp

@[simp] theorem execBlockClearComplete_wf {n : Nat} (hs : s.mem.wf = true) : OutWf (execBlockClearComplete n s) := by
  unfold execBlockClearComplete
  simp [hs]

@[simp] theorem exitCloses_wf {vdid flat : Nat} (hs : s.mem.wf = true) : (s.exitCloses vdid flat).mem.wf = true := by
  unfold State.exitCloses
  refine foldl_wf (fun s i hs => ?_) hs
  split
  · exact ite_state_wf (closeLeaf_wf hs) hs
  · exact hs

@[simp] theorem freeBars_mem (s : State) (r : LRec) : (s.freeBars r).mem = s.mem := by rfl

/-! ### Images (19 R339, 20 R355) -/

@[simp] theorem storeImage_wf {c : Ctx} {a n : Nat} (hs : s.mem.wf = true) : (s.storeImage c a n).mem.wf = true := by
  have write : ∀ (t : State) (b : Nat) (bs : List Byte), t.mem.wf = true →
      ({ t with freeCount := t.freeCount + 1 }.engineWrite c.world b bs).mem.wf = true := fun t b bs ht => engineWrite_wf ht
  unfold State.storeImage
  exact foldl_wf (fun s i hs => write s _ _ hs) hs

@[simp] theorem writeImage_wf {uid : Nat} (hs : s.mem.wf = true) : (s.writeImage uid).mem.wf = true := by
  unfold State.writeImage
  (repeat' split) <;> simp [hs]

@[simp] theorem execGroupRelease_wf {uid : Nat} (hs : s.mem.wf = true) : OutWf (execGroupRelease uid s) := by
  unfold execGroupRelease
  dsimp only
  (repeat' split) <;> simp [hs]

/-! ### The recipe table (12 R208) -/

@[simp] theorem readRecipe_wf {g : Group} {index : Nat} (hs : s.mem.wf = true) : (s.readRecipe g index).2.mem.wf = true := by
  unfold State.readRecipe
  split
  · dsimp only
    split
    · exact hs
    · split
      · next bs t ht => exact engState_wf_of_eq (engLoad_wf hs) ht
      · next t _ _ ht => exact engState_wf_of_eq (engLoad_wf hs) ht
      · next t _ _ _ _ ht => exact engState_wf_of_eq (engLoad_wf hs) ht
      · next t ht => exact engState_wf_of_eq (engLoad_wf hs) ht
  · exact hs

/-! ### Flashback (19 R336-R338) -/

@[simp] theorem eligible_wf {g : Group} (hs : s.mem.wf = true) : (s.eligible g).2.mem.wf = true := by
  unfold State.eligible
  split
  · exact hs
  · split
    · exact hs
    · split
      · next r t ht => exact wf_of_snd ht (readRecipe_wf hs)
      · next t ht => exact wf_of_snd ht (readRecipe_wf hs)

/-! ### Leaving with an image (19 R338, R339, 16 R291) -/

@[simp] theorem takeOut_wf {g image : Group} {flash long : Bool} (hs : s.mem.wf = true) :
    (s.takeOut g image flash long).mem.wf = true := by
  unfold State.takeOut
  simp [hs]

@[simp] theorem saveFull_wf {g : Group} {long : Bool} (hs : s.mem.wf = true) : (s.saveFull g long).mem.wf = true := by
  unfold State.saveFull
  simp [hs]

@[simp] theorem flashBack_wf {g : Group} {f : Restart} (hs : s.mem.wf = true) : (s.flashBack g f).mem.wf = true := by
  unfold State.flashBack
  split <;> simp [hs]

@[simp] theorem doRcp_wf {i : Nat} (hs : s.mem.wf = true) : ActWf (doRcp i s) := by
  unfold doRcp
  dsimp only
  split
  · exact hs
  · split
    · split
      · trivial
      · split
        · next f t ht =>
          have ht := wf_of_snd ht (eligible_wf hs)
          exact flashBack_wf ht
        · next t ht => exact wf_of_snd ht (eligible_wf hs)
    · exact hs

/-! ### Long parks (19 R333, 02 R46) -/

@[simp] theorem execLongParkSwitchout_wf {rec core : Nat} (hs : s.mem.wf = true) : OutWf (execLongParkSwitchout rec core s) := by
  unfold execLongParkSwitchout
  rw [outWf_next]
  exact ite_state_wf hs (foldl_wf (fun s g hs => saveFull_wf hs) hs)

/-! ### Pre-emption (19 R334, R335) -/

@[simp] theorem execSliceEnd_wf {ctx : Nat} (hs : s.mem.wf = true) : OutWf (execSliceEnd ctx s) := by
  unfold execSliceEnd
  split <;> simp [hs]

@[simp] theorem flashStep_wf {uid : Nat} (hs : s.mem.wf = true) : (s.flashStep uid).mem.wf = true := by
  unfold State.flashStep
  split
  · exact hs
  · dsimp only
    have hg : ∀ (uid : Nat) (f : Group → Group), (s.modGroup uid f).mem.wf = true := fun uid f => wf_of_mem_eq (modGroup_mem s uid f) hs
    split
    · exact hg _ _
    · split
      · exact saveFull_wf (hg _ _)
      · split
        · next f t ht => exact flashBack_wf (wf_of_snd ht (eligible_wf (hg _ _)))
        · next t ht => exact wf_of_snd ht (eligible_wf (hg _ _))

@[simp] theorem execGraceEnd_wf {ctx : Nat} (hs : s.mem.wf = true) : OutWf (execGraceEnd ctx s) := by
  unfold execGraceEnd
  rw [outWf_next]
  split
  · exact hs
  · dsimp only
    split
    · split
      · exact hs
      · have hf : ∀ gs : List Group, (gs.foldl (fun (s : State) g => s.flashStep g.place.uid) s).mem.wf = true :=
          fun gs => foldl_wf (fun s g hs => flashStep_wf hs) hs
        exact ite_state_wf (wf_of_mem_eq (modCtx_mem _ _ _) (hf _)) (hf _)
    · exact foldl_wf (fun s g hs => saveFull_wf hs) hs
    · exact hs

@[simp] theorem execDeadlineExpire_wf {ctx : Nat} (hs : s.mem.wf = true) : OutWf (execDeadlineExpire ctx s) := by
  unfold execDeadlineExpire
  (repeat' split) <;> simp [hs]

@[simp] theorem leaveResidency_wf {c : Ctx} (hs : s.mem.wf = true) : (s.leaveResidency c).mem.wf = true := by
  unfold State.leaveResidency
  split <;> simp [hs]

@[simp] theorem execContextSwitchOut_wf {ctx : Nat} (hs : s.mem.wf = true) : OutWf (execContextSwitchOut ctx s) := by
  unfold execContextSwitchOut
  dsimp only
  (repeat' split) <;> simp [hs]

@[simp] theorem execContextResident_wf {ctx : Nat} (hs : s.mem.wf = true) : OutWf (execContextResident ctx s) := by
  unfold execContextResident
  (repeat' split) <;> simp [hs]

/-! ### The end of a forced reset (19 R337, R340, R351) -/

@[simp] theorem resetCloses_wf {vdid : Nat} (hs : s.mem.wf = true) : (s.resetCloses vdid).mem.wf = true := by
  unfold State.resetCloses
  refine foldl_wf (fun s i hs => ?_) hs
  split
  · exact hs
  · exact ite_state_wf hs (foldl_wf (fun s l hs => childArrive_wf hs) hs)

@[simp] theorem freeCtx_mem (s : State) (ctx : Nat) : (s.freeCtx ctx).mem = s.mem := by rfl

@[simp] theorem execResetComplete_wf {ctx : Nat} (hs : s.mem.wf = true) : OutWf (execResetComplete ctx s) := by
  unfold execResetComplete
  (repeat' split) <;> simp [hs]

/-! ### Links (R372-R377) -/

@[simp] theorem failLink_mem (s : State) (l : Link) : (s.failLink l).mem = s.mem := by
  unfold State.failLink
  simp

@[simp] theorem judgeLink_mem (s : State) (l : Link) : (s.judgeLink l).mem = s.mem := by
  unfold State.judgeLink
  simp

@[simp] theorem execLinkFail_wf {port link : Nat} (hs : s.mem.wf = true) : OutWf (execLinkFail port link s) := by
  unfold execLinkFail
  split <;> simp [hs]

@[simp] theorem execLaneSpare_wf {port link : Nat} (hs : s.mem.wf = true) : OutWf (execLaneSpare port link s) := by
  unfold execLaneSpare
  split <;> simp [hs]

@[simp] theorem execLinkUp_wf {port link : Nat} {auth : Bool} (hs : s.mem.wf = true) : OutWf (execLinkUp port link auth s) := by
  unfold execLinkUp
  simp [hs]

@[simp] theorem execSessionRekey_wf {port link : Nat} (hs : s.mem.wf = true) : OutWf (execSessionRekey port link s) := by
  unfold execSessionRekey
  split <;> simp [hs]

/-! ### Flits and packets (R372) -/

@[simp] theorem takePacket_mem (s : State) (port : Nat) (p : Packet) : (s.takePacket port p).mem = s.mem := by
  unfold State.takePacket
  simp

@[simp] theorem execFlitReceive_wf {port link : Nat} {flit : Flit} (hs : s.mem.wf = true) :
    OutWf (execFlitReceive port link flit s) := by
  unfold execFlitReceive
  split <;> simp [hs]

/-! ### The host's accesses (R370, R371) -/

@[simp] theorem serveSnoop_wf {ln : Nat} {data : Option (List Byte)} (hs : s.mem.wf = true) :
    (s.serveSnoop ln data).mem.wf = true := by
  unfold State.serveSnoop
  dsimp only
  have hd : ((s.voidLine (s.localId 0) ln).dropL2 0 ln).mem.wf = true :=
    wf_of_mem_eq (dropL2_mem _ _ _) (wf_of_mem_eq (voidLine_mem _ _ _) hs)
  split
  · exact hd
  · exact unitApply_wf hd fun id s hs => wf_of_mem_eq (sendEchoes_mem _ _ _ _ _ _ _) (putN_wf _ _ hs)

@[simp] theorem trySnoops_wf {l l' : List (Nat × Option (List Byte))} (hs : s.mem.wf = true) :
    (s.trySnoops l l').mem.wf = true := by
  induction l' generalizing l with
  | nil => cases l <;> exact hs
  | cons x xs ih =>
    rw [State.trySnoops]
    exact ite_state_wf ih (serveSnoop_wf hs)

@[simp] theorem execHostSnoop_wf {line : Nat} {data : Option (List (BitVec 8))} (hs : s.mem.wf = true) :
    OutWf (execHostSnoop line data s) := by
  unfold execHostSnoop
  simp [hs]

@[simp] theorem hostGate_wf {o : ObjEntry} {fa : Nat} (hs : s.mem.wf = true) : ObjGateWf (s.hostGate o fa) := by
  unfold State.hostGate
  (repeat' split) <;> simp [hs]

@[simp] theorem serveHost_wf {req : HostReq} (hs : s.mem.wf = true) : OptWf (s.serveHost req) := by
  unfold State.serveHost
  extract_lets a room bad
  have hbad : ∀ t : State, t.mem.wf = true → (bad t).mem.wf = true := by
    intro t ht
    cases req <;> exact ht
  split
  · exact optWf_some.mpr (hbad s hs)
  · next h _ =>
    split
    · exact optWf_some.mpr (hbad s hs)
    · split
      · exact optWf_none
      · extract_lets act
        have hact : ∀ t : State, t.mem.wf = true → (act t).mem.wf = true := by
          intro t ht
          cases req with
          | read a n => exact wf_of_mem_eq (unitRead_mem t _ _) ht
          | write a bs => exact unitWrite_wf ht
        split
        · exact optWf_some.mpr (hact s hs)
        · split
          · exact optWf_some.mpr (hbad s hs)
          · exact optWf_none
          · next t ht => exact optWf_some.mpr (hact t ((hostGate_wf hs).of_eq ht))

@[simp] theorem tryHost_wf (hs : s.mem.wf = true) : s.tryHost.mem.wf = true := by
  unfold State.tryHost
  split
  · exact hs
  · split
    · next t ht => exact serveHost_wf hs t ht
    · split
      · split
        · next t ht => exact (hostGate_wf hs).of_eq ht
        · exact hs
      · exact hs

@[simp] theorem execHostMemRequest_wf {req : HostReq} (hs : s.mem.wf = true) : OutWf (execHostMemRequest req s) := by
  unfold execHostMemRequest
  simp [hs]

/-! ### Boot (R381, R387) -/

@[simp] theorem powerCycle_wf {pkg : Nat} (hs : s.mem.wf = true) : (s.powerCycle pkg).mem.wf = true := by
  unfold State.powerCycle
  exact filter_wf _ hs

def SameMem (s t : State) : Prop := t.mem = s.mem

theorem foldl_sameMem {α : Type} {f : State → α → State} (hf : ∀ s a, SameMem s (f s a)) (l : List α) (s : State) :
    SameMem s (l.foldl f s) := foldl_mem hf l s

theorem rteAnn_sameMem (s : State) (a d : Nat) : SameMem s (s.rteAnn a d).2 := rteAnn_mem s a d

theorem announceStacks_sameMem (s : State) : SameMem s s.announceStacks := by
  rw [State.announceStacks]
  exact foldl_sameMem (fun s n => rteAnn_sameMem s _ _) _ _

@[simp] theorem announceStacks_mem (s : State) : s.announceStacks.mem = s.mem :=
  announceStacks_sameMem s

@[simp] theorem execPowerOn_wf {images : List FwImage} {pkg : BitVec 16} (hs : s.mem.wf = true) :
    OutWf (execPowerOn images pkg s) := by
  unfold execPowerOn
  simp [hs]

/-! ### Worlds (R383) -/

@[simp] theorem retire_mem (s : State) (base len : Nat) : (s.retire base len).mem = s.mem := by
  unfold State.retire
  dsimp only
  refine foldl_mem (fun s x => ?_) _ _
  (repeat' split) <;> simp

@[simp] theorem voidRange_wf {inside : Nat → Bool} (hs : s.mem.wf = true) : (s.voidRange inside).mem.wf = true := by
  unfold State.voidRange
  exact wf_of_mem_eq (foldl_mem (fun s x => dropFrom_mem s _ _ _) _ _) hs

@[simp] theorem retag_wf {base len world : Nat} (hs : s.mem.wf = true) : (s.retag base len world).mem.wf = true := by
  unfold State.retag
  exact filter_wf _ (voidRange_wf (wf_of_mem_eq (retire_mem s _ _) hs))

/-! ### The mailbox (R384, R385) -/

@[simp] theorem reply_mem (s : State) (c : MboxCmd) (status : Nat) (rsp : List Byte) :
    (s.reply c status rsp).mem = s.mem := by rfl

@[simp] theorem mailbox_wf (hs : s.mem.wf = true) {c : MboxCmd} {n : Nat} {act : State → List Byte → Nat × List Byte × State}
    (ha : ∀ (s : State) bs, s.mem.wf = true → (act s bs).2.2.mem.wf = true) :
    (s.mailbox c n act).mem.wf = true := by
  unfold State.mailbox
  split
  · exact hs
  · exact ite_state_wf (wf_of_mem_eq (reply_mem _ _ _ _) (ha s _ hs)) (wf_of_mem_eq (reply_mem _ _ _ _) hs)

@[simp] theorem execMailboxBadCmd_wf {cmd : MboxCmd} (hs : s.mem.wf = true) : OutWf (execMailboxBadCmd cmd s) := by
  unfold execMailboxBadCmd
  simp [hs]

@[simp] theorem execAttest_wf {cmd : MboxCmd} (hs : s.mem.wf = true) : OutWf (execAttest cmd s) := by
  unfold execAttest
  simp [hs]

@[simp] theorem execWorldCreate_wf {cmd : MboxCmd} (hs : s.mem.wf = true) : OutWf (execWorldCreate cmd s) := by
  unfold execWorldCreate
  rw [outWf_next]
  refine mailbox_wf hs fun s r hs => ?_
  dsimp only
  split
  · exact hs
  · split <;> exact hs

@[simp] theorem execWorldGrant_wf {cmd : MboxCmd} (hs : s.mem.wf = true) : OutWf (execWorldGrant cmd s) := by
  unfold execWorldGrant
  rw [outWf_next]
  refine mailbox_wf hs fun s r hs => ?_
  split
  · exact hs
  · dsimp only
    split
    · exact hs
    · split
      · exact hs
      · split
        · exact hs
        · exact retag_wf hs

@[simp] theorem execWorldRevoke_wf {cmd : MboxCmd} (hs : s.mem.wf = true) : OutWf (execWorldRevoke cmd s) := by
  unfold execWorldRevoke
  rw [outWf_next]
  refine mailbox_wf hs fun s r hs => ?_
  split
  · exact hs
  · dsimp only
    split
    · exact hs
    · split
      · exact hs
      · exact retag_wf hs

@[simp] theorem execWorldDestroy_wf {cmd : MboxCmd} (hs : s.mem.wf = true) : OutWf (execWorldDestroy cmd s) := by
  unfold execWorldDestroy
  rw [outWf_next]
  refine mailbox_wf hs fun s r hs => ?_
  dsimp only
  (repeat' split) <;> exact hs

@[simp] theorem execPartSet_wf {cmd : MboxCmd} (hs : s.mem.wf = true) : OutWf (execPartSet cmd s) := by
  unfold execPartSet
  rw [outWf_next]
  refine mailbox_wf hs fun s r hs => ?_
  dsimp only
  split
  · exact hs
  · exact wf_of_mem_eq (writePart_mem s _ _) hs

@[simp] theorem bindVdid_mem (s : State) (vdid part : Nat) : (s.bindVdid vdid part).mem = s.mem := by rfl

@[simp] theorem execCtxCreate_wf {cmd : MboxCmd} (hs : s.mem.wf = true) : OutWf (execCtxCreate cmd s) := by
  unfold execCtxCreate
  rw [outWf_next]
  refine mailbox_wf hs fun s r hs => ?_
  dsimp only
  split
  · exact hs
  · split
    · exact hs
    · split
      · exact hs
      · split
        · exact hs
        · exact ite_state_wf hs (wf_of_mem_eq (bindVdid_mem s _ _) hs)

@[simp] theorem execCtxDestroy_wf {cmd : MboxCmd} (hs : s.mem.wf = true) : OutWf (execCtxDestroy cmd s) := by
  unfold execCtxDestroy
  rw [outWf_next]
  refine mailbox_wf hs fun s r hs => ?_
  dsimp only
  split
  · exact hs
  · split
    · exact wf_of_mem_eq (freeCtx_mem s _) hs
    · exact wf_of_mem_eq (modCtx_mem _ _ _) (ite_state_wf (resetContext_wf hs) hs)

@[simp] theorem execCtxPreempt_wf {cmd : MboxCmd} (hs : s.mem.wf = true) : OutWf (execCtxPreempt cmd s) := by
  unfold execCtxPreempt
  rw [outWf_next]
  refine mailbox_wf hs fun s r hs => ?_
  dsimp only
  split
  · exact hs
  · split
    · exact wf_of_mem_eq (beginPreempt_mem s _) hs
    · exact hs

@[simp] theorem execRingSet_wf {cmd : MboxCmd} (hs : s.mem.wf = true) : OutWf (execRingSet cmd s) := by
  unfold execRingSet
  rw [outWf_next]
  refine mailbox_wf hs fun s r hs => ?_
  dsimp only
  split
  · exact hs
  · exact wf_of_mem_eq (writeRingCtl_mem _ _ _) (wf_of_mem_eq (writeRingBase_mem s _ _) hs)

@[simp] theorem execRingKey_wf {cmd : MboxCmd} (hs : s.mem.wf = true) : OutWf (execRingKey cmd s) := by
  unfold execRingKey
  rw [outWf_next]
  refine mailbox_wf hs fun s r hs => ?_
  dsimp only
  split
  · exact hs
  · split
    · exact hs
    · simp [hs]

/-! ### Power and cooling (R388-R391) -/

@[simp] theorem execPowerCompare_wf {avg : BitVec 16} {temp : Int} {flowLow wholeWindow : Bool} (hs : s.mem.wf = true) :
    OutWf (execPowerCompare avg temp flowLow wholeWindow s) := by
  unfold execPowerCompare
  dsimp only
  split <;> simp [hs]

/-! ### Tray (R392) -/

@[simp] theorem execTrayQuiesce_wf (hs : s.mem.wf = true) : OutWf (execTrayQuiesce s) := by
  unfold execTrayQuiesce
  simp [hs]

@[simp] theorem execTrayPowerOff_wf (hs : s.mem.wf = true) : OutWf (execTrayPowerOff s) := by
  unfold execTrayPowerOff
  simp [hs]

@[simp] theorem execTrayInsert_wf (hs : s.mem.wf = true) : OutWf (execTrayInsert s) := by
  unfold execTrayInsert
  simp [hs]

/-! ### Wear (R394) -/

@[simp] theorem execWearUpdate_wf {index : Fin 32} {eol : BitVec 16} {used spare : BitVec 8} (hs : s.mem.wf = true) :
    OutWf (execWearUpdate index eol used spare s) := by
  unfold execWearUpdate
  simp [hs]

/-! ### Soft errors and audits (05 R92, 13 R227-R229, 16 R290) -/

@[simp] theorem corrupt_mem (s : State) (site : ErrSite) : (s.corrupt site).mem = s.mem := by
  unfold State.corrupt
  dsimp only
  split <;> simp

@[simp] theorem execSoftError_wf {site : ErrSite} {single : Bool} (hs : s.mem.wf = true) :
    OutWf (execSoftError site single s) := by
  unfold execSoftError
  simp [hs]

@[simp] theorem execDramLineAltered_wf {ctl line : Nat} {bytes : List (BitVec 8)} {stamp : Nat} (hs : s.mem.wf = true) :
    OutWf (execDramLineAltered ctl line bytes stamp s) := by
  unfold execDramLineAltered
  rw [outWf_next]
  refine wf_of_mem_eq (setLine_mem _ _) ?_
  have base : ∀ (c : Prop) [Decidable c] (t : State), t.mem = s.mem → (if c then s else t).mem.wf = true :=
    fun c _ t ht => ite_state_wf hs (wf_of_mem_eq ht hs)
  exact ite_state_wf (base _ _ rfl) (putN_wf _ _ (base _ _ rfl))

@[simp] theorem execAuditIntervalEnd_wf {ctl world : Nat} (hs : s.mem.wf = true) : OutWf (execAuditIntervalEnd ctl world s) := by
  have sweep : ∀ (h : Nat) (ls : List LineMeta), (ls.foldl (fun (s : State) (l : LineMeta) => s.dramRead h (l.key % 2 ^ 64)) s).mem.wf = true :=
    fun h ls => wf_of_mem_eq (foldl_mem (fun s l => dramRead_mem s _ _) ls s) hs
  unfold execAuditIntervalEnd
  rw [outWf_next]
  split
  · exact hs
  · exact ite_state_wf hs (ite_state_wf (sweep _ _) (foldl_wf (fun s n hs => resetContext_wf hs) (errorRecord_wf (sweep _ _))))

/-! ### Time (00 R6, 02 R37) -/

@[simp] theorem advance_mem (s : State) (n : Nat) : (s.advance n).mem = s.mem := by rfl

@[simp] theorem alignCycle_mem (s : State) : s.alignCycle.mem = s.mem := by
  unfold State.alignCycle
  simp

@[simp] theorem nextTurn_mem (s : State) : s.nextTurn.mem = s.mem := by
  unfold State.nextTurn
  dsimp only
  split <;> simp

/-! ### Multi-turn results (02 R41, 06 R107, 20 R353) -/

@[simp] theorem landBefore_mem (s : State) (cycle : Nat) : (s.landBefore cycle).mem = s.mem := by
  unfold State.landBefore
  simp

@[simp] theorem showDue_mem (s : State) : s.showDue.mem = s.mem := by
  unfold State.showDue
  simp

@[simp] theorem asGroup_wf (hs : s.mem.wf = true) {uid : Nat} {f : State → State}
    (hf : ∀ s : State, s.mem.wf = true → (f s).mem.wf = true) :
    (s.asGroup uid f).mem.wf = true := by
  unfold State.asGroup
  split
  · exact hf s hs
  · split
    · exact hs
    · exact hf _ hs

@[simp] theorem execMultiTurnComplete_wf {uid n : Nat} (hs : s.mem.wf = true) : OutWf (execMultiTurnComplete uid n s) := by
  unfold execMultiTurnComplete
  rw [outWf_next]
  refine asGroup_wf hs fun s hs => ?_
  split
  · exact hs
  · exact ite_state_wf hs (wf_of_mem_eq (completeResult_mem s _) hs)

/-! ### Held splits (02 R39) -/

@[simp] theorem forSplit_mem (s : State) (i : Fin 4) : (s.forSplit i).mem = s.mem := by rfl

/-! ### The watchdog (20 R357) -/

@[simp] theorem settleHeld_wf (hs : s.mem.wf = true) {i : Fin 4} {p : OpKind → Bool} {n : Nat} {k : State → State}
    (hk : ∀ s : State, s.mem.wf = true → (k s).mem.wf = true) :
    (s.settleHeld i p n k).mem.wf = true := by
  have hs : (s.forSplit i).mem.wf = true := hs
  unfold State.settleHeld
  dsimp only
  split
  · exact hk _ hs
  · next es t ht =>
    have ht := wf_of_snd ht (wf_of_mem_eq (takeDeferred_mem _ _ _) hs)
    exact ite_state_wf (hk _ (takeTraps_wf ht)) (takeTraps_wf ht)

@[simp] theorem foldSwitch_wf {op : HeldOp} (hs : s.mem.wf = true) : (s.foldSwitch op).mem.wf = true := by
  unfold State.foldSwitch
  refine foldl_wf (fun s e hs => ?_) hs
  split
  · exact foldPartial_wf hs
  · exact hs

@[simp] theorem performHeld_wf {i : Fin 4} {op : HeldOp} (hs : s.mem.wf = true) : (s.performHeld i op).mem.wf = true := by
  unfold State.performHeld
  dsimp only
  (repeat' split) <;> simp [hs]

@[simp] theorem goSwitch_wf {i : Fin 4} {obj tag before : Nat} {op : HeldOp} (hs : s.mem.wf = true) :
    (s.goSwitch i obj tag before op).mem.wf = true := by
  unfold State.goSwitch
  dsimp only
  (repeat' split) <;> simp [hs]

@[simp] theorem completeHeld_wf {i : Fin 4} (hs : s.mem.wf = true) : (s.completeHeld i).mem.wf = true := by
  have answer : ∀ (t : State) (d : Nat) (v : DWord), t.mem.wf = true → (t.answer s.cur.place.uid i d v).mem.wf = true :=
    fun t d v ht => wf_of_mem_eq (answer_mem t _ _ _ _) ht
  have release : ∀ t : State, t.mem.wf = true → (t.release i).mem.wf = true := fun t ht => wf_of_mem_eq (release_mem t i) ht
  have split : (s.forSplit i).mem.wf = true := hs
  unfold State.completeHeld
  dsimp only
  split
  · exact hs
  · split
    · exact ite_state_wf (settleHeld_wf hs fun s hs => wf_of_mem_eq (release_mem s i) hs) hs
    · exact ite_state_wf (release s hs) hs
    · exact ite_state_wf (performHeld_wf hs) hs
    · split
      · exact hs
      · split
        · generalize s.obj? _ = o
          cases o with
          | none => exact trapExact_wf split
          | some x => exact ite_state_wf (trapExact_wf split) (performHeld_wf hs)
        · exact performHeld_wf hs
    · exact goSwitch_wf hs
    · split
      · split
        · exact hs
        · split
          · next t ht => exact release t (wf_of_fst ht (wf_of_mem_eq (pushItems_mem _ _ _ _ _ _) split))
          · next t w ht =>
            have ht := wf_of_fst ht (wf_of_mem_eq (pushItems_mem _ _ _ _ _ _) split)
            exact ht
      · exact hs
    · exact ite_state_wf (release _ (wf_of_mem_eq (freeItems_mem s _ _ _ _) hs)) hs
    · exact ite_state_wf (release _ (wf_of_mem_eq (freeItems_mem s _ _ _ _) hs)) hs
    · exact ite_state_wf (answer _ _ _ (finishClose_wf hs)) hs
    · split
      · exact hs
      · split
        · generalize s.obj? _ = o
          cases o with
          | none => exact hs
          | some o => exact wf_of_mem_eq (askAway_mem s o []) hs
        · split <;> exact answer _ _ _ (finishSync_wf hs)
    · split
      · refine settleHeld_wf hs fun s hs => ?_
        split
        · next v t ht => exact answer t _ _ (wf_of_snd ht (finishLaunch_wf hs))
        · next t ht => exact wf_of_snd ht (finishLaunch_wf hs)
      · exact hs
    · exact ite_state_wf (answer _ _ _ (wf_of_mem_eq (finishPush_mem s _ _) hs)) hs
    · exact hs

/-! ### Before the word (19 R326, R331) -/

@[simp] theorem deliverWaiting_wf (hs : s.mem.wf = true) : s.deliverWaiting.mem.wf = true := by
  unfold State.deliverWaiting
  simp [hs]

@[simp] theorem takeGiven_wf (hs : s.mem.wf = true) : s.takeGiven.mem.wf = true := by
  unfold State.takeGiven
  split <;> simp [hs]

@[simp] theorem startTurn_wf (hs : s.mem.wf = true) : s.startTurn.mem.wf = true := by
  unfold State.startTurn
  exact takeGiven_wf (deliverWaiting_wf (foldl_wf (fun s i hs => completeHeld_wf hs) (wf_of_mem_eq (showDue_mem _)
    (wf_of_mem_eq (landBefore_mem _ _) (wf_of_mem_eq (alignCycle_mem s) hs)))))

/-! ### Time-outs (20 R357) -/

@[simp] theorem leaveBar_mem (s : State) (level : Nat) : (s.leaveBar level).mem = s.mem := by
  unfold State.leaveBar
  dsimp only
  split <;> simp

@[simp] theorem timedOut_mem (s : State) (i : Fin 4) : (s.timedOut i).2.mem = s.mem := by rfl

@[simp] theorem timeOut_wf (hs : s.mem.wf = true) : s.timeOut.mem.wf = true := by
  unfold State.timeOut
  extract_lets is
  split
  next es t ht =>
    have ht := wf_of_snd ht (List.foldlRecOn (motive := fun x : List TrapEntry × State => x.2.mem.wf = true) is _ hs
      fun x hx i _ => wf_of_mem_eq (timedOut_mem x.2 i) hx)
    have hl : ∀ f : Ctl → Ctl, (((is.foldl State.refund (is.foldl (fun (s : State) i => match (s.cur.ctl.split i).wait with
        | .bar l _ true => s.leaveBar l
        | .push _ n first _ _ => s.cancelPush s.myPart n first
        | _ => s) t)).modCtl f)).mem.wf = true := by
      intro f
      rw [State.modCtl_mem, foldl_mem refund_mem, foldl_mem]
      · exact ht
      · intro s i
        split
        · exact leaveBar_mem s _
        · exact cancelPush_mem s _ _ _
        · rfl
    dsimp only
    clear_value is
    split
    · exact hl _
    · exact takeTraps_wf (wf_of_mem_eq (forSplit_mem _ _) (hl _))

@[simp] theorem execStallTimeout_wf {uid : Nat} {split : Fin 4} (hs : s.mem.wf = true) :
    OutWf (execStallTimeout uid split s) := by
  unfold execStallTimeout
  simp [hs]

/-! ### After the word -/

@[simp] theorem countWaits_mem (s : State) : s.countWaits.mem = s.mem := by
  unfold State.countWaits
  simp

@[simp] theorem endTurn_mem (s : State) (issued : Option (Fin 4)) : (s.endTurn issued).mem = s.mem := by
  unfold State.endTurn
  dsimp only
  split <;> simp

@[simp] theorem execGroupTurn_wf (hs : s.mem.wf = true) : OutWf (execGroupTurn s) := by
  unfold execGroupTurn
  simp [hs]

theorem exec_wf {i : Instr} (hs : s.mem.wf = true) : OutWf (exec i s) := by
  cases i with
  | sadd => exact issue_wf hs fun s hs => scalarRR_wf hs
  | ssub => exact issue_wf hs fun s hs => scalarRR_wf hs
  | smullo => exact issue_wf hs fun s hs => scalarRR_wf hs
  | smulhiS => exact issue_wf hs fun s hs => scalarRR_wf hs
  | smulhiU => exact issue_wf hs fun s hs => scalarRR_wf hs
  | smad => exact issue_wf hs fun s hs => scalarRR_wf hs
  | sminS => exact issue_wf hs fun s hs => scalarRR_wf hs
  | sminU => exact issue_wf hs fun s hs => scalarRR_wf hs
  | smaxS => exact issue_wf hs fun s hs => scalarRR_wf hs
  | smaxU => exact issue_wf hs fun s hs => scalarRR_wf hs
  | saddsS => exact issue_wf hs fun s hs => scalarSat_wf hs
  | saddsU => exact issue_wf hs fun s hs => scalarSat_wf hs
  | saddc => exact issue_wf hs fun s hs => scalarPair_wf hs
  | ssubb => exact issue_wf hs fun s hs => scalarPair_wf hs
  | sabs => exact issue_wf hs fun s hs => scalarRR_wf hs
  | sneg => exact issue_wf hs fun s hs => scalarRR_wf hs
  | sand => exact issue_wf hs fun s hs => scalarRR_wf hs
  | sor => exact issue_wf hs fun s hs => scalarRR_wf hs
  | sxor => exact issue_wf hs fun s hs => scalarRR_wf hs
  | sandn => exact issue_wf hs fun s hs => scalarRR_wf hs
  | snot => exact issue_wf hs fun s hs => scalarRR_wf hs
  | sshl => exact issue_wf hs fun s hs => scalarRR_wf hs
  | sshr => exact issue_wf hs fun s hs => scalarRR_wf hs
  | ssar => exact issue_wf hs fun s hs => scalarRR_wf hs
  | srot => exact issue_wf hs fun s hs => scalarRR_wf hs
  | sclz => exact issue_wf hs fun s hs => scalarRR_wf hs
  | spop => exact issue_wf hs fun s hs => scalarRR_wf hs
  | sbrev => exact issue_wf hs fun s hs => scalarRR_wf hs
  | sbfeU => exact issue_wf hs fun s hs => scalarRR_wf hs
  | sbfeS => exact issue_wf hs fun s hs => scalarRR_wf hs
  | sbfi => exact issue_wf hs fun s hs => scalarRR_wf hs
  | sunpack => exact issue_wf hs fun s hs => scalarRR_wf hs
  | scmp => exact issue_wf hs fun s hs => scalarRR_wf hs
  | smov => exact issue_wf hs fun s hs => scalarRR_wf hs
  | sext8S => exact issue_wf hs fun s hs => scalarRR_wf hs
  | sext8U => exact issue_wf hs fun s hs => scalarRR_wf hs
  | sext16S => exact issue_wf hs fun s hs => scalarRR_wf hs
  | sext16U => exact issue_wf hs fun s hs => scalarRR_wf hs
  | slea => exact issue_wf hs fun s hs => hs
  | ssel => exact issue_wf hs fun s hs => scalarRR_wf hs
  | spack => exact issue_wf hs fun s hs => scalarRR_wf hs
  | saddImm => exact issue_wf hs fun s hs => scalarRI_wf hs
  | sandImm => exact issue_wf hs fun s hs => scalarRI_wf hs
  | sorImm => exact issue_wf hs fun s hs => scalarRI_wf hs
  | sxorImm => exact issue_wf hs fun s hs => scalarRI_wf hs
  | sshlImm => exact issue_wf hs fun s hs => scalarRI_wf hs
  | sshrImm => exact issue_wf hs fun s hs => scalarRI_wf hs
  | ssarImm => exact issue_wf hs fun s hs => scalarRI_wf hs
  | smovi => exact issue_wf hs fun s hs => scalarRI_wf hs
  | sdivS => exact issue_wf hs fun s hs => scalarDiv_wf hs
  | sdivU => exact issue_wf hs fun s hs => scalarDiv_wf hs
  | sremS => exact issue_wf hs fun s hs => scalarDiv_wf hs
  | sremU => exact issue_wf hs fun s hs => scalarDiv_wf hs
  | vadd => exact issue_wf hs fun s hs => vectorRR_wf hs
  | vsub => exact issue_wf hs fun s hs => vectorRR_wf hs
  | vmullo => exact issue_wf hs fun s hs => vectorRR_wf hs
  | vmulhiS => exact issue_wf hs fun s hs => vectorRR_wf hs
  | vmulhiU => exact issue_wf hs fun s hs => vectorRR_wf hs
  | vmad => exact issue_wf hs fun s hs => vectorRR_wf hs
  | vminS => exact issue_wf hs fun s hs => vectorRR_wf hs
  | vminU => exact issue_wf hs fun s hs => vectorRR_wf hs
  | vmaxS => exact issue_wf hs fun s hs => vectorRR_wf hs
  | vmaxU => exact issue_wf hs fun s hs => vectorRR_wf hs
  | vaddsS => exact issue_wf hs fun s hs => vectorSat_wf hs
  | vaddsU => exact issue_wf hs fun s hs => vectorSat_wf hs
  | vabs => exact issue_wf hs fun s hs => vectorRR_wf hs
  | vneg => exact issue_wf hs fun s hs => vectorRR_wf hs
  | vsel => exact issue_wf hs fun s hs => vectorRR_wf hs
  | vmov => exact issue_wf hs fun s hs => vectorRR_wf hs
  | vand => exact issue_wf hs fun s hs => vectorRR_wf hs
  | vor => exact issue_wf hs fun s hs => vectorRR_wf hs
  | vxor => exact issue_wf hs fun s hs => vectorRR_wf hs
  | vandn => exact issue_wf hs fun s hs => vectorRR_wf hs
  | vnot => exact issue_wf hs fun s hs => vectorRR_wf hs
  | vshl => exact issue_wf hs fun s hs => vectorRR_wf hs
  | vshr => exact issue_wf hs fun s hs => vectorRR_wf hs
  | vsar => exact issue_wf hs fun s hs => vectorRR_wf hs
  | vrot => exact issue_wf hs fun s hs => vectorRR_wf hs
  | vclz => exact issue_wf hs fun s hs => vectorRR_wf hs
  | vpop => exact issue_wf hs fun s hs => vectorRR_wf hs
  | vbrev => exact issue_wf hs fun s hs => vectorRR_wf hs
  | vbfeU => exact issue_wf hs fun s hs => vectorRR_wf hs
  | vbfeS => exact issue_wf hs fun s hs => vectorRR_wf hs
  | vbfi => exact issue_wf hs fun s hs => vectorRR_wf hs
  | vlea => exact issue_wf hs fun s hs => hs
  | vcmp => exact issue_wf hs fun s hs => wf_of_mem_eq (State.setKreg_mem s _ _) hs
  | vext8S => exact issue_wf hs fun s hs => vectorRR_wf hs
  | vext8U => exact issue_wf hs fun s hs => vectorRR_wf hs
  | vext16S => exact issue_wf hs fun s hs => vectorRR_wf hs
  | vext16U => exact issue_wf hs fun s hs => vectorRR_wf hs
  | vpack => exact issue_wf hs fun s hs => vectorRR_wf hs
  | vunpack => exact issue_wf hs fun s hs => vectorRR_wf hs
  | vaddImm => exact issue_wf hs fun s hs => vectorRI_wf hs
  | vandImm => exact issue_wf hs fun s hs => vectorRI_wf hs
  | vorImm => exact issue_wf hs fun s hs => vectorRI_wf hs
  | vxorImm => exact issue_wf hs fun s hs => vectorRI_wf hs
  | vshlImm => exact issue_wf hs fun s hs => vectorRI_wf hs
  | vshrImm => exact issue_wf hs fun s hs => vectorRI_wf hs
  | vsarImm => exact issue_wf hs fun s hs => vectorRI_wf hs
  | vmovi => exact issue_wf hs fun s hs => vectorRI_wf hs
  | vdivS => exact issue_wf hs fun s hs => vectorDiv_wf hs
  | vdivU => exact issue_wf hs fun s hs => vectorDiv_wf hs
  | vremS => exact issue_wf hs fun s hs => vectorDiv_wf hs
  | vremU => exact issue_wf hs fun s hs => vectorDiv_wf hs
  | vfadd => exact issue_wf hs fun s hs => vecF_wf hs
  | vfsub => exact issue_wf hs fun s hs => vecF_wf hs
  | vfmul => exact issue_wf hs fun s hs => vecF_wf hs
  | vfma => exact issue_wf hs fun s hs => vecF_wf hs
  | vfms => exact issue_wf hs fun s hs => vecF_wf hs
  | vfnma => exact issue_wf hs fun s hs => vecF_wf hs
  | vfminNum => exact issue_wf hs fun s hs => vecF_wf hs
  | vfminProp => exact issue_wf hs fun s hs => vecF_wf hs
  | vfmaxNum => exact issue_wf hs fun s hs => vecF_wf hs
  | vfmaxProp => exact issue_wf hs fun s hs => vecF_wf hs
  | vfabs => exact issue_wf hs fun s hs => vecF_wf hs
  | vfneg => exact issue_wf hs fun s hs => vecF_wf hs
  | vfscale => exact issue_wf hs fun s hs => vecF_wf hs
  | vfround => exact issue_wf hs fun s hs => vecF_wf hs
  | vfclass => exact issue_wf hs fun s hs => vecF_wf hs
  | vfcmp => exact issue_wf hs fun s hs => wf_of_mem_eq (State.setKreg_mem s _ _) hs
  | vcvt => exact issue_wf hs fun s hs => vecCvt_wf hs
  | vpkE4m3 => exact issue_wf hs fun s hs => vecPack_wf hs
  | vpkE5m2 => exact issue_wf hs fun s hs => vecPack_wf hs
  | vpkIo4 => exact issue_wf hs fun s hs => vecPackIo4_wf hs
  | vunpkE4m3 => exact issue_wf hs fun s hs => vecUnpack_wf hs
  | vunpkE5m2 => exact issue_wf hs fun s hs => vecUnpack_wf hs
  | vunpkIo4 => exact issue_wf hs fun s hs => vecUnpackIo4_wf hs
  | vhaddF16 => exact issue_wf hs fun s hs => vecSr_wf hs
  | vhaddBf16 => exact issue_wf hs fun s hs => vecSr_wf hs
  | vhmulF16 => exact issue_wf hs fun s hs => vecSr_wf hs
  | vhmulBf16 => exact issue_wf hs fun s hs => vecSr_wf hs
  | vhfmaF16 => exact issue_wf hs fun s hs => vecSr_wf hs
  | vhfmaBf16 => exact issue_wf hs fun s hs => vecSr_wf hs
  | vfrcp => exact issue_wf hs fun s hs => vecFunc_wf hs
  | vfrsq => exact issue_wf hs fun s hs => vecFunc_wf hs
  | vfsqrt => exact issue_wf hs fun s hs => vecFunc_wf hs
  | vfexp2 => exact issue_wf hs fun s hs => vecFunc_wf hs
  | vflog2 => exact issue_wf hs fun s hs => vecFunc_wf hs
  | vfsin => exact issue_wf hs fun s hs => vecFunc_wf hs
  | vfcos => exact issue_wf hs fun s hs => vecFunc_wf hs
  | vfdot2Bf16 => exact issue_wf hs fun s hs => vecDot_wf hs
  | vfdot4Fp8 => exact issue_wf hs fun s hs => vecDot_wf hs
  | vshuf => exact issue_wf hs fun s hs => vecLater_wf hs
  | vlrot => exact issue_wf hs fun s hs => vecLater_wf hs
  | vscan => exact issue_wf hs fun s hs => vecScan_wf hs
  | vscanExcl => exact issue_wf hs fun s hs => vecScan_wf hs
  | vred => exact issue_wf hs fun s hs => vecRed_wf hs
  | vbcast => exact issue_wf hs fun s hs => vecLater_wf hs
  | kand => exact issue_wf hs fun s hs => wf_of_mem_eq (State.setKreg_mem s _ _) hs
  | kor => exact issue_wf hs fun s hs => wf_of_mem_eq (State.setKreg_mem s _ _) hs
  | kxor => exact issue_wf hs fun s hs => wf_of_mem_eq (State.setKreg_mem s _ _) hs
  | knot => exact issue_wf hs fun s hs => wf_of_mem_eq (State.setKreg_mem s _ _) hs
  | kmov => exact issue_wf hs fun s hs => wf_of_mem_eq (State.setKreg_mem s _ _) hs
  | kpop => exact issue_wf hs fun s hs => hs
  | kfirst => exact issue_wf hs fun s hs => hs
  | vballot => exact issue_wf hs fun s hs => hs
  | vrngRd => exact issue_wf hs fun s hs => hs
  | vrngSeed => exact issue_wf hs fun s hs => hs
  | vrngStep => exact issue_wf hs fun s hs => hs
  | brZ => exact issue_wf hs fun s hs => branchIf_wf hs
  | brNz => exact issue_wf hs fun s hs => branchIf_wf hs
  | brLt => exact issue_wf hs fun s hs => branchIf_wf hs
  | brGe => exact issue_wf hs fun s hs => branchIf_wf hs
  | call => exact issue_wf hs fun s hs => hs
  | jmp => exact issue_wf hs fun s hs => branchIf_wf hs
  | brkAny => exact issue_wf hs fun s hs => branchIf_wf hs
  | brkNone => exact issue_wf hs fun s hs => branchIf_wf hs
  | brd => exact issue_wf hs fun s hs => doBrd_wf hs
  | mark => exact issue_wf hs fun s hs => doMark_wf hs
  | ret => exact issue_wf hs fun s hs => hs
  | jmpReg => exact issue_wf hs fun s hs => hs
  | callReg => exact issue_wf hs fun s hs => hs
  | sld => exact issue_wf hs fun s hs => doLoad_wf hs
  | sst => exact issue_wf hs fun s hs => doStore_wf hs
  | vld => exact issue_wf hs fun s hs => doLoad_wf hs
  | vst => exact issue_wf hs fun s hs => doStore_wf hs
  | vldg => exact issue_wf hs fun s hs => doLoad_wf hs
  | vsts => exact issue_wf hs fun s hs => doStore_wf hs
  | spld => exact issue_wf hs fun s hs => doSpld_wf hs
  | spst => exact issue_wf hs fun s hs => doSpst_wf hs
  | cld => exact issue_wf hs fun s hs => doLoad_wf hs
  | atomScalar => exact issue_wf hs fun s hs => doAtomS_wf hs
  | atomVector => exact issue_wf hs fun s hs => doAtomV_wf hs
  | red => exact issue_wf hs fun s hs => doRed_wf hs
  | redClose => exact issue_wf hs fun s hs => doRedClose_wf hs
  | fenceRel => exact issue_wf hs fun s hs => doFence_wf hs
  | fenceAr => exact issue_wf hs fun s hs => doFence_wf hs
  | cp => exact issue_wf hs fun s hs => doCp_wf hs
  | cpFill => exact issue_wf hs fun s hs => doCp_wf hs
  | cpT => exact issue_wf hs fun s hs => doCpT_wf hs
  | stMc => exact issue_wf hs fun s hs => doStMc_wf hs
  | pf => exact issue_wf hs fun s hs => doPf_wf hs
  | zclaim => exact issue_wf hs fun s hs => doZclaim_wf hs
  | zrel => exact issue_wf hs fun s hs => doRel_wf hs
  | zzero => exact issue_wf hs fun s hs => doZzero_wf hs
  | oclaim => exact issue_wf hs fun s hs => doOclaim_wf hs
  | orel => exact issue_wf hs fun s hs => doRel_wf hs
  | oload => exact issue_wf hs fun s hs => doOload_wf hs
  | mmul => exact issue_wf hs fun s hs => doMmul_wf hs
  | mloop => exact issue_wf hs fun s hs => doMloop_wf hs
  | mdrain => exact issue_wf hs fun s hs => doMdrain_wf hs
  | mfence => exact issue_wf hs fun s hs => doMfence_wf hs
  | mwait => exact issue_wf hs fun s hs => doMwait_wf hs
  | mstat => exact issue_wf hs fun s hs => hs
  | tinv => exact issue_wf hs fun s hs => doTinv_wf hs
  | tprobe => exact issue_wf hs fun s hs => doTprobe_wf hs
  | rteAnn => exact issue_wf hs fun s hs => doRte_wf hs
  | rteWd => exact issue_wf hs fun s hs => doRte_wf hs
  | rteRole => exact issue_wf hs fun s hs => doRte_wf hs
  | rteQ => exact issue_wf hs fun s hs => hs
  | rteSync => exact issue_wf hs fun s hs => hs
  | cobjDecl => exact issue_wf hs fun s hs => doCobjDecl_wf hs
  | cobjDrop => exact issue_wf hs fun s hs => doCobjDrop_wf hs
  | cobjSync => exact issue_wf hs fun s hs => doCobjSync_wf hs
  | cobjSyncShared => exact issue_wf hs fun s hs => doCobjSync_wf hs
  | cobjReclaim => exact issue_wf hs fun s hs => doCobjReclaim_wf hs
  | tdtSet => exact issue_wf hs fun s hs => doTdtSet_wf hs
  | tdtGet => exact issue_wf hs fun s hs => doTdtGet_wf hs
  | tdtDrop => exact issue_wf hs fun s hs => wf_of_mem_eq (setTdt_mem s _ _) hs
  | treeSet => exact issue_wf hs fun s hs => doTreeSet_wf hs
  | launch => exact issue_wf hs fun s hs => doLaunch_wf hs
  | wlPush => exact issue_wf hs fun s hs => doWlPush_wf hs
  | wlPop => exact issue_wf hs fun s hs => doWlPop_wf hs
  | wlDone => exact issue_wf hs fun s hs => doWlDone_wf hs
  | tierRec => exact issue_wf hs fun s hs => doTierRec_wf hs
  | tierHintUp => exact issue_wf hs fun s hs => doTierHint_wf hs
  | tierHintDown => exact issue_wf hs fun s hs => doTierHint_wf hs
  | tierQ => exact issue_wf hs fun s hs => doTierQ_wf hs
  | waitc => exact issue_wf hs fun s hs => doWaitc_wf hs
  | waitF => exact issue_wf hs fun s hs => hs
  | bar => exact issue_wf hs fun s hs => doBar_wf hs
  | pcrd => exact issue_wf hs fun s hs => hs
  | trap => exact issue_wf hs fun s hs => doTrap_wf hs
  | rcp => exact issue_wf hs fun s hs => doRcp_wf hs
  | sysrd => exact issue_wf hs fun s hs => doSysrd_wf hs
  | syswr => exact issue_wf hs fun s hs => doSyswr_wf hs
  | halt => exact issue_wf hs fun s hs => doHalt_wf hs
  | hintLit => rw [exec, execHintLit]; exact hintWord_wf hs
  | hintLith => rw [exec, execHintLith]; exact hintWord_wf hs
  | hintDly => rw [exec, execHintDly]; exact hintWord_wf hs
  | hintFlg => rw [exec, execHintFlg]; exact hintWord_wf hs
  | hintRnd => rw [exec, execHintRnd]; exact hintWord_wf hs
  | hintScp => rw [exec, execHintScp]; exact hintWord_wf hs
  | hintNop => rw [exec, execHintNop]; exact hintWord_wf hs
  | nop => exact issue_wf hs fun s hs => hs
  | join => exact issue_wf hs fun s hs => doJoin_wf hs
  | exit => exact issue_wf hs fun s hs => doExit_wf hs
  | mresume => exact issue_wf hs fun s hs => doMresume_wf hs
  | mresumeAbandon => exact issue_wf hs fun s hs => doMresume_wf hs
  | tret => exact issue_wf hs fun s hs => doTret_wf hs
  | yield => exact issue_wf hs fun s hs => doYield_wf hs
  | fenceAcq0 => exact issue_wf hs fun s hs => doFence_wf hs
  | fenceAcq1 => exact issue_wf hs fun s hs => doFence_wf hs
  | fenceAcq2 => exact issue_wf hs fun s hs => doFence_wf hs
  | fenceAcq3 => exact issue_wf hs fun s hs => doFence_wf hs
  | fenceAcq4 => exact issue_wf hs fun s hs => doFence_wf hs
  | fenceAcq5 => exact issue_wf hs fun s hs => doFence_wf hs
  | fenceAcq6 => exact issue_wf hs fun s hs => doFence_wf hs
  | fenceAcq7 => exact issue_wf hs fun s hs => doFence_wf hs
  | fenceAcq8 => exact issue_wf hs fun s hs => doFence_wf hs
  | fenceAcq9 => exact issue_wf hs fun s hs => doFence_wf hs
  | fenceAcq10 => exact issue_wf hs fun s hs => doFence_wf hs
  | fenceAcq11 => exact issue_wf hs fun s hs => doFence_wf hs
  | fenceAcq12 => exact issue_wf hs fun s hs => doFence_wf hs
  | fenceAcq13 => exact issue_wf hs fun s hs => doFence_wf hs
  | fenceAcq14 => exact issue_wf hs fun s hs => doFence_wf hs
  | fenceAcq15 => exact issue_wf hs fun s hs => doFence_wf hs
  | hintMsk0 => rw [exec, execHintMsk0]; exact hintWord_wf hs
  | hintMsk1 => rw [exec, execHintMsk1]; exact hintWord_wf hs
  | hintMsk2 => rw [exec, execHintMsk2]; exact hintWord_wf hs
  | hintMsk3 => rw [exec, execHintMsk3]; exact hintWord_wf hs
  | hintMsk4 => rw [exec, execHintMsk4]; exact hintWord_wf hs
  | hintMsk5 => rw [exec, execHintMsk5]; exact hintWord_wf hs
  | hintMsk6 => rw [exec, execHintMsk6]; exact hintWord_wf hs
  | hintMsk7 => rw [exec, execHintMsk7]; exact hintWord_wf hs
  | hintMsk8 => rw [exec, execHintMsk8]; exact hintWord_wf hs
  | hintMsk9 => rw [exec, execHintMsk9]; exact hintWord_wf hs
  | hintMsk10 => rw [exec, execHintMsk10]; exact hintWord_wf hs
  | hintMsk11 => rw [exec, execHintMsk11]; exact hintWord_wf hs
  | hintMsk12 => rw [exec, execHintMsk12]; exact hintWord_wf hs
  | hintMsk13 => rw [exec, execHintMsk13]; exact hintWord_wf hs
  | hintMsk14 => rw [exec, execHintMsk14]; exact hintWord_wf hs
  | hintMsk15 => rw [exec, execHintMsk15]; exact hintWord_wf hs
  | hintRet0 => rw [exec, execHintRet0]; exact hintWord_wf hs
  | hintRet1 => rw [exec, execHintRet1]; exact hintWord_wf hs
  | hintRet2 => rw [exec, execHintRet2]; exact hintWord_wf hs
  | hintRet3 => rw [exec, execHintRet3]; exact hintWord_wf hs
  | groupTurn => exact execGroupTurn_wf hs
  | multiTurnComplete => exact execMultiTurnComplete_wf hs
  | blockClearComplete => exact execBlockClearComplete_wf hs
  | groupRelease => exact execGroupRelease_wf hs
  | stallTimeout => exact execStallTimeout_wf hs
  | hurdlePass => exact execHurdlePass_wf hs
  | groupPlacement => exact execGroupPlacement_wf hs
  | gangAgeExpire => exact execGangAgeExpire_wf hs
  | recordDone => exact execRecordDone_wf hs
  | completionStore => exact execCompletionStore_wf hs
  | translationWalk => exact execTranslationWalk_wf hs
  | tinvComplete => exact execTinvComplete_wf hs
  | storeBufferDrain => exact execStoreBufferDrain_wf hs
  | writeApply => exact execWriteApply_wf hs
  | writeReadable => exact execWriteReadable_wf hs
  | applyNotice => exact execApplyNotice_wf hs
  | echoReceive => exact execEchoReceive_wf hs
  | fillWrite => exact execFillWrite_wf hs
  | echoAckReceive => exact execEchoAckReceive_wf hs
  | echoDeadline => exact execEchoDeadline_wf hs
  | leaseRenewal => exact execLeaseRenewal_wf hs
  | renewalReceive => exact execRenewalReceive_wf hs
  | leaseEnd => exact execLeaseEnd_wf hs
  | readRequest => exact execReadRequest_wf hs
  | refusalReroute => exact execRefusalReroute_wf hs
  | loadComplete => exact execLoadComplete_wf hs
  | storeResponse => exact execStoreResponse_wf hs
  | invalidate => exact execInvalidate_wf hs
  | relayReceive => exact execRelayReceive_wf hs
  | relayRefusal => exact execRelayRefusal_wf hs
  | routerAnswer => exact execRouterAnswer_wf hs
  | rteSyncDone => exact execRteSyncDone_wf hs
  | holderAbsent => exact execHolderAbsent_wf hs
  | cobjDirectoryRequest => exact execCobjDirectoryRequest_wf hs
  | partialFold => exact execPartialFold_wf hs
  | mergeChildArrive => exact execMergeChildArrive_wf hs
  | mergeNodeTimeout => exact execMergeNodeTimeout_wf hs
  | snoopRetry => exact execSnoopRetry_wf hs
  | snoopTimeout => exact execSnoopTimeout_wf hs
  | multicastForward => exact execMulticastForward_wf hs
  | auditIntervalEnd => exact execAuditIntervalEnd_wf hs
  | copyStart => exact execCopyStart_wf hs
  | copyComplete => exact execCopyComplete_wf hs
  | copyFault => exact execCopyFault_wf hs
  | matrixCommandComplete => exact execMatrixCommandComplete_wf hs
  | matrixCommandFault => exact execMatrixCommandFault_wf hs
  | ringKick => exact execRingKick_wf hs
  | ringReadSlot => exact execRingReadSlot_wf hs
  | ringRetry => exact execRingRetry_wf hs
  | contextSwitchOut => exact execContextSwitchOut_wf hs
  | tierMoveStart => exact execTierMoveStart_wf hs
  | tierAnnounceAnswer => exact execTierAnnounceAnswer_wf hs
  | tierFillDone => exact execTierFillDone_wf hs
  | tierHandoverAnswer => exact execTierHandoverAnswer_wf hs
  | tierMoveEnd => exact execTierMoveEnd_wf hs
  | tierFaultOffer => exact execTierFaultOffer_wf hs
  | announcementRequest => exact execAnnouncementRequest_wf hs
  | announcementTimeout => exact execAnnouncementTimeout_wf hs
  | faultRecordOffer => exact execFaultRecordOffer_wf hs
  | longParkSwitchout => exact execLongParkSwitchout_wf hs
  | sliceEnd => exact execSliceEnd_wf hs
  | graceEnd => exact execGraceEnd_wf hs
  | deadlineExpire => exact execDeadlineExpire_wf hs
  | resetComplete => exact execResetComplete_wf hs
  | contextResident => exact execContextResident_wf hs
  | flitReceive => exact execFlitReceive_wf hs
  | laneSpare => exact execLaneSpare_wf hs
  | linkFail => exact execLinkFail_wf hs
  | linkUp => exact execLinkUp_wf hs
  | sessionRekey => exact execSessionRekey_wf hs
  | hostSnoop => exact execHostSnoop_wf hs
  | hostMemRequest => exact execHostMemRequest_wf hs
  | powerOn => exact execPowerOn_wf hs
  | attest => exact execAttest_wf hs
  | worldCreate => exact execWorldCreate_wf hs
  | worldGrant => exact execWorldGrant_wf hs
  | worldRevoke => exact execWorldRevoke_wf hs
  | worldDestroy => exact execWorldDestroy_wf hs
  | partSet => exact execPartSet_wf hs
  | ctxCreate => exact execCtxCreate_wf hs
  | ctxDestroy => exact execCtxDestroy_wf hs
  | ctxPreempt => exact execCtxPreempt_wf hs
  | ringSet => exact execRingSet_wf hs
  | ringKey => exact execRingKey_wf hs
  | powerCompare => exact execPowerCompare_wf hs
  | trayRemoveRequest => exact execTrayRemoveRequest_wf hs
  | trayCancel => exact execTrayCancel_wf hs
  | trayQuiesce => exact execTrayQuiesce_wf hs
  | trayPowerOff => exact execTrayPowerOff_wf hs
  | trayInsert => exact execTrayInsert_wf hs
  | wearUpdate => exact execWearUpdate_wf hs
  | partDescWrite => exact execPartDescWrite_wf hs
  | tqWrite => exact execTqWrite_wf hs
  | rteCostWrite => exact execRteCostWrite_wf hs
  | cobjQWrite => exact execCobjQWrite_wf hs
  | wlCfgWrite => exact execWlCfgWrite_wf hs
  | wlReset => exact execWlReset_wf hs
  | ringBaseWrite => exact execRingBaseWrite_wf hs
  | ringCtlWrite => exact execRingCtlWrite_wf hs
  | ringEnable => exact execRingEnable_wf hs
  | ringDisable => exact execRingDisable_wf hs
  | tierCfgWrite => exact execTierCfgWrite_wf hs
  | fqDone => exact execFqDone_wf hs
  | erqLostClear => exact execErqLostClear_wf hs
  | wdogWrite => exact execWdogWrite_wf hs
  | pcclr => exact execPcclr_wf hs
  | pwrCapWrite => exact execPwrCapWrite_wf hs
  | sysregWrite => exact execSysregWrite_wf hs
  | illegalOpcode => exact execIllegalOpcode_wf hs
  | softError => exact execSoftError_wf hs
  | dramLineAltered => exact execDramLineAltered_wf hs
  | snoopReceive => exact execSnoopReceive_wf hs
  | snoopAnswer => exact execSnoopAnswer_wf hs
  | itemClearComplete => exact execItemClearComplete_wf hs
  | tierFillRead => exact execTierFillRead_wf hs
  | mailboxBadCmd => exact execMailboxBadCmd_wf hs

/-! ### Fetch (04 R64, R65) -/

@[simp] theorem fetch_wf (hs : s.mem.wf = true) : FetchedWf s.fetch := by
  unfold State.fetch
  split
  · exact hs
  · dsimp only
    split
    · next f t ht => exact wf_of_snd ht (translate_wf hs)
    · next i t ht => exact wf_of_snd ht (translate_wf hs)
    · next x t ht =>
      have ht := wf_of_snd ht (translate_wf hs)
      split
      · trivial
      · split
        · trivial
        · split
          · trivial
          · exact wf_of_mem_eq (unitReadAs_mem t _ _ _ _) ht

@[simp] theorem runWord_wf {w : Word} (hs : s.mem.wf = true) : OutWf (s.runWord w) := by
  unfold State.runWord
  split
  · exact exec_wf hs
  · exact execIllegalOpcode_wf hs

@[simp] theorem issueNext_wf (hs : s.mem.wf = true) : OutWf s.issueNext := by
  have hf := fetch_wf hs
  unfold State.issueNext
  split
  · next t w ht => exact runWord_wf (hf.of_eq ht)
  · rw [outWf_next]
    exact trapExact_wf hs
  · next t m ht =>
    have ht : t.mem.wf = true := hf.of_eq ht
    split
    · rw [outWf_next]
      exact ht
    · rw [outWf_next]
      exact wf_of_mem_eq (parkAt_mem _ _ _) (parkFault_wf (wf_of_mem_eq (refund_mem t _) ht))

/-! ### Choosing a split (02 R38, R39, 04 R80) -/

@[simp] theorem candidate_mem (s : State) (i : Fin 4) : (s.candidate i).mem = s.mem := by rfl
@[simp] theorem markWaits_mem (s : State) (ws : List (Fin 4 × Wait)) : (s.markWaits ws).mem = s.mem := by rfl

@[simp] theorem pickSplit_wf (hs : s.mem.wf = true) : s.pickSplit.2.mem.wf = true := by
  unfold State.pickSplit
  dsimp only
  (repeat' split) <;> simp [hs]

/-! ### Instructions that wait for what they read (R39, 14 R411) -/

@[simp] theorem resume_wf {i : Fin 4} (hs : s.mem.wf = true) : (s.resume i).mem.wf = true := by
  have ht : (s.forSplit i).mem.wf = true := hs
  unfold State.resume
  dsimp only
  split
  · exact hs
  · split
    · next u hu =>
      have hu := exec_wf ht u hu
      exact ite_state_wf (ite_state_wf hs (ite_state_wf hu hu)) hu
    · exact hs

/-! ### The turn -/

@[simp] theorem turn_wf (hs : s.mem.wf = true) : OutWf s.turn := by
  have hr : (splitNums.foldl State.resume s.startTurn).mem.wf = true := foldl_wf (fun s i hs => resume_wf hs) (startTurn_wf hs)
  have endTurn : ∀ (t : State) (i : Option (Fin 4)), t.mem.wf = true → OutWf (.next (t.endTurn i)) := by
    intro t i ht
    rw [outWf_next]
    exact wf_of_mem_eq (endTurn_mem t i) ht
  unfold State.turn
  dsimp only
  split
  · next t ht =>
    have ht := wf_of_snd ht (pickSplit_wf hr)
    split
    · exact endTurn _ _ (timeOut_wf ht)
    · exact endTurn t _ ht
  · next i t ht =>
    have hi := issueNext_wf (wf_of_mem_eq (candidate_mem t i) (wf_of_snd ht (pickSplit_wf hr)))
    split
    · next u hu => exact endTurn u _ (hi u hu)
    · intro _ h
      cases h
    · intro _ h
      cases h

/-! ### Events of the hardware (log entry 1) -/

theorem firstEvent_wf {es : List (State → Out State)} (he : ∀ e ∈ es, ∀ s : State, s.mem.wf = true → OutWf (e s))
    (hs : s.mem.wf = true) :
    OptWf (firstEvent es s) := by
  induction es with
  | nil => exact optWf_none
  | cons e es ih =>
    have ih := ih fun e he' => he e (List.mem_cons_of_mem _ he')
    rw [firstEvent]
    split
    · next t ht =>
      split
      · exact ih
      · exact optWf_some.mpr (he e List.mem_cons_self s hs t ht)
    · exact ih

@[simp] theorem powerEvent_wf (hs : s.mem.wf = true) : OutWf s.powerEvent := by
  unfold State.powerEvent
  simp [hs]

@[simp] theorem wearEvent_wf {i : Fin 32} (hs : s.mem.wf = true) : OutWf (s.wearEvent i) := by
  unfold State.wearEvent
  simp [hs]

theorem queueEvents_wf (s : State) : EventsWf s.queueEvents := by
  unfold State.queueEvents
  refine ((((((((((((eventsWf_map ?_).append (eventsWf_map ?_)).append (eventsWf_map ?_)).append (eventsWf_flatMap ?_)).append
    (eventsWf_filterMap ?_)).append (eventsWf_map ?_)).append (eventsWf_flatMap ?_)).append (eventsWf_flatMap ?_)).append
    (eventsWf_map ?_)).append (eventsWf_map ?_)).append (eventsWf_map ?_)).append (eventsWf_map ?_))
  · exact fun n s hs => execBlockClearComplete_wf hs
  · exact fun g s hs => execGroupRelease_wf hs
  · exact fun o s hs => execGroupRelease_wf hs
  · exact fun r => eventsWf_cons (fun s hs => execHurdlePass_wf hs) (eventsWf_cons (fun s hs => execGangAgeExpire_wf hs)
      (eventsWf_cons (fun s hs => execRecordDone_wf hs) (eventsWf_cons (fun s hs => execCompletionStore_wf hs) eventsWf_nil)))
  · exact fun r seats s hs => execGroupPlacement_wf hs
  · exact fun g s hs => execLongParkSwitchout_wf hs
  · exact fun c => eventsWf_cons (fun s hs => execSliceEnd_wf hs) (eventsWf_cons (fun s hs => execGraceEnd_wf hs)
      (eventsWf_cons (fun s hs => execDeadlineExpire_wf hs) (eventsWf_cons (fun s hs => execResetComplete_wf hs)
      (eventsWf_cons (fun s hs => execContextSwitchOut_wf hs) (eventsWf_cons (fun s hs => execContextResident_wf hs) eventsWf_nil)))))
  · exact fun n => eventsWf_cons (fun s hs => execRingReadSlot_wf hs) (eventsWf_cons (fun s hs => execRingRetry_wf hs) eventsWf_nil)
  · exact fun r s hs => execFaultRecordOffer_wf hs
  · exact fun h s hs => execTinvComplete_wf hs
  · exact fun h s hs => execRouterAnswer_wf hs
  · exact fun h s hs => execRteSyncDone_wf hs

theorem memEvents_wf (s : State) : EventsWf s.memEvents := by
  unfold State.memEvents
  refine ((((((((((((((eventsWf_map ?_).append (eventsWf_flatMap ?_)).append (eventsWf_map ?_)).append (eventsWf_map ?_)).append
    (eventsWf_map ?_)).append (eventsWf_map ?_)).append (eventsWf_map ?_)).append (eventsWf_map ?_)).append (eventsWf_map ?_)).append
    (eventsWf_flatMap ?_)).append (eventsWf_map ?_)).append (eventsWf_map ?_)).append (eventsWf_map ?_)).append
    (eventsWf_map ?_)).append (eventsWf_map ?_)
  · exact fun c s hs => execStoreBufferDrain_wf hs
  · exact fun w => eventsWf_cons (fun s hs => execWriteApply_wf hs) (eventsWf_cons (fun s hs => execInvalidate_wf hs)
      (eventsWf_cons (fun s hs => execWriteReadable_wf hs) (eventsWf_cons (fun s hs => execApplyNotice_wf hs)
      (eventsWf_cons (fun s hs => execStoreResponse_wf hs) (eventsWf_cons (fun s hs => execEchoDeadline_wf hs)
      (eventsWf_cons (fun s hs => execRefusalReroute_wf hs) eventsWf_nil))))))
  · exact fun e s hs => execEchoReceive_wf hs
  · exact fun a s hs => execEchoAckReceive_wf hs
  · exact fun f s hs => execFillWrite_wf hs
  · exact fun r s hs => execRenewalReceive_wf hs
  · exact fun h s hs => execLeaseRenewal_wf hs
  · exact fun h s hs => execLeaseEnd_wf hs
  · exact fun h s hs => execHolderAbsent_wf hs
  · exact fun g => eventsWf_flatMap fun o => eventsWf_cons (fun s hs => execReadRequest_wf hs)
      (eventsWf_cons (fun s hs => execRefusalReroute_wf hs) (eventsWf_cons (fun s hs => execLoadComplete_wf hs) eventsWf_nil))
  · exact fun f s hs => execRelayReceive_wf hs
  · exact fun m s hs => execMulticastForward_wf hs
  · exact fun l s hs => outWf_next.mpr (wf_of_mem_eq (evictDir_mem s _ _) hs)
  · exact fun x s hs => outWf_next.mpr (wf_of_mem_eq (evictDie_mem s _ _) hs)
  · exact fun e s hs => execAuditIntervalEnd_wf hs

theorem snoopEvents_wf (o : ObjEntry) : EventsWf (snoopEvents o) := by
  unfold snoopEvents
  split
  · exact eventsWf_nil
  · refine (eventsWf_cons (fun s hs => execSnoopReceive_wf hs) (eventsWf_cons (fun s hs => execSnoopRetry_wf hs)
      (eventsWf_cons (fun s hs => execSnoopTimeout_wf hs) eventsWf_nil))).append (eventsWf_ite ?_ eventsWf_nil)
    exact eventsWf_cons (fun s hs => execSnoopAnswer_wf hs) eventsWf_nil

theorem engineEvents_wf (s : State) : EventsWf s.engineEvents := by
  unfold State.engineEvents
  refine ((((((((((((eventsWf_map ?_).append (eventsWf_flatMap snoopEvents_wf)).append (eventsWf_flatMap ?_)).append
    (eventsWf_flatMap ?_)).append (eventsWf_map ?_)).append (eventsWf_map ?_)).append (eventsWf_cons ?_ eventsWf_nil)).append
    (eventsWf_flatMap ?_)).append (eventsWf_map ?_)).append (eventsWf_map ?_)).append (eventsWf_cons ?_ eventsWf_nil)).append
    (eventsWf_ite eventsWf_nil (eventsWf_cons ?_ eventsWf_nil))).append (eventsWf_ite eventsWf_nil (eventsWf_cons ?_ eventsWf_nil))
  · exact fun n s hs => execMergeNodeTimeout_wf hs
  · exact fun c => eventsWf_cons (fun s hs => execCopyStart_wf hs) (eventsWf_cons (fun s hs => execCopyComplete_wf hs)
      (eventsWf_cons (fun s hs => execCopyFault_wf hs) eventsWf_nil))
  · exact fun c => eventsWf_cons (fun s hs => execMatrixCommandComplete_wf hs)
      (eventsWf_cons (fun s hs => execMatrixCommandFault_wf hs) eventsWf_nil)
  · exact fun t s hs => execItemClearComplete_wf hs
  · exact fun t s hs => execItemClearComplete_wf hs
  · exact fun s hs => execTierMoveStart_wf hs
  · refine fun m => (eventsWf_cons (fun s hs => execTierFillRead_wf hs) (eventsWf_cons (fun s hs => execTierFillDone_wf hs)
      (eventsWf_cons (fun s hs => execTierMoveEnd_wf hs) (eventsWf_cons (fun s hs => execAnnouncementTimeout_wf hs) eventsWf_nil)))).append
      (eventsWf_ite ?_ eventsWf_nil)
    exact eventsWf_cons (fun s hs => execTierAnnounceAnswer_wf hs) (eventsWf_cons (fun s hs => execTierHandoverAnswer_wf hs) eventsWf_nil)
  · exact fun w s hs => execTierFaultOffer_wf hs
  · exact fun l s hs => execLinkFail_wf hs
  · exact fun s hs => execTrayQuiesce_wf hs
  · exact fun s hs => outWf_next.mpr (tryHost_wf hs)
  · exact fun s hs => outWf_next.mpr (trySnoops_wf hs)

theorem lateCtx_wf (s : State) (c : Ctx) : EventsWf (s.lateCtx c) := by
  unfold State.lateCtx
  refine (((eventsWf_ite ?_ eventsWf_nil).append ?_).append (eventsWf_ite ?_ eventsWf_nil)).append (eventsWf_ite ?_ eventsWf_nil)
  · exact eventsWf_cons (fun s hs => execSliceEnd_wf hs) eventsWf_nil
  · have grace : EventsWf [execGraceEnd c.num] := eventsWf_cons (fun s hs => execGraceEnd_wf hs) eventsWf_nil
    split
    · exact eventsWf_ite grace eventsWf_nil
    · exact grace
    · exact eventsWf_nil
  · exact eventsWf_cons (fun s hs => execDeadlineExpire_wf hs) eventsWf_nil
  · exact eventsWf_cons (fun s hs => execContextSwitchOut_wf hs) (eventsWf_cons (fun s hs => execResetComplete_wf hs) eventsWf_nil)

theorem lateEvents_wf (s : State) : EventsWf s.lateEvents := by
  unfold State.lateEvents
  refine (((((((((((((((eventsWf_map ?_).append (eventsWf_map ?_)).append (eventsWf_flatMap (lateCtx_wf s))).append (eventsWf_map ?_)).append
    (eventsWf_filterMap ?_)).append (eventsWf_map ?_)).append (eventsWf_map ?_)).append (eventsWf_flatMap ?_)).append
    (eventsWf_map ?_)).append (eventsWf_map ?_)).append (eventsWf_map ?_)).append (eventsWf_map ?_)).append (eventsWf_map ?_)).append
    (eventsWf_map ?_)).append (eventsWf_ite ?_ eventsWf_nil)).append (eventsWf_ite (eventsWf_map ?_) eventsWf_nil)
  · exact fun w s hs => execEchoDeadline_wf hs
  · exact fun r s hs => execLeaseRenewal_wf hs
  · exact fun r s hs => execGangAgeExpire_wf hs
  · exact fun r seats s hs => execGroupPlacement_wf hs
  · exact fun g s hs => execLongParkSwitchout_wf hs
  · exact fun n s hs => execMergeNodeTimeout_wf hs
  · exact fun o => eventsWf_cons (fun s hs => execSnoopTimeout_wf hs) (eventsWf_cons (fun s hs => execSnoopRetry_wf hs) eventsWf_nil)
  · exact fun m s hs => execAnnouncementTimeout_wf hs
  · exact fun r s hs => execFaultRecordOffer_wf hs
  · exact fun n s hs => execRingRetry_wf hs
  · exact fun e s hs => execAuditIntervalEnd_wf hs
  · exact fun l s hs => execLinkFail_wf hs
  · exact fun l s hs => execSessionRekey_wf hs
  · exact eventsWf_cons (fun s hs => powerEvent_wf hs) eventsWf_nil
  · exact fun i s hs => wearEvent_wf hs

@[simp] theorem between_wf {left : Nat} (hs : s.mem.wf = true) : OutWf (s.between left) := by
  unfold State.between
  split
  · next t ht => exact outWf_next.mpr (firstEvent_wf (lateEvents_wf s) hs t ht)
  · extract_lets es n s'
    have hs : s'.mem.wf = true := hs
    have all := ((queueEvents_wf s).append (memEvents_wf s)).append (engineEvents_wf s)
    split
    · exact turn_wf hs
    · split
      · exact turn_wf hs
      · next t ht =>
        have ht := firstEvent_wf (fun e he => all e ((List.mem_append.mp he).elim List.mem_of_mem_drop List.mem_of_mem_take)) hs t ht
        exact outWf_next.mpr ht

@[simp] theorem step_wf (hs : s.mem.wf = true) : OutWf (step s) := by
  unfold step
  split
  · split
    · exact outWf_next.mpr hs
    · exact exec_wf hs
  · split
    · exact turn_wf hs
    · exact between_wf hs

end

/-- Settles O56: `step` is the oldest entry of the agenda, the turn of a group or the choice of an event, and each keeps memory in its
form, function by function. -/
theorem stepKeepsMemoryCanonical : Obligations.StepKeepsMemoryCanonical := by
  unfold Obligations.StepKeepsMemoryCanonical
  intro s t hs h
  exact step_wf hs t h

end Sys2Proof.Proofs.Canonical

/-!
# What an instruction that works on registers leaves unchanged

`Writes s t` says that `t` is `s` with some registers written: a rule for each of the state's writes to registers, and a rule for
one write after another. The meaning of every instruction in question is such a sequence of writes, so that `Frame` follows once for
all of them (`frame_of_writes`), from what issue and the end of a bundle leave unchanged.
-/

namespace Sys2Proof.Proofs.Frames

open Sys2Proof Sys2Proof.Machine

/-! ## Registers after a write -/

/-- No lane outside the mask is written, whatever the number of the register. -/
theorem vlane_setV_outside (s : State) (n k : Nat) {m : Word} {l : Lane} (hl : laneBit m l = false) (f : Lane → Word) :
    (s.setV n m f).vlane k l = s.vlane k l := by
  by_cases hk : k = n
  · subst hk
    by_cases hn : k < 128
    · exact State.vlane_setV_out s hn m f l hl
    · simp [State.setV, State.vlane, State.vreg, State.modRegs, State.modCkpt, hn]
  · exact State.vlane_setV_ne s hk m f l

/-- `t` is `s` with registers written: scalars in `sd`, the lanes of `m` of vectors in `vd`, masks in `kd`, and where `fl` the sticky
flags and the generators. -/
structure Writes (s t : State) (m : Word) (sd vd kd : Nat → Prop) (fl : Bool) : Prop where
  outside : t = { s with cur := { s.cur with regs := t.cur.regs, ckpt := t.cur.ckpt } }
  sreg : ∀ n, ¬ sd n → t.sreg n = s.sreg n
  vlane : ∀ n l, ¬ vd n ∨ laneBit m l = false → t.vlane n l = s.vlane n l
  kreg : ∀ n, ¬ kd n → t.kreg n = s.kreg n
  flag : ∀ n, t.flag n = s.flag n
  sticky : fl = false → t.cur.regs.fpflags = s.cur.regs.fpflags ∧ t.cur.regs.sr = s.cur.regs.sr

section
variable {s t u : State} {m : Word} {sd vd kd : Nat → Prop} {fl : Bool} {n : Nat}

theorem Writes.trans (h : Writes s t m sd vd kd fl) (h' : Writes t u m sd vd kd fl) : Writes s u m sd vd kd fl where
  outside := by
    have ht := h.outside
    have hu := h'.outside
    generalize u.cur.regs = r, u.cur.ckpt = k at hu ⊢
    generalize t.cur.regs = r', t.cur.ckpt = k' at ht
    subst ht hu
    rfl
  sreg := fun n hn => (h'.sreg n hn).trans (h.sreg n hn)
  vlane := fun n l hn => (h'.vlane n l hn).trans (h.vlane n l hn)
  kreg := fun n hn => (h'.kreg n hn).trans (h.kreg n hn)
  flag := fun n => (h'.flag n).trans (h.flag n)
  sticky := fun hf => ⟨(h'.sticky hf).1.trans (h.sticky hf).1, (h'.sticky hf).2.trans (h.sticky hf).2⟩

theorem writes_setSreg (hn : sd n) (x : DWord) : Writes s (s.setSreg n x) m sd vd kd fl where
  outside := rfl
  sreg := fun k hk => State.sreg_setSreg_ne s (fun e => hk (by rwa [e])) x
  vlane := fun _ _ _ => rfl
  kreg := fun _ _ => rfl
  flag := fun _ => rfl
  sticky := fun _ => ⟨rfl, rfl⟩

theorem writes_setV (hn : vd n) (f : Lane → Word) : Writes s (s.setV n m f) m sd vd kd fl where
  outside := rfl
  sreg := fun _ _ => rfl
  vlane := fun k l hk => hk.elim (fun hk => State.vlane_setV_ne s (fun e => hk (by rwa [e])) m f l)
    (fun hl => vlane_setV_outside s n k hl f)
  kreg := fun _ _ => rfl
  flag := fun _ => rfl
  sticky := fun _ => ⟨rfl, rfl⟩

theorem writes_setKreg (hn : kd n) (x : Word) : Writes s (s.setKreg n x) m sd vd kd fl where
  outside := by unfold State.setKreg; split <;> rfl
  sreg := fun _ _ => by unfold State.setKreg; split <;> rfl
  vlane := fun _ _ _ => by unfold State.setKreg; split <;> rfl
  kreg := fun k hk => State.kreg_setKreg_ne s (fun e => hk (by rwa [e])) x
  flag := fun _ => by unfold State.setKreg; split <;> rfl
  sticky := fun _ => by unfold State.setKreg; split <;> exact ⟨rfl, rfl⟩

theorem writes_sticky (x : Regs → Word) (g : Regs → VReg) :
    Writes s (s.modRegs fun r => { r with fpflags := x r, sr := g r }) m sd vd kd true where
  outside := rfl
  sreg := fun _ _ => rfl
  vlane := fun _ _ _ => rfl
  kreg := fun _ _ => rfl
  flag := fun _ => rfl
  sticky := nofun

theorem writes_raise (x : FpFlags) : Writes s (s.raise x) m sd vd kd true :=
  writes_sticky _ Regs.sr

theorem writes_setSr (f : Lane → Word) : Writes s (s.setSr m f) m sd vd kd true :=
  writes_sticky Regs.fpflags _

end

/-! ## The state in which an instruction has issued -/

section
variable (s : State) (i : Instr)

theorem issued_cur : (s.issued i).cur = { s.cur with regs := (s.issued i).cur.regs, ctl := (s.issued i).cur.ctl } := by
  unfold State.issued State.useFlags
  split <;> rfl

theorem issued_unfinished : (s.issued i).cur.ctl.unfinished = s.cur.ctl.unfinished := by
  unfold State.issued State.useFlags
  split <;> rfl

theorem issued_msk : (s.issued i).hints.msk = s.hints.msk := by
  simp [State.hints, State.issued, State.setPc, State.anchor]

theorem issued_active : (s.issued i).hints.active = true := by
  simp [State.hints, State.issued, State.setPc, State.anchor]

theorem useFlags_bundlePc (m : BitVec 12) : (s.useFlags m).bundlePc = s.bundlePc := by
  unfold State.useFlags
  split <;> rfl

theorem issued_start : (s.issued i).hints.start = s.bundlePc := by
  simp [State.hints, State.issued, State.setPc, State.anchor, useFlags_bundlePc]

/-- The lanes of the bundle are the same: it is anchored at the address at which it began. -/
theorem issued_exec : (s.issued i).exec = s.exec := by
  unfold State.exec
  rw [issued_msk, State.issued_mask, issued_active, issued_start, issued_unfinished, State.issued_iss]
  simp only [State.issued_kreg, State.bundlePc, if_true]

theorem issued_vlane (n : Nat) (l : Lane) : (s.issued i).vlane n l = s.vlane n l := by
  rw [State.vlane, State.issued_vreg]
  rfl

theorem issued_flag {n : Nat} (h : (s.waitsFor i).getLsbD n = false) : (s.issued i).flag n = s.flag n := by
  have hf : (s.issued i).flag n = (s.useFlags (s.waitsFor i)).flag n := rfl
  rw [hf]
  unfold State.useFlags State.flag
  split
  · rfl
  · by_cases hn : n < 12
    · rw [BitVec.getLsbD_eq_getElem hn] at h
      simp [State.modRegs, hn, h]
    · simp [State.modRegs, hn]

theorem issued_fpflags : (s.issued i).cur.regs.fpflags = s.cur.regs.fpflags := by
  unfold State.issued State.useFlags
  split <;> rfl

theorem issued_sr : (s.issued i).cur.regs.sr = s.cur.regs.sr := by
  unfold State.issued State.useFlags
  split <;> rfl

end

/-! ## The end of a bundle -/

section
variable (t : State) (i : Instr) (s : State)

theorem finish_outside : t.finish i s = { t with cur := (t.finish i s).cur, ctxs := (t.finish i s).ctxs } := by
  unfold State.finish State.countIssue
  dsimp only
  (repeat' split) <;> rfl

theorem finish_cur : (t.finish i s).cur = { t.cur with ctl := (t.finish i s).cur.ctl, ckpt := (t.finish i s).cur.ckpt } := by
  unfold State.finish State.countIssue
  dsimp only
  (repeat' split) <;> rfl

theorem finish_regs : (t.finish i s).cur.regs = t.cur.regs := by
  rw [finish_cur]

end

/-! ## Frames -/

section
variable {i : Instr} {s : State} {body : State → Act} {sd vd kd : Nat → Prop} {fl : Bool}

theorem outside_of_writes {u : State} {m : Word} (hw : Writes (s.issued i) u m sd vd kd fl) :
    u.finish i s = { s with cur := (u.finish i s).cur, ctxs := (u.finish i s).ctxs } := by
  have hi := State.issued_outside s i
  have hu := hw.outside
  have ht := finish_outside u i s
  generalize u.finish i s = t at ht ⊢
  generalize t.cur = c, t.ctxs = x at ht ⊢
  generalize s.issued i = v at hi hu
  generalize v.cur = c' at hi
  generalize u.cur.regs = r, u.cur.ckpt = k at hu
  subst hi hu ht
  rfl

theorem cur_of_writes {u : State} {m : Word} (hw : Writes (s.issued i) u m sd vd kd fl) :
    (u.finish i s).cur =
      { s.cur with regs := (u.finish i s).cur.regs, ctl := (u.finish i s).cur.ctl, ckpt := (u.finish i s).cur.ckpt } := by
  have hi := issued_cur s i
  have hu : u.cur = { (s.issued i).cur with regs := u.cur.regs, ckpt := u.cur.ckpt } := congrArg State.cur hw.outside
  have ht := finish_cur u i s
  generalize (u.finish i s).cur = c at ht ⊢
  generalize u.cur = d at hu ht
  generalize (s.issued i).cur = e at hi hu
  generalize e.regs = r, e.ctl = p at hi
  generalize d.regs = r', d.ckpt = k at hu
  generalize c.ctl = p', c.ckpt = k' at ht ⊢
  subst hi hu ht
  rfl

/-- An instruction that completes with registers written has the frame of these registers. -/
theorem frame_of_writes (he : exec i s = issue i s body)
    (hb : ∀ t, ∃ u, body t = .ok u ∧ Writes t u t.exec sd vd kd fl) : Frame i s sd vd kd fl := by
  intro hr
  obtain ⟨u, hu, hw⟩ := hb (s.issued i)
  have hregs := finish_regs u i s
  refine ⟨u.finish i s, by rw [he, issue, Laws.Issue.of_ok hr hu], outside_of_writes hw, cur_of_writes hw, ?_, ?_, ?_, ?_, ?_⟩
  · intro n hn
    rw [State.sreg, hregs]
    exact (hw.sreg n hn).trans (State.issued_sreg s i n)
  · intro n l hn
    rw [State.vlane, State.vreg, hregs]
    rw [issued_exec] at hw
    exact (hw.vlane n l hn).trans (issued_vlane s i n l)
  · intro n hn
    rw [State.kreg, hregs]
    exact (hw.kreg n hn).trans (State.issued_kreg s i n)
  · intro n hn
    rw [State.flag, hregs]
    exact (hw.flag n).trans (issued_flag s i hn)
  · intro hf
    rw [hregs]
    obtain ⟨hp, hg⟩ := hw.sticky hf
    exact ⟨hp.trans (issued_fpflags s i), hg.trans (issued_sr s i)⟩

/-! ## The shared operations of the instructions -/

section
variable {d a b : BitVec 7} {w bs : BitVec 1}

theorem scalarRR_frame {F : IntF} {zx : Bool} (he : exec i s = issue i s (scalarRR F zx d a b w)) :
    Frame i s (fun n => n = d.toNat) vd kd fl :=
  frame_of_writes he fun t => ⟨_, Laws.Integer.scalarRR_eq F zx d a b w t, writes_setSreg (by rfl) _⟩

theorem scalarRI_frame {F : DWord → DWord → DWord} {k : BitVec 9} (he : exec i s = issue i s (scalarRI F d a k)) :
    Frame i s (fun n => n = d.toNat) vd kd fl :=
  frame_of_writes he fun _ => ⟨_, rfl, writes_setSreg (by rfl) _⟩

theorem scalarSat_frame {F : (w : Nat) → BitVec w → BitVec w → BitVec w × Bool} {zx : Bool}
    (he : exec i s = issue i s (scalarSat F zx d a b w)) : Frame i s (fun n => n = d.toNat) vd kd true :=
  frame_of_writes he fun t => by
    unfold scalarSat
    dsimp only
    split <;> exact ⟨_, rfl, (writes_setSreg (by rfl) _).trans (writes_raise _)⟩

theorem scalarPair_frame {F : (w : Nat) → BitVec w → BitVec w → Bool → BitVec w × Bool}
    (he : exec i s = issue i s (scalarPair F d a b w)) : Frame i s (fun n => n = d.toNat ∨ n = d.toNat + 1) vd kd fl :=
  frame_of_writes he fun t => by
    unfold scalarPair
    dsimp only
    split <;> exact ⟨_, rfl, (writes_setSreg (.inl (by rfl)) _).trans (writes_setSreg (.inr (by rfl)) _)⟩

theorem vectorRR_frame {F : IntF} (he : exec i s = issue i s (vectorRR F d a b bs)) : Frame i s sd (fun n => n = d.toNat) kd fl :=
  frame_of_writes he fun _ => ⟨_, rfl, writes_setV (by rfl) _⟩

theorem vectorRI_frame {F : Word → Word → Word} {k : BitVec 9} (he : exec i s = issue i s (vectorRI F d a k)) :
    Frame i s sd (fun n => n = d.toNat) kd fl :=
  frame_of_writes he fun _ => ⟨_, rfl, writes_setV (by rfl) _⟩

theorem vectorSat_frame {F : (w : Nat) → BitVec w → BitVec w → BitVec w × Bool} (he : exec i s = issue i s (vectorSat F d a b bs)) :
    Frame i s sd (fun n => n = d.toNat) kd true :=
  frame_of_writes he fun _ => ⟨_, rfl, (writes_setV (by rfl) _).trans (writes_raise _)⟩

theorem vecF_frame {F : Rnd → Word → Word → Word → Word × FpFlags} (he : exec i s = issue i s (vecF F d a b bs)) :
    Frame i s sd (fun n => n = d.toNat) kd true :=
  frame_of_writes he fun _ => ⟨_, rfl, (writes_setV (by rfl) _).trans (writes_raise _)⟩

theorem vecSr_frame {F : Rnd → Word → Word → Word → Word → Word × FpFlags × Word}
    (he : exec i s = issue i s (vecSr F d a b bs)) :
    Frame i s sd (fun n => n = d.toNat) kd true :=
  frame_of_writes he fun _ => ⟨_, rfl, ((writes_setV (by rfl) _).trans (writes_raise _)).trans (writes_setSr _)⟩

theorem slea_frame : Frame (.slea d a b) s (fun n => n = d.toNat) vd kd fl :=
  frame_of_writes rfl fun _ => ⟨_, rfl, writes_setSreg (by rfl) _⟩

theorem vlea_frame : Frame (.vlea d a b bs) s sd (fun n => n = d.toNat ∨ n = d.toNat + 1) kd fl :=
  frame_of_writes rfl fun _ => ⟨_, rfl, (writes_setV (.inl (by rfl)) _).trans (writes_setV (.inr (by rfl)) _)⟩

theorem vcmp_frame {c : BitVec 3} : Frame (.vcmp c d a b bs) s sd vd (fun n => n = d.toNat) fl :=
  frame_of_writes rfl fun _ => ⟨_, rfl, writes_setKreg (by rfl) _⟩

theorem vfcmp_frame {c : BitVec 3} : Frame (.vfcmp c d a b bs) s sd vd (fun n => n = d.toNat) true :=
  frame_of_writes rfl fun _ => ⟨_, rfl, (writes_setKreg (by rfl) _).trans (writes_raise _)⟩

end

end

/-- Settles O59: the meaning of each instruction is one of the shared operations, a sequence of writes to its destination. -/
theorem registerFrames : Obligations.RegisterFrames := by
  unfold Obligations.RegisterFrames
  intro s d a b w i c
  simp only [List.forall_mem_cons, List.not_mem_nil, false_implies, implies_true, and_true]
  refine ⟨?_, ?_, ?_, ?_, ?_, ?_, ?_, ?_⟩
  · iterate 34 refine ⟨scalarRR_frame rfl, ?_⟩
    refine ⟨slea_frame, scalarRR_frame rfl, scalarRR_frame rfl, ?_⟩
    iterate 7 refine ⟨scalarRI_frame rfl, ?_⟩
    exact scalarRI_frame rfl
  · exact ⟨scalarSat_frame rfl, scalarSat_frame rfl⟩
  · exact ⟨scalarPair_frame rfl, scalarPair_frame rfl⟩
  · iterate 35 refine ⟨vectorRR_frame rfl, ?_⟩
    iterate 7 refine ⟨vectorRI_frame rfl, ?_⟩
    exact vectorRI_frame rfl
  · refine ⟨vectorSat_frame rfl, vectorSat_frame rfl, ?_⟩
    iterate 14 refine ⟨vecF_frame rfl, ?_⟩
    iterate 5 refine ⟨vecSr_frame rfl, ?_⟩
    exact vecSr_frame rfl
  · exact vlea_frame
  · exact vcmp_frame
  · exact vfcmp_frame

end Sys2Proof.Proofs.Frames

/-!
# What configures and controls the part

One lemma or two for each register: what a write that its rule allows leaves, and that a write out of range leaves the state as it
is. The order is that of the model: partitions, the tables of the VDIDs, work lists, rings, the registers of the package and of a
context, the tray, fault records, words that are no instruction.
-/

namespace Sys2Proof.Proofs.ControlWrites

open Sys2Proof Sys2Proof.Machine

theorem bitsOf_eq_div_mod (x hi lo : Nat) : bitsOf x hi lo = x / 2 ^ lo % 2 ^ (hi + 1 - lo) := by
  rw [bitsOf, Nat.shiftRight_eq_div_pow]

theorem setIfInBounds_val {α : Type} {n : Nat} (q : Vector α n) (i : Fin n) (x : α) : q.setIfInBounds i.val x = q.set i x := by
  simp [Vector.setIfInBounds, Vector.set, Array.setIfInBounds]

/-- A mask that keeps every bit of a field keeps the field. -/
theorem field_and {m : DWord} (v : DWord) {lo n : Nat} (h : ∀ i < n, m.getLsbD (lo + i) = true) :
    (v &&& m).toNat / 2 ^ lo % 2 ^ n = v.toNat / 2 ^ lo % 2 ^ n := by
  have hx : (v &&& m).extractLsb' lo n = v.extractLsb' lo n := by
    ext i hi
    simp [h i hi]
  simpa [Nat.shiftRight_eq_div_pow] using congrArg BitVec.toNat hx

section
variable (s : State) (v : DWord)

/-! ## Partition descriptors (01 R23) -/

theorem writePart_of_check (i : Fin 12) (h : s.partCheck i.val v = 0) : s.writePart i.val v = { s with
    pkg := { s.pkg with partStatus := 0, partDesc := s.pkg.partDesc.set i v }
    l1 := s.l1.filter (fun l => !(partSlices v ++ partSlices s.pkg.partDesc[i]).contains (sliceOf l.core)) } := by
  simp [State.writePart, h, setIfInBounds_val]

theorem writePart_of_check_ne {i : Nat} (h : s.partCheck i v ≠ 0) :
    s.writePart i v = { s with pkg := { s.pkg with partStatus := BitVec.ofNat 64 (s.partCheck i v) } } := by
  simp [State.writePart, h]

/-! ## Translation quotas (09 R151) -/

/-- Where the register of every VDID holds 0, every number reads 0, those without a register too. -/
theorem getD_eq_zero {n : Nat} {q : Vector DWord n} (h : ∀ w : Fin n, q[w] = 0) (u : Nat) : (q[u]?).getD 0 = 0 := by
  by_cases hu : u < n
  · simpa [hu] using h ⟨u, hu⟩
  · simp [hu]

theorem tqSum_eq_zero (h : ∀ w : Fin 64, s.vregs.tq[w] = 0) (part vdid : Nat) : s.tqSum part vdid = 0 :=
  List.foldl_fixed' (fun u => by rw [getD_eq_zero h]; rfl) _

theorem writeTq_of_above {vdid : Nat} (h : 128 < v.toNat / 256 % 256) : s.writeTq vdid v = s := by
  have hc : 128 < bitsOf v.toNat 15 8 := by rwa [bitsOf_eq_div_mod]
  simp [State.writeTq, hc]

theorem writeTq_of_free (u : Fin 64) (h : v.toNat / 256 % 256 ≤ 128) (hz : ∀ w : Fin 64, s.vregs.tq[w] = 0) :
    s.writeTq u.val v = { s with
      vregs := { s.vregs with tq := s.vregs.tq.set u (v &&& 0xFF1F) }
      tlb := s.tlb.filter (fun e => e.vdid != u.val) } := by
  have hc : ¬ 128 < bitsOf v.toNat 15 8 := by rw [bitsOf_eq_div_mod]; exact Nat.not_lt.mpr h
  simp [State.writeTq, tqSum_eq_zero s hz, hc, keep, setIfInBounds_val]

/-! ## Link costs (10 R159) -/

theorem costField_eq (o : DWord) (lo : Nat) : costField o v lo =
    if v.toNat / 2 ^ lo % 256 = 0 then o.toNat / 2 ^ lo % 256 else v.toNat / 2 ^ lo % 256 := by
  have hw : lo + 7 + 1 - lo = 8 := by omega
  simp [costField, bitsOf_eq_div_mod, hw]

theorem costField_lt (o : DWord) (lo : Nat) : costField o v lo < 256 := by
  rw [costField_eq]
  split <;> exact Nat.mod_lt _ (by decide)

theorem writeRteCost_byte {k : Nat} (hk : k < 4) :
    (s.writeRteCost v).pkg.rteCost.toNat / 256 ^ k % 256 = costField s.pkg.rteCost v (8 * k) := by
  have h0 := costField_lt v s.pkg.rteCost 0
  have h1 := costField_lt v s.pkg.rteCost 8
  have h2 := costField_lt v s.pkg.rteCost 16
  have h3 := costField_lt v s.pkg.rteCost 24
  simp only [State.writeRteCost, BitVec.toNat_ofNat]
  match k, hk with
  | 0, _ | 1, _ | 2, _ | 3, _ => dsimp only [Nat.reduceMul]; omega

/-! ## Ranges of the object table (11 R178) -/

theorem writeCobjQ_of_past {vdid : Nat} (h : 4096 < v.toNat % 4096 + v.toNat / 2 ^ 16 % 2 ^ 13) : s.writeCobjQ vdid v = s := by
  have hp : 4096 < bitsOf v.toNat 11 0 + bitsOf v.toNat 28 16 := by simpa [bitsOf_eq_div_mod] using h
  simp [State.writeCobjQ, hp]

theorem objRange_count_eq_zero (h : ∀ w : Fin 64, s.vregs.cobjQ[w] = 0) (u : Nat) : (s.objRange u).2 = 0 := by
  simp only [State.objRange]
  rw [getD_eq_zero h]
  rfl

theorem writeCobjQ_of_free (u : Fin 64) (ho : s.objs = []) (hz : ∀ w : Fin 64, s.vregs.cobjQ[w] = 0)
    (h : v.toNat % 4096 + v.toNat / 2 ^ 16 % 2 ^ 13 ≤ 4096) :
    s.writeCobjQ u.val v = { s with vregs := { s.vregs with cobjQ := s.vregs.cobjQ.set u (v &&& 0x1FFF0FFF) } } := by
  have hp : ¬ 4096 < bitsOf v.toNat 11 0 + bitsOf v.toNat 28 16 := by simpa [bitsOf_eq_div_mod] using h
  simp [State.writeCobjQ, hp, ho, objRange_count_eq_zero s hz, keep, setIfInBounds_val]

/-! ## Work lists (17 R302) -/

theorem wl_names (part n : Nat) : (s.wl part n).part = part ∧ (s.wl part n).n = n := by
  unfold State.wl
  cases hf : s.wls.find? (fun w => w.part == part && w.n == n) with
  | none => exact ⟨rfl, rfl⟩
  | some w => simpa using List.find?_some hf

theorem wl_setWl {w : WorkList} {part n : Nat} (h : w.part = part ∧ w.n = n) : (s.setWl w).wl part n = w := by
  simp [State.wl, State.setWl, h]

theorem wl_writeWl_cfg (part n : Nat) (h : v.toNat / 2 % 32 = 0 ∨ (4 ≤ v.toNat / 2 % 32 ∧ v.toNat / 2 % 32 ≤ 24)) :
    ((s.writeWl part n v).wl part n).cfg = v &&& ~~~1 := by
  have hl : bitsOf v.toNat 5 1 = v.toNat / 2 % 32 := bitsOf_eq_div_mod _ _ _
  simp only [State.writeWl, hl, if_pos h]
  split <;> exact congrArg WorkList.cfg (wl_setWl s (by exact wl_names s part n))

theorem wl_restart (part n : Nat) : (s.setWl (s.wl part n).restart).wl part n = (s.wl part n).restart :=
  wl_setWl s (wl_names s part n)

/-! ## Rings (17 R304) -/

theorem ring_eq_getElem (r : Fin 16) : s.ring r.val = s.rings[r] := by
  simp [State.ring]

theorem rings_setRing (r : Fin 16) (x : Ring) : (s.setRing r.val x).rings[r] = x := by
  simp [State.setRing]

theorem writeRingBase_of_enabled {r : Fin 16} (h : (s.rings[r]).ctl.getLsbD 63 = true) : s.writeRingBase r.val v = s := by
  rw [State.writeRingBase, ring_eq_getElem, if_pos h]

theorem writeRingBase_of_disabled {r : Fin 16} (h : (s.rings[r]).ctl.getLsbD 63 = false) :
    s.writeRingBase r.val v = { s with rings := s.rings.set r { s.rings[r] with base := v &&& 0xFFFFFFFFFFFFFFE0 } } := by
  rw [State.writeRingBase, ring_eq_getElem, if_neg (Bool.eq_false_iff.mp h)]
  simp [State.setRing, keep, setIfInBounds_val]

theorem execRingCtlWrite_of_enabled {r : Fin 16} (h : (s.rings[r]).ctl.getLsbD 63 = true) : execRingCtlWrite r v s = .next s := by
  rw [execRingCtlWrite, ring_eq_getElem, if_pos h]

/-- While the ring is disabled, RING_CTL_WRITE writes the fields with `en` = 0. -/
theorem execRingCtlWrite_of_disabled {r : Fin 16} (h : (s.rings[r]).ctl.getLsbD 63 = false) :
    execRingCtlWrite r v s = .next (s.writeRingCtl r.val (v &&& 0x7FFFFFFFFFFFFFFF)) := by
  rw [execRingCtlWrite, ring_eq_getElem, if_neg (Bool.eq_false_iff.mp h)]

theorem getLsbD_enOff : (v &&& 0x7FFFFFFFFFFFFFFF).getLsbD 63 = false := by
  simp

theorem getLsbD_enOn : (v ||| 0x8000000000000000).getLsbD 63 = true := by
  simp

theorem getLsbD_ringFields : (ringFields v).getLsbD 63 = v.getLsbD 63 := by
  simp [ringFields, keep]

theorem ringFields_mid : (ringFields v).toNat / 2 ^ 16 % 2 ^ 24 = v.toNat / 2 ^ 16 % 2 ^ 24 :=
  field_and v (by decide)

theorem rings_writeRingCtl_stop (r : Fin 16) (h : v.getLsbD 63 = false) : (s.writeRingCtl r.val v).rings[r] =
    { s.rings[r] with ctl := ringFields v, st := .disabled, tries := 0, sawLow := false } := by
  rw [State.writeRingCtl, ring_eq_getElem, if_pos (by rw [h]; rfl), rings_setRing]

theorem rings_writeRingCtl_start (r : Fin 16) (h : v.getLsbD 63 = true) (hd : (s.rings[r]).ctl.getLsbD 63 = false) :
    (s.writeRingCtl r.val v).rings[r] = { s.rings[r] with
      ctl := ringFields v, seq := 0, st := (s.rings[r]).stuck.getD .running, tries := 0, sawLow := false, due := s.pace } := by
  rw [State.writeRingCtl, ring_eq_getElem, if_neg (by rw [h]; decide), if_neg (Bool.eq_false_iff.mp hd), rings_setRing]

/-! ## Registers of the package and of a context (18 R315, 20 R358, 22 R389) -/

theorem writeTierCfg_enable : (s.writeTierCfg v).pkg.tierCfg.getLsbD 0 = v.getLsbD 0 := by
  simp only [State.writeTierCfg, BitVec.getLsbD, BitVec.toNat_ofNat, Nat.testBit_zero]
  exact decide_eq_decide.mpr (by omega)

theorem writeTierCfg_moves (h1 : 1 ≤ v.toNat / 2 ^ 16 % 32) (h2 : v.toNat / 2 ^ 16 % 32 ≤ 16) :
    (s.writeTierCfg v).pkg.tierCfg.toNat / 2 ^ 16 % 32 = v.toNat / 2 ^ 16 % 32 := by
  have hm : bitsOf v.toNat 20 16 = v.toNat / 2 ^ 16 % 32 := bitsOf_eq_div_mod _ _ _
  have hs : bitsOf v.toNat 11 8 < 16 := Nat.mod_lt _ (by decide)
  simp only [State.writeTierCfg, hm, if_pos (And.intro h1 h2), BitVec.toNat_ofNat]
  omega

theorem writeWdog_zero (n : Nat) (h : v.toNat % 64 = 0) : s.writeWdog n v = s.modCtx n (fun c => { c with wdog := 26 }) :=
  if_pos h

theorem ofNat_mod_64 : BitVec.ofNat 64 (v.toNat % 64) = v &&& 63 := by
  apply BitVec.eq_of_toNat_eq
  have hm : v.toNat &&& (63 : DWord).toNat = v.toNat % 64 := Nat.and_two_pow_sub_one_eq_mod v.toNat 6
  rw [BitVec.toNat_ofNat, BitVec.toNat_and, hm]
  omega

theorem writeWdog_of_range (n : Nat) (h1 : 16 ≤ v.toNat % 64) (h2 : v.toNat % 64 ≤ 40) :
    s.writeWdog n v = s.modCtx n (fun c => { c with wdog := v &&& 63 }) := by
  have h0 : v.toNat % 64 ≠ 0 := by omega
  rw [State.writeWdog, if_neg h0, if_pos ⟨h1, h2⟩, ofNat_mod_64]

theorem writeWdog_of_outside (n : Nat) (h : (0 < v.toNat % 64 ∧ v.toNat % 64 < 16) ∨ 40 < v.toNat % 64) : s.writeWdog n v = s := by
  have h0 : v.toNat % 64 ≠ 0 := by omega
  have hr : ¬ (16 ≤ v.toNat % 64 ∧ v.toNat % 64 ≤ 40) := by omega
  rw [State.writeWdog, if_neg h0, if_neg hr]

theorem pwrCap_fields : bitsOf v.toNat 11 0 = v.toNat % 4096 ∧ bitsOf v.toNat 25 16 = v.toNat / 2 ^ 16 % 1024 := by
  simp [bitsOf_eq_div_mod]

theorem writePwrCap_of_range (hc : 1500 ≤ v.toNat % 4096 ∧ v.toNat % 4096 ≤ 2900)
    (hw : 1 ≤ v.toNat / 2 ^ 16 % 1024 ∧ v.toNat / 2 ^ 16 % 1024 ≤ 1000) : s.writePwrCap v =
      { s with pkg := { s.pkg with pwrCap := v &&& 0x83FF0FFF, pwrStat := s.pkg.pwrStat &&& ~~~1 } } := by
  obtain ⟨e1, e2⟩ := pwrCap_fields v
  simp only [State.writePwrCap, e1, e2]
  exact if_pos ⟨hc.1, hc.2, hw⟩

theorem writePwrCap_of_outside (h : v.toNat % 4096 < 1500 ∨ 2900 < v.toNat % 4096 ∨ v.toNat / 2 ^ 16 % 1024 = 0 ∨
    1000 < v.toNat / 2 ^ 16 % 1024) : s.writePwrCap v = s := by
  obtain ⟨e1, e2⟩ := pwrCap_fields v
  simp only [State.writePwrCap, e1, e2]
  exact if_neg (by omega)

/-! ## The tray (22 R392) -/

/-- The contexts begin to leave, and nothing of the package's own changes by it. -/
theorem foldl_beginPreempt_pkg (l : List Ctx) : (l.foldl (fun s c => s.beginPreempt c.num) s).pkg = s.pkg :=
  List.foldlRecOn (motive := fun t : State => t.pkg = s.pkg) l _ rfl fun _ ht _ _ => ht

theorem trayRemove_online (h : s.pkg.tray = 0) : s.trayRemove.pkg.tray = 1 := by
  simp only [State.trayRemove, if_pos h, foldl_beginPreempt_pkg]

theorem trayRemove_else (h : s.pkg.tray ≠ 0) : s.trayRemove = s := if_neg h

theorem trayCancel_draining (h : s.pkg.tray = 1) : s.trayCancel = { s with pkg := { s.pkg with tray := 0 } } := if_pos h

theorem trayCancel_else (h : s.pkg.tray ≠ 1) : s.trayCancel = s := if_neg h

/-! ## Fault records (19 R331) -/

/-- The record of queue 1 of a context that a write of `fq_done` names. -/
def resolved (n : Nat) : Option FaultRec :=
  s.faults.find? (fun r => r.written && r.tag == v.toNat % 2 ^ 32 && (r.queue == 1 && r.ctx == n))

variable {s v} {n : Nat} {r : FaultRec}

theorem fqDone_uncounted (m : Nat) (h : resolved s v n = some r) (hc : r.counted = false) :
    s.fqDone false n m v = { s with faults := s.faults.filter (fun x => x.id != r.id) } := by
  rw [resolved] at h
  simp only [State.fqDone, Bool.false_eq_true, if_false, h, hc, Bool.not_false, if_true]

theorem fqDone_counted (m : Nat) (h : resolved s v n = some r) (hc : r.counted = true) (ha : v.getLsbD 32 = false) :
    s.fqDone false n m v =
      { s with faults := s.faults.filter (fun x => x.id != r.id) }.modAnyGroup r.uid (Group.pageCame s.pace s.cycle) := by
  rw [resolved] at h
  simp only [State.fqDone, Bool.false_eq_true, if_false, h, hc, ha, Bool.not_true, Bool.false_and]
  rfl

/-! ## Words that are no instruction (04 R81) -/

theorem execIllegalOpcode_hint {w : Word} (h : w.toNat / 2 ^ 26 = 0x3E) :
    execIllegalOpcode w s = .next (s.trapExact 1 0 0) :=
  if_pos h

theorem execIllegalOpcode_ready {w : Word} (h : w.toNat / 2 ^ 26 ≠ 0x3E) (hf : s.flagWait s.hints.flg = .satisfied) :
    execIllegalOpcode w s = .next (s.trapExact (if s.cur.trap.pl < illegalLevel w then 2 else 1) 0 0) := by
  rw [execIllegalOpcode, if_neg h, hf]

end

/-- Settles O27: each write is one function of the state, and the lemmas above say what that function does. -/
theorem configurationAndControlWrites : Obligations.ConfigurationAndControlWrites := by
  unfold Obligations.ConfigurationAndControlWrites
  refine ⟨fun s i u r p l v => ⟨?part, ?partBad, ?tqAbove, ?tqFree, ?cost, ?cobjPast, ?cobjFree, ?wl, ?wlReset, ?ringOn, ?ringBase,
      ?ringFields, ?ringStart, ?ringStop⟩,
    fun s n m v => ⟨?tier, rfl, ?wdog0, ?wdog, ?wdogElse, rfl, ?pwr, ?pwrElse, ?trayRemove, ?trayCancel, ?trayRemoveElse,
      ?trayCancelElse, ?faultUncounted, ?faultCounted, ?hintWord, ?word⟩⟩
  case part => exact fun h => congrArg Host.Outcome.next (writePart_of_check s v i h)
  case partBad => exact fun h => congrArg Host.Outcome.next (writePart_of_check_ne s v h)
  case tqAbove => exact fun h => congrArg Host.Outcome.next (writeTq_of_above s v h)
  case tqFree => exact fun h hz => congrArg Host.Outcome.next (writeTq_of_free s v u h hz)
  case cost =>
    refine ⟨_, rfl, fun k hk => ?_⟩
    rw [writeRteCost_byte s v hk, costField_eq, Nat.pow_mul]
  case cobjPast => exact fun h => congrArg Host.Outcome.next (writeCobjQ_of_past s v h)
  case cobjFree => exact fun ho hz h => congrArg Host.Outcome.next (writeCobjQ_of_free s v u ho hz h)
  case wl => exact fun h => ⟨_, rfl, wl_writeWl_cfg s v p l h⟩
  case wlReset =>
    refine ⟨_, rfl, ?_⟩
    rw [wl_restart]
    exact ⟨rfl, rfl, bitsOf_eq_div_mod _ _ _⟩
  case ringOn => exact fun h => ⟨congrArg Host.Outcome.next (writeRingBase_of_enabled s v h), execRingCtlWrite_of_enabled s v h⟩
  case ringBase => exact fun h => congrArg Host.Outcome.next (writeRingBase_of_disabled s v h)
  case ringFields =>
    refine fun h => ⟨_, execRingCtlWrite_of_disabled s v h, ?_⟩
    rw [rings_writeRingCtl_stop s _ r (getLsbD_enOff v)]
    exact ⟨(getLsbD_ringFields _).trans (getLsbD_enOff v), (ringFields_mid _).trans (field_and v (by decide))⟩
  case ringStart =>
    refine fun h => ⟨_, rfl, ?_⟩
    rw [rings_writeRingCtl_start s _ r (getLsbD_enOn v) h]
    exact ⟨(getLsbD_ringFields _).trans (getLsbD_enOn v), rfl, rfl⟩
  case ringStop =>
    refine fun _ => ⟨_, rfl, ?_⟩
    rw [rings_writeRingCtl_stop s _ r (getLsbD_enOff _)]
    exact ⟨(getLsbD_ringFields _).trans (getLsbD_enOff _), rfl⟩
  case tier => exact ⟨_, rfl, writeTierCfg_enable s v, writeTierCfg_moves s v⟩
  case wdog0 => exact fun h => congrArg Host.Outcome.next (writeWdog_zero s v n h)
  case wdog => exact fun h1 h2 => congrArg Host.Outcome.next (writeWdog_of_range s v n h1 h2)
  case wdogElse => exact fun h => congrArg Host.Outcome.next (writeWdog_of_outside s v n h)
  case pwr => exact fun c1 c2 w1 w2 => congrArg Host.Outcome.next (writePwrCap_of_range s v ⟨c1, c2⟩ ⟨w1, w2⟩)
  case pwrElse => exact fun h => congrArg Host.Outcome.next (writePwrCap_of_outside s v h)
  case trayRemove => exact fun h => ⟨_, rfl, trayRemove_online s h⟩
  case trayCancel => exact fun h => congrArg Host.Outcome.next (trayCancel_draining s h)
  case trayRemoveElse => exact fun h => congrArg Host.Outcome.next (trayRemove_else s h)
  case trayCancelElse => exact fun h => congrArg Host.Outcome.next (trayCancel_else s h)
  case faultUncounted => exact fun _ h hc => congrArg Host.Outcome.next (fqDone_uncounted m h hc)
  case faultCounted => exact fun _ h hc ha => congrArg Host.Outcome.next (fqDone_counted m h hc ha)
  case hintWord => exact fun _ h => execIllegalOpcode_hint h
  case word => exact fun _ h hf => execIllegalOpcode_ready h hf

end Sys2Proof.Proofs.ControlWrites

/-!
# A step runs the word at the PC

What a fetch reads, and what becomes of a fetch that faults. Choosing a split and running its word is said in `Laws.Step`.
-/

namespace Sys2Proof.Proofs.Fetch

open Sys2Proof Sys2Proof.Machine Sys2Proof.Laws.Step

variable {s t : State} {c : Ctx}

/-- A word is read as it lies at the holder, where the line is the world's and good (04 R65). -/
theorem fetch_of_translate_ok {x : Xlate} {h : Nat} (hc : s.myCtx = some c)
    (hx : s.translate c s.cur.place.core s.pc.toNat .exec s.cur.trap.pl = (.ok x, t))
    (hh : t.fetchHolder s.cur.place.core x.fa = some h) (hw : t.worldOk h x.fa c.world = true)
    (hp : (t.lineAt h x.fa).poison = false) (hb : t.badCopy h x.fa = false) :
    s.fetch = .word (t.unitReadAs h x.fa c.num 1) (BitVec.ofNat 32 (ofLeBytes (t.bytesAt h x.fa 4))) := by
  simp [State.fetch, hc, hx, hh, hw, hp, hb]

theorem fetch_of_translate_fault {m : XFault} (hc : s.myCtx = some c)
    (hx : s.translate c s.cur.place.core s.pc.toNat .exec s.cur.trap.pl = (.fault m, t)) : s.fetch = .park t (.fault m) := by
  simp [State.fetch, hc, hx]

theorem parkAt_parked (p : BitVec 48) (left : Word) : (s.parkAt p left).cur.ctl.parked = true := rfl

/-- A fetch that faults parks the group (19 R330). -/
theorem issueNext_parked {m : Miss} (hc : s.myCtx = some c) (hf : s.fetch = .park t m) :
    ∃ u, s.issueNext = .next u ∧ u.cur.ctl.parked = true := by
  rw [State.issueNext, hf]
  simp only [hc]
  exact ⟨_, rfl, parkAt_parked _ _⟩

/-- The four bytes of a word stand lowest first (04 R64). -/
theorem ofLeBytes_four (b0 b1 b2 b3 : Byte) :
    ofLeBytes [b0, b1, b2, b3] = b0.toNat + 256 * b1.toNat + 65536 * b2.toNat + 16777216 * b3.toNat := by
  simp only [ofLeBytes]
  omega

/-- The head of the agenda happens; with none, a turn or the choice of an event (log entry 1). -/
theorem step_eq (s : State) : step s = match s.agenda with
    | j :: rest => if (encode j).isSome then .next { s with agenda := rest } else exec j { s with agenda := rest }
    | [] => (match s.phase with | .issue => s.turn | .event left => s.between left) := rfl

/-- Settles O55: `Laws.Step` says what a turn runs, and the lemmas above what it fetches. -/
theorem stepRunsDecodedWord : Obligations.StepRunsDecodedWord := by
  unfold Obligations.StepRunsDecodedWord
  refine fun s => ⟨step_eq s, ?word, ?illegal, fun v w j => issueNext_word, fun c x t h => fetch_of_translate_ok, ofLeBytes_four, ?fault⟩
  case word =>
    intro i v u j w t r ha hp hr hk hf hd he
    exact step_runs ha hp hr hk ((issueNext_word hf hd).trans he)
  case illegal =>
    intro i v u w t r ha hp hr hk hf hd he
    exact step_runs ha hp hr hk ((issueNext_illegal hf hd).trans he)
  case fault => exact fun c m t hc hx => issueNext_parked hc (fetch_of_translate_fault hc hx)

end Sys2Proof.Proofs.Fetch

/-!
# Turns and watchdogs

The barrel: when a turn falls due and whose turn is next. A result that lands writes registers only (`Frames.Writes`), so that it
moves no turn. A split whose watchdog has expired alone is the one that the time-out stops.
-/

namespace Sys2Proof.Proofs.Turns

open Sys2Proof Sys2Proof.Machine Sys2Proof.Proofs.Frames

variable {s t u : State}

/-! ## The barrel (02 R37) -/

section
variable (s)

theorem alignCycle_used (h : s.cur.place.used = true) :
    s.alignCycle.cycle = s.cycle + (s.cur.place.slot % 8 + 8 - s.cycle % 8) % 8 := by
  rw [State.alignCycle, if_pos h]
  rfl

/-- The turn falls in the cycle of the slot modulo 8, at most seven cycles on. -/
theorem alignCycle_position (h : s.cur.place.used = true) : s.alignCycle.cycle % 8 = s.cur.place.slot % 8 ∧
    s.cycle ≤ s.alignCycle.cycle ∧ s.alignCycle.cycle < s.cycle + 8 := by
  rw [alignCycle_used s h]
  omega

end

/-- A fold that keeps the nearer of two ends at the nearest of all. -/
theorem foldl_nearer {α : Type} (d : α → Nat) (l : List α) (a : α) :
    l.foldl (fun b x => if d x < d b then x else b) a ∈ a :: l ∧
      ∀ x ∈ a :: l, d (l.foldl (fun b x => if d x < d b then x else b) a) ≤ d x := by
  induction l generalizing a with
  | nil => simp
  | cons y l ih =>
    obtain ⟨hm, hd⟩ := ih (if d y < d a then y else a)
    have hn : d (if d y < d a then y else a) ≤ d a ∧ d (if d y < d a then y else a) ≤ d y := by split <;> omega
    have hb := hd _ List.mem_cons_self
    refine ⟨?_, fun x hx => ?_⟩
    · rcases List.mem_cons.mp hm with h | h
      · rw [List.foldl_cons, h]
        split <;> simp
      · exact List.mem_cons_of_mem _ (List.mem_cons_of_mem _ h)
    · rcases List.mem_cons.mp hx with rfl | hx
      · exact hb.trans hn.1
      · rcases List.mem_cons.mp hx with rfl | hx
        · exact hb.trans hn.2
        · exact hd x (List.mem_cons_of_mem _ hx)

/-- The next turn is that of the resident group whose place follows first in the order of the barrel. -/
theorem nextGroup_nearest {g : Group} {rest : List Group} (h : s.others = g :: rest) : ∃ b ∈ s.others, s.nextGroup = some b ∧
    ∀ x ∈ s.others, turnDistance s.cur.place b.place ≤ turnDistance s.cur.place x.place := by
  obtain ⟨hm, hd⟩ := foldl_nearer (fun x : Group => turnDistance s.cur.place x.place) rest g
  rw [h]
  exact ⟨_, hm, by rw [State.nextGroup, h], hd⟩

theorem nextTurn_of_some {b : Group} (h : s.nextGroup = some b) : s.nextTurn = State.advance { s with
    cur := b
    others := s.others.filter (fun (x : Group) => x.place.uid != b.place.uid) ++ (if s.cur.place.used then [s.cur] else []) }
    (s.untilNext - 1) := by
  rw [State.nextTurn, h]

theorem nextTurn_alone (h : s.others = []) : s.nextTurn = s.advance 7 := by
  have hn : s.nextGroup = none := by rw [State.nextGroup, h]
  have hu : s.untilNext = 8 := by rw [State.untilNext, hn]
  rw [State.nextTurn, hn, hu]

/-! ## Results that land (02 R41, 20 R353) -/

theorem Writes.refl {m : Word} {sd vd kd : Nat → Prop} {fl : Bool} : Writes s s m sd vd kd fl :=
  ⟨rfl, fun _ _ => rfl, fun _ _ _ => rfl, fun _ _ => rfl, fun _ => rfl, fun _ => ⟨rfl, rfl⟩⟩

theorem foldl_writes {α : Type} {f : State → α → State} {m : Word} {sd vd kd : Nat → Prop} {fl : Bool}
    (hf : ∀ s a, Writes s (f s a) m sd vd kd fl) (l : List α) (s : State) : Writes s (l.foldl f s) m sd vd kd fl :=
  List.foldlRecOn (motive := fun t => Writes s t m sd vd kd fl) l f Writes.refl fun t ht a _ => ht.trans (hf t a)

/-- A result in flight writes its registers and nothing else. -/
theorem writeResult_writes (s : State) (m : MultiTurn) {kd : Nat → Prop} {fl : Bool} :
    Writes s (s.writeResult m) (BitVec.allOnes 32) (fun _ => True) (fun _ => True) kd fl := by
  have hl (l : Lane) : laneBit (BitVec.allOnes 32) l = true := BitVec.getLsbD_allOnes.trans (decide_eq_true l.isLt)
  refine (foldl_writes (fun _ _ => writes_setSreg trivial _) m.swr s).trans (foldl_writes (fun t x => ?_) m.vwr _)
  exact ⟨rfl, fun _ _ => rfl, fun _ l h => h.elim (absurd trivial) (fun h => by rw [hl] at h; contradiction), fun _ _ => rfl,
    fun _ => rfl, fun _ => ⟨rfl, rfl⟩⟩

theorem writeResult_outside (s : State) (m : MultiTurn) : s.writeResult m =
    { s with cur := { s.cur with regs := (s.writeResult m).cur.regs, ckpt := (s.writeResult m).cur.ckpt } } :=
  (writeResult_writes s m (kd := fun _ => True) (fl := true)).outside

theorem completeResult_outside (s : State) (m : MultiTurn) : s.completeResult m =
    { s with cur := { s.cur with regs := (s.completeResult m).cur.regs, ckpt := (s.completeResult m).cur.ckpt } } := by
  rw [State.completeResult, writeResult_outside]
  rfl

theorem flag_modFlag (s : State) {n : Nat} (f : Flag → Flag) (h : n < 12) : (s.modFlag n f).flag n = f (s.flag n) := by
  simp [State.modFlag, State.flag, State.modRegs, h]

/-- The flag is set when the last result pending on it lands. -/
theorem completeResult_flag (s : State) (m : MultiTurn) (h : m.flag < 12) : (s.completeResult m).flag m.flag =
    ⟨(s.flag m.flag).set || (s.flag m.flag).pend == 1, (s.flag m.flag).pend - 1⟩ := by
  have hw : ((s.writeResult m).raise m.flags).flag m.flag = s.flag m.flag :=
    (writeResult_writes s m (kd := fun _ => True) (fl := true)).flag m.flag
  rw [State.completeResult, flag_modFlag _ _ h, hw]

theorem landBefore_barrel (s : State) (cycle : Nat) :
    (s.landBefore cycle).cur.place = s.cur.place ∧ (s.landBefore cycle).others = s.others :=
  List.foldlRecOn (motive := fun t : State => t.cur.place = s.cur.place ∧ t.others = s.others) _ State.completeResult ⟨rfl, rfl⟩
    fun t ht m _ => by rw [completeResult_outside]; exact ht

theorem asGroup_cur (h : s.cur.place.used = true) (f : State → State) : s.asGroup s.cur.place.uid f = f s := by
  simp [State.asGroup, h]

section
variable {m : MultiTurn} {n : Nat} (h : s.cur.place.used = true) (hm : (byDue s.cur.acc.inflight)[n]? = some m)
include h hm

theorem execMultiTurnComplete_due (hd : m.due < s.cycle) : execMultiTurnComplete s.cur.place.uid n s =
    .next ((s.completeResult m).modAcc (fun a => { a with inflight := a.inflight.erase m })) := by
  rw [execMultiTurnComplete, asGroup_cur h]
  simp only [hm]
  rw [if_neg (Nat.not_le.mpr hd)]

theorem execMultiTurnComplete_early (hd : s.cycle ≤ m.due) : execMultiTurnComplete s.cur.place.uid n s = .next s := by
  rw [execMultiTurnComplete, asGroup_cur h]
  simp only [hm]
  rw [if_pos hd]

end

/-! ## The end of a turn -/

theorem countWaits_barrel (s : State) : s.countWaits.cur.place = s.cur.place ∧ s.countWaits.others = s.others := by
  rw [State.countWaits]
  split <;> exact ⟨rfl, rfl⟩

/-- How long it is to the next turn depends on the places of the groups only. -/
theorem untilNext_congr (h : t.cur.place = s.cur.place ∧ t.others = s.others) : t.untilNext = s.untilNext := by
  obtain ⟨hp, ho⟩ := h
  simp only [State.untilNext, State.nextGroup, hp, ho]

/-- The end of a turn up to GROUP_CYCLES: results, delays, watchdogs and merging. -/
def merged (s : State) (j : Option (Fin 4)) : State :=
  ((s.landBefore (s.cycle + 1)).modCtl (fun c => c.fallDly j)).countWaits.modCtl Ctl.mergeAll

/-- What the end of a turn has done before it passes the turn on. -/
def settled (s : State) (j : Option (Fin 4)) : State :=
  if (merged s j).cur.place.used then (merged s j).tally 14 8 else merged s j

theorem endTurn_eq (s : State) (j : Option (Fin 4)) : s.endTurn j =
    { (settled s j).nextTurn with phase := if (settled s j).untilNext = 0 then .issue else .event 64 } := rfl

theorem modCtl_others (s : State) (f : Ctl → Ctl) : (s.modCtl f).others = s.others := rfl

theorem merged_barrel (s : State) (j : Option (Fin 4)) : (merged s j).cur.place = s.cur.place ∧ (merged s j).others = s.others := by
  obtain ⟨hp, ho⟩ := countWaits_barrel ((s.landBefore (s.cycle + 1)).modCtl (fun c => c.fallDly j))
  obtain ⟨lp, lo⟩ := landBefore_barrel s (s.cycle + 1)
  simp only [merged, State.modCtl_place, modCtl_others, hp, ho, lp, lo, and_self]

theorem tally_barrel (s : State) (e n : Nat) : (s.tally e n).cur.place = s.cur.place ∧ (s.tally e n).others = s.others := ⟨rfl, rfl⟩

theorem settled_barrel (s : State) (j : Option (Fin 4)) :
    (settled s j).cur.place = s.cur.place ∧ (settled s j).others = s.others := by
  obtain ⟨hp, ho⟩ := tally_barrel (merged s j) 14 8
  obtain ⟨mp, mo⟩ := merged_barrel s j
  unfold settled
  split
  · exact ⟨hp.trans mp, ho.trans mo⟩
  · exact ⟨mp, mo⟩

theorem endTurn_phase (s : State) (j : Option (Fin 4)) : (s.endTurn j).phase = if s.untilNext = 0 then .issue else .event 64 := by
  rw [endTurn_eq, untilNext_congr (settled_barrel s j)]

/-! ## The watchdog (20 R357, R358) -/

theorem expired_iff {c : Ctx} (hc : s.myCtx = some c) (i : Fin 4) : s.expired i = true ↔
    s.cur.ctl.watched i = true ∧ 2 ^ bitsOf c.wdog.toNat 5 0 ≤ (s.cur.ctl.split i).wdog := by
  simp [State.expired, State.wdogLimit, hc]

theorem execStallTimeout_running {i : Fin 4} (h : s.expired i = false) (uid : Nat) : execStallTimeout uid i s = .next s := by
  simp [execStallTimeout, h]

theorem execStallTimeout_expired {i : Fin 4} (hu : s.cur.place.used = true) (h : s.expired i = true) :
    execStallTimeout s.cur.place.uid i s = .next s.timeOut := by
  simp [execStallTimeout, hu, h]

/-- One split alone has expired. -/
theorem filter_expired_single {i : Fin 4} (h : s.expired i = true) (ho : ∀ j, j ≠ i → s.expired j = false) :
    splitNums.filter s.expired = [i] := by
  have hp : s.expired = fun j => decide (j = i) := by
    funext j
    by_cases hj : j = i
    · simp [hj, h]
    · simp [hj, ho j hj]
  have one : ∀ i : Fin 4, splitNums.filter (fun j => decide (j = i)) = [i] := by decide
  rw [hp, one i]

/-- What a time-out takes back besides the flags: an arrival at a barrier, or the reservation of a push. -/
def takeBack (s : State) (w : Wait) : State :=
  match w with
  | .bar l _ true => s.leaveBar l
  | .push _ n first _ _ => s.cancelPush s.myPart n first
  | _ => s

/-- The group stops at the bundle of split `i`, with the flags set that its instruction had consumed. -/
def stopAt (s : State) (i : Fin 4) (es : List TrapEntry) : State :=
  (((s.refund i).modCtl (fun c => c.setSplit i (c.split i).rewound)).forSplit i).takeTraps es

theorem timeOut_single {i : Fin 4} (h : splitNums.filter s.expired = [i]) {es : List TrapEntry} (ht : s.timedOut i = (es, u)) :
    s.timeOut = stopAt (takeBack u (s.cur.ctl.split i).wait) i es := by
  have hu : (u.cur.ctl.split i).wait = (s.cur.ctl.split i).wait :=
    (congrArg (fun x => (x.2.cur.ctl.split i).wait) ht).symm
  rw [State.timeOut, h]
  simp only [List.foldl, ht]
  rw [hu]
  rfl

theorem takeBack_none {w : Wait} (hb : ∀ l nf, w ≠ .bar l nf true) (hp : ∀ d m f b l, w ≠ .push d m f b l) : takeBack s w = s := by
  unfold takeBack
  split
  · exact absurd rfl (hb _ _)
  · exact absurd rfl (hp _ _ _ _ _)
  · rfl

theorem takeDeferred_of_none (h : s.cur.trap.deferred = []) (p : OpKind → Bool) (before : Nat) :
    s.takeDeferred p before = ([], s) := by
  have hs : s = s.modTrap fun t => { t with deferred := [] } := by
    rw [← h]
    rfl
  rw [hs]
  rfl

theorem timedOut_of_none (h : s.cur.trap.deferred = []) (i : Fin 4) : s.timedOut i =
    ([(s.forSplit i).entry 5 (s.forSplit i).bundlePc 0 (s.forSplit i).bundlePc.toNat 0], s.forSplit i) := by
  have hd : (s.forSplit i).cur.trap.deferred = [] := h
  rw [State.timedOut, takeDeferred_of_none hd]
  rfl

/-- Settles O49: the turn by the arithmetic of the barrel, results as writes of registers, the time-out by its one split. -/
theorem turnsAndWatchdogs : Obligations.TurnsAndWatchdogs := by
  unfold Obligations.TurnsAndWatchdogs
  refine fun s n => ⟨rfl, endTurn_phase s, alignCycle_position s, ?next, nextTurn_alone, ?cycle, fun m => execMultiTurnComplete_due,
    fun m => execMultiTurnComplete_early, completeResult_flag s, fun c i hc => expired_iff hc i,
    fun i h => execStallTimeout_running h _, ?stall, ?push, fun i h => timedOut_of_none h i⟩
  case next =>
    intro g rest h
    obtain ⟨b, hb, hn, hd⟩ := nextGroup_nearest h
    exact ⟨b, hb, by rw [nextTurn_of_some hn]; rfl, hd⟩
  case cycle => exact fun b hb => by rw [nextTurn_of_some hb]; rfl
  case stall =>
    intro i es u hu h ho ht hb hp
    refine (execStallTimeout_expired hu h).trans (congrArg Host.Outcome.next ?_)
    rw [timeOut_single (filter_expired_single h ho) ht, takeBack_none hb hp, stopAt]
  case push =>
    intro i es u d m f b l hu h ho ht hw
    refine (execStallTimeout_expired hu h).trans (congrArg Host.Outcome.next ?_)
    rw [timeOut_single (filter_expired_single h ho) ht, hw, takeBack, stopAt]

end Sys2Proof.Proofs.Turns

/-!
# The region of a team whose switched-out group still has its seat

A group that has exited is released. Another group of its team on the core is switched out, and its storage is kept until its image is
written (20 R355): it is still seated, so that the team's region stays (02 R33). The statement asks that the region be free once the
released group was the last resident one, and says nothing of groups that are switched out.
-/

namespace Sys2Proof.Proofs.Release

open Sys2Proof Sys2Proof.Machine

/-- A switched-out group of launch 0 in slot 1 of core 0, whose image has still to be written. -/
def keptGroup : OutGroup :=
  ⟨{ probeGroup 2 with place := { (probeGroup 2).place with slot := 1, flat := 1 } }, false, false, [], [], [], true⟩

/-- Group 1, alone resident, has exited on core 0; the region of its launch lies there, and `keptGroup` still has its seat. -/
def sharedRegion : State :=
  { State.reset with
    cur := { probeGroup 1 with ctl := { (probeGroup 1).ctl with exited := true } }
    out := [keptGroup]
    scratch := [⟨0, 0, 0, 64, [], [], [], [], 0⟩] }

/-- The released group has left its seat, `keptGroup` has not, and the region stays. -/
theorem groupRelease_sharedRegion {t : State} (h : exec (.groupRelease 1) sharedRegion = .next t) :
    t.scratch = sharedRegion.scratch := by
  cases h
  rfl

/-- Refutes O43: where a switched-out group of the team still has its seat, the release of the last resident group leaves the team's
region on the core (`sharedRegion`). -/
theorem not_recordsRingsAndEndsOfGroups : ¬ Obligations.RecordsRingsAndEndsOfGroups := by
  unfold Obligations.RecordsRingsAndEndsOfGroups
  rintro ⟨-, h⟩
  obtain ⟨-, -, -, -, -, -, -, -, -, -, -, -, -, -, -, released⟩ := h sharedRegion 0 1
  obtain ⟨t, ht, -, -, -, freed⟩ := released sharedRegion.cur rfl rfl rfl rfl rfl rfl rfl rfl rfl rfl rfl
  have kept := groupRelease_sharedRegion ht
  rw [kept] at freed
  exact absurd freed (by decide)

end Sys2Proof.Proofs.Release

/-!
# Words and instructions

Decoding gives back every encoded instruction (one law for each constructor stands in `Laws.Encodes`), and a word that decodes is
the word of what it decodes to (04 R64, R66, R81). For the second, a table of the decoder reads from a number only instructions whose
word has that number: `Reads`. Each of its entries comes down to one fact of arithmetic, `cast_bf`, by which the fields of a number
add up to the number again.
-/

namespace Sys2Proof.Proofs.Words

open Sys2Proof

section

open Sys2Proof.Laws.Encodes

/-- Settles O52, by the law of each constructor in the order of the opcode table; an event has no word. -/
theorem encodedInstructionsDecode : Obligations.EncodedInstructionsDecode := by
  unfold Obligations.EncodedInstructionsDecode
  intro i
  exact i.casesOn (motive := Statement)
    sadd ssub smullo smulhiS smulhiU smad sminS sminU smaxS smaxU saddsS saddsU saddc ssubb sabs sneg sand sor sxor sandn snot
    sshl sshr ssar srot sclz spop sbrev sbfeU sbfeS sbfi sunpack scmp smov sext8S sext8U sext16S sext16U slea ssel spack
    saddImm sandImm sorImm sxorImm sshlImm sshrImm ssarImm smovi sdivS sdivU sremS sremU vadd vsub vmullo vmulhiS vmulhiU vmad
    vminS vminU vmaxS vmaxU vaddsS vaddsU vabs vneg vsel vmov vand vor vxor vandn vnot vshl vshr vsar vrot vclz vpop vbrev
    vbfeU vbfeS vbfi vlea vcmp vext8S vext8U vext16S vext16U vpack vunpack vaddImm vandImm vorImm vxorImm vshlImm vshrImm
    vsarImm vmovi vdivS vdivU vremS vremU vfadd vfsub vfmul vfma vfms vfnma vfminNum vfminProp vfmaxNum vfmaxProp vfabs vfneg
    vfscale vfround vfclass vfcmp vcvt vpkE4m3 vpkE5m2 vpkIo4 vunpkE4m3 vunpkE5m2 vunpkIo4 vhaddF16 vhaddBf16 vhmulF16
    vhmulBf16 vhfmaF16 vhfmaBf16 vfrcp vfrsq vfsqrt vfexp2 vflog2 vfsin vfcos vfdot2Bf16 vfdot4Fp8 vshuf vlrot vscan vscanExcl
    vred vbcast kand kor kxor knot kmov kpop kfirst vballot vrngRd vrngSeed vrngStep brZ brNz brLt brGe call jmp brkAny
    brkNone brd mark ret jmpReg callReg sld sst vld vst vldg vsts spld spst cld atomScalar atomVector red redClose fenceRel
    fenceAr cp cpFill cpT stMc pf zclaim zrel zzero oclaim orel oload mmul mloop mdrain mfence mwait mstat tinv tprobe rteAnn
    rteWd rteRole rteQ rteSync cobjDecl cobjDrop cobjSync cobjSyncShared cobjReclaim tdtSet tdtGet tdtDrop treeSet launch
    wlPush wlPop wlDone tierRec tierHintUp tierHintDown tierQ waitc waitF bar pcrd trap rcp sysrd syswr halt hintLit hintLith
    hintDly hintFlg hintRnd hintScp hintNop nop join exit mresume mresumeAbandon tret yield fenceAcq0 fenceAcq1 fenceAcq2
    fenceAcq3 fenceAcq4 fenceAcq5 fenceAcq6 fenceAcq7 fenceAcq8 fenceAcq9 fenceAcq10 fenceAcq11 fenceAcq12 fenceAcq13
    fenceAcq14 fenceAcq15 hintMsk0 hintMsk1 hintMsk2 hintMsk3 hintMsk4 hintMsk5 hintMsk6 hintMsk7 hintMsk8 hintMsk9 hintMsk10
    hintMsk11 hintMsk12 hintMsk13 hintMsk14 hintMsk15 hintRet0 hintRet1 hintRet2 hintRet3 groupTurn multiTurnComplete
    blockClearComplete groupRelease stallTimeout hurdlePass groupPlacement gangAgeExpire recordDone completionStore
    translationWalk tinvComplete storeBufferDrain writeApply writeReadable applyNotice echoReceive fillWrite echoAckReceive
    echoDeadline leaseRenewal renewalReceive leaseEnd readRequest refusalReroute loadComplete storeResponse invalidate
    relayReceive relayRefusal routerAnswer rteSyncDone holderAbsent cobjDirectoryRequest partialFold mergeChildArrive
    mergeNodeTimeout snoopRetry snoopTimeout multicastForward auditIntervalEnd copyStart copyComplete copyFault
    matrixCommandComplete matrixCommandFault ringKick ringReadSlot ringRetry contextSwitchOut tierMoveStart tierAnnounceAnswer
    tierFillDone tierHandoverAnswer tierMoveEnd tierFaultOffer announcementRequest announcementTimeout faultRecordOffer
    longParkSwitchout sliceEnd graceEnd deadlineExpire resetComplete contextResident flitReceive laneSpare linkFail linkUp
    sessionRekey hostSnoop hostMemRequest powerOn attest worldCreate worldGrant worldRevoke worldDestroy partSet ctxCreate
    ctxDestroy ctxPreempt ringSet ringKey powerCompare trayRemoveRequest trayCancel trayQuiesce trayPowerOff trayInsert
    wearUpdate partDescWrite tqWrite rteCostWrite cobjQWrite wlCfgWrite wlReset ringBaseWrite ringCtlWrite ringEnable
    ringDisable tierCfgWrite fqDone erqLostClear wdogWrite pcclr pwrCapWrite sysregWrite illegalOpcode softError
    dramLineAltered snoopReceive snoopAnswer itemClearComplete tierFillRead mailboxBadCmd

end

/-- Settles O54: each word is the one that the encoder gives to the named instruction, and so it decodes to it. -/
theorem wordsOfTheSpec : Obligations.WordsOfTheSpec := by
  unfold Obligations.WordsOfTheSpec
  and_intros <;> exact encodedInstructionsDecode _ _ rfl

/-! ## What a table of the decoder reads -/

section

variable {P : Instr → Prop} {b : Bool} {i : Instr} {o p : Option Instr}

/-- `P` holds of the instruction that is read, if one is. -/
def Each (P : Instr → Prop) (o : Option Instr) : Prop := ∀ i, o = some i → P i

theorem each_none : Each P none := fun _ h => nomatch h

theorem each_some (h : P i) : Each P (some i) := by
  rintro _ ⟨⟩
  exact h

theorem each_onlyIf (h : b = true → P i) : Each P (onlyIf b i) := by
  cases b with
  | false => exact each_none
  | true => exact each_some (h rfl)

theorem each_orElse (ho : Each P o) (hp : Each P p) : Each P (o <|> p) := by
  cases o with
  | none => exact hp
  | some j => exact ho

end

/-! ## The word of what a table reads

In `reads_some`, `reads_onlyIf` and `reads_onlyIf_and` the sum of the fields is the default proof of the hypothesis: it takes the
major opcode, the minor one and the fixed fields from the context. -/

section

-- As in `Laws.Encodes`: so many small proofs are not made on threads of their own.
set_option Elab.async false

variable {m n lo k v lo' k' v' : Nat} {i : Instr}

/-- Every instruction that is read has the word of number `n`. -/
abbrev Reads (n : Nat) (o : Option Instr) : Prop := Each (fun i => encode i = word n) o

/-- A field is what the bits from its first on hold beyond the bits from its end on. -/
theorem cast_bf (k n lo : Nat) :
    ((bf k n lo).toNat : Int) = (n / 2 ^ lo : Nat) - 2 ^ k * (n / 2 ^ (lo + k) : Nat) := by
  have split := Nat.div_add_mod (n / 2 ^ lo) (2 ^ k)
  rw [bf, BitVec.toNat_ofNat, Nat.pow_add, ← Nat.div_div_eq_div_mul]
  zify at split ⊢
  omega

theorem word_of_cast (h : (m : Int) = n) : word m = word n := by
  rw [Int.natCast_inj.mp h]

theorem eq_of_fx (h : fx n lo k v = true) : n / 2 ^ lo % 2 ^ k = v := of_decide_eq_true h

theorem reads_some (h : encode i = word n := by
      exact word_of_cast (by simp only [Int.natCast_add, Int.natCast_mul, Int.cast_ofNat_Int, cast_bf]; omega)) :
    Reads n (some i) := each_some h

theorem reads_onlyIf (h : n / 2 ^ lo % 2 ^ k = v → encode i = word n := by
      intro fixed
      exact word_of_cast (by simp only [Int.natCast_add, Int.natCast_mul, Int.cast_ofNat_Int, cast_bf]; omega)) :
    Reads n (onlyIf (fx n lo k v) i) := each_onlyIf fun f => h (eq_of_fx f)

theorem reads_onlyIf_and (h : n / 2 ^ lo % 2 ^ k = v → n / 2 ^ lo' % 2 ^ k' = v' → encode i = word n := by
      intro fixed fixed'
      exact word_of_cast (by simp only [Int.natCast_add, Int.natCast_mul, Int.cast_ofNat_Int, cast_bf]; omega)) :
    Reads n (onlyIf (fx n lo k v && fx n lo' k' v') i) :=
  each_onlyIf fun f => h (eq_of_fx (Bool.and_eq_true_iff.mp f).1) (eq_of_fx (Bool.and_eq_true_iff.mp f).2)

theorem encode_pickFenceAcq (fixed : n / 2 ^ 0 % 2 ^ 16 = 0) (hn : n / 2 ^ 20 = 0xAC0) :
    encode (pickFenceAcq (n / 2 ^ 16 % 2 ^ 4)) = word n := by
  have table : ∀ c < 16, encode (pickFenceAcq c) = word (0xAC000000 + 65536 * c) := by decide
  rw [table _ (by omega)]
  congr 1
  omega

theorem encode_pickHintMsk (fixed : n / 2 ^ 4 % 2 ^ 20 = 0) (hn : n / 2 ^ 24 = 0xF9) :
    encode (pickHintMsk (n / 2 ^ 0 % 2 ^ 4)) = word n := by
  have table : ∀ c < 16, encode (pickHintMsk c) = word (0xF9000000 + c) := by decide
  rw [table _ (by omega)]
  congr 1
  omega

theorem encode_pickHintRet (fixed : n / 2 ^ 2 % 2 ^ 22 = 2097152) (hn : n / 2 ^ 24 = 0xF9) :
    encode (pickHintRet (n / 2 ^ 0 % 2 ^ 2)) = word n := by
  have table : ∀ c < 4, encode (pickHintRet c) = word (0xF9800000 + c) := by decide
  rw [table _ (by omega)]
  congr 1
  omega

theorem reads_decMaj01 (hm : n / 2 ^ 26 = 0x01) : Reads n (decMaj01 n) :=
  reads_onlyIf

theorem reads_decMaj02 (hm : n / 2 ^ 26 = 0x02) : Reads n (decMaj02 n) := by
  unfold decMaj02
  split
  case h_15 | h_16 => exact reads_onlyIf
  case h_17 => exact each_none
  all_goals exact reads_some

theorem reads_decMaj03 (hm : n / 2 ^ 26 = 0x03) : Reads n (decMaj03 n) := by
  unfold decMaj03
  split
  case h_5 | h_10 | h_11 | h_12 | h_16 => exact reads_onlyIf
  case h_17 => exact each_none
  all_goals exact reads_some

theorem reads_decMaj04 (hm : n / 2 ^ 26 = 0x04) : Reads n (decMaj04 n) := by
  unfold decMaj04
  split
  case h_2 =>
    exact each_orElse reads_onlyIf_and <| each_orElse reads_onlyIf_and <| each_orElse reads_onlyIf_and <|
      each_orElse reads_onlyIf_and <| each_orElse reads_onlyIf_and <| each_orElse reads_onlyIf_and <|
      each_orElse reads_onlyIf <| reads_onlyIf
  case h_3 => exact each_none
  case h_1 => exact reads_some

theorem reads_decMaj05 (hm : n / 2 ^ 26 = 0x05) : Reads n (decMaj05 n) := by
  unfold decMaj05
  split
  case h_8 => exact reads_onlyIf
  case h_9 => exact each_none
  all_goals exact reads_some

theorem reads_decMaj06 (hm : n / 2 ^ 26 = 0x06) : Reads n (decMaj06 n) := by
  unfold decMaj06
  split
  case h_3 => exact each_none
  all_goals exact reads_some

theorem reads_decMaj07 (hm : n / 2 ^ 26 = 0x07) : Reads n (decMaj07 n) := by
  unfold decMaj07
  split
  case h_3 => exact each_none
  all_goals exact reads_some

theorem reads_decMaj08 (hm : n / 2 ^ 26 = 0x08) : Reads n (decMaj08 n) := by
  unfold decMaj08
  split
  case h_13 | h_14 | h_16 => exact reads_onlyIf
  case h_17 => exact each_none
  all_goals exact reads_some

theorem reads_decMaj09 (hm : n / 2 ^ 26 = 0x09) : Reads n (decMaj09 n) := by
  unfold decMaj09
  split
  case h_5 | h_10 | h_11 | h_12 => exact reads_onlyIf
  case h_17 => exact each_none
  all_goals exact reads_some

theorem reads_decMaj0A (hm : n / 2 ^ 26 = 0x0A) : Reads n (decMaj0A n) := by
  unfold decMaj0A
  split
  case h_2 =>
    exact each_orElse reads_onlyIf_and <| each_orElse reads_onlyIf_and <| each_orElse reads_onlyIf_and <|
      each_orElse reads_onlyIf_and <| each_orElse reads_onlyIf <| reads_onlyIf_and
  case h_3 => exact each_none
  case h_1 => exact reads_some

theorem reads_decMaj0B (hm : n / 2 ^ 26 = 0x0B) : Reads n (decMaj0B n) := by
  unfold decMaj0B
  split
  case h_8 => exact reads_onlyIf
  case h_9 => exact each_none
  all_goals exact reads_some

theorem reads_decMaj0C (hm : n / 2 ^ 26 = 0x0C) : Reads n (decMaj0C n) := by
  unfold decMaj0C
  split
  case h_3 => exact each_none
  all_goals exact reads_some

theorem reads_decMaj0D (hm : n / 2 ^ 26 = 0x0D) : Reads n (decMaj0D n) := by
  unfold decMaj0D
  split
  case h_3 => exact each_none
  all_goals exact reads_some

theorem reads_decMaj10 (hm : n / 2 ^ 26 = 0x10) : Reads n (decMaj10 n) := by
  unfold decMaj10
  split
  case h_11 | h_12 | h_14 | h_15 => exact reads_onlyIf
  case h_16 => exact each_none
  all_goals exact reads_some

theorem reads_decMaj11 (hm : n / 2 ^ 26 = 0x11) : Reads n (decMaj11 n) :=
  reads_onlyIf

theorem reads_decMaj12 (hm : n / 2 ^ 26 = 0x12) : Reads n (decMaj12 n) :=
  reads_onlyIf

theorem reads_decMaj13 (hm : n / 2 ^ 26 = 0x13) : Reads n (decMaj13 n) := by
  unfold decMaj13
  split
  case h_7 => exact each_none
  all_goals exact reads_some

theorem reads_decMaj14 (hm : n / 2 ^ 26 = 0x14) : Reads n (decMaj14 n) := by
  unfold decMaj14
  split
  case h_7 => exact each_none
  all_goals exact reads_some

theorem reads_decMaj15 (hm : n / 2 ^ 26 = 0x15) : Reads n (decMaj15 n) := by
  unfold decMaj15
  split
  case h_8 => exact each_none
  all_goals exact reads_onlyIf

theorem reads_decMaj16 (hm : n / 2 ^ 26 = 0x16) : Reads n (decMaj16 n) := by
  unfold decMaj16
  split
  case h_3 => exact each_none
  all_goals exact reads_some

theorem reads_decMaj18 (hm : n / 2 ^ 26 = 0x18) : Reads n (decMaj18 n) := by
  unfold decMaj18
  split
  case h_3 => exact each_none
  all_goals exact reads_some

theorem reads_decMaj19 (hm : n / 2 ^ 26 = 0x19) : Reads n (decMaj19 n) := by
  unfold decMaj19
  split
  case h_3 => exact each_none
  all_goals exact reads_some

theorem reads_decMaj1A (hm : n / 2 ^ 26 = 0x1A) : Reads n (decMaj1A n) := by
  unfold decMaj1A
  split
  case h_3 => exact each_none
  all_goals exact reads_some

theorem reads_decMaj1B (hm : n / 2 ^ 26 = 0x1B) : Reads n (decMaj1B n) := by
  unfold decMaj1B
  split
  case h_8 => exact reads_onlyIf_and
  case h_9 => exact each_orElse reads_onlyIf <| each_orElse reads_onlyIf <| reads_onlyIf
  case h_10 => exact each_none
  all_goals exact reads_onlyIf

theorem reads_decMaj1C (hm : n / 2 ^ 26 = 0x1C) : Reads n (decMaj1C n) := by
  unfold decMaj1C
  split
  case h_6 => exact reads_onlyIf
  case h_7 => exact each_none
  all_goals exact reads_some

theorem reads_decMaj1D (hm : n / 2 ^ 26 = 0x1D) : Reads n (decMaj1D n) := by
  unfold decMaj1D
  split
  case h_4 | h_5 => exact reads_onlyIf
  case h_6 => exact each_none
  all_goals exact reads_some

theorem reads_decMaj1E (hm : n / 2 ^ 26 = 0x1E) : Reads n (decMaj1E n) := by
  unfold decMaj1E
  split
  case h_5 => exact each_none
  all_goals exact reads_onlyIf

theorem reads_decMaj20 (hm : n / 2 ^ 26 = 0x20) : Reads n (decMaj20 n) :=
  reads_some

theorem reads_decMaj21 (hm : n / 2 ^ 26 = 0x21) : Reads n (decMaj21 n) :=
  reads_onlyIf

theorem reads_decMaj22 (hm : n / 2 ^ 26 = 0x22) : Reads n (decMaj22 n) :=
  reads_some

theorem reads_decMaj23 (hm : n / 2 ^ 26 = 0x23) : Reads n (decMaj23 n) :=
  reads_onlyIf

theorem reads_decMaj24 (hm : n / 2 ^ 26 = 0x24) : Reads n (decMaj24 n) :=
  reads_onlyIf

theorem reads_decMaj25 (hm : n / 2 ^ 26 = 0x25) : Reads n (decMaj25 n) :=
  reads_onlyIf_and

theorem reads_decMaj26 (hm : n / 2 ^ 26 = 0x26) : Reads n (decMaj26 n) :=
  reads_some

theorem reads_decMaj27 (hm : n / 2 ^ 26 = 0x27) : Reads n (decMaj27 n) := by
  unfold decMaj27
  split
  case h_3 => exact each_none
  all_goals exact reads_onlyIf

theorem reads_decMaj28 (hm : n / 2 ^ 26 = 0x28) : Reads n (decMaj28 n) :=
  reads_some

theorem reads_decMaj29 (hm : n / 2 ^ 26 = 0x29) : Reads n (decMaj29 n) :=
  reads_onlyIf

theorem reads_decMaj2A (hm : n / 2 ^ 26 = 0x2A) : Reads n (decMaj2A n) := by
  unfold decMaj2A
  split
  case h_3 => exact each_none
  all_goals exact reads_onlyIf

theorem reads_decMaj2B (hm : n / 2 ^ 26 = 0x2B) : Reads n (decMaj2B n) := by
  unfold decMaj2B
  split
  case h_1 => exact reads_onlyIf fun f => encode_pickFenceAcq f (by omega)
  case h_4 => exact each_none
  all_goals exact reads_onlyIf

theorem reads_decMaj2C (hm : n / 2 ^ 26 = 0x2C) : Reads n (decMaj2C n) := by
  unfold decMaj2C
  split
  case h_2 => exact reads_onlyIf
  case h_4 => exact each_none
  all_goals exact reads_some

theorem reads_decMaj2D (hm : n / 2 ^ 26 = 0x2D) : Reads n (decMaj2D n) := by
  unfold decMaj2D
  split
  case h_2 => exact reads_onlyIf
  case h_3 => exact each_none
  case h_1 => exact reads_some

theorem reads_decMaj2E (hm : n / 2 ^ 26 = 0x2E) : Reads n (decMaj2E n) := by
  unfold decMaj2E
  split
  case h_6 => exact each_none
  all_goals exact reads_onlyIf

theorem reads_decMaj2F (hm : n / 2 ^ 26 = 0x2F) : Reads n (decMaj2F n) := by
  unfold decMaj2F
  split
  case h_3 => exact reads_some
  case h_5 => exact each_none
  all_goals exact reads_onlyIf

theorem reads_decMaj30 (hm : n / 2 ^ 26 = 0x30) : Reads n (decMaj30 n) := by
  unfold decMaj30
  split
  case h_2 => exact reads_onlyIf_and
  case h_3 => exact each_orElse reads_onlyIf <| reads_onlyIf
  case h_5 => exact each_none
  all_goals exact reads_onlyIf

theorem reads_decMaj32 (hm : n / 2 ^ 26 = 0x32) : Reads n (decMaj32 n) := by
  unfold decMaj32
  split
  case h_1 => exact reads_some
  case h_8 => exact each_none
  all_goals exact reads_onlyIf

theorem reads_decMaj33 (hm : n / 2 ^ 26 = 0x33) : Reads n (decMaj33 n) := by
  unfold decMaj33
  split
  case h_1 | h_8 => exact reads_some
  case h_3 => exact each_orElse reads_onlyIf <| reads_onlyIf
  case h_9 => exact each_none
  all_goals exact reads_onlyIf

theorem reads_decMaj34 (hm : n / 2 ^ 26 = 0x34) : Reads n (decMaj34 n) := by
  unfold decMaj34
  split
  case h_3 => exact reads_some
  case h_6 => exact each_orElse reads_onlyIf <| reads_onlyIf
  case h_8 => exact each_none
  all_goals exact reads_onlyIf

theorem reads_decMaj35 (hm : n / 2 ^ 26 = 0x35) : Reads n (decMaj35 n) := by
  unfold decMaj35
  split
  case h_5 => exact each_none
  all_goals exact reads_onlyIf

theorem reads_decMaj36 (hm : n / 2 ^ 26 = 0x36) : Reads n (decMaj36 n) := by
  unfold decMaj36
  split
  case h_8 => exact each_none
  all_goals exact reads_onlyIf

theorem reads_decMaj3E (hm : n / 2 ^ 26 = 0x3E) : Reads n (decMaj3E n) := by
  unfold decMaj3E
  split
  case h_2 =>
    exact each_orElse (reads_onlyIf fun f => encode_pickHintMsk f (by omega)) <| each_orElse reads_onlyIf <|
      each_orElse (reads_onlyIf fun f => encode_pickHintRet f (by omega)) <| reads_onlyIf
  case h_3 => exact reads_some
  case h_4 => exact each_none
  case h_1 => exact each_orElse reads_onlyIf <| each_orElse reads_onlyIf <| each_orElse reads_onlyIf <| reads_onlyIf

/-- The major opcode chooses the table that reads the word. -/
theorem reads_decodeWord (w : Word) : Reads w.toNat (decodeWord w) := by
  unfold decodeWord
  simp only
  split
  next hm => exact reads_decMaj01 hm
  next hm => exact reads_decMaj02 hm
  next hm => exact reads_decMaj03 hm
  next hm => exact reads_decMaj04 hm
  next hm => exact reads_decMaj05 hm
  next hm => exact reads_decMaj06 hm
  next hm => exact reads_decMaj07 hm
  next hm => exact reads_decMaj08 hm
  next hm => exact reads_decMaj09 hm
  next hm => exact reads_decMaj0A hm
  next hm => exact reads_decMaj0B hm
  next hm => exact reads_decMaj0C hm
  next hm => exact reads_decMaj0D hm
  next hm => exact reads_decMaj10 hm
  next hm => exact reads_decMaj11 hm
  next hm => exact reads_decMaj12 hm
  next hm => exact reads_decMaj13 hm
  next hm => exact reads_decMaj14 hm
  next hm => exact reads_decMaj15 hm
  next hm => exact reads_decMaj16 hm
  next hm => exact reads_decMaj18 hm
  next hm => exact reads_decMaj19 hm
  next hm => exact reads_decMaj1A hm
  next hm => exact reads_decMaj1B hm
  next hm => exact reads_decMaj1C hm
  next hm => exact reads_decMaj1D hm
  next hm => exact reads_decMaj1E hm
  next hm => exact reads_decMaj20 hm
  next hm => exact reads_decMaj21 hm
  next hm => exact reads_decMaj22 hm
  next hm => exact reads_decMaj23 hm
  next hm => exact reads_decMaj24 hm
  next hm => exact reads_decMaj25 hm
  next hm => exact reads_decMaj26 hm
  next hm => exact reads_decMaj27 hm
  next hm => exact reads_decMaj28 hm
  next hm => exact reads_decMaj29 hm
  next hm => exact reads_decMaj2A hm
  next hm => exact reads_decMaj2B hm
  next hm => exact reads_decMaj2C hm
  next hm => exact reads_decMaj2D hm
  next hm => exact reads_decMaj2E hm
  next hm => exact reads_decMaj2F hm
  next hm => exact reads_decMaj30 hm
  next hm => exact reads_decMaj32 hm
  next hm => exact reads_decMaj33 hm
  next hm => exact reads_decMaj34 hm
  next hm => exact reads_decMaj35 hm
  next hm => exact reads_decMaj36 hm
  next hm => exact reads_decMaj3E hm
  next => exact each_none

end

/-- Settles O53: the word of what a word reads as has the same number. -/
theorem decodedWordsEncode : Obligations.DecodedWordsEncode := by
  unfold Obligations.DecodedWordsEncode
  intro w i h
  rw [reads_decodeWord w i h, word, BitVec.ofNat_toNat, BitVec.setWidth_eq]

end Sys2Proof.Proofs.Words

/-!
# Hint words

Every word of major opcode 0x3E that is an instruction is a hint (04 R76), and a hint is `hintWord`: it joins its bundle, or is
illegal as the ninth of it or by its payload (R78, R81).
-/

namespace Sys2Proof.Proofs.Hints

open Sys2Proof Sys2Proof.Machine Sys2Proof.Laws.Control Sys2Proof.Proofs.Words

/-- The instruction is a hint word: it joins the bundle in progress, or is illegal (04 R78, R81). -/
def IsHint (i : Instr) : Prop := ∀ s, ∃ legal set, exec i s = hintWord legal set s

theorem exec_pickHintMsk {c : Nat} (h : c < 16) (s : State) :
    exec (pickHintMsk c) s = hintWord true (fun b => { b with msk := some (BitVec.ofNat 4 c) }) s := by
  interval_cases c <;> rfl

theorem exec_pickHintRet {c : Nat} (h : c < 4) (s : State) :
    exec (pickHintRet c) s = hintWord true (fun b => { b with ret := some (BitVec.ofNat 2 c) }) s := by
  interval_cases c <;> rfl

/-- The payload of RND, from its fields (04 R77). -/
theorem rnd_payload (t : BitVec 2) (z : BitVec 1) (m : BitVec 3) :
    BitVec.ofNat 6 (16 * t.toNat + 8 * z.toNat + m.toNat) = t ++ z ++ m := by
  decide +revert

/-- The payload of SCP, from its fields (04 R77). -/
theorem scp_payload (g : BitVec 4) (o : BitVec 2) : BitVec.ofNat 6 (4 * g.toNat + o.toNat) = g ++ o := by
  decide +revert

theorem exec_hintRnd (t : BitVec 2) (z : BitVec 1) (m : BitVec 3) (s : State) :
    exec (.hintRnd t z m) s = hintWord (decide (m.toNat ≤ 4) && decide (t.toNat ≤ 2))
      (fun b => { b with rnd := some (t ++ z ++ m) }) s := by
  rw [← rnd_payload]
  rfl

theorem exec_hintScp (g : BitVec 4) (o : BitVec 2) (s : State) :
    exec (.hintScp g o) s = hintWord (decide (g.toNat ≤ 5)) (fun b => { b with scp := some (g ++ o) }) s := by
  rw [← scp_payload]
  rfl

/-- Major opcode 0x3E holds hints only (04 R76). -/
theorem isHint_decMaj3E (n : Nat) : Each IsHint (decMaj3E n) := by
  unfold decMaj3E
  split
  case h_1 =>
    exact each_orElse (each_onlyIf fun _ _ => ⟨true, fun b => { b with lit := some (bf 22 n 0) }, rfl⟩) <|
      each_orElse (each_onlyIf fun _ _ => ⟨true, fun b => { b with lith := some (bf 22 n 0) }, rfl⟩) <|
      each_orElse (each_onlyIf fun _ _ => ⟨true, fun b => { b with dly := (bf 6 n 0).toNat }, rfl⟩) <|
      each_onlyIf fun _ _ => ⟨true, fun b => { b with flg := bf 12 n 0 }, rfl⟩
  case h_2 =>
    exact each_orElse (each_onlyIf fun _ s => ⟨_, _, exec_pickHintMsk (Nat.mod_lt _ (by decide)) s⟩) <|
      each_orElse (each_onlyIf fun _ s => ⟨_, _, exec_hintRnd _ _ _ s⟩) <|
      each_orElse (each_onlyIf fun _ s => ⟨_, _, exec_pickHintRet (Nat.mod_lt _ (by decide)) s⟩) <|
      each_onlyIf fun _ s => ⟨_, _, exec_hintScp _ _ s⟩
  case h_3 => exact each_some fun _ => ⟨true, fun b => b, rfl⟩
  case h_4 => exact each_none

theorem isHint_of_major {i : Instr} {w : Word} (h : encode i = some w) (hm : w.toNat / 2 ^ 26 = 0x3E) : IsHint i := by
  have hd := encodedInstructionsDecode i w h
  have table := Laws.Encodes.major_3E w.isLt hm
  rw [BitVec.ofNat_toNat, BitVec.setWidth_eq, hd] at table
  exact isHint_decMaj3E _ i table.symm

theorem hintRnd_joins {s : State} {t : BitVec 2} {m : BitVec 3} (z : BitVec 1) (h : s.hints.count < 8) (hm : m.toNat ≤ 4)
    (ht : t.toNat ≤ 2) : exec (.hintRnd t z m) s = .next (s.hinted (fun b => { b with rnd := some (t ++ z ++ m) })) :=
  hint_joins (exec_hintRnd t z m s) h (by simp [hm, ht])

theorem hintScp_joins {s : State} {g : BitVec 4} (o : BitVec 2) (h : s.hints.count < 8) (hg : g.toNat ≤ 5) :
    exec (.hintScp g o) s = .next (s.hinted (fun b => { b with scp := some (g ++ o) })) :=
  hint_joins (exec_hintScp g o s) h (by simp [hg])

theorem hintRnd_illegal {t : BitVec 2} {m : BitVec 3} (z : BitVec 1) (s : State) (h : 4 < m.toNat ∨ 2 < t.toNat) :
    exec (.hintRnd t z m) s = .next (s.trapExact 1 0 0) := by
  refine hint_traps (exec_hintRnd t z m s) (.inr ?_)
  rcases h with h | h <;> simp [Nat.not_le.mpr h]

theorem hintScp_illegal {g : BitVec 4} (o : BitVec 2) (s : State) (h : 5 < g.toNat) :
    exec (.hintScp g o) s = .next (s.trapExact 1 0 0) :=
  hint_traps (exec_hintScp g o s) (.inr (by simp [Nat.not_le.mpr h]))

theorem ninth_hint_illegal {i : Instr} {s : State} (hi : IsHint i) (h : 8 ≤ s.hints.count) :
    exec i s = .next (s.trapExact 1 0 0) := by
  obtain ⟨legal, set, he⟩ := hi s
  exact hint_traps he (.inl h)

/-- Settles O16, by `hint_joins` for each kind, and for the ninth hint by what an encoded word of major opcode 0x3E is. -/
theorem hintWordsInBundles : Obligations.HintWordsInBundles := by
  unfold Obligations.HintWordsInBundles
  refine ⟨fun s p n f t o z m g room => ?_, fun s => ⟨?_, fun t z m => hintRnd_illegal z s, fun g o => hintScp_illegal o s⟩⟩
  · have joins {i : Instr} {set : Bundle → Bundle} (he : exec i s = hintWord true set s) : exec i s = .next (s.hinted set) :=
      hint_joins he room rfl
    exact ⟨joins rfl, joins rfl, joins rfl, joins rfl, hintRnd_joins z room, hintScp_joins o room, joins rfl,
      joins rfl, joins rfl, joins rfl, joins rfl, joins rfl, joins rfl, joins rfl, joins rfl, joins rfl, joins rfl, joins rfl,
      joins rfl, joins rfl, joins rfl, joins rfl, joins rfl, joins rfl, joins rfl, joins rfl, joins rfl⟩
  · rintro i ⟨w, hw, hm⟩ full
    exact ninth_hint_illegal (isHint_of_major hw hm) full

end Sys2Proof.Proofs.Hints

/-!
# Branches and calls
-/

namespace Sys2Proof.Proofs.Branches

open Sys2Proof Sys2Proof.Machine Sys2Proof.Laws.Control

/-- A branch goes to its target where its condition holds in the state in which it has issued. -/
theorem does_branch {i : Instr} {s : State} {n : Nat} {d : BitVec n} {p : State → Prop} [∀ t, Decidable (p t)]
    (he : exec i s = issue i s (fun t => branchIf (decide (p t)) d t)) :
    Does i s (fun t => if p t then t.setPc (s.jumpTo d) else t) :=
  Laws.Issue.does_at he (by simp only [branchIf, target_issued, decide_eq_true_eq])

theorem does_jmp (s : State) (d : BitVec 17) : Does (.jmp d) s (fun t => t.setPc (s.jumpTo d)) :=
  Laws.Issue.does_at rfl (by simp only [branchIf, target_issued, if_true])

theorem does_call (s : State) (r : BitVec 6) (d : BitVec 17) :
    Does (.call r d) s (fun t => (t.setSreg r.toNat ((s.pc + 4).setWidth 64)).setPc (s.jumpTo d)) :=
  Laws.Issue.does_at rfl (by simp only [State.issued_pc, target_issued])

theorem does_callReg (s : State) (r l : BitVec 6) : Does (.callReg r l) s
    (fun t => (t.setSreg l.toNat ((s.pc + 4).setWidth 64)).setPc ((t.sreg r.toNat).setWidth 48 &&& ~~~3)) :=
  Laws.Issue.does_at rfl (by simp only [State.issued_pc, codeAddr_eq])

/-- An instruction that goes to the address in a scalar. -/
theorem does_goto {i : Instr} {s : State} {r : Nat} (he : exec i s = issue i s (fun t => .ok (t.setPc (codeAddr (t.sreg r))))) :
    Does i s (fun t => t.setPc ((t.sreg r).setWidth 48 &&& ~~~3)) :=
  Laws.Issue.does he (fun t => by rw [codeAddr_eq])

/-- Settles O13: the target that a branch computes past its word is the one counted from its word. -/
theorem branchesAndCalls : Obligations.BranchesAndCalls := by
  unfold Obligations.BranchesAndCalls
  intro s r l k d e
  exact ⟨does_branch rfl, does_branch rfl, does_branch rfl, does_branch rfl, does_call s r d, does_jmp s d, does_goto rfl,
    does_goto rfl, does_callReg s r l, does_branch rfl, does_branch rfl⟩

end Sys2Proof.Proofs.Branches

/-!
# The checks before an instruction's own meaning

Every encoded instruction but a hint issues through `issueState` (`Laws.Step.issues`), whose checks stand in `Laws.Issue`. What is
left is the test of the flags.
-/

namespace Sys2Proof.Proofs.Checks

open Sys2Proof Sys2Proof.Machine

variable {s : State} {m : BitVec 12}

/-- The flags that a mask names (20 R354). -/
def named (m : BitVec 12) : List Nat := (List.range 12).filter (fun n => m.getLsbD n)

theorem mem_named {n : Nat} : n ∈ named m ↔ n < 12 ∧ m.getLsbD n = true := by
  simp [named]

theorem all_named {p : Nat → Bool} : (named m).all p = true ↔ ∀ n < 12, m.getLsbD n = true → p n = true := by
  simp only [List.all_eq_true, mem_named, and_imp]

theorem flagWait_eq (s : State) (m : BitVec 12) : s.flagWait m =
    if (named m).all (fun n => (s.flag n).set) then .satisfied
    else if (named m).any (fun n => !(s.flag n).set && (s.flag n).pend == 0) then .never
    else .pending := rfl

theorem flagWait_eq_satisfied : s.flagWait m = .satisfied ↔ ∀ n < 12, m.getLsbD n = true → (s.flag n).set = true := by
  rw [flagWait_eq, ← all_named]
  split_ifs with all <;> simp [all]

/-- A named flag that can never be set is not set, so that the wait is not satisfied. -/
theorem flagWait_eq_never :
    s.flagWait m = .never ↔ ∃ n < 12, m.getLsbD n = true ∧ (s.flag n).set = false ∧ (s.flag n).pend = 0 := by
  have dead : (named m).any (fun n => !(s.flag n).set && (s.flag n).pend == 0) = true ↔
      ∃ n < 12, m.getLsbD n = true ∧ (s.flag n).set = false ∧ (s.flag n).pend = 0 := by
    simp [mem_named, and_assoc]
  rw [flagWait_eq, ← dead]
  split_ifs with all never
  · refine iff_of_false nofun fun never => ?_
    obtain ⟨n, hn, bit, unset, -⟩ := dead.mp never
    exact Bool.false_ne_true (unset.symm.trans (all_named.mp all n hn bit))
  · exact iff_of_true rfl never
  · exact iff_of_false nofun never

/-- Settles O58, by the checks of `issueState` in their order and the test of the flags that the mask names. -/
theorem checksBeforeIssue : Obligations.ChecksBeforeIssue := by
  unfold Obligations.ChecksBeforeIssue
  rintro s i ⟨w, hw, hm⟩
  obtain ⟨body, he⟩ | ⟨w', hw', hm'⟩ | hn := Laws.Step.issues i s
  · have answers {t : State} (h : issueState i s body = t) : exec i s = .next t := by rw [he, issue, h]
    exact ⟨fun h => answers (Laws.Issue.of_never h), fun h => answers (Laws.Issue.of_pending h),
      fun hf hl => answers (Laws.Issue.of_level hf hl),
      fun hf hl h => answers (Laws.Issue.of_illegal hf hl (Bool.and_eq_false_iff.mpr h)),
      fun r hf hl hk hh h => answers (Laws.Issue.of_bad hf hl hk hh h), flagWait_eq_satisfied, flagWait_eq_never⟩
  · obtain rfl := Option.some.inj (hw'.symm.trans hw)
    exact absurd hm' hm
  · exact absurd (hn.symm.trans hw) (by simp)

end Sys2Proof.Proofs.Checks

/-!
# The state at reset

The registers that the field maps give a reset value stand in `Pkg.reset`, `VdidRegs.reset` and `Ring.reset`; memory has no cell.
-/

namespace Sys2Proof.Proofs.ResetState

open Sys2Proof Sys2Proof.Machine

theorem reset_ring {r : Ring} (h : r ∈ State.reset.rings.toList) : r = Ring.reset :=
  List.eq_of_mem_replicate h

theorem reset_s2root {v : Nat} (h : v < 64) : State.reset.vregs.s2root[v]? = some 0 := by
  simp [State.reset, VdidRegs.reset, h]

/-- Memory without a cell reads as unlisted everywhere. -/
theorem reset_bytesAt (h a : Nat) : State.reset.bytesAt h a 1 = [0] := rfl

/-- Settles O57: the registers of the package by their values, rings and stage-2 roots as copies of one value. -/
theorem resetValues : Obligations.ResetValues := by
  unfold Obligations.ResetValues
  refine ⟨rfl, rfl, rfl, rfl, rfl, rfl, rfl, fun r hr => ?rings, fun _ => reset_s2root, rfl, rfl, reset_bytesAt⟩
  case rings =>
    rw [reset_ring hr]
    exact ⟨rfl, rfl, rfl⟩

end Sys2Proof.Proofs.ResetState

/-!
# System registers

What the instructions that reach them do, which register a number names, and what a read gives and a write stores. A write of a
register of several, one for each VDID or partition, writes the one that the number names.
-/

namespace Sys2Proof.Proofs.SystemRegisters

open Sys2Proof Sys2Proof.Machine

section
variable (s : State) (i : Instr)

/-! ## The state in which the access has issued -/

theorem issued_special (n : Nat) : (s.issued i).special n = s.special n := by
  simp only [State.special, State.lvl, State.rec?, State.pkgNum, State.pace, State.issued_place, State.issued_iss,
    State.issued_recs, State.issued_pkg, State.issued_ps, State.issued_myWorld, State.issued_myVdid, State.issued_trap]

theorem issued_src (n : Nat) : (s.issued i).src n = s.src n := by
  simp only [State.src, State.issued_sreg, issued_special]

theorem issued_badSel (n : Nat) : (s.issued i).badSel n = s.badSel n := by
  simp only [State.badSel, State.selCtx, State.ctx?, State.issued_trap, State.issued_ctxs, State.issued_place]

end

/-! ## Reading and writing (19 R331, R334, R350) -/

section
variable {s : State} {n b : Nat}

theorem doSysrd_of_assigned (d : Nat) (ha : (regRead? n).isSome = true) (hs : s.badSel n = false) :
    doSysrd d n s = .ok (s.setSreg d (s.readReg n)) := by
  rw [doSysrd, if_neg (by simp [← Option.not_isSome, ha, hs])]

theorem doSysrd_of_none (d : Nat) (h : (regRead? n).isNone = true ∨ s.badSel n = true) : doSysrd d n s = .trap 1 0 0 := by
  rw [doSysrd, if_pos (Bool.or_eq_true_iff.mpr h)]

theorem doSyswr_of_assigned (ha : (regWrite? n).isSome = true) (hs : s.badSel n = false)
    (hq : ¬ (n = 0x2BA ∧ (s.src b).getLsbD 33 = true ∧ s.cur.trap.pl < 2)) :
    doSyswr b n s = .ok (s.writeReg n (s.src b)) := by
  rw [doSyswr, if_neg (by simp [← Option.not_isSome, ha, hs]), if_neg hq]

theorem doSyswr_of_none (h : (regWrite? n).isNone = true ∨ s.badSel n = true) : doSyswr b n s = .trap 1 0 0 := by
  rw [doSyswr, if_pos (Bool.or_eq_true_iff.mpr h)]

/-- Only PL2 resolves a record of queue 2. -/
theorem doSyswr_fqDone_low (hv : (s.src b).getLsbD 33 = true) (hl : s.cur.trap.pl < 2) (hs : s.badSel 0x2BA = false) :
    doSyswr b 0x2BA s = .trap 2 0 0 := by
  have assigned : (regWrite? 0x2BA).isNone = false := rfl
  rw [doSyswr, if_neg (by simp [assigned, hs]), if_pos ⟨rfl, hv, hl⟩]

end

/-- Settles O25: the conditions of a register access read only what the issue of the instruction leaves as it was. -/
theorem systemRegisterAccess : Obligations.SystemRegisterAccess := by
  unfold Obligations.SystemRegisterAccess
  refine fun s d b n e v => ⟨?read, ?readTraps, ?write, ?writeTraps, ?queue2, Laws.Issue.does rfl (fun _ => rfl), rfl⟩
  case read =>
    exact fun ha hs => Laws.Issue.does_at rfl (doSysrd_of_assigned _ ha ((issued_badSel s _ _).trans hs))
  case readTraps =>
    refine fun h => Laws.Issue.traps_at rfl (doSysrd_of_none _ ?_)
    rwa [issued_badSel]
  case write =>
    refine fun ha hs hq => Laws.Issue.does_at rfl (doSyswr_of_assigned ha ((issued_badSel s _ _).trans hs) ?_)
    rwa [issued_src, State.issued_trap]
  case writeTraps =>
    refine fun h => Laws.Issue.traps_at rfl (doSyswr_of_none ?_)
    rwa [issued_badSel]
  case queue2 =>
    intro hv hl hs
    refine Laws.Issue.traps_at rfl (doSyswr_fqDone_low ?_ ?_ ((issued_badSel s _ _).trans hs))
    · rwa [issued_src]
    · rwa [State.issued_trap]

/-! ## What a register holds (05 R89) -/

section
variable (s : State) (v : DWord)

/-- `fpflags` has ten bits. -/
theorem fpflags_mask : (v.setWidth 10).setWidth 32 = (v.setWidth 32 &&& 0x3FF : Word) := by
  apply BitVec.eq_of_toNat_eq
  have hm : (v.setWidth 32).toNat &&& (0x3FF : Word).toNat = (v.setWidth 32).toNat % 1024 :=
    Nat.and_two_pow_sub_one_eq_mod _ 10
  rw [BitVec.toNat_and, hm]
  simp only [BitVec.toNat_setWidth]
  omega

theorem writeReg_fpflags : (s.writeReg 0x010 v).cur.regs.fpflags = (v.setWidth 32 &&& 0x3FF) :=
  fpflags_mask v

/-! A number of a range is none of the numbers before the range, and names the register at its place in the range. -/

theorem writeReg_tierTab (i : Fin 64) : s.writeReg (0x2C0 + i.val) v =
    { s with vregs := { s.vregs with tierTab := s.vregs.tierTab.set i v } } := by
  have hi := i.isLt
  unfold State.writeReg
  dsimp only
  repeat rw [if_neg (by omega)]
  rw [if_pos (by omega), Nat.add_sub_cancel_left, ControlWrites.setIfInBounds_val]

theorem writeReg_gangAge (i : Fin 12) : s.writeReg (0x280 + i.val) v =
    { s with pkg := { s.pkg with gangAge := s.pkg.gangAge.set i (keep 0xFFFF v) } } := by
  have hi := i.isLt
  unfold State.writeReg
  dsimp only
  repeat rw [if_neg (by omega)]
  rw [if_pos (by omega), Nat.add_sub_cancel_left, ControlWrites.setIfInBounds_val]

theorem getD_offset {n : Nat} (q : Vector DWord n) (i : Fin n) (b : Nat) : (q[b + i.val - b]?).getD 0 = q[i] := by
  simp

theorem readReg_tq (i : Fin 64) : s.readReg (0x140 + i.val) = s.vregs.tq[i] := by
  have hi := i.isLt
  unfold State.readReg
  dsimp only
  repeat rw [if_neg (by omega)]
  rw [if_pos (by omega), getD_offset]

theorem readReg_cobjQ (i : Fin 64) : s.readReg (0x1C0 + i.val) = s.vregs.cobjQ[i] := by
  have hi := i.isLt
  unfold State.readReg
  dsimp only
  repeat rw [if_neg (by omega)]
  rw [if_pos (by omega), getD_offset]

theorem readReg_tierTab (i : Fin 64) : s.readReg (0x2C0 + i.val) = s.vregs.tierTab[i] := by
  have hi := i.isLt
  unfold State.readReg
  dsimp only
  repeat rw [if_neg (by omega)]
  rw [if_pos (by omega), getD_offset]

/-- Below PL2 `csel` selects nothing: the group reaches its own context (19 R334). -/
theorem selected_of_low (h : s.cur.trap.pl < 2) : s.selected? = s.ctx? s.cur.place.ctx := by
  have hl : ¬ (s.cur.trap.pl = 2 ∧ bitsOf s.cur.trap.csel.toNat 16 16 = 1) := by omega
  simp only [State.selected?, State.selCtx, if_neg hl]

/-- The registers of the selected context, each at its number (05 R89). -/
theorem readReg_of_selected {c : Ctx} (h : s.selected? = some c) :
    s.readReg 0x100 = c.s1root ∧ s.readReg 0x110 = c.fpBase ∧ s.readReg 0x290 = c.nodeBase ∧ s.readReg 0x2A8 = c.tvec1 ∧
    s.readReg 0x2AA = c.ctxCfg ∧ s.readReg 0x2AB = c.cimg ∧ s.readReg 0x2B8 = c.fq1 ∧ s.readReg 0x300 = c.wdog := by
  have field (f : Ctx → DWord) : (s.selected?.map f).getD 0 = f c := by rw [h]; rfl
  exact ⟨field Ctx.s1root, field Ctx.fpBase, field Ctx.nodeBase, field Ctx.tvec1, field Ctx.ctxCfg, field Ctx.cimg,
    field Ctx.fq1, field Ctx.wdog⟩

end

/-- Settles O26: a number that names one register reaches it, and one of a range reaches the register at its place in the range. -/
theorem systemRegisterValues : Obligations.SystemRegisterValues := by
  unfold Obligations.SystemRegisterValues
  refine fun s v => ⟨writeReg_fpflags s v, rfl, rfl, rfl, rfl, rfl, rfl, rfl, ?tierTab, ?gangAge, rfl, rfl, rfl, rfl, rfl, rfl, rfl,
    rfl, rfl, rfl, rfl, ?context, fun i => ⟨readReg_tq s i, readReg_cobjQ s i, readReg_tierTab s i⟩, rfl, rfl, rfl⟩
  case tierTab =>
    intro i
    rw [writeReg_tierTab]
    exact Vector.getElem_set_self _
  case gangAge =>
    intro i
    rw [writeReg_gangAge]
    exact Vector.getElem_set_self _
  case context => exact fun c hl hc => readReg_of_selected s ((selected_of_low s hl).trans hc)

end Sys2Proof.Proofs.SystemRegisters

/-!
# Boot, power, tray, wear, errors and audits

A boot leaves the state at power-on with the measurement of its images, and announces the stacks; an announcement changes routes,
holders and packets under way, and neither the package's registers, its contexts nor the group whose turn it is (`SameCore`). The
other events are one function of the state each, in the order of the statement.
-/

namespace Sys2Proof.Proofs.Management

open Sys2Proof Sys2Proof.Machine

/-! ## Announcements (10 R172, 22 R387) -/

/-- The package's registers, the contexts and the group whose turn it is are the same. -/
structure SameCore (s t : State) : Prop where
  pkg : t.pkg = s.pkg
  ctxs : t.ctxs = s.ctxs
  cur : t.cur = s.cur

section
variable {s t u : State}

theorem SameCore.refl : SameCore s s := ⟨rfl, rfl, rfl⟩

theorem SameCore.after (h' : SameCore t u) (h : SameCore s t) : SameCore s u :=
  ⟨h'.pkg.trans h.pkg, h'.ctxs.trans h.ctxs, h'.cur.trans h.cur⟩

theorem ite_sameCore {α : Type} {c : Prop} [Decidable c] {a b : α × State} (ha : SameCore s a.2) (hb : SameCore s b.2) :
    SameCore s (if c then a else b).2 := by
  split <;> assumption

theorem foldl_sameCore {α : Type} {f : State → α → State} (hf : ∀ s a, SameCore s (f s a)) (l : List α) (s : State) :
    SameCore s (l.foldl f s) :=
  List.foldlRecOn (motive := SameCore s) l f .refl fun t ht a _ => (hf t a).after ht

theorem drainTx_sameCore (s : State) (port chan n : Nat) : SameCore s (s.drainTx port chan n) := by
  induction n generalizing s with
  | zero => exact .refl
  | succ n ih =>
    rw [State.drainTx]
    split
    · exact .refl
    · split
      · exact .refl
      · exact (ih _).after ⟨rfl, rfl, rfl⟩

theorem sendPacket_sameCore (s : State) (port chan : Nat) : SameCore s (s.sendPacket port chan) := by
  unfold State.sendPacket
  split
  · exact .refl
  · exact (drainTx_sameCore _ port chan _).after ⟨rfl, rfl, rfl⟩

theorem passRelay_sameCore (s : State) (router : Nat) (m : RelayMsg) (n : Nat) : SameCore s (s.passRelay router m n) := by
  refine foldl_sameCore (fun s j => ?_) _ s
  dsimp only
  split
  · exact .refl
  · split
    · exact (sendPacket_sameCore _ _ _).after ⟨rfl, rfl, rfl⟩
    · exact ⟨rfl, rfl, rfl⟩

theorem sendRelay_sameCore (s : State) (router : Nat) (m : RelayMsg) : SameCore s (s.sendRelay router m) :=
  (passRelay_sameCore _ router m s.nextId).after ⟨rfl, rfl, rfl⟩

theorem trackReplicas_sameCore (s : State) (router : Nat) (pre : Prefix) : SameCore s (s.trackReplicas router pre) := by
  unfold State.trackReplicas
  split <;> exact ⟨rfl, rfl, rfl⟩

theorem setEntry_sameCore (s : State) (e : RtEntry) : SameCore s (s.setEntry e) := by
  refine (trackReplicas_sameCore _ e.router e.pre).after ?_
  split <;> exact ⟨rfl, rfl, rfl⟩

theorem announce_sameCore (s : State) (pre : Prefix) (h : RtHolder) : SameCore s (s.announce pre h) :=
  (sendRelay_sameCore _ _ _).after (setEntry_sameCore s _)

theorem rteAnn_sameCore (s : State) (addr desc : Nat) : SameCore s (s.rteAnn addr desc).2 := by
  unfold State.rteAnn
  dsimp only
  split
  · exact .refl
  · iterate 6 refine ite_sameCore .refl ?_
    exact (announce_sameCore _ _ _).after ⟨rfl, rfl, rfl⟩

theorem announceStacks_sameCore (s : State) : SameCore s s.announceStacks :=
  foldl_sameCore (fun s _ => rteAnn_sameCore s _ _) _ s

end

/-! ## Boot (22 R381) -/

section
variable {s : State} {l : List FwImage} {k : BitVec 16}

/-- Good images, four at most, extend the measurement one after the other. -/
theorem bootImages_good {l : List FwImage} (hl : ∀ i ∈ l, i.sigOk = true) {n : Nat} (hn : n + l.length ≤ 4) (m : BitVec 512) :
    bootImages n l m =
      (n + l.length, if 4 ≤ n + l.length then 2 else 1, l.foldl (fun m i => extendMeas m i.bytes) m) := by
  induction l generalizing n m with
  | nil => rfl
  | cons i l ih =>
    obtain ⟨hi, hl⟩ := List.forall_mem_cons.mp hl
    rw [List.length_cons] at hn
    have e : n + (l.length + 1) = n + 1 + l.length := by omega
    rw [bootImages, if_neg (by omega), if_pos hi, ih hl (by omega), List.length_cons, e, List.foldl_cons]

theorem bootImages_bad {i : FwImage} (h : i.sigOk = false) (r : List FwImage) (m : BitVec 512) :
    bootImages 0 (i :: r) m = (0, 3, m) := by
  rw [bootImages, if_neg (by decide), h]
  rfl

theorem execPowerOn_else (h : s.pkg.tray ≠ 4) : execPowerOn l k s = .next s := by
  rw [execPowerOn, if_pos h]

theorem execPowerOn_four (h : s.pkg.tray = 4) (hg : ∀ i ∈ l, i.sigOk = true) (hl : l.length = 4) :
    execPowerOn l k s = .next (State.announceStacks { s.powerCycle k.toNat with pkg := { Pkg.reset with
      boot := 2, images := 4, meas := l.foldl (fun m i => extendMeas m i.bytes) 0, pkgId := k.setWidth 64, tray := 0 } }) := by
  rw [execPowerOn, if_neg (not_not.mpr h), bootImages_good hg (by omega), hl]
  rfl

theorem execPowerOn_bad {i : FwImage} {r : List FwImage} (h : s.pkg.tray = 4) (hb : i.sigOk = false) :
    execPowerOn (i :: r) k s = .next { s.powerCycle k.toNat with pkg := { Pkg.reset with boot := 3 } } := by
  rw [execPowerOn, if_neg (not_not.mpr h), bootImages_bad hb]
  rfl

end

/-! ## The power controller (22 R388-R391) -/

section
variable {s : State} {a : BitVec 16} {d : Int} {w : Bool}

/-- The cap of `pwr_cap`, where it is on. -/
def ownCap (p : Pkg) : Option Nat := if p.pwrCap.getLsbD 31 then some (bitsOf p.pwrCap.toNat 11 0) else none

theorem thermalCap_cool (h : d ≤ 40) : thermalCap d = none := if_pos h

theorem lowerCap_none (c : Option Nat) : lowerCap c none = c := by
  cases c <;> rfl

theorem clock_eq (p : Pkg) : p.clock = p.pwrStat.toNat / 256 % 256 :=
  ControlWrites.bitsOf_eq_div_mod _ _ _

theorem execPowerCompare_early {g : Bool} (h : s.pace < s.pkg.pwrAt + 100000) : execPowerCompare a d g w s = .next s :=
  congrArg Host.Outcome.next (if_pos h)

/-- At a cool inlet, a comparison that is due sets the clock from the package's own cap; above the cap with the clock above its
lowest step no window of heat begins. -/
theorem execPowerCompare_due (hp : s.pkg.pwrAt + 100000 ≤ s.pace) (hd : d ≤ 40)
    (hc : ∀ c, ownCap s.pkg = some c → c < a.toNat → 10 < s.pkg.clock) :
    ∃ t, execPowerCompare a d false w s = .next t ∧ t.pkg.pwrStat = BitVec.ofNat 64
      (a.toNat * 2 ^ 32 + nextClock (ownCap s.pkg) a.toNat s.pkg.clock * 2 ^ 8 + (s.pkg.pwrStat.getLsbD 0).toNat) := by
  have cool : (((ownCap s.pkg).map (fun c => decide (c < a.toNat))).getD false && decide (s.pkg.clock ≤ 10)) = false := by
    cases ho : ownCap s.pkg with
    | none => rfl
    | some c => simpa using hc c ho
  refine ⟨_, congrArg Host.Outcome.next (if_neg (Nat.not_lt.mpr hp)), ?_⟩
  rw [ownCap] at cool
  simp only [Bool.false_eq_true, if_false, thermalCap_cool hd, lowerCap_none, cool, Option.any_none, Bool.and_false, Bool.or_false,
    ownCap]

theorem nextClock_none {n k : Nat} (h : k < 25) : nextClock none n k = k + 1 :=
  Nat.min_eq_right h

theorem nextClock_above {c n k : Nat} (hn : c < n) (hk : 10 < k) : nextClock (some c) n k = k - 1 := by
  rw [nextClock, if_pos hn]
  omega

theorem ownCap_off {p : Pkg} (h : p.pwrCap.getLsbD 31 = false) : ownCap p = none := by
  rw [ownCap, h]
  rfl

theorem ownCap_on {p : Pkg} (h : p.pwrCap.getLsbD 31 = true) : ownCap p = some (p.pwrCap.toNat % 4096) := by
  rw [ownCap, if_pos h, ControlWrites.bitsOf_eq_div_mod]
  simp

/-- The status word: the average and the clock, whose bit 0 is clear. -/
theorem toNat_status (a : BitVec 16) {n : Nat} (h : n < 256) :
    (BitVec.ofNat 64 (a.toNat * 2 ^ 32 + n * 2 ^ 8 + false.toNat)).toNat = a.toNat * 2 ^ 32 + n * 2 ^ 8 := by
  rw [BitVec.toNat_ofNat, Bool.toNat_false]
  omega

theorem clock_lt (p : Pkg) : p.pwrStat.toNat / 256 % 256 < 256 := Nat.mod_lt _ (by decide)

theorem execPowerCompare_uncapped (hp : s.pkg.pwrAt + 100000 ≤ s.pace) (hc : s.pkg.pwrCap.getLsbD 31 = false) (hd : d ≤ 40)
    (hk : s.pkg.pwrStat.toNat / 256 % 256 < 25) (h0 : s.pkg.pwrStat.getLsbD 0 = false) :
    ∃ t, execPowerCompare a d false w s = .next t ∧
      t.pkg.pwrStat.toNat = a.toNat * 2 ^ 32 + (s.pkg.pwrStat.toNat / 256 % 256 + 1) * 2 ^ 8 := by
  have own := ownCap_off hc
  obtain ⟨t, ht, hs⟩ := execPowerCompare_due (a := a) (w := w) hp hd (by simp [own])
  refine ⟨t, ht, ?_⟩
  rw [hs, own, clock_eq, nextClock_none hk, h0, toNat_status a (by omega)]

theorem execPowerCompare_above (hp : s.pkg.pwrAt + 100000 ≤ s.pace) (hc : s.pkg.pwrCap.getLsbD 31 = true) (hd : d ≤ 40)
    (ha : s.pkg.pwrCap.toNat % 4096 < a.toNat) (hk : 10 < s.pkg.pwrStat.toNat / 256 % 256)
    (h0 : s.pkg.pwrStat.getLsbD 0 = false) :
    ∃ t, execPowerCompare a d false w s = .next t ∧
      t.pkg.pwrStat.toNat = a.toNat * 2 ^ 32 + (s.pkg.pwrStat.toNat / 256 % 256 - 1) * 2 ^ 8 := by
  have lt := clock_lt s.pkg
  obtain ⟨t, ht, hs⟩ := execPowerCompare_due (a := a) (w := w) hp hd (fun _ _ _ => by rwa [clock_eq])
  refine ⟨t, ht, ?_⟩
  rw [hs, ownCap_on hc, clock_eq, nextClock_above ha hk, h0, toNat_status a (by omega)]

end

/-! ## The tray (22 R392) -/

section
variable {s : State}

theorem execTrayQuiesce_drained (ht : s.pkg.tray = 1) (hc : ∀ c ∈ s.ctxs, c.st ≠ .resident) (hm : s.tier.moves = [])
    (hh : ∀ h ∈ s.holders, h.holder / 256 ≠ s.pkgNum) :
    execTrayQuiesce s = .next ((List.range 16).foldl (fun t p => State.portDown t p) { s with
      pkg := { s.pkg with tray := 2 }, links := s.links.map (fun k => { k with up := false, retry := [] }) }) := by
  rw [execTrayQuiesce, if_neg (by simpa [ht, hm] using ⟨hc, hh⟩)]

theorem execTrayQuiesce_else (h : s.pkg.tray ≠ 1 ∨ (∃ c ∈ s.ctxs, c.st = .resident)) : execTrayQuiesce s = .next s := by
  refine congrArg Host.Outcome.next (if_pos (h.imp_right fun ⟨c, hc, hr⟩ => .inl ?_))
  exact List.any_eq_true.mpr ⟨c, hc, by rw [hr]; rfl⟩

/-- Where no router knows a holder, a port that goes down has none to withdraw. -/
theorem portDown_of_no_holders (h : ∀ e ∈ s.routes, e.holders = []) (p : Nat) : s.portDown p = { s with
    relays := s.relays.filter (fun f => f.dst != beyond p), mcast := s.mcast.filter (fun m => m.port != beyond p),
    txq := s.txq.filter (fun x => x.port != p), ports := s.ports.filter (fun x => x.port != p) } := by
  rw [State.portDown]
  refine List.foldlRecOn (motive := fun t => t = _) _ _ rfl fun t ht e he => ?_
  rw [h e (List.mem_filter.mp he).1]
  exact ht

theorem execTrayPowerOff_quiesced (h : s.pkg.tray = 2) : execTrayPowerOff s = .next { s with pkg := { s.pkg with tray := 3, boot := 0 } } :=
  congrArg Host.Outcome.next (if_pos h)

theorem execTrayPowerOff_else (h : s.pkg.tray ≠ 2) : execTrayPowerOff s = .next s :=
  congrArg Host.Outcome.next (if_neg h)

theorem execTrayInsert_removable (h : s.pkg.tray = 3) : execTrayInsert s = .next { s with pkg := { s.pkg with tray := 4 } } :=
  congrArg Host.Outcome.next (if_pos h)

theorem execTrayInsert_else (h : s.pkg.tray ≠ 3) : execTrayInsert s = .next s :=
  congrArg Host.Outcome.next (if_neg h)

/-! ## Wear (22 R394) -/

/-- A word after another stands in the bits below it. -/
theorem toNat_append_eq_add {m n : Nat} (x : BitVec m) (y : BitVec n) : (x ++ y).toNat = x.toNat * 2 ^ n + y.toNat := by
  rw [BitVec.toNat_append, ← Nat.shiftLeft_add_eq_or_of_lt y.isLt, Nat.shiftLeft_eq]

theorem spareOf_lt (i : Fin 32) (p : BitVec 8) : spareOf i p.toNat < 256 := by
  rw [spareOf]
  split <;> omega

/-- The fields of a wear register, the highest first. -/
theorem wear_fields (e : BitVec 16) (u : BitVec 8) {n : Nat} (h : n < 256) :
    BitVec.ofNat 64 (e.toNat * 2 ^ 32 + u.toNat * 2 ^ 24 + n * 2 ^ 16) =
      (0 : BitVec 16) ++ e ++ u ++ BitVec.ofNat 8 n ++ (0 : BitVec 16) := by
  apply BitVec.eq_of_toNat_eq
  simp only [toNat_append_eq_add, BitVec.ofNat_eq_ofNat, BitVec.toNat_ofNat]
  omega

variable {i : Fin 32} {e : BitVec 16} {u p : BitVec 8}

theorem execWearUpdate_sameHour (h : s.hour ≤ s.pkg.wearHour[i]) : execWearUpdate i e u p s = .next s :=
  congrArg Host.Outcome.next (if_pos h)

theorem execWearUpdate_newHour (h : s.pkg.wearHour[i] < s.hour) : ∃ t x, execWearUpdate i e u p s = .next t ∧
    t.pkg.wear = s.pkg.wear.set i x ∧
    x = (0 : BitVec 16) ++ e ++ u ++ BitVec.ofNat 8 (if i.val < 16 then min 4 p.toNat else p.toNat) ++ (0 : BitVec 16) :=
  ⟨_, _, congrArg Host.Outcome.next (if_neg (Nat.not_le.mpr h)), rfl, wear_fields e u (spareOf_lt i p)⟩

end

/-! ## Soft errors (05 R92, 13 R229) -/

section
variable {s : State}

theorem modGroup_cur {u : Nat} (hu : s.cur.place.used = true) (hi : s.cur.place.uid = u) (f : Group → Group) :
    s.modGroup u f = { s with cur := f s.cur } := by
  rw [State.modGroup, if_pos (by simp [hu, hi])]

/-- An uncorrectable error marks the register of a lane once. -/
theorem corrupt_vreg {u r k : Nat} (hr : r < 128) (hk : k < 32) (hu : s.cur.place.used = true) (hi : s.cur.place.uid = u)
    (hb : (RegRef.v r, k) ∉ s.cur.regs.bad) :
    s.corrupt (.vreg u r k) = s.modRegs (fun g => { g with bad := g.bad ++ [(.v r, k)] }) := by
  simp only [State.corrupt, if_pos (And.intro hr hk)]
  rw [modGroup_cur hu hi, if_neg (by simpa using hb)]
  rfl

end

/-! ## Audits (13 R227) -/

section
variable {s : State} {a w : Nat} {x : World}

/-- Only the world of a line that is set is read elsewhere, with its page (22 R383). -/
theorem lineAt_setLine (s : State) (l : LineMeta) {h b : Nat} (hk : l.key = memKey h (lineBase b)) :
    ((s.setLine l).lineAt h b).stamp = l.stamp ∧ ((s.setLine l).lineAt h b).summed = l.summed := by
  simp [State.lineAt, State.setLine, hk]

theorem lineAt_key (s : State) (h b : Nat) : (s.lineAt h b).key = memKey h (lineBase b) := by
  rw [State.lineAt]
  cases hf : s.lines.find? (fun l => l.key == memKey h (lineBase b)) with
  | none => rfl
  | some l => simpa using List.find?_some hf

theorem execDramLineAltered_line (s : State) (a b : Nat) (bs : List Byte) (v : Nat) : ∃ t, execDramLineAltered a b bs v s = .next t ∧
    (t.lineAt (s.ctlHolder a) b).stamp = v ∧ (t.lineAt (s.ctlHolder a) b).summed = true := by
  exact ⟨_, rfl, lineAt_setLine _ { s.lineAt (s.ctlHolder a) b with stamp := v, summed := true } (lineAt_key s _ b)⟩

theorem execAuditIntervalEnd_early (hx : s.world? w = some x) (ht : s.pace <
    x.since + (((s.integ.find? (fun e => e.ctl == a && e.world == w)).getD ⟨a, w, 0, 0, 0⟩).audits + 1) * x.audit * 10 ^ 9) :
    execAuditIntervalEnd a w s = .next s := by
  simp only [execAuditIntervalEnd, hx]
  rw [if_pos ht]

/-- Without a line of the world to sweep, the sums agree as they stand. -/
theorem execAuditIntervalEnd_agrees {e : Integ} (hx : s.world? w = some x)
    (he : s.integ.find? (fun e => e.ctl == a && e.world == w) = some e) (ht : x.since + (e.audits + 1) * x.audit * 10 ^ 9 ≤ s.pace)
    (hl : ∀ y ∈ s.lines, y.summed = true → y.key / 2 ^ 64 = s.ctlHolder a → s.tagOf (y.key % 2 ^ 64) ≠ w) (hs : e.hr = e.hw) :
    execAuditIntervalEnd a w s = .next { s with
      integ := ⟨a, w, 0, 0, e.audits + 1⟩ :: s.integ.filter (fun y => !(y.ctl == a && y.world == w)) } := by
  have swept : s.lines.filter (fun l => l.summed && decide (l.key / 2 ^ 64 = s.ctlHolder a) && s.tagOf (l.key % 2 ^ 64) == w) = [] := by
    simpa [and_imp] using hl
  simp only [execAuditIntervalEnd, hx, he, Option.getD_some, swept, List.foldl_nil]
  rw [if_neg (Nat.not_lt.mpr ht), if_pos hs, BitVec.sub_self]
  rfl

end

/-- Settles O47: a boot by the measurement of its images and by what announcements leave alone, the rest by the lemmas above. -/
theorem bootPowerTrayAndErrors : Obligations.BootPowerTrayAndErrors := by
  unfold Obligations.BootPowerTrayAndErrors
  refine fun s l k => ⟨execPowerOn_else, ?boot, ?bad, ?uncapped, ?above, fun _ _ _ _ => execPowerCompare_early,
    execTrayQuiesce_drained, portDown_of_no_holders, execTrayQuiesce_else, execTrayPowerOff_quiesced, execTrayInsert_removable,
    execTrayPowerOff_else, execTrayInsert_else, fun _ _ _ _ => execWearUpdate_sameHour, fun _ _ _ _ => execWearUpdate_newHour, ?vreg,
    fun _ _ => rfl, fun _ _ => rfl, execDramLineAltered_line s, fun _ _ _ => execAuditIntervalEnd_early,
    fun _ _ _ _ => execAuditIntervalEnd_agrees⟩
  case boot =>
    rintro x h hg hl rfl
    obtain ⟨hpkg, hctxs, hcur⟩ := announceStacks_sameCore { s.powerCycle k.toNat with pkg := { Pkg.reset with
      boot := 2, images := 4, meas := l.foldl (fun m i => extendMeas m i.bytes) 0, pkgId := k.setWidth 64, tray := 0 } }
    refine ⟨_, execPowerOn_four h hg hl, ?_⟩
    rw [hpkg, hctxs, hcur]
    exact ⟨rfl, rfl, rfl, rfl, rfl, rfl, rfl⟩
  case bad =>
    rintro i r h rfl hb
    exact ⟨_, execPowerOn_bad h hb, rfl, rfl, rfl, rfl⟩
  case uncapped =>
    rintro a d g w hp hc hd rfl hk h0
    exact execPowerCompare_uncapped hp hc hd hk h0
  case above =>
    rintro a d g hp hc hd rfl ha hk h0
    exact execPowerCompare_above hp hc hd ha hk h0
  case vreg => exact fun u r k hr hk hu hi hb => congrArg Host.Outcome.next (corrupt_vreg hr hk hu hi hb)

end Sys2Proof.Proofs.Management

/-!
# Integer instructions

The instructions of a family share one operation of the model (`scalarRR`, `scalarSat`, `scalarPair`, `scalarRI`, `scalarDiv` and
their vector forms), and differ in the function of words it is given. So there is one rule for each operation, from an equation
between two functions of words to the claim about an instruction, and one equation for each function of words that the claims write
in another way than the model. Each claim is then a rule at an equation.
-/

namespace Sys2Proof.Proofs.Integers

open Sys2Proof Sys2Proof.Machine Sys2Proof.Laws.Integer

/-! ## Functions of words -/

section
variable {n : Nat}

theorem bfeU_eq (x y : BitVec n) :
    bfeU x y = BitVec.ofNat n (x.toNat / 2 ^ (y.toNat % 256) % 2 ^ min (y.toNat / 256 % 256) (n - y.toNat % 256)) := by
  simp only [bfeU, bfField, shiftRight_eq]

theorem addsS_eq (x y : BitVec n) : addsS x y = clamp n (x.toInt + y.toInt) (-2 ^ (n - 1)) (2 ^ (n - 1) - 1) := rfl

theorem subBorrow_eq (x y : BitVec n) (c : Bool) : subBorrow x y c =
    (BitVec.ofInt n ((x.toNat : Int) - y.toNat - c.toNat), decide ((x.toNat : Int) - y.toNat - c.toNat < 0)) := rfl

theorem divS_eq (x y : BitVec n) : divS x y = if y = 0 then -1 else BitVec.ofInt n (x.toInt.tdiv y.toInt) := by
  rw [divS, ← BitVec.neg_one_eq_allOnes]; rfl

theorem divU_eq (x y : BitVec n) : divU x y = if y = 0 then -1 else BitVec.ofNat n (x.toNat / y.toNat) := by
  rw [divU, ← BitVec.neg_one_eq_allOnes]; rfl

end

/-! ## A rule for each shared operation -/

section
variable {s : State} {i : Instr} {f : BitVec 4} {d a b : BitVec 7} {w bs : BitVec 1} {zx : Bool} {c : BitVec 3} {k : BitVec 9}

theorem scalarFn_of_eq {F G : Fun3} (he : exec i s = issue i s (scalarRR F zx d a b w)) (h : ∀ n x y z, F n x y z = G n x y z) :
    ScalarFn i s d a b w zx G :=
  scalar_fn he (by funext n x y z; exact h n x y z)

theorem vectorFn_of_eq {F G : Fun3} (he : exec i s = issue i s (vectorRR F d a b bs)) (h : ∀ n x y z, F n x y z = G n x y z) :
    VectorFn i s d a b bs G :=
  vector_fn he (by funext n x y z; exact h n x y z)

/-- A saturating sum at the width of the instruction (R99). -/
theorem does_saturated {F G : (n : Nat) → BitVec n → BitVec n → BitVec n × Bool}
    (he : exec i s = issue i s (scalarSat F zx d a b w)) (h : ∀ n x y, F n x y = G n x y) :
    Does i s (fun t => saturated t d zx w G (t.src a.toNat) (t.src b.toNat)) := by
  obtain rfl : F = G := by funext n x y; exact h n x y
  refine Laws.Issue.does he fun t => ?_
  unfold scalarSat saturated
  by_cases hw : w = 1
  · simp only [hw, if_true]; rfl
  · simp only [hw, if_false]; rfl

theorem does_saturatedLanes {F G : (n : Nat) → BitVec n → BitVec n → BitVec n × Bool}
    (he : exec i s = issue i s (vectorSat F d a b bs)) (h : ∀ n x y, F n x y = G n x y) :
    Does i s (fun t => saturatedLanes t d G a b bs) := by
  obtain rfl : F = G := by funext n x y; exact h n x y
  exact Laws.Issue.does he fun t => rfl

/-- The carry in is bit 0 of the register after the destination, the carry out its new value (R100). -/
theorem does_paired {F : (n : Nat) → BitVec n → BitVec n → Bool → BitVec n × Bool} {G : Nat → Nat → Nat → Nat → Int × Bool}
    (he : exec i s = issue i s (scalarPair F d a b w))
    (h : ∀ n x y c, F n x y c = (BitVec.ofInt n (G n x.toNat y.toNat c.toNat).1, (G n x.toNat y.toNat c.toNat).2)) :
    Does i s (fun t => paired t d w G (t.src a.toNat) (t.src b.toNat)) := by
  refine Laws.Issue.does he fun t => ?_
  unfold scalarPair paired
  by_cases hw : w = 1
  · simp only [hw, if_true, h, bit_zero]; rfl
  · simp only [hw, if_false, h, bit_zero]

theorem scmp_scalarFn {P : (n : Nat) → BitVec n → BitVec n → Prop} [∀ n x y, Decidable (P n x y)]
    (h : ∀ n (x y : BitVec n), cmpInt c x y = decide (P n x y)) :
    ScalarFn (.scmp c d a b w) s d a b w true (fun n x y _ => if P n x y then 1 else 0) :=
  scalarFn_of_eq rfl fun n x y _ => by simp only [h, decide_eq_true_eq]; rfl

theorem vcmp_laneCompare {P : Word → Word → Bool} (h : ∀ x y : Word, cmpInt c x y = P x y) :
    LaneCompare (.vcmp c d a b bs) s d a b bs P :=
  Laws.Issue.does rfl fun t => by simp only [h]

theorem does_scalarRI {F : DWord → DWord → DWord} {g : State → DWord} (he : exec i s = issue i s (scalarRI F d a k))
    (h : ∀ t : State, F (t.src a.toNat) (t.imm9 k) = g t) : Does i s (fun t => t.setSreg d.toNat (g t)) :=
  Laws.Issue.does he fun t => by rw [scalarRI, h]

theorem does_vectorRI {F : Word → Word → Word} {g : State → Lane → Word} (he : exec i s = issue i s (vectorRI F d a k))
    (h : ∀ (t : State) l, F (t.vlane a.toNat l) ((t.imm9 k).setWidth 32) = g t l) :
    Does i s (fun t => t.setV d.toNat t.exec (g t)) :=
  Laws.Issue.does he fun t => by simp only [vectorRI, lo32, h]

theorem does_scalarDiv {F : DWord → DWord → DWord} {g : State → DWord} (he : exec i s = issue i s (scalarDiv F f d a b))
    (h : ∀ t : State, F (t.src a.toNat) (t.src b.toNat) = g t) :
    Does i s (fun t => t.later 64 f.toNat [(d.toNat, g t)] [] 0) :=
  Laws.Issue.does he fun t => by rw [scalarDiv, h]

theorem does_vectorDiv {F : Word → Word → Word} {g : State → Lane → Word} (he : exec i s = issue i s (vectorDiv F f d a b))
    (h : ∀ (t : State) l, F (t.vlane a.toNat l) (t.vlane b.toNat l) = g t l) :
    Does i s (fun t => t.later 32 f.toNat [] ((lanesOf t.exec).map (fun l => (d.toNat, l, g t l))) 0) :=
  Laws.Issue.does he fun t => by simp only [vectorDiv, h]

theorem slea_does : Does (.slea d a b) s
    (fun t => t.setSreg d.toNat (t.src a.toNat + ((t.src b.toNat).setWidth 32).signExtend 64)) :=
  Laws.Issue.does rfl fun _ => rfl

/-- The two words of the address of a lane go to the two registers of the pair (R105). -/
theorem vlea_does : Does (.vlea d a b bs) s (fun t =>
    let u := fun l => t.srcLane a.toNat l + (t.vecB b bs l).signExtend 64
    (t.setV d.toNat t.exec (fun l => (u l).setWidth 32)).setV (d.toNat + 1) t.exec (fun l => (u l >>> 32).setWidth 32)) :=
  Laws.Issue.does rfl fun _ => rfl

end

/-! ## The statements -/

/-- Settles O1: each instruction is `scalarRR` or `vectorRR` at the function of the table, the absolute value by its sign bit. -/
theorem integerArithmetic : Obligations.IntegerArithmetic := by
  unfold Obligations.IntegerArithmetic
  intro s d a b w bs
  iterate 10 refine ⟨scalarFn_of_eq rfl fun _ _ _ _ => rfl, vectorFn_of_eq rfl fun _ _ _ _ => rfl, ?_⟩
  refine ⟨scalarFn_of_eq rfl fun _ x _ _ => absS_eq x, vectorFn_of_eq rfl fun _ _ y _ => absS_eq y, ?_⟩
  iterate 2 refine ⟨scalarFn_of_eq rfl fun _ _ _ _ => rfl, vectorFn_of_eq rfl fun _ _ _ _ => rfl, ?_⟩
  exact ⟨scalarFn_of_eq rfl fun _ _ _ _ => rfl, vectorFn_of_eq rfl fun _ _ _ _ => rfl⟩

/-- Settles O2: each instruction is `scalarRR` or `vectorRR` at the function of the table, but for slea. -/
theorem integerBitFunctions : Obligations.IntegerBitFunctions := by
  unfold Obligations.IntegerBitFunctions
  intro s d a b w bs
  iterate 14 refine ⟨scalarFn_of_eq rfl fun _ _ _ _ => rfl, vectorFn_of_eq rfl fun _ _ _ _ => rfl, ?_⟩
  exact slea_does

/-- Settles O3: a shift is the model's own function of the count, and the bit fields are by the equations for them. -/
theorem shiftsAndBitFields : Obligations.ShiftsAndBitFields := by
  unfold Obligations.ShiftsAndBitFields
  refine ⟨fun s d a b w bs => ?shifts, fun s d a b w bs => ?fields⟩
  case shifts =>
    iterate 3 refine ⟨scalarFn_of_eq rfl fun _ _ _ _ => rfl, vectorFn_of_eq rfl fun _ _ _ _ => rfl, ?_⟩
    exact ⟨scalarFn_of_eq rfl fun _ _ _ _ => rfl, vectorFn_of_eq rfl fun _ _ _ _ => rfl⟩
  case fields =>
    exact ⟨scalarFn_of_eq rfl fun _ x y _ => bfeU_eq x y, vectorFn_of_eq rfl fun _ x y _ => bfeU_eq x y,
      scalarFn_of_eq rfl fun _ x y _ => bfeS_eq x y, vectorFn_of_eq rfl fun _ x y _ => bfeS_eq x y,
      scalarFn_of_eq rfl fun _ x y z => bfi_eq x y z, vectorFn_of_eq rfl fun _ x y z => bfi_eq x y z⟩

/-- Settles O4: both saturating sums are clamps of the exact sum, and a pair takes its carry as a number. -/
theorem saturatingSumsAndCarryPairs : Obligations.SaturatingSumsAndCarryPairs := by
  unfold Obligations.SaturatingSumsAndCarryPairs
  refine ⟨fun s d a b w bs => ?sums, fun s d a b w bs => ?pairs⟩
  case sums =>
    exact ⟨does_saturated rfl fun _ => addsS_eq, does_saturatedLanes rfl fun _ => addsS_eq,
      does_saturated rfl fun _ => addsU_eq, does_saturatedLanes rfl fun _ => addsU_eq⟩
  case pairs => exact ⟨does_paired rfl fun _ => addCarry_eq, does_paired rfl fun _ => subBorrow_eq⟩

/-- Settles O5: at each of its eight codes `cmpInt` decides the condition of the statement. -/
theorem integerCompares : Obligations.IntegerCompares := by
  unfold Obligations.IntegerCompares
  intro s d a b w bs
  iterate 8 refine ⟨scmp_scalarFn fun _ _ _ => rfl, ?_⟩
  iterate 7 refine ⟨vcmp_laneCompare fun _ _ => rfl, ?_⟩
  exact vcmp_laneCompare fun _ _ => rfl

/-- Settles O6: the forms with a literal are `scalarRI` and `vectorRI` at the function of the register forms. -/
theorem literalsAndLaneAddresses : Obligations.LiteralsAndLaneAddresses := by
  unfold Obligations.LiteralsAndLaneAddresses
  refine ⟨fun s d a i => ?literals, fun s d a b bs => vlea_does⟩
  iterate 7 refine ⟨does_scalarRI rfl fun _ => rfl, does_vectorRI rfl fun _ _ => rfl, ?_⟩
  exact ⟨does_scalarRI rfl fun _ => rfl, does_vectorRI rfl fun _ _ => rfl⟩

/-- Settles O7: a quotient by the equations for a zero divisor, a remainder as the model has it. -/
theorem divisions : Obligations.Divisions := by
  unfold Obligations.Divisions
  intro s f d a b
  exact ⟨does_scalarDiv rfl fun _ => divS_eq _ _, does_vectorDiv rfl fun _ _ => divS_eq _ _,
    does_scalarDiv rfl fun _ => divU_eq _ _, does_vectorDiv rfl fun _ _ => divU_eq _ _,
    does_scalarDiv rfl fun _ => rfl, does_vectorDiv rfl fun _ _ => rfl,
    does_scalarDiv rfl fun _ => rfl, does_vectorDiv rfl fun _ _ => rfl⟩

end Sys2Proof.Proofs.Integers

/-!
# Float and lane instructions

The instructions of a family share one operation of the model (`vecF`, `vecSr`, `vecPack`, `vecUnpack`, `vecLater`, `vecScan`), and
differ in the function of lanes it is given. So there is one rule for each operation, from the meaning of an instruction to the claim
about it, and one equation for each function of lanes that the claims write in another way than the model: a NaN by the bits of its
word, an element of a word by division. Each claim is then a rule at an equation.
-/

namespace Sys2Proof.Proofs.Floats

open Sys2Proof Sys2Proof.Machine Sys2Proof.Laws.Float

/-! ## Functions of words -/

theorem fAbs32_eq (y : Word) : fAbs32 y = if isNan32 y then (0x7FC00000, nanMarks y) else (y &&& 0x7FFFFFFF, 0) := by
  simp only [fAbs32, isNan_eq, nanFlags_eq]; rfl

theorem fNeg32_eq (y : Word) : fNeg32 y = if isNan32 y then (0x7FC00000, nanMarks y) else (y ^^^ 0x80000000, 0) := by
  simp only [fNeg32, isNan_eq, nanFlags_eq]; rfl

/-- The elements of 8 bits of a word (R122). -/
theorem bitsOf_byte (n j : Nat) : bitsOf n (8 * j + 7) (8 * j) = n / 2 ^ (8 * j) % 2 ^ 8 := by
  rw [bitsOf, Nat.shiftRight_eq_div_pow, show 8 * j + 7 + 1 - 8 * j = 8 by omega]

theorem laneFlags_eq (t : State) (r : Lane → FpFlags) : laneFlags t r = flagsOf t.exec r := rfl

/-! ## A rule for each shared operation -/

section
variable {s : State} {i : Instr} {f : BitVec 4} {d a b o : BitVec 7} {bs : BitVec 1} {c : BitVec 3}

theorem srFn_of_vecSr {F : Rnd → Word → Word → Word → Word → Word × FpFlags × Word}
    (he : exec i s = issue i s (vecSr F d a b bs)) : SrFn i s d a b bs F := by
  unfold SrFn SrLanes
  exact Laws.Issue.does he fun t => by simp only [vecSr, laneFlags_eq]

theorem srLanes_of_vecPack {m : Fmt} (he : exec i s = issue i s (vecPack m d a b bs)) : SrLanes i s d (fun t l =>
    packLane m t.rnd ((t.vecB b bs l).toNat % 256) (t.srState l) (t.vlane a.toNat l) (t.vlane (a.toNat + 1) l)
      (t.vlane (a.toNat + 2) l) (t.vlane (a.toNat + 3) l)) :=
  Laws.Issue.does he fun t => by simp only [vecPack, laneFlags_eq, State.scaleOf]

theorem vpkIo4_flagLanes : FlagLanes (.vpkIo4 d a b bs) s d
    (fun t l => packIo4Lane ((t.vecB b bs l).toNat % 256) (fun j => t.vlane (a.toNat + j.val) l)) :=
  Laws.Issue.does rfl fun t => by simp only [vecPackIo4, laneFlags_eq, State.scaleOf]

/-- The four elements of a word are its bytes, each read before any register is written (R122). -/
theorem unpacks_of_vecUnpack {m : Fmt} (he : exec i s = issue i s (vecUnpack m d a b bs)) : Unpacks i s d 4
    (fun t l j => unpackFp8 m ((t.vecB b bs l).toNat % 256) ((t.vlane a.toNat l).toNat / 2 ^ (8 * j) % 2 ^ 8))
    (fun t l => (List.range 4).foldl (fun r j => r ||| (unpackFp8 m ((t.vecB b bs l).toNat % 256)
      ((t.vlane a.toNat l).toNat / 2 ^ (8 * j) % 2 ^ 8)).2) 0) :=
  Laws.Issue.does he fun t => by simp only [vecUnpack, laneFlags_eq, State.scaleOf, bitsOf_byte]

theorem vunpkIo4_unpacks : Unpacks (.vunpkIo4 d a b bs) s d 8
    (fun t l j => ((((unpackIo4 ((t.vecB b bs l).toNat % 256) (t.vlane a.toNat l)).1)[j]?).getD 0, 0))
    (fun t l => (unpackIo4 ((t.vecB b bs l).toNat % 256) (t.vlane a.toNat l)).2) :=
  Laws.Issue.does rfl fun t => by simp only [vecUnpackIo4, laneFlags_eq, State.scaleOf]

theorem laterLanes_of_vecLater {lat : Nat} {F : State → Lane → Word × FpFlags} {body : State → Act}
    (he : exec i s = issue i s body) (hb : ∀ t, body t = vecLater lat (F t) f d t) : LaterLanes i s lat f d F :=
  Laws.Issue.does he fun t => by rw [hb, vecLater, laneFlags_eq]

/-- The format codes of a ready `vcvt` are those of formats (R72). -/
theorem vcvt_formats (h : Ready (.vcvt f d a o) s) : ∃ src dst, cvtFmt o.toNat = some src ∧ cvtFmt f.toNat = some dst := by
  obtain ⟨-, -, hk, -, -⟩ := h
  have hk : cvtOk s.cur.place.nregs f o d a = true := hk
  simp only [cvtOk, upTo, Bool.and_eq_true, decide_eq_true_eq] at hk
  obtain ⟨⟨⟨⟨hf, ho⟩, -⟩, -⟩, -⟩ := hk
  obtain ⟨src, hsrc⟩ := cvt_some ho
  obtain ⟨dst, hdst⟩ := cvt_some hf
  exact ⟨src, dst, hsrc, hdst⟩

theorem vecCvt_eq {src dst : CvtFmt} (hs : cvtFmt o.toNat = some src) (hd : cvtFmt f.toNat = some dst) (t : State) :
    vecCvt f d a o t = .ok (converted t f d a o) := by
  simp only [vecCvt, converted, hs, hd, laneFlags_eq]

theorem vcvt_does : Does (.vcvt f d a o) s (fun t => converted t f d a o) := by
  intro h
  obtain ⟨src, dst, hs, hd⟩ := vcvt_formats h
  exact Laws.Issue.does rfl (vecCvt_eq hs hd) h

/-- A scan passes over the lanes of `exec` in ascending order (R125). -/
theorem does_vecScan {op : RedOp} {excl : Bool} (ho : redOp o.toNat = some op)
    (he : exec i s = issue i s (vecScan excl f d a o)) : Does i s (fun t =>
      let r := scanGo op t.rnd excl ((lanesOf t.exec).map (fun l => (l, t.vlane a.toNat l))) none
      t.later 24 f.toNat [] (r.1.map (fun p => (d.toNat, p.1, p.2))) r.2) :=
  Laws.Issue.does he fun t => by simp only [vecScan, ho]

theorem vred_does {op : RedOp} (ho : redOp o.toNat = some op) : Does (.vred f d a o) s (fun t =>
    let r := redLanes op t.rnd (allLanes.map (fun l => if laneBit t.exec l then some (t.vlane a.toNat l) else none))
    t.later 24 f.toNat [(d.toNat, redScalar op r.1)] [] r.2) :=
  Laws.Issue.does rfl fun t => by simp only [vecRed, ho]

theorem vballot_does : Does (.vballot d b) s (fun t =>
    t.setSreg d.toNat ((maskOf (fun l => laneBit t.exec l && decide (t.vlane b.toNat l ≠ 0))).setWidth 64)) :=
  Laws.Issue.does rfl fun t => by simp only [bne, beq_eq_decide, ne_eq, decide_not]

theorem vrngRd_does : Does (.vrngRd d) s (fun t => t.setV d.toNat t.exec t.srState) :=
  Laws.Issue.does rfl fun _ => rfl

theorem vrngSeed_does : Does (.vrngSeed d b bs) s (fun t => (t.setV d.toNat t.exec t.srState).setSr t.exec (t.vecB b bs)) :=
  Laws.Issue.does rfl fun _ => rfl

theorem vrngStep_does : Does (.vrngStep d) s (fun t =>
    (t.setV d.toNat t.exec (fun l => srStep (t.srState l))).setSr t.exec (fun l => srStep (t.srState l))) :=
  Laws.Issue.does rfl fun _ => rfl

/-- A condition that leaves a NaN operand at what reading it marks; `p` is the condition as the model has it, `r` its answer for a
NaN and `q` for two values (R114). -/
theorem vfcmp_quiet (r : Bool) (q : FVal → FVal → Bool) {p : Bool → FVal → FVal → Bool}
    (hc : ∀ x y, fCmp32 c x y = (p (fIsNan (value32 x) || fIsNan (value32 y)) (value32 x) (value32 y),
      nanFlags (value32 x) ||| nanFlags (value32 y)))
    (hp : ∀ n u v, p n u v = if n then r else q u v := by intro n _ _; cases n <;> rfl) :
    FloatCompare (.vfcmp c d a b bs) s d a b bs
      (fun x y => if isNan32 x || isNan32 y then r else q (value32 x) (value32 y)) false :=
  float_cmp fun x y => by
    rw [hc, hp, value32, value32, isNan_eq, isNan_eq, nanFlags_eq, nanFlags_eq]
    simp

/-- A condition on the order, for which any NaN operand is invalid too (R114). -/
theorem vfcmp_ordered (q : FVal → FVal → Bool)
    (hc : ∀ x y, fCmp32 c x y = (!(fIsNan (value32 x) || fIsNan (value32 y)) && q (value32 x) (value32 y),
      nanFlags (value32 x) ||| nanFlags (value32 y) ||| flagIf (fIsNan (value32 x) || fIsNan (value32 y)) flInvalid)) :
    FloatCompare (.vfcmp c d a b bs) s d a b bs
      (fun x y => if isNan32 x || isNan32 y then false else q (value32 x) (value32 y)) true :=
  float_cmp fun x y => by
    rw [hc, value32, value32, isNan_eq, isNan_eq, nanFlags_eq, nanFlags_eq, Bool.true_and, flagIf]
    cases isNan32 x || isNan32 y <;> rfl

end

/-! ## The statements -/

/-- Settles O8: each instruction is `vecF` or `vecSr` at the model's own function. -/
theorem floatArithmetic : Obligations.FloatArithmetic := by
  unfold Obligations.FloatArithmetic
  intro s d a b bs
  iterate 8 refine ⟨float_fn rfl fun _ _ _ _ => rfl, ?_⟩
  iterate 5 refine ⟨srFn_of_vecSr rfl, ?_⟩
  exact srFn_of_vecSr rfl

/-- Settles O9: a NaN by its bits, and a condition by its answer for a NaN and for two values. -/
theorem floatSelectionsAndCompares : Obligations.FloatSelectionsAndCompares := by
  unfold Obligations.FloatSelectionsAndCompares
  refine ⟨fun s d a b bs => ?selections, fun s d a b bs => ?compares⟩
  case selections =>
    exact ⟨float_fn rfl fun _ _ y _ => fAbs32_eq y, float_fn rfl fun _ _ y _ => fNeg32_eq y,
      float_fn rfl fun _ x y _ => minMax_eq false false x y, float_fn rfl fun _ x y _ => minMax_eq false true x y,
      float_fn rfl fun _ x y _ => minMax_eq true false x y, float_fn rfl fun _ x y _ => minMax_eq true true x y⟩
  case compares =>
    exact ⟨vfcmp_quiet false fEq (p := fun n u v => !n && fEq u v) (fun _ _ => rfl),
      vfcmp_quiet true (fun u v => !fEq u v) (p := fun n u v => n || !fEq u v) (fun _ _ => rfl),
      vfcmp_ordered fLt fun _ _ => rfl,
      vfcmp_ordered (fun u v => !fLt v u) fun _ _ => rfl,
      vfcmp_ordered (fun u v => fLt v u) fun _ _ => rfl,
      vfcmp_ordered (fun u v => !fLt u v) fun _ _ => rfl,
      vfcmp_quiet true (fun _ _ => false) (p := fun n _ _ => n) (fun _ _ => rfl),
      vfcmp_quiet false (fun _ _ => true) (p := fun n _ _ => !n) (fun _ _ => rfl),
      float_fn rfl fun _ _ y _ => by rw [class_eq]⟩

/-- Settles O10: a ready vcvt names two formats, and packing and unpacking read the scale code and the elements of each lane. -/
theorem conversionsAndPacking : Obligations.ConversionsAndPacking := by
  unfold Obligations.ConversionsAndPacking
  intro s f d a b o bs
  exact ⟨vcvt_does, srLanes_of_vecPack rfl, srLanes_of_vecPack rfl, vpkIo4_flagLanes, unpacks_of_vecUnpack rfl,
    unpacks_of_vecUnpack rfl, vunpkIo4_unpacks⟩

/-- Settles O11: functions and dot products are `vecLater` at the model's function of a lane. -/
theorem functionsAndDots : Obligations.FunctionsAndDots := by
  unfold Obligations.FunctionsAndDots
  intro s f d a b
  iterate 8 refine ⟨laterLanes_of_vecLater rfl fun _ => rfl, ?_⟩
  exact laterLanes_of_vecLater rfl fun _ => rfl

/-- Settles O12: a choice of lanes is `vecLater` without flags; a scan or a reduction runs the operation that its code names. -/
theorem laneOperations : Obligations.LaneOperations := by
  unfold Obligations.LaneOperations
  intro s f d a b o bs
  exact ⟨laterLanes_of_vecLater rfl fun _ => rfl, laterLanes_of_vecLater rfl fun _ => rfl,
    laterLanes_of_vecLater rfl fun _ => rfl, fun op ho => does_vecScan ho rfl, fun op ho => does_vecScan ho rfl,
    fun op ho => vred_does ho, vballot_does, vrngRd_does, vrngSeed_does, vrngStep_does⟩

end Sys2Proof.Proofs.Floats

/-!
# Mask instructions

Each meaning is one write of a whole mask register or a whole scalar, so that no lane of exec is named.
-/

namespace Sys2Proof.Proofs.Masks

open Sys2Proof Sys2Proof.Machine

/-- Settles O15: the meaning of each instruction is the write of the statement. -/
theorem maskInstructions : Obligations.MaskInstructions := by
  unfold Obligations.MaskInstructions
  intro s d a b
  iterate 7 refine ⟨Laws.Issue.does rfl fun _ => rfl, ?_⟩
  exact ⟨State.kreg_zero s, Laws.Issue.does rfl fun _ => rfl⟩

end Sys2Proof.Proofs.Masks

/-!
# Divergence and rejoining

The meanings of mark, brd and join (`doMark`, `doBrd`, `doJoin`) are case distinctions on the live splits, the lanes that take the
branch, and the top of the rejoin stack. There is one equation for each case, on any state. A claim is the equation of its case on
the state in which the instruction has issued, where all of these are as before the issue.
-/

namespace Sys2Proof.Proofs.Divergence

open Sys2Proof Sys2Proof.Machine Sys2Proof.Laws.Control

/-! ## Entries of the rejoin stack (08 R135) -/

theorem payloadAddr_eq (p : BitVec 46) : payloadAddr p = p.setWidth 48 * 4 :=
  shiftLeft_two _

/-- The lanes entry of a deferred record. -/
theorem lanesEntry_deferred (o : Fin 4) (m : Word) :
    lanesEntry false o m = ⟨3, BitVec.ofNat 46 (o.val * 2 ^ 32 + m.toNat)⟩ := by
  simp [lanesEntry]

/-- The lanes entry of a held record. -/
theorem lanesEntry_held (o : Fin 4) (m : Word) :
    lanesEntry true o m = ⟨3, BitVec.ofNat 46 (2 ^ 34 + o.val * 2 ^ 32 + m.toNat)⟩ := by
  simp [lanesEntry]

/-! ## The state in which an instruction has issued -/

section
variable (s : State) (i : Instr)

theorem joinWait_issued : (s.issued i).cur.ctl.joinWait = s.cur.ctl.joinWait := by
  rw [Ctl.joinWait, State.issued_stack, State.issued_live, Ctl.joinWait]

/-- The fork of a split looks for a free split among the same ones as before the issue. -/
theorem free_split_issued : splitNums.find? (fun n => !((s.issued i).cur.ctl.split n).live) =
    splitNums.find? (fun n => !(s.cur.ctl.split n).live) := by
  simp only [State.issued_split_live]

end

/-! ## mark (08 R136) -/

section
variable {t : State} {n : Nat} {d : BitVec n}

theorem doMark_of_divided (h : 1 < t.cur.ctl.live.length) : doMark d t = .ok t :=
  if_pos h

theorem doMark_of_full (alone : t.cur.ctl.live.length ≤ 1) (full : 8 ≤ t.cur.ctl.stack.length) : doMark d t = .trap 6 0 0 := by
  rw [doMark, if_neg alone.not_gt, if_pos full]

theorem doMark_of_room (alone : t.cur.ctl.live.length ≤ 1) (room : t.cur.ctl.stack.length < 8) :
    doMark d t = .ok (t.modCtl fun c => { c with stack := rejoinEntry (t.target d) :: c.stack }) := by
  rw [doMark, if_neg alone.not_gt, if_neg room.not_ge]

end

section
variable {s : State} {d : BitVec 19}

theorem mark_pushes (alone : s.cur.ctl.live.length ≤ 1) (room : s.cur.ctl.stack.length < 8) : Does (.mark d) s (fun t =>
    t.modCtl (fun c => { c with stack := rejoinEntry (s.jumpTo d) :: c.stack })) :=
  Laws.Issue.does_at rfl (by
    rw [doMark_of_room (by rwa [State.issued_live]) (by rwa [State.issued_stack]), target_issued])

theorem mark_divided (h : 1 < s.cur.ctl.live.length) : Does (.mark d) s id :=
  Laws.Issue.does_at rfl (doMark_of_divided (by rwa [State.issued_live]))

theorem mark_overflows (alone : s.cur.ctl.live.length ≤ 1) (full : 8 ≤ s.cur.ctl.stack.length) : Traps (.mark d) s 6 0 0 :=
  Laws.Issue.traps_at rfl (doMark_of_full (by rwa [State.issued_live]) (by rwa [State.issued_stack]))

end

/-! ## brd (08 R137) -/

/-- The lanes of the issuing split that take a branch on a mask register: T of R137. -/
def taken (t : State) (k : BitVec 4) : Word := t.split.mask &&& t.kreg k.toNat

/-- The lanes of the issuing split that fall through: F of R137. -/
def fallen (t : State) (k : BitVec 4) : Word := t.split.mask &&& ~~~ taken t k

/-- The new split that runs the lanes of the taken path. -/
def forked (target : BitVec 48) (m : Word) : Split := { Split.free with live := true, pc := target, mask := m }

theorem taken_issued (s : State) (i : Instr) (k : BitVec 4) : taken (s.issued i) k = taken s k := by
  rw [taken, State.issued_mask, State.issued_kreg, taken]

theorem fallen_issued (s : State) (i : Instr) (k : BitVec 4) : fallen (s.issued i) k = fallen s k := by
  rw [fallen, State.issued_mask, taken_issued, fallen]

section
variable {t : State} {k : BitVec 4} {n : Nat} {d : BitVec n}

theorem doBrd_of_none_fallen (h : fallen t k = 0) : doBrd k.toNat d t = .ok (t.setPc (t.target d)) :=
  if_pos h

section
variable (hf : fallen t k ≠ 0)
include hf

theorem doBrd_of_none_taken (ht : taken t k = 0) : doBrd k.toNat d t = .ok t :=
  (if_neg hf).trans (if_pos ht)

variable (ht : taken t k ≠ 0)
include ht

theorem doBrd_of_free_split {i : Fin 4} (free : splitNums.find? (fun n => !(t.cur.ctl.split n).live) = some i) :
    doBrd k.toNat d t = .ok ((t.modSplit fun sp => { sp with mask := fallen t k }).modCtl fun c =>
      c.setSplit i (forked (t.target d) (taken t k))) := by
  simp only [doBrd, free]
  exact (if_neg hf).trans (if_neg ht)

variable (busy : splitNums.find? (fun n => !(t.cur.ctl.split n).live) = none)
include busy

theorem doBrd_of_room (room : t.cur.ctl.stack.length ≤ 6) :
    doBrd k.toNat d t = .ok ((t.modSplit fun sp => { sp with mask := fallen t k }).modCtl fun c =>
      { c with stack := lanesEntry false c.iss (taken t k) :: recordEntry (t.target d) :: c.stack }) := by
  simp only [doBrd, busy, if_neg room.not_gt]
  exact (if_neg hf).trans (if_neg ht)

theorem doBrd_of_full (full : 6 < t.cur.ctl.stack.length) : doBrd k.toNat d t = .trap 6 0 0 := by
  simp only [doBrd, busy, if_pos full]
  exact (if_neg hf).trans (if_neg ht)

end

end

section
variable {s : State} {k : BitVec 4} {d : BitVec 19}

theorem brd_moves (h : fallen s k = 0) : Does (.brd k d) s (fun t => t.setPc (s.jumpTo d)) :=
  Laws.Issue.does_at rfl (by rw [doBrd_of_none_fallen (by rwa [fallen_issued]), target_issued])

section
variable (hf : fallen s k ≠ 0)
include hf

theorem brd_stays (ht : taken s k = 0) : Does (.brd k d) s id :=
  Laws.Issue.does_at rfl (doBrd_of_none_taken (by rwa [fallen_issued]) (by rwa [taken_issued]))

variable (ht : taken s k ≠ 0)
include ht

theorem brd_forks {n : Fin 4} (free : (s.cur.ctl.split n).live = false) (lowest : ∀ m, m < n → (s.cur.ctl.split m).live = true) :
    Does (.brd k d) s (fun t => (t.modSplit (fun sp => { sp with mask := fallen s k })).modCtl (fun c =>
      c.setSplit n (forked (s.jumpTo d) (taken s k)))) :=
  Laws.Issue.does_at rfl (by
    rw [doBrd_of_free_split (by rwa [fallen_issued]) (by rwa [taken_issued])
      ((free_split_issued s _).trans (lowest_free_split free lowest)), target_issued, fallen_issued, taken_issued])

variable (busy : ∀ n, (s.cur.ctl.split n).live = true)
include busy

theorem brd_defers (room : s.cur.ctl.stack.length ≤ 6) :
    Does (.brd k d) s (fun t => (t.modSplit (fun sp => { sp with mask := fallen s k })).modCtl (fun c =>
      { c with stack := ⟨3, BitVec.ofNat 46 (c.iss.val * 2 ^ 32 + (taken s k).toNat)⟩ :: recordEntry (s.jumpTo d) :: c.stack })) :=
  Laws.Issue.does_at rfl (by
    rw [doBrd_of_room (by rwa [fallen_issued]) (by rwa [taken_issued]) ((free_split_issued s _).trans (no_free_split busy))
      (by rwa [State.issued_stack]), target_issued, fallen_issued, taken_issued]
    simp only [lanesEntry_deferred])

theorem brd_overflows (full : 6 < s.cur.ctl.stack.length) : Traps (.brd k d) s 6 0 0 :=
  Laws.Issue.traps_at rfl (doBrd_of_full (by rwa [fallen_issued]) (by rwa [taken_issued])
    ((free_split_issued s _).trans (no_free_split busy)) (by rwa [State.issued_stack]))

end

end

/-! ## join (08 R139) -/

section
variable {c : Ctl} {i : Fin 4} {e l a : RjEntry} {rest : List RjEntry}

theorem topRecord_of_owner (hc : c.stack = l :: a :: rest) (hk : l.kind = 3) (ho : l.owner = i.val) :
    c.topRecord i = some (l, a, rest) := by
  simp [Ctl.topRecord, hc, hk, ho]

theorem topRecord_of_empty (hc : c.stack = []) : c.topRecord i = none := by
  simp [Ctl.topRecord, hc]

theorem topRecord_of_not_owner (hc : c.stack = e :: rest) (h : e.kind = 3 → e.owner ≠ i.val) : c.topRecord i = none := by
  cases rest with
  | nil => simp [Ctl.topRecord, hc]
  | cons a rest => simpa [Ctl.topRecord, hc] using h

end

section
variable {t : State} {e l a : RjEntry} {rest : List RjEntry}

theorem doJoin_of_empty (hc : t.cur.ctl.stack = []) : doJoin t = .ok t := by
  simp only [doJoin, topRecord_of_empty hc, hc]

theorem doJoin_of_deferred (hc : t.cur.ctl.stack = l :: a :: rest) (hk : l.kind = 3) (ho : l.owner = t.cur.ctl.iss.val)
    (hh : l.held = false) : doJoin t =
      .ok ((t.modCtl fun c => { c with stack := lanesEntry true c.iss t.split.mask :: recordEntry t.here :: rest }).modSplit
        fun sp => { sp with mask := l.lanes, pc := payloadAddr a.payload }) := by
  simp [doJoin, topRecord_of_owner hc hk ho, hh]

theorem doJoin_of_held (hc : t.cur.ctl.stack = l :: a :: rest) (hk : l.kind = 3) (ho : l.owner = t.cur.ctl.iss.val)
    (hh : l.held = true) : doJoin t =
      .ok ((t.modCtl fun c => { c with stack := rest }).modSplit fun sp => { sp with mask := sp.mask ||| l.lanes, pc := t.here }) := by
  simp [doJoin, topRecord_of_owner hc hk ho, hh]

theorem doJoin_of_other_owner (hc : t.cur.ctl.stack = e :: rest) (hk : e.kind = 3) (ho : e.owner ≠ t.cur.ctl.iss.val) :
    doJoin t = .again (t.setPc t.here) t.cur.ctl.joinWait := by
  simp [doJoin, topRecord_of_not_owner hc fun _ => ho, hc, hk]

/-- The top entry is no record, and names the address of the join or does not (R139). -/
theorem doJoin_of_no_record (hc : t.cur.ctl.stack = e :: rest) (hk : e.kind ≠ 3) : doJoin t =
    if e.kind = 1 ∧ payloadAddr e.payload = t.here then
      if t.cur.ctl.live.length ≤ 1 then .ok (t.modCtl fun c => { c with stack := rest })
      else .again (t.setPc t.here) t.cur.ctl.joinWait
    else .ok t := by
  simp only [doJoin, topRecord_of_not_owner hc fun h => absurd h hk, hc, if_neg hk]

end

section
variable {s : State} {e l a : RjEntry} {rest : List RjEntry}

theorem join_empty (hc : s.cur.ctl.stack = []) : Does .join s id :=
  Laws.Issue.does_at rfl (doJoin_of_empty (by rwa [State.issued_stack]))

theorem join_swaps (hc : s.cur.ctl.stack = l :: a :: rest) (hk : l.kind = 3) (ho : l.owner = s.cur.ctl.iss.val)
    (hh : l.held = false) : Does .join s (fun t =>
      (t.modCtl (fun c => { c with stack :=
        ⟨3, BitVec.ofNat 46 (2 ^ 34 + c.iss.val * 2 ^ 32 + s.split.mask.toNat)⟩ :: recordEntry s.pc :: rest })).modSplit
        (fun sp => { sp with mask := l.lanes, pc := a.payload.setWidth 48 * 4 })) :=
  Laws.Issue.does_at rfl (by
    rw [doJoin_of_deferred (by rwa [State.issued_stack]) hk (by rwa [State.issued_iss]) hh, State.issued_mask, here_issued,
      payloadAddr_eq]
    simp only [lanesEntry_held])

theorem join_takes_back (hc : s.cur.ctl.stack = l :: a :: rest) (hk : l.kind = 3) (ho : l.owner = s.cur.ctl.iss.val)
    (hh : l.held = true) : Does .join s (fun t =>
      (t.modCtl (fun c => { c with stack := rest })).modSplit (fun sp => { sp with mask := sp.mask ||| l.lanes, pc := s.pc })) :=
  Laws.Issue.does_at rfl (by
    rw [doJoin_of_held (by rwa [State.issued_stack]) hk (by rwa [State.issued_iss]) hh, here_issued])

theorem join_waits_for_owner (hc : s.cur.ctl.stack = e :: rest) (hk : e.kind = 3) (ho : e.owner ≠ s.cur.ctl.iss.val) :
    Waits .join s (fun t => t.setPc s.pc) s.cur.ctl.joinWait :=
  Laws.Issue.waits_at rfl (by
    rw [doJoin_of_other_owner (by rwa [State.issued_stack]) hk (by rwa [State.issued_iss]), here_issued, joinWait_issued])

/-- The case distinction of a join whose top entry is no record, by the address of its word and the splits before the issue. -/
theorem doJoin_issued (hc : s.cur.ctl.stack = e :: rest) (hk : e.kind ≠ 3) (i : Instr) : doJoin (s.issued i) =
    if e.kind = 1 ∧ e.payload.setWidth 48 * 4 = s.pc then
      if s.cur.ctl.live.length ≤ 1 then .ok ((s.issued i).modCtl fun c => { c with stack := rest })
      else .again ((s.issued i).setPc s.pc) s.cur.ctl.joinWait
    else .ok (s.issued i) := by
  rw [doJoin_of_no_record (by rwa [State.issued_stack]) hk, payloadAddr_eq, here_issued, State.issued_live, joinWait_issued]

theorem kind_ne_record (hk : e.kind = 1) : e.kind ≠ 3 := by
  rw [hk]; decide

theorem join_pops (hc : s.cur.ctl.stack = e :: rest) (hk : e.kind = 1) (hp : e.payload.setWidth 48 * 4 = s.pc)
    (alone : s.cur.ctl.live.length ≤ 1) : Does .join s (fun t => t.modCtl (fun c => { c with stack := rest })) :=
  Laws.Issue.does_at rfl (by rw [doJoin_issued hc (kind_ne_record hk), if_pos ⟨hk, hp⟩, if_pos alone])

theorem join_waits_for_splits (hc : s.cur.ctl.stack = e :: rest) (hk : e.kind = 1) (hp : e.payload.setWidth 48 * 4 = s.pc)
    (divided : 1 < s.cur.ctl.live.length) : Waits .join s (fun t => t.setPc s.pc) s.cur.ctl.joinWait :=
  Laws.Issue.waits_at rfl (by rw [doJoin_issued hc (kind_ne_record hk), if_pos ⟨hk, hp⟩, if_neg divided.not_ge])

theorem join_falls_through (hc : s.cur.ctl.stack = e :: rest) (hk : e.kind ≠ 3)
    (h : ¬ (e.kind = 1 ∧ e.payload.setWidth 48 * 4 = s.pc)) : Does .join s id :=
  Laws.Issue.does_at rfl (by rw [doJoin_issued hc hk, if_neg h, id])

end

/-! ## The statement -/

/-- Settles O14: each clause is the case of `doMark`, `doBrd` or `doJoin` that its hypotheses select. -/
theorem divergenceAndRejoining : Obligations.DivergenceAndRejoining := by
  unfold Obligations.DivergenceAndRejoining
  refine ⟨fun s k d => ?divergence, fun s => ?rejoining⟩
  case divergence =>
    exact ⟨mark_pushes, mark_divided, mark_overflows, brd_moves, brd_stays, fun n hf ht => brd_forks hf ht, brd_defers,
      brd_overflows⟩
  case rejoining =>
    exact ⟨join_empty, fun l a rest => join_swaps, fun l a rest => join_takes_back, fun e rest => join_waits_for_owner,
      fun e rest => join_pops, fun e rest => join_waits_for_splits, fun e rest => join_falls_through⟩

end Sys2Proof.Proofs.Divergence

/-!
# Translations: probes, invalidations, walks and fault records

First the arithmetic of the word of a probe and of the range that a waiting split carries; then what an invalidation leaves of the
cached translations and of the L1; then when a `tinv` is complete; then the ways in which the offer of a fault record ends.
-/

namespace Sys2Proof.Proofs.Translation

open Sys2Proof Sys2Proof.Machine

/-! ## The report of a walk (09 R155) -/

theorem sizeCode_lt (bits : Nat) : sizeCode bits < 4 := by
  unfold sizeCode
  (repeat' split) <;> decide

theorem probeWord_ok (x : Xlate) (q : BitVec 7) :
    bitsOf (probeWord (.ok x) q) 0 0 = 1 ∧ bitsOf (probeWord (.ok x) q) 4 1 = x.perm.toNat ∧
      bitsOf (probeWord (.ok x) q) 6 5 = sizeCode x.bits ∧ bitsOf (probeWord (.ok x) q) 7 7 = x.far.toNat ∧
      bitsOf (probeWord (.ok x) q) 11 8 = 0 ∧ probeWord (.ok x) q / 4096 = x.fa / 4096 := by
  have hs := sizeCode_lt x.bits
  have hp := x.perm.isLt
  have hf := Bool.toNat_lt x.far
  simp only [probeWord, ControlWrites.bitsOf_eq_div_mod]
  generalize sizeCode x.bits = z at *
  generalize x.perm.toNat = p at *
  generalize x.far.toNat = f at *
  omega

theorem probeWord_fault {f : XFault} (q : BitVec 7) (h1 : f.l1 < 4) (h2 : f.l2 < 4) (hs : f.stage < 4) :
    bitsOf (probeWord (.fault f) q) 0 0 = 0 ∧ bitsOf (probeWord (.fault f) q) 11 10 = (if f.stage = 2 then f.l2 else f.l1) ∧
      bitsOf (probeWord (.fault f) q) 9 8 = (if f.cause = 10 then 3 else f.stage) ∧ probeWord (.fault f) q / 4096 = 0 := by
  have hq := q.isLt
  have hl : (if f.stage = 2 then f.l2 else f.l1) < 4 := by split <;> assumption
  have hc : (if f.cause = 10 then 3 else f.stage) < 4 := by split <;> omega
  simp only [probeWord, ControlWrites.bitsOf_eq_div_mod]
  generalize (if f.stage = 2 then f.l2 else f.l1) = l at *
  generalize (if f.cause = 10 then 3 else f.stage) = c at *
  omega

theorem tprobe_reports {s u : State} {d a : BitVec 6} {bs : BitVec 1} {c : Ctx} {r : XRes} (hc : s.myCtx = some c)
    (h : (s.issued (.tprobe d a bs)).probe c (dieOf s.cur.place.core) (s.sreg a.toNat).toNat (bs == 1) = (r, u)) :
    Does (.tprobe d a bs) s (fun _ => State.setSreg { u with freeCount := u.freeCount + 1 } d.toNat
      (BitVec.ofNat 64 (probeWord r (Config.freeBits 7 u.freeCount)))) :=
  Laws.Issue.does_at (body := fun t => doTprobe d.toNat a.toNat (bs == 1) t) rfl (by
    unfold doTprobe
    rw [State.issued_myCtx, hc]
    dsimp only
    rw [State.issued_place, State.issued_sreg, h])

/-! ## The range of an invalidation (09 R154) -/

theorem ofCode_code {r : TinvRange} (hst : r.st < 4) (hv : r.vdid < 64) (ha : r.start % 4096 = 0) (hs : r.start < 2 ^ 64) :
    TinvRange.ofCode r.code = r := by
  obtain ⟨st, vdid, start, n⟩ := r
  simp only [TinvRange.code, TinvRange.ofCode, TinvRange.mk.injEq] at *
  omega

theorem tinv_holds {s : State} {a b e : BitVec 6} {t : BitVec 2} {r : TinvRange}
    (hr : r = ⟨t.toNat, if e = 0 then s.myVdid else (s.sreg e.toNat).toNat % 64,
      (s.sreg a.toNat).toNat / 4096 * 4096, (s.sreg b.toNat).toNat % 2 ^ 40⟩) :
    Holds (.tinv a b e t) s (fun v => v.invalidate r) (.answer .tinv 64 s.nextId r.code) := by
  have he : e.toNat = 0 ↔ e = 0 := by simp [← BitVec.toNat_inj]
  refine Laws.Issue.holds_at (body := doTinv a.toNat b.toNat e.toNat t.toNat) rfl ?_
  simp [doTinv, he, hr]

/-! ## What an invalidation leaves (09 R153) -/

/-- A part of the state that every step of a fold keeps is kept by the fold. -/
theorem foldl_keeps {α β : Type} {g : State → β} {f : State → α → State} (hf : ∀ s a, g (f s a) = g s) (l : List α) (s : State) :
    g (l.foldl f s) = g s :=
  List.foldlRecOn (motive := fun t => g t = g s) l f rfl fun t ht a _ => (hf t a).trans ht

section
variable (s : State) (r : TinvRange)

theorem dropFrom_tlb (const : Bool) (core line : Nat) : (s.dropFrom const core line).tlb = s.tlb := rfl

theorem staleLanes_objs : (s.staleLanes r).objs = s.objs := rfl

theorem staleLanes_tlb : (s.staleLanes r).tlb = s.tlb := rfl

/-- What is left of the cached translations are those of the state with its partials collected that the range does not match. -/
theorem invalidate_tlb : (s.invalidate r).tlb =
    ((((s.staleLanes r).objs.filter (fun o => o.vdid == r.vdid)).foldl
      (fun (u : State) o => u.collect o ((s.staleLanes r).tinvPartial r)) (s.staleLanes r)).tlb).filter (fun e => !r.meets e) := by
  unfold State.invalidate
  exact foldl_keeps (g := State.tlb) (fun u _ => dropFrom_tlb u _ _ _) _ _

theorem invalidate_tlb_unmatched : ∀ x ∈ (s.invalidate r).tlb, x.matched r.st r.vdid r.start r.n = false := by
  intro x hx
  rw [invalidate_tlb] at hx
  simpa [TinvRange.meets] using (List.mem_filter.mp hx).2

theorem invalidate_tlb_of_no_objs (h : s.objs = []) :
    (s.invalidate r).tlb = s.tlb.filter (fun x => !x.matched r.st r.vdid r.start r.n) := by
  rw [invalidate_tlb, staleLanes_objs, h]
  rfl

theorem invalidate_l1_unmatched : ∀ l ∈ (s.invalidate r).l1, l.vdid = r.vdid →
    r.st = 0 ∧ pageMeets (l.gline / 2 ^ l.bits) l.bits r.start r.n = false := by
  intro l hl hv
  have h := (List.mem_filter.mp hl).2
  simpa [hv] using h

end

/-! ## Loads translated before an invalidation (09 R153, log entry 41) -/

section
variable {s : State} {r : TinvRange}

theorem groups_mapEvery (f : Group → Group) (hf : ∀ g, (f g).place = g.place) : (s.mapEvery f).groups = s.groups.map f := by
  unfold State.mapEvery State.mapGroups State.groups
  by_cases h : s.cur.place.used <;> simp [h, hf]

theorem laneMet_of_stage_two (hr : r.st ≠ 0) (a : LaneAcc) : s.laneMet r a = true := by
  simp [State.laneMet, Nat.pos_of_ne_zero hr]

/-- An invalidation beyond stage 1 makes every lane of a load of the VDID stale. -/
theorem staleOf_loads (hr : r.st ≠ 0) (g : Group) : ∀ o ∈ (s.staleOf r g).acc.ops, o.kind = .load → ∀ l ∈ o.lanes, l.stale = true := by
  intro o ho hk l hl
  obtain ⟨p, _, rfl⟩ := List.mem_map.mp ho
  by_cases hp : p.kind == .load
  · rw [if_pos hp] at hl
    obtain ⟨a, _, rfl⟩ := List.mem_map.mp hl
    simp [laneMet_of_stage_two hr a]
  · rw [if_neg hp] at hk
    exact absurd (by simpa using hk) hp

theorem groups_staleLanes : (s.staleLanes r).groups =
    s.groups.map (fun g => if (s.ctx? g.place.ctx).any (fun (c : Ctx) => c.vdid == r.vdid) then s.staleOf r g else g) :=
  groups_mapEvery (s := s) (fun g => if (s.ctx? g.place.ctx).any (fun (c : Ctx) => c.vdid == r.vdid) then s.staleOf r g else g)
    fun g => by split <;> rfl

theorem staleLanes_loads (hr : r.st ≠ 0) : ∀ g ∈ (s.staleLanes r).groups, (s.ctx? g.place.ctx).any (fun c => c.vdid == r.vdid) = true →
    ∀ o ∈ g.acc.ops, o.kind = .load → ∀ l ∈ o.lanes, l.stale = true := by
  intro g h hm
  rw [groups_staleLanes] at h
  obtain ⟨b, _, rfl⟩ := List.mem_map.mp h
  by_cases hb : (s.ctx? b.place.ctx).any (fun c => c.vdid == r.vdid)
  · rw [if_pos hb]
    exact staleOf_loads hr b
  · rw [if_neg hb] at hm
    exact absurd hm hb

end

/-! ## The end of an invalidation (09 R153, 13 R221) -/

section
variable {s : State} {n : Nat} {g : Group} {q before : Nat} {r : TinvRange}

theorem boundDone_intro (hsb : ∀ x ∈ s.sb, x.vdid = r.vdid → before ≤ x.id)
    (hw : ∀ w ∈ s.writes, w.vdid = r.vdid → w.id < before → w.phase ≠ .travel ∧ w.phase ≠ .invalidating)
    (hg : ∀ x ∈ s.groups, ∀ i, (x.ctl.split i).wait.boundBefore before = false) (hf : ∀ f ∈ s.fills, before ≤ f.id)
    (hp : ∀ x ∈ s.partials, x.ordered = false) : s.boundDone before r = true := by
  unfold State.boundDone
  simp only [Bool.and_eq_true, List.all_eq_true]
  refine ⟨⟨⟨⟨fun e h => ?entry, fun g h => ?group⟩, fun w h => ?write⟩, fun f h => ?fill⟩, fun p h => ?folded⟩
  case entry => simpa [imp_iff_not_or] using hsb e h
  case group => simp [hg g h]
  case write => simpa [imp_iff_not_or, or_assoc] using hw w h
  case fill => simp [Nat.not_lt.mpr (hf f h)]
  case folded => simp [hp p h]

theorem not_boundDone (h : (∃ x ∈ s.sb, x.vdid = r.vdid ∧ x.id < before) ∨
    (∃ w ∈ s.writes, w.vdid = r.vdid ∧ w.id < before ∧ w.phase = .travel)) : s.boundDone before r = false := by
  rw [← Bool.not_eq_true]
  intro hd
  simp only [State.boundDone, Bool.and_eq_true, List.all_eq_true] at hd
  obtain ⟨⟨⟨⟨hsb, _⟩, hw⟩, _⟩, _⟩ := hd
  rcases h with ⟨x, hx, hv, hi⟩ | ⟨w, hm, hv, hi, hp⟩
  · simpa [hv, hi] using hsb x hx
  · simpa [hv, hi, hp] using hw w hm

/-- A waiting `tinv` goes on where its bound writes are done, and else waits. -/
theorem tinvComplete_eq (hg : s.group? (n / 4) = some g)
    (hw : (g.ctl.split (Fin.ofNat 4 n)).wait = .answer .tinv q before r.code) (hr : TinvRange.ofCode r.code = r) :
    exec (.tinvComplete n) s =
      .next (if s.boundDone before r then (s.tinvPages r).answer (n / 4) (Fin.ofNat 4 n) 64 0 else s) := by
  have he : exec (.tinvComplete n) s = execTinvComplete n s := rfl
  rw [he, execTinvComplete]
  simp only [hg, Option.map_some, hw, hr]

theorem tinvPages_stage_one (h : r.st = 0) : s.tinvPages r = s := if_pos h

theorem tinvPages_untouched (h : r.st ≠ 0) : ∀ p ∈ (s.tinvPages r).pages, inPages (s.tinvMaps r) (p.page * 4096) = false := by
  unfold State.tinvPages
  rw [if_neg h]
  intro p hp
  simpa using (List.mem_filter.mp hp).2

end

/-! ## Walks that fill a cache (09 R147, R151) -/

section
variable {s u : State} {n k : Nat} {c : Ctx} {gva : BitVec 64} {acc : Access}

theorem translationWalk_fills {x : Xlate} (hc : s.ctx? n = some c) (h : s.walked c (k / 3) gva.toNat (some acc) 2 = (.ok x, u)) :
    exec (.translationWalk n gva acc k) s = .next ((u.count n 10 1).cacheFill k c gva.toNat x) := by
  have he : exec (.translationWalk n gva acc k) s = execTranslationWalk n gva acc k s := rfl
  rw [he, execTranslationWalk]
  simp only [hc, h]

theorem translationWalk_faults {f : XFault} (hc : s.ctx? n = some c) (h : s.walked c (k / 3) gva.toNat (some acc) 2 = (.fault f, u)) :
    exec (.translationWalk n gva acc k) s = .next (u.count n 10 1) := by
  have he : exec (.translationWalk n gva acc k) s = execTranslationWalk n gva acc k s := rfl
  rw [he, execTranslationWalk]
  simp only [hc, h]

theorem noteMapped_tlb (e : TrEntry) : (s.noteMapped e).tlb = s.tlb := by
  unfold State.noteMapped
  dsimp only
  split <;> rfl

theorem cacheFill_without_quota {x : Xlate} {gva : Nat} (h : bitsOf ((s.vregs.tq[c.vdid]?).getD 0).toNat 15 8 = 0) :
    (s.cacheFill k c gva x).tlb = s.tlb := by
  unfold State.cacheFill
  dsimp only
  rw [if_pos (by rw [h])]
  exact noteMapped_tlb _

end

/-! ## Offers of fault records (19 R330) -/

/-- The offer of a record is marked with its time. -/
def offeredNow (s : State) (n : Nat) : State :=
  { s with faults := s.faults.map (fun (x : FaultRec) => if x.id == n then { x with offered := s.pace } else x) }

/-- The slot of a queue, from its register and position. -/
def slotOf (z : DWord) (p : Nat) : Nat := z.toNat / 4096 * 4096 + 32 * (p % 2 ^ (z.toNat % 16 + 4))

section
variable {s : State} {n : Nat} {r : FaultRec}

theorem faultRecordOffer_due (hf : s.faults.find? (fun x => x.id == n && !x.written) = some r) (ho : r.offered + 1000 ≤ s.pace) :
    exec (.faultRecordOffer n) s = .next (s.offerFault n) := by
  have he : exec (.faultRecordOffer n) s = execFaultRecordOffer n s := rfl
  have hp := List.find?_some hf
  have hr : s.faults.any (fun r => r.id == n && decide (r.offered + 1000 ≤ s.pace)) = true :=
    List.any_eq_true.mpr ⟨r, List.mem_of_find?_eq_some hf, by
      simp only [Bool.and_eq_true, decide_eq_true_eq] at hp ⊢
      exact ⟨hp.1, ho⟩⟩
  rw [he, execFaultRecordOffer, if_pos hr]

theorem faultRecordOffer_early (h : ∀ r ∈ s.faults, r.id = n → s.pace < r.offered + 1000) :
    exec (.faultRecordOffer n) s = .next s := by
  have he : exec (.faultRecordOffer n) s = execFaultRecordOffer n s := rfl
  rw [he, execFaultRecordOffer, if_neg]
  intro hr
  obtain ⟨r, hm, hr⟩ := List.any_eq_true.mp hr
  simp only [Bool.and_eq_true, beq_iff_eq, decide_eq_true_eq] at hr
  exact absurd hr.2 (Nat.not_le.mpr (h r hm hr.1))

/-- A record whose queue has no base is marked as offered. -/
theorem offerFault_without_queue (hf : s.faults.find? (fun x => x.id == n && !x.written) = some r)
    (h1 : r.queue = 1 → (((s.ctx? r.ctx).map Ctx.fq1).getD 0).toNat < 4096)
    (h2 : r.queue ≠ 1 → ((s.vregs.fq2[r.vdid]?).getD 0).toNat < 4096) : s.offerFault n = offeredNow s n := by
  have hb : (if r.queue = 1 then ((s.ctx? r.ctx).map Ctx.fq1).getD 0 else (s.vregs.fq2[r.vdid]?).getD 0).toNat / 4096 * 4096 = 0 := by
    split
    · next h => rw [Nat.div_eq_of_lt (h1 h)]
    · next h => rw [Nat.div_eq_of_lt (h2 h)]
  unfold State.offerFault
  simp only [hf]
  exact if_pos hb

section
variable {z : DWord} {p w : Nat} {u : State}

/-- A record of stage 2 that finds its slot taken leaves the read of the slot. -/
theorem offerFault_taken (hf : s.faults.find? (fun x => x.id == n && !x.written) = some r) (hq : r.queue = 2)
    (hz : (s.vregs.fq2[r.vdid]?).getD 0 = z) (hb : 4096 ≤ z.toNat) (hp : (s.vregs.fq2Pos[r.vdid]?).getD 0 = p)
    (hu : (offeredNow s n).arrive 0 (slotOf z p) 8 = u) (hn : u.engineNum 0 (slotOf z p) 8 = some w) (hw : w / 2 ^ 63 = 1) :
    s.offerFault n = u := by
  have h1 : ¬ r.queue = 1 := by omega
  have hb' : ¬ z.toNat / 4096 * 4096 = 0 := by omega
  unfold offeredNow slotOf at hu
  unfold slotOf at hn
  unfold State.offerFault
  simp only [hf, h1, if_false, hz, hp, hb', hu, hn, hw, if_true]

/-- The words of a fault record, as bytes (R330). -/
def recordBytes (r : FaultRec) : List Byte :=
  leBytes 8 r.w0.toNat ++ leBytes 8 r.w1.toNat ++ leBytes 8 r.w2.toNat ++ leBytes 8 r.w3.toNat

/-- The state after a record of stage 2 has been written to its slot: the record is marked, and the position of its queue advances. -/
def recordWritten (x : State) (n vdid next : Nat) : State :=
  { x with
    faults := x.faults.map (fun (y : FaultRec) => if y.id == n then { y with written := true } else y)
    vregs := { x.vregs with fq2Pos := x.vregs.fq2Pos.setIfInBounds vdid next } }

/-- A record of stage 2 is written where its slot is free. -/
theorem offerFault_free (hf : s.faults.find? (fun x => x.id == n && !x.written) = some r) (hq : r.queue = 2)
    (hz : (s.vregs.fq2[r.vdid]?).getD 0 = z) (hb : 4096 ≤ z.toNat) (hp : (s.vregs.fq2Pos[r.vdid]?).getD 0 = p)
    (hu : (offeredNow s n).arrive 0 (slotOf z p) 8 = u) (hn : u.engineNum 0 (slotOf z p) 8 = some w) (hw : w / 2 ^ 63 ≠ 1) :
    s.offerFault n =
      recordWritten (u.engineWrite 0 (slotOf z p) (recordBytes r)) n r.vdid ((p + 1) % 2 ^ (z.toNat % 16 + 4)) := by
  have h1 : ¬ r.queue = 1 := by omega
  have hb' : ¬ z.toNat / 4096 * 4096 = 0 := by omega
  unfold offeredNow slotOf at hu
  unfold slotOf at hn
  unfold State.offerFault
  simp only [hf, h1, if_false, hz, hp, hb', hu, hn, hw]
  rfl

theorem recordWritten_written (x : State) (n vdid next : Nat) : ∀ q ∈ (recordWritten x n vdid next).faults, q.id = n → q.written = true := by
  intro q hq hi
  obtain ⟨y, _, rfl⟩ := List.mem_map.mp hq
  by_cases hy : y.id == n
  · rw [if_pos hy]
  · rw [if_neg hy] at hi
    exact absurd (beq_iff_eq.mpr hi) hy

end

end

/-- Settles O48: each clause is the equation of its operation above, with the words of the report and the range as numbers. -/
theorem translationEvents : Obligations.TranslationEvents := by
  unfold Obligations.TranslationEvents
  intro s n d a b e bs t
  refine ⟨?probe, probeWord_ok, fun f q h1 h2 hs => probeWord_fault q h1 h2 hs, fun r hr => tinv_holds hr,
    fun r hst hv ha hs => ofCode_code hst hv ha hs, invalidate_tlb_unmatched s, fun r h => invalidate_tlb_of_no_objs s r h,
    fun r hr => staleLanes_loads hr, invalidate_l1_unmatched s, ?done, ?bound, ?pages, ?leaf, ?fault, ?quota, ?base, ?early, ?taken, ?free⟩
  case probe => exact fun c r u hc h => tprobe_reports hc h
  case done =>
    intro g q before r hg hw hr hsb hwr hgr hf hp
    rw [tinvComplete_eq hg hw hr, if_pos (boundDone_intro hsb hwr hgr hf hp)]
  case bound =>
    intro g q before r hg hw hr h
    rw [tinvComplete_eq hg hw hr, not_boundDone h]
    rfl
  case pages => exact fun r => ⟨tinvPages_stage_one, tinvPages_untouched⟩
  case leaf => exact fun c x u k gva acc hc h => translationWalk_fills hc h
  case fault => exact fun c f u k gva acc hc h => translationWalk_faults hc h
  case quota => exact fun k c gva x h => cacheFill_without_quota h
  case base =>
    intro r hf hq hz ho
    rw [faultRecordOffer_due hf ho, offerFault_without_queue hf (fun h => by omega) fun _ => hz]
    rfl
  case early => exact faultRecordOffer_early
  case taken =>
    intro r w z p v u hf hq ho hv hz hb hp hu hn hw
    subst hv
    rw [faultRecordOffer_due hf ho, offerFault_taken hf hq hz hb hp hu hn hw]
  case free =>
    intro r w z p v u hf hq ho hv hz hb hp hu hn hw
    subst hv
    have he := offerFault_free hf hq hz hb hp hu hn hw
    exact ⟨_, _, rfl, (faultRecordOffer_due hf ho).trans (congrArg Host.Outcome.next he), rfl, recordWritten_written _ n r.vdid _, rfl⟩

end Sys2Proof.Proofs.Translation

/-!
# Accesses and memory

`Parts` is what decides whether an access writes memory beside the store buffer: memory itself, the registers of the VDIDs and of the
part, the fault records with the next name, the echoes and writes under way, and the queue of each context. The reads of a walk and
the caches that it fills keep these parts. A state is `Quiet` for a context where, by these parts, no line has anything to settle and no
record has a queue to be written to; what an access does keeps the state quiet, and with it memory. The second half says what a write
that becomes readable does to memory.
-/

namespace Sys2Proof.Proofs.Accesses

open Sys2Proof Sys2Proof.Machine Sys2Proof.Laws.Mem Sys2Proof.Proofs.Canonical Sys2Proof.Proofs.Translation

/-! ## The parts that an access's reads keep -/

/-- What decides whether an access writes memory beside the store buffer. -/
structure Parts where
  mem : Memory
  vregs : VdidRegs
  pkg : Pkg
  faults : List FaultRec
  nextId : Nat
  echoes : List Echo
  writes : List WriteReq
  /-- The contexts by number, each with its fault queue. -/
  queues : List (Nat × DWord)

/-- These parts of a state. -/
def partsOf (s : State) : Parts :=
  ⟨s.mem, s.vregs, s.pkg, s.faults, s.nextId, s.echoes, s.writes, s.ctxs.map (fun c => (c.num, c.fq1))⟩

section
variable (s : State)

theorem count_parts (c e n : Nat) : partsOf (s.count c e n) = partsOf s := by
  have h : (s.count c e n).ctxs.map (fun c => (c.num, c.fq1)) = s.ctxs.map (fun c => (c.num, c.fq1)) := by
    unfold State.count State.modCtx
    rw [List.map_map]
    refine List.map_congr_left fun x _ => ?_
    dsimp only [Function.comp_apply]
    split <;> rfl
  rw [partsOf, h]
  rfl

theorem putDram_parts (h a : Nat) (old : List Byte) : partsOf (s.putDram h a old) = partsOf s := by
  unfold State.putDram
  split <;> rfl

theorem dramRead_parts (h a : Nat) : partsOf (s.dramRead h a) = partsOf s := by
  unfold State.dramRead
  split <;> rfl

theorem writeBack_parts (t : TagLine) : partsOf (s.writeBack t) = partsOf s := by
  unfold State.writeBack
  split
  · rfl
  · dsimp only
    split <;> exact putDram_parts s _ _ _

theorem evictTag_parts (t : TagLine) : partsOf (s.evictTag t) = partsOf s := writeBack_parts s t

theorem evictFor_parts (c : Nat) (t : TagLine) : partsOf (s.evictFor c t) = partsOf s := by
  unfold State.evictFor
  split
  · exact (evictTag_parts _ t).trans (count_parts s _ _ _)
  · exact evictTag_parts s t

theorem limitTags_parts (p l : Nat) : partsOf (s.limitTags p l) = partsOf s := by
  unfold State.limitTags
  dsimp only
  split
  · rfl
  · split <;> rfl

theorem touchTag_parts (p h a w c k : Nat) : partsOf (s.touchTag p h a w c k) = partsOf s := by
  have he := foldl_keeps (g := partsOf) (fun u t => evictFor_parts u c t)
    (s.tags.filter (fun t => sameCache t.place p && t.line == lineBase a && (t.place != p || t.holder != h))) s
  unfold State.touchTag
  dsimp only
  split
  · exact (limitTags_parts _ _ _).trans he
  · split
    · exact he
    · refine (limitTags_parts _ _ _).trans ?_
      split
      · exact he
      · split
        · exact (evictFor_parts _ _ _).trans he
        · exact he

theorem ctlRead_parts (h a c k : Nat) : partsOf (s.ctlRead h a c k) = partsOf s := by
  unfold State.ctlRead
  have hd : partsOf (if s.mscHit h a then s else s.dramRead h a) = partsOf s := by
    split
    · rfl
    · exact dramRead_parts s h a
  dsimp only
  split
  · split
    · exact (touchTag_parts _ _ _ _ _ _ _).trans hd
    · exact hd
  · exact hd

theorem unitRead_parts (h a : Nat) : partsOf (s.unitRead h a) = partsOf s := by
  unfold State.unitRead State.unitReadAs
  split
  · exact ctlRead_parts s _ _ _ _
  · split
    · exact touchTag_parts s _ _ _ _ _ _
    · exact ctlRead_parts s _ _ _ _

theorem poisonBad_parts (fa : Nat) : partsOf (s.poisonBad fa) = partsOf s :=
  foldl_keeps (g := partsOf) (fun _ _ => by rfl) _ s

theorem meetBad_parts (es : List Elem) : partsOf (s.meetBad es) = partsOf s := by
  unfold State.meetBad
  dsimp only
  split <;> rfl

theorem noteMapped_parts (e : TrEntry) : partsOf (s.noteMapped e) = partsOf s := by
  unfold State.noteMapped
  dsimp only
  split <;> rfl

theorem cacheFill_parts (slice : Nat) (c : Ctx) (gva : Nat) (x : Xlate) : partsOf (s.cacheFill slice c gva x) = partsOf s := by
  unfold State.cacheFill
  dsimp only
  (repeat' split) <;> exact noteMapped_parts s _

theorem ctx?_fq1 (n : Nat) : (s.ctx? n).map Ctx.fq1 = ((partsOf s).queues.find? (fun q => q.1 == n)).map Prod.snd := by
  simp [partsOf, State.ctx?, List.find?_map, Function.comp_def]

end

/-! ## Quiet states -/

/-- Memory is `m`; the records of the context's faults and of errors have no queue to be written to; the names of fault records are
below the next one; nothing is under way for which a line waits. -/
structure Quiet (c : Ctx) (m : Memory) (s : State) : Prop where
  mem : s.mem = m
  queue1 : (((s.ctx? c.num).map Ctx.fq1).getD 0).toNat < 4096
  queue2 : ((s.vregs.fq2[c.vdid]?).getD 0).toNat < 4096
  errors : s.pkg.erq.toNat < 4096
  names : ∀ x ∈ s.faults, x.id < s.nextId
  echoes : s.echoes = []
  writes : ∀ x ∈ s.writes, x.phase ≠ .invalidating

section
variable {c : Ctx} {m : Memory} {s t : State}

theorem Quiet.of_parts (q : Quiet c m s) (h : partsOf t = partsOf s) : Quiet c m t where
  mem := (congrArg Parts.mem h).trans q.mem
  queue1 := by
    rw [ctx?_fq1, h, ← ctx?_fq1]
    exact q.queue1
  queue2 := by
    rw [show t.vregs = s.vregs from congrArg Parts.vregs h]
    exact q.queue2
  errors := by
    rw [show t.pkg = s.pkg from congrArg Parts.pkg h]
    exact q.errors
  names := by
    rw [show t.faults = s.faults from congrArg Parts.faults h, show t.nextId = s.nextId from congrArg Parts.nextId h]
    exact q.names
  echoes := (congrArg Parts.echoes h).trans q.echoes
  writes := by
    rw [show t.writes = s.writes from congrArg Parts.writes h]
    exact q.writes

/-- A name is taken. -/
theorem Quiet.fresh (q : Quiet c m s) : Quiet c m s.fresh.2 :=
  { q with names := fun x hx => Nat.lt_succ_of_lt (q.names x hx) }

theorem quiet_of_snd {α : Type} {p : α × State} {a : α} (e : p = (a, t)) (q : Quiet c m p.2) : Quiet c m t := by
  rwa [e] at q

theorem quiet_ite {p : Prop} [Decidable p] (qs : Quiet c m s) (qt : Quiet c m t) : Quiet c m (if p then s else t) := by
  split <;> assumption

theorem foldl_quiet {α : Type} {f : State → α → State} (hf : ∀ s a, Quiet c m s → Quiet c m (f s a)) (l : List α)
    (q : Quiet c m s) : Quiet c m (l.foldl f s) :=
  List.foldlRecOn (motive := Quiet c m) l f q fun t ht a _ => hf t a ht

/-! ### Translating (09 R147, R151) -/

theorem Quiet.settleLine (q : Quiet c m s) (holder fa : Nat) : s.settleLine holder fa = s := by
  have hw : s.lineWaits holder fa = false := by
    simp +contextual [State.lineWaits, q.echoes, q.writes]
  simp [State.settleLine, hw]

theorem walkArrive_quiet (die world : Nat) (ls : List Nat) (q : Quiet c m s) : Quiet c m (s.walkArrive die world ls) := by
  unfold State.walkArrive
  refine foldl_quiet (fun s fa q => ?_) ls q
  dsimp only
  split
  · exact q
  · rw [q.settleLine]
    split
    · exact q.of_parts (unitRead_parts s _ _)
    · exact q

theorem walkedBy_quiet (look : State → XRes × List Nat) (die world n : Nat) (q : Quiet c m s) :
    Quiet c m (walkedBy look die world n s).2 := by
  induction n generalizing s with
  | zero => exact q
  | succ n ih =>
    unfold walkedBy
    dsimp only
    split
    · exact ih (walkArrive_quiet _ _ _ q)
    · exact walkArrive_quiet _ _ _ q

theorem footprint_without_base (hb : c.fpBase.toNat % 2 = 0) (fpi : Option Nat) (off : Nat) (fresh : Bool) :
    s.footprint c fpi off fresh = s := by
  unfold State.footprint
  split
  · rfl
  · exact if_neg (by omega)

theorem translate_quiet (hb : c.fpBase.toNat % 2 = 0) (core gva : Nat) (acc : Access) (pl : Nat) (q : Quiet c m s) :
    Quiet c m (s.translate c core gva acc pl).2 := by
  unfold State.translate
  dsimp only
  split
  · rw [footprint_without_base hb]
    exact q.of_parts rfl
  · have hw : Quiet c m ((s.walked c (dieOf core) gva (some acc) pl).2.count c.num 10 1) :=
      (walkedBy_quiet _ _ _ _ q).of_parts (count_parts _ _ _ _)
    split
    · rw [footprint_without_base hb]
      exact hw.of_parts (cacheFill_parts _ _ _ _ _)
    · exact hw

theorem checkElem_quiet (hb : c.fpBase.toNat % 2 = 0) (acc : Access) (needs : Needs) (prim : Bool) (e : Elem) (q : Quiet c m s) :
    Quiet c m (s.checkElem c acc needs prim e).2 := by
  have hq := translate_quiet hb s.cur.place.core e.gva acc s.cur.trap.pl q
  unfold State.checkElem
  dsimp only
  split
  · exact q
  · split
    · next ht => exact quiet_of_snd ht hq
    · next ht => exact quiet_of_snd ht hq
    · next ht =>
      have hq := quiet_of_snd ht hq
      (repeat' split) <;> exact hq

theorem checkAll_quiet (hb : c.fpBase.toNat % 2 = 0) (acc : Access) (needs : Needs) (prim : Bool) (es : List Elem) (q : Quiet c m s) :
    Quiet c m (s.checkAll c acc needs prim es).2 := by
  induction es generalizing s with
  | nil => exact q
  | cons e es ih => exact ih (checkElem_quiet hb acc needs prim e q)

/-! ### Fault records (19 R330) -/

theorem newFault_faults (s : State) (c : Ctx) (uid : Nat) (counted : Bool) (f : XFault) (gva : Nat) (acc : Access) (lanes : Nat) :
    ∃ r : FaultRec, (s.newFault c uid counted f gva acc lanes).faults = s.faults ++ [r] ∧ r.id = s.nextId ∧ r.ctx = c.num ∧
      r.vdid = c.vdid ∧ r.written = false :=
  ⟨_, rfl, rfl, rfl, rfl, rfl⟩

theorem newFault_quiet (uid : Nat) (counted : Bool) (f : XFault) (gva : Nat) (acc : Access) (lanes : Nat) (q : Quiet c m s) :
    Quiet c m (s.newFault c uid counted f gva acc lanes) :=
  { q with
    names := fun x hx => by
      obtain ⟨r, hf, hi, _⟩ := newFault_faults s c uid counted f gva acc lanes
      rw [hf] at hx
      change x.id < s.nextId + 1
      rcases List.mem_append.mp hx with hx | hx
      · exact Nat.lt_succ_of_lt (q.names x hx)
      · rw [List.mem_singleton.mp hx, hi]
        exact Nat.lt_succ_self _ }

theorem offeredNow_quiet (n : Nat) (q : Quiet c m s) : Quiet c m (offeredNow s n) :=
  { q with
    names := fun x hx => by
      obtain ⟨y, hy, rfl⟩ := List.mem_map.mp hx
      have := q.names y hy
      split <;> exact this }

/-- The record of a new fault has no queue to be written to. -/
theorem offerFault_quiet (uid : Nat) (counted : Bool) (f : XFault) (gva : Nat) (acc : Access) (lanes : Nat) (q : Quiet c m s) :
    Quiet c m ((s.newFault c uid counted f gva acc lanes).offerFault s.nextId) := by
  obtain ⟨r, hf, hi, hc, hv, hw⟩ := newFault_faults s c uid counted f gva acc lanes
  have hn := newFault_quiet uid counted f gva acc lanes q
  have hr : (s.newFault c uid counted f gva acc lanes).faults.find? (fun x => x.id == s.nextId && !x.written) = some r := by
    have hs : s.faults.find? (fun x => x.id == s.nextId && !x.written) = none := by
      rw [List.find?_eq_none]
      intro x hx
      simp [Nat.ne_of_lt (q.names x hx)]
    rw [hf, List.find?_append, hs]
    simp [hi, hw]
  rw [offerFault_without_queue hr (fun _ => hc ▸ hn.queue1) (fun _ => hv ▸ hn.queue2)]
  exact offeredNow_quiet _ hn

theorem parkFault_quiet (x : Miss) (gva : Nat) (acc : Access) (lanes : Nat) (q : Quiet c m s) :
    Quiet c m (s.parkFault c x gva acc lanes) := by
  cases x with
  | fault f => exact offerFault_quiet (s := s.modTrap _) _ _ _ _ _ _ (q.of_parts rfl)
  | far i => exact q.fresh.of_parts rfl

theorem parkFaults_quiet (acc : Access) (ms : List (Nat × Miss × Nat)) (q : Quiet c m s) : Quiet c m (s.parkFaults c acc ms) :=
  foldl_quiet (fun _ x q => parkFault_quiet x.2.1 x.1 acc _ q) _ q

/-! ### Performing (13 R219, 14 R232) -/

theorem startLoad_quiet (dest : Dest) (const : Bool) (ret : Nat) (acq : Option Nat) (lanes : List LaneAcc) (q : Quiet c m s) :
    Quiet c m (s.startLoad dest const ret acq lanes) := by
  refine q.fresh.of_parts ?_
  unfold State.startLoad
  dsimp only
  split <;> rfl

theorem pushEntry_quiet (op ret : Nat) (tree : Option (Nat × Nat)) (a : LaneAcc) (size : Nat) (k : WKind) (q : Quiet c m s) :
    Quiet c m (s.pushEntry op ret tree a size k) := by
  unfold State.pushEntry
  dsimp only
  split
  · exact q.of_parts rfl
  · exact q.fresh.of_parts rfl

theorem startStore_quiet (kind : OpKind) (dest : Dest) (ret : Nat) (acq : Option Nat) (tree : Option (Nat × Nat))
    (ws : List (LaneAcc × Nat × WKind)) (q : Quiet c m s) : Quiet c m (s.startStore kind dest ret acq tree ws) := by
  unfold State.startStore
  refine foldl_quiet (fun _ w q => pushEntry_quiet _ _ _ _ _ _ q) ws ?_
  dsimp only
  split <;> exact q.fresh.of_parts rfl

theorem perform_quiet (o : HeldOp) (q : Quiet c m s) : Quiet c m (s.perform o) := by
  cases o with
  | load => exact startLoad_quiet _ _ _ _ _ q
  | store => exact startStore_quiet _ _ _ _ _ _ (q.of_parts rfl)

end

/-! ## Traps (19 R322-R328) -/

section
variable {s : State}

theorem errorRecord_mem (h : s.pkg.erq.toNat < 4096) (e : ErrInfo) : (s.errorRecord e).mem = s.mem := by
  have hb : bitsOf s.pkg.erq.toNat 63 12 * 4096 = 0 := by
    rw [ControlWrites.bitsOf_eq_div_mod]
    omega
  unfold State.errorRecord
  dsimp only
  rw [if_pos hb]

theorem ctxError_mem (h : s.pkg.erq.toNat < 4096) (ctx cause cls core : Nat) (detail : List DWord) :
    (s.ctxError ctx cause cls core detail).mem = s.mem := by
  unfold State.ctxError
  split
  · rfl
  · exact errorRecord_mem h _

/-- A reset writes memory by its error record alone. -/
theorem resetAs_mem (h : s.pkg.erq.toNat < 4096) (ctx cause core : Nat) (detail : List DWord) :
    (s.resetAs ctx cause core detail).mem = s.mem :=
  ctxError_mem h ctx cause 11 core detail

theorem doubleTrap_mem (h : s.pkg.erq.toNat < 4096) (e : TrapEntry) : (s.doubleTrap e).mem = s.mem :=
  resetAs_mem h _ _ _ _

theorem deliver_mem (h : s.pkg.erq.toNat < 4096) : s.deliver.mem = s.mem := by
  unfold State.deliver
  split
  · rfl
  · dsimp only
    split
    · exact doubleTrap_mem h _
    · rfl

theorem rewind_pkg (s : State) : s.rewind.pkg = s.pkg := by
  unfold State.rewind State.refund
  dsimp only
  split <;> rfl

theorem takeTraps_mem (h : s.pkg.erq.toNat < 4096) (es : List TrapEntry) : (s.takeTraps es).mem = s.mem := by
  unfold State.takeTraps
  split
  · exact doubleTrap_mem h _
  · dsimp only
    split
    · rfl
    · rw [deliver_mem (by rw [rewind_pkg]; exact h), rewind_mem]
      rfl

end

/-! ## Issue -/

/-- What an instruction does leaves memory as `m`: the state that it leaves, or, where it raises an error, its mark on any state. -/
def ActKeeps (m : Memory) : Act → Prop
  | .ok t | .hold t _ | .again t _ | .park t _ | .done t => t.mem = m
  | .raise t _ => t.mem = m ∧ t.pkg.erq.toNat < 4096
  | .ecc f _ _ => ∀ u, partsOf (f u) = partsOf u
  | .notReady | .waiting _ | .trap _ _ _ => True

theorem ActKeeps.of_eq {m : Memory} {a b : Act} (h : ActKeeps m a) (e : a = b) : ActKeeps m b := by
  rwa [← e]

section
variable {s : State} {i : Instr} {body : State → Act}

theorem issueState_mem (he : s.pkg.erq.toNat < 4096) (hb : ActKeeps s.mem (body (s.issued i))) : (issueState i s body).mem = s.mem := by
  unfold issueState
  dsimp only
  split
  · exact takeTraps_mem he _
  · rfl
  · split
    · exact takeTraps_mem he _
    · split
      · exact takeTraps_mem he _
      · split
        · exact takeTraps_mem he _
        · split
          · next ht => exact (finish_mem _ _ _).trans (hb.of_eq ht)
          · next ht => exact (finish_mem _ _ _).trans (hb.of_eq ht)
          · next t w ht =>
            rw [countIssue_mem]
            split <;> exact hb.of_eq ht
          · rfl
          · rfl
          · exact takeTraps_mem he _
          · next f _ _ ht =>
            have hp := hb.of_eq ht s
            have hm : (f s).mem = s.mem := congrArg Parts.mem hp
            have hk : (f s).pkg = s.pkg := congrArg Parts.pkg hp
            exact (takeTraps_mem (by rw [hk]; exact he) _).trans hm
          · next ht => exact hb.of_eq ht
          · next t es ht =>
            obtain ⟨hm, hk⟩ := hb.of_eq ht
            exact (takeTraps_mem (s := (t.keepFlags s).modSplit fun _ => s.split) hk es).trans hm
          · next ht => exact hb.of_eq ht

end

/-! ## Accesses (14 R237) -/

section
variable {c : Ctx} {m : Memory} {s : State}

/-- An access of a quiet context keeps memory, whatever its lanes meet. -/
theorem access_keeps (hc : s.myCtx = some c) (hb : c.fpBase.toNat % 2 = 0) (q : Quiet c m s) (acc : Access) (needs : Needs)
    (prim gate : Bool) (es : List Elem) (stall : State → Option (HeldOp → Wait)) (k : List (Elem × Nat) → HeldOp) :
    ActKeeps m (access s acc needs prim gate es stall k State.perform) := by
  have ht := checkAll_quiet hb acc needs prim es q
  unfold access
  rw [hc]
  dsimp only
  split
  · split
    · exact fun u => poisonBad_parts u _
    · trivial
  · split
    · trivial
    · split
      · exact (parkFaults_quiet acc _ (quiet_ite ht (perform_quiet _ ht))).mem
      · split
        · exact ht.mem
        · split
          · exact ht.mem
          · exact ht.mem
          · exact (perform_quiet _ ht).mem

theorem ordered_keeps {n : Nat} {k : State → Act} (hk : ActKeeps m (k s)) : ActKeeps m (ordered s n k) := by
  unfold ordered
  split
  · trivial
  · split
    · trivial
    · exact hk

section
variable (hc : s.myCtx = some c) (hb : c.fpBase.toNat % 2 = 0) (q : Quiet c m s)
include hc hb q

theorem doLoad_keeps (dest : Dest) (const : Bool) (ret : Nat) (es : List Elem) : ActKeeps m (doLoad dest const ret es s) :=
  ordered_keeps (access_keeps hc hb q _ _ _ _ _ _ _)

theorem doStore_keeps (kind : OpKind) (ret : Nat) (tree : Option (Nat × Nat)) (es : List Elem) (val : Elem → Nat) :
    ActKeeps m (doStore kind ret tree es val s) := by
  refine ordered_keeps ?_
  dsimp only
  split
  · trivial
  · exact access_keeps hc hb q _ _ _ _ _ _ _

theorem doAtom_keeps (op z ret : Nat) (dest : Dest) (es : List Elem) (x cmp : Elem → Nat) :
    ActKeeps m (doAtom op z ret dest es x cmp s) := by
  refine ordered_keeps ?_
  dsimp only
  split
  · trivial
  · exact access_keeps hc hb q _ _ _ _ _ _ _

theorem doAtomS_keeps (op z d a b ret : Nat) : ActKeeps m (doAtomS op z d a b ret s) := by
  unfold doAtomS
  exact doAtom_keeps hc hb q ..

theorem doAtomV_keeps (op z b : Nat) (back : Bool) (ret : Nat) (es : List Elem) : ActKeeps m (doAtomV op z b back ret es s) := by
  unfold doAtomV
  exact doAtom_keeps hc hb q ..

theorem doStMc_keeps (a b n ret : Nat) : ActKeeps m (doStMc a b n ret s) := by
  unfold doStMc
  dsimp only
  split
  · trivial
  · exact doStore_keeps hc hb q _ _ _ _ _

theorem doRed_keeps (a : BitVec 7) (b tag : Nat) : ActKeeps m (doRed a b tag s) := by
  unfold doRed
  dsimp only
  split
  · trivial
  · split
    · split
      · exact q.mem
      · trivial
    · split
      · trivial
      · split
        · trivial
        · split
          · trivial
          · refine ordered_keeps ?_
            split
            · trivial
            · split
              · trivial
              · exact access_keeps hc hb q _ _ _ _ _ _ _

end

/-! ### Scratchpad (14 R235) -/

theorem doSpld_keeps (z d f : Nat) (es : List Elem) (h : s.mem = m) : ActKeeps m (doSpld z d f es s) := by
  unfold doSpld
  dsimp only
  split
  · split
    · exact fun u => meetBad_parts u es
    · trivial
  · exact h

theorem doSpst_keeps (es : List Elem) (val : Elem → Nat) (h : s.mem = m) : ActKeeps m (doSpst es val s) := by
  unfold doSpst
  split
  · trivial
  · refine (foldl_mem (fun u e => ?_) es s).trans h
    split <;> rfl

end

/-! ## A write that becomes readable (13 R219, 15 R258) -/

section
variable {s : State}

theorem effect_of_mem {t : State} (h : t.mem = s.mem) (w : WriteReq) : t.effect w = s.effect w := by
  unfold State.effect State.bytesAt
  rw [h]

theorem applyBytes_mem (s : State) (id prim addr : Nat) (bs : List Byte) (mc : Option (Nat × Nat)) (vdid ctx cls : Nat)
    (place : Option Nat) : (s.applyBytes id prim addr bs mc vdid ctx cls place).1.mem = s.mem.putN (memKey prim addr) bs := by
  unfold State.applyBytes
  dsimp only
  split <;> simp

/-- After a write has become readable its bytes are stored at its holder; or no byte has changed, its line being another world's by
now, an atomic having met an error, or a compare having failed. -/
def Applied (s : State) (w : WriteReq) (t : State) : Prop :=
  (∃ old bs fl, s.effect w = (old, some bs, fl) ∧ t.mem = s.mem.putN (memKey w.prim w.addr) bs) ∨
  (t.mem = s.mem ∧ (s.worldOk w.prim w.addr w.world = false ∨ s.badCopy w.prim w.addr = true ∨ (s.effect w).2.1 = none))

theorem makeReadable_applied (s : State) (w : WriteReq) : Applied s w (s.makeReadable w) := by
  have he := effect_of_mem (readOld_mem s w) w
  unfold State.makeReadable
  refine iteInduction (motive := Applied s w) (fun hw => ?_) fun _ => iteInduction (motive := Applied s w) (fun hb => ?_) fun _ => ?_
  · exact .inr ⟨failWrite_mem s _ _, .inl (by simpa using hw)⟩
  · exact .inr ⟨(failWrite_mem _ _ _).trans (poisonBad_mem s _), .inr (.inl (Bool.and_eq_true_iff.mp hb).2)⟩
  · unfold Applied
    dsimp only
    rw [he]
    rcases s.effect w with ⟨old, bs, fl⟩
    cases bs with
    | none => exact .inr ⟨readOld_mem s w, .inr (.inr rfl)⟩
    | some d =>
      refine .inl ⟨old, d, fl, rfl, ?_⟩
      dsimp only
      rw [modWrite_mem]
      split <;> simp [applyBytes_mem]

variable {n : Nat} {v : WriteReq} {t : State}

theorem writeReadable_cases (hv : s.write? n = some v) (h : exec (.writeReadable n) s = .next t) :
    t = s ∨ t = s.makeReadable v := by
  have he : exec (.writeReadable n) s = execWriteReadable n s := rfl
  rw [he, execWriteReadable, hv] at h
  simp only [Host.Outcome.next.injEq] at h
  subst h
  split
  · exact .inl rfl
  · exact .inr rfl

theorem writeReadable_due (hv : s.write? n = some v) (hp : v.phase = .invalidating) (hi : v.invs = []) :
    exec (.writeReadable n) s = .next (s.makeReadable v) := by
  have he : exec (.writeReadable n) s = execWriteReadable n s := rfl
  rw [he, execWriteReadable, hv]
  simp [hp, hi]

theorem writeReadable_outside {x : Nat} (hv : s.write? n = some v) (h : exec (.writeReadable n) s = .next t)
    (hx : ∀ old bs fl, s.effect v = (old, some bs, fl) → x < memKey v.prim v.addr ∨ memKey v.prim v.addr + bs.length ≤ x) :
    t.mem.get x = s.mem.get x := by
  rcases writeReadable_cases hv h with rfl | rfl
  · rfl
  · rcases makeReadable_applied s v with ⟨old, bs, fl, he, hm⟩ | ⟨hm, _⟩
    · rw [hm]
      exact get_putN_outside s.mem bs (hx old bs fl he)
    · rw [hm]

theorem writeReadable_inside {old x : Nat} {bs : List Byte} {fl : FpFlags} (hs : s.mem.wf = true) (hv : s.write? n = some v)
    (hp : v.phase = .invalidating) (hi : v.invs = []) (hw : s.worldOk v.prim v.addr v.world = true)
    (hb : s.badCopy v.prim v.addr = false) (he : s.effect v = (old, some bs, fl)) (h : exec (.writeReadable n) s = .next t)
    (hx : x < bs.length) : t.mem.get (memKey v.prim v.addr + x) = bs.getD x 0 := by
  rw [writeReadable_due hv hp hi, Host.Outcome.next.injEq] at h
  subst h
  rcases makeReadable_applied s v with ⟨old', bs', fl', he', hm⟩ | ⟨_, hn⟩
  · simp only [he, Prod.mk.injEq, Option.some.injEq] at he'
    obtain ⟨_, rfl, _⟩ := he'
    rw [hm]
    exact get_putN_inside hs hx
  · simp [hw, hb, he] at hn

end

/-! ## The statement -/

section
variable {c : Ctx} {s t : State}

/-- The state in which the access of a context issues is quiet, where its hypotheses hold. -/
theorem quiet_of_myCtx (hc : s.myCtx = some c) (h1 : c.fq1.toNat < 4096) (h2 : ((s.vregs.fq2[c.vdid]?).getD 0).toNat < 4096)
    (he : s.pkg.erq.toNat < 4096) (hf : ∀ x ∈ s.faults, x.id < s.nextId) (hn : s.echoes = [])
    (hw : ∀ x ∈ s.writes, x.phase ≠ .invalidating) : Quiet c s.mem s where
  mem := rfl
  queue1 := by
    have hi : c.num = s.cur.place.ctx := by simpa using List.find?_some hc
    rw [hi, show s.ctx? s.cur.place.ctx = some c from hc]
    exact h1
  queue2 := h2
  errors := he
  names := hf
  echoes := hn
  writes := hw

/-- An instruction whose meaning keeps memory in the quiet state in which it has issued keeps it. -/
theorem issue_keeps {i : Instr} {body : State → Act} (q : Quiet c s.mem s)
    (hb : ∀ u, u.myCtx = s.myCtx → Quiet c s.mem u → ActKeeps s.mem (body u)) (h : issue i s body = .next t) : t.mem = s.mem := by
  have hp : partsOf (s.issued i) = partsOf s := by
    rw [State.issued_outside]
    rfl
  rw [issue, Host.Outcome.next.injEq] at h
  rw [← h]
  exact issueState_mem q.errors (hb _ (State.issued_myCtx s i) (q.of_parts hp))

end

/-- Settles O60: an access keeps its state quiet up to the end of its meaning, and issue and traps keep memory; a write that becomes
readable is one `Memory.putN`. -/
theorem memoryFrames : Obligations.MemoryFrames := by
  unfold Obligations.MemoryFrames
  intro s n d p e g h f o z y r w q
  refine ⟨?accesses, fun v t x _ hv ht hx => writeReadable_outside hv ht hx,
    fun v t old bs fl x hs hv hp hi hw hb he ht hx => writeReadable_inside hs hv hp hi hw hb he ht hx⟩
  case accesses =>
    intro k hk hb h1 h2 he hf hn hw
    have hq := quiet_of_myCtx hk h1 h2 he hf hn hw
    have hc : ∀ {u : State}, u.myCtx = s.myCtx → u.myCtx = some k := fun hu => hu.trans hk
    simp only [List.forall_mem_cons, List.not_mem_nil, false_implies, implies_true, and_true]
    refine ⟨?sld, ?sst, ?vld, ?vst, ?vldg, ?vsts, ?cld, ?atomScalar, ?atomVector, ?stMc, ?spld, ?spst, ?red⟩
    case sld | vld | vldg | cld => exact fun t => issue_keeps hq fun u hu q => doLoad_keeps (hc hu) hb q _ _ _ _
    case sst | vst | vsts => exact fun t => issue_keeps hq fun u hu q => doStore_keeps (hc hu) hb q _ _ _ _ _
    case atomScalar => exact fun t => issue_keeps hq fun u hu q => doAtomS_keeps (hc hu) hb q _ _ _ _ _ _
    case atomVector => exact fun t => issue_keeps hq fun u hu q => doAtomV_keeps (hc hu) hb q _ _ _ _ _ _
    case stMc => exact fun t => issue_keeps hq fun u hu q => doStMc_keeps (hc hu) hb q _ _ _ _
    case spld => exact fun t => issue_keeps hq fun u _ q => doSpld_keeps _ _ _ _ q.mem
    case spst => exact fun t => issue_keeps hq fun u _ q => doSpst_keeps _ _ q.mem
    case red => exact fun t => issue_keeps hq fun u hu q => doRed_keeps (hc hu) hb q _ _ _

end Sys2Proof.Proofs.Accesses

/-!
# Routers, holders and relays

Most of what is claimed of a relay or of a route instruction is what one entry of a router or one record of a holder is afterwards,
with relays and packets sent in between. So the first lemmas say what sending leaves (`unsent`), what `setEntry` leaves of the
holders, and what a change of a holder's record leaves of the other records. A choice among entries, holders or records is one fold
(`foldl_pick`): the best by an order, whichever the order is.
-/

namespace Sys2Proof.Proofs.Routers

open Sys2Proof Sys2Proof.Machine Sys2Proof.Laws.Issue Sys2Proof.Proofs.Translation

/-! ## The best of a list -/

section
variable {α : Type}

/-- One step of a choice: a later element takes the place of one that it beats. -/
def pick (beats : α → α → Prop) [DecidableRel beats] (b : Option α) (e : α) : Option α :=
  match b with
  | none => some e
  | some x => if beats e x then some e else some x

variable {beats : α → α → Prop} [DecidableRel beats]

/-- The choice is an element that is as good as each other one, in every order that agrees with `beats`. -/
theorem foldl_pick {le : α → α → Prop} (hr : ∀ x, le x x) (ht : ∀ x y z, le x y → le y z → le x z)
    (hb : ∀ e x, beats e x → le e x) (hn : ∀ e x, ¬ beats e x → le x e) {l : List α} {b : Option α} {r : α}
    (h : l.foldl (pick beats) b = some r) :
    (r ∈ l ∨ b = some r) ∧ (∀ x, b = some x → le r x) ∧ ∀ x ∈ l, le r x := by
  induction l generalizing b with
  | nil =>
    simp only [List.foldl_nil] at h
    subst h
    exact ⟨.inr rfl, fun x hx => Option.some.inj hx ▸ hr r, by simp⟩
  | cons e l ih =>
    rw [List.foldl_cons] at h
    obtain ⟨hm, hf, hl⟩ := ih h
    have first : (r = e ∨ b = some r ∨ r ∈ l) ∧ le r e ∧ ∀ x, b = some x → le r x := by
      cases b with
      | none =>
        have he := hf e rfl
        rcases hm with hm | hm
        · exact ⟨.inr (.inr hm), he, by simp⟩
        · exact ⟨.inl (Option.some.inj hm).symm, he, by simp⟩
      | some y =>
        by_cases hy : beats e y
        · have hp : pick beats (some y) e = some e := if_pos hy
          rw [hp] at hm hf
          refine ⟨?_, hf e rfl, fun x hx => ht _ _ _ (hf e rfl) (Option.some.inj hx ▸ hb e y hy)⟩
          rcases hm with hm | hm
          · exact .inr (.inr hm)
          · exact .inl (Option.some.inj hm).symm
        · have hp : pick beats (some y) e = some y := if_neg hy
          rw [hp] at hm hf
          refine ⟨?_, ht _ _ _ (hf y rfl) (hn e y hy), hf⟩
          rcases hm with hm | hm
          · exact .inr (.inr hm)
          · exact .inr (.inl hm)
    obtain ⟨hw, he, hx⟩ := first
    refine ⟨?_, hx, fun x hx => ?_⟩
    · rcases hw with hw | hw | hw
      · exact .inl (List.mem_cons.mpr (.inl hw))
      · exact .inr hw
      · exact .inl (List.mem_cons_of_mem e hw)
    · rcases List.mem_cons.mp hx with rfl | hx
      · exact he
      · exact hl x hx

/-- A change that `beats` does not see changes the choice alone. -/
theorem foldl_pick_map {f : α → α} (hf : ∀ e x, beats (f e) (f x) ↔ beats e x) (l : List α) (b : Option α) :
    (l.map f).foldl (pick beats) (b.map f) = (l.foldl (pick beats) b).map f := by
  induction l generalizing b with
  | nil => rfl
  | cons e l ih =>
    rw [List.map_cons, List.foldl_cons, List.foldl_cons, ← ih]
    congr 1
    cases b with
    | none => rfl
    | some x =>
      simp only [pick, Option.map_some, hf]
      split <;> rfl

end

/-- The choice is one of the list. -/
theorem mem_of_foldl_pick {α : Type} {beats : α → α → Prop} [DecidableRel beats] {l : List α} {r : α}
    (h : l.foldl (pick beats) none = some r) : r ∈ l :=
  (foldl_pick (le := fun _ _ => True) (fun _ => trivial) (fun _ _ _ _ _ => trivial) (fun _ _ _ => trivial) (fun _ _ _ => trivial)
    h).1.resolve_right nofun

/-- What is found by a test that a change of the elements with that test keeps is the changed element. -/
theorem find?_map_where {α : Type} {p : α → Bool} {f : α → α} (hf : ∀ x, p x = true → p (f x) = true) (l : List α) :
    (l.map (fun x => if p x then f x else x)).find? p = (l.find? p).map f := by
  rw [List.find?_map]
  have hp : p ∘ (fun x => if p x then f x else x) = p := by
    funext x
    dsimp only [Function.comp_apply]
    split
    · next h => rw [hf x h, h]
    · rfl
  rw [hp]
  cases hr : l.find? p with
  | none => rfl
  | some y => exact congrArg some (if_pos (List.find?_some hr))

/-- The greatest of some numbers and a first one. -/
theorem foldl_max_spec {α : Type} (f : α → Nat) (l : List α) (a : Nat) :
    a ≤ l.foldl (fun m x => max m (f x)) a ∧ (∀ x ∈ l, f x ≤ l.foldl (fun m x => max m (f x)) a) ∧
      (l.foldl (fun m x => max m (f x)) a = a ∨ ∃ x ∈ l, l.foldl (fun m x => max m (f x)) a = f x) := by
  induction l generalizing a with
  | nil => simp
  | cons y l ih =>
    obtain ⟨h1, h2, h3⟩ := ih (max a (f y))
    simp only [List.foldl_cons, List.mem_cons, forall_eq_or_imp, exists_eq_or_imp]
    refine ⟨(Nat.le_max_left _ _).trans h1, ⟨(Nat.le_max_right _ _).trans h1, h2⟩, ?_⟩
    rcases h3 with h3 | h3
    · rw [h3]
      rcases Nat.le_total (f y) a with h | h
      · exact .inl (Nat.max_eq_left h)
      · exact .inr (.inl (Nat.max_eq_right h))
    · exact .inr (.inr h3)

/-! ## What sending leaves -/

/-- A state without what is on its way: relays and packets, and the numbers that name them. -/
def unsent (s : State) : State := { s with relays := [], links := [], txq := [], freeCount := 0, nextId := 0 }

section
variable (s : State)

theorem drainTx_unsent (port chan n : Nat) : unsent (s.drainTx port chan n) = unsent s := by
  induction n generalizing s with
  | zero => rfl
  | succ n ih =>
    rw [State.drainTx]
    split
    · rfl
    · split
      · rfl
      · rw [ih]
        rfl

theorem sendPacket_unsent (port chan : Nat) : unsent (s.sendPacket port chan) = unsent s := by
  unfold State.sendPacket
  split
  · rfl
  · exact (drainTx_unsent _ port chan _).trans rfl

theorem sendTo_unsent (router fa holder chan : Nat) : unsent (s.sendTo router fa holder chan) = unsent s := by
  unfold State.sendTo
  split
  · rfl
  · split
    · rfl
    · exact sendPacket_unsent s _ chan

theorem passRelay_unsent (router : Nat) (m : RelayMsg) (n : Nat) : unsent (s.passRelay router m n) = unsent s := by
  refine foldl_keeps (fun s j => ?_) _ s
  dsimp only
  split
  · rfl
  · split
    · exact (sendPacket_unsent _ _ _).trans rfl
    · rfl

theorem sendRelay_unsent (router : Nat) (m : RelayMsg) : unsent (s.sendRelay router m) = unsent s :=
  (passRelay_unsent _ router m s.nextId).trans rfl

@[simp] theorem sendRelay_holders (router : Nat) (m : RelayMsg) : (s.sendRelay router m).holders = s.holders :=
  (congrArg State.holders (sendRelay_unsent s router m) :)

@[simp] theorem sendRelay_routes (router : Nat) (m : RelayMsg) : (s.sendRelay router m).routes = s.routes :=
  (congrArg State.routes (sendRelay_unsent s router m) :)

/-! ## Entries of routers (10 R160) -/

theorem trackReplicas_outside (router : Nat) (p : Prefix) :
    s.trackReplicas router p = { s with renewed := (s.trackReplicas router p).renewed } := by
  unfold State.trackReplicas
  split <;> rfl

@[simp] theorem setEntry_holders (e : RtEntry) : (s.setEntry e).holders = s.holders := by
  rw [State.setEntry, trackReplicas_outside]
  split <;> rfl

theorem setEntry_routes {e : RtEntry} (h : e.holders ≠ []) : (s.setEntry e).routes =
    { e with changed := s.pace } :: s.routes.filter (fun x => !(x.router == e.router && x.pre == e.pre)) := by
  rw [State.setEntry, trackReplicas_outside, if_neg (by simpa using h)]

theorem exactEntry_setEntry_same {e : RtEntry} (h : e.holders ≠ []) :
    (s.setEntry e).exactEntry e.router e.pre = some { e with changed := s.pace } := by
  simp [State.exactEntry, setEntry_routes s h]

theorem exactEntry_setEntry_other {e : RtEntry} (h : e.holders ≠ []) {r : Nat} {p : Prefix} (hn : r ≠ e.router ∨ p ≠ e.pre) :
    (s.setEntry e).exactEntry r p = s.exactEntry r p := by
  have hd : ¬ ((e.router == r && e.pre == p) = true) := by
    rcases hn with hn | hn <;> simp [hn.symm]
  rw [State.exactEntry, setEntry_routes s h, List.find?_cons_of_neg (by exact hd), List.find?_filter, State.exactEntry]
  refine congrArg (fun q => s.routes.find? q) (funext fun x => ?_)
  by_cases hx : (x.router == r && x.pre == p) = true
  · obtain ⟨rfl, rfl⟩ : x.router = r ∧ x.pre = p := by simpa using hx
    rcases hn with hn | hn <;> simp [hn]
  · simp [hx]

@[simp] theorem exactEntry_sendRelay (router : Nat) (m : RelayMsg) (r : Nat) (p : Prefix) :
    (s.sendRelay router m).exactEntry r p = s.exactEntry r p := by
  rw [State.exactEntry, sendRelay_routes, State.exactEntry]

end

/-! ## The choice of an entry and of a holder (10 R162) -/

section
variable {s : State} {r x : Nat} {g : List Nat}

theorem routeEntry_eq (s : State) (r x : Nat) : s.routeEntry r x =
    (s.routes.filter (fun e => e.router == r && prefixCovers e.pre x)).foldl (pick (fun e y => y.pre.len < e.pre.len)) none := by
  unfold State.routeEntry
  congr 1
  funext b e
  cases b <;> rfl

theorem cheapest_eq (hs : List RtHolder) : cheapest hs =
    hs.foldl (pick (fun h y => h.cost < y.cost ∨ (h.cost = y.cost ∧ h.holder < y.holder))) none := by
  unfold cheapest
  congr 1
  funext b e
  cases b <;> rfl

/-- An entry among those that match the most bits of the address. -/
theorem routeEntry_spec {e : RtEntry} (h : s.routeEntry r x = some e) : e ∈ s.routes ∧ e.router = r ∧ prefixCovers e.pre x = true ∧
    ∀ q ∈ s.routes, q.router = r → prefixCovers q.pre x = true → q.pre.len ≤ e.pre.len := by
  rw [routeEntry_eq] at h
  obtain ⟨hm, -, hl⟩ := foldl_pick (le := fun e y : RtEntry => y.pre.len ≤ e.pre.len) (fun _ => le_rfl) (fun _ _ _ h h' => h'.trans h)
    (fun _ _ h => h.le) (fun _ _ h => not_lt.mp h) h
  have hm := hm.resolve_right nofun
  simp only [List.mem_filter, Bool.and_eq_true, beq_iff_eq] at hm hl
  obtain ⟨hm, hr, hc⟩ := hm
  exact ⟨hm, hr, hc, fun q hq hqr hqc => hl q ⟨hq, hqr, hqc⟩⟩

theorem cheapest_spec {hs : List RtHolder} {h : RtHolder} (hc : cheapest hs = some h) : h ∈ hs ∧ ∀ y ∈ hs, h.cost ≤ y.cost := by
  rw [cheapest_eq] at hc
  obtain ⟨hm, -, hl⟩ := foldl_pick (le := fun h y : RtHolder => h.cost ≤ y.cost) (fun _ => le_rfl) (fun _ _ _ h h' => h.trans h')
    (fun _ _ h => by omega) (fun _ _ h => by omega) hc
  exact ⟨hm.resolve_right nofun, hl⟩

theorem routeRead_spec {h : RtHolder} (hr : s.routeRead r x g = some h) : h.holder ∉ g ∧ h.role ≠ .filling ∧ ∃ e ∈ s.routes,
    e.router = r ∧ h ∈ e.holders ∧ prefixCovers e.pre x = true ∧ (∀ y ∈ e.holders, y.role ≠ .filling → y.holder ∉ g → h.cost ≤ y.cost) ∧
    ∀ q ∈ s.routes, q.router = r → prefixCovers q.pre x = true → q.pre.len ≤ e.pre.len := by
  rw [State.routeRead] at hr
  cases he : s.routeEntry r x with
  | none => simp [he] at hr
  | some e =>
    simp only [he] at hr
    obtain ⟨hm, hl⟩ := cheapest_spec hr
    obtain ⟨hmem, hrt, hcov, hlen⟩ := routeEntry_spec he
    simp only [List.mem_filter, Bool.and_eq_true, bne_iff_ne, Bool.not_eq_true', List.contains_eq_mem, decide_eq_false_iff_not] at hm hl
    obtain ⟨hh, hf, hg⟩ := hm
    exact ⟨hg, hf, e, hmem, hrt, hh, hcov, fun y hy hyf hyg => hl y ⟨hy, hyf, hyg⟩, hlen⟩

theorem routeWrite_spec {h : RtHolder} (hr : s.routeWrite r x g = some h) : h.role = .primary ∧ h.holder ∉ g := by
  rw [State.routeWrite] at hr
  cases he : s.routeEntry r x with
  | none => simp [he] at hr
  | some e =>
    simp only [he] at hr
    simpa using List.find?_some hr

end

/-! ## Records of holders (10 R172) -/

section
variable {s : State} {p : Prefix} {h : Nat} {x : HolderSt}

/-- The record of a holder whose record alone has changed. -/
theorem record_modHolder (s : State) (p : Prefix) (h : Nat) (f : HolderSt → HolderSt)
    (hf : ∀ x, (f x).pre = x.pre ∧ (f x).holder = x.holder) : (s.modHolder p h f).record p h = (s.record p h).map f := by
  refine find?_map_where (p := fun y : HolderSt => y.pre == p && y.holder == h) (fun y hy => ?_) s.holders
  rwa [(hf y).1, (hf y).2]

/-- A record that has been drained. -/
def drained (now : Nat) (x : HolderSt) : HolderSt := { x with st := .draining, leaseEnd := 0, settle := now }

theorem drainHolder_eq (s : State) (p : Prefix) (h : Nat) : s.drainHolder p h = s.modHolder p h (drained s.pace) := rfl

/-- A holder that is drained has a record, which says so and has no lease. -/
theorem record_drainHolder (hx : s.record p h = some x) : ∃ y, (s.drainHolder p h).record p h = some y ∧ y.st = .draining ∧
    y.leaseEnd = 0 := by
  rw [drainHolder_eq, record_modHolder s p h (drained s.pace) fun _ => ⟨rfl, rfl⟩, hx]
  exact ⟨drained s.pace x, rfl, rfl, rfl⟩

theorem record_of_holders {t : State} (he : t.holders = s.holders) (p : Prefix) (h : Nat) : t.record p h = s.record p h := by
  rw [State.record, he, State.record]

@[simp] theorem withdraw_holders (s : State) (p : Prefix) (h : Nat) : (s.withdraw p h).holders = (s.drainHolder p h).holders := by
  rw [State.withdraw, sendRelay_holders]
  split
  · rw [setEntry_holders]
  · rfl

theorem record_withdraw (hx : s.record p h = some x) : ∃ y, (s.withdraw p h).record p h = some y ∧ y.st = .draining ∧
    y.leaseEnd = 0 := by
  rw [record_of_holders (withdraw_holders s p h)]
  exact record_drainHolder hx

end

/-! ## Route instructions (10 R174-R176) -/

section
variable {s : State} {d a b : BitVec 6} {m : BitVec 2} {k : BitVec 4} {n : Nat} {i : Fin 4} {g : Group} {r x y op : Nat}

theorem doRte_holds {j : Instr} (he : exec j s = issue j s (doRte op d.toNat a.toNat b.toNat)) :
    Holds j s id (.answer .rte d.toNat (s.sreg a.toNat).toNat (op * 2 ^ 64 + (s.sreg b.toNat).toNat)) :=
  holds_at he (by simp [doRte])

theorem rteSync_holds : Holds (.rteSync k d) s id (.answer .sync d.toNat s.nextId k.toNat) :=
  holds_at (i := .rteSync k d) (body := fun t => .hold t (.answer .sync d.toNat t.nextId k.toNat)) rfl (by simp)

theorem routerAnswer_answers (hg : s.group? n = some g) (hw : (g.ctl.split i).wait = .answer .rte r x y) :
    exec (.routerAnswer n i) s = .next ((s.rteDo (y / 2 ^ 64) x (y % 2 ^ 64)).2.answer n i r
      (BitVec.ofNat 64 (s.rteDo (y / 2 ^ 64) x (y % 2 ^ 64)).1)) := by
  have he : exec (.routerAnswer n i) s = execRouterAnswer n i s := rfl
  simp only [he, execRouterAnswer, hg, Option.map_some, hw]

/-- An earlier relay of the package that the `rte.sync` of a scope waits for. -/
def syncWaits (s : State) (before scope : Nat) (f : RelayFlight) : Bool :=
  decide (f.id < before) && (decide (scope ≠ 3) || decide (f.dst < 2 ^ 24)) && (match f.msg.path.head? with
    | some o => decide (o / 256 = s.pkgNum) && decide (o % 256 < 32)
    | none => false)

theorem rteSyncDone_eq (hg : s.group? n = some g) (hw : (g.ctl.split i).wait = .answer .sync r x y) :
    exec (.rteSyncDone n i) s = .next (if s.relays.any (syncWaits s x y) then s
      else s.answer n i r (if s.refused.any (fun q => decide (q.2.2 < x)) then 9 else 0)) := by
  have he : exec (.rteSyncDone n i) s = execRteSyncDone n i s := rfl
  simp only [he, execRteSyncDone, hg, Option.map_some, hw]
  rfl

theorem rteSyncDone_arrived (hg : s.group? n = some g) (hw : (g.ctl.split i).wait = .answer .sync r x y)
    (hr : ∀ f ∈ s.relays, f.id < x → y = 3 ∧ 2 ^ 24 ≤ f.dst) : exec (.rteSyncDone n i) s =
      .next (s.answer n i r (if s.refused.any (fun q => decide (q.2.2 < x)) then 9 else 0)) := by
  rw [rteSyncDone_eq hg hw, if_neg]
  simp only [List.any_eq_true, syncWaits, Bool.and_eq_true, Bool.or_eq_true, decide_eq_true_eq]
  rintro ⟨f, hf, ⟨hlt, hs⟩, -⟩
  have := hr f hf hlt
  omega

theorem rteSyncDone_waits (hg : s.group? n = some g) (hw : (g.ctl.split i).wait = .answer .sync r x y)
    (hr : ∃ f ∈ s.relays, f.id < x ∧ (y = 3 → f.dst < 2 ^ 24) ∧ ∃ o, f.msg.path.head? = some o ∧ o / 256 = s.pkgNum ∧ o % 256 < 32) :
    exec (.rteSyncDone n i) s = .next s := by
  obtain ⟨f, hf, hlt, hd, o, ho, hp, hl⟩ := hr
  rw [rteSyncDone_eq hg hw, if_pos]
  refine List.any_eq_true.mpr ⟨f, hf, ?_⟩
  simpa [syncWaits, hlt, ho, hp, hl] using not_or_of_imp hd

theorem rteCommon_status {role : Bool} {c : Nat} (h : s.rteCommon role x y = some c) : c = 1 ∨ c = 2 := by
  unfold State.rteCommon at h
  dsimp only at h
  split at h
  · exact .inl (Option.some.inj h).symm
  · split at h
    · exact .inr (Option.some.inj h).symm
    · cases h

theorem rteDo_badField (hc : s.rteCommon true x y ≠ none) (ho : op = 2 ∨ op = 4) :
    (s.rteDo op x y).2 = s ∧ ((s.rteDo op x y).1 = 1 ∨ (s.rteDo op x y).1 = 2) := by
  obtain ⟨c, hc⟩ := Option.ne_none_iff_exists'.mp hc
  have hs := rteCommon_status hc
  rcases ho with rfl | rfl
  · simpa [State.rteDo, State.rteAnn, hc] using hs
  · simpa [State.rteDo, State.rteRole, hc] using hs

theorem rteDo_announceReplica (hc : s.rteCommon true x y = none) (hl : 5 ≤ bitsOf y 23 16) (hr : bitsOf y 15 14 = 2) :
    s.rteDo 2 x y = (6, s) := by
  simp only [State.rteDo, State.rteAnn, hc, rdesc, hr, Nat.not_lt.mpr hl, if_false, if_true]

/-- The record that an announcement as PRIMARY leaves. -/
def primaryRecord (x y : Nat) : HolderSt :=
  ⟨⟨x, bitsOf y 5 0⟩, bitsOf y 47 24, .primary, bitsOf y 23 16, BitVec.ofNat 8 (bitsOf y 13 6), [], 0, 0, none, 0, [], []⟩

/-- Its place in the entry of its router. -/
def primaryEntry (y : Nat) : RtHolder :=
  ⟨bitsOf y 47 24, .primary, bitsOf y 23 16, BitVec.ofNat 8 (bitsOf y 13 6), 0, [bitsOf y 47 24]⟩

theorem rteDo_announcePrimary (hc : s.rteCommon true x y = none) (hl : 5 ≤ bitsOf y 23 16) (hr : bitsOf y 15 14 = 0)
    (hn : s.record ⟨x, bitsOf y 5 0⟩ (bitsOf y 47 24) = none) (he : s.exactEntry (bitsOf y 47 24) ⟨x, bitsOf y 5 0⟩ = none)
    (hf : s.entryFree (bitsOf y 47 24) = true) : s.rteDo 2 x y =
      (0, State.announce { s with holders := s.holders ++ [primaryRecord x y] } ⟨x, bitsOf y 5 0⟩ (primaryEntry y)) := by
  simp only [State.rteDo, State.rteAnn, hc, rdesc, hr, hn, he, hf]
  rw [if_neg (Nat.not_lt.mpr hl)]
  rfl

theorem announce_holders (s : State) (p : Prefix) (h : RtHolder) : (s.announce p h).holders = s.holders := by
  rw [State.announce, sendRelay_holders, setEntry_holders]

/-- The first holder that a router announces for an address range gets an entry of its own. -/
theorem exactEntry_announce {p : Prefix} {h : RtHolder} (hn : s.exactEntry h.holder p = none) :
    (s.announce p h).exactEntry h.holder p = some ⟨h.holder, p, [h], s.pace⟩ := by
  simp only [State.announce, exactEntry_sendRelay, hn]
  exact exactEntry_setEntry_same s (e := ⟨h.holder, p, [h], 0⟩) (by simp)

theorem rteDo_primaryKnown (hc : s.rteCommon true x y = none) (hl : 5 ≤ bitsOf y 23 16) (hr : bitsOf y 15 14 = 0)
    (hn : s.record ⟨x, bitsOf y 5 0⟩ (bitsOf y 47 24) = none) (he : s.exactEntry (bitsOf y 47 24) ⟨x, bitsOf y 5 0⟩ = none)
    (hf : s.entryFree (bitsOf y 47 24) = true) :
    ∃ t h, s.rteDo 2 x y = (0, t) ∧ t.holders = s.holders ++ [h] ∧ h.pre = ⟨x, bitsOf y 5 0⟩ ∧ h.holder = bitsOf y 47 24 ∧
      h.st = .primary ∧ h.lease = bitsOf y 23 16 ∧ ∃ e, t.exactEntry (bitsOf y 47 24) ⟨x, bitsOf y 5 0⟩ = some e ∧ e.changed = s.pace ∧
        e.holders = [⟨bitsOf y 47 24, .primary, bitsOf y 23 16, BitVec.ofNat 8 (bitsOf y 13 6), 0, [bitsOf y 47 24]⟩] :=
  ⟨_, primaryRecord x y, rteDo_announcePrimary hc hl hr hn he hf, announce_holders _ _ _, rfl, rfl, rfl, rfl, _,
    exactEntry_announce (s := { s with holders := s.holders ++ [primaryRecord x y] }) (h := primaryEntry y) he, rfl, rfl⟩

theorem rteDo_withdrawNone (hc : s.rteCommon false x y = none) (hn : s.record ⟨x, bitsOf y 5 0⟩ (bitsOf y 47 24) = none) :
    s.rteDo 3 x y = (5, s) := by
  simp only [State.rteDo, State.rteWd, hc, rdesc, hn]

theorem rteDo_withdraw {h : HolderSt} (hc : s.rteCommon false x y = none) (hn : s.record ⟨x, bitsOf y 5 0⟩ (bitsOf y 47 24) = some h)
    (hd : h.st ≠ .draining) : s.rteDo 3 x y = (0, s.withdraw ⟨x, bitsOf y 5 0⟩ (bitsOf y 47 24)) := by
  simp only [State.rteDo, State.rteWd, hc, rdesc, hn, if_neg hd]

/-! ### `rte.q` -/

theorem rteQuery_issued (s : State) (j : Instr) (q v : Nat) : (s.issued j).rteQuery q v = s.rteQuery q v := by
  unfold State.rteQuery
  rw [State.issued_place, State.issued_outside]
  rfl

theorem rteQ_does {v : Nat} (h : s.rteQuery m.toNat (s.sreg a.toNat).toNat = v) :
    Does (.rteQ d a m) s (fun t => t.setSreg d.toNat (BitVec.ofNat 64 v)) :=
  does_at (i := .rteQ d a m)
    (body := fun s => .ok (s.setSreg d.toNat (BitVec.ofNat 64 (s.rteQuery m.toNat (s.sreg a.toNat).toNat)))) rfl
    (by rw [State.issued_sreg, rteQuery_issued, h])

theorem rteQuery_none {q v : Nat} (h : s.routeEntry (s.dieRouter s.cur.place.core) v = none) : s.rteQuery q v = 0 := by
  simp only [State.rteQuery, h]

theorem rteQuery_count {v : Nat} {e : RtEntry} (h : s.routeEntry (s.dieRouter s.cur.place.core) v = some e) :
    s.rteQuery 2 v = e.holders.length + e.pre.len * 2 ^ 16 := by
  simp only [State.rteQuery, h, if_true]

theorem rteQuery_primary {v : Nat} {e : RtEntry} {h : RtHolder} (he : s.routeEntry (s.dieRouter s.cur.place.core) v = some e)
    (hw : s.routeWrite (s.dieRouter s.cur.place.core) v [] = some h) (hr : h.role = .primary) :
    s.rteQuery 1 v = h.holder * 2 ^ 40 + h.cost % 65536 * 2 ^ 24 + e.pre.len * 2 ^ 16 + h.cap.toNat * 256 +
      (if e.changed + 32000 ≤ s.pace then 2 else 0) + 1 := by
  unfold State.rteQuery
  dsimp only
  rw [he]
  dsimp only
  rw [if_neg (by decide), if_neg (by decide), hw]
  dsimp only
  rw [hr]
  rw [Nat.zero_mul, Nat.add_zero (_ * 2 ^ 40 + _)]

end

/-- Settles O38: the three operations and `rte.sync` hold by what issues them, and each answer is one case of the origin router's checks
(10 R174-R176). -/
theorem routeInstructions : Obligations.RouteInstructions := by
  unfold Obligations.RouteInstructions
  refine fun s d a b m k n => ⟨doRte_holds rfl, doRte_holds rfl, doRte_holds rfl, rteSync_holds, fun _ _ _ _ _ => routerAnswer_answers,
    fun _ _ _ _ _ => rteSyncDone_arrived, fun _ _ _ _ _ => rteSyncDone_waits, fun _ _ _ => rteDo_badField,
    fun _ _ => rteDo_announceReplica, fun _ _ => rteDo_primaryKnown, fun _ _ => rteDo_withdrawNone, ?withdrawn,
    fun h => rteQ_does (rteQuery_none h), fun _ h => rteQ_does (rteQuery_count h),
    fun _ _ he hw hr => rteQ_does (rteQuery_primary he hw hr)⟩
  case withdrawn =>
    intro x y h hc hn hd
    rw [rteDo_withdraw hc hn hd]
    exact ⟨rfl, record_withdraw hn⟩

/-! ## Relays at a router (10 R160) -/

section
variable {s : State} {n : Nat} {m : RelayMsg} {f : RelayFlight} {e : RtEntry}

/-- The relay that a link has carried first to the router. -/
abbrev Arrives (s : State) (n : Nat) (m : RelayMsg) (f : RelayFlight) : Prop :=
  s.relays.find? (fun f => f.dst == n && f.msg.via == m.via) = some f

theorem relayReceive_flight (hf : Arrives s n m f) (hm : f.msg = m) : exec (.relayReceive n m) s = .next
    (if 2 ^ 24 ≤ n ∨ m.path.contains n = true ∨ 16 ≤ m.path.length ∨ s.tooFar n m = true then { s with relays := s.relays.erase f }
      else State.takeRelay { s with relays := s.relays.erase f } n m f.id) := by
  have he : exec (.relayReceive n m) s = execRelayReceive n m s := rfl
  rw [he, execRelayReceive, hf]
  dsimp only
  rw [if_neg (not_not.mpr hm)]
  rfl

theorem relayReceive_dropped (hf : Arrives s n m f) (hm : f.msg = m)
    (hd : 2 ^ 24 ≤ n ∨ m.path.contains n = true ∨ 16 ≤ m.path.length ∨ s.tooFar n m = true) :
    exec (.relayReceive n m) s = .next { s with relays := s.relays.erase f } := by
  rw [relayReceive_flight hf hm, if_pos hd]

theorem relayReceive_later (hf : Arrives s n m f) (hm : f.msg ≠ m) : exec (.relayReceive n m) s = .next s := by
  have he : exec (.relayReceive n m) s = execRelayReceive n m s := rfl
  rw [he, execRelayReceive, hf]
  dsimp only
  rw [if_pos hm]

theorem relayReceive_outside (hf : s.relays.find? (fun f => f.dst == n && f.msg.via == m.via) = none) (hp : m.path.contains n = false)
    (hl : m.path.length < 16) (ht : s.tooFar n m = false) :
    exec (.relayReceive n m) s = .next ({ s with nextId := s.nextId + 1 }.takeRelay n m s.nextId) := by
  have he : exec (.relayReceive n m) s = execRelayReceive n m s := rfl
  rw [he, execRelayReceive, hf]
  refine congrArg Host.Outcome.next (if_neg ?_)
  change ¬ (m.path.contains n = true ∨ 16 ≤ m.path.length ∨ s.tooFar n m = true)
  simp only [hp, ht, Bool.false_eq_true, false_or, or_false]
  omega

theorem relayReceive_taken (hf : Arrives s n m f) (hm : f.msg = m) (hn : n < 2 ^ 24) (hp : m.path.contains n = false)
    (hl : m.path.length < 16) (ht : s.tooFar n m = false) :
    exec (.relayReceive n m) s = .next (State.takeRelay { s with relays := s.relays.erase f } n m f.id) := by
  rw [relayReceive_flight hf hm, if_neg]
  simp only [hp, ht, Bool.false_eq_true, false_or, or_false]
  omega

/-! ### What a router makes of a relay -/

theorem judgeRelay_new (hw : m.wd = false) (hr : roleOnly m = false) (he : s.exactEntry n m.pre = none) (hf : s.entryFree n = true) :
    s.judgeRelay n m = .install ⟨n, m.pre, [⟨m.holder, m.role, m.lease, m.cap, m.cost, m.path⟩], 0⟩ none := by
  simp [State.judgeRelay, he, hw, hr, hf]

theorem judgeRelay_full (hw : m.wd = false) (hr : roleOnly m = false) (he : s.exactEntry n m.pre = some e) (hp : m.role ≠ .primary)
    (hl : 4 ≤ e.holders.length + s.drainPlaces n m.pre) (hh : ∀ h ∈ e.holders, h.holder ≠ m.holder) :
    s.judgeRelay n m = .refuse m.holder false := by
  have rival : e.holders.find? (fun h => h.role == Role.primary && h.holder != m.holder && m.role == Role.primary) = none := by
    simp [List.find?_eq_none, hp]
  have known : e.holders.find? (fun h => h.holder == m.holder) = none := by
    simpa [List.find?_eq_none] using hh
  simp [State.judgeRelay, he, hw, hr, rival, known, Nat.not_lt.mpr hl]

theorem judgeRelay_withdrawal (hw : m.wd = true) (he : s.exactEntry n m.pre = some e) (hh : ∃ h ∈ e.holders, h.holder = m.holder) :
    s.judgeRelay n m = .install { e with holders := e.holders.filter (fun h => h.holder != m.holder) } none := by
  have hk : e.holders.any (fun h => h.holder == m.holder) = true := by simpa using hh
  simp [State.judgeRelay, he, hw, hk]

theorem takeRelay_install {id : Nat} (hw : m.wd = false) (hj : s.judgeRelay n m = .install e none) :
    s.takeRelay n m id = ((s.setEntry e).passRelay n m id).learnFar m := by
  simp [State.takeRelay, hj, hw]

theorem takeRelay_refuse {id h : Nat} {second : Bool} (hj : s.judgeRelay n m = .refuse h second) :
    s.takeRelay n m id = s.relayRefused m.pre h id second := by
  simp [State.takeRelay, hj]

/-- A withdrawal teaches nothing of another package's holder but that it is gone. -/
theorem takeRelay_withdrawal {id : Nat} (hw : m.wd = true) (hj : s.judgeRelay n m = .install e none) :
    s.takeRelay n m id = ((((s.setEntry e).passRelay n m id).cutOff n m.holder m.pre).dropMember n m.pre m.holder).withdrawnHere n
      m.pre m.holder := by
  simp [State.takeRelay, hj, hw, State.learnFar]

end

/-! ## Withdrawals and refusals (10 R160, R172) -/

section
variable {s : State} {p : Prefix} {h k : Nat} {x : HolderSt} {b : Bool}

/-- A record whose withdrawal has changed a router. -/
def settled (now : Nat) (x : HolderSt) : HolderSt := { x with settle := now }

/-- At its own router a withdrawal drains a holder that serves, and its refusals go. -/
theorem withdrawnHere_serving (hx : x ∈ s.holders) (hp : x.pre = p) (hh : x.holder = h) (hd : x.st ≠ .draining) :
    s.withdrawnHere h p h = State.drainHolder { s.modHolder p h (settled s.pace) with
      refused := s.refused.filter (fun q => !(q.1 == p && q.2.1 == h)) } p h := by
  unfold State.withdrawnHere
  refine if_pos ⟨.inl rfl, List.any_eq_true.mpr ⟨settled s.pace x, ?_, ?_⟩⟩
  · exact List.mem_map.mpr ⟨x, hx, if_pos (by simp [hp, hh])⟩
  · simpa [settled, hp, hh] using hd

theorem record_spec (hx : s.record p h = some x) : x ∈ s.holders ∧ x.pre = p ∧ x.holder = h :=
  ⟨List.mem_of_find?_eq_some hx, by simpa using List.find?_some hx⟩

theorem record_withdrawnHere (hx : s.record p h = some x) (hd : x.st ≠ .draining) :
    ∃ y, (s.withdrawnHere h p h).record p h = some y ∧ y.st = .draining ∧ y.leaseEnd = 0 := by
  obtain ⟨hm, hp, hh⟩ := record_spec hx
  rw [withdrawnHere_serving hm hp hh hd]
  refine record_drainHolder (x := settled s.pace x) ?_
  exact (record_modHolder s p h (settled s.pace) fun _ => ⟨rfl, rfl⟩).trans (congrArg _ hx)

/-- Where a refusal of a holder is still recorded after its withdrawal, it was draining already. -/
theorem draining_of_refused (hr : (s.withdrawnHere h p h).refused.any (fun q => q.1 == p && q.2.1 == h) = true) (hx : x ∈ s.holders)
    (hp : x.pre = p) (hh : x.holder = h) : x.st = .draining := by
  by_contra hd
  rw [withdrawnHere_serving hx hp hh hd] at hr
  obtain ⟨q, hq, hm⟩ := List.any_eq_true.mp hr
  have := (List.mem_filter.mp hq).2
  simp [hm] at this

theorem relayRefusal_eq (s : State) (p : Prefix) (h k : Nat) (b : Bool) :
    exec (.relayRefusal p h ⟨k, b⟩) s = .next (s.relayRefused p h k b) := rfl

theorem relayRefusal_elsewhere (ho : h / 256 ≠ s.pkgNum ∨ s.record p h = none) : exec (.relayRefusal p h ⟨k, b⟩) s = .next s := by
  rw [relayRefusal_eq, State.relayRefused]
  split
  · rfl
  · next hl =>
    rw [State.record] at ho
    rw [ho.resolve_left hl]

theorem relayRefusal_recorded (hl : h / 256 = s.pkgNum) (hx : s.record p h = some x) (hd : x.st ≠ .draining)
    (hn : s.refused.contains (p, h, k) = false) :
    exec (.relayRefusal p h ⟨k, false⟩) s = .next { s with refused := s.refused ++ [(p, h, k)] } := by
  rw [State.record] at hx
  rw [relayRefusal_eq, State.relayRefused, if_neg (not_not.mpr hl), hx]
  dsimp only
  rw [if_neg (by simp), if_neg (by rw [hn]; simp [hd])]

/-- A PRIMARY that is refused as a second one is withdrawn. -/
theorem relayRefusal_second (hl : h / 256 = s.pkgNum) (hx : s.record p h = some x) (hp : x.st = .primary) :
    ∃ t y, exec (.relayRefusal p h ⟨k, true⟩) s = .next t ∧ t.record p h = some y ∧ y.st = .draining ∧ y.leaseEnd = 0 := by
  have hf := hx
  rw [State.record] at hf
  rw [relayRefusal_eq, State.relayRefused, if_neg (not_not.mpr hl), hf]
  dsimp only
  rw [if_pos ⟨rfl, hp⟩]
  obtain ⟨y, hy⟩ := record_withdraw (s := { s with writes := s.writes.map (fun (w : WriteReq) =>
    if w.prim == h && prefixCovers p w.addr && (w.phase == WPhase.invalidating || w.phase == WPhase.applied) then
      { w with phase := .answered, notice := true, err := some 13 }
    else w) }) hx
  exact ⟨_, y, rfl, hy⟩

/-! ## DRAINING to ABSENT (10 R161, R172) -/

theorem holderAbsent_settled (hx : s.record p h = some x) (hd : x.st = .draining) (hs : x.settle + 32000 ≤ s.pace) (hr : s.relays = [])
    (hw : s.writes = []) (he : ∀ e ∈ s.routes, e.pre = p → (∀ y ∈ e.holders, y.holder ≠ h) ∧ e.changed + 32000 ≤ s.pace) :
    exec (.holderAbsent p h) s = .next { s with holders := s.holders.filter (fun y => !(y.pre == p && y.holder == h)) } := by
  have hq : s.routes.any (fun e => e.pre == p &&
      (e.holders.any (fun y => y.holder == h) || decide (s.pace < e.changed + 32000))) = false := by
    rw [List.any_eq_false]
    intro e hm
    by_cases hp : e.pre = p
    · obtain ⟨hh, hc⟩ := he e hm hp
      simpa [hp, Nat.not_lt.mpr hc] using hh
    · simp [hp]
  have hex : exec (.holderAbsent p h) s = execHolderAbsent p h s := rfl
  simp [hex, execHolderAbsent, hx, hd, hs, hr, hw, hq]

theorem holderAbsent_early {e : RtEntry} (hx : s.record p h = some x) (he : e ∈ s.routes) (hp : e.pre = p)
    (hc : s.pace < e.changed + 32000) : exec (.holderAbsent p h) s = .next s := by
  have hq : s.routes.any (fun e => e.pre == p && (e.holders.any (fun y => y.holder == h) || decide (s.pace < e.changed + 32000))) = true :=
    List.any_eq_true.mpr ⟨e, he, by simp [hp, hc]⟩
  have hex : exec (.holderAbsent p h) s = execHolderAbsent p h s := rfl
  simp [hex, execHolderAbsent, hx, hq]

end

/-! ## Late acknowledgements (10 R165, R167) -/

section
variable {s : State} {n h : Nat} {w : WriteReq} {x : HolderSt}

theorem echoDeadline_late (hw : s.write? n = some w) (hp : w.phase = .applied) (he : w.echo = [(h, none)]) (ht : w.time + 5000 < s.pace) :
    exec (.echoDeadline n) s = .next ((s.revokeFor w h).stampWct n) := by
  have hex : exec (.echoDeadline n) s = execEchoDeadline n s := rfl
  simp [hex, execEchoDeadline, hw, hp, he, ht]

theorem echoDeadline_notApplied (hw : s.write? n = some w) (hp : w.phase ≠ .applied) : exec (.echoDeadline n) s = .next s := by
  have hex : exec (.echoDeadline n) s = execEchoDeadline n s := rfl
  simp [hex, execEchoDeadline, hw, hp]

theorem holderState_eq (s : State) (h a : Nat) : s.holderState h a =
    (s.holders.filter (fun x => x.holder == h && prefixCovers x.pre a)).foldl (pick (fun e y => y.pre.len < e.pre.len)) none := by
  unfold State.holderState
  congr 1
  funext b e
  cases b <;> rfl

theorem holderState_spec {a : Nat} (hx : s.holderState h a = some x) : x ∈ s.holders ∧ x.holder = h ∧ prefixCovers x.pre a = true := by
  rw [holderState_eq] at hx
  simpa using mem_of_foldl_pick hx

theorem write?_modWrite (s : State) (n : Nat) (f : WriteReq → WriteReq) (hf : ∀ w, (f w).id = w.id) :
    (s.modWrite n f).write? n = (s.write? n).map f := by
  refine find?_map_where (p := fun w : WriteReq => w.id == n) (fun w hw => ?_) s.writes
  rwa [hf w]

/-- The member of an echo set that is revoked counts its last lease. -/
def counted (h last : Nat) (w : WriteReq) : WriteReq :=
  { w with echo := w.echo.map (fun e => if e.1 = h ∧ e.2.isNone then (e.1, some last) else e) }

theorem revoke_holder (hh : h % 256 ≠ 255) (hx : s.holderState h w.addr = some x) :
    s.revoke w h = (s.modWrite w.id (counted h (s.lastLease w h))).drainHolder x.pre h := by
  unfold State.revoke
  dsimp only
  rw [if_neg hh]
  split
  · next y hy =>
    obtain rfl : y = x := Option.some.inj (hy.symm.trans hx)
    rfl
  · next hn => cases hn.symm.trans hx

theorem revoke_counts (hw : s.write? w.id = some w) (he : w.echo = [(h, none)]) (hh : h % 256 ≠ 255)
    (hx : s.holderState h w.addr = some x) :
    (s.revoke w h).write? w.id = some { w with echo := [(h, some (s.lastLease w h))] } ∧
      ∃ y ∈ (s.revoke w h).holders, y.pre = x.pre ∧ y.holder = h ∧ y.st = .draining ∧ y.leaseEnd = 0 := by
  obtain ⟨hm, ho, -⟩ := holderState_spec hx
  rw [revoke_holder hh hx]
  refine ⟨?_, drained s.pace x, List.mem_map.mpr ⟨x, hm, if_pos (by simp [ho])⟩, rfl, ho, rfl, rfl⟩
  refine (write?_modWrite s w.id (counted h (s.lastLease w h)) fun _ => rfl).trans ?_
  simp [hw, counted, he]

/-- At a primary here the last lease is that of the last renewal that it has issued to the holder. -/
theorem lastLease_renewed (hh : h % 256 ≠ 255) (hp : w.prim / 256 = s.pkgNum) : s.lastLease w h =
    (s.renewed.filter (fun r => r.prim == w.prim && r.holder == h && prefixCovers r.pre w.addr && r.issued)).foldl
      (fun m r => max m (r.time + r.lease)) w.time := by
  unfold State.lastLease
  rw [if_neg hh]
  exact if_neg (not_not.mpr hp)

theorem lastLease_spec (hh : h % 256 ≠ 255) (hp : w.prim / 256 = s.pkgNum) : w.time ≤ s.lastLease w h ∧
    (∀ r ∈ s.renewed, r.prim = w.prim → r.holder = h → prefixCovers r.pre w.addr = true → r.issued = true →
      r.time + r.lease ≤ s.lastLease w h) ∧
    (s.lastLease w h = w.time ∨ ∃ r ∈ s.renewed, r.prim = w.prim ∧ r.holder = h ∧ r.issued = true ∧
      s.lastLease w h = r.time + r.lease) := by
  rw [lastLease_renewed hh hp]
  obtain ⟨h1, h2, h3⟩ := foldl_max_spec (fun r : Renewed => r.time + r.lease)
    (s.renewed.filter (fun r => r.prim == w.prim && r.holder == h && prefixCovers r.pre w.addr && r.issued)) w.time
  refine ⟨h1, fun r hr hrp hrh hrc hri => h2 r (List.mem_filter.mpr ⟨hr, by simp [hrp, hrh, hrc, hri]⟩), h3.imp_right ?_⟩
  rintro ⟨r, hr, ht⟩
  obtain ⟨hr, hq⟩ := List.mem_filter.mp hr
  simp only [Bool.and_eq_true, beq_iff_eq] at hq
  obtain ⟨⟨⟨hrp, hrh⟩, -⟩, hri⟩ := hq
  exact ⟨r, hr, hrp, hrh, hri, ht⟩

end

/-- Settles O39: a relay by what the router makes of it, withdrawals and refusals by the record of their holder, and the choices by the
folds that make them. -/
theorem relaysAndRoutes : Obligations.RelaysAndRoutes := by
  unfold Obligations.RelaysAndRoutes
  refine fun s n => ⟨fun _ _ => relayReceive_dropped, fun _ _ => relayReceive_later, fun _ => relayReceive_outside, ?installs, ?refuses,
    ?withdraws, fun _ _ _ => record_withdrawnHere, fun _ _ _ _ => relayRefusal_elsewhere, fun _ _ _ _ => relayRefusal_recorded,
    fun _ _ _ _ => relayRefusal_second, fun _ _ _ => holderAbsent_settled, fun _ _ _ _ => holderAbsent_early,
    fun _ _ => echoDeadline_late, fun _ _ _ => revoke_counts, fun _ _ => lastLease_spec, fun _ _ hr _ => draining_of_refused hr,
    fun _ => echoDeadline_notApplied, ?entries, fun _ _ _ _ => routeRead_spec, fun _ _ _ _ => routeWrite_spec⟩
  case installs =>
    intro m f hf hm hn hp hl ht hw hr he hs
    exact (relayReceive_taken hf hm hn hp hl ht).trans (congrArg _ (takeRelay_install hw (judgeRelay_new hw hr he hs)))
  case refuses =>
    intro m e f hf hm hn hp hl ht hw hr he hq h4 hh
    exact (relayReceive_taken hf hm hn hp hl ht).trans (congrArg _ (takeRelay_refuse (judgeRelay_full hw hr he hq h4 hh)))
  case withdraws =>
    intro m e f hf hm hn hp hl ht hw he hh
    exact (relayReceive_taken hf hm hn hp hl ht).trans (congrArg _ (takeRelay_withdrawal hw (judgeRelay_withdrawal hw he hh)))
  case entries => exact fun e r p h => ⟨exactEntry_setEntry_same s h, exactEntry_setEntry_other s h⟩

end Sys2Proof.Proofs.Routers

/-!
# Writes: from a store buffer to the response

A write passes from its buffer to a holder, and there `arriveWrite` decides in two steps: where the holder stands (`Arrival`), and,
at a primary, which of the checks stops it. There is one equation for each step (`arriveWrite_arriving`, `atPrimary`), and a claim
about an arriving write is one case of the two. Then come the copies that a write invalidates, what it applies, and its answer.
-/

namespace Sys2Proof.Proofs.Writes

open Sys2Proof Sys2Proof.Machine Sys2Proof.Proofs.Translation Sys2Proof.Proofs.Accesses

/-! ## Draining (13 R219, 11 R188) -/

section
variable {s : State} {n : Nat} {e : SbEntry}

/-- The head of a core's store buffer. -/
abbrev Head (s : State) (n : Nat) (e : SbEntry) : Prop := s.sb.find? (fun x => x.core == n) = some e

theorem storeBufferDrain_eq (s : State) (n : Nat) : exec (.storeBufferDrain n) s = execStoreBufferDrain n s := rfl

theorem storeBufferDrain_empty (h : ∀ e ∈ s.sb, e.core ≠ n) : exec (.storeBufferDrain n) s = .next s := by
  have hn : s.sb.find? (fun e => e.core == n) = none := by simpa [List.find?_eq_none] using h
  rw [storeBufferDrain_eq, execStoreBufferDrain, hn]

theorem storeBufferDrain_write (he : Head s n e) (hk : e.kind.isFold = false) : exec (.storeBufferDrain n) s =
    .next (if s.drainable e then State.sendWrite { s with sb := s.sb.erase e } e.req else s) := by
  have hd : s.drainHead n = if s.drainable e then State.sendWrite { s with sb := s.sb.erase e } e.req else s := by
    rw [State.drainHead, he]
    simp only [hk, Bool.not_false, Bool.and_true]
  rw [storeBufferDrain_eq, execStoreBufferDrain, he, ← hd]
  cases hw : e.kind with
  | bytes _ => simp only [hw]
  | atomic _ _ _ _ => simp only [hw]
  | fill _ => simp only [hw]
  | fold _ _ _ _ _ _ => simp [hw, WKind.isFold] at hk

theorem storeBufferDrain_held (he : Head s n e) (hk : e.kind.isFold = false) (hd : s.drainable e = false) :
    exec (.storeBufferDrain n) s = .next s := by
  rw [storeBufferDrain_write he hk, hd, if_neg Bool.false_ne_true]

theorem storeBufferDrain_sends (he : Head s n e) (hk : e.kind.isFold = false) (hd : s.drainable e = true) :
    exec (.storeBufferDrain n) s = .next (State.sendWrite { s with sb := s.sb.erase e } e.req) := by
  rw [storeBufferDrain_write he hk, if_pos hd]

/-- A write to a holder here needs no packet. -/
theorem routeTo_here {w : WriteReq} (h : w.prim / 256 = s.pkgNum) : s.routeTo w = s := if_pos (.inl h)

theorem sendWrite_here {w : WriteReq} (h : w.prim / 256 = s.pkgNum) : s.sendWrite w = { s with writes := s.writes ++ [w] } := by
  rw [State.sendWrite, if_pos (.inl h)]
  exact routeTo_here h

variable {obj who tag gva u op : Nat} {od : Bool} {val : BitVec 64} {l : Lane}

theorem storeBufferDrain_fold (he : Head s n e) (hk : e.kind = .fold obj od who tag gva val) : exec (.storeBufferDrain n) s =
    .next (if s.otherRound obj tag || !s.drainable e || s.objRead obj e then s
      else if s.comesHome obj tag then s.enterUpdate obj tag else s.foldEntry e) := by
  rw [storeBufferDrain_eq, execStoreBufferDrain, he]
  simp only [hk]

theorem storeBufferDrain_foldWaits (he : Head s n e) (hk : e.kind = .fold obj od who tag gva val)
    (hw : s.otherRound obj tag = true ∨ s.drainable e = false ∨ s.objRead obj e = true) :
    exec (.storeBufferDrain n) s = .next s := by
  rw [storeBufferDrain_fold he hk, if_pos]
  rcases hw with h | h | h <;> simp [h]

theorem storeBufferDrain_foldGoes (he : Head s n e) (hk : e.kind = .fold obj od who tag gva val) (ho : s.otherRound obj tag = false)
    (hd : s.drainable e = true) (hr : s.objRead obj e = false) :
    exec (.storeBufferDrain n) s = .next (if s.comesHome obj tag then s.enterUpdate obj tag else s.foldEntry e) := by
  rw [storeBufferDrain_fold he hk, if_neg]
  simp [ho, hd, hr]

end

/-! ## Arrival at a holder (10 R170, R172, R173) -/

section
variable {s : State} {n : Nat} {w : WriteReq}

theorem id_of_write? (h : s.write? n = some w) : w.id = n := by simpa using List.find?_some h

theorem writeApply_flight (s : State) (n : Nat) : exec (.writeApply (.flight n)) s = .next (s.arriveWrite n) := rfl

theorem lineWaits_iff {p a : Nat} : s.lineWaits p a = true ↔ (∃ x ∈ s.writes, x.phase = .invalidating ∧ lineBase x.addr = lineBase a) ∨
    ∃ x ∈ s.echoes, x.dst = p ∧ lineBase x.addr = lineBase a := by
  simp [State.lineWaits]

theorem lineWaits_none {p a : Nat} (hw : ∀ x ∈ s.writes, x.phase = .invalidating → lineBase x.addr ≠ lineBase a)
    (he : ∀ x ∈ s.echoes, x.dst = p → lineBase x.addr ≠ lineBase a) : s.lineWaits p a = false := by
  rw [Bool.eq_false_iff, Ne, lineWaits_iff]
  rintro (⟨x, hx, hp, hl⟩ | ⟨x, hx, hd, hl⟩)
  · exact hw x hx hp hl
  · exact he x hx hd hl

theorem writeApply_waits (hw : s.write? n = some w) (hl : (∃ x ∈ s.writes, x.phase = .invalidating ∧ lineBase x.addr = lineBase w.addr) ∨
    ∃ x ∈ s.echoes, x.dst = w.prim ∧ lineBase x.addr = lineBase w.addr) : exec (.writeApply (.flight n)) s = .next s := by
  rw [writeApply_flight, State.arriveWrite, hw]
  dsimp only
  rw [if_pos (lineWaits_iff.mpr hl), ite_self]

/-- A write on its way to a holder, for which its line does not wait, and whose object no agent here owns for another home. -/
structure Arriving (s : State) (n : Nat) (w : WriteReq) : Prop where
  found : s.write? n = some w
  travels : w.phase = .travel
  routed : w.prim ≠ 2 ^ 24
  free : s.lineWaits w.prim w.addr = false
  near : s.farOwner w.addr = none

/-- The write reads its line (14 R242). -/
def isAtomic (w : WriteReq) : Bool := match w.kind with | .atomic _ _ _ _ => true | _ => false

/-- A write at the primary of its line: the checks that stop it, in their order (13 R226, R229, 10 R169). -/
def atPrimary (s : State) (n : Nat) (w : WriteReq) : State :=
  if !s.worldOk w.prim w.addr w.world || (isAtomic w && (s.lineAt w.prim w.addr).poison) then s.failWrite n 15
  else if isAtomic w && s.badCopy w.prim w.addr then (s.poisonBad w.addr).failWrite n 16
  else if w.needs.any (fun b => !(s.capOf w.prim w.addr).getLsbD b) then s.failWrite n 14
  else s.atPoint w

/-- A write at a holder that is gone: its die router routes it again, another package is answered (10 R170). -/
def refuse (s : State) (n : Nat) (w : WriteReq) : State :=
  match w.origin with
  | .outside p _ => State.sendTo { s with writes := s.writes.erase w } (s.primRouter w.prim) w.addr (sharerId p) chanAnswer
  | _ => s.modWrite n (fun x => { x with gone := x.prim :: x.gone, prim := 2 ^ 24, routed := x.routed + 1 })

/-- What an arriving write does, by where it stands. -/
def meet (s : State) (n : Nat) (w : WriteReq) : Arrival → State
  | .gone => refuse s n w
  | .forward k => (s.modWrite n (fun x => { x with prim := k })).routeTo { w with prim := k }
  | .primary => atPrimary s n w

theorem arriveWrite_arriving (a : Arriving s n w) : s.arriveWrite n = meet s n w (s.arrival w) := by
  obtain ⟨hw, ht, hp, hl, hf⟩ := a
  rw [State.arriveWrite, hw]
  dsimp only
  rw [if_neg (by simpa [ht] using hp), if_neg (by simp [hl]), hf]
  dsimp only [Option.isSome_none]
  rw [if_neg Bool.false_ne_true]
  cases s.arrival w <;> rfl

theorem arrival_primary (h : (s.holderState w.prim w.addr).map HolderSt.st = some .primary) : s.arrival w = .primary := by
  obtain ⟨x, hx, hs⟩ := Option.map_eq_some_iff.mp h
  simp only [State.arrival, hx, hs]

theorem arrival_draining (h : (s.holderState w.prim w.addr).map HolderSt.st = some .draining) : s.arrival w = .gone := by
  obtain ⟨x, hx, hs⟩ := Option.map_eq_some_iff.mp h
  simp only [State.arrival, hx, hs]

theorem arrival_handed {h : HolderSt} {k : Nat} (hx : s.holderState w.prim w.addr = some h) (hs : h.st = .replica ∨ h.st = .filling)
    (hn : h.next = some k) : s.arrival w = .forward k := by
  rcases hs with hs | hs <;> simp only [State.arrival, hx, hs, hn]

theorem writeApply_forwarded (a : Arriving s n w) {h : HolderSt} {k : Nat} (hx : s.holderState w.prim w.addr = some h)
    (hs : h.st = .replica ∨ h.st = .filling) (hn : h.next = some k) : exec (.writeApply (.flight n)) s =
      .next ((s.modWrite n (fun x => { x with prim := k })).routeTo { w with prim := k }) := by
  rw [writeApply_flight, arriveWrite_arriving a, arrival_handed hx hs hn, meet]

theorem writeApply_refused (a : Arriving s n w) (hs : (s.holderState w.prim w.addr).map HolderSt.st = some .draining)
    (ho : ∀ q x, w.origin ≠ .outside q x) : exec (.writeApply (.flight n)) s =
      .next (s.modWrite n (fun x => { x with gone := x.prim :: x.gone, prim := 2 ^ 24, routed := x.routed + 1 })) := by
  rw [writeApply_flight, arriveWrite_arriving a, arrival_draining hs, meet, refuse]
  split
  · next p c hp => exact absurd hp (ho p c)
  · rfl

theorem writeApply_answered (a : Arriving s n w) (hs : (s.holderState w.prim w.addr).map HolderSt.st = some .draining) {q x : Nat}
    (ho : w.origin = .outside q x) : exec (.writeApply (.flight n)) s =
      .next (State.sendTo { s with writes := s.writes.erase w } (s.primRouter w.prim) w.addr (sharerId q) chanAnswer) := by
  rw [writeApply_flight, arriveWrite_arriving a, arrival_draining hs, meet, refuse, ho]

/-! ## At a primary -/

/-- A write that arrives at the primary of its line. -/
structure AtHome (s : State) (n : Nat) (w : WriteReq) : Prop extends Arriving s n w where
  home : (s.holderState w.prim w.addr).map HolderSt.st = some .primary

theorem writeApply_atPrimary (a : AtHome s n w) : exec (.writeApply (.flight n)) s = .next (atPrimary s n w) := by
  rw [writeApply_flight, arriveWrite_arriving a.toArriving, arrival_primary a.home, meet]

theorem writeApply_otherWorld (a : AtHome s n w) (hw : s.worldOk w.prim w.addr w.world = false) :
    exec (.writeApply (.flight n)) s = .next (s.failWrite n 15) := by
  rw [writeApply_atPrimary a, atPrimary, if_pos (by simp [hw])]

theorem writeApply_poisoned (a : AtHome s n w) (hp : (s.lineAt w.prim w.addr).poison = true)
    (hk : ∃ op z x y, w.kind = .atomic op z x y) : exec (.writeApply (.flight n)) s = .next (s.failWrite n 15) := by
  obtain ⟨op, z, x, y, hk⟩ := hk
  rw [writeApply_atPrimary a, atPrimary, if_pos (by simp [hp, hk, isAtomic])]

/-- A write that passes the world and the poison of its line. -/
theorem atPrimary_sound (hw : s.worldOk w.prim w.addr w.world = true) (hp : (s.lineAt w.prim w.addr).poison = false)
    (hb : s.badCopy w.prim w.addr = false) : atPrimary s n w =
      if w.needs.any (fun b => !(s.capOf w.prim w.addr).getLsbD b) then s.failWrite n 14 else s.atPoint w := by
  rw [atPrimary, if_neg (by simp [hw, hp]), if_neg (by simp [hb])]

theorem writeApply_incapable (a : AtHome s n w) (hw : s.worldOk w.prim w.addr w.world = true)
    (hp : (s.lineAt w.prim w.addr).poison = false) (hb : s.badCopy w.prim w.addr = false)
    (hc : ∃ b ∈ w.needs, (s.capOf w.prim w.addr).getLsbD b = false) :
    exec (.writeApply (.flight n)) s = .next (s.failWrite n 14) := by
  rw [writeApply_atPrimary a, atPrimary_sound hw hp hb, if_pos (by simpa using hc)]

theorem writeApply_atPoint (a : AtHome s n w) (hw : s.worldOk w.prim w.addr w.world = true)
    (hp : (s.lineAt w.prim w.addr).poison = false) (hc : ∀ b ∈ w.needs, (s.capOf w.prim w.addr).getLsbD b = true)
    (hb : s.badCopy w.prim w.addr = false) : exec (.writeApply (.flight n)) s = .next (s.atPoint w) := by
  rw [writeApply_atPrimary a, atPrimary_sound hw hp hb, if_neg (by simpa using hc)]

theorem atPoint_page {t : State} (hi : w.id = n) (ho : s.objOfFa w.addr = none) (hp : s.writePage w = some t) :
    s.atPoint w = t.beginWrite n none := by
  simp only [State.atPoint, ho, hp, hi]

theorem atPoint_pageWaits (ho : s.objOfFa w.addr = none) (hp : s.writePage w = none) : s.atPoint w = s := by
  simp only [State.atPoint, ho, hp]

theorem atPoint_owned {t : State} {o : ObjEntry} {a : Nat} (hi : w.id = n) (ho : s.objOfFa w.addr = some o)
    (hg : s.objAccess o (some (.write n)) (s.writer w) w.core w.addr true = .go t)
    (hs : (t.obj? o.idx).map ObjEntry.st = some (.owned a)) (ha : a / 256 = t.pkgNum) :
    s.atPoint w = (t.markWrote o.idx w.addr).beginWrite n (some (t.l2Place (36 * (a % 256)) w.prim w.addr)) := by
  simp only [State.atPoint, ho, hi, hg, hs, ha, if_true]

end

/-! ## Copies (13 R222) -/

section
variable {s : State} {p line n : Nat}

theorem mem_coresOf {l : L1Line} (hl : l ∈ s.l1) (hf : l.fline = line) (hc : l.const = false) : l.core ∈ s.coresOf line := by
  refine List.mem_eraseDups.mpr (List.mem_append_left _ (List.mem_map_of_mem (List.mem_filter.mpr ⟨hl, ?_⟩)))
  simp [hf, hc]

theorem mem_copiesOf_core {l : L1Line} (hl : l ∈ s.l1) (hf : l.fline = line) (hc : l.const = false) (hn : l.core < 144) :
    l.core ∈ s.copiesOf p line := by
  have slice : l.core ∈ s.sliceDir (sliceOf l.core) line := List.mem_filter.mpr ⟨mem_coresOf hl hf hc, by simp⟩
  have die : sliceOf l.core ∈ s.dieDir (sliceOf l.core / 3) line := by
    refine List.mem_filter.mpr ⟨List.mem_map.mpr ⟨sliceOf l.core % 3, List.mem_range.mpr (Nat.mod_lt _ (by decide)), ?_⟩, ?_⟩
    · exact Nat.div_add_mod _ 3
    · simpa using List.ne_nil_of_mem slice
  refine List.mem_flatMap.mpr ⟨sliceOf l.core / 3, List.mem_range.mpr ?_, List.mem_append_left _ (List.mem_flatMap.mpr ⟨_, die, slice⟩)⟩
  unfold sliceOf
  omega

theorem mem_copiesOf_tag {x : TagLine} (hx : x ∈ s.tags) (hl : x.line = line) (hp : x.place < 12) (hs : s.serSlice p ≠ some x.place) :
    1000 + x.place ∈ s.copiesOf p line := by
  refine List.mem_flatMap.mpr ⟨x.place / 3, List.mem_range.mpr (by omega), List.mem_append_right _ ?_⟩
  refine List.mem_map.mpr ⟨(x.place / 3, x.place), List.mem_filter.mpr ⟨List.mem_map.mpr ⟨x, List.mem_filter.mpr ⟨hx, ?_⟩, rfl⟩, ?_⟩, rfl⟩
  · simp [hl, hp]
  · simpa using hs

theorem const_of_mem_dropL1 {k : Nat} {l : L1Line} (hl : l ∈ (s.dropL1 k line).l1) (hk : l.core = k) (hf : l.fline = line) :
    l.const = true := by
  have hm : l ∈ s.l1.filter (fun (l : L1Line) => !(l.core == k && l.fline == line && (false || !l.const))) := hl
  simpa [hk, hf] using (List.mem_filter.mp hm).2

theorem invalidate_next {w : WriteReq} {k : Nat} {rest : List Nat} (hw : s.write? n = some w) (hi : w.invs = k :: rest) :
    exec (.invalidate n) s = .next ((s.dropOne (lineBase w.addr) k).modWrite n (fun x => { x with invs := rest })) := by
  have he : exec (.invalidate n) s = execInvalidate n s := rfl
  rw [he, execInvalidate, hw]
  simp only [hi]

end

/-! ## What a write applies (10 R164, 15 R258) -/

section
variable {s : State} {n : Nat} {w : WriteReq}

theorem countRead_parts (s : State) (c h a : Nat) : partsOf (s.countRead c h a) = partsOf s := by
  unfold State.countRead
  dsimp only
  split
  · exact count_parts s _ _ _
  · exact (count_parts _ _ _ _).trans ((count_parts _ _ _ _).trans (count_parts s _ _ _))

theorem unitReadAs_parts (s : State) (h a c k : Nat) : partsOf (s.unitReadAs h a c k) = partsOf s := by
  unfold State.unitReadAs
  split
  · exact ctlRead_parts s _ _ _ _
  · split
    · exact touchTag_parts s _ _ _ _ _ _
    · exact ctlRead_parts s _ _ _ _

theorem readOld_parts (s : State) (w : WriteReq) : partsOf (s.readOld w) = partsOf s := by
  unfold State.readOld
  split
  · split
    · split
      · rfl
      · exact unitReadAs_parts s _ _ _ _
    · exact (unitReadAs_parts _ _ _ _ _).trans (countRead_parts s _ _ _)
  · rfl

theorem readOld_pkgNum (s : State) (w : WriteReq) : (s.readOld w).pkgNum = s.pkgNum := by
  have hp : (s.readOld w).pkg = s.pkg := congrArg Parts.pkg (readOld_parts s w)
  rw [State.pkgNum, hp, State.pkgNum]

theorem writeReadable_waits (hw : s.write? n = some w) (hi : w.invs ≠ []) : exec (.writeReadable n) s = .next s := by
  have he : exec (.writeReadable n) s = execWriteReadable n s := rfl
  rw [he, execWriteReadable, hw]
  simp [hi]

theorem writeReadable_otherWorld (hw : s.write? n = some w) (hp : w.phase = .invalidating) (hi : w.invs = [])
    (ho : s.worldOk w.prim w.addr w.world = false) : exec (.writeReadable n) s = .next (s.failWrite n 15) := by
  rw [writeReadable_due hw hp hi, State.makeReadable, if_pos (by simp [ho]), id_of_write? hw]

theorem writeReadable_applies (hw : s.write? n = some w) (hp : w.phase = .invalidating) (hi : w.invs = []) (hg : w.bad = false)
    (hh : w.prim / 256 = s.pkgNum) (hb : s.badCopy w.prim w.addr = false) (ho : s.worldOk w.prim w.addr w.world = true)
    {old : Nat} {d : List Byte} {fl : FpFlags} {u v : State} {e : List (Nat × Option Nat)} (hv : s.readOld w = v)
    (hf : v.effect w = (old, some d, fl))
    (hu : (v.countWrite (w.place.or (v.serSlice w.prim)) w.ctx w.addr w.ret).applyBytes n w.prim w.addr d w.tree w.vdid w.ctx w.ret
      w.place = (u, e)) :
    exec (.writeReadable n) s = .next (u.modWrite n (fun x => { x with
      phase := .applied, invs := [], time := u.pace, old := old, flags := fl, echo := e, wct := u.pace })) := by
  have hn : w.prim / 256 = v.pkgNum := by rw [← hv, readOld_pkgNum, hh]
  rw [writeReadable_due hw hp hi, State.makeReadable, if_neg (by simp [ho]), if_neg (by simp [hb]), hv, id_of_write? hw]
  simp only [hf, hn, true_or, if_true, hu, hg, Bool.false_eq_true, if_false]

theorem readOld_bytes {d : List Byte} (hk : w.kind = .bytes d) : s.readOld w = s := by
  simp only [State.readOld, hk]

theorem effect_bytes {d : List Byte} (hk : w.kind = .bytes d) : s.effect w = (0, some d, 0) := by
  simp only [State.effect, hk]

theorem effect_atomic {op size x y old : Nat} (hk : w.kind = .atomic op size x y)
    (ho : ofLeBytes (s.bytesAt w.prim w.addr size) = old) (hc : op = 9 → old = y % 2 ^ (8 * size)) :
    s.effect w = (old, some (leBytes size (atomOp op (8 * size) old x).1), (atomOp op (8 * size) old x).2) := by
  simp only [State.effect, hk, ho]
  exact if_neg fun h => h.2 (hc h.1)

theorem effect_casFails {size x y : Nat} (hk : w.kind = .atomic 9 size x y)
    (hc : ofLeBytes (s.bytesAt w.prim w.addr size) ≠ y % 2 ^ (8 * size)) :
    s.effect w = (ofLeBytes (s.bytesAt w.prim w.addr size), none, 0) := by
  simp only [State.effect, hk]
  exact if_pos ⟨trivial, hc⟩

end

/-! ## Answers (10 R167, R170, 14 R232) -/

section
variable {s : State} {n : Nat} {w : WriteReq}

theorem applyNotice_eq (s : State) (n : Nat) : exec (.applyNotice n) s =
    .next (s.modWrite n (fun w => if w.phase = .applied then { w with notice := true } else w)) := by
  have he : exec (.applyNotice n) s = execApplyNotice n s := rfl
  simp only [he, execApplyNotice, beq_iff_eq]

theorem storeResponse_known (hw : s.write? n = some w) (hp : w.phase = .applied) (hn : w.notice = true) {t : Nat}
    (hk : w.known = some t) : exec (.storeResponse n) s =
      .next (({ s with writes := s.writes.erase w } : State).respond { w with wct := t }) := by
  have he : exec (.storeResponse n) s = execStoreResponse n s := rfl
  rw [he, execStoreResponse, hw]
  simp [hp, hn, hk]

theorem storeResponse_waits (hw : s.write? n = some w) (hp : w.phase = .applied) (hn : w.notice = false ∨ w.known = none) :
    exec (.storeResponse n) s = .next s := by
  have he : exec (.storeResponse n) s = execStoreResponse n s := rfl
  rw [he, execStoreResponse, hw]
  rcases hn with hn | hn <;> simp [hp, hn]

theorem known_none (h : ∃ e ∈ w.echo, e.2 = none) : w.known = none := by
  obtain ⟨e, he, hn⟩ := h
  refine if_neg fun ha => ?_
  simpa [hn] using List.all_eq_true.mp ha e he

/-- A refused write goes to another holder, or ends without one. -/
def rerouted (k : Option Nat) (w : WriteReq) : WriteReq :=
  match k with
  | some k => { w with prim := k }
  | none => { w with phase := .answered, notice := true, err := some 13 }

theorem refusalReroute_eq (hw : s.write? n = some w) (hp : w.phase = .travel) (hd : w.prim = 2 ^ 24) {k : Option Nat}
    (hr : (if 16 ≤ w.routed then none else (s.routeWrite (s.dieRouter w.core) w.addr w.gone).map RtHolder.holder) = k) :
    exec (.refusalReroute n) s = .next ((s.modWrite n (rerouted k)).routeTo { w with prim := k.getD (2 ^ 24) }) := by
  have he : exec (.refusalReroute n) s = execRefusalReroute n s := rfl
  rw [he, execRefusalReroute, hw]
  dsimp only
  rw [if_pos (by simp [hp, hd])]
  subst hr
  rfl

theorem refusalReroute_again (hw : s.write? n = some w) (hp : w.phase = .travel) (hd : w.prim = 2 ^ 24) (hl : w.routed < 16) {h : RtHolder}
    (hr : s.routeWrite (s.dieRouter w.core) w.addr w.gone = some h) : exec (.refusalReroute n) s =
      .next ((s.modWrite n (fun x => { x with prim := h.holder })).routeTo { w with prim := h.holder }) :=
  refusalReroute_eq hw hp hd (k := some h.holder) (by rw [if_neg (Nat.not_le.mpr hl), hr]; rfl)

theorem refusalReroute_ends (hw : s.write? n = some w) (hp : w.phase = .travel) (hd : w.prim = 2 ^ 24)
    (hr : 16 ≤ w.routed ∨ s.routeWrite (s.dieRouter w.core) w.addr w.gone = none) : exec (.refusalReroute n) s =
      .next (s.modWrite n (fun x => { x with phase := .answered, notice := true, err := some 13 })) := by
  have hn : (if 16 ≤ w.routed then none else (s.routeWrite (s.dieRouter w.core) w.addr w.gone).map RtHolder.holder) = none := by
    rcases hr with hr | hr
    · exact if_pos hr
    · rw [hr]
      exact ite_self _
  rw [refusalReroute_eq hw hp hd hn]
  exact congrArg Host.Outcome.next (if_pos (.inr le_rfl))

theorem refusalReroute_load (hw : s.write? n = none) : exec (.refusalReroute n) s = .next (s.serveOp n true) := by
  have he : exec (.refusalReroute n) s = execRefusalReroute n s := rfl
  rw [he, execRefusalReroute, hw]

end

/-- Settles O50: the life of a write in the order of the lemmas above; an arriving one by where it stands, then by the checks of its
primary. -/
theorem writesAtTheirPrimary : Obligations.WritesAtTheirPrimary := by
  unfold Obligations.WritesAtTheirPrimary
  refine fun s n => ⟨storeBufferDrain_empty, fun _ => storeBufferDrain_held, ?drainsHere, fun _ => storeBufferDrain_sends,
    fun _ _ _ _ _ _ _ _ _ _ he hk _ => storeBufferDrain_foldWaits he hk, ?folds, ?comesHome,
    fun _ hw _ => writeApply_waits hw, fun _ _ => lineWaits_none,
    fun _ hw hp hd hl hf hs => writeApply_otherWorld ⟨⟨hw, hp, hd, hl, hf⟩, hs⟩,
    fun _ hw hp hd hl hf hs ho hn hb => writeApply_incapable ⟨⟨hw, hp, hd, hl, hf⟩, hs⟩ ho hn hb,
    fun _ hw hp hd hl hf hs _ => writeApply_poisoned ⟨⟨hw, hp, hd, hl, hf⟩, hs⟩, ?page, ?owned, fun _ => rfl, ?pageWaits,
    fun _ _ _ => mem_copiesOf_core, fun _ _ _ => mem_copiesOf_tag,
    fun _ hw hp hd hl hf _ _ => writeApply_forwarded ⟨hw, hp, hd, hl, hf⟩, fun _ => routeTo_here,
    fun _ hw hp hd hl hf => writeApply_refused ⟨hw, hp, hd, hl, hf⟩,
    fun _ hw hp hd hl hf hs _ _ => writeApply_answered ⟨hw, hp, hd, hl, hf⟩ hs,
    fun _ _ _ _ _ _ _ h => congrArg Host.Outcome.next (if_pos h), ?outside, fun _ hw _ _ => invalidate_next hw,
    fun _ _ _ => const_of_mem_dropL1, fun _ hw _ => writeReadable_waits hw, fun _ => writeReadable_otherWorld, fun _ _ => readOld_bytes,
    fun _ hw hp hi hg hh hb ho _ _ _ _ _ _ => writeReadable_applies hw hp hi hg hh hb ho, fun _ _ => effect_bytes,
    fun _ _ _ _ _ _ => effect_atomic, fun _ _ _ _ => effect_casFails, applyBytes_mem s, applyNotice_eq s n,
    fun _ hw hp hn _ => storeResponse_known hw hp hn, fun _ => storeResponse_waits, fun _ => known_none,
    fun _ hw hp hd hl _ => refusalReroute_again hw hp hd hl, fun _ => refusalReroute_ends, refusalReroute_load⟩
  case drainsHere =>
    intro e he hk hd hp
    rw [storeBufferDrain_sends he hk hd]
    exact congrArg Host.Outcome.next (sendWrite_here hp)
  case folds =>
    intro e obj od who tag gva val u op l he hk _ ho hd hr hc
    rw [storeBufferDrain_foldGoes he hk ho hd hr, hc, if_neg Bool.false_ne_true]
  case comesHome =>
    intro e obj od who tag gva val u op l he hk _ ho hd hr hc
    rw [storeBufferDrain_foldGoes he hk ho hd hr, if_pos hc]
  case page =>
    intro w hw hp hd hl hf hs ho hn hc hm hb t ht
    rw [writeApply_atPoint ⟨⟨hw, hp, hd, hl, hf⟩, hs⟩ ho hn hc hb, atPoint_page (id_of_write? hw) hm ht]
  case owned =>
    intro w hw hp hd hl hf hs ho hn hc hb o t a hm hg ht ha
    rw [writeApply_atPoint ⟨⟨hw, hp, hd, hl, hf⟩, hs⟩ ho hn hc hb, atPoint_owned (id_of_write? hw) hm hg ht ha]
  case pageWaits =>
    intro w hw hp hd hl hf hs ho hn hc hm hb ht
    rw [writeApply_atPoint ⟨⟨hw, hp, hd, hl, hf⟩, hs⟩ ho hn hc hb, atPoint_pageWaits hm ht]
  case outside =>
    intro q k y h a v z hq hb
    exact congrArg Host.Outcome.next (if_neg (by simp [hq, hb]))

end Sys2Proof.Proofs.Writes

/-!
# Echoes, leases and reads

A holder takes an echo in three steps: the echo is off its way (`heard`), the holder does what its state bids, and it acknowledges
(`acknowledged`). A fill, a lease and a renewal each change one record or one line. A request of a load goes through the buffer, the
L1 and a holder in that order, and each claim about it is the branch of `tryReq` or `fetchLine` in which it ends.
-/

namespace Sys2Proof.Proofs.Echoes

open Sys2Proof Sys2Proof.Machine Sys2Proof.Laws.Mem Sys2Proof.Proofs.Routers Sys2Proof.Proofs.Management

/-! ## Bytes at a holder that is not the primary (10 R172) -/

section
variable (s : State) (h a : Nat) (bs : List Byte) (stamp : Nat)

theorem putDram_outside (old : List Byte) : s.putDram h a old = { s with
    lines := (s.putDram h a old).lines, integ := (s.putDram h a old).integ, tags := (s.putDram h a old).tags } := by
  unfold State.putDram
  split <;> rfl

theorem copyBytes_outside : s.copyBytes h a bs stamp = { s with
    mem := (s.copyBytes h a bs stamp).mem, lines := (s.copyBytes h a bs stamp).lines
    integ := (s.copyBytes h a bs stamp).integ, tags := (s.copyBytes h a bs stamp).tags } := by
  unfold State.copyBytes State.dramWrite
  dsimp only
  rw [putDram_outside]
  rfl

@[simp] theorem copyBytes_mem : (s.copyBytes h a bs stamp).mem = s.mem.putN (memKey h a) bs := by
  rw [State.copyBytes, setLine_mem, dramWrite_mem]

theorem lineAt_setLine_wct {l : LineMeta} (hk : l.key = memKey h (lineBase a)) : ((s.setLine l).lineAt h a).wct = l.wct := by
  simp [State.lineAt, State.setLine, hk]

theorem lineAt_copyBytes : ((s.copyBytes h a bs stamp).lineAt h a).wct = stamp :=
  lineAt_setLine_wct _ h a (lineAt_key _ h a)

end

/-! ## Echoes at their holder (10 R164, R172) -/

section
variable {s : State} {n : Nat} {e : Echo}

/-- A change of a holder's records that leaves their states leaves the state for every address. -/
theorem holderState_mapHeld (s : State) (h a : Nat) {f : HolderSt → HolderSt}
    (hf : ∀ x, (f x).pre = x.pre ∧ (f x).holder = x.holder ∧ (f x).st = x.st) (k b : Nat) :
    ((s.mapHeld h f a).holderState k b).map HolderSt.st = (s.holderState k b).map HolderSt.st := by
  have keeps : ∀ x : HolderSt, (if x.holder == h && prefixCovers x.pre a then f x else x).pre = x.pre ∧
      (if x.holder == h && prefixCovers x.pre a then f x else x).holder = x.holder ∧
      (if x.holder == h && prefixCovers x.pre a then f x else x).st = x.st := by
    intro x
    split
    · exact hf x
    · exact ⟨rfl, rfl, rfl⟩
  rw [holderState_eq, holderState_eq, State.mapHeld]
  simp only [List.filter_map]
  have test : ((fun x : HolderSt => x.holder == k && prefixCovers x.pre b) ∘
      fun x => if x.holder == h && prefixCovers x.pre a then f x else x) = fun x => x.holder == k && prefixCovers x.pre b := by
    funext x
    obtain ⟨hp, hh, -⟩ := keeps x
    simp only [Function.comp_apply, hp, hh]
  rw [test]
  refine (congrArg (Option.map HolderSt.st) (foldl_pick_map (fun e x => ?_) _ none)).trans ?_
  · rw [(keeps e).1, (keeps x).1]
  · rw [Option.map_map]
    exact congrArg (fun g => Option.map g _) (funext fun x => (keeps x).2.2)

/-- An echo is off its way: its holder keeps the line no longer for an object (11 R184). -/
def heard (s : State) (e : Echo) : State :=
  { s with echoes := s.echoes.erase e }.mapHeld e.dst (fun h => { h with kept := h.kept.filter (fun l => l != lineBase e.addr) }) e.addr

theorem holderState_heard (s : State) (e : Echo) :
    ((heard s e).holderState e.dst e.addr).map HolderSt.st = (s.holderState e.dst e.addr).map HolderSt.st :=
  holderState_mapHeld { s with echoes := s.echoes.erase e } e.dst e.addr
    (f := fun h => { h with kept := h.kept.filter (fun l => l != lineBase e.addr) }) (fun _ => ⟨rfl, rfl, rfl⟩) _ _

/-- The holder acknowledges the echo: to a write here by name, to another package by a packet. -/
def acknowledged (s : State) (e : Echo) : State :=
  if e.write = 0 then s.sendTo e.dst e.addr e.src chanAnswer
  else { s with nextId := s.nextId + 1, acks := s.acks ++ [⟨s.nextId, e.write, e.dst, s.pace⟩] }

theorem acknowledged_write (hw : e.write ≠ 0) : acknowledged s e =
    { s with nextId := s.nextId + 1, acks := s.acks ++ [⟨s.nextId, e.write, e.dst, s.pace⟩] } := if_neg hw

theorem acknowledged_holders (s : State) (e : Echo) : (acknowledged s e).holders = s.holders := by
  unfold acknowledged
  split
  · exact (congrArg State.holders (sendTo_unsent s _ _ _ _) :)
  · rfl

/-- The bytes of an echo are marked in the record of its holder. -/
def marked (e : Echo) (h : HolderSt) : HolderSt := { h with
  echoed := h.echoed ++ ((List.range e.data.length).map (fun i => e.addr + i)).filter (fun a => !h.echoed.contains a) }

theorem mem_marked (e : Echo) (h : HolderSt) {i : Nat} (hi : i < e.data.length) : e.addr + i ∈ (marked e h).echoed := by
  by_cases hm : e.addr + i ∈ h.echoed
  · exact List.mem_append_left _ hm
  · refine List.mem_append_right _ (List.mem_filter.mpr ⟨List.mem_map_of_mem (List.mem_range.mpr hi), ?_⟩)
    simpa using hm

theorem takeEcho_eq (hi : e.inval = false) : s.takeEcho e = acknowledged
    (if ((heard s e).holderState e.dst e.addr).map HolderSt.st = some .draining then heard s e
      else if ((heard s e).holderState e.dst e.addr).map HolderSt.st = some .filling
        then ((heard s e).copyBytes e.dst e.addr e.data e.time).modHolder e.pre e.dst (marked e)
      else (heard s e).copyBytes e.dst e.addr e.data e.time) e := by
  unfold State.takeEcho
  rw [hi]
  rfl

theorem takeEcho_draining (hi : e.inval = false) (hs : (s.holderState e.dst e.addr).map HolderSt.st = some .draining) :
    s.takeEcho e = acknowledged (heard s e) e := by
  rw [takeEcho_eq hi, if_pos ((holderState_heard s e).trans hs)]

/-- A holder that does not drain applies the bytes; one that fills marks them. -/
theorem takeEcho_applies (hi : e.inval = false) {st : HState} (hs : (s.holderState e.dst e.addr).map HolderSt.st = some st)
    (hd : st ≠ .draining) : s.takeEcho e = acknowledged (if st = .filling
      then ((heard s e).copyBytes e.dst e.addr e.data e.time).modHolder e.pre e.dst (marked e)
      else (heard s e).copyBytes e.dst e.addr e.data e.time) e := by
  rw [takeEcho_eq hi, (holderState_heard s e).trans hs]
  simp only [Option.some.injEq, if_neg hd]

theorem takeEcho_atDraining (hi : e.inval = false) (hw : e.write ≠ 0)
    (hs : (s.holderState e.dst e.addr).map HolderSt.st = some .draining) : ∃ t, s.takeEcho e = t ∧
    t.mem = s.mem ∧ t.echoes = s.echoes.erase e ∧ t.acks = s.acks ++ [⟨s.nextId, e.write, e.dst, s.pace⟩] := by
  rw [takeEcho_draining hi hs, acknowledged_write hw]
  exact ⟨_, rfl, rfl, rfl, rfl⟩

theorem takeEcho_atReplica (hi : e.inval = false) (hw : e.write ≠ 0)
    (hs : (s.holderState e.dst e.addr).map HolderSt.st = some .replica) : ∃ t, s.takeEcho e = t ∧
    t.mem = Memory.putN s.mem (memKey e.dst e.addr) e.data ∧ t.echoes = s.echoes.erase e ∧
      t.acks = s.acks ++ [⟨s.nextId, e.write, e.dst, t.pace⟩] := by
  rw [takeEcho_applies hi hs (by decide), if_neg (by decide), acknowledged_write hw]
  have outside := copyBytes_outside (heard s e) e.dst e.addr e.data e.time
  have ha : ((heard s e).copyBytes e.dst e.addr e.data e.time).acks = s.acks := (congrArg State.acks outside :)
  have hi : ((heard s e).copyBytes e.dst e.addr e.data e.time).nextId = s.nextId := (congrArg State.nextId outside :)
  rw [ha, hi]
  exact ⟨_, rfl, copyBytes_mem (heard s e) e.dst e.addr e.data e.time, (congrArg State.echoes outside :), rfl⟩

theorem takeEcho_atFilling (hi : e.inval = false) (hs : (s.holderState e.dst e.addr).map HolderSt.st = some .filling) :
    ∀ h ∈ (s.takeEcho e).holders, h.pre = e.pre → h.holder = e.dst → ∀ i < e.data.length, e.addr + i ∈ h.echoed := by
  rw [takeEcho_applies hi hs (by decide), if_pos rfl, acknowledged_holders]
  intro h hm hp hh i hl
  obtain ⟨x, -, rfl⟩ := List.mem_map.mp hm
  by_cases hx : (x.pre == e.pre && x.holder == e.dst) = true
  · rw [if_pos hx]
    exact mem_marked e x hl
  · rw [if_neg hx] at hp hh
    simp [hp, hh] at hx

/-! ### In order, and from outside -/

theorem echoReceive_eq (he : s.echoes.find? (fun x => x.id == n) = some e) : exec (.echoReceive (.flight n)) s =
    .next (if e.carried || !s.echoFirst e then s else s.takeEcho e) := by
  have hx : exec (.echoReceive (.flight n)) s = execEchoReceive (.flight n) s := rfl
  rw [hx, execEchoReceive, he]

theorem echoReceive_taken (he : s.echoes.find? (fun x => x.id == n) = some e) (hc : e.carried = false) (hf : s.echoFirst e = true) :
    exec (.echoReceive (.flight n)) s = .next (s.takeEcho e) := by
  rw [echoReceive_eq he, if_neg (by simp [hc, hf])]

theorem echoReceive_waits (he : s.echoes.find? (fun x => x.id == n) = some e) (hw : e.carried = true ∨ s.echoFirst e = false) :
    exec (.echoReceive (.flight n)) s = .next s := by
  rw [echoReceive_eq he, if_pos (by simpa using hw)]

theorem echoFirst_iff : s.echoFirst e = true ↔
    (∀ x ∈ s.echoes, e.id ≤ x.id ∨ x.dst ≠ e.dst ∨ (x.src ≠ e.src ∧ lineBase x.addr ≠ lineBase e.addr)) ∧
      ∀ r ∈ s.renewals, r.dst ≠ e.dst ∨ e.id ≤ r.seq := by
  simp only [State.echoFirst, Bool.and_eq_true, List.all_eq_true, Bool.or_eq_true, decide_eq_true_eq, bne_iff_ne, or_assoc]

variable {p : Prefix} {x y a m : Nat} {d : List Byte}

theorem echoReceive_outside (p : Prefix) (x y a m : Nat) (d : List Byte) : exec (.echoReceive (.outside p x y a d m)) s =
    .next (if x / 256 = s.pkgNum ∨ y / 256 ≠ s.pkgNum ∨ s.echoes.any (fun z => z.src == x && z.dst == y) = true then s
      else s.takeEcho ⟨0, 0, x, y, p, a, d.take (64 - a % 64), m, false, decide (y = sharerId s.pkgNum)⟩) := rfl

theorem echoReceive_outsideTaken (hx : x / 256 ≠ s.pkgNum) (hy : y / 256 = s.pkgNum) (he : ∀ z ∈ s.echoes, z.src = x → z.dst ≠ y) :
    exec (.echoReceive (.outside p x y a d m)) s =
      .next (s.takeEcho ⟨0, 0, x, y, p, a, d.take (64 - a % 64), m, false, decide (y = sharerId s.pkgNum)⟩) := by
  rw [echoReceive_outside, if_neg]
  rintro (h | h | h)
  · exact hx h
  · exact h hy
  · obtain ⟨z, hz, hq⟩ := List.any_eq_true.mp h
    simp only [Bool.and_eq_true, beq_iff_eq] at hq
    exact he z hz hq.1 hq.2

theorem echoReceive_outsideWaits (h : x / 256 = s.pkgNum ∨ y / 256 ≠ s.pkgNum ∨ ∃ z ∈ s.echoes, z.src = x ∧ z.dst = y) :
    exec (.echoReceive (.outside p x y a d m)) s = .next s := by
  rw [echoReceive_outside, if_pos (by simpa using h)]

end

/-! ## Acknowledgements at the primary (10 R165, R167) -/

section
variable {s : State} {n : Nat} {a : EchoAck} {w : WriteReq}

theorem echoAckReceive_inTime (ha : s.acks.find? (fun x => x.id == n) = some a) (hw : s.write? a.write = some w)
    (ht : s.pace ≤ w.time + 5000) : exec (.echoAckReceive n) s =
      .next (State.stampWct { (({ s with acks := s.acks.erase a } : State).modWrite a.write (fun x => { x with
        echo := x.echo.map (fun e => if e.1 = a.dst ∧ e.2.isNone then (e.1, some a.time) else e) })) with
      sharers := s.sharers.filter (fun x => !(sharerId x.pkg == a.dst && x.prim == w.prim && x.line == lineBase w.addr &&
        decide (x.sent ≤ w.time))) } a.write) := by
  have hx : exec (.echoAckReceive n) s = execEchoAckReceive n s := rfl
  have hw' : State.write? { s with acks := s.acks.erase a } a.write = some w := hw
  rw [hx, execEchoAckReceive, ha]
  dsimp only
  rw [hw']
  exact congrArg Host.Outcome.next (if_neg (Nat.not_lt.mpr ht))

theorem echoAckReceive_late (ha : s.acks.find? (fun x => x.id == n) = some a)
    (hl : ∀ w, s.write? a.write = some w → w.time + 5000 < s.pace) :
    exec (.echoAckReceive n) s = .next { s with acks := s.acks.erase a } := by
  have hx : exec (.echoAckReceive n) s = execEchoAckReceive n s := rfl
  rw [hx, execEchoAckReceive, ha]
  refine congrArg Host.Outcome.next ?_
  dsimp only
  split
  · rfl
  · next w hw => exact if_pos (hl w hw)

theorem stampWct_known {t : Nat} (hw : s.write? n = some w) (hk : w.known = some t) : s.stampWct n =
    (if (s.lineAt w.prim w.addr).last = n then s.setLine { s.lineAt w.prim w.addr with wct := t } else s).modWrite n
      (fun x => { x with wct := t, echo := [] }) := by
  simp only [State.stampWct, hw, hk]

theorem stampWct_unknown (hw : s.write? n = some w) (hk : w.known = none) : s.stampWct n = s := by
  simp only [State.stampWct, hw, hk]

end

/-! ## Fills (10 R172, 15 R254) -/

section
variable {s : State} {n : Nat} {f : FillWrite} {h : HolderSt}

theorem fillWrite_eq (hf : s.fills.find? (fun x => x.id == n) = some f) : exec (.fillWrite (.flight n)) s =
    .next (State.fillAt { s with fills := s.fills.erase f } f.dst f.addr f.data f.time) := by
  have hx : exec (.fillWrite (.flight n)) s = execFillWrite (.flight n) s := rfl
  rw [hx, execFillWrite, hf]

theorem fillAt_notFilling {dst a m : Nat} {d : List Byte} (hh : s.holderState dst a = some h) (hs : h.st ≠ .filling) :
    s.fillAt dst a d m = s := by
  rw [State.fillAt, hh]
  exact if_neg (by simpa using hs)

/-- A byte of a fill is written where it is not marked. -/
theorem fillAt_byte {dst a m : Nat} {x : Byte} (hh : s.holderState dst a = some h) (hs : h.st = .filling) :
    s.fillAt dst a [x] m = if a ∈ h.echoed then s else s.copyBytes dst a [x] (max (s.lineAt dst a).wct m) := by
  rw [State.fillAt, hh]
  dsimp only
  rw [if_pos (by simpa using hs)]
  by_cases hm : a ∈ h.echoed <;> simp [hm]

theorem fillWrite_notFilling (hf : s.fills.find? (fun x => x.id == n) = some f) (hh : s.holderState f.dst f.addr = some h)
    (hs : h.st ≠ .filling) : exec (.fillWrite (.flight n)) s = .next { s with fills := s.fills.erase f } :=
  (fillWrite_eq hf).trans (congrArg _ (fillAt_notFilling hh hs))

theorem fillWrite_byte (hf : s.fills.find? (fun x => x.id == n) = some f) (hh : s.holderState f.dst f.addr = some h)
    (hs : h.st = .filling) {x : Byte} (hd : f.data = [x]) : ∃ t, exec (.fillWrite (.flight n)) s = .next t ∧
      t.fills = s.fills.erase f ∧ t.mem = (if f.addr ∈ h.echoed then s.mem else Memory.put s.mem (memKey f.dst f.addr) x) ∧
      (f.addr ∉ h.echoed → (t.lineAt f.dst f.addr).wct = max (s.lineAt f.dst f.addr).wct f.time) := by
  have ht := fillAt_byte (s := { s with fills := s.fills.erase f }) (m := f.time) (x := x) hh hs
  refine ⟨_, fillWrite_eq hf, ?_⟩
  rw [hd, ht]
  by_cases hm : f.addr ∈ h.echoed
  · rw [if_pos hm, if_pos hm]
    exact ⟨rfl, rfl, fun hn => absurd hm hn⟩
  · rw [if_neg hm, if_neg hm]
    refine ⟨?_, copyBytes_mem _ _ _ _ _, fun _ => lineAt_copyBytes _ _ _ _ _⟩
    rw [copyBytes_outside]

end

/-! ## Leases (10 R166) -/

section
variable {s : State} {n : Nat} {p : Prefix} {h : HolderSt}

theorem leaseEnd_eq (s : State) (p : Prefix) (h : Nat) : exec (.leaseEnd p h) s = .next { s with
    holders := s.holders.map (fun x => if x.pre = p ∧ x.holder = h ∧ x.leaseEnd ≤ s.pace then { x with leaseEnd := 0 } else x) } := by
  have he : exec (.leaseEnd p h) s = .next (s.modHolder p h (fun h => if h.leaseEnd ≤ s.pace then { h with leaseEnd := 0 } else h)) := rfl
  rw [he, State.modHolder]
  have same : (fun x : HolderSt => if (x.pre == p && x.holder == h) = true then
      (if x.leaseEnd ≤ s.pace then { x with leaseEnd := 0 } else x) else x) =
        fun x => if x.pre = p ∧ x.holder = h ∧ x.leaseEnd ≤ s.pace then { x with leaseEnd := 0 } else x := by
    funext x
    simp only [Bool.and_eq_true, beq_iff_eq, ← and_assoc, ite_and]
  rw [same]

/-- The primary that issues the renewals of an address range here. -/
abbrev Renews (s : State) (p : Prefix) (h : HolderSt) : Prop :=
  s.holders.find? (fun h => h.pre == p && h.st == HState.primary && h.holder / 256 == s.pkgNum) = some h

/-- The whole microsecond that has been reached last before now. -/
def lastMicro (s : State) : Nat := (s.pace - 1) / 1000 * 1000

/-- The replicas of that range that lack the renewal of that microsecond. -/
def lacking (s : State) (p : Prefix) (h : HolderSt) : List Renewed :=
  s.renewed.filter (fun r => r.live && r.pre == p && r.prim == h.holder && decide (r.time < lastMicro s))

/-- A renewal of time `m` leaves for a replica. -/
def renewOne (p : Prefix) (h : HolderSt) (m : Nat) (s : State) (r : Renewed) : State :=
  State.sendTo { s with
    nextId := s.nextId + 1
    renewed := s.renewed.map (fun x => if x = r then { x with time := m, issued := true } else x)
    renewals := s.renewals ++ [⟨s.nextId, p, h.holder, r.holder, m, s.nextId⟩] } (s.primRouter h.holder) p.base r.holder chanData

theorem leaseRenewal_eq (hf : Renews s p h) :
    exec (.leaseRenewal p) s = .next ((lacking s p h).foldl (renewOne p h (lastMicro s)) s) := by
  have he : exec (.leaseRenewal p) s = execLeaseRenewal p s := rfl
  rw [he, execLeaseRenewal]
  dsimp only
  rw [hf]
  rfl

theorem leaseRenewal_elsewhere (hh : ∀ h ∈ s.holders, h.pre = p → h.st ≠ .primary ∨ h.holder / 256 ≠ s.pkgNum) :
    exec (.leaseRenewal p) s = .next s := by
  have he : exec (.leaseRenewal p) s = execLeaseRenewal p s := rfl
  have hn : s.holders.find? (fun h => h.pre == p && h.st == HState.primary && h.holder / 256 == s.pkgNum) = none := by
    rw [List.find?_eq_none]
    intro x hx hq
    simp only [Bool.and_eq_true, beq_iff_eq] at hq
    obtain ⟨⟨hp, hs⟩, hk⟩ := hq
    rcases hh x hx hp with h | h
    · exact h hs
    · exact h hk
  rw [he, execLeaseRenewal]
  dsimp only
  rw [hn]

theorem leaseRenewal_issued (hf : Renews s p h)
    (hr : ∀ r ∈ s.renewed, r.live = true → r.pre = p → r.prim = h.holder → (s.pace - 1) / 1000 * 1000 ≤ r.time) :
    exec (.leaseRenewal p) s = .next s := by
  have hn : lacking s p h = [] := by
    refine List.filter_eq_nil_iff.mpr fun r hm hq => ?_
    simp only [Bool.and_eq_true, beq_iff_eq, decide_eq_true_eq] at hq
    obtain ⟨⟨⟨hl, hp⟩, hh⟩, ht⟩ := hq
    exact absurd ht (Nat.not_lt.mpr (hr r hm hl hp hh))
  rw [leaseRenewal_eq hf, hn, List.foldl_nil]

theorem leaseRenewal_one {r : Renewed} (hf : Renews s p h)
    (hr : s.renewed.filter (fun r => r.live && r.pre == p && r.prim == h.holder && decide (r.time < (s.pace - 1) / 1000 * 1000)) = [r]) :
    exec (.leaseRenewal p) s = .next (renewOne p h (lastMicro s) s r) := by
  rw [leaseRenewal_eq hf, show lacking s p h = [r] from hr, List.foldl_cons, List.foldl_nil]

/-- A renewal that arrives in its order. -/
theorem renewalReceive_eq {r : Renewal} (hf : s.renewals.find? (fun x => x.id == n) = some r) : exec (.renewalReceive (.flight n)) s =
    .next (if (s.echoes.any (fun e => e.dst == r.dst && decide (e.id < r.seq)) ||
      s.renewals.any (fun x => x.dst == r.dst && decide (x.seq < r.seq))) = true then s
      else ({ s with renewals := s.renewals.erase r } : State).takeRenewal r.pre r.src r.dst r.time) := by
  have hx : exec (.renewalReceive (.flight n)) s = execRenewalReceive (.flight n) s := rfl
  rw [hx, execRenewalReceive]
  dsimp only
  rw [hf]

theorem renewalReceive_taken {r : Renewal} (hf : s.renewals.find? (fun x => x.id == n) = some r)
    (he : ∀ e ∈ s.echoes, e.dst = r.dst → r.seq ≤ e.id) (hr : ∀ x ∈ s.renewals, x.dst = r.dst → r.seq ≤ x.seq) :
    exec (.renewalReceive (.flight n)) s =
      .next (({ s with renewals := s.renewals.erase r } : State).takeRenewal r.pre r.src r.dst r.time) := by
  rw [renewalReceive_eq hf, if_neg]
  simpa using And.intro he hr

theorem renewalReceive_waits {r : Renewal} (hf : s.renewals.find? (fun x => x.id == n) = some r)
    (hw : (∃ e ∈ s.echoes, e.dst = r.dst ∧ e.id < r.seq) ∨ ∃ x ∈ s.renewals, x.dst = r.dst ∧ x.seq < r.seq) :
    exec (.renewalReceive (.flight n)) s = .next s := by
  rw [renewalReceive_eq hf, if_pos (by simpa using hw)]

theorem renewalReceive_outside {x y m : Nat} (hx : x / 256 ≠ s.pkgNum) (hy : y / 256 = s.pkgNum) (hm : m ≤ s.pace)
    (he : ∀ e ∈ s.echoes, e.dst ≠ y) : exec (.renewalReceive (.outside p x y m)) s = .next (s.takeRenewal p x y m) := by
  refine congrArg Host.Outcome.next (if_neg ?_)
  rintro (h | h | h | h)
  · exact hx h
  · exact h hy
  · exact absurd hm (Nat.not_le.mpr h)
  · obtain ⟨e, hm, hd⟩ := List.any_eq_true.mp h
    exact he e hm (by simpa using hd)

theorem takeRenewal_eq (s : State) (p : Prefix) (x y m : Nat) : s.takeRenewal p x y m = s.modHolder p y (fun h => if h.st = .replica then
    { h with through := m, leaseEnd := m + 1000 * h.lease - (if x / 256 = s.pkgNum then 2 else 20) } else h) := by
  simp only [State.takeRenewal, beq_iff_eq]

end

/-! ## Reads (10 R162-R170, 13 R217-R223, 15 R255) -/

section
variable {s : State} {n : Nat} {g : Group} {o : MemOp} {c : Ctx}

theorem readRequest_load (s : State) (n : Nat) : exec (.readRequest (.load n)) s = .next (s.serveOp n false) := rfl

theorem readRequest_serves (ho : s.opOf n = some (g, o)) (hc : s.ctx? g.place.ctx = some c) : exec (.readRequest (.load n)) s =
    .next (s.serveFirst g c o (o.reqs.filter (fun r => !r.served && r.err.isNone && (decide (0 < r.routed) == false)))) := by
  simp only [readRequest_load, State.serveOp, ho, hc]

theorem readRequest_none (ho : s.opOf n = some (g, o)) (hr : ∀ x ∈ o.reqs, x.served = true ∨ x.err ≠ none ∨ 0 < x.routed) :
    exec (.readRequest (.load n)) s = .next s := by
  have hn : o.reqs.filter (fun r => !r.served && r.err.isNone && (decide (0 < r.routed) == false)) = [] := by
    refine List.filter_eq_nil_iff.mpr fun x hx => ?_
    rcases hr x hx with h | h | h
    · simp [h]
    · simp [h]
    · simp [Nat.pos_iff_ne_zero.mp h]
  rw [readRequest_load, State.serveOp, ho]
  dsimp only
  rw [hn]
  split <;> rfl

/-! ### A read of another package -/

variable {q k w p a f m : Nat} {h : HolderSt}

theorem readRequest_outside (s : State) (q k w p a f m : Nat) :
    exec (.readRequest (.outside q k w p a f m)) s = .next (s.readOutside q k w p a f m) := rfl

theorem readOutside_lends {t : State} (hh : s.holderState p (lineBase a) = some h) (hs : h.st = .primary) (hq : q ≠ s.pkgNum)
    (ho : s.objOfFa (lineBase a) = none) (hw : s.worldOk p (lineBase a) w = true) (hp : (s.lineAt p (lineBase a)).poison = false)
    (hl : s.lineWaits p (lineBase a) = false) (ht : s.touchPageAs q k (lineBase a) = some t) {u : State}
    (hu : (t.unitRead p (lineBase a)).sendTo ((t.unitRead p (lineBase a)).primRouter p) (lineBase a) (sharerId q) chanAnswer = u) :
    exec (.readRequest (.outside q k w p a f m)) s = .next { u with
      sharers := ⟨p, lineBase a, q, u.pace⟩ ::
        u.sharers.filter (fun x => !(x.prim == p && x.line == lineBase a && x.pkg == q)) } := by
  subst hu
  rw [readRequest_outside, State.readOutside]
  dsimp only
  rw [hh]
  dsimp only
  rw [if_neg (by simp [hq, hw, hp]), hs]
  dsimp only
  rw [if_neg (by simp [hl]), ho]
  dsimp only
  rw [ht]

theorem readOutside_refused (hh : s.holderState p (lineBase a) = some h) (hs : h.st = .draining ∨ h.st = .filling) :
    exec (.readRequest (.outside q k w p a f m)) s = .next (s.sendTo (s.primRouter p) (lineBase a) (sharerId q) chanAnswer) := by
  rw [readRequest_outside, State.readOutside]
  dsimp only
  rw [hh]
  dsimp only
  rcases hs with hs | hs
  · rw [hs]
    exact congrArg Host.Outcome.next (ite_self _)
  · rw [hs]
    exact congrArg Host.Outcome.next (ite_self _)

/-! ### A request of a load -/

variable {r : LineReq}

theorem tryReq_bad (hb : s.badOwn g.place.uid o r.line = true) :
    s.tryReq g c o r = s.setReq g.place.uid o.id { r with err := some 16 } := if_pos hb

theorem tryReq_forwarded {bs : List Byte} (hb : s.badOwn g.place.uid o r.line = false) (hp : r.toPrim = false)
    (hf : s.forwarded g.place.uid o r.line = some bs) : s.tryReq g c o r =
      s.setReq g.place.uid o.id { r with served := true, left := true, data := bs, source := 0, stamp := 0 } := by
  simp only [State.tryReq, hb, hp, hf, Bool.false_eq_true, if_false]

/-- No byte of the request comes from the buffer. -/
def unforwarded (s : State) (g : Group) (o : MemOp) (r : LineReq) : Prop := r.toPrim = true ∨ s.forwarded g.place.uid o r.line = none

theorem unforwarded_eq (h : unforwarded s g o r) : (if r.toPrim then none else s.forwarded g.place.uid o r.line) = none := by
  rcases h with h | h
  · rw [if_pos h]
  · rw [h, ite_self]

theorem tryReq_held (hb : s.badOwn g.place.uid o r.line = false) (hf : unforwarded s g o r) (hr : r.left = false)
    (hl : s.leaves g o r.line = false) : s.tryReq g c o r = s := by
  simp only [State.tryReq, hb, Bool.false_eq_true, if_false, unforwarded_eq hf]
  exact if_pos (by simp [hr, hl])

/-- A request as it leaves its core, with the floor that its group has then (10 R168). -/
def leaving (g : Group) (r : LineReq) : LineReq := if r.left then r else { r with left := true, floor := g.acc.rfloor.toNat }

theorem leaving_toPrim (g : Group) (r : LineReq) : (leaving g r).toPrim = r.toPrim := by
  unfold leaving
  split <;> rfl

theorem tryReq_hit {l : L1Line} (hb : s.badOwn g.place.uid o r.line = false) (hp : r.toPrim = false)
    (hf : s.forwarded g.place.uid o r.line = none) (hr : r.left = true ∨ s.leaves g o r.line = true)
    (hl : s.l1Find g.place.core c (((o.lanes.find? (fun a => lineBase a.fa == r.line)).map LaneAcc.gva).getD 0) (leaving g r).floor
      o.pl o.const = some l) : s.tryReq g c o r = (s.hitL1 l o.ret).setReq g.place.uid o.id
        { leaving g r with served := true, data := l.data, source := 1, stamp := l.stamp } := by
  have hy := (leaving_toPrim g r).trans hp
  unfold leaving at hl hy ⊢
  unfold State.tryReq
  dsimp only
  rw [if_neg (by simp [hb]), unforwarded_eq (.inr hf)]
  dsimp only
  rw [if_neg (by simpa [or_iff_not_imp_left] using hr), hy, if_neg Bool.false_ne_true, hl]

theorem tryReq_ends (hb : s.badOwn g.place.uid o r.line = false) (hp : r.toPrim = true) (hr : r.left = true) (hn : 16 ≤ r.routed) :
    s.tryReq g c o r = s.setReq g.place.uid o.id { r with err := some 13 } := by
  simp only [State.tryReq, hb, hp, hr, hn, Bool.false_eq_true, if_false, if_true, Bool.true_or, Bool.not_true]

/-! ### Where a read is routed -/

variable {v : Want} {gone : List Nat} {rh : RtHolder} {x : HolderSt}

theorem meets_here (hx : s.holderState rh.holder v.fa = some x) (hh : rh.holder / 256 = s.pkgNum) :
    (s.holderState rh.holder v.fa).filter (fun x => decide (rh.holder / 256 = s.pkgNum) || x.next.isSome && v.acq) = some x := by
  rw [hx, Option.filter_some, if_pos (by simp [hh])]

theorem fetchLine_routed (hl : s.leasedCopy v = none) (hr : s.routed v gone = some rh) {y : AtHolder} (hm : s.meets v rh = y) :
    (y = .toPrimary → s.fetchLine v gone = .refused none) ∧ ∀ z, y = .gone z → s.fetchLine v gone = .refused (some z) := by
  constructor
  · rintro rfl
    simp only [State.fetchLine, hl, hr, hm]
  · rintro z rfl
    simp only [State.fetchLine, hl, hr, hm]

theorem fetchLine_leaseOver (hl : s.leasedCopy v = none) (hr : s.routed v gone = some rh) (hx : s.holderState rh.holder v.fa = some x)
    (hs : x.st = .replica) (hh : rh.holder / 256 = s.pkgNum) (ha : v.acq = false) (ho : x.leaseEnd ≤ s.pace ∨ x.through < v.floor) :
    s.fetchLine v gone = .refused none := by
  refine (fetchLine_routed hl hr ?_).1 rfl
  rw [State.meets, meets_here hx hh]
  simp only [hs, ha, Bool.false_eq_true, if_false]
  exact if_neg (by omega)

theorem fetchLine_draining (hl : s.leasedCopy v = none) (hr : s.routed v gone = some rh) (hx : s.holderState rh.holder v.fa = some x)
    (hs : x.st = .draining) (hh : rh.holder / 256 = s.pkgNum) : s.fetchLine v gone = .refused (some rh.holder) := by
  refine (fetchLine_routed hl hr ?_).2 rh.holder rfl
  rw [State.meets, meets_here hx hh]
  simp only [hs]

/-! ### The end of a load (14 R232) -/

theorem loadComplete_eq (ho : s.opOf n = some (g, o)) :
    exec (.loadComplete n) s = .next (if o.finished then s.settleSend g.place.uid o.cls else s) := by
  have he : exec (.loadComplete n) s = execLoadComplete n s := rfl
  rw [he, execLoadComplete, ho]

theorem loadComplete_finished (ho : s.opOf n = some (g, o)) (hf : o.finished = true) :
    exec (.loadComplete n) s = .next (s.settleSend g.place.uid o.cls) := by
  rw [loadComplete_eq ho, if_pos hf]

theorem loadComplete_unfinished (ho : s.opOf n = some (g, o)) (hf : o.finished = false) : exec (.loadComplete n) s = .next s := by
  rw [loadComplete_eq ho, hf, if_neg Bool.false_ne_true]

end

/-- Settles O51: echoes by what their holder does with them, leases and fills by the record or the line they change, a read by the first
place that serves or refuses it. -/
theorem echoesLeasesAndReads : Obligations.EchoesLeasesAndReads := by
  unfold Obligations.EchoesLeasesAndReads
  refine fun s n => ⟨fun _ => echoReceive_taken, fun _ => echoReceive_waits, fun _ => echoFirst_iff, fun _ => takeEcho_atDraining,
    fun _ _ => rfl, fun _ => takeEcho_atReplica, fun _ => takeEcho_atFilling, fun _ _ _ _ _ _ => echoReceive_outsideTaken,
    fun _ _ _ _ _ _ => echoReceive_outsideWaits, fun _ _ => echoAckReceive_inTime, fun _ => echoAckReceive_late,
    fun _ _ => stampWct_known, fun _ => stampWct_unknown, fun _ _ => fillWrite_notFilling, fun _ _ _ hf hh hs => fillWrite_byte hf hh hs,
    fun _ _ _ _ _ => rfl, leaseEnd_eq s, fun _ => leaseRenewal_elsewhere, fun _ _ => leaseRenewal_issued,
    fun _ _ _ => leaseRenewal_one, fun _ => renewalReceive_taken, fun _ => renewalReceive_waits, fun _ _ _ _ => renewalReceive_outside,
    takeRenewal_eq s, fun _ _ _ => readRequest_serves, fun _ _ _ _ _ => rfl, fun _ _ => readRequest_none,
    fun _ _ _ _ _ _ _ _ _ hh hs hq ho hw hp hl ht _ => readOutside_lends hh hs hq ho hw hp hl ht,
    fun _ _ _ _ _ _ _ _ => readOutside_refused, fun _ _ _ _ => tryReq_bad, fun _ _ _ _ _ => tryReq_forwarded, ?hit,
    fun _ _ _ _ => tryReq_held, fun _ _ _ _ => tryReq_ends, fun _ _ _ _ => fetchLine_leaseOver, fun _ _ _ _ => fetchLine_draining,
    fun _ _ => loadComplete_finished, fun _ _ => loadComplete_unfinished⟩
  case hit =>
    rintro g c o r l y hb hp hf hr rfl hl
    exact tryReq_hit hb hp hf hr hl

end Sys2Proof.Proofs.Echoes

/-!
# The table of objects under the traffic of lines

The unit reads and writes of lines at their holders, the copies they invalidate and the packets they send leave the table of objects,
the far objects owned here and the number of the package as they are (`tablesOf`). What an object's transition does to its entry can so
be read off the entry, whatever its lines meet on their way home.
-/

namespace Sys2Proof.Proofs.ObjectTable

open Sys2Proof Sys2Proof.Machine Sys2Proof.Proofs.Translation Sys2Proof.Proofs.Routers

/-! ## Entries (11 R178) -/

section
variable {s : State} {n : Nat} {x : ObjEntry} {f : ObjEntry → ObjEntry}

theorem idx_of_obj? (h : s.obj? n = some x) : x.idx = n := by simpa using List.find?_some h

/-- The entry of a number after the entries of one number have changed and kept it. -/
theorem obj?_modObj (k : Nat) (hf : ∀ y, (f y).idx = y.idx) :
    (s.modObj n f).obj? k = (s.obj? k).map fun y => if y.idx == n then f y else y := by
  have hp : (fun o : ObjEntry => o.idx == k) ∘ (fun o : ObjEntry => if o.idx == n then f o else o) = fun o => o.idx == k := by
    funext o
    dsimp only [Function.comp_apply]
    split <;> simp [hf]
  rw [State.obj?, State.modObj, List.find?_map, hp]
  rfl

theorem obj?_modObj_self (hx : s.obj? n = some x) (hf : ∀ y, (f y).idx = y.idx := by intro; rfl) :
    (s.modObj n f).obj? n = some (f x) := by
  rw [obj?_modObj n hf, hx, Option.map_some, idx_of_obj? hx, if_pos (beq_self_eq_true n)]

end

/-! ## What the traffic of lines keeps -/

/-- The table of objects, the far objects owned here, and the number of the package. -/
structure Tables where
  objs : List ObjEntry
  owned : List FarOwned
  pkgNum : Nat

/-- These parts of a state. -/
def tablesOf (s : State) : Tables := ⟨s.objs, s.owned, s.pkgNum⟩

theorem ite_tables {p : Prop} [Decidable p] {t u : State} {r : Tables} (ht : tablesOf t = r) (hu : tablesOf u = r) :
    tablesOf (if p then t else u) = r := by
  split <;> assumption

section
variable (s : State)

/-! ### The caches of dies and base dies (13 R220, R227) -/

theorem putDram_tables (h a : Nat) (old : List Byte) : tablesOf (s.putDram h a old) = tablesOf s := by
  unfold State.putDram
  split <;> rfl

theorem dramWrite_tables (h a : Nat) (bs : List Byte) : tablesOf (s.dramWrite h a bs) = tablesOf s := putDram_tables _ h a _

theorem dramRead_tables (h a : Nat) : tablesOf (s.dramRead h a) = tablesOf s := by
  unfold State.dramRead
  split <;> rfl

theorem writeBack_tables (t : TagLine) : tablesOf (s.writeBack t) = tablesOf s := by
  unfold State.writeBack
  split
  · rfl
  · dsimp only
    split <;> exact putDram_tables s _ _ _

theorem evictTag_tables (t : TagLine) : tablesOf (s.evictTag t) = tablesOf s := writeBack_tables s t

theorem evictFor_tables (c : Nat) (t : TagLine) : tablesOf (s.evictFor c t) = tablesOf s := by
  unfold State.evictFor
  split <;> exact evictTag_tables _ t

theorem limitTags_tables (p l : Nat) : tablesOf (s.limitTags p l) = tablesOf s := by
  unfold State.limitTags
  dsimp only
  split
  · rfl
  · split <;> rfl

theorem touchTag_tables (p h a w c k : Nat) : tablesOf (s.touchTag p h a w c k) = tablesOf s := by
  have he := foldl_keeps (g := tablesOf) (fun u t => evictFor_tables u c t)
    (s.tags.filter (fun t => sameCache t.place p && t.line == lineBase a && (t.place != p || t.holder != h))) s
  unfold State.touchTag
  dsimp only
  split
  · exact (limitTags_tables _ _ _).trans he
  · split
    · exact he
    · refine (limitTags_tables _ _ _).trans ?_
      split
      · exact he
      · split
        · exact (evictFor_tables _ _ _).trans he
        · exact he

theorem ctlRead_tables (h a c k : Nat) : tablesOf (s.ctlRead h a c k) = tablesOf s := by
  have hd : tablesOf (if s.mscHit h a then s else s.dramRead h a) = tablesOf s := by
    split
    · rfl
    · exact dramRead_tables s h a
  unfold State.ctlRead
  dsimp only
  split
  · split
    · exact (touchTag_tables _ _ _ _ _ _ _).trans hd
    · exact hd
  · exact hd

theorem unitReadAs_tables (h a c k : Nat) : tablesOf (s.unitReadAs h a c k) = tablesOf s := by
  unfold State.unitReadAs
  split
  · exact ctlRead_tables s _ _ _ _
  · split
    · exact touchTag_tables s _ _ _ _ _ _
    · exact ctlRead_tables s _ _ _ _

theorem unitRead_tables (h a : Nat) : tablesOf (s.unitRead h a) = tablesOf s := unitReadAs_tables s _ _ _ _

theorem storeAt_tables (p : Option Nat) (h a c k : Nat) (bs : List Byte) : tablesOf (s.storeAt p h a c k bs) = tablesOf s := by
  unfold State.storeAt
  dsimp only
  split
  · exact dramWrite_tables s _ _ _
  · split
    · exact dramWrite_tables s _ _ _
    · exact touchTag_tables s _ _ _ _ _ _

/-! ### Packets and copies (21 R372, 13 R222) -/

theorem sendTo_tables (router fa holder chan : Nat) : tablesOf (s.sendTo router fa holder chan) = tablesOf s := by
  have h := congrArg tablesOf (sendTo_unsent s router fa holder chan)
  exact h

theorem dropOne_tables (line c : Nat) : tablesOf (s.dropOne line c) = tablesOf s := by
  unfold State.dropOne
  split
  · unfold State.dropL2
    split
    · exact evictTag_tables s _
    · rfl
  · rfl

theorem voidLine_tables (prim line : Nat) : tablesOf (s.voidLine prim line) = tablesOf s :=
  foldl_keeps (fun s c => dropOne_tables s line c) _ s

/-! ### Writes at a primary (10 R164) -/

theorem sendEchoes_tables (id prim addr : Nat) (bs : List Byte) (tree : Nat) (own : Bool) :
    tablesOf (s.sendEchoes id prim addr bs tree own).1 = tablesOf s := by
  unfold State.sendEchoes
  dsimp only
  refine (foldl_keeps (g := tablesOf) (fun u d => ?_) _ _).trans (foldl_keeps (fun u d => ?_) _ s) <;>
    exact sendTo_tables _ _ _ _ _

theorem applyBytes_tables (id prim addr : Nat) (bs : List Byte) (mc : Option (Nat × Nat)) (vdid ctx cls : Nat) (place : Option Nat) :
    tablesOf (s.applyBytes id prim addr bs mc vdid ctx cls place).1 = tablesOf s := by
  have hs := storeAt_tables s (place.or (s.serSlice prim)) prim addr ctx cls bs
  unfold State.applyBytes
  refine (sendEchoes_tables _ _ _ _ _ _ _).trans ?_
  split <;> exact hs

theorem poisonBad_tables (fa : Nat) : tablesOf (s.poisonBad fa) = tablesOf s :=
  foldl_keeps (g := tablesOf) (fun _ _ => by rfl) _ s

theorem countRead_tables (c h a : Nat) : tablesOf (s.countRead c h a) = tablesOf s := by
  unfold State.countRead
  dsimp only
  split <;> rfl

theorem countWrite_tables (p : Option Nat) (c a k : Nat) : tablesOf (s.countWrite p c a k) = tablesOf s := by
  unfold State.countWrite
  dsimp only
  (repeat' split) <;> rfl

theorem readOld_tables (w : WriteReq) : tablesOf (s.readOld w) = tablesOf s := by
  unfold State.readOld
  split
  · split
    · split
      · rfl
      · exact unitReadAs_tables s _ _ _ _
    · exact (unitReadAs_tables _ _ _ _ _).trans (countRead_tables s _ _ _)
  · rfl

theorem makeReadable_tables (w : WriteReq) : tablesOf (s.makeReadable w) = tablesOf s := by
  have hr := readOld_tables s w
  unfold State.makeReadable
  dsimp only
  refine ite_tables rfl (ite_tables (poisonBad_tables s _) ?_)
  split
  · exact hr
  · have ha (u : State) (d : List Byte) (hu : tablesOf u = tablesOf s) :
        tablesOf (u.applyBytes w.id w.prim w.addr d w.tree w.vdid w.ctx w.ret w.place).1 = tablesOf s :=
      (applyBytes_tables u _ _ _ _ _ _ _ _ _).trans hu
    have hc := ite_tables (p := w.prim / 256 = (s.readOld w).pkgNum ∨ w.place.isSome = true)
      ((countWrite_tables (s.readOld w) (w.place.or ((s.readOld w).serSlice w.prim)) w.ctx w.addr w.ret).trans hr) hr
    exact ite_tables (p := w.bad = true) (ha _ _ hc) (ha _ _ hc)

theorem landWrite_tables (w : WriteReq) : tablesOf (s.landWrite w) = tablesOf s :=
  (makeReadable_tables _ w).trans (foldl_keeps (fun s c => dropOne_tables s _ c) _ s)

theorem takeEcho_tables (e : Echo) : tablesOf (s.takeEcho e) = tablesOf s := by
  have hc (u : State) : tablesOf (u.copyBytes e.dst e.addr e.data e.time) = tablesOf u := dramWrite_tables u _ _ _
  have hv (u : State) : tablesOf (u.dropLeased (lineBase e.addr)) = tablesOf u := voidLine_tables u _ _
  have hi (p : Prop) [Decidable p] (u : State) (h : tablesOf u = tablesOf s) :
      tablesOf (if p then u.sendTo e.dst e.addr e.src chanAnswer else
        { u.fresh.2 with acks := u.fresh.2.acks ++ [⟨u.fresh.1, e.write, e.dst, u.fresh.2.pace⟩] }) = tablesOf s := by
    split
    · exact (sendTo_tables u _ _ _ _).trans h
    · exact h
  unfold State.takeEcho
  refine hi _ _ ?_
  split
  · split
    · exact hv _
    · rfl
  · split
    · rfl
    · split
      · exact hc _
      · exact hc _

theorem settleLine_tables (holder fa : Nat) : tablesOf (s.settleLine holder fa) = tablesOf s := by
  unfold State.settleLine
  dsimp only
  split
  · rfl
  · refine (foldl_keeps (fun s w => landWrite_tables s w) _ _).trans ?_
    split
    · exact foldl_keeps (fun s e => takeEcho_tables s e) _ s
    · rfl

/-! ### The package's own units -/

theorem arrive_tables (world a n : Nat) : tablesOf (s.arrive world a n) = tablesOf s := by
  refine foldl_keeps (fun s i => ?_) _ s
  dsimp only
  split
  · rfl
  · split
    · exact (unitRead_tables _ _ _).trans (settleLine_tables s _ _)
    · exact settleLine_tables s _ _

theorem unitWrite_tables (origin : Origin) (world vdid prim addr : Nat) (bs : List Byte) :
    tablesOf (s.unitWrite origin world vdid prim addr bs) = tablesOf s := by
  unfold State.unitWrite State.unitApply
  dsimp only
  split
  · exact (applyBytes_tables _ _ _ _ _ _ _ _ _ _).trans (voidLine_tables s _ _)
  · exact (applyBytes_tables _ _ _ _ _ _ _ _ _ _).trans (voidLine_tables s _ _)

theorem engineWrite_tables (world a : Nat) (bs : List Byte) : tablesOf (s.engineWrite world a bs) = tablesOf s := by
  unfold State.engineWrite
  split
  · rfl
  · dsimp only
    split
    · exact (unitWrite_tables _ _ _ _ _ _ _).trans (settleLine_tables s _ _)
    · exact settleLine_tables s _ _

theorem errorRecord_tables (e : ErrInfo) : tablesOf (s.errorRecord e) = tablesOf s := by
  have ha (a : Nat) : tablesOf (s.arrive 0 a 8) = tablesOf s := arrive_tables s 0 a 8
  unfold State.errorRecord
  dsimp only
  split
  · rfl
  · split
    · exact ha _
    · split
      · exact ha _
      · exact (engineWrite_tables _ _ _ _).trans (ha _)

end

/-! ## Reading the tables -/

section
variable {s t : State}

theorem objs_of_tables (h : tablesOf t = tablesOf s) : t.objs = s.objs := congrArg Tables.objs h

theorem owned_of_tables (h : tablesOf t = tablesOf s) : t.owned = s.owned := congrArg Tables.owned h

theorem pkgNum_of_tables (h : tablesOf t = tablesOf s) : t.pkgNum = s.pkgNum := congrArg Tables.pkgNum h

theorem obj?_of_tables (h : tablesOf t = tablesOf s) (n : Nat) : t.obj? n = s.obj? n := by
  rw [State.obj?, State.obj?, objs_of_tables h]

/-- A change of entries meets the same entries. -/
theorem modObj_tables (h : tablesOf t = tablesOf s) (n : Nat) (f : ObjEntry → ObjEntry) :
    tablesOf (t.modObj n f) = tablesOf (s.modObj n f) := by
  have ho := objs_of_tables h
  have hw := owned_of_tables h
  have hp := pkgNum_of_tables h
  change Tables.mk (t.objs.map _) t.owned t.pkgNum = Tables.mk (s.objs.map _) s.owned s.pkgNum
  rw [ho, hw, hp]

end

/-! ## Objects on their way home (11 R184, R185, R196) -/

section
variable (s : State) (o : ObjEntry)

/-- What an owner has written goes home: of the tables it changes the list of these lines. -/
theorem writtenHome_tables : tablesOf (s.writtenHome o) = tablesOf (s.modObj o.idx fun y => { y with wrote := [] }) := by
  unfold State.writtenHome
  refine modObj_tables ((foldl_keeps (fun u line => ?_) _ _).trans (foldl_keeps (fun u w => landWrite_tables u w) _ s)) _ _
  split
  · rfl
  · exact (unitWrite_tables _ _ _ _ _ _ _).trans ((foldl_keeps (fun v t => evictTag_tables v t) _ _).trans (settleLine_tables u _ _))

theorem dropObj_tables (core : Nat) : tablesOf (s.dropObj o core) = tablesOf s :=
  foldl_keeps (g := tablesOf) (fun _ _ => by rfl) _ s

theorem uncache_tables (p : Nat → Bool) : tablesOf (s.uncache o p) = tablesOf s :=
  foldl_keeps (fun s c => dropObj_tables s o c) _ s

theorem recallLine_tables (prim line : Nat) : tablesOf (s.recallLine prim line) = tablesOf s :=
  sendEchoes_tables s.fresh.2 s.nextId prim line [] 0 true

theorem recall_tables : tablesOf (s.recall o) = tablesOf s :=
  foldl_keeps (fun s _ => recallLine_tables s _ _) _ s

theorem poisonLines_tables (p : Bool) : tablesOf (s.poisonLines o p) = tablesOf s := by
  refine foldl_keeps (fun u fa => ?_) _ s
  dsimp only
  split <;> rfl

theorem setReq_tables (uid op : Nat) (r : LineReq) : tablesOf (s.setReq uid op r) = tablesOf s := by
  unfold State.setReq State.onGroup State.modGroup
  dsimp only
  split <;> rfl

theorem refuseHeld_tables (h : HeldReq) : tablesOf (s.refuseHeld h) = tablesOf s := by
  unfold State.refuseHeld
  split
  · rfl
  · split <;> rfl
  · split
    · rfl
    · split
      · rfl
      · exact setReq_tables s _ _ _

/-- An object that is lost keeps its place in the table. -/
theorem loseObject_tables (a : Nat) : tablesOf (s.loseObject o a) = tablesOf (s.modObj o.idx fun y =>
    { y with st := .ownerLost, lost := some a, snoop := none, away := [], wrote := [] }) := by
  unfold State.loseObject
  refine (errorRecord_tables _ _).trans ((foldl_keeps (fun u h => refuseHeld_tables u h) _ _).trans ?_)
  exact modObj_tables (poisonLines_tables s o true) _ _

end

/-! ## Lines of an object (09 R147, 11 R184) -/

/-- A state with other groups and other L1 lines, of which a walk reads nothing. -/
def withCores (s : State) (l1 : List L1Line) (cur : Group) (others : List Group) (out : List OutGroup) : State :=
  { s with l1 := l1, cur := cur, others := others, out := out }

section
variable (s : State) (l1 : List L1Line) (cur : Group) (others : List Group) (out : List OutGroup)

theorem heir_withCores (fa n h : Nat) : (withCores s l1 cur others out).heir fa n h = s.heir fa n h := by
  induction n generalizing h with
  | zero => rfl
  | succ n ih =>
    simp only [State.heir, ih]
    rfl

theorem homeFrom_withCores (router fa n : Nat) (gone : List Nat) :
    (withCores s l1 cur others out).homeFrom router fa n gone = s.homeFrom router fa n gone := by
  induction n generalizing gone with
  | zero => rfl
  | succ n ih =>
    simp only [State.homeFrom, ih, heir_withCores]
    rfl

theorem walkRead_withCores (die world fa : Nat) : (withCores s l1 cur others out).walkRead die world fa = s.walkRead die world fa := by
  have hh : (withCores s l1 cur others out).walkHome die fa = s.walkHome die fa := homeFrom_withCores s l1 cur others out _ _ _ _
  rw [State.walkRead, hh]
  rfl

theorem walk2_withCores (die world root ipa l : Nat) :
    (withCores s l1 cur others out).walk2 die world root ipa l = s.walk2 die world root ipa l := by
  simp only [State.walk2, walkRead_withCores]

theorem walk1_withCores (die world r1 r2 gva : Nat) :
    (withCores s l1 cur others out).walk1 die world r1 r2 gva = s.walk1 die world r1 r2 gva := by
  simp only [State.walk1, walk2_withCores, walkRead_withCores]

variable (o : ObjEntry)

theorem objFa_withCores (gva : Nat) : (withCores s l1 cur others out).objFa o gva = s.objFa o gva := by
  simp only [State.objFa, State.walkFrom, walk1_withCores, walk2_withCores]
  rfl

theorem isLine_withCores (fa : Nat) : (withCores s l1 cur others out).isLine o fa = s.isLine o fa := by
  simp only [State.isLine, State.objGva, objFa_withCores]

theorem fenced_withCores : (withCores s l1 cur others out).fenced o = s.fenced o := by
  simp only [State.fenced, State.objPages, objFa_withCores]
  rfl

theorem isLine_dropL1 (core line fa : Nat) : (s.dropL1 core line).isLine o fa = s.isLine o fa := isLine_withCores s _ _ _ _ o fa

theorem isLine_dropObj (core fa : Nat) : (s.dropObj o core).isLine o fa = s.isLine o fa :=
  foldl_keeps (g := fun u => u.isLine o fa) (fun u l => isLine_dropL1 u o core l fa) _ s

end

end Sys2Proof.Proofs.ObjectTable

/-!
# Contributions to an object

`red` is settled on its meaning `doRed` with the object that its elements name; `red.close` first on its issue and then on the close
of the leaf, which a waiting split makes. The entry into UPDATE comes last.
-/

namespace Sys2Proof.Proofs.Reductions

open Sys2Proof Sys2Proof.Machine Sys2Proof.Proofs.Translation Sys2Proof.Proofs.ObjectTable

/-! ## Accesses that no merge keeps out (11 R189, 14 R237) -/

/-- An access without a gate whose elements pass is performed, whether or not an object is under merge. -/
theorem access_ungated {u t : State} {c : Ctx} {acc : Access} {needs : Needs} {prim : Bool} {es : List Elem}
    {oks : List (Elem × Nat)} {stall : State → Option (HeldOp → Wait)} {k : List (Elem × Nat) → HeldOp}
    {go : State → HeldOp → State} (hc : u.myCtx = some c)
    (ha : u.checkAll c acc needs prim es = (oks.map (fun e => (e.1, Chk.ok e.2)), t))
    (hr : u.scp.rel = true → u.relOk u.scp.scope u.nextId = true) (hs : stall t = none) :
    access u acc needs prim false es stall k go = .ok (go t (k oks)) := by
  have hw : (u.scp.rel && !u.relOk u.scp.scope u.nextId) = false := by
    cases hx : u.scp.rel
    · rfl
    · simp [hr hx]
  have busy : oks.filterMap (fun e => (t.objOfFa e.2).filter fun o => false && t.underMerge o) = [] := by
    simp
  simp only [access, hc, ha, Laws.Access.firstTrap_ok, List.filterMap_map, Function.comp_def, List.filterMap_some,
    List.filterMap_none, Prod.mk.eta]
  rw [busy]
  simp [hw, hs]

/-! ## The object of a `red` (11 R187) -/

theorem findSome?_of_all {α β : Type} {f : α → Option β} {b : β} {l : List α} (hl : l ≠ []) (h : ∀ a ∈ l, f a = some b) :
    l.findSome? f = some b := by
  obtain ⟨a, as, rfl⟩ := List.exists_cons_of_ne_nil hl
  rw [List.findSome?_cons, h a List.mem_cons_self]

/-- A lane's value of `red`: one register, or a pair for elements of 8 bytes (11 R188). -/
def redVal (s : State) (b : Nat) (o : ObjEntry) (l : Lane) : BitVec 64 :=
  BitVec.ofNat 64 ((s.vlane b l).toNat + if o.esize = 8 then (s.vlane (b + 1) l).toNat * 2 ^ 32 else 0)

section
variable {s t : State} {a b : BitVec 7} {g : BitVec 4} {o : ObjEntry} {c : Ctx} {k l tag : Nat}

theorem issued_bad (s : State) (i : Instr) : (s.issued i).cur.regs.bad = s.cur.regs.bad := by
  unfold State.issued State.useFlags
  split <;> rfl

theorem issued_objAt (s : State) (i : Instr) (v x : Nat) : (s.issued i).objAt v x = s.objAt v x := by
  simp only [State.objAt, State.issued_objs]

theorem red_waits (h : s.split.acq ≠ []) : NotYet (.red a b g) s .acq :=
  Laws.Issue.notYet_at (body := doRed a b.toNat g.toNat) rfl (by simp [doRed, h])

theorem red_no_lane (ha : s.split.acq = []) (he : (s.issued (.red a b g)).elemsP a 4 = []) : Does (.red a b g) s id :=
  Laws.Issue.does_at (body := doRed a b.toNat g.toNat) rfl (by simp [doRed, ha, he])

theorem red_no_object (ha : s.split.acq = []) (he : (s.issued (.red a b g)).elemsP a 4 ≠ [])
    (ho : ∀ e ∈ (s.issued (.red a b g)).elemsP a 4, s.objAt s.myVdid e.gva = none) : Traps (.red a b g) s 17 0 0 := by
  have none : ((s.issued (.red a b g)).elemsP a 4).findSome? (fun e => s.objAt s.myVdid e.gva) = none :=
    List.findSome?_eq_none_iff.mpr ho
  exact Laws.Issue.traps_at (body := doRed a b.toNat g.toNat) rfl (by simp [doRed, ha, he, issued_objAt, none])

/-- The registers of a pair hold no error where `red` reads a pair. -/
theorem wideBad_of (h : o.esize = 8 → ∀ x ∈ s.cur.regs.bad, x.1 = .v (b.toNat + 1) → s.exec.getLsbD x.2 = false) :
    (decide (o.esize = 8) && s.cur.regs.bad.any fun x => x.1 == .v (b.toNat + 1) && s.exec.getLsbD x.2) = false := by
  by_cases hw : o.esize = 8
  · simpa [hw] using h hw
  · simp [hw]

theorem red_mismatch (ha : s.split.acq = []) (he : (s.issued (.red a b g)).elemsP a 4 ≠ [])
    (ho : ∀ e ∈ (s.issued (.red a b g)).elemsP a 4, s.objAt s.myVdid e.gva = some o)
    (hb : o.esize = 8 → ∀ x ∈ s.cur.regs.bad, x.1 = .v (b.toNat + 1) → s.exec.getLsbD x.2 = false)
    (hm : (o.esize = 8 ∧ b.toNat % 2 = 1) ∨ tagFits g.toNat o.fmt = false ∨ (o.ordered = true ∧ o.leaves ≤ s.cur.place.flat)) :
    Traps (.red a b g) s 18 0 0 := by
  refine Laws.Issue.traps_at (body := doRed a b.toNat g.toNat) rfl ?_
  simp only [doRed, State.issued_acq, ha, State.issued_myVdid, issued_objAt, findSome?_of_all he ho, issued_bad, Frames.issued_exec,
    wideBad_of hb, State.issued_place, List.isEmpty_nil, Bool.not_true, Bool.false_eq_true, if_false]
  rw [if_pos]
  rcases hm with ⟨hw, ho⟩ | ht | ⟨ho, hl⟩
  · simp [hw, ho]
  · simp [ht]
  · simp [ho, hl]

/-- What a `red` whose elements pass leaves: the flags of the combined lanes, and an operation with one fold for each element that its
lanes name (11 R188, 14 R232). -/
def redStored (s t : State) (b tag : Nat) (o : ObjEntry) (oks : List (Elem × Nat)) : State :=
  let rs := redElems tag (oks.map Prod.fst) (redVal s b o)
  (t.raise (rs.foldl (fun f r => f ||| r.2.2) 0)).startStore .red .drop 1 none none
    (rs.filterMap fun r => (oks.find? fun k => k.1 == r.1).map fun k => (⟨k.1.lane, k.1.gva, k.2, o.esize, none, false⟩, o.esize,
      WKind.fold o.idx o.ordered s.cur.place.flat tag k.1.gva r.2.1))

theorem doRed_performs {u t : State} {a : BitVec 7} {b tag : Nat} {o : ObjEntry} {c : Ctx} {oks : List (Elem × Nat)}
    (he : u.elemsP a 4 ≠ [])
    (ho : ∀ e ∈ u.elemsP a 4, u.objAt u.myVdid e.gva = some o ∧ o.element e.gva = some 0)
    (hb : (decide (o.esize = 8) && u.cur.regs.bad.any fun x => x.1 == .v (b + 1) && u.exec.getLsbD x.2) = false)
    (hw : o.esize = 8 → b % 2 = 0)
    (hl : o.st ≠ .ownerLost) (ht : tagFits tag o.fmt = true) (hf : o.ordered = true → u.cur.place.flat < o.leaves)
    (hs : u.switches o tag = false) (hc : Clear u u.cur.acc.st) (hr : u.sbRoom (u.elemsP a 4).length = true) (hx : u.myCtx = some c)
    (hk : u.checkAll c .write [tagCap tag o.fmt, 7] false ((u.elemsP a 4).map fun e => { e with size := o.esize }) =
      (oks.map (fun e => (e.1, Chk.ok e.2)), t)) (hm : redStall o.idx u.cur.place.flat tag t = none) :
    doRed a b tag u = .ok (redStored u t b tag o oks) := by
  obtain ⟨hq, -, hrel⟩ := id hc
  have hfits : (((u.elemsP a 4).map fun e => { e with size := o.esize }).any fun e =>
      !(u.objAt u.myVdid e.gva == some o && o.element e.gva == some 0)) = false := by
    rw [List.any_map, List.any_eq_false]
    intro e h
    simp [ho e h]
  have hwide : (decide (o.esize = 8) && decide (b % 2 = 1)) = false := by
    by_cases h : o.esize = 8
    · simp [hw h]
    · simp [h]
  have hleaf : (o.ordered && decide (o.leaves ≤ u.cur.place.flat)) = false := by
    cases h : o.ordered
    · rfl
    · simpa using hf h
  simp only [doRed, hq, findSome?_of_all he fun e h => (ho e h).1, hb, hfits, hwide, ht, hleaf, hl, List.isEmpty_nil, Bool.not_true,
    Bool.or_false, Bool.false_eq_true, if_false, Laws.Access.ordered_ok hc, hs, List.length_map, hr, Bool.false_and]
  rw [access_ungated hx hk hrel hm]
  simp only [State.perform, redStored, decide_eq_true_eq]
  rfl

theorem issued_redStored (s t : State) (i : Instr) (b tag : Nat) (o : ObjEntry) (oks : List (Elem × Nat)) :
    redStored (s.issued i) t b tag o oks = redStored s t b tag o oks := by
  have hv : redVal (s.issued i) b o = redVal s b o := by
    funext l
    simp only [redVal, Frames.issued_vlane]
  simp only [redStored, hv, State.issued_place]

theorem red_performs {oks : List (Elem × Nat)} (he : (s.issued (.red a b g)).elemsP a 4 ≠ [])
    (ho : ∀ e ∈ (s.issued (.red a b g)).elemsP a 4, s.objAt s.myVdid e.gva = some o ∧ o.element e.gva = some 0)
    (hw : o.esize = 8 → b.toNat % 2 = 0 ∧ ∀ x ∈ s.cur.regs.bad, x.1 = .v (b.toNat + 1) → s.exec.getLsbD x.2 = false)
    (hl : o.st ≠ .ownerLost) (ht : tagFits g.toNat o.fmt = true) (hf : o.ordered = true → s.cur.place.flat < o.leaves)
    (hs : (s.issued (.red a b g)).switches o g.toNat = false) (hc : Clear (s.issued (.red a b g)) s.cur.acc.st)
    (hr : (s.issued (.red a b g)).sbRoom ((s.issued (.red a b g)).elemsP a 4).length = true)
    (hx : (s.issued (.red a b g)).myCtx = some c)
    (hk : (s.issued (.red a b g)).checkAll c .write [tagCap g.toNat o.fmt, 7] false
      (((s.issued (.red a b g)).elemsP a 4).map fun e => { e with size := o.esize }) = (oks.map (fun e => (e.1, Chk.ok e.2)), t))
    (hm : redStall o.idx s.cur.place.flat g.toNat t = none) :
    Does (.red a b g) s (fun _ => redStored s t b.toNat g.toNat o oks) := by
  refine Laws.Issue.does_at (body := doRed a b.toNat g.toNat) rfl ?_
  rw [← issued_redStored s t (.red a b g)]
  refine doRed_performs he ?_ ?_ (fun h => (hw h).1) hl ht ?_ hs ?_ hr hx hk ?_
  · simpa only [State.issued_myVdid, issued_objAt] using ho
  · rw [issued_bad, Frames.issued_exec]
    exact wideBad_of fun h => (hw h).2
  · rwa [State.issued_place]
  · rwa [State.issued_acc]
  · rwa [State.issued_place]

end

/-! ## `red.close` (11 R192) -/

section
variable {s : State} {d e : BitVec 6} {o : ObjEntry} {i : Fin 4} {r idx n l k tag : Nat}

theorem redClose_holds (ho : s.objAt s.myVdid (s.sreg e.toNat).toNat = some o) (hl : o.st ≠ .ownerLost) :
    Holds (.redClose d e) s id (.answer .close d.toNat o.idx s.nextId) :=
  Laws.Issue.holds_at (body := doRedClose d.toNat e.toNat) rfl (by simp [doRedClose, issued_objAt, ho, hl])

theorem redClose_no_object (ho : s.objAt s.myVdid (s.sreg e.toNat).toNat = none) : Traps (.redClose d e) s 17 0 0 :=
  Laws.Issue.traps_at (body := doRedClose d.toNat e.toNat) rfl (by simp [doRedClose, issued_objAt, ho])

theorem redClose_lost (ho : s.objAt s.myVdid (s.sreg e.toNat).toNat = some o) (hl : o.st = .ownerLost) :
    Traps (.redClose d e) s 15 ((s.issued (.redClose d e)).faOf (s.sreg e.toNat).toNat) 0 :=
  Laws.Issue.traps_at (body := doRedClose d.toNat e.toNat) rfl (by simp [doRedClose, issued_objAt, ho, hl])

/-- A waiting `red.close` whose group's earlier contributions have folded answers the status of the close. -/
theorem completeHeld_close (hr : s.cur.ctl.runs i = true) (hw : (s.cur.ctl.split i).wait = .answer .close r idx n)
    (hd : s.cur.redsDone n = true) : s.completeHeld i = (s.finishClose idx s.cur.place.flat).2.answer s.cur.place.uid i r
      (BitVec.ofNat 64 (s.finishClose idx s.cur.place.flat).1) := by
  unfold State.completeHeld
  simp only [hr, hw, hd, Bool.not_true, Bool.false_eq_true, if_false, if_true]

theorem finishClose_ordered (ho : s.obj? idx = some o) (hs : o.st = .update) (hm : o.ordered = true) :
    s.finishClose idx l = s.closeLeaf o l := by
  simp [State.finishClose, ho, hs, hm]

theorem finishClose_noUpdate (ho : s.obj? idx = some o) (hs : o.st ≠ .update) : s.finishClose idx l = (11, s) := by
  simp [State.finishClose, ho, hs]

theorem closeLeaf_nothing (hl : o.late.contains l = false) (h : o.isOpen = false ∨ o.closed.contains l = true ∨ o.leaves ≤ l) :
    s.closeLeaf o l = (0, s) := by
  have hn : (!o.isOpen || o.closed.contains l || decide (o.leaves ≤ l)) = true := by
    rcases h with h | h | h <;> simp only [h, Bool.not_false, Bool.true_or, Bool.or_true, decide_true]
  simp only [State.closeLeaf, hl, hn, Bool.false_eq_true, if_false, if_true]

theorem closeLeaf_late (hl : o.late.contains l = true) :
    s.closeLeaf o l = (10, s.modObj o.idx fun y => { y with late := y.late.filter fun x => x != l }) := by
  simp only [State.closeLeaf, hl, if_true]

/-! ## What holds a `red` back (11 R189, R191) -/

theorem redStall_switch (ho : s.obj? k = some o) (hs : s.switches o tag = true) :
    redStall k l tag s = some (Wait.switch k tag s.nextId) := by
  simp only [redStall, ho, hs, if_true]

theorem redStall_closed (ho : s.obj? k = some o) (hs : s.switches o tag = false) (hp : o.isOpen = true)
    (hc : o.closed.contains l = true) : redStall k l tag s = some (Wait.merge k) := by
  simp only [redStall, ho, hs, hp, hc, Bool.and_self, Bool.false_eq_true, if_false, if_true]

theorem redStall_none (ho : s.obj? k = some o) (hs : s.switches o tag = false) (hc : o.closed.contains l = false) :
    redStall k l tag s = none := by
  simp only [redStall, ho, hs, hc, Bool.and_false, Bool.false_eq_true, if_false]

/-! ## Entry into UPDATE (11 R185, R191) -/

theorem ownedAway_update (hs : o.st = .update) : s.ownedAway o = false := by
  simp only [State.ownedAway, hs]

/-- An object that no owner has to be asked for first, and that is not in UPDATE, goes home with its written lines and leaves every
cache. -/
theorem enterUpdate_new (ho : s.obj? k = some o) (hl : o.st ≠ .ownerLost) (ha : s.ownedAway o = false) (hs : o.st ≠ .update)
    (hm : o.isMember = false) : s.enterUpdate k tag = (((s.writtenHome o).uncache o fun _ => true).recall o).modObj k
      fun y => { y with st := .update, tag := tag, isOpen := y.isOpen || y.ordered } := by
  simp only [State.enterUpdate, ho, hl, ha, hs, hm, if_false, if_true, Bool.false_eq_true, false_and, ne_eq, not_false_eq_true]

theorem enterUpdate_same (ho : s.obj? k = some o) (hs : o.st = .update) (ht : o.tag = tag) : s.enterUpdate k tag =
    s.modObj k fun y => { y with st := .update, tag := tag, isOpen := y.isOpen || y.ordered } := by
  simp [State.enterUpdate, ho, ownedAway_update hs, hs, ht]

end

/-! ## The lines of an object in the cores (11 R185) -/

section
variable {s : State} {o : ObjEntry} {l : L1Line} {c : Nat}

theorem mem_of_dropL1 {line : Nat} (h : l ∈ (s.dropL1 c line).l1) : l ∈ s.l1 := List.mem_of_mem_filter h

/-- What is left after a fold of steps that only take lines away was there before it, and after the step of each element. -/
theorem mem_of_foldl {α : Type} {f : State → α → State} (hf : ∀ u a, l ∈ (f u a).l1 → l ∈ u.l1) {as : List α}
    (h : l ∈ (as.foldl f s).l1) : l ∈ s.l1 := by
  induction as generalizing s with
  | nil => exact h
  | cons a as ih => exact hf s a (ih h)

theorem mem_of_foldl_step {α : Type} {f : State → α → State} {p : State → Prop} (hf : ∀ u a, l ∈ (f u a).l1 → l ∈ u.l1)
    (hp : ∀ u a, p u → p (f u a)) {as : List α} {a : α} (ha : a ∈ as) (hs : p s) (h : l ∈ (as.foldl f s).l1) :
    ∃ u, p u ∧ l ∈ (f u a).l1 := by
  induction as generalizing s with
  | nil => cases ha
  | cons b as ih =>
    rcases List.mem_cons.mp ha with rfl | ha
    · exact ⟨s, hs, mem_of_foldl hf h⟩
    · exact ih ha (hp s b hs) h

theorem mem_of_dropObj (h : l ∈ (s.dropObj o c).l1) : l ∈ s.l1 := mem_of_foldl (fun _ _ => mem_of_dropL1) h

/-- No line of the object is left in a core that it has left. -/
theorem isLine_of_mem_dropObj (h : l ∈ (s.dropObj o l.core).l1) (hc : l.const = false) : s.isLine o l.fline = false := by
  by_contra hi
  rw [Bool.not_eq_false] at hi
  have hm : l.fline ∈ (s.l1.filter fun x => x.core == l.core && !x.const && s.isLine o x.fline).map L1Line.fline :=
    List.mem_map_of_mem (List.mem_filter.mpr ⟨mem_of_dropObj h, by simp [hc, hi]⟩)
  obtain ⟨u, -, hu⟩ := mem_of_foldl_step (p := fun _ => True) (fun _ _ => mem_of_dropL1) (fun _ _ _ => trivial) hm trivial h
  rw [Writes.const_of_mem_dropL1 hu rfl rfl] at hc
  cases hc

theorem mem_of_uncache {p : Nat → Bool} (h : l ∈ (s.uncache o p).l1) : l ∈ s.l1 := mem_of_foldl (fun _ _ => mem_of_dropObj) h

/-- An object whose lines leave every core has none left in an L1. -/
theorem isLine_of_mem_uncache (h : l ∈ (s.uncache o fun _ => true).l1) (hc : l.const = false) : s.isLine o l.fline = false := by
  by_contra hi
  rw [Bool.not_eq_false] at hi
  have hm : l.core ∈ ((s.l1.filter fun x => true && !x.const && s.isLine o x.fline).map L1Line.core).eraseDups :=
    List.mem_eraseDups.mpr (List.mem_map_of_mem (List.mem_filter.mpr ⟨mem_of_uncache h, by simp [hc, hi]⟩))
  obtain ⟨u, hu, hl⟩ := mem_of_foldl_step (p := fun u => u.isLine o l.fline = true) (fun _ _ => mem_of_dropObj)
    (fun u k hu => (isLine_dropObj u o k _).trans hu) hm hi h
  rw [isLine_of_mem_dropObj hl hc] at hu
  cases hu

end

/-- Settles O35: `red` by its meaning at the object that its elements name, `red.close` by its issue and by the close that a waiting split
makes, the entry into UPDATE by the state in which the object stands. -/
theorem reductions : Obligations.Reductions := by
  unfold Obligations.Reductions
  refine fun s a b g d e => ⟨fun o c oks t he ho hw hl ht hf hs hc hr hx hk hm => red_performs he ho hw hl ht hf hs hc hr hx hk hm,
    red_waits, red_no_lane, fun o => red_mismatch, red_no_object, fun o => redClose_holds, redClose_no_object, ?close,
    fun o l => closeLeaf_nothing, fun o l => closeLeaf_late, fun o k l tag => redStall_switch, fun o k l tag => redStall_closed,
    fun o k l tag ho hs _ hc => redStall_none ho hs hc, fun o => redClose_lost, fun o k tag => enterUpdate_new,
    fun o k tag => enterUpdate_same, fun o l h => ⟨mem_of_uncache h, isLine_of_mem_uncache h⟩, ?noUpdate⟩
  case close =>
    intro i r o idx n hr hw hd ho hs hm
    rw [completeHeld_close hr hw hd, finishClose_ordered ho hs hm]
  case noUpdate =>
    intro i r o idx n hr hw hd ho hs
    rw [completeHeld_close hr hw hd, finishClose_noUpdate ho hs]
    rfl

end Sys2Proof.Proofs.Reductions

/-!
# Objects are declared, dropped, synchronised and reclaimed

Each `cobj` instruction is settled by an equation of its meaning for each of its answers, at the state in which it has issued.
-/

namespace Sys2Proof.Proofs.ObjectInstructions

open Sys2Proof Sys2Proof.Machine Sys2Proof.Proofs.ObjectTable Sys2Proof.Proofs.Reductions

/-! ## The state in which an instruction has issued -/

section
variable (s : State) (i : Instr)

theorem issued_objIndex (n : Int) : (s.issued i).objIndex n = s.objIndex n := by
  simp only [State.objIndex, State.objRange, State.issued_vregs, State.issued_myVdid]
  rfl

theorem issued_obj? (n : Nat) : (s.issued i).obj? n = s.obj? n := by
  simp only [State.obj?, State.issued_objs]

/-- Walks read nothing of a group, so that an agent is fenced or not whatever has issued. -/
theorem issued_fenced (x : ObjEntry) : (s.issued i).fenced x = s.fenced x := by
  rw [State.issued_outside]
  exact fenced_withCores s s.l1 _ s.others s.out x

end

/-! ## Records read by the issuing group (14 R411) -/

section
variable {u t : State} {bs : List Byte} {prim more : Bool} {k : State → List Byte → Act}

/-- A read that passes and that nothing holds back hands its bytes on. -/
theorem readFrom_of_readsFrom {es : List Elem} (h : ReadsFrom prim u es bs t) : readFrom prim more u es k = k t bs := by
  obtain ⟨c, oks, v, w, stamp, hq, hc, ha, hh, hm, hr, rfl⟩ := h
  have busy : (oks.filterMap fun x => v.objOfFa x.2).filter v.underMerge = [] := by
    rw [List.filter_eq_nil_iff]
    intro o ho
    obtain ⟨e, he, hf⟩ := List.mem_filterMap.mp ho
    simp [hm e he o hf]
  have hws : (oks.map fun x => ((⟨u.cur.place.core, c.num, c.vdid, c.world, x.1.gva, x.2, u.cur.acc.rfloor.toNat, 1, false, prim,
      true, none⟩ : Want), x.1.size)) = oks.map (u.wants c prim) := rfl
  simp only [readFrom, hc, hq, ha, Laws.Access.firstTrap_ok, List.filterMap_map, Function.comp_def, List.filterMap_some,
    List.filterMap_none, Prod.mk.eta, hh, busy, hws, hr, List.isEmpty_nil, List.any_nil, Bool.not_true, Bool.false_eq_true, if_false]

theorem readLines_of_reads {gva n : Nat} (h : Reads u gva n bs t) : readLines more u gva n k = k t bs := by
  unfold readLines
  rcases h with ⟨hg, rfl, rfl⟩ | ⟨hg, v, hv, rfl⟩
  · rw [if_pos hg]
  · rw [if_neg (by omega), readFrom_of_readsFrom hv]

end

/-! ## What each instruction answers (11 R200) -/

section
variable {t : State} {d a n : Nat} {m : Int} {x : ObjEntry} {b : Bool}

theorem doCobjDecl_outside (h : t.objIndex m = none) : doCobjDecl d a m t = .ok (t.setSreg d 1) := by
  simp only [doCobjDecl, h]
  rfl

theorem doCobjDrop_outside (h : t.objIndex m = none) : doCobjDrop d m t = .ok (t.setSreg d 1) := by
  simp only [doCobjDrop, h]
  rfl

theorem doCobjSync_outside (h : t.objIndex m = none) : doCobjSync d b m t = .ok (t.setSreg d 1) := by
  simp only [doCobjSync, h]
  rfl

theorem doCobjReclaim_outside (h : t.objIndex m = none) : doCobjReclaim d m t = .ok (t.setSreg d 1) := by
  simp only [doCobjReclaim, h]
  rfl

section
variable (hn : t.objIndex m = some n)
include hn

theorem doCobjDrop_none (ho : t.obj? n = none) : doCobjDrop d m t = .ok (t.setSreg d 3) := by
  simp only [doCobjDrop, hn, ho]
  rfl

theorem doCobjSync_none (ho : t.obj? n = none) : doCobjSync d b m t = .ok (t.setSreg d 3) := by
  simp only [doCobjSync, hn, ho]
  rfl

theorem doCobjReclaim_none (ho : t.obj? n = none) : doCobjReclaim d m t = .ok (t.setSreg d 3) := by
  simp only [doCobjReclaim, hn, ho]
  rfl

variable (hx : t.obj? n = some x)
include hx

theorem doCobjDrop_lost (hs : x.st = .ownerLost) : doCobjDrop d m t = .ok (t.setSreg d 9) := by
  simp only [doCobjDrop, hn, hx, hs, if_true]
  rfl

theorem doCobjSync_lost (hs : x.st = .ownerLost) : doCobjSync d b m t = .ok (t.setSreg d 9) := by
  simp only [doCobjSync, hn, hx, hs, if_true]
  rfl

/-! ### `cobj.sync` -/

theorem doCobjSync_holds (hs : x.st ≠ .ownerLost) (ho : x.st = .update → x.owes t.cur.place.flat = false) :
    doCobjSync d b m t = .hold t (.answer .cobj d (2 * n + b.toNat) t.nextId) := by
  by_cases hu : x.st = .update
  · simp [doCobjSync, hn, hx, hu, ho hu]
  · simp [doCobjSync, hn, hx, hs, hu]

theorem doCobjSync_owes (hs : x.st = .update) (ho : x.owes t.cur.place.flat = true) : doCobjSync d b m t = .trap 4 0 0 := by
  simp [doCobjSync, hn, hx, hs, ho]

/-! ### `cobj.reclaim` -/

theorem doCobjReclaim_notLost (hs : x.st ≠ .ownerLost) : doCobjReclaim d m t = .ok (t.setSreg d 11) := by
  simp only [doCobjReclaim, hn, hx, hs, ne_eq, not_false_eq_true, if_true]
  rfl

theorem doCobjReclaim_notFenced (hs : x.st = .ownerLost) (hf : t.fenced x = false) :
    doCobjReclaim d m t = .ok (t.setSreg d 8) := by
  simp [doCobjReclaim, hn, hx, hs, hf]

theorem doCobjReclaim_shares (hs : x.st = .ownerLost) (hf : t.fenced x = true) :
    doCobjReclaim d m t = .ok (((t.poisonLines x false).modObj n (fun y => { y with st := .shared, lost := none, barred :=
      match y.lost with
      | some a => (a, t.pace) :: y.barred.filter (fun b => b.1 != a)
      | none => y.barred })).setSreg d 0) := by
  simp only [doCobjReclaim, hn, hx, hs, hf, ne_eq, not_true_eq_false, if_true, if_false]
  rfl

/-! ### `cobj.drop` -/

/-- An object leaves the table with its partials and merge nodes (11 R200). -/
def freed (u : State) (n : Nat) : State :=
  { u with
    objs := u.objs.filter fun y => y.idx != n
    partials := u.partials.filter fun p => p.obj != n
    nodes := u.nodes.filter fun m => m.obj != n }

/-- What is merged before an object leaves: what an owner here has written, and partials and the open round (11 R193). -/
def merged (t : State) (n : Nat) (x : ObjEntry) : State :=
  if x.isMember then (t.writtenHome x).collect x fun _ => true
  else if x.st = .update then (if x.ordered then (t.writtenHome x).forceRound n else (t.writtenHome x).collect x fun _ => true)
  else t.writtenHome x

/-- An object for which nobody has to be asked first leaves the table. -/
theorem doCobjDrop_frees (hs : x.st ≠ .ownerLost) (hq : x.st = .update → x.snoop = none ∧ x.away = []) :
    doCobjDrop d m t = .ok ((freed (merged t n x) n).setSreg d 0) := by
  have hw : ¬ (x.isMember = false ∧ x.st = .update ∧ (x.snoop.isSome = true ∨ x.away ≠ [])) := by
    rintro ⟨-, hu, h⟩
    obtain ⟨hp, ha⟩ := hq hu
    simp [hp, ha] at h
  simp only [doCobjDrop, hn, hx, hs, hw, if_false]
  rfl

end

end

/-! ### The end of `cobj.sync` (11 R195) -/

section
variable {s : State} {i : Fin 4} {r b n : Nat} {x : ObjEntry}

theorem finishSync_plain (ho : s.obj? x.idx = some x) (hone : ∀ y ∈ s.objs, y.idx = x.idx → y = x) (hm : x.isMember = false)
    (hs : x.st ≠ .ownerLost) (hu : x.st ≠ .update) (share : Bool) :
    s.finishSync x.idx share = (0, some x.roundRecord, s.modObj x.idx fun y => { y with mflags := 0 }) := by
  have hst : s.modObj x.idx (fun y => { y with mflags := 0, st := if share && y.st == ObjSt.update then ObjSt.shared else y.st }) =
      s.modObj x.idx fun y => { y with mflags := 0 } := by
    unfold State.modObj
    congr 1
    refine List.map_congr_left fun y hy => ?_
    by_cases hi : y.idx = x.idx
    · rw [hone y hy hi]
      simp [hu]
    · simp [hi]
  simp only [State.finishSync, ho, hs, hu, hm, if_false, Bool.false_eq_true, Option.getD_some, hst]

/-- A waiting `cobj.sync` whose group's contributions have folded answers with the record of a round that is over. -/
theorem completeHeld_sync (hr : s.cur.ctl.runs i = true) (hw : (s.cur.ctl.split i).wait = .answer .cobj r (2 * x.idx + b) n)
    (hb : b < 2) (hd : s.cur.redsDone n = true) (ho : s.obj? x.idx = some x) (hone : ∀ y ∈ s.objs, y.idx = x.idx → y = x)
    (hp : x.isOpen = false) (he : x.ended ≠ s.cycle) (hm : x.isMember = false) (hs : x.st ≠ .ownerLost) (hu : x.st ≠ .update) :
    s.completeHeld i = ((s.modObj x.idx fun y => { y with mflags := 0 }).answer s.cur.place.uid i r 0).setSreg (r + 1)
      x.roundRecord := by
  have hi : (2 * x.idx + b) / 2 = x.idx := by omega
  unfold State.completeHeld
  simp only [hr, hw, hd, hi, ho, finishSync_plain ho hone hm hs hu, Option.any_some, hp, he, decide_false, Bool.not_true,
    Bool.false_eq_true, Bool.or_false, if_false]
  simp [hu]

end

/-! ### `cobj.decl` (11 R180, R181, R200) -/

section
variable {u t v : State} {d a n fa : Nat} {m : Int} {x : ObjEntry} {bs : List Byte} {c : Ctx}

/-- The entry that a declaration makes of the two records that it has read. -/
def declared (t : State) (n : Nat) (bs : List Byte) : ObjEntry :=
  ⟨n, t.myVdid, t.myWorld, BitVec.ofNat 512 (ofLeBytes (bs.take 64)), BitVec.ofNat 256 (ofLeBytes ((bs.drop 64).take 32)),
    .shared, 15, 0, false, 0, 0, 0, false, [], 0, false, (t.myCtx.map Ctx.s1root).getD 0, none, none, 0, [], [], [], []⟩

/-- The home of an object's first line lies in another package (27 R400). -/
def homeAway (v : State) (x : ObjEntry) (fa : Nat) : Bool :=
  x.scope == 4 && (v.home fa).any fun h => h.holder / 256 != v.pkgNum

/-- The records are well formed, whichever entry holds them. -/
theorem shapeOk_congr {x y : ObjEntry} (hs : x.shape = y.shape) : shapeOk x = shapeOk y := by
  cases x; cases y; cases hs; rfl

theorem treeOk_congr {x y : ObjEntry} (hs : x.shape = y.shape) (ht : x.tree = y.tree) : treeOk x = treeOk y := by
  cases x; cases y; cases hs; cases ht; rfl

section
variable (hn : u.objIndex m = some n) (ha : (u.sreg a).toNat % 64 = 0) (hr : Reads u (u.sreg a).toNat 2 bs t)
include hn ha hr

theorem doCobjDecl_malformed (hx : (shapeOk (declared t n bs) && treeOk (declared t n bs)) = false) :
    doCobjDecl d a m u = .ok (t.setSreg d 1) := by
  simp only [doCobjDecl, hn, ha, ne_eq, not_true_eq_false, if_false]
  rw [readLines_of_reads hr]
  exact if_pos (congrArg not hx)

/-- A good pair whose home is reached, whose number and lines are free and whose partials fit becomes an entry. -/
theorem doCobjDecl_declares (hx : x = declared t n bs) (hs : shapeOk x = true) (ht : treeOk x = true) (hc : t.myCtx = some c)
    (hk : t.checkElem c .read [] false ⟨0, x.base, 64⟩ = (.ok fa, v)) (hf : t.obj? n = none)
    (ho : ∀ y ∈ t.objs, y.vdid = x.vdid → overlaps x y = false)
    (hp : x.ordered = true → x.lineCount * (if x.dom 1 = 2 then x.fan 1 else 32) ≤
      256 * bitsOf ((t.pkg.partDesc[c.part]?).getD 0).toNat 19 16)
    (hl : v.slotStatus x (homeAway v x fa) = 0) :
    doCobjDecl d a m u = .ok (State.setSreg { v.spendFree x with objs := v.objs ++ [{ x with
      st := if x.field 399 392 = 15 then .shared else .update
      tag := x.field 399 392
      home := fa
      isMember := homeAway v x fa }] } d 0) := by
  subst hx
  have lines : t.objs.any (fun y => y.vdid == t.myVdid && overlaps (declared t n bs) y) = false := by
    rw [List.any_eq_false]
    intro y hy
    rw [Bool.and_eq_true, beq_iff_eq]
    exact fun h => Bool.false_ne_true ((ho y hy h.1).symm.trans h.2)
  have store : ((declared t n bs).ordered && decide (256 * bitsOf ((t.pkg.partDesc[c.part]?).getD 0).toNat 19 16 <
      (declared t n bs).lineCount * (if (declared t n bs).dom 1 = 2 then (declared t n bs).fan 1 else 32))) = false := by
    cases h : (declared t n bs).ordered
    · rfl
    · simpa using hp h
  simp only [doCobjDecl, hn, ha, ne_eq, not_true_eq_false, if_false]
  rw [readLines_of_reads hr, ← declared]
  simp only [homeAway] at hl ⊢
  simp only [hs, ht, hc, hk, hf, lines, store, hl, Bool.and_self, Bool.not_true, Bool.false_eq_true, Option.isSome_none, if_false,
    not_true_eq_false]
  rw [← hc]
  rfl

end

end

/-! ## The instructions -/

/-- What an instruction's body leaves of the table of objects, its end leaves so. -/
theorem finish_obj? (t : State) (i : Instr) (s : State) (n : Nat) : (t.finish i s).obj? n = t.obj? n := by
  rw [Frames.finish_outside]
  rfl

section
variable {s : State} {d a : BitVec 6} {o : BitVec 8} {n : Nat} {x : ObjEntry} {f : State → State} {i : Instr} {m : Int}

theorem issued_objIndex_eq {r : Option Nat} (h : s.objIndex m = r) : (s.issued i).objIndex m = r :=
  (issued_objIndex s i m).trans h

theorem issued_obj?_eq {r : Option ObjEntry} (h : s.obj? n = r) : (s.issued i).obj? n = r :=
  (issued_obj? s i n).trans h

theorem decl_does (h : doCobjDecl d.toNat a.toNat ((s.issued (.cobjDecl d a o)).objNum o) (s.issued (.cobjDecl d a o)) =
    .ok (f (s.issued (.cobjDecl d a o)))) : Does (.cobjDecl d a o) s f :=
  Laws.Issue.does_at (body := fun t => doCobjDecl d.toNat a.toNat (t.objNum o) t) rfl h

theorem drop_does (h : doCobjDrop d.toNat ((s.issued (.cobjDrop d o)).objNum o) (s.issued (.cobjDrop d o)) =
    .ok (f (s.issued (.cobjDrop d o)))) : Does (.cobjDrop d o) s f :=
  Laws.Issue.does_at (body := fun t => doCobjDrop d.toNat (t.objNum o) t) rfl h

theorem reclaim_does (h : doCobjReclaim d.toNat ((s.issued (.cobjReclaim d o)).objNum o) (s.issued (.cobjReclaim d o)) =
    .ok (f (s.issued (.cobjReclaim d o)))) : Does (.cobjReclaim d o) s f :=
  Laws.Issue.does_at (body := fun t => doCobjReclaim d.toNat (t.objNum o) t) rfl h

/-- Both forms of `cobj.sync` have one meaning, which is told whether the object returns to SHARED. -/
def IsSync (i : Instr) (d : BitVec 6) (o : BitVec 8) (share : Bool) : Prop :=
  ∀ s, exec i s = issue i s fun t => doCobjSync d.toNat share (t.objNum o) t

theorem isSync_cobjSync : IsSync (.cobjSync d o) d o false := fun _ => rfl

theorem isSync_cobjSyncShared : IsSync (.cobjSyncShared d o) d o true := fun _ => rfl

section
variable {b : Bool} (hi : IsSync i d o b)
include hi

theorem sync_outside (hn : s.objIndex ((s.issued i).objNum o) = none) : Does i s fun t => t.setSreg d.toNat 1 :=
  Laws.Issue.does_at (hi s) (doCobjSync_outside (issued_objIndex_eq hn))

theorem sync_holds {k : Nat} (hk : b.toNat = k) (hn : s.objIndex ((s.issued i).objNum o) = some n) (hx : s.obj? n = some x)
    (hs : x.st ≠ .ownerLost) (ho : x.st = .update → x.owes s.cur.place.flat = false) :
    Holds i s id (.answer .cobj d.toNat (2 * n + k) s.nextId) := by
  refine Laws.Issue.holds_at (hi s) ?_
  rw [← State.issued_place s i] at ho
  rw [doCobjSync_holds (issued_objIndex_eq hn) (issued_obj?_eq hx) hs ho, hk, State.issued_outside s i]
  rfl

variable (hn : s.objIndex ((s.issued i).objNum o) = some n)
include hn

theorem sync_none (hx : s.obj? n = none) : Does i s fun t => t.setSreg d.toNat 3 :=
  Laws.Issue.does_at (hi s) (doCobjSync_none (issued_objIndex_eq hn) (issued_obj?_eq hx))

variable (hx : s.obj? n = some x)
include hx

theorem sync_lost (hs : x.st = .ownerLost) : Does i s fun t => t.setSreg d.toNat 9 :=
  Laws.Issue.does_at (hi s) (doCobjSync_lost (issued_objIndex_eq hn) (issued_obj?_eq hx) hs)

theorem sync_owes (hs : x.st = .update) (ho : x.owes s.cur.place.flat = true) : Traps i s 4 0 0 := by
  rw [← State.issued_place s i] at ho
  exact Laws.Issue.traps_at (hi s) (doCobjSync_owes (issued_objIndex_eq hn) (issued_obj?_eq hx) hs ho)

end

theorem cobjDrop_update (hn : s.objIndex ((s.issued (.cobjDrop d o)).objNum o) = some n) (hx : s.obj? n = some x)
    (hu : x.st = .update) (hp : x.snoop = none) (ha : x.away = []) (hr : Ready (.cobjDrop d o) s) :
    ∃ t, exec (.cobjDrop d o) s = .next t ∧ t.obj? n = none ∧ (∀ p ∈ t.partials, p.obj ≠ n) ∧ t.sreg d.toNat = 0 := by
  have hb := doCobjDrop_frees (t := s.issued (.cobjDrop d o)) (d := d.toNat) (issued_objIndex_eq hn) (issued_obj?_eq hx)
    (by simp [hu]) fun _ => ⟨hp, ha⟩
  generalize merged (s.issued (.cobjDrop d o)) n x = u at hb
  refine ⟨_, drop_does (f := fun _ => (freed u n).setSreg d.toNat 0) hb hr, ?_, ?_, ?_⟩
  · rw [finish_obj?]
    change (u.objs.filter _).find? _ = none
    rw [List.find?_eq_none]
    intro y hy
    simpa using (List.mem_filter.mp hy).2
  · rw [Frames.finish_outside]
    intro p hp
    have hp : p ∈ u.partials.filter fun p => p.obj != n := hp
    simpa using (List.mem_filter.mp hp).2
  · rw [State.sreg, Frames.finish_regs]
    exact State.sreg_setSreg_same _ d.isLt _

/-- Outside UPDATE no round is open, so that only a member's partials are merged. -/
theorem merged_of_not_update {t : State} (hu : x.st ≠ .update) :
    merged t n x = if x.isMember then (t.writtenHome x).collect x fun _ => true else t.writtenHome x := by
  simp only [merged, hu, if_false]

end

/-- Settles O36: each answer of a `cobj` instruction by the equation of its meaning, the end of `cobj.sync` by what a waiting split does. -/
theorem objectInstructions : Obligations.ObjectInstructions := by
  unfold Obligations.ObjectInstructions
  intro s d a o
  have reads {u : State} {n : Nat} {bs : List Byte} (h : Reads (s.issued (.cobjDecl d a o)) (s.sreg a.toNat).toNat n bs u) :
      Reads (s.issued (.cobjDecl d a o)) ((s.issued (.cobjDecl d a o)).sreg a.toNat).toNat n bs u := by
    rwa [State.issued_sreg]
  have aligned (h : (s.sreg a.toNat).toNat % 64 = 0) : ((s.issued (.cobjDecl d a o)).sreg a.toNat).toNat % 64 = 0 := by
    rwa [State.issued_sreg]
  refine ⟨fun h => decl_does (doCobjDecl_outside (issued_objIndex_eq h)),
    fun h => drop_does (doCobjDrop_outside (issued_objIndex_eq h)),
    sync_outside isSync_cobjSync, sync_outside isSync_cobjSyncShared,
    fun h => reclaim_does (doCobjReclaim_outside (issued_objIndex_eq h)),
    fun _ hn hx => drop_does (doCobjDrop_none (issued_objIndex_eq hn) (issued_obj?_eq hx)),
    fun _ => sync_none isSync_cobjSync, fun _ => sync_none isSync_cobjSyncShared,
    fun _ hn hx => reclaim_does (doCobjReclaim_none (issued_objIndex_eq hn) (issued_obj?_eq hx)),
    fun _ _ hn hx hs => drop_does (doCobjDrop_lost (issued_objIndex_eq hn) (issued_obj?_eq hx) hs),
    fun _ _ => sync_lost isSync_cobjSync, fun _ _ => sync_lost isSync_cobjSyncShared,
    fun n bs t hn ha hr x hs ht hx => ?malformed,
    fun n bs t hn ha hr x hx hs ht c fa v hc hk hf ho hp hl =>
      decl_does (doCobjDecl_declares (issued_objIndex_eq hn) (aligned ha) (reads hr) hx hs ht hc hk hf ho hp hl),
    fun n x hn hx hs hu => ?drop, fun _ _ => cobjDrop_update,
    fun _ _ => sync_holds isSync_cobjSync rfl, fun _ _ => sync_owes isSync_cobjSync,
    fun _ _ => sync_holds isSync_cobjSyncShared rfl, fun _ _ => sync_owes isSync_cobjSyncShared,
    fun _ _ _ _ _ => completeHeld_sync,
    fun _ _ hn hx hs => reclaim_does (doCobjReclaim_notLost (issued_objIndex_eq hn) (issued_obj?_eq hx) hs),
    fun _ x hn hx hs hf => reclaim_does (doCobjReclaim_notFenced (issued_objIndex_eq hn) (issued_obj?_eq hx) hs
      ((issued_fenced s _ x).trans hf)),
    fun _ x hn hx hs hf => reclaim_does (doCobjReclaim_shares (issued_objIndex_eq hn) (issued_obj?_eq hx) hs
      ((issued_fenced s _ x).trans hf))⟩
  case malformed =>
    rw [shapeOk_congr (y := declared t n bs) hs, treeOk_congr (y := declared t n bs) hs ht] at hx
    exact decl_does (doCobjDecl_malformed (issued_objIndex_eq hn) (aligned ha) (reads hr) hx)
  case drop =>
    refine drop_does ((doCobjDrop_frees (issued_objIndex_eq hn) (issued_obj?_eq hx) hs fun h => absurd h hu).trans ?_)
    rw [merged_of_not_update hu]
    rfl

end Sys2Proof.Proofs.ObjectInstructions

/-!
# Objects between their states

Partials and merge nodes first, then requests at the directory, snoops and their answers. Where a transition sends lines home, what it
does to the entry is read off the table of objects, which the traffic of lines keeps.
-/

namespace Sys2Proof.Proofs.ObjectEvents

open Sys2Proof Sys2Proof.Machine Sys2Proof.Proofs.Translation Sys2Proof.Proofs.ObjectTable Sys2Proof.Proofs.Reductions

section
variable {s : State} {n : Nat} {x : ObjEntry}

/-! ## Merge nodes (11 R189, R194) -/

theorem find?_replaced {α : Type} {p : α → Bool} {a : α} {l : List α} (h : p a = true) :
    (a :: l.filter fun x => !p x).find? p = some a := List.find?_cons_of_pos h

/-- A child's result stands at a node that none has reached before. -/
def firstResult (s : State) (n : Nat) (m : ChildMsg) : State :=
  { s with
    nodes := ⟨n, m.level, m.index, [(m.child, m.vals)], s.pace, false⟩ ::
      s.nodes.filter fun y => !(y.obj == n && y.level == m.level && y.index == m.index) }

/-- A node is not complete with its first result where it has more children than one. -/
theorem childArrive_first {m : ChildMsg} (k : Nat) (hx : s.obj? n = some x) (hm : x.isMember = false) (hf : x.fan m.level ≠ 1)
    (hn : s.nodes.find? (fun y => y.obj == n && y.level == m.level && y.index == m.index) = none) :
    s.childArrive n (k + 1) m =
      (firstResult s n m).modObj n fun y => { y with mflags := y.mflags ||| mflagsOf m.flags } := by
  have full : decide ([(m.child, m.vals)].length = x.fan m.level) = false := decide_eq_false (Ne.symm hf)
  simp only [State.childArrive, hx, hn, hm, full, Option.getD_none, List.any_nil, Bool.false_and, Bool.or_self, Bool.false_eq_true,
    if_false, Bool.not_false, if_true, List.nil_append]
  rfl

theorem mergeChildArrive_first {m : ChildMsg} (hx : s.obj? n = some x) (ho : x.ordered = true) (hu : x.st = .update)
    (hm : x.isMember = false) (hr : s.rejects x m = false) (hf : x.fan m.level ≠ 1)
    (hn : s.nodes.find? (fun y => y.obj == n && y.level == m.level && y.index == m.index) = none) :
    ∃ t, exec (.mergeChildArrive n (.child m)) s = .next t ∧ (t.obj? n).map ObjEntry.isOpen = some true ∧
      t.nodes.find? (fun y => y.obj == n && y.level == m.level && y.index == m.index) =
        some ⟨n, m.level, m.index, [(m.child, m.vals)], s.pace, false⟩ := by
  have he : exec (.mergeChildArrive n (.child m)) s = .next ((s.modObj n fun y => { y with isOpen := true }).childArrive n 8 m) := by
    have hd : exec (.mergeChildArrive n (.child m)) s = execMergeChildArrive n (.child m) s := rfl
    simp [hd, execMergeChildArrive, hx, ho, hu, hm, hr]
  have hopen : (s.modObj n fun y => { y with isOpen := true }).obj? n = some { x with isOpen := true } := obj?_modObj_self hx
  rw [childArrive_first 7 hopen hm hf hn] at he
  have hy : (firstResult (s.modObj n fun y => { y with isOpen := true }) n m).obj? n = some { x with isOpen := true } := hopen
  exact ⟨_, he, congrArg (Option.map ObjEntry.isOpen) (obj?_modObj_self hy), find?_replaced (by simp)⟩

theorem mergeChildArrive_rejected {m : ChildMsg} (hx : s.obj? n = some x) (ho : x.ordered = true) (hu : x.st = .update)
    (hm : x.isMember = false) (hr : s.rejects x m = true) :
    ∃ t y, exec (.mergeChildArrive n (.child m)) s = .next t ∧ t.nodes = s.nodes ∧ t.obj? n = some y ∧ y.isOpen = x.isOpen := by
  have he : exec (.mergeChildArrive n (.child m)) s = .next (s.modObj n fun o =>
      { o with late := o.late.filter fun l => l / o.span (m.level - 1) != m.index * o.fan m.level + m.child }) := by
    have hd : exec (.mergeChildArrive n (.child m)) s = execMergeChildArrive n (.child m) s := rfl
    simp [hd, execMergeChildArrive, hx, ho, hu, hm, hr]
  exact ⟨_, _, he, rfl, obj?_modObj_self hx, rfl⟩

theorem mergeChildArrive_ended {r : BitVec 64} (hx : s.obj? n = some x) (hm : x.isMember = true) (ho : x.ordered = true) :
    ∃ t y, exec (.mergeChildArrive n (.ended r)) s = .next t ∧ t.obj? n = some y ∧ y.isOpen = false ∧ y.closed = [] ∧
      y.round = r.toNat / 2 ^ 40 ∧ ∀ p ∈ t.partials, p.obj = x.idx → p.ordered = false := by
  have he : exec (.mergeChildArrive n (.ended r)) s = .next (s.memberRound x r.toNat) := by
    have hd : exec (.mergeChildArrive n (.ended r)) s = execMergeChildArrive n (.ended r) s := rfl
    simp [hd, execMergeChildArrive, hx, hm, ho]
  have hround : bitsOf r.toNat 63 40 = r.toNat / 2 ^ 40 := by
    have := r.isLt
    rw [ControlWrites.bitsOf_eq_div_mod]
    omega
  have hparts : ∀ p ∈ (s.memberRound x r.toNat).partials, p.obj = x.idx → p.ordered = false := by
    intro p hp hi
    have hp : p ∈ s.partials.filter fun y => !(y.obj == x.idx && y.ordered) := hp
    simpa [hi] using (List.mem_filter.mp hp).2
  obtain rfl := idx_of_obj? hx
  exact ⟨_, _, he, obj?_modObj_self hx, rfl, rfl, hround, hparts⟩

variable {y : MNode} {l k : Nat}

theorem mergeNodeTimeout_eq (hx : s.obj? n = some x)
    (hy : s.nodes.find? (fun y => y.obj == n && y.level == l && y.index == k) = some y) :
    exec (.mergeNodeTimeout n l k) s = .next (if 6 ≤ x.dom l ∧ y.first + x.tmo ≤ s.pace then s.fireNode n l k else s) := by
  have hd : exec (.mergeNodeTimeout n l k) s = execMergeNodeTimeout n l k s := rfl
  rw [hd, execMergeNodeTimeout, hx, hy]

/-! ## Requests at the directory (11 R185, 26 R398) -/

variable {r : ObjMsg}

theorem cobjDirectoryRequest_barred {t : Nat} (hx : s.obj? n = some x) (hb : (s.asker r.req, t) ∈ x.barred) (ht : r.sent < t) :
    exec (.cobjDirectoryRequest n r) s = .next s := by
  have hd : exec (.cobjDirectoryRequest n r) s = execCobjDirectoryRequest n r s := rfl
  rw [hd, execCobjDirectoryRequest, hx, Option.any_some, if_pos]
  exact List.any_eq_true.mpr ⟨_, hb, by simp [ht]⟩

theorem cobjDirectoryRequest_taken (hx : s.obj? n = some x) (hb : x.barred = []) :
    exec (.cobjDirectoryRequest n r) s = .next (s.request n r.req) := by
  have hd : exec (.cobjDirectoryRequest n r) s = execCobjDirectoryRequest n r s := rfl
  rw [hd, execCobjDirectoryRequest, hx, Option.any_some, hb, List.any_nil, if_neg Bool.false_ne_true]

theorem request_held {q : Snoop} {req : ObjReq} (hx : s.obj? n = some x) (hm : x.isMember = false) (hq : x.snoop = some q) :
    s.request n req = s.modObj x.idx fun y => { y with snoop := y.snoop.map fun w => { w with held := w.held ++ [.agent req] } } := by
  simp [State.request, hx, hm, hq, State.sendSnoop]

theorem request_directory {req : ObjReq} (hx : s.obj? n = some x) (hm : x.isMember = false) (hq : x.snoop = none) :
    s.request n req = s.directory x req := by
  simp [State.request, hx, hm, hq]

/-- A read leaves a SHARED object as it is, whether its request is discarded, held nowhere, or served. -/
theorem cobjDirectoryRequest_readShared {a t : Nat} (hx : s.obj? n = some x) (hq : x.snoop = none) (hs : x.st = .shared) :
    exec (.cobjDirectoryRequest n ⟨.read a, t⟩) s = .next s := by
  have hr : s.request n (.read a) = s := by
    simp [State.request, hx, hq, State.directory, hs]
  have hd : exec (.cobjDirectoryRequest n ⟨.read a, t⟩) s = execCobjDirectoryRequest n ⟨.read a, t⟩ s := rfl
  rw [hd, execCobjDirectoryRequest, hr, ite_self]

theorem directory_writeOwned {a o : Nat} (hs : x.st = .owned o) (hq : x.snoop = none) (ha : o ≠ a) : s.directory x (.write a) =
    (s.modObj x.idx fun y => { y with snoop := some ⟨o, s.pace, 1, false, false, [.agent (.write a)]⟩ }).sendTo (s.localId 0) x.home o
      chanReq := by
  simp [State.directory, hs, ha, State.sendSnoop, hq]

end

/-! ### Entry into UPDATE for a request (11 R185, R190) -/

section
variable {s : State} {n a g : Nat} {x : ObjEntry}

/-- The tables after an object has entered UPDATE from a state in which nobody has to be asked first. -/
theorem enterUpdate_tables (hx : s.obj? x.idx = some x) (hl : x.st ≠ .ownerLost) (ha : s.ownedAway x = false) (hs : x.st ≠ .update)
    (hm : x.isMember = false) : tablesOf (s.enterUpdate x.idx g) = tablesOf ((s.modObj x.idx fun y => { y with wrote := [] }).modObj x.idx
      fun y => { y with st := .update, tag := g, isOpen := y.isOpen || y.ordered }) := by
  rw [enterUpdate_new hx hl ha hs hm]
  exact modObj_tables ((recall_tables _ x).trans ((uncache_tables _ x _).trans (writtenHome_tables s x))) _ _

theorem enterUpdate_pkgNum (hx : s.obj? x.idx = some x) (hl : x.st ≠ .ownerLost) (ha : s.ownedAway x = false) (hs : x.st ≠ .update)
    (hm : x.isMember = false) : (s.enterUpdate x.idx g).pkgNum = s.pkgNum := by
  have h := pkgNum_of_tables (enterUpdate_tables (g := g) hx hl ha hs hm)
  exact h

theorem remember_here (hx : s.obj? x.idx = some x) (hl : x.st ≠ .ownerLost) (ho : s.ownedAway x = false) (hs : x.st ≠ .update)
    (hm : x.isMember = false) (ha : a / 256 = s.pkgNum) : s.remember x.idx a g = s.enterUpdate x.idx g := by
  rw [State.remember, enterUpdate_pkgNum hx hl ho hs hm]
  exact if_pos ha

/-- Another package that contributes is from now on an agent that may hold partials. -/
theorem remember_away (hx : s.obj? x.idx = some x) (hl : x.st ≠ .ownerLost) (ho : s.ownedAway x = false) (hs : x.st ≠ .update)
    (hm : x.isMember = false) (ha : a / 256 ≠ s.pkgNum) (hf : x.ordered = false) (hn : a ∉ x.away) :
    (s.remember x.idx a g).obj? x.idx = some { x with wrote := [], st := .update, tag := g, isOpen := x.isOpen || x.ordered,
                                                       away := x.away ++ [a] } := by
  have hw : (s.modObj x.idx fun y => { y with wrote := [] }).obj? x.idx = some { x with wrote := [] } := obj?_modObj_self hx
  have hy : (s.enterUpdate x.idx g).obj? x.idx =
      some { x with wrote := [], st := .update, tag := g, isOpen := x.isOpen || x.ordered } :=
    (obj?_of_tables (enterUpdate_tables hx hl ho hs hm) _).trans (obj?_modObj_self hw)
  rw [State.remember, enterUpdate_pkgNum hx hl ho hs hm]
  rw [if_neg ha, obj?_modObj_self hy (by intro; split <;> rfl), if_neg]
  have hf : ObjEntry.ordered { x with wrote := [], st := .update, tag := g, isOpen := x.isOpen || x.ordered } = false := hf
  simp [hf, hn]

theorem directory_redPriv {c : Nat} (hx : s.obj? x.idx = some x) (hm : x.isMember = false) (hs : x.st = .priv c)
    (ha : a / 256 = s.pkgNum) : s.directory x (.red a g) = (((s.writtenHome x).uncache x (fun _ => true)).recall x).modObj x.idx
      fun y => { y with st := .update, tag := g, isOpen := y.isOpen || y.ordered } := by
  have ho : s.ownedAway x = false := by simp only [State.ownedAway, hs]
  have hl : x.st ≠ .ownerLost := by simp [hs]
  have hu : x.st ≠ .update := by simp [hs]
  rw [← enterUpdate_new hx hl ho hu hm, ← remember_here hx hl ho hu hm ha]
  simp only [State.directory, hs]

theorem directory_redAway (hx : s.obj? x.idx = some x) (hm : x.isMember = false) (hs : x.st = .shared) (hf : x.ordered = false)
    (ha : a / 256 ≠ s.pkgNum) (hn : a ∉ x.away) :
    ∃ y, (s.directory x (.red a g)).obj? x.idx = some y ∧ y.st = .update ∧ y.tag = g ∧ y.away = x.away ++ [a] := by
  have ho : s.ownedAway x = false := by simp only [State.ownedAway, hs]
  have he : s.directory x (.red a g) = s.remember x.idx a g := by simp only [State.directory, hs]
  have hy := remember_away (g := g) hx (by simp [hs]) ho (by simp [hs]) hm ha hf hn
  exact ⟨_, (congrArg (State.obj? · x.idx) he).trans hy, rfl, rfl, rfl⟩

end

/-! ## Snoops (11 R196, 26 R397) -/

section
variable {s : State} {n : Nat} {x : ObjEntry} {q : Snoop}

theorem snoopReceive_away {l : Nat} {f : FarOwned} (hf : s.farOwner l = some f) :
    exec (.snoopReceive (.away l)) s = .next (s.giveFar f) := by
  have hd : exec (.snoopReceive (.away l)) s = execSnoopReceive (.away l) s := rfl
  simp only [hd, execSnoopReceive, hf]

/-- What another package's home has snooped is owned here no longer. -/
theorem giveFar_owned (s : State) (f : FarOwned) : (s.giveFar f).owned = s.owned.filter fun x => x.lines != f.lines := by
  have hl (u : State) (ls : List (Nat × Nat)) : tablesOf (ls.foldl (fun (s : State) x => s.dropL1 x.1 x.2) u) = tablesOf u :=
    foldl_keeps (g := tablesOf) (fun _ _ => by rfl) ls u
  unfold State.giveFar
  rw [owned_of_tables (sendTo_tables _ _ _ _ _)]
  refine congrArg (List.filter _) (owned_of_tables ((hl _ _).trans ?_))
  exact (foldl_keeps (fun u t => evictTag_tables u t) _ _).trans (foldl_keeps (fun u w => landWrite_tables u w) _ s)

/-- An answer counts for the snoop of its agent that is outstanding, in time, and once a die here has answered. -/
theorem snoopAnswer_discarded {m : AnswerMsg} (hx : s.obj? m.obj = some x) (hq : x.snoop = some q)
    (h : m.agent ≠ q.agent ∨ m.sent < q.sent ∨ q.sent + 20000 < s.pace) : exec (.snoopAnswer m) s = .next s := by
  have hd : exec (.snoopAnswer m) s = execSnoopAnswer m s := rfl
  simp only [hd, execSnoopAnswer, hx, hq]
  rw [if_pos]
  rcases h with h | h | h <;> simp [h]

theorem snoopAnswer_owned {a sent : Nat} {lines : List (Nat × List Byte)} {parts : List (Nat × BitVec 64)} (hx : s.obj? n = some x)
    (hq : x.snoop = some q) (hh : q.held = []) (hs : x.st = .owned a) (ha : q.agent / 256 = s.pkgNum → q.answered = true)
    (hp : s.pace ≤ q.sent + 20000) (ht : q.sent ≤ sent) : exec (.snoopAnswer ⟨n, q.agent, sent, lines, parts⟩) s =
      .next (((lines.filter (fun l => decide (q.agent / 256 ≠ s.pkgNum) && (s.objGva x l.1).isSome)).foldl
        (fun u l => u.engineWrite x.world (lineBase l.1) (l.2.take 64)) (s.writtenHome x)).modObj n fun y => { y with
          snoop := none
          away := y.away.filter (fun z => z != q.agent)
          st := match y.st with | .owned _ => .shared | z => z }) := by
  have hd : exec (.snoopAnswer ⟨n, q.agent, sent, lines, parts⟩) s = execSnoopAnswer ⟨n, q.agent, sent, lines, parts⟩ s := rfl
  simp only [hd, execSnoopAnswer, hx, hq, hh, hs, decide_not]
  rw [if_neg]
  · rfl
  · by_cases hi : q.agent / 256 = s.pkgNum
    · simp [hi, ha hi]
      omega
    · simp [hi]
      omega

theorem snoopRetry_sends (hx : s.obj? n = some x) (hq : x.snoop = some q) (ht : q.tries < 3) (hp : q.sent + 7000 * q.tries ≤ s.pace) :
    ∃ t, exec (.snoopRetry n) s = .next t ∧ t.obj? n = some { x with snoop := some { q with tries := q.tries + 1 } } := by
  have he : exec (.snoopRetry n) s = .next ((s.modObj n fun o =>
      { o with snoop := o.snoop.map fun n => { n with tries := n.tries + 1 } }).sendTo (s.localId 0) x.home q.agent chanReq) := by
    have hd : exec (.snoopRetry n) s = execSnoopRetry n s := rfl
    simp only [hd, execSnoopRetry, hx, hq, ht, hp, and_self, if_true]
  refine ⟨_, he, ?_⟩
  rw [obj?_of_tables (sendTo_tables _ _ _ _ _), obj?_modObj_self hx, hq]
  rfl

theorem snoopTimeout_eq (hx : s.obj? n = some x) (hq : x.snoop = some q) :
    exec (.snoopTimeout n) s = .next (if q.sent + 20000 ≤ s.pace then s.ownerLost x q.agent else s) := by
  have hd : exec (.snoopTimeout n) s = execSnoopTimeout n s := rfl
  rw [hd, execSnoopTimeout, hx]
  simp only [hq]

/-- An object whose agent in another package is lost is in OWNER_LOST and names it. -/
theorem ownerLost_away {a : Nat} (ha : a / 256 ≠ s.pkgNum) (hx : s.obj? x.idx = some x) :
    ∃ y, (s.ownerLost x a).obj? x.idx = some y ∧ y.st = .ownerLost ∧ y.lost = some a := by
  have ht := loseObject_tables s x a
  have hp : (s.loseObject x a).pkgNum = s.pkgNum := by
    have h := pkgNum_of_tables ht
    exact h
  have he : s.ownerLost x a = s.loseObject x a := by
    rw [State.ownerLost, hp]
    exact if_neg ha
  have hy := (obj?_of_tables ht x.idx).trans (obj?_modObj_self hx)
  exact ⟨_, (congrArg (State.obj? · x.idx) he).trans hy, rfl, rfl⟩

end

/-- Settles O37: nodes by what a message or a time-out finds at them, requests by the state of their object, snoops by their agent, number
and time; an entry whose lines go home is read off the table. -/
theorem objectEvents : Obligations.ObjectEvents := by
  unfold Obligations.ObjectEvents
  refine fun s n => ⟨?folds, fun x m => mergeChildArrive_first, fun x m => mergeChildArrive_rejected, fun x r => mergeChildArrive_ended,
    ?fires, ?waits, ?held, fun x r k => cobjDirectoryRequest_barred, fun x a k => cobjDirectoryRequest_readShared, ?redPriv, ?writeOwned,
    ?redAway, rfl, fun l f => snoopReceive_away, giveFar_owned s, fun x q a sent lines parts => snoopAnswer_owned,
    fun x q m => snoopAnswer_discarded, fun x q => snoopRetry_sends, ?inTime, ?late, fun x a => ownerLost_away⟩
  case folds =>
    intro x die fa hx
    have hd : exec (.partialFold n die fa) s = execPartialFold n die fa s := rfl
    rw [hd, execPartialFold, hx]
    rfl
  case fires =>
    intro x y l k hx hy hl ht
    rw [mergeNodeTimeout_eq hx hy, if_pos ⟨hl, ht⟩]
  case waits =>
    intro x y l k hx hy h
    rw [mergeNodeTimeout_eq hx hy, if_neg (by omega)]
  case held =>
    intro x q r hx hm hb hq
    rw [cobjDirectoryRequest_taken hx hb, request_held hx hm hq]
  case redPriv =>
    intro x a c k hx hm hb hq hs ha
    obtain rfl := idx_of_obj? hx
    rw [cobjDirectoryRequest_taken hx hb, request_directory hx hm hq, directory_redPriv hx hm hs ha]
  case writeOwned =>
    intro x a o k hx hm hb hq hs ha
    rw [cobjDirectoryRequest_taken hx hb, request_directory hx hm hq, directory_writeOwned hs hq ha]
  case redAway =>
    intro x a g k hx hm hb hq hs hf ha hn
    obtain rfl := idx_of_obj? hx
    obtain ⟨y, hy⟩ := directory_redAway (g := g) hx hm hs hf ha hn
    exact ⟨_, y, (cobjDirectoryRequest_taken hx hb).trans (by rw [request_directory hx hm hq]), hy⟩
  case inTime =>
    intro x q hx hq h
    rw [snoopTimeout_eq hx hq, if_neg (by omega)]
  case late =>
    intro x q hx hq h
    rw [snoopTimeout_eq hx hq, if_pos h]

end Sys2Proof.Proofs.ObjectEvents

/-!
# Accesses at their issue

Loads, stores, atomics and fences are settled by the laws of their shared operations; for accesses of the scratchpad, for traps, waits
and prefetches there is an equation of the meaning for each of its ends.
-/

namespace Sys2Proof.Proofs.AccessIssue

open Sys2Proof Sys2Proof.Machine Sys2Proof.Laws.Issue Sys2Proof.Laws.Access

/-! ## Meanings that agree where an instruction issues -/

/-- An issue asks its meaning at one state only, the one in which the instruction has issued. -/
theorem issue_congr {i : Instr} {s : State} {f g : State → Act} (h : f (s.issued i) = g (s.issued i)) :
    issue i s f = issue i s g := by
  simp only [State.issued, State.waitsFor] at h
  simp only [issue, issueState, h]

/-! ## Loads and fences (14 R233, R239) -/

/-- Settles O17: each load is `doLoad` with its elements and its destination, whose issue `load_of` states. -/
theorem loadsIssue : Obligations.LoadsIssue := by
  unfold Obligations.LoadsIssue
  intro s z y d x b o r k
  exact ⟨load_of rfl, load_of rfl, load_of rfl, load_of rfl⟩

/-- Settles O20: each fence is `doFence` with its scope, whose two ends `fence_of` states. -/
theorem fencesWait : Obligations.FencesWait := by
  unfold Obligations.FencesWait
  intro s k
  refine ⟨fence_of rfl, fence_of rfl, ?_⟩
  refine ⟨?_, ?_, ?_, ?_, ?_, ?_, ?_, ?_, ?_, ?_, ?_, ?_, ?_, ?_, ?_, ?_⟩ <;> exact fence_of rfl

/-! ## Stores (14 R233, R247) -/

theorem doStMc_port {t : State} {a b n ret : Nat} (h : (t.sreg (a + 1)).toNat < 16) : doStMc a b n ret t =
    doStore .mc ret (some (n, (t.sreg (a + 1)).toNat)) [⟨0, (t.sreg a).toNat, 8⟩] (fun _ => (t.sreg b).toNat) t :=
  if_neg (Nat.not_le.mpr h)

theorem doStMc_noPort {t : State} {a b n ret : Nat} (h : 16 ≤ (t.sreg (a + 1)).toNat) : doStMc a b n ret t = .trap 1 0 0 :=
  if_pos h

/-- Settles O18: each store is `doStore` with its elements and its bytes, whose issue `store_of` states; `st.mc` comes to one
where its port word names a port. -/
theorem storesIssue : Obligations.StoresIssue := by
  unfold Obligations.StoresIssue
  intro s z d x a b o n r
  refine ⟨store_of rfl, store_of rfl, store_of rfl, fun h => ?port, fun h => ?noPort⟩
  case port =>
    have hp : ((s.issued (.stMc a b n)).sreg (a.toNat + 1)).toNat < 16 := by rwa [State.issued_sreg]
    have he : exec (.stMc a b n) s = issue (.stMc a b n) s fun t => doStore .mc (t.retOf 1)
        (some (n.toNat, (s.sreg (a.toNat + 1)).toNat)) [⟨0, (t.sreg a.toNat).toNat, 8⟩] (fun _ => (t.sreg b.toNat).toNat) t :=
      issue_congr ((doStMc_port hp).trans (by simp only [State.issued_sreg]))
    exact store_of he
  case noPort =>
    refine traps_at rfl (doStMc_noPort ?_)
    rwa [State.issued_sreg]

/-! ## Atomics (14 R240-R242) -/

theorem doAtomS_eq (t : State) (p e a b : BitVec 6) (z : BitVec 2) : doAtomS p.toNat z.toNat e.toNat a.toNat b.toNat (t.retOf 1) t =
    doAtom p.toNat z.toNat (t.retOf 1) (.scalar e.toNat false) [⟨0, (t.sreg a.toNat).toNat, 4 * 2 ^ z.toNat⟩]
      (fun _ => (if p.toNat = 9 then t.sregs (b.toNat + (if z = 2 then 2 else 1)) (if z = 2 then 2 else 1)
        else t.sregs b.toNat (if z = 2 then 2 else 1)) % 2 ^ (8 * (4 * 2 ^ z.toNat)))
      (fun _ => t.sregs b.toNat (if z = 2 then 2 else 1) % 2 ^ (8 * (4 * 2 ^ z.toNat))) t := by
  have hz : z = 2 ↔ z.toNat = 2 := BitVec.toNat_inj.symm
  simp only [hz]
  rfl

/-- The bytes of a vector atomic's lane: a pair of registers at the size of eight bytes (14 R240). -/
theorem atomLane_eq (t : State) (z : BitVec 2) (n : Nat) (l : Lane) :
    (t.vlane n l).toNat + (if z.toNat = 1 then (t.vlane (n + 1) l).toNat * 2 ^ 32 else 0) = t.vsrc n (4 * 2 ^ z.toNat) l := by
  have hz : z.toNat = 1 ↔ 4 * 2 ^ z.toNat = 8 := by
    have := z.isLt
    interval_cases z.toNat <;> simp
  simp only [State.vsrc, hz]

theorem doAtomV_eq (t : State) (p : BitVec 6) (v w : BitVec 7) (z : BitVec 2) (q : BitVec 1) :
    doAtomV p.toNat z.toNat w.toNat (q == 1) (t.retOf 1) (t.elemsP v (atomBytes z.toNat)) t =
    doAtom p.toNat z.toNat (t.retOf 1) (if q = 1 then .vector w.toNat false (z == 1) else .drop) (t.elemsP v (4 * 2 ^ z.toNat))
      (fun e => t.vsrc (if p.toNat = 9 then w.toNat + z.toNat + 1 else w.toNat) (4 * 2 ^ z.toNat) e.lane)
      (fun e => t.vsrc w.toNat (4 * 2 ^ z.toNat) e.lane) t := by
  have hb : (z.toNat == 1) = (z == 1) := by
    rw [Bool.eq_iff_iff, beq_iff_eq, beq_iff_eq]
    exact BitVec.toNat_inj (y := 1)
  have hx : ∀ e : Elem, (if p.toNat = 9 then t.vsrc (w.toNat + z.toNat + 1) (4 * 2 ^ z.toNat) e.lane
      else t.vsrc w.toNat (4 * 2 ^ z.toNat) e.lane) =
      t.vsrc (if p.toNat = 9 then w.toNat + z.toNat + 1 else w.toNat) (4 * 2 ^ z.toNat) e.lane :=
    fun e => (apply_ite (t.vsrc · _ e.lane) _ _ _).symm
  unfold doAtomV
  simp only [atomLane_eq, hb, beq_iff_eq, ← Nat.add_assoc, hx]
  rfl

/-- Settles O19: each atomic is `doAtom` with the operands of its elements, whose issue `atom_of` states. -/
theorem atomicsIssue : Obligations.AtomicsIssue := by
  unfold Obligations.AtomicsIssue
  intro s p e a b v w z q
  exact ⟨atom_of (issue_congr (doAtomS_eq _ p e a b z)), atom_of (issue_congr (doAtomV_eq _ p v w z q))⟩

/-! ## Scratchpad (14 R235) -/

section
variable {t : State} {g : Region} {es : List Elem} {z d f : Nat} (hg : t.region = some g)
include hg

theorem doSpld_fits (h : ∀ e ∈ es, Fits g e true) : doSpld z d f es t =
    .ok (t.later 16 f [] (es.flatMap fun e =>
      let v := loadExt (loadSigned z) 32 e.size (ofLeBytes (g.read t.cycle e.gva e.size))
      (d, e.lane, BitVec.ofNat 32 v) :: (if e.size = 8 then [(d + 1, e.lane, BitVec.ofNat 32 (v / 2 ^ 32))] else [])) 0) := by
  simp only [doSpld, hg, fits_ok h, List.flatMap_def]

theorem doSpst_fits {val : Elem → Nat} (h : ∀ e ∈ es, Fits g e false) : doSpst es val t =
    .ok (es.foldl (fun u e => u.poke e (val e)) t) := by
  simp only [doSpst, hg, fits_ok h]
  congr 2
  funext u e
  unfold State.poke
  cases u.region <;> rfl

end

/-! ## Traps and waits of a load (14 R237, R238) -/

section
variable {u t : State} {dest : Dest} {const : Bool} {ret : Nat} {es : List Elem} {c : Ctx}

theorem doLoad_trap {rs : List (Elem × Chk)} {cause addr m : Nat} (hc : Clear u u.cur.acc.ld) (hx : u.myCtx = some c)
    (h : u.checkAll c .read [] (u.scp.acq && decide (3 ≤ u.scp.scope)) es = (rs, t))
    (ht : firstTrap rs = some (cause, addr, m)) : doLoad dest const ret es u =
      if cause = 16 then .ecc (fun s => s.poisonBad addr) addr m else .trap cause addr m := by
  rw [doLoad, ordered_ok hc]
  simp only [access, hx, h, ht]

theorem ordered_acq {n : Nat} {k : State → Act} (h : u.split.acq ≠ []) : ordered u n k = .waiting .acq := by
  simp [ordered, h]

/-- An element is aligned only after it has been translated (14 R237). -/
theorem checkElem_misaligned {acc : Access} {needs : Needs} {prim : Bool} {e : Elem} {x : Xlate}
    (hn : u.hints.trans.find? (fun p => p.1 == e.gva) = none)
    (hx : u.translate c u.cur.place.core e.gva acc u.cur.trap.pl = (.ok x, t)) (ha : e.gva % e.size ≠ 0) :
    u.checkElem c acc needs prim e = (.trap 11 e.gva, t) := by
  simp only [State.checkElem, hn, hx]
  rw [if_pos ha]

end

/-! ## Prefetch (14 R248) -/

section
variable {u t v : State} {a l k : Nat} {c : Ctx} (hq : u.split.acq = []) (hc : u.myCtx = some c)
include hq hc

theorem doPf_fault {f : XFault} (h : u.translate c u.cur.place.core (u.sreg a).toNat .read u.cur.trap.pl = (.fault f, t)) :
    doPf a l k u = .ok t := by
  simp only [doPf, hq, hc, h, List.isEmpty_nil, Bool.not_true, Bool.false_eq_true, if_false]

theorem doPf_filled {x : Xlate} {bs : List Byte} {stamp : Nat} {lease : Option (Nat × Nat)}
    (h : u.translate c u.cur.place.core (u.sreg a).toNat .read u.cur.trap.pl = (.ok x, t))
    (hf : t.fetchServed ⟨u.cur.place.core, c.num, c.vdid, c.world, (u.sreg a).toNat, x.fa, t.cur.acc.rfloor.toNat, k, false, false,
      false, none⟩ 16 [] = some (v, bs, stamp, lease)) :
    doPf a 0 k u = .ok (v.fillL1 u.cur.place.core c (u.sreg a).toNat x.fa k false bs stamp lease (v.tagOf x.fa)) := by
  simp only [doPf, hq, hc, h, hf, List.isEmpty_nil, Bool.not_true, Bool.false_eq_true, if_false, if_true,
    OfNat.zero_ne_ofNat]

end

/-- Settles O21: where a scratchpad access fits it takes effect in its issue cycle; a load's first trap is its lowest lane's, and
a prefetch leaves what its walk does, or the line that a holder serves. -/
theorem accessesAtTheCore : Obligations.AccessesAtTheCore := by
  unfold Obligations.AccessesAtTheCore
  refine ⟨fun s z y d b o p f => ⟨fun g hg h => ?spld, fun g hg h => ?spst⟩, fun s z d a b o r l k =>
    ⟨fun c rs t hc hx h cause addr m ht hr => ?trap, fun u c acc needs prim e x t hn hx ha => checkElem_misaligned hn hx ha,
      fun h => ?acq, fun hq c t hc f h => ?fault, fun hq c t x hc h v bs stamp lease hf => ?filled⟩⟩
  case spld => exact does_at rfl (doSpld_fits (by rwa [State.issued_region]) h)
  case spst => exact does_at rfl (doSpst_fits (by rwa [State.issued_region]) h)
  case trap =>
    have hc' : Clear (s.issued (.sld z d b o r)) (s.issued (.sld z d b o r)).cur.acc.ld := by rwa [State.issued_acc]
    have he : exec (.sld z d b o r) s = issue (.sld z d b o r) s fun t =>
      doLoad (.scalar d.toNat (loadSigned z.toNat)) false (t.retOf r) (t.elemS b o (loadSize true z.toNat)) t := rfl
    rw [he, issue, of_ready hr, doLoad_trap hc' (by rwa [State.issued_myCtx]) h ht]
    by_cases h16 : cause = 16
    · subst h16
      rfl
    · rw [if_neg h16, if_neg h16]
  case acq => exact notYet_at rfl (ordered_acq h)
  case fault =>
    refine does_at rfl (doPf_fault (f := f) hq (by rwa [State.issued_myCtx]) ?_)
    rwa [State.issued_sreg, State.issued_place, State.issued_trap]
  case filled =>
    have := doPf_filled hq (by rwa [State.issued_myCtx]) (a := a.toNat) (k := k.toNat) (c := c)
      (by rwa [State.issued_sreg, State.issued_place, State.issued_trap])
      (by rwa [State.issued_sreg, State.issued_place])
    rw [State.issued_sreg, State.issued_place] at this
    exact does_at rfl this

end Sys2Proof.Proofs.AccessIssue

/-!
# Traps, returns, halts, waits and barriers

What `trap`, `tret`, `yield`, `halt`, `waitc` and `bar` answer in each of their cases, and what a trap that is delivered, queued or
fatal leaves.
-/

namespace Sys2Proof.Proofs.Traps

open Sys2Proof Sys2Proof.Machine Sys2Proof.Laws.Issue Sys2Proof.Proofs.ControlWrites Sys2Proof.Proofs.Turns

/-! ## The state in which an instruction has issued -/

section
variable (s : State) (i : Instr)

theorem issued_ctx? (n : Nat) : (s.issued i).ctx? n = s.ctx? n := by
  simp only [State.ctx?, State.issued_ctxs]

theorem issued_contended (n : Nat) : (s.issued i).contended n = s.contended n := by
  simp only [State.contended, issued_ctx?, State.issued_ctxs]

theorem issued_rec? (n : Nat) : (s.issued i).rec? n = s.rec? n := by
  simp only [State.rec?, State.issued_recs]

theorem issued_relOk (scope before : Nat) : (s.issued i).relOk scope before = s.relOk scope before := by
  simp only [State.relOk, State.drained, State.pace, State.issued_acc, State.issued_place, State.issued_copies, State.issued_ps]
  rfl

end

/-! ## `yield` and `halt` (19 R349, R351) -/

section
variable {t : State} {d a : Nat}

theorem doYield_alone (h : t.contended t.cur.place.ctx = false) : doYield t = .ok t := by
  simp [doYield, h]

theorem doYield_contended (h : t.contended t.cur.place.ctx = true) : doYield t = .ok (t.beginPreempt t.cur.place.ctx) := by
  simp [doYield, h]

theorem doHalt_self (h : (t.sreg a).toNat % 65536 = 65535 ∨ (t.sreg a).toNat % 65536 = t.cur.place.ctx) :
    doHalt d a t = .done ((t.tally 0 1).resetAs t.cur.place.ctx 35 t.cur.place.core []) :=
  if_pos h

section
variable (h1 : (t.sreg a).toNat % 65536 ≠ 65535) (h2 : (t.sreg a).toNat % 65536 ≠ t.cur.place.ctx)
include h1 h2

theorem doHalt_absent (hc : t.ctx? ((t.sreg a).toNat % 65536) = none) : doHalt d a t = .ok (t.setSreg d 3) := by
  simp [doHalt, h1, h2, hc]

theorem doHalt_other (hc : t.ctx? ((t.sreg a).toNat % 65536) ≠ none) : doHalt d a t =
    .hold (t.resetAs ((t.sreg a).toNat % 65536) 35 t.cur.place.core []) (.answer .halt d ((t.sreg a).toNat % 65536) 0) := by
  simp [doHalt, h1, h2, hc]

end

end

/-- Settles O22: each instruction's meaning in each of its cases, at the state in which it has issued. -/
theorem trapsReturnsAndHalts : Obligations.TrapsReturnsAndHalts := by
  unfold Obligations.TrapsReturnsAndHalts
  intro s k d a
  refine ⟨fun h => ?trap, fun h => ?tret, fun h => ?outside, fun h => ?yields, fun h => ?preempts, fun h => ?self,
    fun h1 h2 h => ?absent, fun h1 h2 h => ?other⟩
  case trap => exact congrArg Host.Outcome.next (of_ready h)
  case tret => exact ends_at rfl (if_pos (by rwa [State.issued_trap]))
  case outside => exact traps_at rfl (if_neg (by simp [h]))
  case yields => exact does_at rfl (doYield_alone (by rwa [issued_contended, State.issued_place]))
  case preempts => exact does_at rfl (doYield_contended (by rwa [issued_contended, State.issued_place]))
  case self => exact ends_at rfl (doHalt_self (by rwa [State.issued_sreg, State.issued_place]))
  case absent =>
    exact does_at rfl (doHalt_absent (by rwa [State.issued_sreg]) (by rwa [State.issued_sreg, State.issued_place])
      (by rwa [State.issued_sreg, issued_ctx?]))
  case other =>
    have he := doHalt_other (t := s.issued (.halt d a)) (d := d.toNat) (a := a.toNat) (by rwa [State.issued_sreg])
      (by rwa [State.issued_sreg, State.issued_place]) (by rwa [State.issued_sreg, issued_ctx?])
    rw [State.issued_sreg] at he
    exact holds_at rfl he

/-! ## Fields of trap records (19 R329) -/

/-- A field that is replaced: the bits below it, the new value, and the bits above it. -/
theorem setBits_eq (x v : Nat) {hi lo : Nat} (h : lo ≤ hi + 1) :
    setBits x hi lo v = x % 2 ^ lo + v % 2 ^ (hi + 1 - lo) * 2 ^ lo + x / 2 ^ (hi + 1) * 2 ^ (hi + 1) := by
  have hs : 2 ^ (hi + 1) = 2 ^ lo * 2 ^ (hi + 1 - lo) := by rw [← pow_add]; congr 1; omega
  have hx : x = x % 2 ^ lo + (x / 2 ^ lo % 2 ^ (hi + 1 - lo) * 2 ^ lo + x / 2 ^ (hi + 1) * 2 ^ (hi + 1)) := by
    have h1 := Nat.mod_add_div x (2 ^ lo)
    have h2 := Nat.mod_add_div (x / 2 ^ lo) (2 ^ (hi + 1 - lo))
    rw [Nat.div_div_eq_div_mul, ← hs] at h2
    calc x = x % 2 ^ lo + 2 ^ lo * (x / 2 ^ lo) := h1.symm
      _ = x % 2 ^ lo + 2 ^ lo * (x / 2 ^ lo % 2 ^ (hi + 1 - lo) + 2 ^ (hi + 1 - lo) * (x / 2 ^ (hi + 1))) := by rw [h2]
      _ = _ := by rw [hs]; ring
  unfold setBits
  rw [bitsOf_eq_div_mod, Nat.shiftLeft_eq, Nat.shiftLeft_eq]
  omega

theorem entry_cause (s : State) (cause addr opc info : Nat) (pc : BitVec 48) (h : cause < 256) :
    (s.entry cause pc addr opc info).t0.toNat % 256 = cause := by
  simp only [State.entry, trec0, BitVec.toNat_ofNat, Bool.toNat_false]
  omega

theorem entry_exact (s : State) (cause addr opc info : Nat) (pc : BitVec 48) :
    (s.entry cause pc addr opc info).isDeferred = false := by
  simp only [TrapEntry.isDeferred, State.entry, trec0, bitsOf_eq_div_mod, BitVec.toNat_ofNat, Bool.toNat_false,
    decide_eq_false_iff_not]
  omega

/-! ## Traps inside handlers, and the trap queue (19 R325, R327, R328) -/

section
variable {s : State}

theorem takeTraps_exact {e : TrapEntry} (hi : s.cur.trap.inh = true) (he : e.isDeferred = false) :
    s.takeTraps [e] = s.doubleTrap e := by
  simp [State.takeTraps, hi, he]

theorem takeTraps_deferred {e : TrapEntry} (hi : s.cur.trap.inh = true) (he : e.isDeferred = true) :
    s.takeTraps [e] = s.modTrap fun t => { t with queue := enqueueTrap t.queue e } := by
  simp [State.takeTraps, hi, he]

theorem deliver_noVector {e : TrapEntry} {q : List TrapEntry} (hq : s.cur.trap.queue = e :: q)
    (hv : s.vector s.cur.trap.pl = 0) : s.deliver = s.doubleTrap e := by
  simp [State.deliver, hq, hv]

end

/-- The entry that a full queue's fourth becomes: TRAP_OVERFLOW with a count (19 R327). -/
def overflowed (d : TrapEntry) (n : Nat) : TrapEntry :=
  { d with t0 := BitVec.ofNat 64 (setBits (setBits d.t0.toNat 7 0 26) 63 48 n) }

theorem overflowed_fields (d : TrapEntry) {n : Nat} (h : n < 65536) :
    (overflowed d n).t0.toNat % 256 = 26 ∧ (overflowed d n).t0.toNat / 2 ^ 48 % 2 ^ 16 = n := by
  have hd := d.t0.isLt
  simp only [overflowed, BitVec.toNat_ofNat, setBits_eq _ _ (show 48 ≤ 63 + 1 by decide), setBits_eq _ _ (show 0 ≤ 7 + 1 by decide)]
  omega

theorem enqueueTrap_full (a b c d e : TrapEntry) : enqueueTrap [a, b, c, d] e =
    [a, b, c, overflowed d (if d.t0.toNat % 256 = 26 then min 65535 (d.t0.toNat / 2 ^ 48 % 2 ^ 16 + 1) else 2)] := by
  have h : bitsOf d.t0.toNat 7 0 = d.t0.toNat % 256 := by simp [bitsOf]
  simp only [enqueueTrap, h, bitsOf_eq_div_mod]
  rfl

/-- Settles O24: which branch of a trap's delivery is taken, and the two fields that an overflowing queue writes. -/
theorem trapsInsideHandlers : Obligations.TrapsInsideHandlers := by
  unfold Obligations.TrapsInsideHandlers
  intro s cause addr info e a b c d
  refine ⟨fun hi _ => takeTraps_exact hi (entry_exact ..), fun e q hq hv => deliver_noVector hq hv,
    fun hi he => takeTraps_deferred hi he, rfl, rfl, fun h => ?first, fun h hc => ?further⟩
  case first => exact ⟨_, by rw [enqueueTrap_full, if_neg h], overflowed_fields d (by decide)⟩
  case further =>
    have hn : min 65535 (d.t0.toNat / 2 ^ 48 % 2 ^ 16 + 1) = d.t0.toNat / 2 ^ 48 % 2 ^ 16 + 1 := by omega
    exact ⟨_, by rw [enqueueTrap_full, if_pos h, hn], overflowed_fields d (by omega)⟩

/-! ## Entry and return (19 R322-R326) -/

/-- The group once the head of its trap queue, `e`, is delivered: the handler runs at `v` in the split that the entry names. -/
def delivered (s : State) (e : TrapEntry) (q : List TrapEntry) (v : BitVec 46) (i : Fin 4) : State :=
  let ppl := s.cur.trap.pl
  let s := s.modTrap fun t => { t with
    queue := q
    cur := { e with t0 := BitVec.ofNat 64 (setBits (setBits e.t0.toNat 18 16 q.length) 33 32 ppl) }
    inh := true
    ppl := ppl
    pl := if ppl = 2 then 2 else 1 }
  let s := s.modCtl fun c => (c.restart.setSplit i ((c.split i).goto (v.setWidth 48 <<< 2))).withHandler (some i)
  (s.modCkpt fun c => { c with closed := true }).tally 12 1

theorem deliver_head {s : State} {e : TrapEntry} {q : List TrapEntry} (hq : s.cur.trap.queue = e :: q)
    (hv : s.vector s.cur.trap.pl ≠ 0) : s.deliver =
      delivered s e q (s.vector s.cur.trap.pl) (Fin.ofNat 4 (bitsOf e.t0.toNat 31 30)) := by
  simp only [State.deliver, hq, hv, if_false]
  rfl

theorem refund_regs_only (s : State) (i : Fin 4) : s.refund i = { s with cur := { s.cur with regs := (s.refund i).cur.regs } } := by
  unfold State.refund
  simp only []
  split <;> rfl

theorem refund_none {s : State} (h : s.split.bundle.used = 0) : s.refund s.cur.ctl.iss = s :=
  if_pos h

theorem restart_split (c : Ctl) (j : Fin 4) : c.restart.split j =
    if (c.split j).bundle.active = true ∧ (c.split j).wait.issued = false then
      { c.split j with pc := (c.split j).bundle.start, bundle := Bundle.none, wait := .none } else c.split j := by
  have h : c.restart.split j = (c.split j).restart := by simp [Ctl.restart, Ctl.split]
  rw [h, Split.restart]
  exact if_congr (by rw [Bool.and_eq_true, Bool.not_eq_true']) rfl rfl

theorem entry_split (s : State) (cause addr opc info : Nat) (pc : BitVec 48) :
    Fin.ofNat 4 (bitsOf (s.entry cause pc addr opc info).t0.toNat 31 30) = s.cur.ctl.iss := by
  have hi := s.cur.ctl.iss.isLt
  apply Fin.ext
  simp only [State.entry, trec0, bitsOf_eq_div_mod, BitVec.toNat_ofNat, Bool.toNat_false, Fin.val_ofNat]
  omega

theorem rewind_eq (s : State) : s.rewind = { s with cur := { s.cur with
    regs := (s.refund s.cur.ctl.iss).cur.regs
    ctl := s.cur.ctl.setSplit s.cur.ctl.iss { s.split with pc := s.bundlePc, bundle := Bundle.none, wait := .none } } } := by
  unfold State.rewind
  rw [refund_regs_only]
  rfl

/-- The trap of a bundle joins the queue. -/
def queued (s : State) (e : TrapEntry) : State := s.modTrap fun t => { t with queue := enqueueTrap t.queue e }

/-- The group that an exact trap outside a handler leaves: its bundle is rewound, and the entry of the trap is delivered. -/
theorem trapExact_delivers {s : State} (cause addr info : Nat) (hi : s.cur.trap.inh = false) (hq : s.cur.trap.queue = [])
    (hv : s.vector s.cur.trap.pl ≠ 0) : s.trapExact cause addr info =
      delivered (queued s (s.entry cause s.bundlePc addr s.bundlePc.toNat info)).rewind
        (s.entry cause s.bundlePc addr s.bundlePc.toNat info) [] (s.vector s.cur.trap.pl) s.cur.ctl.iss := by
  have hd := deliver_head (s := (queued s (s.entry cause s.bundlePc addr s.bundlePc.toNat info)).rewind)
    (e := s.entry cause s.bundlePc addr s.bundlePc.toNat info) (q := []) (by rw [rewind_eq, queued, State.modTrap, hq]; rfl)
    (by rw [rewind_eq]; exact hv)
  rw [entry_split] at hd
  simp only [State.trapExact, State.takeTraps, hi, Bool.false_eq_true, if_false]
  refine Eq.trans hd ?_
  rw [rewind_eq]
  rfl

/-! ### What a delivered trap leaves -/

section
variable (s : State) (e : TrapEntry) (v : BitVec 46)

theorem delivered_handler (i : Fin 4) : (delivered s e [] v i).cur.ctl.split i = (s.cur.ctl.split i).goto (v.setWidth 48 * 4) := by
  rw [← Laws.Control.shiftLeft_two]
  exact Ctl.split_setSplit_same _ _ _

theorem delivered_split {i j : Fin 4} (h : j ≠ i) : (delivered s e [] v i).cur.ctl.split j = s.cur.ctl.restart.split j :=
  Ctl.split_setSplit_ne _ h _

theorem delivered_t0 (i : Fin 4) (hp : e.t0.toNat / 2 ^ 32 = s.cur.trap.pl % 4) :
    (delivered s e [] v i).cur.trap.cur.t0.toNat % 256 = e.t0.toNat % 256 ∧
      (delivered s e [] v i).cur.trap.cur.t0.toNat / 2 ^ 30 % 4 = e.t0.toNat / 2 ^ 30 % 4 ∧
      (delivered s e [] v i).cur.trap.cur.t0.toNat / 2 ^ 32 % 4 = s.cur.trap.pl % 4 := by
  have h : (delivered s e [] v i).cur.trap.cur.t0 = BitVec.ofNat 64 (setBits (setBits e.t0.toNat 18 16 0) 33 32 s.cur.trap.pl) := rfl
  have he := e.t0.isLt
  simp only [h, BitVec.toNat_ofNat, setBits_eq _ _ (show 32 ≤ 33 + 1 by decide), setBits_eq _ _ (show 16 ≤ 18 + 1 by decide)]
  omega

end

theorem entry_level (s : State) (cause addr opc info : Nat) (pc : BitVec 48) :
    (s.entry cause pc addr opc info).t0.toNat / 2 ^ 32 = s.cur.trap.pl % 4 ∧
      (s.entry cause pc addr opc info).t0.toNat / 2 ^ 30 % 4 = s.cur.ctl.iss.val := by
  have hi := s.cur.ctl.iss.isLt
  simp only [State.entry, trec0, BitVec.toNat_ofNat, Bool.toNat_false]
  omega

/-! ### What a return leaves (19 R326) -/

theorem shifts_eq (x : DWord) : ((x >>> 2).setWidth 48) <<< 2 = x.setWidth 48 &&& ~~~(3 : BitVec 48) := by
  rw [← Laws.Control.codeAddr_eq, codeAddr]
  apply BitVec.eq_of_getLsbD_eq
  intro i hi
  simp only [BitVec.getLsbD_shiftLeft, BitVec.getLsbD_setWidth]
  by_cases h : i < 2
  · simp [h]
  · simp [show i - 2 < 48 by omega, show i - 2 < 46 by omega]

/-- The group that a return leaves where no trap is queued. -/
theorem trapReturn_empty {s : State} {h : Fin 4} (hq : s.cur.trap.queue = []) (hh : s.cur.ctl.handler = some h) :
    s.trapReturn =
      (((s.modTrap fun r => { r with pl := bitsOf s.cur.trap.cur.t0.toNat 33 32, inh := false }).modCtl fun c =>
        (c.setSplit h ((c.split h).goto (s.cur.trap.cur.t1.setWidth 48 &&& ~~~3))).withHandler none).modCtl fun c =>
          { c with unfinished := c.unfinished.filter fun u => u.1 != h || u.2.1 == (s.cur.trap.cur.t1.setWidth 48 &&& ~~~3) }) := by
  simp only [State.trapReturn, hh, Option.getD_some, shifts_eq]
  unfold State.deliver
  rw [show ∀ (u : State) (f g : Ctl → Ctl), ((u.modCtl f).modCtl g).cur.trap.queue = u.cur.trap.queue from fun _ _ _ => rfl]
  simp only [State.modTrap, hq]

theorem rewind_split {s : State} {j : Fin 4} (h : j ≠ s.cur.ctl.iss) : s.rewind.cur.ctl.split j = s.cur.ctl.split j := by
  rw [rewind_eq]
  exact Ctl.split_setSplit_ne _ h _

theorem rewind_queued_regs (s : State) (e : TrapEntry) : (queued s e).rewind.cur.regs = (s.refund s.cur.ctl.iss).cur.regs := by
  rw [rewind_eq]
  change ((queued s e).refund s.cur.ctl.iss).cur.regs = (s.refund s.cur.ctl.iss).cur.regs
  have hq : ((queued s e).cur.ctl.split s.cur.ctl.iss).bundle.used = (s.cur.ctl.split s.cur.ctl.iss).bundle.used := rfl
  by_cases h : (s.cur.ctl.split s.cur.ctl.iss).bundle.used = 0
  · simp only [State.refund, hq, h, if_true]
    rfl
  · simp only [State.refund, hq, h, if_false]
    rfl

/-- What rewinding leaves of the group and of the package. -/
theorem rewind_rest (s : State) : s.rewind.cur.mat = s.cur.mat ∧ s.rewind.cur.acc = s.cur.acc ∧ s.rewind.mem = s.mem ∧
    s.rewind.others = s.others ∧ s.rewind.cur.trap = s.cur.trap ∧ s.rewind.cur.ctl.iss = s.cur.ctl.iss := by
  rw [rewind_eq]
  exact ⟨rfl, rfl, rfl, rfl, rfl, rfl⟩

/-- The trap registers of a group whose trap is delivered. -/
theorem delivered_trap (s : State) (e : TrapEntry) (v : BitVec 46) (i : Fin 4) :
    (delivered s e [] v i).cur.trap = { s.cur.trap with
      queue := []
      cur := { e with t0 := BitVec.ofNat 64 (setBits (setBits e.t0.toNat 18 16 0) 33 32 s.cur.trap.pl) }
      inh := true
      ppl := s.cur.trap.pl
      pl := if s.cur.trap.pl = 2 then 2 else 1 } := rfl

/-- The split that issues runs the handler. -/
theorem delivered_issuing {s : State} {e : TrapEntry} {v : BitVec 46} {i : Fin 4} (h : s.cur.ctl.iss = i) :
    (delivered s e [] v i).split = (s.cur.ctl.split i).goto (v.setWidth 48 * 4) := by
  rw [← delivered_handler s e v i]
  subst h
  rfl

/-- Settles O23: an exact trap is its rewound bundle with the head of the queue delivered; a return is `trapReturn_empty`. -/
theorem trapEntryAndReturn : Obligations.TrapEntryAndReturn := by
  unfold Obligations.TrapEntryAndReturn
  refine ⟨fun s cause addr info hi hq hv hc => ?entry, fun s h hq hh => ?back⟩
  case entry =>
    rw [trapExact_delivers cause addr info hi hq hv]
    obtain ⟨hl, hs⟩ := entry_level s cause addr s.bundlePc.toNat info s.bundlePc
    have he := entry_cause s cause addr s.bundlePc.toNat info s.bundlePc hc
    have h1 : (s.entry cause s.bundlePc addr s.bundlePc.toNat info).t1 = s.bundlePc.setWidth 64 := rfl
    have h2 : (s.entry cause s.bundlePc addr s.bundlePc.toNat info).t2 = BitVec.ofNat 64 addr := rfl
    have h3 : (s.entry cause s.bundlePc addr s.bundlePc.toNat info).t3 = s.bundlePc.setWidth 64 :=
      BitVec.eq_of_toNat_eq (by simp [State.entry])
    have h4 : (s.entry cause s.bundlePc addr s.bundlePc.toNat info).t4 = BitVec.ofNat 64 info := rfl
    generalize s.entry cause s.bundlePc addr s.bundlePc.toNat info = e at *
    obtain ⟨hm, ha, hmem, ho, ht, hiss⟩ := rewind_rest (queued s e)
    have hregs := rewind_queued_regs s e
    have hsp : ∀ j, j ≠ s.cur.ctl.iss → (queued s e).rewind.cur.ctl.split j = s.cur.ctl.split j :=
      fun j hj => rewind_split (s := queued s e) hj
    have hp : (queued s e).rewind.cur.trap.pl = s.cur.trap.pl := (congrArg TrapSt.pl ht).trans rfl
    generalize (queued s e).rewind = r at *
    have dt := delivered_trap r e (s.vector s.cur.trap.pl) s.cur.ctl.iss
    rw [hp] at dt
    have dc := congrArg TrapSt.cur dt
    obtain ⟨f0, f1, f2⟩ := delivered_t0 r e (s.vector s.cur.trap.pl) s.cur.ctl.iss (by rw [hp, hl])
    have hd := delivered_issuing (e := e) (v := s.vector s.cur.trap.pl) (show r.cur.ctl.iss = s.cur.ctl.iss from hiss)
    refine ⟨congrArg TrapSt.inh dt, congrArg TrapSt.ppl dt, congrArg TrapSt.pl dt, congrArg TrapSt.queue dt, f0.trans he,
      f1.trans hs, f2.trans (by rw [hp]), (congrArg TrapEntry.t1 dc).trans h1, (congrArg TrapEntry.t2 dc).trans h2,
      (congrArg TrapEntry.t3 dc).trans h3, (congrArg TrapEntry.t4 dc).trans h4, rfl, congrArg Split.pc hd, congrArg Split.bundle hd, fun j hj => ?_, rfl, hregs, fun hu => ?_,
      hm, ha, hmem, ho⟩
    · rw [delivered_split _ _ _ hj, restart_split, hsp j hj]
    · exact hregs.trans (by rw [refund_none hu])
  case back =>
    rw [trapReturn_empty hq hh]
    have hs := Ctl.split_setSplit_same s.cur.ctl h ((s.cur.ctl.split h).goto (s.cur.trap.cur.t1.setWidth 48 &&& ~~~3))
    exact ⟨rfl, bitsOf_eq_div_mod _ _ _, rfl, congrArg Split.pc hs, congrArg Split.bundle hs,
      fun j hj => Ctl.split_setSplit_ne _ hj _, rfl, rfl, rfl⟩

/-! ## `waitc` (20 R356) -/

theorem withDeferred_nothing {t : State} (p : OpKind → Bool) (k : State → Act) (h : t.cur.trap.deferred = []) :
    withDeferred p t k = k t := by
  simp only [withDeferred, takeDeferred_of_none h]

theorem withDeferred_noKinds (t : State) (k : State → Act) : withDeferred (fun _ => false) t k = k t := by
  simp [withDeferred, State.takeDeferred, byOp]

section
variable {t : State} {l m c : Nat}

theorem doWaitc_within (hl : t.cur.acc.ld ≤ l) (hm : t.cur.acc.st ≤ m) (hc : t.cur.acc.cp ≤ c) (hd : t.cur.trap.deferred = []) :
    doWaitc l m c t = .ok t := by
  simp only [doWaitc, Nat.not_lt.mpr hl, Nat.not_lt.mpr hm, Nat.not_lt.mpr hc, decide_false, Bool.and_false, Bool.false_and,
    Bool.or_self, Bool.false_eq_true, if_false, withDeferred_nothing _ _ hd]

section
variable (h63 : l < 63) (hl : l < t.cur.acc.ld)
include h63 hl

/-- A limit of 63 limits nothing. -/
theorem doWaitc_waits (hk : ∃ o ∈ t.cur.acc.ops, o.kind = .load) (hm : m = 63) (hc : c = 63) :
    doWaitc l m c t = .waiting (.waitc true false false) := by
  have ha : t.cur.acc.ops.any (fun o => o.kind == .load) = true := by simpa using hk
  simp [doWaitc, h63, hl, hm, hc, ha]

theorem doWaitc_never (hk : ∀ o ∈ t.cur.acc.ops, o.kind ≠ .load) : doWaitc l m c t = .trap 4 0 0 := by
  have ha : t.cur.acc.ops.any (fun o => o.kind == .load) = false := by simpa using hk
  simp [doWaitc, h63, hl, ha]

end

end

/-! ## `bar` (20 R360) -/

section
variable {t : State} {r : LRec} {l : Nat} {nf : Bool}

theorem doBar_noRecord (h : t.rec? t.cur.place.launch = none) : doBar l nf t = .trap 4 0 0 := by
  simp only [doBar, h]

section
variable (hr : t.rec? t.cur.place.launch = some r)
include hr

theorem doBar_level (h : barLevelOk r l = false) : doBar l nf t = .trap 4 0 0 := by
  simp only [doBar, hr, h, Bool.not_false, if_true]

variable (hk : barLevelOk r l = true)
include hk

theorem doBar_release (h : t.relOk (r.bits (64 * l + 523) (64 * l + 520)) t.nextId = false) :
    doBar l false t = .waiting (.bar l false false) := by
  simp [doBar, hr, hk, h]

/-- A group with one split arrives with it. -/
theorem doBar_arrives (hl : t.cur.ctl.live = [t.cur.ctl.iss])
    (h : nf = false → t.relOk (r.bits (64 * l + 523) (64 * l + 520)) t.nextId = true ∧ t.cur.trap.deferred = []) :
    doBar l nf t = .done (t.joinBar r l nf) := by
  have hw : (!nf && !t.relOk (r.bits (64 * l + 523) (64 * l + 520)) t.nextId) = false := by
    cases nf with
    | true => rfl
    | false => simp [(h rfl).1]
  have hd : ∀ k, withDeferred (fun x => !nf && relKinds x) t k = k t := by
    cases nf with
    | true => exact withDeferred_noKinds t
    | false => exact fun k => withDeferred_nothing _ k (h rfl).2
  simp only [doBar, hr, hk, hl, hw, hd, List.filter_cons, ne_eq, not_true_eq_false, decide_false, Bool.false_eq_true, if_false,
    List.filter_nil, List.all_nil, Bool.not_true, Bool.or_self]
  rfl

end

end

/-- Settles O28: each outcome of `waitc` and of `bar` by the condition that leads to it, at the state of the issue. -/
theorem waitsAndBarriers : Obligations.WaitsAndBarriers := by
  unfold Obligations.WaitsAndBarriers
  intro s f l m c v y
  refine ⟨does rfl fun _ => rfl, fun hl hm hc hd => ?within, fun h63 hl hk hm hc => ?waits, fun h63 hl hk => ?never,
    fun h => ?noRecord, fun r hr h => ?level, fun r hr hk hl h => ?release, fun r hr hk hl => ?noFence,
    fun r hr hk hl hd h => ?arrives⟩
  case within =>
    exact does_at rfl (doWaitc_within (by rwa [State.issued_acc]) (by rwa [State.issued_acc]) (by rwa [State.issued_acc])
      (by rwa [State.issued_trap]))
  case waits =>
    exact notYet_at rfl (doWaitc_waits h63 (by rwa [State.issued_acc]) (by rwa [State.issued_acc]) hm hc)
  case never => exact traps_at rfl (doWaitc_never h63 (by rwa [State.issued_acc]) (by rwa [State.issued_acc]))
  case noRecord => exact traps_at rfl (doBar_noRecord (by rwa [issued_rec?, State.issued_place]))
  case level => exact traps_at rfl (doBar_level (by rwa [issued_rec?, State.issued_place]) h)
  case release =>
    exact notYet_at rfl (doBar_release (by rwa [issued_rec?, State.issued_place]) hk
      (by rwa [issued_relOk, State.issued_nextId]))
  case noFence =>
    exact ends_at rfl (doBar_arrives (by rwa [issued_rec?, State.issued_place]) hk (by rwa [State.issued_live, State.issued_iss])
      fun h => absurd h (by decide))
  case arrives =>
    exact ends_at rfl (doBar_arrives (by rwa [issued_rec?, State.issued_place]) hk (by rwa [State.issued_live, State.issued_iss])
      fun _ => ⟨by rwa [issued_relOk, State.issued_nextId], by rwa [State.issued_trap]⟩)

end Sys2Proof.Proofs.Traps

/-!
# Copies

The issue of a copy first: its range checks, and the engine that takes it. Then the pieces of a copy, the event that moves them, and the
ends of a command.
-/

namespace Sys2Proof.Proofs.Copies

open Sys2Proof Sys2Proof.Machine Sys2Proof.Laws.Issue Sys2Proof.Proofs.Turns Sys2Proof.Proofs.Routers

/-! ## The engine that takes a copy (14 R244, 17 R294) -/

/-- The commands of an engine. -/
def load (t : State) (e : Nat) : Nat := (t.copies.filter fun c => c.engine == e).length

section
variable {t : State} {part : Nat}

theorem freeEngine_least (h : ∃ x ∈ t.engines part, load t x < 32) :
    ∃ e ∈ t.engines part, (∀ x ∈ t.engines part, load t e ≤ load t x) ∧ t.freeEngine part = some e := by
  obtain ⟨x, hx, hl⟩ := h
  cases he : t.engines part with
  | nil => simp [he] at hx
  | cons a l =>
    rw [he] at hx
    obtain ⟨hm, hd⟩ := foldl_nearer (load t) l a
    refine ⟨_, hm, hd, ?_⟩
    simp only [State.freeEngine, he]
    exact if_pos (Nat.lt_of_le_of_lt (hd x hx) hl)

theorem freeEngine_full (h : ∀ x ∈ t.engines part, 32 ≤ load t x) : t.freeEngine part = none := by
  cases he : t.engines part with
  | nil => simp only [State.freeEngine, he]
  | cons a l =>
    rw [he] at h
    simp only [State.freeEngine, he]
    exact if_neg (Nat.not_lt.mpr (h _ (foldl_nearer (load t) l a).1))

end

/-! ## Issue (14 R243-R245) -/

section
variable {t : State} {k : CKind}

theorem startCopy_noEngine (hc : t.cur.acc.cp < 62) (he : t.myEngines = []) : startCopy k t = .trap 23 0 0 := by
  have he' : t.engines t.myPart = [] := he
  simp only [startCopy, Nat.not_le.mpr hc, he', if_false, if_true]

section
variable (hc : t.cur.acc.cp < 62) (he : t.myEngines ≠ [])
include hc he

theorem startCopy_empty (hk : k.empty = true) : startCopy k t = .ok t := by
  have he' : t.engines t.myPart ≠ [] := he
  simp only [startCopy, Nat.not_le.mpr hc, he', hk, if_false, if_true]

variable (hk : k.empty = false)
include hk

theorem startCopy_full (h : ∀ x ∈ t.myEngines, 32 ≤ load t x) : startCopy k t = .notReady := by
  have he' : t.engines t.myPart ≠ [] := he
  simp only [startCopy, Nat.not_le.mpr hc, he', hk, if_false, Bool.false_eq_true, freeEngine_full h]

theorem startCopy_queues {e : Nat} (h : t.freeEngine t.myPart = some e) : startCopy k t = .ok (t.queueCopy e k) := by
  have he' : t.engines t.myPart ≠ [] := he
  simp only [startCopy, Nat.not_le.mpr hc, he', hk, if_false, Bool.false_eq_true, h]
  rfl

end

end

/-- A copy whose checks pass starts, at once or by an engine with the fewest commands. -/
theorem copy_of {i : Instr} {s : State} {body : State → Act} {kind : State → CKind} {inRange : State → Prop}
    (he : exec i s = issue i s body)
    (hb : (s.issued i).split.acq = [] → inRange (s.issued i) → body (s.issued i) = startCopy (kind (s.issued i)) (s.issued i)) :
    CopyOf i s kind inRange := by
  intro hr hq hc hin
  have hc' : (s.issued i).cur.acc.cp < 62 := by rwa [State.issued_acc]
  refine ⟨fun hk hne => ?_, fun hk hfree => ?_⟩
  · rw [he, issue, of_ok hr ((hb hq hin).trans (startCopy_empty hc' hne hk))]
  · have hload : ∀ x, load (s.issued i) x = (s.copies.filter fun c => c.engine == x).length := fun x => by
      rw [load, State.issued_copies]
    simp only [← hload] at hfree ⊢
    obtain ⟨e, hm, hleast, hf⟩ := freeEngine_least hfree
    exact ⟨e, hm, hleast, by
      rw [he, issue, of_ok hr ((hb hq hin).trans (startCopy_queues hc' (List.ne_nil_of_mem hm) hk hf))]⟩

section
variable {t : State} {a b c m n : Nat} {p q f : Bool}

theorem doCp_acq (h : t.split.acq ≠ []) : doCp a b c p q f t = .waiting .acq := by
  simp [doCp, h]

theorem doCpT_acq (h : t.split.acq ≠ []) : doCpT m n c t = .waiting .acq := by
  simp [doCpT, h]

section
variable (hq : t.split.acq = [])
include hq

theorem doCp_inRange
    (hp : p = true → (t.sreg c).toNat % 2 ^ 32 = 0 ∨ (t.sreg a).toNat + (t.sreg c).toNat % 2 ^ 32 ≤ t.regionSize)
    (hs : q = true → (t.sreg c).toNat % 2 ^ 32 = 0 ∨ (t.sreg b).toNat + (t.sreg c).toNat % 2 ^ 32 ≤ t.regionSize) :
    doCp a b c p q f t = startCopy (.bytes (t.sreg a).toNat (t.sreg b).toNat ((t.sreg c).toNat % 2 ^ 32) p q f) t := by
  have hside : ∀ (x : Bool) (y len : Nat), (x = true → len = 0 ∨ y + len ≤ t.regionSize) →
      (x && decide (0 < len) && decide (t.regionSize < y + len)) = false := by
    intro x y len h
    cases x with
    | false => rfl
    | true => rcases h rfl with h | h <;> simp [h]
  have hreg : (t.region.map Region.size).getD 0 = t.regionSize := rfl
  simp only [doCp, hq, hreg, hside _ _ _ hp, hside _ _ _ hs, List.isEmpty_nil, Bool.not_true, Bool.false_eq_true, if_false]

theorem doCp_destination (h : t.regionSize < (t.sreg a).toNat + (t.sreg c).toNat % 2 ^ 32) (hz : (t.sreg c).toNat % 2 ^ 32 ≠ 0) :
    doCp a b c true q f t = .trap 12 (t.sreg a).toNat 0 := by
  have hreg : (t.region.map Region.size).getD 0 = t.regionSize := rfl
  simp only [doCp, hq, hreg, h, Nat.pos_of_ne_zero hz, decide_true, Bool.and_self, List.isEmpty_nil, Bool.not_true,
    Bool.false_eq_true, if_false, if_true]

theorem doCpT_invalid (h : t.tdt? m = none ∨ t.tdt? n = none) : doCpT m n c t = .trap 19 0 0 := by
  rcases h with h | h
  · simp [doCpT, hq, h]
  · cases hm : t.tdt? m <;> simp [doCpT, hq, h, hm]

variable {dd ds : BitVec 512} (hd : t.tdt? m = some dd) (hs : t.tdt? n = some ds)
include hd hs

theorem doCpT_differ (h : tdFmt dd ≠ tdFmt ds) : doCpT m n c t = .trap 19 0 0 := by
  simp [doCpT, hq, hd, hs, h]

theorem doCpT_fits (h : tdFmt dd = tdFmt ds)
    (h6 : tdFmt ds = 6 → (t.sreg c).toNat % 4 = 0 ∧ (t.sreg (c + 1)).toNat % 4 = 0 ∧ tdTile ds 0 % 4 = 0) :
    doCpT m n c t = startCopy (.tensor dd ds ((t.sreg (c + 1)).toNat % 2 ^ 32) ((t.sreg (c + 1)).toNat / 2 ^ 32)
      ((t.sreg c).toNat % 2 ^ 32) ((t.sreg c).toNat / 2 ^ 32)) t := by
  have hmod : ∀ x : Nat, x % 2 ^ 32 % 4 = x % 4 := fun x => by omega
  have h4 : (decide (tdFmt ds = 6) && (decide ((t.sreg c).toNat % 2 ^ 32 % 4 ≠ 0) ||
      decide ((t.sreg (c + 1)).toNat % 2 ^ 32 % 4 ≠ 0) || decide (tdTile ds 0 % 4 ≠ 0))) = false := by
    by_cases hf : tdFmt ds = 6
    · obtain ⟨h1, h2, h3⟩ := h6 hf
      simp only [hmod, h1, h2, h3, ne_eq, not_true_eq_false, decide_false, Bool.or_self, Bool.and_false]
    · simp [hf]
  simp only [doCpT, hq, hd, hs, h, h4, ne_eq, not_true_eq_false, Bool.false_eq_true, or_self, List.isEmpty_nil, Bool.not_true, if_false]

end

end

/-- Settles O29: a copy that passes its checks starts; the others by the check that they fail. -/
theorem copiesIssue : Obligations.CopiesIssue := by
  unfold Obligations.CopiesIssue
  intro s a b e m n p q
  refine ⟨?cp, ?fill, fun dd ds hd hs hf h6 => ?tensor, fun hq h => ?invalid, fun dd ds hd hs hf hq => ?differ,
    fun hq h hz => ?destination, fun hq hc he => ?noEngine, fun hq hc he hz h => ?full, fun h => ?acq⟩
  case cp => exact copy_of rfl fun hq h => doCp_inRange hq (fun hp => h.1 (by simpa using hp)) fun hs => h.2 (by simpa using hs)
  case fill => exact copy_of rfl fun hq _ => doCp_inRange hq (fun h => by simp at h) fun h => by simp at h
  case tensor =>
    exact copy_of rfl fun hq _ => doCpT_fits hq (by rwa [State.issued_tdt]) (by rwa [State.issued_tdt]) hf
      (by rwa [State.issued_sreg, State.issued_sreg])
  case invalid => exact traps_at rfl (doCpT_invalid (by rwa [State.issued_acq]) (by rwa [State.issued_tdt, State.issued_tdt]))
  case differ =>
    exact traps_at rfl (doCpT_differ (by rwa [State.issued_acq]) (by rwa [State.issued_tdt]) (by rwa [State.issued_tdt]) hf)
  case destination =>
    have he := doCp_destination (t := s.issued (.cp a b e 1 q)) (a := a.toNat) (b := b.toNat) (c := e.toNat) (q := q == 1)
      (f := false) (by rwa [State.issued_acq]) (by rwa [State.issued_regionSize, State.issued_sreg, State.issued_sreg])
      (by rwa [State.issued_sreg])
    rw [State.issued_sreg] at he
    exact traps_at rfl he
  case noEngine =>
    refine traps_at rfl ((doCp_inRange (by rwa [State.issued_acq]) (fun h => by simp at h) fun h => by simp at h).trans ?_)
    exact startCopy_noEngine (by rwa [State.issued_acc]) (by rwa [State.issued_myEngines])
  case full =>
    intro hr
    have he' : exec (.cpFill a b e) s = issue (.cpFill a b e) s (doCp a.toNat b.toNat e.toNat false false true) := rfl
    rw [he', issue, of_ready hr, doCp_inRange (by rwa [State.issued_acq]) (fun h => by simp at h) (fun h => by simp at h),
      startCopy_full (by rwa [State.issued_acc]) (by rwa [State.issued_myEngines]) _ (by simpa [load] using h)]
    simpa [CKind.empty] using hz
  case acq =>
    exact ⟨notYet_at rfl (doCp_acq (by rwa [State.issued_acq])), notYet_at rfl (doCp_acq (by rwa [State.issued_acq])),
      notYet_at rfl (doCpT_acq (by rwa [State.issued_acq]))⟩

/-! ## The pieces of a byte copy (14 R244) -/

section
variable {dst src off len fuel : Nat}

/-- The bytes of the piece at an offset. -/
def pieceLen (dst src off len : Nat) : Nat := min (len - off) (min (64 - (src + off) % 64) (64 - (dst + off) % 64))

theorem pieceLen_pos (h : off < len) : 0 < pieceLen dst src off len := by
  have h1 := Nat.mod_lt (src + off) (show 0 < 64 by decide)
  have h2 := Nat.mod_lt (dst + off) (show 0 < 64 by decide)
  unfold pieceLen
  omega

theorem bytePieces_done (h : len ≤ off) : bytePieces dst src fuel off len = [] := by
  cases fuel with
  | zero => rfl
  | succ fuel => exact if_pos h

theorem bytePieces_succ (h : off < len) : bytePieces dst src (fuel + 1) off len =
    ⟨some ((src + off) % 2 ^ 64), (dst + off) % 2 ^ 64, pieceLen dst src off len, off⟩ ::
      bytePieces dst src fuel (off + pieceLen dst src off len) len :=
  if_neg (Nat.not_le.mpr h)

/-- The pieces from an offset on hold the bytes that are left, once each and in order. -/
theorem bytePieces_cover (hf : len ≤ off + fuel) :
    (bytePieces dst src fuel off len).flatMap (fun p => (List.range p.len).map (p.off + ·)) = List.range' off (len - off) := by
  induction fuel generalizing off with
  | zero => simp [bytePieces, show len - off = 0 by omega]
  | succ fuel ih =>
    rcases Nat.lt_or_ge off len with h | h
    · have hp := pieceLen_pos (dst := dst) (src := src) h
      have hl : pieceLen dst src off len ≤ len - off := Nat.min_le_left _ _
      rw [bytePieces_succ h, List.flatMap_cons, ih (by omega)]
      simp only [← List.range'_eq_map_range]
      rw [List.range'_append_1]
      congr 1
      omega
    · rw [bytePieces_done h, show len - off = 0 by omega]
      rfl

theorem bytePieces_inLines (p : Piece) (hp : p ∈ bytePieces dst src fuel off len) :
    0 < p.len ∧ p.dst = (dst + p.off) % 2 ^ 64 ∧ p.src = some ((src + p.off) % 2 ^ 64) ∧ p.dst % 64 + p.len ≤ 64 ∧
      (src + p.off) % 64 + p.len ≤ 64 := by
  induction fuel generalizing off with
  | zero => simp [bytePieces] at hp
  | succ fuel ih =>
    rcases Nat.lt_or_ge off len with h | h
    · rw [bytePieces_succ h] at hp
      rcases List.mem_cons.mp hp with rfl | hp
      · refine ⟨pieceLen_pos h, rfl, rfl, ?_, ?_⟩ <;> simp only [pieceLen] <;> omega
      · exact ih hp
    · simp [bytePieces_done h] at hp

end

/-! ## Moving them (14 R244, R246) -/

section
variable {s t : State} {g : Agent} {c : CopyCmd} {p : Piece} {ps : List Piece} {k : Nat}

theorem movePieces_ok (h : s.movePiece g c p = .ok () t) : s.movePieces g c (p :: ps) k = t.movePieces g c ps (k + 1) := by
  simp only [State.movePieces, h]

theorem movePieces_err {x a : Nat} (h : s.movePiece g c p = .err t x a) : s.movePieces g c (p :: ps) k =
    t.modCopy c.id fun y => { y with moved := some k, started := true, err := if y.err.isNone then some (x, p.off, a) else y.err } := by
  simp only [State.movePieces, h]

theorem movePieces_wait (h : s.movePiece g c p = .wait t) : s.movePieces g c (p :: ps) k =
    t.modCopy c.id fun x => { x with moved := some k } := by
  simp only [State.movePieces, h]

theorem movePieces_far {i : FarLeaf} {gva a : Nat} {acc : Access} (h : s.movePiece g c p = .miss t (.far i) gva a acc) :
    s.movePieces g c (p :: ps) k = (t.modCopy c.id fun x => { x with moved := some k }).engMiss g (.far i) gva acc := by
  simp only [State.movePieces, h]

end

section
variable {s : State} {n : Nat} {c : CopyCmd} (hc : s.copies.find? (fun c => c.id == n) = some c)
include hc

theorem copyStart_begins {g : Agent} (hs : c.started = false) (hm : c.moved = none) (he : c.err = none)
    (hb : s.engineBusy c = false) (ha : s.afterDone c.uid c.after = true) (hw : s.engWaits n = false)
    (hg : s.agentFor c.ctx c.core c.uid n c.scp c.cls = some g) :
    exec (.copyStart n) s = .next ((s.modCopy n fun c => { c with floor := g.floor }).movePieces g c c.pieces 0) := by
  change Host.Outcome.next _ = _
  simp [hc, hs, hm, he, hb, ha, hw, hg]

/-! ## The end of a copy (14 R246, 17 R301) -/

section
variable (hd : s.copyDone c = true)
include hd

theorem copyComplete_ends (he : c.err = none) : exec (.copyComplete n) s = .next (s.endCopy c) := by
  change Host.Outcome.next _ = _
  simp [hc, hd, he]

theorem copyFault_node {e : Nat × Nat × Nat} {r : Nat} (he : c.err = some e) (hn : c.node = some r) :
    exec (.copyFault n) s =
      .next ((s.endCopy c).modRec r fun r => if r.st == .refused then r else { r with status := 9 }) := by
  change Host.Outcome.next _ = _
  simp [hc, hd, he, hn]

theorem copyFault_defers {e : Nat × Nat × Nat} (he : c.err = some e) (hn : c.node = none) : exec (.copyFault n) s =
    .next (((s.endCopy c).onGroup c.uid fun g => { g with trap := { g.trap with deferred := g.trap.deferred ++
        [deferredOf .copy c.id 24 e.1 e.2.2 c.pc e.2.1] } }).sink c.uid
      ((((s.endCopy c).anyGroup c.uid).map fun g => g.trap.deferred.length).getD 0)) := by
  change Host.Outcome.next _ = _
  simp [hc, hd, he, hn]

end

end

section
variable {s : State} {c : CopyCmd}

theorem endCopy_node {r : Nat} (h : c.node = some r) : s.endCopy c =
    { s with copies := s.copies.filter fun x => x.id != c.id }.modRec r
      fun r => { r with nodeDone := true, wct := max r.wct c.wct } := by
  simp [State.endCopy, h]

theorem endCopy_group (h : c.node = none) : s.endCopy c =
    ({ s with copies := s.copies.filter fun x => x.id != c.id }.freeRegion c.core c.team).onGroup c.uid
      fun g => { g with acc := { g.acc with
        cp := g.acc.cp - 1
        rfloor := BitVec.ofNat 64 (max g.acc.rfloor.toNat c.wct)
        wctmax := BitVec.ofNat 64 (max g.acc.wctmax.toNat c.wct) } } := by
  simp [State.endCopy, h]

end

/-- A record's changes are read by its name, which they keep. -/
theorem rec?_modRec {s : State} {r : Nat} {q : LRec} {f : LRec → LRec} (h : s.rec? r = some q) (hf : ∀ x, (f x).id = x.id) :
    (s.modRec r f).rec? r = some (f q) := by
  have hs : s.recs.find? (fun x => x.id == r) = some q := h
  rw [State.rec?, State.modRec, find?_map_where (fun x hx => by rwa [hf]), hs, Option.map_some]

/-- What changes a group by name changes the group whose turn it is, where that is its name, and not the copies. -/
theorem onGroup_current {s : State} {uid : Nat} (f : Group → Group) (hu : s.cur.place.used = true) (hn : s.cur.place.uid = uid) :
    (s.onGroup uid f).cur = f s.cur ∧ (s.onGroup uid f).copies = s.copies := by
  simp [State.onGroup, State.modGroup, hu, hn]

theorem freeRegion_keeps (s : State) (core team : Nat) :
    (s.freeRegion core team).cur = s.cur ∧ (s.freeRegion core team).copies = s.copies := by
  unfold State.freeRegion
  split <;> exact ⟨rfl, rfl⟩

/-- Settles O30: the pieces by their recursion, the event by the outcome of its next piece, and the ends by the command's owner. -/
theorem copiesRun : Obligations.CopiesRun := by
  unfold Obligations.CopiesRun
  intro s
  refine ⟨fun dst src len => ?cover, fun dst src len => bytePieces_inLines,
    fun n c g hc hs hm he hb ha hw hg => copyStart_begins hc hs hm he hb ha hw hg, fun _ _ _ => rfl,
    fun g c p ps k t h => movePieces_ok h, fun g c p ps k t x a h => movePieces_err h, fun g c p ps k t h => movePieces_wait h,
    fun g c p ps k t i gva a acc h => movePieces_far h, fun _ _ _ _ => rfl, fun n c hc hd he hn => ?group,
    fun n c r hc hd he hn => ?node, fun n c r e hc hd he hn => ?nodeFault, fun n c e hc hd he hn hu hi => ?groupFault⟩
  case cover => rw [bytePieces_cover (by omega), Nat.sub_zero, ← List.range_eq_range']
  case group => rw [copyComplete_ends hc hd he, endCopy_group hn]
  case node => rw [copyComplete_ends hc hd he, endCopy_node hn]
  case nodeFault =>
    refine ⟨_, copyFault_node hc hd he hn, by rw [endCopy_node hn]; rfl, fun q hq hs => ?_⟩
    have h1 : (s.endCopy c).rec? r = some { q with nodeDone := true, wct := max q.wct c.wct } := by
      rw [endCopy_node hn]
      exact rec?_modRec hq fun _ => rfl
    refine (rec?_modRec h1 fun x => ?_).trans ?_
    · split <;> rfl
    · simp [hs]
  case groupFault =>
    have ht := freeRegion_keeps { s with copies := s.copies.filter fun x => x.id != c.id } c.core c.team
    have hend := onGroup_current (s := { s with copies := s.copies.filter fun x => x.id != c.id }.freeRegion c.core c.team)
      (uid := c.uid) (fun g => { g with acc := { g.acc with
        cp := g.acc.cp - 1
        rfloor := BitVec.ofNat 64 (max g.acc.rfloor.toNat c.wct)
        wctmax := BitVec.ofNat 64 (max g.acc.wctmax.toNat c.wct) } }) (by rw [ht.1]; exact hu) (by rw [ht.1]; exact hi)
    rw [← endCopy_group hn, ht.1, ht.2] at hend
    obtain ⟨hcur, hcop⟩ := hend
    dsimp only at hcur
    have hdef := onGroup_current (s := s.endCopy c) (uid := c.uid) (fun g => { g with trap := { g.trap with
      deferred := g.trap.deferred ++ [deferredOf .copy c.id 24 e.1 e.2.2 c.pc e.2.1] } }) (by rw [hcur]; exact hu)
      (by rw [hcur]; exact hi)
    refine ⟨_, copyFault_defers hc hd he hn, hdef.2.trans hcop, ?_, ?_⟩
    · exact (congrArg (fun g : Group => g.acc.cp) hdef.1).trans (congrArg (fun g : Group => g.acc.cp) hcur)
    · refine (congrArg (fun g : Group => g.trap.deferred) hdef.1).trans ?_
      rw [hcur]

end Sys2Proof.Proofs.Copies

/-!
# Descriptors and carillon trees

`tdt.set` by the ends of its reads, `tree.set` by the fields of its entry, and a multicast packet at a port by its tree entry.
-/

namespace Sys2Proof.Proofs.Descriptors

open Sys2Proof Sys2Proof.Machine Sys2Proof.Laws.Issue Sys2Proof.Proofs.ControlWrites Sys2Proof.Proofs.Frames Sys2Proof.Proofs.Routers Sys2Proof.Proofs.ObjectInstructions

/-! ## Fields of words -/

theorem bitsOf_one (n i : Nat) : bitsOf n i i = (n.testBit i).toNat := by
  rw [bitsOf_eq_div_mod, Nat.add_sub_cancel_left, pow_one, Nat.toNat_testBit]

theorem bitsOf_extractLsb' {w : Nat} (x : BitVec w) (hi lo : Nat) : bitsOf x.toNat hi lo = (x.extractLsb' lo (hi + 1 - lo)).toNat := by
  rw [bitsOf, BitVec.extractLsb'_toNat]

/-! ## Descriptor entries (12 R205) -/

section
variable {t : State} {d a w n : Nat}

theorem doTdtGet_valid {e : BitVec 512} (h : t.tdt? n = some e) :
    doTdtGet d w n t = .ok (t.setSreg d (e.extractLsb' (64 * w) 64)) := by
  have hb : bitsOf e.toNat (64 * w + 63) (64 * w) = (e.extractLsb' (64 * w) 64).toNat := by
    rw [bitsOf_extractLsb', show 64 * w + 63 + 1 - 64 * w = 64 by omega]
  simp only [doTdtGet, h, Option.getD_some, hb, BitVec.ofNat_toNat, BitVec.setWidth_eq]

theorem doTdtGet_invalid (h : t.tdt? n = none) : doTdtGet d w n t = .ok (t.setSreg d 0) := by
  have hb : BitVec.ofNat 64 (bitsOf (0 : BitVec 512).toNat (64 * w + 63) (64 * w)) = 0 := by simp [bitsOf]
  simp only [doTdtGet, h, Option.getD_none, hb]

theorem doTdtSet_misaligned (h : (t.sreg a).toNat % 64 ≠ 0) : doTdtSet d a n t = .ok (t.setSreg d 1) :=
  if_pos h

section
variable {u : State} {bs : List Byte} (ha : (t.sreg a).toNat % 64 = 0) (hr : Reads t (t.sreg a).toNat 1 bs u)
include ha hr

theorem doTdtSet_malformed (hk : tdOk (BitVec.ofNat 512 (ofLeBytes bs)) = false) : doTdtSet d a n t = .ok (u.setSreg d 1) := by
  simp only [doTdtSet, ha, ne_eq, not_true_eq_false, if_false, readLines_of_reads hr, hk, Bool.not_false, if_true]

section
variable (hk : tdOk (BitVec.ofNat 512 (ofLeBytes bs)) = true)
include hk

theorem doTdtSet_plain (hd : tdf (BitVec.ofNat 512 (ofLeBytes bs)) 463 463 = 0) : doTdtSet d a n t =
    .ok ((u.setTdt n (some (tdSet (BitVec.ofNat 512 (ofLeBytes bs)) 504 504 1))).setSreg d 0) := by
  simp only [doTdtSet, ha, ne_eq, not_true_eq_false, if_false, readLines_of_reads hr, hk, Bool.not_true, Bool.false_eq_true, hd, if_true]

/-- An entry whose scale is derived from the amax that its record names (03 R63). -/
theorem doTdtSet_derived {v : State} {cs : List Byte} (hd : tdf (BitVec.ofNat 512 (ofLeBytes bs)) 463 463 = 1)
    (hv : ReadsFrom (decide (3 ≤ tdf (BitVec.ofNat 512 (ofLeBytes bs)) 467 464)) u
      [⟨0, tdf (BitVec.ofNat 512 (ofLeBytes bs)) 383 320, 4⟩] cs v) :
    let e := BitVec.ofNat 512 (ofLeBytes bs)
    let r := scaleCode (BitVec.ofNat 32 (ofLeBytes (cs.take 4))) (if tdFmt e = 4 then 57344 else 448) 0
    doTdtSet d a n t = .ok ((((v.raise r.2).modCkpt fun c => { c with closed := true }).setTdt n
      (some (tdSet (tdSet e 479 472 r.1) 504 504 1))).setSreg d 0) := by
  simp only [doTdtSet, ha, ne_eq, not_true_eq_false, if_false, readLines_of_reads hr, hk, Bool.not_true, Bool.false_eq_true, hd,
    one_ne_zero, readFrom_of_readsFrom hv]

end

end

end

/-! ## Tree entries (12 R211) -/

/-- A tree entry that `tree.set` refuses at a port. -/
def Malformed (p z : DWord) : Prop :=
  16 ≤ p ∨ z.getLsbD 62 ∨ z.extractLsb' 48 8 ≠ 0 ∨ z.extractLsb' 29 11 ≠ 0 ∨ z.getLsbD (p.toNat % 16) ∨ (z.getLsbD 28 ∧ 4 ≤ p)

theorem malformed_iff (p z : DWord) : Malformed p z ↔
    16 ≤ p.toNat ∨ bitsOf z.toNat 62 62 ≠ 0 ∨ bitsOf z.toNat 55 48 ≠ 0 ∨ bitsOf z.toNat 39 29 ≠ 0 ∨
      z.toNat / 2 ^ (p.toNat % 16) % 2 = 1 ∨ (bitsOf z.toNat 28 28 = 1 ∧ 4 ≤ p.toNat) := by
  have hle : ∀ n : Nat, n < 2 ^ 64 → (BitVec.ofNat 64 n ≤ p ↔ n ≤ p.toNat) := fun n h => by
    rw [BitVec.le_def, BitVec.toNat_ofNat, Nat.mod_eq_of_lt h]
  have hz : ∀ lo n, z.extractLsb' lo n ≠ 0 ↔ (z.extractLsb' lo n).toNat ≠ 0 := fun lo n =>
    not_congr (BitVec.toNat_inj.symm.trans (by rw [BitVec.ofNat_eq_ofNat, BitVec.toNat_ofNat, Nat.zero_mod]))
  have hbit : z.toNat / 2 ^ (p.toNat % 16) % 2 = 1 ↔ z.getLsbD (p.toNat % 16) = true := by
    rw [BitVec.getLsbD, Nat.testBit_eq_decide_div_mod_eq, decide_eq_true_eq]
  unfold Malformed
  rw [hbit, bitsOf_one, bitsOf_one, bitsOf_extractLsb' z 55 48, bitsOf_extractLsb' z 39 29, hz, hz, ← hle 16 (by decide),
    ← hle 4 (by decide)]
  simp [BitVec.getLsbD]

section
variable {t : State} {d a n : Nat}

theorem doTreeSet_malformed (h : Malformed (t.sreg a) (t.sreg (a + 1))) : doTreeSet d a n t = .ok (t.setSreg d 1) :=
  if_pos ((malformed_iff _ _).mp h)

/-- The entry of a tree at a port replaced, or dropped where it is 0. -/
def setTree (t : State) (p n : Nat) (z : DWord) : State :=
  let rest := t.trees.filter fun x => !(x.port == p && x.n == n)
  { t with trees := if z.toNat = 0 then rest else ⟨p, n, BitVec.ofNat 64 z.toNat⟩ :: rest }

theorem doTreeSet_formed (h : ¬ Malformed (t.sreg a) (t.sreg (a + 1))) :
    doTreeSet d a n t = .ok ((setTree t (t.sreg a).toNat n (t.sreg (a + 1))).setSreg d 0) :=
  if_neg fun hn => h ((malformed_iff _ _).mpr hn)

theorem treeAt_setTree_same (t : State) (p n : Nat) (z : DWord) : (setTree t p n z).treeAt p n = z := by
  unfold State.treeAt setTree
  dsimp only
  split
  · next hz =>
    have hn : (t.trees.filter fun x => !(x.port == p && x.n == n)).find? (fun x => x.port == p && x.n == n) = none :=
      List.find?_eq_none.mpr fun x hx => by
        have := (List.mem_filter.mp hx).2
        simpa [Bool.not_eq_true', imp_iff_not_or] using this
    rw [hn]
    exact (BitVec.eq_of_toNat_eq hz).symm
  · rw [List.find?_cons_of_pos (by simp)]
    simp

/-- What a filter keeps of the elements that are looked for does not change what is found. -/
theorem find?_filter_of_imp {α : Type} {p q : α → Bool} (h : ∀ x, q x = true → p x = true) (l : List α) :
    (l.filter p).find? q = l.find? q := by
  rw [List.find?_filter]
  congr 1
  funext x
  cases hq : q x with
  | true => simp [h x hq]
  | false => simp

theorem treeAt_setTree_other (t : State) {p n q m : Nat} (z : DWord) (h : q ≠ p ∨ m ≠ n) :
    (setTree t p n z).treeAt q m = t.treeAt q m := by
  have hf : (t.trees.filter fun x => !(x.port == p && x.n == n)).find? (fun x => x.port == q && x.n == m) =
      t.trees.find? fun x => x.port == q && x.n == m :=
    find?_filter_of_imp (fun x hx => by
      obtain ⟨rfl, rfl⟩ : x.port = q ∧ x.n = m := by simpa using hx
      simpa [imp_iff_not_or] using h) _
  unfold State.treeAt setTree
  dsimp only
  split
  · rw [hf]
  · rw [List.find?_cons_of_neg, hf]
    simp only [Bool.and_eq_true, beq_iff_eq]
    rintro ⟨rfl, rfl⟩
    simp at h

end

/-! ## Multicast packets at a port (12 R210, 14 R247) -/

/-- The copy of a packet that is the peer's: the entry's tree number, and one hop less. -/
def copyBeyond (pkt : McPacket) (tree p : Nat) : McFlight := ⟨beyond p, 0, { pkt with tree := tree, hops := pkt.hops - 1 }⟩

/-- A packet leaves by a port. -/
def leaves (pkt : McPacket) (tree : Nat) (s : State) (p : Nat) : State :=
  { s with mcast := s.mcast ++ [copyBeyond pkt tree p] }.sendPacket p chanData

/-- The holders of an entry take a packet of another package's primary where their echo set counts them. -/
def delivered (s : State) (e : Nat) (pkt : McPacket) : State :=
  (s.treeHolders e).foldl (fun s' d => s'.fromOutside pkt ((Config.freeBits 32 s.freeCount).getLsbD (d % 32)) d)
    { s with freeCount := s.freeCount + 1 }

/-- What a port makes of a packet once its echoes have landed. -/
def forwarded (s : State) (port : Nat) (pkt : McPacket) : State :=
  let e := (s.treeAt port pkt.tree).toNat
  if pkt.hops = 0 ∨ bitsOf e 63 63 = 0 ∨ bitsOf e 61 56 ≠ pkt.vdid then s.errorRecord ⟨42, 0, pkt.vdid, 0, 0, pkt.addr, [], false⟩
  else
    let u := if pkt.prim / 256 = s.pkgNum then s else delivered s e pkt
    (u.treePorts e port).foldl (leaves pkt (bitsOf e 47 40)) u

section
variable {s : State} {port : Nat} {pkt : McPacket}

theorem multicastForward_arrives (hp : port < 16) (hf : s.mcast.find? (fun m => m.port == port && m.pkt == pkt) = none) :
    exec (.multicastForward port pkt) s = .next (forwarded s port pkt) := by
  change Host.Outcome.next _ = _
  rw [if_neg (Nat.not_le.mpr hp)]
  simp only [hf]
  rfl

theorem multicastForward_lands (hp : port < 16) {m : McFlight}
    (hf : s.mcast.find? (fun m => m.port == port && m.pkt == pkt) = some m) :
    exec (.multicastForward port pkt) s = .next (forwarded ({ s with mcast := s.mcast.erase m }.landed m.write) port pkt) := by
  change Host.Outcome.next _ = _
  rw [if_neg (Nat.not_le.mpr hp)]
  simp only [hf]
  rfl

/-- A packet that its tree entry drops. -/
theorem forwarded_dropped
    (h : pkt.hops = 0 ∨ (s.treeAt port pkt.tree).getLsbD 63 = false ∨ bitsOf (s.treeAt port pkt.tree).toNat 61 56 ≠ pkt.vdid) :
    forwarded s port pkt = s.errorRecord ⟨42, 0, pkt.vdid, 0, 0, pkt.addr, [], false⟩ := by
  have hv : bitsOf (s.treeAt port pkt.tree).toNat 63 63 = 0 ↔ (s.treeAt port pkt.tree).getLsbD 63 = false := by
    rw [bitsOf_one, BitVec.getLsbD]
    cases (s.treeAt port pkt.tree).toNat.testBit 63 <;> simp
  exact if_pos (by rwa [hv])

section
variable (hh : pkt.hops ≠ 0) (hv : bitsOf (s.treeAt port pkt.tree).toNat 63 63 = 1)
  (hd : bitsOf (s.treeAt port pkt.tree).toNat 61 56 = pkt.vdid)
include hh hv hd

theorem not_dropped : ¬ (pkt.hops = 0 ∨ bitsOf (s.treeAt port pkt.tree).toNat 63 63 = 0 ∨
    bitsOf (s.treeAt port pkt.tree).toNat 61 56 ≠ pkt.vdid) := by
  rintro (h | h | h)
  · exact hh h
  · exact absurd (h.symm.trans hv) (by decide)
  · exact h hd

theorem forwarded_own (ho : pkt.prim / 256 = s.pkgNum) : forwarded s port pkt =
    (s.treePorts (s.treeAt port pkt.tree).toNat port).foldl (leaves pkt (bitsOf (s.treeAt port pkt.tree).toNat 47 40)) s := by
  unfold forwarded
  simp only [if_neg (not_dropped hh hv hd), if_pos ho]

theorem forwarded_outside (ho : pkt.prim / 256 ≠ s.pkgNum) : forwarded s port pkt =
    ((delivered s (s.treeAt port pkt.tree).toNat pkt).treePorts (s.treeAt port pkt.tree).toNat port).foldl
      (leaves pkt (bitsOf (s.treeAt port pkt.tree).toNat 47 40)) (delivered s (s.treeAt port pkt.tree).toNat pkt) := by
  unfold forwarded
  simp only [if_neg (not_dropped hh hv hd), if_neg ho]

end

theorem foldl_leaves (tree : Nat) (l : List Nat) (s : State) :
    (l.foldl (leaves pkt tree) s).mcast = s.mcast ++ l.map (copyBeyond pkt tree) ∧
      (l.foldl (leaves pkt tree) s).echoes = s.echoes := by
  induction l generalizing s with
  | nil => simp
  | cons p l ih =>
    have hu := sendPacket_unsent { s with mcast := s.mcast ++ [copyBeyond pkt tree p] } p chanData
    have hm : (leaves pkt tree s p).mcast = s.mcast ++ [copyBeyond pkt tree p] := (congrArg State.mcast hu :)
    have he : (leaves pkt tree s p).echoes = s.echoes := (congrArg State.echoes hu :)
    obtain ⟨h1, h2⟩ := ih (leaves pkt tree s p)
    rw [List.foldl_cons, h1, h2, hm, he]
    exact ⟨by simp, rfl⟩

end

/-- An entry of a world that delivers to CD0 and forwards nowhere. -/
def toHome (v : Nat) : DWord := 0x8000000000000000#64 ||| (BitVec.ofNat 64 v <<< 56) ||| 0x10000000#64

theorem toHome_fields : ∀ v < 64, bitsOf (toHome v).toNat 63 63 = 1 ∧ bitsOf (toHome v).toNat 61 56 = v ∧
    bitsOf (toHome v).toNat 28 28 = 1 ∧ bitsOf (toHome v).toNat 27 16 = 0 ∧ bitsOf (toHome v).toNat 15 0 = 0 := by
  decide

theorem treePorts_none {e : Nat} (h : bitsOf e 15 0 = 0) (s : State) (port : Nat) : s.treePorts e port = [] := by
  simp [State.treePorts, h]

theorem treeHolders_home {e : Nat} (h1 : bitsOf e 28 28 = 1) (h2 : bitsOf e 27 16 = 0) (s : State) : s.treeHolders e = [s.localId 0] := by
  simp [State.treeHolders, h1, h2]

/-- A holder takes a packet from outside as an echo, where the packet's primary counts it. -/
theorem fromOutside_ends (s : State) (pkt : McPacket) (b : Bool) {d : Nat} {h : HolderSt} (hh : s.holderState d pkt.addr = some h) :
    (s.fromOutside pkt b d).mcast = s.mcast ∧ ((s.fromOutside pkt b d).echoes = s.echoes ∨ (s.fromOutside pkt b d).echoes =
      s.echoes ++ [⟨s.nextId, 0, pkt.prim, d, h.pre, pkt.addr, pkt.data.take (64 - pkt.addr % 64), pkt.time, false, false⟩]) := by
  unfold State.fromOutside
  rw [hh]
  dsimp only
  split
  · exact ⟨rfl, .inl rfl⟩
  · exact ⟨rfl, .inr rfl⟩

/-- Settles O31: descriptors by what their reads bring, tree entries by their fields, and packets by their entry. -/
theorem descriptorsAndTrees : Obligations.DescriptorsAndTrees := by
  unfold Obligations.DescriptorsAndTrees
  intro s d a b w n k
  refine ⟨does rfl fun _ => rfl, fun e h => ?get, fun h => ?getNone, fun h => ?misaligned, fun bs t ha hr hk => ?malformed,
    fun bs t ha hr hk hd => ?plain, fun bs t cs v ha hr hk hd hv => ?derived, fun z hz h => ?treeBad, fun z hz h hr => ?tree,
    fun port pkt hp hf h => ?dropped, fun port pkt m hp hf hh hv hd ho => ?own,
    fun port pkt h hp hf hh ho he hd hs _ => ?outside⟩
  case get => exact does_at rfl (doTdtGet_valid (by rwa [State.issued_tdt]))
  case getNone => exact does_at rfl (doTdtGet_invalid (by rwa [State.issued_tdt]))
  case misaligned => exact does_at rfl (doTdtSet_misaligned (by rwa [State.issued_sreg]))
  case malformed => exact does_at rfl (doTdtSet_malformed (by rwa [State.issued_sreg]) (by rwa [State.issued_sreg]) hk)
  case plain => exact does_at rfl (doTdtSet_plain (by rwa [State.issued_sreg]) (by rwa [State.issued_sreg]) hk hd)
  case derived => exact does_at rfl (doTdtSet_derived (by rwa [State.issued_sreg]) (by rwa [State.issued_sreg]) hk hd hv)
  case treeBad =>
    subst hz
    exact does_at rfl (doTreeSet_malformed (by rwa [State.issued_sreg, State.issued_sreg]))
  case tree =>
    subst hz
    have he : exec (.treeSet d b k) s = issue (.treeSet d b k) s (doTreeSet d.toNat b.toNat k.toNat) := rfl
    have hm : ¬ Malformed ((s.issued (.treeSet d b k)).sreg b.toNat) ((s.issued (.treeSet d b k)).sreg (b.toNat + 1)) := by
      rwa [State.issued_sreg, State.issued_sreg]
    have hb := doTreeSet_formed (d := d.toNat) (n := k.toNat) hm
    rw [State.issued_sreg, State.issued_sreg] at hb
    have htrees : ∀ u : State, ((u.setSreg d.toNat 0).finish (.treeSet d b k) s).trees = u.trees := fun u => by
      rw [finish_outside]
      rfl
    have hat : ∀ (u v : State) p n, v.trees = u.trees → v.treeAt p n = u.treeAt p n := fun u v p n h => by
      rw [State.treeAt, h, State.treeAt]
    refine ⟨_, by rw [he, issue, of_ok hr hb], (hat _ _ _ _ (htrees _)).trans (treeAt_setTree_same ..), ?_, fun p n h =>
      (hat _ _ _ _ (htrees _)).trans ((treeAt_setTree_other _ _ h).trans (hat _ _ _ _ (State.issued_trees ..)))⟩
    rw [State.sreg, finish_regs]
    exact State.sreg_setSreg_same _ d.isLt 0
  case dropped => rw [multicastForward_arrives hp hf, forwarded_dropped h]
  case own =>
    have hex := (multicastForward_lands hp hf).trans (congrArg Host.Outcome.next (forwarded_own hh hv hd ho))
    obtain ⟨h1, h2⟩ := foldl_leaves (pkt := pkt) (bitsOf (s.treeAt port pkt.tree).toNat 47 40)
      (s.treePorts (s.treeAt port pkt.tree).toNat port) ({ s with mcast := s.mcast.erase m }.landed m.write)
    exact ⟨_, hex, h1, h2⟩
  case outside =>
    obtain ⟨hv, hw, hc, h27, h15⟩ := toHome_fields pkt.vdid hd
    rw [← toHome] at he
    have hex := (multicastForward_arrives hp hf).trans
      (congrArg Host.Outcome.next (forwarded_outside hh (by rw [he, hv]) (by rw [he, hw]) ho))
    rw [he, treePorts_none h15, delivered, treeHolders_home hc h27] at hex
    exact ⟨_, s.nextId, hex, fromOutside_ends { s with freeCount := s.freeCount + 1 } pkt _ hs⟩

end Sys2Proof.Proofs.Descriptors

/-!
# The matrix unit

Claims and releases of tiles and operand slots.
-/

namespace Sys2Proof.Proofs.MatrixUnit

open Sys2Proof Sys2Proof.Machine Sys2Proof.Laws.Issue Sys2Proof.Proofs.Frames Sys2Proof.Proofs.Translation

/-! ## Tiles and slots by core and number -/

theorem mem_maskNums {w j : Nat} {m : BitVec w} : j ∈ maskNums m ↔ m.getLsbD j = true := by
  rw [maskNums, List.mem_filter, List.mem_range]
  exact ⟨And.right, fun h => ⟨BitVec.lt_of_getLsbD h, h⟩⟩

section
variable {α : Type} {core idx : α → Nat} (x : α) (l : List α) (c j : Nat)

/-- Reading a keyed list after the entry of one key has been replaced. -/
theorem find?_replaced : (x :: l.filter fun y => !(core y == core x && idx y == idx x)).find? (fun y => core y == c && idx y == j) =
    if core x = c ∧ idx x = j then some x else l.find? (fun y => core y == c && idx y == j) := by
  rw [List.find?_cons]
  by_cases h : core x = c ∧ idx x = j
  · rw [if_pos h, h.1, h.2]
    simp
  · rw [if_neg h]
    have hx : (core x == c && idx x == j) = false := by simpa using h
    simp only [hx]
    refine Descriptors.find?_filter_of_imp (fun y hy => ?_) l
    simp only [Bool.and_eq_true, beq_iff_eq] at hy
    simp only [hy, Bool.not_eq_true', Bool.and_eq_false_iff, beq_eq_false_iff_ne]
    exact (not_and_or.mp h).imp Ne.symm Ne.symm

end

theorem tile?_setTile (s : State) (x : TileSt) (c j : Nat) :
    (s.setTile x).tile? c j = if x.core = c ∧ x.idx = j then some x else s.tile? c j :=
  find?_replaced (core := TileSt.core) (idx := TileSt.idx) ..

theorem slot?_setSlot (s : State) (x : SlotSt) (c j : Nat) :
    (s.setSlot x).slot? c j = if x.core = c ∧ x.idx = j then some x else s.slot? c j :=
  find?_replaced (core := SlotSt.core) (idx := SlotSt.idx) ..

section
variable (s : State) (i : Instr)

@[simp] theorem issued_tile? (c j : Nat) : (s.issued i).tile? c j = s.tile? c j := by
  rw [State.tile?, State.issued_tiles, State.tile?]

@[simp] theorem issued_slot? (c j : Nat) : (s.issued i).slot? c j = s.slot? c j := by
  rw [State.slot?, State.issued_oslots, State.slot?]

variable (t : State)

theorem finish_tile? (c j : Nat) : (t.finish i s).tile? c j = t.tile? c j := by
  rw [finish_outside]
  rfl

theorem finish_slot? (c j : Nat) : (t.finish i s).slot? c j = t.slot? c j := by
  rw [finish_outside]
  rfl

theorem finish_mat : (t.finish i s).cur.mat = t.cur.mat := by rw [finish_cur]

theorem finish_sreg (n : Nat) : (t.finish i s).sreg n = t.sreg n := by rw [State.sreg, finish_regs, State.sreg]

end

/-! ## `zclaim` and `oclaim` (16 R269) -/

/-- A tile as a claim of the group starts it: empty. -/
def newTile (t : State) (j : Nat) : TileSt := ⟨t.cur.place.core, j, t.cur.place.uid, t.myWorld, false, [], []⟩

/-- An operand slot as a claim of the group starts it: empty and without a tag. -/
def newSlot (t : State) (j : Nat) : SlotSt := ⟨t.cur.place.core, j, t.cur.place.uid, t.myWorld, false, 255, [], [], []⟩

/-- Tiles are started empty for the group. -/
def startTiles (l : List Nat) (t : State) : State :=
  l.foldl (fun u i => u.setTile ⟨t.cur.place.core, i, t.cur.place.uid, u.myWorld, false, [], []⟩) t

/-- Operand slots are started empty for the group. -/
def startSlots (l : List Nat) (t : State) : State :=
  l.foldl (fun u i => u.setSlot ⟨t.cur.place.core, i, t.cur.place.uid, u.myWorld, false, 255, [], [], []⟩) t

section
variable (t : State) (l : List Nat)

theorem startTiles_cur : (startTiles l t).cur = t.cur := by
  unfold startTiles
  refine foldl_keeps (g := State.cur) ?_ l t
  exact fun _ _ => rfl

theorem startSlots_cur : (startSlots l t).cur = t.cur := by
  unfold startSlots
  refine foldl_keeps (g := State.cur) ?_ l t
  exact fun _ _ => rfl

theorem tile?_startTiles (c j : Nat) :
    (startTiles l t).tile? c j = if t.cur.place.core = c ∧ j ∈ l then some (newTile t j) else t.tile? c j := by
  induction l generalizing t with
  | nil => simp [startTiles]
  | cons i l ih =>
    have hs : startTiles (i :: l) t = startTiles l (t.setTile (newTile t i)) := rfl
    rw [hs, ih, tile?_setTile]
    grind [newTile, State.setTile, State.myWorld, State.myCtx, State.ctx?]

theorem slot?_startSlots (c j : Nat) :
    (startSlots l t).slot? c j = if t.cur.place.core = c ∧ j ∈ l then some (newSlot t j) else t.slot? c j := by
  induction l generalizing t with
  | nil => simp [startSlots]
  | cons i l ih =>
    have hs : startSlots (i :: l) t = startSlots l (t.setSlot (newSlot t i)) := rfl
    rw [hs, ih, slot?_setSlot]
    grind [newSlot, State.setSlot, State.myWorld, State.myCtx, State.ctx?]

end

section
variable {t : State} (d : Nat)

/-- The tiles of a mask that nobody holds. -/
def freeTiles (t : State) (m : BitVec 12) : List Nat := (maskNums m).filter fun i => (t.tile? t.cur.place.core i).isNone

/-- The slots of a mask that nobody holds. -/
def freeSlots (t : State) (o : BitVec 8) : List Nat := (maskNums o).filter fun i => (t.slot? t.cur.place.core i).isNone

variable {m : BitVec 12} {o : BitVec 8}

theorem doZclaim_busy (h : ∃ j x, m.getLsbD j = true ∧ t.tile? t.cur.place.core j = some x ∧ x.owner ≠ t.cur.place.uid) :
    doZclaim d m t = .ok (t.setSreg d 2) := by
  obtain ⟨j, x, hj, hx, ho⟩ := h
  exact if_pos (List.any_eq_true.2 ⟨j, mem_maskNums.2 hj, by simpa [hx] using ho⟩)

theorem doOclaim_busy (h : ∃ j x, o.getLsbD j = true ∧ t.slot? t.cur.place.core j = some x ∧ x.owner ≠ t.cur.place.uid) :
    doOclaim d o t = .ok (t.setSreg d 2) := by
  obtain ⟨j, x, hj, hx, ho⟩ := h
  exact if_pos (List.any_eq_true.2 ⟨j, mem_maskNums.2 hj, by simpa [hx] using ho⟩)

/-- A claim of tiles that is granted. -/
def claimTiles (d : Nat) (m : BitVec 12) (t : State) : State :=
  ((startTiles (freeTiles t m) t).modMat fun x => { x with tiles := x.tiles ||| m }).setSreg d 0

/-- A claim of operand slots that is granted. -/
def claimSlots (d : Nat) (o : BitVec 8) (t : State) : State :=
  ((startSlots (freeSlots t o) t).modMat fun x => { x with slots := x.slots ||| o }).setSreg d 0

theorem doZclaim_free (h : ∀ j x, m.getLsbD j = true → t.tile? t.cur.place.core j = some x → x.owner = t.cur.place.uid) :
    doZclaim d m t = .ok (claimTiles d m t) := by
  refine if_neg fun hb => ?_
  obtain ⟨j, hj, hb⟩ := List.any_eq_true.1 hb
  cases hx : t.tile? t.cur.place.core j with
  | none => simp [hx] at hb
  | some x => simp [hx, h j x (mem_maskNums.1 hj) hx] at hb

theorem doOclaim_free (h : ∀ j x, o.getLsbD j = true → t.slot? t.cur.place.core j = some x → x.owner = t.cur.place.uid) :
    doOclaim d o t = .ok (claimSlots d o t) := by
  refine if_neg fun hb => ?_
  obtain ⟨j, hj, hb⟩ := List.any_eq_true.1 hb
  cases hx : t.slot? t.cur.place.core j with
  | none => simp [hx] at hb
  | some x => simp [hx, h j x (mem_maskNums.1 hj) hx] at hb

theorem claimTiles_mat : (claimTiles d m t).cur.mat.tiles = t.cur.mat.tiles ||| m :=
  congrArg (fun g : Group => g.mat.tiles ||| m) (startTiles_cur t _)

theorem claimSlots_mat : (claimSlots d o t).cur.mat.slots = t.cur.mat.slots ||| o :=
  congrArg (fun g : Group => g.mat.slots ||| o) (startSlots_cur t _)

/-- Every tile after a claim: one of the mask that nobody held is started, every other one is as it was. -/
theorem claimTiles_tile? (c j : Nat) : (claimTiles d m t).tile? c j =
    if t.cur.place.core = c ∧ m.getLsbD j = true ∧ t.tile? c j = none then some (newTile t j) else t.tile? c j := by
  refine (tile?_startTiles t _ c j).trans (if_congr (and_congr_right fun h => ?_) rfl rfl)
  rw [freeTiles, List.mem_filter, mem_maskNums, h, Option.isNone_iff_eq_none]

/-- Every slot after a claim: one of the mask that nobody held is started, every other one is as it was. -/
theorem claimSlots_slot? (c j : Nat) : (claimSlots d o t).slot? c j =
    if t.cur.place.core = c ∧ o.getLsbD j = true ∧ t.slot? c j = none then some (newSlot t j) else t.slot? c j := by
  refine (slot?_startSlots t _ c j).trans (if_congr (and_congr_right fun h => ?_) rfl rfl)
  rw [freeSlots, List.mem_filter, mem_maskNums, h, Option.isNone_iff_eq_none]

end

/-! ## `zrel` and `orel` (16 R270) -/

theorem issued_unnamed (s : State) (i : Instr) (tiles slots : Nat) :
    (s.issued i).unnamed (s.issued i).cur tiles slots = s.unnamed s.cur tiles slots := by
  simp only [State.unnamed, State.cmdsOf, State.issued_mqueue, State.issued_place, State.issued_mat]

theorem releases_of {i : Instr} {s : State} {tiles slots : Nat} {w : Wait} (he : exec i s = issue i s (doRel tiles slots w)) :
    Releases i s tiles slots w :=
  ⟨fun h => holds_at (f := id) he (if_neg (by simp [issued_unnamed, h])), fun h => does_at he (if_pos (by rwa [issued_unnamed]))⟩

/-- Settles O32: claims by what each tile or slot reads before and after. -/
theorem matrixClaims : Obligations.MatrixClaims := by
  unfold Obligations.MatrixClaims
  intro s d m o
  refine ⟨fun h => ?tilesBusy, fun h hr => ?tiles, fun h => ?slotsBusy, fun h hr => ?slots, releases_of rfl, releases_of rfl,
    fun _ _ => rfl, fun _ _ => rfl⟩
  case tilesBusy => exact does_at rfl (doZclaim_busy _ (by simpa using h))
  case slotsBusy => exact does_at rfl (doOclaim_busy _ (by simpa using h))
  case tiles =>
    have he : exec (.zclaim d m) s = issue (.zclaim d m) s (doZclaim d.toNat m) := rfl
    have hb := doZclaim_free (t := s.issued (.zclaim d m)) d.toNat (m := m) (by simpa using h)
    have ht : ∀ c j, ((claimTiles d.toNat m (s.issued (.zclaim d m))).finish (.zclaim d m) s).tile? c j = if s.cur.place.core = c ∧
        m.getLsbD j = true ∧ s.tile? c j = none then some (newTile s j) else s.tile? c j := fun c j => by
      rw [finish_tile?, claimTiles_tile?, issued_tile?, State.issued_place]
      simp only [newTile, State.issued_place, State.issued_myWorld]
    refine ⟨_, by rw [he, issue, of_ok hr hb], ?_, ?_, fun j hj => ?_, fun j hj hx => ?_, fun j x hx => ?_, fun c j hj => ?_⟩
    · rw [finish_sreg]
      exact State.sreg_setSreg_same _ d.isLt 0
    · rw [finish_mat, claimTiles_mat, State.issued_mat]
    · cases hx : s.tile? s.cur.place.core j with
      | none => exact ⟨_, (ht _ _).trans (if_pos ⟨rfl, hj, hx⟩), rfl⟩
      | some x => exact ⟨x, ((ht _ _).trans (if_neg (by simp [hx]))).trans hx, h j x hj hx⟩
    · exact (ht _ _).trans (if_pos ⟨rfl, hj, hx⟩)
    · exact ((ht _ _).trans (if_neg (by simp [hx]))).trans hx
    · exact (ht _ _).trans (if_neg (by simp [hj]))
  case slots =>
    have he : exec (.oclaim d o) s = issue (.oclaim d o) s (doOclaim d.toNat o) := rfl
    have hb := doOclaim_free (t := s.issued (.oclaim d o)) d.toNat (o := o) (by simpa using h)
    have ht : ∀ c j, ((claimSlots d.toNat o (s.issued (.oclaim d o))).finish (.oclaim d o) s).slot? c j = if s.cur.place.core = c ∧
        o.getLsbD j = true ∧ s.slot? c j = none then some (newSlot s j) else s.slot? c j := fun c j => by
      rw [finish_slot?, claimSlots_slot?, issued_slot?, State.issued_place]
      simp only [newSlot, State.issued_place, State.issued_myWorld]
    refine ⟨_, by rw [he, issue, of_ok hr hb], ?_, ?_, fun j hj => ?_, fun j hj hx => ?_, fun j x hx => ?_, fun c j hj => ?_⟩
    · rw [finish_sreg]
      exact State.sreg_setSreg_same _ d.isLt 0
    · rw [finish_mat, claimSlots_mat, State.issued_mat]
    · cases hx : s.slot? s.cur.place.core j with
      | none => exact ⟨_, (ht _ _).trans (if_pos ⟨rfl, hj, hx⟩), rfl⟩
      | some x => exact ⟨x, ((ht _ _).trans (if_neg (by simp [hx]))).trans hx, h j x hj hx⟩
    · exact (ht _ _).trans (if_pos ⟨rfl, hj, hx⟩)
    · exact ((ht _ _).trans (if_neg (by simp [hx]))).trans hx
    · exact (ht _ _).trans (if_neg (by simp [hj]))

end Sys2Proof.Proofs.MatrixUnit

/-!
# Matrix instructions

How a command joins the queue or the held list, and what the batch, resumption and status instructions answer.
-/

namespace Sys2Proof.Proofs.MatrixQueue

open Sys2Proof Sys2Proof.Machine Sys2Proof.Laws.Issue Sys2Proof.Proofs.MatrixUnit Sys2Proof.Proofs.ControlWrites

/-! ## The queue (16 R275, R285) -/

section
variable {t : State} {kind : MKind} {scp : Scp} {memory : Bool} {k : State → State}

theorem enqueue_queue (hh : t.cur.mat.held = []) (hr : t.cur.mat.released = [])
    (hq : (t.mqueue.filter fun c => c.core == t.cur.place.core).length < 8) : enqueue kind scp memory t k =
      .ok (k { t with nextId := t.nextId + 1, mqueue := t.mqueue ++ [t.matrixCommand kind scp memory] }) := by
  simp only [enqueue, hh, hr, List.isEmpty_nil, Bool.not_true, Bool.false_or, decide_eq_true_eq, if_neg (not_le.2 hq)]
  rfl

theorem enqueue_held (hh : t.cur.mat.held ≠ []) (hl : t.cur.mat.held.length < 8) : enqueue kind scp memory t k =
    .ok (k (({ t with nextId := t.nextId + 1 }).modMat fun m =>
      { m with held := m.held ++ [t.matrixCommand kind scp memory] })) := by
  have hh : t.cur.mat.held.isEmpty = false := by simpa using hh
  simp only [enqueue, hh, Bool.not_false, if_true, if_neg (not_le.2 hl)]
  rfl

theorem queues_of {i : Instr} {s : State} {body : State → Act} {post : State → State} (he : exec i s = issue i s body)
    (hb : (memory = true → (s.issued i).split.acq = []) → body (s.issued i) = enqueue kind scp memory (s.issued i) post) :
    Queues i s kind scp memory post := by
  intro ha
  have hb := hb (by rwa [State.issued_acq])
  refine ⟨fun hh hr hq => does_at he (hb.trans (enqueue_queue ?_ ?_ ?_)), fun hh hl => does_at he (hb.trans (enqueue_held ?_ ?_))⟩
  · rwa [State.issued_mat]
  · rwa [State.issued_mat]
  · rwa [State.issued_mqueue, State.issued_place]
  · rwa [State.issued_mat]
  · rwa [State.issued_mat]

end

section
variable (s : State) (i : Instr)

@[simp] theorem issued_claims (tiles slots : Nat) : (s.issued i).claims tiles slots = s.claims tiles slots := by
  simp only [State.claims, State.issued_mat]

@[simp] theorem issued_slotTag (n : Nat) : (s.issued i).slotTag n = s.slotTag n := by
  simp only [State.slotTag, issued_slot?, State.issued_place]

theorem issued_sr : (s.issued i).cur.regs.sr = s.cur.regs.sr := by
  simp only [State.issued, State.setPc, State.anchor, State.modSplit_regs]
  unfold State.useFlags
  split <;> rfl

@[simp] theorem issued_srState (l : Lane) : (s.issued i).srState l = s.srState l := by
  rw [State.srState, issued_sr, State.srState]

theorem issued_mstat : (s.issued i).mstat = s.mstat := by
  simp only [State.mstat, State.issued_mat, State.issued_mqueue, State.issued_place]

end

/-! ## Commands by what their checks meet (16 R273, R274, R279-R282) -/

section
variable {t : State} {z a b o c n blk : Nat} {x : Nat} {e da db : BitVec 512}

theorem doZzero_claimed (h : t.claims n 0 = true) : doZzero n t = enqueue (.zzero n) ⟨false, false, 0⟩ false t id :=
  if_neg (by simp [h])

theorem doZzero_unclaimed (h : t.claims n 0 = false) : doZzero n t = .trap 20 0 0 := if_pos (by simp [h])

theorem doMmul_unclaimed (h : t.claims (2 ^ z) (2 ^ a ||| 2 ^ b) = false) : doMmul z a b t = .trap 20 0 0 := if_pos (by simp [h])

section
variable (h : t.claims (2 ^ z) (2 ^ a ||| 2 ^ b) = true)
include h

theorem doMmul_fits (hp : pairOk (t.slotTag a) (t.slotTag b) = true) : doMmul z a b t =
    enqueue (.mmul z a b (t.slotTag a) (t.slotTag b)) ⟨false, false, 0⟩ false t id := by
  simp [doMmul, h, hp]

theorem doMmul_misfit (hp : pairOk (t.slotTag a) (t.slotTag b) = false) : doMmul z a b t = .trap 21 0 0 := by
  simp [doMmul, h, hp]

end

section
variable (ha : t.split.acq = [])
include ha

theorem doOload_invalid (h : t.tdt? n = none) : doOload o n c t = .trap 19 0 0 := by
  simp [doOload, ha, h]

theorem doOload_fits (hx : (t.sreg c).toNat = x) (h : t.tdt? n = some e) (hc : t.claims 0 (2 ^ o) = true)
    (hs : shapeFits e (x % 2 ^ 32) (x / 2 ^ 32) = true) : doOload o n c t =
      enqueue (.oload o e (x % 2 ^ 32) (x / 2 ^ 32)) t.scp true t fun u => u.tagSlot o (tdFmt e) := by
  subst hx
  simp only [doOload, ha, h, hc, hs]
  rfl

theorem doMloop_fits {l x y ctl : Nat} (hk : (t.sreg (48 + 4 * blk)).toNat = ctl) (hx : (t.sreg (48 + 4 * blk + 1)).toNat = x)
    (hy : (t.sreg (48 + 4 * blk + 2)).toNat = y) (hda : t.tdt? a = some da) (hdb : t.tdt? b = some db)
    (hl : bitsOf ctl 18 16 = l) (h2 : l % 2 = 0) (hc : t.claims (2 ^ z) (2 ^ l + 2 ^ (l + 1)) = true)
    (hsa : shapeFits da (x % 2 ^ 32) (x / 2 ^ 32) = true) (hsb : shapeFits db (y % 2 ^ 32) (y / 2 ^ 32) = true)
    (hp : pairOk (tdFmt da) (tdFmt db) = true) : doMloop z a b blk t =
      enqueue (.mloop z l (ctl % 2 ^ 16) da db (x % 2 ^ 32) (x / 2 ^ 32) (y % 2 ^ 32) (y / 2 ^ 32)) t.scp true t fun u =>
        if ctl % 2 ^ 16 = 0 then u else (u.tagSlot l (tdFmt da)).tagSlot (l + 1) (tdFmt db) := by
  subst hk hx hy hl
  simp only [doMloop, ha, hda, hdb, h2, hc, hsa, hsb, hp]
  rfl

variable {m : Bool}

theorem doMdrain_format (h : t.tdt? n = some e) (hc : t.claims (2 ^ z) 0 = true) (hf : 5 ≤ tdFmt e) :
    doMdrain z n c m t = .trap 21 0 0 := by
  simp [doMdrain, ha, h, hc, hf]

/-- A drain takes the states of the generator where its format and rounding use them (16 R282). -/
def takesSr (e : BitVec 512) (code : BitVec 6) : Bool :=
  match drainFmt (tdFmt e) with | some f => usesSr f (rndOfCode code) | none => false

theorem doMdrain_fits (hx : (t.sreg c).toNat = x) (h : t.tdt? n = some e) (hc : t.claims (2 ^ z) 0 = true) (hf : tdFmt e < 5)
    (hm : m = true → tdf e 383 320 ≠ 0) : doMdrain z n c m t =
      enqueue (.mdrain z e (x % 2 ^ 32) (x / 2 ^ 32) m (t.hints.rnd.getD 0)
        (if takesSr e (t.hints.rnd.getD 0) then allLanes.map fun l => t.srState l else [])) t.scp true t fun u =>
          if takesSr e (t.hints.rnd.getD 0) then u.setSr (BitVec.allOnes 32) fun l => srSteps 512 (u.srState l) else u := by
  have hn : ¬ (5 ≤ tdFmt e ∨ m = true ∧ tdf e 383 320 = 0) := by
    rintro (h | ⟨h1, h2⟩)
    · omega
    · exact hm h1 h2
  subst hx
  simp only [doMdrain, ha, h, hc, if_neg hn]
  rfl

end

end

theorem takesSr_plain {e : BitVec 512} (h : tdFmt e = 0) (code : BitVec 6) : takesSr e code = false := by
  simp [takesSr, h, drainFmt]

theorem takesSr_small {e : BitVec 512} {f : Fmt} (h : drainFmt (tdFmt e) = some f) (code : BitVec 6) :
    takesSr e code = usesSr f (rndOfCode code) := by
  simp [takesSr, h]

theorem drainFmt_small {n : Nat} {f : Fmt} (h : drainFmt n = some f) : n < 5 := by
  unfold drainFmt at h
  split at h <;> simp at h <;> omega

/-! ## Batches and resumption (16 R277, R278, R288) -/

section
variable {t : State} {a : Nat}

theorem doMwait_open (h : t.cur.mat.mopen.toNat ≤ (t.sreg a).toNat) : doMwait a t = .trap 4 0 0 := if_pos h

section
variable (h : (t.sreg a).toNat < t.cur.mat.mopen.toNat)
include h

theorem doMwait_queued (hq : ∃ c ∈ t.mqueue, c.uid = t.cur.place.uid ∧ c.batch ≤ (t.sreg a).toNat) :
    doMwait a t = .waiting (.mwait (t.sreg a).toNat) := by
  obtain ⟨c, hc, hu, hb⟩ := hq
  refine (if_neg (not_le.2 h)).trans (if_pos ?_)
  rw [Bool.or_eq_true, List.any_eq_true]
  exact .inl ⟨c, hc, by simp [hu, hb]⟩

theorem doMwait_none (hq : ∀ c ∈ t.mqueue, c.uid = t.cur.place.uid → (t.sreg a).toNat < c.batch)
    (hr : ∀ c ∈ t.cur.mat.released ++ t.cur.mat.held, (t.sreg a).toNat < c.batch) : doMwait a t = .ok t := by
  refine (if_neg (not_le.2 h)).trans ((if_neg ?_).trans (if_neg ?_))
  · simp only [Bool.or_eq_true, List.any_eq_true, Bool.and_eq_true, beq_iff_eq, decide_eq_true_eq]
    rintro (⟨c, hc, hu, hb⟩ | ⟨c, hc, hb⟩)
    · exact absurd (hq c hc hu) (not_lt.2 hb)
    · exact absurd (hr c (List.mem_append_left _ hc)) (not_lt.2 hb)
  · simp only [List.any_eq_true, decide_eq_true_eq]
    rintro ⟨c, hc, hb⟩
    exact absurd (hr c (List.mem_append_right _ hc)) (not_lt.2 hb)

end

theorem doMresume_nothing (b : Bool) (h : t.cur.mat.held = []) : doMresume b t = .ok t := by
  simp [doMresume, h]

theorem doMresume_drops (h : t.cur.mat.held ≠ []) : doMresume true t =
    .ok ((t.modMat fun m => { m with held := [], fault := none }).modCur fun g =>
      g.learn (t.cur.mat.held.foldl (fun n c => max n c.wct) 0)) := by
  simp [doMresume, h]

theorem doMresume_returns (h : t.cur.mat.held ≠ []) : doMresume false t =
    .ok ((t.modMat fun m => { m with released := m.released ++ m.held, held := [], fault := none }).feed t.cur.place.core 8) := by
  simp [doMresume, h]

end

/-! ## `mstat` (16 R289) -/

theorem extractLsb'_ofNat (x a n : Nat) (h : a + n ≤ 64) :
    (BitVec.ofNat 64 x).extractLsb' a n = BitVec.ofNat n (x / 2 ^ a) := by
  apply BitVec.eq_of_toNat_eq
  rw [BitVec.extractLsb'_toNat, BitVec.toNat_ofNat, BitVec.toNat_ofNat, Nat.shiftRight_eq_div_pow]
  rw [← Nat.pow_sub_mul_pow 2 (show a ≤ 64 by omega), Nat.mul_comm, Nat.mod_mul_right_div_self]
  exact Nat.mod_mod_of_dvd _ (Nat.pow_dvd_pow 2 (by omega))

/-- A status word by its fields, from bit 48 down (16 R289). -/
def statusWord (p c z k h q t s b : Nat) : Nat :=
  p * 2 ^ 48 + c * 2 ^ 44 + z * 2 ^ 40 + k * 2 ^ 37 + h * 2 ^ 32 + q * 2 ^ 28 + t * 2 ^ 16 + s * 2 ^ 8 + b * 2 ^ 7

section
variable {p c z k h q t s b : Nat}

theorem statusWord_low (hh : h < 16) (hq : q < 16) (ht : t < 4096) (hs : s < 256) (hb : b < 2) :
    statusWord p c z k h q t s b % 2 ^ 7 = 0 ∧ statusWord p c z k h q t s b / 2 ^ 7 % 2 ^ 1 = b ∧
      statusWord p c z k h q t s b / 2 ^ 8 % 2 ^ 8 = s ∧ statusWord p c z k h q t s b / 2 ^ 16 % 2 ^ 12 = t ∧
      statusWord p c z k h q t s b / 2 ^ 28 % 2 ^ 4 = q ∧ statusWord p c z k h q t s b / 2 ^ 32 % 2 ^ 4 = h := by
  unfold statusWord
  omega

theorem statusWord_high (hp : p < 65536) (hc : c < 16) (hz : z < 16) (hk : k < 8) (hh : h < 16) (hq : q < 16) (ht : t < 4096)
    (hs : s < 256) (hb : b < 2) : statusWord p c z k h q t s b / 2 ^ 37 % 2 ^ 3 = k ∧ statusWord p c z k h q t s b / 2 ^ 40 % 2 ^ 4 = z ∧
      statusWord p c z k h q t s b / 2 ^ 44 % 2 ^ 4 = c ∧ statusWord p c z k h q t s b / 2 ^ 48 % 2 ^ 16 = p := by
  unfold statusWord
  omega

end


theorem mstatCause_lt (c : Nat) : mstatCause c < 16 := by
  unfold mstatCause
  split <;> omega

theorem code_lt (k : MKind) : k.code < 8 := by
  cases k <;> simp [MKind.code]

/-- The length of the queue of a core, as `mstat` has it. -/
def queueLength (s : State) : Nat := (s.mqueue.filter fun c => c.core == s.cur.place.core).length

/-- The command that the status of a fault speaks of. -/
def faulted (s : State) : Option MKind :=
  match s.cur.mat.fault, s.cur.mat.held.head? with | some _, some c => some c.kind | _, _ => none

theorem mstat_eq (s : State) : s.mstat = statusWord ((s.cur.mat.fault.getD ⟨0, 0, 0⟩).progress % 65536)
    (mstatCause (s.cur.mat.fault.getD ⟨0, 0, 0⟩).cause) (((faulted s).map MKind.ztile).getD 0) (((faulted s).map MKind.code).getD 0)
    (s.cur.mat.held.length % 16) (queueLength s % 16) s.cur.mat.tiles.toNat s.cur.mat.slots.toNat
    (!s.cur.mat.held.isEmpty).toNat := by
  cases h : s.cur.mat.held.isEmpty <;> simp only [State.mstat, h] <;> rfl

/-- The fields of a status that do not speak of a fault. -/
theorem mstat_counts (s : State) (x : Nat) (h : x = s.mstat) : x % 2 ^ 7 = 0 ∧ x / 2 ^ 7 % 2 ^ 1 = (!s.cur.mat.held.isEmpty).toNat ∧
    x / 2 ^ 8 % 2 ^ 8 = s.cur.mat.slots.toNat ∧ x / 2 ^ 16 % 2 ^ 12 = s.cur.mat.tiles.toNat ∧
    x / 2 ^ 28 % 2 ^ 4 = queueLength s % 16 ∧ x / 2 ^ 32 % 2 ^ 4 = s.cur.mat.held.length % 16 := by
  subst h
  rw [mstat_eq]
  exact statusWord_low (Nat.mod_lt _ (by decide)) (Nat.mod_lt _ (by decide)) s.cur.mat.tiles.isLt s.cur.mat.slots.isLt
    (Bool.toNat_lt _)

theorem mstat_noFault (s : State) (h : s.cur.mat.fault = none) : s.mstat / 2 ^ 36 = 0 := by
  have hk : faulted s = none := by simp only [faulted, h]
  have h1 := s.cur.mat.tiles.isLt
  have h2 := s.cur.mat.slots.isLt
  have h3 := Bool.toNat_lt (!s.cur.mat.held.isEmpty)
  rw [mstat_eq, h, hk]
  simp only [statusWord, Option.getD_none, Option.map_none, mstatCause]
  omega

theorem mstat_fault {s : State} {f : MFault} {c : MCmd} (hf : s.cur.mat.fault = some f) (hc : s.cur.mat.held.head? = some c)
    (hz : c.kind.ztile < 12) : s.mstat / 2 ^ 37 % 2 ^ 3 = c.kind.code ∧ s.mstat / 2 ^ 40 % 2 ^ 4 = c.kind.ztile ∧
      s.mstat / 2 ^ 44 % 2 ^ 4 = mstatCause f.cause ∧ s.mstat / 2 ^ 48 % 2 ^ 16 = f.progress % 65536 := by
  have hk : faulted s = some c.kind := by simp only [faulted, hf, hc]
  rw [mstat_eq, hf, hk]
  exact statusWord_high (Nat.mod_lt _ (by decide)) (mstatCause_lt _) (hz.trans (by decide)) (code_lt _) (Nat.mod_lt _ (by decide))
    (Nat.mod_lt _ (by decide)) s.cur.mat.tiles.isLt s.cur.mat.slots.isLt (Bool.toNat_lt _)

/-- A field of a word given as a number, by the number's bits. -/
theorem field_eq {x a n v : Nat} (h : a + n ≤ 64) (hv : x / 2 ^ a % 2 ^ n = v % 2 ^ n) :
    (BitVec.ofNat 64 x).extractLsb' a n = BitVec.ofNat n v := by
  rw [extractLsb'_ofNat x a n h]
  exact BitVec.eq_of_toNat_eq (by rw [BitVec.toNat_ofNat, BitVec.toNat_ofNat, hv])

theorem field_word {x a n : Nat} {v : BitVec n} (h : a + n ≤ 64) (hv : x / 2 ^ a % 2 ^ n = v.toNat) :
    (BitVec.ofNat 64 x).extractLsb' a n = v := by
  rw [extractLsb'_ofNat x a n h]
  exact BitVec.eq_of_toNat_eq (by rw [BitVec.toNat_ofNat, hv])

/-- Settles O33: each command by what its checks meet, then what the queue and the held list are. -/
theorem matrixInstructions : Obligations.MatrixInstructions := by
  unfold Obligations.MatrixInstructions
  intro s d m z p q a b k w
  refine ⟨fun h => ?zzero, fun h => ?zzeroNo, fun h hp => ?mmul, fun h => ?mmulNo, fun h hp => ?mmulMisfit,
    fun e x he hx hc hs => ?oload, fun ha he => ?oloadNo, fun da db x y l hda hdb hl h2 hx hy hc hsa hsb hp => ?mloop,
    fun e x he hx hc hf hm => ?mdrain, fun e x f g he hx hc hf hm hg => ?mdrainSmall, fun e he hc hf ha => ?mdrainNo,
    does rfl fun _ => rfl, fun h => ?mwaitOpen, fun h hq => ?mwaitQueued, fun h hq hr => ?mwait, fun h => ⟨?none, ?noneDropped⟩,
    fun h => ⟨?drops, ?returns⟩, fun hr => ?mstat⟩
  case zzero => exact queues_of rfl fun _ => doZzero_claimed (by rwa [issued_claims])
  case zzeroNo => exact traps_at rfl (doZzero_unclaimed (by rwa [issued_claims]))
  case mmul =>
    refine queues_of rfl fun _ => (doMmul_fits (by rwa [issued_claims]) (by rwa [issued_slotTag, issued_slotTag])).trans ?_
    rw [issued_slotTag, issued_slotTag]
  case mmulNo => exact traps_at rfl (doMmul_unclaimed (by rwa [issued_claims]))
  case mmulMisfit => exact traps_at rfl (doMmul_misfit (by rwa [issued_claims]) (by rwa [issued_slotTag, issued_slotTag]))
  case oload =>
    exact queues_of rfl fun ha => doOload_fits (ha rfl) (by rwa [State.issued_sreg]) (by rwa [State.issued_tdt]) (by rwa [issued_claims]) hs
  case oloadNo => exact traps_at rfl (doOload_invalid (by rwa [State.issued_acq]) (by rwa [State.issued_tdt]))
  case mloop =>
    exact queues_of rfl fun ha => doMloop_fits (ha rfl) (by rw [State.issued_sreg]) (by rw [State.issued_sreg, hx, Nat.add_right_comm])
      (by rw [State.issued_sreg, hy, Nat.add_right_comm]) (by rwa [State.issued_tdt]) (by rwa [State.issued_tdt]) hl.symm h2
      (by rwa [issued_claims]) hsa hsb hp
  case mdrain =>
    subst hx
    refine queues_of rfl fun ha => (doMdrain_fits (ha rfl) (by rw [State.issued_sreg]) (by rwa [State.issued_tdt])
      (by rwa [issued_claims]) (by omega) (by simpa using hm)).trans ?_
    simp only [takesSr_plain hf]
    rfl
  case mdrainSmall =>
    subst hx hg
    refine queues_of rfl fun ha => (doMdrain_fits (ha rfl) (by rw [State.issued_sreg]) (by rwa [State.issued_tdt])
      (by rwa [issued_claims]) (drainFmt_small hf) (by simpa using hm)).trans ?_
    simp only [takesSr_small hf, issued_srState]
  case mdrainNo =>
    exact traps_at rfl (doMdrain_format (by rwa [State.issued_acq]) (by rwa [State.issued_tdt]) (by rwa [issued_claims]) hf)
  case mwaitOpen => exact traps_at rfl (doMwait_open (by rwa [State.issued_mat, State.issued_sreg]))
  case mwaitQueued =>
    refine notYet_at rfl ((doMwait_queued (by rwa [State.issued_mat, State.issued_sreg]) ?_).trans (by rw [State.issued_sreg]))
    rwa [State.issued_mqueue, State.issued_place, State.issued_sreg]
  case mwait =>
    refine does_at rfl (doMwait_none (by rwa [State.issued_mat, State.issued_sreg]) ?_ ?_)
    · rwa [State.issued_mqueue, State.issued_place, State.issued_sreg]
    · rwa [State.issued_mat, State.issued_sreg]
  case none => exact does_at rfl (doMresume_nothing false (by rwa [State.issued_mat]))
  case noneDropped => exact does_at rfl (doMresume_nothing true (by rwa [State.issued_mat]))
  case drops => exact does_at rfl ((doMresume_drops (by rwa [State.issued_mat])).trans (by rw [State.issued_mat]))
  case returns => exact does_at rfl (doMresume_returns (by rwa [State.issued_mat]))
  case mstat =>
    have hdoes : Does (.mstat d) s fun t => t.setSreg d.toNat (BitVec.ofNat 64 t.mstat) := does rfl fun _ => rfl
    have hd : ((((s.issued (.mstat d)).setSreg d.toNat (BitVec.ofNat 64 (s.issued (.mstat d)).mstat)).finish (.mstat d) s).sreg d.toNat) =
        BitVec.ofNat 64 s.mstat := by
      rw [finish_sreg, issued_mstat]
      exact State.sreg_setSreg_same _ d.isLt _
    obtain ⟨h0, h7, h8, h16, h28, h32⟩ := mstat_counts s _ rfl
    refine ⟨_, BitVec.ofNat 64 s.mstat, hdoes hr, hd, ?_, ?_, ?_, ?_, ?_, ?_, fun hf => ?_,
      fun f c hf hc hz => ?_⟩
    · exact field_word (by decide) h16
    · exact field_word (by decide) h8
    · rw [Nat.pow_one] at h7
      rw [BitVec.getLsbD_ofNat, Nat.testBit_eq_decide_div_mod_eq, h7]
      cases s.cur.mat.held.isEmpty <;> rfl
    · exact field_eq (v := 0) (by decide) (by rw [Nat.pow_zero, Nat.div_one, h0, Nat.zero_mod])
    · exact field_eq (by decide) h28
    · exact field_eq (by decide) h32
    · exact field_eq (v := 0) (by decide) (by rw [mstat_noFault s hf])
    · obtain ⟨h37, h40, h44, h48⟩ := mstat_fault hf hc hz
      refine ⟨field_eq (by decide) h48, field_eq (by decide) ?_, field_eq (by decide) ?_, field_eq (by decide) ?_⟩
      · rw [h44]; exact (Nat.mod_eq_of_lt (mstatCause_lt _)).symm
      · rw [h40]; exact (Nat.mod_eq_of_lt (hz.trans (by decide))).symm
      · rw [h37]; exact (Nat.mod_eq_of_lt (code_lt _)).symm

end Sys2Proof.Proofs.MatrixQueue

/-!
# Matrix commands at the head of a queue

What a command does, by what running it gives, and the elements that a step makes and reads.
-/

namespace Sys2Proof.Proofs.MatrixRun

open Sys2Proof Sys2Proof.Machine

/-! ## The head of a queue (16 R276, R285) -/

section
variable {s t : State} {core : Nat} {c : MCmd} {fl : FpFlags}

theorem recordBad_clear (h : fl.getLsbD 9 = false) (es : List (List Nat)) : s.recordBad c fl es = s :=
  if_neg (by rw [h]; decide)

theorem recordBad_one (h : fl.getLsbD 9 = true) {k : Ctx} (hk : s.ctx? c.ctx = some k) (e : List Nat) : s.recordBad c fl [e] =
    s.errorRecord ⟨41, k.world, k.vdid, c.core, 8, 0, e.map (BitVec.ofNat 64), k.conf⟩ := by
  rw [State.recordBad, if_pos h, List.foldl_cons, List.foldl_nil, hk]
  rfl

variable (hc : s.headCmd core = some c)
include hc

theorem complete_done (hr : s.runCmd c = .done t fl) : exec (.matrixCommandComplete core) s =
    .next ((t.recordBad c fl (s.badElems c)).endCmd c fl) := by
  change execMatrixCommandComplete core s = _
  simp only [execMatrixCommandComplete, hc, hr]

theorem complete_sent (hr : s.runCmd c = .sent t fl) (hf : fl.getLsbD 9 = false) : exec (.matrixCommandComplete core) s =
    .next { t with mqueue := t.mqueue.map fun x => if x.id == c.id then { x with sent := true, flags := x.flags ||| fl } else x } := by
  change execMatrixCommandComplete core s = _
  simp only [execMatrixCommandComplete, hc, hr, recordBad_clear hf]

theorem fault_holds {x : MCmd} {cause prog addr : Nat} (hr : s.runCmd c = .fault t cause prog addr none fl)
    (hf : fl.getLsbD 9 = false) (hx : t.mqueue.find? (fun x => x.id == c.id) = some x) : exec (.matrixCommandFault core) s =
    .next ((t.holdFrom { x with progress := prog, sent := false, flags := x.flags ||| fl, err := none, pos := 128 * prog }
      ⟨cause, prog, addr⟩).feed core 8) := by
  change execMatrixCommandFault core s = _
  simp only [execMatrixCommandFault, hc, hr, hx, recordBad_clear hf, Option.getD_some]

end

/-! ## Running a command (16 R279, R284) -/

section
variable {s : State} {c : MCmd} {g : Agent} (ha : s.agentFor c.ctx c.core c.uid c.id c.scp c.cls = some g)
include ha

theorem runCmd_zzero {m : Nat} (hk : c.kind = .zzero m) : s.runCmd c = .done
    { s with tiles := s.tiles.map fun x =>
        if x.core == c.core && decide (m / 2 ^ x.idx % 2 = 1) then { x with elems := [], bad := [] } else x } 0 := by
  simp only [State.runCmd, ha, hk]

theorem runCmd_mmul {z a b ta tb : Nat} (hk : c.kind = .mmul z a b ta tb) {w : TileSt} {x y : SlotSt}
    (hw : s.tile? c.core z = some w) (hx : s.slot? c.core a = some x) (hy : s.slot? c.core b = some y) : s.runCmd c =
      .done ((s.setTile (matStep w x y ta tb).1).count c.ctx 2 1) (matStep w x y ta tb).2 := by
  simp only [State.runCmd, ha, hk, hw, hx, hy]

theorem runCmd_failedDrain {z : Nat} {e : BitVec 512} {o0 o1 : Nat} {amax : Bool} {rnd : BitVec 6} {sr : List Word}
    (hk : c.kind = .mdrain z e o0 o1 amax rnd sr) (hd : s.afterDone c.uid c.after = true) (hw : s.writes = []) {row cause a : Nat}
    (he : c.err = some (row, cause, a)) : s.runCmd c = .fault s cause row a none 0 := by
  simp [State.runCmd, ha, hk, hd, hw, he]

end

/-! ## The answer of a drain's write (16 R284) -/

/-- What a failing write of a row leaves at its command: the lowest row that failed. -/
theorem respond_matrix {s : State} {w : WriteReq} {core cmd row : Nat} (ho : w.origin = .matrix core cmd row) (he : w.err ≠ none)
    {c : MCmd} (hc : c ∈ (s.respond w).mqueue) (hid : c.id = cmd) : ∃ x, c.err = some x ∧ x.1 ≤ row := by
  have hs : w.err.isSome = true := Option.isSome_iff_ne_none.2 he
  simp only [State.respond, ho, State.modCmd, List.mem_map] at hc
  obtain ⟨c0, _, rfl⟩ := hc
  by_cases h : (c0.id == cmd) = true
  · rw [if_pos h]
    dsimp only
    by_cases hp : c0.err = none
    · exact ⟨(row, w.err.getD 13, lineBase w.addr), by simp only [hp, hs, Bool.and_true, if_true], le_rfl⟩
    · obtain ⟨x, hp⟩ := Option.ne_none_iff_exists'.1 hp
      by_cases hlt : row < x.1
      · exact ⟨(row, w.err.getD 13, lineBase w.addr), by simp only [hp, hs, hlt, decide_true, Bool.and_true, if_true], le_rfl⟩
      · exact ⟨x, by simp only [hp, hlt, decide_false, Bool.false_and, Bool.false_eq_true, if_false], not_lt.1 hlt⟩
  · rw [if_neg h] at hid
    exact absurd hid (by simpa using h)

/-! ## Elements (16 R279, R290) -/

theorem val_bad {t : SlotSt} {tag r k : Nat} (h : t.bad.contains (128 * r + k) = true) : t.val tag r k = (.fin false 0 0, flMerr) :=
  if_pos h

/-- The element that a step leaves at a place of its tile. -/
def stepped (w : TileSt) (x y : SlotSt) (ta tb i : Nat) : Word × FpFlags :=
  stepElem (if w.bad.contains i then 0 else w.val (i / 128) (i % 128)) (x.val ta (i / 128)) (y.val tb (i % 128))

/-- The flags of one element of a step. -/
def steppedFlags (w : TileSt) (x y : SlotSt) (ta tb i : Nat) : FpFlags :=
  (stepped w x y ta tb i).2 ||| flagIf (w.bad.contains i) flMerr

/-- The nonzero first parts of a list of pairs by place. -/
theorem filter_map_cells (f : Nat → Word) (g : Nat → FpFlags) (l : List Nat) :
    (((l.map fun i => (i, f i, g i)).filter fun c => c.2.1 != 0).map fun c => (c.1, c.2.1)) =
      (l.filter fun i => f i != 0).map fun i => (i, f i) := by
  rw [List.filter_map, List.map_map]
  rfl

theorem matStep_elems (w : TileSt) (x y : SlotSt) (ta tb : Nat) : (matStep w x y ta tb).1.elems =
    ((List.range 16384).filter fun i => (stepped w x y ta tb i).1 != 0).map fun i => (i, (stepped w x y ta tb i).1) := by
  unfold matStep
  generalize List.range 16384 = l
  exact filter_map_cells (fun i => (stepped w x y ta tb i).1) (steppedFlags w x y ta tb) l

/-- A list that leaves out the zero entries of a function reads as the function. -/
theorem find?_nonzero (f : Nat → Word) {l : List Nat} {i : Nat} (hi : i ∈ l) :
    ((((l.filter fun j => f j != 0).map fun j => (j, f j)).find? fun e => e.1 == i).map Prod.snd).getD 0 = f i := by
  rw [List.find?_map]
  cases h : (l.filter fun j => f j != 0).find? ((fun e : Nat × Word => e.1 == i) ∘ fun j => (j, f j)) with
  | some j =>
    obtain rfl : j = i := by simpa using List.find?_some h
    rfl
  | none =>
    have hf := List.find?_eq_none.1 h i
    by_contra hne
    exact hf (List.mem_filter.2 ⟨hi, by simpa using Ne.symm hne⟩) (by simp)

theorem matStep_val (w : TileSt) (x y : SlotSt) (ta tb : Nat) {m n : Nat} (hm : m < 128) (hn : n < 128) (hb : w.bad = []) :
    (matStep w x y ta tb).1.val m n = (stepElem (w.val m n) (x.val ta m) (y.val tb n)).1 := by
  have hd : (128 * m + n) / 128 = m := by omega
  have hr : (128 * m + n) % 128 = n := by omega
  rw [TileSt.val, matStep_elems, find?_nonzero _ (List.mem_range.2 (by omega)), stepped, hb, hd, hr]
  rfl

/-- Settles O34: a command by what running it gives, a step by the elements it makes. -/
theorem matrixCommandsRun : Obligations.MatrixCommandsRun := by
  unfold Obligations.MatrixCommandsRun
  intro s
  refine ⟨fun core c t fl hc hr => complete_done hc hr, fun c fl es h => recordBad_clear h es,
    fun c fl e k h hk => recordBad_one h hk e, fun core c g m hc ha hk => ?zzero,
    fun core c g z a b ta tb x y w hc ha hk hw hx hy => complete_done hc (runCmd_mmul ha hk hw hx hy),
    fun core c t fl hc hr hf => complete_sent hc hr hf, fun core c x t cause prog addr fl hc hr hf hx => fault_holds hc hr hf hx,
    fun core c g z e o0 o1 amax rnd sr row cause a hc _ ha hk hd hw he => runCmd_failedDrain ha hk hd hw he,
    fun core cmd row w ho he c hc hid => respond_matrix ho he hc hid,
    fun w x y ta tb m n hm hn hb => matStep_val w x y ta tb hm hn hb, fun t tag r k h => val_bad h⟩
  case zzero => exact (complete_done hc (runCmd_zzero ha hk)).trans (congrArg (fun u => Host.Outcome.next (State.endCmd u c 0)) (recordBad_clear (fl := 0) BitVec.getLsbD_zero _))

end Sys2Proof.Proofs.MatrixRun

/-!
# The tier engine

The instructions on the blocks of a range, and the events of the moves of the engine.
-/

namespace Sys2Proof.Proofs.TierEngine

open Sys2Proof Sys2Proof.Machine Sys2Proof.Laws.Issue

/-! ## Commands and records (18 R309, R310, R314) -/

/-- A command joins the end of the queue. -/
def queueCmd (t : State) (c : TierCmd) : State := { t with tier := { t.tier with cmds := t.tier.cmds ++ [c] } }

theorem command_new {t : State} {c : TierCmd} (hm : t.tier.moves = []) (hl : t.tier.cmds.length < 4096)
    (hc : ∀ x ∈ t.tier.cmds, x.blk ≠ c.blk) : t.command c = (true, queueCmd t c) := by
  have hany : t.tier.cmds.any (fun o => o.blk == c.blk) = false := by simpa using hc
  simp [State.command, hany, hm, not_le.2 hl, queueCmd]

section
variable {u : State} {v n : Nat} {k : Block}

theorem recAddr_isSome : (u.recAddr v n).isSome = true ↔ n < ((u.vregs.tierTab[v]?).getD 0).toNat % 2 ^ 21 := by
  simp only [State.recAddr]
  split <;> simp_all

theorem recOf?_bound (h : u.recOf? v n = some k) : n < ((u.vregs.tierTab[v]?).getD 0).toNat % 2 ^ 21 := by
  rw [← recAddr_isSome]
  cases hr : u.recAddr v n with
  | none => simp [State.recOf?, hr] at h
  | some a => rfl

theorem block?_some (h : u.block? v n = some k) :
    u.recOf? v n = some k ∧ leafFits k.ent k.blk = true ∧ u.inLevel2 v k.leaf = true := by
  unfold State.block? at h
  split at h
  · cases h
  · split at h
    next hok =>
      obtain ⟨h2, h1⟩ := Bool.and_eq_true_iff.1 hok
      cases h
      exact ⟨‹_›, h1, h2⟩
    · cases h

theorem block?_beyond (h : ((u.vregs.tierTab[v]?).getD 0).toNat % 2 ^ 21 ≤ n) : u.block? v n = none :=
  Option.eq_none_iff_forall_ne_some.2 fun _ hk => absurd (recOf?_bound (block?_some hk).1) (not_lt.2 h)

end

/-! ## The instructions (18 R320, R321) -/

section
variable {t : State} {d a b : Nat} {c : Ctx} (hc : t.myCtx = some c)
include hc

theorem doTierRec_blocks {r : List Nat × Bool} {v : State} (h : t.rangeBlocks c a b = (r, v)) : doTierRec d a b t =
    .ok ((r.1.foldl (fun u n => (u.putBit c.world c.bitmap n true).putBit c.world c.fset n true) v).setSreg d
      (BitVec.ofNat 64 (r.1.length + if r.2 then 2 ^ 63 else 0))) := by
  simp only [doTierRec, hc, h]

section
variable {up z : Bool} {n : Nat} {k : Block} {v w : State}

theorem doTierHint_none (h : t.rangeBlocks c a b = (([], z), w)) : doTierHint up d a b t =
    .ok (w.setSreg d (BitVec.ofNat 64 (if z then 2 ^ 63 else 0))) := by
  simp [doTierHint, hc, h]

variable (h : t.rangeBlocks c a b = (([n], z), w)) (hv : (w.putBit c.world c.fset n up).seeBlock c.vdid n = v)
  (hk : v.recOf? c.vdid n = some k)
include h hv hk

/-- The block is one that a hint moves: up where it is far, down where it is near and not pinned. -/
def wanted (up : Bool) (k : Block) : Bool := if up then k.far else decide (k.tier = 0) && !k.pin

omit hc h hv hk in
theorem wanted_down : wanted false k = true ↔ k.tier = 0 ∧ k.pin = false := by simp [wanted]

theorem doTierHint_queues (hw : wanted up k = true) (he : v.tierEn = true) (hm : v.tier.moves = [])
    (hl : v.tier.cmds.length < 4096) (hb : ∀ x ∈ v.tier.cmds, x.blk ≠ k.blk) : doTierHint up d a b t =
      .ok ((queueCmd v ⟨k.blk, c.vdid, c.num, k.addr, if up then .up else .down, if up then 2 else 4, []⟩).setSreg d
        (BitVec.ofNat 64 (1 + if z then 2 ^ 63 else 0))) := by
  have hq := command_new (c := ⟨k.blk, c.vdid, c.num, k.addr, if up then .up else .down, if up then 2 else 4, []⟩) hm hl hb
  rw [wanted] at hw
  simp only [doTierHint, hc, h, List.foldl_cons, List.foldl_nil, hv, hk, hw, he, hq]
  simp

theorem doTierHint_stays (hw : wanted up k = false ∨ v.tierEn = false) : doTierHint up d a b t =
    .ok (v.setSreg d (BitVec.ofNat 64 (if z then 2 ^ 63 else 0))) := by
  rw [wanted, ← Bool.and_eq_false_iff] at hw
  simp only [doTierHint, hc, h, List.foldl_cons, List.foldl_nil, hv, hk, hw]
  simp

end

section
variable {v : State}

theorem doTierQ_outside {r : XRes} (h : t.probe c (dieOf t.cur.place.core) (t.sreg a).toNat true = (r, v))
    (hr : ∀ x, r = .ok x → x.block = none) : doTierQ d a t = .ok (v.setSreg d 0) := by
  cases r with
  | ok x => simp only [doTierQ, hc, h, hr x rfl]
  | fault f => simp only [doTierQ, hc, h]
  | far i => simp only [doTierQ, hc, h]

theorem doTierQ_block {x : Xlate} {n : Nat} {k : Block} {p : RtHolder} {w : State}
    (h : t.probe c (dieOf t.cur.place.core) (t.sreg a).toNat true = (.ok x, v)) (hx : x.block = some n)
    (hw : ((v.seeBlock c.vdid n).arrive c.world (c.fset + n / 8) 1).arrive c.world (c.bitmap + n / 8) 1 = w)
    (hk : w.recOf? c.vdid n = some k) (hp : w.routeWrite (w.dieRouter w.cur.place.core) k.blk [] = some p) (hn : n < 2 ^ 20) :
    doTierQ d a t = .ok (w.setSreg d (BitVec.ofNat 64 (p.holder * 2 ^ 40 + k.tier * 2 ^ 38 + k.far.toNat * 2 ^ 37 +
      k.busy.toNat * 2 ^ 36 + (w.bitAt c.world c.fset n).toNat * 2 ^ 35 + (w.bitAt c.world c.bitmap n).toNat * 2 ^ 34 +
      k.pin.toNat * 2 ^ 33 + n * 2 ^ 8 + 1))) := by
  simp only [doTierQ, hc, h, hx, hw, hk, hp, Nat.mod_eq_of_lt hn, Option.map_some, Option.getD_some]

end

end

/-- Settles O40: each instruction by the blocks that its walks find. -/
theorem tierInstructions : Obligations.TierInstructions := by
  unfold Obligations.TierInstructions
  intro s d a b
  refine ⟨fun c r v hc h => ?record, fun c z w hc h => ?upNone, fun c n k z v w hc h hv hk hf he hm hl hb => ?up,
    fun c n k z v w hc h hv hk hw => ?upStays, fun c z w hc h => ?downNone, fun c n k z v w hc h hv hk ht he hm hl hb => ?down,
    fun c n k z v w hc h hv hk hw => ?downStays, fun c r v hc h hr => ?outside,
    fun c n x k p v w hc h hx hw hk hp hn => ?block, fun u v n k h => ?usable, fun u v n h => block?_beyond h⟩
  case record =>
    exact does_at (f := fun _ => _) rfl (doTierRec_blocks (by rwa [State.issued_myCtx]) h)
  case upNone => exact does_at (f := fun _ => _) rfl (doTierHint_none (by rwa [State.issued_myCtx]) h)
  case up => exact does_at (f := fun _ => _) rfl (doTierHint_queues (by rwa [State.issued_myCtx]) h hv hk hf he hm hl hb)
  case upStays =>
    exact does_at (f := fun _ => _) rfl (doTierHint_stays (by rwa [State.issued_myCtx]) h hv hk (hw.imp_left eq_false_of_ne_true))
  case downNone => exact does_at (f := fun _ => _) rfl (doTierHint_none (by rwa [State.issued_myCtx]) h)
  case down =>
    exact does_at (f := fun _ => _) rfl (doTierHint_queues (by rwa [State.issued_myCtx]) h hv hk (wanted_down.2 ht) he hm hl hb)
  case downStays =>
    exact does_at (f := fun _ => _) rfl (doTierHint_stays (by rwa [State.issued_myCtx]) h hv hk
      (hw.imp_left fun hn => eq_false_of_ne_true (mt wanted_down.1 hn)))
  case outside =>
    exact does_at (f := fun _ => _) rfl (doTierQ_outside (by rwa [State.issued_myCtx]) (by rwa [State.issued_place, State.issued_sreg]) hr)
  case block =>
    exact does_at (f := fun _ => _) rfl
      (doTierQ_block (by rwa [State.issued_myCtx]) (by rwa [State.issued_place, State.issued_sreg]) hx hw hk hp hn)
  case usable =>
    obtain ⟨hr, hf, hl⟩ := block?_some h
    exact ⟨recOf?_bound hr, hf, hl⟩

/-! ## Offers of far leaves (18 R319) -/

section
variable {s u : State} {n : Nat} {w : TierWait}

/-- The offer of a waiter is taken from those that wait. -/
def taken (u : State) (n : Nat) : State := { u with tier := { u.tier with offered := u.tier.offered.filter fun x => x.id != n } }

variable (hw : s.tier.offered.find? (fun w => w.id == n) = some w)
include hw

theorem offer_full (hf : 1024 ≤ s.tier.faults) : exec (.tierFaultOffer n) s = .next s := by
  change execTierFaultOffer n s = _
  simp only [execTierFaultOffer, hw, if_pos hf]

variable (hf : s.tier.faults < 1024) (hu : s.seeBlock w.vdid w.far.fpi = u)
include hf hu

theorem offer_unusable (hb : u.block? w.vdid w.far.fpi = none) : exec (.tierFaultOffer n) s =
    .next (((taken u n).passFault w).tierError w.vdid (w.far.fa / 2 ^ 21 * 2 ^ 21)) := by
  change execTierFaultOffer n s = _
  simp only [execTierFaultOffer, hw, if_neg (not_le.2 hf), hu, hb]
  rfl

variable {k : Block} (hb : u.block? w.vdid w.far.fpi = some k)
include hb

theorem offer_come (hk : k.far = false) : exec (.tierFaultOffer n) s = .next ((taken u n).wakeAll [w]) := by
  change execTierFaultOffer n s = _
  simp only [execTierFaultOffer, hw, if_neg (not_le.2 hf), hu, hb, hk, Bool.not_false, if_true]
  rfl

theorem offer_queues (hk : k.far = true) (hm : u.tier.moves = []) (hl : u.tier.cmds.length < 4096)
    (hc : ∀ x ∈ u.tier.cmds, x.blk ≠ k.blk) : exec (.tierFaultOffer n) s =
      .next (queueCmd (taken u n) ⟨k.blk, w.vdid, w.ctx, k.addr, .up, 0, [w]⟩) := by
  have hq := command_new (t := taken u n) (c := ⟨k.blk, w.vdid, w.ctx, k.addr, .up, 0, [w]⟩) hm hl hc
  change execTierFaultOffer n s = _
  simp only [execTierFaultOffer, hw, if_neg (not_le.2 hf), hu, hb, hk]
  unfold taken at hq ⊢
  simp only [hq]
  rfl

end

/-! ## The start of a move (18 R314, R316) -/

/-- A command that a free place of the engine can take. -/
def startable (s : State) (c : TierCmd) : Bool :=
  s.tier.moves.all (fun m => m.cmd.blk != c.blk) &&
    (if c.prio = 0 || bitsOf s.pkg.tierCfg.toNat 20 16 = 1 then decide (s.tier.moves.length < bitsOf s.pkg.tierCfg.toNat 20 16)
    else decide (s.tier.moves.length + 1 < bitsOf s.pkg.tierCfg.toNat 20 16))

theorem startable_iff {s : State} {c : TierCmd} (h : startable s c = true) : (∀ m ∈ s.tier.moves, m.cmd.blk ≠ c.blk) ∧
    s.tier.moves.length < bitsOf s.pkg.tierCfg.toNat 20 16 := by
  obtain ⟨h1, h2⟩ := Bool.and_eq_true_iff.1 h
  refine ⟨by simpa using h1, ?_⟩
  split at h2
  · exact of_decide_eq_true h2
  · exact Nat.lt_of_succ_lt (of_decide_eq_true h2)

theorem nextCmd_eq (s : State) : s.nextCmd =
    (s.tier.cmds.filter (startable s)).foldl (Routers.pick fun c x : TierCmd => c.prio < x.prio) none := by
  unfold State.nextCmd
  refine congrArg₂ (fun f l => List.foldl f none l) ?_ rfl
  funext b c
  cases b <;> rfl

theorem nextCmd_startable {s : State} {c : TierCmd} (h : s.nextCmd = some c) : c ∈ s.tier.cmds ∧ startable s c = true := by
  rw [nextCmd_eq] at h
  exact List.mem_filter.1 (Routers.mem_of_foldl_pick h)

section
variable {s u : State} {c : TierCmd} {k : Block}

/-- The footprint index that a command speaks of. -/
def cmdIndex (s : State) (c : TierCmd) : Nat := (c.recAddr - (s.recAddr c.vdid 0).getD 0) / 32

variable (hc : s.nextCmd = some c)
  (hu : State.seeBlock { s with tier := { s.tier with cmds := s.tier.cmds.erase c } } c.vdid (cmdIndex s c) = u)
  (hb : u.block? c.vdid (cmdIndex s c) = some k) (hd : c.dir = .up)
include hc hu hb hd

theorem moveStart_come (hk : k.far = false) : exec .tierMoveStart s = .next (u.wakeAll c.waiters) := by
  change execTierMoveStart s = _
  rw [cmdIndex] at hu hb
  simp only [execTierMoveStart, hc, hu, hb, hd, hk]
  rfl

/-- The move of a command up, as the engine starts it. -/
def started (u : State) (c : TierCmd) (k : Block) : Move :=
  ⟨u.nextId, c, ((u.routeWrite (u.localId 0) k.blk []).map RtHolder.holder).getD 0, k.home, .announcing, 0,
    decide (k.home = u.localId 0), false, u.pace, none⟩

theorem moveStart_announces (hk : k.far = true) : exec .tierMoveStart s =
    .next (State.askAnnounce (State.setBusy { u with
      nextId := u.nextId + 1
      tier := { u.tier with moves := u.tier.moves ++ [started u c k] } } k.addr true) (started u c k)) := by
  change execTierMoveStart s = _
  rw [cmdIndex] at hu hb
  simp only [execTierMoveStart, hc, hu, hb, hd, hk]
  rfl

end

/-! ## The answers of a move (18 R316, 21 R379) -/

section
variable {s : State} {n k : Nat} {m : Move} (hm : s.move? n = some m)
include hm

theorem announceAnswer_late (hl : s.tooLate m = true) : exec (.tierAnnounceAnswer n k) s = .next s := by
  change execTierAnnounceAnswer n k s = _
  simp [execTierAnnounceAnswer, hm, hl]

theorem handoverAnswer_late (hl : s.tooLate m = true) : exec (.tierHandoverAnswer n k) s = .next s := by
  change execTierHandoverAnswer n k s = _
  simp [execTierHandoverAnswer, hm, hl]

section
variable (hs : m.st = .announcing) (hr : ∀ r ∈ s.relays, r.msg.pre ≠ blkPrefix m.cmd.blk) (hl : s.tooLate m = false)
include hs hr hl

theorem announceAnswer_good (ha : m.answer.getD k = 0) (hf : s.filling m = true)
    (hx : ∀ x ∈ s.refused, ¬ (x.1 = blkPrefix m.cmd.blk ∧ x.2.1 = m.dst)) :
    exec (.tierAnnounceAnswer n k) s = .next (s.setMove { m with st := .copying, announced := true }) := by
  have hr : s.relays.any (fun r => r.msg.pre == blkPrefix m.cmd.blk) = false := by simpa using hr
  have hx : s.refused.any (fun x => x.1 == blkPrefix m.cmd.blk && x.2.1 == m.dst) = false := by simpa using hx
  change execTierAnnounceAnswer n k s = _
  simp [execTierAnnounceAnswer, hm, hs, hr, hl, ha, hf, hx]

theorem announceAnswer_bad (ha : m.answer.getD k ≠ 0) (hd : m.cmd.dir = .up) :
    exec (.tierAnnounceAnswer n k) s = .next (s.setMove { m with st := .aborted }) := by
  have hr : s.relays.any (fun r => r.msg.pre == blkPrefix m.cmd.blk) = false := by simpa using hr
  change execTierAnnounceAnswer n k s = _
  simp [execTierAnnounceAnswer, hm, hs, hr, hl, ha, State.announceFailed, hd]

end

section
variable (hs : m.st = .handing)
include hs

theorem handoverAnswer_good (hl : s.tooLate m = false) (ha : m.answer.getD k = 0) : exec (.tierHandoverAnswer n k) s =
    .next (((s.handedOver m).rteWd m.cmd.blk ((s.handedOver m).moveDesc m.cmd.blk m.src m.src 0)).2.setMove
      { m with st := .withdrawing }) := by
  change execTierHandoverAnswer n k s = _
  simp [execTierHandoverAnswer, hm, hs, hl, ha]

theorem handoverAnswer_bad (hl : s.tooLate m = false) (ha : m.answer.getD k ≠ 0) : exec (.tierHandoverAnswer n k) s =
    .next (s.setMove { m with st := .aborted }) := by
  change execTierHandoverAnswer n k s = _
  simp [execTierHandoverAnswer, hm, hs, hl, ha]

theorem timeout_handing (ha : m.answer = none) (ht : m.asked + 20000 < s.pace) : exec (.announcementTimeout n) s =
    .next (s.setMove { m with st := .aborted }) := by
  change execAnnouncementTimeout n s = _
  simp [execAnnouncementTimeout, hm, hs, ha, ht]

end

theorem timeout_early (ht : s.pace ≤ m.asked + 20000) : exec (.announcementTimeout n) s = .next s := by
  change execAnnouncementTimeout n s = _
  simp [execAnnouncementTimeout, hm, ht]

/-! ## The fills of a move (18 R316) -/

section
variable (hs : m.st = .copying)
include hs

theorem fillDone_hands (hp : 2 ^ 21 ≤ m.pos) (hf : ∀ f ∈ s.fills, f.move ≠ n) (hd : m.dst / 256 = s.pkgNum) :
    exec (.tierFillDone n) s = .next ((s.rteRole m.cmd.blk (s.moveDesc m.cmd.blk m.dst m.src 0)).2.setMove { m with
      st := .handing
      asked := s.pace
      answer := some (s.rteRole m.cmd.blk (s.moveDesc m.cmd.blk m.dst m.src 0)).1 }) := by
  have hf : s.fills.any (fun f => f.move == n) = false := by simpa using hf
  change execTierFillDone n s = _
  simp only [execTierFillDone, hm, hs, hf, hd, decide_eq_false (not_lt.2 hp)]
  rfl

variable (hp : m.pos < 2 ^ 21)
include hp

theorem fillRead_noRoute (hh : s.home (m.cmd.blk + m.pos) = none) : exec (.tierFillRead n) s =
    .next (s.setMove { m with st := .aborted }) := by
  change execTierFillRead n s = _
  simp only [execTierFillRead, hm, hs, hh, decide_eq_false (not_le.2 hp)]
  rfl

variable {h : RtHolder} (hh : s.home (m.cmd.blk + m.pos) = some h)
include hh

theorem fillRead_revoked (hf : s.filling m = false) : exec (.tierFillRead n) s =
    .next ((s.settleLine h.holder (m.cmd.blk + m.pos)).setMove { m with st := .aborted }) := by
  change execTierFillRead n s = _
  simp only [execTierFillRead, hm, hs, hh, hf, decide_eq_false (not_le.2 hp)]
  rfl

variable {v : State} (hv : s.settleLine h.holder (m.cmd.blk + m.pos) = v)
include hv

theorem fillRead_poisoned (hx : (v.lineAt h.holder (m.cmd.blk + m.pos)).poison = true) : exec (.tierFillRead n) s =
    .next (v.setMove { m with st := .aborted }) := by
  change execTierFillRead n s = _
  simp only [execTierFillRead, hm, hs, hh, hv, hx, decide_eq_false (not_le.2 hp), Bool.or_true]
  rfl

theorem fillRead_goesOn {u : State} (hf : s.filling m = true) (hx : (v.lineAt h.holder (m.cmd.blk + m.pos)).poison = false)
    (hu : v.unitRead h.holder (m.cmd.blk + m.pos) = u) : exec (.tierFillRead n) s = .next (State.setMove (State.sendTo { u with
      nextId := u.nextId + 1
      fills := u.fills ++ [⟨u.nextId, blkPrefix m.cmd.blk, m.dst, m.cmd.blk + m.pos, u.bytesAt h.holder (m.cmd.blk + m.pos) 64, n,
        (u.lineAt h.holder (m.cmd.blk + m.pos)).wct⟩] } (u.localId 0) (m.cmd.blk + m.pos) m.dst chanData)
      { m with pos := m.pos + 64 }) := by
  change execTierFillRead n s = _
  simp only [execTierFillRead, hm, hs, hh, hv, hf, hx, hu, decide_eq_false (not_le.2 hp)]
  rfl

end

/-! ## The end of a move (18 R317) -/

theorem moveEnd_waits (h1 : m.st ≠ .withdrawing) (h2 : m.st ≠ .aborted) : exec (.tierMoveEnd n) s = .next s := by
  change execTierMoveEnd n s = _
  simp [execTierMoveEnd, hm, h1, h2]

/-- The move leaves the engine. -/
def gone (u : State) (n : Nat) : State := { u with tier := { u.tier with moves := u.tier.moves.filter fun x => x.id != n } }

section
variable (hs : m.st = .withdrawing) (ho : m.src / 256 ≠ s.pkgNum) (hd : m.cmd.dir = .up)
  (he : ∀ e, s.exactEntry (s.localId 0) (blkPrefix m.cmd.blk) = some e → ∀ h ∈ e.holders, h.holder ≠ m.src)
  {u : State} (hu : s.seeBlock m.cmd.vdid (cmdIndex s m.cmd) = u)
include hs ho hd he hu

omit hm hs ho hd hu in
/-- CD0's router no longer has the old holder. -/
theorem old_left : (s.exactEntry (s.localId 0) (blkPrefix m.cmd.blk)).any (fun e => e.holders.any fun h => h.holder == m.src) = false := by
  cases hx : s.exactEntry (s.localId 0) (blkPrefix m.cmd.blk) with
  | none => rfl
  | some e => simpa using he e hx

theorem moveEnd_unusable (hb : u.block? m.cmd.vdid (cmdIndex s m.cmd) = none) : exec (.tierMoveEnd n) s =
    .next ((((gone u n).setTier m.cmd.recAddr 0).setBusy m.cmd.recAddr false).wakeAll m.cmd.waiters) := by
  have hl := old_left he
  change execTierMoveEnd n s = _
  rw [cmdIndex] at hu hb
  simp only [execTierMoveEnd, hm, hs, if_neg ho, hl, hd, hu, hb]
  rfl

theorem moveEnd_near {k : Block} (hb : u.block? m.cmd.vdid (cmdIndex s m.cmd) = some k) : exec (.tierMoveEnd n) s =
    .next (((((gone u n).setFar k.leaf false).setTier m.cmd.recAddr 0).setBusy m.cmd.recAddr false).wakeAll m.cmd.waiters) := by
  have hl := old_left he
  change execTierMoveEnd n s = _
  rw [cmdIndex] at hu hb
  simp only [execTierMoveEnd, hm, hs, if_neg ho, hl, hd, hu, hb]
  rfl

end

end

/-! ## Requests of other packages (21 R379) -/

section
variable {s : State} {v : Nat} {p : Prefix} {x : BitVec 64}

theorem request_notHosted {o : RteOp} (ho : o ≠ .baton) (h : (s.vregs.part[v]?).getD 255 = 255) :
    exec (.announcementRequest v o p x) s = .next s := by
  change execAnnouncementRequest v o p x s = _
  simp only [execAnnouncementRequest, if_neg ho, if_pos h]

theorem request_withdraws (h : (s.vregs.part[v]?).getD 255 ≠ 255) : exec (.announcementRequest v .wd p x) s =
    .next (s.rteWd p.base (setBits x.toNat 5 0 p.len)).2 := by
  change execAnnouncementRequest v .wd p x s = _
  simp only [execAnnouncementRequest, if_neg h]
  rfl

end

/-- Settles O41: each event by what it meets. -/
theorem tierMoves : Obligations.TierMoves := by
  unfold Obligations.TierMoves
  intro s n k
  exact ⟨fun w hw hf => offer_full hw hf, fun w u hw hf hu hb => offer_unusable hw hf hu hb,
    fun w k u hw hf hu hb hk => offer_come hw hf hu hb hk,
    fun w k u hw hf hu hb hk hm hl hc => offer_queues hw hf hu hb hk hm hl hc,
    fun h => congrArg Host.Outcome.next (by rw [h]),
    fun c hc => ⟨(nextCmd_startable hc).1, startable_iff (nextCmd_startable hc).2⟩,
    fun c k u hc hu hb hd hk => moveStart_come hc hu hb hd hk,
    fun c k u hc hu hb hd hk => ⟨_, started u c k, moveStart_announces hc hu hb hd hk, rfl, rfl, rfl, rfl, rfl, rfl⟩,
    fun m hm hs hr hl ha hf hx => announceAnswer_good hm hs hr hl ha hf hx,
    fun m hm hs hr hl ha hd => announceAnswer_bad hm hs hr hl ha hd,
    fun m h v u hm hs hp hf hh hv hx hu => fillRead_goesOn hm hs hp hh hv hf hx hu,
    fun m h hm hs hp hf hh => fillRead_revoked hm hs hp hh hf,
    fun m h v hm hs hp hh hv hx => fillRead_poisoned hm hs hp hh hv hx,
    fun m hm hs hp hh => fillRead_noRoute hm hs hp hh,
    fun m hm hs hp hf hd => fillDone_hands hm hs hp hf hd,
    fun m hm hs hl ha => handoverAnswer_good hm hs hl ha,
    fun m hm hl => ⟨handoverAnswer_late hm hl, announceAnswer_late hm hl⟩,
    fun m h => if_neg fun h2 => h2.1 h,
    fun m h1 h2 => if_pos ⟨h1, h2⟩,
    fun m hm hs hl ha => handoverAnswer_bad hm hs hl ha,
    fun m u hm hs ho hd he hu hb => moveEnd_unusable hm hs ho hd he hu hb,
    fun m k u hm hs ho hd he hu hb => moveEnd_near hm hs ho hd he hu hb,
    fun m hm h1 h2 => moveEnd_waits hm h1 h2,
    fun v o p x ho h => request_notHosted ho h,
    fun v p x h => request_withdraws h,
    fun m hm ha ht hs => timeout_handing hm hs ha ht,
    fun m hm ht => timeout_early hm ht⟩

end Sys2Proof.Proofs.TierEngine

/-!
# Launches and work lists

What `launch` answers, and what the work list instructions do with a list.
-/

namespace Sys2Proof.Proofs.LaunchLists

open Sys2Proof Sys2Proof.Machine Sys2Proof.Laws.Issue Sys2Proof.Proofs.ObjectInstructions Sys2Proof.Proofs.Traps Sys2Proof.Proofs.MatrixUnit Sys2Proof.Proofs.Frames Sys2Proof.Proofs.Translation Sys2Proof.Proofs.Routers

/-! ## `launch` (17 R296-R299, R301) -/

theorem issued_trans (s : State) (i : Instr) : (s.issued i).hints.trans = s.hints.trans := by
  simp [State.hints, State.issued, State.setPc, State.anchor]

section
variable {t : State} {d a p : Nat} (hp : ((t.hints.trans.head?).map Prod.fst).getD (t.sreg a).toNat = p)
include hp

theorem doLaunch_misaligned (h : p % 64 ≠ 0) : doLaunch d a t = .trap 11 p 0 := by
  simp only [doLaunch, hp, if_pos h]

variable (h : p % 64 = 0) {bs : List Byte} {u : State} (hr : Reads t p 4 bs u)
include h hr

theorem doLaunch_scope (hs : bitsOf (ofLeBytes bs) 103 100 < 2 ∨ 5 < bitsOf (ofLeBytes bs) 103 100) :
    doLaunch d a t = .ok (u.setSreg d 1) := by
  simp only [doLaunch, hp, if_neg (not_not.2 h), readLines_of_reads hr, if_pos hs]

variable (hs : ¬ (bitsOf (ofLeBytes bs) 103 100 < 2 ∨ 5 < bitsOf (ofLeBytes bs) 103 100))
include hs

theorem doLaunch_waits (ho : u.relOk (bitsOf (ofLeBytes bs) 103 100) t.since = false) :
    doLaunch d a t = .hold u (.answer .launch d (ofLeBytes bs) t.since) := by
  simp only [doLaunch, hp, if_neg (not_not.2 h), readLines_of_reads hr, if_neg hs, ho]
  rfl

variable (ho : u.relOk (bitsOf (ofLeBytes bs) 103 100) t.since = true) (hd : u.cur.trap.deferred = []) {r : State}
include ho hd

theorem doLaunch_answers {x : Nat} (hf : u.finishLaunch (ofLeBytes bs) = (some x, r)) :
    doLaunch d a t = .ok (r.setSreg d (BitVec.ofNat 64 x)) := by
  simp only [doLaunch, hp, if_neg (not_not.2 h), readLines_of_reads hr, if_neg hs, if_pos ho, withDeferred_nothing _ _ hd, hf]

theorem doLaunch_holds (hf : u.finishLaunch (ofLeBytes bs) = (none, r)) :
    doLaunch d a t = .hold r (.answer .launch d (ofLeBytes bs) t.since) := by
  simp only [doLaunch, hp, if_neg (not_not.2 h), readLines_of_reads hr, if_neg hs, if_pos ho, withDeferred_nothing _ _ hd, hf]

end

theorem finishLaunch_full {s : State} {c : Ctx} (hc : s.myCtx = some c) (h : s.tableFull c.part = true) (raw : Nat) :
    s.finishLaunch raw = (some 7, s) := by
  simp only [State.finishLaunch, hc, if_pos h]

theorem takeRecord_bad {s : State} {c : Ctx} {pl raw : Nat} (h : badFields (newRec s.nextId c.part c.num raw) pl = true) :
    s.takeRecord c pl raw = (some 1, { s with
      nextId := s.nextId + 1
      recs := s.recs ++ [{ newRec s.nextId c.part c.num raw with st := .refused, status := 1 }] }) :=
  if_pos h

theorem nodeDec_fields {w : Nat} (h : w < 2 ^ 32) :
    nodeDec w < 2 ^ 32 ∧ nodeDec w / 2 ^ 30 = w / 2 ^ 30 ∧ (nodeDec w + 1) % 2 ^ 30 = w % 2 ^ 30 := by
  unfold nodeDec
  omega

/-! ## Lists by partition and number (17 R302) -/

section
variable (s : State) (p m : Nat)

theorem wl_key : (s.wl p m).part = p ∧ (s.wl p m).n = m := by
  unfold State.wl
  cases h : s.wls.find? (fun w => w.part == p && w.n == m) with
  | none => exact ⟨rfl, rfl⟩
  | some w => simpa using List.find?_some h

theorem wl_setWl (w : WorkList) : (s.setWl w).wl w.part w.n = w := by
  simp [State.wl, State.setWl]

/-- Reading a list after it has been replaced by one of its own key. -/
theorem wl_setWl_of {w : WorkList} (hp : w.part = p) (hn : w.n = m) : (s.setWl w).wl p m = w := by
  subst hp hn
  exact wl_setWl s w

variable {s} {t : State}

theorem wl_congr (h : t.wls = s.wls) : t.wl p m = s.wl p m := by rw [State.wl, h, State.wl]

end

theorem issued_wl (s : State) (i : Instr) (p m : Nat) : (s.issued i).wl p m = s.wl p m := wl_congr p m (State.issued_wls s i)

theorem issued_wlBad (s : State) (i : Instr) (w : WorkList) : (s.issued i).wlBad w = s.wlBad w := by
  rw [State.wlBad, State.issued_myVdid, State.wlBad]

theorem finish_wls (t : State) (i : Instr) (s : State) : (t.finish i s).wls = t.wls := by rw [finish_outside]

section
variable (w : WorkList)

theorem trim_key (n : Nat) : (w.trim n).part = w.part ∧ (w.trim n).n = w.n := by
  induction n generalizing w with
  | zero => exact ⟨rfl, rfl⟩
  | succ n ih =>
    unfold WorkList.trim
    split
    · exact ⟨rfl, rfl⟩
    · dsimp only
      split <;> exact ih _

theorem popped_key (m : Nat) (b : Bool) : (w.popped m b).part = w.part ∧ (w.popped m b).n = w.n := trim_key _ _

variable {w}

theorem popped_eq (m : Nat) (b : Bool) (h : w.void = []) : w.popped m b =
    { w with head := (w.head + m) % 2 ^ 40, prod := if b = true ∧ 0 < m then w.prod + 1 else w.prod } := by
  simp only [WorkList.popped, h, List.length_nil, WorkList.trim, Bool.and_eq_true, decide_eq_true_eq]

theorem reserve_cancel (m : Nat) (hv : w.void = []) (hr : ∀ r ∈ w.resv, r.1 ≠ w.tail) (ht : w.tail < 2 ^ 40) :
    (w.reserve m).cancel w.tail = w := by
  have hkeep : (w.resv.filter fun r => !(r.1 == w.tail)) = w.resv := List.filter_eq_self.2 fun r h => by simpa using hr r h
  have hnone : (w.resv.filter fun r => r.1 == w.tail) = [] := List.filter_eq_nil_iff.2 fun r h => by simpa using hr r h
  obtain ⟨part, n, cfg, head, tail, prod, resv, void⟩ := w
  dsimp only at hv hr ht hkeep hnone
  subst hv
  by_cases hm : m = 0
  · subst hm
    simp [WorkList.reserve, WorkList.cancel, hkeep, hnone, WorkList.trim]
    exact ht
  · simp [WorkList.reserve, WorkList.cancel, hm, List.filter_append, hkeep, hnone, WorkList.trim]

theorem poppable_le : w.poppable ≤ w.ahead w.tail := by
  unfold WorkList.poppable
  generalize w.ahead w.tail = b
  induction w.resv ++ w.void generalizing b with
  | nil => exact le_rfl
  | cons r l ih => exact (ih _).trans (min_le_left ..)

theorem quiescent_poppable (h : w.quiescent = true) : w.poppable = 0 := by
  have ht : w.head = w.tail := by simp_all [WorkList.quiescent]
  have hle := poppable_le (w := w)
  rw [WorkList.ahead, ht] at hle
  omega

end

theorem finishPush_wl (s : State) (p : Nat) {m : Nat} (j : Nat) (h : m < 64) : (s.finishPush p (m + 64 * j)).wl p m =
    { s.wl p m with resv := (s.wl p m).resv.filter fun r => r.1 != j } := by
  have hm : (m + 64 * j) % 64 = m := by omega
  have hj : (m + 64 * j) / 64 = j := by omega
  rw [State.finishPush, hm, hj]
  exact wl_setWl_of s p m (wl_key s p m).1 (wl_key s p m).2

/-! ## A split that is held -/

section
variable (s : State) (i : Instr) (u : State) (w : Wait)

theorem held_wls : (s.held i u w).wls = u.wls := by
  unfold State.held State.countIssue
  dsimp only
  (repeat' split) <;> rfl

theorem held_wait : (s.held i u w).split.wait = w := by
  have h : (s.held i u w).cur.ctl = (u.heldAt s i w (s.waitsFor i)).cur.ctl := by
    unfold State.held State.countIssue
    dsimp only
    (repeat' split) <;> rfl
  rw [State.split, h]
  exact congrArg Split.wait (Ctl.split_setSplit_same ..)

end

/-! ## Items (17 R303) -/

section
variable (u : State) (c : Ctx)

theorem sendItem_wls (op : Nat) (l : Lane) (fa v : Nat) : (u.sendItem c op l fa v).wls = u.wls := by
  unfold State.sendItem State.sendWrite
  dsimp only
  refine (congrArg State.wls (sendTo_unsent _ _ _ _ _) :).trans ?_
  split <;> rfl

/-- The items of a push that has some leave, and the split waits for them. -/
theorem pushItems_waits (d n first : Nat) {items : List (Lane × Nat × Nat)} (h : items ≠ []) :
    ∃ t b, u.pushItems c d n first items = (t, some (.answer .push d b (n + 64 * first))) ∧ t.wls = u.wls := by
  have hi : items.isEmpty = false := by simpa using h
  unfold State.pushItems
  simp only [hi, Bool.false_eq_true, if_false]
  refine ⟨_, _, rfl, ?_⟩
  refine (foldl_keeps (g := State.wls) (fun s x => ?_) items _).trans rfl
  exact sendItem_wls s c _ x.1 x.2.1 x.2.2

variable {u c}

theorem pushItems_nil (d n first : Nat) : u.pushItems c d n first [] = (u.setSreg d (BitVec.ofNat 64 first), none) := rfl

theorem seeItems_nil (w : WorkList) : u.seeItems c w [] = u := rfl

theorem itemsAt_nil (w : WorkList) (need : BitVec 4) : u.itemsAt c w need [] = ([], [], none) := rfl

theorem filterMap_getLeft?_length {α β : Type} (l : List (α ⊕ β)) (h : l.filterMap Sum.getRight? = []) :
    (l.filterMap Sum.getLeft?).length = l.length := by
  induction l with
  | nil => rfl
  | cons x l ih =>
    cases x with
    | inl a => simpa using ih (by simpa using h)
    | inr b => simp at h

/-- Where no item misses, every one has an address. -/
theorem itemsAt_length {w : WorkList} {need : BitVec 4} {is fas : List Nat} {bad : Option (Nat × Nat)}
    (h : u.itemsAt c w need is = (fas, [], bad)) : fas.length = is.length := by
  have h1 := congrArg Prod.fst h
  have h2 := congrArg (fun x => x.2.1) h
  refine (congrArg List.length h1).symm.trans ((congrArg List.length ?_).trans ((filterMap_getLeft?_length
    (is.map fun i => u.itemAddr c w need i) ((Eq.trans ?_ h2))).trans (List.length_map _)))
  · exact congrArg (fun f => List.filterMap f _) (funext fun x => by cases x <;> rfl)
  · exact congrArg (fun f => List.filterMap f _) (funext fun x => by cases x <;> rfl)

end

/-! ## `wl.push` (17 R303) -/

section
variable {t : State} {c : Ctx} {d b n : Nat} {w : WorkList} (hw : t.wl t.myPart n = w)
include hw

theorem doWlPush_disabled (h : t.wlBad w = true ∨ w.prod = 0) : doWlPush d b n t = .trap 25 0 0 := by
  subst hw
  have hb : (t.wlBad (t.wl t.myPart n) || decide ((t.wl t.myPart n).prod = 0)) = true := by simpa using h
  unfold doWlPush
  dsimp only
  split
  · rfl
  · exact if_pos hb

variable (hc : t.myCtx = some c) (hb : t.wlBad w = false) (hp : w.prod ≠ 0)
include hc hb hp

theorem doWlPush_full (h : w.cap < w.ahead w.tail + (lanesOf t.exec).length) :
    doWlPush d b n t = .ok (t.setSreg d (BitVec.allOnes 64)) := by
  subst hw
  simp [doWlPush, hc, hb, hp, h]

variable (h : w.ahead w.tail + (lanesOf t.exec).length ≤ w.cap)
include h

theorem doWlPush_acq (ha : t.split.acq ≠ []) : doWlPush d b n t = .waiting .acq := by
  subst hw
  simp [doWlPush, hc, hb, hp, not_lt.2 h, ha]

variable (ha : t.split.acq = [])
include ha

/-- The positions that a push reserves. -/
def pushed (w : WorkList) (t : State) : List Nat := (List.range (lanesOf t.exec).length).map fun j => w.tail + j

/-- The items of a push: the lanes with the addresses and values that they write. -/
def pushItemsOf (u : State) (b : Nat) (ls : List Lane) (fas : List Nat) : List (Lane × Nat × Nat) :=
  (ls.zip fas).map fun x => (x.1, x.2, (u.vlane b x.1).toNat + (u.vlane (b + 1) x.1).toNat * 2 ^ 32)

variable {u : State} (hu : t.seeItems c w (pushed w t) = u) {fas : List Nat} (hi : u.itemsAt c w 2 (pushed w t) = (fas, [], none))
include hu hi

theorem doWlPush_sends (ho : u.relOk 3 u.nextId = true) : doWlPush d b n t =
    match (u.setWl (w.reserve (lanesOf t.exec).length)).pushItems c d n w.tail (pushItemsOf u b (lanesOf t.exec) fas) with
    | (x, none) => .ok x
    | (x, some y) => .hold x y := by
  subst hw
  rw [pushed] at hu hi
  have ho' : (u.setWl ((t.wl t.myPart n).reserve (lanesOf t.exec).length)).relOk 3
      (u.setWl ((t.wl t.myPart n).reserve (lanesOf t.exec).length)).nextId = true := ho
  simp only [doWlPush, hc, hb, hp, not_lt.2 h, ha, hu, hi, ho']
  rfl

theorem doWlPush_waits (ho : u.relOk 3 u.nextId = false) : doWlPush d b n t =
    .hold (u.setWl (w.reserve (lanesOf t.exec).length)) (.push d n w.tail u.nextId (pushItemsOf u b (lanesOf t.exec) fas)) := by
  subst hw
  rw [pushed] at hu hi
  have ho' : (u.setWl ((t.wl t.myPart n).reserve (lanesOf t.exec).length)).relOk 3
      (u.setWl ((t.wl t.myPart n).reserve (lanesOf t.exec).length)).nextId = false := ho
  simp only [doWlPush, hc, hb, hp, not_lt.2 h, ha, hu, hi, ho']
  rfl

end

/-! ## `wl.pop` and `wl.done` (17 R303) -/

section
variable {t : State} {c : Ctx} {d sd n : Nat} {p : Bool} {w : WorkList} (hw : t.wl t.myPart n = w)
include hw

theorem doWlPop_disabled (h : t.wlBad w = true) : doWlPop d sd n p t = .trap 25 0 0 := by
  subst hw
  unfold doWlPop
  dsimp only
  split
  · rfl
  · exact if_pos h

theorem doWlDone_disabled (h : t.wlBad w = true ∨ w.prod = 0) : doWlDone n t = .trap 25 0 0 := by
  subst hw
  exact if_pos (by simpa using h)

theorem doWlDone_lowers (hb : t.wlBad w = false) (hp : w.prod ≠ 0) : doWlDone n t = .ok (t.setWl { w with prod := w.prod - 1 }) := by
  subst hw
  exact if_neg (by simp [hb, hp])

variable (hc : t.myCtx = some c) (hb : t.wlBad w = false) (ha : t.split.acq = [])
include hc hb ha

theorem doWlPop_quiescent (h : w.quiescent = true) : doWlPop d sd n p t = .ok (t.setSreg sd (BitVec.allOnes 64)) := by
  subst hw
  simp [doWlPop, hc, hb, ha, h, quiescent_poppable h]

/-- What a pop that has read its items leaves, at the state after its reads. -/
def taken (w : WorkList) (p : Bool) (d sd : Nat) (ls : List Lane) (bs : List Byte) (stamp : Nat) (u : State) : State :=
  (((u.setWl (w.popped ls.length p)).modAcc fun a =>
    { a with rfloor := BitVec.ofNat 64 (max a.rfloor.toNat stamp) }).popInto d ls bs).setSreg sd (BitVec.ofNat 64 ls.length)

/-- The lanes that a pop serves: as many as there are items that are ready. -/
def served (t : State) (w : WorkList) : List Lane := (lanesOf t.exec).take w.poppable

theorem doWlPop_takes (hn : ((served t w).isEmpty && w.quiescent) = false) {u x : State} {fas : List Nat} {bs : List Byte} {stamp : Nat}
    (hu : t.seeItems c w ((List.range (served t w).length).map fun j => w.head + j) = u)
    (hi : u.itemsAt c w 1 ((List.range (served t w).length).map fun j => w.head + j) = (fas, [], none))
    (hr : u.readEach (u.itemWants c fas) = .got x bs stamp) :
    doWlPop d sd n p t = .ok (taken w p d sd (served t w) bs stamp x) := by
  subst hw
  rw [served] at hu hi hn
  simp only [doWlPop, hc, hb, ha, hn, hu, hi, hr]
  rfl

end

theorem popInto_wls (u : State) (d : Nat) (ls : List Lane) (bs : List Byte) : (u.popInto d ls bs).wls = u.wls := by
  unfold State.popInto
  dsimp only
  split <;> rfl

/-- The list after a pop, where the list is kept under its own key. -/
theorem taken_wl {u : State} {w : WorkList} {part n : Nat} (hp : w.part = part) (hn : w.n = n) (p : Bool) (d sd : Nat) (ls : List Lane)
    (bs : List Byte) (stamp : Nat) : (taken w p d sd ls bs stamp u).wl part n = w.popped ls.length p := by
  refine (wl_congr (s := u.setWl (w.popped ls.length p)) part n ?_).trans (wl_setWl_of u part n ?_ ?_)
  · exact popInto_wls ((u.setWl (w.popped ls.length p)).modAcc _) d ls bs
  · exact (popped_key w _ _).1.trans hp
  · exact (popped_key w _ _).2.trans hn

theorem issued_list (s : State) (i : Instr) {n : Nat} {w : WorkList} (hw : s.wl s.myPart n = w) :
    (s.issued i).wl (s.issued i).myPart n = w := by
  rwa [State.issued_myPart, issued_wl]

/-- Settles O42: launches by what their records and conditions are, lists by what is kept under their keys. -/
theorem launchAndWorkLists : Obligations.LaunchAndWorkLists := by
  unfold Obligations.LaunchAndWorkLists
  intro s d a v n q
  refine ⟨fun p hp h => ?misaligned, fun p bs t hp h hr hs => ?scope, fun p bs t hp h hr h2 h5 ho => ?waits,
    fun p bs t r x hp h hr h2 h5 ho hd hf => ?answers, fun p bs t r hp h hr h2 h5 ho hd hf => ?holds,
    fun c raw hc h => finishLaunch_full hc h raw, fun c part pl raw h _ => ⟨_, takeRecord_bad h, _, List.mem_concat_self, rfl, rfl, rfl⟩,
    fun w h => nodeDec_fields h, fun w hw h => ?disabled, fun c w hc hw hb hp h => ?full,
    fun c w fas u hc hw hb hp h0 h ha hu hi hr => ?push, fun ha c w hc hw hb hp h => ?pushAcq,
    fun ha c w hc hw hb hp h0 h => ?pushNone, fun w m hv hr ht => reserve_cancel m hv hr ht, fun w m b h => popped_eq m b h,
    fun p m j h => finishPush_wl s p j h, fun w hw h => ?popDisabled, fun c w hc hw hb ha h => ?quiescent,
    fun c w hc hw hb ha hq h0 hh hv hr => ?popNone, fun c w fas k u x bs st hc hw hb ha h0 hk hu hi hx hr => ?pop,
    fun w hw h => ?doneDisabled, fun w hw hb hp => ?done⟩
  case misaligned => exact traps_at rfl (doLaunch_misaligned (by rwa [issued_trans, State.issued_sreg]) h)
  case scope => exact does_at (f := fun _ => _) rfl (doLaunch_scope (by rwa [issued_trans, State.issued_sreg]) h hr hs)
  case waits => exact holds_at (f := fun _ => _) rfl (doLaunch_waits (by rwa [issued_trans, State.issued_sreg]) h hr (by omega) ho)
  case answers =>
    exact does_at (f := fun _ => _) rfl (doLaunch_answers (by rwa [issued_trans, State.issued_sreg]) h hr (by omega) ho hd hf)
  case holds =>
    exact holds_at (f := fun _ => _) rfl (doLaunch_holds (by rwa [issued_trans, State.issued_sreg]) h hr (by omega) ho hd hf)
  case disabled => exact traps_at rfl (doWlPush_disabled (issued_list s _ hw) (by rwa [issued_wlBad]))
  case full => exact does_at rfl (doWlPush_full (issued_list s _ hw) (by rwa [State.issued_myCtx]) (by rwa [issued_wlBad]) hp h)
  case pushAcq =>
    exact notYet_at rfl (doWlPush_acq (issued_list s _ hw) (by rwa [State.issued_myCtx]) (by rwa [issued_wlBad]) hp h
      (by rwa [State.issued_acq]))
  case pushNone =>
    have hlen : (lanesOf (s.issued (.wlPush d v n)).exec).length = 0 := by rw [h0, List.length_nil]
    have hps : pushed w (s.issued (.wlPush d v n)) = [] := by rw [pushed, hlen, List.range_zero, List.map_nil]
    have hu : (s.issued (.wlPush d v n)).seeItems c w (pushed w (s.issued (.wlPush d v n))) = s.issued (.wlPush d v n) := by
      rw [hps, seeItems_nil]
    have hi : (s.issued (.wlPush d v n)).itemsAt c w 2 (pushed w (s.issued (.wlPush d v n))) = ([], [], none) := by
      rw [hps, itemsAt_nil]
    have hfit : w.ahead w.tail + (lanesOf (s.issued (.wlPush d v n)).exec).length ≤ w.cap := by rwa [hlen, Nat.add_zero]
    refine ⟨fun ho => does_at rfl ?_, fun ho => holds_at rfl ?_⟩
    · refine (doWlPush_sends (issued_list s _ hw) (by rwa [State.issued_myCtx]) (by rwa [issued_wlBad]) hp hfit
        (by rwa [State.issued_acq]) hu hi (by rwa [State.issued_nextId])).trans ?_
      rw [hlen, h0, pushItemsOf, List.zip_nil_left, List.map_nil, pushItems_nil]
    · refine (doWlPush_waits (issued_list s _ hw) (by rwa [State.issued_myCtx]) (by rwa [issued_wlBad]) hp hfit
        (by rwa [State.issued_acq]) hu hi (by rwa [State.issued_nextId])).trans ?_
      rw [hlen, h0, State.issued_nextId, pushItemsOf, List.zip_nil_left, List.map_nil]
  case push =>
    have he : exec (.wlPush d v n) s = issue (.wlPush d v n) s (doWlPush d.toNat v.toNat n.toNat) := rfl
    have hl : (pushItemsOf u v.toNat (lanesOf (s.issued (.wlPush d v n)).exec) fas).length =
        (lanesOf (s.issued (.wlPush d v n)).exec).length := by
      rw [pushItemsOf, List.length_map, List.length_zip, itemsAt_length hi, List.length_map, List.length_range, Nat.min_self]
    have hwl : ∀ t : State, t.wls = (u.setWl (w.reserve (lanesOf (s.issued (.wlPush d v n)).exec).length)).wls →
        t.wl s.myPart n.toNat = w.reserve (lanesOf (s.issued (.wlPush d v n)).exec).length := fun t ht =>
      (wl_congr _ _ ht).trans (wl_setWl_of u _ _ (hw ▸ (wl_key s _ _).1) (hw ▸ (wl_key s _ _).2))
    have hres : w.reserve (lanesOf (s.issued (.wlPush d v n)).exec).length = { w with
        tail := (w.tail + (lanesOf (s.issued (.wlPush d v n)).exec).length) % 2 ^ 40
        resv := w.resv ++ [(w.tail, (lanesOf (s.issued (.wlPush d v n)).exec).length)] } := by
      rw [WorkList.reserve, if_neg (by omega)]
    rw [← hres]
    cases ho : u.relOk 3 u.nextId with
    | false =>
      have hb := doWlPush_waits (d := d.toNat) (b := v.toNat) (issued_list s _ hw) (by rwa [State.issued_myCtx])
        (by rwa [issued_wlBad]) hp h (by rwa [State.issued_acq]) hu hi ho
      exact ⟨_, by rw [he, issue, of_hold hr hb]; rfl, by simp, fun _ => ⟨_, hl, held_wait s _ _ _⟩,
        hwl _ (held_wls s (.wlPush d v n) _ _)⟩
    | true =>
      have hne : pushItemsOf u v.toNat (lanesOf (s.issued (.wlPush d v n)).exec) fas ≠ [] := List.length_pos_iff.1 (by omega)
      obtain ⟨t, x, hx, ht⟩ := pushItems_waits (u.setWl (w.reserve (lanesOf (s.issued (.wlPush d v n)).exec).length)) c d.toNat n.toNat
        w.tail hne
      have hb := doWlPush_sends (d := d.toNat) (b := v.toNat) (issued_list s _ hw) (by rwa [State.issued_myCtx])
        (by rwa [issued_wlBad]) hp h (by rwa [State.issued_acq]) hu hi ho
      rw [hx] at hb
      exact ⟨_, by rw [he, issue, of_hold hr hb]; rfl, fun _ => ⟨_, held_wait s _ _ _⟩, by simp,
        hwl _ ((held_wls s (.wlPush d v n) _ _).trans ht)⟩
  case popDisabled => exact traps_at rfl (doWlPop_disabled (issued_list s _ hw) (by rwa [issued_wlBad]))
  case quiescent =>
    exact does_at rfl (doWlPop_quiescent (issued_list s _ hw) (by rwa [State.issued_myCtx]) (by rwa [issued_wlBad])
      (by rwa [State.issued_acq]) h)
  case popNone =>
    have he : exec (.wlPop v d n q) s = issue (.wlPop v d n q) s (doWlPop v.toNat d.toNat n.toNat (q == 1)) := rfl
    have hnone : served (s.issued (.wlPop v d n q)) w = [] := by rw [served, h0, List.take_zero]
    have hb := doWlPop_takes (d := v.toNat) (sd := d.toNat) (p := q == 1) (u := s.issued (.wlPop v d n q)) (fas := [])
      (issued_list s (.wlPop v d n q) hw) (by rwa [State.issued_myCtx]) (by rwa [issued_wlBad]) (by rwa [State.issued_acq])
      (by rw [hq, Bool.and_false]) (by rw [hnone]; rfl) (by rw [hnone]; rfl) rfl
    rw [hnone] at hb
    refine ⟨_, by rw [he, issue, of_ok hr hb], ?_, ?_⟩
    · rw [finish_sreg]
      exact State.sreg_setSreg_same _ d.isLt _
    · refine (wl_congr _ _ (finish_wls _ _ _)).trans ((taken_wl (hw ▸ (wl_key s _ _).1) (hw ▸ (wl_key s _ _).2) ..).trans ?_)
      have hmod : (w.head + ([] : List Lane).length) % 2 ^ 40 = w.head := Nat.mod_eq_of_lt hh
      rw [popped_eq _ _ hv, hmod, if_neg (by simp)]
  case pop =>
    subst hk
    have he : exec (.wlPop v d n q) s = issue (.wlPop v d n q) s (doWlPop v.toNat d.toNat n.toNat (q == 1)) := rfl
    have hsome : (served (s.issued (.wlPop v d n q)) w).isEmpty = false := List.isEmpty_eq_false_iff.2 (List.length_pos_iff.1 h0)
    have hb := doWlPop_takes (d := v.toNat) (sd := d.toNat) (p := q == 1) (issued_list s (.wlPop v d n q) hw)
      (by rwa [State.issued_myCtx]) (by rwa [issued_wlBad]) (by rwa [State.issued_acq]) (by rw [hsome, Bool.false_and]) hu hi hx
    refine ⟨_, by rw [he, issue, of_ok hr hb], ?_, ?_⟩
    · rw [finish_sreg]
      exact State.sreg_setSreg_same _ d.isLt _
    · exact (wl_congr _ _ (finish_wls _ _ _)).trans (taken_wl (hw ▸ (wl_key s _ _).1) (hw ▸ (wl_key s _ _).2) ..)
  case doneDisabled => exact traps_at rfl (doWlDone_disabled (issued_list s _ hw) (by rwa [issued_wlBad]))
  case done => exact does_at rfl (doWlDone_lowers (issued_list s _ hw) (by rwa [issued_wlBad]) hp)

end Sys2Proof.Proofs.LaunchLists

/-!
# Contexts

Where a context leaves residency with images out, the statement takes its place in the order from `s.leaveResidency c` with `c` the
entry that is changed, while the model takes the next name once the context that was found has left. The two differ where the number
stands twice in the table and the second entry's bitmap covers a line that waits: its write lands and sends an echo, which takes a name.
-/

namespace Sys2Proof.Proofs.Contexts

open Sys2Proof Sys2Proof.Machine

/-- A context leaves residency at the end of its pre-emption and waits again, under the next name after it has left (19 R340). -/
theorem switchOut_waiting {s : State} {n : Nat} {c : Ctx} (hc : s.ctx? n = some c) (hs : c.st = .resident)
    (hg : ∀ g ∈ s.groups, g.place.ctx ≠ n) (hr : c.reset = none) (hp : c.preempt ≠ .none) (hi : s.imagesReady n = true)
    (ho : ∃ o ∈ s.out, o.group.place.ctx = n) : exec (.contextSwitchOut n) s =
      .next ((s.leaveResidency c).fresh.2.modCtx n fun x =>
        { x with st := .waiting, waitFrom := (s.leaveResidency c).nextId, preempt := .none }) := by
  have hg : s.groups.all (fun g => g.place.ctx != n) = true := by simpa using hg
  have ho : s.out.any (fun o => o.group.place.ctx == n) = true := by simpa using ho
  change execContextSwitchOut n s = _
  simp [execContextSwitchOut, hc, hs, hg, hr, ho, hp, hi]
  generalize s.leaveResidency c = u
  rfl

/-! ## The counterexample -/

/-- A resident context under pre-emption; its area and its bitmap have no route. -/
def leaving : Ctx :=
  { newCtx 0 0 0 0 0 (2 ^ 40) with st := .resident, preempt := .grace 0, fpBase := 0x20000000000 }

/-- A second entry of the same number, whose bitmap begins at address 0. -/
def twin : Ctx := { leaving with fpBase := 0 }

/-- The line at address 0 as a route names it. -/
def firstLine : Prefix := ⟨0, 58⟩

/-- A write of no bytes to that line, which is still invalidating copies. -/
def waitingWrite : WriteReq :=
  ⟨0, .engine, 0, 0, 0, 0, 0, 0, 1, .bytes [], 5, 0, [], none, .invalidating, [], 0, 0, 0, [], 0, false, false, none, [], none⟩

/-- The line's primary, as a router has it. -/
def primaryHolder : RtHolder := ⟨5, .primary, 0, 0, 0, []⟩

/-- The package with both entries, one image of the context, and the waiting write at a line with a second holder. -/
def twinned : State :=
  { State.reset with
    out := [⟨Group.empty, false, false, [], [], [], false⟩]
    ctxs := [leaving, twin]
    writes := [waitingWrite]
    routes := [⟨0, firstLine, [primaryHolder], 0⟩, ⟨5, firstLine, [primaryHolder, ⟨6, .replica, 0, 0, 0, []⟩], 0⟩]
    holders := [⟨firstLine, 5, .primary, 0, 0, [], 0, 0, none, 0, [], []⟩] }

set_option maxRecDepth 10000 in
theorem leaving_ctxs : (twinned.leaveResidency leaving).ctxs = [leaving, twin] := by decide

set_option maxRecDepth 10000 in
theorem leaving_nextId : (twinned.leaveResidency leaving).nextId = 1 := by decide

set_option maxRecDepth 10000 in
theorem twin_nextId : (twinned.leaveResidency twin).nextId = 2 := by decide

/-- The places of the contexts in the residency order. -/
def placesOf (s : State) : List Nat := s.ctxs.map Ctx.waitFrom

/-- Refutes O44: in `twinned` the model gives both entries the next name 1, and the statement asks for 2 at the second. -/
theorem not_contexts : ¬ Obligations.Contexts := by
  unfold Obligations.Contexts
  intro h
  obtain ⟨-, -, -, -, -, -, -, -, -, -, -, hout, -⟩ := h twinned 0
  have hc : twinned.ctx? 0 = some leaving := rfl
  have hg : ∀ g ∈ twinned.groups, g.place.ctx ≠ 0 := by simp [State.groups, twinned, State.reset, Group.empty]
  have hi : twinned.imagesReady 0 = true := by decide
  have ho : ∃ o ∈ twinned.out, o.group.place.ctx = 0 := ⟨_, List.mem_singleton_self _, rfl⟩
  have hclaim := hout leaving hc rfl hg rfl (by decide) hi ho
  rw [switchOut_waiting hc rfl hg rfl (by decide) hi ho] at hclaim
  have hplaces := congrArg placesOf (Host.Outcome.next.inj hclaim)
  simp only [placesOf, State.modCtx, State.fresh, leaving_ctxs, List.map_cons, List.map_nil, leaving_nextId] at hplaces
  have hsecond := (List.cons.inj (List.cons.inj hplaces).2).1
  exact absurd hsecond (by rw [show twin.num = 0 from rfl]; simp [twin_nextId])

end Sys2Proof.Proofs.Contexts

/-!
# The management mailbox

What each command completes with, by what its action answers on the request.
-/

namespace Sys2Proof.Proofs.Mailbox

open Sys2Proof Sys2Proof.Machine

/-! ## A command and its end (22 R384) -/

section
variable {s t : State} {c : MboxCmd} {code : Nat} {act : State → List Byte → Nat × List Byte × State} {rsp : List Byte} {st : Nat}
  (h : s.Accepts c code)
include h

theorem mailbox_accepted : s.mailbox c code act =
    if (act s (cmdBody c)).1 = 0 then (act s (cmdBody c)).2.2.reply c 0 (act s (cmdBody c)).2.1 else s.reply c (act s (cmdBody c)).1 [] := by
  obtain ⟨hb, hu, hs, hc, hl⟩ := h
  exact if_neg (by simp only [hb, hu, hs, hc, hl]; simp)

theorem mailbox_ok (ha : act s (cmdBody c) = (0, rsp, t)) : s.mailbox c code act = t.reply c 0 rsp := by
  rw [mailbox_accepted h, ha]
  rfl

theorem mailbox_refused (ha : act s (cmdBody c) = (st, [], s)) (h0 : st ≠ 0) : s.mailbox c code act = s.reply c st [] := by
  rw [mailbox_accepted h, ha]
  exact if_neg h0

end

theorem reply_stat (s : State) (q : MboxCmd) {st : Nat} (r : List Byte) (h : st < 256) : (s.reply q st r).mbox.stat.toNat =
    bitsOf q.cmd.toNat 63 32 * 2 ^ 32 + r.length % 65536 * 2 ^ 16 + st * 2 ^ 8 + 2 := by
  have hb : bitsOf q.cmd.toNat 63 32 < 2 ^ 32 := by
    rw [ControlWrites.bitsOf_eq_div_mod]
    exact Nat.mod_lt _ (by decide)
  have hr : r.length % 65536 < 65536 := Nat.mod_lt _ (by decide)
  rw [State.reply, BitVec.toNat_ofNat]
  omega

theorem badCmd_replies {s : State} {c : MboxCmd} (hb : s.pkg.boot = 2) (hu : s.hostUp = true) (hs : s.mbox.stat.getLsbD 0 = false)
    (hl : cmdLen (cmdCode c) ≠ some (cmdBytes c)) : exec (.mailboxBadCmd c) s = .next (s.reply c 1 []) :=
  congrArg Host.Outcome.next (if_neg (by simp only [hb, hu, hs]; simp [hl]))

/-! ## Reports (22 R386) -/

theorem leBytes_length (n x : Nat) : (leBytes n x).length = n := by
  induction n generalizing x with
  | zero => rfl
  | succ n ih => simp [leBytes, ih]

theorem reportHead_take (s : State) (nonce rest : List Byte) : (s.reportHead nonce ++ rest).take 72 = leBytes 4 1 ++ leBytes 2 s.pkgNum ++
    leBytes 2 ((List.range 256).filterMap s.world?).length ++ measBytes s.pkg.meas := by
  unfold State.reportHead measBytes
  simp only [List.append_assoc]
  rw [← List.append_assoc, ← List.append_assoc, ← List.append_assoc]
  refine List.take_left' ?_
  simp [leBytes_length]

section
variable {s : State} {c : MboxCmd}

theorem attest_early (hb : s.pkg.boot ≠ 2) (hc : cmdCode c = 1) (hs : s.mbox.stat.getLsbD 0 = false) :
    exec (.attest c) s = .next (s.reply c 7 []) := by
  change execAttest c s = _
  rw [execAttest, if_pos hb, if_pos ⟨hc, hs⟩]

theorem attest_reports (h : s.Accepts c 1) : ∃ t, exec (.attest c) s = .next t ∧ t.mbox.rsp.take 72 = leBytes 4 1 ++
    leBytes 2 s.pkgNum ++ leBytes 2 ((List.range 256).filterMap s.world?).length ++ measBytes s.pkg.meas :=
  ⟨_, congrArg Host.Outcome.next ((if_neg (not_not.2 h.1)).trans (mailbox_ok h rfl)), reportHead_take s _ _⟩

/-! ## Worlds (22 R383, R385) -/

theorem worldCreate_creates (h : s.Accepts c 0x10) {w t : Nat} (hw : w = reqField (cmdBody c) 0 1) (ht : t = reqField (cmdBody c) 8 4)
    (h0 : 0 < w) (h1 : 0 < t) (h2 : t ≤ 600) (ho : onlyBytes (cmdBody c) [(0, 1), (8, 4)] = true) (hn : s.world? w = none) :
    exec (.worldCreate c) s = .next (State.reply { s with
      worlds := s.worlds ++ [⟨w, (List.range 64).map (Config.worldKey s.freeCount), t, 0, s.pace,
        (List.range 32).map (fun i => Config.worldKey s.freeCount (64 + i))⟩]
      freeCount := s.freeCount + 1 } c 0 []) := by
  subst hw ht
  refine congrArg Host.Outcome.next (mailbox_ok h ((if_neg ?_).trans (if_neg ?_)))
  · simp [Nat.pos_iff_ne_zero.1 h0, Nat.pos_iff_ne_zero.1 h1, ho, h2]
  · simp [hn]

theorem worldCreate_refused (h : s.Accepts c 0x10) {w t : Nat} (hw : w = reqField (cmdBody c) 0 1) (ht : t = reqField (cmdBody c) 8 4)
    (hx : w = 0 ∨ t = 0 ∨ 600 < t) : exec (.worldCreate c) s = .next (s.reply c 2 []) := by
  subst hw ht
  refine congrArg Host.Outcome.next (mailbox_refused h (if_pos ?_) (by decide))
  tauto

section
variable {w b l : Nat} (hr : rangeReq (cmdBody c) = some (w, b, l))
include hr

theorem worldGrant_grants (h : s.Accepts c 0x11) (hw : s.world? w ≠ none)
    (hp : ∀ k < l / 4096, s.ownHolder (b + 4096 * k) ≠ none ∧ (s.tagOf (b + 4096 * k) = 0 ∨ s.tagOf (b + 4096 * k) = w)) :
    exec (.worldGrant c) s = .next ((s.retag b l w).reply c 0 []) := by
  have hw : (s.world? w).isNone = false := by simpa using Option.isSome_iff_ne_none.2 hw
  have hown : (((List.range (l / 4096)).map fun i => b + 4096 * i).any fun a => (s.ownHolder a).isNone) = false := by
    simp only [List.any_map, List.any_eq_false, List.mem_range, Function.comp_apply, Option.isNone_iff_eq_none]
    exact fun k hk => (hp k hk).1
  have htag : (((List.range (l / 4096)).map fun i => b + 4096 * i).any fun a => s.tagOf a != 0 && s.tagOf a != w) = false := by
    simp only [List.any_map, List.any_eq_false, List.mem_range, Function.comp_apply, Bool.and_eq_true, bne_iff_ne]
    rintro k hk ⟨h0, h1⟩
    exact (hp k hk).2.elim h0 h1
  refine congrArg Host.Outcome.next (mailbox_ok h ?_)
  simp only [hr, hw, hown, htag, Bool.false_eq_true, if_false]

theorem worldRevoke_revokes (h : s.Accepts c 0x12) (hw : s.world? w ≠ none)
    (hp : ∀ k < l / 4096, s.ownHolder (b + 4096 * k) ≠ none ∧ s.tagOf (b + 4096 * k) = w) :
    exec (.worldRevoke c) s = .next ((s.retag b l 0).reply c 0 []) := by
  have hw : (s.world? w).isNone = false := by simpa using Option.isSome_iff_ne_none.2 hw
  have hpage : (((List.range (l / 4096)).map fun i => b + 4096 * i).any fun a => (s.ownHolder a).isNone || s.tagOf a != w) = false := by
    simp only [List.any_map, List.any_eq_false, List.mem_range, Function.comp_apply, Bool.or_eq_true, bne_iff_ne,
      Option.isNone_iff_eq_none]
    rintro k hk (h0 | h1)
    · exact (hp k hk).1 h0
    · exact h1 (hp k hk).2
  refine congrArg Host.Outcome.next (mailbox_ok h ?_)
  simp only [hr, hw, hpage, Bool.false_eq_true, if_false]

theorem worldRevoke_absent (h : s.Accepts c 0x12) (hw : s.world? w = none) : exec (.worldRevoke c) s = .next (s.reply c 4 []) := by
  refine congrArg Host.Outcome.next (mailbox_refused h ?_ (by decide))
  simp only [hr, hw, Option.isNone_none, if_true]

end

section
variable (h : s.Accepts c 0x13) {w : Nat} (hw : w = reqField (cmdBody c) 0 1) (h0 : 0 < w) (hx : s.world? w ≠ none)
include h hw h0 hx

theorem worldDestroy_destroys (hc : ∀ x ∈ s.ctxs, x.world ≠ w) (hg : ∀ g ∈ s.granted, g.2 ≠ w) :
    exec (.worldDestroy c) s = .next (State.reply { s with
      worlds := s.worlds.filter (fun x => x.id != w), integ := s.integ.filter (fun e => e.world != w) } c 0 []) := by
  subst hw
  refine congrArg Host.Outcome.next (mailbox_ok h ((if_neg h0.ne').trans ((if_neg ?_).trans (if_neg ?_))))
  · simpa using hx
  · simpa using ⟨hc, fun a ha => hg (a, _) ha rfl⟩

theorem worldDestroy_used (hc : ∃ x ∈ s.ctxs, x.world = w) : exec (.worldDestroy c) s = .next (s.reply c 3 []) := by
  subst hw
  refine congrArg Host.Outcome.next (mailbox_refused h ((if_neg h0.ne').trans ((if_neg ?_).trans (if_pos ?_))) (by decide))
  · simpa using hx
  · simpa using .inl hc

end

/-! ## Partitions and contexts (19 R340, 22 R385) -/

theorem partSet_sets (h : s.Accepts c 0x20) {i : Nat} (hi : i = reqField (cmdBody c) 0 1) (h11 : i ≤ 11)
    (ho : onlyBytes (cmdBody c) [(0, 1), (8, 8)] = true) :
    exec (.partSet c) s = .next ((s.writePart i (BitVec.ofNat 64 (reqField (cmdBody c) 8 8))).reply c 0
      (leBytes 8 (s.writePart i (BitVec.ofNat 64 (reqField (cmdBody c) 8 8))).pkg.partStatus.toNat)) := by
  subst hi
  refine congrArg Host.Outcome.next (mailbox_ok h (if_neg ?_))
  simp [h11, ho]

section
variable (h : s.Accepts c 0x31)
include h

theorem ctxDestroy_frees {x : Ctx} (hx : s.ctx? (reqField (cmdBody c) 0 2) = some x) (hs : x.st = .idle) (hr : x.reset = none) :
    exec (.ctxDestroy c) s = .next ((s.freeCtx (reqField (cmdBody c) 0 2)).reply c 0 []) := by
  refine congrArg Host.Outcome.next (mailbox_ok h ?_)
  simp only [hx, hs, hr]
  rfl

theorem ctxDestroy_absent (hx : s.ctx? (reqField (cmdBody c) 0 2) = none) : exec (.ctxDestroy c) s = .next (s.reply c 4 []) := by
  refine congrArg Host.Outcome.next (mailbox_refused h ?_ (by decide))
  simp only [hx]

end

section
variable (h : s.Accepts c 0x32) {x : Ctx} (hx : s.ctx? (reqField (cmdBody c) 0 2) = some x)
include h hx

theorem ctxPreempt_begins (hs : x.st = .resident) :
    exec (.ctxPreempt c) s = .next ((s.beginPreempt (reqField (cmdBody c) 0 2)).reply c 0 []) := by
  refine congrArg Host.Outcome.next (mailbox_ok h ?_)
  simp only [hx, hs]
  rfl

theorem ctxPreempt_notResident (hs : x.st ≠ .resident) : exec (.ctxPreempt c) s = .next (s.reply c 7 []) := by
  refine congrArg Host.Outcome.next (mailbox_refused h ?_ (by decide))
  simp [hx, hs]

end

/-- The number that a context gets where there is none: 0. -/
theorem find?_freeNumber {n : Nat} (hn : 0 < n) (hc : s.ctxs = []) :
    (List.range n).find? (fun n => s.ctxs.all fun c => c.num != n) = some 0 := by
  obtain ⟨n, rfl⟩ := Nat.exists_eq_add_one.2 hn
  simp [hc, List.range_succ_eq_map]

theorem bindVdid_ctxs (v p : Nat) : (s.bindVdid v p).ctxs = s.ctxs := rfl

theorem ctxCreate_creates (h : s.Accepts c 0x30) {p v w : Nat} (hp : p = reqField (cmdBody c) 0 1) (hv : v = reqField (cmdBody c) 1 1)
    (hw : w = reqField (cmdBody c) 2 1) (h3 : reqField (cmdBody c) 3 1 = 0) (h11 : p ≤ 11) (h63 : v ≤ 63)
    (ha : reqField (cmdBody c) 8 8 % 4096 = 0) (ho : onlyBytes (cmdBody c) [(0, 4), (8, 8)] = true)
    (hd : ((s.pkg.partDesc[p]?).getD 0).getLsbD 0 = true) (hx : w = 0 ∨ s.world? w ≠ none)
    (hb : (s.vregs.part[v]?).getD 255 = 255 ∨ (s.vregs.part[v]?).getD 255 = p) (hc : s.ctxs = []) :
    exec (.ctxCreate c) s = .next (State.reply { (if (s.vregs.part[v]?).getD 255 = p then s else s.bindVdid v p) with
      ctxs := s.ctxs ++ [newCtx 0 p v w 0 (reqField (cmdBody c) 8 8)] } c 0 (leBytes 2 0)) := by
  subst hp hv hw
  refine congrArg Host.Outcome.next (mailbox_ok h ((if_neg ?_).trans ((if_neg ?_).trans ((if_neg ?_).trans ?_))))
  · simp [h11, h63, h3, ha, ho]
  · simp only [hd, Bool.true_eq_false, false_or, not_and, Option.isNone_iff_eq_none]
    exact fun h0 => hx.resolve_left h0
  · simp only [h3, not_or, not_and]
    exact ⟨fun h0 h1 => hb.elim h0 h1, fun h0 => absurd h0 (by decide)⟩
  · rw [find?_freeNumber (by decide) hc, h3]

/-! ## Rings (22 R385) -/

theorem ringSet_sets (h : s.Accepts c 0x40) {k : Nat} (hk : k = reqField (cmdBody c) 0 1) (h15 : k ≤ 15)
    (ho : onlyBytes (cmdBody c) [(0, 1), (8, 16)] = true) :
    exec (.ringSet c) s = .next (((s.writeRingBase k (BitVec.ofNat 64 (reqField (cmdBody c) 8 8))).writeRingCtl k
      (BitVec.ofNat 64 (reqField (cmdBody c) 16 8))).reply c 0 []) := by
  subst hk
  refine congrArg Host.Outcome.next (mailbox_ok h (if_neg ?_))
  simp [h15, ho]

/-- A ring with the key that a command has established. -/
def keyed (s : State) (c : MboxCmd) (k : Nat) : Ring :=
  { s.ring k with key := (List.range 32).map (Config.kemSecret ((cmdBody c).drop 8) s.freeCount), stuck := none }

theorem keyed_key_length (s : State) (c : MboxCmd) (k : Nat) : (keyed s c k).key.length = 32 := by
  rw [keyed, List.length_map, List.length_range]

section
variable (h : s.Accepts c 0x41) {k : Nat} (hk : k = reqField (cmdBody c) 0 1) (h15 : k ≤ 15)
  (ho : onlyBytes ((cmdBody c).take 8) [(0, 1)] = true)
include h hk h15 ho

theorem ringKey_keys (hr : (s.ring k).ctl.getLsbD 63 = false) : exec (.ringKey c) s =
    .next (State.reply { s.setRing k (keyed s c k) with freeCount := s.freeCount + 1 } c 0
      ((List.range 1568).map (Config.kemCipher ((cmdBody c).drop 8) s.freeCount))) := by
  subst hk
  refine congrArg Host.Outcome.next (mailbox_ok h ((if_neg ?_).trans (if_neg ?_)))
  · simp [h15, ho]
  · simp only [hr, Bool.false_eq_true, not_false_iff]

theorem ringKey_enabled (hr : (s.ring k).ctl.getLsbD 63 = true) : exec (.ringKey c) s = .next (s.reply c 7 []) := by
  subst hk
  refine congrArg Host.Outcome.next (mailbox_refused h ((if_neg ?_).trans (if_pos hr)) (by decide))
  simp [h15, ho]

end

theorem ring_setRing {k : Nat} (h : k ≤ 15) (r : Ring) : (s.setRing k r).ring k = r := by
  have hk : k < 16 := by omega
  simp [State.ring, State.setRing, hk]

end

/-- Settles O46: each command by what its action answers. -/
theorem mailboxCommands : Obligations.MailboxCommands := by
  unfold Obligations.MailboxCommands
  intro s c
  refine ⟨fun hb hu hs hl => badCmd_replies hb hu hs hl, fun q st r h => reply_stat s q r h, fun hb hc hs => attest_early hb hc hs,
    fun h => attest_reports h, fun h w t hw ht h0 h1 h2 ho hn => worldCreate_creates h hw ht h0 h1 h2 ho hn,
    fun h w t hw ht hx => worldCreate_refused h hw ht hx, fun h w b l hr hw hp => worldGrant_grants hr h hw hp,
    fun h w b l hr hw hp => worldRevoke_revokes hr h hw hp, fun h w b l hr hw => worldRevoke_absent hr h hw,
    fun h w hw h0 hx hc hg => worldDestroy_destroys h hw h0 hx hc hg, fun h w hw h0 hx hc => worldDestroy_used h hw h0 hx hc,
    fun h i hi h11 ho => partSet_sets h hi h11 ho, fun h p v w hp hv hw h3 h11 h63 ha ho hd hx hb hc => ?created,
    fun h x hx hs hr => ctxDestroy_frees h hx hs hr, fun h hx => ctxDestroy_absent h hx, fun h x hx hs => ctxPreempt_begins h hx hs,
    fun h x hx hs => ctxPreempt_notResident h hx hs, fun h k hk h15 ho => ringSet_sets h hk h15 ho,
    fun h k hk h15 ho hr => ⟨_, ringKey_keys h hk h15 ho hr, ?key, ?cipher, ?seq⟩,
    fun h k hk h15 ho hr => ringKey_enabled h hk h15 ho hr⟩
  case created =>
    exact ⟨_, _, ctxCreate_creates h hp hv hw h3 h11 h63 ha ho hd hx hb hc, congrArg (· ++ _) hc, rfl, rfl, rfl, rfl, rfl, rfl, rfl,
      rfl, rfl⟩
  case key => exact (congrArg (fun r => r.key.length) (ring_setRing (s := s) h15 (keyed s c k))).trans (keyed_key_length s c k)
  case cipher => simp [State.reply]
  case seq => exact (congrArg Ring.seq (ring_setRing (s := s) h15 (keyed s c k))).trans rfl

end Sys2Proof.Proofs.Mailbox

/-!
# Links and the host

What a link does with a flit, an event of its own and a packet, by the branch of the event in which it ends; then what the host's
snoops and requests leave of memory, of the caches and of its port.
-/

namespace Sys2Proof.Proofs.LinksHost

open Sys2Proof Sys2Proof.Machine Sys2Proof.Proofs.Translation Sys2Proof.Laws.Mem

/-! ## Links that fail, and those that do not (21 R374) -/

section
variable {s : State} {k l : Link}

theorem judgeLink_good (h : s.linkBad l = false) : s.judgeLink l = s.setLink l :=
  if_neg (by rw [h]; exact Bool.false_ne_true)

theorem judgeLink_bad (h : s.linkBad l = true) : s.judgeLink l = s.failLink l := if_pos h

/-- What a link that is up and not bad is below. -/
theorem linkBad_iff (hu : k.up = true) : s.linkBad k = true ↔
    8 ≤ k.replays ∨ 3 ≤ k.tagBad ∨ (k.retry ≠ [] ∧ k.ackAt + 8000 < s.pace) := by
  simp [State.linkBad, hu, or_assoc]

/-- A change that leaves what waits for an acknowledgement, and fewer than three bad tags, does not make a link bad. -/
theorem linkBad_of_same (hb : s.linkBad k = false) (hl : l.up = k.up) (hr : l.replays = k.replays) (ht : l.tagBad < 3)
    (hq : l.retry = k.retry) (ha : l.ackAt = k.ackAt) : s.linkBad l = false := by
  have h3 : ¬ 3 ≤ l.tagBad := by omega
  unfold State.linkBad at hb ⊢
  rw [hl, hr, hq, ha]
  simp only [h3, decide_false, Bool.or_false]
  cases hu : k.up
  · rfl
  · rw [hu] at hb
    simp only [Bool.true_and, Bool.or_eq_false_iff] at hb ⊢
    exact ⟨hb.1.1, hb.2⟩

end

/-! ## Flits (21 R372, R373) -/

/-- A flit that acknowledges nothing new and asks for no replay. -/
theorem acknowledged_nothing {k : Link} {f : Flit} {pace : Nat} (ha : f.ack = k.acked) (hn : f.nak = none) :
    k.acknowledged f pace = { k with tagBad := 0, flits := k.flits + 1 } := by
  have hz : (f.ack + 1024 - k.acked) % 1024 = 0 := by omega
  simp only [Link.acknowledged, hz, hn, Nat.lt_irrefl, false_and, if_false]

section
variable {s : State} {p n : Nat} {f : Flit} {k : Link} (hk : s.link? p n = some k)
include hk

theorem flitReceive_down (hu : k.up = false) : exec (.flitReceive p n f) s = .next s := by
  change execFlitReceive p n f s = _
  simp only [execFlitReceive, hk, hu, Bool.not_false, if_true]

variable (hu : k.up = true)
include hu

theorem flitReceive_badCrc (hc : f.crcOk = false) : exec (.flitReceive p n f) s = .next (s.setLink { k with nak := some k.rxSeq }) := by
  change execFlitReceive p n f s = _
  simp only [execFlitReceive, hk, hu, hc, Bool.not_true, Bool.not_false, Bool.false_eq_true, if_true, if_false]

variable (hc : f.crcOk = true)
include hc

theorem flitReceive_badTag (ht : f.tagOk = false) : exec (.flitReceive p n f) s =
    .next (s.judgeLink { k with tagBad := k.tagBad + 1, nak := some k.rxSeq }) := by
  change execFlitReceive p n f s = _
  simp only [execFlitReceive, hk, hu, hc, ht, Bool.not_true, Bool.not_false, Bool.false_eq_true, if_true, if_false]

theorem flitReceive_badTag_again (ht : f.tagOk = false) (h2 : k.tagBad < 2) (hb : s.linkBad k = false) : exec (.flitReceive p n f) s =
    .next (s.setLink { k with tagBad := k.tagBad + 1, nak := some k.rxSeq }) := by
  have hg : s.linkBad { k with tagBad := k.tagBad + 1, nak := some k.rxSeq } = false :=
    linkBad_of_same hb rfl rfl (Nat.succ_lt_succ h2) rfl rfl
  rw [flitReceive_badTag hk hu hc ht, judgeLink_good hg]

theorem flitReceive_badTag_third (ht : f.tagOk = false) (h2 : k.tagBad = 2) : exec (.flitReceive p n f) s =
    .next (s.failLink { k with tagBad := 3, nak := some k.rxSeq }) := by
  have h3 : s.linkBad { k with tagBad := 3, nak := some k.rxSeq } = true :=
    (linkBad_iff (k := { k with tagBad := 3, nak := some k.rxSeq }) hu).mpr (.inr (.inl (Nat.le_refl 3)))
  rw [flitReceive_badTag hk hu hc ht, h2, judgeLink_bad h3]

variable (ht : f.tagOk = true) (ha : f.ack = k.acked) (hn : f.nak = none) (hb : s.linkBad k = false)
include ht ha hn hb

theorem flitReceive_good : exec (.flitReceive p n f) s = .next (State.drainPort
    (if (f.seq + 1024 - k.rxSeq) % 1024 = 0 then
      (f.packets.filter (fun q => q.chan == f.chan)).foldl (fun (s : State) q => s.takePacket p q)
        (s.setLink { k with tagBad := 0, flits := k.flits + 1, rxSeq := (k.rxSeq + 1) % 1024, nak := none })
    else s.setLink (if (f.seq + 1024 - k.rxSeq) % 1024 < 512 then
      { k with tagBad := 0, flits := k.flits + 1, nak := some k.rxSeq } else { k with tagBad := 0, flits := k.flits + 1 })) p) := by
  have hg : s.linkBad { k with tagBad := 0, flits := k.flits + 1 } = false := linkBad_of_same hb rfl rfl (Nat.zero_lt_succ 2) rfl rfl
  change execFlitReceive p n f s = _
  simp only [execFlitReceive, retryMax, hk, hc, ht, acknowledged_nothing ha hn, hg, Bool.not_true, Bool.false_eq_true, if_false]
  rw [if_neg (by simp [hu])]

theorem flitReceive_next (hq : f.seq = k.rxSeq) (hp : f.packets = []) : exec (.flitReceive p n f) s = .next
    ((s.setLink { k with tagBad := 0, flits := k.flits + 1, rxSeq := (k.rxSeq + 1) % 1024, nak := none }).drainPort p) := by
  rw [flitReceive_good hk hu hc ht ha hn hb, if_pos (by omega), hp]
  rfl

theorem flitReceive_ahead (h0 : 0 < (f.seq + 1024 - k.rxSeq) % 1024) (h5 : (f.seq + 1024 - k.rxSeq) % 1024 < 512) :
    exec (.flitReceive p n f) s = .next ((s.setLink { k with tagBad := 0, flits := k.flits + 1, nak := some k.rxSeq }).drainPort p) := by
  rw [flitReceive_good hk hu hc ht ha hn hb, if_neg (Nat.ne_of_gt h0), if_pos h5]

theorem flitReceive_before (h5 : 512 ≤ (f.seq + 1024 - k.rxSeq) % 1024) :
    exec (.flitReceive p n f) s = .next ((s.setLink { k with tagBad := 0, flits := k.flits + 1 }).drainPort p) := by
  rw [flitReceive_good hk hu hc ht ha hn hb, if_neg (by omega), if_neg (Nat.not_lt.mpr h5)]

end

section
variable (k : Link) {f : Flit}

theorem acknowledged_frees {now m : Nat} (hn : f.nak = none) (hm : (f.ack + 1024 - k.acked) % 1024 = m) (h0 : 0 < m)
    (hl : m ≤ k.retry.length) : k.acknowledged f now =
    { k with acked := f.ack, retry := k.retry.drop m, ackAt := now, replays := 0, tagBad := 0, flits := k.flits + 1 } := by
  simp only [Link.acknowledged, hm, hn, h0, hl, and_self, if_true]

theorem replay_found {m j : Nat} (h : k.retry.findIdx? (fun x => x.flit.seq == m) = some j) :
    (k.replay m).retry.map SentFlit.flit = k.retry.map SentFlit.flit ∧ (k.replay m).txFlits = k.txFlits + (k.retry.length - j) ∧
      (k.replay m).replays = (if k.again = m then k.replays + 1 else 1) := by
  simp only [Link.replay, h, and_true, List.length_map, List.length_zipIdx, List.length_drop]
  have renonced : ∀ l : List SentFlit, (l.zipIdx.map fun x => { x.1 with nonce := k.txSession * 2 ^ 64 + k.txFlits + x.2 }).map SentFlit.flit =
      l.map SentFlit.flit := by
    intro l
    rw [List.map_map]
    calc _ = (l.zipIdx.map Prod.fst).map SentFlit.flit := (List.map_map ..).symm
      _ = _ := by rw [List.zipIdx_map_fst]
  rw [List.map_append, renonced, ← List.map_append, List.take_append_drop]

theorem send_kept (now : Nat) (q : Packet) : (k.send now q).retry.length = k.retry.length + 1 ∧ (k.send now q).txSeq = (k.txSeq + 1) % 1024 ∧
    (k.send now q).retry.getLast? = some ⟨⟨k.txSeq, k.rxSeq, q.chan, now % 2 ^ 40, k.nak, true, true, [q]⟩, k.txSession * 2 ^ 64 + k.txFlits⟩ :=
  ⟨List.length_append, rfl, List.getLast?_concat⟩

end

/-! ## Packets (21 R372, R374) -/

theorem sendPacket_noLink {s : State} {port : Nat} (ch : Nat) (h : s.upLinks port = []) : s.sendPacket port ch = s := by
  simp only [State.sendPacket, h, List.isEmpty_nil, if_true]

/-- The packet that is next is released, and nothing behind it. -/
theorem releasePackets_next (q : Packet) : releasePackets 1 q.seq [q] [] = ((q.seq + 1) % 65536, [], [q]) := by
  simp [releasePackets]

theorem takePacket_next {s : State} {p : Nat} {q : Packet} {r : PortRx}
    (hr : s.ports.find? (fun x => x.port == p && x.chan == q.chan) = some r) (hn : r.next = q.seq) (hh : r.held = []) :
    s.takePacket p q = { s with
      ports := ⟨p, q.chan, (q.seq + 1) % 65536, []⟩ :: s.ports.filter (fun (x : PortRx) => !(x.port == p && x.chan == q.chan))
      inbox := s.inbox ++ [q] } := by
  have hz : (q.seq + 65536 - q.seq) % 65536 = 0 := by omega
  simp only [State.takePacket, hr, Option.getD_some, hn, hh, hz, List.any_nil, Bool.or_false, List.length_nil, List.nil_append,
    Nat.zero_add, releasePackets_next]
  rfl

theorem takePacket_delivers {s : State} {p : Nat} {q : Packet} {r : PortRx}
    (hr : s.ports.find? (fun x => x.port == p && x.chan == q.chan) = some r) (hn : r.next = q.seq) (hh : r.held = []) :
    ∃ t, s.takePacket p q = t ∧ t.inbox = s.inbox ++ [q] ∧
      t.ports.find? (fun x => x.port == p && x.chan == q.chan) = some ⟨p, q.chan, (q.seq + 1) % 65536, []⟩ := by
  refine ⟨_, takePacket_next hr hn hh, rfl, ?_⟩
  exact List.find?_cons_of_pos (by simp)

/-! ## Events of a link (21 R373, R374, R377) -/

section
variable {s : State} {p n : Nat} {k : Link} (hk : s.link? p n = some k)
include hk

section
variable (hu : k.up = true)
include hu

theorem laneSpare_idle (hs : k.spare = false) (hr : k.retry = []) (hb : s.linkBad k = false) : exec (.laneSpare p n) s =
    .next (s.setLink { k with spare := true }) := by
  have hh : k.retry.head? = none := List.head?_eq_none_iff.mpr hr
  change execLaneSpare p n s = _
  simp only [execLaneSpare, hk, hs, hh, Bool.false_eq_true, if_false]
  rw [if_neg (by simp [hu])]
  exact congrArg Host.Outcome.next (judgeLink_good (l := { k with spare := true }) hb)

theorem laneSpare_replays {x : SentFlit} {r : List SentFlit} (hs : k.spare = false) (hr : k.retry = x :: r) :
    exec (.laneSpare p n) s = .next (s.judgeLink (Link.replay { k with spare := true } x.flit.seq)) := by
  have hh : k.retry.head? = some x := by rw [hr, List.head?_cons]
  change execLaneSpare p n s = _
  simp only [execLaneSpare, hk, hs, hh, Bool.false_eq_true, if_false]
  rw [if_neg (by simp [hu])]

theorem laneSpare_inUse (hs : k.spare = true) : exec (.laneSpare p n) s = .next (s.failLink k) := by
  change execLaneSpare p n s = _
  simp only [execLaneSpare, hk, hu, hs, Bool.not_true, Bool.false_eq_true, if_false, if_true]

theorem linkFail_bad (h : k.spare = true ∨ 8 ≤ k.replays ∨ 3 ≤ k.tagBad ∨ (k.retry ≠ [] ∧ k.ackAt + 8000 < s.pace)) :
    exec (.linkFail p n) s = .next (s.failLink k) := by
  have hc : (k.spare || s.linkBad k) = true := Bool.or_eq_true_iff.mpr (h.imp_right (linkBad_iff hu).mpr)
  change execLinkFail p n s = _
  simp only [execLinkFail, hk, hu, hc, Bool.and_self, if_true]

theorem sessionRekey_received (hf : 2 ^ 40 ≤ k.flits) (ht : k.txFlits < 2 ^ 40) : exec (.sessionRekey p n) s =
    .next (s.setLink { k with session := k.session + 1, flits := 0 }) := by
  change execSessionRekey p n s = _
  simp only [execSessionRekey, hk, Link.stale, Link.rekey, hu, hf, Nat.not_le.mpr ht, decide_true, Bool.true_or, Bool.and_self, if_true, if_false]

theorem sessionRekey_sent (hf : k.flits < 2 ^ 40) (ht : 2 ^ 40 ≤ k.txFlits) : exec (.sessionRekey p n) s =
    .next (s.setLink { k with txSession := k.txSession + 1, txFlits := 0 }) := by
  change execSessionRekey p n s = _
  simp only [execSessionRekey, hk, Link.stale, Link.rekey, hu, ht, Nat.not_le.mpr hf, decide_true, Bool.or_true, Bool.and_self, if_true, if_false]

end

theorem linkFail_good (hs : k.spare = false) (hb : s.linkBad k = false) : exec (.linkFail p n) s = .next s := by
  change execLinkFail p n s = _
  simp only [execLinkFail, hk, hs, hb, Bool.or_self, Bool.and_false, Bool.false_eq_true, if_false]

theorem sessionRekey_notDue (hf : k.flits < 2 ^ 40) (ht : k.txFlits < 2 ^ 40) : exec (.sessionRekey p n) s = .next s := by
  change execSessionRekey p n s = _
  simp only [execSessionRekey, hk, Link.stale, Nat.not_le.mpr ht, Nat.not_le.mpr hf, decide_false, Bool.or_self, Bool.and_false,
    Bool.false_eq_true, if_false]

end

section
variable {s : State} {p n : Nat} (a : Bool)

theorem linkUp_fresh (hp : p < 16) (hn : n < 4) (hb : s.pkg.boot = 2) (ht : s.pkg.tray < 2) (hd : s.pkg.dieOff.getLsbD (p / 4) = false)
    (hk : s.link? p n = none) : exec (.linkUp p n a) s =
    .next (s.setLink ⟨p, n, a, false, 0, 0, 0, [], s.pace, 0, 0, 1, 0, 1, 0, 0, none, !a⟩) := by
  have hc : ¬ (16 ≤ p ∨ 4 ≤ n ∨ s.pkg.boot ≠ 2 ∨ 2 ≤ s.pkg.tray ∨ s.pkg.dieOff.getLsbD (p / 4) = true) := by
    rw [hd]
    rintro (h | h | h | h | h)
    · omega
    · omega
    · exact h hb
    · omega
    · cases h
  change execLinkUp p n a s = _
  rw [execLinkUp, if_neg hc, hk]
  rfl

theorem linkUp_refused (h : 16 ≤ p ∨ 4 ≤ n ∨ s.pkg.boot ≠ 2 ∨ 2 ≤ s.pkg.tray) : exec (.linkUp p n a) s = .next s :=
  congrArg Host.Outcome.next (if_pos (h.imp_right (Or.imp_right (Or.imp_right .inl))))

end

/-! ## What the caches change (13 R220, R227) -/

/-- A state without what the reads of lines and the caches below the cores change: what DRAM and its sums record, the tags, and the
counters of the contexts. -/
def outsideCaches (s : State) : State := { s with ctxs := [], lines := [], integ := [], tags := [] }

section
variable (s : State)

theorem putDram_outside (h a : Nat) (old : List Byte) : outsideCaches (s.putDram h a old) = outsideCaches s := by
  unfold State.putDram
  split <;> rfl

theorem dramRead_outside (h a : Nat) : outsideCaches (s.dramRead h a) = outsideCaches s := by
  unfold State.dramRead
  split <;> rfl

theorem writeBack_outside (t : TagLine) : outsideCaches (s.writeBack t) = outsideCaches s := by
  unfold State.writeBack
  split
  · rfl
  · dsimp only
    split <;> exact putDram_outside s _ _ _

theorem evictTag_outside (t : TagLine) : outsideCaches (s.evictTag t) = outsideCaches s := writeBack_outside s t

theorem evictFor_outside (c : Nat) (t : TagLine) : outsideCaches (s.evictFor c t) = outsideCaches s := by
  unfold State.evictFor
  split <;> exact evictTag_outside _ t

theorem limitTags_outside (p l : Nat) : outsideCaches (s.limitTags p l) = outsideCaches s := by
  unfold State.limitTags
  dsimp only
  split
  · rfl
  · split <;> rfl

theorem touchTag_outside (p h a w c k : Nat) : outsideCaches (s.touchTag p h a w c k) = outsideCaches s := by
  have others := foldl_keeps (g := outsideCaches) (fun u t => evictFor_outside u c t)
    (s.tags.filter (fun t => sameCache t.place p && t.line == lineBase a && (t.place != p || t.holder != h))) s
  unfold State.touchTag
  dsimp only
  split
  case isTrue => exact (limitTags_outside _ _ _).trans others
  case isFalse =>
    split
    case isTrue => exact others
    case isFalse =>
      refine (limitTags_outside _ _ _).trans ?_
      split
      case isTrue => exact others
      case isFalse =>
        split
        · exact (evictFor_outside _ _ _).trans others
        · exact others

theorem ctlRead_outside (h a c k : Nat) : outsideCaches (s.ctlRead h a c k) = outsideCaches s := by
  have read : outsideCaches (if s.mscHit h a then s else s.dramRead h a) = outsideCaches s := by
    split
    · rfl
    · exact dramRead_outside s h a
  unfold State.ctlRead
  dsimp only
  split
  · split
    · exact (touchTag_outside _ _ _ _ _ _ _).trans read
    · exact read
  · exact read

theorem unitRead_outside (h a : Nat) : outsideCaches (s.unitRead h a) = outsideCaches s := by
  unfold State.unitRead State.unitReadAs
  split
  · exact ctlRead_outside s _ _ _ _
  · split
    · exact touchTag_outside s _ _ _ _ _ _
    · exact ctlRead_outside s _ _ _ _

theorem unitRead_host (h a : Nat) : (s.unitRead h a).host = s.host := (congrArg State.host (unitRead_outside s h a) :)

theorem dropL2_outside (place line : Nat) : outsideCaches (s.dropL2 place line) = outsideCaches s := by
  unfold State.dropL2
  split
  · exact evictTag_outside s _
  · rfl

theorem dropL2_l1 (place line : Nat) : (s.dropL2 place line).l1 = s.l1 := (congrArg State.l1 (dropL2_outside s place line) :)

end

/-! ## Copies that a write invalidates (13 R222) -/

/-- By what a unit's write finds its line, and whom it tells: the routes, the holders of leased copies, the package, and the worlds. -/
structure Lookup where
  routes : List RtEntry
  sharers : List Sharer
  pkg : Pkg
  granted : List (Nat × Nat)
  worlds : List World

/-- These parts of a state. -/
def lookupOf (s : State) : Lookup := ⟨s.routes, s.sharers, s.pkg, s.granted, s.worlds⟩

section
variable {s : State} {line : Nat}

theorem dropL2_lookup (s : State) (place line : Nat) : lookupOf (s.dropL2 place line) = lookupOf s :=
  (congrArg lookupOf (dropL2_outside s place line) :)

theorem dropOne_lookup (s : State) (line c : Nat) : lookupOf (s.dropOne line c) = lookupOf s := by
  unfold State.dropOne
  split
  · exact dropL2_lookup s _ line
  · rfl

theorem voidLine_lookup (s : State) (prim line : Nat) : lookupOf (s.voidLine prim line) = lookupOf s :=
  foldl_keeps (fun s c => dropOne_lookup s line c) _ s

theorem mem_of_dropOne {l : L1Line} {c : Nat} (h : l ∈ (s.dropOne line c).l1) : l ∈ s.l1 := by
  unfold State.dropOne at h
  split at h
  · rwa [dropL2_l1] at h
  · exact Reductions.mem_of_dropL1 h

/-- Of a line whose copies are gone the cores hold none but constant ones. -/
theorem const_of_mem_voidLine {prim : Nat} {l : L1Line} (h : l ∈ (s.voidLine prim line).l1) (hf : l.fline = line) (hn : l.core < 144) :
    l.const = true := by
  by_contra hc
  rw [Bool.not_eq_true] at hc
  have before : l ∈ s.l1 := Reductions.mem_of_foldl (fun _ _ => mem_of_dropOne) h
  obtain ⟨u, -, after⟩ := Reductions.mem_of_foldl_step (p := fun _ => True) (fun _ _ => mem_of_dropOne) (fun _ _ _ => trivial)
    (Writes.mem_copiesOf_core before hf hc hn) trivial h
  rw [State.dropOne, if_neg (by omega)] at after
  rw [Writes.const_of_mem_dropL1 after rfl hf] at hc
  cases hc

end

/-! ## The host's requests (21 R371) -/

section
variable {s t : State} {a k : Nat} {q : HostReq}

theorem heir_withHost (s : State) (p : HostPort) (a n h : Nat) : State.heir { s with host := p } a n h = s.heir a n h := by
  induction n generalizing h with
  | zero => rfl
  | succ n ih =>
    have hs : State.holderState { s with host := p } h a = s.holderState h a := rfl
    simp only [State.heir, hs, ih]
    rfl

theorem homeFrom_withHost (s : State) (p : HostPort) (r a n : Nat) (gone : List Nat) :
    State.homeFrom { s with host := p } r a n gone = s.homeFrom r a n gone := by
  induction n generalizing gone with
  | zero => rfl
  | succ n ih =>
    have hr : State.routeWrite { s with host := p } r a gone = s.routeWrite r a gone := rfl
    simp only [State.homeFrom, hr, heir_withHost, ih]

/-- A line's primary does not depend on the host's port. -/
theorem home_withHost (s : State) (p : HostPort) (a : Nat) : State.home { s with host := p } a = s.home a :=
  homeFrom_withHost s p _ a 16 []

theorem hostMemRequest_down (h : s.hostUp = false) : exec (.hostMemRequest q) s = .next s :=
  congrArg Host.Outcome.next (if_pos (by rw [h]; rfl))

/-- The only request of the host, where its line waits for nothing. -/
theorem hostMemRequest_served (hu : s.hostUp = true) (hw : s.host.waiting = [])
    (h : State.serveHost { s with host := { s.host with waiting := [q] } } q = some t) :
    exec (.hostMemRequest q) s = .next { t with host := { t.host with waiting := [] } } := by
  change execHostMemRequest q s = _
  simp only [execHostMemRequest, hu, hw, Bool.not_true, Bool.false_eq_true, if_false, List.nil_append, State.tryHost, h]

theorem hostRead_noRoute (hu : s.hostUp = true) (hw : s.host.waiting = []) (hh : s.home a = none) :
    exec (.hostMemRequest (.read a k)) s =
      .next { s with host := ⟨[], List.replicate (min k (64 - a % 64)) 255, true, s.host.snoops, s.host.seen⟩ } := by
  refine hostMemRequest_served hu hw (t := { s with host :=
    ⟨[.read a k], List.replicate (min k (64 - a % 64)) 255, true, s.host.snoops, s.host.seen⟩ }) ?_
  simp only [State.serveHost, home_withHost, hh]

/-- What a read of the host leaves where it meets no object. -/
theorem serveHost_read {h : RtHolder} (hh : s.home a = some h) (ho : s.worldOk h.holder a 0 = true)
    (hp : (s.lineAt h.holder a).poison = false) (hl : s.lineWaits h.holder a = false) (hn : s.objs = []) :
    s.serveHost (.read a k) = some { s.unitRead h.holder a with host :=
      { (s.unitRead h.holder a).host with answer := s.bytesAt h.holder a (min k (64 - a % 64)), poison := false } } := by
  have hb : (!s.worldOk h.holder a 0 || (s.lineAt h.holder a).poison) = false := by rw [ho, hp]; rfl
  have hf : s.objOfFa a = none := by rw [State.objOfFa, hn]; rfl
  simp only [State.serveHost, hh, hb, hl, hf, Bool.false_eq_true, if_false]

theorem hostRead_answered {h : RtHolder} (hu : s.hostUp = true) (hw : s.host.waiting = []) (hh : s.home a = some h)
    (ho : s.worldOk h.holder a 0 = true) (hp : (s.lineAt h.holder a).poison = false) (hl : s.lineWaits h.holder a = false)
    (hn : s.objs = []) : ∃ t, exec (.hostMemRequest (.read a k)) s = .next t ∧
      t.host = ⟨[], s.bytesAt h.holder a (min k (64 - a % 64)), false, s.host.snoops, s.host.seen⟩ ∧ t.mem = s.mem := by
  refine ⟨_, hostMemRequest_served hu hw (serveHost_read (h := h) ((home_withHost s _ a).trans hh) ho hp hl hn), ?_, ?_⟩
  · simp only [unitRead_host]
    rfl
  · exact unitRead_mem _ _ _

end

/-! ## The host's snoops (21 R370) -/

section
variable {s u : State} {a : Nat} {b : Option (List Byte)}

/-- The only snoop of the host is tried. -/
theorem hostSnoop_only (hu : s.hostUp = true) (hn : s.host.snoops = []) : exec (.hostSnoop a b) s =
    .next (if s.lineWaits (s.localId 0) (lineBase a) then { s with host := { s.host with snoops := [(lineBase a, b)] } }
      else State.serveSnoop { s with host := { s.host with snoops := [] } } (lineBase a) b) := by
  change execHostSnoop a b s = _
  simp only [execHostSnoop, hu, hn, Bool.not_true, Bool.false_eq_true, if_false, List.nil_append, State.trySnoops, List.any_nil,
    Bool.or_false]
  rfl

theorem hostSnoop_served (hu : s.hostUp = true) (hn : s.host.snoops = []) (hw : s.lineWaits (s.localId 0) (lineBase a) = false) :
    exec (.hostSnoop a b) s = .next (s.serveSnoop (lineBase a) b) := by
  have same : { s with host := { s.host with snoops := [] } } = s := by rw [← hn]
  rw [hostSnoop_only hu hn, hw, same]
  rfl

theorem hostSnoop_kept (hu : s.hostUp = true) (hn : s.host.snoops = []) (hw : s.lineWaits (s.localId 0) (lineBase a) = true) :
    exec (.hostSnoop a b) s = .next { s with host := { s.host with snoops := [(lineBase a, b)] } } := by
  rw [hostSnoop_only hu hn, hw]
  rfl

theorem hostSnoop_down (h : s.hostUp = false) : exec (.hostSnoop a b) s = .next s :=
  congrArg Host.Outcome.next (if_pos (by rw [h]; rfl))

theorem lineBase_lineBase (a : Nat) : lineBase (lineBase a) = lineBase a := by
  unfold lineBase
  omega

theorem length_getN (m : Memory) (k n : Nat) : (m.getN k n).length = n := by
  induction n generalizing k with
  | zero => rfl
  | succ n ih => rw [Memory.getN, List.length_cons, ih]

/-- A whole line of world 0 is stored as the host has written it. -/
theorem hostBytes_plain {bs : List Byte} (ht : s.tagOf a = 0) (hw : ∀ x ∈ s.worlds, x.id ≠ 0) (hb : bs.length = 64) : s.hostBytes a bs = bs := by
  have noKey : s.worlds.find? (fun w => w.id == 0) = none := List.find?_eq_none.mpr fun x hx => by simpa using hw x hx
  have nothing : (s.bytesAt (s.localId 0) a 64).drop bs.length = [] := by
    rw [hb]
    exact List.drop_eq_nil_of_le (Nat.le_of_eq (length_getN _ _ _))
  simp only [State.hostBytes, ht, State.cipherOf, State.plainOf, noKey, nothing, List.append_nil]

theorem primRouter_host (s : State) : s.primRouter (s.localId 0) = s.localId 0 := if_pos (by unfold State.localId; omega)

theorem echoSet_none (hr : s.routeEntry (s.localId 0) a = none) : s.echoSet (s.localId 0) a = ([], ⟨0, 52⟩) := by
  simp only [State.echoSet, primRouter_host, hr]

theorem sharersOf_none {p : Nat} (hs : s.sharers = []) : s.sharersOf p a = [] := by
  rw [State.sharersOf, hs]
  rfl

/-- Where no other holder is listed, and none holds a leased copy, the bytes applied leave no echo. -/
theorem sendEchoes_none {id tree : Nat} {bs : List Byte} {own : Bool} (he : s.echoSet (s.localId 0) a = ([], ⟨0, 52⟩)) (hs : s.sharers = []) :
    s.sendEchoes id (s.localId 0) a bs tree own = (s, []) := by
  simp only [State.sendEchoes, he, sharersOf_none hs, ite_self]
  rfl

/-- A unit's write of a line that no other holder has. -/
theorem unitApply_alone {o : Origin} {w v p : Nat} {bs : List Byte} {act : Nat → State → State × List (Nat × Option Nat)}
    (hu : s.voidLine p (lineBase a) = u) (he : (u.echoSet p a).1 = []) (hs : u.sharers = []) : s.unitApply o w v p a bs act = (act 0 u).1 := by
  have alone : ((u.echoSet p a).1.isEmpty && (u.sharersOf p (lineBase a)).isEmpty) = true := by rw [he, sharersOf_none hs]; rfl
  simp only [State.unitApply, hu, alone, if_true]

theorem localId_of_lookup {v : State} (h : lookupOf v = lookupOf s) (i : Nat) : v.localId i = s.localId i := by
  have hp : v.pkg = s.pkg := congrArg Lookup.pkg h
  rw [State.localId, State.pkgNum, hp, State.localId, State.pkgNum]

theorem routeEntry_of_lookup {v : State} (h : lookupOf v = lookupOf s) (r a : Nat) : v.routeEntry r a = s.routeEntry r a := by
  have hr : v.routes = s.routes := congrArg Lookup.routes h
  rw [State.routeEntry, hr, State.routeEntry]

theorem tagOf_of_lookup {v : State} (h : lookupOf v = lookupOf s) (a : Nat) : v.tagOf a = s.tagOf a := by
  have hg : v.granted = s.granted := congrArg Lookup.granted h
  rw [State.tagOf, hg, State.tagOf]

/-- The host's write of a whole line of world 0 that no other holder has. -/
theorem serveSnoop_writes {bs : List Byte}
    (hu : ((s.voidLine (s.localId 0) (lineBase a)).dropL2 0 (lineBase a)).voidLine (s.localId 0) (lineBase a) = u)
    (hr : s.routeEntry (s.localId 0) (lineBase a) = none) (hs : s.sharers = []) (ht : s.tagOf (lineBase a) = 0)
    (hw : ∀ x ∈ s.worlds, x.id ≠ 0) (hb : bs.length = 64) :
    s.serveSnoop (lineBase a) (some bs) = State.setLine { u with mem := u.mem.putN (memKey (s.localId 0) (lineBase a)) bs }
      { State.lineAt { u with mem := u.mem.putN (memKey (s.localId 0) (lineBase a)) bs } (s.localId 0) (lineBase a) with
        wct := u.pace, last := 0 } := by
  generalize hv : (s.voidLine (s.localId 0) (lineBase a)).dropL2 0 (lineBase a) = v at hu
  have lv : lookupOf v = lookupOf s := hv ▸ (dropL2_lookup _ _ _).trans (voidLine_lookup s _ _)
  have lu : lookupOf u = lookupOf s := hu ▸ (voidLine_lookup v _ _).trans lv
  have worlds : v.worlds = s.worlds := congrArg Lookup.worlds lv
  have stored : v.hostBytes (lineBase a) (bs.take 64) = bs := by
    rw [List.take_of_length_le (Nat.le_of_eq hb)]
    exact hostBytes_plain ((tagOf_of_lookup lv _).trans ht) (by rwa [worlds]) hb
  have alone : u.echoSet (s.localId 0) (lineBase a) = ([], ⟨0, 52⟩) := by
    rw [← localId_of_lookup lu 0]
    exact echoSet_none ((routeEntry_of_lookup lu _ _).trans ((localId_of_lookup lu 0).symm ▸ hr))
  have unshared : u.sharers = [] := (congrArg Lookup.sharers lu : u.sharers = s.sharers).trans hs
  have silent : ∀ (x : LineMeta) (m : Memory), State.sendEchoes (State.setLine { u with mem := m } x) 0 (s.localId 0) (lineBase a) bs 0 false =
      (State.setLine { u with mem := m } x, []) := by
    intro x m
    rw [← localId_of_lookup lu 0] at alone ⊢
    exact sendEchoes_none alone unshared
  simp only [State.serveSnoop, hv, stored]
  rw [unitApply_alone (u := u) (by rwa [lineBase_lineBase]) (congrArg Prod.fst alone) unshared]
  exact congrArg Prod.fst (silent _ _)

theorem serveSnoop_write {bs : List Byte}
    (hu : ((s.voidLine (s.localId 0) (lineBase a)).dropL2 0 (lineBase a)).voidLine (s.localId 0) (lineBase a) = u)
    (hr : s.routeEntry (s.localId 0) (lineBase a) = none) (hs : s.sharers = []) (ht : s.tagOf (lineBase a) = 0)
    (hw : ∀ x ∈ s.worlds, x.id ≠ 0) (hb : bs.length = 64) :
    ∃ t, s.serveSnoop (lineBase a) (some bs) = t ∧ t.mem = u.mem.putN (memKey (s.localId 0) (lineBase a)) bs ∧
      ∀ x ∈ t.l1, x.fline = lineBase a → x.core < 144 → x.const = true := by
  refine ⟨_, serveSnoop_writes hu hr hs ht hw hb, rfl, fun x hx hf hn => ?_⟩
  have left : x ∈ u.l1 := hx
  rw [← hu] at left
  exact const_of_mem_voidLine left hf hn

end

/-! ## The statement -/

/-- Settles O45: an event of a link ends in the branch that the link and the flit name; what a snoop of the host writes is the line as it
is given, in a memory whose caches have lost it, for the folds that take copies away keep the routes and the worlds; a read of the host
keeps all but the caches and the host's port. -/
theorem linksAndHost : Obligations.LinksAndHost := by
  unfold Obligations.LinksAndHost
  intro s p n f
  refine ⟨fun k => flitReceive_down, fun k => flitReceive_badCrc, fun k => flitReceive_badTag_again, fun k => flitReceive_badTag_third, ?_, ?_,
    ?_, fun k now m => acknowledged_frees k, fun k m j => replay_found k, fun k now q => send_kept k now q, fun port ch => sendPacket_noLink ch,
    fun q r hr hn _ hh => takePacket_delivers hr hn hh, fun k => laneSpare_idle, fun k x r hk hu => laneSpare_replays hk hu, fun k => laneSpare_inUse,
    fun k => linkFail_bad, fun k hk _ => linkFail_good hk, fun a => linkUp_fresh a, fun a => linkUp_refused a, fun k => sessionRekey_received,
    fun k => sessionRekey_sent, fun k => sessionRekey_notDue, fun a b => hostSnoop_served, ?_, fun a bs u => serveSnoop_write,
    fun a b => hostSnoop_kept, fun a b q h => ⟨hostSnoop_down h, hostMemRequest_down h⟩, fun a k => hostRead_noRoute, fun a k h => hostRead_answered⟩
  case refine_1 => exact fun k hk hu hc ht ha _ hn hq hp hb => flitReceive_next hk hu hc ht ha hn hb hq hp
  case refine_2 => exact fun k hk hu hc ht ha _ hn h0 h5 hb => flitReceive_ahead hk hu hc ht ha hn hb h0 h5
  case refine_3 => exact fun k hk hu hc ht ha _ hn h5 hb => flitReceive_before hk hu hc ht ha hn hb h5
  case refine_4 =>
    rintro a u rfl
    rfl

end Sys2Proof.Proofs.LinksHost
